-- ==== Sys2Proof/Word.lean ====
section
/-! DEFINITION. The word types of the ZN32 and their plainest arithmetic (R5: little-endian, bit 0 least significant). -/

namespace Sys2Proof

/-- One byte. -/
abbrev Byte := BitVec 8
/-- A 16-bit field. -/
abbrev W16 := BitVec 16
/-- A 32-bit register or field (every register of the block is 32 bits wide). -/
abbrev W32 := BitVec 32
/-- A 64-bit field. -/
abbrev W64 := BitVec 64

/-- A PCI Express function: 0 is PF0, n + 1 is VF n + 1, which serves PVn (R270). -/
abbrev Fn := Fin 13
/-- A pavilion PV0 to PV11. -/
abbrev Pv := Fin 12
/-- A quadrant Q0 to Q3 (R11). -/
abbrev Quad := Fin 4
/-- A frame, named by its HFN (R37). -/
abbrev Frame := Nat

/-- The function that serves a pavilion (R270). -/
def Pv.fn (p : Pv) : Fn := p.succ

/-- The pavilion a function serves: none for PF0 (R270). -/
def Fn.pv? (f : Fn) : Option Pv := if h : f = 0 then none else some (f.pred h)

end Sys2Proof
end

