-- ==== Sys2Proof/Syntax.lean ====
section
/-! DEFINITION. The commands of the ZN32: the operand records, and one constructor of `Instr` per row of the table. -/

namespace Sys2Proof

/-- An image slot of the QSPI NOR or a copy to stage: its bytes, and whether SIG verifies under FIPS 204 (R403; log 11). -/
structure Image where
  data : List Byte
  sigOk : Bool
  deriving DecidableEq, Repr

/-- A boot record (R406): the slot to try first (false A, true B) and TRIES. -/
structure BootRec where
  pref : Bool
  tries : Nat
  deriving DecidableEq, Repr

/-- The contents of the QSPI NOR (R487). -/
structure Qspi where
  lodgeA : Image
  lodgeB : Image
  groundsA : Image
  groundsB : Image
  lodgeRec : BootRec
  groundsRec : BootRec
  deriving DecidableEq, Repr

/-- The fuses (R399, R403, R404, R411), and the identity that R408 fixes for the life of the part. -/
structure Fuses where
  /-- Fused life-cycle state code (R411). -/
  lc : Nat
  lodgeCount : Nat
  groundsCount : Nat
  serial : List Byte
  uds : Bool
  lodgeKeyHash : List Byte
  groundsKeyHash : List Byte
  authKeyHash : List Byte
  /-- Public key of the device identity key and its certificate chain (R408, R420). -/
  idKey : List Byte
  idChain : List Byte
  deriving DecidableEq, Repr

/-- The self-test's findings for a search die (R20): healthy engines and arrays, and the parts that must pass. -/
structure DieTest where
  engines : List Bool
  arrays : List Bool
  sramOk : Bool
  eccOk : Bool
  deriving DecidableEq, Repr

/-- What a boot finds (R405): the step that never finishes, an external programmer's write while `PERST_N` was low (R487),
the self-test's findings, and whether the NAND dies match one profile (R233). -/
structure BootIn where
  stall : Option Nat
  prog : Option Qspi
  dies : List DieTest
  /-- Promenade routers that fail, by unit index (R20). -/
  badRouters : List Nat
  /-- Link dies, storage dies and stacks in service (sts), by number. -/
  lds : List Nat
  scs : List Nat
  sts : List Nat
  /-- Governor coefficients in W per stack, as the Lodge measures them in boot step 2 (R90). -/
  govs : List (Nat × Nat × Nat)
  /-- E_act and E_col of each stack in fJ, by the stack's identity (R498). -/
  energies : List (Nat × Nat)
  straps : Byte
  deriving DecidableEq, Repr

/-- The part and its board at power-on (R457). -/
structure Board where
  fuses : Fuses
  qspi : Qspi
  straps : Byte
  deriving DecidableEq, Repr

/-- A regulator's answers to one poll (R486): none is a NACK. -/
structure RegRead where
  addr : Nat
  vals : Option (Nat × Nat × Nat × Nat)
  deriving DecidableEq, Repr

/-- A PLDM request of R485: the type it belongs to, the sensor it reads, and a threshold the bus owner sets. -/
structure PldmReq where
  type_ : Nat
  sensor : Nat
  setThreshold : Option Int
  deriving DecidableEq, Repr

/-- A PTP offset sample (R38, R40): PTP time of the sample, PTP time at which the frame in progress ends,
the servo's estimate of the offset after it, and the sample's distance from the servo's prediction, all in ns. -/
structure PtpIn where
  t : Nat
  endNs : Nat
  offset : Int
  dev : Int
  deriving DecidableEq, Repr

/-- An edge on PPS_IO (R40, R480): how long the pin was low before and high after the edge, the distance from the nearest
frame boundary whose HFN is a multiple of 50,000, and the servo's estimate of the offset after it, in ns. -/
structure PpsIn where
  lowNs : Nat
  highNs : Nat
  /-- For a level between the ignored and the recognised width: whether it was recognised. -/
  recognised : Bool
  dev : Int
  offset : Int
  deriving DecidableEq, Repr

/-- A JFP message as it reaches its engine (R331): sending node, map epoch it was routed under, pavilion field, message number,
body after reassembly. -/
structure JMsg where
  src : Nat
  epoch : Nat
  pv : Nat
  msgId : Nat
  body : List Byte
  deriving DecidableEq, Repr

/-- A received packet as the MAC and MACsec hand it on (R339): protected and its ICV and replay window good, the destination
address is the interface's and the packet no fragment, the UDP checksum good, the UDP port, a CE mark, the UDP payload. -/
structure RxPkt where
  secured : Bool
  icvOk : Bool
  addrOk : Bool
  csumOk : Bool
  udpPort : Nat
  ce : Bool
  data : List Byte
  deriving DecidableEq, Repr

/-- A token of a move (R367). -/
structure Token where
  epoch : Nat
  plot : Nat
  pv : Nat
  deriving DecidableEq, Repr

/-- One version of a plot as a transfer carries it (R367): sketch rows by epoch, record fields, delete frame, rows. -/
structure PlotVer where
  eid : Nat
  ver : Frame
  flags : Nat
  payLen : Nat
  attr : Nat
  qepoch : Nat
  del : Option Frame
  /-- Epoch and sketch, and whether the version sits in the lean-to there. -/
  sketches : List (Nat × Nat × Bool)
  record : List Byte
  payload : List Byte
  /-- Its locator entry: the admitting node, the ring and the SEQ of the update that made it (R171, R178). -/
  node : Nat
  ring : Nat
  seq : Nat
  deriving DecidableEq, Repr

/-- An entry of the composition log (R358, R359). -/
inductive MapEntry where
  | memberAdd (node : Nat) (ips : List Byte)
  | memberRemove (node : Nat)
  | suspend (node : Nat) (settled : Frame)
  | resume (node : Nat) (settled : Frame)
  | draining (node : Nat)
  | keepers (nodes : List Nat)
  /-- Masks of R421: engine slices, tensor arrays, memory slices, link slices. -/
  | slices (node pv eng ta mem link : Nat)
  | plots (pv first count owner : Nat) (reps : List Nat)
  | moveBegin (pv plot old recv : Nat) (rep : Bool)
  | moveEnd (pv plot : Nat)
  | moveAbort (pv plot : Nat)
  | lost (pv plot : Nat)
  | role (node r : Nat)
  | policy (w : W32)
  /-- A committed cutover, and one aborted (R191). -/
  | cutover (pv epoch : Nat) (c : Frame) (digest : List Byte)
  | cutAbort (pv epoch : Nat)
  deriving DecidableEq, Repr

/-- A log entry of the keepers (R360): index, term, activation frame, proposer and its proposal number. -/
structure LogEnt where
  idx : Nat
  term : Nat
  ent : MapEntry
  act : Frame
  src : Nat
  prop : Nat
  deriving DecidableEq, Repr

/-- A composition message (R362). The spec gives entries and transferred versions no byte layout, so they stay structured. -/
inductive MapMsg where
  | append (term prevIdx prevTerm : Nat) (ents : List LogEnt)
  | appendAck (term idx : Nat)
  | heartbeat (term commit : Nat)
  | voteReq (term lastIdx lastTerm : Nat)
  | vote (term : Nat) (granted : Bool)
  | propose (id : Nat) (e : MapEntry)
  | proposeResult (id result epoch : Nat)
  | entries (first : Nat) (es : List (MapEntry × Frame))
  | fetch (first : Nat)
  | handoff (tok : Token) (snap elements bytes : Nat)
  | handoffAck (tok : Token) (result : Nat)
  | moveDone (tok : Token)
  | holdClaim (tok : Token)
  | statePull (tok : Token) (off : Nat)
  | rsDone (pv epoch sent : Nat)
  | cutQuery (pv epoch : Nat) (c : Frame) (digest : List Byte)
  | cutReady (pv epoch : Nat) (ready : Bool)
  /-- The class 3 writes that carry a plot's versions (R189, R368 step 3, R369). -/
  | versions (tok : Token) (vs : List PlotVer)
  deriving DecidableEq, Repr

/-- What a NAND die's parameter page says (R234): manufacturer, model, geometry and timing. -/
structure ParamPage where
  maker : Nat
  model : Nat
  planes : Nat
  /-- Blocks of a plane, native pages of a block, spare bytes of a page. -/
  blocks : Nat
  pages : Nat
  spare : Nat
  timing : Nat
  deriving DecidableEq, Repr

/-- A NAND die as bring-up finds it (R232, R234): its storage die and its channel. -/
structure DieIn where
  sd : Nat
  channel : Nat
  page : ParamPage
  /-- The flash profile holds an entry for its identity. -/
  profiled : Bool
  deriving DecidableEq, Repr

/-- The array as the storage dies find it (R232, R234, R241, R254, R263): its dies in the order of channel and die, GiB of a die, blocks
and GiB of the reserved SLC regions, erased bands of the power-fail region, and the bands a full flush needs. -/
structure ArrayIn where
  dies : List DieIn
  gibPerDie : Nat
  /-- SLC pages of a block, native pages of a wordline, and whether the profile names suspend commands (R233, R243). -/
  slcPages : Nat
  wlPages : Nat
  suspend : Bool
  reservedBlocks : Nat
  reservedGib : Nat
  regionErased : Nat
  regionNeed : Nat
  /-- Rated P/E endurance of the profile (R248). -/
  rated : Nat
  deriving DecidableEq, Repr

/-- What a scrub read of a walled word finds (R219, R225, R226): its stack, the symbols of 72 that differ from what was written, and
where it lies: a pavilion and node-range offset, or pseudo-channel, bank and row outside any node range. -/
structure ScrubIn where
  stack : Nat
  syms : List (Nat × Byte)
  inRange : Option (Nat × Nat)
  row : Nat × Nat × Nat
  deriving DecidableEq, Repr

/-- A write group that a storage die opens (R237, R244, R250): its storage die, mode, GKIND, the band's 16 blocks (positions 0 to 14
and the XOR page), the pool units of each stripe from position 0 on, and those of the blocks that it takes from the free ones. -/
structure FGroupIn where
  sd : Nat
  slc : Bool
  gkind : Nat
  band : List Nat
  stripes : List (List Nat)
  newBlocks : List Nat
  deriving DecidableEq, Repr

/-- How a read operation of the array ended (R249): the operation, and for each of its codewords the step that succeeded, 5 for none. -/
structure FReadIn where
  op : Nat
  steps : List Nat
  deriving DecidableEq, Repr

/-- What a slot boundary finds of a stack: its power over the last slot in units of 0.25 W, its interface bytes in that slot, and
those forecast for the slot that begins (R90, R91, R110); banks whose refresh the base die puts off by a slot (R47), and banks whose
interface queue has waited for the whole last slot (R228). -/
structure StackIn where
  power : Nat
  ifBytes : Nat
  forecast : Nat
  postpone : List Nat
  waited : List Nat
  deriving DecidableEq, Repr

/-- The outcome of a Keeper slot's pattern (R440, R441): die, tensor array or engine, logical number, signature as the golden value. -/
structure KeepIn where
  die : Nat
  ta : Bool
  unit : Nat
  ok : Bool
  deriving DecidableEq, Repr

/-- What an execution of a job gave (R430): a scan job's signature, or each candidate's exact score and scorer output. -/
structure JobVals where
  sig : BitVec 32
  scores : List (BitVec 32 × Option (BitVec 32))
  deriving DecidableEq, Repr

/-- Power of a unit in the slot that ends, W (R28). -/
structure UnitPower where
  unit : Nat
  watts : Nat
  deriving DecidableEq, Repr

/-- The tensor array that codes a query (R17, R147). -/
structure EncodeIn where
  qid : Nat
  die : Nat
  ta : Nat
  deriving DecidableEq, Repr

/-- What a merge pass starts with (R180, R183, R222): the parts, where the Grounds starts it; the plots that it writes anew; plot, tile and
row bytes of the tags that do not read as written. -/
structure PassIn where
  mask : Nat
  plots : List (Nat × Nat)
  tags : List (Nat × Nat × List Byte)
  deriving DecidableEq, Repr

/-- Progress of a unit over a window of 1,000 frames (R446): die, tensor array or engine, logical number, granted slots, cell
comparisons or MACs, arithmetic cycles. -/
structure RateIn where
  die : Nat
  ta : Bool
  unit : Nat
  slots : Nat
  work : Nat
  cycles : Nat
  deriving DecidableEq, Repr

/-- An SRAM error (R427): whether it was corrected; engine-local SRAM of a search die, or die SRAM (no engine), or hub SRAM and the
buffer pools (no die); the queries and the work items whose state the word held. -/
structure SramIn where
  corrected : Bool
  die : Option Nat
  eng : Option Nat
  qids : List Nat
  works : List Nat
  deriving DecidableEq, Repr

/-- A word of a T1 frame whose stored symbols have changed (R219): pavilion, node-range offset, stack, symbols. -/
structure FlipIn where
  pv : Nat
  off : Nat
  stack : Nat
  syms : List (Nat × Byte)
  deriving DecidableEq, Repr

/-- The kinds of access that the region fence stops (R223). -/
inductive FenceKind where
  | filter | stream | walledRead | walledWrite
  deriving DecidableEq, Repr

/-- An access that crossed region types (R223): its kind, stack, pseudo-channel, bank and row, the tile of a scan batch, and the queries and
work items that it was made for. -/
structure FenceIn where
  kind : FenceKind
  stack : Nat
  row : Nat × Nat × Nat
  tile : Option (Nat × Nat)
  qids : List Nat
  works : List Nat
  deriving DecidableEq, Repr

/-- What the memories show in a slot: words of stacked memory that have changed, pages whose T2 reads the host does not answer (R217),
bytes that host software has written into its window (R216: pavilion, node-range offset), accesses that the fence stopped. -/
structure MemIn where
  flips : List FlipIn
  t2Fails : List (Nat × Nat)
  t2Host : List (Nat × Nat × List Byte)
  fences : List FenceIn
  deriving DecidableEq, Repr

/-- What the hardware finds around a slot boundary (R49): samples of each unit of R322, package power of the last slot, the stacks;
the tiles that each engine gets through in the slot it is granted; bank filters whose hit FIFO filled (stack, bank, passes and cycles
lost, hits still in the FIFO at the end of the slot); tags that do not read back as they were written (batch, tile, 16 bytes); Keeper patterns and bank tests (stack, bank, agreed); replays of captures (die, job,
right); flash groups opened; SRAM errors; link-level retries of promenade modules (connection, module, number);
the memories; an uncorrectable error in Lodge SRAM, with what the boot after it finds (R426). -/
structure SlotIn where
  units : List (List Int × Nat)
  pkgW : Nat
  stks : List StackIn
  prog : List (Nat × Nat × Nat)
  stalls : List (Nat × Nat × Nat × Nat × Nat)
  tags : List (Nat × Nat × List Byte)
  keeper : List KeepIn
  banks : List (Nat × Nat × Bool)
  replays : List (Nat × Nat × Bool)
  groups : List FGroupIn
  sram : List SramIn
  retries : List (Nat × Nat × Nat)
  mem : MemIn
  lodge : Option BootIn
  deriving DecidableEq, Repr

/-- A command of the ZN32: one constructor per row of the table of operations and events. -/
inductive Instr where
  /-- `POWER_ON` (R457). -/
  | powerOn (b : Board)
  /-- `PERST_N_ASSERT` (R459). -/
  | perstNAssert (ns : Nat)
  /-- `PERST_N_RELEASE` (R405). -/
  | perstNRelease (b : BootIn)
  /-- `BOOT_STEP_TIMEOUT` (R405). -/
  | bootStepTimeout (unit : Nat)
  /-- `GROUNDS_HEARTBEAT` (R401). -/
  | groundsHeartbeat
  /-- `GROUNDS_HEARTBEAT_LOST` (R401). -/
  | groundsHeartbeatLost (b : BootIn)
  /-- `FTL_REPLAY` (R254). -/
  | ftlReplay (a : ArrayIn)
  /-- `INDEX_LOAD_DONE` (R194). -/
  | indexLoadDone (pv : Pv)
  /-- `RECOVERY_CONFIRMED` (R194). -/
  | recoveryConfirmed (pv : Pv)
  /-- `PFAIL_N_ASSERT` (R261). -/
  | pfailNAssert (ns : Nat) (seen : Bool)
  /-- `PFAIL_FLUSH_DONE` (R261). -/
  | pfailFlushDone (b : BootIn)
  /-- `PFAIL_N_DEASSERT` (R263). -/
  | pfailNDeassert (ns : Nat)
  /-- `PFAIL_REGION_RESTORED` (R263). -/
  | pfailRegionRestored
  /-- `SYS_REFCLK_LOSS` (R483). -/
  | sysRefclkLoss
  /-- `PCIE_REFCLK_LOSS` (R483). -/
  | pcieRefclkLoss
  /-- `ETH_REFCLK_LOSS` (R483). -/
  | ethRefclkLoss (ld : Quad)
  /-- `ETH_REFCLK_RETURN` (R483). -/
  | ethRefclkReturn (ld : Quad)
  /-- `FRAME_BOUNDARY` (R49). -/
  | frameBoundary (off choice : Int)
  /-- `SLOT_BOUNDARY` (R49). -/
  | slotBoundary (x : SlotIn)
  /-- `LATE_LEANTO_WITHDRAW` (R45). -/
  | lateLeantoWithdraw (pv : Pv) (id eid : Nat)
  /-- `REFRESH_DOUBLE_EXIT` (R48). -/
  | refreshDoubleExit (st : Fin 16)
  /-- `DIE_POWER_THROTTLE` (R28): the die's power in the slot that ends, W. -/
  | diePowerThrottle (x : UnitPower)
  /-- `PTP_SAMPLE` (R40). -/
  | ptpSample (p : PtpIn)
  /-- `PPS_EDGE` (R40). -/
  | ppsEdge (p : PpsIn)
  /-- `ALIGN_LOCKED` (R38). -/
  | alignLocked
  /-- `ALIGN_HOLDOVER` (R38). -/
  | alignHoldover
  /-- `HOLDOVER_LIMIT` (R38). -/
  | holdoverLimit
  /-- `RING_DB` (R275). -/
  | ringDb (f : Fn) (ring : Nat) (v : W32)
  /-- `RING_CQ_DB` (R280). -/
  | ringCqDb (f : Fn) (ring : Nat) (v : W32)
  /-- `EQ_DB` (R287). -/
  | eqDb (f : Fn) (v : W32)
  /-- `RING_DISABLE` (R283). -/
  | ringDisable (f : Fn) (ring : Nat) (v : W32)
  /-- `RING_ENABLE` (R284). -/
  | ringEnable (f : Fn) (ring : Nat) (v : W32)
  /-- `DESCRIPTOR_FETCH` (R276). -/
  | descriptorFetch (f : Fn) (ring : Nat) (got : Option (List Byte))
  /-- `MSIX_MOD_TIMER` (R289). -/
  | msixModTimer (f : Fn) (ring : Option Nat)
  /-- `MSIX_UNMASK` (R289). -/
  | msixUnmask (f : Fn) (vec : Nat)
  /-- `BAR0_BAD_ACCESS` (R272). -/
  | bar0BadAccess (f : Fn) (write : Bool) (off len : Nat)
  /-- `BAR2_READ` (R218). -/
  | bar2Read (f : Fn) (off len : Nat)
  /-- `BAR2_WRITE` (R218). -/
  | bar2Write (f : Fn) (off : Nat) (data : List Byte)
  /-- `BAR2_WAIT_EXPIRY` (R218). -/
  | bar2WaitExpiry (f : Fn)
  /-- `FUNCTION_LEVEL_RESET` (R390). -/
  | functionLevelReset (pv : Pv)
  /-- `PF0_FUNCTION_LEVEL_RESET` (R294). -/
  | pf0FunctionLevelReset
  /-- `HOT_RESET` (R294). -/
  | hotReset
  /-- `VF_ENABLE_CLEAR` (R390). -/
  | vfEnableClear
  /-- `PAVILION_RESET_DONE` (R392). -/
  | pavilionResetDone (pv : Pv)
  /-- `REGISTER_WRITE` (R8). -/
  | registerWrite (f : Fn) (off : Nat) (v : W32)
  /-- `HFN_LO_READ` (R52). -/
  | hfnLoRead (f : Fn) (off : Nat)
  /-- `FRAME_CFG_WRITE` (R51). -/
  | frameCfgWrite (v : W32)
  /-- `CORPUS_CFG_WRITE` (R74). -/
  | corpusCfgWrite (f : Fn) (reg : Nat) (v : W32)
  /-- `PERMIT_CAP_WRITE` (R109). -/
  | permitCapWrite (v : W32)
  /-- `SCAN_CFG_WRITE` (R109). -/
  | scanCfgWrite (v : W32)
  /-- `RERANK_CFG_WRITE` (R135). -/
  | rerankCfgWrite (v : W32)
  /-- `CLIP_LIMIT_WRITE` (R153). -/
  | clipLimitWrite (f : Fn) (v : W32)
  /-- `UPD_CFG_WRITE` (R199). -/
  | updCfgWrite (v : W32)
  /-- `MERGE_CFG_WRITE` (R199). -/
  | mergeCfgWrite (v : W32)
  /-- `TIER_CFG_WRITE` (R231). -/
  | tierCfgWrite (v : W32)
  /-- `T2_WINDOW_WRITE` (R231). -/
  | t2WindowWrite (f : Fn) (reg : Nat) (v : W32)
  /-- `BAR2_WIN_WRITE` (R231). -/
  | bar2WinWrite (f : Fn) (v : W32)
  /-- `FLASH_CFG_WRITE` (R267). -/
  | flashCfgWrite (reg : Nat) (v : W32)
  /-- `RING_CONFIG_WRITE` (R293). -/
  | ringConfigWrite (f : Fn) (ring reg : Nat) (v : W32)
  /-- `EQ_CTL_WRITE` (R291). -/
  | eqCtlWrite (f : Fn) (reg : Nat) (v : W32)
  /-- `FABRIC_REG_WRITE` (R353). -/
  | fabricRegWrite (off : Nat) (v : W32)
  /-- `MAP_CFG_WRITE` (R380). -/
  | mapCfgWrite (off : Nat) (v : W32)
  /-- `ROLE_POLICY_WRITE` (R380). -/
  | rolePolicyWrite (v : W32)
  /-- `SHARE_REG_WRITE` (R398). -/
  | shareRegWrite (off : Nat) (v : W32)
  /-- `INTEG_REG_WRITE` (R455). -/
  | integRegWrite (off : Nat) (v : W32)
  /-- `BIST_GO` (R451). -/
  | bistGo (v : W32)
  /-- `PWR_CAP_WRITE` (R475). -/
  | pwrCapWrite (therm : Bool) (v : W32)
  /-- `RESET_CTL_WRITE` (R475). -/
  | resetCtlWrite (v : W32)
  /-- `HOST_NODE_RESET` (R459). -/
  | hostNodeReset (b : BootIn)
  /-- `GPIO_WRITE` (R490). -/
  | gpioWrite (out : Bool) (v : W32)
  /-- `PMB_CFG_WRITE` (R497). -/
  | pmbCfgWrite (v : W32)
  /-- `MBX_DATA_LO_WRITE` (R417). -/
  | mbxDataLoWrite (c : Fin 14) (v : W32)
  /-- `MBX_POST` (R416). -/
  | mbxPost (c : Fin 14) (v : W32)
  /-- `MBX_CTL_WRITE` (R425). -/
  | mbxCtlWrite (c : Fin 15) (v : W32)
  /-- `MBX_ACK` (R416). -/
  | mbxAck (v : W32)
  /-- `MBX_TIMEOUT` (R417). -/
  | mbxTimeout (c : Fin 14)
  /-- `LODGE_MSG_TIMEOUT` (R424). -/
  | lodgeMsgTimeout
  /-- `SEARCH` (R303). -/
  | search (wid : Nat) (recs : Option (List (List Byte)))
  /-- `SEARCH_BATCH` (R303). -/
  | searchBatch (wid : Nat) (recs : Option (List (List Byte)))
  /-- `QUERY_ADMISSION` (R31). -/
  | queryAdmission (wid : Nat)
  /-- `QUERY_ENCODE` (R147). -/
  | queryEncode (x : EncodeIn)
  /-- `TILE_CLAIM` (R99). -/
  | tileClaim (batch tile die : Nat)
  /-- `STEAL` (R105). -/
  | steal (die eng vdie veng : Nat)
  /-- `HIT_COMPACTION` (R101). -/
  | hitCompaction (hit : Nat)
  /-- `LANE_DRAIN` (R113). -/
  | laneDrain (batch qid die : Nat)
  /-- `VECTOR_RECORD_ARRIVAL` (R119). -/
  | vectorRecordArrival (qid cand : Nat) (ok : Bool)
  /-- `FETCH_WAIT_EXPIRY` (R120). -/
  | fetchWaitExpiry (qid : Nat)
  /-- `RERANK_BLOCK` (R121). -/
  | rerankBlock (qid : Nat) (idxs : List Nat) (die ta : Nat)
  /-- `TENSOR_STEAL` (R121). -/
  | tensorSteal (qid die ta vdie vta : Nat)
  /-- `NODE_TOPK` (R124). -/
  | nodeTopk (qid : Nat) (t2ok : Bool)
  /-- `PAYLOAD_WAIT_EXPIRY` (R127). -/
  | payloadWaitExpiry (qid : Nat)
  /-- `FINAL_MERGE` (R131). -/
  | finalMerge (qid : Nat)
  /-- `HELD_QUERY_LAGGING` (R176). -/
  | heldQueryLagging
  /-- `PARTIAL_WAIT_EXPIRY` (R337). -/
  | partialWaitExpiry (qid : Nat)
  /-- `UPSERT_BATCH` (R169). -/
  | upsertBatch (wid : Nat) (recs : Option (List (List Byte)))
  /-- `DELETE_BATCH` (R169). -/
  | deleteBatch (wid : Nat) (eids : Option (List Nat))
  /-- `SEQ_WAIT_RELEASE` (R178). -/
  | seqWaitRelease (id : Nat)
  /-- `UPDATE_ADMISSION` (R169). -/
  | updateAdmission (id : Nat)
  /-- `PREP_WAIT_EXPIRY` (R171). -/
  | prepWaitExpiry (id : Nat)
  /-- `STAGED_DISCARD` (R171). -/
  | stagedDiscard (id : Nat)
  /-- `UPDATE_ACK_TIMEOUT` (R177). -/
  | updateAckTimeout (id : Nat)
  /-- `MODEL_LOAD` (R313): what the reads of the header and of the rest of an image in host memory give. -/
  | modelLoad (wid : Nat) (hdr rest : Option (List Byte))
  /-- `MODEL_LOAD_COMPLETE` (R78). -/
  | modelLoadComplete (wid : Nat)
  /-- `EPOCH_CUTOVER` (R190). -/
  | epochCutover (wid : Nat) (digest : Option (List Byte))
  /-- `CUTOVER_DEADLINE` (R191). -/
  | cutoverDeadline (pv : Pv)
  /-- `EPOCH_SWITCH` (R192). -/
  | epochSwitch (pv : Pv)
  /-- `EPOCH_RETIRE_FREE` (R193). -/
  | epochRetireFree (pv : Pv)
  /-- `RESKETCH` (R188). -/
  | resketch (wid : Nat)
  /-- `RESKETCH_COMPLETE` (R188). -/
  | resketchComplete (pv : Pv)
  /-- `MERGE_PASS` (R316). -/
  | mergePass (wid : Nat)
  /-- `MERGE_PASS_START` (R180). -/
  | mergePassStart (pv : Pv) (x : PassIn)
  /-- `MERGE_PUBLISH` (R182). -/
  | mergePublish (pv : Pv)
  /-- `LEANTO_REUSE` (R183). -/
  | leantoReuse (pv : Pv)
  /-- `INDEX_CHECKPOINT_COMMIT` (R185). -/
  | indexCheckpointCommit (pv : Pv)
  /-- `TIER_MIGRATE` (R210). -/
  | tierMigrate (wid : Nat)
  /-- `TIER_PIN` (R207). -/
  | tierPin (wid : Nat)
  /-- `TIER_UNPIN` (R207). -/
  | tierUnpin (wid : Nat)
  /-- `TIER_FLUSH` (R211). -/
  | tierFlush (wid : Nat)
  /-- `AUTO_PROMOTE` (R212). -/
  | autoPromote (pv : Pv) (page : Nat)
  /-- `POLICY_DEMOTE` (R212). -/
  | policyDemote (pv : Pv) (page : Nat)
  /-- `PAGE_PROMOTE_DONE` (R208). -/
  | pagePromoteDone (pv : Pv) (page : Nat) (ok : Bool)
  /-- `DEMOTE_SWITCH` (R209). -/
  | demoteSwitch (pv : Pv) (page : Nat)
  /-- `WALLED_SCRUB` (R225). -/
  | walledScrub (x : ScrubIn)
  /-- `GH_STEP_QUIESCE` (R224). -/
  | ghStepQuiesce (st : Fin 16) (sl : Fin 4) (grow : Bool)
  /-- `GH_STEP_APPLY` (R224). -/
  | ghStepApply (st : Fin 16) (sl : Fin 4)
  /-- `STATS_READ` (R318). -/
  | statsRead (wid : Nat)
  /-- `FABRIC_COPY` (R320). -/
  | fabricCopy (wid : Nat) (data : Option (List Byte))
  /-- `FLASH_READ_COMPLETE` (R249). -/
  | flashReadComplete (r : FReadIn)
  /-- `PROGRAM_COMPLETE` (R245). -/
  | programComplete (gseq stripe pos : Nat)
  /-- `WRITE_GROUP_COMMIT` (R252). -/
  | writeGroupCommit (gseq : Nat)
  /-- `PROGRAM_FAIL_GC` (R259). -/
  | programFailGc (gseq block fresh die : Nat)
  /-- `PROGRAM_FAIL_UPDATE` (R260). -/
  | programFailUpdate (gseq block fresh die : Nat)
  /-- `ERASE_FAIL` (R260). -/
  | eraseFail (block : Nat)
  /-- `DIE_RETIRE` (R246). -/
  | dieRetire (die : Nat)
  /-- `GC_START` (R255). -/
  | gcStart (block : Nat)
  /-- `SOURCE_ERASE` (R255). -/
  | sourceErase (block : Nat)
  /-- `MAP_CHECKPOINT_START` (R253). -/
  | mapCheckpointStart
  /-- `ROOT_RECORD_COMMIT` (R253). -/
  | rootRecordCommit
  /-- `BLOCK_AGE_CLOSE` (R243). -/
  | blockAgeClose (block : Nat)
  /-- `FLASH_TEMP_POLL` (R247). -/
  | flashTempPoll (temps : List Int) (due : List Nat)
  /-- `RETRY_RISE_WINDOW` (R264). -/
  | retryRiseWindow
  /-- `QUANT_WINDOW_END` (R150). -/
  | quantWindowEnd
  /-- `JFP_PACKET_RECEIVE` (R339). -/
  | jfpPacketReceive (port : Nat) (x : RxPkt)
  /-- `ACKONLY` (R334). -/
  | ackonly (src cls idx ack : Nat) (ce : Bool)
  /-- `JFP_RTO` (R334). -/
  | jfpRto (dst cls idx : Nat)
  /-- `BUNDLE` (R343). -/
  | bundle (m : JMsg)
  /-- `READ` (R335). -/
  | read (m : JMsg)
  /-- `WRITE` (R335). -/
  | write (m : JMsg)
  /-- `FETCH_ADD` (R335). -/
  | fetchAdd (m : JMsg)
  /-- `COMPARE_SWAP` (R335). -/
  | compareSwap (m : JMsg)
  /-- `RESP` (R335). -/
  | resp (m : JMsg)
  /-- `REQUEST_HOLD_TIMEOUT` (R363). -/
  | requestHoldTimeout
  /-- `FANOUT` (R336). -/
  | fanout (m : JMsg)
  /-- `PARTIAL` (R337). -/
  | partialList (m : JMsg)
  /-- `PRE_ELEM` (R171). -/
  | preElem (m : JMsg)
  /-- `PRE_EID` (R171). -/
  | preEid (m : JMsg)
  /-- `PRE_ACK` (R171). -/
  | preAck (m : JMsg)
  /-- `FRAME_MARK` (R172). -/
  | frameMark (m : JMsg)
  /-- `COMMIT_ACK` (R177). -/
  | commitAck (m : JMsg)
  /-- `RDMA_READ` (R351). -/
  | rdmaRead (qpn rkey va len psn : Nat) (ce : Bool)
  /-- `RDMA_WRITE` (R351). -/
  | rdmaWrite (qpn rkey va : Nat) (data : List Byte) (psn : Nat) (ce : Bool)
  /-- `ROCE_INVALID_REQUEST` (R351). -/
  | roceInvalidRequest (qpn : Nat) (access : Bool)
  /-- `CNP` (R346). -/
  | cnp (qpn : Nat)
  /-- `PFC_FRAME` (R347). -/
  | pfcFrame (port prio : Nat) (on : Bool)
  /-- `PFC_WATCHDOG` (R349). -/
  | pfcWatchdog (port prio : Nat)
  /-- `MKPDU` (R329). -/
  | mkpdu (port sub : Nat) (body : List Byte)
  /-- `ARP_ND` (R327). -/
  | arpNd (port : Nat) (addr : List Byte)
  /-- `LASER_INPUT_LOW` (R326). -/
  | laserInputLow (port input : Nat)
  /-- `PORT_BER_DEGRADED` (R326). -/
  | portBerDegraded (port : Nat)
  /-- `APPEND` (R360). -/
  | append (src term prevIdx prevTerm : Nat) (ents : List LogEnt)
  /-- `APPEND_ACK` (R360). -/
  | appendAck (src term idx : Nat)
  /-- `HEARTBEAT` (R360). -/
  | heartbeat (src term commit : Nat)
  /-- `VOTE_REQ` (R360). -/
  | voteReq (src term lastIdx lastTerm : Nat)
  /-- `VOTE` (R360). -/
  | vote (src term : Nat) (granted : Bool)
  /-- `PROPOSE` (R360). -/
  | propose (src id : Nat) (e : MapEntry)
  /-- `PROPOSE_RESULT` (R362). -/
  | proposeResult (src id result epoch : Nat)
  /-- `ENTRIES` (R359). -/
  | entries (src first : Nat) (es : List (MapEntry × Frame))
  /-- `FETCH` (R362). -/
  | fetch (src first : Nat)
  /-- `HANDOFF` (R368). -/
  | handoff (src : Nat) (tok : Token) (snap elements : Nat) (vs : List PlotVer) (sumOk : Bool)
  /-- `HANDOFF_ACK` (R368). -/
  | handoffAck (src : Nat) (tok : Token) (result : Nat)
  /-- `MOVE_DONE` (R368). -/
  | moveDone (src : Nat) (tok : Token)
  /-- `HOLD_CLAIM` (R369). -/
  | holdClaim (src : Nat) (tok : Token)
  /-- `STATE_PULL` (R369). -/
  | statePull (src : Nat) (tok : Token) (off : Nat)
  /-- `RS_DONE` (R362). -/
  | rsDone (src : Nat) (pv : Pv) (epoch sent : Nat) (vs : List (Nat × PlotVer))
  /-- `CUT_QUERY` (R191). -/
  | cutQuery (src : Nat) (pv : Pv) (epoch : Nat) (digest : List Byte)
  /-- `CUT_READY` (R191). -/
  | cutReady (src : Nat) (pv : Pv) (epoch : Nat) (ready : Bool)
  /-- `MAP_ENTRY_ACTIVATION` (R359). -/
  | mapEntryActivation
  /-- `ELECTION_TIMEOUT` (R360). -/
  | electionTimeout
  /-- `ENTRY_ABANDON` (R360). -/
  | entryAbandon
  /-- `NO_QUORUM` (R361). -/
  | noQuorum
  /-- `MOVE_TRANSFER_START` (R368). -/
  | moveTransferStart (pv : Pv) (plot : Nat)
  /-- `HANDOFF_RESEND` (R368). -/
  | handoffResend (pv : Pv) (plot : Nat)
  /-- `MOVE_STATE_FREE` (R368). -/
  | moveStateFree (pv : Pv) (plot : Nat)
  /-- `SUSPEND_REPORT` (R372). -/
  | suspendReport (node : Nat)
  /-- `RESUME` (R373). -/
  | resume
  /-- `CATCH_UP_DONE` (R373). -/
  | catchUpDone (pv : Pv) (vs : List (Nat × PlotVer)) (adm : List (Nat × Frame × Nat))
  /-- `REJOIN_LIMIT` (R375). -/
  | rejoinLimit (node : Nat)
  /-- `JOIN_CHECK` (R376). -/
  | joinCheck (originOk digestsOk : Bool)
  /-- `ROLE_CHECK` (R378). -/
  | roleCheck (short : List Bool)
  /-- `ATTEST` (R410). -/
  | attest (blk : Option (List Byte))
  /-- `IDENTITY` (R420). -/
  | identity (blk : Option (List Byte))
  /-- `LOG_READ` (R409). -/
  | logRead (blk : Option (List Byte))
  /-- `IMAGE_STAGE` (R407). -/
  | imageStage (blk : Option (List Byte)) (img : Option Image) (fin : Bool)
  /-- `ROLLBACK_COMMIT` (R404). -/
  | rollbackCommit
  /-- `LC_NONCE` (R412). -/
  | lcNonce (blk : Option (List Byte))
  /-- `LC_ADVANCE` (R412). -/
  | lcAdvance (blk : Option (List Byte)) (sigOk : Bool)
  /-- `PV_ERASE` (R389). -/
  | pvErase
  /-- `CAK_SET` (R420). -/
  | cakSet (blk : Option (List Byte))
  /-- `SLICES` (R421). -/
  | slices (blk : Option (List Byte))
  /-- `PLOT_ASSIGN` (R421). -/
  | plotAssign (blk : Option (List Byte))
  /-- `MOVE_BEGIN` (R368). -/
  | moveBegin (blk : Option (List Byte))
  /-- `MEMBER_ADD` (R376). -/
  | memberAdd (blk : Option (List Byte))
  /-- `DRAIN` (R376). -/
  | drain (blk : Option (List Byte))
  /-- `ROLE` (R377). -/
  | role (blk : Option (List Byte))
  /-- `KEEPERS` (R421). -/
  | keepers (blk : Option (List Byte))
  /-- `WIN_EXPORT` (R350). -/
  | winExport (pv : Pv) (blk : Option (List Byte))
  /-- `WIN_UNEXPORT` (R350). -/
  | winUnexport (pv : Pv)
  /-- `QP_CREATE` (R351). -/
  | qpCreate (pv : Pv) (blk : Option (List Byte))
  /-- `QP_DESTROY` (R351). -/
  | qpDestroy (pv : Pv)
  /-- `KEY_INSTALL` (R422). -/
  | keyInstall (pv : Pv)
  /-- `SAK_DERIVE` (R422). -/
  | sakDerive (port sub : Nat) (icv : Bool)
  /-- `BIST_REQUEST` (R422). -/
  | bistRequest (ctl : W32)
  /-- `FIREWALL_VIOLATION` (R400). -/
  | firewallViolation (write : Bool)
  /-- `SHADOW_EXECUTION` (R430). -/
  | shadowExecution (id die phys : Nat) (prim shad : JobVals) (bounds : List (BitVec 32)) (pos : Nat)
  /-- `ARBITRATION` (R432). -/
  | arbitration (id die phys : Nat) (vals : JobVals) (bounds : List (BitVec 32)) (pos : Nat)
  /-- `SHADOW_WAIT_EXPIRY` (R434). -/
  | shadowWaitExpiry (id : Nat)
  /-- `SUSPECT_HALVING` (R436). -/
  | suspectHalving
  /-- `SKETCH_SCRUB` (R444). -/
  | sketchScrub (pv : Pv) (epoch tile : Nat) (same : Bool) (u1 u2 : Nat × Nat)
  /-- `TILE_REPAIR` (R445). -/
  | tileRepair (pv : Pv) (epoch tile : Nat)
  /-- `STRAGGLER_WINDOW` (R446). -/
  | stragglerWindow (rates : List RateIn)
  /-- `BIST_RUN_DONE` (R452). -/
  | bistRunDone (sig : W32) (fail : Bool) (cov : Nat)
  /-- `PROMENADE_RETRAIN` (R24): the items that crossed the connection, of no query or work item, and one of each query and work item
  listed. -/
  | promenadeRetrain (conn modul items : Nat) (qids works : List Nat)
  /-- `THERMAL_STEP_DOWN` (R470). -/
  | thermalStepDown (unit : Nat)
  /-- `THERMAL_TRIP` (R472). -/
  | thermalTrip (unit : Nat)
  /-- `SENSOR_STUCK` (R469). -/
  | sensorStuck (unit sensor : Nat)
  /-- `PMBUS_POLL` (R486). -/
  | pmbusPoll (regs : List RegRead)
  /-- `PMB_ALERT` (R486). -/
  | pmbAlert
  /-- `SMB_READ_MAX_LOGIC` (R485). -/
  | smbReadMaxLogic
  /-- `SMB_READ_MAX_STACK` (R485). -/
  | smbReadMaxStack
  /-- `SMB_READ_STATUS` (R485). -/
  | smbReadStatus
  /-- `SET_ENDPOINT_ID` (R485). -/
  | setEndpointId (eid : Byte)
  /-- `GET_ENDPOINT_ID` (R485). -/
  | getEndpointId
  /-- `GET_MCTP_VERSION_SUPPORT` (R485). -/
  | getMctpVersionSupport (mtype : Byte)
  /-- `GET_MESSAGE_TYPE_SUPPORT` (R485). -/
  | getMessageTypeSupport
  /-- `PLDM_REQUEST` (R485). -/
  | pldmRequest (q : PldmReq)
  /-- `UART_RX` (R488). -/
  | uartRx (port : Nat) (b : Byte) (goodStop : Bool)
  /-- `JTAG_ACCESS` (R489). -/
  | jtagAccess (what : Nat)
  /-- `POWER_LOSS` (R458). -/
  | powerLoss
  /-- `ERASE_COMPLETE` (R255). -/
  | eraseComplete (block : Nat)
  /-- `LINK_UP` (R326). -/
  | linkUp (port mask : Nat)
  /-- `LINK_DOWN` (R332). -/
  | linkDown (port mask : Nat)
  /-- `ANNOUNCE` (R328). -/
  | announce (port quality : Nat)
  /-- `VF_ENABLE_SET` (R270). -/
  | vfEnableSet (n : Nat)
  /-- `DEVICE_POWER_STATE_WRITE` (R268). -/
  | devicePowerStateWrite (f : Fn) (d3 : Bool)
  /-- `MODULE_RETRAIN_DONE` (R24). -/
  | moduleRetrainDone (conn modul : Nat)
  deriving DecidableEq, Repr

end Sys2Proof
end

