-- ==== Sys2Proof/Decode.lean ====
section
/-! DEFINITION. The command that a word of the table spells. The table gives no row any bits, so no word spells a command. -/

namespace Sys2Proof

/-- The command spelled by the low `nbits` bits of a word: none, since no row of the table has a bit pattern. -/
def decodeTableWord (_nbits _w : Nat) : Option Instr := none

end Sys2Proof
end

