-- ==== Sys2Proof/Config.lean ====
section
/-! DEFINITION. What an implementation fixes, and the values the spec leaves open: constants without a body. -/

namespace Sys2Proof

/-- The part is an A1 stepping (else A0): R29, R489. -/
opaque Config.steppingA1 : Bool

/-- The error, in units in the last place, of a square root, a reciprocal and an exponential (R157, R164): a number whose
remainder by 5, less 2, is the error. A free value per operand (log 3). -/
opaque Config.sqrtUlp : BitVec 32 → Nat
opaque Config.recipUlp : BitVec 32 → Nat
opaque Config.expUlp : BitVec 32 → Nat

/-- How a run divides the scaled group terms of an exact score (R121, R133): the part that a group falls in, by the order in which the
partial sums arrive, and the place of a group in its part. Free values per run and group (log 3). -/
opaque Config.groupPart : Nat → Nat → Nat
opaque Config.groupPlace : Nat → Nat → Nat

/-- The check bytes of a word of the walled code (R219), and what the code makes of more than two bad symbols, where R219 promises
nothing: the symbols that it takes for the error, or none for an error detected (log 150). -/
opaque Config.rsCheck : List (Byte) → List (Byte)
opaque Config.rsBeyond : List (Nat × Byte) → Option (List (Nat × Byte))
/-- The LDPC parity of a codeword's 1,032 bytes (R235), and XTS-AES-256 under a key slot with a tweak (R265): codes that the spec names
and does not give in bits (log 151). -/
opaque Config.ldpc : List (Byte) → List (Byte)
opaque Config.xts : Option Nat → Nat → List (Byte) → List (Byte)

/-- The n-th free value of a run, cut to the width asked for (log 2). -/
opaque Config.freeValue : Nat → Nat

/-- Bytes of the Lodge's random source (R389, R412): the n-th draw. -/
opaque Config.random : Nat → List Byte
/-- A signature by the device identity key over a message (R410): FIPS 204 is not part of the spec (log 11). -/
opaque Config.sign : List Byte → List Byte
/-- The ICV that a SAK gives an MKPDU (R329): interface and message. -/
opaque Config.macIcv : Nat → List Byte → List Byte

/-- Where a SUB of BIST_CTL names both an engine and a tensor array (TEST 0), or both an engine's SRAM and a die SRAM region (TEST 1),
whether it is the second that is tested (R451, R454: the register has no bit that says so; log 43). -/
opaque Config.bistSecond : Nat → Nat → Bool

/-- Host-area frames of a memory slice that the Grounds reserves for corpus system areas (R206): the spec leaves it to the Grounds. -/
opaque Config.t1Reserve : Nat

/-- The quadrant the Grounds places a plot in when the map gives no other choice (R13, R356): pavilion and plot. -/
opaque Config.plotQuad : Nat → Nat → Nat
/-- The replica a query is sent to (R371) is fixed by a hash the spec names but does not give in bits. -/
opaque Config.hash : List Nat → Nat

end Sys2Proof
end

