-- ==== Sys2Proof/Machine/Bytes.lean ====
section
/-! DEFINITION. Little-endian bytes (R5), bit fields of a register word, CRC-32C (R244, R253, R331). -/

namespace Sys2Proof.Machine

/-- The little-endian value of a list of bytes (R5). -/
def leNat : List Byte → Nat
  | [] => 0
  | b :: bs => b.toNat + 256 * leNat bs

/-- `n` bytes of a value, least significant first (R5). -/
def leBytes : Nat → Nat → List Byte
  | 0, _ => []
  | n + 1, v => BitVec.ofNat 8 v :: leBytes n (v / 256)

/-- The bytes [off, off + len) of a structure. -/
def slice (bs : List Byte) (off len : Nat) : List Byte := (bs.drop off).take len

/-- The little-endian field of `len` bytes at offset `off`. -/
def field (bs : List Byte) (off len : Nat) : Nat := leNat (slice bs off len)

/-- Is every byte of the list 0? -/
def allZero (bs : List Byte) : Bool := bs.all (· == 0#8)

/-- Every byte of [off, off + len) is 0 (a reserved range, R7). -/
def zeroAt (bs : List Byte) (off len : Nat) : Bool := allZero (slice bs off len)

/-- `n` zero bytes. -/
def zeros (n : Nat) : List Byte := List.replicate n 0#8

/-- The list cut or padded with zeros to `n` bytes. -/
def padTo (n : Nat) (bs : List Byte) : List Byte := bs.take n ++ zeros (n - bs.length)

/-- `n` rounded up to a multiple of `m`. -/
def roundUpTo (n m : Nat) : Nat := (n + m - 1) / m * m

/-- Bits [hi:lo] of a number (R5: both ends included). -/
def bitsOf (v hi lo : Nat) : Nat := (v >>> lo) % 2 ^ (hi - lo + 1)

/-- Bits [hi:lo] of a register word. -/
def fld (w : W32) (hi lo : Nat) : Nat := bitsOf w.toNat hi lo

/-- Bit `i` of a register word. -/
def bit (w : W32) (i : Nat) : Bool := w.getLsbD i

/-- A register word built from one field at bit `lo`, cut to `width` bits. -/
def put (v lo width : Nat) : W32 := BitVec.ofNat 32 ((v % 2 ^ width) <<< lo)

/-- A one-bit field. -/
def putB (b : Bool) (lo : Nat) : W32 := if b then BitVec.ofNat 32 (1 <<< lo) else 0#32

/-- A 32-bit mask of bits [hi:lo]. -/
def maskBits (hi lo : Nat) : W32 := BitVec.ofNat 32 ((2 ^ (hi - lo + 1) - 1) <<< lo)

/-- A count that stops at `cap` (saturating fields). -/
def satTo (cap v : Nat) : Nat := if v ≤ cap then v else cap

/-- The two's complement encoding of an integer in `n` bits. -/
def twos (n : Nat) (v : Int) : Nat := (v % (2 ^ n : Nat)).toNat

/-- The signed value of an `n`-bit two's complement field. -/
def signed (n v : Nat) : Int := if v < 2 ^ (n - 1) then v else (v : Int) - (2 ^ n : Nat)

/-- Eight steps of the reflected CRC-32C register. -/
def crcStep : Nat → Nat → Nat
  | 0, r => r
  | k + 1, r => crcStep k (if r % 2 = 1 then (r / 2) ^^^ 0x82F63B78 else r / 2)

/-- CRC-32C over a list of bytes. PRESUMED: the usual Castagnoli parameters (reflected, all ones in and out), log 12. -/
def crc32c (bs : List Byte) : Nat :=
  (bs.foldl (fun r b => crcStep 8 (r ^^^ b.toNat)) 0xFFFFFFFF) ^^^ 0xFFFFFFFF

/-- Set element `i` of a list by a function, leaving a list that is too short alone. -/
def modifyAt {α : Type} (xs : List α) (i : Nat) (f : α → α) : List α :=
  match xs, i with
  | [], _ => []
  | x :: xs, 0 => f x :: xs
  | x :: xs, i + 1 => x :: modifyAt xs i f

/-- Change every element of a list that satisfies a test. -/
def mapIf {α : Type} (p : α → Bool) (f : α → α) (xs : List α) : List α :=
  xs.map fun x => if p x then f x else x

/-- Cut a list into pieces of `n` (the fuel is the list's length). -/
def chunksAux {α : Type} (n : Nat) : Nat → List α → List (List α)
  | 0, _ => []
  | k + 1, xs => if xs.isEmpty then [] else xs.take n :: chunksAux n k (xs.drop n)

/-- Cut a list into pieces of `n`. -/
def chunks {α : Type} (n : Nat) (xs : List α) : List (List α) := chunksAux n xs.length xs

/-- Insert into a list sorted by `le`, after the elements not above it. -/
def insertBy {α : Type} (lt : α → α → Bool) (x : α) : List α → List α
  | [] => [x]
  | y :: ys => if lt x y then x :: y :: ys else y :: insertBy lt x ys

/-- A stable insertion sort: elements ordered by `lt`. -/
def sortBy {α : Type} (lt : α → α → Bool) (xs : List α) : List α :=
  xs.foldl (fun acc x => insertBy lt x acc) []

/-- The values of a list without repeats, first places kept. -/
def dedupKeep {α : Type} [BEq α] (xs : List α) : List α :=
  xs.foldl (fun acc x => if acc.contains x then acc else acc ++ [x]) []

/-- Sum of a list of numbers. -/
def sumNat (xs : List Nat) : Nat := xs.foldl (· + ·) 0

/-- Largest of a list of numbers, 0 when it is empty. -/
def maxNat (xs : List Nat) : Nat := xs.foldl max 0

/-- Is bit `i` of a mask set? -/
def maskHas (m i : Nat) : Bool := m.testBit i

/-- The number of ones of a number, over its lowest `n` bits. -/
def popcount : Nat → Nat → Nat
  | 0, _ => 0
  | n + 1, v => v % 2 + popcount n (v / 2)

end Sys2Proof.Machine
end

