-- ==== Sys2Proof/Machine/Fp.lean ====
section
/-! DEFINITION. FP32, FP16, BF16, E4M3 and E5M2 values and their arithmetic (R136, R140, R144, R158, R159):
round to nearest, ties to even, subnormals kept; exact dyadic values inside. -/

namespace Sys2Proof.Machine

/-- The value of a floating-point code: NaN, an infinity, or the exact number (−1)^neg × man × 2^exp. -/
inductive FVal where
  | nan
  | inf (neg : Bool)
  | fin (neg : Bool) (man : Nat) (exp : Int)
deriving DecidableEq, Repr

/-- A binary format with IEEE 754 encodings: exponent bits and fraction bits. -/
structure Fmt where
  ebits : Nat
  mbits : Nat
deriving DecidableEq, Repr

/-- IEEE 754 binary32 (R159). -/
def fp32 : Fmt := ⟨8, 23⟩
/-- IEEE 754 binary16 (R136 code 2, R140). -/
def fp16 : Fmt := ⟨5, 10⟩
/-- BF16 (R136 code 1). -/
def bf16 : Fmt := ⟨8, 7⟩
/-- OCP FP8 E5M2 (R159). -/
def e5m2 : Fmt := ⟨5, 2⟩

/-- The exponent bias of a format. -/
def Fmt.bias (f : Fmt) : Nat := 2 ^ (f.ebits - 1) - 1
/-- The exponent of one unit in the last place of a subnormal. -/
def Fmt.qmin (f : Fmt) : Int := 1 - (f.bias : Int) - (f.mbits : Int)
/-- The code of +infinity. -/
def Fmt.infCode (f : Fmt) : Nat := (2 ^ f.ebits - 1) * 2 ^ f.mbits
/-- The sign bit's weight. -/
def Fmt.sign (f : Fmt) : Nat := 2 ^ (f.ebits + f.mbits)

/-- The value of a code of a format. -/
def Fmt.decode (f : Fmt) (w : Nat) : FVal :=
  let neg := w / f.sign % 2 == 1
  let e := w / 2 ^ f.mbits % 2 ^ f.ebits
  let m := w % 2 ^ f.mbits
  if e = 2 ^ f.ebits - 1 then (if m = 0 then .inf neg else .nan)
  else if e = 0 then .fin neg m f.qmin
  else .fin neg (m + 2 ^ f.mbits) (f.qmin + (e : Int) - 1)

/-- The number of binary digits of a number. -/
def bitLen (n : Nat) : Nat := if n = 0 then 0 else Nat.log2 n + 1

/-- `man × 2^exp` as a multiple of 2^q, rounded to nearest, ties to even. -/
def rneAt (man : Nat) (exp q : Int) : Nat :=
  if q ≤ exp then man <<< (exp - q).toNat
  else
    let k := (q - exp).toNat
    let t := man >>> k
    let r := man - t <<< k
    let h := 2 ^ (k - 1)
    if r > h ∨ (r = h ∧ t % 2 = 1) then t + 1 else t

/-- `man × 2^exp` as a multiple of 2^q, rounded up (R144). -/
def upAt (man : Nat) (exp q : Int) : Nat :=
  if q ≤ exp then man <<< (exp - q).toNat
  else
    let k := (q - exp).toNat
    let t := man >>> k
    if man = t <<< k then t else t + 1

/-- The place of the last digit kept for a number of that size in a format with `mbits` fraction bits. -/
def quantum (mbits : Nat) (qmin : Int) (man : Nat) (exp : Int) : Int :=
  max qmin (exp + (bitLen man : Int) - ((mbits : Int) + 1))

/-- The magnitude code of a finite number, before the check for overflow. -/
def magCode (mbits : Nat) (qmin : Int) (man : Nat) (exp : Int) : Nat :=
  let q := quantum mbits qmin man exp
  ((q - qmin).toNat) * 2 ^ mbits + rneAt man exp q

/-- A value in a format, rounded to nearest, ties to even; beyond the range it is infinite (R159). -/
def Fmt.encode (f : Fmt) : FVal → Nat
  | .nan => f.infCode + 2 ^ (f.mbits - 1)
  | .inf neg => f.infCode + if neg then f.sign else 0
  | .fin neg man exp =>
    let m := if man = 0 then 0 else magCode f.mbits f.qmin man exp
    (if m < f.infCode then m else f.infCode) + if neg then f.sign else 0

/-- An FP32 code. -/
abbrev F32 := BitVec 32

/-- The value of an FP32 code. -/
def F32.val (x : F32) : FVal := fp32.decode x.toNat
/-- The FP32 code of a value, rounded to nearest, ties to even. -/
def toF32 (v : FVal) : F32 := BitVec.ofNat 32 (fp32.encode v)

/-- +0, 1 and +infinity. -/
def F32.zero : F32 := 0#32
def F32.one : F32 := 0x3F800000#32
def F32.posInf : F32 := 0x7F800000#32
def F32.negInf : F32 := 0xFF800000#32

/-- Is the code a NaN, an infinity, a finite number? -/
def FVal.isNan : FVal → Bool | .nan => true | _ => false
def FVal.isFinite : FVal → Bool | .fin .. => true | _ => false
def F32.isNan (x : F32) : Bool := x.val.isNan
def F32.isFinite (x : F32) : Bool := x.val.isFinite

/-- The value with its sign changed. -/
def FVal.neg : FVal → FVal
  | .nan => .nan
  | .inf s => .inf (!s)
  | .fin s m e => .fin (!s) m e
def FVal.abs : FVal → FVal
  | .nan => .nan
  | .inf _ => .inf false
  | .fin _ m e => .fin false m e

/-- A signed integer times a power of two as a value; an exact zero is +0 (round to nearest). -/
def ofIntExp (v : Int) (e : Int) : FVal := .fin (decide (v < 0)) v.natAbs e
/-- The signed significand at a smaller exponent. -/
def atExp (neg : Bool) (m : Nat) (e to_ : Int) : Int :=
  let x : Int := ((m <<< (e - to_).toNat : Nat) : Int)
  if neg then -x else x

/-- The exact sum; of two zeros of one sign the zero of that sign. -/
def FVal.add : FVal → FVal → FVal
  | .nan, _ => .nan
  | _, .nan => .nan
  | .inf a, .inf b => if a = b then .inf a else .nan
  | .inf a, _ => .inf a
  | _, .inf b => .inf b
  | .fin a m e, .fin b n f =>
    if m = 0 ∧ n = 0 then .fin (a && b) 0 e
    else
      let k := min e f
      ofIntExp (atExp a m e k + atExp b n f k) k

/-- The exact product. -/
def FVal.mul : FVal → FVal → FVal
  | .nan, _ => .nan
  | _, .nan => .nan
  | .inf a, .inf b => .inf (a != b)
  | .inf a, .fin b n _ => if n = 0 then .nan else .inf (a != b)
  | .fin a m _, .inf b => if m = 0 then .nan else .inf (a != b)
  | .fin a m e, .fin b n f => .fin (a != b) (m * n) (e + f)

/-- The quotient with enough digits that one rounding gives the correctly rounded result:
the last digit is a sticky digit. -/
def FVal.div : FVal → FVal → FVal
  | .nan, _ => .nan
  | _, .nan => .nan
  | .inf _, .inf _ => .nan
  | .inf a, .fin b _ _ => .inf (a != b)
  | .fin a _ e, .inf b => .fin (a != b) 0 e
  | .fin a m e, .fin b n f =>
    if n = 0 then (if m = 0 then .nan else .inf (a != b))
    else
      let k := 64 + bitLen n
      let t := (m <<< k) / n
      let r := (m <<< k) % n
      .fin (a != b) (2 * t + if r = 0 then 0 else 1) (e - f - (k : Int) - 1)

def F32.add (a b : F32) : F32 := toF32 (FVal.add a.val b.val)
def F32.neg (a : F32) : F32 := a ^^^ 0x80000000#32
def F32.abs (a : F32) : F32 := a &&& 0x7FFFFFFF#32
def F32.sub (a b : F32) : F32 := F32.add a (F32.neg b)
def F32.mul (a b : F32) : F32 := toF32 (FVal.mul a.val b.val)
def F32.div (a b : F32) : F32 := toF32 (FVal.div a.val b.val)
/-- An integer converted to FP32, rounded to nearest, ties to even. -/
def F32.ofInt (v : Int) : F32 := toF32 (ofIntExp v 0)

/-- The order of two values that are not NaN: a < b. -/
def FVal.lt : FVal → FVal → Bool
  | .nan, _ => false
  | _, .nan => false
  | .inf a, .inf b => a && !b
  | .inf a, .fin .. => a
  | .fin .., .inf b => !b
  | .fin a m e, .fin b n f =>
    let k := min e f
    decide (atExp a m e k < atExp b n f k)

def F32.lt (a b : F32) : Bool := FVal.lt a.val b.val
def F32.le (a b : F32) : Bool := !a.isNan && !b.isNan && !F32.lt b a
def F32.eq (a b : F32) : Bool := F32.le a b && F32.le b a

/-- IEEE 754-2019 maximum and minimum: a NaN stays NaN (R166). -/
def F32.max (a b : F32) : F32 :=
  if a.isNan ∨ b.isNan then toF32 .nan else if F32.lt a b then b else if F32.lt b a then a else a &&& b
def F32.min (a b : F32) : F32 :=
  if a.isNan ∨ b.isNan then toF32 .nan else if F32.lt a b then a else if F32.lt b a then b else a ||| b

/-- A finite value rounded to an integer, to nearest, ties to even (R141); NaN and infinities give 0. -/
def FVal.toIntRne : FVal → Int
  | .fin neg m e => let t : Int := (rneAt m e 0 : Nat); if neg then -t else t
  | _ => 0
/-- The greatest integer not above a finite value. -/
def FVal.floor : FVal → Int
  | .fin neg m e =>
    if neg then -((upAt m e 0 : Nat) : Int)
    else if 0 ≤ e then ((m <<< e.toNat : Nat) : Int) else ((m >>> (-e).toNat : Nat) : Int)
  | _ => 0

/-- FP8 E4M3 (R140): no infinity, NaN is 0x7F and 0xFF. -/
def e4m3Decode (c : Nat) : FVal :=
  let neg := c / 128 % 2 == 1
  let e := c / 8 % 16
  let m := c % 8
  if e = 15 ∧ m = 7 then .nan
  else if e = 0 then .fin neg m (-9)
  else .fin neg (m + 8) ((e : Int) - 10)

/-- A value converted to E4M3: nearest, ties to even, saturating at ±448 (R159). -/
def e4m3Encode : FVal → Nat
  | .nan => 0x7F
  | .inf neg => 0x7E + if neg then 128 else 0
  | .fin neg m e =>
    let c := if m = 0 then 0 else magCode 3 (-9) m e
    (if c ≤ 0x7E then c else 0x7E) + if neg then 128 else 0

/-- A value converted to E5M2: nearest, ties to even, finite values saturating at ±57,344 (R159). -/
def e5m2Encode : FVal → Nat
  | .fin neg m e =>
    let c := if m = 0 then 0 else magCode 2 e5m2.qmin m e
    (if c < e5m2.infCode then c else 0x7B) + if neg then 128 else 0
  | v => e5m2.encode v

/-- The smallest E4M3 scale code not below a positive value (R144); 0x7E when the value is above 448. -/
def e4m3Up : FVal → Nat
  | .fin false m e =>
    if m = 0 then 0 else
      let q := quantum 3 (-9) m e
      let c := (q + 9).toNat * 8 + upAt m e q
      if c ≤ 0x7E then c else 0x7E
  | _ => 0x7E

/-- The smallest FP16 code not below a positive value (R144); above the format's range, the code of infinity. -/
def fp16Up : FVal → Nat
  | .fin false m e =>
    if m = 0 then 0 else
      let q := quantum 10 fp16.qmin m e
      let c := (q - fp16.qmin).toNat * 2 ^ 10 + upAt m e q
      if c < fp16.infCode then c else fp16.infCode
  | _ => fp16.infCode

/-- The integer square root, one binary digit at a time (`k` digits). -/
def isqrtGo : Nat → Nat → Nat → Nat
  | 0, _, r => r
  | k + 1, n, r =>
    let c := r + 2 ^ k
    if c * c ≤ n then isqrtGo k n c else isqrtGo k n r

/-- The correctly rounded FP32 square root; NaN below 0. -/
def F32.sqrtRn (x : F32) : F32 :=
  match x.val with
  | .nan => toF32 .nan
  | .inf neg => if neg then toF32 .nan else F32.posInf
  | .fin neg m e =>
    if m = 0 then x
    else if neg then toF32 .nan
    else
      let odd := e % 2 != 0
      let m2 := if odd then m * 2 else m
      let e2 := if odd then e - 1 else e
      let n := m2 <<< 80
      let r := isqrtGo 60 n 0
      toF32 (.fin false (2 * r + if r * r = n then 0 else 1) ((e2 - 80) / 2 - 1))

/-- ln 2 in units of 2^-80, rounded down. -/
def lnTwo : Int := 837963523372001241319907

/-- The power series of the exponential from its n-th term on, at r/2^80, in units of 2^-80: `t` is the term before. -/
def expSeries (r : Int) : Nat → Nat → Int → Int
  | 0, _, _ => 0
  | k + 1, n, t => let u := t * r / ((n : Int) * 2 ^ 80); u + expSeries r k (n + 1) u

/-- e^x of the finite number x = (−1)^neg × m × 2^e, rounded to FP32: x = k ln 2 + r with |r| about ln 2 / 2 at most, and e^x = 2^k e^r.
Below −104 it is 0, from 89 on infinite. -/
def F32.expRn (neg : Bool) (m : Nat) (e : Int) : F32 :=
  let y : Int := if 0 ≤ e + 80 then ((m <<< (min (e + 80) 200).toNat : Nat) : Int) else ((m >>> (-(e + 80)).toNat : Nat) : Int)
  let x : Int := if neg then -y else y
  if x < -(104 * 2 ^ 80) then F32.zero
  else if 89 * 2 ^ 80 ≤ x then F32.posInf
  else
    let k := (2 * x + lnTwo) / (2 * lnTwo)
    let r := x - k * lnTwo
    toF32 (.fin false (2 ^ 80 + expSeries r 24 1 (2 ^ 80)).toNat (k - 80))

/-- The FP32 code `k` units in the last place away from a positive finite code, kept inside the finite positive codes. -/
def F32.ulps (x : F32) (k : Int) : F32 :=
  let v := ((x.toNat : Int) + k).toNat
  BitVec.ofNat 32 (if v < 0x7F800000 then v else 0x7F7FFFFF)

/-- FP32(1 / √B) for a block size B = 2^k (R138). -/
def invSqrtPow2 (k : Nat) : F32 :=
  if k % 2 = 0 then toF32 (.fin false 1 (-((k / 2 : Nat) : Int)))
  else toF32 (FVal.mul (F32.val 0x3F3504F3#32) (.fin false 1 (-((k / 2 : Nat) : Int))))

end Sys2Proof.Machine
end

