-- ==== Sys2Proof/Machine/Quant.lean ====
section
/-! DEFINITION. Quantisation, sketches, plot routing and exact distances (R136 to R157). -/

namespace Sys2Proof.Machine

/-- The error in units in the last place drawn from a free value (R157, R164). -/
def ulpErr (n : Nat) : Int := (n % 5 : Nat) - 2

/-- A square root within 2 units in the last place (R157). -/
def F32.sqrt (x : F32) : F32 :=
  let r := x.sqrtRn
  if r.isFinite && !(F32.eq r F32.zero) then F32.ulps r (ulpErr (Config.sqrtUlp x)) else r

/-- A reciprocal within 2 units in the last place (R157); of zero and of infinities exact. -/
def F32.recip (x : F32) : F32 :=
  let r := F32.div F32.one x
  if r.isFinite && !(F32.eq r F32.zero) then
    (F32.ulps (r &&& 0x7FFFFFFF#32) (ulpErr (Config.recipUlp x))) ||| (r &&& 0x80000000#32)
  else r

/-- An exponential within 2 units in the last place (R164). -/
def F32.exp (x : F32) : F32 :=
  match x.val with
  | .nan => toF32 .nan
  | .inf neg => if neg then F32.zero else F32.posInf
  | .fin neg m e =>
    let r := F32.expRn neg m e
    if r.isFinite then F32.ulps r (ulpErr (Config.expUlp x)) else r

/-- Bytes of one input value (R136, R304): the four vector formats. -/
def inBytes (fmt : Nat) : Nat := if fmt = 0 then 4 else if fmt = 1 ∨ fmt = 2 then 2 else 1

/-- One input value converted to FP32 (R136). -/
def inValue (fmt : Nat) (scale : F32) (v : Nat) : F32 :=
  if fmt = 0 then BitVec.ofNat 32 v
  else if fmt = 1 then BitVec.ofNat 32 (v * 65536)
  else if fmt = 2 then toF32 (fp16.decode v)
  else F32.mul (F32.ofInt (signed 8 v)) scale

/-- `n` input values from the bytes at the head of a list (R136). -/
def inValues (fmt : Nat) (scale : F32) (n : Nat) (bs : List Byte) : List F32 :=
  (List.range n).map fun i => inValue fmt scale (field bs (i * inBytes fmt) (inBytes fmt))

/-- An input value that R137 accepts: finite and at most 2^24 in magnitude. -/
def inputOk (x : F32) : Bool := x.isFinite && F32.le x.abs (F32.ofInt (2 ^ 24))

/-- One butterfly stage at stride `h` (R138). -/
def butterfly (h : Nat) (xs : List F32) : List F32 :=
  (List.range xs.length).map fun i =>
    let a := xs.getD i F32.zero
    if i / h % 2 = 0 then F32.add a (xs.getD (i + h) F32.zero)
    else F32.sub (xs.getD (i - h) F32.zero) a

/-- The unnormalised Walsh–Hadamard transform of a block: stages at strides 1, 2, 4 … (R138). -/
def hadamardBlock (k : Nat) (xs : List F32) : List F32 :=
  (List.range k).foldl (fun acc j => butterfly (2 ^ j) acc) xs

/-- Steps 2 and 3 of R138 on every block of B = 2^k values. -/
def hadamard (k : Nat) (xs : List F32) : List F32 :=
  ((chunks (2 ^ k) xs).flatMap (hadamardBlock k)).map fun x => F32.mul x (invSqrtPow2 k)

/-- Step 1 of R138: the sign flips. -/
def flipSigns (signs : List Byte) (xs : List F32) : List F32 :=
  (List.range xs.length).map fun i =>
    let x := xs.getD i F32.zero
    if (signs.getD (i / 8) 0#8).getLsbD (i % 8) then x.neg else x

/-- The rotation of R138. -/
def rotate (signs : List Byte) (k : Nat) (xs : List F32) : List F32 := hadamard k (flipSigns signs xs)
/-- The inverse rotation: steps 2 and 3, then step 1 (R138). -/
def unrotate (signs : List Byte) (k : Nat) (xs : List F32) : List F32 := flipSigns signs (hadamard k xs)

/-- The code range of a vector format (R139): its lowest and highest code. -/
def codeLo (vfmt : Nat) : Int := if vfmt = 0 then -128 else -8
def codeHi (vfmt : Nat) : Int := if vfmt = 0 then 127 else 7
/-- Bits of one code. -/
def codeBits (vfmt : Nat) : Nat := if vfmt = 0 then 8 else 4

/-- Codes packed from byte 0 (R139). -/
def packCodes (vfmt : Nat) (cs : List Int) : List Byte :=
  if vfmt = 0 then cs.map fun c => BitVec.ofNat 8 (twos 8 c)
  else (chunks 2 cs).map fun p => BitVec.ofNat 8 (twos 4 (p.getD 0 0) + 16 * twos 4 (p.getD 1 0))

/-- The `i`-th packed code (R139). -/
def codeAt (vfmt : Nat) (bs : List Byte) (i : Nat) : Int :=
  if vfmt = 0 then signed 8 (bs.getD i 0#8).toNat
  else signed 4 ((bs.getD (i / 2) 0#8).toNat / (if i % 2 = 0 then 1 else 16) % 16)

/-- A scale code that is valid (R140). -/
def scaleCodeOk (c : Nat) : Bool := c ≤ 0x7E
/-- An S2 that is valid (R140): sign bit 0, finite. -/
def s2Ok (v : Nat) : Bool := v < fp16.infCode

/-- The scale of a group: E4M3 code times FP16 S2, exact in FP32 (R140). -/
def groupScale (code s2 : Nat) : F32 := toF32 (FVal.mul (e4m3Decode code) (fp16.decode s2))

/-- Codes and parameters of a vector (R139, R140): scales and zero points per group. -/
structure Coded where
  codes : List Int
  s2 : Nat
  scales : List F32
  scaleCodes : List Nat
  zps : List Int
  deriving DecidableEq, Repr

/-- round(y / s) with ties to even (R141). -/
def roundDiv (y s : F32) : Int := (F32.div y s).val.toIntRne

/-- The unclamped and the clamped code of a value (R141, R146). -/
def rawCode (y s : F32) (z : Int) : Int := if F32.eq s F32.zero then z else roundDiv y s + z
def clampCode (vfmt : Nat) (c : Int) : Int := max (codeLo vfmt) (min c (codeHi vfmt))

/-- Codes of a rotated vector with given scales and zero points, group by group (R141). -/
def codeWith (vfmt g : Nat) (scales : List F32) (zps : List Int) (ys : List F32) : List Int :=
  (List.range ys.length).map fun i =>
    clampCode vfmt (rawCode (ys.getD i F32.zero) (scales.getD (i / g) F32.zero) (zps.getD (i / g) 0))

/-- The least and the greatest of 0 and a list of values (R144). -/
def lowOf (xs : List F32) : F32 := xs.foldl (fun m x => if F32.lt x m then x else m) F32.zero
def highOf (xs : List F32) : F32 := xs.foldl (fun m x => if F32.lt m x then x else m) F32.zero

/-- need_g of R144. -/
def needOf (vfmt : Nat) (grp : List F32) : F32 :=
  F32.div (F32.sub (highOf grp) (lowOf grp)) (F32.ofInt (if vfmt = 0 then 254 else 14))

/-- Per-vector coding (R144); none for a vector that cannot be coded. Where need_g is not 0 but need_g / S2 is too small for a scale code
above 0x00, the pseudocode divides by 0: the group takes zero point 0, as one whose need_g is 0 (DESIGN CHOICE, log 147). -/
def codePerVector (vfmt g : Nat) (ys : List F32) : Option Coded :=
  let grps := chunks g ys
  let needs := grps.map (needOf vfmt)
  let top := needs.foldl (fun m x => if F32.lt m x then x else m) F32.zero
  if F32.eq top F32.zero then
    some ⟨ys.map fun _ => 0, 0, grps.map fun _ => F32.zero, grps.map fun _ => 0, grps.map fun _ => 0⟩
  else if F32.lt (F32.ofInt 29345792) top then none
  else
    let s2 := fp16Up (F32.div top (F32.ofInt 448)).val
    let s2v := toF32 (fp16.decode s2)
    let codes := needs.map fun n => if F32.eq n F32.zero then 0 else e4m3Up (F32.div n s2v).val
    let scales := codes.map fun c => groupScale c s2
    let zps := (List.range grps.length).map fun i =>
      if codes.getD i 0 = 0 then 0
      else codeLo vfmt - roundDiv (lowOf (grps.getD i [])) (scales.getD i F32.zero)
    some ⟨codeWith vfmt g scales zps ys, s2, scales, codes, zps⟩

/-- The parameter block of R143. -/
def paramBlock (vfmt : Nat) (c : Coded) : List Byte :=
  leBytes 2 c.s2 ++ c.scaleCodes.map (BitVec.ofNat 8) ++ packCodes vfmt c.zps

/-- Bytes of a vector record (R69). -/
def recordBytes (dim vfmt g qmode : Nat) : Nat :=
  let ng := dim / g
  (if vfmt = 0 then dim else dim / 2) +
    (if qmode = 0 then 2 + ng + (if vfmt = 0 then ng else (ng + 1) / 2) else 0)

/-- The calibration table of a bundle's CALIB section (R145). -/
structure Calib where
  scales : List F32
  zps : List Int
  deriving DecidableEq, Repr

/-- Number of bytes of packed zero points. -/
def zpBytes (vfmt ng : Nat) : Nat := if vfmt = 0 then ng else (ng + 1) / 2

/-- Read a CALIB section. -/
def readCalib (vfmt ng : Nat) (bs : List Byte) : Calib :=
  let n2 := (ng + 15) / 16
  let sOff := 16 + 2 * n2
  ⟨(List.range ng).map fun g => groupScale (field bs (sOff + g) 1) (field bs (16 + 2 * (g / 16)) 2),
   (List.range ng).map fun g => codeAt vfmt (bs.drop (sOff + ng)) g⟩

/-- The checks of R145 on a CALIB section. -/
def calibOk (vfmt ng : Nat) (bs : List Byte) : Bool :=
  let n2 := (ng + 15) / 16
  let sOff := 16 + 2 * n2
  field bs 0 4 == 0x4C435A47 && field bs 4 2 == ng && zeroAt bs 6 10 &&
    bs.length == sOff + ng + zpBytes vfmt ng &&
    (List.range n2).all (fun i => let v := field bs (16 + 2 * i) 2; s2Ok v && v != 0) &&
    (List.range ng).all (fun g => let c := field bs (sOff + g) 1; decide (1 ≤ c) && decide (c ≤ 0x7E))

/-- A vector record read back: codes, scales and zero points; none for a bad record (R142). -/
def readRecord (dim vfmt g qmode : Nat) (cal : Calib) (bs : List Byte) : Option Coded :=
  let ng := dim / g
  let off := if vfmt = 0 then dim else dim / 2
  let codes := (List.range dim).map (codeAt vfmt bs)
  if qmode = 1 then some ⟨codes, 0, cal.scales, [], cal.zps⟩
  else
    let s2 := field bs off 2
    let sc := (List.range ng).map fun i => field bs (off + 2 + i) 1
    if s2Ok s2 && sc.all scaleCodeOk then
      some ⟨codes, s2, sc.map (groupScale · s2), sc, (List.range ng).map (codeAt vfmt (bs.drop (off + 2 + ng)))⟩
    else none

/-- The dequantised value of a code (R141). -/
def dequant (s : F32) (c z : Int) : F32 := F32.mul s (F32.ofInt (c - z))

/-- The dequantised vector. -/
def Coded.values (g : Nat) (c : Coded) : List F32 :=
  (List.range c.codes.length).map fun i =>
    dequant (c.scales.getD (i / g) F32.zero) (c.codes.getD i 0) (c.zps.getD (i / g) 0)

/-- Sum of products of two integer lists. -/
def dotInt (as bs : List Int) : Int := (List.zipWith (· * ·) as bs).foldl (· + ·) 0

/-- The FP32 sum of list elements in order (R154, R156). -/
def sumF (xs : List F32) : F32 := xs.foldl F32.add F32.zero

/-- Σ over groups, ascending, of s_g × Σ w_i × (c_i − z_g) (R154, R156). -/
def groupDot (g : Nat) (c : Coded) (w : List Int) : F32 :=
  sumF ((List.range c.scales.length).map fun k =>
    let z := c.zps.getD k 0
    F32.mul (c.scales.getD k F32.zero)
      (F32.ofInt (dotInt (w.drop (k * g) |>.take g) ((c.codes.drop (k * g)).take g |>.map (· - z)))))

/-- `n` int8 values at a byte offset. -/
def int8Row (bs : List Byte) (off n : Nat) : List Int :=
  (slice bs off n).map fun b => signed 8 b.toNat

/-- The sketch of a vector from its codes and PROJ (R154): bit j of the number is bit j of the sketch. -/
def sketchOf (dim width g : Nat) (proj : List Byte) (c : Coded) : Nat :=
  sumNat ((List.range width).map fun j =>
    if F32.lt F32.zero (groupDot g c (int8Row proj (j * dim) dim)) then 2 ^ j else 0)

/-- n_p of a plot (R156). -/
def plotNorm (dim plots : Nat) (cent : List Byte) (p : Nat) : F32 :=
  let r := toF32 (fp16.decode (field cent (plots * dim + 2 * p) 2))
  let c := int8Row cent (p * dim) dim
  F32.mul (F32.mul r r) (F32.ofInt (dotInt c c))

/-- score_p of a plot (R156). -/
def plotScore (dim plots g : Nat) (cent : List Byte) (c : Coded) (p : Nat) : F32 :=
  let r := toF32 (fp16.decode (field cent (plots * dim + 2 * p) 2))
  F32.sub (F32.mul (F32.add r r) (groupDot g c (int8Row cent (p * dim) dim))) (plotNorm dim plots cent p)

/-- The centroid order: plots by score, highest first, then by number (R156). -/
def centroidOrder (dim plots g : Nat) (cent : List Byte) (c : Coded) : List Nat :=
  (sortBy (fun a b : Nat × F32 => F32.lt b.2 a.2)
    ((List.range plots).map fun p => (p, plotScore dim plots g cent c p))).map (·.1)

/-- d_g of R157: an exact integer. -/
def groupD (zq zx : Int) (cq cx : List Int) (g : Nat) : Int :=
  dotInt cq cx - zx * cq.foldl (· + ·) 0 - zq * cx.foldl (· + ·) 0 + (g : Int) * zq * zx

/-- The scaled group terms of two coded vectors (R157). -/
def groupTerms (g : Nat) (q x : Coded) : List F32 :=
  (List.range q.scales.length).map fun k =>
    F32.mul (F32.mul (q.scales.getD k F32.zero) (x.scales.getD k F32.zero))
      (F32.ofInt (groupD (q.zps.getD k 0) (x.zps.getD k 0)
        ((q.codes.drop (k * g)).take g) ((x.codes.drop (k * g)).take g) g))

/-- The FP32 sum of scaled group terms as a run divides them (R121, R133): each part is added up by itself, in some order, and the partial
sums are added as they arrive. -/
def sumRun (run : Nat) (ts : List F32) : F32 :=
  let ps := ts.zipIdx.map fun x => (Config.groupPart run x.2, Config.groupPlace run x.2, x.1)
  let add (xs : List F32) : F32 := match xs with | [] => F32.zero | x :: xs => xs.foldl F32.add x
  let parts := sortBy (fun a b => decide (a < b)) (dedupKeep (ps.map (·.1)))
  add (parts.map fun k => add ((sortBy (fun a b => decide (a.2.1 < b.2.1)) (ps.filter (·.1 == k))).map (·.2.2)))

/-- The exact score of METRIC 1 to 3 (R121, R157). `sum` adds the group terms in the order of the run. -/
def exactScore (metric g : Nat) (sum : List F32 → F32) (q x : Coded) : F32 :=
  let qx := sum (groupTerms g q x)
  if metric = 1 then qx.neg
  else
    let qq := sum (groupTerms g q q)
    let xx := sum (groupTerms g x x)
    if metric = 2 then
      let r := F32.sub (F32.add qq xx) (F32.mul (F32.ofInt 2) qx)
      if F32.lt r F32.zero then F32.zero else r
    else if F32.eq qq F32.zero || F32.eq xx F32.zero then F32.one
    else F32.sub F32.one (F32.mul qx (F32.recip (F32.mul (F32.sqrt qq) (F32.sqrt xx))))

/-- The Hamming similarity W − H of two sketches (R6). -/
def similarity (width a b : Nat) : Nat := width - popcount width (a ^^^ b)

end Sys2Proof.Machine
end

