-- ==== Sys2Proof/Machine/Program.lean ====
section
/-! DEFINITION. Scorer and encoder programs: their layout, their checks and what they compute (R158 to R168). -/

namespace Sys2Proof.Machine

/-- A tensor descriptor (R161). -/
structure Tensor where
  tid : Nat
  cls : Nat
  dtype : Nat
  rows : Nat
  cols : Nat
  feat : Nat
  resvOk : Bool
  woff : Nat
  soff : Nat
  deriving DecidableEq, Repr

/-- An operation record (R163). -/
structure POp where
  op : Nat
  sub : Nat
  out : Nat
  a : Nat
  b : Nat
  c : Nat
  e : Nat
  p0 : Nat
  p1 : Nat
  resvOk : Bool
  deriving DecidableEq, Repr

/-- A parsed program section (R160). -/
structure Program where
  kind : Nat
  nOps : Nat
  nTensors : Nat
  out : Nat
  inCols : Nat
  inDtype : Nat
  wlen : Nat
  headOk : Bool
  tensors : List Tensor
  ops : List POp
  weights : List Byte
  deriving DecidableEq, Repr

/-- Read a tensor descriptor. -/
def readTensor (bs : List Byte) : Tensor :=
  ⟨field bs 0 2, field bs 2 1, field bs 3 1, field bs 4 4, field bs 8 4, field bs 12 1, zeroAt bs 13 3,
   field bs 16 8, field bs 24 8⟩

/-- Read an operation record. -/
def readOp (bs : List Byte) : POp :=
  ⟨field bs 0 1, field bs 1 1, field bs 2 2, field bs 4 2, field bs 6 2, field bs 8 2, field bs 10 2,
   field bs 12 4, field bs 16 4, zeroAt bs 20 12⟩

/-- Read a program section (R160). -/
def readProgram (bs : List Byte) : Program :=
  let nOps := field bs 5 1
  let nT := field bs 6 2
  let opOff := 64 + 32 * nT
  { kind := field bs 4 1
    nOps := nOps
    nTensors := nT
    out := field bs 8 2
    inCols := field bs 10 2
    inDtype := field bs 12 1
    wlen := field bs 16 8
    headOk := field bs 0 4 == 0x47535A47 && zeroAt bs 13 3 && zeroAt bs 24 40 &&
      zeroAt bs (opOff + 32 * nOps) (65536 - (opOff + 32 * nOps))
    tensors := (List.range nT).map fun i => readTensor (slice bs (64 + 32 * i) 32)
    ops := (List.range nOps).map fun i => readOp (slice bs (opOff + 32 * i) 32)
    weights := bs.drop 65536 }

/-- Tensor `t` of a program. -/
def Program.tensor? (p : Program) (t : Nat) : Option Tensor := p.tensors[t]?

/-- A tensor field that is not used (R163). -/
def unusedT : Nat := 0xFFFF

/-- Bytes of a weight's data (R161). -/
def weightBytes (t : Tensor) : Nat :=
  let n := t.rows * t.cols
  if t.dtype = 0 ∨ t.dtype = 6 then 4 * n
  else if t.dtype = 1 then 2 * n
  else if t.dtype = 5 then (n + 1) / 2
  else n

/-- A weight type that carries row scales. -/
def hasScales (dt : Nat) : Bool := dt == 2 || dt == 3 || dt == 4 || dt == 5

/-- Shape and type of a feature (R162): columns and type, none for a feature the kind may not use. -/
def featShape (p : Program) (dim f : Nat) : Option (Nat × Nat) :=
  if p.kind = 0 then
    if f = 0 ∨ f = 1 then some (dim, 0) else if f = 2 then some (4, 0) else if f = 3 then some (1, 6) else none
  else if f = 4 then
    some (p.inCols, if p.inDtype = 0 then 0 else if p.inDtype = 1 then 1 else if p.inDtype = 2 then 4 else 6)
  else none

/-- FP32 values of a weight's data, or of its row scales. -/
def fp32At (p : Program) (off i : Nat) : F32 := BitVec.ofNat 32 (field p.weights (off + 4 * i) 4)

/-- Every FP32 value of a table is finite (R165). -/
def fp32Finite (p : Program) (off n : Nat) : Bool := (List.range n).all fun i => (fp32At p off i).isFinite

/-- The activation is an index source of GATHER (R161). -/
def Program.indexes (p : Program) (t : Nat) : Bool := p.ops.any fun o => o.op == 6 && o.a == t

/-- The checks of R161 and R165 on one descriptor. -/
def tensorOk (p : Program) (dim i : Nat) (t : Tensor) : Bool :=
  t.tid == i && t.resvOk && decide (1 ≤ t.cols) && decide (t.cols ≤ 65536) && decide (t.dtype ≤ 6) &&
  (if t.cls = 0 then
    t.rows == 0 && t.woff == 0 && t.soff == 0xFFFFFFFFFFFFFFFF && featShape p dim t.feat == some (t.cols, t.dtype)
  else if t.cls = 1 then
    t.feat == 0 && decide (1 ≤ t.rows) && decide (t.rows ≤ 16777216) && t.woff % 64 == 0 &&
      decide (t.woff + weightBytes t ≤ p.wlen) &&
      (if hasScales t.dtype then t.soff % 64 == 0 && decide (t.soff + 4 * t.rows ≤ p.wlen) && fp32Finite p t.soff t.rows
       else t.soff == 0xFFFFFFFFFFFFFFFF)
  else if t.cls = 2 then
    t.rows == 0 && t.feat == 0 && t.woff == 0 && t.soff == 0xFFFFFFFFFFFFFFFF && (t.dtype == 0 || (t.dtype == 6 && p.indexes t.tid))
  else false)

/-- Whether a tensor has n rows (true) or 1 row: features 1 to 4 and the activations they reach (R161). -/
def rowsOf (p : Program) (acts : List (Nat × Bool)) (t : Nat) : Bool :=
  match p.tensor? t with
  | none => false
  | some d => if d.cls = 0 then d.feat != 0 else if d.cls = 2 then (acts.lookup t).getD false else false

/-- The tensors an operation reads as data (not as a table). -/
def POp.inputs (o : POp) : List Nat :=
  if o.op = 2 ∧ o.sub ≤ 4 then [o.a, o.b] else if o.op = 7 then [o.a, o.b] else [o.a]

/-- The tables an operation reads. -/
def POp.tables (o : POp) : List Nat :=
  if o.op = 1 then o.b :: (if o.c = unusedT then [] else [o.c])
  else if o.op = 3 then [o.e]
  else if o.op = 4 then (if o.c = unusedT then [] else [o.c]) ++ (if o.e = unusedT then [] else [o.e])
  else if o.op = 6 then [o.b]
  else []

/-- A tensor an operation may read as data: a feature, an activation already written, or a weight of one row, which stands for every row
(R164 names `A` as activation or feature only for GEMM; an input has 1 row or n, R161). -/
def readable (p : Program) (acts : List (Nat × Bool)) (t : Nat) : Bool :=
  match p.tensor? t with
  | none => false
  | some d => d.cls == 0 || (d.cls == 1 && d.rows == 1) || (d.cls == 2 && (acts.lookup t).isSome)

/-- An FP32 weight of 1 × n (bias, γ, β, LUT table). -/
def fp32Row (p : Program) (t n : Nat) : Bool :=
  match p.tensor? t with
  | none => false
  | some d => d.cls == 1 && d.dtype == 0 && d.rows == 1 && d.cols == n && fp32Finite p d.woff n

/-- Shapes, types and parameters of one operation (R164, R165), and the columns of its output. An int32 operand is taken as its FP32 value
wherever R164 names no type (DEDUCED, log 146). -/
def opShape (p : Program) (o : POp) : Option Nat :=
  match p.tensor? o.a with
  | none => none
  | some ta =>
    let b? := p.tensor? o.b
    let f0 : F32 := BitVec.ofNat 32 o.p0
    let f1 : F32 := BitVec.ofNat 32 o.p1
    if o.op = 1 then
      match b? with
      | some tb =>
        if ta.cls ≠ 1 ∧ tb.cls = 1 ∧ 1 ≤ tb.dtype ∧ tb.dtype ≤ 5 ∧ tb.cols = ta.cols ∧ tb.rows ≤ 16384 ∧
           o.e = unusedT ∧ o.sub ≤ (if tb.dtype = 5 then 1 else 0) ∧ o.p0 = 0 ∧ o.p1 = 0 ∧
           (o.c = unusedT ∨ fp32Row p o.c tb.rows = true)
        then some tb.rows else none
      | none => none
    else if o.op = 2 then
      if o.c = unusedT ∧ o.e = unusedT then
        if o.sub ≤ 4 then
          match b? with
          | some tb =>
            if o.p0 = 0 ∧ o.p1 = 0 ∧ (tb.cols = ta.cols ∨ tb.cols = 1) then some ta.cols
            else none
          | none => none
        else if o.sub = 5 then (if o.b = unusedT ∧ o.p0 = 0 ∧ o.p1 = 0 then some ta.cols else none)
        else if o.sub = 6 then (if o.b = unusedT then some ta.cols else none)
        else none
      else none
    else if o.op = 3 then
      if o.sub = 0 ∧ o.b = unusedT ∧ o.c = unusedT ∧ fp32Row p o.e 257 = true ∧ f0.isFinite = true ∧ f1.isFinite = true ∧
         F32.lt f0 f1 = true then some ta.cols else none
    else if o.op = 4 then
      if o.sub = 0 ∧ o.b = unusedT ∧ o.p1 = 0 ∧ (o.c = unusedT ∨ fp32Row p o.c ta.cols = true) ∧
         (o.e = unusedT ∨ fp32Row p o.e ta.cols = true) ∧ f0.isFinite = true ∧ F32.lt F32.zero f0 = true
      then some ta.cols else none
    else if o.op = 5 then
      if o.sub = 0 ∧ o.b = unusedT ∧ o.c = unusedT ∧ o.e = unusedT ∧ o.p0 = 0 ∧ o.p1 = 0 then some ta.cols else none
    else if o.op = 6 then
      match b? with
      | some tb =>
        if o.sub = 0 ∧ o.c = unusedT ∧ o.e = unusedT ∧ ta.dtype = 6 ∧ ta.cols = 1 ∧ tb.cls = 1 ∧ o.p0 ≤ 31 then some tb.cols else none
      | none => none
    else if o.op = 7 then
      match b? with
      | some tb =>
        if o.sub = 0 ∧ o.c = unusedT ∧ o.e = unusedT ∧ o.p0 = 0 ∧ o.p1 = 0 ∧
           ta.cols + tb.cols ≤ 16384 then some (ta.cols + tb.cols) else none
      | none => none
    else none

/-- The second input of EWISE has the columns of the first, or is 1 × 1 (R164). -/
def oneByOne (p : Program) (acts : List (Nat × Bool)) (o : POp) : Bool :=
  if o.op = 2 ∧ o.sub ≤ 4 then
    ((p.tensor? o.a).map (·.cols)) == ((p.tensor? o.b).map (·.cols)) || !rowsOf p acts o.b
  else true

/-- Check the operations in order; the activations written so far with their row kind. -/
def opsOk (p : Program) : List POp → List (Nat × Bool) → Option (List (Nat × Bool))
  | [], acts => some acts
  | o :: os, acts =>
    match p.tensor? o.out, opShape p o with
    | some t, some cols =>
      if o.resvOk && t.cls == 2 && t.cols == cols && (acts.lookup o.out).isNone && (t.dtype == 0 || t.dtype == 6) &&
         o.inputs.all (readable p acts) && oneByOne p acts o && o.tables.all (fun w => ((p.tensor? w).map (·.cls)) == some 1)
      then opsOk p os ((o.out, o.inputs.any (rowsOf p acts)) :: acts)
      else none
    | _, _ => none

/-- The checks of R165 on a program section of the kind, for the epoch's D. -/
def programOk (kind dim : Nat) (bs : List Byte) : Bool :=
  let p := readProgram bs
  decide (65536 ≤ bs.length) && bs.length == 65536 + p.wlen && decide (p.wlen ≤ 536870912) && p.headOk && p.kind == kind &&
  decide (1 ≤ p.nOps) && decide (p.nOps ≤ 64) && decide (1 ≤ p.nTensors) && decide (p.nTensors ≤ 512) &&
  (if kind = 0 then p.inCols == 0 && p.inDtype == 0
   else decide (1 ≤ p.inCols) && decide (p.inCols ≤ 16384) && decide (p.inDtype ≤ 3)) &&
  (List.range p.nTensors).all (fun i => match p.tensor? i with | some t => tensorOk p dim i t | none => false) &&
  (let acts := p.tensors.filter (·.cls == 2)
   acts.all (fun t => decide (t.cols ≤ 16384)) && decide (sumNat (acts.map (·.cols)) ≤ 65536)) &&
  (match opsOk p p.ops [] with
   | none => false
   | some acts =>
     match p.tensor? p.out with
     | none => false
     | some t => t.cls == 2 && (acts.lookup p.out).getD false && t.cols == (if kind = 0 then 1 else dim) &&
         (p.tensors.filter (·.cls == 2)).all (fun a => (acts.lookup a.tid).isSome))

/-- A value of a running program: rows of FP32 values. -/
abbrev Rows := List (List F32)

/-- One element of a weight, as its code times its row's scale, or as its own value (R161). -/
def weightVal (p : Program) (t : Tensor) (r c : Nat) : F32 :=
  let i := r * t.cols + c
  let s := fp32At p t.soff r
  if t.dtype = 0 then fp32At p t.woff i
  else if t.dtype = 1 then BitVec.ofNat 32 (field p.weights (t.woff + 2 * i) 2 * 65536)
  else if t.dtype = 2 then F32.mul (toF32 (e4m3Decode (field p.weights (t.woff + i) 1))) s
  else if t.dtype = 3 then F32.mul (toF32 (e5m2.decode (field p.weights (t.woff + i) 1))) s
  else if t.dtype = 4 then F32.mul (F32.ofInt (signed 8 (field p.weights (t.woff + i) 1))) s
  else if t.dtype = 6 then F32.ofInt (signed 32 (field p.weights (t.woff + 4 * i) 4))
  else F32.mul (F32.ofInt (codeAt 1 (p.weights.drop t.woff) i)) s

/-- The integer code of an int8 or int4 weight element. -/
def weightCode (p : Program) (t : Tensor) (r c : Nat) : Int :=
  let i := r * t.cols + c
  if t.dtype = 4 then signed 8 (field p.weights (t.woff + i) 1) else codeAt 1 (p.weights.drop t.woff) i

/-- A row of a weight. -/
def weightRow (p : Program) (t : Tensor) (r : Nat) : List F32 := (List.range t.cols).map (weightVal p t r)

/-- Row `r` of a value, a single row standing for every row (R164). -/
def rowAt (v : Rows) (r : Nat) : List F32 := if v.length = 1 then v.getD 0 [] else v.getD r []

/-- One row of GEMM for one row of weights (R164). -/
def gemmCell (p : Program) (t : Tensor) (sub : Nat) (a : List F32) (bias : F32) (r : Nat) : F32 :=
  if t.dtype = 4 ∨ t.dtype = 5 then
    let m := a.foldl (fun m x => if F32.lt m x.abs ∨ x.isNan then x.abs else m) F32.zero
    let step := F32.div m (F32.ofInt (if sub = 1 then 7 else 127))
    if F32.eq step F32.zero then bias
    else
      let s := dotInt (a.map fun x => roundDiv x step) ((List.range t.cols).map (weightCode p t r))
      let v := if step.isFinite then F32.mul (F32.mul (F32.ofInt s) step) (fp32At p t.soff r) else toF32 .nan
      F32.add v bias
  else
    let conv (x : F32) : F32 :=
      if t.dtype = 2 then toF32 (e4m3Decode (e4m3Encode x.val))
      else if t.dtype = 3 then toF32 (e5m2.decode (e5m2Encode x.val))
      else toF32 (bf16.decode (bf16.encode x.val))
    let raw (c : Nat) : F32 :=
      let i := r * t.cols + c
      if t.dtype = 2 then toF32 (e4m3Decode (field p.weights (t.woff + i) 1))
      else if t.dtype = 3 then toF32 (e5m2.decode (field p.weights (t.woff + i) 1))
      else weightVal p t r c
    let acc := sumF ((List.range t.cols).map fun c => F32.mul (conv (a.getD c F32.zero)) (raw c))
    F32.add (if hasScales t.dtype then F32.mul acc (fp32At p t.soff r) else acc) bias

/-- The LUT operator on one value (R164). -/
def lutCell (p : Program) (t : Tensor) (lo hi x : F32) : F32 :=
  if x.isNan then x
  else
    let u := F32.div (F32.mul (F32.sub x lo) (F32.ofInt 256)) (F32.sub hi lo)
    if F32.le u F32.zero then fp32At p t.woff 0
    else if F32.le (F32.ofInt 256) u then fp32At p t.woff 256
    else
      let k := u.val.floor
      let v0 := fp32At p t.woff k.toNat
      let v1 := fp32At p t.woff (k.toNat + 1)
      F32.add v0 (F32.mul (F32.sub u (F32.ofInt k)) (F32.sub v1 v0))

/-- The LAYERNORM operator on one row (R164). -/
def layerNorm (eps : F32) (gam bet : Option (List F32)) (row : List F32) : List F32 :=
  let n := F32.ofInt row.length
  let mu := F32.div (sumF row) n
  let var := F32.div (sumF (row.map fun x => let d := F32.sub x mu; F32.mul d d)) n
  let inv := F32.recip (F32.sqrt (F32.add var eps))
  (List.range row.length).map fun i =>
    let y := F32.mul (F32.sub (row.getD i F32.zero) mu) inv
    let y := match gam with | some g => F32.mul y (g.getD i F32.one) | none => y
    match bet with | some b => F32.add y (b.getD i F32.zero) | none => y

/-- The SOFTMAX operator on one row (R164). -/
def softmax (row : List F32) : List F32 :=
  let m := row.foldl F32.max (row.getD 0 F32.zero)
  let es := row.map fun x => F32.exp (F32.sub x m)
  let inv := F32.recip (sumF es)
  es.map fun e => F32.mul e inv

/-- The EWISE operator on two values (R164). -/
def ewise (sub : Nat) (a b : F32) : F32 :=
  if sub = 0 then F32.add a b else if sub = 1 then F32.sub a b else if sub = 2 then F32.mul a b
  else if sub = 3 then F32.max a b else F32.min a b

/-- The index of GATHER: (A >> shift) AND mask of the int32 value (R164). -/
def gatherIdx (a shift mask : Nat) : Nat := (a >>> shift) &&& mask

/-- A running program: its values by tensor, integer features apart, and GATHER indices out of range. -/
structure PRun where
  vals : List (Nat × Rows)
  oob : Nat
  deriving DecidableEq, Repr

/-- The value of a data tensor: an activation, a feature, or a weight's rows. -/
def tensorVal (p : Program) (feats : Nat → Rows) (st : PRun) (t : Nat) : Rows :=
  match p.tensor? t with
  | none => []
  | some d =>
    if d.cls = 0 then feats d.feat
    else if d.cls = 1 then (List.range d.rows).map (weightRow p d)
    else (st.vals.lookup t).getD []

/-- The int32 index source of GATHER, by row: a feature's own values, or an activation's FP32 values as integers
(DEDUCED: R161 holds activations in FP32 whatever their type; log 14). -/
def gatherSrc (p : Program) (feats : Nat → Rows) (ints : Nat → List Nat) (st : PRun) (ta : Tensor) (r : Nat) : Nat :=
  if ta.cls = 0 then (ints ta.feat).getD r 0
  else if ta.cls = 1 then field p.weights ta.woff 4
  else twos 32 ((rowAt (tensorVal p feats st ta.tid) r).getD 0 F32.zero).val.toIntRne

/-- Columns of all activations (R165, R166). -/
def Program.actCols (p : Program) : Nat := sumNat ((p.tensors.filter (·.cls == 2)).map (·.cols))
/-- Rows of a block of the program: as many as fit the 8 MiB activation area of an array, 64 at most (R166, R167). -/
def Program.blockRows (p : Program) : Nat := min 64 (8388608 / (4 * max 1 p.actCols))
/-- Bytes of the weights that a die's weight area would hold: those of every operator but GATHER, with their row scales (R166, R167). -/
def Program.heldWeights (p : Program) : Nat :=
  let used := dedupKeep (p.ops.flatMap fun o => (if o.op = 6 then [] else o.tables) ++ o.inputs)
  sumNat ((p.tensors.filter fun t => t.cls == 1 && used.contains t.tid).map fun t =>
    weightBytes t + if hasScales t.dtype then 4 * t.rows else 0)

/-- Run one operation over a block of `n` rows (R164). `ints` gives the int32 rows of an integer feature. -/
def runOp (p : Program) (feats : Nat → Rows) (ints : Nat → List Nat) (n : Nat) (st : PRun) (o : POp) : PRun :=
  let va := tensorVal p feats st o.a
  let vb := if o.b = unusedT then [] else tensorVal p feats st o.b
  let rows := if o.inputs.any (fun t => match p.tensor? t with
      | some d => if d.cls = 0 then d.feat != 0 else d.cls == 2 && ((st.vals.lookup t).getD []).length != 1
      | none => false) then n else 1
  let f0 : F32 := BitVec.ofNat 32 o.p0
  let f1 : F32 := BitVec.ofNat 32 o.p1
  let tb := p.tensor? o.b
  let row? (t : Nat) : Option (List F32) := if t = unusedT then none else (tensorVal p feats st t)[0]?
  let res : Rows := (List.range rows).map fun r =>
    let a := rowAt va r
    if o.op = 1 then
      match tb with
      | some t => (List.range t.rows).map fun k => gemmCell p t o.sub a (((row? o.c).getD []).getD k F32.zero) k
      | none => []
    else if o.op = 2 then
      if o.sub ≤ 4 then
        let b := rowAt vb r
        (List.range a.length).map fun i => ewise o.sub (a.getD i F32.zero) (if b.length = 1 then b.getD 0 F32.zero else b.getD i F32.zero)
      else if o.sub = 5 then a.map F32.abs
      else a.map fun x => F32.add (F32.mul x f0) f1
    else if o.op = 3 then
      match p.tensor? o.e with
      | some t => a.map (lutCell p t f0 f1)
      | none => []
    else if o.op = 4 then layerNorm f0 (row? o.c) (row? o.e) a
    else if o.op = 5 then softmax a
    else if o.op = 6 then
      match tb, p.tensor? o.a with
      | some t, some ta =>
        let i := gatherIdx (gatherSrc p feats ints st ta r) o.p0 o.p1
        if i < t.rows then weightRow p t i else List.replicate t.cols F32.zero
      | _, _ => []
    else a ++ rowAt vb r
  let bad := if o.op = 6 then
      match tb, p.tensor? o.a with
      | some t, some ta => ((List.range rows).filter fun r => decide (t.rows ≤ gatherIdx (gatherSrc p feats ints st ta r) o.p0 o.p1)).length
      | _, _ => 0
    else 0
  ⟨(o.out, res) :: st.vals, st.oob + bad⟩

/-- Run a program over a block: the rows of OUT, and the GATHER indices out of range. -/
def runProgram (p : Program) (feats : Nat → Rows) (ints : Nat → List Nat) (n : Nat) : Rows × Nat :=
  let st := p.ops.foldl (runOp p feats ints n) ⟨[], 0⟩
  ((List.range n).map (rowAt ((st.vals.lookup p.out).getD [])), st.oob)

end Sys2Proof.Machine
end

