-- ==== Sys2Proof/Machine/StCorpus.lean ====
section
/-! DEFINITION. Types of a pavilion's corpus: stores, lean-to, bundles, pages, update batches (R54 to R79, R169 to R231). -/

namespace Sys2Proof.Machine

/-- Bytes by address: strictly rising, no listed byte 0; an unlisted byte reads 0 (R203, R239). -/
abbrev Mem := List Host.Cell

/-- The fields of a slot-table entry or lean-to record (R63, R66). -/
structure Rec where
  eid : Nat
  ver : Frame
  elem : Nat
  flags : Nat
  payLen : Nat
  attr : Nat
  qepoch : Nat
  deriving DecidableEq, Repr

/-- A tile tag (R222). -/
structure Tag where
  plot : Nat
  tile : Nat
  epoch : Nat
  store : Nat
  width : Nat
  pv : Nat
  deriving DecidableEq, Repr

/-- One position of a tile: its sketch, its slot-table entry (none in a pad slot), its deletion bit (R58, R63 to R65). -/
structure Slot where
  sketch : Nat
  ent : Option Rec
  deleted : Bool
  deriving DecidableEq, Repr

/-- A tile of a main store (R58 to R60). -/
structure Tile where
  num : Nat
  tag : Tag
  slots : List Slot
  deriving DecidableEq, Repr

/-- A plot directory entry and its tile list (R61): TLIST is where the list stands in the corpus system area, in units of 64 bytes. -/
structure PlotEnt where
  plot : Nat
  quad : Nat
  tiles : List Nat
  lastFill : Nat
  tlist : Nat
  deriving DecidableEq, Repr

/-- What the EID locator keeps of a version that the node holds beside its places (R171, R178): the identity of the update that made it. -/
structure LocEnt where
  eid : Nat
  ver : Frame
  elem : Nat
  node : Nat
  ring : Nat
  seq : Nat
  deriving DecidableEq, Repr

/-- A lean-to entry (R66, R67). -/
structure LeanEnt where
  sketch : Nat
  ent : Rec
  plot : Nat
  /-- The frame in which it was appended; it commits at the tick that ends it (R32, R172). -/
  appended : Frame
  committed : Bool
  /-- The batch it belongs to: admitting node, ring, SEQ, and the model's number of a local batch. -/
  node : Nat
  ring : Nat
  seq : Nat
  batch : Nat
  /-- The entry was taken out (R45, R368) and its place stays until a merge pass takes it. -/
  gone : Bool
  deriving DecidableEq, Repr

/-- A lean-to part: its size, the index of its head, its entries from the head, the entries reserved (R171) and those freed
by a merge pass that still count as full (R183). -/
structure LeanPart where
  size : Nat
  head : Nat
  ents : List LeanEnt
  reserved : Nat
  freed : Nat
  deriving DecidableEq, Repr

/-- A part that holds nothing. -/
def LeanPart.none : LeanPart := ⟨0, 0, [], 0, 0⟩
/-- The entries that have not been taken out. -/
def LeanPart.live (l : LeanPart) : List LeanEnt := l.ents.filter fun e => !e.gone

/-- A pad slot (R64). -/
def Slot.pad : Slot := ⟨0, .none, true⟩

/-- The per-epoch structures of a pavilion (R56). -/
structure Store where
  epoch : Nat
  width : Nat
  tiles : List Tile
  dir : List PlotEnt
  parts : List LeanPart
  nextTile : Nat
  /-- Tile numbers that may be used again (R183). -/
  freeTiles : List Nat
  /-- The first unit of the corpus system area beyond the tile lists. -/
  nextList : Nat
  deriving DecidableEq, Repr

/-- A model bundle: the header fields of R76 and the image. -/
structure Bundle where
  epoch : Nat
  dim : Nat
  hblock : Nat
  width : Nat
  vfmt : Nat
  group : Nat
  qmode : Nat
  plots : Nat
  /-- Offset and length of the six sections, in table order. -/
  secs : List (Nat × Nat)
  digest : List Byte
  image : List Byte
  deriving DecidableEq, Repr

/-- A delete-index entry (R173). -/
structure DelEnt where
  eid : Nat
  ver : Frame
  del : Frame
  /-- Only the entry with this element number, where two updates of one EID share a frame (R170, R174). -/
  elem : Option Nat
  deriving DecidableEq, Repr

/-- The states of a page of the host area (R203). -/
inductive PState where
  | unwritten | t1Only | t1OverT2 | t1OverT3 | t2 | t3
  deriving DecidableEq, Repr

/-- A copy in progress of a page (R208, R209): its target tier, whether it is a policy demotion, the repeats so far,
the sub-blocks dirtied since the copy began, and the work item that asked for it. -/
structure Copy where
  tier : Nat
  policy : Bool
  tries : Nat
  redirty : Nat
  work : Option Nat
  /-- Sub-blocks skipped because a word could not be read (R226). -/
  skipped : Nat
  /-- The fourth attempt of TIER_MIGRATE: writes to the page wait for the switch (R209). -/
  hold : Bool
  deriving DecidableEq, Repr

/-- A 64-byte word of a T1 frame that does not read as written (R219): its index in the page, its stack, and the symbols of 72 that
differ, each with what is added to it. -/
structure WordErr where
  word : Nat
  stack : Nat
  syms : List (Nat × Byte)
  deriving DecidableEq, Repr

/-- A page that is not in its initial state (R203 to R213). -/
structure Page where
  no : Nat
  st : PState
  dirty : Nat
  pinned : Bool
  /-- Pages of exported windows keep a pin of their own (R350). -/
  winPins : Nat
  misses : Nat
  lastAcc : Frame
  /-- A committed T3 copy exists (R213). -/
  durable : Bool
  copy : Option Copy
  /-- Words of the frame that do not read as written (R219, R226). -/
  errs : List WordErr
  /-- The page's place in the T2 window, while it has one (R215). -/
  place : Nat
  deriving DecidableEq, Repr

/-- Recovery states (R194). -/
inductive RState where
  | loading | provisional | confirmed
  deriving DecidableEq, Repr

/-- A frame-mark record of one ingest peer (R172, R175). -/
structure Peer where
  node : Nat
  /-- Marks received without a gap, and those received beyond a gap. -/
  got : Frame
  later : List Frame
  /-- Marks whose entries have committed. -/
  settled : Frame
  /-- Frames since the last mark (R372). -/
  silent : Nat
  deriving DecidableEq, Repr

/-- What an element is in one epoch that takes writes: its plot, sketch, record and, on a node that holds it, element number
(R148, R149, R169, R187). -/
structure ElemVer where
  epoch : Nat
  plot : Nat
  sketch : Nat
  flags : Nat
  qepoch : Nat
  record : List Byte
  elem : Option Nat
  deriving DecidableEq, Repr

/-- An element of a batch in preparation or staged by a peer (R169 to R171): no versions for a delete. -/
structure Elem where
  eid : Nat
  attr : Nat
  payload : List Byte
  /-- The element record as read, for a preparation that has to be made again. -/
  raw : List Byte
  vers : List ElemVer
  /-- Lean-to parts reserved: epoch and quadrant (R171). -/
  parts : List (Nat × Nat)
  withdrawn : Bool
  committed : Bool
  deriving DecidableEq, Repr

/-- How far a local update batch has gone. -/
inductive BatchStage where
  /-- Waits for an earlier batch with the same SEQ (R178). -/
  | seqWait
  | prep
  | admitted
  deriving DecidableEq, Repr

/-- An update batch accepted by this node (R169). -/
structure Batch where
  id : Nat
  work : Nat
  pv : Nat
  ring : Nat
  seq : Nat
  del : Bool
  elems : List Elem
  accepted : Frame
  /-- Peers whose pre-notice acknowledgement is missing. -/
  await_ : List Nat
  stage : BatchStage
  ver : Frame
  /-- Owners whose commit acknowledgement is missing (R177). -/
  owners : List Nat
  /-- EIDs some node has a version of (R171, for N_NOVER). -/
  seen : List Nat
  /-- An owner was removed before it acknowledged (R177). -/
  lost : Bool
  nover : Nat
  /-- Elements of the whole batch that committed in earlier submissions (R178). -/
  before : Nat
  /-- Pre-notices sent: node, and whether it was told as an owner (R171, R366). -/
  sent : List (Nat × Bool)
  /-- EIDs that each acknowledging node has a version of (R171), and owners that committed fewer elements than they hold, with how many
  fewer (R45). -/
  hits : List (Nat × Nat)
  shorts : List (Nat × Nat)
  deriving DecidableEq, Repr

/-- Material of another node's batch, staged by a pre-notice (R171): its BATCH_ID (R338). -/
structure Staged where
  id : Nat
  node : Nat
  pv : Nat
  del : Bool
  elems : List Elem
  arrived : Frame
  /-- The batch's SEQ, as far as the pre-notice told it (log 139). -/
  seq : Nat
  deriving DecidableEq, Repr

/-- The outcome of a batch kept for resubmission (R178). -/
structure SeqRec where
  ring : Nat
  seq : Nat
  st : Nat
  nCommit : Nat
  nNover : Nat
  ver : Frame
  /-- EIDs of elements not known to have committed. -/
  missing : List Nat
  deriving DecidableEq, Repr

/-- An update journal record (R185). -/
structure Journal where
  epoch : Nat
  ent : LeanEnt
  quad : Nat
  deriving DecidableEq, Repr

/-- A running merge pass (R180 to R182). -/
structure MergePass where
  work : Option Nat
  mask : Nat
  b0 : Frame
  horizon : Frame
  retire : Frame
  /-- Entries taken from each part: epoch, quadrant, count. -/
  taken : List (Nat × Nat × Nat)
  /-- Versions the pass retires: EID, version, element number. -/
  retired : List (Nat × Frame × Nat)
  /-- Plots that it rewrites without their deleted slots (R183): epoch and plot. -/
  rewrite : List (Nat × Nat)
  deriving DecidableEq, Repr

/-- A published pass whose freed entries and tiles wait for older batches (R183). -/
structure ReuseWait where
  b1 : Frame
  parts : List (Nat × Nat × Nat)
  tiles : List (Nat × Nat)
  deriving DecidableEq, Repr

/-- A running RESKETCH (R188). -/
structure Resketch where
  work : Nat
  epoch : Nat
  taken : Nat
  skipped : Nat
  total : Nat
  /-- Peers whose transfers to this node are not complete, and transfers of its own still unacknowledged (R189). -/
  peers : List Nat
  built : Bool
  deriving DecidableEq, Repr

/-- The index copy in flash (R75, R185). -/
structure IndexCopy where
  stores : List Store
  dels : List DelEnt
  cur : Option Bundle
  stg : Option Bundle
  ret : Option Bundle
  retC : Frame
  locator : List LocEnt
  corpusCfg : W32
  vecBase : W32
  payBase : W32
  /-- Dual-write start of the staged epoch, and whether its store is complete. -/
  d0 : Option Frame
  resketchDone : Bool
  frame : Frame
  deriving DecidableEq, Repr

/-- One group's clipping statistics of a window (R150). -/
structure GroupStat where
  maxAbs : BitVec 32
  coded : Nat
  lo : Nat
  hi : Nat
  deriving DecidableEq, Repr

/-- The corpus and visibility state of one pavilion. -/
structure Corpus where
  corpusCfg : W32
  vecBase : W32
  payBase : W32
  cfgReject : Bool
  cur : Option Bundle
  stg : Option Bundle
  ret : Option Bundle
  stores : List Store
  dels : List DelEnt
  /-- Updates noted: EID, version, admitting node. Kept until every earlier update has arrived (R173). -/
  noted : List (Nat × Frame × Nat)
  /-- Identities of the versions held (R171, R178). -/
  locator : List LocEnt
  /-- Element numbers in use. -/
  elems : List Nat
  /-- Dual-write start of the staged epoch (R187), and that of the epoch that became current at the last switch. -/
  d0 : Option Frame
  curD0 : Frame
  /-- Peers whose transfers for a staged epoch are complete, with the epoch (R189). -/
  rsPeers : List (Nat × Nat)
  resketchDone : Bool
  resketch : Option Resketch
  /-- Cutover frame of the pending cutover (R191), and the cutover frame of the retiring epoch (R193). -/
  cutover : Option Frame
  retC : Frame
  rstate : RState
  fCkpt : Frame
  ckpt : Frame
  /-- The values R201 shows since the last frame boundary: settled frame, checkpoint, epochs, cutover, status. -/
  shSettled : Frame
  shCkpt : Frame
  shCur : Nat
  shStg : Nat
  shCut : Option Frame
  shVis : W32
  committed : Frame
  peers : List Peer
  merge : Option MergePass
  /-- Requested passes that wait for the running one (R316): work item and mask. -/
  mergeQ : List (Nat × Nat)
  retireH : Frame
  reuse : List ReuseWait
  index : Option IndexCopy
  /-- A checkpoint being written: its frame and the copy (R185). -/
  ckptNew : Option (IndexCopy × Option Nat × Nat)
  journal : List Journal
  seqs : List SeqRec
  /-- Highest SEQ admitted on each ring. -/
  seqTop : List (Nat × Nat)
  /-- MODEL_LOAD in progress: work item and the checked bundle (R313). -/
  loads : List (Nat × Bundle)
  /-- Clipping: CLIP_LIMIT as written and as in force, statistics of the running and of the published window (R150 to R153). -/
  clip : W32
  clipEff : W32
  /-- First frame of the window that is counted: a frame to come after a cutover (R150). -/
  clipFrom : Frame
  drift : Bool
  badRecord : Bool
  gatherRange : Bool
  clipReject : Bool
  worst : Nat
  win : List GroupStat
  pub : List GroupStat
  deriving DecidableEq, Repr

/-- The tiered memory of one pavilion's node range (R202 to R218). -/
structure Range where
  pages : List Page
  /-- Contents by node-range offset of the T1 copies, the T2 copies and the T3 copies as read, and the committed T3 copies. -/
  t1 : Mem
  t2 : Mem
  t3 : Mem
  dur : Mem
  t2Lo : W32
  t2Hi : W32
  t2Size : W32
  vReject : Bool
  /-- Host-area frames of the T1 share (R206). -/
  share : Nat
  /-- Pages whose reads of the T2 window the host does not answer in this slot (R217). -/
  t2Bad : List Nat
  deriving DecidableEq, Repr

/-- A pavilion's corpus registers and state after a reset that finds it empty (R73, R75, R152, R200). -/
def Corpus.reset : Corpus where
  corpusCfg := 0x0014_0000#32
  vecBase := 0#32
  payBase := 0#32
  cfgReject := false
  cur := none
  stg := none
  ret := none
  stores := []
  dels := []
  noted := []
  locator := []
  elems := []
  d0 := none
  curD0 := 0
  rsPeers := []
  resketchDone := false
  resketch := none
  cutover := none
  retC := 0
  rstate := .loading
  fCkpt := 0
  ckpt := 0
  shSettled := 0
  shCkpt := 0
  shCur := 0
  shStg := 0
  shCut := none
  shVis := 0#32
  committed := 0
  peers := []
  merge := none
  mergeQ := []
  retireH := 0
  reuse := []
  index := none
  ckptNew := none
  journal := []
  seqs := []
  seqTop := []
  loads := []
  clip := 0x0004_0040#32
  clipEff := 0x0004_0040#32
  clipFrom := 0
  drift := false
  badRecord := false
  gatherRange := false
  clipReject := false
  worst := 0
  win := []
  pub := []

/-- A node range in which nothing has been written (R203). -/
def Range.reset : Range := ⟨[], [], [], [], [], 0#32, 0#32, 0#32, false, 0, []⟩

end Sys2Proof.Machine
end

