-- ==== Sys2Proof/Machine/Model.lean ====
section
/-! DEFINITION. Model bundles: the header, the sections and the checks of a load (R76 to R78, R145, R165). -/

namespace Sys2Proof.Machine

/-- The 256-byte header of an image (R76), with what of R76 and R77 it satisfies on its own. -/
def readBundle (img : List Byte) : Bundle where
  epoch := field img 4 4
  dim := field img 8 2
  hblock := field img 10 2
  width := field img 12 2
  vfmt := field img 14 1
  group := field img 15 1
  qmode := field img 16 1
  plots := field img 24 4
  secs := (List.range 6).map fun i => (field img (32 + 16 * i) 8, field img (40 + 16 * i) 8)
  digest := slice img 128 64
  image := img

/-- Section `i` of a bundle, in table order SIGNS, PROJ, CALIB, CENT, SCORER, ENCODER. -/
def Bundle.sec (b : Bundle) (i : Nat) : List Byte :=
  let p := b.secs.getD i (0, 0)
  slice b.image p.1 p.2

/-- The largest offset + length of a non-empty section (R313). -/
def Bundle.extent (b : Bundle) : Nat := maxNat ((b.secs.filter (·.2 != 0)).map fun p => p.1 + p.2)

/-- log2 of HBLOCK. -/
def Bundle.hlog (b : Bundle) : Nat := Nat.log2 b.hblock
/-- Groups of a vector. -/
def Bundle.ng (b : Bundle) : Nat := b.dim / b.group

/-- The header fields lie in the ranges of R76, and every reserved byte is 0. -/
def Bundle.headOk (b : Bundle) : Bool :=
  field b.image 0 4 == 0x4E425A47 && decide (1 ≤ b.epoch) && decide (b.epoch ≤ 0xFFFFFFFE) &&
  decide (64 ≤ b.dim) && decide (b.dim ≤ 4096) && b.dim % b.hblock == 0 && b.dim % b.group == 0 &&
  [64, 128, 256, 512, 1024, 2048, 4096].contains b.hblock && decide (b.hblock ≤ b.dim) &&
  [128, 256, 512].contains b.width && decide (b.vfmt ≤ 1) && [32, 64, 128].contains b.group && decide (b.qmode ≤ 1) &&
  zeroAt b.image 17 7 && zeroAt b.image 28 4 && zeroAt b.image 192 64 &&
  decide (1 ≤ b.plots) && decide (b.plots ≤ 1048576)

/-- Two sections that do not overlap. -/
def apart (p q : Nat × Nat) : Bool := p.2 == 0 || q.2 == 0 || decide (p.1 + p.2 ≤ q.1) || decide (q.1 + q.2 ≤ p.1)

/-- The section table satisfies R77: lengths, alignment, no overlap with each other or with the header. -/
def Bundle.secsOk (b : Bundle) : Bool :=
  let s := b.secs
  let len (i : Nat) : Nat := (s.getD i (0, 0)).2
  s.all (fun p => p.2 == 0 || (p.1 % 64 == 0 && decide (256 ≤ p.1))) &&
  (List.range 6).all (fun i => (List.range 6).all fun j => i == j || apart (s.getD i (0, 0)) (s.getD j (0, 0))) &&
  len 0 == b.dim / 8 && len 1 == b.width * b.dim &&
  (if b.qmode = 0 then len 2 == 0 else decide (1 ≤ len 2) && decide (len 2 ≤ 65536)) &&
  len 3 == b.plots * (b.dim + 2) && decide (len 4 ≤ 536870912 + 65536) && decide (len 5 ≤ 536870912 + 65536)

/-- What DIGEST covers (R76): bytes 0 to 127, then each non-empty section in table order. -/
def Bundle.digestInput (b : Bundle) : List Byte := slice b.image 0 128 ++ (List.range 6).flatMap b.sec

/-- The checks of R78 that need no resident bundle: `hash` is SHA3-512. -/
def Bundle.ok (hash : List Byte → List Byte) (vecStride : Nat) (b : Bundle) : Bool :=
  b.headOk && b.secsOk && b.digest == hash b.digestInput &&
  (b.qmode == 0 || calibOk b.vfmt b.ng (b.sec 2)) &&
  ((b.secs.getD 4 (0, 0)).2 == 0 || programOk 0 b.dim (b.sec 4)) &&
  ((b.secs.getD 5 (0, 0)).2 == 0 || programOk 1 b.dim (b.sec 5)) &&
  (List.range b.plots).all (fun p => (fp16.decode (field (b.sec 3) (b.plots * b.dim + 2 * p) 2)).isFinite) &&
  decide (recordBytes b.dim b.vfmt b.group b.qmode ≤ vecStride * 64)

/-- The encoder of a bundle, when it has one. -/
def Bundle.encoder (b : Bundle) : Option Program := if b.sec 5 = [] then none else some (readProgram (b.sec 5))
/-- The scorer of a bundle, when it has one. -/
def Bundle.scorer (b : Bundle) : Option Program := if b.sec 4 = [] then none else some (readProgram (b.sec 4))

/-- The calibration table of a bundle (empty in per-vector mode). -/
def Bundle.calib (b : Bundle) : Calib := if b.qmode = 1 then readCalib b.vfmt b.ng (b.sec 2) else ⟨[], []⟩

/-- The rotation of a bundle (R138). -/
def Bundle.rotate (b : Bundle) (xs : List F32) : List F32 := Machine.rotate (b.sec 0) b.hlog xs
/-- The inverse rotation of a bundle (R138). -/
def Bundle.unrotate (b : Bundle) (xs : List F32) : List F32 := Machine.unrotate (b.sec 0) b.hlog xs

/-- A rotated vector coded for the vector store (R144, R146); none when it cannot be coded. -/
def Bundle.codeVec (b : Bundle) (ys : List F32) : Option Coded :=
  if b.qmode = 1 then
    some ⟨codeWith b.vfmt b.group b.calib.scales b.calib.zps ys, 0, b.calib.scales, [], b.calib.zps⟩
  else codePerVector b.vfmt b.group ys

/-- The vector record of a coded vector (R69). -/
def Bundle.record (b : Bundle) (c : Coded) : List Byte :=
  packCodes b.vfmt c.codes ++ (if b.qmode = 0 then paramBlock b.vfmt c else [])

/-- A record read back under a bundle (R142). -/
def Bundle.read (b : Bundle) (bs : List Byte) : Option Coded := readRecord b.dim b.vfmt b.group b.qmode b.calib bs

/-- The sketch of a coded vector (R154). -/
def Bundle.sketch (b : Bundle) (c : Coded) : Nat := sketchOf b.dim b.width b.group (b.sec 1) c

/-- The centroid order of a coded vector (R156). -/
def Bundle.order (b : Bundle) (c : Coded) : List Nat := centroidOrder b.dim b.plots b.group (b.sec 3) c

/-- The query codes: per-vector, int8, whatever the bundle's VFMT and QMODE (R147). -/
def Bundle.codeQuery (b : Bundle) (ys : List F32) : Coded :=
  (codePerVector 0 b.group ys).getD ⟨ys.map fun _ => 0, 0, [], [], []⟩

/-- The flags of a record written under a bundle (R63). -/
def Bundle.recFlags (b : Bundle) : Nat := b.qmode + 2 * b.vfmt

/-- A record of one bundle is compatible with another epoch (R148). -/
def compatible (r b : Bundle) : Bool :=
  r.vfmt == b.vfmt && r.qmode == b.qmode && r.dim == b.dim && r.hblock == b.hblock && r.sec 0 == b.sec 0 &&
  r.group == b.group && (b.qmode == 0 || r.sec 2 == b.sec 2)

/-- Sketches per tile (R58). -/
def sptOf (width : Nat) : Nat := 8192 / width

/-- The width code of a tag (R222). -/
def widthCode (width : Nat) : Nat := if width = 128 then 0 else if width = 256 then 1 else 2

/-- Queries per query group of a bank filter, and per lane set of an engine (R81). -/
def qpfOf (width : Nat) : Nat := if width = 128 then 16 else if width = 256 then 8 else 4
def qpeOf (width : Nat) : Nat := if width = 128 then 64 else 32

/-- Bank number of the i-th tile of a plot (R60). -/
def bankOf (plot i : Nat) : Nat := ((plot * 97) % 12288 + i) % 12288

/-- Stack of a quadrant, pseudo-channel and bank behind a bank number (R60). -/
def bankStack (n : Nat) : Nat := n % 4
def bankChan (n : Nat) : Nat := n / 4 % 64
def bankIdx (n : Nat) : Nat := n / 256

/-- The place of record `n` of a store (R70): base, stride in bytes. -/
def recordAddr (base stride n : Nat) : Nat :=
  let r := 16384 / stride
  base + n / r * 16384 + n % r * stride

/-- The visibility rule (R174): version, delete frame and snapshot. -/
def visible (v : Frame) (d : Option Frame) (s : Frame) : Bool :=
  decide (v < s) && (match d with | none => true | some d => decide (s ≤ d))

/-- One attribute term (R102). -/
structure ATerm where
  mask : Nat
  val : Nat
  op : Nat
  deriving DecidableEq, Repr

/-- A term of the attribute predicate (R102). -/
def ATerm.holds (t : ATerm) (attr : Nat) : Bool :=
  let m := attr &&& t.mask
  if t.op = 1 then m == t.val else if t.op = 2 then m != t.val else if t.op = 3 then m != 0
  else if t.op = 4 then m == 0 else if t.op = 5 then decide (m ≤ t.val) else decide (t.val ≤ m)

/-- The attribute predicate: AND of the terms that are on, or OR with ACOMB; every term off passes (R102). -/
def predHolds (ts : List ATerm) (acomb : Bool) (attr : Nat) : Bool :=
  let on := ts.filter (·.op != 0)
  on.isEmpty || (if acomb then on.any (·.holds attr) else on.all (·.holds attr))

/-- b of R103: the largest similarity t ≤ w for which at least `c` counted hits have a similarity of t or more. -/
def riseAt (hist : List Nat) (c : Nat) : Nat → Nat → Nat
  | 0, _ => 0
  | t + 1, total =>
    let tot := total + hist.getD (t + 1) 0
    if c ≤ tot then t + 1 else riseAt hist c t tot

/-- The threshold after a broadcast (R103). -/
def newThreshold (hist : List Nat) (w c thr : Nat) : Nat := max thr (riseAt hist c w 0)

/-- ROW_OFF(m) (R128). -/
def rowOff (m : Nat) : Nat := roundUpTo (16 * m) 64

/-- The extent X(j, r) (R129). -/
def extent (payWant : Bool) (rs j r : Nat) : Nat := if payWant then rowOff j + r * rs else 16 * j

/-- The largest m ≤ n with X(m, m) ≤ len (R129). -/
def fitEntries (payWant : Bool) (rs len : Nat) : Nat → Nat
  | 0 => 0
  | n + 1 => if extent payWant rs (n + 1) (n + 1) ≤ len then n + 1 else fitEntries payWant rs len n

end Sys2Proof.Machine
end

