-- ==== Sys2Proof/Machine/StHost.lean ====
section
/-! DEFINITION. Types of the host side of the state: rings, event rings, functions, fetched work (R268 to R323). -/

namespace Sys2Proof.Machine

/-- A ring pair: its configuration block (R290), the indices of R274 and the counters of R280, R282 and R289. -/
structure Ring where
  /-- SQ base address, a multiple of 4 KiB (R273). -/
  sqBase : Nat
  /-- CQ base address, a multiple of 4 KiB (R273). -/
  cqBase : Nat
  /-- RING_SIZE (R290). -/
  size : W32
  /-- RING_CTL (R290). -/
  ctl : W32
  halted : Bool
  cqStall : Bool
  cfgReject : Bool
  /-- HALT_CAUSE (R282). -/
  haltCause : Nat
  /-- The full offending index (R282). -/
  haltIndex : Nat
  /-- LOST_CPL, saturating at 0xFF. -/
  lostCpl : Nat
  sqHead : Nat
  /-- SQ producer index, announced by RING_DB (R274). -/
  sqTail : Nat
  cqTail : Nat
  cqPhase : Bool
  /-- CQ consumer index, announced by RING_CQ_DB (R274). -/
  cqHead : Nat
  /-- Descriptors fetched and not completed: F of R280. -/
  inFlight : Nat
  /-- A halt completion is owed (R282 step 4). -/
  haltOwed : Bool
  /-- Entries posted since the vector last fired (R289). -/
  modN : Nat
  /-- Slot boundaries since the first of those entries (R289). -/
  modT : Option Nat
  /-- RING_CTL as of the last entry posted: its interrupt fields govern that entry (R293). -/
  irq : W32
  /-- The descriptor at the head has been read and waits until the pavilion is CONFIRMED (R196). -/
  parked : Bool
  deriving DecidableEq, Repr

/-- The configuration block after a node reset or a function-level reset (R290). -/
def Ring.reset : Ring where
  sqBase := 0
  cqBase := 0
  size := 0x0000_0606#32
  ctl := 0x0401_0000#32
  halted := false
  cqStall := false
  cfgReject := false
  haltCause := 0
  haltIndex := 0
  lostCpl := 0
  sqHead := 0
  sqTail := 0
  cqTail := 0
  cqPhase := true
  cqHead := 0
  inFlight := 0
  haltOwed := false
  modN := 0
  modT := none
  irq := 0x0401_0000#32
  parked := false

/-- The event ring of a function (R287, R288, R291). -/
structure EvRing where
  base : Nat
  /-- EQ_CTL (R291). -/
  ctl : W32
  tail : Nat
  phase : Bool
  /-- EQ consumer index, announced by EQ_DB. -/
  head : Nat
  dbReject : Bool
  cfgReject : Bool
  /-- Events dropped since the last EVENT_LOST, saturating at 65,535 (R288). -/
  dropped : Nat
  modN : Nat
  modT : Option Nat
  /-- EQ_CTL as of the last entry posted (R293). -/
  irq : W32
  deriving DecidableEq, Repr

/-- The event ring after reset (R291). -/
def EvRing.reset : EvRing where
  base := 0
  ctl := 0x0401_0006#32
  tail := 0
  phase := true
  head := 0
  dbReject := false
  cfgReject := false
  dropped := 0
  modN := 0
  modT := none
  irq := 0x0401_0006#32

/-- One MSI-X table entry and its pending bit (R289; PCI Express Base 5.0). -/
structure Msix where
  addrLo : W32
  addrHi : W32
  data : W32
  /-- The vector control word; bit 0 masks. -/
  ctl : W32
  pend : Bool
  deriving DecidableEq, Repr

/-- A cleared MSI-X entry (R294 clears the table). The mask bit resets to 1 (PRESUMED from the named standard, log 5). -/
def Msix.reset : Msix := ⟨0#32, 0#32, 0#32, 1#32, false⟩

/-- A BAR2 request that waits for its page (R218). -/
structure Bar2Req where
  write : Bool
  /-- Node-range offset. -/
  addr : Nat
  len : Nat
  data : List Byte
  arrived : Frame
  deriving DecidableEq, Repr

/-- One PCI Express function and its function page (R270, R271). -/
structure FnState where
  /-- The function exists for the host: PF0 always, a VF while VF Enable covers it (R270). -/
  enabled : Bool
  /-- The function is in D3hot (R268). -/
  d3 : Bool
  /-- HFN_HI as latched by the last read of HFN_LO from this function (R52). -/
  hfnHi : W32
  rings : List Ring
  eq : EvRing
  msix : List Msix
  /-- Round-robin fetch turn: ring pair and descriptors taken in the turn (R276). -/
  rrRing : Nat
  rrTaken : Nat
  /-- HI latches of MAPEP, SETTLED, CKPT and CUTOVER (R200, R379). -/
  mapepHi : W32
  settledHi : W32
  ckptHi : W32
  cutoverHi : W32
  /-- BAR2_WIN (R230). -/
  bar2Win : W32
  bar2Reqs : List Bar2Req
  deriving DecidableEq, Repr

/-- A function after reset, with the ring pairs and vectors of R270. -/
def FnState.reset (pf0 : Bool) : FnState where
  enabled := pf0
  d3 := false
  hfnHi := 0#32
  rings := List.replicate (if pf0 then 8 else 64) Ring.reset
  eq := EvRing.reset
  msix := List.replicate (if pf0 then 16 else 64) Msix.reset
  rrRing := 0
  rrTaken := 0
  mapepHi := 0#32
  settledHi := 0#32
  ckptHi := 0#32
  cutoverHi := 0xFFFF_FFFF#32
  bar2Win := 0#32
  bar2Reqs := []

/-- How far a fetched descriptor has gone. -/
inductive WorkStage where
  /-- Fetched and past checks 1 to 5 of R297 that need no further read. -/
  | fetched
  /-- Its records are valid and it waits at the admission gate or for its rule's next event. -/
  | waiting
  /-- Admitted or running. -/
  | running
  deriving DecidableEq, Repr

/-- A descriptor that has been fetched and has not completed (R276, R279). -/
structure Work where
  /-- The model's own number for the work item. -/
  id : Nat
  fn : Fn
  ring : Nat
  /-- The 64 bytes of the descriptor, as copied into HA. -/
  desc : List Byte
  /-- The ring's PROVISIONAL_OK at the fetch (R286). -/
  prov : Bool
  /-- Frame of the fetch. -/
  at_ : Frame
  stage : WorkStage
  /-- A count kept by the opcode: pages done, bytes copied, entries taken. -/
  done : Nat
  /-- A place or frame kept by the opcode: the next page, the admission frame. -/
  aux : Nat
  /-- A status already due, when the work has still to end in order. -/
  due : Option Nat
  deriving DecidableEq, Repr

/-- The status codes of R300. -/
inductive Status where
  | ok | short | trunc | badOpcode | badField | badAddress | badLength | badRing
  | reset | lagging | epochStale | redirect | stateLost | timeout | quota
  | memUncorrectable | flashUnrecoverable | fence | internal
  deriving DecidableEq, Repr

/-- The attributes of a TLP (R216, R269). -/
structure TlpAttr where
  relaxed : Bool
  noSnoop : Bool
  deriving DecidableEq, Repr

/-- Every access but one to a T2 window is snooped, and none is relaxed (R269). -/
def TlpAttr.snooped : TlpAttr := ⟨false, false⟩
/-- An access to a T2 window (R216). -/
def TlpAttr.window : TlpAttr := ⟨false, true⟩

/-- What leaves the block, in order: the model's own record of its outputs (log 4). -/
inductive Out where
  /-- A posted memory write to the host by a function (R269, R502). -/
  | write (f : Fn) (addr : Nat) (data : List Byte) (a : TlpAttr)
  /-- A memory read of the host by a function: address and length (R216, R269). -/
  | read (f : Fn) (addr len : Nat) (a : TlpAttr)
  /-- An MSI-X message of a function's vector (R289). -/
  | msix (f : Fn) (vec : Nat)
  /-- The data of a register read. -/
  | regData (f : Fn) (off : Nat) (v : W32)
  /-- Data of a BAR2 read (R218). -/
  | bar2Data (f : Fn) (addr : Nat) (data : List Byte)
  /-- A read completed with Unsupported Request (R272). -/
  | unsupported (f : Fn)
  /-- A read completed with Completer Abort (R218). -/
  | abort (f : Fn)
  /-- An Unsupported Request error reported under AER for a dropped write (R272). -/
  | aer (f : Fn)
  /-- A JFP message to a node: its kind (R331) and body. -/
  | jfp (dst : Nat) (kind : Nat) (body : List Byte)
  /-- A composition message to a node (R362). -/
  | map (dst : Nat) (m : MapMsg)
  /-- A RoCEv2 response or acknowledgement on a queue pair: opcode name and body. -/
  | roce (qp : Nat) (what : String) (body : List Byte)
  /-- A frame on a port that is neither JFP nor RoCEv2 (ARP, ND, MKA, PFC, CNP). -/
  | port (port : Nat) (what : String) (body : List Byte)
  /-- A command issued to a NAND die (R233, R237): its argument, and the bytes that go with it. -/
  | nand (die : Nat) (what : String) (arg : Nat) (data : List Byte)
  /-- An answer on the SMBus management interface (R485). -/
  | smbus (data : List Byte)
  /-- A console byte (R488). -/
  | uart (b : Byte)
  /-- A TAP access that was served (R489). -/
  | jtag (what : Nat)
  /-- A service of the Grounds or the Lodge asked for or answered over the internal channel (R422). -/
  | internal (what : String) (arg : Nat)
  deriving DecidableEq, Repr

end Sys2Proof.Machine
end

