-- ==== Sys2Proof/Machine/StQuery.lean ====
section
/-! DEFINITION. Types of queries, scan batches, selection and the stack governors (R80 to R135). -/

namespace Sys2Proof.Machine

/-- A query record (R304): the header fields and the input bytes. -/
structure QRec where
  bufAddr : Nat
  bufLen : Nat
  k : Nat
  c : Nat
  probes : Nat
  widen : Nat
  scTopn : Nat
  t0 : Nat
  qfmt : Nat
  metric : Nat
  rising : Bool
  scEn : Bool
  payWant : Bool
  sweep : Bool
  acomb : Bool
  scale : F32
  terms : List ATerm
  inLen : Nat
  input : List Byte
  deriving DecidableEq, Repr

/-- An entry of a selection unit or of a merge-tree list (R111). -/
structure SelEnt where
  sim : Nat
  ent : Rec
  lean : Bool
  /-- Slot index (R59), or lean-to entry index. -/
  slot : Nat
  deriving DecidableEq, Repr

/-- Where a candidate's vector record stands (R119, R120). -/
inductive CandSt where
  | waiting
  /-- Delivered: the tier it came from, and the record. -/
  | got (tier : Nat) (record : List Byte)
  /-- Scored exactly, then perhaps by the scorer. -/
  | scored (tier : Nat) (score : F32) (byScorer : Bool)
  | lost
  deriving DecidableEq, Repr

/-- A candidate of a query (R116, R119). -/
structure Cand where
  sel : SelEnt
  st : CandSt
  record : List Byte
  /-- The exact score, once there is one: the scorer's score takes its place in `st` and not here (R122). -/
  exact : F32
  /-- Partial-page reads of its record have been asked for (R119). -/
  asked : Bool
  deriving DecidableEq, Repr

/-- A result entry on its way (R128): a payload row is none while it is being read. -/
structure Ent where
  eid : Nat
  ver : Frame
  score : Nat
  lean : Bool
  scored : Bool
  fromFlash : Bool
  payErr : Bool
  elem : Nat
  payLen : Nat
  row : Option (List Byte)
  deriving DecidableEq, Repr

/-- A partial list: an owner's or this node's own (R131, R337). -/
structure Part where
  node : Nat
  ents : List Ent
  kth : Nat
  tieOut : Nat
  nLost : Nat
  tieDrops : Bool
  st : Status
  /-- Provisional results' F_ckpt, and a lagging node's visible frame (R337). -/
  fCkpt : Option Frame
  vis : Option Frame
  deduped : Bool
  deriving DecidableEq, Repr

/-- A query record sent to an owner and not answered (R336, R337, R365). -/
structure FanRec where
  node : Nat
  round : Nat
  reroute : Nat
  plots : List Nat
  sentAt : Frame
  deriving DecidableEq, Repr

/-- How far a query has gone. -/
inductive QStage where
  /-- Its record failed validation with this status; it is never admitted (R305). -/
  | invalid (st : Status)
  /-- Valid, at the admission gate. -/
  | valid
  /-- Admitted: waits for encoding and routing. -/
  | admitted
  /-- Plot list complete: waits for its scan batches, or is held (R84, R176). -/
  | routed
  | scanning
  /-- Candidate list formed: records are being fetched and scored. -/
  | fetching
  /-- Node top k formed: payload rows are being read. -/
  | gathering
  /-- This node's part is done; PARTIALs may be missing. -/
  | localDone
  | finished
  deriving DecidableEq, Repr

/-- A query on this node: its own, or an owner's part of another node's query (R336). -/
structure Query where
  id : Nat
  work : Nat
  idx : Nat
  pv : Nat
  /-- For a query received by FANOUT: the originating node and its number for the query. -/
  origin : Option (Nat × Nat)
  q : QRec
  prov : Bool
  epoch : Nat
  snapshot : Frame
  /-- Order of admission on this node (R84). -/
  admSeq : Nat
  /-- Frame in which the query reached this node, and frame of admission. -/
  arrived : Frame
  stage : QStage
  code : Coded
  sketch : Nat
  /-- Encoder input turned into the query vector (R168). -/
  vector : List F32
  /-- Plots still ahead in the centroid order, and the plots of the round that this node scans. -/
  order : List Nat
  plots : List Nat
  /-- Quadrants whose batch the query has still to join in this round, and to finish. -/
  toJoin : List Nat
  toScan : List Nat
  thr : Nat
  hist : List Nat
  tieDrops : Nat
  l2 : List SelEnt
  cands : List Cand
  formedAt : Frame
  gatherAt : Frame
  fetchWait : Nat
  widenEn : Bool
  widenLeft : Nat
  rounds : Nat
  top : List Ent
  tieOut : Nat
  nLost : Nat
  parts : List Part
  awaitNodes : List FanRec
  /-- ROUND and REROUTE of the record that a query of another node came with. -/
  fanRound : Nat
  fanReroute : Nat
  bad : List Status
  provisional : Bool
  fCkpt : Frame
  vis : Option Frame
  deduped : Bool
  shadowed : Bool
  /-- Score of the node's own k-th entry. -/
  kth : Nat
  /-- Status and flags it finished with, and its counts for the completion (R307, R308). -/
  fin : Status
  finFlags : Nat
  deriving DecidableEq, Repr

/-- A tile of a scan batch (R85, R92 to R99). -/
structure ScanTile where
  stk : Nat
  bank : Nat
  pv : Nat
  epoch : Nat
  width : Nat
  /-- 0 main store, 1 lean-to part. -/
  store : Nat
  tile : Nat
  plot : Nat
  /-- Position of the tile in its plot's tile list, or its index in the lean-to part. -/
  pos : Nat
  filled : Nat
  /-- The filled positions as the view boundary has them (R62, R182). -/
  slots : List Slot
  qids : List Nat
  inBank : Bool
  /-- Query groups of the tile that a bank filter has done. -/
  passes : Nat
  done : Bool
  deriving DecidableEq, Repr

/-- An engine's checkpoint of a job (R96). -/
structure Ckpt where
  batch : Nat
  tileNext : Nat
  tileEnd : Nat
  store : Nat
  width : Nat
  /-- Query lanes in use, by the lanes that compare against the current tile's plot, and the lanes' thresholds and sketches. -/
  qcount : Nat
  laneMask : Nat
  thresh : List Nat
  qsk : List Nat
  deriving DecidableEq, Repr

/-- An engine's job in a batch (R96, R384): one pavilion's tiles that are left, by position in the batch, and the lanes. -/
structure Job where
  batch : Nat
  die : Nat
  eng : Nat
  pv : Nat
  width : Nat
  lanes : List Nat
  tiles : List Nat
  /-- Tiles scanned so far, and whether the job was drawn for shadowing (R429). -/
  ran : List Nat
  mark : Bool
  /-- The checkpoint in engine-local SRAM, while the job has lost its slot. -/
  saved : Option Ckpt
  deriving DecidableEq, Repr

/-- A scan batch (R84, R85). -/
structure ScanBatch where
  id : Nat
  quad : Nat
  formed : Frame
  view : Option Frame
  qids : List Nat
  tiles : List ScanTile
  jobs : List Job
  /-- SCAN_CFG as in force when it was formed (R109). -/
  cfg : W32
  /-- The engine groups that R83 gives its queries: width and lanes. -/
  groups : List (Nat × List Nat)
  deriving DecidableEq, Repr

/-- A hit on its way to compaction (R100): the die whose stage takes it, the engine of the lane's group there, the fields of the hit's
word. -/
structure Hit where
  batch : Nat
  qid : Nat
  die : Nat
  eng : Nat
  /-- Index of the tile in the batch, and position in the tile. -/
  tile : Nat
  pos : Nat
  /-- SIM, SLOT, LEANTO and LANE. -/
  sim : Nat
  slot : Nat
  lean : Bool
  lane : Nat
  deriving DecidableEq, Repr

/-- A selection unit's lane (R111). -/
structure Lane where
  batch : Nat
  qid : Nat
  die : Nat
  eng : Nat
  ents : List SelEnt
  deriving DecidableEq, Repr

/-- Entries on their way up the merge tree (R114), by the level that takes them next: 0 (the queue of a die's leaf), 1 (a die's list,
for its quadrant) or 2 (a quadrant's list, for the node). -/
structure TreeList where
  level : Nat
  place : Nat
  qid : Nat
  ents : List SelEnt
  deriving DecidableEq, Repr

/-- One stack's refresh, governor and permit state (R46 to R48, R87 to R91, R110). -/
structure Stack where
  doubled : Bool
  /-- Consecutive frames at or below 82 °C (R48). -/
  cool : Nat
  /-- Position in the refresh pattern, and banks whose refresh was put off to the next boundary (R47). -/
  phase : Nat
  owed : List Nat
  pBase : Nat
  pIf : Nat
  pBf : Nat
  /-- Measured power of the last two slots, in units of 0.25 W. -/
  pw1 : Nat
  pw2 : Nat
  grant : Nat
  lastFrameGrant : Nat
  govLimited : Bool
  /-- DOUBLED as of the last slot boundary (R110). -/
  shownDoubled : Bool
  /-- Bytes of interface requests held in the crossbar queue until the next slot (R91). -/
  ifHeld : Nat
  /-- Interface bytes of the frame in progress and IF_UTIL of the last. -/
  ifBytes : Nat
  ifUtil : Nat
  /-- GH of the four slices, quiesced steps (slice, growth), error counts (R221 to R226, R229). -/
  gh : List Nat
  quiesced : List (Nat × Bool × Frame)
  ce : Nat
  ue : Nat
  fence : Nat
  deriving DecidableEq, Repr

/-- A stack before the Lodge has trained it: the coefficients' nominal values (R90). -/
def Stack.reset : Stack := ⟨false, 0, 0, [], 6, 20, 14, 0, 0, 0, 0, false, false, 0, 0, 0, [0, 0, 0, 0], [], 0, 0, 0⟩

/-- A tensor array that works in the slot in progress (R43, R121): its query, the candidates of its block, and the groups of the block that
are left. -/
structure TaUse where
  die : Nat
  ta : Nat
  qid : Nat
  idxs : List Nat
  left : Nat
  deriving DecidableEq, Repr

/-- Scan, selection and re-rank state of the node (R80 to R135). -/
structure Scan where
  permitCap : W32
  permitEff : W32
  scanCfg : W32
  scanEff : W32
  scanReject : Bool
  hitStall : Bool
  seqRounds : Bool
  steals : Nat
  stealsLast : Nat
  rerankCfg : W32
  rerankEff : W32
  selReject : Bool
  dupOver : Bool
  fetchLate : Bool
  tieDrops : Nat
  tieDropsLast : Nat
  st : List Stack
  queries : List Query
  batches : List ScanBatch
  hits : List Hit
  /-- Hits that stand in a bank filter's FIFO: stack, bank (R95). -/
  fifo : List (Nat × Nat × Hit)
  taUse : List TaUse
  /-- Engines whose slot in progress has been granted: die, engine (R439). -/
  engUse : List (Nat × Nat)
  /-- Program weights that the weight areas of the search dies hold (R167): pavilion, epoch, kind, bytes. -/
  resident : List (Nat × Nat × Nat × Nat)
  lanes : List Lane
  tree : List TreeList
  deriving DecidableEq, Repr

/-- Scan state after a node reset (R108, R134). -/
def Scan.reset : Scan where
  permitCap := 0x0024_0010#32
  permitEff := 0x0024_0010#32
  scanCfg := 0x0000_0807#32
  scanEff := 0x0000_0807#32
  scanReject := false
  hitStall := false
  seqRounds := false
  steals := 0
  stealsLast := 0
  rerankCfg := 0x0001_0064#32
  rerankEff := 0x0001_0064#32
  selReject := false
  dupOver := false
  fetchLate := false
  tieDrops := 0
  tieDropsLast := 0
  st := List.replicate 16 Stack.reset
  queries := []
  batches := []
  hits := []
  fifo := []
  taUse := []
  engUse := []
  resident := []
  lanes := []
  tree := []

end Sys2Proof.Machine
end

