-- ==== Sys2Proof/Machine/Operands.lean ====
section
/-! DEFINITION. The forms in which work reaches the block: descriptors, query records, element records, hall addresses,
and the checks of R297 to R321 on them. -/

namespace Sys2Proof.Machine

/-- Codes of R300. -/
def Status.code : Status → Nat
  | .ok => 0x00 | .short => 0x01 | .trunc => 0x02
  | .badOpcode => 0x10 | .badField => 0x11 | .badAddress => 0x12 | .badLength => 0x13 | .badRing => 0x14
  | .reset => 0x20 | .lagging => 0x21 | .epochStale => 0x22 | .redirect => 0x23 | .stateLost => 0x24 | .timeout => 0x25
  | .quota => 0x26 | .memUncorrectable => 0x30 | .flashUnrecoverable => 0x31 | .fence => 0x32 | .internal => 0x3F

/-- The order of R301, first status first. BAD_RING stands outside it. -/
def statusOrder : List Status :=
  [.badOpcode, .badLength, .badField, .badAddress, .quota, .epochStale, .reset, .internal, .fence, .memUncorrectable,
   .flashUnrecoverable, .stateLost, .lagging, .redirect, .timeout, .trunc, .short, .ok]

/-- The status that R301 reports when several apply: OK when none does. -/
def firstStatus (xs : List Status) : Status := (statusOrder.find? xs.contains).getD .ok

/-- A status from its code (R300); INTERNAL for a code that is not of the table. -/
def Status.ofCode (n : Nat) : Status := (statusOrder.find? (fun s => s.code == n)).getD .internal

/-- End of the host area (R57, R202). -/
def hostAreaEnd : Nat := 0xF0000000000
/-- Addresses never wrap (R298). -/
def reachable (addr len : Nat) : Bool := decide (addr + len ≤ 2 ^ 64)

/-- Opcodes of R303 to R320. -/
def opSearch : Nat := 0x01
def opSearchBatch : Nat := 0x02
def opUpsert : Nat := 0x10
def opDelete : Nat := 0x11
def opModelLoad : Nat := 0x20
def opCutover : Nat := 0x21
def opMigrate : Nat := 0x30
def opPin : Nat := 0x31
def opFlush : Nat := 0x32
def opMerge : Nat := 0x40
def opResketch : Nat := 0x41
def opStats : Nat := 0x50
def opCopy : Nat := 0x60

/-- The defined opcodes. -/
def opcodes : List Nat :=
  [opSearch, opSearchBatch, opUpsert, opDelete, opModelLoad, opCutover, opMigrate, opPin, opFlush, opMerge, opResketch,
   opStats, opCopy]

/-- Is the opcode a search? -/
def isSearch (op : Nat) : Bool := op == opSearch || op == opSearchBatch
/-- Is the opcode an update? -/
def isUpdate (op : Nat) : Bool := op == opUpsert || op == opDelete

/-- Fields of a descriptor (R296, R303, R310, R313 to R320). -/
def dOp (d : List Byte) : Nat := field d 0 1
def dTag (d : List Byte) : Nat := field d 4 4
def dEpoch (d : List Byte) : Nat := field d 8 4
/-- COUNT of a search, and of an update. -/
def dCount (d : List Byte) : Nat := if isSearch (dOp d) then field d 12 2 else field d 16 2
def dQStride (d : List Byte) : Nat := field d 14 2
def dEStride (d : List Byte) : Nat := field d 18 2

/-- Check 1 of R297: the opcode is defined and the ring accepts it (R286). -/
def descOpOk (pf0 : Bool) (d : List Byte) : Bool :=
  if pf0 then dOp d == opStats else opcodes.contains (dOp d)

/-- Check 2 of R297: every reserved byte and bit is 0. -/
def descResvOk (d : List Byte) : Bool :=
  let op := dOp d
  zeroAt d 1 3 &&
  (if isSearch op then zeroAt d 32 32
   else if op = opUpsert then zeroAt d 20 4 && zeroAt d 32 32
   else if op = opDelete then zeroAt d 18 6 && zeroAt d 32 32
   else if op = opModelLoad then zeroAt d 25 39
   else if op = opCutover then zeroAt d 12 4 && zeroAt d 32 32
   else if op = opMigrate then zeroAt d 21 43
   else if op = opPin ∨ op = opFlush then decide (field d 20 1 < 2) && zeroAt d 21 43
   else if op = opMerge then decide (field d 8 1 < 16) && zeroAt d 9 55
   else if op = opResketch then zeroAt d 12 52
   else if op = opStats then decide (field d 21 1 < 2) && zeroAt d 22 42
   else zeroAt d 29 35)

/-- Is `v` in a range? -/
def inRange (lo v hi : Nat) : Bool := decide (lo ≤ v) && decide (v ≤ hi)

/-- Check 3 of R297: lengths, counts and strides. -/
def descLenOk (d : List Byte) : Bool :=
  let op := dOp d
  if op = opSearch then dCount d == 1 && inRange 3 (dQStride d) 1026
  else if op = opSearchBatch then inRange 1 (dCount d) 512 && inRange 3 (dQStride d) 1026
  else if op = opUpsert then inRange 1 (dCount d) 4096 && inRange 2 (dEStride d) 1024
  else if op = opDelete then inRange 1 (dCount d) 4096
  else if op = opModelLoad then inRange 256 (field d 16 8) 0x200000000
  else if op = opMigrate ∨ op = opPin ∨ op = opFlush then inRange 1 (field d 16 4) 0x0F000000
  else if op = opStats then inRange 64 (field d 16 4) 65536
  else if op = opCopy then inRange 1 (field d 24 4) 0x40000000
  else true

/-- Check 4 of R297: the other fields and the alignments. -/
def descFieldOk (d : List Byte) : Bool :=
  let op := dOp d
  if isSearch op then field d 16 8 % 64 == 0 && field d 24 8 % 32 == 0
  else if op = opUpsert then field d 8 8 != 0 && field d 24 8 % 64 == 0
  else if op = opDelete then field d 8 8 != 0 && field d 24 8 % 8 == 0
  else if op = opModelLoad then field d 8 8 % 64 == 0 && decide (field d 24 1 ≤ 1)
  else if op = opCutover then inRange 1 (field d 8 4) 0xFFFFFFFE && field d 24 8 % 64 == 0
  else if op = opMigrate then field d 8 8 % 65536 == 0 && inRange 1 (field d 20 1) 3
  else if op = opPin ∨ op = opFlush then field d 8 8 % 65536 == 0
  else if op = opMerge then decide (1 ≤ field d 8 1)
  else if op = opStats then field d 8 8 % 64 == 0 && decide (field d 20 1 ≤ 5)
  else if op = opCopy then decide (field d 28 1 ≤ 2)
  else true

/-- A hall address (R320): node, pavilion and node-range offset. -/
def hallNode (a : Nat) : Nat := bitsOf a 63 48
def hallPv (a : Nat) : Nat := bitsOf a 47 44
def hallOff (a : Nat) : Nat := bitsOf a 43 0
/-- A hall range of the pavilion inside the host area. -/
def hallOk (pv a len : Nat) : Bool := hallPv a == pv && decide (hallOff a + len ≤ hostAreaEnd)

/-- The part of check 5 of R297 that needs no read: no extent wraps, node-range and hall addresses lie in the host area. -/
def descAddrOk (pv : Nat) (d : List Byte) : Bool :=
  let op := dOp d
  if isSearch op then reachable (field d 16 8) (dCount d * dQStride d * 64) && reachable (field d 24 8) (dCount d * 32)
  else if op = opUpsert then reachable (field d 24 8) (dCount d * dEStride d * 64)
  else if op = opDelete then reachable (field d 24 8) (dCount d * 8)
  else if op = opModelLoad then
    if field d 24 1 = 0 then reachable (field d 8 8) (field d 16 8) else decide (field d 8 8 + field d 16 8 ≤ hostAreaEnd)
  else if op = opCutover then reachable (field d 24 8) 64
  else if op = opMigrate ∨ op = opPin ∨ op = opFlush then decide (field d 8 8 + field d 16 4 * 65536 ≤ hostAreaEnd)
  else if op = opStats then reachable (field d 8 8) (field d 16 4)
  else if op = opCopy then
    let dir := field d 28 1
    let n := field d 24 4
    (if dir = 0 then reachable (field d 8 8) n else hallOk pv (field d 8 8) n) &&
    (if dir = 1 then reachable (field d 16 8) n else hallOk pv (field d 16 8) n)
  else true

/-- Checks 1 to 5 of R297 on the descriptor itself: the status of the first that fails. -/
def descCheck (pf0 : Bool) (pv : Nat) (d : List Byte) : Option Status :=
  if descOpOk pf0 d = false then some .badOpcode
  else if descResvOk d = false then some .badField
  else if descLenOk d = false then some .badLength
  else if descFieldOk d = false then some .badField
  else if descAddrOk pv d = false then some .badAddress
  else none

/-- What a query record is checked against: the bundle of its epoch, and the pavilion's payload stride. -/
structure QCtx where
  dim : Nat
  plots : Nat
  width : Nat
  scorer : Bool
  /-- The encoder's input columns and type, when the bundle has one (R168). -/
  enc : Option (Nat × Nat)
  payStride : Nat
  deriving DecidableEq, Repr

/-- Read a query record (R304). -/
def readQRec (bs : List Byte) : QRec :=
  let fl := field bs 26 2
  { bufAddr := field bs 0 8
    bufLen := field bs 8 4
    k := field bs 12 2
    c := field bs 14 2
    probes := field bs 16 2
    widen := field bs 18 2
    scTopn := field bs 20 2
    t0 := field bs 22 2
    qfmt := field bs 24 1
    metric := field bs 25 1
    rising := fl.testBit 0
    scEn := fl.testBit 1
    payWant := fl.testBit 2
    sweep := fl.testBit 3
    acomb := fl.testBit 4
    scale := BitVec.ofNat 32 (field bs 28 4)
    terms := (List.range 4).map fun i => ⟨field bs (32 + 12 * i) 4, field bs (36 + 12 * i) 4, field bs (40 + 12 * i) 1 % 8⟩
    inLen := field bs 80 4
    input := bs.drop 128 }

/-- Bytes of one value of an encoder input type (R160). -/
def encBytes (dt : Nat) : Nat := if dt = 0 ∨ dt = 3 then 4 else if dt = 1 then 2 else 1

/-- Bytes of IN_DATA of a record (R304). -/
def qInBytes (x : QCtx) (q : QRec) : Nat :=
  q.inLen * (if q.qfmt = 4 then encBytes ((x.enc.map (·.2)).getD 0) else inBytes q.qfmt)

/-- Check 2 of R297 on a query record. -/
def qResvOk (bs : List Byte) (q : QRec) : Bool :=
  zeroAt bs 84 44 && decide (field bs 26 2 < 32) &&
  (List.range 4).all (fun i => decide (field bs (40 + 12 * i) 1 < 8) && zeroAt bs (41 + 12 * i) 3) &&
  (q.qfmt == 3 || q.scale == 0#32) && (q.scEn || q.scTopn == 0)

/-- Check 3 of R297 on a query record: IN_LEN, and the record's length within its stride. -/
def qLenOk (x : QCtx) (stride : Nat) (q : QRec) : Bool :=
  (if q.qfmt = 4 then (match x.enc with | some (n, _) => q.inLen == n | none => true) else decide (4 < q.qfmt) || q.inLen == x.dim) &&
  decide (128 + qInBytes x q ≤ stride * 64)

/-- The values of a record's input as FP32, for QFMT 0 to 3 (R136). -/
def qVector (q : QRec) : List F32 := inValues q.qfmt q.scale q.inLen q.input

/-- Check 4 of R297 on a query record: ranges of R304, and the rules R305 lists. `vec` is the query vector. -/
def qFieldOk (x : QCtx) (q : QRec) (vec : List F32) : Bool :=
  q.bufAddr % 64 == 0 && inRange 1 q.k 1024 && inRange q.k q.c 4096 &&
  (if q.sweep then q.probes == 0 else inRange 1 q.probes 65535 && decide (q.probes ≤ x.plots)) &&
  (q.scTopn == 0 || inRange q.k q.scTopn q.c) && decide (q.t0 ≤ x.width) && decide (q.qfmt ≤ 4) && decide (q.metric ≤ 3) &&
  q.terms.all (fun t => decide (t.op ≠ 7)) && !(q.scEn && q.metric == 0) && !(q.scEn && !x.scorer) &&
  !(q.payWant && x.payStride == 0) && (q.qfmt != 4 || x.enc.isSome) && q.scale.isFinite && vec.all inputOk

/-- The checks of R305 on a query record: the status of the first of R297 that fails. -/
def qCheck (x : QCtx) (stride : Nat) (bs : List Byte) (vec : List F32) : Option Status :=
  let q := readQRec bs
  if qResvOk bs q = false then some .badField
  else if qLenOk x stride q = false then some .badLength
  else if qFieldOk x q vec = false then some .badField
  else if reachable q.bufAddr q.bufLen = false then some .badAddress
  else none

/-- An element record's header (R311). -/
structure ERec where
  eid : Nat
  attr : Nat
  payLen : Nat
  efmt : Nat
  nVec : Nat
  scale : F32
  deriving DecidableEq, Repr

/-- Read an element record's header. -/
def readERec (bs : List Byte) : ERec :=
  ⟨field bs 0 8, field bs 8 4, field bs 12 2, field bs 14 1, field bs 15 1, BitVec.ofNat 32 (field bs 16 4)⟩

/-- The empty EID (R54). -/
def emptyEid : Nat := 0xFFFFFFFFFFFFFFFF

/-- Offsets of VEC1 and of the payload of an element record, and its length (R311). -/
def eVec1Off (e : ERec) (dim0 : Nat) : Nat := roundUpTo (64 + dim0 * inBytes e.efmt) 64
def ePayOff (e : ERec) (dim0 dim1 : Nat) : Nat :=
  let v1 := eVec1Off e dim0
  if e.nVec = 2 then roundUpTo (v1 + dim1 * inBytes e.efmt) 64 else v1
def eEnd (e : ERec) (dim0 dim1 : Nat) : Nat :=
  if e.payLen = 0 then
    if e.nVec = 2 then eVec1Off e dim0 + dim1 * inBytes e.efmt else 64 + dim0 * inBytes e.efmt
  else ePayOff e dim0 dim1 + e.payLen

/-- Checks 2, 3 and 4 of R312 on one element: the number of the check that fails. `two`: N_VEC must be 2. -/
def eCheck (dim0 dim1 payStride stride : Nat) (two : Bool) (bs : List Byte) : Option Nat :=
  let e := readERec bs
  if (zeroAt bs 20 44 && (e.efmt == 3 || e.scale == 0#32)) = false then some 2
  else if (decide (e.payLen ≤ min 2048 (payStride * 64)) && decide (eEnd e dim0 dim1 ≤ stride * 64)) = false then some 3
  else if (e.eid != emptyEid && decide (e.efmt ≤ 3) && e.nVec == (if two then 2 else 1) && e.scale.isFinite &&
      (inValues e.efmt e.scale dim0 (bs.drop 64)).all inputOk &&
      (!two || (inValues e.efmt e.scale dim1 (bs.drop (eVec1Off e dim0))).all inputOk)) = false then some 4
  else none

/-- A completion entry without its phase bit (R299): the 21 opcode-specific bytes are padded with zeros. -/
def completionBytes (tag sqHead : Nat) (st : Status) (op flags : Nat) (spec : List Byte) : List Byte :=
  leBytes 4 tag ++ leBytes 2 sqHead ++ leBytes 1 st.code ++ leBytes 1 op ++ leBytes 2 flags ++ padTo 21 spec

/-- An entry with its phase bit in bit 7 of byte 31 (R281, R299, R322). -/
def withPhase (bs : List Byte) (phase : Bool) : List Byte := padTo 31 bs ++ [if phase then 0x80#8 else 0x00#8]

/-- An event entry without its phase bit (R322). -/
def eventBytes (ev pv hfn : Nat) (data : List Byte) : List Byte :=
  leBytes 1 ev ++ leBytes 1 pv ++ zeros 6 ++ leBytes 8 hfn ++ padTo 15 data

/-- Opcode-specific bytes of R321: 2 bytes at 10, 4 at 12, 8 at 16. -/
def spec3 (a b c : Nat) : List Byte := leBytes 2 a ++ leBytes 4 b ++ leBytes 8 c

/-- Completion flags of R302. -/
def flagProvisional : Nat := 1
def flagTieAtK : Nat := 2
def flagWidened : Nat := 4
def flagDeduped : Nat := 8
def flagShadowed : Nat := 16

/-- A query status record (R307). -/
def statusRecord (st : Status) (flags nRes nWr nLost tieOut epoch snap ckptBack visBack : Nat) : List Byte :=
  leBytes 1 st.code ++ zeros 1 ++ leBytes 2 flags ++ leBytes 2 nRes ++ leBytes 2 nWr ++ leBytes 2 nLost ++
    leBytes 2 (satTo 0xFFFF tieOut) ++ leBytes 4 epoch ++ leBytes 8 snap ++
    leBytes 4 (satTo 0xFFFFFFFF ckptBack) ++ leBytes 4 (satTo 0xFFFFFFFF visBack)

/-- A result entry of 16 bytes (R128). -/
def entryBytes (eid score flags age : Nat) : List Byte :=
  leBytes 8 eid ++ leBytes 4 score ++ leBytes 1 flags ++ leBytes 3 (satTo 0xFFFFFF age)

/-- An empty entry (R126). -/
def emptyEntry (fp : Bool) : List Byte := entryBytes emptyEid (if fp then 0x7F800000 else 0) 1 0

end Sys2Proof.Machine
end

