-- ==== Sys2Proof/Machine/StComp.lean ====
section
/-! DEFINITION. Types of the composition map, the keepers and the movement of plots (R354 to R380). -/

namespace Sys2Proof.Machine

/-- A node of the hall in the map (R358): state 0 MEMBER, 1 SUSPENDED, 2 DRAINING; role and the frame it was taken. -/
structure CMember where
  node : Nat
  ips : List Byte
  st : Nat
  settled : Frame
  susAt : Frame
  role : Nat
  roleAt : Frame
  deriving DecidableEq, Repr

/-- The slices a pavilion holds on a node, as masks (R354, R421). -/
structure CSlices where
  node : Nat
  pv : Nat
  eng : Nat
  ta : Nat
  mem : Nat
  link : Nat
  deriving DecidableEq, Repr

/-- States of a plot (R358). -/
inductive PlotSt where
  | served | moving | dark | lost
  deriving DecidableEq, Repr

/-- A plot of the map (R358). -/
structure CPlot where
  pv : Nat
  plot : Nat
  owner : Nat
  reps : List Nat
  st : PlotSt
  /-- The receiver of a move, whether it joins as a replica, the map epoch of MOVE_BEGIN and its activation frame. -/
  recv : Option Nat
  asRep : Bool
  tokEpoch : Nat
  began : Frame
  /-- Holders that left: node, the map epoch that took the plot away, and its activation frame A2 (R363). -/
  left : List (Nat × Nat × Frame)
  deriving DecidableEq, Repr

/-- The composition map in force (R358, R359). -/
structure CMap where
  epoch : Nat
  members : List CMember
  keepers : List Nat
  slices : List CSlices
  plots : List CPlot
  policy : W32
  /-- Cutovers: pavilion, epoch, frame C (R191). -/
  cuts : List (Nat × Nat × Frame)
  deriving DecidableEq, Repr

/-- The map of a node that holds none (R359, R379). -/
def CMap.blank : CMap := ⟨0, [], [], [], [], 0x060A_0A19#32, []⟩

/-- A keeper's log entry, who acknowledged it, and what became of it (R360). -/
structure KEnt where
  e : LogEnt
  acks : List Nat
  committed : Bool
  abandoned : Bool
  deriving DecidableEq, Repr

/-- A cutover under the keepers' two-phase check (R191): pavilion, epoch, frame C, members asked and not yet heard, all ready. -/
structure CutWait where
  src : Nat
  prop : Nat
  pv : Nat
  epoch : Nat
  c : Frame
  digest : List Byte
  await_ : List Nat
  deriving DecidableEq, Repr

/-- A keeper's part in the protocol: 1 following, 2 leading, 3 candidate (R360, R379). -/
structure Keeper where
  role : Nat
  term : Nat
  voted : Option Nat
  leader : Option Nat
  log : List KEnt
  commit : Nat
  /-- Frames without HEARTBEAT, and the drawn limit of 25 to 50. -/
  hbAge : Nat
  limit : Nat
  votes : List Nat
  /-- Cutovers that wait for READY answers (R191). -/
  cutWait : List CutWait
  deriving DecidableEq, Repr

/-- A keeper before any message. -/
def Keeper.reset : Keeper := ⟨0, 0, none, none, [], 0, 0, 25, [], []⟩

/-- Where a move stands at the old owner (R368). -/
inductive MoveStage where
  | begun | transferring | handoff | done | ended
  deriving DecidableEq, Repr

/-- A move with this node as old owner (R368). -/
structure MoveOut where
  tok : Token
  recv : Nat
  act : Frame
  stage : MoveStage
  vers : Nat
  bytes : Nat
  tries : Nat
  lastSent : Frame
  /-- Activation frame of MOVE_END (A2). -/
  a2 : Option Frame
  /-- The receiver still lacks state: the plot is kept past the drain deadline (R369). -/
  pulled : Bool
  deriving DecidableEq, Repr

/-- A move with this node as receiver (R368). -/
structure MoveIn where
  tok : Token
  owner : Nat
  got : List PlotVer
  held : Bool
  deriving DecidableEq, Repr

/-- A proposal of this node that has no result yet: the descriptor or mailbox channel that waits for it (R362). -/
structure Prop_ where
  id : Nat
  ent : MapEntry
  work : Option Nat
  chan : Option Nat
  made : Frame
  deriving DecidableEq, Repr

/-- A record of the admission log (R374). -/
structure AdmEnt where
  pv : Nat
  eid : Nat
  plot : Nat
  ver : Frame
  deriving DecidableEq, Repr

/-- Composition state of the node (R354 to R380). -/
structure Comp where
  mapCfg : W32
  mapEff : W32
  moveCfg : W32
  moveEff : W32
  cfgReject : Bool
  joinRefused : Bool
  noQuorum : Bool
  /-- Frames since a HEARTBEAT was heard (R361). -/
  hbAge : Nat
  map : CMap
  /-- Entries applied so far, for FETCH, oldest first; and committed entries that wait for their frame (R359). -/
  applied : List (MapEntry × Frame)
  pend : List (Nat × MapEntry × Frame)
  keeper : Keeper
  nextProp : Nat
  props : List Prop_
  out : List MoveOut
  inn : List MoveIn
  admLog : List AdmEnt
  /-- Plots whose missing state is being pulled: pavilion, plot, node asked (R369, R373). -/
  pulls : List (Nat × Nat × Nat)
  /-- Plot to quadrant, once chosen (R356). -/
  quads : List (Nat × Nat × Nat)
  /-- This node has joined and its checks are done (R376). -/
  joined : Bool
  deriving DecidableEq, Repr

/-- Composition state after a node reset (R379). -/
def Comp.reset : Comp where
  mapCfg := 0x0C05_6400#32
  mapEff := 0x0C05_6400#32
  moveCfg := 0x0000_0820#32
  moveEff := 0x0000_0820#32
  cfgReject := false
  joinRefused := false
  noQuorum := false
  hbAge := 0
  map := CMap.blank
  applied := []
  pend := []
  keeper := Keeper.reset
  nextProp := 0
  props := []
  out := []
  inn := []
  admLog := []
  pulls := []
  quads := []
  joined := false

end Sys2Proof.Machine
end

