-- ==== Sys2Proof/Machine/StFabric.lean ====
section
/-! DEFINITION. Types of the fabric side of the state: ports, flows, messages, windows and queue pairs (R324 to R353). -/

namespace Sys2Proof.Machine

/-- A fabric port (R324, R326, R352). -/
structure Port where
  /-- PORT_CFG_n as last written, and as in force since the last frame boundary. -/
  cfg : W32
  eff : W32
  /-- Link of the four lanes. -/
  lanes : List Bool
  /-- The two laser inputs are in range. -/
  laser : List Bool
  /-- Degraded by its bit error ratio (R326), and by the pause watchdog (R349). -/
  berDeg : Bool
  wdogDeg : Bool
  /-- State last reported: 0 down, 1 up, 2 degraded. -/
  st : Nat
  /-- The servo takes its samples from this port (R328). -/
  ptpSel : Bool
  fecCorr : Nat
  /-- Per priority: paused now, frames paused, and frames for which pause has been ignored (R349). -/
  pause : List (Bool × Nat × Option Nat)
  /-- XOFF sent and not yet taken back, per priority (R348). -/
  xoff : List Bool
  deriving DecidableEq, Repr

/-- A port after a node reset: no lane is up (R352). -/
def Port.reset : Port where
  cfg := 0x2328_08C0#32
  eff := 0x2328_08C0#32
  lanes := [false, false, false, false]
  laser := [false, false]
  berDeg := false
  wdogDeg := false
  st := 0
  ptpSel := false
  fecCorr := 0
  pause := List.replicate 8 (false, 0, none)
  xoff := List.replicate 8 false

/-- What a JFP message carries: bytes, or a composition message, of which the spec gives no byte layout (R362). -/
inductive Body where
  | bytes (bs : List Byte)
  | map (m : MapMsg)
  deriving DecidableEq, Repr

/-- A small message that waits for the frame boundary (R343). -/
structure Coal where
  dst : Nat
  cls : Nat
  op : Nat
  pv : Nat
  msgId : Nat
  body : Body
  deriving DecidableEq, Repr

/-- A JFP packet on a flow, not yet acknowledged (R331, R334). -/
structure Pkt where
  psn : Nat
  op : Nat
  pv : Nat
  msgId : Nat
  off : Nat
  len : Nat
  last : Bool
  data : List Byte
  mcrc : Nat
  epoch : Nat
  /-- It holds a buffer of the link pool; one that holds none waits for one before it is sent (R340). -/
  buf : Bool
  /-- It has been sent since it was last queued; and it is queued again, as a retransmission (R334, R340). -/
  sent : Bool
  again : Bool
  deriving DecidableEq, Repr

/-- A sending flow (R332, R334, R345). -/
structure SFlow where
  dst : Nat
  cls : Nat
  idx : Nat
  port : Nat
  next : Nat
  acked : Nat
  unacked : List Pkt
  /-- The last acknowledgement received, for repeated ones. -/
  lastAck : Option Nat
  /-- Slots without progress, and consecutive timeouts. -/
  idle : Nat
  timeouts : Nat
  /-- The rate limit and alpha of R345; the rate is a fraction of the port's line rate. -/
  rate : Rat
  alpha : Rat
  /-- Slots since the last cut, and whether a CE echo came in this frame. -/
  sinceCut : Nat
  ceSeen : Bool
  deriving DecidableEq, Repr

/-- A receiving flow (R334). -/
structure RFlow where
  src : Nat
  cls : Nat
  idx : Nat
  expect : Nat
  /-- The repeated acknowledgement for this expected PSN has been sent. -/
  nakSent : Bool
  /-- Packets accepted and not acknowledged. -/
  owed : Nat
  ce : Bool
  deriving DecidableEq, Repr

/-- A message being reassembled (R339). -/
structure RMsg where
  src : Nat
  cls : Nat
  idx : Nat
  port : Nat
  msgId : Nat
  op : Nat
  pv : Nat
  epoch : Nat
  len : Nat
  got : List Byte
  /-- Bytes of the packets it has come in. -/
  sizes : List Nat
  deriving DecidableEq, Repr

/-- What a request of this node is for (R335): a piece of a copy, or a plot transfer's record. -/
inductive ReqFor where
  /-- FABRIC_COPY's work item; destination address of the piece, its length; a READ or a WRITE. -/
  | copy (work : Nat) (dst len : Nat) (write : Bool)
  /-- An atomic of the Grounds. -/
  | atomic
  /-- A move's transfer, by token. -/
  | move (epoch pv plot : Nat)
  deriving DecidableEq, Repr

/-- A request sent and not answered. -/
structure Req where
  msgId : Nat
  dst : Nat
  why : ReqFor
  body : List Byte
  deriving DecidableEq, Repr

/-- A message as it reaches its engine: sending node, operation, class, map epoch, pavilion, message number and body. -/
structure Msg where
  m : JMsg
  op : Nat
  deriving DecidableEq, Repr

/-- A request held for a newer map epoch (R363), or for the promotion of its page (R335). -/
structure Held where
  msg : Msg
  arrived : Frame
  forPage : Bool
  deriving DecidableEq, Repr

/-- An exported window (R350). -/
structure Window where
  pv : Nat
  no : Nat
  start : Nat
  pages : Nat
  ro : Bool
  rkey : Nat
  deriving DecidableEq, Repr

/-- A RoCEv2 queue pair (R351, R346). -/
structure Qp where
  pv : Nat
  qpn : Nat
  gid : List Byte
  rqpn : Nat
  sendPsn : Nat
  recvPsn : Nat
  mtu : Nat
  port : Nat
  winMask : Nat
  /-- It stopped with an error. -/
  ended : Bool
  rate : Rat
  alpha : Rat
  sinceCut : Nat
  cnpSeen : Bool
  /-- Frames since the last CNP it sent. -/
  cnpAge : Nat
  deriving DecidableEq, Repr

/-- The fabric (R324 to R353). -/
structure Fabric where
  nodeId : W32
  nodeLock : Bool
  jfpCfg : W32
  jfpEff : W32
  ptpCfg : W32
  ptpEff : W32
  cfgReject : Bool
  rxDrop : Bool
  poolDrop : Bool
  flowClosed : Bool
  pfcWdog : Bool
  /-- Packets retransmitted in the frame in progress and in the last frame. -/
  retx : Nat
  retxLast : Nat
  ports : List Port
  coal : List Coal
  sflows : List SFlow
  rflows : List RFlow
  rmsgs : List RMsg
  nextMsg : Nat
  reqs : List Req
  held : List Held
  windows : List Window
  qps : List Qp
  /-- PTP ports that hear Announce messages, with the quality of what each hears (R328). -/
  announce : List (Nat × Nat)
  deriving DecidableEq, Repr

/-- The fabric after a node reset (R352). -/
def Fabric.reset : Fabric where
  nodeId := 0x0000_FFFF#32
  nodeLock := false
  jfpCfg := 0x8107_4A46#32
  jfpEff := 0x8107_4A46#32
  ptpCfg := 0x0000_0100#32
  ptpEff := 0x0000_0100#32
  cfgReject := false
  rxDrop := false
  poolDrop := false
  flowClosed := false
  pfcWdog := false
  retx := 0
  retxLast := 0
  ports := List.replicate 20 Port.reset
  coal := []
  sflows := []
  rflows := []
  rmsgs := []
  nextMsg := 0
  reqs := []
  held := []
  windows := []
  qps := []
  announce := []

end Sys2Proof.Machine
end

