-- ==== Sys2Proof/Machine/StFlash.lean ====
section
/-! DEFINITION. Types of the flash store (R232 to R267). -/

namespace Sys2Proof.Machine

/-- A logical unit address (R236). -/
structure Lua where
  space : Nat
  pv : Nat
  unit : Nat
  deriving DecidableEq, Repr

/-- A map entry (R239): the page of the current copy, or unreadable. An absent entry is unmapped. -/
inductive MapEnt where
  | at_ (pun : Nat)
  | unreadable
  deriving DecidableEq, Repr

/-- States of a block that is not free (R242, R247, R259). -/
inductive BlockSt where
  | opened | closed | retired | reserved
  /-- Erased and free again: listed for its P/E count. -/
  | erased
  deriving DecidableEq, Repr

/-- A block-table entry (R247). -/
structure FBlock where
  id : Nat
  die : Nat
  slc : Bool
  st : BlockSt
  pe : Nat
  /-- Valid units it holds. -/
  valid : List Lua
  hfn0 : Frame
  hfn1 : Frame
  t0 : Int
  t1 : Int
  opened : Frame
  /-- Its valid units have been copied and it waits for a checkpoint that covers the map update (R255). -/
  erasable : Option Frame
  erasing : Bool
  /-- The profile marks it due for relocation (R264). -/
  due : Bool
  /-- Pages that write groups have taken so far: the next page to program (R244). -/
  next : Nat
  deriving DecidableEq, Repr

/-- Traffic classes of the buffer pool (R238). -/
inductive PoolCls where
  | update | gc | ckpt | migration
  deriving DecidableEq, Repr

/-- A unit held in a storage buffer pool until its group has committed (R238, R251). -/
structure PoolUnit where
  id : Nat
  lua : Lua
  sd : Nat
  cls : PoolCls
  /-- Bytes of the unit as written, by node-range offset (space 0). -/
  cells : Mem
  group : Option Nat
  /-- Work that waits for the commit, and the page whose migration it is. -/
  work : Option Nat
  page : Option Nat
  /-- Page copied from, for garbage collection and folding (R236). -/
  src : Option Nat
  deriving DecidableEq, Repr

/-- A page of a stripe: the pool unit it holds (none for a pad page), its block, its PUN, and whether it is programmed. -/
structure FPage where
  unit : Option Nat
  block : Nat
  pun : Nat
  done : Bool
  deriving DecidableEq, Repr

/-- A stripe of a group (R244, R245): 15 data pages and the XOR page, all of them page `page` of their blocks. -/
structure Stripe where
  pages : List FPage
  xorBlock : Nat
  xorIssued : Bool
  xorDone : Bool
  page : Nat
  deriving DecidableEq, Repr

/-- The page summary that a data page's metadata area holds (R236): `mode` 0 SLC, 1 native, 0xFF pad; `src` none for 0xFF_FFFF_FFFF. -/
structure PageSum where
  pun : Nat
  lua : Lua
  pos : Nat
  mode : Nat
  gseq : Nat
  hfn : Frame
  temp : Int
  stripe : Nat
  src : Option Nat
  deriving DecidableEq, Repr

/-- What an operation of the array is for: a kilobyte of a candidate's record (R119) or of a payload row (R127), a unit of a page that is
promoted or moved (R208), a unit that is collected (R255), a RESKETCH, scrub or retention read, a page program, an erase. -/
inductive FFor where
  | cand (qid i : Nat)
  | row (qid i : Nat)
  | page (no : Nat)
  | gc
  | keep
  | prog (gseq stripe pos : Nat)
  | erase (block : Nat)
  deriving DecidableEq, Repr

/-- An operation waits for a command batch, runs in its LUN, or has been suspended (R237). -/
inductive FOpSt where
  | queued | running | suspended
  deriving DecidableEq, Repr

/-- An operation of the array (R237): its LUN, its class, the pavilion it is charged to, and for a read the unit, its page and the
codewords it transfers (R235). -/
structure FOp where
  id : Nat
  die : Nat
  cls : Nat
  pv : Option Nat
  what : FFor
  lua : Lua
  pun : Nat
  first : Nat
  n : Nat
  st : FOpSt
  /-- Times it has been suspended. -/
  susp : Nat
  deriving DecidableEq, Repr

/-- A write group that has not committed (R250). -/
structure WGroup where
  gseq : Nat
  gkind : Nat
  sd : Nat
  slc : Bool
  stripes : List Stripe
  deriving DecidableEq, Repr

/-- A NAND die (R246, R247): its `id` is its number in the PUN order. -/
structure Nand where
  id : Nat
  sd : Nat
  channel : Nat
  fails : Nat
  retired : Bool
  temp : Int
  deriving DecidableEq, Repr

/-- The root record (R253). -/
structure Root where
  no : Nat
  b : Frame
  replayFrom : Nat
  /-- The map as it stood at B, and the blocks that were open. -/
  map : List (Lua × MapEnt)
  opened : List Nat
  deriving DecidableEq, Repr

/-- The flash store of the node. -/
structure Flash where
  cfg : W32
  cfgEff : W32
  slcMax : W32
  slcMaxEff : W32
  warn : W32
  warnEff : W32
  cfgReject : Bool
  ageUnknown : Bool
  dieMismatch : Bool
  opLock : Bool
  readOnly : Bool
  regionOk : Bool
  /-- Erased bands of the power-fail region and the number a full flush needs (R263). -/
  regionErased : Nat
  regionNeed : Nat
  unrecov : Nat
  wearBand : Nat
  /-- Replay has completed since the last reset (R254, R266). -/
  replayed : Bool
  map : List (Lua × MapEnt)
  blocks : List FBlock
  free : Nat
  total : Nat
  rawGib : Nat
  reservedGib : Nat
  dies : List Nand
  channels : Nat
  /-- The profile's rated P/E endurance (R248). -/
  rated : Nat
  /-- Geometry of the parts in use: blocks of a die, native pages of a block, SLC pages of a block, native pages of a wordline (R234, R236,
  R243). -/
  blocksPerDie : Nat
  pagesPerBlock : Nat
  slcPages : Nat
  wlPages : Nat
  /-- Spare bytes of a page (R233). -/
  spare : Nat
  /-- The profile names the part's suspend commands (R233). -/
  suspendOk : Bool
  /-- Operations of the array that have not ended, oldest first (R237). -/
  ops : List FOp
  /-- Summaries of the pages programmed since their block's last erase (R236). -/
  sums : List PageSum
  pool : List PoolUnit
  groups : List WGroup
  nextGseq : Nat
  budget : Nat
  root : Option Root
  ckpt : Option Root
  /-- Units programmed since the last checkpoint began (R253). -/
  sinceCkpt : Nat
  /-- Codeword reads of the window and those that needed step 2 or later (R264). -/
  winReads : Nat
  winRetried : Nat
  winFrames : Nat
  /-- Causes posted, with the frame (R264). -/
  posted : List (Nat × Frame)
  pollFrames : Nat
  deriving DecidableEq, Repr

/-- Flash state before anything is known of the array (R266). -/
def Flash.reset : Flash where
  cfg := 0x0008_0C68#32
  cfgEff := 0x0008_0C68#32
  slcMax := 64#32
  slcMaxEff := 64#32
  warn := 0x0404_0010#32
  warnEff := 0x0404_0010#32
  cfgReject := false
  ageUnknown := false
  dieMismatch := false
  opLock := false
  readOnly := false
  regionOk := false
  regionErased := 0
  regionNeed := 0
  unrecov := 0
  wearBand := 0
  replayed := false
  map := []
  blocks := []
  free := 0
  total := 0
  rawGib := 0
  reservedGib := 0
  dies := []
  channels := 0
  rated := 0
  blocksPerDie := 0
  pagesPerBlock := 0
  slcPages := 0
  wlPages := 0
  spare := 0
  suspendOk := false
  ops := []
  sums := []
  pool := []
  groups := []
  nextGseq := 0
  budget := 0
  root := none
  ckpt := none
  sinceCkpt := 0
  winReads := 0
  winRetried := 0
  winFrames := 0
  posted := []
  pollFrames := 0

end Sys2Proof.Machine
end

