-- ==== Sys2Proof/Machine/StInteg.lean ====
section
/-! DEFINITION. Types of the quality of service, the integrity checks, the tier registers and the update gate
(R169 to R199, R219 to R231, R381 to R398, R426 to R455). -/

namespace Sys2Proof.Machine

/-- The six shared resources of R382. -/
inductive Res where
  | eng | ta | permit | link | flash | merge
  deriving DecidableEq, Repr

/-- One pavilion's share of one scope (R382, R383): guarantee, limit, units used and borrowed. -/
structure Share where
  res : Res
  scope : Nat
  pv : Nat
  g : Nat
  l : Nat
  u : Nat
  b : Nat
  deriving DecidableEq, Repr

/-- Share registers and counts (R381 to R398). -/
structure Qos where
  weight : List W32
  weightEff : List W32
  flash : List W32
  flashEff : List W32
  merge : List W32
  mergeEff : List W32
  quota : List W32
  quotaEff : List W32
  cfgReject : Bool
  /-- The frame of the reset instant of a pavilion in reset (R390). -/
  inReset : List (Option Frame)
  /-- PV_USE: the three percentages of the last frame, and FLASH_QUOTA_HIT (R397). -/
  use : List (Nat × Nat × Nat)
  quotaHit : List Bool
  shares : List Share
  /-- Fetch visits made in the round in progress, per function (R386). -/
  visits : List Nat
  deriving DecidableEq, Repr

/-- The share registers after a node reset (R396). -/
def Qos.reset : Qos where
  weight := List.replicate 12 0x0064_0101#32
  weightEff := List.replicate 12 0x0064_0101#32
  flash := List.replicate 12 0#32
  flashEff := List.replicate 12 0#32
  merge := List.replicate 12 0#32
  mergeEff := List.replicate 12 0#32
  quota := List.replicate 12 0#32
  quotaEff := List.replicate 12 0#32
  cfgReject := false
  inReset := List.replicate 12 none
  use := List.replicate 12 (0, 0, 0)
  quotaHit := List.replicate 12 false
  shares := []
  visits := List.replicate 13 0

/-- A physical unit: search die, tensor array or match engine, number on the die. -/
structure PUnit where
  die : Nat
  ta : Bool
  phys : Nat
  deriving DecidableEq, Repr

/-- The counts of a unit in one temperature band (R436): checks, mismatches, ENGINE_SUSPECT posted since the last halving. -/
structure BandCnt where
  u : PUnit
  band : Nat
  checks : Nat
  mism : Nat
  posted : Bool
  deriving DecidableEq, Repr

/-- A replay capture (R443): the die that held it, the unit its mismatch names, the job's header (query sketches, lane masks, thresholds),
the two tiles around the divergence, the similarities that the majority gave for each tile, position and lane, and replays run and failed by
band and load bin. -/
structure Capture where
  die : Nat
  u : PUnit
  job : Nat
  head : Option Ckpt
  tiles : List (List Slot)
  sims : List (List (List Nat))
  /-- Band, loaded bin, runs, failures. -/
  counts : List (Nat × Bool × Nat × Nat)
  deriving DecidableEq, Repr

/-- An execution of a sampled job: unit, temperature band, values. -/
structure Run where
  u : PUnit
  band : Nat
  vals : JobVals
  deriving DecidableEq, Repr

/-- A job marked for shadowing (R429, R430): its queries, its tiles (positions in its batch) or candidates, the frame in which its primary
ended, and the executions so far. -/
structure Shadow where
  id : Nat
  quad : Nat
  scan : Bool
  prim : PUnit
  band : Nat
  qids : List Nat
  batch : Nat
  tiles : List Nat
  /-- The checkpoint header of a scan job (R96). -/
  head : Option Ckpt
  /-- Bytes of inputs that the primary's die holds for it in its query and re-rank area (R167, R430). -/
  bytes : Nat
  ended : Frame
  /-- Primary and shadow disagree: their runs, which wait for an arbitration (R432). -/
  runs : List Run
  deriving DecidableEq, Repr

/-- A BIST run (R451): the register word that started it, whether it has begun, its frames left, the spare lent. -/
structure BistRun where
  ctl : W32
  begun : Bool
  left : Nat
  spare : Option Nat
  frames : Nat
  deriving DecidableEq, Repr

/-- Why a logical unit is to be replaced (R447). -/
structure SwapReq where
  die : Nat
  ta : Bool
  logical : Nat
  cause : Nat
  deriving DecidableEq, Repr

/-- The integrity machinery (R426 to R455). -/
structure Integ where
  keeperCfg : W32
  keeperEff : W32
  shadowRate : W32
  shadowEff : W32
  suspectCfg : W32
  suspectEff : W32
  spareCfg : W32
  spareEff : W32
  cfgReject : Bool
  suspectSeen : Bool
  swapSeen : Bool
  noSpare : Bool
  shadowDrop : Bool
  primaryWrong : Bool
  sramUe : Bool
  /-- Bank filters disabled: stack and bank (R442); and those that failed their last test. -/
  banksOff : List (Nat × Nat)
  bankBad : List (Nat × Nat)
  keeperFail : Nat
  scrubProg : Nat
  scrubFix : Nat
  suspectSel : W32
  selEff : W32
  bistCtl : W32
  bistFail : Bool
  bistAbort : Bool
  bistReject : Bool
  bistMs : Nat
  bistSig : W32
  bistCov : Nat
  bist : Option BistRun
  counts : List BandCnt
  quarantine : List PUnit
  /-- Units whose last Keeper pattern failed (R441). -/
  keeperBad : List PUnit
  /-- Frame of the last Keeper slot of a logical unit: die, tensor array, number, frame (R438). -/
  keeperLast : List (Nat × Bool × Nat × Frame)
  /-- Keeper slots of the frame in progress: die, tensor array, number, slot (R438). -/
  keeperSlots : List (Nat × Bool × Nat × Nat)
  swaps : List SwapReq
  captures : List Capture
  shadows : List Shadow
  /-- Tiles with a tag mismatch to repair: pavilion, epoch, tile, frame seen (R445). -/
  repairs : List (Nat × Nat × Nat × Frame)
  deriving DecidableEq, Repr

/-- Integrity state after a node reset (R454). -/
def Integ.reset : Integ where
  keeperCfg := 0x0018_1003#32
  keeperEff := 0x0018_1003#32
  shadowRate := 0x0000_322A#32
  shadowEff := 0x0000_322A#32
  suspectCfg := 0x0003_0008#32
  suspectEff := 0x0003_0008#32
  spareCfg := 0x0000_9607#32
  spareEff := 0x0000_9607#32
  cfgReject := false
  suspectSeen := false
  swapSeen := false
  noSpare := false
  shadowDrop := false
  primaryWrong := false
  sramUe := false
  banksOff := []
  bankBad := []
  keeperFail := 0
  scrubProg := 0
  scrubFix := 0
  suspectSel := 0#32
  selEff := 0#32
  bistCtl := 0#32
  bistFail := false
  bistAbort := false
  bistReject := false
  bistMs := 0
  bistSig := 0#32
  bistCov := 0
  bist := none
  counts := []
  quarantine := []
  keeperBad := []
  keeperLast := []
  keeperSlots := []
  swaps := []
  captures := []
  shadows := []
  repairs := []

/-- Tier registers and node-wide memory state (R219 to R231). -/
structure Tier where
  cfg : W32
  cfgEff : W32
  cfgReject : Bool
  bar2Abort : Bool
  bar2Drop : Bool
  uncorrSeen : Bool
  fenceSeen : Bool
  tagMismatch : Bool
  migrPages : Nat
  migrLast : Nat
  /-- The frame in which every walled row had been read since the pass before (R225). -/
  scrubAt : Frame
  deriving DecidableEq, Repr

/-- The tier registers after a node reset (R229). -/
def Tier.reset : Tier := ⟨0x1804_0401#32, 0x1804_0401#32, false, false, false, false, false, false, 0, 0, 0⟩

/-- The update gate of the node (R169 to R199). -/
structure Upd where
  cfg : W32
  cfgEff : W32
  mergeCfg : W32
  mergeEff : W32
  cfgReject : Bool
  prepTimeout : Bool
  laggingSeen : Bool
  replicaSplit : Bool
  batches : List Batch
  staged : List Staged
  /-- Batches admitted into the frame in progress, for its frame mark: pavilion and BATCH_ID (R172). -/
  marks : List (Nat × Nat)
  /-- Elements named by a mark of the frame in progress that this node held already: pavilion, admitting node, BATCH_ID, EID (R178). -/
  kept : List (Nat × Nat × Nat × Nat)
  nextBatch : Nat
  deriving DecidableEq, Repr

/-- The update gate after a node reset (R198). -/
def Upd.reset : Upd := ⟨0x010A_01F4#32, 0x010A_01F4#32, 0x0400_0140#32, 0x0400_0140#32, false, false, false, false, [], [], [], [], 0⟩

end Sys2Proof.Machine
end

