-- ==== Sys2Proof/Machine/StNode.lean ====
section
/-! DEFINITION. Types of the node's own state: frame timer, dies, promenade, boot, Lodge, mailboxes, power, sideband
(R10 to R53, R399 to R425, R456 to R497). -/

namespace Sys2Proof.Machine

/-- Alignment states (R38). -/
inductive Align where
  | free | acquire | locked | holdover | unaligned
  deriving DecidableEq, Repr

/-- The frame timer and its servo (R34 to R53). -/
structure Clock where
  hfn : Frame
  /-- The slot in progress; none between a frame boundary and the opening of slot 0 (R49). -/
  slot : Option Nat
  /-- FRAME_CFG as last written, and as in force since the last frame boundary (R51). -/
  cfg : W32
  eff : W32
  originLo : W32
  originHi : W32
  /-- ORIGIN_LO and ORIGIN_HI are locked (R53). -/
  originLock : Bool
  /-- The servo's estimate of tick minus hall time, ns. -/
  offset : Int
  align : Align
  /-- A change of alignment state that waits for the next frame boundary (R43, R49). -/
  alignNext : Option Align
  /-- A jump of the HFN that waits for the end of the frame in progress (R503). -/
  jump : Option Frame
  /-- Consecutive frames within 250 ns (R38). -/
  goodFrames : Nat
  /-- Frames since the last accepted PTP sample, PPS edge, and sample of either kind. -/
  ptpAge : Option Nat
  ppsAge : Option Nat
  sampleAge : Nat
  /-- Consecutive rejected samples. -/
  rejRun : Nat
  /-- A sample has been accepted since HOLDOVER was entered. -/
  samplesBack : Bool
  holdFrames : Nat
  /-- An accepted PTP sample has fixed the second (R40). -/
  secondFixed : Bool
  /-- Frames since the last steering step, up to 4 (R35). -/
  sinceStep : Nat
  /-- The steering step of the frame in progress: slot 15 longer (1), shorter (-1) or unchanged (R34). -/
  step15 : Int
  /-- The output driver of PPS_IO is enabled (R42). -/
  ppsOut : Bool
  ptpRej : Nat
  ppsRej : Nat
  cfgReject : Bool
  lateCommit : Bool
  deriving DecidableEq, Repr

/-- The frame timer after a node reset (R38, R50). -/
def Clock.reset : Clock where
  hfn := 0
  slot := none
  cfg := 0x0000_0C40#32
  eff := 0x0000_0C40#32
  originLo := 0#32
  originHi := 0#32
  originLock := false
  offset := 0
  align := .free
  alignNext := none
  jump := none
  goodFrames := 0
  ptpAge := none
  ppsAge := none
  sampleAge := 0
  rejRun := 0
  samplesBack := false
  holdFrames := 0
  secondFixed := false
  sinceStep := 4
  step15 := 0
  ppsOut := false
  ptpRej := 0
  ppsRej := 0
  cfgReject := false
  lateCommit := false

/-- A search die (R18 to R20, R29, R30). -/
structure Die where
  inService : Bool
  /-- Health of the 52 physical engines and 5 physical arrays. -/
  engines : List Bool
  arrays : List Bool
  /-- Physical unit behind each logical number; none when withdrawn (R19). -/
  engMap : List (Option Nat)
  taMap : List (Option Nat)
  /-- DIE_STAT_n as of the last frame boundary (R30). -/
  stat : W32
  deriving DecidableEq, Repr

/-- A die before its self-test: nothing placed in service. -/
def Die.reset : Die := ⟨false, List.replicate 52 false, List.replicate 5 false, List.replicate 48 none, List.replicate 4 none, 0#32⟩

/-- One link module of a promenade connection (R24). -/
structure Module where
  retries : Nat
  retraining : Bool
  deriving DecidableEq, Repr

/-- What keeps the dies in reset. -/
inductive Hold where
  /-- `PERST_N` is low (R457, R459). -/
  | perst
  /-- A thermal trip holds reset until power is removed (R472). -/
  | tripped
  /-- `SYS_REFCLK` was lost: reset until the clock returns and `PERST_N` is asserted and released (R483). -/
  | clock
  deriving DecidableEq, Repr

/-- Where the node is between power and service (R405, R457, R459). -/
inductive Phase where
  | off
  | held (why : Hold)
  /-- In boot step `step` of R405. -/
  | boot (step : Nat)
  /-- BOOT_FAIL was posted for the step, and boot goes no further; or step 2: the node is out of service (R20, R220). -/
  | failed (step : Nat)
  /-- The Lodge stopped after the self-test (BLANK, DECOMMISSIONED: step 3 of R405). -/
  | lodgeOnly
  | running
  deriving DecidableEq, Repr

/-- A firmware image that runs (R405, R409). -/
structure Running where
  slotB : Bool
  svn : Nat
  digest : List Byte
  deriving DecidableEq, Repr

/-- A MACsec CAK held by the Lodge (R420). -/
structure Cak where
  port : Nat
  sub : Nat
  ckn : List Byte
  cak : List Byte
  deriving DecidableEq, Repr

/-- A pavilion's flash key (R389): the life-cycle state whose node key wraps it, and whether its slot holds it. -/
structure PvKey where
  wrappedIn : Nat
  installed : Bool
  deriving DecidableEq, Repr

/-- Trusted firmware state: fuses, NOR, images, measurement log, keys (R399 to R413, R424). -/
structure Lodge where
  fuses : Fuses
  qspi : Qspi
  /-- Life-cycle state in force since the last reset, and a transition fused since (R412). -/
  lc : Nat
  lcPending : Bool
  /-- Rollback fuse counts as read at the last reset (R424). -/
  lodgeSvn : Nat
  groundsSvn : Nat
  lodgeImg : Option Running
  groundsImg : Option Running
  log : List (List Byte)
  logN : Nat
  logD : List Byte
  nonce : Option (List Byte)
  nonceN : Nat
  /-- Frames since the last heartbeat, and the HFN of that heartbeat (R401). -/
  hbAge : Nat
  hbAt : Frame
  caks : List Cak
  /-- Interfaces (port, sub-port) whose SAK is installed. -/
  saks : List (Nat × Nat)
  pvKeys : List (Option PvKey)
  staging : Option (Bool × Image)
  /-- LODGE_STAT fields (R424). -/
  lastMsg : Nat
  fwViol : Bool
  groundsRestart : Bool
  mbxLost : Bool
  fwViolCnt : Nat
  /-- E_act and E_col of each stack in fJ, as recorded at bring-up from the stack's identity (R498). -/
  energies : List (Nat × Nat)
  deriving DecidableEq, Repr

/-- A host-sent mailbox channel (R414 to R417, R423). -/
structure Chan where
  lo : W32
  hi : W32
  full : Bool
  ackValid : Bool
  timedOut : Bool
  overrun : Bool
  cfgReject : Bool
  ret : Nat
  ctl : W32
  /-- Frames since the post, and the limit taken at the post (R425). -/
  timer : Nat
  limit : Nat
  /-- The receiver has taken the word and its answer comes later. -/
  taken : Bool
  deriving DecidableEq, Repr

/-- A channel after reset (R423). -/
def Chan.reset : Chan := ⟨0#32, 0#32, false, false, false, false, false, 0, 0x0000_01F4#32, 0, 0, false⟩

/-- The Lodge-to-host channel (R423, R424): messages that wait behind the posted one, and the posted one. -/
structure RxChan where
  word : W64
  full : Bool
  ctl : W32
  timer : Nat
  waiting : List W64
  deriving DecidableEq, Repr

/-- A unit of R322: its sensors, thermal step and power limits (R28, R467 to R472). -/
structure ThermUnit where
  /-- Last temperature, and the highest of the frame in progress, °C. -/
  temp : Int
  peak : Int
  /-- Sensors found stuck (R469). -/
  stuck : List Nat
  sensorFail : Bool
  step : Nat
  /-- Frames below the threshold for leaving the step. -/
  cool : Nat
  /-- Consecutive samples over the trip limit. -/
  tripN : Nat
  /-- Slots per frame taken from the die's duty by R28 (R467), and whether the boundary at hand has taken its two. -/
  cut : Nat
  cutNow : Bool
  /-- Consecutive slots over the class budget, and whether any slot of the frame was over. -/
  overN : Nat
  overFrame : Bool
  /-- Power of the last slot, W. -/
  power : Nat
  deriving DecidableEq, Repr

/-- A unit before any sample. -/
def ThermUnit.reset : ThermUnit := ⟨0, 0, [], false, 0, 0, 0, 0, false, 0, false, 0⟩

/-- What a flush was started for (R261, R459, R472, R483). -/
inductive FlushFor where
  | pfail | clock | trip
  deriving DecidableEq, Repr

/-- Power, reset and thermal state (R456 to R475). -/
structure Power where
  cap : W32
  capEff : W32
  thermCfg : W32
  thermEff : W32
  pkgW : Nat
  /-- Sum of the slots' package power in the frame in progress, and their number. -/
  sumW : Nat
  slotsW : Nat
  level : Nat
  below : Nat
  capHit : Bool
  cfgReject : Bool
  stepSeen : Bool
  thermReject : Bool
  units : List ThermUnit
  cause : Nat
  pfailSeen : Bool
  tripped : Bool
  tripUnit : Nat
  /-- Frame at which a host node reset was asked for (R475). -/
  rstAt : Option Frame
  /-- A flush in progress, and the bytes it has written (R261). -/
  flush : Option FlushFor
  flushStart : Frame
  /-- PFAIL_N: asserted (R462), and an assertion that waits for the next slot boundary. -/
  pfailLow : Bool
  flushPend : Option FlushFor
  /-- Admission was stopped by power fail and resumes at the next frame boundary (R263). -/
  stopped : Bool
  resume : Bool
  /-- A reset that waits for the flush in progress to end (R461): its cause. -/
  resetPending : Option Nat
  /-- Output pins. -/
  flushDone : Bool
  thermTripN : Bool
  deriving DecidableEq, Repr

/-- Sideband registers and pins (R476 to R497). -/
structure Side where
  gpioDir : W32
  gpioOut : W32
  /-- Level the board puts on each input pin, as last sampled (R490). -/
  gpioPins : W32
  strap : Byte
  strapBad : Bool
  cfgReject : Bool
  pmbFault : Bool
  pmbCfg : W32
  /-- Last poll: address and the four values, none for an unavailable sensor (R486). -/
  regs : List RegRead
  pmbExtra : Bool
  eid : Byte
  /-- PLDM sensor thresholds set by the bus owner (R485). -/
  thresholds : List (Nat × Int)
  /-- Reference clocks present: PCI Express, and one per link die. -/
  pcieClk : Bool
  ethClk : List Bool
  deriving DecidableEq, Repr

/-- Fuses of a part on which nothing has been programmed: BLANK (R411). -/
def Fuses.blank : Fuses := ⟨0, 0, 0, [], false, [], [], [], [], []⟩
/-- A slot that holds no image. -/
def Image.blank : Image := ⟨[], false⟩
/-- A NOR in which nothing has been written. -/
def Qspi.blank : Qspi := ⟨Image.blank, Image.blank, Image.blank, Image.blank, ⟨false, 0⟩, ⟨false, 0⟩⟩

/-- The Lodge's state after a node reset, over the part's fuses and NOR (R409, R424). -/
def Lodge.init (f : Fuses) (q : Qspi) : Lodge where
  fuses := f
  qspi := q
  lc := f.lc
  lcPending := false
  lodgeSvn := f.lodgeCount
  groundsSvn := f.groundsCount
  lodgeImg := none
  groundsImg := none
  log := []
  logN := 0
  logD := zeros 64
  nonce := none
  nonceN := 0
  hbAge := 0
  hbAt := 0
  caks := []
  saks := []
  pvKeys := List.replicate 12 none
  staging := none
  lastMsg := 0
  fwViol := false
  groundsRestart := false
  mbxLost := false
  fwViolCnt := 0
  energies := []

/-- The Lodge-to-host channel after a node reset (R423). -/
def RxChan.reset : RxChan := ⟨0#64, false, 0#32, 0, []⟩

/-- Power and thermal state after power-on (R474). -/
def Power.reset : Power where
  cap := 0x0001_45DC#32
  capEff := 0x0001_45DC#32
  thermCfg := 0x0000_5A64#32
  thermEff := 0x0000_5A64#32
  pkgW := 0
  sumW := 0
  slotsW := 0
  level := 0
  below := 0
  capHit := false
  cfgReject := false
  stepSeen := false
  thermReject := false
  units := List.replicate 48 ThermUnit.reset
  cause := 0
  pfailSeen := false
  tripped := false
  tripUnit := 0
  rstAt := none
  flush := none
  flushStart := 0
  pfailLow := false
  flushPend := none
  stopped := false
  resume := false
  resetPending := none
  flushDone := true
  thermTripN := true

/-- Sideband registers after a node reset (R496). -/
def Side.reset : Side where
  gpioDir := 0#32
  gpioOut := 0#32
  gpioPins := 0#32
  strap := 0#8
  strapBad := false
  cfgReject := false
  pmbFault := false
  pmbCfg := 0x0000_0010#32
  regs := []
  pmbExtra := false
  eid := 0#8
  thresholds := []
  pcieClk := true
  ethClk := [true, true, true, true]

end Sys2Proof.Machine
end

