-- ==== Sys2Proof/Machine/State.lean ====
section
/-! DEFINITION. The state of the block and its state after reset; the reasons a command can stop. -/

namespace Sys2Proof.Machine

/-- Reasons a command ends in a fault. No meaning of this model raises one: the spec gives every event an outcome that is a
status, a flag, an event or no effect. -/
inductive Fault where
  /-- Kept so that the type has a value. Raised by nobody (safe). -/
  | none
  deriving DecidableEq, Repr

/-- Reasons a command is refused. -/
inductive Refusal where
  /-- Raised only by an arm of `exec` whose command has no meaning yet (safe: the model says nothing). -/
  | notModelled (mnemonic : String)
  deriving DecidableEq, Repr

/-- The statistics counters of R319: per group the counters, and the frame at which they were last cleared. -/
structure StatSet where
  groups : List (List Nat)
  since : List Frame
  deriving DecidableEq, Repr

/-- A set with every counter 0. -/
def StatSet.reset : StatSet :=
  ⟨[List.replicate 10 0, List.replicate 7 0, List.replicate 9 0, List.replicate 11 0, List.replicate 7 0, List.replicate 9 0],
   List.replicate 6 0⟩

/-- Modules of the promenade connections, in this order (R22): 24 search dies, 4 quadrants to HB, 4 quadrants to HA, 4 link dies
to their quadrant, 4 link dies to HB, 2 storage dies to each of 2 quadrants, 2 storage dies to HB, HA to HB. -/
def connModules : List Nat :=
  List.replicate 24 8 ++ List.replicate 4 8 ++ List.replicate 4 2 ++ List.replicate 4 4 ++ List.replicate 4 2 ++
    List.replicate 4 2 ++ List.replicate 2 1 ++ [2]

/-- Every module at rest. -/
def promenadeReset : List (List Module) := connModules.map fun n => List.replicate n ⟨0, false⟩

/-- The state of the block. -/
structure State where
  /-- The commands that wait, first in first out (the model's own). -/
  pending : List Instr
  /-- Free values drawn so far (the model's own; log 2). -/
  free : Nat
  /-- The next number for a work item, query or batch (the model's own). -/
  nextId : Nat
  /-- What has left the block, oldest first (the model's own; log 4). -/
  out : List Out
  phase : Phase
  fns : List FnState
  works : List Work
  clk : Clock
  dies : List Die
  /-- Link dies, storage dies and stacks in service. -/
  lds : List Nat
  scs : List Nat
  sts : List Nat
  /-- Promenade connections and their modules (R22). -/
  mods : List (List Module)
  lodge : Lodge
  chans : List Chan
  rx : RxChan
  pwr : Power
  side : Side
  stats : StatSet
  pvStats : List StatSet
  corpora : List Corpus
  ranges : List Range
  tier : Tier
  upd : Upd
  scan : Scan
  flash : Flash
  fab : Fabric
  comp : Comp
  qos : Qos
  integ : Integ
  deriving DecidableEq, Repr

/-- The functions after a node reset (R270). -/
def fnsReset : List FnState := FnState.reset true :: List.replicate 12 (FnState.reset false)

/-- The block right after reset: `PERST_N` is low, every register holds its reset value, the queue is empty, and the part's
fuses and NOR hold nothing (log 6). -/
def State.reset : State where
  pending := []
  free := 0
  nextId := 0
  out := []
  phase := .held .perst
  fns := fnsReset
  works := []
  clk := Clock.reset
  dies := List.replicate 24 Die.reset
  lds := []
  scs := []
  sts := []
  mods := promenadeReset
  lodge := Lodge.init Fuses.blank Qspi.blank
  chans := List.replicate 14 Chan.reset
  rx := RxChan.reset
  pwr := Power.reset
  side := Side.reset
  stats := StatSet.reset
  pvStats := List.replicate 12 StatSet.reset
  corpora := List.replicate 12 Corpus.reset
  ranges := List.replicate 12 Range.reset
  tier := Tier.reset
  upd := Upd.reset
  scan := Scan.reset
  flash := Flash.reset
  fab := Fabric.reset
  comp := Comp.reset
  qos := Qos.reset
  integ := Integ.reset

end Sys2Proof.Machine
end

