-- ==== Sys2Proof/Machine/Ops.lean ====
section
/-! DEFINITION. Shared operations on the state: access to its parts, host writes, events, completions, interrupts, mailbox
answers, statistics (R268 to R323, R414 to R424). -/

namespace Sys2Proof.Machine

/-! ## Phases -/

/-- The node serves work (R405 step 4 is past). -/
def State.live (s : State) : Bool := s.phase == .running

/-- The PCI Express link is up: out of reset, with its reference clock (R295, R459, R483). -/
def State.linkUp (s : State) : Bool :=
  s.side.pcieClk && (match s.phase with | .off => false | .held _ => false | _ => true)

/-- The package is in flush mode: from the start of a flush until admission resumes (R261, R263, R463). -/
def State.flushing (s : State) : Bool := s.pwr.flush.isSome || s.pwr.stopped

/-- The frame in progress. -/
def State.hfn (s : State) : Frame := s.clk.hfn

/-- A meaning that has an effect only when its condition holds; otherwise the event does not arise and nothing changes (log 3). -/
def when_ (c : Bool) (f : State → State) (s : State) : State := if c then f s else s

/-- The candidate with the least value of a key, ties to the earlier in the list. -/
def leastBy {α : Type} (lt : α → α → Bool) : List α → Option α
  | [] => none
  | x :: xs => match leastBy lt xs with
    | none => some x
    | some y => if lt y x then some y else some x

/-! ## Parts -/

/-- A function's state. -/
def State.fn (s : State) (f : Fn) : FnState := s.fns.getD f.val (FnState.reset false)
/-- Change a function's state. -/
def modFn (f : Fn) (g : FnState → FnState) (s : State) : State := { s with fns := modifyAt s.fns f.val g }
/-- A ring pair. -/
def State.ring (s : State) (f : Fn) (r : Nat) : Ring := (s.fn f).rings.getD r Ring.reset
/-- Change a ring pair. -/
def modRing (f : Fn) (r : Nat) (g : Ring → Ring) : State → State :=
  modFn f fun x => { x with rings := modifyAt x.rings r g }
/-- A pavilion's corpus. -/
def State.corpus (s : State) (p : Nat) : Corpus := s.corpora.getD p Corpus.reset
/-- Change a pavilion's corpus. -/
def modCorpus (p : Nat) (g : Corpus → Corpus) (s : State) : State := { s with corpora := modifyAt s.corpora p g }
/-- A pavilion's node range. -/
def State.range (s : State) (p : Nat) : Range := s.ranges.getD p Range.reset
/-- Change a pavilion's node range. -/
def modRange (p : Nat) (g : Range → Range) (s : State) : State := { s with ranges := modifyAt s.ranges p g }
/-- The function of a pavilion by number. -/
def fnOf (p : Nat) : Fn := Fin.ofNat 13 (p % 12 + 1)
/-- The pavilion number a function serves (0 for PF0, which serves none). -/
def pvOf (f : Fn) : Nat := f.val - 1

/-- Record what leaves the block (log 4). -/
def emit (o : Out) (s : State) : State := { s with out := s.out ++ [o] }

/-- Draw a free value: the value, and the state that has drawn it (log 2). -/
def draw (s : State) : Nat × State := (Config.freeValue s.free, { s with free := s.free + 1 })

/-- A new number for a work item, a query or a batch. -/
def fresh (s : State) : Nat × State := (s.nextId, { s with nextId := s.nextId + 1 })

/-- A pavilion in reset (R390). -/
def State.pvInReset (s : State) (p : Nat) : Bool := (s.qos.inReset.getD p none).isSome

/-- The function may use the link: it exists, is in D0 and not in reset (R268, R270, R390). -/
def State.fnUp (s : State) (f : Fn) : Bool :=
  s.linkUp && (s.fn f).enabled && !(s.fn f).d3 && !(f.val != 0 && s.pvInReset (pvOf f))

/-- BAR0 of PF0 answers. -/
def State.bar0Up0 (s : State) : Bool := s.fnUp 0

/-! ## Statistics (R319) -/

/-- Add to a counter of a set, saturating at 64 bits. -/
def StatSet.add (x : StatSet) (g i n : Nat) : StatSet :=
  { x with groups := modifyAt x.groups g fun cs => modifyAt cs i fun c => satTo (2 ^ 64 - 1) (c + n) }

/-- Count in the node-wide set and, for work of a pavilion, in that pavilion's. -/
def count (pv : Option Nat) (g i n : Nat) (s : State) : State :=
  let s := { s with stats := s.stats.add g i n }
  match pv with
  | some p => { s with pvStats := modifyAt s.pvStats p fun x => x.add g i n }
  | none => s

/-! ## Interrupts, events and completions -/

/-- Write host memory with a function's requester ID (R269, R502): nothing leaves while the function may not use the link. -/
def hostWrite (f : Fn) (addr : Nat) (data : List Byte) (s : State) : State :=
  if s.fnUp f then emit (.write f addr data .snooped) s else s

/-- Read host memory with a function's requester ID (R269); the data is an operand of the command that the read belongs to. -/
def hostRead (f : Fn) (addr len : Nat) (s : State) : State :=
  if s.fnUp f then emit (.read f addr len .snooped) s else s

/-- Raise a vector of a function: a masked vector sets its pending bit instead (R289). -/
def fire (f : Fn) (v : Nat) (s : State) : State :=
  if s.fnUp f then
    if bit ((s.fn f).msix.getD v Msix.reset).ctl 0 then
      modFn f (fun x => { x with msix := modifyAt x.msix v fun m => { m with pend := true } }) s
    else emit (.msix f v) s
  else s

/-- Fields shared by RING_CTL and EQ_CTL (R290, R291). -/
def ctlVector (c : W32) : Nat := fld c 13 8
def ctlModCount (c : W32) : Nat := fld c 23 16
def ctlModTime (c : W32) : Nat := fld c 31 24

/-- Entries of a ring from its size field (R273). -/
def ringN (log2 : Nat) : Nat := 2 ^ log2
def Ring.sqN (r : Ring) : Nat := ringN (fld r.size 4 0)
def Ring.cqN (r : Ring) : Nat := ringN (fld r.size 12 8)
def Ring.enabled (r : Ring) : Bool := bit r.ctl 0
/-- (a − b) mod n for indices below n. -/
def modSub (a b n : Nat) : Nat := (a + n - b) % n
/-- Completions posted and not released: U of R280. -/
def Ring.unreleased (r : Ring) : Nat := modSub r.cqTail r.cqHead r.cqN
/-- QUIESCED (R283): nothing in flight and nothing owed. -/
def Ring.quiesced (r : Ring) : Bool := r.inFlight == 0 && !r.haltOwed
def EvRing.n (e : EvRing) : Nat := ringN (fld e.ctl 4 0)
def EvRing.enabled (e : EvRing) : Bool := bit e.ctl 5
def EvRing.unreleased (e : EvRing) : Nat := modSub e.tail e.head e.n

/-- Interrupt moderation after an entry is posted on a completion ring (R289): the interrupt fields apply from this entry on (R293). -/
def ringIrq (f : Fn) (r : Nat) (s : State) : State :=
  let s := modRing f r (fun x => { x with irq := x.ctl }) s
  let x := s.ring f r
  if bit x.ctl 2 then
    if ctlModCount x.ctl ≤ x.modN + 1 then
      fire f (ctlVector x.ctl) (modRing f r (fun x => { x with modN := 0, modT := none }) s)
    else modRing f r (fun x => { x with modN := x.modN + 1, modT := some (x.modT.getD 0) }) s
  else modRing f r (fun x => { x with modN := 0, modT := none }) s

/-- The same on the event ring. -/
def eqIrq (f : Fn) (s : State) : State :=
  let s := modFn f (fun y => { y with eq := { y.eq with irq := y.eq.ctl } }) s
  let x := (s.fn f).eq
  if bit x.ctl 6 then
    if ctlModCount x.ctl ≤ x.modN + 1 then
      fire f (ctlVector x.ctl) (modFn f (fun y => { y with eq := { y.eq with modN := 0, modT := none } }) s)
    else modFn f (fun y => { y with eq := { y.eq with modN := y.eq.modN + 1, modT := some (y.eq.modT.getD 0) } }) s
  else modFn f (fun y => { y with eq := { y.eq with modN := 0, modT := none } }) s

/-- Write one entry at the tail of a completion ring and advance the tail (R281). -/
def putCq (f : Fn) (r : Nat) (e : List Byte) (s : State) : State :=
  let x := s.ring f r
  let s := hostWrite f (x.cqBase + 32 * x.cqTail) (withPhase e x.cqPhase) s
  let t := (x.cqTail + 1) % x.cqN
  ringIrq f r (modRing f r (fun x => { x with cqTail := t, cqPhase := if t = 0 then !x.cqPhase else x.cqPhase }) s)

/-- Write one entry at the tail of an event ring and advance the tail (R287). -/
def putEq (f : Fn) (e : List Byte) (s : State) : State :=
  let x := (s.fn f).eq
  let s := hostWrite f (x.base + 32 * x.tail) (withPhase e x.phase) s
  let t := (x.tail + 1) % x.n
  eqIrq f (modFn f (fun y => { y with eq := { y.eq with tail := t, phase := if t = 0 then !y.eq.phase else y.eq.phase } }) s)

/-- Post an event (R288): dropped and counted when N − 2 events are unreleased; nothing while the event ring is disabled. -/
def postEventAt (hfn : Frame) (f : Fn) (ev pv : Nat) (data : List Byte) (s : State) : State :=
  let x := (s.fn f).eq
  if (s.fn f).enabled && x.enabled then
    if x.n - 2 ≤ x.unreleased then
      modFn f (fun y => { y with eq := { y.eq with dropped := satTo 65535 (y.eq.dropped + 1) } }) s
    else putEq f (eventBytes ev pv hfn data) s
  else s

/-- An event of the frame in progress. -/
def postEvent (f : Fn) (ev pv : Nat) (data : List Byte) (s : State) : State := postEventAt s.hfn f ev pv data s
/-- A node-wide event goes to PF0 with `PV` 0xFF (R287, R322, R388). -/
def nodeEvent (ev : Nat) (data : List Byte) (s : State) : State := postEvent 0 ev 0xFF data s
/-- An event of a pavilion goes to its VF (R388). -/
def pvEvent (p ev : Nat) (data : List Byte) (s : State) : State := postEvent (fnOf p) ev p data s

/-- Event codes of R323. -/
def evRingHalt : Nat := 0x01
def evEventLost : Nat := 0x02
def evLag : Nat := 0x03
def evMapEpoch : Nat := 0x04
def evCalibDrift : Nat := 0x05
def evMemError : Nat := 0x06
def evFlashWarn : Nat := 0x07
def evPfailDone : Nat := 0x08
def evSuspect : Nat := 0x09
def evSwap : Nat := 0x0A
def evThermal : Nat := 0x0B
def evBist : Nat := 0x0C
def evLink : Nat := 0x0D

/-- Is the halt cause one of the completion doorbell (R282 step 5)? -/
def haltLosesCpl (cause : Nat) : Bool := cause == 3 || cause == 4

/-- The halt completion of R282 and R321. -/
def haltEntry (x : Ring) : List Byte :=
  completionBytes 0xFFFFFFFF x.sqHead .badRing 0 0 (leBytes 2 x.haltCause ++ leBytes 4 x.haltIndex)

/-- Write the halt completion that is owed, once nothing is in flight (R282 step 4). -/
def settleHalt (f : Fn) (r : Nat) (s : State) : State :=
  let x := s.ring f r
  if x.haltOwed && x.inFlight == 0 then putCq f r (haltEntry x) (modRing f r (fun x => { x with haltOwed := false }) s) else s

/-- Halt a ring pair (R282): a ring that is halted already stays as it is. -/
def haltRing (f : Fn) (r cause idx : Nat) (s : State) : State :=
  if (s.ring f r).halted then s
  else
    let s := modRing f r (fun x => { x with halted := true, haltCause := cause, haltIndex := idx, haltOwed := !haltLosesCpl cause }) s
    let s := postEvent f evRingHalt (if f.val = 0 then 0xFF else pvOf f) (leBytes 1 r ++ leBytes 1 cause ++ leBytes 4 idx) s
    settleHalt f r s

/-- Post the one completion of a descriptor (R279, R281): it leaves the work list, and the halt completion follows it when
it was the last one in flight. -/
def complete (w : Work) (st : Status) (flags : Nat) (spec : List Byte) (s : State) : State :=
  let s := { s with works := s.works.filter fun x => x.id != w.id }
  let s := modRing w.fn w.ring (fun x => { x with inFlight := x.inFlight - 1 }) s
  let x := s.ring w.fn w.ring
  if x.halted && haltLosesCpl x.haltCause then
    modRing w.fn w.ring (fun x => { x with lostCpl := satTo 0xFF (x.lostCpl + 1) }) s
  else
    settleHalt w.fn w.ring (putCq w.fn w.ring (completionBytes (dTag w.desc) x.sqHead st (dOp w.desc) flags spec) s)

/-- A work item by its number. -/
def State.work (s : State) (id : Nat) : Option Work := s.works.find? fun w => w.id == id
/-- Change a work item. -/
def modWork (id : Nat) (g : Work → Work) (s : State) : State := { s with works := mapIf (fun w => w.id == id) g s.works }
/-- Complete the work item of that number, if it is still there. -/
def completeId (id : Nat) (st : Status) (flags : Nat) (spec : List Byte) (s : State) : State :=
  match s.work id with
  | some w => complete w st flags spec s
  | none => s

/-- Memory errors of a pavilion's range (R226): form 0 with its offset. -/
def memError (p tier access off : Nat) (s : State) : State :=
  pvEvent p evMemError (leBytes 1 tier ++ leBytes 1 access ++ leBytes 1 0 ++ leBytes 8 off)
    { s with tier := { s.tier with uncorrSeen := true } }

/-! ## Mailboxes (R414 to R424) -/

/-- The function that sends on a host-sent channel: PF0 on channels 0 and 1, VF n + 1 on channel 2 + n. -/
def chanFn (c : Nat) : Fn := if c < 2 then 0 else fnOf (c - 2)

/-- Change a channel. -/
def modChan (c : Nat) (g : Chan → Chan) (s : State) : State := { s with chans := modifyAt s.chans c g }
/-- A channel. -/
def State.chan (s : State) (c : Nat) : Chan := s.chans.getD c Chan.reset
/-- The posted word. -/
def Chan.word (c : Chan) : Nat := c.hi.toNat * 2 ^ 32 + c.lo.toNat
/-- CMD and ARG of a word (R415). -/
def wordCmd (w : Nat) : Nat := bitsOf w 63 56
def wordArg (w : Nat) : Nat := bitsOf w 51 0

/-- Return codes of R419. -/
def rcOk : Nat := 0x0000
def rcBadCmd : Nat := 0x0001
def rcBadArg : Nat := 0x0002
def rcBadBlock : Nat := 0x0003
def rcDenied : Nat := 0x0004
def rcRefused : Nat := 0x0005
def rcTimeout : Nat := 0x0006
def rcBusy : Nat := 0x0007
def rcVerifyFail : Nat := 0x0008
def rcRollback : Nat := 0x0009
def rcNoSpace : Nat := 0x000A
def rcFault : Nat := 0x000B

/-- The receiver's acknowledge write (R416): no effect while FULL is 0 (R417). -/
def chanAck (c rc : Nat) (s : State) : State :=
  let x := s.chan c
  if x.full then
    let s := modChan c (fun x => { x with full := false, ackValid := true, ret := rc, taken := false }) s
    if bit x.ctl 22 then fire (chanFn c) (fld x.ctl 21 16) s else s
  else s

/-- Write the 8-byte result of a block (R418). -/
def blockOut (c addr v : Nat) (s : State) : State := hostWrite (chanFn c) (addr + 8) (leBytes 8 v) s

/-- Post the oldest waiting Lodge-to-host message when the channel is free (R414, R416, R424). -/
def rxPump (s : State) : State :=
  match s.rx.waiting with
  | w :: ws =>
    if s.rx.full then s
    else
      let s := { s with rx := { s.rx with word := w, full := true, timer := 0, waiting := ws } }
      let s := { s with lodge := { s.lodge with lastMsg := wordCmd w.toNat } }
      if bit s.rx.ctl 22 then fire 0 (fld s.rx.ctl 21 16) s else s
  | [] => s

/-- Send a Lodge-to-host message, copied to the Lodge's console (R424, R488). -/
def lodgePost (cmd unit detail : Nat) (s : State) : State :=
  let w : W64 := BitVec.ofNat 64 (cmd * 2 ^ 56 + unit % 256 * 2 ^ 48 + detail % 2 ^ 48)
  let s := (leBytes 8 w.toNat).foldl (fun s b => emit (.uart b) s) s
  rxPump { s with rx := { s.rx with waiting := s.rx.waiting ++ [w] } }

/-! ## Composition lookups -/

/-- This node's number (R330). -/
def State.node (s : State) : Nat := fld s.fab.nodeId 15 0

/-- The slices a pavilion holds on this node (R355). -/
def State.slices (s : State) (p : Nat) : Option CSlices :=
  s.comp.map.slices.find? fun x => x.node == s.node && x.pv == p

/-- Bits [lo, lo + n) of a mask that are set. -/
def maskCount (m lo n : Nat) : Nat := popcount n (m >>> lo)

/-- Engine slices, tensor arrays and memory slices of a pavilion in a quadrant of this node (R354, R11). -/
def CSlices.engQ (c : CSlices) (q : Nat) : Nat := maskCount c.eng (36 * q) 36
def CSlices.memQ (c : CSlices) (q : Nat) : Nat := maskCount c.mem (16 * q) 16

/-- The pavilion holds at least one engine slice and one memory slice on this node (R286). -/
def State.composed (s : State) (p : Nat) : Bool :=
  match s.slices p with
  | some c => c.eng != 0 && c.mem != 0
  | none => false

/-- The alignment state leaves admission open (R38). -/
def State.alignOpen (s : State) : Bool := match s.clk.align with | .acquire => false | .unaligned => false | _ => true

/-- Admission is open for new work (R38, R41, R261, R263, R372). -/
def State.admits (s : State) : Bool := s.live && !s.flushing && !s.pwr.stopped && !s.pwr.pfailLow && s.alignOpen

/-- This node is not a member that has been suspended (R372). -/
def State.suspended (s : State) : Bool :=
  s.comp.map.members.any fun m => m.node == s.node && m.st == 1

end Sys2Proof.Machine
end

