-- ==== Sys2Proof/Machine/FabOps.lean ====
section
/-! DEFINITION. Sending over the fabric: packets, flows, coalescing (R324 to R345). -/

namespace Sys2Proof.Machine

/-- Operations of R333. -/
def jBundle : Nat := 0
def jRead : Nat := 1
def jWrite : Nat := 2
def jAtomic : Nat := 3
def jFanout : Nat := 4
def jPartial : Nat := 5
def jMap : Nat := 6
def jIngest : Nat := 7
def jResp : Nat := 8
def jAck : Nat := 9

/-- The node may send JFP (R330, R463, R464). -/
def State.jfpUp (s : State) : Bool := s.live && s.node != 0xFFFF && !s.flushing && !s.pwr.pfailLow

/-- A port carries traffic (R326). -/
def Port.carries (p : Port) : Bool := p.st == 1 || p.st == 2

/-- Ports that are up, in port order. -/
def State.upPorts (s : State) : List Nat := (List.range 20).filter fun i => (s.fab.ports.getD i Port.reset).carries

/-- Payload bytes of a packet (R352). -/
def segSize (cfg : W32) : Nat := 1024 <<< fld cfg 17 16

/-- The receiving flow is the one of that source, class and index. -/
def RFlow.is (src cls idx : Nat) (f : RFlow) : Bool := f.src == src && f.cls == cls && f.idx == idx

/-- The header of a packet and its payload (R331). `ack` is the reverse flow whose acknowledgement it carries (R334). -/
def pktBytes (s : State) (f : SFlow) (p : Pkt) (ack : Option RFlow) : List Byte :=
  let echo := match ack with | some r => 4 + if r.ce then 8 else 0 | none => 0
  let flags := (if p.off = 0 then 1 else 0) + (if p.last then 2 else 0) + echo + (if p.again then 16 else 0)
  let h := leBytes 1 1 ++ leBytes 1 p.op ++ leBytes 2 flags ++ leBytes 2 s.node ++ leBytes 2 f.dst ++ leBytes 1 p.pv ++
    leBytes 1 (f.cls + 8 * f.idx) ++ leBytes 2 p.data.length ++ leBytes 4 p.psn ++ leBytes 4 ((ack.map (·.expect)).getD 0) ++
    leBytes 4 p.msgId ++ leBytes 4 p.off ++ leBytes 4 p.len ++ leBytes 8 p.epoch ++ leBytes 4 s.hfn
  h ++ leBytes 4 (crc32c h) ++ p.data ++ (if p.last then leBytes 4 p.mcrc else [])

/-- The reverse flow that a flow's packets can acknowledge: it owes an acknowledgement (R334). -/
def State.owing (s : State) (f : SFlow) : Option RFlow := s.fab.rflows.find? fun r => r.is f.dst f.cls f.idx && decide (0 < r.owed)

/-- Charge bytes of classes 3 and 4 on a port to a pavilion (R342, R382, R385). -/
def chargeLink (port pv n : Nat) (s : State) : State :=
  let add (y : Share) : Share := { y with u := y.u + n, b := y.b + (y.u + n - max y.u y.g) }
  { s with qos := { s.qos with shares := mapIf (fun y => y.res == .link && y.scope == port && y.pv == pv) add s.qos.shares } }

/-- Put a packet on the wire of its flow's port, with the acknowledgement that the reverse flow owes. -/
def putPkt (f : SFlow) (p : Pkt) (s : State) : State :=
  let bs := pktBytes s f p (s.owing f)
  let s := { s with fab := { s.fab with
    rflows := mapIf (RFlow.is f.dst f.cls f.idx) (fun r => { r with owed := 0, ce := false }) s.fab.rflows
    retx := s.fab.retx + if p.again then 1 else 0 } }
  let s := when_ (decide (3 ≤ f.cls)) (chargeLink f.port p.pv bs.length) s
  count none 4 3 bs.length (emit (.port f.port "JFP" bs) s)

/-- A port honours a pause of the priority now (R347, R349). -/
def Port.paused (p : Port) (prio : Nat) : Bool :=
  let x := p.pause.getD prio (false, 0, none)
  bit p.eff 2 && x.1 && x.2.2.isNone
/-- JFP packets of a port wait: it carries no traffic, or their priority is paused (R326, R347). -/
def State.jfpStops (s : State) (port : Nat) : Bool :=
  let p := s.fab.ports.getD port Port.reset
  !p.carries || p.paused (fld p.eff 8 6)

/-- Cut a message into the packets of a flow, from PSN `psn` (R331). -/
def cutMsg (seg op pv msgId epoch psn : Nat) (body : List Byte) : List Pkt :=
  let n := body.length
  let crc := crc32c body
  (chunks seg body).zipIdx.map fun (d, i) =>
    ⟨(psn + i) % 2 ^ 32, op, pv, msgId, i * seg, n, decide (n ≤ (i + 1) * seg), d, crc, epoch, false, false, false⟩

/-- A sending flow at its start (R345): full rate, alpha 1. -/
def SFlow.start (dst cls idx port : Nat) : SFlow :=
  ⟨dst, cls, idx, port, 0, 0, [], none, 0, 0, 1, 1, 2, false⟩

/-- The flow for a message (R332): classes 0 to 2 use one flow per destination, by a hash of the node pair; classes 3 and 4 go
round the ports that are up. -/
def flowIdx (s : State) (dst cls msgId : Nat) : Nat :=
  let ups := s.upPorts
  if cls < 3 then Config.hash [s.node, dst] % 20
  else ups.getD (msgId % max 1 ups.length) 0

/-- The port a flow starts on: its own index when that port is up, else the next that is (R332). -/
def portFrom (s : State) (idx : Nat) : Nat :=
  (((List.range 20).map fun i => (idx + i) % 20).find? fun i => (s.fab.ports.getD i Port.reset).carries).getD idx

/-- Change the sending flows that satisfy a test. -/
def modFlow (sel : SFlow → Bool) (g : SFlow → SFlow) (s : State) : State :=
  { s with fab := { s.fab with sflows := mapIf sel g s.fab.sflows } }

/-! ### The link buffer pools (R10, R340, R341) -/

/-- Floors and caps of the five classes in a link die's pool, in bytes; the shared rest; the classes whose buffers a class may take. -/
def linkFloor (cls : Nat) : Nat := [4, 32, 24, 16, 8].getD cls 0 * 2 ^ 20
def linkCap (cls : Nat) : Nat := [8, 96, 64, 96, 64].getD cls 0 * 2 ^ 20
def linkShared : Nat := 44 * 2 ^ 20
def linkTakes (cls : Nat) : List Nat := [[3, 4], [3, 4], [3]].getD cls []

/-- Bytes that a class holds for a port: packets sent and not acknowledged, and packets of messages that are not whole. RoCEv2 packets
are served as they come and hold none (log 155). -/
def State.portHolds (s : State) (port cls : Nat) : Nat :=
  sumNat ((s.fab.sflows.filter fun f => f.port == port && f.cls == cls).flatMap fun f => (f.unacked.filter (·.buf)).map (·.data.length)) +
    sumNat ((s.fab.rmsgs.filter fun r => r.port == port && r.cls == cls).map (·.got.length))
/-- Ports of a port's link die. -/
def diePorts (port : Nat) : List Nat := (List.range 5).map (port / 5 * 5 + ·)
/-- Bytes that a class holds in the pool of a port's link die. -/
def State.linkHolds (s : State) (port cls : Nat) : Nat := sumNat ((diePorts port).map fun i => s.portHolds i cls)
/-- Bytes of the shared rest in use: what a class holds for a port beyond one fifth of its floor. -/
def State.linkOver (s : State) (port : Nat) : Nat :=
  sumNat ((diePorts port).flatMap fun i => (List.range 5).map fun c => s.portHolds i c - linkFloor c / 5)

/-- The class is below its cap on the die with so many bytes more. -/
def State.underCap (s : State) (port cls n : Nat) : Bool := decide (s.linkHolds port cls + n ≤ linkCap cls)
/-- A buffer of so many bytes is free for a packet of the class on the port. -/
def State.linkFits (s : State) (port cls n : Nat) : Bool :=
  s.underCap port cls n && (decide (s.portHolds port cls + n ≤ linkFloor cls / 5) ||
    decide (s.linkOver port + (s.portHolds port cls + n - max (s.portHolds port cls) (linkFloor cls / 5)) ≤ linkShared))

/-- The oldest packet that a class may take the buffer of, on the send side: its flow, and the packet. Of several flows the spec does not
say which packet is the oldest: the lowest message number, then the lowest offset (DESIGN CHOICE, log 155). -/
def State.sendVictim (s : State) (port cls : Nat) : Option (SFlow × Pkt) :=
  leastBy (fun a b : SFlow × Pkt => decide (a.2.msgId < b.2.msgId) || (a.2.msgId == b.2.msgId && decide (a.2.off < b.2.off)))
    ((s.fab.sflows.filter fun f => (diePorts port).contains f.port && (linkTakes cls).contains f.cls).flatMap fun f =>
      (f.unacked.filter (·.buf)).map fun p => (f, p))

/-- Packets of a message not whole that have not been acknowledged: how many, and their bytes. -/
def State.rxUnacked (s : State) (r : RMsg) : Nat × Nat :=
  let owed := ((s.fab.rflows.find? fun f => f.src == r.src && f.cls == r.cls && f.idx == r.idx).map (·.owed)).getD 0
  let k := min owed r.sizes.length
  (k, sumNat (r.sizes.drop (r.sizes.length - k)))
/-- A message not whole whose packets a class may have discarded. -/
def State.recvVictim (s : State) (port cls : Nat) : Option RMsg :=
  s.fab.rmsgs.find? fun r => (diePorts port).contains r.port && (linkTakes cls).contains r.cls && decide (0 < (s.rxUnacked r).1)

/-- Take the buffer of one packet: it is queued again, or it is discarded with those after it, and the sender's retransmission brings them
again. The send side comes first (DESIGN CHOICE, log 155). -/
def takeBuffer (port cls : Nat) (s : State) : Option State :=
  match s.sendVictim port cls with
  | some (f, p) => some <| modFlow (· == f) (fun f => { f with unacked := mapIf (fun q => q == p) (fun q => { q with buf := false, sent := false, again := q.again || q.sent }) f.unacked }) s
  | none => match s.recvVictim port cls with
    | some r =>
      let (k, n) := s.rxUnacked r
      some { s with fab := { s.fab with
        rmsgs := mapIf (· == r) (fun r => { r with got := r.got.take (r.got.length - n), sizes := r.sizes.take (r.sizes.length - k) }) s.fab.rmsgs
        rflows := mapIf (fun f => f.src == r.src && f.cls == r.cls && f.idx == r.idx)
          (fun f => { f with expect := (f.expect + 2 ^ 32 - k) % 2 ^ 32, owed := f.owed - k }) s.fab.rflows } }
    | none => none

/-- Find a buffer for a packet: a free one, or where the shared rest is used up one of the classes that the class may take from. A packet
has at most 8,192 bytes, and a buffer taken at least one. -/
def findBuffer : Nat → Nat → Nat → Nat → State → Bool × State
  | 0, port, cls, n, s => (s.linkFits port cls n, s)
  | k + 1, port, cls, n, s =>
    if s.linkFits port cls n then (true, s)
    else if s.underCap port cls n then
      match takeBuffer port cls s with
      | some s => findBuffer k port cls n s
      | none => (false, s)
    else (false, s)

/-- The flow is the sending flow of that destination, class and index. -/
def SFlow.is (dst cls idx : Nat) (f : SFlow) : Bool := f.dst == dst && f.cls == cls && f.idx == idx
/-- Packets of a flow that are queued. -/
def SFlow.queued (f : SFlow) : List Pkt := f.unacked.filter fun p => !p.sent
/-- Queue again the packets of a flow that hold buffers (R334). -/
def SFlow.requeue (f : SFlow) : SFlow :=
  { f with unacked := f.unacked.map fun p => if p.buf then { p with sent := false, again := p.again || p.sent } else p }

/-- Send queued packets of a flow, in their order, as far as buffers are found and its port sends. -/
def sendWaiting (f : SFlow) : List Pkt → State → State
  | [], s => s
  | p :: ps, s =>
    if s.jfpStops f.port then s
    else
      match if p.buf then (true, s) else findBuffer 8192 f.port f.cls p.data.length s with
      | (true, s) => sendWaiting f ps (putPkt f p (modFlow (SFlow.is f.dst f.cls f.idx)
          (fun g => { g with unacked := mapIf (fun q => q.psn == p.psn) (fun q => { q with buf := true, sent := true }) g.unacked }) s))
      | (false, s) => s

/-- Send a message's bytes at once on its flow (R332, R334). -/
def transmit (dst cls op pv msgId : Nat) (body : List Byte) (s : State) : State :=
  if s.jfpUp then
    let idx := flowIdx s dst cls msgId
    let s := if s.fab.sflows.any (SFlow.is dst cls idx) then s
      else { s with fab := { s.fab with sflows := s.fab.sflows ++ [SFlow.start dst cls idx (portFrom s idx)] } }
    match s.fab.sflows.find? (SFlow.is dst cls idx) with
    | none => s
    | some f =>
      let ps := cutMsg (segSize s.fab.jfpEff) op pv msgId s.comp.map.epoch f.next body
      let s := modFlow (SFlow.is dst cls idx)
        (fun g => { g with next := (g.next + ps.length) % 2 ^ 32, unacked := g.unacked ++ ps }) s
      if f.queued.isEmpty then sendWaiting f ps s else s
  else s

/-- A new message number (R331). -/
def newMsgId (s : State) : Nat × State :=
  (s.fab.nextMsg, { s with fab := { s.fab with nextMsg := (s.fab.nextMsg + 1) % 2 ^ 32 } })

/-- Does a message always wait for a frame boundary: FANOUT and frame marks (R343)? -/
def waitsBoundary (op : Nat) (body : List Byte) : Bool := op == jFanout || (op == jIngest && field body 0 1 == 3)

/-- Send a message (R343): a small one, a FANOUT or a frame mark waits for the frame boundary; any other leaves at once. FANOUT
records for one owner and pavilion join one message (R336). -/
def sendBytes (dst cls op pv msgId : Nat) (body : List Byte) (s : State) : State :=
  if s.jfpUp then
    if body.length < 65536 || waitsBoundary op body then
      let same (c : Coal) : Bool := c.op == jFanout && op == jFanout && c.dst == dst && c.pv == pv
      if s.fab.coal.any same then
        let g (c : Coal) : Coal := match c.body with | .bytes b => { c with body := .bytes (b ++ body) } | .map _ => c
        { s with fab := { s.fab with coal := mapIf same g s.fab.coal } }
      else { s with fab := { s.fab with coal := s.fab.coal ++ [⟨dst, cls, op, pv, msgId, .bytes body⟩] } }
    else transmit dst cls op pv msgId body s
  else s

/-- Send a message under a new number. -/
def sendMsg (dst cls op pv : Nat) (body : List Byte) (s : State) : State :=
  let (id, s) := newMsgId s
  sendBytes dst cls op pv id body s

/-- Queue a composition message, class 0, for the next boundary (R343, R362). -/
def sendMap (dst : Nat) (m : MapMsg) (s : State) : State :=
  if s.jfpUp then
    let (id, s) := newMsgId s
    { s with fab := { s.fab with coal := s.fab.coal ++ [⟨dst, 0, jMap, 0xF, id, .map m⟩] } }
  else s

/-- A record of a bundle (R343). -/
def bundleRec (c : Coal) (body : List Byte) : List Byte :=
  leBytes 1 c.op ++ leBytes 1 c.pv ++ zeros 2 ++ leBytes 4 body.length ++ leBytes 4 c.msgId ++ zeros 4 ++
    padTo (roundUpTo body.length 8) body

/-- Pack records into bundles of at most 1 MiB (R343). -/
def packBundles (recs : List (List Byte)) : List (List Byte) :=
  recs.foldl (fun acc r =>
    match acc.getLast? with
    | some b => if b.length + r.length ≤ 2 ^ 20 then acc.dropLast ++ [b ++ r] else acc ++ [r]
    | none => [r]) []

/-- The coalescing flush of a frame boundary for one destination and class: bundles, then the large messages (R343). -/
def flushTo (dst cls : Nat) (cs : List Coal) (s : State) : State :=
  let small := cs.filterMap fun c =>
    match c.body with | .bytes b => if b.length < 65536 then some (bundleRec c b) else none | .map _ => none
  let s := cs.foldl (fun s c => match c.body with | .map m => emit (.map dst m) s | .bytes _ => s) s
  let s := (packBundles small).foldl (fun s b =>
    let (id, s) := newMsgId s
    transmit dst cls jBundle 0xF id b s) s
  cs.foldl (fun s c =>
    match c.body with
    | .bytes b => if 65536 ≤ b.length then transmit dst cls c.op c.pv c.msgId b s else s
    | .map _ => s) s

/-- The coalescing flush (R343): class 0 first. -/
def flushCoal (s : State) : State :=
  let cs := s.fab.coal
  let s := { s with fab := { s.fab with coal := [] } }
  let keys := (List.range 5).flatMap fun cls => (dedupKeep ((cs.filter fun c => c.cls == cls).map (·.dst))).map fun d => (d, cls)
  keys.foldl (fun s k => flushTo k.1 k.2 (cs.filter fun c => c.dst == k.1 && c.cls == k.2) s) s

/-- Lanes up of a port. -/
def Port.lanesUp (p : Port) : Nat := (p.lanes.filter id).length

/-- The state that R326 and R349 give a port from its lanes, its mode and its error ratio. -/
def Port.state (p : Port) : Nat :=
  let l (i : Nat) : Bool := p.lanes.getD i false
  let a := l 0 && l 1
  let b := l 2 && l 3
  if bit p.eff 0 = false then 0
  else if bit p.eff 1 then (if a && b then (if p.berDeg || p.wdogDeg then 2 else 1) else if a || b then 2 else 0)
  else if a && b then (if p.berDeg || p.wdogDeg then 2 else 1) else 0

/-- Move the flows of ports that are down to the next port that is up; they resume from their last acknowledged PSN (R332). -/
def moveFlows (s : State) : State :=
  modFlow (fun f => !(s.fab.ports.getD f.port Port.reset).carries) (fun f => { f.requeue with port := portFrom s f.port }) s

/-- Recompute a port's state; a change posts one LINK_STATE event and moves its flows (R326, R332). -/
def settlePort (port : Nat) (s : State) : State :=
  let p := s.fab.ports.getD port Port.reset
  let st := p.state
  if st = p.st then s
  else
    let s := { s with fab := { s.fab with ports := modifyAt s.fab.ports port fun p => { p with st := st } } }
    moveFlows (nodeEvent evLink (leBytes 1 port ++ leBytes 1 st ++ leBytes 1 p.lanesUp) s)

/-- Change a port. -/
def modPort (i : Nat) (g : Port → Port) (s : State) : State := { s with fab := { s.fab with ports := modifyAt s.fab.ports i g } }

end Sys2Proof.Machine
end

