-- ==== Sys2Proof/Machine/CompOps.lean ====
section
/-! DEFINITION. The composition map and the keepers: what an entry does to the map, when a proposal is refused, logging,
commitment and distribution (R354 to R376). -/

namespace Sys2Proof.Machine

/-! ## The map -/

/-- Is the node a member in state MEMBER? -/
def CMap.serving (m : CMap) (n : Nat) : Bool := m.members.any fun x => x.node == n && x.st != 1
/-- The slices of a pavilion on a node. -/
def CMap.slice? (m : CMap) (n p : Nat) : Option CSlices := m.slices.find? fun x => x.node == n && x.pv == p
/-- The nodes that serve a pavilion (R358). -/
def CMap.servers (m : CMap) (p : Nat) : List Nat := (m.slices.filter fun x => x.pv == p).map (·.node)
/-- A plot's record. -/
def CMap.plot? (m : CMap) (p plot : Nat) : Option CPlot := m.plots.find? fun x => x.pv == p && x.plot == plot
/-- The nodes that hold a plot whole (R371). -/
def CPlot.holders (x : CPlot) : List Nat := x.owner :: x.reps
/-- The nodes that take every update of a plot: its holders and the receiver of a move (R368). -/
def CPlot.takers (x : CPlot) : List Nat := x.holders ++ x.recv.toList
/-- The node is a holder of the plot that answers for it under the map in force. -/
def CPlot.serves (x : CPlot) (n : Nat) : Bool := (x.st == .served || x.st == .moving) && x.holders.contains n

/-- Quadrants in which a pavilion has an engine slice and a memory slice (R356). -/
def CSlices.quads (c : CSlices) : List Nat := (List.range 4).filter fun q => c.engQ q != 0 && c.memQ q != 0

/-- What a node's leaving does to a plot (R371, R372, R375): a replica holder becomes owner, or the plot goes dark or is lost. -/
def CPlot.drop (n : Nat) (gone : Bool) (x : CPlot) : CPlot :=
  let reps := x.reps.filter (· != n)
  if x.owner = n then
    match reps.min? with
    | some r => { x with owner := r, reps := if gone then reps.filter (· != r) else reps.filter (· != r) ++ [n] }
    | none => { x with reps := reps, st := if gone || x.st == .lost then .lost else .dark }
  else if gone then { x with reps := reps } else x

/-- Add or replace a pavilion's slices on a node; a record of no slices is removed. -/
def CMap.setSlices (m : CMap) (c : CSlices) : CMap :=
  let rest := m.slices.filter fun x => !(x.node == c.node && x.pv == c.pv)
  { m with slices := if c.eng = 0 ∧ c.ta = 0 ∧ c.mem = 0 ∧ c.link = 0 then rest else rest ++ [c] }

/-- Change a plot's record. -/
def CMap.modPlot (m : CMap) (p plot : Nat) (g : CPlot → CPlot) : CMap :=
  { m with plots := mapIf (fun x => x.pv == p && x.plot == plot) g m.plots }

/-- The first owners of plots that are not served (R421). -/
def CMap.assign (m : CMap) (p first n owner : Nat) (reps : List Nat) : CMap :=
  (List.range n).foldl (fun m i =>
    let k := first + i
    match m.plot? p k with
    | some x => if x.st = .lost || x.st = .dark then m.modPlot p k fun _ => ⟨p, k, owner, reps, .served, none, false, 0, 0, []⟩ else m
    | none => { m with plots := m.plots ++ [⟨p, k, owner, reps, .served, none, false, 0, 0, []⟩] }) m

/-- What an entry changes in the map when it takes effect at frame `act` (R359): the map epoch rises by exactly 1. -/
def CMap.apply (m : CMap) (e : MapEntry) (act : Frame) : CMap :=
  let m := { m with epoch := m.epoch + 1 }
  match e with
  | .memberAdd n ips => { m with members := m.members ++ [⟨n, ips, 0, 0, 0, 0, act⟩] }
  | .memberRemove n =>
    { m with members := m.members.filter (·.node != n), slices := m.slices.filter (·.node != n),
             plots := m.plots.map (CPlot.drop n true) }
  | .suspend n f =>
    { m with members := mapIf (·.node == n) (fun x => { x with st := 1, settled := f, susAt := act }) m.members,
             plots := m.plots.map (CPlot.drop n false) }
  | .resume n f => { m with members := mapIf (·.node == n) (fun x => { x with st := 0, settled := f }) m.members }
  | .draining n => { m with members := mapIf (·.node == n) (fun x => { x with st := 2 }) m.members }
  | .keepers ks => { m with keepers := ks }
  | .slices n p eng ta mem link => m.setSlices ⟨n, p, eng, ta, mem, link⟩
  | .plots p first n owner reps => m.assign p first n owner reps
  | .moveBegin p k _ r rep =>
    m.modPlot p k fun x => { x with st := .moving, recv := some r, asRep := rep, tokEpoch := m.epoch, began := act }
  | .moveEnd p k =>
    m.modPlot p k fun x =>
      match x.recv with
      | some r =>
        if x.asRep then { x with st := .served, reps := x.reps ++ [r], recv := none }
        else { x with st := .served, owner := r, recv := none, left := (x.owner, m.epoch, act) :: x.left }
      | none => x
  | .moveAbort p k => m.modPlot p k fun x => { x with st := if x.st = .moving then .served else x.st, recv := none }
  | .lost p k => m.modPlot p k fun x => { x with st := .lost, recv := none }
  | .role n r => { m with members := mapIf (·.node == n) (fun x => { x with role := r, roleAt := act }) m.members }
  | .policy w => { m with policy := w }
  | .cutover p ep c _ => { m with cuts := m.cuts ++ [(p, ep, c)] }
  | .cutAbort p ep => { m with cuts := m.cuts.filter fun x => !(x.1 == p && x.2.1 == ep) }

/-! ## Refusals -/

/-- Engines or arrays of the slices that this node has withdrawn (R354): the composition of such a slice is refused. -/
def State.withdrawnIn (s : State) (eng ta : Nat) : Bool :=
  (List.range 24).any fun d =>
    let die := s.dies.getD d Die.reset
    (List.range 6).any (fun j => maskHas eng (6 * d + j) && (List.range 8).any fun i => ((die.engMap.getD (8 * j + i) none).isNone)) ||
    (List.range 4).any (fun j => maskHas ta (4 * d + j) && (die.taMap.getD j none).isNone)

/-- Host-area frames of the lowest memory slice of a mask (R356): 16 GiB less 192 MiB per step of GH, less what the Grounds reserves. -/
def State.firstRoom (s : State) (mem : Nat) : Nat :=
  match (List.range 64).find? (maskHas mem) with
  | some i => 262144 - 3072 * (s.scan.st.getD (i / 4) Stack.reset).gh.getD (i % 4) 0 - Config.t1Reserve
  | none => 0

/-- The keepers' refusals of R355, R356, R368, R376, R380 and R421. -/
def State.refuses (s : State) (e : MapEntry) : Bool :=
  let m := s.comp.map
  match e with
  | .memberAdd n _ => m.members.any (·.node == n) || decide (65534 < n)
  | .memberRemove n => !m.members.any (·.node == n)
  | .suspend n _ => !(m.members.any fun x => x.node == n && x.st != 1)
  | .resume n _ => !(m.members.any fun x => x.node == n && x.st == 1)
  | .draining n => !(m.members.any fun x => x.node == n && x.st == 0)
  | .keepers ks => !((ks.length == 3 || ks.length == 5) && ks.all m.serving && (dedupKeep ks).length == ks.length) ||
    (ks.contains s.node && !bit s.comp.mapEff 0)
  | .slices n p eng ta mem link =>
    !m.members.any (·.node == n) ||
    m.slices.any (fun x => x.node == n && x.pv != p &&
      (x.eng &&& eng != 0 || x.ta &&& ta != 0 || x.mem &&& mem != 0 || x.link &&& link != 0)) ||
    (List.range 96).any (fun t => maskHas ta t && !maskHas eng (6 * (t / 4) + t % 4)) ||
    (n == s.node && s.withdrawnIn eng ta) ||
    (n == s.node && mem != 0 && (match m.slice? n p with | some c => c.mem == 0 | none => true) && decide (s.firstRoom mem < 16384)) ||
    (let c : CSlices := ⟨n, p, eng, ta, mem, link⟩
     let mine := m.plots.filter fun x => x.pv == p && x.takers.contains n
     if n = s.node then mine.any fun x => match s.comp.quads.find? (fun q => q.1 == p && q.2.1 == x.plot) with
       | some q => !c.quads.contains q.2.2
       | none => c.quads.isEmpty
     else !mine.isEmpty && c.quads.isEmpty)
  | .plots p first n owner reps =>
    !((owner :: reps).all fun x => match m.slice? x p with | some c => !c.quads.isEmpty | none => false) ||
    n == 0 || decide (2 ^ 20 < first + n) ||
    (List.range n).all fun i => match m.plot? p (first + i) with | some x => x.st == .served || x.st == .moving | none => false
  | .moveBegin p k o r _ =>
    match m.plot? p k with
    | none => true
    | some x =>
      x.st != .served || x.owner != o || x.holders.contains r ||
      decide (fld s.comp.moveEff 15 8 ≤ (m.plots.filter fun y => y.owner == o && y.st == .moving).length) ||
      (match m.slice? r p with | some c => c.quads.isEmpty | none => true) ||
      ((o == s.node || r == s.node) && (s.corpus p).resketch.isSome)
  | .moveEnd p k => !(m.plots.any fun x => x.pv == p && x.plot == k && x.recv.isSome)
  | .moveAbort p k => !(m.plots.any fun x => x.pv == p && x.plot == k && x.recv.isSome)
  | .lost p k => !(m.plots.any fun x => x.pv == p && x.plot == k)
  | .role n r => !m.members.any (·.node == n) || decide (2 < r)
  | .policy w => decide (100 < fld w 6 0 + fld w 14 8 + fld w 22 16) || fld w 30 24 == 0
  | .cutover p _ _ _ => m.cuts.any fun x => x.1 == p && decide (s.hfn < x.2.2)
  | .cutAbort _ _ => false

/-! ## The keepers (R360) -/

/-- Change the keeper's part. -/
def modKeeper (g : Keeper → Keeper) (s : State) : State := { s with comp := { s.comp with keeper := g s.comp.keeper } }
/-- The other keepers. -/
def State.otherKeepers (s : State) : List Nat := s.comp.map.keepers.filter (· != s.node)
/-- A majority of the keepers. -/
def State.majority (s : State) : Nat := s.comp.map.keepers.length / 2 + 1
/-- This node is a keeper in the map. -/
def State.isKeeper (s : State) : Bool := s.comp.map.keepers.contains s.node
/-- Index and term of a keeper's last entry. -/
def Keeper.lastIdx (k : Keeper) : Nat := (k.log.getLast?.map (·.e.idx)).getD 0
def Keeper.lastTerm (k : Keeper) : Nat := (k.log.getLast?.map (·.e.term)).getD 0

/-- Send a composition message to each node of a list. -/
def sendAll (ns : List Nat) (m : MapMsg) (s : State) : State := ns.foldl (fun s n => sendMap n m s) s

/-- The outcome of a proposal of this node (R362, R380, R420): 0 committed, 1 refused, 2 abandoned. -/
def propResult (id result epoch : Nat) (s : State) : State :=
  match s.comp.props.find? (·.id == id) with
  | none => s
  | some p =>
    let s := { s with comp := { s.comp with props := s.comp.props.filter (·.id != id) } }
    let s := match p.ent with
      | .policy _ => if result = 0 then s else { s with comp := { s.comp with cfgReject := true } }
      | _ => s
    let s := match p.chan with
      | some c =>
        let addr := wordArg (s.chan c).word * 64
        let s := blockOut c addr (if result = 0 then epoch else 0) s
        chanAck c (if result = 0 then rcOk else if result = 1 then rcRefused else rcTimeout) s
      | none => s
    match p.work with
    | some w =>
      let ep := match p.ent with | .cutover _ e _ _ => e | _ => 0
      completeId w (if result = 0 then .ok else if result = 1 then .badField else .timeout) 0
        (spec3 0 ep (if result = 0 then epoch else 0)) s
    | none => s

/-- Queue committed entries for their activation frames, numbered by map epoch (R359). -/
def queueEntries (first : Nat) (es : List (MapEntry × Frame)) (s : State) : State :=
  let new := (es.zipIdx.map fun (e, i) => (first + i, e.1, e.2)).filter fun x =>
    decide (s.comp.map.epoch < x.1) && !s.comp.pend.any (·.1 == x.1)
  { s with comp := { s.comp with pend := sortBy (fun a b => decide (a.1 < b.1)) (s.comp.pend ++ new) } }

/-- The map epoch that the next committed entry will carry. -/
def State.nextEpoch (s : State) : Nat := ((s.comp.pend.getLast?).map (·.1)).getD s.comp.map.epoch + 1

/-- Tell a proposer what became of its proposal (R362). -/
def answerProp (src id result epoch : Nat) (s : State) : State :=
  if src = s.node then propResult id result epoch s else sendMap src (.proposeResult id result epoch) s

/-- Commit one entry of the leading keeper's log (R360): distribute it, queue it here, answer its proposer. A node that is added gets
the whole log (R376). -/
def commitOne (x : KEnt) (s : State) : State :=
  let ep := s.nextEpoch
  let es := [(x.e.ent, x.e.act)]
  let s := modKeeper (fun k => { k with
    log := mapIf (fun y => y.e.idx == x.e.idx) (fun y => { y with committed := true }) k.log, commit := max k.commit x.e.idx }) s
  let s := queueEntries ep es (sendAll ((s.comp.map.members.map (·.node)).filter (· != s.node)) (.entries ep es) s)
  let s := match x.e.ent with
    | .memberAdd n _ => sendMap n (.entries 1 (s.comp.applied ++ s.comp.pend.map (·.2))) s
    | _ => s
  answerProp x.e.src x.e.prop 0 ep s

/-- The newest entry of the leading keeper's own term that a majority has acknowledged (R360). -/
def State.commitPoint (s : State) : Nat :=
  let k := s.comp.keeper
  maxNat ((k.log.filter fun x => x.e.term == k.term && decide (s.majority ≤ x.acks.length)).map (·.e.idx))

/-- Commit every entry at or below the commit point that is neither committed nor abandoned, none after frame A − 10 (R360). -/
def tryCommit (s : State) : State :=
  if s.comp.keeper.role = 2 then
    let c := s.commitPoint
    (s.comp.keeper.log.filter fun x => decide (x.e.idx ≤ c) && !x.committed && !x.abandoned && decide (s.hfn + 10 ≤ x.e.act)).foldl (fun s x => commitOne x s) s
  else s

/-- Log an entry at the leading keeper, with A = the current frame + MAP_LEAD (R360), and send it to the other keepers. -/
def leaderLog (src id : Nat) (e : MapEntry) (s : State) : State :=
  let k := s.comp.keeper
  let le : LogEnt := ⟨k.lastIdx + 1, k.term, e, s.hfn + fld s.comp.mapEff 15 8, src, id⟩
  let s := sendAll s.otherKeepers (.append k.term k.lastIdx k.lastTerm [le]) s
  tryCommit (modKeeper (fun k => { k with log := k.log ++ [⟨le, [s.node], false, false⟩] }) s)

/-- Is a node ready for a cutover (R191): the epoch staged, its digest equal, RESKETCH done? -/
def State.cutOk (s : State) (p ep : Nat) (digest : List Byte) : Bool :=
  let c := s.corpus p
  (match c.stg with | some b => b.epoch == ep && b.digest == digest | none => false) && c.resketchDone

/-- A cutover proposal at the leading keeper (R191 steps 2 and 3): it waits for the READY answers of every node serving the
pavilion. -/
def leaderCut (src id p ep : Nat) (c : Frame) (dg : List Byte) (s : State) : State :=
  if s.comp.keeper.cutWait.any (·.pv == p) || s.refuses (.cutover p ep c dg) then answerProp src id 1 0 s
  else
    let others := (s.comp.map.servers p).filter (· != s.node)
    if (s.comp.map.servers p).contains s.node && !s.cutOk p ep dg then answerProp src id 1 0 s
    else if others.isEmpty then leaderLog src id (.cutover p ep c dg) s
    else
      let s := modKeeper (fun k => { k with cutWait := k.cutWait ++ [⟨src, id, p, ep, c, dg, others⟩] }) s
      sendAll others (.cutQuery p ep c dg) s

/-- A new keeper is sent the whole log before the entry that admits it takes effect (R361). -/
def sendLog (ks : List Nat) (s : State) : State :=
  sendAll ks (.append s.comp.keeper.term 0 0 (s.comp.keeper.log.map (·.e))) s

/-- A proposal reaches the leading keeper (R360, R368): refused, or logged. -/
def leaderTake (src id : Nat) (e : MapEntry) (s : State) : State :=
  match e with
  | .cutover p ep c dg => leaderCut src id p ep c dg s
  | .keepers ks =>
    if s.refuses e then answerProp src id 1 0 s
    else sendLog (ks.filter fun k => !s.comp.map.keepers.contains k) (leaderLog src id e s)
  | _ => if s.refuses e then answerProp src id 1 0 s else leaderLog src id e s

/-- An entry that the leading keeper logs of its own accord: no proposer waits for it. -/
def keeperLog (e : MapEntry) (s : State) : State :=
  let waits := s.comp.keeper.log.any (fun x => x.e.ent == e && !x.abandoned && decide (s.hfn ≤ x.e.act)) || s.comp.pend.any (·.2.1 == e)
  if s.comp.keeper.role = 2 && !waits && !s.refuses e then leaderLog s.node (2 ^ 64) e s else s

/-- Propose an entry (R362): to this node itself when it leads, else to the leading keeper it knows. -/
def propose (e : MapEntry) (work chan : Option Nat) (s : State) : State :=
  let id := s.comp.nextProp
  let s := { s with comp := { s.comp with nextProp := id + 1, props := s.comp.props ++ [⟨id, e, work, chan, s.hfn⟩] } }
  if s.comp.keeper.role = 2 then leaderTake s.node id e s
  else
    match s.comp.keeper.leader with
    | some l => sendMap l (.propose id e) s
    | none => match s.otherKeepers with
      | l :: _ => sendMap l (.propose id e) s
      | [] => s

/-- The settled frame of a pavilion (R175): the lowest of its committed frame and the settled marks of its ingest peers. -/
def Corpus.settledF (c : Corpus) : Frame := c.peers.foldl (fun m p => min m p.settled) c.committed

/-- This node's settled frame over the pavilions it serves (R372; log 31). -/
def State.nodeSettled (s : State) : Frame :=
  (((List.range 12).filter fun p => (s.slices p).isSome).map fun p => (s.corpus p).settledF).min?.getD (s.hfn - 1)

/-- A node whose alignment leaves LOCKED and HOLDOVER proposes its own suspension (R372). -/
def proposeSuspend (s : State) : State :=
  if s.comp.map.members.any (fun m => m.node == s.node && m.st != 1) then
    propose (.suspend s.node s.nodeSettled) none none s
  else s

end Sys2Proof.Machine
end

