-- ==== Sys2Proof/Machine/Clock.lean ====
section
/-! DEFINITION. The frame timer: samples, alignment states, the timer's part of a frame boundary (R34 to R53, R503). -/

namespace Sys2Proof.Machine

/-- Code of an alignment state (R50). -/
def Align.code : Align → Nat
  | .free => 0 | .acquire => 1 | .locked => 2 | .holdover => 3 | .unaligned => 4

/-- TICK_OFFSET (R50): saturating two's complement, 0 in FREE. -/
def Clock.tickOffset (c : Clock) : W32 :=
  if c.align = .free then 0#32
  else BitVec.ofNat 32 (twos 32 (max (-(2 ^ 31 : Int)) (min c.offset (2 ^ 31 - 1))))

/-- Fields of FRAME_CFG in force. -/
def Clock.timeSrc (c : Clock) : Nat := fld c.eff 1 0
def Clock.ppsOutDir (c : Clock) : Bool := bit c.eff 2
def Clock.holdLim (c : Clock) : Nat := fld c.eff 7 4
def Clock.updCutoff (c : Clock) : Nat := fld c.eff 11 8
/-- PTP nanoseconds of the origin (R36). -/
def Clock.originNs (c : Clock) : Nat := (c.originHi.toNat * 2 ^ 32 + c.originLo.toNat) * 10 ^ 9

/-- The steered states, in which the node is aligned to the hall. -/
def Align.aligned : Align → Bool
  | .locked => true | .holdover => true | _ => false

/-- Change the alignment state (R38): one LAG event; LOCKED locks the origin (R53); leaving LOCKED and HOLDOVER proposes the
node's suspension (R372). R50 says that a change of TIME_SRC to 0 closes the node to the hall and not how: this suspension is all that
the model does for it (DESIGN CHOICE, log 133). -/
def setAlign (a : Align) (s : State) : State :=
  let old := s.clk.align
  if old = a then s
  else
    let c := { s.clk with align := a, goodFrames := 0, holdFrames := 0, samplesBack := false,
                          originLock := s.clk.originLock || a == .locked,
                          secondFixed := s.clk.secondFixed && (a != .free && a != .unaligned) }
    let s := { s with clk := c }
    let s := nodeEvent evLag (leBytes 1 0 ++ leBytes 1 old.code ++ leBytes 1 a.code ++ zeros 1 ++ leBytes 4 c.tickOffset.toNat) s
    if old.aligned && !a.aligned then proposeSuspend s else s

/-- A rejected sample (R40). -/
def Clock.reject (ptp : Bool) (c : Clock) : Clock :=
  { c with ptpRej := if ptp then (c.ptpRej + 1) % 256 else c.ptpRej,
           ppsRej := if ptp then c.ppsRej else (c.ppsRej + 1) % 256, rejRun := c.rejRun + 1 }

/-- An accepted sample (R38, R40): in HOLDOVER the count towards LOCKED starts at the first one after samples return. -/
def Clock.accept (ptp : Bool) (offset : Int) (c : Clock) : Clock :=
  { c with ptpAge := if ptp then some 0 else c.ptpAge, ppsAge := if ptp then c.ppsAge else some 0, sampleAge := 0, rejRun := 0,
           offset := offset, secondFixed := c.secondFixed || ptp,
           goodFrames := if c.align == .holdover && !c.samplesBack then 0 else c.goodFrames,
           samplesBack := c.samplesBack || c.align == .holdover }

/-- The first frame boundary of R36 at or after an instant. -/
def Clock.jumpTo (c : Clock) (endNs : Nat) : Frame := (endNs - c.originNs + 19999) / 20000

/-- A PTP offset sample passed on by the Grounds (R38, R40, R503). -/
def Clock.ptp (p : PtpIn) (c : Clock) : Clock :=
  if c.timeSrc = 0 then c
  else if p.t < c.originNs then c.reject true
  else if c.align.aligned && decide (2000 < p.dev.natAbs) then c.reject true
  else
    let c := c.accept true p.offset
    if (c.align = .free ∨ c.align = .unaligned) ∧ c.jump = none then
      { c with alignNext := some .acquire, jump := some (c.jumpTo p.endNs) }
    else c

/-- Is an edge on PPS_IO recognised (R480)? -/
def ppsSeen (p : PpsIn) : Bool :=
  decide (50 ≤ p.highNs) && decide (50 ≤ p.lowNs) &&
    ((decide (100 ≤ p.highNs) && decide (100 ≤ p.lowNs)) || p.recognised)

/-- An edge on PPS_IO (R40): a sample in FREE too, once TIME_SRC is 2 and PPS_DIR 0, though it starts no ACQUIRE. -/
def Clock.pps (p : PpsIn) (c : Clock) : Clock :=
  if c.timeSrc ≠ 2 || c.ppsOutDir || !ppsSeen p then c
  else if (c.align = .acquire ∨ c.align = .unaligned) ∧ c.secondFixed = false then c
  else if 2000 < p.dev.natAbs then c.reject false
  else c.accept false p.offset

/-- Does the FRAME_CFG value lie in its ranges (R51)? -/
def frameCfgOk (v : W32) : Bool := fld v 1 0 != 3 && fld v 7 4 != 0 && inRange 4 (fld v 11 8) 13

/-- A write to FRAME_CFG (R51). -/
def Clock.writeCfg (v : W32) (c : Clock) : Clock :=
  if frameCfgOk v then { c with cfg := v &&& 0x0000_0FFF#32 } else { c with cfgReject := true }

/-- One more frame on an age. -/
def ageUp (a : Option Nat) : Option Nat := a.map (· + 1)

/-- Slot 15 of the new frame (R34, R35): in ACQUIRE one step against an offset above 10 ns; in LOCKED and HOLDOVER the servo's
choice, at most once in 4 frames; none in FREE and UNALIGNED. -/
def Clock.steer (choice : Int) (c : Clock) : Clock :=
  let step : Int :=
    if c.align = .acquire then (if 10 < c.offset then -1 else if c.offset < -10 then 1 else 0)
    else if c.align.aligned && decide (4 ≤ c.sinceStep) then (if 0 < choice then 1 else if choice < 0 then -1 else 0)
    else 0
  { c with step15 := step, sinceStep := if step ≠ 0 then 1 else min 4 (c.sinceStep + 1) }

/-- The counters of the frame that begins (R38, R40, R503): `off` is the servo's estimate at its start; after a jump it is what is left
of the sample's error. All of FRAME_CFG is latched here, HOLDOVER_LIM and PPS_OUT_MODE as well, for which R51 names no instant
(DESIGN CHOICE, log 134). -/
def Clock.newFrame (off : Int) (c : Clock) : Clock :=
  let c' := { c with hfn := c.jump.getD (c.hfn + 1), jump := none, ptpAge := ageUp c.ptpAge, ppsAge := ageUp c.ppsAge,
                     sampleAge := c.sampleAge + 1, eff := c.cfg, ppsOut := bit c.cfg 2 }
  if c.align = .free ∧ c.jump = none then c' else { c' with offset := off }

/-- The count of frames within 250 ns, and of frames in HOLDOVER. -/
def Clock.countGood (c : Clock) : Clock :=
  let counting := c.align = .acquire || (c.align = .holdover && c.samplesBack)
  { c with goodFrames := if counting && decide (c.offset.natAbs ≤ 250) then c.goodFrames + 1 else 0,
           holdFrames := if c.align = .holdover then c.holdFrames + 1 else 0 }

/-- The HFN of the new frame (R49 step 1): no slot of it is open yet. -/
def tickClock (off : Int) (s : State) : State := { s with clk := { s.clk.newFrame off with slot := none } }

/-- The offset is past the limit of the alignment state (R38). -/
def Clock.far (c : Clock) : Bool :=
  (c.align.aligned && decide (750 < c.offset.natAbs)) || (c.align != .free && decide (100000 < c.offset.natAbs))

/-- A change of alignment state is due (R38): to LOCKED after 64 frames within 250 ns, to HOLDOVER after 100,000 frames without an
accepted sample or 64 rejections in a row, to UNALIGNED once HOLDOVER has lasted longer than HOLDOVER_LIM, to ACQUIRE by a jump. -/
def Clock.due (c : Clock) : Align → Bool
  | .free => false
  | .acquire => true
  | .locked => (c.align == .acquire || (c.align == .holdover && c.samplesBack)) && decide (64 ≤ c.goodFrames)
  | .holdover => c.align == .locked && (decide (100000 ≤ c.sampleAge) || decide (64 ≤ c.rejRun))
  | .unaligned => c.align == .holdover && decide (c.holdLim * 50000 < c.holdFrames)

/-- The alignment state and steering (R49 step 3): a change that waits for this boundary is made if it is still due. -/
def alignFrame (choice : Int) (s : State) : State :=
  let want := s.clk.alignNext
  let s := { s with clk := { s.clk with alignNext := none } }
  let s := if s.clk.timeSrc = 0 then setAlign .free { s with clk := { s.clk with offset := 0 } }
    else if s.clk.far then setAlign .unaligned s
    else match want with
      | some a => if s.clk.due a then setAlign a s else s
      | none => s
  { s with clk := s.clk.countGood.steer choice }

/-- A change of alignment state that is due waits for the next frame boundary (R43, R49 step 3). -/
def askAlign (a : Align) (s : State) : State :=
  when_ (s.live && s.clk.due a && s.clk.alignNext.isNone) (fun s => { s with clk := { s.clk with alignNext := some a } }) s

/-- Cycles of the slot in progress: arithmetic clock, and bank-filter clock (R26, R34, R35). -/
def Clock.arithCycles (c : Clock) : Nat := ((750 : Int) + if c.slot = some 15 then 12 * c.step15 else 0).toNat
def Clock.bankCycles (c : Clock) : Nat :=
  ((if c.slot.getD 0 % 2 = 0 then 813 else 812 : Int) + if c.slot = some 15 then 13 * c.step15 else 0).toNat

/-- The level of PPS_IO in output mode (R42). -/
def Clock.ppsLevel (c : Clock) : Bool :=
  c.ppsOut && (match c.slot with | some k => decide (k < 4) | none => false) &&
  (bit c.eff 3 || c.hfn % 50000 == 0) && c.align != .acquire && c.align != .unaligned

/-- R40. -/
def execPtpSample (p : PtpIn) (s : State) : Host.Outcome State Fault Refusal :=
  .next (when_ s.live (fun s => { s with clk := s.clk.ptp p }) s)
/-- R40. -/
def execPpsEdge (p : PpsIn) (s : State) : Host.Outcome State Fault Refusal :=
  .next (when_ s.live (fun s => { s with clk := s.clk.pps p }) s)
/-- R38: 64 consecutive frames within 250 ns. -/
def execAlignLocked (s : State) : Host.Outcome State Fault Refusal := .next (askAlign .locked s)
/-- R38: no accepted sample for 100,000 frames, or 64 consecutive rejections. -/
def execAlignHoldover (s : State) : Host.Outcome State Fault Refusal := .next (askAlign .holdover s)
/-- R38: HOLDOVER has lasted longer than HOLDOVER_LIM. -/
def execHoldoverLimit (s : State) : Host.Outcome State Fault Refusal := .next (askAlign .unaligned s)
/-- R51. -/
def execFrameCfgWrite (v : W32) (s : State) : Host.Outcome State Fault Refusal :=
  .next (when_ (s.bar0Up0) (fun s => { s with clk := s.clk.writeCfg v }) s)

end Sys2Proof.Machine
end

