-- ==== Sys2Proof/Machine/Sha3.lean ====
section
/-! DEFINITION. SHA3-512 (R76, R367, R403, R409, R410). PRESUMED: the published standard FIPS 202, which the spec names and does not repeat (log 12). -/

namespace Sys2Proof.Machine

/-- A 64-bit lane rotated left. -/
def rotl64 (v k : Nat) : Nat := ((v <<< k) ||| (v >>> (64 - k))) % 2 ^ 64

/-- The rotation of lane (x, y) at place x + 5y. -/
def keccakRot : List Nat :=
  [0, 1, 62, 28, 27, 36, 44, 6, 55, 20, 3, 10, 43, 25, 39, 41, 45, 15, 21, 8, 18, 2, 61, 56, 14]

/-- The round constants. -/
def keccakRc : List Nat :=
  [0x0000000000000001, 0x0000000000008082, 0x800000000000808A, 0x8000000080008000,
   0x000000000000808B, 0x0000000080000001, 0x8000000080008081, 0x8000000000008009] ++
  [0x000000000000008A, 0x0000000000000088, 0x0000000080008009, 0x000000008000000A,
   0x000000008000808B, 0x800000000000008B, 0x8000000000008089, 0x8000000000008003] ++
  [0x8000000000008002, 0x8000000000000080, 0x000000000000800A, 0x800000008000000A,
   0x8000000080008081, 0x8000000000008080, 0x0000000080000001, 0x8000000080008008]

/-- Lane (x, y) of a state of 25 lanes. -/
def lane (a : List Nat) (x y : Nat) : Nat := a.getD (x % 5 + 5 * (y % 5)) 0

/-- The 25 places in order. -/
def lanePlaces : List (Nat × Nat) := (List.range 25).map fun i => (i % 5, i / 5)

/-- One round. -/
def keccakRound (a : List Nat) (rc : Nat) : List Nat :=
  let c := (List.range 5).map fun x => lane a x 0 ^^^ lane a x 1 ^^^ lane a x 2 ^^^ lane a x 3 ^^^ lane a x 4
  let d := (List.range 5).map fun x => c.getD ((x + 4) % 5) 0 ^^^ rotl64 (c.getD ((x + 1) % 5) 0) 1
  let a1 := lanePlaces.map fun (x, y) => lane a x y ^^^ d.getD x 0
  -- B[y, 2x + 3y] = rot A[x, y]: the source of place (u, v) is x = u + 3v, y = u
  let b := lanePlaces.map fun (u, v) =>
    let x := (u + 3 * v) % 5
    rotl64 (lane a1 x u) (keccakRot.getD (x + 5 * u) 0)
  let a2 := lanePlaces.map fun (x, y) => lane b x y ^^^ ((2 ^ 64 - 1 - lane b (x + 1) y) &&& lane b (x + 2) y)
  match a2 with
  | [] => []
  | h :: t => (h ^^^ rc) :: t

/-- The permutation of 24 rounds. -/
def keccakF (a : List Nat) : List Nat := keccakRc.foldl keccakRound a

/-- Absorb one block of 72 bytes. -/
def absorb (a : List Nat) (blk : List Byte) : List Nat :=
  let ws := (chunks 8 blk).map leNat
  keccakF (a.zipIdx.map fun (v, i) => v ^^^ ws.getD i 0)

/-- The padding of SHA3 at a rate of 72 bytes. -/
def sha3Pad (n : Nat) : List Byte :=
  let k := 72 - n % 72
  if k = 1 then [0x86#8] else 0x06#8 :: (zeros (k - 2) ++ [0x80#8])

/-- SHA3-512 of a message: 64 bytes. -/
def sha3_512 (m : List Byte) : List Byte :=
  let st := (chunks 72 (m ++ sha3Pad m.length)).foldl absorb (List.replicate 25 0)
  (st.take 8).flatMap (leBytes 8)

end Sys2Proof.Machine
end

