-- ==== Sys2Proof/Machine/Lodge.lean ====
section
/-! DEFINITION. The Lodge: images, measurement log, attestation, life cycle, keys; the mailbox channels (R399 to R425). -/

namespace Sys2Proof.Machine

/-- Change the Lodge's state. -/
def modLodge (g : Lodge → Lodge) (s : State) : State := { s with lodge := g s.lodge }

/-- The Lodge runs: its image is loaded (R405). -/
def State.lodgeUp (s : State) : Bool :=
  match s.phase with
  | .boot k => decide (2 ≤ k)
  | .failed k => decide (2 ≤ k)
  | .lodgeOnly => true
  | .running => true
  | _ => false

/-! ## Images (R402 to R404) -/

/-- The body of an image. -/
def imgBody (i : Image) : List Byte := slice i.data 8192 (field i.data 24 8)
/-- The digest D of an image (R403). -/
def imgDigest (i : Image) : List Byte := sha3_512 (i.data.take 2656 ++ imgBody i)
/-- The security version of an image. -/
def imgSvn (i : Image) : Nat := field i.data 16 1
/-- Layout, key and signature of an image of kind `k` (R402, R403), its security version apart. -/
def imgSound (f : Fuses) (k : Nat) (i : Image) : Bool :=
  field i.data 0 4 == 0x494D5A47 && field i.data 4 1 == k && zeroAt i.data 5 3 && zeroAt i.data 17 7 && zeroAt i.data 32 32 &&
  zeroAt i.data 7283 909 && decide (imgSvn i ≤ 64) &&
  inRange 1 (field i.data 24 8) (if k = 0 then 0x7E000 else 0x1FFE000) &&
  (imgBody i).length == field i.data 24 8 &&
  sha3_512 (slice i.data 64 2592) == (if k = 0 then f.lodgeKeyHash else f.groundsKeyHash) && i.sigOk
/-- The fused rollback count of a kind. -/
def fuseCount (f : Fuses) (k : Nat) : Nat := if k = 0 then f.lodgeCount else f.groundsCount
/-- The image is valid (R403). -/
def imgValid (f : Fuses) (k : Nat) (i : Image) : Bool := imgSound f k i && decide (fuseCount f k ≤ imgSvn i)

/-- Slot of a kind: A or B. -/
def norSlot (q : Qspi) (k : Nat) (b : Bool) : Image :=
  if k = 0 then (if b then q.lodgeB else q.lodgeA) else (if b then q.groundsB else q.groundsA)
/-- Boot record of a kind. -/
def norRec (q : Qspi) (k : Nat) : BootRec := if k = 0 then q.lodgeRec else q.groundsRec
/-- Set a slot, and set a boot record. -/
def setNorSlot (q : Qspi) (k : Nat) (b : Bool) (i : Image) : Qspi :=
  if k = 0 then (if b then { q with lodgeB := i } else { q with lodgeA := i })
  else (if b then { q with groundsB := i } else { q with groundsA := i })
def setNorRec (q : Qspi) (k : Nat) (r : BootRec) : Qspi := if k = 0 then { q with lodgeRec := r } else { q with groundsRec := r }

/-- TRIES is incremented before an image is loaded; above 3 the other slot is preferred and TRIES is 1 (R406). -/
def tryRec (r : BootRec) : BootRec := if 3 < r.tries + 1 then ⟨!r.pref, 1⟩ else ⟨r.pref, r.tries + 1⟩

/-- The slot that boots: the preferred one when it is valid, else the other (R405). -/
def bootSlot (f : Fuses) (q : Qspi) (k : Nat) : Option Bool :=
  let p := (norRec q k).pref
  if imgValid f k (norSlot q k p) then some p else if imgValid f k (norSlot q k (!p)) then some (!p) else none

/-! ## Measurement log (R409) -/

/-- An entry of the log. -/
def logEntry (seq kind hfn : Nat) (digest info : List Byte) : List Byte :=
  leBytes 4 seq ++ leBytes 1 kind ++ zeros 3 ++ leBytes 8 hfn ++ padTo 64 digest ++ padTo 48 info

/-- Add an entry: it always extends the log digest, and is stored while there is room (R409). -/
def addLog (kind : Nat) (digest info : List Byte) (s : State) : State :=
  let e := logEntry s.lodge.logN kind s.hfn digest info
  modLodge (fun l => { l with log := if l.log.length < 1024 then l.log ++ [e] else l.log, logN := l.logN + 1,
                              logD := sha3_512 (l.logD ++ e) }) s

/-- Log an image (kinds 1 to 3). -/
def logImage (kind k : Nat) (b : Bool) (i : Image) (s : State) : State :=
  addLog kind (imgDigest i) (leBytes 1 k ++ leBytes 1 (if b then 1 else 0) ++ leBytes 1 (imgSvn i)) s

/-! ## Blocks and commands (R415 to R420) -/

/-- BLEN of a block that can be read and is sound (R418), of at least `least` bytes. -/
def blockLen (least : Nat) (blk : Option (List Byte)) : Option Nat :=
  match blk with
  | none => none
  | some b =>
    let n := field b 0 4
    if decide (b.length = n) && n % 64 == 0 && inRange 64 n 65536 && decide (least ≤ n) && zeroAt b 4 4 then some n else none

/-- The command code that waits, untaken, on a channel. -/
def State.waits (s : State) (c cmd : Nat) : Bool :=
  let x := s.chan c
  x.full && !x.taken && wordCmd x.word == cmd

/-- Block address of the posted word. -/
def State.blkAddr (s : State) (c : Nat) : Nat := wordArg (s.chan c).word * 64

/-- The receiver reads the block of the posted word with the sender's requester ID (R269, R418). -/
def readBlock (c : Nat) (blk : Option (List Byte)) (s : State) : State :=
  hostRead (chanFn c) (s.blkAddr c) (match blk with | some b => b.length | none => 64) s

/-- The reserved bits of a word. -/
def State.wordBad (s : State) (c : Nat) : Bool := bitsOf (s.chan c).word 55 52 != 0

/-- No key exists and no command but LC_NONCE and LC_ADVANCE is served in BLANK and DECOMMISSIONED (R420). -/
def State.keyless (s : State) : Bool := s.lodge.lc == 0 || s.lodge.lc == 4

/-- Serve a block command of the PF0-to-Lodge channel: the guards of R418 and R420, then its own effect. -/
def lodgeBlock (cmd least : Nat) (always : Bool) (blk : Option (List Byte)) (f : Nat → List Byte → Nat → State → State)
    (s : State) : State :=
  if s.lodgeUp && s.waits 0 cmd then
    if s.wordBad 0 then chanAck 0 rcBadArg s
    else if s.keyless && !always then chanAck 0 rcDenied s
    else
      let s := readBlock 0 blk s
      match blockLen least blk with
      | none => chanAck 0 rcBadBlock s
      | some n => f (s.blkAddr 0) (blk.getD []) n s
  else s

/-- Slot running, and the digest and security version of a running image. -/
def runDigest (r : Option Running) : List Byte := match r with | some x => x.digest | none => zeros 64
def runSvn (r : Option Running) : Nat := match r with | some x => x.svn | none => 0
def runSlot (r : Option Running) : Bool := match r with | some x => x.slotB | none => false

/-- ZN_ID (R29). -/
def znId : Nat := 0x5A32A000 + (if Config.steppingA1 then 0x100 else 0)

/-- Is PVn's key installed (R389)? -/
def State.keyOk (s : State) (p : Nat) : Bool :=
  match s.lodge.pvKeys.getD p none with | some k => k.installed | none => false

/-- Bits of the pavilions whose key is installed. -/
def State.keyMask (s : State) : Nat := sumNat ((List.range 12).map fun p => if s.keyOk p then 2 ^ p else 0)

/-- The first 320 bytes of an attestation report (R410). -/
def reportHead (nonce : List Byte) (s : State) : List Byte :=
  let l := s.lodge
  leBytes 4 0x52415A47 ++ leBytes 2 1 ++ leBytes 1 l.lc ++ zeros 1 ++ padTo 64 nonce ++ leBytes 4 znId ++ zeros 4 ++
    padTo 16 l.fuses.serial ++ leBytes 8 s.hfn ++ padTo 64 (runDigest l.lodgeImg) ++ padTo 64 (runDigest l.groundsImg) ++
    leBytes 1 (runSvn l.lodgeImg) ++ leBytes 1 (runSvn l.groundsImg) ++ leBytes 1 l.fuses.lodgeCount ++
    leBytes 1 l.fuses.groundsCount ++ leBytes 2 s.keyMask ++ zeros 2 ++ leBytes 4 l.logN ++ zeros 4 ++ padTo 64 l.logD ++ zeros 8

/-- The attestation report (R410): the signature is the device identity key's (log 11). -/
def report (nonce : List Byte) (s : State) : List Byte :=
  let h := reportHead nonce s
  padTo 5120 (h ++ padTo 4627 (Config.sign (sha3_512 h)))

/-- ATTEST (R410, R420). -/
def doAttest (blk : Option (List Byte)) : State → State :=
  lodgeBlock 0x01 5248 false blk fun addr b _ s =>
    if zeroAt b 80 48 then
      chanAck 0 rcOk (blockOut 0 addr 0 (hostWrite 0 (addr + 128) (report (slice b 16 64) s) s))
    else chanAck 0 rcBadBlock s

/-- IDENTITY (R420). -/
def doIdentity (blk : Option (List Byte)) : State → State :=
  lodgeBlock 0x02 64 false blk fun addr _ n s =>
    let chain := s.lodge.fuses.idChain
    if 2688 + chain.length ≤ n then
      let s := hostWrite 0 (addr + 64) (padTo 2592 s.lodge.fuses.idKey) s
      chanAck 0 rcOk (blockOut 0 addr chain.length (hostWrite 0 (addr + 2688) chain s))
    else chanAck 0 rcBadBlock s

/-- LOG_READ (R409, R420): whole entries from the first one asked for. -/
def doLogRead (blk : Option (List Byte)) : State → State :=
  lodgeBlock 0x03 64 false blk fun addr b n s =>
    let es := (s.lodge.log.drop (field b 16 4)).take ((n - 64) / 128)
    chanAck 0 rcOk (blockOut 0 addr s.lodge.logN (hostWrite 0 (addr + 64) es.flatten s))

/-- The answer to a stage: discarded when its word timed out or its function was reset meanwhile (R417). -/
def stageAck (rc : Nat) (s : State) : State :=
  if (s.chan 0).full && (s.chan 0).taken then chanAck 0 rc (if rc = rcOk then blockOut 0 (s.blkAddr 0) 0 s else s) else s

/-- The end of a stage: the copy is written, checked, and preferred when it is valid (R407). -/
def endStage (k : Bool) (i : Image) (s : State) : State :=
  let kn := if k then 1 else 0
  let q := s.lodge.qspi
  let b := !(norRec q kn).pref
  let s := modLodge (fun l => { l with staging := none, qspi := setNorSlot q kn b i }) s
  if imgValid s.lodge.fuses kn i then
    let s := modLodge (fun l => { l with qspi := setNorRec l.qspi kn ⟨b, 0⟩ }) s
    stageAck rcOk (logImage 3 kn b i s)
  else stageAck (if imgSound s.lodge.fuses kn i then rcRollback else rcVerifyFail) s

/-- IMAGE_STAGE (R407): the start of a stage, or (`fin`) the end of the one in progress. -/
def doImageStage (blk : Option (List Byte)) (img : Option Image) (fin : Bool) (s : State) : State :=
  if fin then
    match s.lodge.staging with
    | some (k, i) => if s.lodgeUp then endStage k i s else s
    | none => s
  else
    lodgeBlock 0x04 64 false blk (fun _ b _ s =>
      if s.lodge.staging.isSome then chanAck 0 rcBusy s
      else if !(zeroAt b 17 7 && zeroAt b 40 24) then chanAck 0 rcBadBlock s
      else if 1 < field b 16 1 then chanAck 0 rcBadArg s
      else
        let s := hostRead 0 (field b 24 8) (field b 32 8) s
        match img with
        | none => chanAck 0 rcFault s
        | some i =>
          modChan 0 (fun x => { x with taken := true }) (modLodge (fun l => { l with staging := some (field b 16 1 == 1, i) }) s)) s

/-- An immediate command of the PF0-to-Lodge channel. -/
def lodgeImm (cmd : Nat) (f : Nat → State → State) (s : State) : State :=
  if s.lodgeUp && s.waits 0 cmd then
    if s.wordBad 0 then chanAck 0 rcBadArg s
    else if s.keyless then chanAck 0 rcDenied s
    else f (wordArg (s.chan 0).word) s
  else s

/-- ROLLBACK_COMMIT (R404): never above an image that runs. -/
def doRollbackCommit : State → State :=
  lodgeImm 0x05 fun arg s =>
    if 1 < arg then chanAck 0 rcBadArg s
    else
      match (if arg = 0 then s.lodge.lodgeImg else s.lodge.groundsImg) with
      | none => chanAck 0 rcRefused s
      | some r =>
        let old := fuseCount s.lodge.fuses arg
        if r.svn ≤ old then chanAck 0 rcOk s
        else
          let s := modLodge (fun l => { l with fuses := if arg = 0 then { l.fuses with lodgeCount := r.svn }
                                                        else { l.fuses with groundsCount := r.svn } }) s
          let s := addLog 5 [] (leBytes 1 old ++ leBytes 1 r.svn) s
          chanAck 0 rcOk (lodgePost 0x83 arg r.svn s)

/-- LC_NONCE (R412). -/
def doLcNonce (blk : Option (List Byte)) : State → State :=
  lodgeBlock 0x06 64 true blk fun addr _ _ s =>
    let v := padTo 32 (Config.random s.lodge.nonceN)
    let s := modLodge (fun l => { l with nonce := some v, nonceN := l.nonceN + 1 }) s
    chanAck 0 rcOk (blockOut 0 addr 0 (hostWrite 0 (addr + 16) v s))

/-- The authorisation that R412 asks for is in the block: the target, the serial, the latest nonce, a good signature. -/
def authOk (l : Lodge) (b : List Byte) (target : Nat) (sigOk : Bool) : Bool :=
  field b 64 1 == target && zeroAt b 65 15 && slice b 80 16 == padTo 16 l.fuses.serial &&
  (match l.nonce with | some v => slice b 96 32 == v | none => false) && zeroAt b 128 64 && zeroAt b (64 + 4755) 109 && sigOk

/-- Is the transition permitted (R412)? -/
def lcPermitted (l : Lodge) (b : List Byte) (n target : Nat) (sigOk : Bool) : Bool :=
  let from_ := l.fuses.lc
  if target = 4 then decide (from_ ≤ 3) && slice b 32 16 == padTo 16 l.fuses.serial
  else if from_ = 0 ∧ target = 1 then decide (4928 ≤ n) && authOk l b target sigOk
  else if from_ = 1 ∧ target = 2 then true
  else if from_ = 2 ∧ target = 3 then decide (4928 ≤ n) && authOk l b target sigOk
  else false

/-- LC_ADVANCE (R412, R413): fused before the answer, in effect at the next node reset. -/
def doLcAdvance (blk : Option (List Byte)) (sigOk : Bool) : State → State :=
  lodgeBlock 0x07 64 true blk fun addr b n s =>
    let target := field b 16 1
    let old := s.lodge.fuses.lc
    if zeroAt b 17 15 = false then chanAck 0 rcBadBlock s
    else if lcPermitted s.lodge b n target sigOk then
      let fuse (l : Lodge) : Lodge :=
        { l with nonce := none, lcPending := true,
                 fuses := { l.fuses with lc := target, uds := if target = 4 then false else l.fuses.uds || target == 1 },
                 pvKeys := if target = 4 then l.pvKeys.map fun k => k.map fun x => { x with installed := false } else l.pvKeys,
                 caks := if target = 4 then [] else l.caks, saks := if target = 4 then [] else l.saks }
      let s := addLog 4 [] (leBytes 1 old ++ leBytes 1 target) (modLodge fuse s)
      chanAck 0 rcOk (blockOut 0 addr 0 (lodgePost 0x82 target old s))
    else chanAck 0 rcDenied s

/-- Unmap every unit of a pavilion's spaces 0 to 2 and forget what they held (R389). -/
def unmapPv (p : Nat) (s : State) : State :=
  let gone (u : Lua) : Bool := decide (u.space ≤ 2) && u.pv == p
  let s := { s with flash := { s.flash with
    map := s.flash.map.filter fun e => !gone e.1
    blocks := s.flash.blocks.map fun b => { b with valid := b.valid.filter fun u => !gone u }
    pool := s.flash.pool.filter fun u => !gone u.lua } }
  let s := modRange p (fun r => { r with
    t3 := [], dur := [],
    pages := (r.pages.filter fun g => g.st != .t3).map fun g =>
      { g with st := if g.st = .t1OverT3 then .t1Only else g.st, durable := false } }) s
  modCorpus p (fun c => { Corpus.reset with rstate := c.rstate, committed := c.committed, peers := c.peers }) s

/-- PV_ERASE (R389, R420). -/
def doPvErase : State → State :=
  lodgeImm 0x08 fun arg s =>
    if 11 < arg then chanAck 0 rcBadArg s
    else if (s.fn (fnOf arg)).enabled then chanAck 0 rcRefused s
    else
      let s := modLodge (fun l => { l with pvKeys := modifyAt l.pvKeys arg fun _ => none }) s
      chanAck 0 rcOk (unmapPv arg s)

/-- CAK_SET (R420): the CAK bytes of the block are cleared before the acknowledgement. -/
def doCakSet (blk : Option (List Byte)) : State → State :=
  lodgeBlock 0x09 128 false blk fun addr b _ s =>
    let port := field b 16 1
    let sub := field b 17 1
    let n := field b 18 1
    if !(zeroAt b 19 13) then chanAck 0 rcBadBlock s
    else if decide (port ≤ 19) && decide (sub ≤ 1) && inRange 1 n 32 then
      let k : Cak := ⟨port, sub, slice b 32 n, slice b 64 32⟩
      let s := modLodge (fun l => { l with caks := (l.caks.filter fun c => !(c.port == port && c.sub == sub)) ++ [k] }) s
      chanAck 0 rcOk (blockOut 0 addr 0 (hostWrite 0 (addr + 64) (zeros 32) s))
    else chanAck 0 rcBadArg s

/-! ## Grounds requests (R400, R401, R422) -/

/-- Install a pavilion's flash key (R265, R389, R422): created when the pavilion is first composed; a key wrapped in another
life-cycle state cannot be read (R413). -/
def doKeyInstall (p : Nat) (s : State) : State :=
  if s.live && !s.keyless && decide (p < 12) then
    match s.lodge.pvKeys.getD p none with
    | some k =>
      if k.wrappedIn = s.lodge.lc then
        modLodge (fun l => { l with pvKeys := modifyAt l.pvKeys p fun _ => some ⟨k.wrappedIn, true⟩ }) s
      else emit (.internal "KEY DENIED" p) s
    | none =>
      if (s.slices p).isSome then
        modLodge (fun l => { l with pvKeys := modifyAt l.pvKeys p fun _ => some ⟨l.lc, true⟩ }) s
      else emit (.internal "KEY DENIED" p) s
  else s

/-- Derive a SAK, or compute an MKPDU's ICV (R329, R422): only for an interface that has a CAK. -/
def doSakDerive (port sub : Nat) (icv : Bool) (s : State) : State :=
  if s.live then
    if s.lodge.caks.any fun c => c.port == port && c.sub == sub then
      if icv then emit (.internal "ICV" (2 * port + sub)) s
      else modLodge (fun l => { l with saks := dedupKeep (l.saks ++ [(port, sub)]) }) s
    else emit (.internal "SAK DENIED" (2 * port + sub)) s
  else s

/-- The firewall refuses an access of the Grounds (R400). -/
def doFirewall (write : Bool) (s : State) : State :=
  if s.live then
    let s := modLodge (fun l => { l with fwViol := true, fwViolCnt := satTo 0xFFFF (l.fwViolCnt + 1) }) s
    if write then s else emit (.internal "READ 0" 0) s
  else s

/-! ## Mailbox channels (R416, R417, R423 to R425) -/

/-- The commands defined on a channel (R420). -/
def chanCmds (c : Nat) : List Nat :=
  if c = 0 then [0x01, 0x02, 0x03, 0x04, 0x05, 0x06, 0x07, 0x08, 0x09] else if c = 1 then [0x20] else [0x40, 0x41, 0x42, 0x43]

/-- The receiver of a channel runs. -/
def State.chanServed (s : State) (c : Nat) : Bool := if c = 0 then s.lodgeUp else s.live

/-- A write of MBX_DATA_LO (R417). -/
def doMbxLo (c : Nat) (v : W32) (s : State) : State :=
  if s.fnUp (chanFn c) then
    modChan c (fun x => if x.full then { x with overrun := true } else { x with lo := v }) s
  else s

/-- A write of MBX_DATA_HI posts the word (R416, R417); an undefined command is answered at once (R419). -/
def doMbxPost (c : Nat) (v : W32) (s : State) : State :=
  if s.fnUp (chanFn c) then
    if (s.chan c).full then modChan c (fun x => { x with overrun := true }) s
    else
      let s := modChan c (fun x => { x with hi := v, full := true, ackValid := false, ret := 0, timer := 0,
                                            limit := fld x.ctl 15 0 * 100, taken := false }) s
      if s.chanServed c && !(chanCmds c).contains (wordCmd (s.chan c).word) then chanAck c rcBadCmd s else s
  else s

/-- A write of MBX_CTL, or on channel 14 of MBX_RX_CTL (R425). -/
def doMbxCtl (c : Nat) (v : W32) (s : State) : State :=
  if c = 14 then
    if s.bar0Up0 then
      if 16 ≤ fld v 21 16 then modChan 0 (fun x => { x with cfgReject := true }) s
      else { s with rx := { s.rx with ctl := v &&& 0x007F_0000#32 } }
    else s
  else if s.fnUp (chanFn c) then
    if fld v 15 0 = 0 || decide ((if c < 2 then 16 else 64) ≤ fld v 21 16) then modChan c (fun x => { x with cfgReject := true }) s
    else modChan c (fun x => { x with ctl := v &&& 0x007F_FFFF#32 }) s
  else s

/-- The host acknowledges a Lodge-to-host message (R416, R424); the next waiting message is posted. -/
def doMbxAck (s : State) : State :=
  if s.bar0Up0 && s.rx.full then rxPump { s with rx := { s.rx with full := false } } else s

/-- A channel's timer reaches its limit while FULL (R417): the word is withdrawn, and what waits for it is cut loose. -/
def doMbxTimeout (c : Nat) (s : State) : State :=
  let x := s.chan c
  if x.full && decide (x.limit ≤ x.timer) then
    let s := modChan c (fun x => { x with full := false, timedOut := true, taken := false }) s
    { s with comp := { s.comp with props := s.comp.props.map fun p => if p.chan = some c then { p with chan := none } else p } }
  else s

/-- A Lodge-to-host message is unacknowledged for 250,000 frames (R424). -/
def doLodgeTimeout (s : State) : State :=
  if s.rx.full && decide (250000 ≤ s.rx.timer) then
    rxPump (modLodge (fun l => { l with mbxLost := true }) { s with rx := { s.rx with full := false } })
  else s

/-- R410. -/
def execAttest (blk : Option (List Byte)) (s : State) : Host.Outcome State Fault Refusal := .next (doAttest blk s)
/-- R420. -/
def execIdentity (blk : Option (List Byte)) (s : State) : Host.Outcome State Fault Refusal := .next (doIdentity blk s)
/-- R409. -/
def execLogRead (blk : Option (List Byte)) (s : State) : Host.Outcome State Fault Refusal := .next (doLogRead blk s)
/-- R407. -/
def execImageStage (blk : Option (List Byte)) (img : Option Image) (fin : Bool) (s : State) : Host.Outcome State Fault Refusal :=
  .next (doImageStage blk img fin s)
/-- R404. -/
def execRollbackCommit (s : State) : Host.Outcome State Fault Refusal := .next (doRollbackCommit s)
/-- R412. -/
def execLcNonce (blk : Option (List Byte)) (s : State) : Host.Outcome State Fault Refusal := .next (doLcNonce blk s)
/-- R412. -/
def execLcAdvance (blk : Option (List Byte)) (sigOk : Bool) (s : State) : Host.Outcome State Fault Refusal :=
  .next (doLcAdvance blk sigOk s)
/-- R389. -/
def execPvErase (s : State) : Host.Outcome State Fault Refusal := .next (doPvErase s)
/-- R420. -/
def execCakSet (blk : Option (List Byte)) (s : State) : Host.Outcome State Fault Refusal := .next (doCakSet blk s)
/-- R422. -/
def execKeyInstall (pv : Pv) (s : State) : Host.Outcome State Fault Refusal := .next (doKeyInstall pv.val s)
/-- R422. -/
def execSakDerive (port sub : Nat) (icv : Bool) (s : State) : Host.Outcome State Fault Refusal := .next (doSakDerive port sub icv s)
/-- R400. -/
def execFirewallViolation (write : Bool) (s : State) : Host.Outcome State Fault Refusal := .next (doFirewall write s)
/-- R417. -/
def execMbxDataLoWrite (c : Fin 14) (v : W32) (s : State) : Host.Outcome State Fault Refusal := .next (doMbxLo c.val v s)
/-- R416. -/
def execMbxPost (c : Fin 14) (v : W32) (s : State) : Host.Outcome State Fault Refusal := .next (doMbxPost c.val v s)
/-- R425. -/
def execMbxCtlWrite (c : Fin 15) (v : W32) (s : State) : Host.Outcome State Fault Refusal := .next (doMbxCtl c.val v s)
/-- R416: the code written is not interpreted. -/
def execMbxAck (_v : W32) (s : State) : Host.Outcome State Fault Refusal := .next (doMbxAck s)
/-- R417. -/
def execMbxTimeout (c : Fin 14) (s : State) : Host.Outcome State Fault Refusal := .next (doMbxTimeout c.val s)
/-- R424. -/
def execLodgeMsgTimeout (s : State) : Host.Outcome State Fault Refusal := .next (doLodgeTimeout s)

end Sys2Proof.Machine
end

