-- ==== Sys2Proof/Machine/MemOps.lean ====
section
/-! DEFINITION. The tiered memory of a pavilion and the storage buffer pools: bytes, pages, reads and writes through the tiers,
operations
of the array, units on their way to flash (R202 to R213, R219, R225, R226, R236 to R241, R387). -/

namespace Sys2Proof.Machine

/-! ## Bytes -/

/-- The canonical form of a sparse memory: addresses strictly rising, no byte 0 listed. -/
def Memory.wf : Mem → Bool
  | [] => true
  | [(_, b)] => b != 0#8
  | (a, b) :: (a', b') :: m => b != 0#8 && decide (a < a') && Memory.wf ((a', b') :: m)

/-- The byte at an address: 0 where none is listed (R203, R239). -/
def memGet (m : Mem) (a : Nat) : Byte := ((m.find? fun c => c.1 == a).map (·.2)).getD 0#8

/-- Put an entry before the first one of a higher address. -/
def memInsert : Mem → Nat → Byte → Mem
  | [], a, b => [(a, b)]
  | c :: m, a, b => if a < c.1 then (a, b) :: c :: m else c :: memInsert m a b

/-- Write one byte, keeping the canonical form. -/
def memSet (m : Mem) (a : Nat) (b : Byte) : Mem :=
  let m := m.filter fun c => c.1 != a
  if b = 0#8 then m else memInsert m a b

/-- Write bytes from an address on. -/
def memWrite : Mem → Nat → List Byte → Mem
  | m, _, [] => m
  | m, a, b :: bs => memWrite (memSet m a b) (a + 1) bs

/-- Read `n` bytes. -/
def memRead (m : Mem) (a n : Nat) : List Byte := (List.range n).map fun i => memGet m (a + i)

/-- The cells of an address range. -/
def memCut (m : Mem) (a n : Nat) : Mem := m.filter fun c => decide (a ≤ c.1) && decide (c.1 < a + n)

/-- The bytes of [a, a + n) of `src` in place of those of `dst`. -/
def memSplice (src dst : Mem) (a n : Nat) : Mem :=
  (dst.filter fun c => decide (c.1 < a)) ++ memCut src a n ++ dst.filter fun c => decide (a + n ≤ c.1)

/-! ## Pages (R202, R203) -/

def pageSize : Nat := 65536
def unitSize : Nat := 16384
def subSize : Nat := 4096

/-- A page that nothing has written. -/
def Page.fresh (no : Nat) : Page := ⟨no, .unwritten, 0, false, 0, 0, 0, false, none, [], 0⟩
/-- A page of a range. -/
def Range.page (r : Range) (no : Nat) : Page := (r.pages.find? (·.no == no)).getD (Page.fresh no)
/-- Change a page. -/
def Range.modPage (r : Range) (no : Nat) (g : Page → Page) : Range :=
  if r.pages.any (·.no == no) then { r with pages := mapIf (·.no == no) g r.pages }
  else { r with pages := r.pages ++ [g (Page.fresh no)] }
/-- Change a page of a pavilion. -/
def modPage (p no : Nat) (g : Page → Page) : State → State := modRange p fun r => r.modPage no g

/-- The page's current copy is a T1 frame. -/
def PState.inT1 : PState → Bool
  | .t1Only => true | .t1OverT2 => true | .t1OverT3 => true | _ => false
/-- The page has a copy in the T2 window. -/
def PState.inT2 : PState → Bool
  | .t2 => true | .t1OverT2 => true | _ => false
/-- The tier of the current copy: 0 for none. -/
def PState.tier : PState → Nat
  | .unwritten => 0 | .t2 => 2 | .t3 => 3 | _ => 1
/-- The tier of the reference copy: 0 for none. -/
def PState.refTier : PState → Nat
  | .t1OverT2 => 2 | .t1OverT3 => 3 | _ => 0

/-- The page holds a T1 frame, or a promotion has one for it; a place in the T2 window likewise. -/
def Page.frame (g : Page) : Bool := g.st.inT1 || g.copy.any (·.tier == 1)
def Page.window (g : Page) : Bool := g.st.inT2 || g.copy.any (·.tier == 2)

/-- Frames of the share in use, pages that may not be demoted, pinned frames. -/
def Range.inT1 (r : Range) : Nat := (r.pages.filter Page.frame).length
def Page.held (g : Page) : Bool := g.pinned || decide (0 < g.winPins)
def Range.pinnedT1 (r : Range) : Nat := (r.pages.filter fun g => g.held && g.st.inT1).length
/-- Free host-area frames of the T1 share (R206, R230). -/
def Range.free (r : Range) : Nat := r.share - r.inT1
/-- Places of the T2 window in use, and its size. -/
def Range.t2Used (r : Range) : Nat := (r.pages.filter Page.window).length
def Range.t2Pages (r : Range) : Nat := fld r.t2Size 26 0

/-- The byte at a node-range offset: of the current copy (R203). -/
def Range.byte (r : Range) (a : Nat) : Byte :=
  match (r.page (a / pageSize)).st with
  | .unwritten => 0#8
  | .t2 => memGet r.t2 a
  | .t3 => memGet r.t3 a
  | _ => memGet r.t1 a

/-- Bytes of the current copies. -/
def Range.read (r : Range) (a n : Nat) : List Byte := (List.range n).map fun i => r.byte (a + i)

/-- The numbers k with k × size in the extent [a, a + n). -/
def blocksIn (size a n : Nat) : List Nat :=
  if n = 0 then [] else (List.range ((a + n - 1) / size - a / size + 1)).map fun i => a / size + i

/-- Two extents meet. -/
def meet (a n b m : Nat) : Bool := decide (a < b + m) && decide (b < a + n)

/-- The mask of the sub-blocks of page `no` that [a, a + n) touches. -/
def subMask (no a n : Nat) : Nat :=
  sumNat ((List.range 16).map fun i => if meet a n (no * pageSize + i * subSize) subSize then 2 ^ i else 0)

/-- The bytes of the sub-blocks of page `no` named by a mask, from `src` in place of those of `dst`. -/
def subSplice (src dst : Mem) (no mask : Nat) : Mem :=
  (List.range 16).foldl (fun m i => if maskHas mask i then memSplice src m (no * pageSize + i * subSize) subSize else m) dst

/-- The logical unit of the host area that holds an offset (R236). -/
def hostUnit (p a : Nat) : Lua := ⟨0, p, a / unitSize⟩

/-- The map entry of a unit (R239). -/
def Flash.entry (f : Flash) (u : Lua) : Option MapEnt := (f.map.find? fun e => e.1 == u).map (·.2)
/-- The unit is marked unreadable (R249), and no newer copy waits in a pool. -/
def Flash.bad (f : Flash) (u : Lua) : Bool := f.entry u == some .unreadable && !f.pool.any (·.lua == u)
/-- The page of the array that a read of the unit takes: none where the pool serves it, or where it is unmapped or unreadable (R239). -/
def Flash.readAt (f : Flash) (u : Lua) : Option Nat :=
  if f.pool.any (fun x => x.lua == u && x.src.isNone) then none else match f.entry u with | some (.at_ n) => some n | _ => none

/-- Units of a page that hold a sub-block of a mask. -/
def unitsOf (mask : Nat) : List Nat := (List.range 4).filter fun i => bitsOf mask (4 * i + 3) (4 * i) != 0
/-- Units of a page that hold a dirty sub-block (R208). -/
def dirtyUnits (g : Page) : List Nat := unitsOf g.dirty
/-- Some unit of the page cannot be read. -/
def Flash.badPage (f : Flash) (p no : Nat) : Bool := (List.range 4).any fun i => f.bad ⟨0, p, 4 * no + i⟩

/-! ## Words of walled rows (R219, R225, R226) -/

/-- The ECC lanes of a walled row: 8 check bytes for each of its 16 words, word 0 first. -/
def eccLanes (row : List Byte) : List Byte := (List.range 16).flatMap fun i => Config.rsCheck (slice row (64 * i) 64)

/-- What the ECC stage makes of a word with these bad symbols: it corrects one and detects two; of more the code promises nothing. -/
def rsDecode (e : List (Nat × Byte)) : Option (List (Nat × Byte)) :=
  if e.length ≤ 1 then some e else if e.length = 2 then none else Config.rsBeyond e

/-- Symbols added to symbols; those that cancel are gone. -/
def addSyms (a b : List (Nat × Byte)) : List (Nat × Byte) :=
  b.foldl (fun a x =>
    let v := x.2 ^^^ ((a.find? (·.1 == x.1)).map (·.2)).getD 0#8
    (a.filter (·.1 != x.1)) ++ (if v = 0#8 then [] else [(x.1, v)])) a

/-- Data symbols added to a word. -/
def patch (m : Mem) (a : Nat) (e : List (Nat × Byte)) : Mem :=
  e.foldl (fun m x => if x.1 < 64 then memSet m (a + x.1) (memGet m (a + x.1) ^^^ x.2) else m) m

/-- Change a stack. -/
def modStack (st : Nat) (g : Stack → Stack) (s : State) : State :=
  { s with scan := { s.scan with st := modifyAt s.scan.st st g } }
/-- Count a corrected error of a stack, and one that was not (R225, R226, R229). -/
def countCe (st : Nat) (s : State) : State := count none 5 6 1 (modStack st (fun k => { k with ce := satTo 0xFFFF (k.ce + 1) }) s)
def countUe (st : Nat) (s : State) : State := count none 5 7 1 (modStack st (fun k => { k with ue := satTo 0xFF (k.ue + 1) }) s)

/-! ## The T2 window (R215 to R217) -/

/-- The I/O virtual address of an offset of a page that has a place in the window. -/
def Range.t2Addr (r : Range) (a : Nat) : Nat :=
  r.t2Hi.toNat * 2 ^ 32 + r.t2Lo.toNat + (r.page (a / pageSize)).place * pageSize + a % pageSize

/-- Read the parts of an extent whose copy in the window is asked for, with the VF's requester ID, not snooped (R216). -/
def t2Read (p a n : Nat) (s : State) : State :=
  let r := s.range p
  (blocksIn pageSize a n).foldl (fun s no =>
    let lo := max a (no * pageSize)
    if (r.page no).st.inT2 && s.fnUp (fnOf p) then
      emit (.read (fnOf p) (r.t2Addr lo) (min (a + n) ((no + 1) * pageSize) - lo) .window) s
    else s) s

/-- Write the sub-blocks of a mask to the window, from the T1 or T3 copy (R208, R211, R216). -/
def t2Write (p no mask : Nat) (s : State) : State :=
  let r := s.range p
  let src := if (r.page no).st = .t3 then r.t3 else r.t1
  let s := (List.range 16).foldl (fun s i =>
    let a := no * pageSize + i * subSize
    if maskHas mask i && s.fnUp (fnOf p) then emit (.write (fnOf p) (r.t2Addr a) (memRead src a subSize) .window) s else s) s
  modRange p (fun r => { r with t2 := subSplice src r.t2 no mask }) s

/-- The lowest place of the window that no page has. -/
def Range.freePlace (r : Range) : Nat :=
  let used := (r.pages.filter Page.window).map (·.place)
  ((List.range (used.length + 1)).find? fun i => !used.contains i).getD 0

/-! ## Reads (R203, R225, R226) -/

/-- The reference copy of a sub-block can stand in for its T1 copy: it is clean, and its own tier can be read (R226). -/
def refGood (s : State) (p : Nat) (g : Page) (sub : Nat) : Bool :=
  !maskHas g.dirty sub &&
  (match g.st with
   | .t1OverT2 => !(s.range p).t2Bad.contains g.no
   | .t1OverT3 => !s.flash.bad ⟨0, p, 4 * g.no + sub / 4⟩
   | _ => false)

/-- One word of a T1 page is read (R225, R226): a corrected word is written back and counted, and so is one whose clean sub-block has a
reference copy that can be read; any other posts MEM_ERROR with the kind of access. -/
def readWord (p no access : Nat) (x : Option Status × State) (e : WordErr) : Option Status × State :=
  let (st, s) := x
  let a := no * pageSize + e.word * 64
  let drop (m : List (Nat × Byte)) : State → State :=
    modRange p fun r => { r.modPage no (fun g => { g with errs := g.errs.filter (·.word != e.word) }) with t1 := patch r.t1 a m }
  match rsDecode e.syms with
  | some c => (st, countCe e.stack (drop (addSyms e.syms c) s))
  | none =>
    let g := (s.range p).page no
    if refGood s p g (e.word / 64) then
      let s := if g.st = .t1OverT2 then t2Read p (no * pageSize + e.word / 64 * subSize) subSize s else s
      (st, countCe e.stack (drop [] s))
    else (some .memUncorrectable, countUe e.stack (memError p 1 access a s))

/-- Read the words of an extent that lie in T1 and do not read as written, where `sel` asks for them. -/
def readWords (p a n access : Nat) (sel : Nat → Bool) (s : State) : Option Status × State :=
  (blocksIn pageSize a n).foldl (fun x no =>
    let g := (x.2.range p).page no
    if g.st.inT1 then
      (g.errs.filter fun e => meet a n (no * pageSize + e.word * 64) 64 && sel (no * pageSize + e.word * 64)).foldl (readWord p no access) x
    else x) (none, s)

/-- Note an access for the placement policy (R212). -/
def touch (p a n : Nat) (s : State) : State :=
  let ns := blocksIn pageSize a n
  modRange p (fun r => { r with pages := mapIf (fun g => ns.contains g.no) (fun g => { g with lastAcc := s.hfn }) r.pages }) s

/-- Read for the pavilion's work: the bytes, or the failure; a failure in T1 or T2 posts MEM_ERROR with its kind of access (R226). -/
def readFor (p a n access : Nat) (s : State) : (Option Status × List Byte) × State :=
  let r := s.range p
  let low (t : PState) (no : Nat) : Bool := (r.page no).st == t
  let s := if (blocksIn pageSize a n).any (low .t2) then t2Read p a n s else s
  match readWords p a n access (fun _ => true) s with
  | (some st, s) => ((some st, []), s)
  | (none, s) =>
    if (blocksIn pageSize a n).any fun no => low .t2 no && r.t2Bad.contains no then
      ((some .memUncorrectable, []), memError p 2 access (a / 64 * 64) s)
    else if (blocksIn unitSize a n).any fun u => low .t3 (u / 4) && s.flash.bad ⟨0, p, u⟩ then ((some .flashUnrecoverable, []), s)
    else ((none, (s.range p).read a n), touch p a n s)

/-- An access to [a, a + n) of a pavilion's host area meets this failure, if any (R226, R239, R249). -/
def accessErr (s : State) (p a n : Nat) : Option Status := (readFor p a n 0 s).1.1

/-- Note reads served from T2 or T3 (R212). -/
def noteMiss (p a n : Nat) (s : State) : State :=
  let ns := blocksIn pageSize a n
  let low (g : Page) : Bool := ns.contains g.no && (g.st == .t2 || g.st == .t3)
  modRange p (fun r => { r with pages := mapIf low (fun g => { g with misses := g.misses + 1 }) r.pages }) s

/-! ## Operations of the array (R119, R235, R237) -/

/-- The NAND die of a page of the array (R236). -/
def Flash.dieOf (f : Flash) (pun : Nat) : Nat := pun / max 1 (f.blocksPerDie * f.pagesPerBlock)
/-- The block of a page of the array. -/
def Flash.blockAt (f : Flash) (pun : Nat) : Nat := pun / max 1 f.pagesPerBlock

/-- Ask for an operation of the array. -/
def addOp (cls : Nat) (pv : Option Nat) (what : FFor) (u : Lua) (die pun first n : Nat) (s : State) : State :=
  let (id, s) := fresh s
  { s with flash := { s.flash with ops := s.flash.ops ++ [⟨id, die, cls, pv, what, u, pun, first, n, .queued, 0⟩] } }

/-- Ask for a read of codewords of a unit; nothing where no array read is made. -/
def askRead (cls : Nat) (what : FFor) (u : Lua) (first n : Nat) (s : State) : State :=
  match s.flash.readAt u with
  | some pun => addOp cls (if what = .gc then none else some u.pv) what u (s.flash.dieOf pun) pun first n s
  | none => s

/-- A partial-page read for each 1 KiB-aligned kilobyte of an extent of the host area that is read from T3 (R119). -/
def askKib (cls p a n : Nat) (what : FFor) (s : State) : State :=
  (blocksIn 1024 a n).foldl (fun s k =>
    if ((s.range p).page (k / 64)).st == .t3 then askRead cls what ⟨0, p, k / 16⟩ (k % 16) 1 s else s) s

/-- The reads that a promotion or a move of a page waits for (R208). -/
def askPage (p no : Nat) (s : State) : State :=
  (List.range 4).foldl (fun s i => askRead 5 (.page no) ⟨0, p, 4 * no + i⟩ 0 16 s) s

/-- Some read for this purpose has not ended; `p` is the pavilion of the unit. -/
def Flash.asked (f : Flash) (p : Nat) (what : FFor) : Bool := f.ops.any fun o => o.what == what && o.lua.pv == p

/-! ## The buffer pools (R10, R238 to R241, R387) -/

/-- The storage die whose pool takes a unit: the one that serves the quadrant (R11), or by parity of the unit number where no quadrant is
given (log 20), if both are in service. -/
def sdOf (s : State) (quad : Option Nat) (unit : Nat) : Nat :=
  match s.scs with
  | [] => 0
  | [x] => x
  | x :: y :: _ => if (quad.map (· / 2)).getD (unit % 2) = 0 then x else y

/-- Floor and cap of a class, in KiB; none is read staging. -/
def poolFloor : Option PoolCls → Nat
  | some .update => 65536 | some .gc => 32768 | some .ckpt => 16384 | some .migration => 8192 | none => 32768
def poolCap : Option PoolCls → Nat
  | some .update => 196608 | some .gc => 98304 | some .ckpt => 32768 | some .migration => 65536 | none => 131072
/-- What the 256 MiB hold above the floors. -/
def poolShared : Nat := 262144 - 155648

/-- KiB that a class holds in a storage die's pool: units that wait, or codewords of reads in progress. -/
def Flash.poolUse (f : Flash) (sd : Nat) : Option PoolCls → Nat
  | some c => 16 * (f.pool.filter fun u => u.sd == sd && u.cls == c).length
  | none => sumNat ((f.ops.filter fun o => o.st == .running && f.dies.any fun d => d.id == o.die && d.sd == sd).map (·.n))

/-- Room for `n` KiB more of a class: below its floor, or below its cap out of the shared remainder. -/
def Flash.poolFits (f : Flash) (sd : Nat) (c : Option PoolCls) (n : Nat) : Bool :=
  let use := f.poolUse sd c
  let above := sumNat ([some .update, some .gc, some .ckpt, some .migration, none].map fun x =>
    (f.poolUse sd x + if x = c then n else 0) - poolFloor x)
  decide (use + n ≤ poolFloor c) || (decide (use + n ≤ poolCap c) && decide (above ≤ poolShared))

/-- Exported capacity in units: raw × 15/16 × (1 − OP_PCT / 100), less the reserved SLC regions (R241), in GiB. -/
def Flash.capGib (f : Flash) : Nat := f.rawGib * 15 * (100 - fld f.cfgEff 15 8) / 1600 - f.reservedGib

/-- Units mapped, or waiting to be, in the spaces charged to a pavilion, and in all (R387, R241). -/
def Flash.taken (f : Flash) (p? : Option Nat) : List Lua :=
  dedupKeep ((f.map.map (·.1) ++ f.pool.map (·.lua)).filter fun u =>
    decide (u.space ≤ 2) && (match p? with | some p => u.pv == p | none => true))

/-- A write of these units of the pavilion is within the quota and the exported capacity, and the array takes writes (R241, R264, R387);
a write of no unit needs none of it. -/
def flashRoom (s : State) (p : Nat) (us : List Lua) : Bool :=
  let mine := s.flash.taken (some p)
  let all := s.flash.taken none
  let new := (us.filter fun u => !mine.contains u).length
  let q := fld (s.qos.quotaEff.getD p 0#32) 23 0
  us.isEmpty || (!s.flash.readOnly && (new == 0 || ((q == 0 || decide (mine.length + new ≤ q * 65536)) &&
    decide (all.length + new ≤ s.flash.capGib * 65536))))

/-- The pavilion's own quota refused the write (R397). -/
def noteQuota (p : Nat) (us : List Lua) (s : State) : State :=
  let mine := s.flash.taken (some p)
  let new := (us.filter fun u => !mine.contains u).length
  let q := fld (s.qos.quotaEff.getD p 0#32) 23 0
  if q != 0 && decide (q * 65536 < mine.length + new) then
    { s with qos := { s.qos with quotaHit := modifyAt s.qos.quotaHit p fun _ => true } }
  else s

/-- Place a unit in a storage buffer pool (R238, R240): content that waits for the same work joins the unit that waits there. -/
def putUnit (u : Lua) (cells : Mem) (cls : PoolCls) (quad work page src : Option Nat) (s : State) : State :=
  let same (x : PoolUnit) : Bool :=
    x.lua == u && x.group.isNone && x.cls == cls && x.work == work && x.page == page && x.src == src
  if s.flash.pool.any same then
    { s with flash := { s.flash with pool := mapIf same (fun x => { x with cells := cells }) s.flash.pool } }
  else
    let (id, s) := fresh s
    { s with flash := { s.flash with pool := s.flash.pool ++ [⟨id, u, sdOf s quad u.unit, cls, cells, none, work, page, src⟩] } }

/-- A page's copy is given up, and its work goes back to that page: its buffers are free for another class (R238). -/
def requeueCopy (p no : Nat) (s : State) : State :=
  let work := ((s.range p).page no).copy.bind (·.work)
  let s := { s with flash := { s.flash with pool := s.flash.pool.filter fun u => !(u.lua.pv == p && u.page == some no && u.group.isNone) } }
  let s := modPage p no (fun g => { g with copy := none }) s
  match work with
  | some w => modWork w (fun w => { w with aux := min w.aux no }) s
  | none => s

/-- Buffer for garbage collection: where the remainder is exhausted, migration that waits in the pool gives way (R238). None: no room. -/
def gcRoom (sd : Nat) (s : State) : Option State :=
  if s.flash.poolFits sd (some .gc) 16 then some s
  else if poolCap (some .gc) < s.flash.poolUse sd (some .gc) + 16 then none
  else match s.flash.pool.find? fun u => u.sd == sd && u.cls == .migration && u.group.isNone && u.page.isSome with
    | some u =>
      let s := requeueCopy u.lua.pv (u.lua.unit / 4) s
      if s.flash.poolFits sd (some .gc) 16 then some s else none
    | none => none

/-- Write a unit of the host area to T3 from the given source: T3 reads see it at once, from the pool (R239). -/
def unitToT3 (p unit : Nat) (src : Mem) (cls : PoolCls) (work page : Option Nat) (s : State) : State :=
  let a := unit * unitSize
  let s := modRange p (fun r => { r with t3 := memSplice src r.t3 a unitSize }) s
  putUnit ⟨0, p, unit⟩ (memCut src a unitSize) cls none work page none s

/-- Write records through to T3 (R205, R240): the pool takes the unit merged with its content, and a copy that is current in T1
or T2 is changed too without a dirty bit; a reference copy in T2 stays equal to it (R203). A unit marked unreadable takes its other bytes
from T1. `quad` is the quadrant of the record's plot. -/
def writeThrough (p a : Nat) (bs : List Byte) (quad : Option Nat) (s : State) : State :=
  let us := blocksIn unitSize a bs.length
  let nos := blocksIn pageSize a bs.length
  let base (r : Range) : Mem := us.foldl (fun m u =>
    if s.flash.bad ⟨0, p, u⟩ && (r.page (u / 4)).st.inT1 then memSplice r.t1 m (u * unitSize) unitSize else m) r.t3
  let one (r : Range) (no : Nat) : Range :=
    match (r.page no).st with
    | .unwritten => r.modPage no fun g => { g with st := .t3 }
    | _ => r
  let any (f : PState → Bool) : Bool := nos.any fun no => f ((s.range p).page no).st
  let r0 := s.range p
  let s := modRange p (fun r =>
    let r := { r with t3 := memWrite (base r) a bs, t1 := if any PState.inT1 then memWrite r.t1 a bs else r.t1
                      t2 := if any PState.inT2 then memWrite r.t2 a bs else r.t2 }
    nos.foldl one r) s
  let s := if any PState.inT2 && s.fnUp (fnOf p) then emit (.write (fnOf p) (r0.t2Addr a) bs .window) s else s
  us.foldl (fun s u => putUnit ⟨0, p, u⟩ (memCut (s.range p).t3 (u * unitSize) unitSize) .update quad none none none s) s

/-! ## Commit (R239, R243, R250, R252, R258) -/

/-- Set a unit's map entry. -/
def Flash.setEntry (f : Flash) (u : Lua) (e : MapEnt) : Flash := { f with map := (f.map.filter fun x => x.1 != u) ++ [(u, e)] }

/-- A unit's committed copy is now the page `pun` of block `blk`: the map, the valid units, the durable content (R213). -/
def commitUnit (x : PoolUnit) (pun blk : Nat) (s : State) : State :=
  let f := s.flash.setEntry x.lua (.at_ pun)
  let f := { f with blocks := f.blocks.map fun b =>
    { b with valid := (b.valid.filter (· != x.lua)) ++ (if b.id = blk then [x.lua] else []) } }
  let s := { s with flash := f }
  if x.lua.space = 0 then
    modRange x.lua.pv (fun r =>
      { r.modPage (x.lua.unit / 4) (fun g => { g with durable := true }) with
        dur := if x.src.isSome then r.dur else memSplice x.cells r.dur (x.lua.unit * unitSize) unitSize }) s
  else s

/-- Physical pages above every page that the map names: where a flush puts its units (the model's numbering). -/
def Flash.nextPun (f : Flash) : Nat :=
  1 + maxNat (f.map.map fun e => match e.2 with | .at_ n => n | .unreadable => 0)

/-- The flush of the buffer pools (R261 step 3, R459 step 4): every unit of update data is committed as `GKIND` 3; nothing else in
the pools survives. Answers the bytes written. -/
def flushPools (s : State) : Nat × State :=
  let us := s.flash.pool.filter fun u => u.cls == .update
  let s := us.foldl (fun s x => commitUnit x s.flash.nextPun 0 s) s
  let n := us.length
  (n * unitSize, { s with flash := { s.flash with
    pool := [], groups := [], nextGseq := s.flash.nextGseq + (n + 959) / 960,
    regionErased := s.flash.regionErased - (n + 14) / 15 } })

end Sys2Proof.Machine
end

