-- ==== Sys2Proof/Machine/CorpusOps.lean ====
section
/-! DEFINITION. Shared operations on a pavilion's corpus: epochs, stores, element numbers, lean-to parts, the delete index,
visibility (R54 to R75, R148, R149, R170 to R175, R187). -/

namespace Sys2Proof.Machine

/-! ## Configuration (R70, R71, R73) -/

/-- Strides in bytes and base offsets. -/
def Corpus.vecStride (c : Corpus) : Nat := fld c.corpusCfg 6 0 * 64
def Corpus.payStride (c : Corpus) : Nat := fld c.corpusCfg 13 8 * 64
def Corpus.vecOff (c : Corpus) : Nat := fld c.vecBase 29 0 * 16384
def Corpus.payOff (c : Corpus) : Nat := fld c.payBase 29 0 * 16384
/-- Entries of a lean-to part (R66). -/
def Corpus.partSize (c : Corpus) : Nat := 2 ^ (fld c.corpusCfg 20 16 - 2)
/-- Where a vector record and a payload row lie. -/
def Corpus.vecAddr (c : Corpus) (n : Nat) : Nat := recordAddr c.vecOff c.vecStride n
def Corpus.payAddr (c : Corpus) (n : Nat) : Nat := recordAddr c.payOff c.payStride n
/-- EMPTY (R73, R75). -/
def Corpus.empty (c : Corpus) : Bool :=
  c.cur.isNone && c.stg.isNone && c.ret.isNone && c.stores.isEmpty &&
  (match c.index with | some i => i.cur.isNone && i.stg.isNone && i.stores.isEmpty | none => true)

/-! ## Epochs -/

/-- A resident bundle. -/
def Corpus.bundle? (c : Corpus) (ep : Nat) : Option Bundle := ([c.cur, c.stg, c.ret].filterMap id).find? (·.epoch == ep)
/-- The per-epoch structures. -/
def Corpus.store? (c : Corpus) (ep : Nat) : Option Store := c.stores.find? (·.epoch == ep)
/-- Change an epoch's structures. -/
def Corpus.modStore (c : Corpus) (ep : Nat) (g : Store → Store) : Corpus := { c with stores := mapIf (·.epoch == ep) g c.stores }
/-- An epoch's structures with nothing in them. -/
def Store.new (b : Bundle) (partSize : Nat) : Store := ⟨b.epoch, b.width, [], [], List.replicate 4 ⟨partSize, 0, [], 0, 0⟩, 0, [], 0⟩
/-- The epochs that an update prepared now is written under: the current one, and a staged one (R169, R187). -/
def Corpus.prepUnder (c : Corpus) : List Bundle := c.cur.toList ++ c.stg.toList
/-- The epochs that take the writes of an update admitted into frame `f` (R187): before a cutover frame the retiring epoch as well. -/
def Corpus.writesAt (c : Corpus) (f : Frame) : List Bundle :=
  c.cur.toList.filter (fun _ => decide (c.curD0 ≤ f)) ++ c.ret.toList.filter (fun _ => decide (f < c.retC)) ++
    (match c.stg, c.d0 with | some b, some d => if d ≤ f then [b] else [] | _, _ => [])
/-- The epoch in force at a frame (R186). -/
def Corpus.inForce (c : Corpus) (f : Frame) : Option Bundle :=
  match c.cutover, c.stg with
  | some x, some b => if x ≤ f then some b else c.cur
  | _, _ => c.cur

/-- A cutover to an epoch has been committed, and waits for its map entry to take effect or for its frame (R186, R191, R192). -/
def State.cutDue (s : State) (p ep : Nat) : Bool :=
  ((s.corpus p).cutover.isSome && ((s.corpus p).stg.map (·.epoch)) == some ep) ||
  s.comp.pend.any fun x => match x.2.1 with | .cutover q e _ _ => q == p && e == ep | _ => false

/-! ## Stores -/

/-- Change a lean-to part. -/
def Store.modPart (x : Store) (q : Nat) (g : LeanPart → LeanPart) : Store := { x with parts := modifyAt x.parts q g }
/-- Entries that count as used (R68, R171, R183). -/
def LeanPart.used (l : LeanPart) : Nat := l.ents.length + l.reserved + l.freed
/-- A tombstone (R66). -/
def Rec.tomb (r : Rec) : Bool := r.flags.testBit 2
/-- A plot's directory entry. -/
def Store.plotEnt? (x : Store) (k : Nat) : Option PlotEnt := x.dir.find? (·.plot == k)
/-- A tile by number. -/
def Store.tile? (x : Store) (n : Nat) : Option Tile := x.tiles.find? (·.num == n)
/-- The entries in slots whose deletion bit is clear, with their plots. -/
def Store.slotRecs (x : Store) : List (Nat × Rec) :=
  x.tiles.flatMap fun t => t.slots.filterMap fun s => if s.deleted then none else s.ent.map fun r => (t.tag.plot, r)
/-- The lean-to entries that are no tombstones, with their quadrants. -/
def Store.leanEnts (x : Store) : List (Nat × LeanEnt) :=
  x.parts.zipIdx.flatMap fun (l, q) => (l.live.filter fun e => !e.ent.tomb).map fun e => (q, e)

/-- Quadrants of an epoch's parts that hold a plot in which an EID has a version (R67). -/
def Store.quadsOf (x : Store) (eid : Nat) : List Nat :=
  dedupKeep (((x.slotRecs.filter fun r => r.2.eid == eid).filterMap fun r => (x.plotEnt? r.1).map (·.quad)) ++
    (x.leanEnts.filter fun e => e.2.ent.eid == eid).map (·.1))

/-- The versions of an EID on this node (R171): every entry of every resident epoch. -/
def Corpus.versions (c : Corpus) (eid : Nat) : List Rec :=
  c.stores.flatMap fun x => ((x.slotRecs.filter fun r => r.2.eid == eid).map (·.2)) ++ ((x.leanEnts.filter fun e => e.2.ent.eid == eid).map (·.2.ent))
/-- Has the EID a version here? -/
def Corpus.has (c : Corpus) (eid : Nat) : Bool := !(c.versions eid).isEmpty
/-- The locator's entry of a version. -/
def Corpus.loc? (c : Corpus) (r : Rec) : Option LocEnt := c.locator.find? fun l => l.eid == r.eid && l.ver == r.ver && l.elem == r.elem
/-- The version is held in some resident epoch. -/
def Corpus.holds (c : Corpus) (eid : Nat) (ver : Frame) (elem : Nat) : Bool :=
  (c.versions eid).any fun r => r.ver == ver && r.elem == elem
/-- Enter a version in the locator. -/
def Corpus.locate (c : Corpus) (l : LocEnt) : Corpus := { c with locator := dedupKeep (c.locator ++ [l]) }
/-- The locator without versions that are held no longer. -/
def Corpus.prune (c : Corpus) : Corpus := { c with locator := c.locator.filter fun l => c.holds l.eid l.ver l.elem }

/-! ## The delete index (R170, R173, R174) -/

/-- The delete frame of a version. -/
def Corpus.delOf (c : Corpus) (r : Rec) : Option Frame :=
  ((c.dels.filter fun d => d.eid == r.eid && d.ver == r.ver && (match d.elem with | some e => e == r.elem | none => true)).map (·.del)).min?

/-- Record a delete frame: the lowest of those known. -/
def Corpus.addDel (c : Corpus) (d : DelEnt) : Corpus :=
  let same (x : DelEnt) : Bool := x.eid == d.eid && x.ver == d.ver && x.elem == d.elem
  if c.dels.any same then { c with dels := mapIf same (fun x => { x with del := min x.del d.del }) c.dels }
  else { c with dels := c.dels ++ [d] }

/-- An update (eid, f, node) supersedes every version that comes before it in the order of R170. -/
def Corpus.supersede (c : Corpus) (eid f node : Nat) : Corpus :=
  (c.versions eid).foldl (fun c v =>
    if v.ver < f then c.addDel ⟨eid, v.ver, f, none⟩
    else if v.ver = f then
      match c.loc? v with
      | some l => if l.node < node then c.addDel ⟨eid, f, f, some v.elem⟩ else c
      | none => c
    else c) c

/-- Note an update (R173): it sets the delete frames of the versions before it, and is kept for versions that arrive later. -/
def Corpus.note (c : Corpus) (eid f node : Nat) : Corpus :=
  { c.supersede eid f node with noted := dedupKeep (c.noted ++ [(eid, f, node)]) }

/-- The delete frame that updates already noted give a version as it is appended (R173). -/
def Corpus.lateDel (c : Corpus) (r : Rec) (node : Nat) : Corpus :=
  let later := c.noted.filter fun x => x.1 == r.eid && (decide (r.ver < x.2.1) || (x.2.1 == r.ver && decide (node < x.2.2)))
  match (later.map (·.2.1)).min? with
  | some d => c.addDel ⟨r.eid, r.ver, d, if d = r.ver then some r.elem else none⟩
  | none => c

/-! ## The weight area of the search dies (R166, R167) -/

/-- Bytes of the weight area, and the most that one program may take of it. -/
def weightArea : Nat := 16 * 2 ^ 20
def weightMost : Nat := 12 * 2 ^ 20

/-- Hold a program's weights when they fit. -/
def holdWeights (p ep kind : Nat) (prog : Option Program) (xs : List (Nat × Nat × Nat × Nat)) : List (Nat × Nat × Nat × Nat) :=
  match prog with
  | none => xs
  | some g =>
    let n := g.heldWeights
    if n ≤ weightMost ∧ sumNat (xs.map (·.2.2.2)) + n ≤ weightArea then xs ++ [(p, ep, kind, n)] else xs

/-- Load the weights of a pavilion's current epoch, scorer first, in place of those it held (R167). Every die holds the same, and the
pavilions' programs take the area in the order in which they come (DESIGN CHOICE, log 148): what is not held changes no result. -/
def loadWeights (p : Nat) (s : State) : State :=
  let xs := s.scan.resident.filter (·.1 != p)
  let ys := match (s.corpus p).cur with
    | none => xs
    | some b => holdWeights p b.epoch 1 b.encoder (holdWeights p b.epoch 0 b.scorer xs)
  { s with scan := { s.scan with resident := ys } }

/-! ## Element numbers (R71, R72) -/

/-- A record lies wholly inside its store, and in no unreadable unit. -/
def elemFits (c : Corpus) (n : Nat) : Bool :=
  let v := c.vecAddr n
  let top := if c.vecOff < c.payOff ∧ c.payStride ≠ 0 then c.payOff else hostAreaEnd
  let pay := c.payAddr n
  let ptop := if c.payOff < c.vecOff then c.vecOff else hostAreaEnd
  decide (v + c.vecStride ≤ top) && (c.payStride == 0 || decide (pay + c.payStride ≤ ptop))
/-- No unit of its record or row is unreadable. -/
def elemReadable (s : State) (p : Nat) (c : Corpus) (n : Nat) : Bool :=
  !s.flash.bad (hostUnit p (c.vecAddr n)) && (c.payStride == 0 || !s.flash.bad (hostUnit p (c.payAddr n)))

/-- The lowest free element number that may be used; none when it does not fit its store. -/
def allocElem (s : State) (p : Nat) : Option Nat :=
  let c := s.corpus p
  let bad := (s.flash.map.filter fun e => e.2 == .unreadable && e.1.pv == p).length
  match (List.range (c.elems.length + 512 * bad + 1)).find? fun n => !c.elems.contains n && elemReadable s p c n with
  | some n => if elemFits c n then some n else none
  | none => none

/-- Element numbers that an entry still names, that a query's candidate names, or that a batch holds (R72). -/
def State.elemNamed (s : State) (p : Nat) : List Nat :=
  let c := s.corpus p
  let recs := c.stores.flatMap fun x =>
    (x.tiles.flatMap fun t => t.slots.filterMap fun y => if y.deleted then none else y.ent.map (·.elem)) ++ x.leanEnts.map (·.2.ent.elem)
  let qs := (s.scan.queries.filter fun q => q.pv == p && q.stage != .finished).flatMap fun q =>
    q.cands.map (·.sel.ent.elem) ++ q.l2.map (·.ent.elem) ++ q.top.map (·.elem)
  let es := ((s.upd.batches.filter (·.pv == p)).flatMap (·.elems) ++ (s.upd.staged.filter (·.pv == p)).flatMap (·.elems)).flatMap
    fun e => e.vers.filterMap (·.elem)
  let tree := (s.scan.tree.flatMap (·.ents) ++ s.scan.lanes.flatMap (·.ents)).map (·.ent.elem)
  recs ++ qs ++ es ++ tree

/-- Free what nothing names (R72). -/
def freeElems (p : Nat) (s : State) : State :=
  let used := s.elemNamed p
  modCorpus p (fun c => { c with elems := c.elems.filter used.contains }) s

/-! ## Quadrants (R13, R356) -/

/-- The quadrant of a plot on this node: the one chosen before, else one that the Grounds chooses among the quadrants in which the
pavilion has an engine slice and a memory slice. -/
def State.quadOf (s : State) (p plot : Nat) : Nat :=
  match s.comp.quads.find? fun x => x.1 == p && x.2.1 == plot with
  | some x => x.2.2
  | none =>
    let qs := match s.slices p with | some c => c.quads | none => []
    qs.getD (Config.plotQuad p plot % max 1 qs.length) 0

/-- Keep the choice. -/
def fixQuad (p plot : Nat) (s : State) : State :=
  if s.comp.quads.any fun x => x.1 == p && x.2.1 == plot then s
  else { s with comp := { s.comp with quads := s.comp.quads ++ [(p, plot, s.quadOf p plot)] } }

/-- This node takes the updates of a plot: it holds the plot, or is the receiver of its move (R368). -/
def State.takes (s : State) (p plot : Nat) : Bool :=
  match s.comp.map.plot? p plot with | some x => x.takers.contains s.node | none => false

/-- Ingest peers of this node for a pavilion (R171): the other nodes that serve it, those suspended apart (R372). -/
def State.ingestPeers (s : State) (p : Nat) : List Nat := (s.comp.map.servers p).filter fun n => n != s.node && s.comp.map.serving n

/-! ## The glasshouse band (R221, R355) -/

/-- Tiles that the glasshouse rows of a pavilion's memory slices in a quadrant hold: 192 MiB of 1 KiB tiles per step of GH; the rows of a
step in progress hold none. -/
def State.tileBand (s : State) (p q : Nat) : Nat :=
  match s.slices p with
  | none => 0
  | some c => sumNat ((List.range 16).map fun i =>
      if maskHas c.mem (16 * q + i) then
        let k := s.scan.st.getD (4 * q + i / 4) Stack.reset
        let gh := k.gh.getD (i % 4) 0
        196608 * (gh - if k.quiesced.any (fun x => x.1 == i % 4 && !x.2.1) then 1 else 0)
      else 0)

/-- Tiles that a pavilion's stores hold in a quadrant: those of plots, and those that entries of the lean-to part lie in. -/
def Corpus.tilesIn (c : Corpus) (q : Nat) : Nat :=
  sumNat (c.stores.map fun x =>
    sumNat ((x.dir.filter (·.quad == q)).map fun e => e.tiles.length) +
    (match x.parts[q]? with | some l => (l.used + sptOf x.width - 1) / sptOf x.width | none => 0))

/-- The greatest tile number (R59). -/
def lastTile : Nat := 0xFFFFFFFE

/-- The tiles of a corpus fit the pavilion's glasshouse bands, or do not grow in a quadrant where they do not; their numbers are in
range (R59). -/
def State.tilesFit (s : State) (p : Nat) (old new : Corpus) : Bool :=
  (new.stores.all fun x => decide (x.nextTile ≤ lastTile + 1)) &&
  (List.range 4).all fun q => decide (new.tilesIn q ≤ s.tileBand p q) || decide (new.tilesIn q ≤ old.tilesIn q)

/-! ## Coding an element (R136 to R156) -/

/-- A vector coded for a bundle: its record, sketch and plot; none when it cannot be coded (R144). -/
def codeElem (b : Bundle) (xs : List F32) : Option (List Byte × Nat × Nat) :=
  match b.codeVec (b.rotate xs) with
  | some c => some (b.record c, b.sketch c, (b.order c).headD 0)
  | none => none

/-- The versions of an element under the epochs that take writes (R148, R149, R169): one record when it serves both. -/
def elemVers (cur : Bundle) (stg : Option Bundle) (v0 v1 : List F32) : Option (List ElemVer) :=
  match codeElem cur v0 with
  | none => none
  | some (r0, k0, p0) =>
    let e0 : ElemVer := ⟨cur.epoch, p0, k0, cur.recFlags, cur.epoch, r0, none⟩
    match stg with
    | none => some [e0]
    | some b =>
      if compatible cur b then
        match b.read r0 with
        | some c => some [e0, ⟨b.epoch, if b.plots = cur.plots then p0 else (b.order c).headD 0, b.sketch c, cur.recFlags, cur.epoch, r0, none⟩]
        | none => none
      else
        match codeElem b v1 with
        | some (r1, k1, p1) => some [e0, ⟨b.epoch, if b.plots = cur.plots then p0 else p1, k1, b.recFlags, b.epoch, r1, none⟩]
        | none => none

/-- Group statistics of one more vector (R150): `ys` is rotated under the current bundle. -/
def Bundle.tally (b : Bundle) (ys : List F32) (win : List GroupStat) : List GroupStat :=
  let base := if win.length = b.ng then win else List.replicate b.ng ⟨0#32, 0, 0, 0⟩
  base.zipIdx.map fun (g, i) =>
    let grp := (ys.drop (i * b.group)).take b.group
    let top := grp.foldl (fun m y => if F32.lt m y.abs then y.abs else m) g.maxAbs
    let raws := grp.map fun y => rawCode y (b.calib.scales.getD i F32.zero) (b.calib.zps.getD i 0)
    if b.qmode = 1 then
      ⟨top, g.coded + grp.length, g.lo + (raws.filter fun v => decide (v < codeLo b.vfmt)).length,
        g.hi + (raws.filter fun v => decide (codeHi b.vfmt < v)).length⟩
    else ⟨top, g.coded + grp.length, g.lo, g.hi⟩

/-! ## Writing an element on this node (R66, R67, R71, R171, R172, R185, R205) -/

/-- Reserve one entry in a lean-to part of an epoch; none when it is full (R68). -/
def Corpus.reserve (c : Corpus) (ep q : Nat) : Option Corpus :=
  match c.store? ep with
  | none => none
  | some x =>
    let l := x.parts.getD q LeanPart.none
    if l.used < l.size then some (c.modStore ep fun x => x.modPart q fun l => { l with reserved := l.reserved + 1 }) else none

/-- Release a reserved entry. -/
def Corpus.release (c : Corpus) (part : Nat × Nat) : Corpus :=
  c.modStore part.1 fun x => x.modPart part.2 fun l => { l with reserved := l.reserved - 1 }

/-- Reserve every part of a list. -/
def Corpus.reserveAll (c : Corpus) : List (Nat × Nat) → Option Corpus
  | [] => some c
  | x :: xs => match c.reserve x.1 x.2 with | some c => c.reserveAll xs | none => none

/-- The parts an upsert's versions go to on this node: those of the plots it takes. -/
def State.partsFor (s : State) (p : Nat) (vs : List ElemVer) : List (Nat × Nat) :=
  (vs.filter fun v => s.takes p v.plot).map fun v => (v.epoch, s.quadOf p v.plot)

/-- The tombstone parts of an EID (R67, R171). -/
def Corpus.tombParts (c : Corpus) (eid : Nat) : List (Nat × Nat) :=
  c.prepUnder.flatMap fun b => match c.store? b.epoch with | some x => (x.quadsOf eid).map fun q => (b.epoch, q) | none => []

/-- Allocate element numbers for an element's records held here, one per distinct record. -/
def numberElem (p : Nat) (vs : List ElemVer) (s : State) : Option (List ElemVer × State) :=
  vs.foldl (fun (x : Option (List ElemVer × State)) v =>
    match x with
    | none => none
    | some (done, s) =>
      if !s.takes p v.plot then some (done ++ [v], s)
      else
        match done.find? fun d => d.elem.isSome && d.record == v.record && d.qepoch == v.qepoch with
        | some d => some (done ++ [{ v with elem := d.elem }], s)
        | none =>
          match allocElem s p with
          | some n => some (done ++ [{ v with elem := some n }], modCorpus p (fun c => { c with elems := c.elems ++ [n] }) s)
          | none => none) (some ([], s))

/-- Is there room in the pools and in the flash for an element's records and rows (R238, R241, R387)? -/
def poolRoom (s : State) (p : Nat) (vs : List ElemVer) (payload : Bool) : Status :=
  let c := s.corpus p
  let us := vs.flatMap fun v => match v.elem with
    | some n => (hostUnit p (c.vecAddr n) :: (if payload then [hostUnit p (c.payAddr n)] else [])).map fun u => (u, s.quadOf p v.plot)
    | none => []
  if !flashRoom s p (us.map (·.1)) then .quota
  else if us.any fun u => !s.flash.poolFits (sdOf s (some u.2) u.1.unit) (some .update) 16 then .timeout
  else .ok

/-- Write an element's records and payload row through the pool (R205). -/
def writeElem (p : Nat) (e : Elem) (s : State) : State :=
  let c := s.corpus p
  let ns := dedupKeep (e.vers.filterMap fun v => v.elem.map fun n => (n, v.record, s.quadOf p v.plot))
  ns.foldl (fun s x =>
    let s := writeThrough p (c.vecAddr x.1) (padTo c.vecStride x.2.1) (some x.2.2) s
    if e.payload = [] then s else writeThrough p (c.payAddr x.1) (padTo c.payStride e.payload) (some x.2.2) s) s

/-- Append one lean-to entry under a reservation, with its journal record (R66, R172, R185). -/
def appendEnt (p ep q : Nat) (e : LeanEnt) (s : State) : State :=
  let s := modCorpus p (fun c =>
    let c := c.modStore ep fun x => x.modPart q fun l => { l with ents := l.ents ++ [e], reserved := l.reserved - 1 }
    let c := { c with journal := c.journal ++ [⟨ep, e, q⟩] }
    if e.ent.tomb then c else (c.locate ⟨e.ent.eid, e.ent.ver, e.ent.elem, e.node, e.ring, e.seq⟩).lateDel e.ent e.node) s
  let s := putUnit ⟨2, p, (s.corpus p).journal.length / 256⟩ [] .update (some q) none none none s
  count (some p) 0 9 1 s

/-- The lean-to record of an element's version. -/
def Elem.rec_ (e : Elem) (v : ElemVer) (ver : Frame) : Rec :=
  ⟨e.eid, ver, v.elem.getD 0, v.flags, e.payload.length, e.attr, v.qepoch⟩

/-- Append what this node holds of an update admitted into frame `ver` by a node (R67, R172, R173): entries under the epochs that take
writes at that frame, tombstones under a delete's reservations. -/
def appendElem (p : Nat) (del : Bool) (ver node ring seq batch : Nat) (e : Elem) (s : State) : State :=
  let eps := ((s.corpus p).writesAt ver).map (·.epoch)
  let put (s : State) (ep q sketch plot : Nat) (r : Rec) : State :=
    appendEnt p ep q ⟨sketch, r, plot, s.hfn, false, node, ring, seq, batch, false⟩ (fixQuad p plot s)
  let s := if del then
      e.parts.foldl (fun s x => if eps.contains x.1 then put s x.1 x.2 0 0 ⟨e.eid, ver, 0, 4, 0, 0, 0⟩ else modCorpus p (·.release x) s) s
    else e.vers.foldl (fun s v =>
      match v.elem with
      | some _ => if eps.contains v.epoch then put s v.epoch (s.quadOf p v.plot) v.sketch v.plot (e.rec_ v ver)
        else modCorpus p (·.release (v.epoch, s.quadOf p v.plot)) s
      | none => s) s
  modCorpus p (fun c => c.note e.eid ver node) s

/-- Give up what an element reserved on this node (R171). -/
def dropElem (p : Nat) (e : Elem) (s : State) : State :=
  modCorpus p (fun c => e.parts.foldl (fun c x => c.release x) c) s

end Sys2Proof.Machine
end

