-- ==== Sys2Proof/Machine/Pages.lean ====
section
/-! DEFINITION. Pages between the tiers: copies, T1 frames, write-back writes, and the progress of tier work (R203 to R212, R226, R238,
R252). -/

namespace Sys2Proof.Machine

/-! ## Copies (R208 to R210, R217, R226) -/

/-- What an access or a copy finds: it goes on, it waits for a frame, a buffer or a copy in progress, or it is refused. -/
inductive Got where
  | ready
  | wait
  | refuse (st : Status)
  deriving DecidableEq, Repr

/-- Sub-blocks of a page that hold a word which cannot be delivered (R226), and the whole of a page whose window does not answer (R217). -/
def badSubs (s : State) (p : Nat) (g : Page) : Nat :=
  if g.st = .t2 then (if (s.range p).t2Bad.contains g.no then 0xFFFF else 0)
  else sumNat ((List.range 16).map fun i =>
    if (g.errs.any fun e => e.word / 64 == i && (rsDecode e.syms).isNone) && !refGood s p g i then 2 ^ i else 0)

/-- Read the sub-blocks of a mask of a page for a migration or a flush: each word that cannot be delivered posts MEM_ERROR. -/
def readSubs (p no mask : Nat) (s : State) : State :=
  let g := (s.range p).page no
  if g.st = .t2 then
    let s := t2Read p (no * pageSize) pageSize s
    if (s.range p).t2Bad.contains no then memError p 2 2 (no * pageSize) s else s
  else (readWords p (no * pageSize) pageSize 2 (fun a => maskHas mask (a % pageSize / subSize)) s).2

/-- The mask of the sub-blocks of units. -/
def unitMask (us : List Nat) : Nat := sumNat (us.map fun i => 15 * 2 ^ (4 * i))

/-- Units of a page to be written to T3 from its state (R208). -/
def unitsDown (g : Page) : List Nat := if g.st = .t1OverT3 then dirtyUnits g else [0, 1, 2, 3]
/-- Sub-blocks of a page to be written to the window from its state. -/
def subsDown (g : Page) : Nat := if g.st = .t1OverT2 then g.dirty else 0xFFFF

/-- Room in the pools for units of a page (R238). -/
def migRoom (s : State) (no : Nat) (us : List Nat) : Bool :=
  (List.range 2).all fun sd =>
    let n := (us.filter fun i => sdOf s none (4 * no + i) == sd).length
    n == 0 || s.flash.poolFits sd (some .migration) (16 * n)

/-- Write units of a page to T3 through the pool, with the sub-blocks that cannot be read as the T3 copy has them (R226). -/
def copyDown (p no : Nat) (us : List Nat) (work page : Option Nat) (s : State) : State :=
  let skip := badSubs s p ((s.range p).page no)
  let s := readSubs p no (unitMask us) s
  let r := s.range p
  let src := subSplice r.t3 (if (r.page no).st = .t2 then r.t2 else r.t1) no skip
  (us.filter fun i => bitsOf skip (4 * i + 3) (4 * i) != 15).foldl (fun s i => unitToT3 p (4 * no + i) src .migration work page s) s

/-- Begin a demotion or a move (R208, R210): QUOTA where the window or the flash has no room, a wait where the pool has none. -/
def beginDown (p no tier : Nat) (policy : Bool) (work : Option Nat) (s : State) : Got × State :=
  let r := s.range p
  let g := r.page no
  let skip := badSubs s p g
  let set (s : State) : State := modPage p no (fun g =>
    { g with copy := some ⟨tier, policy, 0, 0, work, skip, false⟩, place := if tier = 2 && !g.st.inT2 then r.freePlace else g.place }) s
  if g.copy.isSome then (.wait, s)
  else if tier = 2 then
    if g.st.inT2 || decide (r.t2Used < r.t2Pages) then
      if g.st = .t3 then (.ready, askPage p no (set s))
      else (.ready, t2Write p no (subsDown g &&& (0xFFFF ^^^ skip)) (readSubs p no (subsDown g) (set s)))
    else (.refuse .quota, s)
  else
    let us := (unitsDown g).map fun i => (⟨0, p, 4 * no + i⟩ : Lua)
    if !flashRoom s p us then (.refuse .quota, noteQuota p us s)
    else if !migRoom s no (unitsDown g) then (.wait, s)
    else (.ready, copyDown p no (unitsDown g) work (some no) (set s))

/-- The page switches to a lower tier (R208): its frame is free. -/
def switchPage (p no tier : Nat) (s : State) : State :=
  let s := if tier = 2 ∧ ((s.range p).page no).st = .t3 then t2Write p no 0xFFFF s else s
  modRange p (fun r =>
    { r.modPage no (fun g => { g with st := if tier = 2 then .t2 else .t3, dirty := 0, copy := none, errs := [] }) with
      t1 := memSplice [] r.t1 (no * pageSize) pageSize
      t2 := if tier = 2 then r.t2 else memSplice [] r.t2 (no * pageSize) pageSize }) s

/-- One more page migrated in this frame (R229). -/
def migrated (s : State) : State := { s with tier := { s.tier with migrPages := satTo 0xFFFF (s.tier.migrPages + 1) } }

/-! ## Frames of the T1 share (R204, R206, R212) -/

/-- The pages that the policy may demote, least recently accessed first (R212). -/
def Range.victims (r : Range) : List Page :=
  sortBy (fun a b => decide (a.lastAcc < b.lastAcc)) (r.pages.filter fun g => g.st.inT1 && !g.held && g.copy.isNone)

/-- The tier that a policy demotion takes (R212). -/
def policyTier (s : State) (p : Nat) (g : Page) : Nat :=
  if bit s.tier.cfgEff 1 && (g.st.inT2 || decide ((s.range p).t2Used < (s.range p).t2Pages)) then 2 else 3

/-- A demotion of a page with no dirty bit to its reference copy writes nothing. -/
def Page.clean (g : Page) (tier : Nat) : Bool := g.st.refTier == tier && g.dirty == 0

/-- Demote the first of these pages that can be: at once where nothing is written, else its copy begins. -/
def demoteFirst (p : Nat) : List Page → State → Got × State
  | [], s => (.refuse .quota, s)
  | g :: gs, s =>
    let t := policyTier s p g
    if g.clean t then (.ready, migrated (switchPage p g.no t s))
    else
      match beginDown p g.no t true none s with
      | (.refuse _, s) => demoteFirst p gs s
      | (_, s) => (.wait, s)

/-- Make a frame free for a page (R204): one is free, or the policy demotes a page. Refused: every frame is pinned, or no tier takes one. -/
def freeFrame (p : Nat) (s : State) : Got × State :=
  let r := s.range p
  if 0 < r.free then (.ready, s)
  else if r.pages.any fun g => g.st.inT1 && !g.held && g.copy.isSome then (.wait, s)
  else demoteFirst p r.victims s

/-- Begin a promotion of a page in T2 or T3 (R208): it has a frame from then on. -/
def beginUp (p no : Nat) (policy : Bool) (work : Option Nat) (s : State) : Got × State :=
  if ((s.range p).page no).copy.isSome then (.wait, s)
  else
    match freeFrame p s with
    | (.ready, s) =>
      let s := modPage p no (fun g => { g with copy := some ⟨1, policy, 0, 0, work, 0, false⟩ }) s
      (.ready, if ((s.range p).page no).st = .t3 then askPage p no s else t2Read p (no * pageSize) pageSize s)
    | x => x

/-- Begin a promotion that no work item waits for. -/
def promote (p no : Nat) (s : State) : State :=
  match ((s.range p).page no).st with
  | .t2 => (beginUp p no true none s).2
  | .t3 => (beginUp p no true none s).2
  | _ => s

/-- A page comes into the frame that it has (R208). -/
def landPage (p no : Nat) (s : State) : State :=
  let a := no * pageSize
  modRange p (fun r =>
    let src := match (r.page no).st with | .t2 => r.t2 | .t3 => r.t3 | _ => []
    let up (st : PState) : PState := match st with | .t2 => .t1OverT2 | .t3 => .t1OverT3 | _ => .t1Only
    { r.modPage no (fun g => { g with st := up g.st, dirty := 0, copy := none }) with t1 := memSplice src r.t1 a pageSize }) s

/-- A page is needed in T1: an unwritten page gets a frame of zeros (R204), a page in T2 or T3 is promoted. -/
def intoT1 (p no : Nat) (s : State) : Got × State :=
  let g := (s.range p).page no
  if g.st.inT1 then (.ready, s)
  else if g.st = .unwritten then
    match freeFrame p s with
    | (.ready, s) => (.ready, landPage p no s)
    | x => x
  else if g.st = .t3 && s.flash.badPage p no then (.refuse .flashUnrecoverable, s)
  else
    match beginUp p no true none s with
    | (.ready, s) => (.wait, s)
    | x => x

/-- Every page of a list is needed in T1. -/
def allIntoT1 (p : Nat) : List Nat → State → Got × State
  | [], s => (.ready, s)
  | no :: ns, s =>
    match intoT1 p no s with
    | (.ready, s) => allIntoT1 p ns s
    | x => x

/-! ## Write-back writes (R203 to R205, R226) -/

/-- A write-back write of host software, FABRIC_COPY or the fabric: into T1, setting the dirty bits. A word that it covers in part is
read first; where that fails, the write is not performed. -/
def writeBack (p a : Nat) (bs : List Byte) (s : State) : Got × State :=
  let n := bs.length
  match allIntoT1 p (blocksIn pageSize a n) s with
  | (.ready, s) =>
    if (blocksIn pageSize a n).any fun no => ((s.range p).page no).copy.any (·.hold) then (.wait, s)
    else
      match readWords p a n 1 (fun x => !(decide (a ≤ x) && decide (x + 64 ≤ a + n))) s with
      | (some st, s) => (.refuse st, s)
      | (none, s) =>
        let one (r : Range) (no : Nat) : Range :=
          r.modPage no fun g =>
            { g with
              dirty := if g.st = .t1Only then g.dirty else g.dirty ||| subMask no a n
              lastAcc := s.hfn
              copy := g.copy.map fun c => { c with redirty := c.redirty ||| subMask no a n }
              errs := g.errs.filter fun e => !meet a n (no * pageSize + e.word * 64) 64 }
        (.ready, modRange p (fun r => (blocksIn pageSize a n).foldl one { r with t1 := memWrite r.t1 a bs }) s)
  | x => x

/-! ## Tier work (R207 to R211, R315, R321) -/

/-- First page, number of pages, ARG of a tier descriptor. -/
def tFirst (d : List Byte) : Nat := field d 8 8 / 65536
def tPages (d : List Byte) : Nat := field d 16 4
def tArg (d : List Byte) : Nat := field d 20 1
/-- Is the page in the range of the descriptor? -/
def inTier (d : List Byte) (no : Nat) : Bool := decide (tFirst d ≤ no) && decide (no < tFirst d + tPages d)

/-- Complete a tier work item, with the status already due if there is one. -/
def endTier (w : Work) (st : Status) (s : State) : State :=
  complete w (match w.due with | some c => firstStatus [Status.ofCode c, st] | none => st) 0 (spec3 0 w.done 0) s

/-- The run of a work item begins. -/
def startWork (w : Work) (s : State) : State := modWork w.id (fun w => { w with stage := .running, aux := tFirst w.desc }) s

/-- The tier that a migration or a pin takes pages to. -/
def wantTier (d : List Byte) : Nat := if dOp d = opPin then 1 else tArg d

/-- The next page of a migration, in ascending order (R210); of a pin, the first page that is not in T1 (R207). -/
def nextPage (s : State) (w : Work) : Option Nat :=
  let r := s.range (pvOf w.fn)
  if dOp w.desc = opPin then ((List.range (tPages w.desc)).map (tFirst w.desc + ·)).find? fun no => !(r.page no).st.inT1
  else ((r.pages.filter fun g =>
    inTier w.desc g.no && decide (w.aux ≤ g.no) && g.st != .unwritten && g.st.tier != tArg w.desc).map (·.no)).min?

/-- Set the pin of every page of a descriptor's range. -/
def setPins (p : Nat) (d : List Byte) (on : Bool) (s : State) : State :=
  modRange p (fun r => { r with pages := mapIf (fun g => inTier d g.no) (fun g => { g with pinned := on }) r.pages }) s

/-- Begin the next page of a work item. -/
def beginPage (w : Work) (no : Nat) (s : State) : Got × State :=
  let p := pvOf w.fn
  let g := (s.range p).page no
  if g.copy.isSome then (.wait, s)
  else if wantTier w.desc ≠ 1 then
    if g.clean (tArg w.desc) then (.ready, modWork w.id (fun w => { w with done := w.done + 1 }) (migrated (switchPage p no (tArg w.desc) s)))
    else beginDown p no (tArg w.desc) false (some w.id) s
  else if g.st = .unwritten then intoT1 p no s
  else beginUp p no false (some w.id) s

/-- Go on with a migration or a pin: pages that need no copy at once, then the next copy, or the end of the work. While a page of it is
being copied it waits. -/
def tierGo : Nat → Nat → State → State
  | 0, _, s => s
  | fuel + 1, wid, s =>
    match s.work wid with
    | none => s
    | some w =>
      let p := pvOf w.fn
      let pin := dOp w.desc == opPin
      if (s.range p).pages.any fun g => g.copy.any fun c => c.work == some wid then s
      else if pin && w.due.isSome then endTier w .ok s
      else match nextPage s w with
        | some no =>
          match beginPage w no s with
          | (.ready, s) => tierGo fuel wid (modWork wid (fun w => { w with aux := no + 1 }) s)
          | (.wait, s) => s
          | (.refuse st, s) => endTier w st s
        | none => if pin then endTier { w with done := tPages w.desc } .ok (setPins p w.desc true s) else endTier w .ok s
def tierNext (wid : Nat) (s : State) : State := tierGo (((s.work wid).map fun w => tPages w.desc).getD 0 + 1) wid s

/-- The flush of one page (R211): whether the pool had room, and the state. Words that cannot be read are skipped (R226). -/
def flushPage (p : Nat) (durable : Bool) (wid no : Nat) (s : State) : Bool × State :=
  let g := (s.range p).page no
  let skip := badSubs s p g
  let note (s : State) : State := modWork wid (fun w =>
    { w with done := w.done + 1, due := if skip = 0 then w.due else some Status.memUncorrectable.code }) s
  let clean (s : State) : State := modPage p no (fun g => { g with dirty := g.dirty &&& skip }) s
  let down (us : List Nat) (after : State → State) : Bool × State :=
    if migRoom s no us then (true, note (after (copyDown p no us (some wid) none s))) else (false, s)
  match g.st with
  | .t1OverT3 => if g.dirty = 0 then (true, s) else down (dirtyUnits g) clean
  | .t1OverT2 =>
    if durable then down [0, 1, 2, 3] id
    else if g.dirty = 0 then (true, s)
    else (true, note (clean (t2Write p no (g.dirty &&& (0xFFFF ^^^ skip)) (readSubs p no g.dirty s))))
  | .t1Only => if durable then down [0, 1, 2, 3] id else (true, s)
  | .t2 => if durable then down [0, 1, 2, 3] id else (true, s)
  | _ => (true, s)

/-- Go on with a flush (R211, R252): pages in ascending order while the pool has room; it completes when its last write group has
committed. -/
def flushGo (wid : Nat) (s : State) : State :=
  match s.work wid with
  | none => s
  | some w =>
    let p := pvOf w.fn
    let nos := sortBy (fun a b => decide (a < b)) (((s.range p).pages.filter fun g => inTier w.desc g.no && decide (w.aux ≤ g.no)).map (·.no))
    let (all, s) := nos.foldl (fun (x : Bool × State) no =>
      if x.1 then
        match flushPage p (tArg w.desc = 1) wid no x.2 with
        | (true, s) => (true, modWork wid (fun w => { w with aux := no + 1 }) s)
        | (false, s) => (false, s)
      else x) (true, s)
    if all && !s.flash.pool.any (·.work == some wid) then
      match s.work wid with
      | some w => complete w ((w.due.map Status.ofCode).getD .ok) 0 (spec3 0 w.done 0) s
      | none => s
    else s

/-- Every running tier work item that can go on does. -/
def tierAll (s : State) : State :=
  (s.works.filter fun w => w.fn.val != 0 && w.stage == .running).foldl (fun s w =>
    if dOp w.desc = opFlush then flushGo w.id s
    else if dOp w.desc = opMigrate ∨ dOp w.desc = opPin then tierNext w.id s
    else s) s

end Sys2Proof.Machine
end

