-- ==== Sys2Proof/Machine/Flash.lean ====
section
/-! DEFINITION. The flash store: replay, write groups, commits, garbage collection, failures, checkpoints, warnings
(R232 to R267). -/

namespace Sys2Proof.Machine

/-- Change the flash state. -/
def modFlash (g : Flash → Flash) (s : State) : State := { s with flash := g s.flash }
/-- Change a block. -/
def Flash.modBlock (f : Flash) (b : Nat) (g : FBlock → FBlock) : Flash := { f with blocks := mapIf (·.id == b) g f.blocks }
/-- Change a NAND die. -/
def Flash.modDie (f : Flash) (d : Nat) (g : Nand → Nand) : Flash := { f with dies := mapIf (·.id == d) g f.dies }
/-- The flash store serves: the node runs and replay has completed. -/
def State.flashUp (s : State) : Bool := s.live && s.flash.replayed && !s.flushing

/-! ## Warnings (R264) -/

/-- Post FLASH_HEALTH_WARN: at most one per cause in 50,000 frames, but UNRECOVERABLE and DIE_RETIRED each time. -/
def warn (cause : Nat) (tail : List Byte) (s : State) : State :=
  if cause = 5 ∨ cause = 6 ∨ !(s.flash.posted.any fun x => x.1 == cause && decide (s.hfn < x.2 + 50000)) then
    nodeEvent evFlashWarn (leBytes 1 cause ++ tail)
      (modFlash (fun f => { f with posted := (f.posted.filter fun x => x.1 != cause) ++ [(cause, s.hfn)] }) s)
  else s

/-- The 48-bit LUA of R236. -/
def Lua.bits (u : Lua) : Nat := u.unit % 2 ^ 40 + u.pv * 2 ^ 40 + u.space * 2 ^ 44

/-- Channels of a storage die that have a die in use. -/
def Flash.liveChannels (f : Flash) (sd : Nat) : Nat :=
  (dedupKeep ((f.dies.filter fun d => d.sd == sd && !d.retired).map (·.channel))).length
/-- A storage die can form a band of 16 distinct channels (R246). -/
def Flash.bandOk (f : Flash) (sd : Nat) : Bool := decide (16 ≤ f.liveChannels sd)

/-- The wear band of a P/E count (R248). -/
def Flash.band (f : Flash) (pe : Nat) : Nat :=
  if pe * 4 < f.rated then 0 else if pe * 2 < f.rated then 1 else if pe * 10 < f.rated * 9 then 2 else 3
/-- Mean P/E count of the native blocks. -/
def Flash.meanPe (f : Flash) : Nat := sumNat ((f.blocks.filter fun b => !b.slc).map (·.pe)) / max 1 f.total

/-- The warnings that depend on the count of free blocks and on wear (R264). Below one band of free blocks no garbage collection
makes progress (log 22). -/
def checkHealth (s : State) : State :=
  let f := s.flash
  let s := if f.free * 1024 < fld f.warnEff 7 0 * f.total then warn 1 [] s else s
  let b := f.band f.meanPe
  let s := if f.wearBand < b then warn 2 [] s else s
  let s := modFlash (fun f => { f with wearBand := b }) s
  let ro := (List.range 2).all (fun sd => !f.bandOk sd) || decide (f.free < 16)
  let s := if ro && !f.readOnly then warn 7 [] s else s
  modFlash (fun f => { f with readOnly := ro }) s

/-! ## Bring-up and replay (R213, R232 to R234, R254) -/

/-- A command to a NAND die (R233). -/
def nandCmd (die : Nat) (what : String) (arg : Nat) (s : State) : State := emit (.nand die what arg []) s

/-- The initialisation of a die (R233): on-die ECC off, the interface switched to NV-LPDDR4, calibration and training. -/
def initDie (s : State) (die : Nat) : State :=
  ["RESET", "READ ID", "READ PARAMETER PAGE", "SET FEATURES", "ZQ CALIBRATION LONG", "DCC TRAINING", "READ DQ TRAINING",
    "WRITE DQ TRAINING"].foldl (fun s c => nandCmd die c 0 s) s

/-- The parameter page of die 0 of FC0 (R234). -/
def refPage (ds : List DieIn) : Option ParamPage := (ds.find? (·.channel == 0)).map (·.page)

/-- The die may be used (R233, R234): its page names the same part as that of die 0 of FC0, the profile knows it, its spare area is wide
enough. -/
def dieFits (ds : List DieIn) (d : DieIn) : Bool :=
  d.profiled && decide (2048 ≤ d.page.spare) &&
  match refPage ds with
  | some r => d.page.maker == r.maker && d.page.model == r.model && d.page.planes == r.planes && d.page.blocks == r.blocks &&
      d.page.pages == r.pages && d.page.spare == r.spare && d.page.timing == r.timing
  | none => false

/-- The channels of a storage die (FC0 to FC31 of SC0, FC32 to FC63 of SC1: R11) that R232 lets the ZN32 use: 32 or 16 that hold the same
number of dies, the number that uses most dies (log 23). -/
def useChannels (ds : List DieIn) (sd : Nat) : List Nat :=
  let mine := ds.filter fun d => d.sd == sd && d.channel / 32 == sd && dieFits ds d
  let chans := dedupKeep (mine.map (·.channel))
  let cnt (c : Nat) : Nat := (mine.filter (·.channel == c)).length
  let pick (k : Nat) : List Nat :=
    let cs := chans.filter fun c => cnt c == k
    if 32 ≤ cs.length then cs.take 32 else if 16 ≤ cs.length then cs.take 16 else []
  (List.range 16).foldl (fun best i => if best.length * (best.headD 0 |> cnt) < (pick (i + 1)).length * (i + 1) then pick (i + 1) else best) []

/-- The dies in use. -/
def useDies (ds : List DieIn) : List Nand :=
  let ok := useChannels ds 0 ++ useChannels ds 1
  ((ds.zipIdx.filter fun x => dieFits ds x.1 && ok.contains x.1.channel).map fun x => ⟨x.2, x.1.sd, x.1.channel, 0, false, 0⟩)

/-- Blocks of a die. -/
def dieBlocks (a : ArrayIn) : Nat := ((refPage a.dies).map fun r => r.planes * r.blocks).getD 0

/-- The checkpoint that begins at a frame boundary captures the map as it stands (R253). -/
def Flash.capture (f : Flash) (hfn : Frame) (from_ : Nat) : Root :=
  ⟨(f.root.map (·.no)).getD 0 + 1, hfn, from_, f.map, (f.blocks.filter (·.st == .opened)).map (·.id)⟩

/-- The FTL after replay. -/
def Flash.replay (a : ArrayIn) (hfn : Frame) (f : Flash) : Flash :=
  let ds := useDies a.dies
  let total := ds.length * dieBlocks a
  let kept := ds.map fun d => match f.dies.find? (·.id == d.id) with | some o => { d with retired := o.retired, temp := o.temp } | none => d
  { f with
    dies := kept
    channels := (dedupKeep (ds.map (·.channel))).length
    dieMismatch := a.dies.any fun d => !dieFits a.dies d
    rated := a.rated
    blocksPerDie := dieBlocks a
    pagesPerBlock := ((refPage a.dies).map (·.pages)).getD 0
    slcPages := a.slcPages
    wlPages := a.wlPages
    spare := ((refPage a.dies).map (·.spare)).getD 0
    suspendOk := a.suspend
    rawGib := ds.length * a.gibPerDie
    reservedGib := a.reservedGib
    free := if f.total = 0 then total - a.reservedBlocks else f.free
    total := total
    opLock := true
    regionErased := a.regionErased
    regionNeed := a.regionNeed
    regionOk := decide (a.regionNeed ≤ a.regionErased)
    ckpt := some (f.capture hfn f.nextGseq)
    replayed := true }

/-- The storage dies bring the array up, and the FTL replays its state after a reset (R254): the map then names only real groups, and it
takes a checkpoint. -/
def doReplay (a : ArrayIn) (s : State) : State :=
  if s.live && !s.flash.replayed then
    checkHealth (modFlash (Flash.replay a s.hfn) ((List.range a.dies.length).foldl initDie s))
  else s

/-! ## The page format (R235, R236, R244, R265) -/

/-- The content of a unit: as it was written to the pool, or for a copy of a committed unit as flash holds it. The spec gives no byte
layout to the units of spaces 1 to 3 (log 151). -/
def unitBytes (s : State) (x : PoolUnit) : List Byte :=
  if x.src.isSome && x.lua.space == 0 then memRead (s.range x.lua.pv).dur (x.lua.unit * unitSize) unitSize
  else memRead x.cells (x.lua.unit * unitSize) unitSize

/-- The user area of a unit's page: each codeword encrypted under its own tweak, with the key of the pavilion or, for space 3, of the node. -/
def cipherOf (u : Lua) (bs : List Byte) : List Byte :=
  (List.range 16).flatMap fun j => Config.xts (if u.space < 3 then some u.pv else none) (u.bits * 16 + j) (slice bs (1024 * j) 1024)

/-- The LUA of a pad page. -/
def padLua : Lua := ⟨15, 0, 0⟩

/-- The page summary of a data page. -/
def PageSum.bytes (x : PageSum) : List Byte :=
  leBytes 6 x.lua.bits ++ leBytes 1 x.pos ++ leBytes 1 x.mode ++ leBytes 8 x.gseq ++ leBytes 8 x.hfn ++ leBytes 1 (twos 8 x.temp) ++ zeros 1 ++
    leBytes 2 x.stripe ++ leBytes 5 (x.src.getD 0xFFFFFFFFFF) ++ zeros 95

/-- A NAND page: 16 codewords of 1,024 user bytes, 8 metadata bytes and their parity, and spare bytes of 0xFF. -/
def nandPage (spare : Nat) (user summary : List Byte) : List Byte :=
  ((List.range 16).flatMap fun j =>
    let w := slice user (1024 * j) 1024 ++ slice summary (8 * j) 8
    w ++ padTo 120 (Config.ldpc w)) ++ List.replicate (spare - 2048) 0xFF#8

/-- The pool unit of a page of a group. -/
def FPage.poolUnit (p : FPage) (s : State) : Option PoolUnit := p.unit.bind fun id => s.flash.pool.find? (·.id == id)

/-- The user area of a data page of a group as it is programmed. -/
def FPage.user (p : FPage) (s : State) : List Byte :=
  match p.poolUnit s with
  | some x => cipherOf x.lua (unitBytes s x)
  | none => zeros unitSize

/-- The stripe record, or in the group's last stripe the commit record (R244, R250). -/
def stripeRecord (g : WGroup) (i : Nat) (x : Stripe) (s : State) : List Byte :=
  let last := i + 1 == g.stripes.length
  let mask := sumNat (x.pages.zipIdx.map fun (p, j) => if p.unit.isNone then 2 ^ j else 0)
  let luas := (x.pages.take 15).flatMap fun p => leBytes 6 (((p.poolUnit s).map (·.lua)).getD padLua).bits
  let b := leBytes 8 g.gseq ++ leBytes 2 i ++ leBytes 2 (if last then g.stripes.length else 0) ++ leBytes 1 (if last then 0xC3 else 0x5A) ++
    leBytes 1 g.gkind ++ leBytes 2 mask ++ luas
  b ++ leBytes 4 (crc32c b) ++ zeros 18

/-- The bytes that a program writes: a data page, or the XOR page of its stripe. -/
def progBytes (g : WGroup) (i pos : Nat) (x : Stripe) (sum : PageSum) (s : State) : List Byte :=
  if pos = 15 then
    let user := x.pages.foldl (fun m p => List.zipWith (· ^^^ ·) m (p.user s)) (zeros unitSize)
    nandPage s.flash.spare user (stripeRecord g i x s)
  else nandPage s.flash.spare ((x.pages[pos]?.map fun p => p.user s).getD []) sum.bytes

/-! ## Write groups (R237, R242 to R245, R250) -/

/-- The pool class that a GKIND takes. -/
def kindTakes (k : Nat) (c : PoolCls) : Bool :=
  match c with
  | .update => k == 0
  | .migration => k == 0
  | .gc => k == 1
  | .ckpt => k == 2

/-- Blocks of the SLC cache in use (R242). -/
def Flash.slcUsed (f : Flash) : Nat := (f.blocks.filter fun b => b.slc && (b.st == .opened || b.st == .closed)).length

/-- The NAND die of a block. -/
def Flash.blockDie (f : Flash) (blk : Nat) : Nat := blk / max 1 f.blocksPerDie
/-- Pages that a block gives in its mode. -/
def Flash.blockPages (f : Flash) (slc : Bool) : Nat := if slc then f.slcPages else f.pagesPerBlock

/-- The block can be taken from the free ones for a storage die's group. -/
def Flash.canOpen (f : Flash) (sd blk : Nat) : Bool :=
  (f.blocks.all fun b => b.id != blk || b.st == .erased) && f.dies.any fun d => d.id == f.blockDie blk && d.sd == sd && !d.retired

/-- The band that a group is to be written to (R244): 16 blocks of one mode on distinct channels of the storage die, all at one page. -/
def Flash.bandFits (f : Flash) (g : FGroupIn) : Bool :=
  let chan (blk : Nat) : Option Nat := (f.dies.find? fun d => d.id == f.blockDie blk && d.sd == g.sd && !d.retired).map (·.channel)
  let next (blk : Nat) : Option Nat := if g.newBlocks.contains blk then some 0
    else (f.blocks.find? fun b => b.id == blk && b.st == .opened && b.slc == g.slc).map (·.next)
  let from_ := (next (g.band.headD 0)).getD 0
  g.band.length == 16 && g.band.all (fun b => (chan b).isSome && next b == some from_) && (dedupKeep (g.band.map chan)).length == 16 &&
  g.newBlocks.all (fun b => g.band.contains b && f.canOpen g.sd b) && (dedupKeep g.newBlocks).length == g.newBlocks.length &&
  decide (from_ + g.stripes.length ≤ f.blockPages g.slc) &&
  (g.slc || (from_ % max 1 f.wlPages == 0 && g.stripes.length % max 1 f.wlPages == 0))

/-- May the group be opened (R240, R242 to R244, R250)? Copies for garbage collection have been read. A group in native blocks may end with
stripes of pad pages. -/
def Flash.groupOk (f : Flash) (g : FGroupIn) : Bool :=
  let ids := g.stripes.flatten
  let us := f.pool.filter fun u => ids.contains u.id
  let open_ := f.pool.filter (·.group.isSome)
  inRange 1 g.stripes.length 64 && g.stripes.all (fun x => decide (x.length ≤ 15) && (!x.isEmpty || !g.slc)) && !ids.isEmpty &&
  decide (ids.length = us.length) && (dedupKeep ids).length == ids.length &&
  us.all (fun u => u.sd == g.sd && u.group.isNone && kindTakes g.gkind u.cls && !open_.any (·.lua == u.lua) &&
    !(u.src.isSome && f.ops.any fun o => o.what == .gc && o.lua == u.lua)) &&
  (dedupKeep (us.map (·.lua))).length == us.length &&
  f.bandFits g && decide (g.newBlocks.length ≤ f.free) && f.bandOk g.sd && !f.readOnly &&
  (!g.slc || g.gkind == 2 || g.newBlocks.isEmpty || decide (f.slcUsed + g.newBlocks.length ≤ f.budget))

/-- Open a block: an erased one keeps its P/E count. Checkpoint groups take theirs from the reserved region, outside the free blocks. -/
def Flash.openBlock (slc res : Bool) (hfn : Frame) (f : Flash) (blk : Nat) : Flash :=
  let die := f.blockDie blk
  let t := ((f.dies.find? (·.id == die)).map (·.temp)).getD 0
  let old := f.blocks.find? (·.id == blk)
  let b : FBlock := ⟨blk, die, slc, .opened, (old.map (·.pe)).getD 0, [], hfn, hfn, t, t, hfn, none, false, false, 0⟩
  { f with free := if res then f.free else f.free - 1, blocks := (f.blocks.filter (·.id != blk)) ++ [b] }

/-- A block takes `n` pages more; with its last page it closes. -/
def Flash.takePages (n : Nat) (f : Flash) (blk : Nat) : Flash :=
  f.modBlock blk fun b => { b with next := b.next + n, st := if f.blockPages b.slc ≤ b.next + n then .closed else b.st }

/-- The class of R237 and the pavilion of a page's program. -/
def PoolUnit.opClass (x : PoolUnit) : Nat := match x.cls with | .update => 3 | .ckpt => 3 | .gc => 4 | .migration => 5
def PoolUnit.charged (x : PoolUnit) : Option Nat := match x.cls with | .update => some x.lua.pv | .migration => some x.lua.pv | _ => none
/-- Those of a page that holds no unit: of the most urgent unit of the group. -/
def WGroup.opClass (g : WGroup) (s : State) : Nat :=
  ((g.stripes.flatMap fun x => x.pages.filterMap fun p => (p.poolUnit s).map (·.opClass)).min?).getD 4

/-- Ask for the program of a page of a group. -/
def askProgram (g : WGroup) (i pos : Nat) (x : Stripe) (s : State) : State :=
  let blk := if pos = 15 then x.xorBlock else ((x.pages[pos]?).map (·.block)).getD 0
  let u := (x.pages[pos]?).bind fun p => p.poolUnit s
  addOp ((u.map (·.opClass)).getD (g.opClass s)) (u.bind (·.charged)) (.prog g.gseq i pos) ((u.map (·.lua)).getD padLua)
    (s.flash.blockDie blk) (blk * s.flash.pagesPerBlock + x.page) 0 16 s

/-- The program of every data page of the stripes of a group, pad pages among them. -/
def askGroup (g : WGroup) (s : State) : State :=
  g.stripes.zipIdx.foldl (fun s (x, i) => (List.range 15).foldl (fun s pos => askProgram g i pos x s) s) s

/-- Open a write group (R250): GSEQ is assigned, its units leave the queue, and its programs are asked for. -/
def openGroup (s : State) (g : FGroupIn) : State :=
  let f := s.flash
  if f.groupOk g then
    let f := g.newBlocks.foldl (Flash.openBlock g.slc (g.gkind == 2) s.hfn) f
    let from_ := ((f.blocks.find? (·.id == g.band.headD 0)).map (·.next)).getD 0
    let ids := g.stripes.flatten
    let stripe (us : List Nat) (i : Nat) : Stripe :=
      ⟨(List.range 15).map fun j =>
        let blk := g.band.getD j 0
        ⟨us[j]?, blk, blk * f.pagesPerBlock + from_ + i, false⟩, g.band.getD 15 0, false, false, from_ + i⟩
    let w : WGroup := ⟨f.nextGseq, g.gkind, g.sd, g.slc, g.stripes.zipIdx.map fun (us, i) => stripe us i⟩
    let f := g.band.foldl (Flash.takePages g.stripes.length) f
    askGroup w { s with flash := { f with
      groups := f.groups ++ [w]
      nextGseq := f.nextGseq + 1
      pool := mapIf (fun u => ids.contains u.id) (fun u => { u with group := some f.nextGseq }) f.pool } }
  else s

/-- Change a stripe of a group. -/
def Flash.modStripe (f : Flash) (q i : Nat) (g : Stripe → Stripe) : Flash :=
  { f with groups := mapIf (·.gseq == q) (fun x => { x with stripes := modifyAt x.stripes i g }) f.groups }

/-- A program of a page reports success (R245, R247): position 15 is the XOR page, issued once every data page has succeeded. -/
def Stripe.program (pos : Nat) (x : Stripe) : Stripe :=
  if pos = 15 then { x with xorDone := x.xorDone || x.xorIssued }
  else
    let ps := modifyAt x.pages pos fun p => { p with done := true }
    { x with pages := ps, xorIssued := x.xorIssued || ps.all (·.done) }

/-- An operation runs for this purpose; operations for it are ended. -/
def Flash.runs (f : Flash) (what : FFor) : Bool := f.ops.any fun o => o.what == what && o.st == .running
def Flash.endOps (f : Flash) (sel : FOp → Bool) : Flash := { f with ops := f.ops.filter fun o => !sel o }

/-- PROGRAM_COMPLETE: the program that runs for this page has succeeded; the stripe's last data page asks for the XOR page. -/
def doProgram (q i pos : Nat) (s : State) : State :=
  match s.flash.groups.find? (·.gseq == q) with
  | none => s
  | some g =>
    match g.stripes[i]? with
    | none => s
    | some x =>
      if s.flashUp && s.flash.runs (.prog q i pos) && (x.program pos != x) then
        let blk := if pos = 15 then x.xorBlock else ((x.pages[pos]?).map (·.block)).getD 0
        let die := s.flash.blockDie blk
        let t := ((s.flash.dies.find? (·.id == die)).map (·.temp)).getD 0
        let s := nandCmd die "READ STATUS ENHANCED" (blk * s.flash.pagesPerBlock + x.page) s
        let s := modFlash (fun f => ((((f.endOps (·.what == .prog q i pos)).modStripe q i (Stripe.program pos)).modBlock blk fun b =>
          { b with hfn1 := s.hfn, t1 := t }).modDie die fun d => { d with fails := 0 })) s
        let s := count none 3 5 1 (modFlash (fun f => { f with sinceCkpt := f.sinceCkpt + (if g.gkind = 2 then 0 else 1) }) s)
        if (x.program pos).xorIssued && !x.xorIssued then askProgram g i 15 x s else s
      else s

/-- A closed block without a valid unit may be erased once a checkpoint covers the map as it now stands (R255). -/
def Flash.markErasable (hfn : Frame) (f : Flash) : Flash :=
  let busy := f.groups.flatMap fun g => g.stripes.flatMap fun x => x.xorBlock :: x.pages.map (·.block)
  let can (b : FBlock) : Bool := b.st == .closed && !busy.contains b.id && b.valid.isEmpty && b.erasable.isNone && !b.erasing
  { f with blocks := mapIf can (fun b => { b with erasable := some hfn }) f.blocks }

/-- Is every stripe of a group programmed, its commit record with the last one (R250)? -/
def WGroup.full (g : WGroup) : Bool := g.stripes.all (·.xorDone)

/-- One page of a committed group: the map is updated, unless a copy's source is no longer current (R258). -/
def commitPage (gkind : Nat) (s : State) (p : FPage) : State :=
  match p.unit.bind fun id => s.flash.pool.find? (·.id == id) with
  | none => s
  | some x =>
    let s := if gkind = 1 ∧ s.flash.entry x.lua ≠ (x.src.map MapEnt.at_) then s else commitUnit x p.pun p.block s
    let s := if gkind = 1 then count none 3 7 1 s else s
    modFlash (fun f => { f with pool := f.pool.filter (·.id != x.id) }) s

/-- WRITE_GROUP_COMMIT (R250, R252): the commit record is programmed, the map is updated, the pool copies are released, and what
waited for the commit completes. -/
def doCommit (q : Nat) (s : State) : State :=
  match s.flash.groups.find? (·.gseq == q) with
  | none => s
  | some g =>
    if s.flashUp && g.full then
      let s := (g.stripes.flatMap (·.pages)).foldl (commitPage g.gkind) s
      tierAll (modFlash (fun f => (({ f with groups := f.groups.filter (·.gseq != q) } : Flash).markErasable s.hfn)) s)
    else s

/-! ## Failures (R246, R259, R260, R264) -/

/-- The operation is a read. -/
def FOp.isRead (o : FOp) : Bool := match o.what with | .prog .. => false | .erase _ => false | _ => true

/-- Retire a die (R246): it gets no further operations, and its units are to be rewritten; a read of one of its pages is a rebuild from
the stripe, on the other dies. -/
def doRetire (die : Nat) (s : State) : State :=
  match s.flash.dies.find? (·.id == die) with
  | none => s
  | some d =>
    if s.flashUp && !d.retired then
      let s := modFlash (fun f =>
        let f := f.modDie die fun d => { d with retired := true }
        { f with blocks := mapIf (·.die == die) (fun b => { b with due := true }) f.blocks
                 ops := mapIf (fun o => o.die == die && o.isRead) (fun o => { o with st := .running }) f.ops }) s
      checkHealth (count none 3 10 1 (warn 6 (zeros 7 ++ leBytes 2 die) s))
    else s

/-- A failed operation of a die: three in a row retire it (R246). -/
def failDie (die : Nat) (s : State) : State :=
  let s := modFlash (fun f => f.modDie die fun d => { d with fails := d.fails + 1 }) s
  if s.flash.dies.any fun d => d.id == die && decide (3 ≤ d.fails) then doRetire die s else s

/-- The programs of a group's data pages that have to be made again. -/
def askRedo (q : Nat) (hit : Stripe → Bool) (s : State) : State :=
  match s.flash.groups.find? (·.gseq == q) with
  | none => s
  | some g => g.stripes.zipIdx.foldl (fun s (x, i) =>
    if hit x then x.pages.zipIdx.foldl (fun s (p, j) => if p.done then s else askProgram g i j x s) s else s) s

/-- A page program fails (R259, R260): the block is retired after a rewrite of its committed units; a fresh block of the same mode on a die
of the same channel takes its place in the band, and the open group's pages that lay in it are programmed again. -/
def doProgramFail (gc : Bool) (q blk new die : Nat) (s : State) : State :=
  match s.flash.groups.find? (·.gseq == q) with
  | none => s
  | some g =>
    let hit (x : Stripe) : Bool := x.xorBlock == blk || x.pages.any (·.block == blk)
    let mine (o : FOp) : Bool := match o.what with
      | .prog q' i pos => q' == q && (match g.stripes[i]? with
          | some x => if pos = 15 then x.xorBlock == blk else ((x.pages[pos]?).map (·.block)) == some blk
          | none => false)
      | _ => false
    let chan (d : Nat) : Option Nat := (s.flash.dies.find? (·.id == d)).map (·.channel)
    let old := s.flash.blockDie blk
    if s.flashUp && (g.gkind == 1) == gc && g.stripes.any hit && (g.gkind == 2 || decide (0 < s.flash.free)) && s.flash.blockDie new == die &&
        s.flash.canOpen g.sd new && chan die == chan old then
      let redo (x : Stripe) : Stripe :=
        if hit x then
          { x with pages := mapIf (·.block == blk) (fun p => { p with block := new, pun := new * s.flash.pagesPerBlock + x.page, done := false }) x.pages,
                   xorBlock := if x.xorBlock = blk then new else x.xorBlock
                   xorIssued := x.xorIssued && !(x.pages.any (·.block == blk))
                   xorDone := false }
        else x
      let xors := g.stripes.zipIdx.filter fun x => x.1.xorBlock == blk && x.1.xorIssued
      let next := ((s.flash.blocks.find? (·.id == blk)).map (·.next)).getD 0
      let s := modFlash (fun f =>
        let f := (f.endOps mine).openBlock g.slc (g.gkind == 2) s.hfn new
        let f := (f.modBlock new fun b => { b with next := next, st := if f.blockPages b.slc ≤ next then .closed else b.st }).modBlock blk
          fun b => { b with st := .retired, due := !b.valid.isEmpty }
        { f with groups := mapIf (·.gseq == q) (fun x => { x with stripes := x.stripes.map redo }) f.groups }) s
      let s := askRedo q (fun x => x.xorBlock == new || x.pages.any (·.block == new)) s
      let s := match s.flash.groups.find? (·.gseq == q) with
        | some g => xors.foldl (fun s x => match g.stripes[x.2]? with | some y => askProgram g x.2 15 y s | none => s) s
        | none => s
      checkHealth (failDie old (count none 3 8 1 s))
    else s

/-! ## Garbage collection (R255, R257) -/

/-- GC_START: every valid unit of a closed source block is read into the pool, with the page it comes from, as far as the pool has room
(R238). -/
def doGc (blk : Nat) (s : State) : State :=
  match s.flash.blocks.find? (·.id == blk) with
  | none => s
  | some b =>
    let sd := ((s.flash.dies.find? (·.id == b.die)).map (·.sd)).getD 0
    if s.flashUp && (b.st == .closed || b.due) && !b.erasing && s.live then
      b.valid.foldl (fun s u =>
        match s.flash.entry u with
        | some (.at_ pun) =>
          if s.flash.pool.any (fun x => x.lua == u && x.src.isSome) then s
          else match gcRoom (sdOf s (some (2 * sd)) u.unit) s with
            | some s => askRead 4 .gc u 0 16 (putUnit u [] .gc (some (2 * sd)) none none (some pun) s)
            | none => s
        | _ => s) s
    else s

/-- SOURCE_ERASE: the erase of a source is asked for, once a checkpoint covers the map update (R255). -/
def doSourceErase (blk : Nat) (s : State) : State :=
  match s.flash.blocks.find? (·.id == blk) with
  | none => s
  | some b =>
    let covered := match b.erasable, s.flash.root with | some h, some r => decide (h < r.b) | _, _ => false
    if s.flashUp && b.st == .closed && b.valid.isEmpty && covered && !b.erasing then
      addOp 4 none (.erase blk) padLua b.die (blk * s.flash.pagesPerBlock) 0 0 (modFlash (fun f => f.modBlock blk fun b => { b with erasing := true }) s)
    else s

/-- ERASE_COMPLETE. -/
def doEraseDone (blk : Nat) (s : State) : State :=
  match s.flash.blocks.find? (·.id == blk) with
  | none => s
  | some b =>
    if s.flashUp && b.erasing && s.flash.runs (.erase blk) then
      checkHealth (count none 3 6 1 (modFlash (fun f =>
        let f := f.endOps (·.what == .erase blk)
        let f : Flash := { f with sums := f.sums.filter fun x => f.blockAt x.pun != blk }
        let f := f.modBlock blk fun b => { b with st := .erased, pe := b.pe + 1, erasing := false, erasable := none, due := false, next := 0 }
        let f := f.modDie b.die fun d => { d with fails := 0 }
        { f with free := f.free + 1 }) s))
    else s

/-- ERASE_FAIL: the block is retired (R260). -/
def doEraseFail (blk : Nat) (s : State) : State :=
  match s.flash.blocks.find? (·.id == blk) with
  | none => s
  | some b =>
    if s.flashUp && b.erasing && s.flash.runs (.erase blk) then
      failDie b.die (count none 3 9 1 (modFlash (fun f => (f.endOps (·.what == .erase blk)).modBlock blk fun b => { b with st := .retired, erasing := false }) s))
    else s

/-! ## Checkpoints (R253) -/

/-- A checkpoint is due: 4,096 frames, or 1 GiB of units programmed. -/
def Flash.due (hfn : Frame) (f : Flash) : Bool :=
  match f.ckpt, f.root with
  | some c, _ => decide (c.b + 4096 ≤ hfn) || decide (65536 ≤ f.sinceCkpt)
  | none, some r => decide (r.b + 4096 ≤ hfn) || decide (65536 ≤ f.sinceCkpt)
  | none, none => true

/-- REPLAY_FROM: the lowest GSEQ of a group that has not committed (R253). -/
def Flash.replayFrom (f : Flash) : Nat := (f.groups.map (·.gseq)).foldl min f.nextGseq

/-- MAP_CHECKPOINT_START: at the frame boundary that began this frame; one at a time. -/
def doCkptStart (s : State) : State :=
  if s.flashUp && s.clk.slot.isNone && s.flash.due s.hfn && s.flash.ckpt.isNone then
    modFlash (fun f => { f with ckpt := some (f.capture s.hfn f.replayFrom), sinceCkpt := 0 }) s
  else s

/-- ROOT_RECORD_COMMIT: the root record is written last, after every checkpoint group; the checkpoint then covers every map update before
its B. -/
def doRoot (s : State) : State :=
  match s.flash.ckpt with
  | some r => if s.flashUp && !s.flash.groups.any (·.gkind == 2) then modFlash (fun f => { f with root := some r, ckpt := none }) s else s
  | none => s

/-! ## Reads, ageing, polls (R243, R247 to R249, R264) -/

/-- A unit becomes unreadable (R249 step 5). -/
def unreadable (u : Lua) (s : State) : State :=
  if s.flash.entry u == some .unreadable then s
  else
    let s := modFlash (fun f => { f.setEntry u .unreadable with unrecov := satTo 0xFFFF (f.unrecov + 1) }) s
    count none 3 4 1 (warn 5 (leBytes 6 u.bits) s)

/-- The block that holds a unit. -/
def Flash.blockOf (f : Flash) (u : Lua) : Option FBlock := f.blocks.find? fun b => b.valid.contains u

/-- The steps that the codewords of a read can have ended at (R249): step 3 only where SOFT_EN is 1. -/
def Flash.stepsOk (f : Flash) (o : FOp) (steps : List Nat) : Bool :=
  steps.length == o.n && steps.all fun k => inRange 1 k 5 && (k != 3 || bit f.cfgEff 5)

/-- The copy of a unit that could not be read is given up. -/
def dropCopyOf (o : FOp) (s : State) : State :=
  if o.what = .gc then modFlash (fun f => { f with pool := f.pool.filter fun x => !(x.lua == o.lua && x.src.isSome && x.group.isNone) }) s else s

/-- A read of the array ends (R248, R249), the operation being `o`: suspended work of the LUN goes on with a later batch. -/
def readDone (o : FOp) (steps : List Nat) (s : State) : State :=
  let s := modFlash (fun f => { f.endOps (·.id == o.id) with
    winReads := f.winReads + o.n, winRetried := f.winRetried + (steps.filter (2 ≤ ·)).length,
    ageUnknown := f.ageUnknown || (match f.blocks.find? (·.id == f.blockAt o.pun) with | some b => decide (s.hfn < b.hfn0) | none => false) }) s
  let s := [1, 2, 3, 4].foldl (fun s k => let n := (steps.filter (· == k)).length; if n = 0 then s else count none 3 (k - 1) n s) s
  if steps.contains 5 then
    dropCopyOf o (if s.flash.entry o.lua = some (.at_ o.pun) then unreadable o.lua s else s)
  else
    let s := if steps.any (3 ≤ ·) then modFlash (fun f => f.modBlock (f.blockAt o.pun) fun b => { b with due := true }) s else s
    if steps.contains 4 && s.flash.entry o.lua == some (.at_ o.pun) && !(s.flash.pool.any fun x => x.lua == o.lua) then
      match gcRoom (sdOf s none o.lua.unit) s with
      | some s => putUnit o.lua [] .gc none none none (some o.pun) s
      | none => s
    else s

/-- BLOCK_AGE_CLOSE: a block open for an hour is closed, padded to its end (R243). -/
def doAgeClose (blk : Nat) (s : State) : State :=
  if s.flashUp && s.flash.blocks.any (fun b => b.id == blk && b.st == .opened && decide (b.opened + 180000000 ≤ s.hfn)) then
    modFlash (fun f => (f.modBlock blk fun b => { b with st := .closed, next := f.blockPages b.slc }).markErasable s.hfn) s
  else s

/-- FLASH_TEMP_POLL: once in 50,000 frames; blocks that the profile marks due (R247, R264). -/
def doTempPoll (temps : List Int) (due : List Nat) (s : State) : State :=
  if s.flashUp && decide (50000 ≤ s.flash.pollFrames) then
    let s := s.flash.dies.foldl (fun s d => if d.retired then s else nandCmd d.id "GET FEATURES" 0 s) s
    let s := modFlash (fun f => { f with
      pollFrames := 0
      dies := f.dies.zipIdx.map fun (d, i) => { d with temp := temps.getD i d.temp }
      blocks := mapIf (fun b => due.contains b.id) (fun b => { b with due := true }) f.blocks }) s
    if fld s.flash.warnEff 31 24 * 1024 < (s.flash.blocks.filter (·.due)).length then warn 4 [] s else s
  else s

/-- RETRY_RISE_WINDOW: the end of a window of 50,000 frames (R264). -/
def doRetryWindow (s : State) : State :=
  if s.flashUp && decide (50000 ≤ s.flash.winFrames) then
    let f := s.flash
    let s := if fld f.warnEff 23 8 * f.winReads < f.winRetried * 65536 then warn 3 [] s else s
    modFlash (fun f => { f with winReads := 0, winRetried := 0, winFrames := 0 }) s
  else s

/-! ## Registers (R266, R267) -/

/-- A write to FLASH_CFG (0), SLC_MAX (1), FLASH_WARN (2) or FLASH_STAT (3). -/
def writeFlash (reg : Nat) (v : W32) (s : State) : State :=
  let f := s.flash
  if s.bar0Up0 then
    if reg = 0 then
      let op := if f.opLock then fld f.cfg 15 8 else fld v 15 8
      if fld v 4 0 = 0 || !inRange 7 op 50 || fld v 23 16 = 0 then modFlash (fun f => { f with cfgReject := true }) s
      else modFlash (fun f => { f with cfg := (v &&& 0x00FF_007F#32) ||| put op 8 8 }) s
    else if reg = 1 then modFlash (fun f => { f with slcMax := v &&& 0xFFFF#32 }) s
    else if reg = 2 then
      if fld v 7 0 = 0 || fld v 23 8 = 0 || fld v 31 24 = 0 then modFlash (fun f => { f with cfgReject := true }) s
      else modFlash (fun f => { f with warn := v }) s
    else if reg = 3 then
      modFlash (fun f => { f with cfgReject := f.cfgReject && !bit v 0, ageUnknown := f.ageUnknown && !bit v 2 }) s
    else s
  else s

/-- FLASH_STAT. -/
def flashStat (s : State) : W32 :=
  let f := s.flash
  putB f.cfgReject 0 ||| putB f.readOnly 1 ||| putB f.ageUnknown 2 ||| putB s.pwr.flush.isSome 3 ||| putB f.regionOk 4 |||
    putB f.dieMismatch 5 ||| put f.wearBand 8 3 ||| put f.unrecov 16 16

/-- The flash part of a frame boundary: the registers, the SLC budget (R242), the region (R263), the windows. -/
def flashFrame (s : State) : State :=
  modFlash (fun f =>
    let f := { f with cfgEff := f.cfg, slcMaxEff := f.slcMax, warnEff := f.warn,
                      winFrames := f.winFrames + 1, pollFrames := f.pollFrames + 1 }
    { f with budget := min (fld f.slcMaxEff 15 0 * 1024) (f.free / 4) }) s

/-- R254. -/
def execFtlReplay (a : ArrayIn) (s : State) : Host.Outcome State Fault Refusal := .next (doReplay a s)
/-- R245. -/
def execProgramComplete (gseq stripe pos : Nat) (s : State) : Host.Outcome State Fault Refusal := .next (doProgram gseq stripe pos s)
/-- R250. -/
def execWriteGroupCommit (gseq : Nat) (s : State) : Host.Outcome State Fault Refusal := .next (doCommit gseq s)
/-- R259: a garbage-collection group. -/
def execProgramFailGc (gseq block fresh die : Nat) (s : State) : Host.Outcome State Fault Refusal :=
  .next (doProgramFail true gseq block fresh die s)
/-- R260: an update, host-data or checkpoint group, rewritten from the pool. -/
def execProgramFailUpdate (gseq block fresh die : Nat) (s : State) : Host.Outcome State Fault Refusal :=
  .next (doProgramFail false gseq block fresh die s)
/-- R260. -/
def execEraseFail (block : Nat) (s : State) : Host.Outcome State Fault Refusal := .next (doEraseFail block s)
/-- R255. -/
def execEraseComplete (block : Nat) (s : State) : Host.Outcome State Fault Refusal := .next (doEraseDone block s)
/-- R246: a die stops responding, or fails three operations in a row. -/
def execDieRetire (die : Nat) (s : State) : Host.Outcome State Fault Refusal := .next (doRetire die s)
/-- R255. -/
def execGcStart (block : Nat) (s : State) : Host.Outcome State Fault Refusal := .next (doGc block s)
/-- R255. -/
def execSourceErase (block : Nat) (s : State) : Host.Outcome State Fault Refusal := .next (doSourceErase block s)
/-- R253. -/
def execMapCheckpointStart (s : State) : Host.Outcome State Fault Refusal := .next (doCkptStart s)
/-- R253. -/
def execRootRecordCommit (s : State) : Host.Outcome State Fault Refusal := .next (doRoot s)
/-- R243. -/
def execBlockAgeClose (block : Nat) (s : State) : Host.Outcome State Fault Refusal := .next (doAgeClose block s)
/-- R247. -/
def execFlashTempPoll (temps : List Int) (due : List Nat) (s : State) : Host.Outcome State Fault Refusal :=
  .next (doTempPoll temps due s)
/-- R264. -/
def execRetryRiseWindow (s : State) : Host.Outcome State Fault Refusal := .next (doRetryWindow s)
/-- R267. -/
def execFlashCfgWrite (reg : Nat) (v : W32) (s : State) : Host.Outcome State Fault Refusal := .next (writeFlash reg v s)

end Sys2Proof.Machine
end

