-- ==== Sys2Proof/Machine/Host.lean ====
section
/-! DEFINITION. The host interface: doorbells, rings, event rings, fetch, interrupts, functions (R268 to R294). -/

namespace Sys2Proof.Machine

/-- The reset of an event ring's indices at an enable (R291). -/
def EvRing.start (e : EvRing) : EvRing := { e with tail := 0, head := 0, phase := true, modN := 0, modT := none }

/-- Identifiers, BAR sizes and ring pairs of the functions (R270). -/
def pciVendor : Nat := 0x1FD7
def pciClass : Nat := 0x120000
def pciDevice (f : Fn) : Nat := if f.val = 0 then 0x5A32 else 0x5A33
def bar0Bytes : Nat := 2 ^ 19
def bar2Bytes (f : Fn) : Nat := if f.val = 0 then 0 else 2 ^ 36
/-- The SR-IOV capability: TotalVFs and InitialVFs, First VF Offset, VF Stride (R270). -/
def sriov : Nat × Nat × Nat := (12, 1, 1)

/-- Vectors of a function (R270). -/
def vectorsOf (f : Fn) : Nat := if f.val = 0 then 16 else 64

/-- Is a write to RING_CTL or EQ_CTL outside the ranges of R293? -/
def ctlBad (f : Fn) (v : W32) : Bool :=
  decide (vectorsOf f ≤ ctlVector v) || ctlModCount v == 0 || ctlModTime v == 0

/-- BAR0 of a function answers (R270, R390). -/
def State.bar0Up (s : State) (f : Fn) : Bool := s.fnUp f

/-- The SQ doorbell (R275, R285): the range checks, and a halt where one fails. -/
def doRingDb (f : Fn) (r : Nat) (v : W32) (s : State) : State :=
  let x := s.ring f r
  let t := fld v 15 0
  if s.bar0Up f && decide (r < (s.fn f).rings.length) && x.enabled && !x.halted then
    if x.sqN ≤ t then haltRing f r 1 t s
    else if modSub t x.sqTail x.sqN ≤ (x.sqHead + 2 * x.sqN - 1 - x.sqTail) % x.sqN then
      modRing f r (fun x => { x with sqTail := t }) s
    else haltRing f r 2 t s
  else s

/-- The CQ doorbell (R280, R285). -/
def doRingCqDb (f : Fn) (r : Nat) (v : W32) (s : State) : State :=
  let x := s.ring f r
  let c := fld v 15 0
  if s.bar0Up f && decide (r < (s.fn f).rings.length) && x.enabled && !x.halted then
    if x.cqN ≤ c then haltRing f r 3 c s
    else if modSub c x.cqHead x.cqN ≤ x.unreleased then modRing f r (fun x => { x with cqHead := c }) s
    else haltRing f r 4 c s
  else s

/-- Post the EVENT_LOST that is owed after a release (R288). -/
def postLost (f : Fn) (s : State) : State :=
  let x := (s.fn f).eq
  if x.dropped = 0 then s
  else
    putEq f (eventBytes evEventLost (if f.val = 0 then 0xFF else pvOf f) s.hfn (leBytes 2 x.dropped))
      (modFn f (fun y => { y with eq := { y.eq with dropped := 0 } }) s)

/-- The event-ring doorbell (R285, R287, R288). -/
def doEqDb (f : Fn) (v : W32) (s : State) : State :=
  let x := (s.fn f).eq
  let e := fld v 15 0
  if s.bar0Up f && x.enabled then
    if x.n ≤ e || decide (x.unreleased < modSub e x.head x.n) then
      modFn f (fun y => { y with eq := { y.eq with dbReject := true } }) s
    else if modSub e x.head x.n = 0 then s
    else postLost f (modFn f (fun y => { y with eq := { y.eq with head := e } }) s)
  else s

/-- Does a write change a base address or a size while the ring is enabled, or set a size outside 6 to 16 (R293)? -/
def ringWriteBad (f : Fn) (x : Ring) (reg : Nat) (v : W32) : Bool :=
  if reg = 0 then x.enabled && bitsOf x.sqBase 31 12 != fld v 31 12
  else if reg = 1 then x.enabled && x.sqBase / 2 ^ 32 != v.toNat
  else if reg = 2 then x.enabled && bitsOf x.cqBase 31 12 != fld v 31 12
  else if reg = 3 then x.enabled && x.cqBase / 2 ^ 32 != v.toNat
  else if reg = 4 then
    (x.enabled && (fld v 4 0 != fld x.size 4 0 || fld v 12 8 != fld x.size 12 8)) ||
      !(inRange 6 (fld v 4 0) 16 && inRange 6 (fld v 12 8) 16)
  else if reg = 5 then ctlBad f v || (bit v 0 && !x.enabled && !x.quiesced)
  else false

/-- A base address with one half written. -/
def setLo (base : Nat) (v : W32) : Nat := base / 2 ^ 32 * 2 ^ 32 + fld v 31 12 * 4096
def setHi (base : Nat) (v : W32) : Nat := v.toNat * 2 ^ 32 + base % 2 ^ 32

/-- The ring after an accepted RING_CTL write: enabling resets the indices, the phase and the halt state (R284). -/
def Ring.setCtl (x : Ring) (v : W32) : Ring :=
  let c := v &&& 0xFFFF_3F07#32
  if bit v 0 && !x.enabled then
    { x with ctl := c, sqHead := 0, sqTail := 0, cqHead := 0, cqTail := 0, cqPhase := true, halted := false, haltCause := 0,
             haltIndex := 0, lostCpl := 0, modN := 0, modT := none, parked := false }
  else { x with ctl := c }

/-- An accepted write to word `reg` of a configuration block (R290). RING_STAT clears its RW1C bits; RING_PTRS is read-only. -/
def Ring.write (x : Ring) (reg : Nat) (v : W32) : Ring :=
  if reg = 0 then { x with sqBase := setLo x.sqBase v }
  else if reg = 1 then { x with sqBase := setHi x.sqBase v }
  else if reg = 2 then { x with cqBase := setLo x.cqBase v }
  else if reg = 3 then { x with cqBase := setHi x.cqBase v }
  else if reg = 4 then { x with size := v &&& 0x0000_1F1F#32 }
  else if reg = 5 then x.setCtl v
  else if reg = 6 then { x with cqStall := x.cqStall && !bit v 2, cfgReject := x.cfgReject && !bit v 3 }
  else x

/-- A write to word `reg` of a ring's configuration block (R290, R293). -/
def writeRing (f : Fn) (r reg : Nat) (v : W32) (s : State) : State :=
  if s.bar0Up f && decide (r < (s.fn f).rings.length) then
    if ringWriteBad f (s.ring f r) reg v then modRing f r (fun x => { x with cfgReject := true }) s
    else modRing f r (fun x => x.write reg v) s
  else s

/-- Is a write to an event-ring register refused (R293)? -/
def eqWriteBad (f : Fn) (e : EvRing) (reg : Nat) (v : W32) : Bool :=
  if reg = 0 then e.enabled && bitsOf e.base 31 12 != fld v 31 12
  else if reg = 1 then e.enabled && e.base / 2 ^ 32 != v.toNat
  else if reg = 2 then
    ctlBad f v || !inRange 6 (fld v 4 0) 16 || (e.enabled && fld v 4 0 != fld e.ctl 4 0)
  else false

/-- An accepted write to word `reg` of the event-ring registers (R291). -/
def EvRing.write (e : EvRing) (reg : Nat) (v : W32) : EvRing :=
  if reg = 0 then { e with base := setLo e.base v }
  else if reg = 1 then { e with base := setHi e.base v }
  else if reg = 2 then
    let c := v &&& 0xFFFF_3F7F#32
    if bit v 5 && !e.enabled then { e.start with ctl := c } else { e with ctl := c }
  else { e with dbReject := e.dbReject && !bit v 17, cfgReject := e.cfgReject && !bit v 18 }

/-- A write to word `reg` (0 to 3) of the event-ring registers. -/
def writeEq (f : Fn) (reg : Nat) (v : W32) (s : State) : State :=
  if s.bar0Up f && decide (reg < 4) then
    modFn f (fun y => { y with eq := if eqWriteBad f y.eq reg v then { y.eq with cfgReject := true } else y.eq.write reg v }) s
  else s

/-! ## Fetch (R276 to R280, R386) -/

/-- Work of a pavilion that has been fetched and not completed: queries, and update batches (R386). -/
def State.openQueries (s : State) (p : Nat) : Nat :=
  sumNat ((s.works.filter fun w => w.fn.val != 0 && pvOf w.fn == p && isSearch (dOp w.desc)).map fun w => dCount w.desc)
def State.openBatches (s : State) (p : Nat) : Nat :=
  (s.works.filter fun w => w.fn.val != 0 && pvOf w.fn == p && isUpdate (dOp w.desc)).length

/-- The ring may fetch now, its credit apart (R41, R196, R268, R282, R283, R386, R464). -/
def State.mayFetch (s : State) (f : Fn) (r : Nat) : Bool :=
  let x := s.ring f r
  s.admits && s.fnUp f && decide (r < (s.fn f).rings.length) && x.enabled && !x.halted && x.sqHead != x.sqTail &&
  (f.val == 0 ||
    (let p := pvOf f
     (match (s.corpus p).rstate with
      | .loading => false
      | .provisional => bit x.ctl 1 && !x.parked
      | .confirmed => true) &&
     decide (s.openQueries p < 4096) && decide (s.openBatches p < 64)))

/-- Completion credit (R280). -/
def Ring.credit (x : Ring) : Bool := decide (x.inFlight + x.unreleased < x.cqN - 2)

/-- The ring whose turn it is (R276): the ring of the running turn while it has descriptors left in it, else the next ring of
the function, in order, that can fetch. -/
def State.turnOf (s : State) (f : Fn) : Option Nat :=
  let x := s.fn f
  let n := x.rings.length
  let can (r : Nat) : Bool := s.mayFetch f r && (s.ring f r).credit
  if can x.rrRing && decide (x.rrTaken < 8) then some x.rrRing
  else ((List.range n).map fun i => (x.rrRing + 1 + i) % n).find? can

/-- Visits a function has in a round (R386): PF0 one, a VF `FETCH_W`. -/
def State.visitsOf (s : State) (f : Nat) : Nat := if f = 0 then 1 else fld (s.qos.weightEff.getD (f - 1) 0#32) 15 8

/-- A function has a visit left in the round, or every function that could fetch has spent its own and a new round begins. -/
def State.visitLeft (s : State) (f : Fn) : Bool :=
  decide (s.qos.visits.getD f.val 0 < s.visitsOf f.val) ||
  (List.finRange 13).all fun g => (s.turnOf g).isNone || decide (s.visitsOf g.val ≤ s.qos.visits.getD g.val 0)

/-- Count a visit that begins, opening a new round when the function has none left (R386). -/
def takeVisit (f : Fn) (s : State) : State :=
  let v := if s.qos.visits.getD f.val 0 < s.visitsOf f.val then s.qos.visits else List.replicate 13 0
  { s with qos := { s.qos with visits := modifyAt v f.val (· + 1) } }

/-- The opcode-specific bytes of a descriptor that fails before it has any effect: EPOCH of a cutover is known (R321). -/
def failSpec (d : List Byte) : List Byte := if dOp d = opCutover then spec3 0 (field d 8 4) 0 else []

/-- Complete a work item that failed. -/
def failWork (w : Work) (st : Status) (s : State) : State :=
  let s := if isUpdate (dOp w.desc) then count (some (pvOf w.fn)) 0 8 1 s else s
  complete w st 0 (failSpec w.desc) s

/-- A ring waits for completion credit (R280). -/
def noteStall (f : Fn) (r : Nat) (s : State) : State :=
  if s.mayFetch f r && !(s.ring f r).credit then modRing f r (fun x => { x with cqStall := true }) s else s

/-- Every ring that waits for completion credit at a slot boundary. -/
def noteStalls (s : State) : State :=
  ((List.finRange 13).filter fun f => (s.fn f).enabled).foldl (fun s f =>
    (List.range (s.fn f).rings.length).foldl (fun s r => noteStall f r s) s) s

/-- Copy the fetched descriptor into HA and make its checks 1 to 5 (R276, R297). -/
def takeDesc (f : Fn) (r : Nat) (d : List Byte) (s : State) : State :=
  let x := s.ring f r
  let newTurn := (s.fn f).rrRing != r || decide (8 ≤ (s.fn f).rrTaken)
  let s := if newTurn then takeVisit f s else s
  let (id, s) := fresh s
  let w : Work := ⟨id, f, r, d, bit x.ctl 1, s.hfn, .fetched, 0, 0, none⟩
  let s := modFn f (fun y => { y with rrRing := r, rrTaken := if newTurn then 1 else y.rrTaken + 1 }) s
  let s := modRing f r (fun x => { x with sqHead := (x.sqHead + 1) % x.sqN, inFlight := x.inFlight + 1, parked := false }) s
  let s := count (if f.val = 0 then none else some (pvOf f)) 0 0 1 { s with works := s.works ++ [w] }
  match descCheck (f.val == 0) (pvOf f) d with
  | some st => failWork w st s
  | none => s

/-- A descriptor fetch (R269, R276, R277, R280, R386): `got` is none for a read that failed. In a pavilion that is not CONFIRMED a descriptor
that is no search waits, and the ring with it (R196). -/
def doFetch (f : Fn) (r : Nat) (got : Option (List Byte)) (s : State) : State :=
  if s.turnOf f == some r && s.visitLeft f then
    let s := hostRead f ((s.ring f r).sqBase + 64 * (s.ring f r).sqHead) 64 s
    match got with
    | none => haltRing f r 5 (s.ring f r).sqHead s
    | some bs =>
      let d := padTo 64 bs
      if f.val != 0 && (s.corpus (pvOf f)).rstate != .confirmed && !isSearch (dOp d) then modRing f r (fun x => { x with parked := true }) s
      else takeDesc f r d s
  else noteStall f r s

/-! ## Interrupt timers and masks -/

/-- MOD_TIME slot boundaries have passed since the first unsignalled entry (R289). -/
def doModTimer (f : Fn) (ring : Option Nat) (s : State) : State :=
  match ring with
  | some r =>
    let x := s.ring f r
    match x.modT with
    | some t =>
      if ctlModTime x.irq ≤ t then fire f (ctlVector x.irq) (modRing f r (fun x => { x with modN := 0, modT := none }) s) else s
    | none => s
  | none =>
    let x := (s.fn f).eq
    match x.modT with
    | some t =>
      if ctlModTime x.irq ≤ t then
        fire f (ctlVector x.irq) (modFn f (fun y => { y with eq := { y.eq with modN := 0, modT := none } }) s)
      else s
    | none => s

/-- The host clears a vector's mask bit; a pending vector fires (R289). -/
def doUnmask (f : Fn) (v : Nat) (s : State) : State :=
  if s.bar0Up f then
    let m := (s.fn f).msix.getD v Msix.reset
    let s := modFn f (fun y => { y with msix := modifyAt y.msix v fun m =>
      { m with ctl := m.ctl &&& 0xFFFF_FFFE#32, pend := false } }) s
    if m.pend then emit (.msix f v) s else s
  else s

/-- A BAR0 access that is not an aligned 4-byte access (R272). -/
def doBadAccess (f : Fn) (write : Bool) (off len : Nat) (s : State) : State :=
  if s.linkUp && (s.fn f).enabled && !(off % 4 == 0 && len == 4) then
    emit (if write then .aer f else .unsupported f) s
  else s

/-! ## Functions -/

/-- Device power state (R268). -/
def doPowerState (f : Fn) (d3 : Bool) (s : State) : State :=
  if s.linkUp && (s.fn f).enabled then modFn f (fun y => { y with d3 := d3 }) s else s

/-- NumVFs and VF Enable are set (R270): the functions below NumVFs come into existence. -/
def doVfEnable (n : Nat) (s : State) : State :=
  if s.linkUp && decide (n ≤ 12) && (s.fns.drop 1).all (fun y => !y.enabled) then
    { s with fns := s.fns.zipIdx.map fun (y, i) => if 1 ≤ i ∧ i ≤ n then { y with enabled := true } else y }
  else s

/-- R275. -/
def execRingDb (f : Fn) (ring : Nat) (v : W32) (s : State) : Host.Outcome State Fault Refusal := .next (doRingDb f ring v s)
/-- R280. -/
def execRingCqDb (f : Fn) (ring : Nat) (v : W32) (s : State) : Host.Outcome State Fault Refusal := .next (doRingCqDb f ring v s)
/-- R287. -/
def execEqDb (f : Fn) (v : W32) (s : State) : Host.Outcome State Fault Refusal := .next (doEqDb f v s)
/-- R283: a RING_CTL write with ENABLE 0. -/
def execRingDisable (f : Fn) (ring : Nat) (v : W32) (s : State) : Host.Outcome State Fault Refusal :=
  .next (when_ (!bit v 0) (writeRing f ring 5 v) s)
/-- R284: a RING_CTL write with ENABLE 1. -/
def execRingEnable (f : Fn) (ring : Nat) (v : W32) (s : State) : Host.Outcome State Fault Refusal :=
  .next (when_ (bit v 0) (writeRing f ring 5 v) s)
/-- R293: a write to word `reg` of a ring's block. -/
def execRingConfigWrite (f : Fn) (ring reg : Nat) (v : W32) (s : State) : Host.Outcome State Fault Refusal :=
  .next (writeRing f ring reg v s)
/-- R291, R293. -/
def execEqCtlWrite (f : Fn) (reg : Nat) (v : W32) (s : State) : Host.Outcome State Fault Refusal := .next (writeEq f reg v s)
/-- R276. -/
def execDescriptorFetch (f : Fn) (ring : Nat) (got : Option (List Byte)) (s : State) : Host.Outcome State Fault Refusal :=
  .next (doFetch f ring got s)
/-- R289. -/
def execMsixModTimer (f : Fn) (ring : Option Nat) (s : State) : Host.Outcome State Fault Refusal := .next (doModTimer f ring s)
/-- R289. -/
def execMsixUnmask (f : Fn) (vec : Nat) (s : State) : Host.Outcome State Fault Refusal := .next (doUnmask f vec s)
/-- R272. -/
def execBar0BadAccess (f : Fn) (write : Bool) (off len : Nat) (s : State) : Host.Outcome State Fault Refusal :=
  .next (doBadAccess f write off len s)
/-- R268. -/
def execDevicePowerStateWrite (f : Fn) (d3 : Bool) (s : State) : Host.Outcome State Fault Refusal :=
  .next (doPowerState f d3 s)
/-- R270. -/
def execVfEnableSet (n : Nat) (s : State) : Host.Outcome State Fault Refusal := .next (doVfEnable n s)

end Sys2Proof.Machine
end

