-- ==== Sys2Proof/Machine/Tiers.lean ====
section
/-! DEFINITION. The tiers of a node range: the tier opcodes, migration, the placement policy, BAR2, the region fence, scrub
(R202 to R231). -/

namespace Sys2Proof.Machine

/-- Change the tier registers. -/
def modTier (g : Tier → Tier) (s : State) : State := { s with tier := g s.tier }

/-- Take a fetched work item of an opcode once admission is open; check 6 of R297 gives QUOTA to a pavilion without resources on
this node (R286). -/
def admitWork (op wid : Nat) (f : Work → State → State) (s : State) : State :=
  match s.work wid with
  | some w =>
    if s.admits && w.stage == .fetched && dOp w.desc == op && w.fn.val != 0 then
      if s.composed (pvOf w.fn) then f w s else failWork w .quota s
    else s
  | none => s

/-! ## The T1 share (R206, R224) -/

/-- Frames of memory slice `i` of the node that the host area may use: 16 GiB less 192 MiB per step of GH, a step in progress counted
as used, less what the Grounds reserves, and in the first slice the 32 MiB of the Grounds code area in ST0 (R21, log 152). -/
def sliceFrames (s : State) (i : Nat) : Nat :=
  let k := s.scan.st.getD (i / 4) Stack.reset
  262144 - 3072 * k.gh.getD (i % 4) 0 - (if k.quiesced.any (fun q => q.1 == i % 4 && q.2.1) then 3072 else 0) - (if i = 0 then 512 else 0) - Config.t1Reserve

/-- The T1 share of a pavilion. -/
def State.shareOf (s : State) (p : Nat) : Nat :=
  match s.slices p with
  | some c => sumNat ((List.range 64).map fun i => if maskHas c.mem i then sliceFrames s i else 0)
  | none => 0

/-- Bring every share up to date. -/
def setShares (s : State) : State :=
  { s with ranges := s.ranges.zipIdx.map fun (r, p) => { r with share := s.shareOf p } }

/-! ## BAR2 requests (R218) -/

/-- The pages of a request are in T1 or unwritten. -/
def bar2Ready (s : State) (p : Nat) (q : Bar2Req) : Bool :=
  (blocksIn pageSize q.addr q.len).all fun no => match ((s.range p).page no).st with | .t2 => false | .t3 => false | _ => true

/-- Serve one BAR2 request (R203, R204, R218, R226): false, it waits for a frame or for a copy that holds its page. -/
def serveBar2 (f : Fn) (q : Bar2Req) (s : State) : Bool × State :=
  let p := pvOf f
  if q.write then
    match writeBack p q.addr q.data s with
    | (.ready, s) => (true, s)
    | (.wait, s) => (false, s)
    | (.refuse _, s) => (true, modTier (fun t => { t with bar2Drop := true }) s)
  else
    match readFor p q.addr q.len 4 s with
    | ((some _, _), s) => (true, emit (.abort f) (modTier (fun t => { t with bar2Abort := true }) s))
    | ((none, bs), s) => (true, emit (.bar2Data f q.addr bs) s)

/-- A request may pass another: not where a write of the other meets it. -/
def bar2Pass (q o : Bar2Req) : Bool := o.write == false || !meet q.addr q.len o.addr o.len

/-- Serve what can be served of a function's BAR2 queue, in order; promotions that the rest waits for are begun. -/
def pumpGo (f : Fn) : List Bar2Req → List Bar2Req → State → State
  | [], left, s =>
    left.foldl (fun s q => (blocksIn pageSize q.addr q.len).foldl (fun s no => promote (pvOf f) no s) s)
      (modFn f (fun y => { y with bar2Reqs := left }) s)
  | q :: qs, left, s =>
    if bar2Ready s (pvOf f) q && left.all (bar2Pass q) then
      match serveBar2 f q s with
      | (true, s) => pumpGo f qs left s
      | (false, s) => pumpGo f qs (left ++ [q]) s
    else pumpGo f qs (left ++ [q]) s
def pumpBar2 (f : Fn) (s : State) : State := pumpGo f (s.fn f).bar2Reqs [] s

/-! ## The tier opcodes (R207 to R211) -/

/-- TIER_MIGRATE (R210). -/
def doMigrate (w : Work) (s : State) : State :=
  let r := s.range (pvOf w.fn)
  if (r.pages.any fun g => inTier w.desc g.no && g.held) && tArg w.desc != 1 then failWork w .badField s
  else if tArg w.desc = 2 ∧ r.t2Pages = 0 then failWork w .badField s
  else tierNext w.id (startWork w s)

/-- TIER_PIN (R207): refused when fewer than 1/16 of the frames would stay unpinned. -/
def doPin (w : Work) (s : State) : State :=
  let r := s.range (pvOf w.fn)
  let new := tPages w.desc - (r.pages.filter fun g => inTier w.desc g.no && g.held).length
  if r.share ≤ 16 * (r.share - (r.pages.filter (·.held)).length - new) then tierNext w.id (startWork w s)
  else failWork w .quota s

/-- TIER_FLUSH (R211). -/
def doFlush (w : Work) (s : State) : State :=
  let p := pvOf w.fn
  let durable := tArg w.desc = 1
  let us := ((s.range p).pages.filter fun g => inTier w.desc g.no).flatMap fun g =>
    (match g.st with
     | .t1OverT3 => dirtyUnits g
     | .t1Only | .t1OverT2 | .t2 => if durable then [0, 1, 2, 3] else []
     | _ => []).map fun i => (⟨0, p, 4 * g.no + i⟩ : Lua)
  if flashRoom s p us then flushGo w.id (startWork w s) else failWork w .quota (noteQuota p us s)

/-! ## Page switches (R208, R209, R217, R226) -/

/-- A page's copy ends without a change: the work that asked for it goes on, with a status due. -/
def dropCopy (p no : Nat) (due : Option Status) (s : State) : State :=
  match ((s.range p).page no).copy with
  | none => s
  | some c =>
    let s := modPage p no (fun g => { g with copy := none }) s
    match c.work with
    | some w => tierNext w (modWork w (fun x => { x with due := match due with | some d => some d.code | none => x.due }) s)
    | none => s

/-- The work that asked for a copy goes on to its next page. -/
def copyDone (c : Copy) (s : State) : State :=
  match c.work with
  | some w => tierNext w (modWork w (fun x => { x with done := x.done + 1 }) s)
  | none => s

/-- The copy of a page is repeated for the sub-blocks dirtied since it began; the fourth attempt of TIER_MIGRATE holds writes (R209). It
waits while the pool has no room. -/
def copyAgain (p no : Nat) (c : Copy) (s : State) : State :=
  let set : State → State := modPage p no fun g =>
    { g with copy := some { c with tries := c.tries + 1, redirty := 0, hold := !c.policy && c.tries == 2 } }
  if c.tier = 2 then set (t2Write p no c.redirty s)
  else if migRoom s no (unitsOf c.redirty) then set (copyDown p no (unitsOf c.redirty) c.work (some no) s)
  else s

/-- DEMOTE_SWITCH (R209): the copy of a demotion or move has been read and written, its write group committed (R208). A page that has been
pinned since stays (R207); so does one with a sub-block that could not be read (R226). -/
def doSwitch (p no : Nat) (s : State) : State :=
  let g := (s.range p).page no
  match g.copy with
  | none => s
  | some c =>
    let waits := (s.flash.pool.any fun u => u.lua.pv == p && u.page == some no) || s.flash.asked p (.page no)
    if s.live && decide (2 ≤ c.tier) && !waits then
      if g.held && g.st.inT1 then dropCopy p no none s
      else if c.skipped ≠ 0 then
        dropCopy p no (some .memUncorrectable)
          (if g.st.refTier = c.tier then modPage p no (fun g => { g with dirty := g.dirty &&& c.skipped }) s else s)
      else if g.st = .t3 && s.flash.badPage p no then dropCopy p no (some .flashUnrecoverable) s
      else if c.redirty ≠ 0 ∧ c.tries < 3 then copyAgain p no c s
      else if c.redirty ≠ 0 ∧ c.policy then dropCopy p no none s
      else pumpBar2 (fnOf p) (copyDone c (migrated (switchPage p no c.tier s)))
    else s

/-- PAGE_PROMOTE_DONE (R208, R217, R249): the copy into the frame is complete; `ok` is false when a T2 read failed. A promotion that meets an
unreadable unit is abandoned. -/
def doPromoted (p no : Nat) (ok : Bool) (s : State) : State :=
  let g := (s.range p).page no
  match g.copy with
  | none => s
  | some c =>
    if s.live && c.tier == 1 && !s.flash.asked p (.page no) then
      if g.st = .t2 && (!ok || (s.range p).t2Bad.contains no) then
        dropCopy p no (some .memUncorrectable) (memError p 2 2 (no * pageSize) s)
      else if g.st = .t3 && s.flash.badPage p no then dropCopy p no (some .flashUnrecoverable) s
      else
        let s := modPage p no (fun g => { g with misses := 0, lastAcc := s.hfn }) (landPage p no s)
        copyDone c (pumpBar2 (fnOf p) (migrated s))
    else s

/-! ## The placement policy (R212) -/

/-- AUTO_PROMOTE. -/
def doAutoPromote (p no : Nat) (s : State) : State :=
  let g := (s.range p).page no
  if s.live && bit s.tier.cfgEff 0 && decide (fld s.tier.cfgEff 15 8 ≤ g.misses) then promote p no s else s

/-- POLICY_DEMOTE: the least recently accessed pages, when free frames fall below 1/64 of the share. -/
def doPolicyDemote (p no : Nat) (s : State) : State :=
  let r := s.range p
  let g := r.page no
  let oldest := match r.victims with | v :: _ => g.lastAcc == v.lastAcc && r.victims.any (·.no == no) | [] => false
  if s.live && decide (r.free * 64 < r.share) && oldest then (demoteFirst p [g] s).2 else s

/-! ## BAR2 (R218) -/

/-- Node-range offset of a BAR2 offset. -/
def bar2Addr (s : State) (f : Fn) (off : Nat) : Nat := fld (s.fn f).bar2Win 7 0 * 2 ^ 36 + off

/-- A BAR2 request: served at once, or held until its pages are in T1. A full write buffer withholds posted credits, so no write
arrives meanwhile. -/
def doBar2 (f : Fn) (write : Bool) (off len : Nat) (data : List Byte) (s : State) : State :=
  if f.val != 0 && s.linkUp && (s.fn f).enabled && decide (off + len ≤ 2 ^ 36) && decide (0 < len) then
    if !s.fnUp f then (if write then s else emit (.unsupported f) s)
    else if s.live then
      let q : Bar2Req := ⟨write, bar2Addr s f off, len, data, s.hfn⟩
      let hold (s : State) : State := modFn f (fun y => { y with bar2Reqs := y.bar2Reqs ++ [q] }) s
      if write && decide (2 ^ 20 < len + sumNat (((s.fn f).bar2Reqs.filter (·.write)).map (·.len))) then s
      else if bar2Ready s (pvOf f) q && (s.fn f).bar2Reqs.all (bar2Pass q) then
        match serveBar2 f q s with
        | (true, s) => s
        | (false, s) => hold s
      else hold ((blocksIn pageSize q.addr q.len).foldl (fun s no => promote (pvOf f) no s) s)
    else s
  else s

/-- BAR2_WAIT_EXPIRY: the oldest request has waited BAR2_WAIT units of 10 µs; the promotion continues. -/
def doBar2Expiry (f : Fn) (s : State) : State :=
  match (s.fn f).bar2Reqs with
  | q :: _ =>
    if s.live && decide (fld s.tier.cfgEff 23 16 ≤ 2 * (s.hfn - q.arrived)) then
      let s := modFn f (fun y => { y with bar2Reqs := y.bar2Reqs.drop 1 }) s
      if q.write then modTier (fun t => { t with bar2Drop := true }) s
      else emit (.abort f) (modTier (fun t => { t with bar2Abort := true }) s)
    else s
  | [] => s

/-! ## Region fence, errors and scrub (R217, R219, R221 to R226) -/

/-- An access stopped by the region fence (R223). -/
def fenceHit (st : Nat) (s : State) : State :=
  count none 5 8 1 (modTier (fun t => { t with fenceSeen := true }) (modStack st (fun k => { k with fence := satTo 0xFF (k.fence + 1) }) s))

/-! ### Tile tags (R222) -/

/-- The 128 bytes of a tag. -/
def Tag.bytes (t : Tag) : List Byte :=
  leBytes 4 t.plot ++ leBytes 4 t.tile ++ leBytes 4 t.epoch ++ leBytes 1 t.store ++ leBytes 1 t.width ++ leBytes 1 t.pv ++ zeros 113
/-- The tag of tile `i` of a lean-to part, and that of a row not in use. -/
def leanTag (x : Store) (pv i : Nat) : Tag := ⟨0xFFFFFFFF, i, x.epoch, 1, widthCode x.width, pv⟩
def Tag.unused : Tag := ⟨0, 0, 0, 0xFF, 0, 0⟩

/-- Does a tag as read name the tile that the machine was sent to: TAG_TILE, TAG_EPOCH and TAG_PV? -/
def tagNames (pv epoch tile : Nat) (tag : List Byte) : Bool :=
  field tag 4 4 == tile && field tag 8 4 == epoch && field tag 14 1 == pv

/-- A tag does not match: its tile will be repaired (R445). `num` is the tile number, or for a tile of the lean-to part of quadrant q
2^32 (1 + q) more than its index. -/
def tagError (pv epoch num : Nat) (s : State) : State :=
  { s with tier := { s.tier with tagMismatch := true }
           integ := { s.integ with repairs := dedupKeep (s.integ.repairs ++ [(pv, epoch, num, s.hfn)]) } }

/-- MEM_ERROR for a row outside any node range (R226, R323): form 1. -/
def rowError (access stack : Nat) (row : Nat × Nat × Nat) (s : State) : State :=
  nodeEvent evMemError (leBytes 1 1 ++ leBytes 1 access ++ leBytes 1 1 ++ leBytes 1 stack ++ leBytes 1 row.1 ++ leBytes 1 row.2.1 ++
    leBytes 3 row.2.2) (modTier (fun t => { t with uncorrSeen := true }) s)

/-- Stored symbols of a word of a T1 frame change (R219). -/
def noteFlip (x : FlipIn) (s : State) : State :=
  let no := x.off / pageSize
  let w := x.off % pageSize / 64
  if ((s.range x.pv).page no).st.inT1 then
    modPage x.pv no (fun g =>
      let syms := addSyms (((g.errs.find? (·.word == w)).map (·.syms)).getD []) (x.syms.filter fun y => decide (y.1 < 72))
      { g with errs := (g.errs.filter (·.word != w)) ++ (if syms.isEmpty then [] else [⟨w, x.stack, syms⟩]) }) s
  else s

/-- Every word of a pavilion's T1 frames that does not read as written is read by the scrub. -/
def scrubRange (p : Nat) (s : State) : State :=
  ((s.range p).pages.filter fun g => !g.errs.isEmpty).foldl (fun s g => (readWords p (g.no * pageSize) pageSize 3 (fun _ => true) s).2) s

/-- WALLED_SCRUB (R225, R226): one word is read. -/
def doScrub (x : ScrubIn) (s : State) : State :=
  if s.live && decide (x.stack < 16) then
    match x.inRange with
    | some (p, off) => (readWords p (off / 64 * 64) 64 3 (fun _ => true) (noteFlip ⟨p, off, x.stack, x.syms⟩ s)).2
    | none =>
      if x.syms.isEmpty then s
      else if (rsDecode x.syms).isSome then countCe x.stack s
      else countUe x.stack (rowError 3 x.stack x.row s)
  else s

/-- What the memories show in the slot that begins (R216, R217, R219). -/
def memSlot (m : MemIn) (s : State) : State :=
  let s := m.flips.foldl (fun s x => noteFlip x s) s
  let s := { s with ranges := s.ranges.zipIdx.map fun (r, p) => { r with t2Bad := (m.t2Fails.filter (·.1 == p)).map (·.2) } }
  m.t2Host.foldl (fun s x =>
    if (blocksIn pageSize x.2.1 x.2.2.length).all fun no => ((s.range x.1).page no).st == .t2 then
      modRange x.1 (fun r => { r with t2 := memWrite r.t2 x.2.1 x.2.2 }) s
    else s) s

/-- GH_STEP_QUIESCE (R224 steps 1 and 2): at a frame boundary the step's rows refuse every access, once no frame and no tile stands in
them; until then frames are demoted for it. -/
def doQuiesce (st sl : Nat) (grow : Bool) (s : State) : State :=
  let k := s.scan.st.getD st Stack.reset
  let gh := k.gh.getD sl 0
  if s.live && s.clk.slot.isNone && !k.quiesced.any (fun q => q.1 == sl) && (if grow then decide (gh < 85) else decide (0 < gh)) then
    let t := modStack st (fun k => { k with quiesced := k.quiesced ++ [(sl, grow, s.hfn)] }) s
    if grow then
      let tight := (List.range 12).filter fun p => decide (t.shareOf p < (s.range p).inT1)
      if tight.isEmpty then setShares t else tight.foldl (fun s p => (demoteFirst p (s.range p).victims s).2) s
    else if (List.range 12).all fun p => decide ((s.corpus p).tilesIn (st / 4) ≤ t.tileBand p (st / 4)) then setShares t
    else s
  else s

/-- GH_STEP_APPLY (R224 step 4): at the next frame boundary GH changes. -/
def doGhApply (st sl : Nat) (s : State) : State :=
  match (s.scan.st.getD st Stack.reset).quiesced.find? (·.1 == sl) with
  | some q =>
    if s.live && s.clk.slot.isNone && decide (q.2.2 < s.hfn) then
      setShares (modStack st (fun k =>
        { k with quiesced := k.quiesced.filter (·.1 != sl), gh := modifyAt k.gh sl fun g => if q.2.1 then g + 1 else g - 1 }) s)
    else s
  | none => s

/-! ## Registers (R229 to R231) -/

/-- TIER_CFG. -/
def writeTierCfg (v : W32) (s : State) : State :=
  if s.bar0Up0 then
    if fld v 15 8 = 0 || fld v 23 16 = 0 || !inRange 1 (fld v 31 24) 168 then modTier (fun t => { t with cfgReject := true }) s
    else modTier (fun t => { t with cfg := v &&& 0xFFFF_FF03#32 }) s
  else s

/-- T2_INUSE (R230). -/
def Range.t2InUse (r : Range) : Bool := r.pages.any (·.st.inT2)

/-- T2_BASE_LO (0), T2_BASE_HI (1), T2_SIZE (2). -/
def writeT2 (f : Fn) (reg : Nat) (v : W32) (s : State) : State :=
  let p := pvOf f
  let r := s.range p
  if f.val != 0 && s.fnUp f && decide (reg < 3) then
    let others := sumNat (s.ranges.zipIdx.map fun (x, i) => if i = p then 0 else x.t2Pages)
    if r.t2InUse || (reg == 2 && decide (0x4000000 < others + fld v 26 0)) then modRange p (fun r => { r with vReject := true }) s
    else modRange p (fun r => if reg = 0 then { r with t2Lo := v &&& 0xFFFF_0000#32 } else if reg = 1 then { r with t2Hi := v }
      else { r with t2Size := v &&& 0x07FF_FFFF#32 }) s
  else s

/-- BAR2_WIN. -/
def writeBar2Win (f : Fn) (v : W32) (s : State) : State :=
  if f.val != 0 && s.fnUp f then
    if 239 < fld v 7 0 then modRange (pvOf f) (fun r => { r with vReject := true }) s
    else modFn f (fun y => { y with bar2Win := v &&& 0xFF#32 }) s
  else s

/-- Frames of SCRUB_HOURS hours (R225). -/
def scrubFrames (s : State) : Nat := fld s.tier.cfgEff 31 24 * 180000000

/-- The tier part of a frame boundary: the register, the migration count, the miss window (R212, R229), a scrub of every walled row that is
due (R225), and tier work and BAR2 requests that can go on. -/
def tierFrame (s : State) : State :=
  let s := modTier (fun t => { t with cfgEff := t.cfg, migrLast := t.migrPages, migrPages := 0 }) s
  let s := if s.hfn % 4096 = 0 then
      { s with ranges := s.ranges.map fun r => { r with pages := r.pages.map fun g => { g with misses := 0 } } } else s
  if s.live then
    let s := if s.tier.scrubAt + scrubFrames s ≤ s.hfn then
        modTier (fun t => { t with scrubAt := s.hfn }) ((List.range 12).foldl (fun s p => scrubRange p s) s) else s
    (List.range 12).foldl (fun s p => pumpBar2 (fnOf p) s) (tierAll s)
  else s

/-- R210. -/
def execTierMigrate (wid : Nat) (s : State) : Host.Outcome State Fault Refusal := .next (admitWork opMigrate wid doMigrate s)
/-- R207: a TIER_PIN descriptor without UNPIN. -/
def execTierPin (wid : Nat) (s : State) : Host.Outcome State Fault Refusal :=
  .next (admitWork opPin wid (fun w s => if tArg w.desc = 0 then doPin w s else s) s)
/-- R207: a TIER_PIN descriptor with UNPIN. -/
def execTierUnpin (wid : Nat) (s : State) : Host.Outcome State Fault Refusal :=
  .next (admitWork opPin wid (fun w s =>
    if tArg w.desc = 1 then endTier { w with done := tPages w.desc } .ok (setPins (pvOf w.fn) w.desc false s) else s) s)
/-- R211. -/
def execTierFlush (wid : Nat) (s : State) : Host.Outcome State Fault Refusal := .next (admitWork opFlush wid doFlush s)
/-- R212. -/
def execAutoPromote (pv : Pv) (page : Nat) (s : State) : Host.Outcome State Fault Refusal := .next (doAutoPromote pv.val page s)
/-- R212. -/
def execPolicyDemote (pv : Pv) (page : Nat) (s : State) : Host.Outcome State Fault Refusal := .next (doPolicyDemote pv.val page s)
/-- R225. -/
def execWalledScrub (x : ScrubIn) (s : State) : Host.Outcome State Fault Refusal := .next (doScrub x s)
/-- R224. -/
def execGhStepQuiesce (st : Fin 16) (sl : Fin 4) (grow : Bool) (s : State) : Host.Outcome State Fault Refusal :=
  .next (doQuiesce st.val sl.val grow s)
/-- R224. -/
def execGhStepApply (st : Fin 16) (sl : Fin 4) (s : State) : Host.Outcome State Fault Refusal := .next (doGhApply st.val sl.val s)
/-- R218. -/
def execBar2Read (f : Fn) (off len : Nat) (s : State) : Host.Outcome State Fault Refusal := .next (doBar2 f false off len [] s)
/-- R218. -/
def execBar2Write (f : Fn) (off : Nat) (data : List Byte) (s : State) : Host.Outcome State Fault Refusal :=
  .next (doBar2 f true off data.length data s)
/-- R218. -/
def execBar2WaitExpiry (f : Fn) (s : State) : Host.Outcome State Fault Refusal := .next (doBar2Expiry f s)
/-- R231. -/
def execTierCfgWrite (v : W32) (s : State) : Host.Outcome State Fault Refusal := .next (writeTierCfg v s)
/-- R231. -/
def execT2WindowWrite (f : Fn) (reg : Nat) (v : W32) (s : State) : Host.Outcome State Fault Refusal := .next (writeT2 f reg v s)
/-- R231. -/
def execBar2WinWrite (f : Fn) (v : W32) (s : State) : Host.Outcome State Fault Refusal := .next (writeBar2Win f v s)

end Sys2Proof.Machine
end

