-- ==== Sys2Proof/Machine/Updates.lean ====
section
/-! DEFINITION. Update batches: acceptance, preparation, pre-notices, admission, frame marks, commit, resubmission
(R32, R33, R44, R45, R169 to R179, R310 to R312, R338, R366). -/

namespace Sys2Proof.Machine

/-! ## Records on the wire (R63, R66, R338) -/

/-- A slot-table entry or lean-to record. -/
def Rec.bytes (r : Rec) : List Byte :=
  leBytes 8 r.eid ++ leBytes 8 r.ver ++ leBytes 5 r.elem ++ leBytes 1 r.flags ++ leBytes 2 r.payLen ++ leBytes 4 r.attr ++ leBytes 4 r.qepoch
/-- The same read back. -/
def readRec (bs : List Byte) : Rec :=
  ⟨field bs 0 8, field bs 8 8, field bs 16 5, field bs 21 1, field bs 22 2, field bs 24 4, field bs 28 4⟩

/-- Padded to 64 bytes (R338; each record and row apart, log 30). -/
def pad64 (bs : List Byte) : List Byte := padTo (roundUpTo bs.length 64) bs

/-- The records of an element that a PRE_ELEM carries: one when it serves every epoch that takes writes, else one for each (R149). -/
def Elem.records (c : Corpus) (e : Elem) : List (List Byte) :=
  let one := match c.cur, c.stg with | some a, some b => compatible a b | _, _ => true
  if one then (e.vers.take 1).map (·.record) else e.vers.map (·.record)

/-- An element of a PRE_ELEM. The version of its lean-to record is not fixed yet: the field carries the batch's SEQ, which the owner needs
for its journal record (R178, R185) and for which R338 gives no field of its own (DESIGN CHOICE, log 139). -/
def Elem.wire (c : Corpus) (seq : Nat) (e : Elem) : List Byte :=
  let v0 := e.vers.headD ⟨0, 0, 0, 0, 0, [], none⟩
  Rec.bytes ⟨e.eid, seq, 0, v0.flags, e.payload.length, e.attr, v0.qepoch⟩ ++
    e.vers.flatMap (fun v => leBytes (((c.bundle? v.epoch).map (·.width)).getD 0 / 8) v.sketch) ++
    (e.records c).flatMap pad64 ++ (if e.payload = [] then [] else pad64 e.payload)

/-- An element of a PRE_ELEM read under the epochs that take writes, and its length. -/
def parseElem (cur : Bundle) (stg : Option Bundle) (bs : List Byte) : Elem × Nat :=
  let r := readRec bs
  let w0 := cur.width / 8
  let w1 := match stg with | some b => b.width / 8 | none => 0
  let off := 32 + w0 + w1
  let n0 := recordBytes cur.dim cur.vfmt cur.group cur.qmode
  let r0 := slice bs off n0
  let p0 := match cur.read r0 with | some c => (cur.order c).headD 0 | none => 0
  let e0 : ElemVer := ⟨cur.epoch, p0, field bs 32 w0, r.flags, cur.epoch, r0, none⟩
  let off1 := off + roundUpTo n0 64
  let (vs, offP) : List ElemVer × Nat := match stg with
    | none => ([e0], off1)
    | some b =>
      let plot (c : Option Coded) : Nat := if b.plots = cur.plots then p0 else match c with | some c => (b.order c).headD 0 | none => 0
      if compatible cur b then ([e0, ⟨b.epoch, plot (b.read r0), field bs (32 + w0) w1, r.flags, cur.epoch, r0, none⟩], off1)
      else
        let n1 := recordBytes b.dim b.vfmt b.group b.qmode
        let r1 := slice bs off1 n1
        ([e0, ⟨b.epoch, plot (b.read r1), field bs (32 + w0) w1, b.recFlags, b.epoch, r1, none⟩], off1 + roundUpTo n1 64)
  (⟨r.eid, r.attr, slice bs offP r.payLen, [], vs, [], false, false⟩, offP + roundUpTo r.payLen 64)

/-- The elements of a PRE_ELEM. -/
def parseElems (cur : Bundle) (stg : Option Bundle) : Nat → List Byte → List Elem
  | 0, _ => []
  | n + 1, bs => let (e, k) := parseElem cur stg bs; e :: parseElems cur stg n (bs.drop k)

/-- The staged bundle when it takes writes at a frame. -/
def Corpus.stgAt (c : Corpus) (f : Frame) : Option Bundle :=
  match c.stg, c.d0 with | some b, some d => if d ≤ f then some b else none | _, _ => none

/-! ## Batches and their outcome (R33, R177, R178, R321) -/

/-- A batch by number. -/
def State.batch? (s : State) (id : Nat) : Option Batch := s.upd.batches.find? (·.id == id)
/-- Change the update gate. -/
def modUpd (g : Upd → Upd) (s : State) : State := { s with upd := g s.upd }
/-- Change a batch. -/
def modBatch (id : Nat) (g : Batch → Batch) (s : State) : State :=
  modUpd (fun u => { u with batches := mapIf (·.id == id) g u.batches }) s

/-- One of some nodes holds part of the element: a plot it goes to, or a version that the delete names. -/
def Batch.partOn (m : CMap) (b : Batch) (ns : List Nat) (e : Elem) : Bool :=
  if b.del then b.hits.any fun h => h.2 == e.eid && ns.contains h.1
  else e.vers.any fun v => match m.plot? b.pv v.plot with | some x => x.takers.any ns.contains | none => true

/-- The element has committed wherever it was not withdrawn: here, and on every owner that holds part of it. -/
def Batch.arrived (m : CMap) (b : Batch) (e : Elem) : Bool := e.committed && !e.withdrawn && !b.partOn m b.owners e

/-- The element is known to have committed: no owner that holds part of it withdrew one. -/
def Batch.known (m : CMap) (b : Batch) (e : Elem) : Bool := b.arrived m e && !b.partOn m (b.shorts.map (·.1)) e

/-- N_COMMIT: an owner's acknowledgement tells how many of its elements committed and not which, so that those it withdrew are counted off
those that arrived (R45, R321). -/
def Batch.nCommit (m : CMap) (b : Batch) : Nat := (b.elems.filter (b.arrived m)).length - sumNat (b.shorts.map (·.2))

/-- N_NOVER of a delete batch: EIDs that no node reported (R171). -/
def Batch.novers (b : Batch) : Nat := b.nover + if b.del then (b.elems.filter fun e => !b.seen.contains e.eid).length else 0

/-- Keep the outcome of the last 1,024 batches of a ring (R178). -/
def Corpus.keepSeq (c : Corpus) (r : SeqRec) : Corpus :=
  let rest := c.seqs.filter fun x => !(x.ring == r.ring && x.seq == r.seq)
  let mine := rest.filter (·.ring == r.ring) ++ [r]
  { c with seqs := rest.filter (·.ring != r.ring) ++ mine.drop (mine.length - 1024) }

/-- A batch ends: its reservations not yet used are released, its outcome is kept, its completion is posted. -/
def endBatch (b : Batch) (st : Status) (s : State) : State :=
  let adm := b.stage == .admitted
  let s := if b.stage == .prep then b.elems.foldl (fun s e => dropElem b.pv e s) s else s
  let good := if adm then b.elems.filter (b.known s.comp.map) else []
  let n := b.before + if adm then b.nCommit s.comp.map else 0
  let nv := if adm then b.novers else b.nover
  let ver := if adm then b.ver else 0
  let missing := (b.elems.filter fun e => !(good.any (·.eid == e.eid))).map (·.eid)
  let s := modCorpus b.pv (fun c => if b.stage == .seqWait then c else c.keepSeq ⟨b.ring, b.seq, st.code, n, nv, ver, missing⟩) s
  let s := modUpd (fun u => { u with batches := u.batches.filter (·.id != b.id) }) s
  let s := if st = .ok then s else count (some b.pv) 0 8 1 s
  completeId b.work st 0 (spec3 n nv ver) s

/-- An admitted batch completes once its own elements have committed and no acknowledgement is missing (R33, R177). -/
def settleBatch (id : Nat) (s : State) : State :=
  match s.batch? id with
  | some b =>
    if b.stage == .admitted && decide (b.ver ≤ (s.corpus b.pv).committed) && (b.owners.isEmpty || b.lost) then
      endBatch b (firstStatus ((if b.lost then [.stateLost] else []) ++ (if b.elems.any (·.withdrawn) || !b.shorts.isEmpty then [.internal] else []))) s
    else s
  | none => s

/-! ## Pre-notices (R171, R338, R366) -/

/-- Is an element's part of some epoch held by the node? -/
def Elem.heldBy (m : CMap) (p n : Nat) (e : Elem) : Bool :=
  e.vers.any fun v => match m.plot? p v.plot with | some x => x.takers.contains n | none => false

/-- The pre-notices that a batch needs under the map in force: peer, and whether it takes an element. -/
def State.notices (s : State) (b : Batch) : List (Nat × Bool) :=
  (s.ingestPeers b.pv).map fun n => (n, !b.del && b.elems.any (·.heldBy s.comp.map b.pv n))

/-- The pre-notices of one peer: its elements, and the EIDs of the rest. -/
def sendNotice (b : Batch) (n : Nat) (s : State) : State :=
  let mine := if b.del then [] else b.elems.filter (·.heldBy s.comp.map b.pv n)
  let rest := b.elems.filter fun e => !(mine.any (·.eid == e.eid))
  let s := if mine.isEmpty then s else
    sendMsg n 2 jIngest b.pv (leBytes 8 0 ++ leBytes 8 b.id ++ leBytes 2 mine.length ++ zeros 6 ++
      mine.flatMap (Elem.wire (s.corpus b.pv) b.seq)) s
  if rest.isEmpty then s else
    sendMsg n 2 jIngest b.pv (leBytes 8 1 ++ leBytes 8 b.id ++ leBytes 2 rest.length ++ leBytes 1 (if b.del then 1 else 0) ++ zeros 5 ++
      rest.flatMap fun e => leBytes 8 e.eid) s

/-- How many acknowledgements a peer owes. -/
def Batch.acksOf (m : CMap) (b : Batch) (n : Nat) : Nat :=
  let mine := if b.del then 0 else (b.elems.filter (·.heldBy m b.pv n)).length
  (if mine = 0 then 0 else 1) + (if mine = b.elems.length then 0 else 1)

/-- Send the pre-notices that are still needed; they are acknowledged anew. -/
def sendNotices (id : Nat) (s : State) : State :=
  match s.batch? id with
  | none => s
  | some b =>
    let new := (s.notices b).filter fun x => !b.sent.contains x
    let s := new.foldl (fun s x => sendNotice b x.1 s) s
    modBatch id (fun b =>
      { b with
        sent := b.sent.filter (fun x => !(new.any (·.1 == x.1))) ++ new
        await_ := b.await_.filter (fun n => !(new.any (·.1 == n))) ++ new.flatMap fun x => List.replicate (b.acksOf s.comp.map x.1) x.1
        owners := if b.del then b.owners else dedupKeep (b.owners ++ (new.filter (·.2)).map (·.1)) }) s

/-! ## Preparation (R68, R71, R148, R149, R169 to R171, R187) -/

/-- The vectors of an element record in FP32. -/
def eVec0 (dim0 : Nat) (bs : List Byte) : List F32 := let e := readERec bs; inValues e.efmt e.scale dim0 (bs.drop 64)
def eVec1 (dim0 dim1 : Nat) (bs : List Byte) : List F32 :=
  let e := readERec bs
  if e.nVec = 2 then inValues e.efmt e.scale dim1 (bs.drop (eVec1Off e dim0)) else eVec0 dim0 bs

/-- An element record coded under the epochs that take writes. -/
def codeRec (cur : Bundle) (stg : Option Bundle) (bs : List Byte) : Option Elem :=
  let e := readERec bs
  let dim1 := match stg with | some b => b.dim | none => cur.dim
  match elemVers cur stg (eVec0 cur.dim bs) (eVec1 cur.dim dim1 bs) with
  | some vs => some ⟨e.eid, e.attr, slice bs (ePayOff e cur.dim dim1) e.payLen, bs, vs, [], false, false⟩
  | none => none

/-- Reserve what one element needs on this node: element numbers and lean-to entries, or tombstone entries; none when a limit
refuses, the glasshouse band among them (R355). -/
def reserveElem (p : Nat) (del : Bool) (e : Elem) (s : State) : Option (Elem × State) :=
  let c := s.corpus p
  if del then
    let ps := c.tombParts e.eid
    match c.reserveAll ps with
    | some c' => if s.tilesFit p c c' then some ({ e with parts := ps }, modCorpus p (fun _ => c') s) else none
    | none => none
  else
    match numberElem p e.vers s with
    | none => none
    | some (vs, s) =>
      let ps := s.partsFor p vs
      match (s.corpus p).reserveAll ps with
      | some c' => if s.tilesFit p (s.corpus p) c' then some ({ e with vers := vs, parts := ps }, modCorpus p (fun _ => c') s) else none
      | none => none

/-- Reserve for every element. -/
def reserveElems (p : Nat) (del : Bool) : List Elem → State → Option (List Elem × State)
  | [], s => some ([], s)
  | e :: es, s =>
    match reserveElem p del e s with
    | none => none
    | some (e, s) => match reserveElems p del es s with | some (es, s) => some (e :: es, s) | none => none

/-- A plot of the batch has no holder that answers for it (R370). -/
def plotGone (m : CMap) (p : Nat) (es : List Elem) : Bool :=
  es.any fun e => e.vers.any fun v => match m.plot? p v.plot with | some x => x.st == .lost | none => true

/-- The preparation of a batch: its own reservations, then the pre-notices. -/
def prepBatch (id : Nat) (s : State) : State :=
  match s.batch? id with
  | none => s
  | some b =>
    if plotGone s.comp.map b.pv b.elems then endBatch { b with stage := .prep } .stateLost s
    else
      match reserveElems b.pv b.del b.elems s with
      | none => endBatch { b with stage := .prep, elems := b.elems.map fun e => { e with parts := [] } } .quota s
      | some (es, s) =>
        let seen := if b.del then (es.filter fun e => (s.corpus b.pv).has e.eid).map (·.eid) else []
        sendNotices id (modBatch id (fun b =>
          { b with elems := es, stage := .prep, seen := seen, sent := [], await_ := [], owners := [], hits := [], shorts := [] }) s)

/-- The statistics of R150 take every vector quantised for an upsert. -/
def tallyElems (p : Nat) (rs : List (List Byte)) (s : State) : State :=
  modCorpus p (fun c => match c.cur with
    | some b => if s.hfn < c.clipFrom then c else { c with win := rs.foldl (fun w r => b.tally (b.rotate (eVec0 b.dim r)) w) c.win }
    | none => c) s

/-- The first preparation of a batch: it quantises the elements. -/
def firstPrep (b : Batch) (s : State) : State := prepBatch b.id (if b.del then s else tallyElems b.pv (b.elems.map (·.raw)) s)

/-- The table of R178 for a batch whose records are valid and that waits for no earlier one. -/
def seqGate (id : Nat) (s : State) : State :=
  match s.batch? id with
  | none => s
  | some b =>
    let c := s.corpus b.pv
    if (c.seqTop.lookup b.ring).getD 0 < b.seq then firstPrep b s
    else
      match c.seqs.find? fun r => r.ring == b.ring && r.seq == b.seq with
      | none => endBatch { b with stage := .seqWait } .badField s
      | some r =>
        let left := b.elems.filter fun e => r.missing.contains e.eid
        if left.isEmpty then
          let st := Status.ofCode r.st
          let s := modUpd (fun u => { u with batches := u.batches.filter (·.id != id) }) s
          completeId b.work st 0 (spec3 r.nCommit r.nNover r.ver) (if st = .ok then s else count (some b.pv) 0 8 1 s)
        else firstPrep { b with elems := left } (modBatch id (fun b => { b with elems := left, before := r.nCommit, nover := r.nNover }) s)

/-- An earlier batch of the ring with the same SEQ has not completed (R178). -/
def seqBusy (s : State) (w : Work) : Bool :=
  s.works.any fun x => x.fn == w.fn && x.ring == w.ring && isUpdate (dOp x.desc) && field x.desc 8 8 == field w.desc 8 8 && decide (x.id < w.id)

/-! ## Acceptance (R169, R170, R310 to R312) -/

/-- Does any EID occur twice, or is it the empty EID (R54, R170)? -/
def eidsBad (es : List Nat) : Bool := es.contains emptyEid || (dedupKeep es).length != es.length

/-- The status of the first check of R297 that any element record fails (R312). -/
def recsCheck (c : Corpus) (hfn : Frame) (stride : Nat) (rs : List (List Byte)) : Option Status :=
  match c.cur with
  | none => some .badField
  | some cur =>
    let stg := c.stgAt hfn
    let dim1 := match stg with | some b => b.dim | none => cur.dim
    let two := dim1 != cur.dim
    let fails := rs.filterMap (eCheck cur.dim dim1 (fld c.corpusCfg 13 8) stride two)
    match fails.min? with
    | some 3 => some .badLength
    | some _ => some .badField
    | none =>
      if eidsBad (rs.map fun b => (readERec b).eid) || rs.any (fun b => (codeRec cur stg b).isNone) || c.vecStride == 0 then some .badField
      else none

/-- A batch enters: it waits for an earlier one with its SEQ, or goes on. -/
def enterBatch (w : Work) (del : Bool) (es : List Elem) (s : State) : State :=
  let p := pvOf w.fn
  let id := s.node * 2 ^ 48 + w.ring * 2 ^ 40 + s.upd.nextBatch % 2 ^ 40
  let b : Batch := ⟨id, w.id, p, w.ring, field w.desc 8 8, del, es, s.hfn, [], .seqWait, 0, [], [], false, 0, 0, [], [], []⟩
  let s := modWork w.id (fun w => { w with stage := .waiting })
    (modUpd (fun u => { u with batches := u.batches ++ [b], nextBatch := u.nextBatch + 1 }) s)
  if seqBusy s w then s else seqGate id s

/-- UPSERT_BATCH. -/
def doUpsert (wid : Nat) (recs : Option (List (List Byte))) (s : State) : State :=
  match s.work wid with
  | none => s
  | some w =>
    if s.live && !s.flushing && w.stage == .fetched && dOp w.desc == opUpsert && w.fn.val != 0 then
      let s := hostRead w.fn (field w.desc 24 8) (field w.desc 16 2 * dEStride w.desc * 64) s
      let c := s.corpus (pvOf w.fn)
      match recs with
      | none => failWork w .badAddress s
      | some rs =>
        let rs := ((List.range (dCount w.desc)).map fun i => padTo (dEStride w.desc * 64) (rs.getD i []))
        match recsCheck c s.hfn (dEStride w.desc) rs, c.cur with
        | some st, _ => failWork w st s
        | none, none => failWork w .badField s
        | none, some cur =>
          if s.composed (pvOf w.fn) then
            enterBatch w false (rs.filterMap (codeRec cur (c.stgAt s.hfn))) s
          else failWork w .quota s
    else s

/-- DELETE_BATCH. -/
def doDelete (wid : Nat) (eids : Option (List Nat)) (s : State) : State :=
  match s.work wid with
  | none => s
  | some w =>
    if s.live && !s.flushing && w.stage == .fetched && dOp w.desc == opDelete && w.fn.val != 0 then
      let s := hostRead w.fn (field w.desc 24 8) (field w.desc 16 2 * 8) s
      match eids with
      | none => failWork w .badAddress s
      | some es =>
        let es := (List.range (dCount w.desc)).map fun i => es.getD i 0 % 2 ^ 64
        if eidsBad es || (s.corpus (pvOf w.fn)).vecStride == 0 then failWork w .badField s
        else if s.composed (pvOf w.fn) then enterBatch w true (es.map fun e => ⟨e, 0, [], [], [], [], false, false⟩) s
        else failWork w .quota s
    else s

/-- SEQ_WAIT_RELEASE (R178). -/
def doSeqRelease (id : Nat) (s : State) : State :=
  match s.batch? id with
  | some b =>
    match s.work b.work with
    | some w => if s.live && b.stage == .seqWait && !seqBusy s w then seqGate id s else s
    | none => s
  | none => s

/-! ## Admission (R32, R44, R170, R187, R366) -/

/-- The versions of a batch cover every epoch that takes writes in the frame. -/
def Batch.covers (c : Corpus) (f : Frame) (b : Batch) : Bool :=
  b.del || (c.writesAt f).all fun x => b.elems.all fun e => e.vers.any (·.epoch == x.epoch)

/-- The preparation made again, under the epochs that take writes now (R187); an element that cannot be coded so is refused. -/
def reprep (b : Batch) (s : State) : State :=
  let c := s.corpus b.pv
  match c.cur with
  | none => endBatch b .badField s
  | some cur =>
    let es := b.elems.map fun e => codeRec cur (c.stgAt s.hfn) e.raw
    let need2 := match c.stgAt s.hfn with | some x => x.dim != cur.dim | none => false
    if es.all (·.isSome) && (!need2 || b.elems.all fun e => (readERec e.raw).nVec == 2) then
      let s := b.elems.foldl (fun s e => dropElem b.pv e s) s
      let new := b.elems.any fun e => !e.vers.any (·.epoch == cur.epoch)
      prepBatch b.id (modBatch b.id (fun b => { b with elems := es.filterMap id }) (if new then tallyElems b.pv (b.elems.map (·.raw)) s else s))
    else endBatch b .badField s

/-- An element that this node holds already under the batch's identity, in a slot or in the lean-to, keeps its version (R177, R178). SEQ 0
stands for one that is not known (log 139). -/
def Corpus.holdsAlready (c : Corpus) (node ring seq eid : Nat) : Bool :=
  seq != 0 &&
  ((c.locator.any fun l => l.node == node && l.ring == ring && l.seq == seq && l.eid == eid) ||
   c.stores.any fun x => x.parts.any fun l => l.live.any fun e =>
     e.node == node && e.ring == ring && e.seq == seq && e.ent.eid == eid)

/-- Admission into the frame in progress: the version is fixed, the node's own entries are appended, the batch is named in the
frame's mark and in the admission log. -/
def admitBatch (b : Batch) (s : State) : State :=
  let f := s.hfn
  let s := b.elems.foldl (fun s e =>
    if (s.corpus b.pv).holdsAlready s.node b.ring b.seq e.eid then dropElem b.pv e s
    else appendElem b.pv b.del f s.node b.ring b.seq b.id e (writeElem b.pv e s)) s
  let s := modUpd (fun u => { u with marks := u.marks ++ [(b.pv, b.id)] }) s
  let log := b.elems.flatMap fun e =>
    if b.del then [⟨b.pv, e.eid, 0, f⟩] else (e.vers.take 1).map fun v => (⟨b.pv, e.eid, v.plot, f⟩ : AdmEnt)
  let s := { s with comp := { s.comp with admLog := s.comp.admLog ++ log } }
  let s := modCorpus b.pv (fun c => { c with seqTop :=
    (c.seqTop.filter (·.1 != b.ring)) ++ [(b.ring, max b.seq ((c.seqTop.lookup b.ring).getD 0))] }) s
  count (some b.pv) 0 6 b.elems.length (modBatch b.id (fun b => { b with stage := .admitted, ver := f }) s)

/-- UPDATE_ADMISSION. -/
def doUpdateAdmission (id : Nat) (s : State) : State :=
  match s.batch? id with
  | none => s
  | some b =>
    let c := s.corpus b.pv
    let slotOk := match s.clk.slot with | some k => decide (k < s.clk.updCutoff) | none => false
    let same := s.upd.batches.any fun x =>
      x.pv == b.pv && x.stage == .admitted && x.ver == s.hfn && x.elems.any fun e => b.elems.any (·.eid == e.eid)
    if s.admits && slotOk && b.stage == .prep && b.await_.isEmpty && c.rstate == .confirmed && !s.pvInReset b.pv && !s.suspended &&
        s.flash.regionOk && !same then
      if plotGone s.comp.map b.pv b.elems then endBatch b .stateLost s
      else if (s.notices b).any fun x => !b.sent.contains x then sendNotices id s
      else if !b.covers c s.hfn then reprep b s
      else
        match firstStatus (b.elems.map fun e => poolRoom s b.pv e.vers (e.payload != [])) with
        | .ok => admitBatch b s
        | .quota => endBatch b .quota (noteQuota b.pv (b.elems.flatMap fun e => e.vers.filterMap fun v => v.elem.map fun n => hostUnit b.pv (c.vecAddr n)) s)
        | _ => s
    else s

/-! ## Waits that run out (R45, R171, R177) -/

/-- PREP_WAIT_EXPIRY: a batch not yet admitted has no value of its own (R199), the limit is the one in force. -/
def doPrepExpiry (id : Nat) (s : State) : State :=
  match s.batch? id with
  | some b =>
    if s.live && b.stage == .prep && !b.await_.isEmpty && decide (b.accepted + fld s.upd.cfgEff 9 0 < s.hfn) then
      endBatch b .timeout (modUpd (fun u => { u with prepTimeout := true }) s)
    else s
  | none => s

/-- UPDATE_ACK_TIMEOUT. -/
def doAckTimeout (id : Nat) (s : State) : State :=
  match s.batch? id with
  | some b =>
    if s.live && b.stage == .admitted && decide (b.ver + 1000 ≤ s.hfn) && !b.owners.isEmpty then endBatch b .timeout s else s
  | none => s

/-- Give up staged material: its reservations are released (R171). -/
def dropStaged (x : Staged) (s : State) : State :=
  let s := x.elems.foldl (fun s e => dropElem x.pv e s) s
  freeElems x.pv (modUpd (fun u => { u with staged := u.staged.filter (· != x) }) s)

/-- STAGED_DISCARD. -/
def doStagedDiscard (id : Nat) (s : State) : State :=
  (s.upd.staged.filter fun x => x.id == id && s.live && decide (x.arrived + 2 * fld s.upd.cfgEff 9 0 < s.hfn)).foldl (fun s x => dropStaged x s) s

/-- Take out the entries, and undo the supersessions, of an element of the frame in progress. -/
def withdraw (p id eid : Nat) (s : State) : State :=
  let f := s.hfn
  let mine (e : LeanEnt) : Bool := e.batch == id && e.ent.eid == eid && e.appended == f && !e.committed && !e.gone
  modCorpus p (fun c =>
    let node := ((c.stores.flatMap fun x => x.parts.flatMap (·.ents)).find? mine).map (·.node)
    let vers := ((c.stores.flatMap fun x => x.parts.flatMap (·.ents)).filter mine).map (·.ent.ver)
    Corpus.prune { c with
      stores := c.stores.map fun x => { x with parts := x.parts.map fun l => { l with ents := mapIf mine (fun e => { e with gone := true }) l.ents } }
      journal := c.journal.filter fun j => !mine j.ent
      noted := c.noted.filter fun x => !(x.1 == eid && vers.contains x.2.1 && some x.2.2 == node)
      dels := c.dels.filter fun d => !(d.eid == eid && vers.contains d.del && !(c.noted.any fun x =>
        x.1 == eid && x.2.1 == d.del && some x.2.2 != node)) }) s

/-- LATE_LEANTO_WITHDRAW: at the end of slot 15 a lean-to write of the frame is not acknowledged (R45). -/
def doWithdraw (p id eid : Nat) (s : State) : State :=
  let has := (s.corpus p).stores.any fun x => x.parts.any fun l => l.live.any fun e =>
    e.batch == id && e.ent.eid == eid && e.appended == s.hfn && !e.committed
  if s.live && s.clk.slot == some 15 && has then
    count (some p) 0 7 1 (modBatch id (fun b => { b with elems := mapIf (·.eid == eid) (fun e => { e with withdrawn := true }) b.elems })
      (withdraw p id eid { s with clk := { s.clk with lateCommit := true } }))
  else s

/-! ## What peers send (R171, R172, R177, R338) -/

/-- Acknowledge a pre-notice. -/
def sendPreAck (n p id : Nat) (st : Status) (bitmap : List Byte) (s : State) : State :=
  sendMsg n 2 jIngest p (leBytes 8 2 ++ leBytes 8 id ++ leBytes 1 st.code ++ zeros 7 ++ bitmap) s

/-- Stage the material of a pre-notice, with the batch's SEQ as far as it is known. -/
def State.stage (s : State) (src p id : Nat) (del : Bool) (es : List Elem) (seq : Nat) : State :=
  modUpd (fun u => { u with staged := u.staged ++ [⟨id, src, p, del, es, s.hfn, seq⟩] }) s

/-- PRE_ELEM at a peer: elements of plots that it does not take are discarded (R366). While its alignment closes admission, a node takes in
no forwarded update (R41): it sends no acknowledgement (DESIGN CHOICE, log 141). -/
def doPreElem (src p : Nat) (body : List Byte) (s : State) : State :=
  let id := field body 8 8
  let old := s.upd.staged.filter fun x => x.id == id && x.elems.any fun e => !e.vers.isEmpty
  let s := old.foldl (fun s x => dropStaged x s) s
  let c := s.corpus p
  if !s.alignOpen then s else match c.cur with
  | none => sendPreAck src p id .ok [] s
  | some cur =>
    let es := (parseElems cur (c.stgAt s.hfn) (field body 16 2) (body.drop 24)).filter (·.heldBy s.comp.map p s.node)
    match reserveElems p false es s with
    | none => sendPreAck src p id .quota [] s
    | some (es', t) =>
      if es'.all fun e => poolRoom t p e.vers (e.payload != []) == .ok then
        let t := es'.foldl (fun t e => writeElem p e t) t
        sendPreAck src p id .ok [] (t.stage src p id false es' (readRec (body.drop 24)).ver)
      else sendPreAck src p id .quota [] s

/-- The bitmap of a PRE_ACK. -/
def bitmapOf (bs : List Bool) : List Byte :=
  let n := (bs.length + 7) / 8
  padTo (roundUpTo n 8) ((List.range n).map fun i =>
    BitVec.ofNat 8 (sumNat ((List.range 8).map fun j => if bs.getD (8 * i + j) false then 2 ^ j else 0)))

/-- PRE_EID at a peer (R41 as for PRE_ELEM). -/
def doPreEid (src p : Nat) (body : List Byte) (s : State) : State :=
  let id := field body 8 8
  let del := field body 18 1 == 1
  let old := s.upd.staged.filter fun x => x.id == id && x.elems.all fun e => e.vers.isEmpty
  let s := old.foldl (fun s x => dropStaged x s) s
  let eids := (List.range (field body 16 2)).map fun i => field body (24 + 8 * i) 8
  let es : List Elem := eids.map fun e => ⟨e, 0, [], [], [], [], false, false⟩
  if !s.alignOpen then s
  else if del then
    let has := eids.map (s.corpus p).has
    match reserveElems p true es s with
    | none => sendPreAck src p id .quota (bitmapOf has) s
    | some (es, s) => sendPreAck src p id .ok (bitmapOf has) (s.stage src p id true es 0)
  else sendPreAck src p id .ok [] (s.stage src p id false es 0)

/-- PRE_ACK at the admitting node. -/
def doPreAck (src : Nat) (body : List Byte) (s : State) : State :=
  match s.batch? (field body 8 8) with
  | none => s
  | some b =>
    if b.stage == .prep && b.await_.contains src then
      if field body 16 1 = Status.quota.code then endBatch b .quota s
      else
        let hit := (b.elems.zipIdx.filter fun x => b.del && maskHas (field body (24 + x.2 / 8) 1) (x.2 % 8)).map (·.1.eid)
        modBatch b.id (fun b =>
          { b with
            await_ := b.await_.erase src
            seen := dedupKeep (b.seen ++ hit)
            hits := dedupKeep (b.hits ++ hit.map fun e => (src, e))
            owners := if hit.isEmpty then b.owners else dedupKeep (b.owners ++ [src]) }) s
    else s

/-- Frames received without a gap, with one more. -/
def Peer.advance : Nat → Peer → Peer
  | 0, x => x
  | n + 1, x => if x.later.contains (x.got + 1) then Peer.advance n { x with got := x.got + 1, later := x.later.filter (· != x.got + 1) } else x

/-- A frame mark is received. -/
def Peer.mark (f : Frame) (x : Peer) : Peer :=
  if f ≤ x.got then { x with silent := 0 }
  else Peer.advance (x.later.length + 1) { x with later := dedupKeep (x.later ++ [f]), silent := 0 }

/-- FRAME_MARK at a peer: staged elements are appended, supersessions noted (R172, R173); an element that it holds already keeps its version
(R178). -/
def doFrameMark (src p : Nat) (body : List Byte) (s : State) : State :=
  let f := field body 8 8
  if (s.corpus p).peers.any fun x => x.node == src && (decide (f ≤ x.got) || x.later.contains f) then s
  else
    let ids := (List.range (field body 16 2)).map fun i => field body (24 + 8 * i) 8
    let s := ids.foldl (fun s id =>
      (s.upd.staged.filter fun x => x.id == id && x.node == src && x.pv == p).foldl (fun s x =>
        let s := x.elems.foldl (fun s e =>
          if (s.corpus p).holdsAlready src (bitsOf id 47 40) x.seq e.eid then
            modUpd (fun u => { u with kept := u.kept ++ [(p, src, id, e.eid)] }) (dropElem p e s)
          else appendElem p x.del f src (bitsOf id 47 40) x.seq id e s) s
        modUpd (fun u => { u with staged := u.staged.filter (· != x) }) s) s) s
    modCorpus p (fun c => { c with peers := mapIf (·.node == src) (Peer.mark f) c.peers }) s

/-- COMMIT_ACK at the admitting node: an owner that committed fewer elements than it holds has withdrawn one (R45). -/
def doCommitAck (src : Nat) (body : List Byte) (s : State) : State :=
  let id := field body 8 8
  match s.batch? id with
  | none => s
  | some b =>
    if b.stage == .admitted && b.owners.contains src then
      let mine := b.elems.filter (b.partOn s.comp.map [src])
      let lack := mine.length - field body 16 2
      settleBatch id (modBatch id (fun b =>
        { b with owners := b.owners.filter (· != src), shorts := if lack = 0 then b.shorts else b.shorts ++ [(src, lack)] }) s)
    else s

/-! ## The commit of a frame (R45, R172, R175, R177) -/

/-- An entry appended by frame `f` is committed. -/
def LeanEnt.commit (f : Frame) (e : LeanEnt) : LeanEnt := { e with committed := e.committed || decide (e.appended ≤ f) }
/-- The entries of a part. -/
def LeanPart.commit (f : Frame) (l : LeanPart) : LeanPart := { l with ents := l.ents.map (LeanEnt.commit f) }

/-- The commit of frame `f` on one pavilion: the entries appended in it, the marks received in it. -/
def Corpus.commit (f : Frame) (c : Corpus) : Corpus :=
  let stores := c.stores.map fun x => { x with parts := x.parts.map (LeanPart.commit f) }
  let journal := c.journal.map fun j => { j with ent := j.ent.commit f }
  let peers := c.peers.map fun x => { x with settled := max x.settled x.got, silent := x.silent + 1 }
  let c := { c with committed := f, stores := stores, journal := journal, peers := peers }
  { c with noted := c.noted.filter fun x => decide (c.settledF < x.2.1) }

/-- The elements of a batch admitted by frame `f` have committed, those withdrawn apart. -/
def Batch.commit (f : Frame) (b : Batch) : Batch :=
  if b.stage == .admitted && decide (b.ver ≤ f) then { b with elems := b.elems.map fun e => { e with committed := !e.withdrawn } } else b

/-- Batches of other nodes that frame `f` ends here: pavilion, node, BATCH_ID, and how many of the elements that this node holds committed,
those it held already among them, those withdrawn not (R45, R177, R178). -/
def foreignDone (f : Frame) (s : State) : List (Nat × Nat × Nat × Nat) :=
  (List.range 12).flatMap fun p =>
    let es := ((s.corpus p).stores.flatMap fun x => x.parts.flatMap (·.ents)).filter fun e => e.node != s.node && e.appended == f
    let kept := s.upd.kept.filter (·.1 == p)
    (dedupKeep (es.map (fun e => (e.node, e.batch)) ++ kept.map fun k => (k.2.1, k.2.2.1))).map fun k =>
      (p, k.1, k.2, (dedupKeep (((es.filter fun e => e.batch == k.2 && !e.gone).map (·.ent.eid)) ++
        (kept.filter fun x => x.2.2.1 == k.2).map (·.2.2.2))).length)

/-- The commit at the tick that ends frame `f`: entries, acknowledgements to other admitting nodes, completions. -/
def commitFrame (f : Frame) (s : State) : State :=
  let acks := foreignDone f s
  let s := { s with corpora := s.corpora.map (Corpus.commit f) }
  let s := acks.foldl (fun s a =>
    sendMsg a.2.1 2 jIngest a.1 (leBytes 8 4 ++ leBytes 8 a.2.2.1 ++ leBytes 2 a.2.2.2 ++ zeros 6 ++ leBytes 8 f) s) s
  let s := modUpd (fun u => { u with batches := u.batches.map (Batch.commit f), kept := [] }) s
  (s.upd.batches.map (·.id)).foldl (fun s id => settleBatch id s) s

/-- The frame marks for frame `f` (R172, R196): one to each ingest peer of every pavilion that is confirmed. -/
def sendMarks (f : Frame) (s : State) : State :=
  let s' := (List.range 12).foldl (fun s p =>
    if (s.corpus p).rstate == .confirmed && !s.suspended && (s.slices p).isSome then
      let ids := (s.upd.marks.filter (·.1 == p)).map (·.2)
      (s.ingestPeers p).foldl (fun s n =>
        sendMsg n 2 jIngest p (leBytes 8 3 ++ leBytes 8 f ++ leBytes 2 ids.length ++ zeros 6 ++ ids.flatMap (leBytes 8)) s) s
    else s) s
  modUpd (fun u => { u with marks := [] }) s'

/-! ## Registers (R198, R199) -/

/-- A write to UPD_CFG. -/
def writeUpdCfg (v : W32) (s : State) : State :=
  if s.bar0Up0 then
    if inRange 16 (fld v 9 0) 1000 && decide (1 ≤ fld v 23 16) && inRange 1 (fld v 31 24) 60 then
      modUpd (fun u => { u with cfg := v &&& 0xFFFF_03FF#32 }) s
    else modUpd (fun u => { u with cfgReject := true }) s
  else s

/-- A write to MERGE_CFG. -/
def writeMergeCfg (v : W32) (s : State) : State :=
  if s.bar0Up0 then
    if decide (1 ≤ fld v 7 0) && decide (1 ≤ fld v 31 16) then modUpd (fun u => { u with mergeCfg := v &&& 0xFFFF_01FF#32 }) s
    else modUpd (fun u => { u with cfgReject := true }) s
  else s

/-- A write to UPD_STAT clears RW1C bits. -/
def clearUpdStat (v : W32) (s : State) : State :=
  modUpd (fun u => { u with cfgReject := u.cfgReject && !bit v 0, prepTimeout := u.prepTimeout && !bit v 1,
                            laggingSeen := u.laggingSeen && !bit v 2, replicaSplit := u.replicaSplit && !bit v 3 }) s

/-- R169. -/
def execUpsertBatch (wid : Nat) (recs : Option (List (List Byte))) (s : State) : Host.Outcome State Fault Refusal :=
  .next (doUpsert wid recs s)
/-- R169. -/
def execDeleteBatch (wid : Nat) (eids : Option (List Nat)) (s : State) : Host.Outcome State Fault Refusal := .next (doDelete wid eids s)
/-- R178. -/
def execSeqWaitRelease (id : Nat) (s : State) : Host.Outcome State Fault Refusal := .next (doSeqRelease id s)
/-- R169. -/
def execUpdateAdmission (id : Nat) (s : State) : Host.Outcome State Fault Refusal := .next (doUpdateAdmission id s)
/-- R171. -/
def execPrepWaitExpiry (id : Nat) (s : State) : Host.Outcome State Fault Refusal := .next (doPrepExpiry id s)
/-- R171. -/
def execStagedDiscard (id : Nat) (s : State) : Host.Outcome State Fault Refusal := .next (doStagedDiscard id s)
/-- R177. -/
def execUpdateAckTimeout (id : Nat) (s : State) : Host.Outcome State Fault Refusal := .next (doAckTimeout id s)
/-- R45. -/
def execLateLeantoWithdraw (pv : Pv) (id eid : Nat) (s : State) : Host.Outcome State Fault Refusal := .next (doWithdraw pv.val id eid s)
/-- R199. -/
def execUpdCfgWrite (v : W32) (s : State) : Host.Outcome State Fault Refusal := .next (writeUpdCfg v s)
/-- R199. -/
def execMergeCfgWrite (v : W32) (s : State) : Host.Outcome State Fault Refusal := .next (writeMergeCfg v s)

end Sys2Proof.Machine
end

