-- ==== Sys2Proof/Machine/Merge.lean ====
section
/-! DEFINITION. Merge passes, the index copy, recovery (R60 to R65, R75, R180 to R185, R194, R316). -/

namespace Sys2Proof.Machine

/-! ## Tiles (R58 to R64) -/

/-- Bytes of a directory entry (R61). -/
def PlotEnt.bytes (e : PlotEnt) : List Byte :=
  leBytes 4 e.plot ++ leBytes 4 e.tiles.length ++ leBytes 1 (if e.tiles.isEmpty then 0 else e.lastFill) ++ leBytes 1 e.quad ++ leBytes 6 e.tlist

/-- The plot directory of an epoch (R60, R61): one entry for each plot that the node owns or replicates, with TILE_COUNT 0 for one that
has no tile yet. -/
def State.plotDir (s : State) (p : Nat) (x : Store) : List PlotEnt :=
  let held := (s.comp.map.plots.filter fun y => y.pv == p && y.holders.contains s.node).map (·.plot)
  held.map fun k => (x.plotEnt? k).getD ⟨k, s.quadOf p k, [], 0, 0⟩

/-- A tile list that has grown (R61): the units of 64 bytes it needs are taken behind all others when it outgrows those it has. The spec
leaves the place to the Grounds (DESIGN CHOICE, log 138). -/
def Store.setList (x : Store) (e : PlotEnt) : Store :=
  let units (n : Nat) : Nat := (n + 15) / 16
  let n := e.tiles.length
  let grown := decide (units (n - 1) < units n)
  let e := { e with tlist := if grown then x.nextList else e.tlist }
  { x with dir := (x.dir.filter (·.plot != e.plot)) ++ [e], nextList := if grown then x.nextList + units n else x.nextList }

/-- Write a slot into a plot's last tile, or into a new tile. R59 numbers tiles from 0 and does not say which number a new tile takes: the
lowest that may be used again (R183), else the next (DESIGN CHOICE, log 140). No tile has a number above 0xFFFF_FFFE. -/
def Store.addSlot (pv : Nat) (x : Store) (plot quad sketch : Nat) (r : Rec) : Store :=
  let spt := sptOf x.width
  let e := (x.plotEnt? plot).getD ⟨plot, quad, [], 0, 0⟩
  let new : Slot := ⟨sketch, some r, false⟩
  if e.tiles.isEmpty || e.lastFill == spt then
    let free := x.freeTiles.min?
    let n := free.getD x.nextTile
    let tag : Tag := ⟨plot, n, x.epoch, 0, widthCode x.width, pv⟩
    let t : Tile := ⟨n, tag, new :: List.replicate (spt - 1) Slot.pad⟩
    Store.setList { x with tiles := (x.tiles.filter (·.num != n)) ++ [t], freeTiles := x.freeTiles.filter (· != n),
                           nextTile := if free.isSome then x.nextTile else x.nextTile + 1 }
      { e with tiles := e.tiles ++ [n], lastFill := 1 }
  else
    let n := e.tiles.getLastD 0
    { x with tiles := mapIf (·.num == n) (fun t => { t with slots := modifyAt t.slots e.lastFill fun _ => new }) x.tiles
             dir := (x.dir.filter (·.plot != plot)) ++ [{ e with lastFill := e.lastFill + 1 }] }

/-- Rewrite a plot without its deleted slots (R183): its live slots in new tiles. The replaced tiles are told; their numbers are not yet free. -/
def Store.rewrite (pv : Nat) (x : Store) (plot : Nat) : Store × List Nat :=
  match x.plotEnt? plot with
  | none => (x, [])
  | some e =>
    let live := e.tiles.flatMap fun n => ((x.tile? n).map (·.slots)).getD [] |>.filterMap fun y =>
      if y.deleted then none else y.ent.map fun r => (y.sketch, r)
    let bare := { x with tiles := x.tiles.filter fun t => !e.tiles.contains t.num
                         dir := (x.dir.filter (·.plot != plot)) ++ [{ e with tiles := [], lastFill := 0 }] }
    (live.foldl (fun x y => x.addSlot pv plot e.quad y.1 y.2) bare, e.tiles)

/-! ## The index copy (R75, R185) -/

/-- The stores as the index copy holds them: no lean-to. -/
def Store.bare (x : Store) : Store := { x with parts := x.parts.map fun l => { l with ents := [], reserved := 0, freed := 0 } }

/-- The index copy of a pavilion as it stands, with the delete-index entries at or below a frame. -/
def Corpus.copyAt (c : Corpus) (m : Frame) : IndexCopy :=
  ⟨c.stores.map Store.bare, c.dels.filter fun d => decide (d.del ≤ m), c.cur, c.stg, c.ret, c.retC, c.locator, c.corpusCfg, c.vecBase, c.payBase, c.d0, c.resketchDone, m⟩

/-- Bundles, registers and the stores of an epoch change are recorded with the index copy at once (log 32). -/
def Corpus.record (c : Corpus) : Corpus :=
  if c.cur.isNone && c.stg.isNone && c.ret.isNone then { c with index := none }
  else
    let i := c.index.getD (c.copyAt c.ckpt)
    let keep (x : Store) : Store := if i.stores.any (·.epoch == x.epoch) then (i.stores.find? (·.epoch == x.epoch)).getD x.bare else x.bare
    let eps := (c.cur.toList ++ c.stg.toList ++ c.ret.toList).map (·.epoch)
    { c with index := some { i with
        stores := (c.stores.filter fun x => eps.contains x.epoch).map keep
        cur := c.cur, stg := c.stg, ret := c.ret, retC := c.retC, corpusCfg := c.corpusCfg, vecBase := c.vecBase, payBase := c.payBase, d0 := c.d0, resketchDone := c.resketchDone } }

/-! ## Merge passes (R180 to R183, R316) -/

/-- A query of the pavilion in flight, or received by FANOUT, and its snapshot. -/
def State.flightSnaps (s : State) (p : Nat) : List Frame :=
  (s.scan.queries.filter fun q => q.pv == p && (match q.stage with
    | .finished => false | .invalid _ => false | .valid => false | _ => true)).map fun q => if q.provisional then q.fCkpt + 1 else q.snapshot

/-- The retire horizon at a boundary (R181). -/
def State.retireAt (s : State) (p : Nat) (m : Frame) : Frame :=
  (s.flightSnaps p).foldl min (min (m + 1) (s.hfn - 5000 * fld s.upd.cfgEff 23 16))

/-- Entries of a part from its head to the last one committed. -/
def LeanPart.prefixN (l : LeanPart) : Nat :=
  maxNat ((l.ents.zipIdx.filter fun x => x.1.committed).map fun x => x.2 + 1)

/-- The quadrants of a mask. -/
def quadsIn (mask : Nat) : List Nat := (List.range 4).filter (maskHas mask)

/-- The versions that a pass retires: their delete frame is below the horizon and no entry lies in a part that is not covered. -/
def Corpus.retires (c : Corpus) (mask : Nat) (h : Frame) : List (Nat × Frame × Nat) :=
  let all := c.stores.flatMap fun x => x.slotRecs.map (·.2) ++ x.leanEnts.map (·.2.ent)
  let out := c.stores.flatMap fun x => (x.leanEnts.filter fun e => !maskHas mask e.1).map (·.2.ent)
  dedupKeep ((all.filter fun r =>
    (match c.delOf r with | some d => decide (d < h) | none => false) &&
    !out.any fun o => o.eid == r.eid && o.ver == r.ver).map fun r => (r.eid, r.ver, r.elem))

/-- May the Grounds start a pass by itself (R198)? On a node of role merge one starts as soon as the one before has published (R377). -/
def State.autoMerge (s : State) (p mask : Nat) : Bool :=
  let c := s.corpus p
  let fill := fld s.upd.mergeEff 7 0
  bit s.upd.mergeEff 8 && decide (1 ≤ mask) && decide (mask < 16) &&
  ((s.comp.map.members.any fun m => m.node == s.node && m.role == 2) || decide (c.ckpt + fld s.upd.mergeEff 31 16 * 4096 ≤ s.hfn) ||
   c.stores.any fun x => (quadsIn mask).any fun q =>
     match x.parts[q]? with | some l => decide (fill * l.size ≤ 256 * l.used) | none => false)

/-- MERGE_PASS: the pass waits for its boundary, and for a running one. -/
def doMergePass (w : Work) (s : State) : State :=
  modWork w.id (fun w => { w with stage := .running })
    (modCorpus (pvOf w.fn) (fun c => { c with mergeQ := c.mergeQ ++ [(w.id, field w.desc 8 1)] }) s)

/-- MERGE_PASS_START: at a frame boundary, a requested pass, or one that the Grounds starts over the parts of a mask. No pass runs
while a RESKETCH of the pavilion runs. `plots` are those that the Grounds has the pass rewrite without their deleted slots (R183), which it
may choose as it likes; `tags` are the tags read of tiles that the pass reads, given where one does not read as written (R222). -/
def doMergeStart (p mask : Nat) (plots : List (Nat × Nat)) (tags : List (Nat × Nat × List Byte)) (s : State) : State :=
  let c := s.corpus p
  let check (s : State) (x : Nat × Nat × List Byte) : State := if tagNames p x.1 x.2.1 x.2.2 then s else tagError p x.1 x.2.1 s
  let start (wid : Option Nat) (mask : Nat) (s : State) : State :=
    let m := c.settledF
    let h := s.retireAt p m
    let taken := c.stores.flatMap fun x => (quadsIn mask).map fun q => (x.epoch, q, ((x.parts[q]?).map LeanPart.prefixN).getD 0)
    tags.foldl check
      (modCorpus p (fun c => { c with merge := some ⟨wid, mask, s.hfn, m, h, taken, c.retires mask h, plots⟩, retireH := max c.retireH h }) s)
  if s.live && s.clk.slot.isNone && c.merge.isNone && c.resketch.isNone && c.rstate == .confirmed then
    match c.mergeQ with
    | (wid, m) :: rest => start (some wid) m (modCorpus p (fun c => { c with mergeQ := rest }) s)
    | [] => if s.autoMerge p mask then start none mask s else s
  else s

/-- The entries of one part taken by a pass, moved into tiles: no tombstone, no retired version. -/
def mergePart (pv : Nat) (s : State) (retired : List (Nat × Frame × Nat)) (q n : Nat) (x : Store) : Store :=
  match x.parts[q]? with
  | none => x
  | some l =>
    let x := (l.ents.take n).foldl (fun x e =>
      if e.gone || e.ent.tomb || retired.contains (e.ent.eid, e.ent.ver, e.ent.elem) then x
      else x.addSlot pv e.plot (s.quadOf pv e.plot) e.sketch e.ent) x
    x.modPart q fun l => { l with ents := l.ents.drop n, head := (l.head + n) % max 1 l.size, freed := l.freed + n }

/-- Set the deletion bits of retired versions in slots. -/
def retireSlot (retired : List (Nat × Frame × Nat)) (y : Slot) : Slot :=
  match y.ent with
  | some r => if retired.contains (r.eid, r.ver, r.elem) then { y with deleted := true } else y
  | none => y

/-- The publication of a pass on one epoch's structures, and the tiles that it replaces. -/
def Store.publish (pv : Nat) (s : State) (m : MergePass) (x : Store) : Store × List Nat :=
  let x := (m.taken.filter (·.1 == x.epoch)).foldl (fun x t => mergePart pv s m.retired t.2.1 t.2.2 x) x
  let x := { x with tiles := x.tiles.map fun t => { t with slots := t.slots.map (retireSlot m.retired) } }
  (dedupKeep (m.rewrite.filter (·.1 == x.epoch))).foldl (fun (y : Store × List Nat) k => let r := y.1.rewrite pv k.2; (r.1, y.2 ++ r.2)) (x, [])

/-- The publication of a pass on a corpus. An entry of the delete index goes with the last version that it serves (R181). -/
def Corpus.publish (pv : Nat) (s : State) (m : MergePass) (c : Corpus) : Corpus :=
  let out := c.stores.map (Store.publish pv s m)
  let old := out.flatMap fun y => y.2.map fun n => (y.1.epoch, n)
  let c' : Corpus := { c with stores := out.map (·.1), merge := none, reuse := c.reuse ++ [⟨s.hfn, m.taken, old⟩] }
  let gone (d : DelEnt) : Bool := m.retired.any fun r => r.1 == d.eid && r.2.1 == d.ver && (match d.elem with
    | some e => e == r.2.2
    | none => !(c'.versions d.eid).any (·.ver == d.ver))
  Corpus.prune { c' with dels := c.dels.filter fun d => !gone d }

/-- MERGE_PUBLISH (R182, R355): at a later frame boundary, once its tiles fit, everything at once; the index checkpoint begins. Running batches keep their view,
in which a retired version stays invisible. -/
def doMergePublish (p : Nat) (s : State) : State :=
  match (s.corpus p).merge with
  | none => s
  | some m =>
    if s.live && s.clk.slot.isNone && decide (m.b0 < s.hfn) && s.tilesFit p (s.corpus p) (Corpus.publish p s m (s.corpus p)) then
      let s := modCorpus p (Corpus.publish p s m) s
      let n := sumNat (m.taken.map (·.2.2))
      let s := modCorpus p (fun c => { c with ckptNew := some (c.copyAt m.horizon, m.work, n) }) s
      let tile (t : ScanTile) : ScanTile := if t.pv = p then { t with slots := t.slots.map (retireSlot m.retired) } else t
      freeElems p { s with scan := { s.scan with batches := s.scan.batches.map fun b => { b with tiles := b.tiles.map tile } } }
    else s

/-- LEANTO_REUSE (R183). -/
def doLeantoReuse (p : Nat) (s : State) : State :=
  match (s.corpus p).reuse with
  | r :: rest =>
    if s.live && !(s.scan.batches.any fun b => match b.view with | some v => decide (v ≤ r.b1) | none => false) then
      modCorpus p (fun c =>
        let c := r.parts.foldl (fun c t => c.modStore t.1 fun x => x.modPart t.2.1 fun l => { l with freed := l.freed - t.2.2 }) c
        { c with reuse := rest, stores := c.stores.map fun x =>
            { x with freeTiles := x.freeTiles ++ (r.tiles.filter (·.1 == x.epoch)).map (·.2) } }) s
    else s
  | [] => s

/-- INDEX_CHECKPOINT_COMMIT (R185): the checkpoint frame becomes M, and never goes back. An epoch that came since the pass published
keeps the store that the index copy already has of it. -/
def doIndexCommit (p : Nat) (s : State) : State :=
  match (s.corpus p).ckptNew with
  | none => s
  | some (i, wid, n) =>
    if s.live && !s.flushing then
      let s := modCorpus p (fun c =>
        let eps := (c.cur.toList ++ c.stg.toList ++ c.ret.toList).map (·.epoch)
        let old := (c.index.map (·.stores)).getD []
        let pick (x : Store) : Store := ((i.stores ++ old).find? (·.epoch == x.epoch)).getD x.bare
        { c with index := some { i with
                   stores := (c.stores.filter fun x => eps.contains x.epoch).map pick
                   cur := c.cur, stg := c.stg, ret := c.ret, retC := c.retC, d0 := c.d0, resketchDone := c.resketchDone }
                 ckptNew := none
                 ckpt := max c.ckpt i.frame
                 journal := c.journal.filter fun j => decide (max c.ckpt i.frame < j.ent.ent.ver) }) s
      match wid with
      | some w => completeId w .ok 0 (spec3 0 n i.frame) s
      | none => s
    else s

/-! ## Recovery (R75, R155, R194, R196) -/

/-- The sketch that R155 gives an epoch from a version's vector record; none for a bad record (R142). -/
def Corpus.sketchFor (c : Corpus) (rd : Nat → Nat → List Byte) (ep : Nat) (r : Rec) : Option Nat :=
  match c.bundle? ep, c.bundle? r.qepoch with
  | some b, rb =>
    let rb := rb.getD b
    (rb.read (rd (c.vecAddr r.elem) (recordBytes rb.dim rb.vfmt rb.group rb.qmode))).map b.sketch
  | none, _ => none

/-- Replay one journal record: the lean-to entry comes back, committed, with its sketch rebuilt from the vector record (R155, R194); of a
bad record none is made (R142). -/
def Corpus.replay1 (rd : Nat → Nat → List Byte) (c : Corpus) (j : Journal) : Corpus :=
  let k := if j.ent.ent.tomb then some 0 else c.sketchFor rd j.epoch j.ent.ent
  let e := { j.ent with committed := true, sketch := k.getD 0, gone := j.ent.gone || k.isNone }
  let c := if k.isNone then { c with badRecord := true } else c
  let c := c.modStore j.epoch fun x => x.modPart j.quad fun l => { l with ents := l.ents ++ [e] }
  let c := if e.ent.tomb then c else (c.locate ⟨e.ent.eid, e.ent.ver, e.ent.elem, e.node, e.ring, e.seq⟩).lateDel e.ent e.node
  c.note e.ent.eid e.ent.ver e.node

/-- Every element number that an entry names. -/
def Corpus.namedElems (c : Corpus) : List Nat :=
  dedupKeep (c.stores.flatMap fun x =>
    (x.tiles.flatMap fun t => t.slots.filterMap fun y => if y.deleted then none else y.ent.map (·.elem)) ++ x.leanEnts.map (·.2.ent.elem))

/-- The corpus that the index copy holds. -/
def Corpus.load (f : Frame) (rd : Nat → Nat → List Byte) (c : Corpus) : Corpus :=
  let c := match c.index with
    | none => { c with corpusCfg := Corpus.reset.corpusCfg }
    | some i => { c with stores := i.stores, dels := i.dels, cur := i.cur, stg := i.stg, ret := i.ret, retC := i.retC, locator := i.locator, corpusCfg := i.corpusCfg, vecBase := i.vecBase,
                         payBase := i.payBase, d0 := i.d0, resketchDone := i.resketchDone }
  let c := { c with fCkpt := c.ckpt, rstate := .provisional, clipFrom := f }
  let c := (c.journal.filter fun j => decide (c.fCkpt < j.ent.ent.ver)).foldl (Corpus.replay1 rd) c
  { c with elems := c.namedElems }

/-- INDEX_LOAD_DONE: the pavilion leaves LOADING; the registers of R75 come back with the copy. -/
def doIndexLoad (p : Nat) (s : State) : State :=
  let c := s.corpus p
  if s.live && c.rstate == .loading && s.flash.replayed && (c.index.isNone || s.keyOk p) then
    loadWeights p (modCorpus p (Corpus.load s.hfn (s.range p).read) s)
  else s

/-- RECOVERY_CONFIRMED: replay or catch-up is complete and the settled frame is that of the frame before. -/
def doRecovered (p : Nat) (s : State) : State :=
  let c := s.corpus p
  if s.live && c.rstate == .provisional && decide (s.hfn ≤ c.settledF + 1) && !s.suspended && !s.comp.pulls.any (·.1 == p) then
    modCorpus p (fun c => { c with rstate := .confirmed }) s
  else s

/-- R316. -/
def execMergePass (wid : Nat) (s : State) : Host.Outcome State Fault Refusal := .next (admitWork opMerge wid doMergePass s)
/-- R180. -/
def execMergePassStart (pv : Pv) (x : PassIn) (s : State) : Host.Outcome State Fault Refusal :=
  .next (doMergeStart pv.val x.mask x.plots x.tags s)
/-- R182. -/
def execMergePublish (pv : Pv) (s : State) : Host.Outcome State Fault Refusal := .next (doMergePublish pv.val s)
/-- R183. -/
def execLeantoReuse (pv : Pv) (s : State) : Host.Outcome State Fault Refusal := .next (doLeantoReuse pv.val s)
/-- R185. -/
def execIndexCheckpointCommit (pv : Pv) (s : State) : Host.Outcome State Fault Refusal := .next (doIndexCommit pv.val s)
/-- R194. -/
def execIndexLoadDone (pv : Pv) (s : State) : Host.Outcome State Fault Refusal := .next (doIndexLoad pv.val s)
/-- R194. -/
def execRecoveryConfirmed (pv : Pv) (s : State) : Host.Outcome State Fault Refusal := .next (doRecovered pv.val s)

end Sys2Proof.Machine
end

