-- ==== Sys2Proof/Machine/Epochs.lean ====
section
/-! DEFINITION. Model loads, cutovers, epoch switches, RESKETCH, the clipping window, corpus registers (R73 to R79, R148 to R153,
R186 to R193, R313, R314, R317). -/

namespace Sys2Proof.Machine

/-! ## Model loads (R78, R79, R313) -/

/-- The image of a load that lies in the node range: its header, then the rest. -/
def rangeImage (p : Nat) (d : List Byte) (s : State) : (Option Status × List Byte) × State := readFor p (field d 8 8) (field d 16 8) 0 s

/-- MODEL_LOAD: the header, LENGTH, the rest of the image, the checks that need no resident bundle. `hdr` and `rest` are what the two reads
of host memory give. -/
def doModelLoad (hdr rest : Option (List Byte)) (w : Work) (s : State) : State :=
  let p := pvOf w.fn
  let d := w.desc
  let len := field d 16 8
  let check (image : List Byte) (s : State) : State :=
    let b := readBundle (padTo len image)
    let c := s.corpus p
    if c.vecStride ≠ 0 ∧ b.ok sha3_512 (fld c.corpusCfg 6 0) = true then
      modCorpus p (fun c => { c with loads := c.loads ++ [(w.id, b)] }) (modWork w.id (fun w => { w with stage := .running }) s)
    else failWork w .badField s
  if field d 24 1 = 0 then
    let s := hostRead w.fn (field d 8 8) 256 s
    match hdr with
    | none => failWork w .badAddress s
    | some h =>
      if (readBundle (padTo 256 h)).extent ≠ len then failWork w .badLength s
      else
        let s := hostRead w.fn (field d 8 8 + 256) (len - 256) s
        match rest with | none => failWork w .badAddress s | some bs => check (padTo 256 h ++ bs) s
  else
    match rangeImage p d s with
    | ((some st, _), s) => failWork w st s
    | ((none, bs), s) => if (readBundle (padTo 256 bs)).extent ≠ len then failWork w .badLength s else check bs s

/-- End a running RESKETCH of the pavilion (R317). -/
def endResketch (p : Nat) (st : Status) (s : State) : State :=
  match (s.corpus p).resketch with
  | some r => completeId r.work st 0 (spec3 0 r.skipped r.taken) (modCorpus p (fun c => { c with resketch := none }) s)
  | none => s

/-- A bundle becomes the staged one, in place of another. -/
def Corpus.stage (f : Frame) (b : Bundle) (c : Corpus) : Corpus :=
  let old := c.stg.map (·.epoch)
  let stores := c.stores.filter fun x => some x.epoch != old
  let journal := c.journal.filter fun j => some j.epoch != old
  let c := { c with
    stores := stores ++ [Store.new b c.partSize], journal := journal
    stg := some b, d0 := some (f + 1), resketchDone := false, rsPeers := [] }
  c.record

/-- A proposal of this node for a cutover of the pavilion has no result yet. -/
def State.cutAsked (s : State) (p : Nat) : Bool :=
  s.comp.props.any fun x => match x.ent with | .cutover q _ _ _ => q == p | _ => false

/-- MODEL_LOAD_COMPLETE: the checks against the resident bundles, at the instant the bundle would become resident. -/
def doLoadComplete (wid : Nat) (s : State) : State :=
  match s.work wid with
  | none => s
  | some w =>
    let p := pvOf w.fn
    let c := s.corpus p
    match c.loads.find? (·.1 == wid) with
    | none => s
    | some (_, b) =>
      if s.live && !s.flushing then
        let s := modCorpus p (fun c => { c with loads := c.loads.filter (·.1 != wid) }) s
        let b0 := (c.stg.map (·.epoch)).getD 0
        let res := ([c.cur, c.stg, c.ret].filterMap id).map (·.epoch)
        if res.contains b.epoch || c.ret.isSome || (c.stg.isSome && (c.cutover.isSome || s.cutAsked p || s.cutDue p b0)) then failWork w .badField s
        else
          let s := match c.cur with
            | none => loadWeights p (modCorpus p (fun c => Corpus.record { c with cur := some b, stores := c.stores ++ [Store.new b c.partSize] }) s)
            | some _ => freeElems p (modCorpus p (Corpus.stage s.hfn b) (endResketch p .epochStale s))
          complete w .ok 0 (spec3 0 b.epoch (leNat (b.digest.take 8))) s
      else s

/-! ## The end of a clipping window (R150, R151, R153) -/

/-- Groups over the limit: number, clipped, coded. -/
def overGroups (c : Corpus) : List (Nat × Nat × Nat) :=
  (c.win.zipIdx.filter fun x =>
    decide (fld c.clipEff 23 16 * 1024 ≤ x.1.coded) && decide (fld c.clipEff 15 0 * x.1.coded < (x.1.lo + x.1.hi) * 65536)).map
      fun x => (x.2, x.1.lo + x.1.hi, x.1.coded)

/-- The worst of them: the highest clipped fraction, the lowest group number among equals. -/
def worstGroup : List (Nat × Nat × Nat) → Option (Nat × Nat × Nat)
  | [] => none
  | x :: xs => match worstGroup xs with | none => some x | some y => if x.2.1 * y.2.2 < y.2.1 * x.2.2 then some y else some x

/-- The end of a window for one pavilion. The event's fraction is in units of 1/65,536, a unit that R151 and R322 leave the model to round
to: down, and a fraction of 1 is shown as 0xFFFF (DESIGN CHOICE, log 142). A CLIP_LIMIT written meanwhile is in force from here on, for the
window that begins (R153), also where none was complete. -/
def windowEnd (p : Nat) (s : State) : State :=
  let c := s.corpus p
  if s.hfn ≤ c.clipFrom then modCorpus p (fun c => { c with clipEff := c.clip }) s
  else
    let bad := overGroups c
    let s := match c.cur, worstGroup bad with
      | some b, some (g, n, k) =>
        if b.qmode = 1 then
          modCorpus p (fun c => { c with drift := true, worst := g })
            (postEventAt (s.hfn - 1) (fnOf p) evCalibDrift p
              (leBytes 1 bad.length ++ leBytes 1 g ++ leBytes 2 (satTo 0xFFFF (n * 65536 / max 1 k))) s)
        else s
      | _, _ => s
    modCorpus p (fun c => { c with pub := c.win, win := [], clipEff := c.clip, clipFrom := s.hfn }) s

/-! ## Cutovers (R190 to R193, R314) -/

/-- EPOCH_CUTOVER. -/
def doCutover (digest : Option (List Byte)) (w : Work) (s : State) : State :=
  let p := pvOf w.fn
  let c := s.corpus p
  let e := field w.desc 8 4
  let cf := field w.desc 16 8
  let s := hostRead w.fn (field w.desc 24 8) 64 s
  match digest with
  | none => failWork w .badAddress s
  | some dg =>
    let dg := padTo 64 dg
    let staged := match c.stg with | some b => b.epoch == e && b.digest == dg | none => false
    if staged && c.cutover.isNone && !s.cutAsked p && decide (s.hfn + 500 ≤ cf) && decide (cf ≤ s.hfn + 180000000) then
      propose (.cutover p e cf dg) (some w.id) none (modWork w.id (fun w => { w with stage := .running }) s)
    else failWork w .badField s

/-- A committed cutover reaches a node that serves the pavilion (R191). -/
def setCutover (p e : Nat) (cf : Frame) (s : State) : State :=
  modCorpus p (fun c => match c.stg with | some b => if b.epoch = e then { c with cutover := some cf } else c | none => c) s

/-- The first multiple of 256 at or after a frame. -/
def nextWindow (f : Frame) : Frame := (f + 255) / 256 * 256

/-- EPOCH_SWITCH: at the first boundary at or after frame C. R150 and R192 do not order the end of a window and the switch at one boundary:
the window of the epoch that leaves ends first, is published and tested (DESIGN CHOICE, log 143). A window not complete is dropped. -/
def doSwitchEpoch (p : Nat) (s : State) : State :=
  let c := s.corpus p
  match c.cutover with
  | some cf =>
    if s.live && s.clk.slot.isNone && decide (cf ≤ s.hfn) then
      loadWeights p <| modCorpus p (fun c => Corpus.record { c with
        ret := c.cur, cur := c.stg, stg := none, retC := cf, cutover := none, curD0 := c.d0.getD 0, d0 := none, resketchDone := false
        rsPeers := [], win := [], clipFrom := nextWindow s.hfn }) (if s.hfn % 256 = 0 then windowEnd p s else s)
    else s
  | none => s

/-- A query that names the epoch is in flight on the node. -/
def State.epochBusy (s : State) (p e : Nat) : Bool :=
  s.scan.queries.any fun q => q.pv == p && q.epoch == e && (match q.stage with
    | .finished => false | .invalid _ => false | .valid => false | _ => true)

/-- Free a retiring epoch. -/
def Corpus.dropRet (c : Corpus) : Corpus :=
  match c.ret with
  | none => c
  | some b =>
    Corpus.record { c with ret := none, stores := c.stores.filter (fun x => x.epoch != b.epoch),
                           journal := c.journal.filter fun j => j.epoch != b.epoch }

/-- EPOCH_RETIRE_FREE. -/
def doRetireFree (p : Nat) (s : State) : State :=
  let c := s.corpus p
  match c.ret with
  | some b =>
    if s.live && decide (c.retC + 50000 * fld s.upd.cfgEff 31 24 ≤ s.hfn) && !s.epochBusy p b.epoch then
      freeElems p (modCorpus p Corpus.dropRet s)
    else s
  | none => s

/-! ## RESKETCH (R148, R149, R188, R189, R317) -/

/-- Versions that RESKETCH takes: below D0 and visible at D0, in the current epoch's store and lean-to, each with its plot. -/
def Corpus.reskList (c : Corpus) (d0 : Frame) : List (Nat × Rec) :=
  match c.cur.bind fun b => c.store? b.epoch with
  | none => []
  | some x =>
    (x.slotRecs ++ x.leanEnts.map fun e => (e.2.plot, e.2.ent)).filter fun v => decide (v.2.ver < d0) && visible v.2.ver (c.delOf v.2) d0

/-- One version under the staged epoch: the record it keeps or gets, its sketch, and its plot. R149 does not say how a vector of D values
gives one of another DIM: it is cut, or continued with zeros (DESIGN CHOICE, log 144). -/
def resketchRec (cur stg : Bundle) (rb : Bundle) (plot : Nat) (bs : List Byte) : Option (Bool × List Byte × Nat × Nat) :=
  match rb.read bs with
  | none => none
  | some cd =>
    let place (x : Coded) : Nat := if stg.plots = cur.plots then plot else (stg.order x).headD 0
    if compatible rb stg then
      match stg.read bs with
      | some x => some (true, bs, stg.sketch x, place x)
      | none => none
    else
      let xs := rb.unrotate (cd.values rb.group)
      let xs := (List.range stg.dim).map fun i => xs.getD i F32.zero
      match stg.codeVec (stg.rotate xs) with
      | some x => some (false, stg.record x, stg.sketch x, place x)
      | none => none

/-- The version already has an entry in an epoch's store: a merge pass or a transfer brought it there. -/
def Corpus.heldIn (c : Corpus) (ep : Nat) (r : Rec) : Bool :=
  match c.store? ep with | some x => x.slotRecs.any (fun y => y.2.eid == r.eid && y.2.ver == r.ver) | none => false

/-- RESKETCH of one version: placed in a tile where this node takes its staged plot, sent to that plot's owner where it is another node, or
skipped (R188, R189). None: no element number is left. -/
def resketchOne (p : Nat) (cur stg : Bundle) (v : Nat × Rec) (s : State) : Option State :=
  let c := s.corpus p
  let skip (s : State) : State := modCorpus p (fun c => { c with resketch := c.resketch.map fun r => { r with skipped := r.skipped + 1 } }) s
  let rb := (c.bundle? v.2.qepoch).getD cur
  let n := recordBytes rb.dim rb.vfmt rb.group rb.qmode
  match readFor p (c.vecAddr v.2.elem) n 0 (askKib 6 p (c.vecAddr v.2.elem) n .keep s) with
  | ((some _, _), s) => some (skip s)
  | ((none, bs), s) =>
    if c.heldIn stg.epoch v.2 then some s
    else match resketchRec cur stg rb v.1 bs with
    | none => some (skip (if (rb.read bs).isNone then modCorpus p (fun c => { c with badRecord := true }) s else s))
    | some (same, r, sk, plot) =>
      let row := if v.2.payLen = 0 then [] else ((s.range p).read (c.payAddr v.2.elem) v.2.payLen)
      let here := s.takes p plot
      let owner := ((s.comp.map.plot? p plot).map (·.owner)).getD s.node
      let qe := if same then v.2.qepoch else stg.epoch
      let fl := if same then v.2.flags else stg.recFlags
      let l := c.loc? v.2
      let s := if owner = s.node then s else
        sendMap owner (.versions ⟨s.comp.map.epoch, plot, p⟩
          [⟨v.2.eid, v.2.ver, fl, v.2.payLen, v.2.attr, qe, c.delOf v.2, [(stg.epoch, sk, false)], r, row, (l.map (·.node)).getD s.node,
            (l.map (·.ring)).getD 0, (l.map (·.seq)).getD 0⟩]) s
      if here then
        let put (s : State) (el : Nat) : State :=
          modCorpus p (fun c =>
            let c := c.modStore stg.epoch fun x => x.addSlot p plot (s.quadOf p plot) sk { v.2 with elem := el, flags := fl, qepoch := qe }
            match l with | some l => c.locate { l with elem := el } | none => c) (fixQuad p plot s)
        if same then some (put s v.2.elem)
        else
          match allocElem s p with
          | none => none
          | some el =>
            let s := modCorpus p (fun c => { c with elems := c.elems ++ [el] }) s
            let c := s.corpus p
            let s := writeThrough p (c.vecAddr el) (padTo c.vecStride r) (some (s.quadOf p plot)) s
            let s := if row = [] then s else writeThrough p (c.payAddr el) (padTo c.payStride row) (some (s.quadOf p plot)) s
            some (put s el)
      else some s

/-- Every version, while the pools take what it writes (R238); each that is done is counted. -/
def resketchAll (p : Nat) (cur stg : Bundle) : List (Nat × Rec) → State → Option State
  | [], s => some s
  | v :: vs, s =>
    if (List.range 2).all fun sd => s.flash.poolFits sd (some .update) 32 then
      match resketchOne p cur stg v s with
      | some s => resketchAll p cur stg vs (modCorpus p (fun c => { c with resketch := c.resketch.map fun r => { r with taken := r.taken + 1 } }) s)
      | none => none
    else some s

/-- RESKETCH: once the node's visible frame has reached D0. What the staged store already holds stays: versions that a merge pass moved there
(R316), and those that peers sent (R189). Where the pools fill, it goes on when they have room again. -/
def doResketch (w : Work) (s : State) : State :=
  let p := pvOf w.fn
  let c := s.corpus p
  match c.cur, c.stg, c.d0 with
  | some cur, some stg, some d0 =>
    let mine := c.resketch.any fun r => r.work == w.id && !r.built
    if stg.epoch ≠ field w.desc 8 4 ∨ (c.resketch.isSome && !mine) = true then failWork w .badField s
    else if c.settledF + 1 < d0 ∨ c.merge.isSome = true then s
    else
      let vs := c.reskList d0
      let far := stg.plots ≠ cur.plots
      let peers := if far then (s.ingestPeers p).filter fun n => !c.rsPeers.contains (n, stg.epoch) else []
      let s0 := s
      let s := if mine then s else modCorpus p (fun c => { c with resketch := some ⟨w.id, stg.epoch, 0, 0, vs.length, peers, false⟩ }) s
      let from_ := (((s.corpus p).resketch).map (·.taken)).getD 0
      match resketchAll p cur stg (vs.drop from_) s with
      | none => endResketch p .quota s
      | some s =>
        if !s.tilesFit p c (s.corpus p) then s0
        else if (((s.corpus p).resketch).map (·.taken)).getD 0 < vs.length then s
        else
          let s := modWork w.id (fun w => { w with stage := .running }) (modCorpus p (fun c =>
            { c with resketch := c.resketch.map fun r => { r with built := true } }) s)
          if far then (s.ingestPeers p).foldl (fun s n => sendMap n (.rsDone p stg.epoch vs.length) s) s else s
  | _, _, _ => failWork w .badField s

/-- RESKETCH_COMPLETE: every version taken is written or skipped, its reads have ended, and every
peer's transfers to this node are complete. -/
def doResketchDone (p : Nat) (s : State) : State :=
  match (s.corpus p).resketch with
  | some r =>
    if s.live && r.built && r.peers.isEmpty && !s.flash.asked p .keep then
      let mark (c : Corpus) : Corpus :=
        let c := { c with resketchDone := true }
        let bare := (c.store? r.epoch).map Store.bare
        let fill (i : IndexCopy) : IndexCopy := { i with stores := i.stores.map fun x => if x.epoch = r.epoch then bare.getD x else x }
        { c with index := c.record.index.map fill, ckptNew := c.ckptNew.map fun k => (fill k.1, k.2) }
      endResketch p .ok (modCorpus p mark s)
    else s
  | none => s

/-- A peer's transfers to this node are complete (R189, R362), perhaps before this node's own RESKETCH begins. -/
def doRsDone (src p ep : Nat) (s : State) : State :=
  modCorpus p (fun c => { c with rsPeers := dedupKeep (c.rsPeers ++ [(src, ep)]), resketch := c.resketch.map fun r =>
    if r.epoch = ep then { r with peers := r.peers.filter (· != src) } else r }) s

/-! ## The clipping window (R150, R151, R153) -/

/-- QUANT_WINDOW_END: at the frame boundary that begins a frame whose HFN is a multiple of 256. -/
def doWindow (s : State) : State :=
  if s.live && s.clk.slot.isNone && s.hfn % 256 == 0 then (List.range 12).foldl (fun s p => windowEnd p s) s else s

/-! ## Registers (R73, R74, R152, R153) -/

/-- CORPUS_CFG (0), VEC_BASE (1), PAY_BASE (2). -/
def writeCorpus (f : Fn) (reg : Nat) (v : W32) (s : State) : State :=
  let p := pvOf f
  let c := s.corpus p
  if f.val != 0 && s.fnUp f && decide (reg < 3) then
    let n := if reg = 0 then { c with corpusCfg := v &&& 0x001F_3F7F#32 } else if reg = 1 then { c with vecBase := v &&& 0x3FFF_FFFF#32 }
      else { c with payBase := v &&& 0x3FFF_FFFF#32 }
    let ok := c.empty && decide (fld n.corpusCfg 6 0 ≤ 80) && decide (fld n.corpusCfg 13 8 ≤ 32) &&
      inRange 16 (fld n.corpusCfg 20 16) 24 && decide (n.vecOff < hostAreaEnd) && decide (n.payOff < hostAreaEnd) &&
      (n.payStride == 0 || n.vecOff != n.payOff)
    modCorpus p (fun c => if ok then n else { c with cfgReject := true }) s
  else s

/-- CLIP_LIMIT. -/
def writeClip (f : Fn) (v : W32) (s : State) : State :=
  if f.val != 0 && s.fnUp f then
    modCorpus (pvOf f) (fun c => if fld v 15 0 = 0 ∨ fld v 23 16 = 0 then { c with clipReject := true } else { c with clip := v &&& 0x00FF_FFFF#32 }) s
  else s

/-- The registers of R200 as they stand after a frame boundary (R201). -/
def Corpus.show (c : Corpus) : Corpus :=
  let rs := match c.rstate with | .loading => 0 | .provisional => 1 | .confirmed => 2
  let prog := match c.resketch with
    | some r => min 0xFFFF (r.taken * 65536 / max 1 r.total)
    | none => if c.resketchDone then 0xFFFF else 0
  let dual := match c.stg, c.d0 with | some _, some d => decide (d ≤ c.committed + 1) | _, _ => false
  { c with
    shSettled := c.settledF, shCkpt := c.ckpt, shCur := (c.cur.map (·.epoch)).getD 0
    shStg := match c.stg, c.ret with | some b, _ => b.epoch | none, some b => b.epoch | none, none => 0
    shCut := c.cutover
    shVis := put rs 0 2 ||| putB dual 2 ||| putB c.resketchDone 3 ||| putB c.cutover.isSome 4 ||| putB c.ret.isSome 5 ||| put prog 16 16 }

/-- R313. -/
def execModelLoad (wid : Nat) (hdr rest : Option (List Byte)) (s : State) : Host.Outcome State Fault Refusal :=
  .next (admitWork opModelLoad wid (doModelLoad hdr rest) s)
/-- R78. -/
def execModelLoadComplete (wid : Nat) (s : State) : Host.Outcome State Fault Refusal := .next (doLoadComplete wid s)
/-- R190. -/
def execEpochCutover (wid : Nat) (digest : Option (List Byte)) (s : State) : Host.Outcome State Fault Refusal :=
  .next (admitWork opCutover wid (doCutover digest) s)
/-- R192. -/
def execEpochSwitch (pv : Pv) (s : State) : Host.Outcome State Fault Refusal := .next (doSwitchEpoch pv.val s)
/-- R193. -/
def execEpochRetireFree (pv : Pv) (s : State) : Host.Outcome State Fault Refusal := .next (doRetireFree pv.val s)
/-- R188. -/
def execResketch (wid : Nat) (s : State) : Host.Outcome State Fault Refusal := .next (admitWork opResketch wid doResketch s)
/-- R188. -/
def execResketchComplete (pv : Pv) (s : State) : Host.Outcome State Fault Refusal := .next (doResketchDone pv.val s)
/-- R150. -/
def execQuantWindowEnd (s : State) : Host.Outcome State Fault Refusal := .next (doWindow s)
/-- R74. -/
def execCorpusCfgWrite (f : Fn) (reg : Nat) (v : W32) (s : State) : Host.Outcome State Fault Refusal := .next (writeCorpus f reg v s)
/-- R153. -/
def execClipLimitWrite (f : Fn) (v : W32) (s : State) : Host.Outcome State Fault Refusal := .next (writeClip f v s)

end Sys2Proof.Machine
end

