-- ==== Sys2Proof/Machine/Power.lean ====
section
/-! DEFINITION. Power, reset and boot, the flush, the package cap, the thermal steps (R18 to R20, R28, R48, R261 to R263,
R401, R405, R456 to R475, R481, R483). -/

namespace Sys2Proof.Machine

/-- Change the power state. -/
def modPwr (g : Power → Power) (s : State) : State := { s with pwr := g s.pwr }

/-! ## Search dies (R18 to R20, R29) -/

/-- The indices of the healthy units of a list. -/
def healthy (hs : List Bool) : List Nat := (hs.zipIdx.filter (·.1)).map (·.2)
/-- Logical numbers 0 to n − 1 over the healthy units, lowest first; numbers beyond them are withdrawn (R19). -/
def placed (n : Nat) (hs : List Bool) : List (Option Nat) := (List.range n).map fun i => (healthy hs)[i]?

/-- DIE_STAT of a die (R29). -/
def Die.report (d : Die) : W32 :=
  let e := (healthy d.engines).length
  let t := (healthy d.arrays).length
  put e 0 6 ||| put (if d.inService then min 48 e else 0) 6 6 ||| put t 12 3 ||| put (if d.inService then min 4 t else 0) 15 3 |||
    putB d.inService 18 ||| putB (decide (e ≤ 48) || decide (t ≤ 4)) 19

/-- A die after its self-test (R19, R20). -/
def Die.test (t : DieTest) : Die :=
  let ok := t.sramOk && t.eccOk && decide (8 ≤ (healthy t.engines).length)
  let d : Die := ⟨ok, t.engines, t.arrays, placed 48 t.engines, placed 4 t.arrays, 0#32⟩
  { d with stat := d.report }

/-! ## Reset (R9, R213, R459 to R461, R474) -/

/-- Journal records whose element's record still waited in a buffer pool are lost with it (R458). -/
def lostJournal (s : State) (p : Nat) (c : Corpus) : List Journal :=
  c.journal.filter fun j =>
    let a := recordAddr (c.vecBase.toNat * 16384) (fld c.corpusCfg 6 0 * 64) j.ent.ent.elem
    j.ent.ent.flags / 4 % 2 == 1 || !(s.flash.pool.any fun u => u.lua == hostUnit p a)

/-- What a corpus keeps through a node reset: its index copy, its journal, its SEQ records, its checkpoint frame (R75, R185, R194). The
registers of a pavilion that is not empty read 0 until the index copy is back (R73, R75). -/
def Corpus.survive (s : State) (p : Nat) (c : Corpus) : Corpus :=
  let c := { Corpus.reset with
    index := c.index, journal := lostJournal s p c, seqs := c.seqs, seqTop := c.seqTop, ckpt := c.ckpt }
  if c.empty then c else { c with corpusCfg := 0#32 }

/-- What a node range keeps (R213): pages with a durable copy are in T3, every other page is unwritten. -/
def Range.survive (r : Range) : Range :=
  { Range.reset with
    t3 := r.dur, dur := r.dur
    pages := (r.pages.filter (·.durable)).map fun g => { Page.fresh g.no with st := .t3, durable := true } }

/-- What the flash array keeps: the map of committed units, the block table, the summaries of the pages, the root record. -/
def Flash.survive (f : Flash) : Flash :=
  { Flash.reset with
    map := f.map, blocks := f.blocks.map (fun b => { b with erasing := false }), free := f.free, total := f.total, dies := f.dies,
    root := f.root, nextGseq := f.nextGseq, regionErased := f.regionErased, regionNeed := f.regionNeed, rated := f.rated, sums := f.sums }

/-- The functions after a reset: with `cfg` their configuration space survives (R459). -/
def fnsAfter (cfg : Bool) (fs : List FnState) : List FnState :=
  if cfg then fs.zipIdx.map fun (y, i) => { FnState.reset (i == 0) with enabled := y.enabled, d3 := y.d3 } else fnsReset

/-- Everything in its reset state (R459, R460) but the fuses, the NOR, the flash, what R460 names, and the levels that the board
drives. Units that still wait in a buffer pool are lost. -/
def resetNode (cause : Nat) (cfg : Bool) (s : State) : State :=
  { State.reset with
    pending := s.pending, free := s.free, nextId := s.nextId, out := s.out
    fns := fnsAfter cfg s.fns
    lodge := { Lodge.init s.lodge.fuses s.lodge.qspi with
      pvKeys := s.lodge.pvKeys.map (fun k => k.map fun x => { x with installed := false })
      nonceN := s.lodge.nonceN
      groundsRestart := s.lodge.groundsRestart }
    pwr := { Power.reset with
      cause := cause, pfailSeen := s.pwr.pfailSeen, tripped := s.pwr.tripped, tripUnit := s.pwr.tripUnit, pfailLow := s.pwr.pfailLow }
    side := { Side.reset with gpioPins := s.side.gpioPins, strap := s.side.strap, pcieClk := s.side.pcieClk, ethClk := s.side.ethClk }
    corpora := s.corpora.zipIdx.map fun (c, p) => c.survive s p
    ranges := s.ranges.map Range.survive
    flash := s.flash.survive }

/-- A node reset of the kinds that write update data out first (R459 step 4; the firmware-fault reset likewise, log 24). -/
def nodeReset (cause : Nat) (cfg : Bool) (s : State) : State := resetNode cause cfg (flushPools s).2

/-! ## Boot (R405, R406, R409, R481) -/

/-- Boot stops at a step: BOOT_FAIL on the Lodge-to-host channel (R405, R424). -/
def bootFail (step unit : Nat) (s : State) : State := lodgePost 0x80 step unit { s with phase := .failed step }

/-- Step 3 of R405: the Grounds image. -/
def bootGrounds (b : BootIn) (s : State) : State :=
  if b.stall = some 3 then { s with phase := .boot 3 }
  else
    let s := modLodge (fun l => { l with qspi := setNorRec l.qspi 1 (tryRec l.qspi.groundsRec) }) s
    match bootSlot s.lodge.fuses s.lodge.qspi 1 with
    | none => bootFail 3 0 s
    | some k =>
      let i := norSlot s.lodge.qspi 1 k
      let s := modLodge (fun l => { l with groundsImg := some ⟨k, imgSvn i, imgDigest i⟩ }) s
      { logImage 2 1 k i s with phase := .boot 4 }

/-- Step 2 of R405: the stacks, the self-test, the placing in service. A failed promenade router, or a quadrant without a search die
in service, takes the whole node out of service (R20, R220); the report names the quadrant's last die (log 154). -/
def bootTest (b : BootIn) (s : State) : State :=
  if b.stall = some 2 then { s with phase := .boot 2 }
  else
    let ds := (List.range 24).map fun i => match b.dies[i]? with | some t => Die.test t | none => Die.reset
    let s := modLodge (fun l => { l with energies := b.energies }) { s with dies := ds, lds := b.lds, scs := b.scs, sts := b.sts }
    let s := { s with scan := { s.scan with st := s.scan.st.zipIdx.map fun (x, i) =>
      match b.govs[i]? with | some g => { x with pBase := g.1, pIf := g.2.1, pBf := g.2.2 } | none => x } }
    let dead := (List.range 4).find? fun q => (List.range 6).all fun i => !(ds.getD (6 * q + i) Die.reset).inService
    match b.badRouters with
    | r :: _ => { nodeEvent evBist (leBytes 1 r ++ leBytes 1 2 ++ leBytes 1 1) s with phase := .failed 2 }
    | [] =>
      match dead with
      | some q => { nodeEvent evBist (leBytes 1 (6 * q + 5) ++ leBytes 1 0 ++ leBytes 1 1) s with phase := .failed 2 }
      | none =>
      if s.keyless then { s with phase := .lodgeOnly }
      else bootGrounds b s

/-- The straps are valid (R481). -/
def strapsOk (b : Byte) : Bool := decide (bitsOf b.toNat 5 4 < 2) && !b.getLsbD 7

/-- Boot from step 1 of R405. -/
def boot (b : BootIn) (s : State) : State :=
  let s := { s with side := { s.side with strap := b.straps, strapBad := !strapsOk b.straps } }
  if strapsOk b.straps = false then bootFail 1 0 s
  else if b.stall = some 1 then { s with phase := .boot 1 }
  else
    let s := modLodge (fun l => { l with qspi := setNorRec l.qspi 0 (tryRec l.qspi.lodgeRec) }) s
    match bootSlot s.lodge.fuses s.lodge.qspi 0 with
    | none => bootFail 1 0 s
    | some k =>
      let i := norSlot s.lodge.qspi 0 k
      let s := modLodge (fun l => { l with lodgeImg := some ⟨k, imgSvn i, imgDigest i⟩ }) s
      bootTest b (logImage 1 0 k i s)

/-- The phases in which power is applied and no reset is held. -/
def Phase.up : Phase → Bool
  | .off => false | .held _ => false | _ => true

/-- POWER_ON (R457, R459, R460): the part's fuses and NOR are what the board holds. -/
def doPowerOn (b : Board) (s : State) : State :=
  match s.phase with
  | .off | .held .perst =>
    let s := resetNode (if s.pwr.tripped then 4 else 0) false s
    { s with
      phase := .held .perst
      lodge := { Lodge.init b.fuses b.qspi with pvKeys := s.lodge.pvKeys, nonceN := s.lodge.nonceN }
      pwr := { s.pwr with pfailSeen := false, tripped := false, tripUnit := 0 }
      side := { s.side with strap := b.straps, strapBad := false } }
  | _ => s

/-- PERST_N goes low (R459, R461). -/
def doPerst (ns : Nat) (s : State) : State :=
  if ns < 1000 then s
  else
    match s.phase with
    | .off => s
    | .held .tripped => s
    | .held _ => { s with phase := .held .perst }
    | _ =>
      if s.pwr.flush.isSome then modPwr (fun p => { p with resetPending := some 1 }) s
      else { nodeReset 1 false s with phase := .held .perst }

/-- PERST_N goes high: the reference clocks are stable (R457); boot (R405). An external programmer may have written the NOR in the meantime (R487). -/
def doRelease (b : BootIn) (s : State) : State :=
  match s.phase with
  | .held .perst =>
    let s := modLodge (fun l => { l with qspi := b.prog.getD l.qspi }) s
    boot b { s with side := { s.side with pcieClk := true } }
  | _ => s

/-- BOOT_STEP_TIMEOUT (R405). -/
def doBootTimeout (unit : Nat) (s : State) : State :=
  match s.phase with
  | .boot k => bootFail k (if k = 2 ∨ k = 3 then unit % 256 else 0) s
  | _ => s

/-- GROUNDS_HEARTBEAT (R401, R405): the first one ends step 4. -/
def doHeartbeat (s : State) : State :=
  let beat (s : State) : State := modLodge (fun l => { l with hbAge := 0, hbAt := s.hfn }) s
  match s.phase with
  | .boot 4 =>
    let z (r : BootRec) : BootRec := { r with tries := 0 }
    beat (modLodge (fun l => { l with qspi := { l.qspi with lodgeRec := z l.qspi.lodgeRec, groundsRec := z l.qspi.groundsRec } })
      { s with phase := .running })
  | .running => beat s
  | _ => s

/-- The firmware-fault reset (R401, R459, R461): configuration space stays, the measurement log gets an entry of kind 6. -/
def firmwareReset (b : BootIn) (s : State) : State := addLog 6 [] [] (boot b (nodeReset 3 true s))

/-- The reset comes at once, or behind a flush that runs (R401, R459). -/
def firmwareDown (b : BootIn) (s : State) : State :=
  if s.pwr.flush.isSome then modPwr (fun p => { p with resetPending := some 3 }) s else firmwareReset b s

/-- GROUNDS_HEARTBEAT_LOST (R401): 50,000 frames without a heartbeat. -/
def doHeartbeatLost (b : BootIn) (s : State) : State :=
  if s.live && decide (50000 ≤ s.lodge.hbAge) && s.pwr.resetPending.isNone then
    firmwareDown b (lodgePost 0x81 0 (s.lodge.hbAt % 2 ^ 48) (modLodge (fun l => { l with groundsRestart := true }) s))
  else s

/-- HOST_NODE_RESET (R459, R475): 1 ms after the accepted write. -/
def doHostReset (b : BootIn) (s : State) : State :=
  match s.pwr.rstAt with
  | some f =>
    if s.phase.up && decide (f + 50 ≤ s.hfn) then
      if s.pwr.flush.isSome then modPwr (fun p => { p with resetPending := some 2, rstAt := none }) s
      else boot b (nodeReset 2 false s)
    else s
  | none => s

/-- POWER_LOSS (R213, R458): what no flush has written is lost. -/
def doPowerLoss (s : State) : State :=
  match s.phase with
  | .off => s
  | _ => { resetNode 0 false s with phase := .off }

/-! ## Power fail (R261 to R263, R462, R464) -/

/-- PFAIL_N goes low (R462): recognised from 500 ns on; the flush starts at the next slot boundary. -/
def doPfail (ns : Nat) (seen : Bool) (s : State) : State :=
  if decide (500 ≤ ns) || (decide (400 ≤ ns) && seen) then
    modPwr (fun p => { p with pfailLow := true, flushStart := if p.pfailLow then p.flushStart else s.hfn,
                              flushPend := if s.phase.up && p.flush.isNone && !p.pfailLow && !p.stopped then some .pfail else p.flushPend }) s
  else s

/-- What runs in flash at the start of a flush (R261): programs and erases are aborted by LUN resets; reads for queries wait for a batch
after it, other reads are given up. -/
def abortOps (s : State) : State :=
  let cut := dedupKeep ((s.flash.ops.filter fun o => o.st != .queued && !o.isRead).map (·.die))
  let query (o : FOp) : Bool := match o.what with | .cand .. => true | .row .. => true | _ => false
  modFlash (fun f => { f with ops := (f.ops.filter query).map fun o => { o with st := .queued } }) (cut.foldl (fun s d => nandCmd d "RESET" 0 s) s)

/-- The flush begins at a slot boundary (R261): admission stops, the package enters flush mode, and what runs in flash is aborted. -/
def flushStart (s : State) : State :=
  match s.pwr.flushPend with
  | some w =>
    if s.pwr.flush.isNone then
      let s := abortOps (modPwr (fun p => { p with flush := some w, flushPend := none, pfailSeen := true }) s)
      modFlash (fun f => { f with groups := [], ckpt := none, blocks := f.blocks.map (fun b => { b with erasing := false }),
                                  pool := f.pool.map fun u => { u with group := none } }) s
    else modPwr (fun p => { p with flushPend := none }) s
  | none => s

/-- Migration and flush work in flight never completes after a flush (R261). -/
def deadWork (s : State) : State :=
  { s with
    works := mapIf (fun w => (dOp w.desc == opFlush || dOp w.desc == opMigrate) && w.stage == .running)
      (fun w => { w with stage := .waiting }) s.works
    ranges := s.ranges.map fun r => { r with pages := r.pages.map fun g => { g with copy := none } } }

/-- PFAIL_FLUSH_DONE (R261, R462): PFAIL_DONE is posted, FLUSH_DONE goes low; then what the flush was for, or a reset that waited for
its end (R461). -/
def doFlushDone (b : BootIn) (s : State) : State :=
  match s.pwr.flush with
  | none => s
  | some why =>
    let (n, s) := flushPools s
    let s := deadWork s
    let s := nodeEvent evPfailDone (leBytes 8 n ++ leBytes 4 ((s.hfn - s.pwr.flushStart) * 20)) s
    let s := modFlash (fun f => { f with regionOk := decide (f.regionNeed ≤ f.regionErased) }) s
    let s := modPwr (fun p => { p with flush := none, stopped := true, flushDone := false, resume := !p.pfailLow }) s
    match why with
    | .clock => { resetNode 1 false s with phase := .held .clock }
    | .trip =>
      let s := resetNode s.pwr.cause false s
      modPwr (fun p => { p with thermTripN := false }) { s with phase := .held .tripped }
    | .pfail =>
      match s.pwr.resetPending with
      | some 1 => { resetNode 1 false s with phase := .held .perst }
      | some 2 => boot b (resetNode 2 false s)
      | some _ => firmwareReset b s
      | none => s

/-- PFAIL_N goes high (R263, R462): admission resumes at the next frame boundary, after any flush in progress. -/
def doPfailHigh (ns : Nat) (s : State) : State :=
  if 500 ≤ ns ∧ s.pwr.pfailLow then
    modPwr (fun p => { p with pfailLow := false, resume := p.resume || p.stopped }) s
  else s

/-- PFAIL_REGION_RESTORED (R263): the region holds enough erased bands; PFAIL_REGION_OK follows at the next frame boundary. -/
def doRegion (s : State) : State :=
  if s.flashUp && !s.flash.regionOk then modFlash (fun f => { f with regionErased := max f.regionErased f.regionNeed }) s else s

/-- The power-fail part of a frame boundary (R263, R462). -/
def pfailFrame (s : State) : State :=
  let s := modPwr (fun p =>
    { p with
      flushDone := if p.flush.isNone && !p.stopped then true else p.flushDone
      stopped := p.stopped && !(p.resume && p.flush.isNone && !p.pfailLow)
      resume := p.resume && !(p.flush.isNone && !p.pfailLow) }) s
  modFlash (fun f => { f with regionOk := f.replayed && (f.regionOk || decide (f.regionNeed ≤ f.regionErased)) }) s

/-! ## Reference clocks (R483) -/

/-- SYS_REFCLK stops: the flush of R261, then reset until the clock returns and PERST_N is asserted and released. -/
def doSysClk (s : State) : State :=
  if s.phase.up then
    let s := modPwr (fun p => { p with pfailSeen := true }) s
    if s.pwr.flush.isSome then modPwr (fun p => { p with flush := some .clock }) s
    else if s.pwr.stopped then { resetNode 1 false s with phase := .held .clock }
    else modPwr (fun p => { p with flushPend := some .clock, flushStart := s.hfn }) s
  else s

/-- A link die's reference clock is lost: its five ports go down. -/
def doEthLoss (ld : Nat) (s : State) : State :=
  if s.phase.up then
    let s := { s with side := { s.side with ethClk := modifyAt s.side.ethClk ld fun _ => false } }
    (List.range 5).foldl (fun s i =>
      settlePort (5 * ld + i) (modPort (5 * ld + i) (fun p => { p with lanes := [false, false, false, false] }) s)) s
  else s

/-- It has been back for 1 ms: its ports may retrain. -/
def doEthReturn (ld : Nat) (s : State) : State :=
  { s with side := { s.side with ethClk := modifyAt s.side.ethClk ld fun _ => true } }

/-! ## Units (R4, R28, R322, R466 to R472) -/

/-- Is the unit index a stack (R322)? -/
def isStack (u : Nat) : Bool := decide (32 ≤ u)
/-- Class budget in W (R4). -/
def budgetW (u : Nat) : Nat := if u < 24 then 27 else if u < 28 then 45 else if u < 30 then 18 else if u < 32 then 20 else 36
/-- Change a unit. -/
def modUnit (u : Nat) (g : ThermUnit → ThermUnit) (s : State) : State := modPwr (fun p => { p with units := modifyAt p.units u g }) s
/-- A unit. -/
def State.unit (s : State) (u : Nat) : ThermUnit := s.pwr.units.getD u ThermUnit.reset

/-- A change of a unit's step posts THERMAL_STEP (R471). -/
def setStep (u n : Nat) (s : State) : State :=
  let x := s.unit u
  if x.step = n then s
  else
    let s := modUnit u (fun x => { x with step := n, cool := 0 }) s
    let s := if x.step < n then modPwr (fun p => { p with stepSeen := true }) s else s
    nodeEvent evThermal (leBytes 1 u ++ leBytes 1 n ++ leBytes 1 (twos 8 x.temp)) s

/-- The highest step of a unit. -/
def topStep (u : Nat) : Nat := if isStack u then 3 else 4
/-- Number of junction sensors (R469). -/
def sensorsOf (u : Nat) : Nat := if isStack u then 2 else 4

/-- SENSOR_STUCK (R469). -/
def doStuck (u sensor : Nat) (s : State) : State :=
  if s.phase.up && decide (u < 48) && decide (sensor < sensorsOf u) then
    let s := modUnit u (fun x => { x with stuck := dedupKeep (x.stuck ++ [sensor]) }) s
    if (s.unit u).stuck.length = sensorsOf u then setStep u (topStep u) (modUnit u (fun x => { x with sensorFail := true }) s) else s
  else s

/-- Doubled refresh of the stack of a unit index. -/
def State.doubled (s : State) (st : Nat) : Bool := (s.scan.st.getD st Stack.reset).doubled

/-- Frames below its threshold that a unit's step asks for before it falls (R470, R471). -/
def coolNeed (u : Nat) : Nat := if isStack u then 16 else 64

/-- THERMAL_STEP_DOWN (R470, R471), at a frame boundary. A stack leaves step 1 with its doubled refresh. -/
def doStepDown (u : Nat) (s : State) : State :=
  let x := s.unit u
  if s.phase.up && decide (u < 48) && s.clk.slot.isNone && !x.sensorFail && decide (coolNeed u ≤ x.cool) &&
      decide ((if isStack u then 1 else 0) < x.step) then
    setStep u (x.step - 1) s
  else s

/-- REFRESH_DOUBLE_EXIT (R48, R471). -/
def doRefreshExit (st : Nat) (s : State) : State :=
  let k := s.scan.st.getD st Stack.reset
  if s.phase.up && s.clk.slot.isNone && k.doubled && decide (16 ≤ k.cool) && decide ((s.unit (32 + st)).step ≤ 1) then
    setStep (32 + st) 0 (modStack st (fun k => { k with doubled := false, cool := 0 }) s)
  else s

/-- The step that a unit enters at a frame boundary, one per boundary (R470, R471), and its count of cool frames: of each frame the
highest reading counts (R48). -/
def stepUnit (s : State) (u : Nat) : State :=
  let x := s.unit u
  if x.sensorFail then setStep u (topStep u) s
  else if isStack u then
    let k := s.scan.st.getD (u - 32) Stack.reset
    let s := if 85 < x.peak ∧ !k.doubled then modStack (u - 32) (fun k => { k with doubled := true, cool := 0 }) s
      else modStack (u - 32) (fun k => { k with cool := if x.peak ≤ 82 then k.cool + 1 else 0 }) s
    let alert : Int := fld s.pwr.thermEff 15 8
    let on := (s.scan.st.getD (u - 32) Stack.reset).doubled
    let cool := if x.step = 3 then decide (x.peak < 90) else decide (x.peak < alert - 3)
    if x.step = 0 ∧ on then setStep u 1 s
    else if x.step = 1 ∧ alert ≤ x.temp then setStep u 2 s
    else if x.step = 2 ∧ 93 ≤ x.temp then setStep u 3 s
    else modUnit u (fun x => { x with cool := if cool then x.cool + 1 else 0 }) s
  else
    let alert : Int := fld s.pwr.thermEff 7 0
    if alert ≤ x.temp ∧ x.step < 4 then setStep u (x.step + 1) s
    else modUnit u (fun x => { x with cool := if x.peak < alert - 5 then x.cool + 1 else 0 }) s

/-- A unit's part of a frame boundary; its readings of the new frame are still to come. -/
def stepFrame (s : State) (u : Nat) : State := modUnit u (fun x => { x with peak := -128 }) (stepUnit s u)

/-- One unit's samples of a slot boundary: sensor readings, °C, and power, W (R28, R469, R472). -/
def sampleUnit (u : Nat) (temps : List Int) (w : Nat) (s : State) : State :=
  let x := s.unit u
  let ok := (temps.zipIdx.filter fun t => decide (-40 ≤ t.1) && decide (t.1 ≤ 150) && !x.stuck.contains t.2).map (·.1)
  let t := match ok with | [] => x.temp | y :: ys => ys.foldl max y
  let limit : Int := if isStack u then 100 else 115
  let hot := !ok.isEmpty && decide (limit ≤ t)
  let above := decide (budgetW u < w)
  modUnit u (fun x => { x with
    temp := t, peak := max x.peak t, cutNow := false, sensorFail := ok.isEmpty, tripN := if hot then x.tripN + 1 else 0, power := w,
    overN := if above then x.overN + 1 else 0, overFrame := x.overFrame || above }) s

/-- DIE_POWER_THROTTLE (R28, R467): the slot that ends was over the class budget, as the one before it; two slots of duty less, from
the slot that begins. At most once at a boundary, and before it the sample that counts this slot too. -/
def doThrottle (u w : Nat) (s : State) : State :=
  if s.phase.up && decide (u < 32) && decide (budgetW u < w) && decide (1 ≤ (s.unit u).overN) && !(s.unit u).cutNow then
    modUnit u (fun x => { x with cut := min 16 (x.cut + 2), cutNow := true }) s
  else s

/-- THERMAL_TRIP (R464, R472): two consecutive samples at the trip limit. A storage die's flush ends at once, or does not start: what its
pool still holds is lost. -/
def doTrip (u : Nat) (s : State) : State :=
  if s.phase.up && decide (u < 48) && decide (2 ≤ (s.unit u).tripN) then
    let s := modPwr (fun p => { p with tripUnit := if p.tripped then p.tripUnit else u, tripped := true }) s
    let s := if u = 28 ∨ u = 29 then modFlash (fun f => { f with pool := f.pool.filter (·.sd != u - 28) }) s else s
    if s.pwr.flush.isSome then modPwr (fun p => { p with flush := some .trip }) s
    else if s.pwr.stopped then
      let s := resetNode s.pwr.cause false s
      modPwr (fun p => { p with thermTripN := false }) { s with phase := .held .tripped }
    else modPwr (fun p => { p with flushPend := some .trip, flushStart := s.hfn }) s
  else s

/-! ## The package cap (R465, R466) -/

/-- The cap level of a slot boundary: `w` is the package power of the previous slot. -/
def capSlot (w : Nat) (p : Power) : Power :=
  let p := { p with capEff := p.cap, thermEff := p.thermCfg, sumW := p.sumW + w, slotsW := p.slotsW + 1 }
  let cap := fld p.capEff 10 0
  let hyst := fld p.capEff 19 12
  if cap < w then { p with level := min (p.level + 1) 11, below := 0, capHit := true }
  else if w < cap - hyst then
    if p.below + 1 = 16 then { p with level := p.level - 1, below := 0 } else { p with below := p.below + 1 }
  else { p with below := 0 }

/-- The power part of a frame's end, once its last slot is measured: the mean of the frame, and the duty that a frame within budget
gives back (R465, R467). -/
def powerFrame (p : Power) : Power :=
  { p with pkgW := p.sumW / max 1 p.slotsW, sumW := 0, slotsW := 0,
           units := p.units.map fun x => { x with cut := if x.overFrame then x.cut else x.cut - 2, overFrame := false } }

/-- Permit units that the cap level leaves (R466). -/
def capUnits (level : Nat) : Nat := if level ≤ 6 then 16 - 2 * level else 4
/-- Duty that the cap level leaves. -/
def capDuty (level : Nat) : Nat := if level ≤ 6 then 16 else if level = 7 then 12 else if level = 8 then 8 else 4
/-- Duty of a search die's thermal step (R470). -/
def stepDuty (step : Nat) : Nat := match step with | 0 => 16 | 1 => 12 | 2 => 8 | 3 => 8 | _ => 4
/-- The duty of a search die in force (R467). -/
def State.duty (s : State) (die : Nat) : Nat :=
  let x := s.unit die
  min (capDuty s.pwr.level) (min (16 - x.cut) (stepDuty x.step))

/-- The share of a search die's arithmetic cycles that cycle gating leaves, in quarters (R466, R470). -/
def State.gate (s : State) (die : Nat) : Nat :=
  min (if s.pwr.level = 10 then 3 else if s.pwr.level = 11 then 2 else 4) (if 3 ≤ (s.unit die).step then 2 else 4)
/-- Arithmetic cycles of a granted slot on a search die. -/
def State.workCycles (s : State) (die : Nat) : Nat := s.clk.arithCycles * s.gate die / 4

/-! ## Registers (R474, R475) -/

/-- A write to PWR_CAP, or (`therm`) THERM_CFG. -/
def writePwr (therm : Bool) (v : W32) (s : State) : State :=
  if s.bar0Up0 then
    if therm then
      if inRange 85 (fld v 7 0) 105 && inRange 86 (fld v 15 8) 92 then modPwr (fun p => { p with thermCfg := v &&& 0xFFFF#32 }) s
      else modPwr (fun p => { p with thermReject := true }) s
    else if inRange 400 (fld v 10 0) 1500 && decide (1 ≤ fld v 19 12) then modPwr (fun p => { p with cap := v &&& 0x000F_F7FF#32 }) s
    else modPwr (fun p => { p with cfgReject := true }) s
  else s

/-- A write to RESET_CTL (R475). -/
def writeReset (v : W32) (s : State) : State :=
  if s.bar0Up0 && bit v 0 && fld v 31 16 == 0x5A32 then modPwr (fun p => { p with rstAt := some (p.rstAt.getD s.hfn) }) s else s

/-- Writes that clear the RW1C bits of PWR_STAT, THERM_STAT and RESET_STAT. -/
def clearPwrStat (v : W32) (s : State) : State :=
  modPwr (fun p => { p with capHit := p.capHit && !bit v 17, cfgReject := p.cfgReject && !bit v 18 }) s
def clearThermStat (v : W32) (s : State) : State :=
  modPwr (fun p => { p with stepSeen := p.stepSeen && !bit v 17, thermReject := p.thermReject && !bit v 18 }) s
def clearResetStat (v : W32) (s : State) : State :=
  modPwr (fun p => { p with pfailSeen := p.pfailSeen && !bit v 3, tripped := p.tripped && !bit v 4 }) s

/-- R457. -/
def execPowerOn (b : Board) (s : State) : Host.Outcome State Fault Refusal := .next (doPowerOn b s)
/-- R459. -/
def execPerstNAssert (ns : Nat) (s : State) : Host.Outcome State Fault Refusal := .next (doPerst ns s)
/-- R405. -/
def execPerstNRelease (b : BootIn) (s : State) : Host.Outcome State Fault Refusal := .next (doRelease b s)
/-- R405. -/
def execBootStepTimeout (unit : Nat) (s : State) : Host.Outcome State Fault Refusal := .next (doBootTimeout unit s)
/-- R401. -/
def execGroundsHeartbeat (s : State) : Host.Outcome State Fault Refusal := .next (doHeartbeat s)
/-- R401. -/
def execGroundsHeartbeatLost (b : BootIn) (s : State) : Host.Outcome State Fault Refusal := .next (doHeartbeatLost b s)
/-- R475. -/
def execHostNodeReset (b : BootIn) (s : State) : Host.Outcome State Fault Refusal := .next (doHostReset b s)
/-- R458. -/
def execPowerLoss (s : State) : Host.Outcome State Fault Refusal := .next (doPowerLoss s)
/-- R462. -/
def execPfailNAssert (ns : Nat) (seen : Bool) (s : State) : Host.Outcome State Fault Refusal := .next (doPfail ns seen s)
/-- R261. -/
def execPfailFlushDone (b : BootIn) (s : State) : Host.Outcome State Fault Refusal := .next (doFlushDone b s)
/-- R263. -/
def execPfailNDeassert (ns : Nat) (s : State) : Host.Outcome State Fault Refusal := .next (doPfailHigh ns s)
/-- R263. -/
def execPfailRegionRestored (s : State) : Host.Outcome State Fault Refusal := .next (doRegion s)
/-- R483. -/
def execSysRefclkLoss (s : State) : Host.Outcome State Fault Refusal := .next (doSysClk s)
/-- R483. -/
def execEthRefclkLoss (ld : Quad) (s : State) : Host.Outcome State Fault Refusal := .next (doEthLoss ld.val s)
/-- R483. -/
def execEthRefclkReturn (ld : Quad) (s : State) : Host.Outcome State Fault Refusal := .next (doEthReturn ld.val s)
/-- R469. -/
def execSensorStuck (unit sensor : Nat) (s : State) : Host.Outcome State Fault Refusal := .next (doStuck unit sensor s)
/-- R470. -/
def execThermalStepDown (unit : Nat) (s : State) : Host.Outcome State Fault Refusal := .next (doStepDown unit s)
/-- R472. -/
def execThermalTrip (unit : Nat) (s : State) : Host.Outcome State Fault Refusal := .next (doTrip unit s)
/-- R28. -/
def execDiePowerThrottle (x : UnitPower) (s : State) : Host.Outcome State Fault Refusal := .next (doThrottle x.unit x.watts s)
/-- R48. -/
def execRefreshDoubleExit (st : Fin 16) (s : State) : Host.Outcome State Fault Refusal := .next (doRefreshExit st.val s)
/-- R475. -/
def execPwrCapWrite (therm : Bool) (v : W32) (s : State) : Host.Outcome State Fault Refusal := .next (writePwr therm v s)
/-- R475. -/
def execResetCtlWrite (v : W32) (s : State) : Host.Outcome State Fault Refusal := .next (writeReset v s)

end Sys2Proof.Machine
end

