-- ==== Sys2Proof/Machine/Shares.lean ====
section
/-! DEFINITION. The per-frame shares of the pavilions and the grant of one unit (R382 to R385, R397). -/

namespace Sys2Proof.Machine

/-- Change the share state. -/
def modQos (g : Qos → Qos) (s : State) : State := { s with qos := g s.qos }

/-- A pavilion's share of a scope. -/
def Qos.share (x : Qos) (r : Res) (sc p : Nat) : Share :=
  (x.shares.find? fun y => y.res == r && y.scope == sc && y.pv == p).getD ⟨r, sc, p, 0, 0, 0, 0⟩

/-- Engines of slice `j` of a die that are all available; arrays likewise (R354). -/
def Die.engSliceOk (d : Die) (j : Nat) : Bool := (List.range 8).all fun i => (d.engMap.getD (8 * j + i) none).isSome
def Die.engAvail (d : Die) : Nat := if d.inService then (d.engMap.filter (·.isSome)).length else 0
def Die.taAvail (d : Die) : Nat := if d.inService then (d.taMap.filter (·.isSome)).length else 0

/-- Bytes that a port can send in a frame: 100 GB/s for 20 µs (R25, R343). -/
def linkFrame : Nat := 2000000

/-- Guarantee and capacity of a resource scope for a pavilion (R382, R468). For permits the capacity is that of `n` units; for the flash
operations of a class it is what the storage die can start in a frame, one in each LUN in each slot (log 153). -/
def State.guarantee (s : State) (r : Res) (sc p n : Nat) : Nat × Nat :=
  let c := (s.slices p).getD ⟨s.node, p, 0, 0, 0, 0⟩
  let d := s.dies.getD sc Die.reset
  let duty (g : Nat) : Nat := if s.duty sc < 16 then g * s.duty sc / 15 else g
  match r with
  | .eng =>
    (duty (120 * ((List.range 6).filter fun j => maskHas c.eng (6 * sc + j) && d.engSliceOk j).length), d.engAvail * 16)
  | .ta => (duty (15 * ((List.range 4).filter fun j => maskHas c.ta (4 * sc + j) && (d.taMap.getD j none).isSome).length), d.taAvail * 16)
  | .permit => (n * 48 * c.memQ (sc / 4) / 16, n * 48)
  | .link => (if maskHas c.link sc then linkFrame else 0, linkFrame)
  | .flash =>
    let w := s.qos.flashEff.getD p 0#32
    let n := 16 * (s.flash.dies.filter fun d => d.sd == sc / 14 && !d.retired).length
    (n * (if sc % 2 = 0 then fld w 9 0 else fld w 19 10) / 1000, n)
  | .merge => (192000 * fld (s.qos.mergeEff.getD p 0#32) 9 0 / 1000, 192000)

/-- A pavilion's share of a scope at its reload: nothing used (R383). -/
def State.freshShare (s : State) (r : Res) (sc p n : Nat) : Share :=
  let (g, cap) := s.guarantee r sc p n
  let l := max g (cap * fld (s.qos.weightEff.getD p 0#32) 22 16 / 100)
  ⟨r, sc, p, min g l, l, 0, 0⟩

/-- The scopes of each resource: 24 dies, 24 dies, 16 stacks, 20 ports, reads and programs of two storage dies in seven classes, the
29 instances of the merge tree. -/
def resScopes : List (Res × Nat) :=
  [(.eng, 24), (.ta, 24), (.link, 20), (.flash, 28), (.merge, 29)]

/-- Reload every share at a frame boundary (R49 step 5, R383). -/
def reloadShares (s : State) : State :=
  let all : List Share := resScopes.flatMap fun r => (List.range r.2).flatMap fun sc => (List.range 12).map fun p => s.freshShare r.1 sc p 0
  modQos (fun x => { x with shares := all }) s

/-- The sum of a frame's permit counts is kept under scope 100 + the stack, since the counts of use start again in every slot. -/
def sumPermits (x : Qos) (st p : Nat) : Share :=
  let a := x.share .permit st p
  let t := x.share .permit (100 + st) p
  ⟨.permit, 100 + st, p, t.g + a.g, 0, t.u + a.u, t.b + a.b⟩

/-- The shares of one stack's permits for a slot or half slot. -/
def permitShares (st n : Nat) (s : State) : State :=
  let sums : List Share := (List.range 12).map (sumPermits s.qos st)
  let new : List Share := (List.range 12).map fun p => s.freshShare .permit st p n
  let rest : List Share := s.qos.shares.filter fun y => !(y.res == .permit && y.scope % 100 == st)
  modQos (fun x => { x with shares := rest ++ sums ++ new }) s

/-- The choice of R383 among pavilions with work waiting, each with the age key of its oldest work: the pavilion, and whether the
unit is borrowed. -/
def Qos.pick (x : Qos) (r : Res) (sc : Nat) (cands : List (Nat × Nat)) : Option (Nat × Bool) :=
  let cands := sortBy (fun a b => decide (a.1 < b.1)) (cands.filter fun c => decide ((x.share r sc c.1).u < (x.share r sc c.1).l))
  let first := cands.filter fun c => decide ((x.share r sc c.1).u < (x.share r sc c.1).g)
  match leastBy (fun a b => decide (a.2 < b.2)) first with
  | some c => some (c.1, false)
  | none =>
    let w (p : Nat) : Nat := fld (x.weightEff.getD p 0#32) 7 0
    let b (p : Nat) : Nat := (x.share r sc p).b
    let ws := cands.filter fun c => decide (0 < w c.1)
    let best := if ws.isEmpty then leastBy (fun a c => decide (b a.1 < b c.1)) cands
      else leastBy (fun a c => decide ((b a.1 + 1) * w c.1 < (b c.1 + 1) * w a.1)) ws
    best.map fun c => (c.1, true)

/-- Charge units to a pavilion (R383). -/
def Qos.charge (x : Qos) (r : Res) (sc p n : Nat) (borrowed : Bool) : Qos :=
  let mine (y : Share) : Bool := y.res == r && y.scope == sc && y.pv == p
  let add (y : Share) : Share := { y with u := y.u + n, b := if borrowed then y.b + n else y.b }
  { x with shares := mapIf mine add x.shares }

/-- PV_USE of the frame that ends (R397). -/
def usePct (u g : Nat) : Nat := if g = 0 then (if u = 0 then 0 else 0xFF) else satTo 0xFF (u * 100 / g)
def pvUse (x : Qos) (p : Nat) : Nat × Nat × Nat :=
  let of (r : Res) : List Share := x.shares.filter fun y => y.pv == p && y.res == r
  let all := x.shares.filter fun y => y.pv == p
  let u (ys : List Share) : Nat := sumNat (ys.map (·.u))
  let g (ys : List Share) : Nat := sumNat (ys.map (·.g))
  let b := sumNat (all.map (·.b))
  (usePct (u (of .eng)) (g (of .eng)), usePct (u (of .permit)) (g (of .permit)), if u all = 0 then 0 else satTo 0xFF (b * 100 / u all))

/-- Keep PV_USE at a frame boundary, before the shares are reloaded. -/
def noteUse (s : State) : State := modQos (fun x => { x with use := (List.range 12).map (pvUse x) }) s

end Sys2Proof.Machine
end

