-- ==== Sys2Proof/Machine/Batch.lean ====
section
/-! DEFINITION. Command batches of the flash channels (R43, R237, R238, R383, R470). -/

namespace Sys2Proof.Machine

/-- Garbage collection is urgent: free blocks are below GC_URGENT, or the power-fail region is being restored (R237, R263). -/
def Flash.urgent (f : Flash) : Bool := decide (f.free * 1024 < fld f.cfgEff 23 16 * f.total) || !f.regionOk

/-- The class in which an operation is taken now. -/
def Flash.classOf (f : Flash) (o : FOp) : Nat := if o.cls = 4 && f.urgent then 3 else o.cls

/-- The storage die and the channel of a LUN. -/
def Flash.sdOfDie (f : Flash) (die : Nat) : Nat := ((f.dies.find? (·.id == die)).map (·.sd)).getD 0
def Flash.channelOf (f : Flash) (die : Nat) : Nat := ((f.dies.find? (·.id == die)).map (·.channel)).getD 0

/-- LUNs of a channel that may program or erase at once (R470). -/
def lunLimit (step : Nat) : Nat := match step with | 0 => 16 | 1 => 8 | 2 => 4 | 3 => 2 | _ => 1

/-- The scope of an operation's share (R382): storage die, class, reads or programs. -/
def Flash.opScope (f : Flash) (o : FOp) : Nat := f.sdOfDie o.die * 14 + f.classOf o * 2 + (if o.isRead then 0 else 1)

/-- What runs in a LUN. -/
def Flash.runningOn (f : Flash) (die : Nat) : Option FOp := f.ops.find? fun o => o.die == die && o.st == .running

/-- The program or erase that an operation suspends (R237): a read of class 2 in a LUN busy with class 4 or below, where the profile and
SUSPEND_EN allow it, at most twice. -/
def Flash.suspends (f : Flash) (o : FOp) : Option FOp :=
  match f.runningOn o.die with
  | some r => if o.cls = 2 && f.suspendOk && bit f.cfgEff 6 && !r.isRead && decide (4 ≤ f.classOf r) && decide (r.susp < 2) then some r else none
  | none => none

/-- The LUN can take the operation: it is idle and keeps nothing suspended but this one, or the operation suspends what runs there. A
suspended operation goes on when no read of class 2 waits for its LUN. -/
def Flash.lunTakes (f : Flash) (o : FOp) : Bool :=
  let others := f.ops.filter fun x => x.die == o.die && x.id != o.id
  match f.runningOn o.die with
  | some _ => (f.suspends o).isSome && o.st == .queued
  | none =>
    if o.st = .suspended then !others.any fun x => x.cls == 2 && x.st == .queued
    else o.cls == 2 || !others.any (·.st == .suspended)

/-- Read staging has room for the codewords of a read: 1 MiB for its channel, or the class's own (R238). -/
def Flash.stages (f : Flash) (o : FOp) : Bool :=
  let mine := sumNat ((f.ops.filter fun x => x.st == .running && x.isRead && f.channelOf x.die == f.channelOf o.die).map (·.n))
  decide (mine + o.n ≤ 1024) || f.poolFits (f.sdOfDie o.die) none o.n

/-- An operation that the next place of a channel's batch may take: its LUN is not retired, has none in this batch and can take it; a read
finds room, a program or an erase a LUN within the limit of the thermal step, and the pavilion is below its limit. -/
def opFits (s : State) (ch : Nat) (used : List Nat) (o : FOp) : Bool :=
  let f := s.flash
  let busy := (f.ops.filter fun x => x.st == .running && !x.isRead && f.channelOf x.die == ch).length
  f.channelOf o.die == ch && (f.dies.any fun d => d.id == o.die && !d.retired) && !used.contains o.die && o.st != .running && f.lunTakes o &&
  (if o.isRead then f.stages o else decide (busy < lunLimit (s.unit (28 + f.sdOfDie o.die)).step)) &&
  (match o.pv with
   | some p => o.st == .suspended || decide ((s.qos.share .flash (f.opScope o) p).u < (s.qos.share .flash (f.opScope o) p).l)
   | none => true)

/-- The operation that the batch takes next (R237, R383): of the first class, by the shares of the pavilions, the oldest first; work charged
to no pavilion takes what no pavilion wants. -/
def nextOp (s : State) (ch : Nat) (used : List Nat) : Option (FOp × Bool) :=
  let f := s.flash
  let ok := f.ops.filter (opFits s ch used)
  match (ok.map f.classOf).min? with
  | none => none
  | some c =>
    let ok := ok.filter fun o => f.classOf o == c
    let kind := ((leastBy (fun a b : FOp => decide (a.id < b.id)) ok).map FOp.isRead).getD true
    let ok := ok.filter fun o => o.isRead == kind
    let sc := ((ok.head?).map f.opScope).getD 0
    let oldest (xs : List FOp) : Option FOp := leastBy (fun a b => decide (a.id < b.id)) xs
    let pvs := dedupKeep (ok.filterMap (·.pv))
    match s.qos.pick .flash sc (pvs.map fun p => (p, ((ok.filter fun o => o.pv == some p).map (·.id)).min?.getD 0)) with
    | some (p, bor) => (oldest (ok.filter fun o => o.pv == some p)).map fun o => (o, bor)
    | none => (oldest ok).map fun o => (o, false)

/-- The summary of the page that a program writes (R236). -/
def progSum (s : State) (o : FOp) (q i pos : Nat) : PageSum :=
  let g := s.flash.groups.find? (·.gseq == q)
  let u := ((g.bind fun g => g.stripes[i]?).bind fun x => x.pages[pos]?).bind fun p => p.poolUnit s
  ⟨o.pun, o.lua, pos, if u.isNone then 0xFF else if (g.map (·.slc)).getD false then 0 else 1, q, s.hfn,
    ((s.flash.dies.find? (·.id == o.die)).map (·.temp)).getD 0, i, u.bind (·.src)⟩

/-- The commands that start an operation in its LUN (R233). -/
def issueOp (o : FOp) (s : State) : State :=
  match o.what with
  | .prog q i pos =>
    let sum := progSum s o q i pos
    let bs := match s.flash.groups.find? (·.gseq == q) with
      | some g => (match g.stripes[i]? with | some x => progBytes g i pos x sum s | none => [])
      | none => []
    emit (.nand o.die "PAGE PROGRAM" o.pun bs)
      (if pos = 15 then s else modFlash (fun f => { f with sums := (f.sums.filter fun x => x.pun != o.pun) ++ [sum] }) s)
  | .erase blk => nandCmd o.die "BLOCK ERASE" blk s
  | _ => nandCmd o.die "CHANGE READ COLUMN" (1152 * o.first) (nandCmd o.die "READ PAGE" o.pun s)

/-- Start an operation, or let a suspended one go on. -/
def startOp (o : FOp) (bor : Bool) (s : State) : State :=
  let set (id : Nat) (g : FOp → FOp) : State → State := modFlash fun f => { f with ops := mapIf (·.id == id) g f.ops }
  let s := match s.flash.suspends o with
    | some r => nandCmd o.die "SUSPEND" r.pun (set r.id (fun r => { r with st := .suspended, susp := r.susp + 1 }) s)
    | none => s
  if o.st = .suspended then nandCmd o.die "RESUME" o.pun (set o.id (fun o => { o with st := .running }) s)
  else
    let s := match o.pv with
      | some p => modQos (fun x => x.charge .flash (s.flash.opScope o) p 1 bor) s
      | none => s
    issueOp o (set o.id (fun o => { o with st := .running }) s)

/-- The command batch of a channel: at most one operation for each of its LUNs. -/
def channelBatch (ch : Nat) : Nat → List Nat → State → State
  | 0, _, s => s
  | n + 1, used, s =>
    match nextOp s ch used with
    | some (o, bor) => channelBatch ch n (o.die :: used) (startOp o bor s)
    | none => s

/-- The command batches of a slot: at most one for each channel. -/
def flashBatches (s : State) : State :=
  if s.flash.ops.isEmpty then s
  else (dedupKeep (s.flash.dies.map (·.channel))).foldl (fun s ch =>
    channelBatch ch (s.flash.dies.filter (·.channel == ch)).length [] s) s

end Sys2Proof.Machine
end

