-- ==== Sys2Proof/Machine/Search.lean ====
section
/-! DEFINITION. Searches: validation, admission, encoding, routing, and the queries that owners serve for other nodes
(R31, R168, R176, R186, R195 to R197, R303 to R308, R336, R363 to R371). -/

namespace Sys2Proof.Machine

/-! ## Queries -/

/-- Change the scan state. -/
def modScan (g : Scan → Scan) (s : State) : State := { s with scan := g s.scan }
/-- A query by number. -/
def State.query? (s : State) (id : Nat) : Option Query := s.scan.queries.find? (·.id == id)
/-- Change a query. -/
def modQuery (id : Nat) (g : Query → Query) (s : State) : State :=
  modScan (fun x => { x with queries := mapIf (·.id == id) g x.queries }) s
/-- Remove a query and all that belongs to it. -/
def dropQuery (id : Nat) (s : State) : State :=
  modScan (fun x => { x with
    queries := x.queries.filter (·.id != id), hits := x.hits.filter (·.qid != id),
    lanes := x.lanes.filter (·.qid != id), tree := x.tree.filter (·.qid != id) }) s

/-- The snapshot that visibility is tested at (R195). -/
def Query.visAt (q : Query) : Frame := if q.provisional then q.fCkpt + 1 else q.snapshot

/-- A pavilion's visible frame (R175): the settled frame plus 1; for an owner that is provisional, F_ckpt + 1 (R197). -/
def State.visF (s : State) (p : Nat) : Frame :=
  let c := s.corpus p
  match c.rstate with
  | .confirmed => c.settledF + 1
  | .provisional => c.fCkpt + 1
  | .loading => 0

/-- The visible frame has reached the query's snapshot (R176, R195). -/
def Query.seen (s : State) (q : Query) : Bool := q.provisional || decide (q.snapshot ≤ s.visF q.pv)
/-- The query names a plot whose state this node is still pulling: it is held (R369). -/
def Query.pulling (s : State) (q : Query) : Bool := !q.provisional && s.comp.pulls.any fun x => x.1 == q.pv && q.plots.contains x.2.1
/-- The query may join a batch now: one that names an epoch which is still staged here waits for the switch (R176, R192). -/
def Query.ready (s : State) (q : Query) : Bool :=
  q.seen s && ((s.corpus q.pv).stg.map (·.epoch)) != some q.epoch && !q.pulling s

/-- A query before anything is known of it. -/
def Query.new (id work idx pv : Nat) (q : QRec) (prov : Bool) (epoch : Nat) (now : Frame) (st : QStage) : Query where
  id := id
  work := work
  idx := idx
  pv := pv
  origin := none
  q := q
  prov := prov
  epoch := epoch
  snapshot := 0
  admSeq := 0
  arrived := now
  stage := st
  code := ⟨[], 0, [], [], []⟩
  sketch := 0
  vector := []
  order := []
  plots := []
  toJoin := []
  toScan := []
  thr := q.t0
  hist := []
  tieDrops := 0
  l2 := []
  cands := []
  formedAt := 0
  gatherAt := 0
  fetchWait := 0
  widenEn := false
  widenLeft := q.widen
  rounds := 0
  top := []
  tieOut := 0
  nLost := 0
  parts := []
  awaitNodes := []
  fanRound := 0
  fanReroute := 0
  bad := []
  provisional := false
  fCkpt := 0
  vis := none
  deduped := false
  shadowed := false
  kth := 0
  fin := .ok
  finFlags := 0

/-! ## Validation (R137, R168, R297, R304, R305) -/

/-- The context of a query record. -/
def qctx (b : Bundle) (c : Corpus) : QCtx :=
  ⟨b.dim, b.plots, b.width, b.scorer.isSome, b.encoder.map fun p => (p.inCols, p.inDtype), fld c.corpusCfg 13 8⟩

/-- One encoder input value (R160, R162). -/
def encValue (dt v : Nat) : F32 :=
  if dt = 0 then BitVec.ofNat 32 v else if dt = 1 then BitVec.ofNat 32 (v * 65536)
  else if dt = 2 then F32.ofInt (signed 8 v) else F32.ofInt (signed 32 v)

/-- The encoder run on the record's input: the query vector, and indices out of range (R168). -/
def encode (p : Program) (dim : Nat) (bs : List Byte) : List F32 × Nat :=
  let n := encBytes p.inDtype
  let raw := (List.range p.inCols).map fun i => field bs (i * n) n
  let r := runProgram p (fun _ => [raw.map (encValue p.inDtype)]) (fun _ => raw) 1
  ((List.range dim).map fun i => (r.1.getD 0 []).getD i F32.zero, r.2)

/-- The query vector of a record. -/
def queryVec (b : Bundle) (q : QRec) : List F32 × Nat :=
  if q.qfmt = 4 then (match b.encoder with | some p => encode p b.dim q.input | none => ([], 0)) else (qVector q, 0)

/-- The bundle that a search descriptor names, or the status that R186 gives the descriptor. -/
def searchEpoch (s : State) (p e : Nat) : Status ⊕ Bundle :=
  let c := s.corpus p
  let hfn := s.hfn
  if e = 0 then
    match c.inForce hfn with | some b => .inr b | none => .inl .epochStale
  else
    match c.cur, c.stg with
    | some b, none => if b.epoch = e then (if c.inForce hfn = some b then .inr b else .inl .epochStale) else .inl .epochStale
    | some b, some x =>
      if x.epoch = e then (if s.cutDue p e then .inr x else .inl .badField)
      else if b.epoch = e && c.inForce hfn == some b then .inr b else .inl .epochStale
    | none, some x => if x.epoch = e && s.cutDue p e then .inr x else .inl .epochStale
    | none, none => .inl .epochStale

/-- `GATHER` indices out of range: counted, and `QUANT_STAT.GATHER_RANGE` set (R164). -/
def noteGather (p n : Nat) (s : State) : State :=
  if n = 0 then s else count (some p) 2 7 n (modCorpus p (fun c => { c with gatherRange := true }) s)

/-- One record of a search descriptor: the query, valid or not. -/
def takeRecord (w : Work) (b : Bundle) (s : State) (x : List Byte × Nat) : State :=
  let p := pvOf w.fn
  let q := readQRec x.1
  let cx := qctx b (s.corpus p)
  let (vec, oob) := if qLenOk cx (dQStride w.desc) q then queryVec b q else ([], 0)
  let st := match qCheck cx (dQStride w.desc) x.1 vec with | some st => QStage.invalid st | none => .valid
  let (id, s) := fresh s
  let y := { Query.new id w.id x.2 p q w.prov b.epoch s.hfn st with vector := vec }
  modScan (fun z => { z with queries := z.queries ++ [y] }) (noteGather p oob s)

/-! ## Completion of a search (R307, R308) -/

/-- The queries of a work item, in record order. -/
def State.queriesOf (s : State) (wid : Nat) : List Query :=
  sortBy (fun a b => decide (a.idx < b.idx)) (s.scan.queries.filter fun q => q.work == wid && q.origin.isNone)

/-- A query of the work item has still to finish. -/
def QStage.over : QStage → Bool | .finished => true | .invalid _ => true | _ => false
/-- The status a finished query has. -/
def Query.outcome (q : Query) : Status := match q.stage with | .invalid st => st | _ => q.fin

/-- The counter that a status of a query adds to. -/
def statIdx (st : Status) : Nat := if st = .ok then 2 else if st = .short then 3 else if st = .trunc then 4 else 5

/-- The status record of a query that was not admitted. -/
def writeInvalid (w : Work) (s : State) (q : Query) : State :=
  match q.stage with
  | .invalid st => hostWrite w.fn (field w.desc 24 8 + 32 * q.idx) (statusRecord st 0 0 0 0 0 0 0 0 0) (count (some q.pv) 0 5 1 s)
  | _ => s

/-- The descriptor completes once every one of its queries has finished. -/
def settleSearch (wid : Nat) (s : State) : State :=
  match s.work wid with
  | none => s
  | some w =>
    let qs := s.queriesOf wid
    if qs.all fun q => q.stage.over then
      let n (f : Status → Bool) : Nat := (qs.filter fun q => f q.outcome).length
      let good (st : Status) : Bool := st == .ok || st == .short || st == .trunc
      let spec := leBytes 2 qs.length ++ leBytes 2 (n (· == .ok)) ++ leBytes 2 (n (· == .short)) ++ leBytes 2 (n (· == .trunc)) ++
        leBytes 2 (n fun st => !good st) ++ leBytes 8 (maxNat (qs.map (·.snapshot)))
      let fl := qs.foldl (fun m q => m ||| q.finFlags) 0
      let s := qs.foldl (writeInvalid w) s
      let s := modScan (fun x => { x with queries := x.queries.filter fun q => !(q.work == wid && q.origin.isNone) }) s
      complete w (firstStatus (qs.map Query.outcome)) fl spec s
    else s

/-- SEARCH and SEARCH_BATCH: the records have been read (none: a read failed, R277). -/
def doSearch (op wid : Nat) (recs : Option (List (List Byte))) (s : State) : State :=
  match s.work wid with
  | none => s
  | some w =>
    if s.live && w.stage == .fetched && dOp w.desc == op && w.fn.val != 0 then
      let s := hostRead w.fn (field w.desc 16 8) (dCount w.desc * dQStride w.desc * 64) s
      match recs with
      | none => failWork w .badAddress s
      | some rs =>
        if !s.composed (pvOf w.fn) then failWork w .quota s
        else
          match searchEpoch s (pvOf w.fn) (dEpoch w.desc) with
          | .inl st => failWork w st s
          | .inr b =>
            let rs := (List.range (dCount w.desc)).map fun i => (rs.getD i [], i)
            let s := rs.foldl (takeRecord w b) (modWork wid (fun w => { w with stage := .waiting }) s)
            settleSearch wid s
    else s

/-! ## Admission (R31, R44, R135, R186, R195, R306) -/

/-- The record checked again under another epoch than it was validated under (the epoch in force changed meanwhile). -/
def recheck (b : Bundle) (stride : Nat) (c : Corpus) (q : Query) : Query :=
  if q.epoch = b.epoch || q.stage != .valid then q
  else
    let cx := qctx b c
    let vec := (queryVec b q.q).1
    if qLenOk cx stride q.q = false then { q with stage := .invalid .badLength, epoch := b.epoch }
    else if qFieldOk cx q.q vec = false then { q with stage := .invalid .badField, epoch := b.epoch }
    else { q with vector := vec, epoch := b.epoch }

/-- Every query that is still valid takes its snapshot, and its place in the order of admission (R84). -/
def Query.admitted_ (s : State) (c : Corpus) (b : Bundle) (k : Nat) (q : Query) : Query :=
  if q.stage = .valid then
    { q with stage := .admitted, snapshot := s.hfn, admSeq := k, epoch := b.epoch, provisional := c.rstate == .provisional, fCkpt := c.fCkpt,
             fetchWait := fld s.scan.rerankEff 9 0, widenEn := bit s.scan.rerankEff 16, hist := List.replicate (b.width + 1) 0 }
  else q

/-- QUERY_ADMISSION of the queries of one descriptor. -/
def doQueryAdmission (wid : Nat) (s : State) : State :=
  match s.work wid with
  | none => s
  | some w =>
    let p := pvOf w.fn
    let c := s.corpus p
    let open_ := s.admits && !s.pvInReset p && !s.suspended &&
      (match c.rstate with | .confirmed => true | .provisional => w.prov | .loading => false)
    if open_ && w.stage == .waiting && isSearch (dOp w.desc) then
      match searchEpoch s p (dEpoch w.desc) with
      | .inl st =>
        failWork w st (modScan (fun x => { x with queries := x.queries.filter fun q => !(q.work == wid && q.origin.isNone) }) s)
      | .inr b =>
        if c.inForce s.hfn != some b then s
        else
          let mine (q : Query) : Bool := q.work == wid && q.origin.isNone
          let again := s.scan.queries.filter fun q => mine q && q.stage == .valid && q.epoch != b.epoch && qLenOk (qctx b c) (dQStride w.desc) q.q
          let s := noteGather p (sumNat (again.map fun q => (queryVec b q.q).2)) s
          let s := modScan (fun x => { x with queries := mapIf mine (recheck b (dQStride w.desc) c) x.queries }) s
          let n := (s.scan.queries.filter fun q => mine q && q.stage == .valid).length
          let (k, s) := fresh s
          let s := modScan (fun x => { x with queries := mapIf mine (Query.admitted_ s c b k) x.queries }) s
          settleSearch wid (count (some p) 0 1 n (modWork wid (fun w => { w with stage := .running }) s))
    else s

/-! ## Routing (R365, R371, R372) -/

/-- Where one plot of a query goes. -/
inductive Route where
  | to (node : Nat)
  | lost
  /-- Its only holders are suspended: the visible frame that they last had. -/
  | dark (vis : Frame)
  deriving DecidableEq, Repr

/-- The server of a plot (R371): among the holders that are not suspended, those of role query first, by hash. -/
def routePlot (m : CMap) (qid p plot : Nat) : Route :=
  match m.plot? p plot with
  | none => .lost
  | some x =>
    if x.st = .lost then .lost
    else
      let hs := sortBy (fun a b => decide (a < b)) (x.holders.filter m.serving)
      let f := ((m.members.filter fun y => x.holders.contains y.node).map (·.settled)).min?.getD 0
      let qs := hs.filter fun n => m.members.any fun y => y.node == n && y.role == 0
      let from_ := if qs.isEmpty then hs else qs
      if x.st = .dark || hs.isEmpty then .dark (f + 1) else .to (from_.getD (Config.hash [qid, plot] % from_.length) 0)

/-- The plots of this pavilion that this node serves (R85). -/
def State.ownPlots (s : State) (p : Nat) : List Nat :=
  (s.comp.map.plots.filter fun x => x.pv == p && x.serves s.node).map (·.plot)

/-- The flags byte of a query record (R336). -/
def fqf (q : Query) : Nat :=
  (if q.q.rising then 1 else 0) + (if q.q.scEn then 2 else 0) + (if q.q.payWant then 4 else 0) + (if q.q.sweep then 8 else 0) +
    (if q.q.acomb then 16 else 0) + (if q.prov then 32 else 0)

/-- A query record of a FANOUT (R336). -/
def fanBytes (width : Nat) (q : Query) (round reroute : Nat) (plots : List Nat) : List Byte :=
  let terms := q.q.terms.flatMap fun t => leBytes 4 t.mask ++ leBytes 4 t.val ++ leBytes 1 t.op ++ zeros 3
  let tail := packCodes 0 q.code.codes ++ paramBlock 0 q.code ++ leBytes (width / 8) q.sketch ++
    (if q.q.sweep then [] else plots.flatMap (leBytes 4))
  let units := (96 + tail.length + 63) / 64
  let head := leBytes 8 q.id ++ leBytes 8 q.snapshot ++ leBytes 4 q.epoch ++ leBytes 2 q.q.k ++ leBytes 2 q.q.c ++
    leBytes 2 (if q.q.sweep then 0 else plots.length) ++ leBytes 2 q.q.t0 ++ leBytes 1 q.q.metric ++ leBytes 1 (fqf q) ++
    leBytes 2 q.q.scTopn ++ padTo 48 terms ++ leBytes 2 round ++ leBytes 2 units ++ leBytes 1 reroute ++ zeros 11
  padTo (64 * units) (head ++ tail)

/-- The quadrants in which the node's plots lie. -/
def State.quadsFor (s : State) (p : Nat) (plots : List Nat) : List Nat := dedupKeep (plots.map (s.quadOf p))

/-- Keep the quadrant of every plot of a list. -/
def fixQuads (p : Nat) (plots : List Nat) (s : State) : State := plots.foldl (fun s k => fixQuad p k s) s

/-- A record that names this node: a separate scan of its own, answered as another node's would be (R365). -/
def selfRecord (q : Query) (round reroute : Nat) (plots : List Nat) (s : State) : State :=
  let (id, s) := fresh s
  let s := fixQuads q.pv plots s
  let y : Query := { q with
    id := id, origin := some (s.node, q.id), admSeq := id, plots := plots, toJoin := s.quadsFor q.pv plots, toScan := [], stage := .routed, l2 := []
    cands := [], top := [], tieOut := 0, nLost := 0, parts := [], awaitNodes := [], fanRound := round, fanReroute := reroute
    bad := [], vis := none, deduped := false, shadowed := false, tieDrops := 0, arrived := s.hfn }
  modScan (fun x => { x with queries := x.queries ++ [y] }) s

/-- Send the query records of a list of plots to their servers (R336, R371): `own` says what this node's part is. -/
def fanOut (q : Query) (round reroute : Nat) (to_ : List (Nat × List Nat)) (s : State) : State :=
  let width := (((s.corpus q.pv).bundle? q.epoch).map (·.width)).getD 0
  to_.foldl (fun s x =>
    let s := if x.1 = s.node then selfRecord q round reroute x.2 s
      else sendMsg x.1 1 jFanout q.pv (fanBytes width q round reroute x.2) s
    modQuery q.id (fun y => { y with awaitNodes := y.awaitNodes ++ [⟨x.1, round, reroute, x.2, s.hfn + 1⟩] }) s) s

/-- Plots by server. -/
def byServer (rs : List (Nat × Route)) : List (Nat × List Nat) :=
  let ns := dedupKeep (rs.filterMap fun x => match x.2 with | .to n => some n | _ => none)
  ns.map fun n => (n, (rs.filter fun x => x.2 == .to n).map (·.1))

/-- What plots that nothing serves do to a query (R370, R372). -/
def Query.noteGone (rs : List (Nat × Route)) (q : Query) : Query :=
  let lost := rs.any fun x => x.2 == .lost
  let viss := rs.filterMap fun x => match x.2 with | .dark v => some v | _ => none
  { q with
    bad := q.bad ++ (if lost then [.stateLost] else []) ++ (if viss.isEmpty then [] else [.lagging])
    vis := (viss ++ q.vis.toList).min? }

/-- Route one round of a query: this node's plots wait for scan batches, the others go out. -/
def routeRound (qid : Nat) (plots : List Nat) (s : State) : State :=
  match s.query? qid with
  | none => s
  | some q =>
    let all := if q.q.sweep then (s.comp.map.plots.filter (·.pv == q.pv)).map (·.plot) else plots
    let rs := all.map fun k => (k, routePlot s.comp.map q.id q.pv k)
    let own := if q.q.sweep then s.ownPlots q.pv else (rs.filter fun x => x.2 == .to s.node).map (·.1)
    let others := if q.q.sweep then
        (((s.comp.map.servers q.pv).filter fun n => n != s.node && s.comp.map.serving n).map fun n => (n, []))
      else ((byServer rs).filter fun x => x.1 != s.node).map fun x => (x.1, sortBy (fun a b => decide (a < b)) x.2)
    let s := fixQuads q.pv own s
    let s := modQuery qid (fun q =>
      { q.noteGone rs with plots := own, toJoin := s.quadsFor q.pv own, stage := if own.isEmpty then .localDone else .routed }) s
    fanOut q q.rounds 0 others s

/-! ## Answers to other nodes (R337) -/

/-- One entry of a PARTIAL. -/
def entWire (e : Ent) : List Byte :=
  let fl := (if e.lean then 2 else 0) + (if e.scored then 4 else 0) + (if e.fromFlash then 8 else 0) + (if e.payErr then 32 else 0)
  leBytes 8 e.eid ++ leBytes 8 e.ver ++ leBytes 4 e.score ++ leBytes 1 fl ++ zeros 3

/-- A PARTIAL message. -/
def partialBytes (payStride qid : Nat) (q : Query) (st : Status) (ents : List Ent) (vis : Frame) : List Byte :=
  let fl := (if q.provisional then 1 else 0) + (if 0 < q.tieDrops then 2 else 0) + (if q.deduped then 4 else 0) + (if q.shadowed then 8 else 0)
  let ru := if q.q.payWant then payStride else 0
  leBytes 8 qid ++ leBytes 1 st.code ++ leBytes 1 fl ++ leBytes 2 ents.length ++ leBytes 2 (satTo 0xFFFF q.tieOut) ++
    leBytes 2 (satTo 0xFFFF q.nLost) ++ leBytes 4 q.kth ++ leBytes 2 ru ++ leBytes 2 q.fanRound ++
    leBytes 8 (if q.provisional then q.fCkpt else 0) ++ leBytes 8 vis ++ leBytes 4 q.epoch ++ leBytes 1 q.fanReroute ++ zeros 19 ++
    ents.flatMap entWire ++ (if q.q.payWant then ents.flatMap fun e => padTo (64 * ru) (e.row.getD []) else [])

/-- An entry of a PARTIAL read back. -/
def readEnt (bs : List Byte) (row : List Byte) : Ent :=
  let fl := field bs 20 1
  ⟨field bs 0 8, field bs 8 8, field bs 16 4, fl.testBit 1, fl.testBit 2, fl.testBit 3, fl.testBit 5, 0, row.length, some row⟩

/-- The partial list that a PARTIAL carries. -/
def readPart (src : Nat) (bs : List Byte) : Part :=
  let fl := field bs 9 1
  let n := field bs 10 2
  let ru := 64 * field bs 20 2
  let st := Status.ofCode (field bs 8 1)
  { node := src
    ents := (List.range n).map fun i => readEnt (slice bs (64 + 24 * i) 24) (slice bs (64 + 24 * n + ru * i) ru)
    kth := field bs 16 4
    tieOut := field bs 12 2
    nLost := field bs 14 2
    tieDrops := fl.testBit 1
    st := st
    fCkpt := if fl.testBit 0 then some (field bs 24 8) else none
    vis := if st = .lagging then some (field bs 32 8) else none
    deduped := fl.testBit 2 }

/-- Answer a record with a status and no entries. -/
def refuseFan (src p qid : Nat) (q : Query) (st : Status) (s : State) : State :=
  count none 4 6 1 (sendMsg src 1 jPartial p (partialBytes 0 qid { q with q := { q.q with payWant := false } } st [] 0) s)

/-- The owner's status and partial list of a query, kept at its own node. -/
def Query.part (node : Nat) (q : Query) : Part where
  node := node
  ents := q.top
  kth := q.kth
  tieOut := q.tieOut
  nLost := q.nLost
  tieDrops := decide (0 < q.tieDrops)
  st := firstStatus q.bad
  fCkpt := if q.provisional then some q.fCkpt else none
  vis := if q.bad.contains .lagging then q.vis else none
  deduped := q.deduped

/-- Keep a partial list for the final merge, in place of the record that it answers. -/
def addPart (qid : Nat) (r : FanRec) (x : Part) (shadowed : Bool) (s : State) : State :=
  modQuery qid (fun q => { q with parts := q.parts ++ [x], awaitNodes := q.awaitNodes.erase r, shadowed := q.shadowed || shadowed }) s

/-- Re-route the plots of a redirected record (R365): the fourth redirection ends in TIMEOUT. -/
def rerouteRec (q : Query) (r : FanRec) (s : State) : State :=
  let s := modQuery q.id (fun q => { q with awaitNodes := q.awaitNodes.erase r }) s
  if 3 ≤ r.reroute then modQuery q.id (fun q => { q with bad := q.bad ++ [.timeout] }) s
  else
    let rs := r.plots.map fun k => (k, routePlot s.comp.map q.id q.pv k)
    let s := modQuery q.id (Query.noteGone rs) s
    fanOut q r.round (r.reroute + 1) (byServer rs) s

/-- A PARTIAL, or the answer to a record of this node's own, reaches the originating node (R131, R337, R365). -/
def takePartial (src p : Nat) (body : List Byte) (s : State) : State :=
  match s.scan.queries.find? fun q => q.id == field body 0 8 && q.pv == p && q.origin.isNone && !q.stage.over with
  | none => s
  | some q =>
    match q.awaitNodes.find? fun r => r.node == src && r.round == field body 22 2 && r.reroute == field body 44 1 with
    | none => s
    | some r =>
      if Status.ofCode (field body 8 1) = .redirect then rerouteRec q r s
      else addPart q.id r (readPart src body) ((field body 9 1).testBit 3) s

/-- This node's part of a query is complete: kept for the final merge, or sent as a PARTIAL (R131, R337). -/
def finishLocal (id : Nat) (s : State) : State :=
  match s.query? id with
  | none => s
  | some q =>
    match q.origin with
    | none => modQuery id (fun q => { q with parts := q.parts ++ [q.part s.node], stage := .localDone, nLost := 0, tieOut := 0 }) s
    | some (src, qid) =>
      let st := firstStatus q.bad
      let body := partialBytes (fld (s.corpus q.pv).corpusCfg 13 8) qid q st q.top (if st = .lagging then q.vis.getD 0 else 0)
      let s := freeElems q.pv (dropQuery id s)
      if src = s.node then takePartial src q.pv body s
      else count none 4 6 1 (sendMsg src 1 jPartial q.pv body s)

/-! ## FANOUT (R41, R176, R181, R186, R195, R197, R336, R363, R364, R370) -/

/-- A query record of a FANOUT read back, under the epoch it names. -/
def readFan (b : Bundle) (bs : List Byte) : QRec × Coded × Nat × List Nat :=
  let fl := field bs 29 1
  let ng := b.ng
  let o := 96 + b.dim
  let s2 := field bs o 2
  let sc := (List.range ng).map fun i => field bs (o + 2 + i) 1
  let zps := (List.range ng).map fun i => signed 8 (field bs (o + 2 + ng + i) 1)
  let o2 := o + 2 + 2 * ng
  let o3 := o2 + b.width / 8
  let q : QRec :=
    { bufAddr := 0, bufLen := 0, k := field bs 20 2, c := field bs 22 2, probes := field bs 24 2, widen := 0, scTopn := field bs 30 2
      t0 := field bs 26 2, qfmt := 0, metric := field bs 28 1, rising := fl.testBit 0, scEn := fl.testBit 1, payWant := fl.testBit 2
      sweep := fl.testBit 3, acomb := fl.testBit 4, scale := F32.zero
      terms := (List.range 4).map fun i => ⟨field bs (32 + 12 * i) 4, field bs (36 + 12 * i) 4, field bs (40 + 12 * i) 1 % 8⟩
      inLen := 0, input := [] }
  (q, ⟨(List.range b.dim).map fun i => codeAt 0 (bs.drop 96) i, s2, sc.map (groupScale · s2), sc, zps⟩,
   field bs o2 (b.width / 8), (List.range (field bs 24 2)).map fun i => field bs (o3 + 4 * i) 4 % 2 ^ 20)

/-- The node answers for a plot under the routing epoch of a request (R363): a holder under the map in force, or the old owner up
to the drain deadline. -/
def State.answersFor (s : State) (p plot r : Nat) : Bool :=
  match s.comp.map.plot? p plot with
  | none => false
  | some x => x.holders.contains s.node ||
      (decide (r < s.comp.map.epoch) && x.left.any fun l => l.1 == s.node && decide (r < l.2.1) && decide (s.hfn ≤ l.2.2 + 2))

/-- One query record of a FANOUT; a pavilion in reset answers RESET (R391). While its alignment closes admission a node admits none and sends
no answer (R41; DESIGN CHOICE, log 141). A widening round of a query that this node has answered is a scan of its own: it begins at the
record's `T0` with an empty histogram, while the originator's own scan goes on from the threshold it has reached; R103 and R118 leave open
where an owner begins (DESIGN CHOICE, log 145). -/
def serveRecord (src p r : Nat) (bs : List Byte) (s : State) : State :=
  let c := s.corpus p
  let qid := field bs 0 8
  let ep := field bs 16 4
  let snap := field bs 8 8
  let bare := { Query.new 0 0 0 p (readQRec []) false ep s.hfn .valid with fanRound := field bs 80 2, fanReroute := field bs 84 1 }
  if !s.alignOpen then s
  else if s.pvInReset p then refuseFan src p qid bare .reset s
  else match c.bundle? ep with
  | none => refuseFan src p qid bare .epochStale s
  | some b =>
    let (q, cd, sk, plots) := readFan b bs
    let provOk := (field bs 29 1).testBit 5
    if decide (snap ≤ c.retireH) then refuseFan src p qid bare .timeout s
    else if !q.sweep && !plots.all (fun k => s.answersFor p k r) then refuseFan src p qid bare .redirect s
    else
      let lost := plots.filter fun k => match s.comp.map.plot? p k with | some x => x.st == .lost | none => false
      let own := if q.sweep then s.ownPlots p else plots.filter fun k => !lost.contains k
      let (id, s) := fresh s
      let s := fixQuads p own s
      let y : Query := { Query.new id 0 0 p q provOk ep s.hfn (if own.isEmpty then .localDone else .routed) with
        origin := some (src, qid), snapshot := snap, admSeq := id, code := cd, sketch := sk, plots := own, toJoin := s.quadsFor p own
        fetchWait := fld s.scan.rerankEff 9 0, hist := List.replicate (b.width + 1) 0
        fanRound := field bs 80 2, fanReroute := field bs 84 1
        bad := if lost.isEmpty then [] else [.stateLost]
        provisional := provOk && c.rstate == .provisional, fCkpt := c.fCkpt }
      let s := modScan (fun x => { x with queries := x.queries ++ [y] }) s
      if own.isEmpty then finishLocal id s else s

/-- Cut a FANOUT into its records. -/
def fanRecords : Nat → List Byte → List (List Byte)
  | 0, _ => []
  | n + 1, bs => if bs.length < 96 then [] else
    let k := 64 * max 1 (field bs 82 2)
    bs.take k :: fanRecords n (bs.drop k)

/-- FANOUT, routed under map epoch `r`. -/
def doFanout (src p r : Nat) (body : List Byte) (s : State) : State :=
  (fanRecords body.length body).foldl (fun s bs => serveRecord src p r bs s) (count none 4 5 1 s)

/-! ## Held queries (R176) -/

/-- HELD_QUERY_LAGGING: every query held past its limit is answered; one event for the frame. -/
def doHeldLagging (s : State) : State :=
  let late := s.scan.queries.filter fun q =>
    q.stage == .routed && !q.toJoin.isEmpty && !q.seen s && decide (q.arrived + 10 ≤ s.hfn)
  if s.live then
    match late with
    | [] => s
    | q0 :: _ =>
      let s := late.foldl (fun s q =>
        let v := (s.visF q.pv :: q.vis.toList).min?
        finishLocal q.id (modQuery q.id (fun q => { q with toJoin := [], bad := q.bad ++ [.lagging], vis := v }) s)) s
      let s := { s with upd := { s.upd with laggingSeen := true } }
      postEvent 0 evLag q0.pv (leBytes 1 1 ++ zeros 3 ++ leBytes 8 (s.visF q0.pv)) s
  else s

/-- R303, R305. -/
def execSearch (wid : Nat) (recs : Option (List (List Byte))) (s : State) : Host.Outcome State Fault Refusal :=
  .next (doSearch opSearch wid recs s)
/-- R303, R305. -/
def execSearchBatch (wid : Nat) (recs : Option (List (List Byte))) (s : State) : Host.Outcome State Fault Refusal :=
  .next (doSearch opSearchBatch wid recs s)
/-- R31, R306. -/
def execQueryAdmission (wid : Nat) (s : State) : Host.Outcome State Fault Refusal := .next (doQueryAdmission wid s)
/-- R176. -/
def execHeldQueryLagging (s : State) : Host.Outcome State Fault Refusal := .next (doHeldLagging s)

end Sys2Proof.Machine
end

