-- ==== Sys2Proof/Machine/Scan.lean ====
section
/-! DEFINITION. The sketch scan: batches, the split between bank filters and engines, permits and the governor, bursts, claims,
steals, compaction, selection units, drains and the merge tree (R80 to R117). -/

namespace Sys2Proof.Machine

/-! ## Sampled jobs (R429, R435) -/

/-- The temperature band of a die (R435). -/
def bandOf (t : Int) : Nat := if t < 60 then 0 else if t < 75 then 1 else if t < 90 then 2 else 3
/-- The physical unit behind a logical number (R18). -/
def State.physOf (s : State) (die : Nat) (ta : Bool) (n : Nat) : PUnit :=
  let d := s.dies.getD die Die.reset
  ⟨die, ta, ((if ta then d.taMap else d.engMap).getD n none).getD 0⟩
/-- The draw of a job as it starts (R429). -/
def drawMark (s : State) : Bool × State :=
  let (v, s) := draw s
  let m := 2 ^ fld s.integ.shadowEff 4 0
  (bit s.integ.shadowEff 5 && v % m == m - 1, s)
/-- Mark a job for shadowing; its queries carry SHADOWED (R302, R433). -/
def addShadow (die : Nat) (scan : Bool) (u : PUnit) (qids : List Nat) (batch : Nat) (tiles : List Nat) (head : Option Ckpt) (bytes : Nat)
    (s : State) : State :=
  let (id, s) := fresh s
  let x : Shadow := ⟨id, die / 6, scan, u, bandOf (s.unit die).temp, qids, batch, tiles, head, bytes, s.hfn, []⟩
  let s := { s with integ := { s.integ with shadows := s.integ.shadows ++ [x] } }
  qids.foldl (fun s q => modQuery q (fun q => { q with shadowed := true }) s) s

/-! ## Tiles and batches -/

/-- Change a batch. -/
def modSBatch (id : Nat) (g : ScanBatch → ScanBatch) (s : State) : State :=
  modScan (fun x => { x with batches := mapIf (·.id == id) g x.batches }) s
/-- A batch by number. -/
def State.sbatch? (s : State) (id : Nat) : Option ScanBatch := s.scan.batches.find? (·.id == id)
/-- Change a tile of a batch. -/
def ScanBatch.modTile (b : ScanBatch) (i : Nat) (g : ScanTile → ScanTile) : ScanBatch := { b with tiles := modifyAt b.tiles i g }

/-- Sketches per bank-filter cycle and per engine cycle (R81). -/
def kwOf (width : Nat) : Rat := if width = 128 then 2 else if width = 256 then 1 else 1 / 2
def lwOf (width : Nat) : Nat := if width = 512 then 16 else 32
/-- Passes that a tile needs in the bank (R98). -/
def ScanTile.need (t : ScanTile) : Nat := (t.qids.length + qpfOf t.width - 1) / qpfOf t.width
/-- A tile is done when its bank has run every pass, or when no engine job has it left. -/
def ScanBatch.tileDone (b : ScanBatch) (i : Nat) : Bool :=
  match b.tiles[i]? with
  | none => true
  | some t => t.done || (if t.inBank then decide (t.need ≤ t.passes) else !b.jobs.any fun j => j.tiles.contains i)

/-- A promenade connection carries traffic: one of its modules does not retrain (R24). -/
def State.connUp (s : State) (c : Nat) : Bool := (s.mods.getD c []).isEmpty || (s.mods.getD c []).any fun m => !m.retraining
/-- The search dies of a quadrant that are in service and can be reached. -/
def State.quadDies (s : State) (q : Nat) : List Nat :=
  (List.range 6).map (6 * q + ·) |>.filter fun d => (s.dies.getD d Die.reset).inService && s.connUp d
/-- The sink of a stack's in-bank hits: the stacks of the quadrant spread over its dies. -/
def State.sink (s : State) (st : Nat) : Nat :=
  let ds := s.quadDies (st / 4)
  ds.getD (st % 4 % max 1 ds.length) (6 * (st / 4) + st % 4)

/-- Available logical engines of a die, by number. -/
def Die.engs (d : Die) : List Nat := if d.inService then (List.range 48).filter fun e => (d.engMap.getD e none).isSome else []

/-- Engine groups of a batch (R83): width and lanes. -/
def groupsOf (qs : List Query) (width : Query → Nat) : List (Nat × List Nat) :=
  [128, 256, 512].flatMap fun w => (chunks (qpeOf w) ((qs.filter fun q => width q == w).map (·.id))).map fun ls => (w, ls)

/-- Engines of group `i` out of `g` on a die (R83): its e engines, or one engine shared in rounds. -/
def groupEngs (d : Die) (g i : Nat) : List Nat :=
  let es := d.engs
  if es.isEmpty then []
  else if g ≤ es.length then (List.range (es.length / g)).map fun k => es.getD (i * (es.length / g) + k) 0
  else [es.getD (i % es.length) 0]

/-- The width of a query's sketch. -/
def State.qWidth (s : State) (q : Query) : Nat := (((s.corpus q.pv).bundle? q.epoch).map (·.width)).getD 256

/-- The queries of a batch. -/
def State.batchQs (s : State) (b : ScanBatch) : List Query := b.qids.filterMap s.query?

/-- The engine whose selection unit takes a lane's hits on a die (R101): the first of the group that R83 gave the query when the split
was fixed. -/
def State.laneEng (s : State) (b : ScanBatch) (die qid : Nat) : Nat :=
  let i := (b.groups.findIdx? fun g => g.2.contains qid).getD 0
  (groupEngs (s.dies.getD die Die.reset) b.groups.length i).headD 0

/-- Slot index of a position of a tile (R59), or of an entry of a lean-to part (R66). -/
def slotIndex (width tile pos : Nat) : Nat := tile * sptOf width + pos

/-- The 64-bit word of a hit (R100). -/
def Hit.word (h : Hit) : Nat :=
  h.slot + (if h.lean then 2 ^ 38 else 0) + h.lane * 2 ^ 39 + h.sim * 2 ^ 48

/-- The bytes of a checkpoint (R96). -/
def Ckpt.bytes (c : Ckpt) : List Byte :=
  let w := if c.width = 0 then 16 else if c.width = 1 then 32 else 64
  leBytes 8 c.batch ++ leBytes 4 c.tileNext ++ leBytes 4 c.tileEnd ++ leBytes 1 c.store ++ leBytes 1 c.width ++ leBytes 1 c.qcount ++
    zeros 5 ++ leBytes 8 c.laneMask ++ padTo 128 (c.thresh.flatMap (leBytes 2)) ++ padTo 2048 (c.qsk.flatMap (leBytes w))

/-- The checkpoint of a job that has lost its slot (R96). -/
def State.ckptOf (s : State) (b : ScanBatch) (j : Job) : Ckpt where
  batch := j.batch
  tileNext := j.ran.length
  tileEnd := j.ran.length + j.tiles.length
  store := (((j.tiles.head?).bind fun i => b.tiles[i]?).map (·.store)).getD 0
  width := widthCode j.width
  qcount := j.lanes.length
  laneMask := match (j.tiles.head?).bind fun i => b.tiles[i]? with
    | some t => sumNat (j.lanes.zipIdx.map fun (q, i) => if t.qids.contains q then 2 ^ i else 0)
    | none => 0
  thresh := j.lanes.map fun q => ((s.query? q).map (·.thr)).getD 0
  qsk := j.lanes.map fun q => ((s.query? q).map (·.sketch)).getD 0

/-! ## The query and re-rank area of the search dies (R147, R167, R430) -/

/-- Its size. -/
def queryArea : Nat := 12 * 2 ^ 20
/-- Bytes of a query's codes and parameters (R143, R147). -/
def Query.codeBytes (q : Query) : Nat := q.code.codes.length + 2 + 2 * q.code.scales.length
/-- The query's codes are held: from its encoding on, or, for a query of another node, from when it joins a scan batch. Every die holds the
codes of every query of the node (DESIGN CHOICE, log 148). -/
def Query.held (q : Query) : Bool :=
  match q.stage with
  | .routed => q.origin.isNone
  | .scanning | .fetching | .gathering => true
  | .localDone => q.origin.isNone
  | _ => false
/-- Bytes of query codes held. -/
def State.codesHeld (s : State) : Nat := sumNat ((s.scan.queries.filter Query.held).map Query.codeBytes)
/-- Shadows whose inputs a die holds, oldest first, and the bytes held: one that finds the area full waits. -/
def State.shadowsHeld (s : State) (die : Nat) : Nat × List Nat :=
  (s.integ.shadows.filter fun x => x.prim.die == die).foldl (fun h x =>
    if h.1 + x.bytes ≤ queryArea then (h.1 + x.bytes, h.2 ++ [x.id]) else h) (s.codesHeld, [])
/-- Bytes free in the area of every die in service. -/
def State.areaFree (s : State) : Nat :=
  ((List.range 24).filter fun d => (s.dies.getD d Die.reset).inService).foldl (fun n d => min n (queryArea - (s.shadowsHeld d).1)) queryArea

/-- Queries that can come in: those of other nodes as far as the area holds their codes. -/
def takeRoom : Nat → List Query → List Query
  | _, [] => []
  | n, q :: qs =>
    if q.held then q :: takeRoom n qs
    else if q.codeBytes ≤ n then q :: takeRoom (n - q.codeBytes) qs
    else takeRoom n qs

/-! ## Forming batches (R82, R84, R85, R176) -/

/-- Bytes of a query's sketch in the query store. -/
def State.sketchBytes (s : State) (q : Query) : Nat := s.qWidth q / 8

/-- The queries that fit one batch, in order. -/
def takeFit (bytes : Query → Nat) : Nat → Nat → List Query → List Query
  | _, _, [] => []
  | n, room, q :: qs => if n = 0 ∨ room < bytes q then [] else q :: takeFit bytes (n - 1) (room - bytes q) qs

/-- Form the batch of a quadrant at a frame boundary (R84), oldest admission first. -/
def formBatch (s : State) (quad : Nat) : State :=
  let cand := s.scan.queries.filter fun q => (q.stage == .routed || q.stage == .scanning) && q.toJoin.contains quad && q.ready s
  let cand := sortBy (fun a b => decide (a.admSeq < b.admSeq)) cand
  let qs := takeFit s.sketchBytes 512 16384 (takeRoom s.areaFree cand)
  if qs.isEmpty then s
  else
    let (id, s) := fresh s
    let ids := qs.map (·.id)
    let b : ScanBatch := ⟨id, quad, s.hfn, none, ids, [], [], s.scan.scanEff, []⟩
    let s := modScan (fun x => { x with batches := x.batches ++ [b] }) s
    let join (q : Query) : Query := { q with stage := .scanning, toJoin := q.toJoin.filter (· != quad), toScan := q.toScan ++ [quad] }
    ids.foldl (fun s i => modQuery i join s) s

/-- Tiles of one plot for a batch (R60 to R62). -/
def plotTiles (x : Store) (pv : Nat) (quad plot : Nat) (qids : List Nat) : List ScanTile :=
  match x.plotEnt? plot with
  | none => []
  | some e =>
    if e.quad != quad then []
    else e.tiles.zipIdx.map fun (n, i) =>
      let bank := bankOf plot i
      let fill := if i + 1 = e.tiles.length then e.lastFill else sptOf x.width
      let slots := ((x.tile? n).map (·.slots)).getD []
      ⟨4 * quad + bankStack bank, bank, pv, x.epoch, x.width, 0, n, plot, i, fill, slots.take fill, qids, false, 0, false⟩

/-- The entries of a part from its head, cut where a tile ends: tile index, position of the first entry, entries. The number is fuel. -/
def leanRuns (spt size : Nat) : Nat → Nat → List LeanEnt → List (Nat × Nat × List LeanEnt)
  | 0, _, _ => []
  | _, _, [] => []
  | k + 1, i, e :: es =>
    let n := min (spt - i % spt) (size - i)
    (i / spt, i % spt, (e :: es).take n) :: leanRuns spt size k ((i + n) % max 1 size) ((e :: es).drop n)

/-- The lean-to part of the quadrant as tiles (R66, R85, R94): entry i stands at position i mod spt of its tile; positions before the
head hold none, and the last tile is filled up to the tail. An entry that has been taken out keeps its place and is not compared. -/
def leanTiles (x : Store) (pv : Nat) (quad : Nat) (qids : List Nat) : List ScanTile :=
  let l := x.parts.getD quad LeanPart.none
  let spt := sptOf x.width
  (leanRuns spt l.size (l.ents.length + 1) l.head l.ents).map fun (i, p, es) =>
    let bank := i % 12288
    let slots := List.replicate p Slot.pad ++ es.map fun e => if e.gone then Slot.pad else ⟨e.sketch, some e.ent, false⟩
    ⟨4 * quad + bankStack bank, bank, pv, x.epoch, x.width, 1, i, 0xFFFFFFFF, i, p + es.length, slots, qids, false, 0, false⟩

/-- Every tile of a batch at its view boundary (R85). -/
def State.batchTiles (s : State) (b : ScanBatch) : List ScanTile :=
  let qs := s.batchQs b
  (dedupKeep (qs.map fun q => (q.pv, q.epoch))).flatMap fun k =>
    match (s.corpus k.1).store? k.2 with
    | none => []
    | some x =>
      let mine := qs.filter fun q => q.pv == k.1 && q.epoch == k.2
      let plots := sortBy (fun a c => decide (a < c)) (dedupKeep (mine.flatMap (·.plots)))
      (plots.flatMap fun pl => plotTiles x k.1 b.quad pl ((mine.filter fun q => q.plots.contains pl).map (·.id))) ++
        leanTiles x k.1 b.quad (mine.map (·.id))

/-- Bytes of query sketches that the batches in flight hold in a stack's query store (R82). -/
def State.storeUse (s : State) (st : Nat) : Nat :=
  sumNat ((s.scan.batches.filter fun b => b.view.isSome && b.tiles.any (·.stk == st)).map fun b =>
    sumNat ((s.batchQs b).map s.sketchBytes))

/-! ## The split (R83, R97, R98) -/

/-- Rounds of a die pass (R83). -/
def rounds (avail g : Nat) : Nat := (g + avail - 1) / max 1 avail

/-- The capacity of a search die for the tiles of a width, in sketches per second, after its duty (R28, R83). -/
def State.dieCap (s : State) (die width g : Nat) : Rat :=
  let a := (s.dies.getD die Die.reset).engs.length
  if a = 0 ∨ g = 0 then 0
  else
    let one : Rat := lwOf width * 600 * 10 ^ 6
    (if g ≤ a then (a / g : Nat) * one else one / rounds a g) * s.duty die / 16

/-- Die-path and in-bank rates of a stack for a width (R97): the latter for a tile of one pass. -/
def State.dieRate (s : State) (quad width g : Nat) : Rat :=
  let d : Rat := ((s.quadDies quad).map fun x => s.dieCap x width g).foldl (· + ·) 0
  min (625 * 10 ^ 8 * kwOf width) (d / 4)
def State.bankRate (s : State) (st width : Nat) : Rat :=
  5 * 10 ^ 11 * ((s.scan.st.getD st Stack.reset).lastFrameGrant : Rat) / 16 * kwOf width

/-- The order in which the work exchange takes tiles (R98): passes, plot number, tile position; equal ones as they stand. -/
def tileBefore (a b : ScanTile × Nat) : Bool :=
  let key (t : ScanTile × Nat) : List Nat := [t.1.need, t.1.plot, t.1.pos, t.2]
  decide (key a < key b)

/-- The loop of R98: tiles go to the bank queues until the two machines would finish together. -/
def splitGo (rb rd : Rat) (off : ScanTile → Bool) : Rat → Rat → List ScanTile → List ScanTile
  | _, _, [] => []
  | bt, dt, t :: ts =>
    if off t then t :: splitGo rb rd off bt dt ts
    else
      let cb := (t.filled : Rat) * t.need / rb
      let cd := (t.filled : Rat) / rd
      if dt - cd < bt + cb then t :: ts
      else { t with inBank := true } :: splitGo rb rd off (bt + cb) (dt - cd) ts

/-- The tiles of one stack and width, divided (R98, R442). R98 has one rate k_w for a stack: a batch of mixed widths is split for each
width by itself, each with the stack's whole bank rate and from time 0 (DESIGN CHOICE, log 135). -/
def splitStack (rb rd : Rat) (off : ScanTile → Bool) (ts : List ScanTile) : List ScanTile :=
  let ts := (sortBy tileBefore ts.zipIdx).map (·.1)
  if rd = 0 then ts.map fun t => { t with inBank := !off t }
  else if rb = 0 then ts
  else splitGo rb rd off 0 (((sumNat (ts.map (·.filled)) : Nat) : Rat) / rd) ts

/-- The jobs of the die path (R83, R96, R384): tiles not in a bank go round the dies of the quadrant; on each die every group takes the
tiles of its width, divided among its engines, one pavilion to a job. -/
def State.makeJobs (s : State) (b : ScanBatch) : List Job :=
  let ds := s.quadDies b.quad
  let gs := b.groups
  let die := (b.tiles.zipIdx.filter fun t => !t.1.inBank).zipIdx
  let pvs := dedupKeep (b.tiles.map (·.pv))
  ds.zipIdx.flatMap fun (d, di) =>
    gs.zipIdx.flatMap fun (g, gi) =>
      let es := groupEngs (s.dies.getD d Die.reset) gs.length gi
      pvs.flatMap fun p =>
        let mine := (die.filter fun x => x.2 % max 1 ds.length == di && x.1.1.pv == p && x.1.1.width == g.1).map (·.1.2)
        let lanes := g.2.filter fun i => match s.query? i with | some q => q.pv == p | none => false
        es.zipIdx.filterMap fun (e, k) =>
          let ts := (mine.zipIdx.filter fun x => x.2 % es.length == k).map (·.1)
          if ts.isEmpty || lanes.isEmpty then none else some ⟨b.id, d, e, p, g.1, lanes, ts, [], false, none⟩

/-- Draw each new job's mark (R429). -/
def markJobs (js : List Job) (s : State) : List Job × State :=
  js.foldl (fun x j => let (m, s) := drawMark x.2; (x.1 ++ [{ j with mark := m }], s)) ([], s)

/-- Fix the split of a batch at its view boundary when its queries fit in the stores (R82, R97, R98). A batch whose queries fit does not
overtake an older one of its quadrant that still waits (DESIGN CHOICE, log 136). -/
def viewBatch (id : Nat) (s : State) : State :=
  match s.sbatch? id with
  | none => s
  | some b =>
    let ts := s.batchTiles b
    let own := sumNat ((s.batchQs b).map s.sketchBytes)
    let waits := s.scan.batches.any fun x => x.quad == b.quad && x.view.isNone && decide (x.id < id)
    if waits || (dedupKeep (ts.map (·.stk))).any fun st => decide (16384 < s.storeUse st + own) then s
    else
      let groups := groupsOf (s.batchQs b) s.qWidth
      let g := groups.length
      let off (t : ScanTile) : Bool := s.integ.banksOff.contains (t.stk, t.bank)
      let ts := (List.range 4).flatMap fun j => [128, 256, 512].flatMap fun w =>
        splitStack (s.bankRate (4 * b.quad + j) w) (s.dieRate b.quad w g) off (ts.filter fun t => t.stk == 4 * b.quad + j && t.width == w)
      let b := { b with view := some s.hfn, tiles := ts, groups := groups }
      let (js, s) := markJobs (s.makeJobs b) s
      let multi := ((s.quadDies b.quad).filter fun d => decide ((s.dies.getD d Die.reset).engs.length < g)).length
      let s := if 0 < multi then count none 1 6 multi (modScan (fun x => { x with seqRounds := true }) s) else s
      modSBatch id (fun _ => { b with jobs := js }) s

/-- A query has been scanned when it waits for no batch and no batch has any of its work left. -/
def State.scanLeft (s : State) (b : ScanBatch) (qid : Nat) : Bool :=
  b.view.isNone || (b.tiles.zipIdx.any fun t => t.1.qids.contains qid && !b.tileDone t.2) ||
    s.scan.hits.any (fun h => h.batch == b.id && h.qid == qid) || s.scan.fifo.any (fun h => h.2.2.batch == b.id && h.2.2.qid == qid) ||
    s.scan.lanes.any fun l => l.batch == b.id && l.qid == qid

/-- Batches that are finished leave, and their queries are told. -/
def settleBatches (s : State) : State :=
  let doneQ (b : ScanBatch) (q : Query) : Bool := b.qids.contains q.id && q.toScan.contains b.quad && !s.scanLeft b q.id
  let upd (q : Query) : Query :=
    { q with toScan := q.toScan.filter fun k => !(s.scan.batches.any fun b => b.quad == k && doneQ b q) }
  let ended (b : ScanBatch) : Bool := b.view.isSome && !(b.qids.any fun i => (s.query? i).isSome && s.scanLeft b i) &&
    !s.integ.shadows.any fun x => x.scan && x.batch == b.id
  modScan (fun x => { x with queries := x.queries.map upd, batches := x.batches.filter fun b => !ended b }) s

/-- The scan part of a frame boundary: batches are formed, and those whose queries fit take their view. -/
def scanFrame (s : State) : State :=
  let s := (List.range 4).foldl formBatch s
  let s := ((s.scan.batches.filter (·.view.isNone)).map (·.id)).foldl (fun s i => viewBatch i s) s
  modScan (fun x => { x with stealsLast := satTo 0xFFFF x.steals, steals := 0, tieDropsLast := satTo 0xFFFF x.tieDrops, tieDrops := 0 }) s

/-! ## Comparing (R6, R81, R86, R94, R95, R222) -/

/-- The hits of a tile against some of its queries: similarities at or above the threshold, at filled positions only. -/
def tileHits (s : State) (b : ScanBatch) (i die : Nat) (qids : List Nat) : List Hit :=
  match b.tiles[i]? with
  | none => []
  | some t => (qids.filter t.qids.contains).flatMap fun id =>
    match s.query? id with
    | none => []
    | some q =>
      let e := s.laneEng b die id
      (t.slots.take t.filled).zipIdx.filterMap fun (x, pos) =>
        let sim := similarity t.width q.sketch x.sketch
        if q.thr ≤ sim ∧ (t.store = 0 ∨ x.ent.isSome) then
          some ⟨b.id, id, die, e, i, pos, sim, slotIndex t.width t.tile pos, t.store == 1, b.qids.idxOf id⟩
        else none

/-- Hits reach the compaction stage. -/
def pushHits (hs : List Hit) (s : State) : State := modScan (fun x => { x with hits := x.hits ++ hs }) s

/-- A tile of a batch is scanned by neither machine. -/
def skipTile (bid i : Nat) : State → State :=
  modSBatch bid fun b => { b.modTile i (fun t => { t with done := true }) with
    jobs := b.jobs.map fun j => { j with tiles := j.tiles.filter (· != i) } }

/-- A tag is read that is not the one written: when it does not match, the tile is scanned by neither machine, and will be repaired (R86,
R222, R445). A tag that reads back as it was written matches. -/
def badTag (s : State) (x : Nat × Nat × List Byte) : State :=
  match s.sbatch? x.1 with
  | none => s
  | some b => match b.tiles[x.2.1]? with
    | none => s
    | some t =>
      if b.tileDone x.2.1 || decide (0 < t.passes) || tagNames t.pv t.epoch t.tile x.2.2 then s
      else
        tagError t.pv t.epoch (if t.store = 0 then t.tile else 0x100000000 * (1 + b.quad) + t.tile) (skipTile x.1 x.2.1 s)

/-! ## Permits (R47, R87 to R91, R228, R466, R471) -/

/-- The pattern of R47 calls for a refresh of the bank at a position of the pattern: one bank in three, or two in three in doubled refresh. -/
def Stack.due (k : Stack) (ph bank : Nat) : Bool :=
  if k.doubled then (bank / 4 + ph) % 3 != 2 else (bank / 4 + ph) % 3 == 0

/-- The base die may put the refresh off to the next boundary (R47): it is due now and not again then, and was not put off before. -/
def Stack.mayPostpone (k : Stack) (bank : Nat) : Bool :=
  k.due k.phase bank && !k.due ((k.phase + 1) % 3) bank && !k.owed.contains bank

/-- The bank is refreshed at this slot boundary, when the base die puts the refresh of some banks off. -/
def Stack.refreshed (k : Stack) (off : List Nat) (bank : Nat) : Bool :=
  k.owed.contains bank || (k.due k.phase bank && !(off.contains bank && k.mayPostpone bank))

/-- The least of the limits of R87 but for the governor's. -/
def State.capUnitsOf (s : State) (st : Nat) : Nat :=
  let step := (s.unit (32 + st)).step
  min (fld s.scan.permitEff 4 0) (min (capUnits s.pwr.level)
    (if step = 3 then 0 else if step = 2 then 4 else if (s.scan.st.getD st Stack.reset).doubled then 8 else 16))

/-- Interface bytes of a slot at 2.56 TB/s. -/
def slotBytes : Nat := 3200000

/-- What the governor decides for a stack and a slot. -/
structure GovOut where
  units : Nat
  /-- Its limit is below the other limits. -/
  limited : Bool
  /-- Interface bytes that it admits. -/
  admits : Nat
  deriving DecidableEq, Repr

/-- The governor (R90, R91), for `want` bytes of interface requests; step 3 of R471 admits half the interface's rate. -/
def State.govern (s : State) (st want : Nat) : GovOut :=
  let k := s.scan.st.getD st Stack.reset
  let cap := s.capUnitsOf st
  let w := fld s.scan.permitEff 21 16
  let want := if (s.unit (32 + st)).step = 3 then min want (slotBytes / 2) else want
  let first := bit s.scan.permitEff 8
  let n := if first then cap
    else
      let av : Rat := (w : Rat) - k.pBase - (k.pIf : Rat) * want / slotBytes
      min cap (min 16 (av * 16 / (max 1 k.pBf : Nat)).floor.toNat)
  let top : Rat := ((w : Rat) - k.pBase - (k.pBf : Rat) * n / 16) / (max 1 k.pIf : Nat) * slotBytes
  let n := if decide (4 * w < k.pw1) && decide (4 * w < k.pw2) then n - 2 else n
  ⟨n, decide (n < cap), if first then min want top.floor.toNat else want⟩

/-- A bank that could burst: bank, pavilion, oldest batch. -/
structure BankWork where
  bank : Nat
  pv : Nat
  batch : Nat
  late : Bool
  deriving DecidableEq, Repr

/-- Tiles of a bank with passes left, oldest batch first: batch and tile index. A burst of a batch leaves a checkpoint while the batch
has tiles left in the bank: its place in the queue and the next query group, whose sketches the register sets hold; with four of them
the bank serves those batches only (R93). -/
def State.bankTiles (s : State) (st bank : Nat) : List (Nat × Nat) :=
  let bs := s.scan.batches.filter (·.view.isSome)
  let here (t : ScanTile) : Bool := t.inBank && t.stk == st && t.bank == bank
  let all := bs.flatMap fun b => (b.tiles.zipIdx.filter fun t => here t.1 && !b.tileDone t.2).map fun t => (b.id, t.2)
  let begun := (bs.filter fun b => all.any (·.1 == b.id) && b.tiles.any fun t => here t && decide (0 < t.passes)).map (·.id)
  if 4 ≤ begun.length then all.filter fun x => begun.contains x.1 else all

/-- The order of preference of R88, where `old` is the oldest batch of the stack: banks not refreshed, banks with work of that batch, bank
number. -/
def BankWork.before (old : Nat) (a b : BankWork) : Bool :=
  let key (w : BankWork) : List Nat := [if w.late then 1 else 0, if w.batch = old then 0 else 1, w.bank]
  decide (key a < key b)

/-- Banks of a stack with work, in the order of R88; none that is disabled or whose interface queue has waited for a whole slot (R228,
R442). -/
def State.bankQueue (s : State) (st : Nat) (late : Nat → Bool) (waited : List Nat) : List BankWork :=
  let banks := dedupKeep ((s.scan.batches.filter (·.view.isSome)).flatMap fun b =>
    (b.tiles.filter fun t => t.inBank && t.stk == st).map (·.bank))
  let ws := (banks.filter fun n => !s.integ.banksOff.contains (st, n) && !waited.contains n).flatMap fun n =>
    let ts := s.bankTiles st n
    let pvs := dedupKeep (ts.filterMap fun x => (s.sbatch? x.1).bind fun b => (b.tiles[x.2]?).map (·.pv))
    pvs.filterMap fun p =>
      (ts.find? fun x => match s.sbatch? x.1 with | some b => (b.tiles[x.2]?).map (·.pv) == some p | none => false).map
        fun x => ⟨n, p, x.1, late n⟩
  sortBy (BankWork.before ((ws.map (·.batch)).min?.getD 0)) ws

/-- Grant the permits of a slot or half slot (R87, R88, R383): so many more, at most `perChan` to one pseudo-channel, beside those granted
already. -/
def grantPermits (st perChan : Nat) : Nat → List BankWork → List BankWork → State → List BankWork × State
  | 0, got, _, s => (got, s)
  | n + 1, got, ws, s =>
    let room (w : BankWork) : Bool := decide ((got.filter fun g => bankChan g.bank == bankChan w.bank).length < perChan)
    let ws := ws.filter fun w => !(got.any (·.bank == w.bank)) && room w
    let pvs := dedupKeep (ws.map (·.pv))
    let cands := pvs.map fun p => (p, ((ws.filter (·.pv == p)).map (·.batch)).min?.getD 0)
    match s.qos.pick .permit st cands with
    | none => (got, s)
    | some (p, bor) =>
      match ws.find? (·.pv == p) with
      | none => (got, s)
      | some w => grantPermits st perChan n (got ++ [w]) ws (modQos (fun x => x.charge .permit st p 1 bor) s)

/-- Passes of a burst of L cycles (R92). -/
def burstPasses (L r : Nat) : Nat := (L - 8 - r) / 32

/-- Run passes of a bank on the tiles of a pavilion, oldest batch first (R81, R92, R93); the first number is fuel. -/
def runBurst (st pv : Nat) : Nat → Nat → List (Nat × Nat) → State → State
  | 0, _, _, s => s
  | _, 0, _, s => s
  | _, _, [], s => s
  | k + 1, n + 1, x :: xs, s =>
    match s.sbatch? x.1 with
    | none => runBurst st pv k (n + 1) xs s
    | some b => match b.tiles[x.2]? with
      | none => runBurst st pv k (n + 1) xs s
      | some t =>
        if t.pv != pv || decide (t.need ≤ t.passes) then runBurst st pv k (n + 1) xs s
        else
          let grp := (t.qids.drop (t.passes * qpfOf t.width)).take (qpfOf t.width)
          let s := pushHits (tileHits s b x.2 (s.sink st) grp) s
          let s := count (some pv) 1 0 (t.filled * grp.length) (modSBatch x.1 (·.modTile x.2 fun t => { t with passes := t.passes + 1 }) s)
          if t.need ≤ t.passes + 1 then runBurst st pv k n xs s else runBurst st pv k n (x :: xs) s

/-- Entries of a bank filter's hit FIFO (R95). -/
def fifoSize : Nat := 64

/-- One burst (R92, R95). A filter whose hits reach the size of its FIFO can fill it: it pauses, and passes and cycles are lost; at the
end of the slot some hits may still stand in the FIFO. How fast the FIFO drains is not stated: what filled is an operand. -/
def burst (inp : SlotIn) (st L r : Nat) (s : State) (g : BankWork) : State :=
  let n := burstPasses L (if g.late then r else 0)
  let ts := s.bankTiles st g.bank
  let had := s.scan.hits.length
  let t := runBurst st g.pv (n + ts.length) n ts s
  match inp.stalls.find? fun x => x.1 == st && x.2.1 == g.bank with
  | none => t
  | some (_, _, passes, cycles, left) =>
    if t.scan.hits.length - had < fifoSize then t
    else
      let t := runBurst st g.pv (n + ts.length) (n - passes) ts s
      let t := count none 1 4 cycles (modScan (fun y => { y with hitStall := true }) t)
      let keep := min (min left fifoSize) (t.scan.hits.length - had)
      modScan (fun y => { y with
        hits := y.hits.take (y.hits.length - keep)
        fifo := y.fifo ++ (y.hits.drop (y.hits.length - keep)).map fun h => (st, g.bank, h) }) t

/-- The bursts of one grant round on a stack. -/
def burstAll (inp : SlotIn) (st L r : Nat) (gs : List BankWork) (s : State) : State := gs.foldl (burst inp st L r) s

/-- What stood in the FIFOs of a stack has drained to the compaction stage. -/
def drainFifo (st : Nat) (s : State) : State :=
  modScan (fun y => { y with hits := y.hits ++ (y.fifo.filter (·.1 == st)).map (·.2.2), fifo := y.fifo.filter (·.1 != st) }) s

/-- What a stack measures at a slot boundary (R90, R110): power, interface bytes, the refresh pattern's step; with slot 0 the interface
use of the frame before (R108). -/
def stackSample (inp : SlotIn) (s : State) (st : Nat) : State :=
  let x := inp.stks.getD st ⟨0, 0, 0, [], []⟩
  let first := s.clk.slot == some 0
  modStack st (fun k =>
    let bytes := k.ifBytes + x.ifBytes
    { k with pw2 := k.pw1, pw1 := x.power, phase := (k.phase + 1) % 3, ifBytes := if first then 0 else bytes
             ifUtil := if first then satTo 0xFF (bytes * 256 / (16 * slotBytes)) else k.ifUtil
             grant := 0, govLimited := false, shownDoubled := k.doubled
             lastFrameGrant := if s.clk.slot == some 15 then 0 else k.lastFrameGrant }) s

/-- The permits and bursts of one stack in a slot (R87 to R95, R228): those of Keeper tests count in the same limits (R442). -/
def stackSlot (inp : SlotIn) (s : State) (st : Nat) : State :=
  let x := inp.stks.getD st ⟨0, 0, 0, [], []⟩
  let s := drainFifo st s
  let k := s.scan.st.getD st Stack.reset
  let want := x.forecast + k.ifHeld
  let o := s.govern st want
  let last := s.clk.slot == some 15
  let s := modStack st (fun k => { k with
    grant := o.units, govLimited := o.limited, lastFrameGrant := if last then o.units else k.lastFrameGrant
    ifHeld := want - o.admits, owed := x.postpone.filter k.mayPostpone }) s
  let s := if o.limited then count none 1 5 1 s else s
  let tests : List BankWork := (inp.banks.filter (·.1 == st)).map fun y => ⟨y.2.1, 0, 0, false⟩
  let m := o.units * 48 - tests.length
  let chan := (3 * o.units + 3) / 4
  let late := k.refreshed x.postpone
  let cyc := s.clk.bankCycles
  if k.doubled then
    let (g1, s) := grantPermits st chan m tests ((s.bankQueue st late x.waited).filter fun w => !w.late) (permitShares st o.units s)
    let s := burstAll inp st 406 0 (g1.drop tests.length) s
    let (g2, s) := grantPermits st chan m tests (s.bankQueue st late x.waited) (permitShares st o.units s)
    burstAll inp st (min 406 (cyc - 406)) 0 (g2.drop tests.length) s
  else
    let (g, s) := grantPermits st chan m tests (s.bankQueue st late x.waited) (permitShares st o.units s)
    burstAll inp st cyc 117 (g.drop tests.length) s

/-! ## Engines (R96, R105, R383, R439, R468) -/

/-- The engine has a Keeper slot now (R438). -/
def State.keeperNow (s : State) (die : Nat) (ta : Bool) (e : Nat) : Bool :=
  match s.clk.slot with | some k => s.integ.keeperSlots.contains (die, ta, e, k) | none => false

/-- Jobs of an engine that have tiles left, oldest batch first. -/
def State.jobsOf (s : State) (die e : Nat) : List Job :=
  s.scan.batches.flatMap fun b => b.jobs.filter fun j => j.die == die && j.eng == e && !j.tiles.isEmpty

/-- Fields of BIST_CTL. -/
def bUnit (v : W32) : Nat := fld v 5 0
def bSub (v : W32) : Nat := fld v 11 6
def bTest (v : W32) : Nat := fld v 13 12

/-- The target of a logic or memory test: none does not exist; an engine, a tensor array, or a die SRAM region (log 43). -/
inductive BTarget where
  | engine | array | region | router
  deriving DecidableEq, Repr
def bTarget (v : W32) : Option BTarget :=
  let sub := bSub v
  let second := Config.bistSecond (bTest v) sub
  if bTest v = 2 then (if bUnit v < 32 then some .router else none)
  else if 24 ≤ bUnit v then none
  else if bTest v = 0 then (if 52 ≤ sub then none else if sub < 5 ∧ second then some .array else some .engine)
  else if bTest v = 1 then (if 52 ≤ sub ∨ second then some .region else some .engine)
  else none

/-- A BIST run tests a region of the die's SRAM: the work that uses it is held (R451). Which work uses a region the spec does not say: that of
the die's tensor arrays, whose inputs and weights the die SRAM holds (DESIGN CHOICE, log 156). -/
def State.regionTest (s : State) (die : Nat) : Bool :=
  match s.integ.bist with | some b => b.begun && bUnit b.ctl == die && bTarget b.ctl == some .region | none => false

/-- The unit's slot in progress is granted to scan: it is no Keeper slot, and the die's duty leaves it, Keeper slots apart (R438, R467,
R468). -/
def State.slotOpen (s : State) (die : Nat) (ta : Bool) (e : Nat) : Bool :=
  match s.clk.slot with
  | some k =>
    let before := (s.integ.keeperSlots.filter fun x => x.1 == die && x.2.1 == ta && x.2.2.1 == e && decide (x.2.2.2 < k)).length
    !s.keeperNow die ta e && decide (k - before < s.duty die) && !(ta && s.regionTest die)
  | none => false

/-- Tiles an engine can stream in so many arithmetic cycles (R15). -/
def slotTiles (cycles width : Nat) : Nat := cycles * lwOf width / sptOf width

/-- Run a job over its next tiles; a job that was drawn is marked as it ends (R429, R430), and one that has tiles left at the end of the
slot leaves its checkpoint (R96). -/
def runJob (j : Job) (n : Nat) (s : State) : State :=
  match s.sbatch? j.batch with
  | none => s
  | some b =>
    let now := j.tiles.take (min n (slotTiles (s.workCycles j.die) j.width))
    let s := now.foldl (fun s i =>
      let grp := match b.tiles[i]? with | some t => j.lanes.filter t.qids.contains | none => []
      let fill := match b.tiles[i]? with | some t => t.filled | none => 0
      count (some j.pv) 1 1 (fill * grp.length) (pushHits (tileHits s b i j.die grp) s)) s
    let j' := { j with tiles := j.tiles.drop now.length, ran := j.ran ++ now }
    let j' := { j' with saved := if j'.tiles.isEmpty then none else some (s.ckptOf b j') }
    let s := modSBatch j.batch (fun b => { b with jobs := mapIf (· == j) (fun _ => j') b.jobs }) s
    if j'.tiles.isEmpty && j.mark && !now.isEmpty then
      addShadow j.die true (s.physOf j.die false j.eng) j.lanes j.batch j'.ran (some (s.ckptOf b j)) 0 s
    else s

/-- Grant one engine's slot and run its job (R383, R439). -/
def engineSlot (inp : SlotIn) (s : State) (x : Nat × Nat) : State :=
  if !s.slotOpen x.1 false x.2 then s
  else
    let js := s.jobsOf x.1 x.2
    let cands := (dedupKeep (js.map (·.pv))).map fun p => (p, ((js.filter (·.pv == p)).map (·.batch)).min?.getD 0)
    match s.qos.pick .eng x.1 cands with
    | none => s
    | some (p, bor) =>
      match js.find? (·.pv == p) with
      | none => s
      | some j =>
        let n := ((inp.prog.find? fun y => y.1 == x.1 && y.2.1 == x.2).map (·.2.2)).getD 0
        runJob j n (modScan (fun y => { y with engUse := y.engUse ++ [x] }) (modQos (fun q => q.charge .eng x.1 p 1 bor) s))

/-- Every engine of the node that can be reached. -/
def State.engines (s : State) : List (Nat × Nat) :=
  ((List.range 24).filter s.connUp).flatMap fun d => (s.dies.getD d Die.reset).engs.map fun e => (d, e)

/-- The threshold broadcast of a slot boundary (R103). -/
def broadcast (s : State) : State :=
  let busy (q : Query) : Bool := q.q.rising && q.stage == .scanning && s.scan.batches.any fun b => b.view.isSome && b.qids.contains q.id
  let up (q : Query) : Query := { q with thr := newThreshold q.hist (s.qWidth q) q.q.c q.thr }
  modScan (fun x => { x with queries := mapIf busy up x.queries }) s

/-! ## Claims and steals (R99, R105) -/

/-- TILE_CLAIM: the die path takes the tile at the tail of a bank queue. A bank queue may hold the tiles of several batches, and R99 does
not say whose tail a claim takes: any one batch's (DESIGN CHOICE, log 137). -/
def doClaim (batch i die : Nat) (s : State) : State :=
  match s.sbatch? batch with
  | none => s
  | some b => match b.tiles[i]? with
    | none => s
    | some t =>
      let queue := (b.tiles.zipIdx.filter fun x => x.1.inBank && x.1.stk == t.stk && x.1.bank == t.bank && !b.tileDone x.2).map (·.2)
      let empty := !(s.scan.batches.any fun c => c.jobs.any fun j => j.tiles.any fun k => match c.tiles[k]? with
        | some y => y.stk == t.stk | none => false)
      if s.live && b.view.isSome && bit b.cfg 2 && (s.quadDies b.quad).contains die && t.inBank && t.passes == 0 && !t.done &&
          queue.getLast? == some i && empty then
        let gs := b.groups
        let js := gs.zipIdx.filterMap fun (g, gi) =>
          let lanes := g.2.filter fun q => match s.query? q with | some y => y.pv == t.pv | none => false
          match groupEngs (s.dies.getD die Die.reset) gs.length gi with
          | e :: _ => if g.1 = t.width ∧ !lanes.isEmpty then some (⟨batch, die, e, t.pv, g.1, lanes, [i], [], false, none⟩ : Job) else none
          | [] => none
        let (js, s) := markJobs js s
        count (some t.pv) 1 2 1 (modSBatch batch (fun b =>
          { b.modTile i (fun t => { t with inBank := false }) with jobs := b.jobs ++ js }) s)
      else s

/-- The engine has the most remaining tiles among those allowed, and at least STEAL_MIN. -/
def stealOk (rem : Nat × Nat → Nat) (all : List (Nat × Nat)) (least : Nat) (v : Nat × Nat) : Bool :=
  decide (least ≤ rem v) && all.all fun x => decide (rem x ≤ rem v)

/-- STEAL: an engine without work takes half of the victim's range (R105). -/
def doSteal (die e vdie ve : Nat) (s : State) : State :=
  let rem (x : Nat × Nat) : Nat := maxNat ((s.jobsOf x.1 x.2).map fun j => j.tiles.length)
  let engs := s.engines
  match leastBy (fun a c => decide (c.tiles.length < a.tiles.length)) (s.jobsOf vdie ve) with
  | none => s
  | some j =>
    match s.sbatch? j.batch with
    | none => s
    | some b =>
      let least := fld b.cfg 15 8
      let own := engs.filter fun x => x.1 == die
      let found := own.any fun x => decide (least ≤ rem x)
      let ok := if vdie = die then bit b.cfg 0 && stealOk rem own least (vdie, ve)
        else bit b.cfg 0 && bit b.cfg 1 && !found && vdie / 6 == die / 6 &&
          stealOk rem (engs.filter fun x => x.1 != die && x.1 / 6 == die / 6) least (vdie, ve)
      if s.live && engs.contains (die, e) && (s.jobsOf die e).isEmpty && ok && s.slotOpen die false e then
        let n := j.tiles.length / 2
        let keep := j.tiles.take (j.tiles.length - n)
        let (m, s) := drawMark s
        let new : Job := { j with die := die, eng := e, tiles := j.tiles.drop (j.tiles.length - n), ran := [], mark := m, saved := none }
        let s := modSBatch j.batch (fun b => { b with jobs := mapIf (· == j) (fun j => { j with tiles := keep }) b.jobs ++ [new] }) s
        count (some j.pv) 1 3 1 (modScan (fun x => { x with steals := x.steals + 1 }) s)
      else s

/-! ## Compaction and selection units (R101 to R104, R111, R112) -/

/-- The order of the merge tree (R115): similarity, highest first, then EID. -/
def selBefore (a b : SelEnt) : Bool := decide (b.sim < a.sim) || (a.sim == b.sim && decide (a.ent.eid < b.ent.eid))

/-- Equal in EID, version and similarity, next to each other: one is kept. -/
def dropSame : List SelEnt → List SelEnt
  | [] => []
  | x :: xs => match dropSame xs with
    | y :: ys => if x.ent.eid = y.ent.eid ∧ x.ent.ver = y.ent.ver ∧ x.sim = y.sim then x :: ys else x :: y :: ys
    | [] => [x]

/-- A level's list with more entries: the first C + 512 in order (R115). -/
def mergeList (c : Nat) (a b : List SelEnt) : List SelEnt := (dropSame (sortBy selBefore (a ++ b))).take (c + 512)

/-- Add entries to what a level takes next: the leaf's queue as they come, a list of L0 or L1 in the order of R115. -/
def addTree (level place qid c : Nat) (es : List SelEnt) (s : State) : State :=
  let same (t : TreeList) : Bool := t.level == level && t.place == place && t.qid == qid
  let put (old : List SelEnt) : List SelEnt := if level = 0 then old ++ es else mergeList c old es
  if es.isEmpty then s
  else if s.scan.tree.any same then
    modScan (fun x => { x with tree := mapIf same (fun t => { t with ents := put t.ents }) x.tree }) s
  else modScan (fun x => { x with tree := x.tree ++ [⟨level, place, qid, put []⟩] }) s

/-- The entry of a lane that a better hit replaces: the lowest similarity, among equals the highest EID (R112). -/
def worstOf (es : List SelEnt) : Option SelEnt := leastBy (fun a b => decide (a.sim < b.sim) || (a.sim == b.sim && decide (b.ent.eid < a.ent.eid))) es

/-- A hit reaches a selection unit (R112). -/
def selectHit (h : Hit) (q : Query) (e : SelEnt) (s : State) : State :=
  let same (l : Lane) : Bool := l.batch == h.batch && l.qid == h.qid && l.die == h.die && l.eng == h.eng
  let held := ((s.scan.lanes.find? same).map (·.ents)).getD []
  let setLane (es : List SelEnt) (s : State) : State :=
    if s.scan.lanes.any same then modScan (fun x => { x with lanes := mapIf same (fun l => { l with ents := es }) x.lanes }) s
    else modScan (fun x => { x with lanes := x.lanes ++ [⟨h.batch, h.qid, h.die, h.eng, es⟩] }) s
  if held.length < min 64 q.q.c then setLane (held ++ [e]) s
  else
    match worstOf held with
    | none => s
    | some m =>
      let (out, s) := if m.sim < e.sim then (m, setLane (held.erase m ++ [e]) s) else (e, s)
      if q.thr < out.sim then addTree 0 h.die h.qid q.q.c [out] s
      else if out.sim = q.thr then
        count (some q.pv) 2 0 1 (modQuery q.id (fun q => { q with tieDrops := q.tieDrops + 1 })
          (modScan (fun x => { x with tieDrops := x.tieDrops + 1 }) s))
      else s

/-- HIT_COMPACTION of the hit at that place among those waiting (R101). -/
def doCompact (i : Nat) (s : State) : State :=
  match s.scan.hits[i]? with
  | none => s
  | some h =>
    if !s.live then s
    else
      let s := modScan (fun x => { x with hits := x.hits.eraseIdx i }) s
      match s.query? h.qid, (s.sbatch? h.batch).bind fun b => b.tiles[h.tile]? with
      | some q, some t =>
        match t.slots[h.pos]? with
        | none => s
        | some x => match x.ent with
          | none => s
          | some r =>
            let c := s.corpus t.pv
            if decide (q.thr ≤ h.sim) && !x.deleted && !(t.store == 1 && r.tomb) && visible r.ver (c.delOf r) q.visAt &&
                predHolds q.q.terms q.q.acomb r.attr then
              let s := modQuery q.id (fun q => { q with hist := modifyAt q.hist h.sim fun n => satTo 65535 (n + 1) }) s
              selectHit h q ⟨h.sim, r, h.lean, h.slot⟩ s
            else s
      | _, _ => s

/-- LANE_DRAIN of a query's lanes on a die, for a batch (R113): no engine of the die has a tile of the lane left, and no hit of the lane
waits for the die's compaction stage. -/
def doDrain (batch qid die : Nat) (s : State) : State :=
  match s.sbatch? batch, s.query? qid with
  | some b, some q =>
    let job (j : Job) : Bool := j.die == die && j.lanes.contains qid &&
      j.tiles.any fun i => match b.tiles[i]? with | some t => t.qids.contains qid | none => false
    let left := b.jobs.any job || s.scan.hits.any fun h => h.batch == batch && h.qid == qid && h.die == die
    if s.live && b.view.isSome && !left then
      let mine (l : Lane) : Bool := l.batch == batch && l.qid == qid && l.die == die
      let es := (s.scan.lanes.filter mine).flatMap fun l => l.ents.filter fun e => decide (q.thr ≤ e.sim)
      settleBatches (addTree 0 die qid q.q.c es (modScan (fun x => { x with lanes := x.lanes.filter fun l => !mine l }) s))
    else s
  | _, _ => s

/-! ## Steps of the merge tree (R114 to R116) -/

/-- Entries that an instance of the tree takes in one step. -/
def stepEntries : Nat := 12000

/-- One step of an instance: what waits for level `level` at the places `from_` moves up, oldest query first, each entry charged to its
pavilion (R114, R115, R382). -/
def treeStep (level inst : Nat) (from_ : Nat → Bool) (place : Nat) : Nat → Nat → State → State
  | 0, _, s => s
  | _, 0, s => s
  | fuel + 1, room, s =>
    let lists := s.scan.tree.filter fun t => t.level == level && from_ t.place && !t.ents.isEmpty
    let pvOfQ (t : TreeList) : Nat := ((s.query? t.qid).map (·.pv)).getD 0
    let pvs := dedupKeep (lists.map pvOfQ)
    match s.qos.pick .merge inst (pvs.map fun p => (p, ((lists.filter fun t => pvOfQ t == p).map (·.qid)).min?.getD 0)) with
    | none => s
    | some (p, bor) =>
      match leastBy (fun a b : TreeList => decide (a.qid < b.qid)) (lists.filter fun t => pvOfQ t == p) with
      | none => s
      | some t =>
        let n := min room t.ents.length
        let es := t.ents.take n
        let s := modQos (fun x => x.charge .merge inst p n bor) s
        let s := modScan (fun x => { x with tree := (mapIf (· == t) (fun t => { t with ents := t.ents.drop n }) x.tree).filter fun t => !t.ents.isEmpty }) s
        let c := ((s.query? t.qid).map (·.q.c)).getD 0
        let s := if level = 2 then modQuery t.qid (fun q => { q with l2 := mergeList c q.l2 es }) s
          else addTree (level + 1) place t.qid c es s
        treeStep level inst from_ place fuel (room - n) s

/-- The merge tree in a slot: the node's level first and the leaves last, so that a list moves up one level a step (R114). -/
def treeSlot (s : State) : State :=
  let s := treeStep 2 28 (fun _ => true) 0 (s.scan.tree.length + 1) stepEntries s
  let s := (List.range 4).foldl (fun s q => treeStep 1 (24 + q) (fun d => d / 6 == q) q (s.scan.tree.length + 1) stepEntries s) s
  (List.range 24).foldl (fun s d => treeStep 0 d (· == d) d (s.scan.tree.length + 1) stepEntries s) s

/-- The scan part of a slot boundary (R49, R103, R87, R92, R114, R222, R439). -/
def scanSlot (inp : SlotIn) (s : State) : State :=
  let s := inp.tags.foldl badTag s
  let s := broadcast s
  let s := s.engines.foldl (engineSlot inp) s
  let s := (List.range 16).foldl (stackSlot inp) s
  settleBatches (treeSlot s)

/-- R99. -/
def execTileClaim (batch tile die : Nat) (s : State) : Host.Outcome State Fault Refusal := .next (doClaim batch tile die s)
/-- R105. -/
def execSteal (die eng vdie veng : Nat) (s : State) : Host.Outcome State Fault Refusal := .next (doSteal die eng vdie veng s)
/-- R101. -/
def execHitCompaction (i : Nat) (s : State) : Host.Outcome State Fault Refusal := .next (doCompact i s)
/-- R113. -/
def execLaneDrain (batch qid die : Nat) (s : State) : Host.Outcome State Fault Refusal := .next (doDrain batch qid die s)

end Sys2Proof.Machine
end

