-- ==== Sys2Proof/Machine/Select.lean ====
section
/-! DEFINITION. Selection, re-rank, the node's top k, payload rows, the final merge, widening and the result buffer
(R116 to R132, R162, R307, R308). -/

namespace Sys2Proof.Machine

/-! ## The candidate list (R116, R117) -/

/-- Keep one entry of each EID: the later version, and of one version the one that `better` prefers. The entries removed are counted. -/
def dedupBy {α : Type} (eid ver : α → Nat) (better : α → α → Bool) (xs : List α) : List α × Nat :=
  let wins (a b : α) : Bool := decide (ver b < ver a) || (ver a == ver b && better a b)
  let put (acc : List α) (x : α) : List α :=
    match acc.find? fun y => eid y == eid x with
    | none => acc ++ [x]
    | some y => if wins x y then (acc.filter fun z => eid z != eid x) ++ [x] else acc
  let ys := xs.foldl put []
  (ys, xs.length - ys.length)

/-- A candidate of a METRIC 0 query has its similarity as its score (R119). -/
def candOf (metric : Nat) (e : SelEnt) : Cand :=
  let v : F32 := BitVec.ofNat 32 e.sim
  ⟨e, if metric = 0 then .scored 0 v false else .waiting, [], v, false⟩

/-- Change a candidate. -/
def modCand (qid i : Nat) (g : Cand → Cand) (s : State) : State := modQuery qid (fun q => { q with cands := modifyAt q.cands i g }) s
/-- The bundle a record was coded under, as far as its fields go (R148, R149). -/
def Corpus.recBundle (c : Corpus) (q : Query) (r : Rec) : Option Bundle :=
  match c.bundle? r.qepoch with | some b => some b | none => c.bundle? q.epoch

/-- The tier from which an offset is read now. -/
def State.tierOf (s : State) (p a : Nat) : Nat := ((s.range p).page (a / pageSize)).st.tier

/-- Where a candidate's record lies, and its length (R70, R119). -/
def State.recordOf (s : State) (q : Query) (c : Cand) : Option (Nat × Nat) :=
  let cp := s.corpus q.pv
  (cp.recBundle q c.sel.ent).map fun b => (cp.vecAddr c.sel.ent.elem, recordBytes b.dim b.vfmt b.group b.qmode)

/-- Fetch the record of a waiting candidate: one in T3 by partial-page reads (R119). -/
def fetchCand (qid : Nat) (s : State) (i : Nat) : State :=
  match s.query? qid with
  | none => s
  | some q => match q.cands[i]? with
    | none => s
    | some c => match c.st, s.recordOf q c with
      | .waiting, some (a, n) =>
        if s.tierOf q.pv a = 3 then modCand qid i (fun c => { c with asked := true }) (askKib 2 q.pv a n (.cand qid i) s) else s
      | _, _ => s

/-- The candidate list of a query whose lists have all reached L2. -/
def formCands (s : State) (q : Query) : State :=
  let ready := q.stage == .scanning && q.toJoin.isEmpty && q.toScan.isEmpty && !s.scan.tree.any (·.qid == q.id)
  if ready then
    let (es, n) := dedupBy (·.ent.eid) (·.ent.ver) (fun a b => decide (b.sim < a.sim)) q.l2
    let cs := ((sortBy selBefore es).take q.q.c).map (candOf q.q.metric)
    let s := modQuery q.id (fun q => { q with cands := cs, l2 := [], stage := .fetching, formedAt := s.hfn, deduped := q.deduped || decide (0 < n) }) s
    let s := (List.range cs.length).foldl (fetchCand q.id) s
    let s := if 512 < n then modScan (fun x => { x with dupOver := true }) s else s
    if n = 0 then s else count (some q.pv) 2 1 n s
  else s

/-- Form every candidate list that is complete. -/
def formAll (s : State) : State := s.scan.queries.foldl formCands s

/-! ## Fetching records (R119, R120) -/

/-- Remove a candidate whose record cannot be delivered. -/
def loseCand (qid i : Nat) (st : Status) (s : State) : State :=
  modQuery qid (fun q => { q with nLost := q.nLost + 1, bad := q.bad ++ [st] }) (modCand qid i (fun c => { c with st := .lost }) s)

/-- VECTOR_RECORD_ARRIVAL: `ok` is false when the host did not deliver a read of T2 (R217). A record in T3 arrives when its partial-page
reads have ended; where its page has come there since the list was formed, they are asked for now. -/
def doArrival (qid i : Nat) (ok : Bool) (s : State) : State :=
  match s.query? qid with
  | none => s
  | some q => match q.cands[i]? with
    | none => s
    | some c =>
      if s.live && q.stage == .fetching && c.st == .waiting then
        match s.recordOf q c with
        | none => s
        | some (a, n) =>
          let tier := s.tierOf q.pv a
          if tier = 3 && !c.asked then fetchCand qid s i
          else if tier = 3 && s.flash.asked q.pv (.cand qid i) then s
          else if tier = 2 && !ok then loseCand qid i .memUncorrectable (memError q.pv 2 0 (a / 64 * 64) s)
          else
            match readFor q.pv a n 0 s with
            | ((some st, _), s) => loseCand qid i st s
            | ((none, bs), s) =>
              let s := count (some q.pv) 2 (if tier = 2 then 3 else if tier = 3 then 4 else 2) 1 s
              modCand qid i (fun c => { c with st := .got tier bs, record := bs }) (noteMiss q.pv a n s)
      else s

/-- Numbers of a query's candidates that satisfy a test. -/
def candsWhere (f : CandSt → Bool) (q : Query) : List Nat := (q.cands.zipIdx.filter fun x => f x.1.st).map (·.2)
def CandSt.isWaiting : CandSt → Bool | .waiting => true | _ => false
def CandSt.isGot : CandSt → Bool | .got .. => true | _ => false
def CandSt.isExact : CandSt → Bool | .scored _ _ false => true | _ => false
def CandSt.isLost : CandSt → Bool | .lost => true | _ => false

/-- FETCH_WAIT_EXPIRY. -/
def doFetchExpiry (qid : Nat) (s : State) : State :=
  match s.query? qid with
  | none => s
  | some q =>
    let ws := candsWhere CandSt.isWaiting q
    if s.live && q.stage == .fetching && decide (q.formedAt + q.fetchWait < s.hfn) && !ws.isEmpty then
      modScan (fun x => { x with fetchLate := true }) (ws.foldl (fun s i => loseCand qid i .timeout s) s)
    else s

/-! ## Exact scores and the scorer (R121 to R123, R142, R157, R162) -/

/-- A score that is better: a higher similarity, a lower distance. -/
def better (metric a b : Nat) : Bool :=
  if metric = 0 then decide (b < a) else F32.lt (BitVec.ofNat 32 a) (BitVec.ofNat 32 b)
/-- Equal scores. -/
def sameScore (metric a b : Nat) : Bool :=
  if metric = 0 then a == b else a == b || F32.eq (BitVec.ofNat 32 a) (BitVec.ofNat 32 b)

/-- The exact score of one candidate record; none for a bad record (R142). -/
def exactOf (run : Nat) (q : Query) (b : Bundle) (bs : List Byte) : Option F32 :=
  (b.read bs).map fun x => exactScore q.q.metric b.group (sumRun run) q.code x

/-- The exact score of a candidate. -/
def scoreOne (run qid : Nat) (s : State) (i : Nat) : State :=
  match s.query? qid with
  | none => s
  | some q => match q.cands[i]? with
    | some c => match c.st, (s.corpus q.pv).recBundle q c.sel.ent with
      | .got tier bs, some b =>
        let r := exactOf run q b bs
        let s := if r.isNone then modCorpus q.pv (fun c => { c with badRecord := true }) s else s
        modCand qid i (fun c => { c with st := .scored tier (r.getD F32.posInf) false, exact := r.getD F32.posInf }) s
      | _, _ => s
    | none => s

/-- The order of R122 and R124 on candidates that have been scored. -/
def candBefore (metric : Nat) (a b : Cand × Nat) : Bool :=
  match a.1.st, b.1.st with
  | .scored _ x p, .scored _ y r =>
    (p && !r) || (p == r && (better metric x.toNat y.toNat || (sameScore metric x.toNat y.toNat && decide (a.1.sel.ent.eid < b.1.sel.ent.eid))))
  | _, _ => false

/-- The best SC_TOPN candidates by exact score; all of them for 0 (R122). -/
def scorerSet (q : Query) : List Nat :=
  let ok := q.cands.zipIdx.filter fun x => !x.1.st.isLost
  let exact := ok.map fun x => match x.1.st with | .scored t _ true => ({ x.1 with st := .scored t x.1.exact false }, x.2) | _ => x
  let n := if q.q.scTopn = 0 then ok.length else q.q.scTopn
  ((sortBy (candBefore q.q.metric) exact).take n).map (·.2)

/-- The score that a scorer output gives (R122, R123). -/
def scorerScore (y : F32) : F32 :=
  if y.isNan then F32.posInf else if y = F32.negInf then F32.posInf else if y = F32.posInf then F32.negInf else F32.neg y

/-- The scorer on a block of candidates (R162). -/
def scoreBlock (qid : Nat) (idxs : List Nat) (p : Program) (s : State) : State :=
  match s.query? qid with
  | none => s
  | some q =>
    let cp := s.corpus q.pv
    let cs := idxs.filterMap fun i => (q.cands[i]?).map fun c => (i, c)
    let g := ((cp.bundle? q.epoch).map (·.group)).getD 1
    let dim := ((cp.bundle? q.epoch).map (·.dim)).getD 0
    let row (c : Cand) : List F32 := match cp.recBundle q c.sel.ent with
      | some b => ((b.read c.record).map (·.values b.group)).getD (List.replicate dim F32.zero)
      | none => List.replicate dim F32.zero
    let bad (c : Cand) : Bool := match cp.recBundle q c.sel.ent with | some b => (b.read c.record).isNone | none => true
    let meta_ (c : Cand) : List F32 :=
      [c.exact, F32.ofInt (c.sel.sim : Nat), F32.ofInt (satTo 0xFFFFFF (q.snapshot - 1 - c.sel.ent.ver) : Nat),
       if c.sel.lean then F32.one else F32.zero]
    let feats (f : Nat) : Rows := if f = 0 then [q.code.values g] else if f = 1 then cs.map fun x => row x.2
      else if f = 2 then cs.map fun x => meta_ x.2 else cs.map fun x => [F32.ofInt (signed 32 x.2.sel.ent.attr)]
    let r := runProgram p feats (fun _ => cs.map fun x => x.2.sel.ent.attr) cs.length
    let ys := (List.range cs.length).map fun i => (r.1.getD i []).getD 0 F32.zero
    let s := count (some q.pv) 2 5 cs.length s
    let nan := (ys.filter F32.isNan).length
    let s := if nan = 0 then s else count (some q.pv) 2 6 nan s
    let s := noteGather q.pv r.2 s
    (cs.zip ys).foldl (fun s x =>
      let v := if bad x.1.2 then F32.posInf else scorerScore x.2
      modCand qid x.1.1 (fun c => { c with st := match c.st with | .scored t _ _ => .scored t v true | z => z }) s) s

/-- The scorer of a query, when it asks for one. -/
def State.scorerOf (s : State) (q : Query) : Option Program :=
  if q.q.scEn then ((s.corpus q.pv).bundle? q.epoch).bind Bundle.scorer else none

/-- Every candidate that is left has its exact score. -/
def Query.allExact (q : Query) : Bool := !q.cands.any fun c => c.st.isWaiting || c.st.isGot

/-! ## Tensor arrays (R17, R43, R121, R166, R383, R439) -/

/-- The query has work for a tensor array: its encoding, once its codes find room, a block of records, or a block for the scorer. -/
def State.taWaits (s : State) (q : Query) : Bool :=
  match q.stage with
  | .admitted => match (s.corpus q.pv).bundle? q.epoch with | some b => decide (b.dim + 2 + 2 * b.ng ≤ s.areaFree) | none => false
  | .fetching => q.cands.any (·.st.isGot) ||
      (q.allExact && (s.scorerOf q).isSome && (scorerSet q).any fun i => ((q.cands[i]?).map (·.st.isExact)).getD false)
  | _ => false

/-- The array is in service, its slot is open, and nothing works on it. -/
def State.taIdle (s : State) (die ta : Nat) : Bool :=
  (s.dies.getD die Die.reset).inService && s.connUp die && ((s.dies.getD die Die.reset).taMap.getD ta none).isSome && s.slotOpen die true ta &&
  !s.scan.taUse.any fun u => u.die == die && u.ta == ta

/-- The grant of an array's slot to a query: whether the unit is borrowed; none when the slot is not its own. The oldest work of the
pavilion that R383 chooses gets it. -/
def State.taGrant (s : State) (die ta : Nat) (q : Query) : Option Bool :=
  if s.taIdle die ta then
    let ws := s.scan.queries.filter s.taWaits
    let old (p : Nat) : Nat := (((ws.filter fun x => x.pv == p).map (·.admSeq)).min?).getD 0
    match s.qos.pick .ta die ((dedupKeep (ws.map (·.pv))).map fun p => (p, old p)) with
    | some (p, bor) => if p = q.pv ∧ q.admSeq = old p ∧ s.taWaits q = true then some bor else none
    | none => none
  else none

/-- An array takes a job for the slot: charged to the pavilion. -/
def useTa (u : TaUse) (pv : Nat) (bor : Bool) (s : State) : State :=
  modScan (fun x => { x with taUse := x.taUse ++ [u] }) (modQos (fun x => x.charge .ta u.die pv 1 bor) s)

/-- QUERY_ENCODE on a tensor array: rotate, code, sketch and order the plots, then route (R138, R147, R154, R156, R371). -/
def doEncode (qid die ta : Nat) (s : State) : State :=
  match s.query? qid with
  | none => s
  | some q =>
    if s.live && q.stage == .admitted then
      match (s.corpus q.pv).bundle? q.epoch with
      | none => s
      | some b => match s.taGrant die ta q with
        | none => s
        | some bor =>
        let s := useTa ⟨die, ta, qid, [], 0⟩ q.pv bor s
        let cd := b.codeQuery (b.rotate q.vector)
        let order := if q.q.sweep then [] else b.order cd
        let s := modQuery qid (fun q => { q with code := cd, sketch := b.sketch cd, order := order.drop q.q.probes }) s
        routeRound qid (order.take q.q.probes) s
    else s

/-- Bytes of inputs of a block that a shadow execution needs: the query's codes and the candidates' records (R430). -/
def Query.shadowBytes (q : Query) (idxs : List Nat) : Nat :=
  q.codeBytes + sumNat (idxs.map fun i => ((q.cands[i]?).map fun c => match c.st with | .got _ bs => bs.length | _ => c.record.length).getD 0)

/-- RERANK_BLOCK: a block of at most 64 candidates on one tensor array, in its slot (R121, R122, R166, R429): exact scores, and once every
candidate has one, the scorer on the best, in blocks as large as its activations allow. -/
def doRerank (qid : Nat) (idxs : List Nat) (die ta : Nat) (s : State) : State :=
  match s.query? qid with
  | none => s
  | some q => match s.taGrant die ta q with
    | none => s
    | some bor =>
      let st (i : Nat) : CandSt := ((q.cands[i]?).map (·.st)).getD .lost
      let book (left : Nat) (s : State) : State :=
        let (m, s) := drawMark (useTa ⟨die, ta, qid, idxs, left⟩ q.pv bor s)
        if m then addShadow die false (s.physOf die true ta) [qid] 0 idxs none (q.shadowBytes idxs) s else s
      if !s.live || q.stage != .fetching || idxs.isEmpty then s
      else if idxs.length ≤ 64 ∧ (idxs.all fun i => (st i).isGot) = true then
        let run := s.free
        book q.code.scales.length (idxs.foldl (scoreOne run qid) { s with free := s.free + 1 })
      else
        match s.scorerOf q with
        | none => s
        | some p =>
          let set := scorerSet q
          if q.allExact && decide (idxs.length ≤ p.blockRows) && idxs.all fun i => (st i).isExact && set.contains i then
            book 0 (scoreBlock qid idxs p s)
          else s

/-- TENSOR_STEAL on the terms of R105: an idle array takes half of the groups left of the block of the array that has most left, within its
die, else within the quadrant; the block's FP32 sums are then divided in another way (R121, R133). -/
def doTensorSteal (qid die ta vdie vta : Nat) (s : State) : State :=
  match s.scan.taUse.find? fun u => u.die == vdie && u.ta == vta && u.qid == qid, s.query? qid with
  | some v, some q =>
    let least := fld s.scan.scanEff 15 8
    let best (us : List TaUse) : Bool := decide (least ≤ v.left) && us.all fun u => decide (u.left ≤ v.left)
    let own := s.scan.taUse.filter (·.die == die)
    let found := own.any fun u => decide (least ≤ u.left)
    let quad := s.scan.taUse.filter fun u => u.die != die && u.die / 6 == die / 6
    let ok := bit s.scan.scanEff 0 && (if vdie = die then best own else bit s.scan.scanEff 1 && !found && vdie / 6 == die / 6 && best quad)
    let again (c : Cand) : Cand := match c.st with | .scored t _ false => { c with st := .got t c.record } | _ => c
    match s.qos.pick .ta die [(q.pv, 0)] with
    | some (_, bor) =>
      if s.live && q.stage == .fetching && s.taIdle die ta && ok then
        let half := v.left / 2
        let s := modScan (fun x => { x with taUse := mapIf (· == v) (fun u => { u with left := u.left - half }) x.taUse }) s
        let s := useTa ⟨die, ta, qid, v.idxs, half⟩ q.pv bor s
        let run := s.free
        v.idxs.foldl (fun s i => scoreOne run qid (modCand qid i again s) i) { s with free := s.free + 1 }
      else s
    | none => s
  | _, _ => s

/-! ## The node's top k and its rows (R124 to R127) -/

/-- The order of R124 on entries. -/
def entBefore (metric : Nat) (a b : Ent) : Bool :=
  (a.scored && !b.scored) || (a.scored == b.scored && (better metric a.score b.score || (sameScore metric a.score b.score && decide (a.eid < b.eid))))

/-- An entry of a scored candidate. -/
def entOf (payWant : Bool) (c : Cand) : Option Ent :=
  match c.st with
  | .scored tier v by_ =>
    some ⟨c.sel.ent.eid, c.sel.ent.ver, v.toNat, c.sel.lean, by_, tier == 3, false, c.sel.ent.elem, c.sel.ent.payLen,
      if payWant then none else some []⟩
  | _ => none

/-- The first k of an ordered list: score of the k-th (or last) entry, and the entries left out that have that score. -/
def cutTop (metric k : Nat) (es : List Ent) : List Ent × Nat × Nat :=
  let es := sortBy (entBefore metric) es
  let top := es.take k
  let kth := (top.getLast?.map (·.score)).getD 0
  (top, kth, ((es.drop k).filter fun e => sameScore metric e.score kth).length)

/-- Change an entry of the node's top k. -/
def modTop (qid i : Nat) (g : Ent → Ent) (s : State) : State := modQuery qid (fun q => { q with top := modifyAt q.top i g }) s

/-- A row cannot be delivered (R127). -/
def loseRow (qid i : Nat) (st : Status) (s : State) : State :=
  modQuery qid (fun q => { q with bad := q.bad ++ [st] }) (modTop qid i (fun e => { e with payErr := true, row := some [] }) s)

/-- Read the row of one entry, on the terms of a record (R119): one in T3 by partial-page reads, which are asked for when the gather begins
(`ask`), and once they have ended. -/
def gatherRow (qid : Nat) (t2ok ask : Bool) (s : State) (i : Nat) : State :=
  match s.query? qid with
  | none => s
  | some q => match q.top[i]? with
    | none => s
    | some e =>
      let a := (s.corpus q.pv).payAddr e.elem
      let tier := s.tierOf q.pv a
      if e.row.isSome then s
      else
        let s := if ask && tier == 3 then askKib 2 q.pv a e.payLen (.row qid i) s else s
        if tier = 3 && s.flash.asked q.pv (.row qid i) then s
        else if tier = 2 && !t2ok then loseRow qid i .memUncorrectable (memError q.pv 2 0 (a / 64 * 64) s)
        else
          match readFor q.pv a e.payLen 0 s with
          | ((some st, _), s) => loseRow qid i st s
          | ((none, bs), s) => modTop qid i (fun e => { e with row := some bs }) (noteMiss q.pv a e.payLen s)

/-- The part is complete once every row is there. -/
def settleGather (qid : Nat) (s : State) : State :=
  match s.query? qid with
  | some q => if q.stage == .gathering && q.top.all (·.row.isSome) then finishLocal qid s else s
  | none => s

/-- NODE_TOPK: every candidate is scored or removed. -/
def doTopk (qid : Nat) (t2ok : Bool) (s : State) : State :=
  match s.query? qid with
  | none => s
  | some q =>
    let left := match s.scorerOf q with
      | none => false
      | some _ => (scorerSet q).any fun i => ((q.cands[i]?).map (·.st.isExact)).getD false
    if s.live && q.stage == .fetching && q.allExact && !left then
      let pay := q.q.payWant && decide (fld (s.corpus q.pv).corpusCfg 13 8 ≠ 0)
      let (top, kth, out) := cutTop q.q.metric q.q.k (q.cands.filterMap (entOf pay))
      let s := modQuery qid (fun q => { q with top := top, kth := kth, tieOut := out, stage := .gathering, gatherAt := s.hfn }) s
      settleGather qid ((List.range top.length).foldl (gatherRow qid t2ok true) s)
    else s

/-- PAYLOAD_WAIT_EXPIRY (R127). -/
def doPayloadExpiry (qid : Nat) (s : State) : State :=
  match s.query? qid with
  | none => s
  | some q =>
    let ws := (q.top.zipIdx.filter fun x => x.1.row.isNone).map (·.2)
    if s.live && q.stage == .gathering && decide (q.gatherAt + q.fetchWait < s.hfn) && !ws.isEmpty then
      settleGather qid (modScan (fun x => { x with fetchLate := true }) (ws.foldl (fun s i => loseRow qid i .timeout s) s))
    else s

/-- What the end of a flash read does for the query that waits for it (R119, R120, R127). -/
def readEnds (o : FOp) (steps : List Nat) (s : State) : State :=
  match o.what with
  | .cand qid i => match (s.query? qid).bind fun q => q.cands[i]? with
    | some c => if steps.contains 5 && c.st == .waiting then loseCand qid i .flashUnrecoverable s else s
    | none => s
  | .row qid i => match s.query? qid with
    | some q => if q.stage == .gathering then settleGather qid (gatherRow qid true false s i) else s
    | none => s
  | _ => s

/-- FLASH_READ_COMPLETE (R249). -/
def doFlashRead (r : FReadIn) (s : State) : State :=
  match s.flash.ops.find? (·.id == r.op) with
  | some o => if s.flashUp && o.isRead && o.st == .running && s.flash.stepsOk o r.steps then readEnds o r.steps (readDone o r.steps s) else s
  | none => s

/-! ## The final merge (R116, R118, R124 to R132, R307) -/

/-- PARTIAL_WAIT_EXPIRY (R337). -/
def doPartialExpiry (qid : Nat) (s : State) : State :=
  match s.query? qid with
  | none => s
  | some q =>
    let late (r : FanRec) : Bool := decide (r.sentAt + 2 * q.fetchWait < s.hfn)
    if s.live && q.origin.isNone && !q.stage.over && q.awaitNodes.any late then
      modQuery qid (fun q => { q with awaitNodes := q.awaitNodes.filter fun r => !late r, bad := q.bad ++ [.timeout] }) s
    else s

/-- The merged list of every part: first k, entries removed as duplicates, entries left out with the k-th score (R125, R131). -/
def mergeParts (q : Query) : List Ent × Nat × Nat :=
  let (es, n) := dedupBy (·.eid) (·.ver) (fun a b => entBefore q.q.metric a b) (q.parts.flatMap (·.ents))
  let (top, kth, out) := cutTop q.q.metric q.q.k es
  let more := sumNat ((q.parts.filter fun x => sameScore q.q.metric x.kth kth).map (·.tieOut))
  (top, n, if top.length < q.q.k then 0 else out + more)

/-- The flags byte of an entry (R128). -/
def entFlags (tied : Bool) (e : Ent) : Nat :=
  (if e.lean then 2 else 0) + (if e.scored then 4 else 0) + (if e.fromFlash then 8 else 0) + (if tied then 16 else 0) + (if e.payErr then 32 else 0)

/-- The result buffer of n real entries (R126, R128, R129): the bytes written, m, and whether it was cut. -/
def resultBytes (q : Query) (rs : Nat) (top : List Ent) (tieOut : Nat) : List Byte × Nat × Bool :=
  let n := top.length
  let k := q.q.k
  let kth := (top.getLast?.map (·.score)).getD 0
  let at_ (e : Ent) : Bool := n == k && sameScore q.q.metric e.score kth
  let many := decide (1 < (top.filter at_).length + tieOut)
  let slot (e : Ent) : List Byte := entryBytes e.eid e.score (entFlags (at_ e && many) e) (q.snapshot - 1 - e.ver)
  let row (e : Ent) : List Byte := padTo rs (e.row.getD [])
  let full := decide (extent q.q.payWant rs k n ≤ q.q.bufLen)
  let m := if full then k else fitEntries q.q.payWant rs q.q.bufLen n
  let kept := if full then top else top.take m
  let slots := kept.flatMap slot ++ (if full then (List.range (k - n)).flatMap fun _ => emptyEntry (q.q.metric != 0) else [])
  if q.q.payWant then (if m = 0 then [] else padTo (rowOff m) slots ++ kept.flatMap row, m, !full)
  else (slots, m, !full)

/-- A query finishes: its buffer, its status record, its place in the completion (R128 to R132, R307). In a query across nodes each node has a
threshold of its own and the PARTIAL carries none: R125's test of the k-th similarity against the threshold at the end of scanning takes the
originating node's (DESIGN CHOICE, log 149). -/
def finishQuery (w : Work) (q : Query) (top : List Ent) (tieOut : Nat) (s : State) : State :=
  let rs := fld (s.corpus q.pv).corpusCfg 13 8 * 64
  let (bs, m, cut) := resultBytes q rs top tieOut
  let short := decide (top.length < q.q.k)
  let st := firstStatus (q.bad ++ q.parts.map (·.st) ++ (if cut then [.trunc] else []) ++ (if short then [.short] else []))
  let cks := q.parts.filterMap (·.fCkpt) ++ (if q.provisional then [q.fCkpt] else [])
  let viss := q.parts.filterMap (·.vis) ++ q.vis.toList
  let kth := (top.getLast?.map (·.score)).getD 0
  let tie := decide (0 < tieOut) || (q.q.metric == 0 && !short && kth == q.thr && (decide (0 < q.tieDrops) || q.parts.any (·.tieDrops)))
  let fl := (if cks.isEmpty then 0 else flagProvisional) + (if tie then flagTieAtK else 0) + (if 0 < q.rounds then flagWidened else 0) +
    (if q.deduped || q.parts.any (·.deduped) then flagDeduped else 0) + (if q.shadowed then flagShadowed else 0)
  let lost := satTo 0xFFFF (sumNat (q.parts.map (·.nLost)))
  let ck := match cks.min? with | some f => q.snapshot - f | none => 0
  let vb := if st = .lagging then (match viss.min? with | some f => q.snapshot - f | none => 0) else 0
  let s := if bs = [] then s else hostWrite w.fn q.q.bufAddr bs s
  let s := hostWrite w.fn (field w.desc 24 8 + 32 * q.idx)
    (statusRecord st fl top.length m lost tieOut q.epoch q.snapshot ck vb) s
  let s := count (some q.pv) 0 (statIdx st) 1 s
  let s := modQuery q.id (fun q => { q with stage := .finished, fin := st, finFlags := fl, cands := [], top := [], parts := [] }) s
  settleSearch q.work (freeElems q.pv s)

/-- Plots of the next widening round: P more of the order, within the budget (R118). -/
def nextRound (q : Query) : List Nat := q.order.take (min q.q.probes q.widenLeft)

/-- FINAL_MERGE: every PARTIAL is there, or given up. -/
def doFinal (qid : Nat) (s : State) : State :=
  match s.query? qid with
  | none => s
  | some q =>
    if s.live && q.origin.isNone && q.stage == .localDone && q.awaitNodes.isEmpty then
      let (top, n, out) := mergeParts q
      let s := if n = 0 then s else count (some q.pv) 2 1 n s
      let q := { q with deduped := q.deduped || decide (0 < n) }
      let more := nextRound q
      if top.length < q.q.k && q.widenEn && !q.q.sweep && !more.isEmpty then
        let s := modQuery qid (fun x => { x with
          deduped := q.deduped, order := x.order.drop more.length, widenLeft := x.widenLeft - more.length, rounds := x.rounds + 1
          cands := [], top := [], l2 := [], tieOut := 0, nLost := 0, arrived := s.hfn }) s
        routeRound qid more (count (some q.pv) 2 8 1 s)
      else
        match s.work q.work with
        | some w => finishQuery w q top out s
        | none => dropQuery qid s
    else s

/-- R119. -/
def execVectorRecordArrival (qid i : Nat) (ok : Bool) (s : State) : Host.Outcome State Fault Refusal := .next (doArrival qid i ok s)
/-- R120. -/
def execFetchWaitExpiry (qid : Nat) (s : State) : Host.Outcome State Fault Refusal := .next (doFetchExpiry qid s)
/-- R138, R147, R371. -/
def execQueryEncode (x : EncodeIn) (s : State) : Host.Outcome State Fault Refusal := .next (doEncode x.qid x.die x.ta s)
/-- R121, R122. -/
def execRerankBlock (qid : Nat) (idxs : List Nat) (die ta : Nat) (s : State) : Host.Outcome State Fault Refusal :=
  .next (doRerank qid idxs die ta s)
/-- R121. -/
def execTensorSteal (qid die ta vdie vta : Nat) (s : State) : Host.Outcome State Fault Refusal := .next (doTensorSteal qid die ta vdie vta s)
/-- R124, R127. -/
def execNodeTopk (qid : Nat) (t2ok : Bool) (s : State) : Host.Outcome State Fault Refusal := .next (doTopk qid t2ok s)
/-- R127. -/
def execPayloadWaitExpiry (qid : Nat) (s : State) : Host.Outcome State Fault Refusal := .next (doPayloadExpiry qid s)
/-- R249, R119. -/
def execFlashReadComplete (r : FReadIn) (s : State) : Host.Outcome State Fault Refusal := .next (doFlashRead r s)
/-- R337. -/
def execPartialWaitExpiry (qid : Nat) (s : State) : Host.Outcome State Fault Refusal := .next (doPartialExpiry qid s)
/-- R131, R307. -/
def execFinalMerge (qid : Nat) (s : State) : Host.Outcome State Fault Refusal := .next (doFinal qid s)

end Sys2Proof.Machine
end

