-- ==== Sys2Proof/Machine/Integrity.lean ====
section
/-! DEFINITION. Shadow checks, counts and suspects, Keeper slots, bank tests, captures, sketch scrub, stragglers, swaps, BIST
(R18, R19, R30, R426 to R455). -/

namespace Sys2Proof.Machine

/-- Change the integrity state. -/
def modInteg (g : Integ → Integ) (s : State) : State := { s with integ := g s.integ }

/-! ## Units -/

/-- The physical units behind the logical numbers of a die. -/
def Die.map (d : Die) (ta : Bool) : List (Option Nat) := if ta then d.taMap else d.engMap
/-- The health of a die's units. -/
def Die.health (d : Die) (ta : Bool) : List Bool := if ta then d.arrays else d.engines
/-- Set the physical unit behind a logical number. -/
def Die.setMap (d : Die) (ta : Bool) (n : Nat) (p : Option Nat) : Die :=
  if ta then { d with taMap := modifyAt d.taMap n fun _ => p } else { d with engMap := modifyAt d.engMap n fun _ => p }
/-- Count a unit as healthy or not. -/
def Die.setHealth (d : Die) (ta : Bool) (p : Nat) (h : Bool) : Die :=
  if ta then { d with arrays := modifyAt d.arrays p fun _ => h } else { d with engines := modifyAt d.engines p fun _ => h }
/-- The logical number in front of a physical unit. -/
def Die.logicalOf (d : Die) (ta : Bool) (p : Nat) : Option Nat := (d.map ta).findIdx? (· == some p)
/-- The spares of a die: healthy units that no logical number has. -/
def Die.spares (d : Die) (ta : Bool) : List Nat := (healthy (d.health ta)).filter fun p => !(d.map ta).contains (some p)
/-- A die. -/
def State.die (s : State) (i : Nat) : Die := s.dies.getD i Die.reset
/-- Change a die. -/
def modDie (i : Nat) (g : Die → Die) (s : State) : State := { s with dies := modifyAt s.dies i g }

/-- The temperature band of a die now (R435). -/
def State.bandNow (s : State) (die : Nat) : Nat := bandOf (s.unit die).temp

/-! ## Causes of a swap (R447) -/

/-- A cause is raised for a logical number. -/
def askSwap (die : Nat) (ta : Bool) (n cause : Nat) (s : State) : State :=
  modInteg (fun x => { x with swaps := dedupKeep (x.swaps ++ [⟨die, ta, n, cause⟩]) }) s

/-! ## Counts and suspects (R436, R437) -/

/-- The counts of a unit in a band. -/
def Integ.cnt (x : Integ) (u : PUnit) (band : Nat) : BandCnt :=
  (x.counts.find? fun c => c.u == u && c.band == band).getD ⟨u, band, 0, 0, false⟩
/-- Set them. -/
def Integ.setCnt (x : Integ) (c : BandCnt) : Integ :=
  { x with counts := (x.counts.filter fun y => !(y.u == c.u && y.band == c.band)) ++ [c] }

/-- ENGINE_SUSPECT when the counts of a unit and band call for it. -/
def suspect (u : PUnit) (band : Nat) (s : State) : State :=
  let c := s.integ.cnt u band
  let least := fld s.integ.suspectEff 23 16
  if decide (least ≤ c.mism) && decide (fld s.integ.suspectEff 15 0 * c.checks < c.mism * 65536) && !c.posted && !s.integ.quarantine.contains u then
    match (s.die u.die).logicalOf u.ta u.phys with
    | none => s
    | some n =>
      let s := modInteg (fun x => { x.setCnt { c with posted := true } with suspectSeen := true }) s
      let s := nodeEvent evSuspect (leBytes 1 u.die ++ leBytes 1 n ++ leBytes 1 (if u.ta then 1 else 0) ++ leBytes 1 band ++ leBytes 4 c.mism) s
      if bit s.integ.spareEff 1 then askSwap u.die u.ta n 1 s else s
  else s

/-- One check of a unit in a band, and one mismatch when `bad`. -/
def noteCheck (u : PUnit) (band : Nat) (bad : Bool) (s : State) : State :=
  let c := s.integ.cnt u band
  let s := modInteg (·.setCnt { c with checks := c.checks + 1, mism := if bad then c.mism + 1 else c.mism }) s
  suspect u band s

/-- SUSPECT_HALVING. -/
def doHalve (s : State) : State :=
  if s.live && s.clk.slot.isNone && s.hfn % 30000000 == 0 then
    modInteg (fun x => { x with counts := x.counts.map fun c => { c with checks := c.checks / 2, mism := c.mism / 2, posted := false } }) s
  else s

/-! ## Agreement (R431) -/

/-- |a − b| ≤ 2^e × m, exactly. -/
def within (e : Int) (m a b : FVal) : Bool := !FVal.lt (FVal.mul m (.fin false 1 e)) (FVal.add a b.neg).abs

/-- Two FP32 values agree; `t` is the bound of R133 for exact scores. -/
def agree (t : Option F32) (a b : F32) : Bool :=
  if a.isNan || b.isNan then a.isNan && b.isNan
  else if !a.isFinite || !b.isFinite then a == b
  else
    let big := if FVal.lt a.val.abs b.val.abs then b.val.abs else a.val.abs
    within (-10) big a.val b.val ||
      (match t with | some t => within (-16) t.val a.val b.val | none => within (-20) (.fin false 1 0) a.val b.val)

/-- Two executions of a job agree: equal signatures, or every candidate's values. -/
def runsAgree (scan : Bool) (bounds : List F32) (a b : JobVals) : Bool :=
  if scan then a.sig == b.sig
  else a.scores.length == b.scores.length && ((a.scores.zip b.scores).zipIdx.all fun x =>
    agree (some (bounds.getD x.2 F32.zero)) x.1.1.1 x.1.2.1 &&
      (match x.1.1.2, x.1.2.2 with | some y, some z => agree none y z | none, none => true | _, _ => false))

/-! ## Shadow executions and arbitrations (R430 to R435, R443) -/

/-- Remove a shadow: its inputs and its hold on tiles are released. -/
def dropShadow (id : Nat) (s : State) : State := settleBatches (modInteg (fun x => { x with shadows := x.shadows.filter (·.id != id) }) s)

/-- The two tiles of a scan job around the position at which its signatures diverged, as the job read them (R443). -/
def Shadow.near (x : Shadow) (pos : Nat) (s : State) : List (List Slot) :=
  let b := s.sbatch? x.batch
  ((x.tiles.drop (pos - 1)).take 2).map fun i => ((b.bind fun b => b.tiles[i]?).map (·.slots)).getD []
/-- The similarities of a tile's positions to the lanes of a job: those of a unit that computes rightly, which the majority gives. -/
def majority (head : Option Ckpt) (row : List Slot) : List (List Nat) :=
  match head with
  | some h => row.map fun y => h.qsk.map fun k => similarity (128 * 2 ^ h.width) k y.sketch
  | none => []

/-- A mismatch of a scan job leaves a replay capture on the primary's die (R443): at most 16, the oldest replaced. -/
def capture (x : Shadow) (u : PUnit) (pos : Nat) (s : State) : State :=
  if x.scan && bit s.integ.keeperEff 1 then
    let die := x.prim.die
    let mine := s.integ.captures.filter (·.die == die)
    let keep := mine.drop (mine.length + 1 - 16)
    let rows := x.near pos s
    let c : Capture := ⟨die, u, x.id, x.head, rows, rows.map (majority x.head), []⟩
    modInteg (fun y => { y with captures := y.captures.filter (·.die != die) ++ keep ++ [c] }) s
  else s

/-- A settled check: each run counts a check, and those named a mismatch (R432, R436). -/
def settleRuns (x : Shadow) (pos : Nat) (rs : List (Run × Bool)) (s : State) : State :=
  rs.foldl (fun s r =>
    let s := noteCheck r.1.u r.1.band r.2 s
    if r.2 then capture x r.1.u pos (count none 5 (1 + r.1.band) 1 s) else s) (count none 5 0 1 s)

/-- A unit that can run a shadow: behind a logical number of a die of the quadrant that is in service and not among those named. -/
def State.shadowUnit (s : State) (x : Shadow) (not_ : List Nat) (die phys : Nat) : Bool :=
  decide (die < 24) && die / 6 == x.quad && (s.die die).inService && !not_.contains die && ((s.die die).logicalOf (!x.scan) phys).isSome

/-- The wait of R434 has not run out. -/
def State.shadowFresh (s : State) (x : Shadow) : Bool := decide (s.hfn ≤ x.ended + fld s.integ.shadowEff 15 8)

/-- The inputs of a check are held on the primary's die and its wait has not run out: it may run on a unit of a die that has run none of it
(R430, R432, R434). -/
def State.checkOn (s : State) (die phys : Nat) (x : Shadow) : Bool :=
  s.shadowFresh x && (s.shadowsHeld x.prim.die).2.contains x.id && s.shadowUnit x (x.prim.die :: x.runs.map (·.u.die)) die phys

/-- The unit's slot in progress is open and no pavilion is a candidate for it (R439). -/
def State.slotSpare (s : State) (die : Nat) (ta : Bool) (e : Nat) : Bool :=
  if ta then s.taIdle die e && !s.scan.queries.any s.taWaits
  else s.slotOpen die false e && s.connUp die && (s.jobsOf die e).isEmpty && !s.scan.engUse.contains (die, e)

/-- Arbitrations come before shadow executions, each oldest first (R439). -/
def State.checksFor (s : State) (die phys : Nat) : List Shadow :=
  let able := s.integ.shadows.filter (s.checkOn die phys)
  able.filter (fun x => !x.runs.isEmpty) ++ able.filter fun x => x.runs.isEmpty

/-- The unit's slot goes to a check: the logical unit that runs it (R439). -/
def State.checkGrant (s : State) (x : Shadow) (die phys : Nat) : Option Nat :=
  match (s.die die).logicalOf (!x.scan) phys with
  | some e =>
    if s.slotSpare die (!x.scan) e && ((s.checksFor die phys).filter fun y => y.scan == x.scan).head? == some x then some e else none
  | none => none

/-- A disagreement that no arbitration can settle: the inputs are no longer held, or no third die of the quadrant is in service (R432). -/
def State.unresolved (s : State) (x : Shadow) (a b : PUnit) : Bool :=
  !(s.shadowsHeld x.prim.die).2.contains x.id || !(s.quadDies x.quad).any fun d => d != a.die && d != b.die

/-- The unit is in use for the slot. -/
def useUnit (x : Shadow) (die e : Nat) : State → State :=
  modScan fun y => if x.scan then { y with engUse := y.engUse ++ [(die, e)] } else { y with taUse := y.taUse ++ [⟨die, e, x.qids.headD 0, [], 0⟩] }

/-- SHADOW_EXECUTION: the values of the primary and of the shadow, and the bounds T of the candidates. -/
def doShadow (id die phys : Nat) (prim shad : JobVals) (bounds : List F32) (pos : Nat) (s : State) : State :=
  match s.integ.shadows.find? (·.id == id) with
  | none => s
  | some x =>
    match s.checkGrant x die phys with
    | none => s
    | some e =>
    if s.live && x.runs.isEmpty then
      let s := useUnit x die e s
      let a : Run := ⟨x.prim, x.band, prim⟩
      let b : Run := ⟨⟨die, !x.scan, phys⟩, s.bandNow die, shad⟩
      if runsAgree x.scan bounds prim shad then dropShadow id (settleRuns x pos [(a, false), (b, false)] s)
      else if s.unresolved x a.u b.u then dropShadow id (settleRuns x pos [(a, true), (b, true)] s)
      else modInteg (fun y => { y with shadows := mapIf (·.id == id) (fun x => { x with runs := [a, b] }) y.shadows }) s
    else s

/-- ARBITRATION: a third execution; each unit that disagrees with both of the others is counted. One that cannot be made any more counts
both sides. -/
def doArbitrate (id die phys : Nat) (vals : JobVals) (bounds : List F32) (pos : Nat) (s : State) : State :=
  match s.integ.shadows.find? (·.id == id) with
  | none => s
  | some x =>
    match x.runs with
    | [a, b] =>
      if s.live && s.shadowFresh x && s.unresolved x a.u b.u then dropShadow id (settleRuns x pos [(a, true), (b, true)] s) else
      match s.checkGrant x die phys with
      | none => s
      | some e =>
      if s.live then
        let s := useUnit x die e s
        let c : Run := ⟨⟨die, !x.scan, phys⟩, s.bandNow die, vals⟩
        let da := !runsAgree x.scan bounds vals a.vals
        let db := !runsAgree x.scan bounds vals b.vals
        let s := if da && !db then modInteg (fun y => { y with primaryWrong := true }) s else s
        dropShadow id (settleRuns x pos [(a, da), (b, db), (c, da && db)] s)
      else s
    | _ => s

/-- SHADOW_WAIT_EXPIRY. -/
def doShadowExpiry (id : Nat) (s : State) : State :=
  match s.integ.shadows.find? (·.id == id) with
  | some x => if s.live && !s.shadowFresh x then modInteg (fun y => { y with shadowDrop := true }) (dropShadow id s) else s
  | none => s

/-! ## Keeper slots and patterns (R438 to R441) -/

/-- A scan job, or any block of candidates, is queued on the die. -/
def State.dieBusy (s : State) (die : Nat) : Bool :=
  (s.scan.batches.any fun b => b.jobs.any fun j => j.die == die && !j.tiles.isEmpty) ||
    s.scan.queries.any s.taWaits

/-- The logical units in service: die, tensor array or engine, number. -/
def State.logicals (s : State) : List (Nat × Bool × Nat) :=
  (List.range 24).flatMap fun d =>
    let x := s.die d
    if x.inService then
      (x.engs.map fun e => (d, false, e)) ++ (((List.range 4).filter fun t => (x.taMap.getD t none).isSome).map fun t => (d, true, t))
    else []

/-- Assign the Keeper slots of the frame that begins (R49 step 6, R438). -/
def keeperAssign (s : State) : State :=
  let h := s.hfn
  let period := fld s.integ.keeperEff 15 8
  let last (u : Nat × Bool × Nat) : Option Frame :=
    (s.integ.keeperLast.find? fun k => k.1 == u.1 && k.2.1 == u.2.1 && k.2.2.1 == u.2.2).map (·.2.2.2)
  let wants (u : Nat × Bool × Nat) : Bool :=
    match last u with
    | none => true
    | some f => decide (f + period < h) || (!s.dieBusy u.1 && decide (f + 1 < h))
  let us := if bit s.integ.keeperEff 0 then s.logicals.filter wants else []
  let kept := s.integ.keeperLast.filter fun k => !us.contains (k.1, k.2.1, k.2.2.1)
  let s := modInteg (fun x => { x with
    keeperSlots := us.map fun u => (u.1, u.2.1, u.2.2, (u.2.2 + h) % 16)
    keeperLast := kept ++ us.map fun u => (u.1, u.2.1, u.2.2, h) }) s
  if us.isEmpty then s else count none 5 5 us.length s

/-- The outcome of a Keeper slot's pattern. -/
def keeperResult (k : KeepIn) (s : State) : State :=
  if s.keeperNow k.die k.ta k.unit then
    let u := s.physOf k.die k.ta k.unit
    let s := noteCheck u (s.bandNow k.die) (!k.ok) s
    if k.ok then modInteg (fun x => { x with keeperBad := x.keeperBad.filter (· != u) }) s
    else if s.integ.keeperBad.contains u then
      askSwap k.die k.ta k.unit 2 (modInteg (fun x => { x with
        keeperBad := x.keeperBad.filter (· != u), keeperFail := satTo 0xFFFF (x.keeperFail + 1) }) s)
    else modInteg (fun x => { x with keeperBad := x.keeperBad ++ [u] }) s
  else s

/-- A bank filter's test (R442): disabled after two disagreements, 1/8 of the 48 banks of a pseudo-channel at most. -/
def bankTest (t : Nat × Nat × Bool) (s : State) : State :=
  let k := (t.1, t.2.1)
  if s.integ.banksOff.contains k then s
  else if t.2.2 then modInteg (fun x => { x with bankBad := x.bankBad.filter (· != k) }) s
  else if s.integ.bankBad.contains k then
    let off := (s.integ.banksOff.filter fun y => y.1 == t.1 && bankChan y.2 == bankChan t.2.1).length
    let s := nodeEvent evBist (leBytes 1 (32 + t.1) ++ leBytes 1 0 ++ leBytes 1 1) s
    if off < 6 then modInteg (fun x => { x with banksOff := x.banksOff ++ [k], bankBad := x.bankBad.filter (· != k) }) s else s
  else modInteg (fun x => { x with bankBad := x.bankBad ++ [k] }) s

/-- A replay of a capture that names a quarantined unit (R443), in the load bin of the slot; a slot in neither bin replays nothing. -/
def replay (r : Nat × Nat × Bool) (s : State) : State :=
  let busy := ((s.die r.1).engs.filter fun e => !(s.jobsOf r.1 e).isEmpty).length
  if bit s.integ.keeperEff 1 && (decide (busy < 8) || decide (40 ≤ busy)) then
    let loaded := decide (40 ≤ busy)
    let b := s.bandNow r.1
    let bump (c : Capture) : Capture :=
      let old := (c.counts.find? fun y => y.1 == b && y.2.1 == loaded).getD (b, loaded, 0, 0)
      { c with counts := (c.counts.filter fun y => !(y.1 == b && y.2.1 == loaded)) ++
          [(b, loaded, old.2.2.1 + 1, if r.2.2 then old.2.2.2 else old.2.2.2 + 1)] }
    modInteg (fun x => { x with captures := mapIf (fun c => c.die == r.1 && c.job == r.2.1 && x.quarantine.contains c.u) bump x.captures }) s
  else s

/-! ## SRAM errors (R427) -/

/-- A query ends with a status before its results are whole. -/
def breakQuery (st : Status) (s : State) (qid : Nat) : State :=
  match s.query? qid with
  | some q =>
    if q.stage.over then s else finishLocal qid (modQuery qid (fun q => { q with toJoin := [], toScan := [], top := [], bad := q.bad ++ [st] }) s)
  | none => s

/-- Queries and work items end with a status. -/
def breakWork (st : Status) (qids works : List Nat) (s : State) : State :=
  works.foldl (fun s w => completeId w st 0 [] s) (qids.foldl (breakQuery st) s)

/-- An access across region types is stopped (R223): a filter's tile is not scanned, what was to be read is not delivered, what was to be
written is not, and the work ends. -/
def fenceStop (x : FenceIn) (s : State) : State :=
  let s := fenceHit x.stack s
  match x.kind with
  | .filter => match x.tile.bind fun t => (s.sbatch? t.1).bind fun b => (b.tiles[t.2]?).map fun y => (t, b, y) with
    | some (t, _, y) => breakWork .fence y.qids [] (skipTile t.1 t.2 s)
    | none => s
  | .walledRead => breakWork .memUncorrectable x.qids x.works (rowError 0 x.stack x.row s)
  | _ => breakWork .fence x.qids x.works s

/-- An SRAM error is met. -/
def sramError (x : SramIn) (s : State) : State :=
  if x.corrected then count none 5 6 1 s
  else
    let s := breakWork .internal x.qids x.works (count none 5 7 1 s)
    match x.die with
    | none => s
    | some d =>
      let s := modInteg (fun y => { y with sramUe := true }) s
      match x.eng with | some e => askSwap d false e 2 s | none => s

/-- The integrity part of a slot: what its Keeper slots and tests find. -/
def integSlot (inp : SlotIn) (s : State) : State :=
  let s := inp.sram.foldl (fun s x => sramError x s) (inp.mem.fences.foldl (fun s x => fenceStop x s) s)
  let s := inp.keeper.foldl (fun s k => keeperResult k s) s
  inp.replays.foldl (fun s r => replay r s) (inp.banks.foldl (fun s t => bankTest t s) s)

/-! ## Scrub and repair (R444, R445) -/

/-- The tag of a tile as the tile list has it. -/
def Store.tagFor (x : Store) (p num : Nat) : Option Tag :=
  (x.dir.find? fun e => e.tiles.contains num).map fun e => ⟨e.plot, num, x.epoch, 0, widthCode x.width, p⟩

/-- The sketch that a record gives under an epoch (R154, R155): none for a bad record, or for one that cannot be read. -/
def recSketch (p : Nat) (b : Bundle) (r : Rec) (s : State) : Option Nat :=
  let c := s.corpus p
  let rb := (c.bundle? r.qepoch).getD b
  let n := recordBytes rb.dim rb.vfmt rb.group rb.qmode
  match readFor p (c.vecAddr r.elem) n 0 s with
  | ((some _, _), _) => none
  | ((none, bs), _) => (b.read bs).map b.sketch

/-- A tile rebuilt from its slot records (R445). -/
def rebuild (p : Nat) (b : Bundle) (x : Store) (t : Tile) (s : State) : Tile :=
  let one (y : Slot) : Slot := match y.ent with
    | some r => if y.deleted then y else { y with sketch := (recSketch p b r s).getD y.sketch }
    | none => { y with sketch := 0 }
  { t with tag := (x.tagFor p t.num).getD t.tag, slots := t.slots.map one }

/-- Put a repaired tile in its place. -/
def putTile (p ep : Nat) (t : Tile) (s : State) : State :=
  modInteg (fun x => { x with scrubFix := satTo 0xFFFF (x.scrubFix + 1) })
    (modCorpus p (fun c => c.modStore ep fun x => { x with tiles := mapIf (·.num == t.num) (fun _ => t) x.tiles }) s)

/-- Every tile of the node's main stores, in order. -/
def State.allTiles (s : State) : List (Nat × Nat × Nat) :=
  s.corpora.zipIdx.flatMap fun (c, p) => c.stores.flatMap fun x => x.tiles.map fun t => (p, x.epoch, t.num)

/-- SKETCH_SCRUB of a tile of a main store: `same` says whether the array of another die gives the same recomputed sketches; the two
arrays are named. -/
def doScrubTile (p ep num : Nat) (same : Bool) (u1 u2 : Nat × Nat) (s : State) : State :=
  match ((s.corpus p).store? ep), ((s.corpus p).bundle? ep) with
  | some x, some b =>
    match x.tile? num with
    | none => s
    | some t =>
      if s.live then
        let all := s.allTiles
        let i := (all.findIdx? (· == (p, ep, num))).getD 0 + 1
        let s := modInteg (fun y => { y with scrubProg := if i = all.length then 0 else i * 65536 / max 1 all.length }) s
        let bad := t.slots.any fun y => match y.ent with | some r => !y.deleted && (recSketch p b r s).isNone | none => false
        let s := if bad then modCorpus p (fun c => { c with badRecord := true }) s else s
        let t' := rebuild p b x t s
        if t' = t then s
        else if same then putTile p ep t' s
        else
          let a (u : Nat × Nat) (s : State) : State := noteCheck ⟨u.1, true, u.2⟩ (s.bandNow u.1) true (count none 5 (1 + s.bandNow u.1) 1 s)
          a u2 (a u1 s)
      else s
  | _, _ => s

/-- TILE_REPAIR of a tile whose tag did not match: a tile released in the meantime is not written. -/
def doRepair (p ep num : Nat) (s : State) : State :=
  let mine (r : Nat × Nat × Nat × Frame) : Bool := r.1 == p && r.2.1 == ep && r.2.2.1 == num
  if s.live && s.integ.repairs.any mine then
    let s := modInteg (fun x => { x with repairs := x.repairs.filter fun r => !mine r }) s
    match ((s.corpus p).store? ep), ((s.corpus p).bundle? ep) with
    | some x, some b =>
      match x.tile? num with
      | some t => if (x.tagFor p num).isSome then putTile p ep (rebuild p b x t s) s else s
      | none => if 2 ^ 32 ≤ num then modInteg (fun x => { x with scrubFix := satTo 0xFFFF (x.scrubFix + 1) }) s else s
    | _, _ => s
  else s

/-! ## Stragglers (R446) -/

/-- Twice the median of a list of rates. -/
def median2 (rs : List Rat) : Rat :=
  let rs := sortBy (fun a b => decide (a < b)) rs
  rs.getD ((rs.length - 1) / 2) 0 + rs.getD (rs.length / 2) 0

/-- STRAGGLER_WINDOW, at a frame whose HFN is a multiple of 1,000. -/
def doStraggler (rs : List RateIn) (s : State) : State :=
  if s.live && s.clk.slot.isNone && s.hfn % 1000 == 0 && bit s.integ.spareEff 0 then
    let full := rs.filter fun r => decide (1000 ≤ r.slots) && decide (0 < r.cycles)
    let rate (r : RateIn) : Rat := (r.work : Rat) / r.cycles
    full.foldl (fun s r =>
      let peers := full.filter fun y => y.die == r.die && y.ta == r.ta && y.unit != r.unit
      if decide (8 ≤ peers.length) && decide (2 * rate r * fld s.integ.spareEff 15 8 < 100 * median2 (peers.map rate)) then
        askSwap r.die r.ta r.unit 0 s
      else s) s
  else s

/-! ## BIST (R450 to R453) -/

/-- Frames of a run (R451). -/
def bFrames (v : W32) : Nat :=
  match bTarget v with
  | some .engine => if bTest v = 0 then 16 else 28
  | some .array => 8
  | some .region => 110
  | _ => 2500

/-- The condition of R451. -/
def State.bistCond (s : State) (v : W32) : Bool :=
  let d := s.die (bUnit v)
  let spare (ta : Bool) : Bool := (d.logicalOf ta (bSub v)).isNone || !(d.spares ta).isEmpty
  match bTarget v with
  | some .engine => d.inService && spare false
  | some .array => d.inService && spare true
  | some .region => d.inService
  | some .router => s.works.isEmpty && s.scan.queries.isEmpty && s.upd.batches.isEmpty && s.fns.all fun f => f.rings.all fun r => !r.enabled
  | none => false

/-- BIST on request is open (R411, R450). -/
def State.bistOpen (s : State) : Bool := s.lodge.lc == 1 || s.lodge.lc == 3

/-- Accept a run: it begins at the next frame boundary. -/
def startBist (v : W32) (s : State) : State :=
  modInteg (fun x => { x with bistCtl := v &&& 0x7FFF#32, bist := some ⟨v &&& 0x7FFF#32, false, bFrames v, none, bFrames v⟩ }) s

/-- BIST_GO: BIST_CTL is written with GO 1. -/
def doBistGo (v : W32) (s : State) : State :=
  if s.bar0Up0 && bit v 16 then
    if s.bistOpen && s.integ.bist.isNone && s.bistCond v then startBist v s
    else modInteg (fun x => { x with bistReject := true }) s
  else s

/-- BIST_REQUEST of the Grounds: the Lodge denies it outside TEST and RETURNED (R422). -/
def doBistRequest (v : W32) (s : State) : State :=
  if s.live then
    if !s.bistOpen then emit (.internal "BIST" rcDenied) s
    else if s.integ.bist.isNone && s.bistCond v then emit (.internal "BIST" rcOk) (startBist v s)
    else emit (.internal "BIST" rcRefused) s
  else s

/-- The target's kind is a tensor array. -/
def bTa (v : W32) : Bool := bTarget v == some .array

/-- A run begins: a spare stands in for the target. -/
def beginBist (b : BistRun) (s : State) : State :=
  let die := bUnit b.ctl
  let ta := bTa b.ctl
  let d := s.die die
  let lent := match bTarget b.ctl with
    | some .engine | some .array => (d.logicalOf ta (bSub b.ctl)).bind fun n => (d.spares ta).min?.map fun p => (n, p)
    | _ => none
  let s := match lent with | some (n, p) => modDie die (·.setMap ta n (some p)) s | none => s
  modInteg (fun x => { x with bist := some { b with begun := true, spare := lent.map (·.2) } }) s

/-- The target goes back behind its logical number. -/
def returnTarget (b : BistRun) (s : State) : State :=
  let die := bUnit b.ctl
  let ta := bTa b.ctl
  match b.spare with
  | some p => match (s.die die).logicalOf ta p with
    | some n => modDie die (·.setMap ta n (some (bSub b.ctl))) s
    | none => s
  | none => s

/-- The event of a run. -/
def bistFlag (v : W32) (fail : Bool) (sig : W32) (s : State) : State :=
  nodeEvent evBist (leBytes 1 (bUnit v) ++ leBytes 1 (bTest v) ++ leBytes 1 (if fail then 1 else 0) ++ zeros 1 ++ leBytes 4 sig.toNat) s

/-- A run is aborted (R453). -/
def abortBist (b : BistRun) (s : State) : State :=
  bistFlag b.ctl false 0#32 (modInteg (fun x => { x with bist := none, bistAbort := true }) (returnTarget b s))

/-- Coverage that a run reports, in units of 1/65,536 (R452): in mode 0 the stated one, 0.982, 0.975 or 1; none is stated for a router. -/
def bCov (v : W32) (measured : Nat) : Nat :=
  if bit v 14 then min 0x10000 measured
  else if bTest v = 1 then 0x10000
  else match bTarget v with
    | some .engine => 982 * 65536 / 1000
    | some .array => 975 * 65536 / 1000
    | _ => min 0x10000 measured

/-- BIST_RUN_DONE: the run has lasted its time; signature, verdict and measured coverage. -/
def doBistDone (sig : W32) (fail : Bool) (cov : Nat) (s : State) : State :=
  match s.integ.bist with
  | some b =>
    if s.live && b.begun && b.left == 0 && s.clk.slot.isNone then
      bistFlag b.ctl fail sig (modInteg (fun x => { x with
        bist := none, bistSig := sig, bistMs := satTo 0xFFFF (b.frames / 50), bistCov := bCov b.ctl cov
        bistFail := fail, bistAbort := false }) (returnTarget b s))
    else s
  | none => s

/-- The BIST part of a frame boundary. -/
def bistFrame (s : State) : State :=
  match s.integ.bist with
  | some b =>
    if !b.begun then beginBist b s
    else if decide (bUnit b.ctl < 24) && bTarget b.ctl != some .router && !(s.die (bUnit b.ctl)).inService then abortBist b s
    else modInteg (fun x => { x with bist := some { b with left := b.left - 1 } }) s
  | none => s

/-! ## Swaps (R18, R19, R30, R447 to R449) -/

/-- Jobs of a logical engine move with the unit that takes its place. -/
def moveJobs (die old new : Nat) (s : State) : State :=
  modScan (fun x => { x with batches := x.batches.map fun b =>
    { b with jobs := mapIf (fun j => j.die == die && j.eng == old) (fun j => { j with eng := new }) b.jobs } }) s

/-- The jobs of a search die that can do no more work go to another die of the quadrant; without one, their queries end with INTERNAL
(R20, R24). -/
def leaveDie (die : Nat) (s : State) : State :=
  match s.quadDies (die / 6) with
  | d :: _ => modScan (fun x => { x with batches := x.batches.map fun b =>
      { b with jobs := mapIf (fun j => j.die == die) (fun j => { j with die := d, eng := (s.die d).engs.headD 0 }) b.jobs } }) s
  | [] => breakWork .internal (dedupKeep ((s.scan.batches.flatMap fun b => b.jobs.filter (·.die == die)).flatMap (·.lanes))) [] s

/-- A quadrant without a search die in service takes the node out of service (R20, R220). The report names the die that left last: the
spec names the failed router's die only (DESIGN CHOICE, log 154). -/
def outOfService (die : Nat) (s : State) : State :=
  { nodeEvent evBist (leBytes 1 die ++ leBytes 1 0 ++ leBytes 1 1) s with phase := .failed 2 }

/-- A die that keeps fewer than 8 healthy engines goes out of service (R20, R448), and with a quadrant's last one the node (R220). -/
def checkDie (die : Nat) (s : State) : State :=
  if (s.die die).inService && decide ((healthy (s.die die).engines).length < 8) then
    let s := modDie die (fun d => { d with inService := false }) s
    if (List.range 6).all fun i => !(s.die (6 * (die / 6) + i)).inService then outOfService die s else leaveDie die s
  else s

/-- A swap or a withdrawal has taken effect. -/
def swapped (r : SwapReq) (old new : Nat) (s : State) : State :=
  let s := modDie r.die (·.setHealth r.ta old false) s
  let s := modInteg (fun x => { x with swapSeen := true, quarantine := dedupKeep (x.quarantine ++ [⟨r.die, r.ta, old⟩]) }) s
  checkDie r.die (nodeEvent evSwap (leBytes 1 r.die ++ leBytes 1 r.logical ++ leBytes 1 (if r.ta then 1 else 0) ++ leBytes 1 r.cause ++
    leBytes 1 old ++ leBytes 1 new) s)

/-- Serve one request: a spare, a spare on loan to a BIST run, a withdrawal, or none (R447, R448). -/
def serveSwap (s : State) (r : SwapReq) : State :=
  let d := s.die r.die
  match (d.map r.ta).getD r.logical none with
  | none => s
  | some old =>
    let put (new : Nat) (s : State) : State := swapped r old new (modDie r.die (·.setMap r.ta r.logical (some new)) s)
    match (d.spares r.ta).min? with
    | some p => put p s
    | none =>
      let loan := match s.integ.bist with
        | some b => if b.begun && bUnit b.ctl == r.die && bTa b.ctl == r.ta then b.spare.map fun p => (b, p) else none
        | none => none
      match loan with
      | some (b, p) => if p = old then swapped r old (bSub b.ctl) (abortBist b s) else put p (abortBist b s)
      | none =>
        if r.cause = 2 || bit s.integ.spareEff 2 then
          let top := maxNat (((List.range (d.map r.ta).length).filter fun n => ((d.map r.ta).getD n none).isSome))
          match (d.map r.ta).getD top none with
          | none => s
          | some new =>
            let s := modDie r.die (fun d => (d.setMap r.ta r.logical (some new)).setMap r.ta top none) s
            let s := if r.ta then s else moveJobs r.die top r.logical s
            swapped r old new s
        else modInteg (fun x => { x with noSpare := true }) s

/-- The swaps of a frame boundary (R49 step 4): highest cause first, then lowest logical number, one per unit; DIE_STAT follows. -/
def swapFrame (s : State) : State :=
  let rs := s.integ.swaps
  let rs := rs.filter fun r => !rs.any fun q => q.die == r.die && q.ta == r.ta && q.logical == r.logical && decide (r.cause < q.cause)
  let rs := sortBy (fun a b => decide (b.cause < a.cause) || (a.cause == b.cause && decide (a.logical < b.logical))) rs
  let s := rs.foldl serveSwap (modInteg (fun x => { x with swaps := [] }) s)
  { s with dies := s.dies.map fun d => { d with stat := d.report } }

/-! ## Registers (R454, R455) -/

/-- The integrity registers take effect. -/
def Integ.apply (x : Integ) : Integ :=
  { x with keeperEff := x.keeperCfg, shadowEff := x.shadowRate, suspectEff := x.suspectCfg, spareEff := x.spareCfg, selEff := x.suspectSel }

/-- A write at an offset of the integrity registers. -/
def writeInteg (off : Nat) (v : W32) (s : State) : State :=
  let bad (s : State) : State := modInteg (fun x => { x with cfgReject := true }) s
  let put_ (ok : Bool) (g : Integ → Integ) (s : State) : State := if ok then modInteg g s else bad s
  if !s.bar0Up0 then s
  else if off = 0xC00 then
    put_ (decide (1 ≤ fld v 15 8) && inRange 1 (fld v 23 16) 168) (fun x => { x with keeperCfg := v &&& 0x00FF_FF03#32 }) s
  else if off = 0xC04 then
    put_ (inRange 1 (fld v 4 0) 20 && decide (1 ≤ fld v 15 8)) (fun x => { x with shadowRate := v &&& 0x0000_FF3F#32 }) s
  else if off = 0xC08 then
    put_ (decide (1 ≤ fld v 15 0) && decide (1 ≤ fld v 23 16)) (fun x => { x with suspectCfg := v &&& 0x00FF_FFFF#32 }) s
  else if off = 0xC0C then put_ (decide (110 ≤ fld v 15 8)) (fun x => { x with spareCfg := v &&& 0x0000_FF07#32 }) s
  else if off = 0xC10 then
    modInteg (fun x => { x with
      cfgReject := x.cfgReject && !bit v 0, suspectSeen := x.suspectSeen && !bit v 1, swapSeen := x.swapSeen && !bit v 2
      noSpare := x.noSpare && !bit v 3, shadowDrop := x.shadowDrop && !bit v 4, primaryWrong := x.primaryWrong && !bit v 5
      sramUe := x.sramUe && !bit v 6 }) s
  else if off = 0xC20 then
    put_ (decide (fld v 4 0 < 24) && decide (fld v 10 5 < if bit v 11 then 5 else 52)) (fun x => { x with suspectSel := v &&& 0x3FFF#32 }) s
  else if off = 0xC40 then
    if bit v 16 then doBistGo v s
    else if bTest v = 3 ∨ 48 ≤ bUnit v then modInteg (fun x => { x with bistReject := true }) s
    else modInteg (fun x => { x with bistCtl := v &&& 0x7FFF#32 }) s
  else if off = 0xC44 then
    modInteg (fun x => { x with bistFail := x.bistFail && !bit v 1, bistAbort := x.bistAbort && !bit v 2, bistReject := x.bistReject && !bit v 3 }) s
  else s

/-- R430 to R432. -/
def execShadowExecution (id die phys : Nat) (prim shad : JobVals) (bounds : List (BitVec 32)) (pos : Nat) (s : State) :
    Host.Outcome State Fault Refusal := .next (doShadow id die phys prim shad bounds pos s)
/-- R432. -/
def execArbitration (id die phys : Nat) (vals : JobVals) (bounds : List (BitVec 32)) (pos : Nat) (s : State) :
    Host.Outcome State Fault Refusal := .next (doArbitrate id die phys vals bounds pos s)
/-- R434. -/
def execShadowWaitExpiry (id : Nat) (s : State) : Host.Outcome State Fault Refusal := .next (doShadowExpiry id s)
/-- R436. -/
def execSuspectHalving (s : State) : Host.Outcome State Fault Refusal := .next (doHalve s)
/-- R444, R445. -/
def execSketchScrub (pv : Pv) (epoch tile : Nat) (same : Bool) (u1 u2 : Nat × Nat) (s : State) : Host.Outcome State Fault Refusal :=
  .next (doScrubTile pv.val epoch tile same u1 u2 s)
/-- R445. -/
def execTileRepair (pv : Pv) (epoch tile : Nat) (s : State) : Host.Outcome State Fault Refusal := .next (doRepair pv.val epoch tile s)
/-- R446. -/
def execStragglerWindow (rates : List RateIn) (s : State) : Host.Outcome State Fault Refusal := .next (doStraggler rates s)
/-- R450, R451, R455. -/
def execBistGo (v : W32) (s : State) : Host.Outcome State Fault Refusal := .next (doBistGo v s)
/-- R422, R450. -/
def execBistRequest (ctl : W32) (s : State) : Host.Outcome State Fault Refusal := .next (doBistRequest ctl s)
/-- R452. -/
def execBistRunDone (sig : W32) (fail : Bool) (cov : Nat) (s : State) : Host.Outcome State Fault Refusal := .next (doBistDone sig fail cov s)
/-- R455. -/
def execIntegRegWrite (off : Nat) (v : W32) (s : State) : Host.Outcome State Fault Refusal := .next (writeInteg off v s)

end Sys2Proof.Machine
end

