-- ==== Sys2Proof/Machine/Requests.lean ====
section
/-! DEFINITION. Messages as they reach their engines: reads, writes and atomics of hall addresses, their answers, holds for a newer
map, bundles, FABRIC_COPY, STATS_READ (R318 to R320, R333 to R339, R343, R363 to R366). -/

namespace Sys2Proof.Machine

/-- Change the fabric state. -/
def modFab (g : Fabric → Fabric) (s : State) : State := { s with fab := g s.fab }

/-- The engines take messages from a node: it is a member of the hall, this node has a number, and its ports are not held down by
flush mode (R330, R339, R463). -/
def State.hears (s : State) (src : Nat) : Bool :=
  s.live && s.node != 0xFFFF && !s.flushing && s.comp.map.members.any (·.node == src)

/-! ## Requests (R335) -/

/-- Fields of a READ, WRITE or ATOMIC. -/
def reqAddr (m : Msg) : Nat := field m.m.body 0 8
def reqPv (m : Msg) : Nat := hallPv (reqAddr m)
def reqOff (m : Msg) : Nat := hallOff (reqAddr m)
def reqLen (m : Msg) : Nat := if m.op = jAtomic then 8 else field m.m.body 8 4
/-- The operation is a request with a RESP. -/
def isReq (op : Nat) : Bool := op == jRead || op == jWrite || op == jAtomic

/-- Reserved bytes and the operation code of a request (check 7 of R339). -/
def reqResvOk (m : Msg) : Bool :=
  if m.op = jAtomic then
    decide (field m.m.body 8 1 ≤ 1) && zeroAt m.m.body 9 7 && (field m.m.body 8 1 == 1 || zeroAt m.m.body 24 8) && reqAddr m % 8 == 0
  else zeroAt m.m.body 12 4
/-- The length of a request. -/
def reqLenOk (m : Msg) : Bool :=
  let n := reqLen m
  inRange 1 n 0x3FFFFFF0 &&
  m.m.body.length == (if m.op = jRead then 16 else if m.op = jWrite then 16 + n else 32)

/-- The answer that a request gets without an access: a failed check, or REDIRECT to the node that its address names (R339, R364). -/
def reqRefusal (s : State) (m : Msg) : Option (Status × List Byte) :=
  if !reqResvOk m then some (.badField, [])
  else if !reqLenOk m then some (.badLength, [])
  else if hallNode (reqAddr m) ≠ s.node then some (.redirect, leBytes 8 (hallNode (reqAddr m)))
  else if decide (12 ≤ reqPv m) || !s.composed (reqPv m) || decide (hostAreaEnd ≤ reqOff m) then some (.badAddress, [])
  else if hostAreaEnd < reqOff m + reqLen m then some (.badLength, [])
  else none

/-- Pages of a request that have to be promoted first, and whether a unit of one cannot be read. -/
def reqLow (s : State) (m : Msg) : List Nat :=
  (blocksIn pageSize (reqOff m) (reqLen m)).filter fun no => match ((s.range (reqPv m)).page no).st with | .t2 => true | .t3 => true | _ => false
def reqDead (s : State) (m : Msg) : Bool := (reqLow s m).any fun no => s.flash.badPage (reqPv m) no

/-- The answer that a write gives: none while it waits for a frame or for a copy that holds its page. -/
def writeAnswer (bs : List Byte) (x : Got × State) : Option (Status × List Byte) × State :=
  match x with
  | (.ready, s) => (some (.ok, bs), s)
  | (.wait, s) => (none, s)
  | (.refuse st, s) => (some (st, []), s)

/-- Perform a request whose pages are in T1 or unwritten: the answer, or none while a write has to wait (R204, R209). -/
def performReq (m : Msg) (s : State) : Option (Status × List Byte) × State :=
  let p := reqPv m
  let a := reqOff m
  if m.op = jWrite then writeAnswer [] (writeBack p a (slice m.m.body 16 (reqLen m)) s)
  else
    match readFor p a (reqLen m) 0 s with
    | ((some st, _), s) => (some (st, []), s)
    | ((none, bs), s) =>
      if m.op = jRead then (some (.ok, bs), s)
      else
        let old := leNat bs
        let x := field m.m.body 16 8
        let new := if field m.m.body 8 1 = 0 then (old + x) % 2 ^ 64 else if old = field m.m.body 24 8 then x else old
        writeAnswer bs (writeBack p a (leBytes 8 new) s)

/-- Serve a request, or begin the promotions it waits for. -/
def tryReq (m : Msg) (s : State) : Option (Status × List Byte) × State :=
  match reqRefusal s m with
  | some r => (some r, s)
  | none =>
    if reqDead s m then (some (.flashUnrecoverable, []), s)
    else
      match reqLow s m with
      | [] => performReq m s
      | nos => (none, nos.foldl (fun s no => promote (reqPv m) no s) s)

/-! ## FABRIC_COPY (R320, R321) -/

/-- The largest piece of a copy: a sub-message of 1 MiB (R332). -/
def copyPiece : Nat := 2 ^ 20

/-- Issue one request of this node: to itself it is served locally (R330). -/
def issueReq (dst op pv : Nat) (why : ReqFor) (body : List Byte) (s : State) : State :=
  let (id, s) := newMsgId s
  let s := modFab (fun f => { f with reqs := f.reqs ++ [⟨id, dst, why, body⟩] }) s
  if dst = s.node then
    modFab (fun f => { f with held := f.held ++ [⟨⟨⟨s.node, s.comp.map.epoch, pv, id, body⟩, op⟩, s.hfn, true⟩] }) s
  else sendBytes dst 3 op pv id body s

/-- The body of a READ, and of a WRITE. -/
def readBody (addr len : Nat) : List Byte := leBytes 8 addr ++ leBytes 4 len ++ zeros 4
def writeBody (addr : Nat) (bs : List Byte) : List Byte := leBytes 8 addr ++ leBytes 4 bs.length ++ zeros 4 ++ bs

/-- The pieces of a copy of `len` bytes: offset and length. -/
def copyPieces (len : Nat) : List (Nat × Nat) :=
  (List.range ((len + copyPiece - 1) / copyPiece)).map fun i => (i * copyPiece, min copyPiece (len - i * copyPiece))

/-- A FABRIC_COPY descriptor's fields. -/
def cSrc (d : List Byte) : Nat := field d 8 8
def cDst (d : List Byte) : Nat := field d 16 8
def cLen (d : List Byte) : Nat := field d 24 4
def cDir (d : List Byte) : Nat := field d 28 1

/-- Begin a copy: every piece is requested, in address order. `data` is the host source of a copy to the hall. -/
def startFabCopy (data : Option (List Byte)) (w : Work) (s : State) : State :=
  let d := w.desc
  let p := pvOf w.fn
  let s := when_ (decide (cDir d = 0)) (hostRead w.fn (cSrc d) (cLen d)) s
  let s' := modWork w.id (fun w => { w with stage := .running }) s
  if cDir d = 0 then
    match data with
    | none => failWork w .badAddress s
    | some bs =>
      let bs := padTo (cLen d) bs
      (copyPieces (cLen d)).foldl (fun s x =>
        issueReq (hallNode (cDst d)) jWrite p (.copy w.id x.1 x.2 true) (writeBody (cDst d + x.1) (slice bs x.1 x.2)) s) s'
  else
    (copyPieces (cLen d)).foldl (fun s x =>
      issueReq (hallNode (cSrc d)) jRead p (.copy w.id x.1 x.2 false) (readBody (cSrc d + x.1) x.2) s) s'

/-- The request is a piece of the work item's copy. -/
def Req.ofCopy (wid : Nat) (r : Req) : Bool := match r.why with | .copy w _ _ _ => w == wid | _ => false
/-- The offset of a piece. -/
def Req.off (r : Req) : Nat := match r.why with | .copy _ o _ _ => o | _ => 0

/-- A copy ends: what it reports is below every piece still outstanding. -/
def endCopy (wid off : Nat) (st : Status) (node : Nat) (s : State) : State :=
  let out := (s.fab.reqs.filter (Req.ofCopy wid)).map Req.off
  let s := modFab (fun f => { f with reqs := f.reqs.filter fun r => !r.ofCopy wid
                                     held := f.held.filter fun h => !(h.msg.m.src == s.node && f.reqs.any fun r => r.ofCopy wid && r.msgId == h.msg.m.msgId) }) s
  completeId wid st 0 (spec3 node 0 (out.foldl min off)) s

/-- One piece of a copy is answered OK. -/
def copyAnswered (wid off len : Nat) (write : Bool) (data : List Byte) (s : State) : State :=
  match s.work wid with
  | none => s
  | some w =>
    let d := w.desc
    if !write && cDir d == 2 then
      issueReq (hallNode (cDst d)) jWrite (pvOf w.fn) (.copy wid off len true) (writeBody (cDst d + off) (padTo len data)) s
    else
      let s := if write then s else hostWrite w.fn (cDst d + off) (padTo len data) s
      if s.fab.reqs.any (Req.ofCopy wid) then s else endCopy wid (cLen d) .ok 0 s

/-! ## The transfer of a move (R368 steps 3 and 4) -/

/-- Change the moves of this node as old owner that satisfy a test. -/
def modOut (sel : MoveOut → Bool) (g : MoveOut → MoveOut) (s : State) : State :=
  { s with comp := { s.comp with out := mapIf sel g s.comp.out } }

/-- Send HANDOFF (R367). -/
def sendHandoff (m : MoveOut) (s : State) : State :=
  modOut (·.tok == m.tok) (fun m => { m with stage := if m.stage = .transferring then .handoff else m.stage, lastSent := s.hfn })
    (sendMap m.recv (.handoff m.tok (m.act - 1) m.vers m.bytes) s)

/-- A transfer has to be repeated: at most three times, then MOVE_ABORT is proposed (R368). -/
def repeatMove (m : MoveOut) (s : State) : State :=
  if m.tries < 3 then modOut (·.tok == m.tok) (fun m => { m with stage := .begun, tries := m.tries + 1 }) s
  else propose (.moveAbort m.tok.pv m.tok.plot) none none s

/-- The last WRITE of a transfer is answered. -/
def moveAnswered (tok : Token) (st : Status) (s : State) : State :=
  match s.comp.out.find? fun m => m.tok == tok && m.stage == .transferring with
  | none => s
  | some m => if st = .ok then sendHandoff m s else repeatMove m s

/-- The answer to a request of this node. -/
def takeResp (src id : Nat) (st : Status) (data : List Byte) (s : State) : State :=
  match s.fab.reqs.find? fun r => r.msgId == id && r.dst == src with
  | none => s
  | some r =>
    let s := modFab (fun f => { f with reqs := f.reqs.filter (·.msgId != id) }) s
    match r.why with
    | .copy wid off len write =>
      if st = .ok then copyAnswered wid off len write data s
      else endCopy wid off st (if st = .redirect then leNat data % 65536 else 0) s
    | .atomic => emit (.internal "ATOMIC" (leNat data)) s
    | .move ep p plot => moveAnswered ⟨ep, plot, p⟩ st s

/-- Answer a request: over the fabric in its own class, or here. -/
def answerReq (m : Msg) (st : Status) (data : List Byte) (s : State) : State :=
  if m.m.src = s.node then takeResp s.node m.m.msgId st data s
  else
    sendMsg m.m.src (if m.op = jAtomic then 0 else 3) jResp m.m.pv
      (leBytes 4 m.m.msgId ++ leBytes 1 st.code ++ zeros 3 ++ leBytes 4 data.length ++ zeros 4 ++ data) s

/-- Serve a request that has just arrived, or hold it for its pages. -/
def doRequest (m : Msg) (s : State) : State :=
  match tryReq m s with
  | (some (st, data), s) => answerReq m st data s
  | (none, s) => modFab (fun f => { f with held := f.held ++ [⟨m, s.hfn, true⟩] }) s

/-- Serve the held requests whose pages are ready, in order, those of this node's own copies among them. -/
def pumpReqs : Nat → State → State
  | 0, s => s
  | n + 1, s =>
    match s.fab.held.find? fun h => h.forPage && (reqDead s h.msg || (reqLow s h.msg).isEmpty || (reqRefusal s h.msg).isSome) with
    | none => s
    | some h =>
      match tryReq h.msg (modFab (fun f => { f with held := f.held.erase h }) s) with
      | (some (st, data), s) => pumpReqs n (answerReq h.msg st data s)
      | (none, s) => modFab (fun f => { f with held := h :: f.held }) s

/-- Promotions that held requests wait for are begun. -/
def promoteHeld (s : State) : State :=
  s.fab.held.foldl (fun s h => if h.forPage && (reqRefusal s h.msg).isNone then (reqLow s h.msg).foldl (fun s no => promote (reqPv h.msg) no s) s else s) s

/-- Enough turns for every held request and every piece that its answer may add. -/
def pumpAll (s : State) : State := promoteHeld (pumpReqs (2 * s.fab.held.length + 2 * s.fab.reqs.length + 2) s)

/-- FABRIC_COPY. -/
def doCopy (wid : Nat) (data : Option (List Byte)) (s : State) : State :=
  admitWork opCopy wid (fun w s => pumpAll (startFabCopy data w s)) s

/-- PAGE_PROMOTE_DONE: what waits for the page goes on. -/
def doPromoteDone (p no : Nat) (ok : Bool) (s : State) : State := pumpAll (doPromoted p no ok s)
/-- DEMOTE_SWITCH: what waits for the frame, or for the copy, goes on. -/
def doDemoteSwitch (p no : Nat) (s : State) : State := pumpAll (doSwitch p no s)

/-! ## Delivery (R339 check 7, R363) -/

/-- The fields of a query record that do not hang on its epoch are in range (R304, R336). -/
def fanOk (r : List Byte) : Bool :=
  let k := field r 20 2
  let c := field r 22 2
  let fqf := field r 29 1
  field r 82 2 * 64 == r.length && decide (fqf < 64) && zeroAt r 85 11 && decide (field r 28 1 ≤ 3) && (fqf.testBit 3 == (field r 24 2 == 0)) &&
    inRange 1 k 1024 && inRange k c 4096 && (field r 30 2 == 0 || (fqf.testBit 1 && inRange k (field r 30 2) c)) &&
    !(fqf.testBit 1 && field r 28 1 == 0) &&
    (List.range 4).all fun i => decide (field r (40 + 12 * i) 1 ≤ 6) && zeroAt r (41 + 12 * i) 3
/-- A PARTIAL's fields are in range (R337). -/
def partialOk (b : List Byte) : Bool :=
  let n := field b 10 2
  decide (64 ≤ b.length) && (statusOrder.any fun x => x.code == field b 8 1) && decide (field b 9 1 < 16) && zeroAt b 45 19 &&
    decide (n ≤ 1024) && b.length == 64 + n * (24 + 64 * field b 20 2) &&
    (List.range n).all fun i => field b (84 + 24 * i) 1 &&& 0xC1 == 0 && zeroAt b (85 + 24 * i) 3
/-- An INGEST message's fields are in range (R338). -/
def ingestOk (b : List Byte) : Bool :=
  let n := field b 16 2
  decide (24 ≤ b.length) && zeroAt b 1 7 &&
    match field b 0 1 with
    | 0 => zeroAt b 18 6
    | 1 => b.length == 24 + 8 * n && decide (field b 18 1 ≤ 1) && zeroAt b 19 5
    | 2 => (field b 16 1 == Status.ok.code || field b 16 1 == Status.quota.code) && zeroAt b 17 7 && b.length % 8 == 0
    | 3 => b.length == 24 + 8 * n && zeroAt b 18 6
    | 4 => b.length == 32 && zeroAt b 18 6
    | _ => false
/-- The body of a message is in range (check 7 of R339), the requests of R335 apart, which are answered. -/
def bodyOk (m : Msg) : Bool :=
  let b := m.m.body
  if m.op = jFanout then decide (m.m.pv < 12) && decide (96 ≤ b.length) && b.length % 64 == 0 && (fanRecords b.length b).all fanOk
  else if m.op = jPartial then decide (m.m.pv < 12) && partialOk b
  else if m.op = jIngest then decide (m.m.pv < 12) && ingestOk b
  else if m.op = jResp then decide (16 ≤ b.length) && zeroAt b 5 3 && zeroAt b 12 4 && b.length == 16 + field b 8 4
  else isReq m.op

/-- A message that fails check 7 is discarded and counted. -/
def rxDrop (s : State) : State := modFab (fun f => { f with rxDrop := true }) s

/-- Hand a message to its engine. -/
def handOver (m : Msg) (s : State) : State :=
  let x := m.m
  if isReq m.op then doRequest m s
  else if !bodyOk m then rxDrop s
  else if m.op = jFanout then doFanout x.src x.pv x.epoch x.body s
  else if m.op = jPartial then takePartial x.src x.pv x.body s
  else if m.op = jResp then takeResp x.src (field x.body 0 4) (Status.ofCode (field x.body 4 1)) (x.body.drop 16) s
  else
    match field x.body 0 1 with
    | 0 => doPreElem x.src x.pv x.body s
    | 1 => doPreEid x.src x.pv x.body s
    | 2 => doPreAck x.src x.body s
    | 3 => doFrameMark x.src x.pv x.body s
    | _ => doCommitAck x.src x.body s

/-- A message that has to wait for the map: a request routed under a newer epoch, a redirected query, an acknowledgement of a
pre-notice under a newer epoch (R363, R365, R366). -/
def Msg.waitsMap (m : Msg) (own : Nat) : Bool :=
  decide (own < m.m.epoch) &&
    (isReq m.op || m.op == jFanout || (m.op == jIngest && decide (field m.m.body 0 1 ≤ 2)) ||
      (m.op == jPartial && Status.ofCode (field m.m.body 8 1) == .redirect))

/-- Ask a keeper for the entries that this node lacks (R363). -/
def fetchMap (s : State) : State :=
  match s.otherKeepers with
  | k :: _ => sendMap k (.fetch (s.nextEpoch)) s
  | [] => s

/-- A message reaches its engine, or is held. -/
def deliver (m : Msg) (s : State) : State :=
  if m.waitsMap s.comp.map.epoch then fetchMap (modFab (fun f => { f with held := f.held ++ [⟨m, s.hfn, false⟩] }) s)
  else handOver m s

/-- Held messages whose epoch the map has reached are handled. -/
def pumpMapHeld (s : State) : State :=
  let ready := s.fab.held.filter fun h => !h.forPage && decide (h.msg.m.epoch ≤ s.comp.map.epoch)
  ready.foldl (fun s h => handOver h.msg (modFab (fun f => { f with held := f.held.erase h }) s)) s

/-- Cut a bundle into its records (R343). -/
def bundleRecs (x : JMsg) : Nat → List Byte → List Msg
  | 0, _ => []
  | n + 1, bs =>
    if bs.length < 16 then []
    else
      let len := field bs 4 4
      ⟨⟨x.src, x.epoch, field bs 1 1, field bs 8 4, slice bs 16 len⟩, field bs 0 1⟩ ::
        bundleRecs x n (bs.drop (16 + roundUpTo len 8))

/-- BUNDLE: each record is handled as a message. -/
def doBundle (x : JMsg) (s : State) : State := (bundleRecs x x.body.length x.body).foldl (fun s m => deliver m s) s

/-- A message of an operation other than BUNDLE and MAP, which has no byte layout here, or a bundle. -/
def arrive (op : Nat) (x : JMsg) (s : State) : State :=
  if op = jBundle then doBundle x s
  else if op = jMap ∨ op = jAck then s
  else deliver ⟨x, op⟩ s

/-- A row of one operation: the message comes from a member. -/
def arriveFrom (op : Nat) (x : JMsg) (s : State) : State := if s.hears x.src then arrive op x s else s

/-- A row of one kind of body. -/
def arriveSub (op : Nat) (ok : List Byte → Bool) (x : JMsg) (s : State) : State := if ok x.body then arriveFrom op x s else s

/-- What a request held too long is answered (R335, R363). -/
def holdTimeout (h : Held) (s : State) : State :=
  let x := h.msg.m
  let s := modFab (fun f => { f with held := f.held.erase h }) s
  if isReq h.msg.op then answerReq h.msg .timeout [] s
  else if h.msg.op = jFanout then
    (fanRecords x.body.length x.body).foldl (fun s bs =>
      refuseFan x.src x.pv (field bs 0 8) { Query.new 0 0 0 x.pv (readQRec []) false (field bs 16 4) s.hfn .valid with
        fanRound := field bs 80 2, fanReroute := field bs 84 1 } .timeout s) s
  else if h.msg.op = jIngest ∧ field x.body 0 1 ≤ 1 then
    (s.upd.staged.filter fun y => y.id == field x.body 8 8).foldl (fun s y => dropStaged y s) s
  else s

/-- A query held too long for a plot whose state is pulled is answered TIMEOUT (R363, R369). -/
def pullTimeout (q : Query) (s : State) : State :=
  finishLocal q.id (modQuery q.id (fun q => { q with toJoin := [], bad := q.bad ++ [.timeout] }) s)

/-- REQUEST_HOLD_TIMEOUT: 100 frames for a newer map or a plot's state, 1,000 frames for a promotion. -/
def doHoldTimeout (s : State) : State :=
  if s.live then
    let s := (s.fab.held.filter fun h => decide (h.arrived + (if h.forPage then 1000 else 100) ≤ s.hfn)).foldl (fun s h => holdTimeout h s) s
    (s.scan.queries.filter fun q => q.stage == .routed && !q.toJoin.isEmpty && q.pulling s && decide (q.arrived + 100 ≤ s.hfn)).foldl
      (fun s q => pullTimeout q s) s
  else s

/-! ## STATS_READ (R318, R319) -/

/-- Counters of group `g` that a VF sees for its pavilion: the work and re-rank groups and the comparisons; the others are kept
node-wide only. -/
def pvKept (g i : Nat) : Bool := g == 0 || g == 2 || (g == 1 && decide (i ≤ 1))

/-- The statistics buffer of a work item, at a frame boundary. -/
def statsBytes (s : State) (w : Work) : List Byte :=
  let g := field w.desc 20 1
  let pf0 := w.fn.val = 0
  let set := if pf0 then s.stats else s.pvStats.getD (pvOf w.fn) StatSet.reset
  let cs := (set.groups.getD g []).zipIdx.map fun (c, i) => if pf0 || pvKept g i then c else 2 ^ 64 - 1
  leBytes 1 g ++ zeros 1 ++ leBytes 2 cs.length ++ zeros 4 ++ leBytes 8 s.hfn ++ leBytes 8 (set.since.getD g 0) ++ zeros 40 ++
    cs.flatMap (leBytes 8)

/-- A set with one group cleared. -/
def StatSet.clear (g : Nat) (hfn : Frame) (x : StatSet) : StatSet :=
  { groups := modifyAt x.groups g fun cs => cs.map fun _ => 0, since := modifyAt x.since g fun _ => hfn }

/-- Sample one request. -/
def sampleStats (s : State) (w : Work) : State :=
  let bs := statsBytes s w
  let room := field w.desc 16 4
  let n := if bs.length ≤ room then bs.length else 64 + (room - 64) / 8 * 8
  let s := hostWrite w.fn (field w.desc 8 8) (bs.take n) s
  let s := if field w.desc 21 1 % 2 = 1 then
      if w.fn.val = 0 then { s with stats := s.stats.clear (field w.desc 20 1) s.hfn }
      else { s with pvStats := modifyAt s.pvStats (pvOf w.fn) (StatSet.clear (field w.desc 20 1) s.hfn) }
    else s
  complete w (if n < bs.length then .trunc else .ok) 0 (spec3 0 n bs.length) s

/-- The requests waiting at a frame boundary. -/
def statsFrame (s : State) : State := (s.works.filter fun w => dOp w.desc == opStats && w.stage == .running).foldl sampleStats s

/-- STATS_READ: the group is sampled at the next frame boundary. -/
def doStats (wid : Nat) (s : State) : State :=
  match s.work wid with
  | some w => if s.admits && w.stage == .fetched && dOp w.desc == opStats then modWork wid (fun w => { w with stage := .running }) s else s
  | none => s

/-- R318. -/
def execStatsRead (wid : Nat) (s : State) : Host.Outcome State Fault Refusal := .next (doStats wid s)
/-- R320. -/
def execFabricCopy (wid : Nat) (data : Option (List Byte)) (s : State) : Host.Outcome State Fault Refusal := .next (doCopy wid data s)
/-- R209. -/
def execDemoteSwitch (pv : Pv) (page : Nat) (s : State) : Host.Outcome State Fault Refusal := .next (doDemoteSwitch pv.val page s)
/-- R208. -/
def execPagePromoteDone (pv : Pv) (page : Nat) (ok : Bool) (s : State) : Host.Outcome State Fault Refusal :=
  .next (doPromoteDone pv.val page ok s)
/-- R343. -/
def execBundle (m : JMsg) (s : State) : Host.Outcome State Fault Refusal := .next (arriveFrom jBundle m s)
/-- R335. -/
def execRead (m : JMsg) (s : State) : Host.Outcome State Fault Refusal := .next (arriveFrom jRead m s)
/-- R335. -/
def execWrite (m : JMsg) (s : State) : Host.Outcome State Fault Refusal := .next (arriveFrom jWrite m s)
/-- R335: `AOP` 0. -/
def execFetchAdd (m : JMsg) (s : State) : Host.Outcome State Fault Refusal :=
  .next (arriveSub jAtomic (fun b => field b 8 1 == 0) m s)
/-- R335: `AOP` 1. -/
def execCompareSwap (m : JMsg) (s : State) : Host.Outcome State Fault Refusal :=
  .next (arriveSub jAtomic (fun b => field b 8 1 == 1) m s)
/-- R335. -/
def execResp (m : JMsg) (s : State) : Host.Outcome State Fault Refusal := .next (arriveFrom jResp m s)
/-- R363. -/
def execRequestHoldTimeout (s : State) : Host.Outcome State Fault Refusal := .next (doHoldTimeout s)
/-- R336. -/
def execFanout (m : JMsg) (s : State) : Host.Outcome State Fault Refusal := .next (arriveFrom jFanout m s)
/-- R337. -/
def execPartialList (m : JMsg) (s : State) : Host.Outcome State Fault Refusal := .next (arriveFrom jPartial m s)
/-- R171: SUB 0. -/
def execPreElem (m : JMsg) (s : State) : Host.Outcome State Fault Refusal := .next (arriveSub jIngest (fun b => field b 0 1 == 0) m s)
/-- R171: SUB 1. -/
def execPreEid (m : JMsg) (s : State) : Host.Outcome State Fault Refusal := .next (arriveSub jIngest (fun b => field b 0 1 == 1) m s)
/-- R171: SUB 2. -/
def execPreAck (m : JMsg) (s : State) : Host.Outcome State Fault Refusal := .next (arriveSub jIngest (fun b => field b 0 1 == 2) m s)
/-- R172: SUB 3. -/
def execFrameMark (m : JMsg) (s : State) : Host.Outcome State Fault Refusal := .next (arriveSub jIngest (fun b => field b 0 1 == 3) m s)
/-- R177: SUB 4. -/
def execCommitAck (m : JMsg) (s : State) : Host.Outcome State Fault Refusal := .next (arriveSub jIngest (fun b => field b 0 1 == 4) m s)

end Sys2Proof.Machine
end

