-- ==== Sys2Proof/Machine/Keepers.lean ====
section
/-! DEFINITION. The keepers' protocol: terms, elections, logging, commitment, cutover readiness, proposals and their results
(R191, R360 to R362, R378, R380). -/

namespace Sys2Proof.Machine

/-! ## Terms (R360) -/

/-- A keeper that sees a higher term adopts it and follows. -/
def seeTerm (term : Nat) (s : State) : State :=
  if s.comp.keeper.term < term then modKeeper (fun k => { k with term := term, voted := none, role := 1, leader := none, votes := [] }) s else s

/-- A message between keepers has an effect on a keeper. -/
def State.keeps (s : State) (src : Nat) : Bool := s.hears src && s.isKeeper

/-- A keeper that hears from the leading keeper of its term follows it. -/
def follow (src : Nat) (s : State) : State := modKeeper (fun k => { k with role := 1, leader := some src, hbAge := 0 }) s

/-! ## Logging and commitment -/

/-- The log of a keeper up to an index, when it holds that entry under that term. -/
def Keeper.holds (k : Keeper) (idx term : Nat) : Bool := idx == 0 || k.log.any fun x => x.e.idx == idx && x.e.term == term

/-- Entries from the leading keeper: those that differ are replaced, with all that follow them. -/
def Keeper.extend (k : Keeper) (ents : List LogEnt) : Keeper :=
  ents.foldl (fun k e =>
    if k.log.any fun x => x.e.idx == e.idx && x.e.term == e.term then k
    else { k with log := k.log.filter (fun x => decide (x.e.idx < e.idx)) ++ [⟨e, [], false, false⟩] }) k

/-- APPEND: a node that an entry still to come makes a keeper logs too (R361). -/
def doAppend (src term prevIdx prevTerm : Nat) (ents : List LogEnt) (s : State) : State :=
  if s.hears src && s.comp.map.keepers.contains src then
    let s := seeTerm term s
    if term < s.comp.keeper.term then s
    else
      let s := follow src s
      if s.comp.keeper.holds prevIdx prevTerm then
        let s := modKeeper (fun k => k.extend ents) s
        sendMap src (.appendAck term s.comp.keeper.lastIdx) s
      else sendMap src (.appendAck term (min s.comp.keeper.lastIdx (prevIdx - 1))) s
  else s

/-- APPEND_ACK: acknowledgements are counted; a keeper that lags is sent what it lacks. -/
def doAppendAck (src term idx : Nat) (s : State) : State :=
  if s.keeps src then
    let s := seeTerm term s
    let k := s.comp.keeper
    if k.role = 2 ∧ term = k.term then
      let mark (x : KEnt) : KEnt := { x with acks := dedupKeep (x.acks ++ [src]) }
      let s := modKeeper (fun k => { k with log := mapIf (fun x => decide (x.e.idx ≤ idx)) mark k.log }) s
      let rest := (k.log.filter fun x => decide (idx < x.e.idx)).map (·.e)
      let prev := ((k.log.find? fun x => x.e.idx == idx).map (·.e.term)).getD 0
      tryCommit (if rest.isEmpty then s else sendMap src (.append k.term idx prev rest) s)
    else s
  else s

/-- HEARTBEAT. -/
def doHall (src term commit : Nat) (s : State) : State :=
  if s.hears src then
    let s := { s with comp := { s.comp with hbAge := 0, noQuorum := false } }
    if s.isKeeper then
      let s := seeTerm term s
      if term < s.comp.keeper.term then s
      else modKeeper (fun k => { k with commit := max k.commit (min commit k.lastIdx) }) (follow src s)
    else s
  else s

/-! ## Elections -/

/-- The candidate's last entry is no older than this keeper's own, in (term, index) order. -/
def Keeper.upToDate (k : Keeper) (lastIdx lastTerm : Nat) : Bool :=
  decide (k.lastTerm < lastTerm) || (k.lastTerm == lastTerm && decide (k.lastIdx ≤ lastIdx))

/-- VOTE_REQ: at most one vote per term. -/
def doVoteReq (src term lastIdx lastTerm : Nat) (s : State) : State :=
  if s.keeps src then
    let s := seeTerm term s
    let k := s.comp.keeper
    let grant := term == k.term && (k.voted.isNone || k.voted == some src) && k.upToDate lastIdx lastTerm
    let s := if grant then modKeeper (fun k => { k with voted := some src, hbAge := 0 }) s else s
    sendMap src (.vote s.comp.keeper.term grant) s
  else s

/-- A candidate with a majority leads: entries not committed are offered again. -/
def lead (s : State) : State :=
  let k := s.comp.keeper
  if k.role = 3 ∧ s.majority ≤ k.votes.length then
    let s := modKeeper (fun k => { k with role := 2, leader := some s.node, hbAge := 0,
                                          log := k.log.map fun x => if x.committed then x else { x with acks := [s.node] } }) s
    sendAll s.otherKeepers (.append k.term 0 0 (k.log.map (·.e))) s
  else s

/-- VOTE. -/
def doVote (src term : Nat) (granted : Bool) (s : State) : State :=
  if s.keeps src then
    let s := seeTerm term s
    if granted && s.comp.keeper.role == 3 && term == s.comp.keeper.term then
      lead (modKeeper (fun k => { k with votes := dedupKeep (k.votes ++ [src]) }) s)
    else s
  else s

/-- ELECTION_TIMEOUT: no HEARTBEAT within the drawn limit. -/
def doElection (s : State) : State :=
  let k := s.comp.keeper
  if s.live && s.isKeeper && k.role != 2 && decide (k.limit ≤ k.hbAge) then
    let (v, s) := draw s
    let s := modKeeper (fun k => { k with term := k.term + 1, voted := some s.node, votes := [s.node], role := 3, leader := none,
                                          hbAge := 0, limit := 25 + v % 26 }) s
    lead (sendAll s.otherKeepers (.voteReq s.comp.keeper.term s.comp.keeper.lastIdx s.comp.keeper.lastTerm) s)
  else s

/-! ## Proposals (R360 to R362) -/

/-- PROPOSE reaches the leading keeper. -/
def doPropose (src id : Nat) (e : MapEntry) (s : State) : State :=
  if s.keeps src && s.comp.keeper.role == 2 then leaderTake src id e s else s

/-- PROPOSE_RESULT. -/
def doProposeResult (src id result epoch : Nat) (s : State) : State := if s.hears src then propResult id result epoch s else s

/-- The frame from which a proposal's result is due: when it was made, for a cutover when its answers are no longer waited for (R191). -/
def Prop_.asked (x : Prop_) : Frame := match x.ent with | .cutover _ _ c _ => max x.made (c - 250) | _ => x.made

/-- ENTRY_ABANDON: entries of the leading keeper not committed by A − 10, and proposals of this node that got no result within
MAP_LEAD frames. -/
def doAbandon (s : State) : State :=
  if s.live then
    let late := if s.comp.keeper.role = 2 then
        s.comp.keeper.log.filter fun x => !x.committed && !x.abandoned && decide (x.e.act ≤ s.hfn + 10) else []
    let s := late.foldl (fun s x =>
      answerProp x.e.src x.e.prop 2 0 (modKeeper (fun k => { k with
        log := mapIf (fun y => y.e.idx == x.e.idx && y.e.term == x.e.term) (fun y => { y with abandoned := true }) k.log }) s)) s
    (s.comp.props.filter fun p => decide (p.asked + fld s.comp.mapEff 15 8 ≤ s.hfn)).foldl (fun s p => propResult p.id 2 0 s) s
  else s

/-- NO_QUORUM. -/
def doNoQuorum (s : State) : State :=
  if s.live && decide (100 ≤ s.comp.hbAge) then { s with comp := { s.comp with noQuorum := true } } else s

/-- A keeper learns from ENTRIES which of its log are committed: it does not commit them again when it leads (R360). -/
def Keeper.learn (es : List (MapEntry × Frame)) (k : Keeper) : Keeper :=
  { k with log := mapIf (fun x => es.contains (x.e.ent, x.e.act)) (fun x => { x with committed := true }) k.log }

/-- ENTRIES: a node without a map takes them from any sender. -/
def doEntries (src first : Nat) (es : List (MapEntry × Frame)) (s : State) : State :=
  if s.hears src || (s.live && s.node != 0xFFFF && !s.flushing && s.comp.map.epoch == 0) then
    queueEntries first es (modKeeper (Keeper.learn es) s)
  else s

/-- FETCH: committed entries from an epoch on. -/
def doFetchMap (src first : Nat) (s : State) : State :=
  if s.keeps src then
    sendMap src (.entries first ((s.comp.applied ++ s.comp.pend.map (·.2)).drop (first - 1))) s
  else s

/-! ## Cutovers (R191) -/

/-- CUT_QUERY. -/
def doCutQuery (src p ep : Nat) (dg : List Byte) (s : State) : State :=
  if s.hears src then sendMap src (.cutReady p ep (s.cutOk p ep dg)) s else s

/-- Take a waiting cutover off the list. -/
def dropCut (p : Nat) (s : State) : State := modKeeper (fun k => { k with cutWait := k.cutWait.filter (·.pv != p) }) s

/-- CUT_READY at the leading keeper. -/
def doCutReady (src p ep : Nat) (ready : Bool) (s : State) : State :=
  match s.comp.keeper.cutWait.find? fun w => w.pv == p && w.epoch == ep with
  | none => s
  | some w =>
    if s.keeps src || s.hears src then
      if !ready then answerProp w.src w.prop 1 0 (dropCut p s)
      else
        let rest := w.await_.filter (· != src)
        if rest.isEmpty && decide (s.hfn < w.c - 250) then leaderLog w.src w.prop (.cutover p ep w.c w.digest) (dropCut p s)
        else modKeeper (fun k => { k with cutWait := mapIf (·.pv == p) (fun w => { w with await_ := rest }) k.cutWait }) s
    else s

/-- CUTOVER_DEADLINE at the leading keeper: C − 250 has come without every answer. -/
def doCutDeadline (p : Nat) (s : State) : State :=
  match s.comp.keeper.cutWait.find? fun w => w.pv == p with
  | none => s
  | some w => if s.live && decide (w.c ≤ s.hfn + 250) then answerProp w.src w.prop 2 0 (dropCut p s) else s

/-! ## Roles (R377, R378) -/

/-- Members of a role, and how many it has above its minimum. -/
def CMap.pool (m : CMap) (r : Nat) : List CMember := m.members.filter (·.role == r)
def CMap.surplus (m : CMap) (r : Nat) : Nat :=
  let low := if r = 0 then fld m.policy 6 0 else if r = 1 then fld m.policy 14 8 else fld m.policy 22 16
  (m.pool r).length - (low * m.members.length + 99) / 100

/-- ROLE_CHECK: `short` says which pools were judged short over the last 50,000 frames; the first of query, ingest and merge gets one
node. -/
def doRoleCheck (short : List Bool) (s : State) : State :=
  let m := s.comp.map
  if s.live && s.comp.keeper.role == 2 && bit m.policy 7 && s.hfn % 50000 == 0 && s.clk.slot.isNone then
    match (List.range 3).find? fun r => short.getD r false with
    | none => s
    | some to_ =>
      let from_ := (List.range 3).filter fun r => r != to_ && !short.getD r false && decide (0 < m.surplus r)
      let best := from_.filter fun r => from_.all fun q => decide (m.surplus q ≤ m.surplus r)
      match best with
      | [] => s
      | r :: _ =>
        match ((m.pool r).filter fun x => decide (x.roleAt + fld m.policy 30 24 * 50000 ≤ s.hfn)).map (·.node) |>.min? with
        | none => s
        | some n => keeperLog (.role n to_) s
  else s

/-! ## Registers (R379, R380) -/

/-- MAP_CFG (0x0900), MAP_STAT (0x0904), MOVE_CFG (0x0914). -/
def writeMap (off : Nat) (v : W32) (s : State) : State :=
  let bad (s : State) : State := { s with comp := { s.comp with cfgReject := true } }
  if s.bar0Up0 then
    if off = 0x900 then
      if inRange 50 (fld v 15 8) 200 && decide (1 ≤ fld v 23 16) && decide (1 ≤ fld v 31 24) && !(s.isKeeper && !bit v 0) then
        { s with comp := { s.comp with mapCfg := v &&& 0xFFFF_FF01#32 } }
      else bad s
    else if off = 0x904 then
      { s with comp := { s.comp with cfgReject := s.comp.cfgReject && !bit v 7, joinRefused := s.comp.joinRefused && !bit v 8 } }
    else if off = 0x914 then
      if decide (1 ≤ fld v 7 0) && inRange 1 (fld v 15 8) 64 then { s with comp := { s.comp with moveCfg := v &&& 0xFFFF#32 } } else bad s
    else s
  else s

/-- ROLE_POLICY: an accepted value is proposed to the keepers. -/
def writePolicy (v : W32) (s : State) : State :=
  if s.bar0Up0 then
    let v := v &&& 0x7F7F_7FFF#32
    if decide (100 < fld v 6 0 + fld v 14 8 + fld v 22 16) || decide (100 < fld v 6 0) || decide (100 < fld v 14 8) || decide (100 < fld v 22 16) ||
        fld v 30 24 == 0 then
      { s with comp := { s.comp with cfgReject := true } }
    else propose (.policy v) none none s
  else s

/-- The composition part of a frame boundary: registers, heartbeats. -/
def keeperFrame (s : State) : State :=
  let s := { s with comp := { s.comp with mapEff := s.comp.mapCfg, moveEff := s.comp.moveCfg } }
  if s.comp.keeper.role = 2 ∧ s.live then
    let s := modKeeper (fun k => { k with hbAge := 0 }) { s with comp := { s.comp with hbAge := 0, noQuorum := false } }
    sendAll s.otherKeepers (.heartbeat s.comp.keeper.term s.comp.keeper.commit) s
  else modKeeper (fun k => { k with hbAge := k.hbAge + 1 }) { s with comp := { s.comp with hbAge := s.comp.hbAge + 1 } }

/-- R360. -/
def execAppend (src term prevIdx prevTerm : Nat) (ents : List LogEnt) (s : State) : Host.Outcome State Fault Refusal :=
  .next (doAppend src term prevIdx prevTerm ents s)
/-- R360. -/
def execAppendAck (src term idx : Nat) (s : State) : Host.Outcome State Fault Refusal := .next (doAppendAck src term idx s)
/-- R360, R361. -/
def execHeartbeat (src term commit : Nat) (s : State) : Host.Outcome State Fault Refusal := .next (doHall src term commit s)
/-- R360. -/
def execVoteReq (src term lastIdx lastTerm : Nat) (s : State) : Host.Outcome State Fault Refusal :=
  .next (doVoteReq src term lastIdx lastTerm s)
/-- R360. -/
def execVote (src term : Nat) (granted : Bool) (s : State) : Host.Outcome State Fault Refusal := .next (doVote src term granted s)
/-- R360. -/
def execPropose (src id : Nat) (e : MapEntry) (s : State) : Host.Outcome State Fault Refusal := .next (doPropose src id e s)
/-- R362. -/
def execProposeResult (src id result epoch : Nat) (s : State) : Host.Outcome State Fault Refusal :=
  .next (doProposeResult src id result epoch s)
/-- R359. -/
def execEntries (src first : Nat) (es : List (MapEntry × Frame)) (s : State) : Host.Outcome State Fault Refusal :=
  .next (doEntries src first es s)
/-- R362. -/
def execFetch (src first : Nat) (s : State) : Host.Outcome State Fault Refusal := .next (doFetchMap src first s)
/-- R191. -/
def execCutQuery (src : Nat) (pv : Pv) (epoch : Nat) (digest : List Byte) (s : State) : Host.Outcome State Fault Refusal :=
  .next (doCutQuery src pv.val epoch digest s)
/-- R191. -/
def execCutReady (src : Nat) (pv : Pv) (epoch : Nat) (ready : Bool) (s : State) : Host.Outcome State Fault Refusal :=
  .next (doCutReady src pv.val epoch ready s)
/-- R191. -/
def execCutoverDeadline (pv : Pv) (s : State) : Host.Outcome State Fault Refusal := .next (doCutDeadline pv.val s)
/-- R360. -/
def execElectionTimeout (s : State) : Host.Outcome State Fault Refusal := .next (doElection s)
/-- R360, R361. -/
def execEntryAbandon (s : State) : Host.Outcome State Fault Refusal := .next (doAbandon s)
/-- R361. -/
def execNoQuorum (s : State) : Host.Outcome State Fault Refusal := .next (doNoQuorum s)
/-- R378. -/
def execRoleCheck (short : List Bool) (s : State) : Host.Outcome State Fault Refusal := .next (doRoleCheck short s)
/-- R380: a write at a BAR0 offset of the map registers. -/
def execMapCfgWrite (off : Nat) (v : W32) (s : State) : Host.Outcome State Fault Refusal := .next (writeMap off v s)
/-- R380. -/
def execRolePolicyWrite (v : W32) (s : State) : Host.Outcome State Fault Refusal := .next (writePolicy v s)

end Sys2Proof.Machine
end

