-- ==== Sys2Proof/Machine/Links.lean ====
section
/-! DEFINITION. Received packets, acknowledgements, timeouts, congestion, ports, pause, PTP selection, fabric registers (R324 to R349,
R352, R353). -/

namespace Sys2Proof.Machine

/-! ## Acknowledgements and retransmission (R334, R344, R345) -/

/-- Send the queued packets of a flow. -/
def sendQueued (dst cls idx : Nat) (s : State) : State :=
  match s.fab.sflows.find? (SFlow.is dst cls idx) with
  | none => s
  | some f => sendWaiting f f.queued s

/-- Send again every packet that is not acknowledged and holds a buffer. -/
def retransmit (dst cls idx : Nat) (s : State) : State := sendQueued dst cls idx (modFlow (SFlow.is dst cls idx) SFlow.requeue s)

/-- The cut of R345. -/
def SFlow.cut (f : SFlow) : SFlow :=
  let f := { f with ceSeen := true }
  if f.sinceCut < 2 then f
  else { f with rate := max (f.rate * (1 - f.alpha / 2)) (1 / 1024), alpha := f.alpha + (1 - f.alpha) / 16, sinceCut := 0 }

/-- An acknowledgement: it advances the flow, or, repeated, has it sent again; a CE echo cuts the rate. -/
def takeAck (dst cls idx ack : Nat) (ce : Bool) (s : State) : State :=
  match s.fab.sflows.find? (SFlow.is dst cls idx) with
  | none => s
  | some f =>
    let n := (ack + 2 ^ 32 - f.acked) % 2 ^ 32
    let s := if ce then modFlow (SFlow.is dst cls idx) SFlow.cut s else s
    if n = 0 then
      if f.lastAck = some ack ∧ !f.unacked.isEmpty then retransmit dst cls idx s
      else modFlow (SFlow.is dst cls idx) (fun f => { f with lastAck := some ack }) s
    else if n ≤ f.unacked.length then
      modFlow (SFlow.is dst cls idx)
        (fun f => { f with acked := ack, unacked := f.unacked.drop n, lastAck := some ack, idle := 0, timeouts := 0 }) s
    else s

/-- Change the receiving flows that satisfy a test. -/
def modRFlow (src cls idx : Nat) (g : RFlow → RFlow) (s : State) : State :=
  modFab (fun x => { x with rflows := mapIf (RFlow.is src cls idx) g x.rflows }) s

/-- The packet that acknowledges a flow (R331, R334). -/
def ackBytes (s : State) (f : RFlow) : List Byte :=
  let h := leBytes 1 1 ++ leBytes 1 jAck ++ leBytes 2 (4 + if f.ce then 8 else 0) ++ leBytes 2 s.node ++ leBytes 2 f.src ++ leBytes 1 0xF ++
    leBytes 1 (f.cls + 8 * f.idx) ++ leBytes 2 0 ++ leBytes 4 0 ++ leBytes 4 f.expect ++ leBytes 4 0 ++ leBytes 4 0 ++ leBytes 4 1 ++
    leBytes 8 s.comp.map.epoch ++ leBytes 4 s.hfn
  h ++ leBytes 4 (crc32c h)

/-- An acknowledgement of the flow can be sent now. -/
def State.canAck (s : State) (idx : Nat) : Bool := s.jfpUp && !s.jfpStops (portFrom s idx)

/-- Acknowledge a flow, with the CE echo it owes; while its port sends nothing the acknowledgement stays owed. -/
def sendAck (src cls idx : Nat) (s : State) : State :=
  match s.fab.rflows.find? (RFlow.is src cls idx) with
  | none => s
  | some f =>
    if s.canAck idx then
      let bs := ackBytes s f
      count none 4 3 bs.length (emit (.port (portFrom s idx) "JFP" bs) (modRFlow src cls idx (fun f => { f with owed := 0, ce := false }) s))
    else s

/-! ## Received packets (R339 to R341, R348) -/

/-- Checks 1 to 3 of R339. -/
def rxOuterOk (s : State) (port : Nat) (x : RxPkt) : Bool :=
  (if x.secured then x.icvOk else !bit (s.fab.ports.getD port Port.reset).eff 4) && x.addrOk && x.csumOk

/-- Checks 4 to 6 of R339 on a JFP packet. -/
def rxInnerOk (s : State) (d : List Byte) : Bool :=
  let op := field d 1 1
  let last := (field d 2 2).testBit 1
  let seg := field d 10 2
  let len := field d 28 4
  decide (48 ≤ d.length) && field d 44 4 == crc32c (d.take 44) && field d 0 1 == 1 && decide (op ≤ jAck) && decide (field d 2 2 < 32) &&
  decide (field d 8 1 < 16) && decide (field d 9 1 % 8 ≤ 4) && decide (field d 9 1 / 8 ≤ 19) &&
  field d 6 2 == s.node && s.node != 0xFFFF &&
  ((if s.comp.map.epoch = 0 then op == jMap else s.comp.map.members.any (·.node == field d 4 2)) || op == jAck) &&
  d.length == 48 + seg + (if last && op != jAck then 4 else 0) && decide (field d 24 4 + seg ≤ len) &&
  (if op = jAck then seg == 0 && len == 1 else decide (1 ≤ seg) && decide (len ≤ (if op = jBundle then 2 ^ 20 else 0x40000000)))

/-- Reassemble: a message whose last packet has come is delivered when its check matches. -/
def rxPayload (port : Nat) (d : List Byte) (s : State) : State :=
  let src := field d 4 2
  let cls := field d 9 1 % 8
  let idx := field d 9 1 / 8
  let seg := field d 10 2
  let mine (r : RMsg) : Bool := r.src == src && r.cls == cls && r.idx == idx
  let old := if (field d 2 2).testBit 0 then ([], []) else ((s.fab.rmsgs.find? mine).map fun r => (r.got, r.sizes)).getD ([], [])
  let got := old.1 ++ slice d 48 seg
  let r : RMsg := ⟨src, cls, idx, port, field d 20 4, field d 1 1, field d 8 1, field d 32 8, field d 28 4, got, old.2 ++ [seg]⟩
  let s := modFab (fun f => { f with rmsgs := f.rmsgs.filter fun r => !mine r }) s
  if (field d 2 2).testBit 1 then
    if got.length = r.len ∧ field d (48 + seg) 4 = crc32c got then arrive r.op ⟨src, r.epoch, r.pv, r.msgId, got⟩ s else rxDrop s
  else modFab (fun f => { f with rmsgs := f.rmsgs ++ [r] }) s

/-- Acceptance by PSN. -/
def rxFlow (port : Nat) (x : RxPkt) (s : State) : State :=
  let d := x.data
  let src := field d 4 2
  let cls := field d 9 1 % 8
  let idx := field d 9 1 / 8
  let s := if s.fab.rflows.any (RFlow.is src cls idx) then s else modFab (fun f => { f with rflows := f.rflows ++ [⟨src, cls, idx, 0, false, 0, false⟩] }) s
  match s.fab.rflows.find? (RFlow.is src cls idx) with
  | none => s
  | some f =>
    let s := modRFlow src cls idx (fun f => { f with ce := f.ce || x.ce }) s
    let gap := (field d 12 4 + 2 ^ 32 - f.expect) % 2 ^ 32
    if gap = 0 then
      let s := modRFlow src cls idx (fun f => { f with expect := (f.expect + 1) % 2 ^ 32, nakSent := false, owed := f.owed + 1 }) s
      let s := rxPayload port d (count none 4 4 d.length s)
      if (field d 2 2).testBit 1 || decide (15 ≤ f.owed) then sendAck src cls idx s else s
    else if 2 ^ 31 ≤ gap then sendAck src cls idx s
    else if f.nakSent then s
    else sendAck src cls idx (modRFlow src cls idx (fun f => { f with nakSent := s.canAck idx }) s)

/-- The classes carried on a priority of a port: JFP's, RoCEv2's (R347). -/
def prioClasses (p : Port) (prio : Nat) : List Nat :=
  (if fld p.eff 8 6 = prio then [0, 1, 2, 3] else []) ++ (if fld p.eff 11 9 = prio then [4] else [])

/-- XOFF and XON for a priority of a port (R347, R348). -/
def pausePrio (port : Nat) (s : State) (prio : Nat) : State :=
  let p := s.fab.ports.getD port Port.reset
  let on := p.xoff.getD prio false
  let cs := prioClasses p prio
  if bit p.eff 2 then
    if !on && cs.any fun c => decide (linkCap c < s.linkHolds port c + 2 ^ 19) then
      emit (.port port "XOFF" (leBytes 1 prio)) (modPort port (fun p => { p with xoff := modifyAt p.xoff prio fun _ => true }) s)
    else if on && cs.all fun c => decide (s.linkHolds port c + 2 ^ 20 ≤ linkCap c) then
      emit (.port port "XON" (leBytes 1 prio)) (modPort port (fun p => { p with xoff := modifyAt p.xoff prio fun _ => false }) s)
    else s
  else s

/-- The pauses that a port asks for, after what its link die's pool holds has changed. -/
def pausePort (port : Nat) (s : State) : State :=
  if bit (s.fab.ports.getD port Port.reset).eff 2 then (List.range 8).foldl (pausePrio port) s else s

/-- JFP_PACKET_RECEIVE (R339 to R341, R348). RoCEv2 packets go on under R351. -/
def doRx (port : Nat) (x : RxPkt) (s : State) : State :=
  if s.live && !s.flushing && (s.fab.ports.getD port Port.reset).carries then
    let udp := fld s.fab.jfpEff 15 0
    if !rxOuterOk s port x then rxDrop s
    else if x.udpPort = 4791 then s
    else if x.udpPort ≠ udp || !rxInnerOk s x.data then rxDrop s
    else
      let d := x.data
      let cls := if field d 1 1 = jAck then 0 else field d 9 1 % 8
      match findBuffer 8192 port cls (field d 10 2) s with
      | (false, s) => pausePort port (if bit (s.fab.ports.getD port Port.reset).eff 2 then s else modFab (fun f => { f with poolDrop := true }) s)
      | (true, s) =>
        let fl := field d 2 2
        let s := if fl.testBit 2 then takeAck (field d 4 2) (field d 9 1 % 8) (field d 9 1 / 8) (field d 16 4) (fl.testBit 3) s else s
        if field d 1 1 = jAck then s else pausePort port (rxFlow port x s)
  else s

/-! ## Timeouts (R334) -/

/-- The work of messages that fail with a flow ends with TIMEOUT: requests (`ids` are the messages in flight, `bundled` when one of
them is a bundle), query records, and pre-notices. -/
def failMsgs (dst cls : Nat) (ids : List Nat) (bundled : Bool) (s : State) : State :=
  let reqs := s.fab.reqs.filter fun r => r.dst == dst && cls == 3 && (ids.contains r.msgId || (bundled && decide (r.body.length < 65536)))
  let s := reqs.foldl (fun s r => takeResp dst r.msgId .timeout [] s) s
  let s := if cls = 1 then
      (s.scan.queries.filter fun q => q.awaitNodes.any (·.node == dst)).foldl (fun s q =>
        modQuery q.id (fun q => { q with awaitNodes := q.awaitNodes.filter (·.node != dst), bad := q.bad ++ [.timeout] }) s) s
    else s
  if cls = 2 then
    (s.upd.batches.filter fun b => b.stage == .prep && b.await_.contains dst).foldl (fun s b => endBatch b .timeout s) s
  else s

/-- Close a flow: what is in flight on it fails, and it opens again on the next port that is up. -/
def closeFlow (f : SFlow) (s : State) : State :=
  let other := portFrom s ((f.port + 1) % 20)
  let s := modFlow (SFlow.is f.dst f.cls f.idx)
    (fun f => { f with next := f.acked, unacked := [], idle := 0, timeouts := 0, lastAck := none, port := other }) s
  let s := modFab (fun x => { x with flowClosed := true }) s
  let s := failMsgs f.dst f.cls (dedupKeep (f.unacked.map (·.msgId))) (f.unacked.any (·.op == jBundle)) s
  if s.upPorts.isEmpty then emit (.internal "UNREACHABLE" f.dst) s else s

/-- JFP_RTO of one flow. -/
def doRto (dst cls idx : Nat) (s : State) : State :=
  match s.fab.sflows.find? (SFlow.is dst cls idx) with
  | none => s
  | some f =>
    if s.live && !f.unacked.isEmpty && decide (fld s.fab.jfpEff 27 20 ≤ f.idle) then
      if fld s.fab.jfpEff 31 28 ≤ f.timeouts + 1 then closeFlow f s
      else retransmit dst cls idx (modFlow (SFlow.is dst cls idx) (fun f => { f with idle := 0, timeouts := f.timeouts + 1 }) s)
    else s

/-- ACKONLY. -/
def doAckOnly (src cls idx ack : Nat) (ce : Bool) (s : State) : State := if s.hears src then takeAck src cls idx ack ce s else s

/-! ## Ports (R324 to R332) -/

/-- Change the lanes of a port. -/
def setLanes (port mask : Nat) (up : Bool) (s : State) : State :=
  modPort port (fun p => { p with lanes := p.lanes.zipIdx.map fun (l, i) => if maskHas mask i then up else l }) s

/-- LASER_INPUT_LOW: its two lanes are down. -/
def doLaserLow (port input : Nat) (s : State) : State :=
  if s.live && !s.flushing && decide (port < 20) && decide (input < 2) then
    settlePort port (setLanes port (3 * 4 ^ input) false (modPort port (fun p => { p with laser := modifyAt p.laser input fun _ => false }) s))
  else s

/-- LINK_UP: lanes of an enabled port come up, with their laser inputs in range. -/
def doLinkUp (port mask : Nat) (s : State) : State :=
  let p := s.fab.ports.getD port Port.reset
  if s.live && !s.flushing && decide (port < 20) && bit p.eff 0 && s.side.ethClk.getD (port / 5) false then
    let s := modPort port (fun p => { p with
      berDeg := false, laser := p.laser.zipIdx.map fun (l, i) => l || maskHas mask (2 * i) || maskHas mask (2 * i + 1) }) s
    settlePort port (setLanes port mask true s)
  else s

/-- LINK_DOWN. -/
def doLinkDown (port mask : Nat) (s : State) : State :=
  if s.live && decide (port < 20) then settlePort port (setLanes port mask false s) else s

/-- PORT_BER_DEGRADED. -/
def doBer (port : Nat) (s : State) : State :=
  if s.live && (s.fab.ports.getD port Port.reset).carries then settlePort port (modPort port (fun p => { p with berDeg := true }) s) else s

/-! ## Priority flow control (R347, R349) -/

/-- PFC_FRAME. -/
def doPfc (port prio : Nat) (on : Bool) (s : State) : State :=
  let p := s.fab.ports.getD port Port.reset
  if s.live && p.carries && bit p.eff 2 then
    modPort port (fun p => { p with pause := modifyAt p.pause prio fun x => (on, if on then x.2.1 else 0, x.2.2) }) s
  else s

/-- Discard the packets that a port has queued: retransmission brings them again (R334, R349). -/
def dropQueued (port : Nat) (s : State) : State :=
  modFlow (fun f => f.port == port) (fun f => { f with unacked := mapIf (·.buf) (fun p => { p with sent := true }) f.unacked }) s

/-- PFC_WATCHDOG: a priority paused for 5,000 frames is no longer honoured, and what it has queued is discarded. -/
def doPfcWatch (port prio : Nat) (s : State) : State :=
  let p := s.fab.ports.getD port Port.reset
  let x := p.pause.getD prio (false, 0, none)
  if s.live && x.1 && x.2.2.isNone && decide (5000 ≤ x.2.1) then
    let s := modFab (fun f => { f with pfcWdog := true }) (if fld p.eff 8 6 = prio then dropQueued port s else s)
    let s := modPort port (fun p => { p with wdogDeg := true, pause := modifyAt p.pause prio fun x => (x.1, x.2.1, some 0) }) s
    if p.st = 1 then settlePort port s else nodeEvent evLink (leBytes 1 port ++ leBytes 1 2 ++ leBytes 1 p.lanesUp) s
  else s

/-- One frame of a priority's pause. -/
def pauseFrame (x : Bool × Nat × Option Nat) : Bool × Nat × Option Nat :=
  let n := if x.1 then x.2.1 + 1 else 0
  (x.1, n, match x.2.2 with
    | none => none
    | some k => if 5000 ≤ n then some 0 else if 50000 ≤ k + 1 then none else some (k + 1))

/-! ## PTP, MKA, ARP and ND (R327 to R329) -/

/-- The selected port: the best quality heard on a PTP port that carries traffic. -/
def selectPtp (s : State) : State :=
  let ok (i : Nat) : Bool := let p := s.fab.ports.getD i Port.reset; p.carries && bit p.eff 5
  let best := leastBy (fun a b : Nat × Nat => decide (a.2 < b.2)) (s.fab.announce.filter fun a => ok a.1)
  modFab (fun f => { f with ports := f.ports.zipIdx.map fun (p, i) => { p with ptpSel := best.map (·.1) == some i } }) s

/-- ANNOUNCE: a lower quality value is better, as the standard's data set comparison orders it. -/
def doAnnounce (port quality : Nat) (s : State) : State :=
  let p := s.fab.ports.getD port Port.reset
  if s.live && p.carries && bit p.eff 5 then
    selectPtp (modFab (fun f => { f with announce := (f.announce.filter (·.1 != port)) ++ [(port, quality)] }) s)
  else s

/-- MKPDU: answered with an ICV of the Lodge when the interface has a CAK. -/
def doMkpdu (port sub : Nat) (body : List Byte) (s : State) : State :=
  if s.live && (s.fab.ports.getD port Port.reset).carries && s.lodge.caks.any (fun c => c.port == port && c.sub == sub) then
    emit (.port port "MKPDU" (Config.macIcv (2 * port + sub) body)) s
  else s

/-- Addresses of this node's ports in the map. -/
def State.ownAddr (s : State) (port : Nat) : Option (List Byte) :=
  (s.comp.map.members.find? (·.node == s.node)).map fun m => slice m.ips (16 * port) 16

/-- ARP_ND: answered for the port's own address. -/
def doArp (port : Nat) (addr : List Byte) (s : State) : State :=
  if s.live && (s.fab.ports.getD port Port.reset).carries && s.ownAddr port == some addr then emit (.port port "ARP" addr) s else s

/-! ## Boundaries -/

/-- The fabric at a slot boundary: what is queued goes out as far as there are buffers, the lower classes first (R342), and the ports' pauses
follow. -/
def fabSlot (s : State) : State :=
  let s := (sortBy (fun a b => decide (a.cls < b.cls)) (s.fab.sflows.filter fun f => !f.queued.isEmpty)).foldl (fun s f => sendQueued f.dst f.cls f.idx s) s
  let s := (List.range 20).foldl (fun s i => pausePort i s) s
  modFab (fun f => { f with
    sflows := f.sflows.map fun x => { x with idle := if x.unacked.any (·.buf) then x.idle + 1 else 0, sinceCut := x.sinceCut + 1 }
    qps := f.qps.map fun q => { q with sinceCut := q.sinceCut + 1 } }) s

/-- The recovery of R345 at a frame boundary. -/
def SFlow.recover (f : SFlow) : SFlow :=
  if f.ceSeen then { f with ceSeen := false } else { f with alpha := f.alpha * 15 / 16, rate := min 1 (f.rate + 1 / 256) }
def Qp.recover (q : Qp) : Qp :=
  let q := { q with cnpAge := q.cnpAge + 1 }
  if q.cnpSeen then { q with cnpSeen := false } else { q with alpha := q.alpha * 15 / 16, rate := min 1 (q.rate + 1 / 256) }

/-- A port at a frame boundary: its configuration in force, its pause. -/
def Port.frame (p : Port) : Port :=
  let pause := p.pause.map pauseFrame
  { p with eff := p.cfg, fecCorr := 0, lanes := if bit p.cfg 0 then p.lanes else p.lanes.map fun _ => false,
           pause := pause, wdogDeg := p.wdogDeg && pause.any fun x => x.2.2.isSome }

/-- The fabric at a frame boundary: registers, rates, acknowledgements owed, then the coalescing flush. -/
def fabFrame (s : State) : State :=
  let s := modFab (fun f => { f with
    jfpEff := f.jfpCfg, ptpEff := f.ptpCfg, retxLast := satTo 0xFFFF f.retx, retx := 0
    ports := f.ports.map Port.frame, sflows := f.sflows.map SFlow.recover, qps := f.qps.map Qp.recover }) s
  let s := (List.range 20).foldl (fun s i => settlePort i s) s
  let s := selectPtp s
  let s := (s.fab.rflows.filter fun f => decide (0 < f.owed)).foldl (fun s f => sendAck f.src f.cls f.idx s) s
  flushCoal s

/-! ## Registers (R352, R353) -/

/-- The port's link slice is composed to a pavilion. -/
def State.linkComposed (s : State) (port : Nat) : Bool := s.comp.map.slices.any fun c => c.node == s.node && maskHas c.link port

/-- PFC_EN forces VLAN_EN. -/
def portWord (v : W32) : W32 := (v &&& 0x3FFF_0FFF#32) ||| (if bit v 2 then 0x8#32 else 0#32)

/-- Is a write of PORT_CFG refused? -/
def portCfgBad (s : State) (i : Nat) (v : W32) : Bool :=
  let old := (s.fab.ports.getD i Port.reset).cfg
  let mtu := fld v 29 16
  let seg := fld s.fab.jfpCfg 17 16
  let ptp := (s.fab.ports.zipIdx.filter fun (p, j) => if j = i then bit v 5 else bit p.cfg 5).length
  !inRange 1500 mtu 9216 || decide (4 < ptp) || (seg == 3 && decide (mtu < 8300)) || (seg == 2 && decide (mtu < 4200)) ||
    (s.linkComposed i && (bit v 0 != bit old 0 || bit v 1 != bit old 1))

/-- A write to a fabric register, by its offset. -/
def writeFab (off : Nat) (v : W32) (s : State) : State :=
  let bad (s : State) : State := modFab (fun f => { f with cfgReject := true }) s
  if s.bar0Up0 then
    if off = 0x800 then (if s.fab.nodeLock then s else modFab (fun f => { f with nodeId := v &&& 0xFFFF#32 }) s)
    else if off = 0x804 then
      if inRange 1024 (fld v 15 0) 65535 && fld v 15 0 != 4791 && decide (2 ≤ fld v 27 20) && decide (1 ≤ fld v 31 28) then
        modFab (fun f => { f with jfpCfg := v &&& 0xFFF7_FFFF#32 }) s
      else bad s
    else if off = 0x808 then
      modFab (fun f => { f with
        cfgReject := f.cfgReject && !bit v 0, rxDrop := f.rxDrop && !bit v 1, poolDrop := f.poolDrop && !bit v 2
        flowClosed := f.flowClosed && !bit v 3, pfcWdog := f.pfcWdog && !bit v 4 }) s
    else if off = 0x80C then
      if fld v 7 0 ≤ 127 ∧ fld v 9 8 ≠ 3 then modFab (fun f => { f with ptpCfg := v &&& 0x3FF#32 }) s else bad s
    else if 0x840 ≤ off ∧ off < 0x890 ∧ off % 4 = 0 then
      let i := (off - 0x840) / 4
      if portCfgBad s i v then bad s else modPort i (fun p => { p with cfg := portWord v }) s
    else s
  else s

/-- PORT_STAT of a port. -/
def portStat (s : State) (i : Nat) : W32 :=
  let p := s.fab.ports.getD i Port.reset
  let sak (sub : Nat) : Bool := s.lodge.saks.contains (i, sub)
  let macsec := sak 0 && (!bit p.eff 1 || sak 1)
  put p.st 0 2 ||| put p.lanesUp 2 3 ||| putB (p.laser.getD 0 false) 5 ||| putB (p.laser.getD 1 false) 6 ||| putB macsec 7 |||
    putB p.ptpSel 8 ||| put p.fecCorr 16 16

/-- JFP_STAT. -/
def jfpStat (f : Fabric) : W32 :=
  putB f.cfgReject 0 ||| putB f.rxDrop 1 ||| putB f.poolDrop 2 ||| putB f.flowClosed 3 ||| putB f.pfcWdog 4 ||| put f.retxLast 16 16

/-- R339. -/
def execJfpPacketReceive (port : Nat) (x : RxPkt) (s : State) : Host.Outcome State Fault Refusal := .next (doRx port x s)
/-- R334, R345. -/
def execAckonly (src cls idx ack : Nat) (ce : Bool) (s : State) : Host.Outcome State Fault Refusal := .next (doAckOnly src cls idx ack ce s)
/-- R334. -/
def execJfpRto (dst cls idx : Nat) (s : State) : Host.Outcome State Fault Refusal := .next (doRto dst cls idx s)
/-- R347. -/
def execPfcFrame (port prio : Nat) (on : Bool) (s : State) : Host.Outcome State Fault Refusal := .next (doPfc port prio on s)
/-- R349. -/
def execPfcWatchdog (port prio : Nat) (s : State) : Host.Outcome State Fault Refusal := .next (doPfcWatch port prio s)
/-- R329. -/
def execMkpdu (port sub : Nat) (body : List Byte) (s : State) : Host.Outcome State Fault Refusal := .next (doMkpdu port sub body s)
/-- R327. -/
def execArpNd (port : Nat) (addr : List Byte) (s : State) : Host.Outcome State Fault Refusal := .next (doArp port addr s)
/-- R326. -/
def execLaserInputLow (port input : Nat) (s : State) : Host.Outcome State Fault Refusal := .next (doLaserLow port input s)
/-- R326. -/
def execPortBerDegraded (port : Nat) (s : State) : Host.Outcome State Fault Refusal := .next (doBer port s)
/-- R326. -/
def execLinkUp (port mask : Nat) (s : State) : Host.Outcome State Fault Refusal := .next (doLinkUp port mask s)
/-- R332. -/
def execLinkDown (port mask : Nat) (s : State) : Host.Outcome State Fault Refusal := .next (doLinkDown port mask s)
/-- R328. -/
def execAnnounce (port quality : Nat) (s : State) : Host.Outcome State Fault Refusal := .next (doAnnounce port quality s)
/-- R353: a write at a BAR0 offset of the fabric registers. -/
def execFabricRegWrite (off : Nat) (v : W32) (s : State) : Host.Outcome State Fault Refusal := .next (writeFab off v s)

end Sys2Proof.Machine
end

