-- ==== Sys2Proof/Machine/Roce.lean ====
section
/-! DEFINITION. The RoCEv2 responder, exported windows and queue pairs, and the mailbox commands that define them (R346, R350, R351,
R415 to R420). -/

namespace Sys2Proof.Machine

/-! ## Commands of the Grounds channels (R418 to R420) -/

/-- Serve a block command of a Grounds channel. -/
def groundsBlock (c cmd least : Nat) (blk : Option (List Byte)) (f : Nat → List Byte → State → State) (s : State) : State :=
  if s.live && s.waits c cmd then
    if s.wordBad c then chanAck c rcBadArg s
    else
      let s := readBlock c blk s
      match blockLen least blk with
      | none => chanAck c rcBadBlock s
      | some _ => f (s.blkAddr c) (blk.getD []) s
  else s

/-- Serve an immediate command of a Grounds channel. -/
def groundsImm (c cmd : Nat) (f : Nat → State → State) (s : State) : State :=
  if s.live && s.waits c cmd then
    if s.wordBad c then chanAck c rcBadArg s else f (wordArg (s.chan c).word) s
  else s

/-! ## Windows (R350) -/

/-- A pavilion's window. -/
def State.window? (s : State) (p no : Nat) : Option Window := s.fab.windows.find? fun w => w.pv == p && w.no == no

/-- Change the window pins of a range of pages. -/
def pinWindow (p first n : Nat) (on : Bool) (s : State) : State :=
  (List.range n).foldl (fun s i => modRange p (fun r => r.modPage (first + i) fun g =>
    { g with winPins := if on then g.winPins + 1 else g.winPins - 1 }) s) s

/-- The pin would leave at least 1/16 of the frames unpinned (R207). -/
def pinRoom (r : Range) (first n : Nat) : Bool :=
  let new := n - (r.pages.filter fun g => decide (first ≤ g.no) && decide (g.no < first + n) && g.held).length
  decide (r.share ≤ 16 * (r.share - (r.pages.filter (·.held)).length - new))

/-- Export a window: its pages come into T1 and are pinned. While one is on its way, the Grounds keeps the command. -/
def exportWindow (c p no first n : Nat) (ro : Bool) (addr : Nat) (s : State) : State :=
  if (s.window? p no).isSome || !pinRoom (s.range p) first n then chanAck c rcRefused s
  else
    match allIntoT1 p ((List.range n).map (first + ·)) s with
    | (.ready, s) =>
      let (v, s) := draw s
      let key := v % 2 ^ 22 * 1024 + 64 * p + no
      let s := pinWindow p first n true s
      let s := modFab (fun f => { f with windows := f.windows ++ [⟨p, no, first * pageSize, n, ro, key⟩] }) s
      chanAck c rcOk (blockOut c addr key s)
    | (.wait, s) => s
    | (.refuse .flashUnrecoverable, s) => chanAck c rcFault s
    | (.refuse _, s) => chanAck c rcRefused s

/-- WIN_EXPORT. -/
def doWinExport (p : Nat) (blk : Option (List Byte)) (s : State) : State :=
  groundsBlock (2 + p) 0x40 64 blk (fun addr b s =>
    let no := field b 16 1
    let start := field b 24 8
    let n := field b 32 4
    if !(zeroAt b 18 6 && zeroAt b 36 28) then chanAck (2 + p) rcBadBlock s
    else if decide (64 ≤ no) || decide (1 < field b 17 1) || n == 0 || start % pageSize != 0 || decide (hostAreaEnd < start + n * pageSize) then
      chanAck (2 + p) rcBadArg s
    else exportWindow (2 + p) p no (start / pageSize) n (field b 17 1 == 1) addr s) s

/-- Unexport a window: its pins are removed. -/
def dropWindow (w : Window) (s : State) : State :=
  pinWindow w.pv (w.start / pageSize) w.pages false (modFab (fun f => { f with windows := f.windows.filter (· != w) }) s)

/-- WIN_UNEXPORT. -/
def doWinUnexport (p : Nat) (s : State) : State :=
  groundsImm (2 + p) 0x41 (fun arg s =>
    if 63 < arg then chanAck (2 + p) rcBadArg s
    else match s.window? p arg with
      | some w => chanAck (2 + p) rcOk (dropWindow w s)
      | none => chanAck (2 + p) rcRefused s) s

/-! ## Queue pairs (R351) -/

/-- Path MTU of a code (the annex's codes; PRESUMED, log 40). -/
def pathMtu (code : Nat) : Nat := if code = 3 then 1024 else if code = 4 then 2048 else if code = 5 then 4096 else 0

/-- QP_CREATE. -/
def doQpCreate (p : Nat) (blk : Option (List Byte)) (s : State) : State :=
  let c := 2 + p
  groundsBlock c 0x42 64 blk (fun addr b s =>
    let mtu := pathMtu (field b 44 1)
    if !(zeroAt b 46 2 && zeroAt b 56 8) then chanAck c rcBadBlock s
    else if decide (2 ^ 24 ≤ field b 32 4) || decide (2 ^ 24 ≤ field b 36 4) || decide (2 ^ 24 ≤ field b 40 4) || mtu == 0 || decide (20 ≤ field b 45 1) then
      chanAck c rcBadArg s
    else
      match (List.range 1024).find? fun i => !s.fab.qps.any fun q => q.qpn % 1024 == i with
      | none => chanAck c rcNoSpace s
      | some i =>
        if 256 ≤ (s.fab.qps.filter (·.pv == p)).length then chanAck c rcNoSpace s
        else
          let (v, s) := draw s
          let qpn := v % 2 ^ 14 * 1024 + i
          let q : Qp := ⟨p, qpn, slice b 16 16, field b 32 4, field b 36 4, field b 40 4, mtu, field b 45 1, field b 48 8, false, 1, 1, 2, false, 3⟩
          chanAck c rcOk (blockOut c addr qpn (modFab (fun f => { f with qps := f.qps ++ [q] }) s))) s

/-- QP_DESTROY. -/
def doQpDestroy (p : Nat) (s : State) : State :=
  groundsImm (2 + p) 0x43 (fun arg s =>
    if 2 ^ 24 ≤ arg then chanAck (2 + p) rcBadArg s
    else if s.fab.qps.any fun q => q.pv == p && q.qpn == arg then
      chanAck (2 + p) rcOk (modFab (fun f => { f with qps := f.qps.filter fun q => !(q.pv == p && q.qpn == arg) }) s)
    else chanAck (2 + p) rcRefused s) s

/-! ## Requests (R346, R351) -/

/-- Change a queue pair. -/
def modQp (qpn : Nat) (g : Qp → Qp) (s : State) : State := modFab (fun f => { f with qps := mapIf (·.qpn == qpn) g f.qps }) s

/-- Send a response or acknowledgement of a queue pair on its port. -/
def roceSend (q : Qp) (what : String) (body : List Byte) (s : State) : State :=
  if (s.fab.ports.getD q.port Port.reset).carries then chargeLink q.port q.pv body.length (emit (.roce q.qpn what body) s) else s

/-- A CE-marked packet: at most one CNP per 50 µs. -/
def roceCe (q : Qp) (ce : Bool) (s : State) : State :=
  if ce && decide (3 ≤ q.cnpAge) then roceSend q "CNP" [] (modQp q.qpn (fun q => { q with cnpAge := 0 }) s) else s

/-- The window that a request may use, or none: Remote Access Error. -/
def rocWindow (s : State) (q : Qp) (rkey va len : Nat) (write : Bool) : Option Window :=
  s.fab.windows.find? fun w => w.pv == q.pv && w.rkey == rkey && maskHas q.winMask w.no && !(write && w.ro) &&
    decide (w.start ≤ va) && decide (va + len ≤ w.start + w.pages * pageSize)

/-- Packets of a message of `n` bytes. -/
def packetsOf (mtu n : Nat) : Nat := max 1 ((n + mtu - 1) / mtu)

/-- A request on a queue pair, its PSN in order: `f` performs it. Duplicates and gaps follow the annex. -/
def roceOrder (q : Qp) (psn n : Nat) (again : State → State) (f : State → State) (s : State) : State :=
  let gap := (psn + 2 ^ 24 - q.recvPsn) % 2 ^ 24
  if gap = 0 then f (modQp q.qpn (fun x => { x with recvPsn := (psn + packetsOf q.mtu n) % 2 ^ 24 }) s)
  else if 2 ^ 23 ≤ gap then again s
  else roceSend q "NAK PSN" (leBytes 4 q.recvPsn) s

/-- The live queue pair of a number. -/
def State.qp? (s : State) (qpn : Nat) : Option Qp := s.fab.qps.find? fun q => q.qpn == qpn && !q.ended

/-- An error of the operation ends the queue pair. -/
def endQp (q : Qp) (s : State) : State := roceSend q "NAK REMOTE OPERATIONAL" [] (modQp q.qpn (fun q => { q with ended := true }) s)

/-- Serve an RDMA READ. -/
def roceRead (q : Qp) (rkey va len : Nat) (s : State) : State :=
  if 2 ^ 30 < len then roceSend q "NAK INVALID REQUEST" [] s
  else match rocWindow s q rkey va len false with
    | none => roceSend q "NAK REMOTE ACCESS" [] s
    | some _ =>
      match readFor q.pv va len 0 s with
      | ((some _, _), s) => endQp q s
      | ((none, bs), s) => roceSend q "READ RESPONSE" bs s

/-- Apply an RDMA WRITE. -/
def roceWrite (q : Qp) (rkey va : Nat) (data : List Byte) (s : State) : State :=
  if 2 ^ 30 < data.length then roceSend q "NAK INVALID REQUEST" [] s
  else match rocWindow s q rkey va data.length true with
    | none => roceSend q "NAK REMOTE ACCESS" [] s
    | some _ =>
      match writeBack q.pv va data s with
      | (.ready, s) => roceSend q "ACK" [] s
      | (_, s) => endQp q s

/-- RDMA_READ. -/
def doRdmaRead (qpn rkey va len psn : Nat) (ce : Bool) (s : State) : State :=
  match s.qp? qpn with
  | none => s
  | some q =>
    if s.live && !s.flushing then roceOrder q psn len (roceRead q rkey va len) (roceRead q rkey va len) (roceCe q ce s) else s

/-- RDMA_WRITE. -/
def doRdmaWrite (qpn rkey va : Nat) (data : List Byte) (psn : Nat) (ce : Bool) (s : State) : State :=
  match s.qp? qpn with
  | none => s
  | some q =>
    if s.live && !s.flushing then
      roceOrder q psn data.length (roceSend q "ACK" []) (roceWrite q rkey va data) (roceCe q ce s)
    else s

/-- ROCE_INVALID_REQUEST: an operation that is not served, or (`access`) a key, range or right that is refused. -/
def doRoceBad (qpn : Nat) (access : Bool) (s : State) : State :=
  match s.qp? qpn with
  | none => s
  | some q => if s.live && !s.flushing then roceSend q (if access then "NAK REMOTE ACCESS" else "NAK INVALID REQUEST") [] s else s

/-- CNP: R345 applied to the queue pair's responses. -/
def doCnp (qpn : Nat) (s : State) : State :=
  if s.live && !s.flushing then
    modQp qpn (fun q =>
      let q := { q with cnpSeen := true }
      if q.sinceCut < 2 then q
      else { q with rate := max (q.rate * (1 - q.alpha / 2)) (1 / 1024), alpha := q.alpha + (1 - q.alpha) / 16, sinceCut := 0 }) s
  else s

/-- R350. -/
def execWinExport (pv : Pv) (blk : Option (List Byte)) (s : State) : Host.Outcome State Fault Refusal := .next (doWinExport pv.val blk s)
/-- R350. -/
def execWinUnexport (pv : Pv) (s : State) : Host.Outcome State Fault Refusal := .next (doWinUnexport pv.val s)
/-- R351. -/
def execQpCreate (pv : Pv) (blk : Option (List Byte)) (s : State) : Host.Outcome State Fault Refusal := .next (doQpCreate pv.val blk s)
/-- R351. -/
def execQpDestroy (pv : Pv) (s : State) : Host.Outcome State Fault Refusal := .next (doQpDestroy pv.val s)
/-- R351. -/
def execRdmaRead (qpn rkey va len psn : Nat) (ce : Bool) (s : State) : Host.Outcome State Fault Refusal :=
  .next (doRdmaRead qpn rkey va len psn ce s)
/-- R351. -/
def execRdmaWrite (qpn rkey va : Nat) (data : List Byte) (psn : Nat) (ce : Bool) (s : State) : Host.Outcome State Fault Refusal :=
  .next (doRdmaWrite qpn rkey va data psn ce s)
/-- R351. -/
def execRoceInvalidRequest (qpn : Nat) (access : Bool) (s : State) : Host.Outcome State Fault Refusal := .next (doRoceBad qpn access s)
/-- R346. -/
def execCnp (qpn : Nat) (s : State) : Host.Outcome State Fault Refusal := .next (doCnp qpn s)

end Sys2Proof.Machine
end

