-- ==== Sys2Proof/Machine/Moves.lean ====
section
/-! DEFINITION. Movement of plots, activation of map entries, suspension and return of nodes, joins, proposals of the host
(R189, R356, R357, R359, R363, R367 to R376, R420, R421). -/

namespace Sys2Proof.Machine

/-! ## The state of a plot (R367) -/

/-- The committed entries of a plot in one epoch's structures: sketch, record, whether it lies in the lean-to. -/
def Store.plotRecs (x : Store) (plot : Nat) : List (Nat × Rec × Bool) :=
  ((x.tiles.filter fun t => t.tag.plot == plot).flatMap fun t => t.slots.filterMap fun y =>
    if y.deleted then none else y.ent.map fun r => (y.sketch, r, false)) ++
  ((x.leanEnts.filter fun e => e.2.plot == plot && e.2.committed && !e.2.ent.tomb).map fun e => (e.2.sketch, e.2.ent, true))

/-- Two entries are one version and share their record. -/
def sameVer (a b : Rec) : Bool := a.eid == b.eid && a.ver == b.ver && a.elem == b.elem

/-- Versions of a plot up to a frame, as a transfer carries them. -/
def State.plotVers (s : State) (p plot : Nat) (top : Frame) : List PlotVer :=
  let c := s.corpus p
  let all := c.stores.flatMap fun x => ((x.plotRecs plot).filter fun e => decide (e.2.1.ver ≤ top)).map fun e => (x.epoch, e)
  let heads := all.zipIdx.filter fun (e, i) => !(all.take i).any fun b => sameVer b.2.2.1 e.2.2.1
  heads.map fun (e, _) =>
    let r := e.2.2.1
    let n := match c.bundle? r.qepoch with | some b => recordBytes b.dim b.vfmt b.group b.qmode | none => c.vecStride
    let sks := (all.filter fun b => sameVer b.2.2.1 r).map fun b => (b.1, b.2.1, b.2.2.2)
    let l := (c.loc? r).getD ⟨r.eid, r.ver, r.elem, s.node, 0, 0⟩
    ⟨r.eid, r.ver, r.flags, r.payLen, r.attr, r.qepoch, c.delOf r, sks, (s.range p).read (c.vecAddr r.elem) n,
      if r.payLen = 0 then [] else (s.range p).read (c.payAddr r.elem) r.payLen, l.node, l.ring, l.seq⟩

/-- Bytes of a transfer: per version its sketch rows and slot entries, vector record, payload row and locator entry (R367, R370). -/
def Corpus.transferBytes (c : Corpus) (vs : List PlotVer) : Nat :=
  sumNat (vs.map fun v => sumNat (v.sketches.map fun x => ((c.store? x.1).map (·.width)).getD 0 / 8 + 32) + v.record.length +
    (if v.payload = [] then 0 else c.payStride) + 32)

/-- The epoch's structures hold an entry of the version in the plot. -/
def Store.holdsVer (x : Store) (plot : Nat) (v : PlotVer) : Bool :=
  (x.plotRecs plot).any fun e => e.2.1.eid == v.eid && e.2.1.ver == v.ver && e.2.1.qepoch == v.qepoch

/-- Write one version that came by transfer into this node's tiles, lean-to and stores under an element number of its own, and into its
locator (R367). Scan batches read a directory and its tiles at frame boundaries only, when they take their view (R62). None: no element
number is left. -/
def placeVer (p plot : Nat) (v : PlotVer) (s : State) : Option State :=
  let c := s.corpus p
  let need := v.sketches.filter fun x => match c.store? x.1 with | some y => !y.holdsVer plot v | none => false
  let del (s : State) : State := match v.del with | some d => modCorpus p (fun c => c.addDel ⟨v.eid, v.ver, d, none⟩) s | none => s
  if need = [] then some (del s)
  else
    match allocElem s p with
    | none => none
    | some el =>
      let s := modCorpus p (fun c => { c with elems := c.elems ++ [el] }) s
      let quad := some (s.quadOf p plot)
      let s := writeThrough p (c.vecAddr el) (padTo c.vecStride v.record) quad s
      let s := if v.payload = [] then s else writeThrough p (c.payAddr el) (padTo c.payStride v.payload) quad s
      let s := fixQuad p plot s
      let q := s.quadOf p plot
      let r : Rec := ⟨v.eid, v.ver, el, v.flags, v.payLen, v.attr, v.qepoch⟩
      let put (c : Corpus) (x : Nat × Nat × Bool) : Corpus :=
        let room := match c.store? x.1 with | some y => (match y.parts[q]? with | some l => decide (l.used < l.size) | none => false) | none => false
        if x.2.2 && room then
          let e : LeanEnt := ⟨x.2.1, r, plot, s.hfn, true, v.node, v.ring, v.seq, 0, false⟩
          let c := c.modStore x.1 fun y => y.modPart q fun l => { l with ents := l.ents ++ [e] }
          { c with journal := c.journal ++ [⟨x.1, e, q⟩] }
        else c.modStore x.1 fun y => y.addSlot p plot q x.2.1 r
      some (del (modCorpus p (fun c => ((need.foldl put c).locate ⟨v.eid, v.ver, el, v.node, v.ring, v.seq⟩).lateDel r v.node) s))

/-- Every version of a transfer. -/
def placeVers (p plot : Nat) : List PlotVer → State → Option State
  | [], s => some s
  | v :: vs, s => match placeVer p plot v s with | some s => placeVers p plot vs s | none => none

/-- A replica split (R177): a holder of the plot sends a version of a frame up to `F_ckpt`, which this node, a holder too, does not hold
(DEDUCED: log 44). -/
def State.splitBy (s : State) (p plot : Nat) (v : PlotVer) : Bool :=
  let c := s.corpus p
  c.rstate == .provisional && decide (v.ver ≤ c.fCkpt) &&
  v.sketches.any fun x => match c.store? x.1 with | some y => !y.holdsVer plot v | none => false
def noteSplit (p : Nat) (vs : List (Nat × PlotVer)) (s : State) : State :=
  if vs.any fun v => s.splitBy p v.1 v.2 then { s with upd := { s.upd with replicaSplit := true } } else s

/-- Free what this node holds of a plot (R368 step 7): its tiles, and its lean-to entries, whose places stay until a merge pass takes them. -/
def dropPlot (p plot : Nat) (s : State) : State :=
  let one (x : Store) : Store :=
    let nums := ((x.plotEnt? plot).map (·.tiles)).getD []
    { x with dir := x.dir.filter (·.plot != plot), tiles := x.tiles.filter (fun t => !nums.contains t.num), freeTiles := x.freeTiles ++ nums
             parts := x.parts.map fun l =>
               { l with ents := mapIf (fun e => !e.ent.tomb && e.plot == plot) (fun e => { e with gone := true }) l.ents } }
  let s := modCorpus p (fun c => Corpus.prune { c with stores := c.stores.map one, journal := c.journal.filter fun j => j.ent.ent.tomb || j.ent.plot != plot }) s
  freeElems p { s with comp := { s.comp with quads := s.comp.quads.filter fun q => !(q.1 == p && q.2.1 == plot) } }

/-! ## Moves (R368, R369) -/

/-- Send a message to the leading keeper. -/
def toLeader (m : MapMsg) (s : State) : State :=
  match s.comp.keeper.leader with
  | some l => sendMap l m s
  | none => match s.otherKeepers with
    | l :: _ => sendMap l m s
    | [] => s

/-- The token names the move that is in progress. -/
def CMap.moving (m : CMap) (tok : Token) : Bool :=
  match m.plot? tok.pv tok.plot with | some x => x.st == .moving && x.recv.isSome && x.tokEpoch == tok.epoch | none => false

/-- MOVE_DONE reaches the leading keeper. -/
def takeMoveDone (tok : Token) (s : State) : State :=
  if s.comp.keeper.role = 2 ∧ s.comp.map.moving tok = true then keeperLog (.moveEnd tok.pv tok.plot) s else s

/-- MOVE_TRANSFER_START (R368 step 3): from boundary A + 1, once the settled frame has reached A − 1. -/
def doTransfer (p plot : Nat) (s : State) : State :=
  match s.comp.out.find? fun m => m.tok.pv == p && m.tok.plot == plot && m.stage == .begun with
  | none => s
  | some m =>
    if s.live && !s.flushing && s.clk.slot.isNone && decide (m.act + 1 ≤ s.hfn) && decide (m.act - 1 ≤ (s.corpus p).settledF) then
      let vs := s.plotVers p plot (m.act - 1)
      let (id, s) := newMsgId s
      let s := modOut (·.tok == m.tok) (fun m => { m with stage := .transferring, vers := vs.length, bytes := (s.corpus p).transferBytes vs }) s
      modFab (fun f => { f with reqs := f.reqs ++ [⟨id, m.recv, .move m.tok.epoch p plot, []⟩]
                                coal := f.coal ++ [⟨m.recv, 3, jWrite, p, id, .map (.versions m.tok vs)⟩] }) s
    else s

/-- Take a transfer whose WRITEs delivered these versions: the result of R367, and the state. -/
def takeState (tok : Token) (elements : Nat) (vs : List PlotVer) (sumOk : Bool) (s : State) : Nat × State :=
  if vs.length < elements then (2, s)
  else if elements < vs.length || !sumOk then (1, s)
  else match placeVers tok.pv tok.plot vs s with
    | some s => (0, s)
    | none => (2, s)

/-- HANDOFF at the receiver (R368 step 5, R369). -/
def doHandoff (src : Nat) (tok : Token) (elements : Nat) (vs : List PlotVer) (sumOk : Bool) (s : State) : State :=
  let ack (r : Nat) (s : State) : State := sendMap src (.handoffAck tok r) s
  let pull (x : Nat × Nat × Nat) : Bool := x.1 == tok.pv && x.2.1 == tok.plot && x.2.2 == src
  if s.hears src && decide (tok.pv < 12) then
    match s.comp.inn.find? fun m => m.tok == tok && m.owner == src with
    | some m =>
      if m.held then ack 0 s
      else
        let (r, s) := takeState tok elements vs sumOk s
        let keep (m : MoveIn) : MoveIn := if r = 0 then { m with got := vs, held := true } else { m with got := vs }
        ack r { s with comp := { s.comp with inn := mapIf (·.tok == tok) keep s.comp.inn } }
    | none =>
      if s.comp.pulls.any pull then
        let (r, s) := takeState tok elements vs sumOk (noteSplit tok.pv (vs.map fun v => (tok.plot, v)) s)
        ack r (if r = 0 then { s with comp := { s.comp with pulls := s.comp.pulls.filter fun x => !pull x } } else s)
      else if s.takes tok.pv tok.plot then ack 0 s
      else s
  else s

/-- HANDOFF_ACK at the old owner (R368 steps 5 and 6). -/
def doHandoffAck (src : Nat) (tok : Token) (result : Nat) (s : State) : State :=
  if s.hears src then
    match s.comp.out.find? fun m => m.tok == tok && m.recv == src with
    | none => s
    | some m =>
      if m.stage == .ended then
        if result = 0 then modOut (·.tok == tok) (fun m => { m with pulled := false }) s
        else sendHandoff m (sendMap src (.versions tok (s.plotVers tok.pv tok.plot s.hfn)) s)
      else if m.stage == .handoff then
        if result = 0 then
          let s := modOut (·.tok == tok) (fun m => { m with stage := .done }) s
          if s.comp.keeper.role = 2 then takeMoveDone tok s else toLeader (.moveDone tok) s
        else repeatMove m s
      else s
  else s

/-- MOVE_DONE. -/
def doMoveDone (src : Nat) (tok : Token) (s : State) : State := if s.keeps src then takeMoveDone tok s else s

/-- HOLD_CLAIM: the receiver holds the plot, and its old owner has been suspended (R369). -/
def takeClaim (src : Nat) (tok : Token) (s : State) : State :=
  match s.comp.map.plot? tok.pv tok.plot with
  | some x =>
    let gone (n : Nat) : Bool := s.comp.map.members.any fun m => m.node == n && m.st == 1
    if s.comp.keeper.role = 2 && x.recv == some src && x.tokEpoch == tok.epoch && (gone x.owner || x.holders.any gone) then
      keeperLog (.moveEnd tok.pv tok.plot) s
    else s
  | none => s
def doHoldClaim (src : Nat) (tok : Token) (s : State) : State := if s.keeps src then takeClaim src tok s else s

/-- STATE_PULL at a previous holder: the versions beyond those that the new owner holds, then HANDOFF (R369, R373). -/
def doStatePull (src : Nat) (tok : Token) (off : Nat) (s : State) : State :=
  let p := tok.pv
  if s.hears src && decide (p < 12) && (s.takes p tok.plot || s.comp.out.any (·.tok == tok)) then
    let vs := s.plotVers p tok.plot s.hfn
    let s := modOut (·.tok == tok) (fun m => { m with pulled := true }) s
    sendMap src (.handoff tok s.hfn vs.length ((s.corpus p).transferBytes vs)) (sendMap src (.versions tok (vs.drop off)) s)
  else s

/-- HANDOFF_RESEND: every 50 frames. -/
def doResend (p plot : Nat) (s : State) : State :=
  match s.comp.out.find? fun m => m.tok.pv == p && m.tok.plot == plot && m.stage == .handoff with
  | some m => if s.live && decide (m.lastSent + 50 ≤ s.hfn) then sendHandoff m s else s
  | none => s

/-- A query in flight on this node names the plot. -/
def State.plotBusy (s : State) (p plot : Nat) : Bool :=
  s.scan.queries.any fun q => q.pv == p && q.plots.contains plot && (match q.stage with | .finished => false | _ => true)

/-- MOVE_STATE_FREE: past the drain deadline A2 + 2, no query left, nobody pulls (R363, R368 step 7, R369). -/
def doMoveFree (p plot : Nat) (s : State) : State :=
  match s.comp.out.find? fun m => m.tok.pv == p && m.tok.plot == plot && m.stage == .ended with
  | some m =>
    if s.live && decide (m.a2.getD s.hfn + 2 < s.hfn) && !m.pulled && !s.plotBusy p plot then
      let s := { s with comp := { s.comp with out := s.comp.out.filter (·.tok != m.tok) } }
      if s.takes p plot then s else dropPlot p plot s
    else s
  | none => s

/-! ## Activation of map entries (R359) -/

/-- The frame-mark records follow the ingest peers: one that joins is settled through the frame before (R175, R176, R372). -/
def syncPeers (act : Frame) (s : State) : State :=
  (List.range 12).foldl (fun s p =>
    let want := if (s.slices p).isSome then s.ingestPeers p else []
    let g (c : Corpus) : Corpus :=
      let kept := c.peers.filter fun x => want.contains x.node
      { c with peers := kept ++ (want.filter fun n => !kept.any (·.node == n)).map fun n => ⟨n, act - 1, [], act - 1, 0⟩ }
    modCorpus p g s) s

/-- Ask a holder for the state that this node lacks (R369, R373); none can be reached: the plot is lost (R370). -/
def pullPlot (x : CPlot) (holders : List Nat) (s : State) : State :=
  match (holders.filter fun n => n != s.node && s.comp.map.serving n) with
  | n :: _ =>
    sendMap n (.statePull ⟨x.tokEpoch, x.plot, x.pv⟩ 0) { s with comp := { s.comp with pulls := s.comp.pulls ++ [(x.pv, x.plot, n)] } }
  | [] => propose (.lost x.pv x.plot) none none s

/-- Pulls from a node that cannot be reached go on from another holder (R369). -/
def repull (n : Nat) (s : State) : State :=
  let gone := s.comp.pulls.filter fun x => x.2.2 == n
  let s := { s with comp := { s.comp with pulls := s.comp.pulls.filter fun x => x.2.2 != n } }
  gone.foldl (fun s x => match s.comp.map.plot? x.1 x.2.1 with | some y => pullPlot y y.holders s | none => s) s

/-- An epoch's structures with no version in them. -/
def Store.wiped (x : Store) : Store := { x.bare with tiles := [], dir := [], nextTile := 0, freeTiles := [], nextList := 0 }

/-- A node that comes as new capacity holds no pavilion state: what its flash still has of the hall's versions is discarded (R375). -/
def Corpus.discard (c : Corpus) : Corpus :=
  { c with stores := c.stores.map Store.wiped, dels := [], noted := [], locator := [], elems := [], journal := [], seqs := [], seqTop := []
           merge := none, reuse := [], ckptNew := none
           index := c.index.map fun i => { i with stores := i.stores.map Store.wiped, dels := [], locator := [] } }

/-- A node is removed: batches that wait for it end (R177). -/
def forgetNode (n : Nat) (gone : Bool) (s : State) : State :=
  let g (b : Batch) : Batch :=
    { b with await_ := b.await_.filter (· != n)
             lost := b.lost || (gone && b.stage == .admitted && b.owners.contains n) }
  let s := modUpd (fun u => { u with batches := u.batches.map g }) s
  (s.upd.batches.map (·.id)).foldl (fun s id => settleBatch id s) s

/-- The serving node with slices for the pavilion that holds the fewest plots (R376). -/
def CMap.lightest (m : CMap) (p : Nat) (not_ : List Nat) : Option Nat :=
  let cands := (m.members.filter fun x => x.st == 0 && !not_.contains x.node &&
    (match m.slice? x.node p with | some c => !c.quads.isEmpty | none => false)).map (·.node)
  let load (n : Nat) : Nat := (m.plots.filter fun x => x.takers.contains n).length
  cands.find? fun n => cands.all fun k => decide (load n ≤ load k)

/-- The leading keeper moves the plots of draining nodes away, MAX_MOVES at a time, and removes a node that owns none (R376). -/
def drainStep (s : State) : State :=
  (s.comp.map.members.filter (·.st == 2)).foldl (fun s n =>
    let m := s.comp.map
    let mine := m.plots.filter fun x => x.owner == n.node && x.st != .lost
    if mine = [] then keeperLog (.memberRemove n.node) s
    else
      let busy := (mine.filter fun x => x.st == .moving).length
      ((mine.filter fun x => x.st == .served).take (fld s.comp.moveEff 15 8 - busy)).foldl (fun s x =>
        match s.comp.map.lightest x.pv x.holders with
        | some r => keeperLog (.moveBegin x.pv x.plot n.node r false) s
        | none => s) s) s

/-- This node's suspension ends: recovery from the settled frame that the map recorded, and pulls of what replica holders served
(R194, R373). -/
def rejoin (old : CMember) (act : Frame) (s : State) : State :=
  if act ≤ old.susAt + fld s.comp.mapEff 31 24 * 50000 then
    let s := (List.range 12).foldl (fun s p =>
      if (s.slices p).isSome then modCorpus p (fun c => { c with rstate := .provisional, fCkpt := old.settled }) s else s) s
    (s.comp.map.plots.filter fun x => x.owner != s.node && x.reps.contains s.node).foldl (fun s x => pullPlot x x.holders s) s
  else s

/-- What an entry that has just taken effect, under epoch `ep` at frame `act`, does on this node; `old` is the map before it. -/
def afterEntry (old : CMap) (ep : Nat) (e : MapEntry) (act : Frame) (s : State) : State :=
  match e with
  | .memberAdd n _ =>
    if n = s.node then
      modFab (fun f => { f with nodeLock := true })
        { s with corpora := s.corpora.map Corpus.discard, comp := { s.comp with admLog := [], out := [], inn := [], pulls := [], quads := [] } }
    else s
  | .memberRemove n =>
    let s := repull n (syncPeers act (forgetNode n true s))
    if n = s.node then { s with comp := { s.comp with joined := false } } else s
  | .suspend n _ =>
    let s := repull n (syncPeers act (forgetNode n false s))
    let s := (s.comp.map.plots.filter fun x => x.recv == some n).foldl (fun s x => keeperLog (.moveAbort x.pv x.plot) s) s
    (s.comp.inn.filter fun m => m.held && m.owner == n).foldl (fun s m =>
      if s.comp.keeper.role = 2 then takeClaim s.node m.tok s else toLeader (.holdClaim m.tok) s) s
  | .resume n _ =>
    let s := syncPeers act s
    if n = s.node then (match old.members.find? (·.node == n) with | some m => rejoin m act s | none => s) else s
  | .draining _ => s
  | .keepers ks =>
    if ks.contains s.node then modKeeper (fun k => { k with role := if k.role = 0 then 1 else k.role }) s
    else if old.keepers.contains s.node then modKeeper (fun k => { k with role := 0, leader := none, votes := [], cutWait := [] }) s
    else s
  | .slices _ _ _ _ _ _ => setShares (syncPeers act s)
  | .plots p first n _ _ =>
    (List.range n).foldl (fun s i => if s.takes p (first + i) then fixQuad p (first + i) s else s) s
  | .moveBegin p k o r _ =>
    let tok : Token := ⟨ep, k, p⟩
    if o = s.node then { s with comp := { s.comp with out := s.comp.out ++ [⟨tok, r, act, .begun, 0, 0, 0, 0, none, false⟩] } }
    else if r = s.node then fixQuad p k { s with comp := { s.comp with inn := s.comp.inn ++ [⟨tok, o, [], false⟩] } }
    else s
  | .moveEnd p k =>
    match old.plot? p k with
    | none => s
    | some x =>
      let tok : Token := ⟨x.tokEpoch, k, p⟩
      let s := if x.asRep then { s with comp := { s.comp with out := s.comp.out.filter (·.tok != tok) } }
        else modOut (·.tok == tok) (fun m => { m with a2 := some act, stage := .ended }) s
      match s.comp.inn.find? (·.tok == tok) with
      | some m =>
        let s := { s with comp := { s.comp with inn := s.comp.inn.filter (·.tok != tok) } }
        if m.held then s else pullPlot x x.holders s
      | none => s
  | .moveAbort p k =>
    let here (tok : Token) : Bool := tok.pv == p && tok.plot == k
    let s := { s with comp := { s.comp with out := s.comp.out.filter fun m => !(here m.tok && m.stage != MoveStage.ended) } }
    if s.comp.inn.any fun m => here m.tok then dropPlot p k { s with comp := { s.comp with inn := s.comp.inn.filter fun m => !here m.tok } } else s
  | .lost _ _ | .role _ _ | .policy _ | .cutAbort _ _ => s
  | .cutover p ec c _ => setCutover p ec c s

/-- Apply committed entries whose frame has come, in log order, from the map epoch on. -/
def applyEntries : Nat → State → State
  | 0, s => s
  | n + 1, s =>
    match s.comp.pend.find? fun x => x.1 == s.comp.map.epoch + 1 && decide (x.2.2 ≤ s.hfn) with
    | none => s
    | some (ep, e, act) =>
      let old := s.comp.map
      let s := { s with comp := { s.comp with
        map := old.apply e act, pend := s.comp.pend.filter (fun y => decide (ep < y.1)), applied := s.comp.applied ++ [(e, act)] } }
      applyEntries n (afterEntry old ep e act s)

/-- MAP_ENTRY_ACTIVATION: at a frame boundary; one MAP_EPOCH event carries the highest epoch reached. -/
def doActivate (s : State) : State :=
  if s.live && s.clk.slot.isNone && s.comp.pend.any (fun x => x.1 == s.comp.map.epoch + 1 && decide (x.2.2 ≤ s.hfn)) then
    let s := applyEntries s.comp.pend.length s
    let cut := match s.comp.applied.getLast? with | some (.cutover _ _ _ _, _) => 1 | _ => 0
    reloadShares (pumpMapHeld (drainStep (nodeEvent evMapEpoch (leBytes 8 s.comp.map.epoch ++ leBytes 1 cut) s)))
  else s

/-! ## Suspension and return (R372 to R375) -/

/-- SUSPEND_REPORT. -/
def doSuspend (n : Nat) (s : State) : State :=
  let recs := s.corpora.flatMap fun c => c.peers.filter (·.node == n)
  if s.live && !s.suspended && recs.any (fun x => decide (fld s.comp.mapEff 23 16 * 1000 ≤ x.silent)) &&
      !s.comp.props.any (fun x => match x.ent with | .suspend k _ => k == n | _ => false) then
    propose (.suspend n ((recs.map (·.got)).min?.getD 0)) none none s
  else s

/-- RESUME: a suspended node that is LOCKED again. -/
def doResume (s : State) : State :=
  if s.live && s.suspended && s.clk.align == .locked && !s.comp.props.any (fun x => match x.ent with | .resume _ _ => true | _ => false) then
    propose (.resume s.node s.nodeSettled) none none s
  else s

/-- CATCH_UP_DONE: the versions (with their plots) and the admissions (EID, version, admitting node) that the peers' logs gave. -/
def doCatchUp (p : Nat) (vs : List (Nat × PlotVer)) (adm : List (Nat × Frame × Nat)) (s : State) : State :=
  let c := s.corpus p
  if s.live && c.rstate == .provisional && !s.suspended && decide (s.hfn ≤ c.settledF + 1) && !s.comp.pulls.any (·.1 == p) then
    let s := vs.foldl (fun s v => (placeVer p v.1 v.2 s).getD s) (noteSplit p vs s)
    let s := modCorpus p (fun c => { adm.foldl (fun c a => c.note a.1 a.2.1 a.2.2) c with rstate := .confirmed }) s
    (s.comp.map.plots.filter fun x => x.pv == p && x.owner == s.node && x.st == .dark).foldl (fun s x =>
      propose (.plots p x.plot 1 s.node x.reps) none none s) s
  else s

/-- REJOIN_LIMIT at the leading keeper. -/
def doRejoinLimit (n : Nat) (s : State) : State :=
  match s.comp.map.members.find? fun m => m.node == n && m.st == 1 with
  | some m => if s.live && decide (m.susAt + fld s.comp.mapEff 31 24 * 50000 < s.hfn) then keeperLog (.memberRemove n) s else s
  | none => s

/-- JOIN_CHECK: LOCKED, the hall's origin, the digests of the resident bundles (R376 step 4). -/
def doJoinCheck (originOk digestsOk : Bool) (s : State) : State :=
  if s.live && !s.comp.joined && s.comp.map.members.any (·.node == s.node) then
    if s.clk.align == .locked && originOk && digestsOk then { s with comp := { s.comp with joined := true } }
    else propose (.memberRemove s.node) none none { s with comp := { s.comp with joinRefused := true } }
  else s

/-! ## Proposals of the host (R357, R420, R421) -/

/-- Demote pages of a pavilion until its share holds the rest (R357): refused where pinned pages or the flash stop it, a wait while the
copies run. -/
def demoteTo (p share : Nat) : Nat → State → Got × State
  | 0, s => (if (s.range p).inT1 ≤ share then .ready else .wait, s)
  | n + 1, s =>
    let r := s.range p
    let going := (r.pages.filter fun g => g.st.inT1 && g.copy.isSome).length
    if r.inT1 ≤ share then (.ready, s)
    else if r.inT1 ≤ share + going then (.wait, s)
    else match demoteFirst p r.victims s with
      | (.refuse st, s) => if going = 0 then (.refuse st, s) else (.wait, s)
      | (_, s) => demoteTo p share n s

/-- Empty the rows of memory slices that this node is about to lose (R357). -/
def evacuate (c : CSlices) (s : State) : Got × State :=
  let s' := { s with comp := { s.comp with map := s.comp.map.setSlices c } }
  let tiles := (List.range 4).all fun q => decide ((s.corpus c.pv).tilesIn q ≤ s'.tileBand c.pv q)
  if tiles then demoteTo c.pv (s'.shareOf c.pv) (s.range c.pv).inT1 s else (.refuse .quota, s)

/-- A MAP_PROPOSE block of one kind: BLEN exactly `len`, the bytes that the kind does not use 0; PKIND outside 1 to 7 is BAD_ARG. -/
def mapPropose (kind len : Nat) (resv : List Byte → Bool) (blk : Option (List Byte)) (f : List Byte → State → State) (s : State) : State :=
  let k := field (blk.getD []) 16 1
  if blk = none ∨ k = kind ∨ k = 0 ∨ 7 < k then
    groundsBlock 1 0x20 128 blk (fun _ b s =>
      if k ≠ kind then chanAck 1 rcBadArg s
      else if field b 0 4 ≠ len ∨ zeroAt b 20 4 = false ∨ resv b = false then chanAck 1 rcBadBlock s
      else f b (modChan 1 (fun x => { x with taken := true }) s)) s
  else s

/-- Propose for the mailbox. -/
def hostPropose (e : MapEntry) (s : State) : State := propose e none (some 1) s

/-- SLICES. -/
def doSlices (blk : Option (List Byte)) (s : State) : State :=
  mapPropose 1 128 (fun b => zeroAt b 66 62 && field b 62 4 / 2 ^ 20 == 0) blk (fun b s =>
    let c : CSlices := ⟨field b 18 2, field b 17 1, field b 24 18, field b 42 12, field b 54 8, field b 62 4⟩
    let e : MapEntry := .slices c.node c.pv c.eng c.ta c.mem c.link
    if 12 ≤ c.pv then chanAck 1 rcBadArg s
    else
      let loses := match s.comp.map.slice? c.node c.pv with | some x => x.mem &&& c.mem != x.mem | none => false
      if c.node = s.node ∧ loses = true ∧ s.refuses e = false then
        match evacuate c s with
        | (.ready, s) => hostPropose e s
        | (.wait, s) => modChan 1 (fun x => { x with taken := false }) s
        | (.refuse _, s) => chanAck 1 rcRefused s
      else hostPropose e s) s

/-- PLOT_ASSIGN. -/
def doPlotAssign (blk : Option (List Byte)) (s : State) : State :=
  mapPropose 2 128 (fun b => zeroAt b 38 90) blk (fun b s =>
    let reps := ((List.range 3).map fun i => field b (32 + 2 * i) 2).filter (· != 0xFFFF)
    if 12 ≤ field b 17 1 then chanAck 1 rcBadArg s
    else hostPropose (.plots (field b 17 1) (field b 24 4) (field b 28 4) (field b 18 2) reps) s) s

/-- MOVE_BEGIN. -/
def doMoveBegin (blk : Option (List Byte)) (s : State) : State :=
  mapPropose 3 128 (fun b => zeroAt b 31 97) blk (fun b s =>
    if decide (12 ≤ field b 17 1) || decide (2 ^ 20 ≤ field b 24 4) || decide (1 < field b 30 1) then chanAck 1 rcBadArg s
    else hostPropose (.moveBegin (field b 17 1) (field b 24 4) (field b 18 2) (field b 28 2) (field b 30 1 == 1)) s) s

/-- MEMBER_ADD. -/
def doMemberAdd (blk : Option (List Byte)) (s : State) : State :=
  mapPropose 4 384 (fun b => zeroAt b 24 40) blk (fun b s => hostPropose (.memberAdd (field b 18 2) (slice b 64 320)) s) s

/-- DRAIN. -/
def doDrainNode (blk : Option (List Byte)) (s : State) : State :=
  mapPropose 5 128 (fun b => zeroAt b 24 104) blk (fun b s => hostPropose (.draining (field b 18 2)) s) s

/-- ROLE. -/
def doRole (blk : Option (List Byte)) (s : State) : State :=
  mapPropose 6 128 (fun b => zeroAt b 25 103) blk (fun b s =>
    if 2 < field b 24 1 then chanAck 1 rcBadArg s else hostPropose (.role (field b 18 2) (field b 24 1)) s) s

/-- KEEPERS. -/
def doKeepers (blk : Option (List Byte)) (s : State) : State :=
  mapPropose 7 128 (fun b => zeroAt b 25 1 && zeroAt b 36 92) blk (fun b s =>
    let n := field b 24 1
    if n ≠ 3 ∧ n ≠ 5 then chanAck 1 rcBadArg s
    else hostPropose (.keepers ((List.range n).map fun i => field b (26 + 2 * i) 2)) s) s

/-! ## RS_DONE (R189) -/

/-- A peer's RESKETCH transfers to this node are complete: the versions they delivered, with their staged plots. -/
def doRsTransfers (src p ep : Nat) (vs : List (Nat × PlotVer)) (s : State) : State :=
  if s.hears src && ((s.corpus p).stg.map (·.epoch) == some ep) then
    doRsDone src p ep (vs.foldl (fun s v => (placeVer p v.1 v.2 s).getD s) s)
  else s

/-- R367, R368. -/
def execHandoff (src : Nat) (tok : Token) (_snap elements : Nat) (vs : List PlotVer) (sumOk : Bool) (s : State) :
    Host.Outcome State Fault Refusal := .next (doHandoff src tok elements vs sumOk s)
/-- R368. -/
def execHandoffAck (src : Nat) (tok : Token) (result : Nat) (s : State) : Host.Outcome State Fault Refusal :=
  .next (doHandoffAck src tok result s)
/-- R368. -/
def execMoveDone (src : Nat) (tok : Token) (s : State) : Host.Outcome State Fault Refusal := .next (doMoveDone src tok s)
/-- R369. -/
def execHoldClaim (src : Nat) (tok : Token) (s : State) : Host.Outcome State Fault Refusal := .next (doHoldClaim src tok s)
/-- R369. -/
def execStatePull (src : Nat) (tok : Token) (off : Nat) (s : State) : Host.Outcome State Fault Refusal := .next (doStatePull src tok off s)
/-- R359. -/
def execMapEntryActivation (s : State) : Host.Outcome State Fault Refusal := .next (doActivate s)
/-- R368. -/
def execMoveTransferStart (pv : Pv) (plot : Nat) (s : State) : Host.Outcome State Fault Refusal := .next (doTransfer pv.val plot s)
/-- R368. -/
def execHandoffResend (pv : Pv) (plot : Nat) (s : State) : Host.Outcome State Fault Refusal := .next (doResend pv.val plot s)
/-- R368. -/
def execMoveStateFree (pv : Pv) (plot : Nat) (s : State) : Host.Outcome State Fault Refusal := .next (doMoveFree pv.val plot s)
/-- R372. -/
def execSuspendReport (node : Nat) (s : State) : Host.Outcome State Fault Refusal := .next (doSuspend node s)
/-- R373. -/
def execResume (s : State) : Host.Outcome State Fault Refusal := .next (doResume s)
/-- R373. -/
def execCatchUpDone (pv : Pv) (vs : List (Nat × PlotVer)) (adm : List (Nat × Frame × Nat)) (s : State) :
    Host.Outcome State Fault Refusal := .next (doCatchUp pv.val vs adm s)
/-- R375. -/
def execRejoinLimit (node : Nat) (s : State) : Host.Outcome State Fault Refusal := .next (doRejoinLimit node s)
/-- R376. -/
def execJoinCheck (originOk digestsOk : Bool) (s : State) : Host.Outcome State Fault Refusal := .next (doJoinCheck originOk digestsOk s)
/-- R357, R421. -/
def execSlices (blk : Option (List Byte)) (s : State) : Host.Outcome State Fault Refusal := .next (doSlices blk s)
/-- R421. -/
def execPlotAssign (blk : Option (List Byte)) (s : State) : Host.Outcome State Fault Refusal := .next (doPlotAssign blk s)
/-- R368, R421. -/
def execMoveBegin (blk : Option (List Byte)) (s : State) : Host.Outcome State Fault Refusal := .next (doMoveBegin blk s)
/-- R376, R421. -/
def execMemberAdd (blk : Option (List Byte)) (s : State) : Host.Outcome State Fault Refusal := .next (doMemberAdd blk s)
/-- R376, R421. -/
def execDrain (blk : Option (List Byte)) (s : State) : Host.Outcome State Fault Refusal := .next (doDrainNode blk s)
/-- R377, R421. -/
def execRole (blk : Option (List Byte)) (s : State) : Host.Outcome State Fault Refusal := .next (doRole blk s)
/-- R421. -/
def execKeepers (blk : Option (List Byte)) (s : State) : Host.Outcome State Fault Refusal := .next (doKeepers blk s)
/-- R189. -/
def execRsDone (src : Nat) (pv : Pv) (epoch _sent : Nat) (vs : List (Nat × PlotVer)) (s : State) : Host.Outcome State Fault Refusal :=
  .next (doRsTransfers src pv.val epoch vs s)

end Sys2Proof.Machine
end

