-- ==== Sys2Proof/Machine/Promenade.lean ====
section
/-! DEFINITION. Faults of the promenade's links (R22 to R24). -/

namespace Sys2Proof.Machine

/-- Change a module of a connection. -/
def modModule (c m : Nat) (g : Module → Module) (s : State) : State := { s with mods := modifyAt s.mods c fun ms => modifyAt ms m g }
/-- A module. -/
def State.module (s : State) (c m : Nat) : Module := (s.mods.getD c []).getD m ⟨0, false⟩

/-- Link-level retries of a slot: connection, module, number. -/
def noteRetries (s : State) (x : Nat × Nat × Nat) : State :=
  count none 4 0 x.2.2 (modModule x.1 x.2.1 (fun m => { m with retries := m.retries + x.2.2 }) s)

/-- The counts of a frame start again as its slot 0 opens. -/
def clearRetries (s : State) : State := { s with mods := s.mods.map fun ms => ms.map fun m => { m with retries := 0 } }

/-- The connections of a storage die (R22). -/
def scConns (sc : Nat) : List Nat := [40 + 2 * sc, 41 + 2 * sc, 44 + sc]
/-- The queries that wait for a page of a storage die's channels. -/
def State.scQueries (s : State) (sc : Nat) : List Nat :=
  dedupKeep ((s.flash.ops.filter fun o => (s.flash.dies.find? (·.id == o.die)).any fun d => d.sd == sc).filterMap fun o => match o.what with
    | .cand q _ => some q | .row q _ => some q | _ => none)

/-- Every module of a connection is down (R24). A search die has no other connection: its jobs go to another die of the quadrant. A
storage die that has none left cannot be reached, and what waits for its flash ends with INTERNAL. Whatever else crosses the connection has
another path (R22): `reissued` items of it. -/
def connDown (c reissued : Nat) (s : State) : State :=
  if c < 24 then
    let n := (s.scan.batches.flatMap fun b => b.jobs.filter (·.die == c)).length
    count none 4 2 (if (s.quadDies (c / 6)).isEmpty then 0 else n) (leaveDie c s)
  else
    let lost := (List.range 2).filter fun k => (scConns k).contains c && (scConns k).all fun x => !s.connUp x
    count none 4 2 (if lost.isEmpty then reissued else 0) (breakWork .internal (lost.flatMap s.scQueries) [] s)

/-- Items that crossed a connection: some of no query or work item, and one of each query and work item listed that has not ended. -/
def State.crossed (s : State) (items : Nat) (qids works : List Nat) : Nat :=
  items + (qids.filter fun q => (s.query? q).isSome).length + (works.filter fun w => s.works.any (·.id == w)).length

/-- PROMENADE_RETRAIN at a frame boundary, of a module with more than 16 retries in the frame. -/
def doRetrain (c m items : Nat) (qids works : List Nat) (s : State) : State :=
  if s.live && s.clk.slot.isNone && decide (16 < (s.module c m).retries) && !(s.module c m).retraining then
    let s := count none 4 1 1 (modModule c m (fun x => { x with retraining := true }) s)
    if s.connUp c then s else connDown c (s.crossed items qids works) s
  else s

/-- MODULE_RETRAIN_DONE. -/
def doRetrained (c m : Nat) (s : State) : State := modModule c m (fun x => { x with retraining := false }) s

/-- R24. -/
def execPromenadeRetrain (conn modul items : Nat) (qids works : List Nat) (s : State) : Host.Outcome State Fault Refusal :=
  .next (doRetrain conn modul items qids works s)
/-- R24. -/
def execModuleRetrainDone (conn modul : Nat) (s : State) : Host.Outcome State Fault Refusal := .next (doRetrained conn modul s)

end Sys2Proof.Machine
end

