-- ==== Sys2Proof/Machine/Resets.lean ====
section
/-! DEFINITION. Function-level resets, pavilion resets, hot reset, loss of the link (R214, R294, R390 to R393, R417, R459, R461, R483). -/

namespace Sys2Proof.Machine

/-! ## The host interface of a function (R294, R417) -/

/-- A function after its own reset: in D0, its host interface in its reset state; the latches of R52 stay. -/
def FnState.flr (pf0 : Bool) (x : FnState) : FnState :=
  { FnState.reset pf0 with
    enabled := x.enabled, hfnHi := x.hfnHi, mapepHi := x.mapepHi, settledHi := x.settledHi, ckptHi := x.ckptHi, cutoverHi := x.cutoverHi }

/-- A channel of a sending function that was reset: the word is gone, and the answer to it is discarded. -/
def cutChan (c : Nat) (s : State) : State :=
  let s := modChan c (fun _ => Chan.reset) s
  { s with comp := { s.comp with props := s.comp.props.map fun p => if p.chan = some c then { p with chan := none } else p } }

/-- FABRIC_COPY work of a function stops (R391). -/
def stopCopies (f : Fn) (s : State) : State :=
  let ids := (s.works.filter fun w => w.fn == f).map (·.id)
  let mine (r : Req) : Bool := ids.any fun i => r.ofCopy i
  modFab (fun x => { x with
    reqs := x.reqs.filter fun r => !mine r
    held := x.held.filter fun h => !(h.msg.m.src == s.node && x.reqs.any fun r => mine r && r.msgId == h.msg.m.msgId) }) s

/-- The work of a function's rings is abandoned: nothing completes. -/
def dropWorks (f : Fn) (s : State) : State := { stopCopies f s with works := s.works.filter fun w => w.fn != f }

/-- The function-level reset of PF0 (R294): its rings, event ring, MSI-X state, mailbox channels, STATS_READ work. -/
def resetPf0 (s : State) : State :=
  let s := modFn 0 (FnState.flr true) (dropWorks 0 s)
  let s := cutChan 1 (cutChan 0 s)
  { s with rx := { s.rx with ctl := 0#32 } }

/-! ## A pavilion (R214, R390, R391) -/

/-- The T2 window is unregistered (R214): a page whose current copy was there reverts to its durable copy, or to UNWRITTEN. -/
def Range.dropT2 (r : Range) : Range :=
  let lost := (r.pages.filter fun g => g.st == .t2).map (·.no)
  let one (g : Page) : Page :=
    let g := { g with copy := match g.copy with | some c => if c.tier = 2 ∨ g.st = PState.t2 then none else some c | none => none }
    match g.st with
    | .t2 => { g with st := if g.durable then .t3 else .unwritten, dirty := 0 }
    | .t1OverT2 => { g with st := .t1Only, dirty := 0 }
    | _ => g
  { r with
    pages := r.pages.map one, t2 := [], t2Lo := 0#32, t2Hi := 0#32, t2Size := 0#32, vReject := false
    t3 := lost.foldl (fun m no => memSplice r.dur m (no * pageSize) pageSize) r.t3 }

/-- A corpus after a pavilion reset: clipping registers, and the corpus registers of an empty pavilion (R73, R75, R152). -/
def Corpus.flr (c : Corpus) : Corpus :=
  let c := { c with
    loads := [], cfgReject := false, clip := 0x0004_0040#32, clipEff := 0x0004_0040#32, drift := false, badRecord := false
    gatherRange := false, clipReject := false, worst := 0 }
  if c.empty then { c with corpusCfg := 0x0014_0000#32, vecBase := 0#32, payBase := 0#32 } else c

/-- Queries of the pavilion end: its own without a trace, those of other nodes with a PARTIAL of status RESET. -/
def endQueries (p : Nat) (s : State) : State :=
  (s.scan.queries.filter fun q => q.pv == p).foldl (fun s q =>
    let s := dropQuery q.id s
    match q.origin with
    | some (src, qid) => if src = s.node then s else refuseFan src p qid q .reset s
    | none => s) s

/-- A batch of the pavilion at the reset instant: dropped in preparation; discarded if admitted into the frame in progress. -/
def cutBatch (b : Batch) (s : State) : State :=
  let drop (s : State) : State :=
    modUpd (fun u => { u with batches := u.batches.filter (·.id != b.id), marks := u.marks.filter (· != (b.pv, b.id)) }) s
  match b.stage with
  | .seqWait => drop s
  | .prep => drop (b.elems.foldl (fun s e => dropElem b.pv e s) s)
  | .admitted =>
    if b.ver = s.hfn then
      let s := drop (b.elems.foldl (fun s e => withdraw b.pv b.id e.eid s) s)
      { s with comp := { s.comp with admLog := s.comp.admLog.filter fun a =>
          !(a.pv == b.pv && a.ver == b.ver && b.elems.any (·.eid == a.eid)) } }
    else s

/-- The reset instant of a pavilion (R390, R391); a second one while it is in reset has no effect (R392). -/
def resetPv (p : Nat) (s : State) : State :=
  if s.pvInReset p then s
  else
    let f := fnOf p
    let s := endQueries p (dropWorks f s)
    let s := (s.upd.batches.filter fun b => b.pv == p).foldl (fun s b => cutBatch b s) s
    let s := (s.fab.windows.filter fun w => w.pv == p).foldl (fun s w => dropWindow w s) s
    let s := modFab (fun x => { x with qps := x.qps.filter (·.pv != p), coal := x.coal.filter fun c => !(c.op == jFanout && c.pv == p) }) s
    let s := freeElems p (modCorpus p Corpus.flr (modRange p Range.dropT2 s))
    let s := cutChan (2 + p) (modFn f (FnState.flr false) s)
    { s with qos := { s.qos with
        inReset := modifyAt s.qos.inReset p fun _ => some s.hfn
        use := modifyAt s.qos.use p fun _ => (0, 0, 0)
        quotaHit := modifyAt s.qos.quotaHit p fun _ => false } }

/-- FUNCTION_LEVEL_RESET of a pavilion's VF; during a node reset it has no effect (R461). -/
def doFlr (p : Nat) (s : State) : State := if s.linkUp && (s.fn (fnOf p)).enabled then resetPv p s else s

/-- PF0_FUNCTION_LEVEL_RESET. -/
def doFlr0 (s : State) : State := if s.linkUp then resetPf0 s else s

/-- Every function is reset as by its own function-level reset; the enabled pavilions at one reset instant (R294, R390). -/
def resetAll (s : State) : State :=
  (List.range 12).foldl (fun s p => if (s.fn (fnOf p)).enabled then resetPv p s else s) (resetPf0 s)

/-- HOT_RESET: it comes over a link that is there again. -/
def doHot (s : State) : State :=
  if s.phase.up then
    let s := resetAll s
    { s with side := { s.side with pcieClk := true } }
  else s

/-- PCIE_REFCLK_LOSS: the link goes down. -/
def doPcieLoss (s : State) : State :=
  if s.linkUp then
    let s := resetAll s
    { s with side := { s.side with pcieClk := false } }
  else s

/-- VF_ENABLE_CLEAR: every enabled pavilion is reset at one instant; the functions are gone. -/
def doVfClear (s : State) : State :=
  if s.linkUp then
    let s := (List.range 12).foldl (fun s p => if (s.fn (fnOf p)).enabled then resetPv p s else s) s
    { s with fns := s.fns.zipIdx.map fun (y, i) => if i = 0 then y else { y with enabled := false } }
  else s

/-- PAVILION_RESET_DONE. -/
def doResetDone (p : Nat) (s : State) : State :=
  { s with qos := { s.qos with inReset := modifyAt s.qos.inReset p fun _ => none } }

/-- R214, R294, R390, R391. -/
def execFunctionLevelReset (pv : Pv) (s : State) : Host.Outcome State Fault Refusal := .next (doFlr pv.val s)
/-- R294. -/
def execPf0FunctionLevelReset (s : State) : Host.Outcome State Fault Refusal := .next (doFlr0 s)
/-- R294, R459. -/
def execHotReset (s : State) : Host.Outcome State Fault Refusal := .next (doHot s)
/-- R294, R483. -/
def execPcieRefclkLoss (s : State) : Host.Outcome State Fault Refusal := .next (doPcieLoss s)
/-- R270, R390. -/
def execVfEnableClear (s : State) : Host.Outcome State Fault Refusal := .next (doVfClear s)
/-- R392. -/
def execPavilionResetDone (pv : Pv) (s : State) : Host.Outcome State Fault Refusal := .next (doResetDone pv.val s)

end Sys2Proof.Machine
end

