-- ==== Sys2Proof/Machine/Sideband.lean ====
section
/-! DEFINITION. Management and sideband signals: SMBus, MCTP, PMBus, consoles, TAP, GPIO (R484 to R497). -/

namespace Sys2Proof.Machine

/-- The hottest logic die and the hottest stack, °C (R474). -/
def State.maxTemp (s : State) (stack : Bool) : Int :=
  let ts := (if stack then s.pwr.units.drop 32 else s.pwr.units.take 32).map (·.temp)
  match ts with | [] => 0 | t :: r => r.foldl max t

/-- Some unit is at step 1 or higher (R471): THERM_ALERT_N is low. -/
def State.throttled (s : State) : Bool := s.pwr.units.any fun x => decide (0 < x.step)

/-- BRINGUP_DONE (R405). -/
def State.bringup (s : State) : Bool := s.live

/-- The status byte of an SMBus read at command 0x02 (R485). -/
def State.smbStatus (s : State) : Nat :=
  (if s.throttled then 1 else 0) + (if s.pwr.tripped then 2 else 0) + (if s.flushing then 4 else 0) + (if s.bringup then 8 else 0)

/-- Hardware reads are served from the time the rails are up, even while PERST_N is low (R485). -/
def smbRead (v : Nat) (s : State) : State := if s.phase = .off then s else emit (.smbus (leBytes 1 v)) s

/-- The Grounds runs (R485: after step 3 of R405). -/
def State.groundsUp (s : State) : Bool := s.phase == .running || s.phase == .boot 4

/-- An MCTP answer: completion code 0 and its data (PRESUMED from DSP0236, log 25). -/
def mctp (data : List Byte) (s : State) : State := if s.groundsUp then emit (.smbus (0#8 :: data)) s else s

/-- The numeric sensors of R485: 0 is PKG_W, 1 to 48 the unit temperatures, then four values of each regulator polled. None: no such
sensor, or one that is unavailable. -/
def State.sensor (s : State) (k : Nat) : Option Int :=
  if k = 0 then some s.pwr.pkgW
  else if k ≤ 48 then (s.pwr.units[k - 1]?).map (·.temp)
  else
    match (s.side.regs[(k - 49) / 4]?).bind (·.vals) with
    | some (a, b, c, d) => some (Int.ofNat (match (k - 49) % 4 with | 0 => a | 1 => b | 2 => c | _ => d))
    | none => none

/-- LSR_EN[p] (R491): undriven until PERST_N is released; then the port is enabled, the node out of reset and not in flush mode. -/
def State.lsrEn (s : State) (p : Nat) : Option Bool :=
  match s.phase with
  | .off => none
  | .held .perst => none
  | .held _ => some false
  | _ => some (bit (s.fab.ports.getD p Port.reset).eff 0 && !s.flushing)

/-- SMB_ALERT_N is low (R485). -/
def State.smbAlert (s : State) : Bool :=
  s.throttled || s.side.thresholds.any fun t => match s.sensor t.1 with | some v => decide (t.2 < v) | none => false

/-- PLDM types 0 and 2 (R485): a reading, or a threshold set. No effecter. -/
def doPldm (q : PldmReq) (s : State) : State :=
  if s.groundsUp then
    if q.type_ = 0 then emit (.smbus [0#8]) s
    else if q.type_ = 2 then
      match q.setThreshold with
      | some t => emit (.smbus [0#8]) { s with side := { s.side with thresholds := (s.side.thresholds.filter (·.1 != q.sensor)) ++ [(q.sensor, t)] } }
      | none =>
        match s.sensor q.sensor with
        | some v => emit (.smbus (0#8 :: leBytes 4 (twos 32 v))) s
        | none => emit (.smbus [1#8]) s
    else emit (.smbus [2#8]) s
  else s

/-- PMBUS_POLL (R486): at a frame whose HFN is a multiple of 50,000, or after PMB_ALERT_N. -/
def doPoll (regs : List RegRead) (s : State) : State :=
  if s.live && s.clk.slot.isNone && (s.hfn % 50000 == 0 || s.side.pmbExtra) then
    let base := fld s.side.pmbCfg 6 0
    let one (i : Nat) : RegRead := (regs.find? (·.addr == base + i)).getD ⟨base + i, none⟩
    let got := (List.range (fld s.side.pmbCfg 11 8)).map one
    let bad (r : RegRead) : Bool := match r.vals with | some (_, _, _, st) => st != 0 | none => true
    { s with side := { s.side with
      pmbExtra := false, pmbFault := s.side.pmbFault || got.any bad
      regs := got.map fun r => if bad r then { r with vals := none } else r } }
  else s

/-- UART RX (R488): accepted only in TEST and RETURNED; port 0 is the Lodge's, port 1 the Grounds'. The byte reaches its console. -/
def doUart (port : Nat) (b : Byte) (goodStop : Bool) (s : State) : State :=
  if (if port = 0 then s.lodgeUp else s.groundsUp) && goodStop && (s.lodge.lc == 1 || s.lodge.lc == 3) then
    emit (.internal (if port = 0 then "UART0 RX" else "UART1 RX") b.toNat) s
  else s

/-- JTAG_OPEN (R411, R424): the TAP is open in TEST and RETURNED. -/
def jtagOpen (lc : Nat) : Bool := lc == 1 || lc == 3

/-- A TAP access (R489). -/
def doJtag (what : Nat) (s : State) : State :=
  if s.phase != .off && jtagOpen s.lodge.lc then emit (.jtag what) s else s

/-- GPIO_DIR or (`out`) GPIO_OUT is written (R490). -/
def writeGpio (out : Bool) (v : W32) (s : State) : State :=
  if s.bar0Up0 then
    { s with side := if out then { s.side with gpioOut := v &&& 0xFFFF#32 } else { s.side with gpioDir := v &&& 0xFFFF#32 } }
  else s

/-- GPIO_IN: the level at each pin (R490). -/
def Side.gpioIn (x : Side) : W32 := (x.gpioDir &&& x.gpioOut) ||| (~~~x.gpioDir &&& x.gpioPins &&& 0xFFFF#32)

/-- PMB_CFG is written (R497). -/
def writePmb (v : W32) (s : State) : State :=
  if s.bar0Up0 then
    let b := fld v 6 0
    let n := fld v 11 8
    if inRange 0x08 b 0x77 && decide (n ≤ 8) && decide (b + n ≤ 0x78) then
      { s with side := { s.side with pmbCfg := v &&& 0x0F7F#32 } }
    else { s with side := { s.side with cfgReject := true } }
  else s

/-- R486. -/
def execPmbusPoll (regs : List RegRead) (s : State) : Host.Outcome State Fault Refusal := .next (doPoll regs s)
/-- R486: an extra poll at the next frame boundary. -/
def execPmbAlert (s : State) : Host.Outcome State Fault Refusal :=
  .next (when_ s.live (fun s => { s with side := { s.side with pmbExtra := true } }) s)
/-- R485. -/
def execSmbReadMaxLogic (s : State) : Host.Outcome State Fault Refusal := .next (smbRead (twos 8 (s.maxTemp false)) s)
/-- R485. -/
def execSmbReadMaxStack (s : State) : Host.Outcome State Fault Refusal := .next (smbRead (twos 8 (s.maxTemp true)) s)
/-- R485. -/
def execSmbReadStatus (s : State) : Host.Outcome State Fault Refusal := .next (smbRead s.smbStatus s)
/-- R485. -/
def execSetEndpointId (eid : Byte) (s : State) : Host.Outcome State Fault Refusal :=
  .next (when_ s.groundsUp (fun s => mctp [0#8, eid, 0#8] { s with side := { s.side with eid := eid } }) s)
/-- R485. -/
def execGetEndpointId (s : State) : Host.Outcome State Fault Refusal := .next (mctp [s.side.eid, 0#8, 0#8] s)
/-- R485: versions of the base control protocol and of PLDM. -/
def execGetMctpVersionSupport (mtype : Byte) (s : State) : Host.Outcome State Fault Refusal :=
  .next (when_ s.groundsUp (fun s =>
    if mtype = 0#8 ∨ mtype = 1#8 ∨ mtype = 0xFF#8 then mctp [1#8, 0xF1#8, 0xF3#8, 0xF1#8, 0#8] s else emit (.smbus [0x80#8]) s) s)
/-- R485: PLDM is the one message type beside control. -/
def execGetMessageTypeSupport (s : State) : Host.Outcome State Fault Refusal := .next (mctp [1#8, 1#8] s)
/-- R485. -/
def execPldmRequest (q : PldmReq) (s : State) : Host.Outcome State Fault Refusal := .next (doPldm q s)
/-- R488. -/
def execUartRx (port : Nat) (b : Byte) (goodStop : Bool) (s : State) : Host.Outcome State Fault Refusal :=
  .next (doUart port b goodStop s)
/-- R489. -/
def execJtagAccess (what : Nat) (s : State) : Host.Outcome State Fault Refusal := .next (doJtag what s)
/-- R490. -/
def execGpioWrite (out : Bool) (v : W32) (s : State) : Host.Outcome State Fault Refusal := .next (writeGpio out v s)
/-- R497. -/
def execPmbCfgWrite (v : W32) (s : State) : Host.Outcome State Fault Refusal := .next (writePmb v s)

end Sys2Proof.Machine
end

