-- ==== Sys2Proof/Machine/Flags.lean ====
section
/-! DEFINITION. The status registers: the flags and counts that each shows, computed from the state (R29, R50, R73, R108, R134, R152, R198,
R229, R379, R396, R397, R424, R454, R474, R496). The block has no processor flags. -/

namespace Sys2Proof.Machine

/-! ## Node-wide status -/

/-- The low and high word of a 64-bit value. -/
def loW (n : Nat) : W32 := BitVec.ofNat 32 n
def hiW (n : Nat) : W32 := BitVec.ofNat 32 (n / 2 ^ 32)

/-- ZN_ID (R29). -/
def znIdReg : W32 := BitVec.ofNat 32 znId

/-- ZN_CAPS (R29): 0 until the Lodge sets BRINGUP_DONE. -/
def znCaps (s : State) : W32 :=
  if s.bringup then
    put (s.dies.filter (·.inService)).length 0 5 ||| put s.lds.length 5 3 ||| put s.scs.length 8 2 ||| put s.sts.length 10 5 ||| put 12 15 4 |||
      put 7 19 3 ||| putB true 22 ||| putB true 23 ||| putB true 31
  else 0#32

/-- FRAME_STAT (R50). -/
def frameStat (c : Clock) : W32 :=
  let seen (a : Option Nat) : Bool := match a with | some n => decide (n ≤ 100000) | none => false
  put c.align.code 0 3 ||| putB (seen c.ptpAge) 3 ||| putB (seen c.ppsAge) 4 ||| putB c.cfgReject 5 ||| putB c.lateCommit 6 |||
    put c.ptpRej 16 8 ||| put c.ppsRej 24 8

/-- SCAN_STAT and PERMIT_STAT (R108). -/
def scanStat (x : Scan) : W32 :=
  putB x.scanReject 0 ||| putB x.hitStall 1 ||| putB x.seqRounds 2 ||| put (satTo 0xFFFF x.stealsLast) 16 16
def permitStat (x : Stack) : W32 :=
  put x.grant 0 5 ||| putB x.shownDoubled 5 ||| putB x.govLimited 6 ||| put (satTo 0xFF x.ifUtil) 8 8 ||| put (satTo 0xFF x.pw1) 16 8

/-- SELECT_STAT (R134). -/
def selectStat (x : Scan) : W32 :=
  putB x.selReject 0 ||| putB x.dupOver 1 ||| putB x.fetchLate 2 ||| put (satTo 0xFFFF x.tieDropsLast) 16 16

/-- UPD_STAT (R198). -/
def updStat (u : Upd) : W32 := putB u.cfgReject 0 ||| putB u.prepTimeout 1 ||| putB u.laggingSeen 2 ||| putB u.replicaSplit 3

/-- TIER_STAT, REGION_STAT, ECC_STAT (R229). -/
def tierStat (t : Tier) : W32 :=
  putB t.cfgReject 0 ||| putB t.bar2Abort 1 ||| putB t.bar2Drop 2 ||| putB t.uncorrSeen 3 ||| putB t.fenceSeen 4 ||| putB t.tagMismatch 5 |||
    put (satTo 0xFFFF t.migrLast) 16 16
def regionStat (x : Stack) : W32 :=
  put (x.gh.getD 0 0) 0 7 ||| put (x.gh.getD 1 0) 8 7 ||| put (x.gh.getD 2 0) 16 7 ||| put (x.gh.getD 3 0) 24 7 ||| putB (!x.quiesced.isEmpty) 31
def eccStat (x : Stack) : W32 := put (satTo 0xFFFF x.ce) 0 16 ||| put (satTo 0xFF x.ue) 16 8 ||| put (satTo 0xFF x.fence) 24 8

/-- MAP_STAT (R379). -/
def mapStat (s : State) : W32 :=
  let me := s.comp.map.members.find? (·.node == s.node)
  let role := if s.isKeeper then s.comp.keeper.role else 0
  put role 0 2 ||| put ((me.map (·.role)).getD 0) 2 2 ||| put ((me.map fun m => m.st + 1).getD 0) 4 2 ||| putB s.comp.noQuorum 6 |||
    putB s.comp.cfgReject 7 ||| putB s.comp.joinRefused 8 |||
    put (s.comp.out.filter fun m => m.stage != MoveStage.ended).length 16 8 ||| put (satTo 0xFF s.comp.inn.length) 24 8

/-- A bit per pavilion. -/
def pvBits (g : Nat → Bool) (lo : Nat) : W32 := (List.range 12).foldl (fun w p => w ||| putB (g p) (lo + p)) 0#32

/-- QOS_STAT (R396). -/
def qosStat (s : State) : W32 :=
  pvBits s.pvInReset 0 ||| putB s.qos.cfgReject 12 |||
    pvBits (fun p => match s.lodge.pvKeys.getD p none with | some k => k.installed | none => false) 16

/-- LC_STATE (R424): the fuses as read at reset. -/
def lcState (l : Lodge) : W32 :=
  let slot (r : Option Running) : Bool := match r with | some x => x.slotB | none => false
  put l.lc 0 3 ||| putB (jtagOpen l.lc) 3 ||| putB (jtagOpen l.lc) 4 ||| putB l.lcPending 5 ||| put l.lodgeSvn 8 7 ||| put l.groundsSvn 16 7 |||
    putB (slot l.lodgeImg) 24 ||| putB (slot l.groundsImg) 25

/-- LODGE_STAT (R424). -/
def lodgeStat (l : Lodge) : W32 :=
  put l.lastMsg 0 8 ||| putB l.fwViol 8 ||| putB l.groundsRestart 9 ||| putB l.mbxLost 10 ||| put (satTo 0xFFFF l.fwViolCnt) 16 16

/-- INTEG_STAT, SCRUB_STAT, BIST_STAT (R454). -/
def integStat (x : Integ) : W32 :=
  putB x.cfgReject 0 ||| putB x.suspectSeen 1 ||| putB x.swapSeen 2 ||| putB x.noSpare 3 ||| putB x.shadowDrop 4 ||| putB x.primaryWrong 5 |||
    putB x.sramUe 6
def keeperStat (x : Integ) : W32 := put x.banksOff.length 0 16 ||| put (satTo 0xFFFF x.keeperFail) 16 16
def scrubStat (x : Integ) : W32 := put (satTo 0xFFFF x.scrubProg) 0 16 ||| put (satTo 0xFFFF x.scrubFix) 16 16
def bistStat (x : Integ) : W32 :=
  putB x.bist.isSome 0 ||| putB x.bistFail 1 ||| putB x.bistAbort 2 ||| putB x.bistReject 3 ||| put (satTo 0xFFFF x.bistMs) 16 16

/-- SUSPECT_BANDb (R436, R443, R454): counts of the unit that SUSPECT_SEL in force names, or its replay counts over its captures. -/
def suspectBand (x : Integ) (b : Nat) : W32 :=
  let v := x.selEff
  let u : PUnit := ⟨fld v 4 0, bit v 11, fld v 10 5⟩
  let (c, m) :=
    if bit v 12 then
      let cs := (x.captures.filter fun y => y.u == u).flatMap fun y => y.counts.filter fun z => z.1 == b && z.2.1 == bit v 13
      (sumNat (cs.map (·.2.2.1)), sumNat (cs.map (·.2.2.2)))
    else let y := x.cnt u b; (y.checks, y.mism)
  put (satTo 0xFFFF (c / 1024)) 0 16 ||| put (satTo 0xFFFF m) 16 16

/-- PWR_STAT, THERM_STAT, RESET_STAT, TEMP_n (R474). -/
def pwrStat (s : State) : W32 :=
  put s.pwr.pkgW 0 11 ||| put s.pwr.level 12 4 ||| putB s.flushing 16 ||| putB s.pwr.capHit 17 ||| putB s.pwr.cfgReject 18
def thermStat (s : State) : W32 :=
  put (twos 8 (s.maxTemp false)) 0 8 ||| put (twos 8 (s.maxTemp true)) 8 8 ||| putB s.throttled 16 ||| putB s.pwr.stepSeen 17 |||
    putB s.pwr.thermReject 18
def resetStat (p : Power) : W32 := put p.cause 0 3 ||| putB p.pfailSeen 3 ||| putB p.tripped 4 ||| put p.tripUnit 8 6
def tempReg (x : ThermUnit) : W32 := put (twos 8 x.temp) 0 8 ||| put x.step 8 3 ||| putB x.sensorFail 11

/-- SB_STAT (R496). -/
def sbStat (x : Side) : W32 := put x.strap.toNat 0 8 ||| putB x.strapBad 8 ||| putB x.cfgReject 9 ||| putB x.pmbFault 10

/-! ## Status of a pavilion -/

/-- CORPUS_STAT (R73). -/
def corpusStat (c : Corpus) : W32 :=
  let parts := match c.cur.bind fun b => c.store? b.epoch with | some x => x.parts | none => []
  let fill (l : LeanPart) : Nat := satTo 0xFFFF (l.used * 65536 / max 1 l.size)
  putB c.empty 0 ||| putB c.cfgReject 1 ||| putB (parts.any fun l => decide (l.size ≤ l.used)) 2 ||| put (maxNat (parts.map fill)) 16 16

/-- QUANT_STAT (R152). -/
def quantStat (c : Corpus) : W32 :=
  putB c.clipReject 0 ||| putB c.drift 1 ||| putB c.badRecord 2 ||| putB c.gatherRange 3 ||| put c.worst 16 7

/-- PV_USE (R397). -/
def pvUseReg (x : Qos) (p : Nat) : W32 :=
  let u := x.use.getD p (0, 0, 0)
  put (satTo 0xFF u.1) 0 8 ||| put (satTo 0xFF u.2.1) 8 8 ||| put (satTo 0xFF u.2.2) 16 8 ||| putB (x.quotaHit.getD p false) 24

end Sys2Proof.Machine
end

