-- ==== Sys2Proof/Machine/Registers.lean ====
section
/-! DEFINITION. Reads and writes of a function page (R7, R8, R29, R50 to R53, R73, R108, R109, R134, R135, R152, R198, R200, R229, R230,
R266, R271, R272, R289 to R292, R352, R379, R396 to R398, R423, R424, R454, R474, R496). -/

namespace Sys2Proof.Machine

/-! ## Node registers of PF0 -/

/-- Element of a register array at `base`, `n` words long. -/
def arrayIdx (off base n : Nat) : Option Nat :=
  if base ≤ off ∧ off < base + 4 * n ∧ (off - base) % 4 = 0 then some ((off - base) / 4) else none

/-- The share registers of a pavilion: word 0 to 3. -/
def Qos.reg (x : Qos) (p w : Nat) : W32 :=
  match w with
  | 0 => x.weight.getD p 0#32
  | 1 => x.flash.getD p 0#32
  | 2 => x.merge.getD p 0#32
  | _ => x.quota.getD p 0#32

/-- Registers at 0x0000 to 0x05FF of PF0. -/
def readNodeA (s : State) (off : Nat) : W32 :=
  let x := s.scan
  match off with
  | 0x000 => znIdReg
  | 0x004 => znCaps s
  | 0x200 => s.clk.cfg
  | 0x208 => loW s.hfn
  | 0x20C => (s.fn 0).hfnHi
  | 0x210 => s.clk.originLo
  | 0x214 => s.clk.originHi
  | 0x218 => s.clk.tickOffset
  | 0x21C => frameStat s.clk
  | 0x300 => x.permitCap
  | 0x304 => x.scanCfg
  | 0x308 => scanStat x
  | 0x400 => x.rerankCfg
  | 0x404 => selectStat x
  | 0x500 => s.upd.cfg
  | 0x504 => s.upd.mergeCfg
  | 0x508 => updStat s.upd
  | _ =>
    match arrayIdx off 0x100 24, arrayIdx off 0x340 16 with
    | some i, _ => if s.bringup then (s.dies.getD i Die.reset).stat else 0#32
    | none, some i => permitStat (x.st.getD i Stack.reset)
    | none, none => 0#32

/-- Registers at 0x0600 to 0x0AFF of PF0. -/
def readNodeB (s : State) (off : Nat) : W32 :=
  let f := s.flash
  match off with
  | 0x600 => s.tier.cfg
  | 0x604 => tierStat s.tier
  | 0x700 => f.cfg
  | 0x704 => f.slcMax
  | 0x708 => f.warn
  | 0x70C => flashStat s
  | 0x710 => loW f.free
  | 0x714 => loW f.slcUsed
  | 0x718 => loW f.capGib
  | 0x71C => put (f.dies.filter fun d => !d.retired).length 0 11 ||| put f.channels 16 7
  | 0x800 => s.fab.nodeId
  | 0x804 => s.fab.jfpCfg
  | 0x808 => jfpStat s.fab
  | 0x80C => s.fab.ptpCfg
  | 0x900 => s.comp.mapCfg
  | 0x904 => mapStat s
  | 0x908 => loW s.comp.map.epoch
  | 0x90C => (s.fn 0).mapepHi
  | 0x910 => s.comp.map.policy
  | 0x914 => s.comp.moveCfg
  | 0xAC0 => qosStat s
  | _ =>
    match arrayIdx off 0x640 16, arrayIdx off 0x680 16, arrayIdx off 0x840 20, arrayIdx off 0x890 20, arrayIdx off 0xA00 48 with
    | some i, _, _, _, _ => regionStat (s.scan.st.getD i Stack.reset)
    | none, some i, _, _, _ => eccStat (s.scan.st.getD i Stack.reset)
    | none, none, some i, _, _ => (s.fab.ports.getD i Port.reset).cfg
    | none, none, none, some i, _ => portStat s i
    | none, none, none, none, some i => s.qos.reg (i / 4) (i % 4)
    | none, none, none, none, none => 0#32

/-- Registers at 0x0B00 to 0x0FFF of PF0. -/
def readNodeC (s : State) (off : Nat) : W32 :=
  let x := s.integ
  match off with
  | 0xB00 => lcState s.lodge
  | 0xB04 => lodgeStat s.lodge
  | 0xC00 => x.keeperCfg
  | 0xC04 => x.shadowRate
  | 0xC08 => x.suspectCfg
  | 0xC0C => x.spareCfg
  | 0xC10 => integStat x
  | 0xC14 => keeperStat x
  | 0xC18 => scrubStat x
  | 0xC20 => x.suspectSel
  | 0xC40 => x.bistCtl
  | 0xC44 => bistStat x
  | 0xC48 => x.bistSig
  | 0xC4C => put x.bistCov 0 17
  | 0xD00 => s.pwr.cap
  | 0xD04 => pwrStat s
  | 0xD08 => s.pwr.thermCfg
  | 0xD0C => thermStat s
  | 0xD14 => resetStat s.pwr
  | 0xE00 => s.side.gpioDir
  | 0xE04 => s.side.gpioOut
  | 0xE08 => s.side.gpioIn
  | 0xE0C => sbStat s.side
  | 0xE10 => s.side.pmbCfg
  | _ =>
    match arrayIdx off 0xC24 4, arrayIdx off 0xD40 48 with
    | some i, _ => suspectBand x i
    | none, some i => tempReg (s.pwr.units.getD i ThermUnit.reset)
    | none, none => 0#32

/-! ## Pavilion registers of a VF -/

/-- The pending cutover as a 64-bit value: all ones when none is pending (R200). -/
def Corpus.cutWord (c : Corpus) : Nat := c.shCut.getD (2 ^ 64 - 1)

/-- The pavilion registers. -/
def readVf (f : Fn) (s : State) (off : Nat) : W32 :=
  let p := pvOf f
  let c := s.corpus p
  let r := s.range p
  let x := s.fn f
  match off with
  | 0x000 => znIdReg
  | 0x008 => loW s.hfn
  | 0x00C => x.hfnHi
  | 0x100 => c.corpusCfg
  | 0x104 => c.vecBase
  | 0x108 => c.payBase
  | 0x10C => corpusStat c
  | 0x110 => c.clip
  | 0x114 => quantStat c
  | 0x120 => loW c.shSettled
  | 0x124 => x.settledHi
  | 0x128 => loW c.shCkpt
  | 0x12C => x.ckptHi
  | 0x130 => loW c.shCur
  | 0x134 => loW c.shStg
  | 0x138 => loW c.cutWord
  | 0x13C => x.cutoverHi
  | 0x140 => c.shVis
  | 0x150 => r.t2Lo
  | 0x154 => r.t2Hi
  | 0x158 => r.t2Size
  | 0x15C => x.bar2Win
  | 0x160 => putB r.vReject 0 ||| putB r.t2InUse 1
  | 0x164 => put r.free 0 25
  | 0x168 => put r.pinnedT1 0 25
  | 0x170 => pvUseReg s.qos p
  | _ => 0#32

/-! ## Blocks that every function has -/

/-- A word of a ring's configuration block (R290). -/
def ringReg (x : Ring) (w : Nat) : W32 :=
  match w with
  | 0 => loW x.sqBase
  | 1 => hiW x.sqBase
  | 2 => loW x.cqBase
  | 3 => hiW x.cqBase
  | 4 => x.size
  | 5 => x.ctl
  | 6 => putB x.halted 0 ||| putB x.quiesced 1 ||| putB x.cqStall 2 ||| putB x.cfgReject 3 ||| put x.haltCause 4 4 ||| put x.lostCpl 8 8 |||
      put x.sqHead 16 16
  | _ => put x.cqTail 0 16 ||| putB x.cqPhase 16 ||| put x.haltIndex 17 15

/-- A word of the event-ring registers (R291). -/
def eqReg (e : EvRing) (w : Nat) : W32 :=
  match w with
  | 0 => loW e.base
  | 1 => hiW e.base
  | 2 => e.ctl
  | _ => put e.tail 0 16 ||| putB e.phase 16 ||| putB e.dbReject 17 ||| putB e.cfgReject 18 ||| put (satTo 0xFF e.dropped) 24 8

/-- A word of an MSI-X table entry. -/
def msixReg (m : Msix) (w : Nat) : W32 := match w with | 0 => m.addrLo | 1 => m.addrHi | 2 => m.data | _ => m.ctl

/-- A word of the pending bit array. -/
def pbaReg (ms : List Msix) (w : Nat) : W32 :=
  (List.range 32).foldl (fun v i => v ||| putB (ms.getD (32 * w + i) Msix.reset).pend i) 0#32

/-- The host-sent mailbox channel whose registers a function has at 0x4000 + 0x20 × k (R414). -/
def chanAt (f : Fn) (k : Nat) : Option Nat := if f.val = 0 then (if k < 2 then some k else none) else if k = 0 then some (1 + f.val) else none

/-- A word of a mailbox channel's registers (R423). -/
def chanReg (c : Chan) (w : Nat) : W32 :=
  match w with
  | 0 => c.lo
  | 1 => c.hi
  | 2 => putB c.full 0 ||| putB c.ackValid 1 ||| putB c.timedOut 2 ||| putB c.overrun 3 ||| putB c.cfgReject 4 ||| put c.ret 16 16
  | 3 => c.ctl
  | _ => 0#32

/-- A word of the Lodge-to-host channel's registers (R423). -/
def rxReg (x : RxChan) (w : Nat) : W32 :=
  match w with
  | 0 => loW x.word.toNat
  | 1 => hiW x.word.toNat
  | 3 => putB x.full 0 ||| x.ctl
  | _ => 0#32

/-- The mailbox registers of a function. -/
def readMbx (f : Fn) (s : State) (off : Nat) : W32 :=
  let k := (off - 0x4000) / 32
  let w := (off - 0x4000) % 32 / 4
  if f.val = 0 ∧ k = 2 then rxReg s.rx w
  else match chanAt f k with
    | some c => chanReg (s.chan c) w
    | none => 0#32

/-- What an aligned read of BAR0 of a function returns (R271, R272): doorbells and unimplemented offsets read 0. -/
def readBar0 (f : Fn) (s : State) (off : Nat) : W32 :=
  let x := s.fn f
  if off < 0x1000 then
    if f.val = 0 then (if off < 0x600 then readNodeA s off else if off < 0xB00 then readNodeB s off else readNodeC s off) else readVf f s off
  else if off < 0x1800 then
    if (off - 0x1000) / 32 < x.rings.length then ringReg (s.ring f ((off - 0x1000) / 32)) (off % 32 / 4) else 0#32
  else if off < 0x1810 then eqReg x.eq (off % 16 / 4)
  else if 0x2000 ≤ off ∧ off < 0x2400 then
    match x.msix[(off - 0x2000) / 16]? with
    | some m => msixReg m (off % 16 / 4)
    | none => 0#32
  else if off = 0x3000 then pbaReg x.msix 0
  else if off = 0x3004 then pbaReg x.msix 1
  else if 0x4000 ≤ off ∧ off < 0x5000 then readMbx f s off
  else 0#32

/-- The HI halves that a read of a LO half latches for the function (R52, R200, R379). -/
def latchHi (f : Fn) (s : State) (off : Nat) (x : FnState) : FnState :=
  let c := s.corpus (pvOf f)
  if f.val = 0 then
    match off with
    | 0x208 => { x with hfnHi := hiW s.hfn }
    | 0x908 => { x with mapepHi := hiW s.comp.map.epoch }
    | _ => x
  else
    match off with
    | 0x008 => { x with hfnHi := hiW s.hfn }
    | 0x120 => { x with settledHi := hiW c.shSettled }
    | 0x128 => { x with ckptHi := hiW c.shCkpt }
    | 0x138 => { x with cutoverHi := hiW c.cutWord }
    | _ => x

/-- The levels that the board puts on the GPIO pins when they are read: no command of the table sets them (free value, log 2; R490). -/
def samplePins (s : State) : State :=
  let (v, s) := draw s
  { s with side := { s.side with gpioPins := BitVec.ofNat 32 v } }

/-- A read of BAR0 at an offset (R52, R272, R390): of 4 aligned bytes; any other read, and a read of a function that is absent or in
reset, completes with Unsupported Request. -/
def doBarRead (f : Fn) (off : Nat) (s : State) : State :=
  if !s.linkUp then s
  else if !s.fnUp f || off % 4 != 0 then emit (.unsupported f) s
  else
    let s := if f.val = 0 ∧ off = 0x0E08 then samplePins s else s
    modFn f (latchHi f s off) (emit (.regData f off (readBar0 f s off)) s)

/-! ## Writes of registers that belong to no other file -/

/-- A write to PERMIT_CAP (R109). -/
def writePermit (v : W32) (s : State) : State :=
  if s.bar0Up0 then
    if decide (fld v 4 0 ≤ 16) && inRange 24 (fld v 21 16) 36 then { s with scan := { s.scan with permitCap := v &&& 0x003F_011F#32 } }
    else { s with scan := { s.scan with scanReject := true } }
  else s

/-- A write to SCAN_CFG (R109). -/
def writeScan (v : W32) (s : State) : State :=
  if s.bar0Up0 then
    if 2 ≤ fld v 15 8 then { s with scan := { s.scan with scanCfg := v &&& 0x0000_FF07#32 } }
    else { s with scan := { s.scan with scanReject := true } }
  else s

/-- A write to RERANK_CFG (R135). -/
def writeRerank (v : W32) (s : State) : State :=
  if s.bar0Up0 then
    if inRange 8 (fld v 9 0) 1000 then { s with scan := { s.scan with rerankCfg := v &&& 0x0001_03FF#32 } }
    else { s with scan := { s.scan with selReject := true } }
  else s

/-- The sum of a field over the pavilions but one. -/
def sumOthers (ws : List W32) (p hi lo : Nat) : Nat := sumNat (ws.zipIdx.map fun (w, i) => if i = p then 0 else fld w hi lo)

/-- Is the sum of a per-mille field that a write would raise above 1,000? -/
def raisesOver (ws : List W32) (p : Nat) (v : W32) (hi lo : Nat) : Bool :=
  decide (fld (ws.getD p 0#32) hi lo < fld v hi lo) && decide (1000 < sumOthers ws p hi lo + fld v hi lo)

/-- Is a share register write accepted (R398)? -/
def shareOk (x : Qos) (p w : Nat) (v : W32) : Bool :=
  match w with
  | 0 => decide (1 ≤ fld v 15 8) && inRange 1 (fld v 22 16) 100
  | 1 => decide (fld v 9 0 ≤ 1000) && decide (fld v 19 10 ≤ 1000) && !raisesOver x.flash p v 9 0 && !raisesOver x.flash p v 19 10
  | 2 => decide (fld v 9 0 ≤ 1000) && !raisesOver x.merge p v 9 0
  | _ => true

/-- A write to the share registers at 0x0A00 to 0x0ABF (R396, R398). -/
def writeShare (off : Nat) (v : W32) (s : State) : State :=
  match arrayIdx off 0xA00 48 with
  | none => s
  | some i =>
    let p := i / 4
    if s.bar0Up0 then
      if shareOk s.qos p (i % 4) v then
        modQos (fun x => match i % 4 with
          | 0 => { x with weight := modifyAt x.weight p fun _ => v &&& 0x007F_FFFF#32 }
          | 1 => { x with flash := modifyAt x.flash p fun _ => v &&& 0x000F_FFFF#32 }
          | 2 => { x with merge := modifyAt x.merge p fun _ => v &&& 0x3FF#32 }
          | _ => { x with quota := modifyAt x.quota p fun _ => v &&& 0x00FF_FFFF#32 }) s
      else modQos (fun x => { x with cfgReject := true }) s
    else s

/-- RW1C bit of QOS_STAT (R396). -/
def clearQosStat (v : W32) (s : State) : State := modQos (fun x => { x with cfgReject := x.cfgReject && !bit v 12 }) s

/-- ORIGIN_LO and (`hi`) ORIGIN_HI: RWL (R50, R53). -/
def writeOrigin (hi : Bool) (v : W32) (s : State) : State :=
  if s.clk.originLock then s
  else { s with clk := if hi then { s.clk with originHi := v &&& 0xFFFF#32 } else { s.clk with originLo := v } }

/-- RW1C bits of FRAME_STAT, SCAN_STAT, SELECT_STAT, TIER_STAT, LODGE_STAT and SB_STAT. -/
def clearFrameStat (v : W32) (s : State) : State :=
  { s with clk := { s.clk with cfgReject := s.clk.cfgReject && !bit v 5, lateCommit := s.clk.lateCommit && !bit v 6 } }
def clearScanStat (v : W32) (s : State) : State :=
  { s with scan := { s.scan with scanReject := s.scan.scanReject && !bit v 0, hitStall := s.scan.hitStall && !bit v 1,
                                 seqRounds := s.scan.seqRounds && !bit v 2 } }
def clearSelectStat (v : W32) (s : State) : State :=
  { s with scan := { s.scan with selReject := s.scan.selReject && !bit v 0, dupOver := s.scan.dupOver && !bit v 1,
                                 fetchLate := s.scan.fetchLate && !bit v 2 } }
def clearTierStat (v : W32) (s : State) : State :=
  modTier (fun t => { t with
    cfgReject := t.cfgReject && !bit v 0, bar2Abort := t.bar2Abort && !bit v 1, bar2Drop := t.bar2Drop && !bit v 2
    uncorrSeen := t.uncorrSeen && !bit v 3, fenceSeen := t.fenceSeen && !bit v 4, tagMismatch := t.tagMismatch && !bit v 5 }) s
def clearLodgeStat (v : W32) (s : State) : State :=
  { s with lodge := { s.lodge with fwViol := s.lodge.fwViol && !bit v 8, groundsRestart := s.lodge.groundsRestart && !bit v 9,
                                   mbxLost := s.lodge.mbxLost && !bit v 10 } }
def clearSbStat (v : W32) (s : State) : State :=
  { s with side := { s.side with cfgReject := s.side.cfgReject && !bit v 9, pmbFault := s.side.pmbFault && !bit v 10 } }

/-- RW1C bits of CORPUS_STAT, QUANT_STAT, TIER_VSTAT and PV_USE. -/
def clearVf (p off : Nat) (v : W32) (s : State) : State :=
  match off with
  | 0x10C => modCorpus p (fun c => { c with cfgReject := c.cfgReject && !bit v 1 }) s
  | 0x114 => modCorpus p (fun c => { c with clipReject := c.clipReject && !bit v 0, drift := c.drift && !bit v 1,
                                            badRecord := c.badRecord && !bit v 2, gatherRange := c.gatherRange && !bit v 3 }) s
  | 0x160 => modRange p (fun r => { r with vReject := r.vReject && !bit v 0 }) s
  | 0x170 => modQos (fun x => { x with quotaHit := modifyAt x.quotaHit p fun h => h && !bit v 24 }) s
  | _ => s

/-- RW1C bits of MBX_STAT (R423). -/
def clearMbx (c : Nat) (v : W32) (s : State) : State :=
  modChan c (fun x => { x with ackValid := x.ackValid && !bit v 1, timedOut := x.timedOut && !bit v 2, overrun := x.overrun && !bit v 3,
                               cfgReject := x.cfgReject && !bit v 4 }) s

/-- A write to a word of the MSI-X table (R289): a vector that is unmasked while its pending bit is set fires. -/
def writeMsix (f : Fn) (i w : Nat) (v : W32) (s : State) : State :=
  let set (m : Msix) : Msix := match w with
    | 0 => { m with addrLo := v }
    | 1 => { m with addrHi := v }
    | 2 => { m with data := v }
    | _ => { m with ctl := v &&& 1#32, pend := m.pend && bit v 0 }
  match (s.fn f).msix[i]? with
  | none => s
  | some m =>
    let s := modFn f (fun x => { x with msix := modifyAt x.msix i set }) s
    if w = 3 ∧ m.pend = true ∧ bit v 0 = false then emit (.msix f i) s else s

/-- A write to a mailbox register of a function. -/
def writeMbx (f : Fn) (off : Nat) (v : W32) (s : State) : State :=
  let k := (off - 0x4000) / 32
  let w := (off - 0x4000) % 32 / 4
  if f.val = 0 ∧ k = 2 then (if w = 2 then doMbxAck s else if w = 3 then doMbxCtl 14 v s else s)
  else match chanAt f k with
    | some c => (match w with
      | 0 => doMbxLo c v s
      | 1 => doMbxPost c v s
      | 2 => clearMbx c v s
      | 3 => doMbxCtl c v s
      | _ => s)
    | none => s

/-- A write to a node register of PF0. -/
def writeNode (off : Nat) (v : W32) (s : State) : State :=
  match off with
  | 0x200 => { s with clk := s.clk.writeCfg v }
  | 0x210 => writeOrigin false v s
  | 0x214 => writeOrigin true v s
  | 0x21C => clearFrameStat v s
  | 0x300 => writePermit v s
  | 0x304 => writeScan v s
  | 0x308 => clearScanStat v s
  | 0x400 => writeRerank v s
  | 0x404 => clearSelectStat v s
  | 0x500 => writeUpdCfg v s
  | 0x504 => writeMergeCfg v s
  | 0x508 => clearUpdStat v s
  | 0x600 => writeTierCfg v s
  | 0x604 => clearTierStat v s
  | 0x700 => writeFlash 0 v s
  | 0x704 => writeFlash 1 v s
  | 0x708 => writeFlash 2 v s
  | 0x70C => writeFlash 3 v s
  | 0x910 => writePolicy v s
  | 0xAC0 => clearQosStat v s
  | 0xB04 => clearLodgeStat v s
  | 0xD00 => writePwr false v s
  | 0xD04 => clearPwrStat v s
  | 0xD08 => writePwr true v s
  | 0xD0C => clearThermStat v s
  | 0xD10 => writeReset v s
  | 0xD14 => clearResetStat v s
  | 0xE00 => writeGpio false v s
  | 0xE04 => writeGpio true v s
  | 0xE0C => clearSbStat v s
  | 0xE10 => writePmb v s
  | _ =>
    if 0x800 ≤ off ∧ off < 0x900 then writeFab off v s
    else if 0x900 ≤ off ∧ off < 0xA00 then writeMap off v s
    else if 0xA00 ≤ off ∧ off < 0xB00 then writeShare off v s
    else if 0xC00 ≤ off ∧ off < 0xD00 then writeInteg off v s
    else s

/-- A write to a pavilion register of a VF. -/
def writeVf (f : Fn) (off : Nat) (v : W32) (s : State) : State :=
  match off with
  | 0x100 => writeCorpus f 0 v s
  | 0x104 => writeCorpus f 1 v s
  | 0x108 => writeCorpus f 2 v s
  | 0x110 => writeClip f v s
  | 0x150 => writeT2 f 0 v s
  | 0x154 => writeT2 f 1 v s
  | 0x158 => writeT2 f 2 v s
  | 0x15C => writeBar2Win f v s
  | _ => clearVf (pvOf f) off v s

/-- What an aligned write of BAR0 does (R271, R272). -/
def writeBar0 (f : Fn) (off : Nat) (v : W32) (s : State) : State :=
  if off < 0x1000 then (if f.val = 0 then writeNode off v s else writeVf f off v s)
  else if off < 0x1800 then writeRing f ((off - 0x1000) / 32) (off % 32 / 4) v s
  else if off < 0x1810 then writeEq f (off % 16 / 4) v s
  else if 0x2000 ≤ off ∧ off < 0x2400 then writeMsix f ((off - 0x2000) / 16) (off % 16 / 4) v s
  else if 0x4000 ≤ off ∧ off < 0x5000 then writeMbx f off v s
  else if 0x10000 ≤ off ∧ off < 0x50000 then
    if off % 0x1000 = 0 then doRingDb f ((off - 0x10000) / 0x1000) v s
    else if off % 0x1000 = 4 then doRingCqDb f ((off - 0x10000) / 0x1000) v s
    else s
  else if off = 0x50000 then doEqDb f v s
  else s

/-- A write of BAR0 at an offset (R272): a write that is not of 4 aligned bytes is dropped and reported under AER; nothing happens at a
function that is absent or in reset. -/
def doWrite (f : Fn) (off : Nat) (v : W32) (s : State) : State :=
  if !s.fnUp f then s
  else if off % 4 != 0 then emit (.aer f) s
  else writeBar0 f off v s

/-- R8, R272. -/
def execRegisterWrite (f : Fn) (off : Nat) (v : W32) (s : State) : Host.Outcome State Fault Refusal := .next (doWrite f off v s)
/-- R52. -/
def execHfnLoRead (f : Fn) (off : Nat) (s : State) : Host.Outcome State Fault Refusal := .next (doBarRead f off s)
/-- R109. -/
def execPermitCapWrite (v : W32) (s : State) : Host.Outcome State Fault Refusal := .next (writePermit v s)
/-- R109. -/
def execScanCfgWrite (v : W32) (s : State) : Host.Outcome State Fault Refusal := .next (writeScan v s)
/-- R135. -/
def execRerankCfgWrite (v : W32) (s : State) : Host.Outcome State Fault Refusal := .next (writeRerank v s)
/-- R398. -/
def execShareRegWrite (off : Nat) (v : W32) (s : State) : Host.Outcome State Fault Refusal := .next (writeShare off v s)

end Sys2Proof.Machine
end

