-- ==== Sys2Proof/Machine/Tick.lean ====
section
/-! DEFINITION. The frame boundary and the slot boundary (R43, R49). -/

namespace Sys2Proof.Machine

/-! ## The frame boundary -/

/-- Registers that take effect at a frame boundary (R109, R135, R199, R455). -/
def regsFrame (s : State) : State :=
  { s with scan := { s.scan with scanEff := s.scan.scanCfg, rerankEff := s.scan.rerankCfg }
           upd := { s.upd with cfgEff := s.upd.cfg, mergeEff := s.upd.mergeCfg }
           integ := s.integ.apply }

/-- The share registers, and the shares that they and the map give (R49 step 5, R383, R397, R398). -/
def sharesFrame (s : State) : State :=
  let s := noteUse s
  reloadShares (modQos (fun x => { x with weightEff := x.weight, flashEff := x.flash, mergeEff := x.merge, quotaEff := x.quota }) s)

/-- One more frame on the channels' timers and on the Lodge's count of silence (R401, R416, R424). -/
def timersFrame (s : State) : State :=
  let age (c : Chan) : Chan := if c.full then { c with timer := c.timer + 1 } else c
  { s with chans := s.chans.map age
           rx := if s.rx.full then { s.rx with timer := s.rx.timer + 1 } else s.rx
           lodge := if s.live then { s.lodge with hbAge := s.lodge.hbAge + 1 } else s.lodge }

/-- The admission log keeps the last REJOIN_LIM × 50,000 frames (R374). -/
def logFrame (s : State) : State :=
  let keep := fld s.comp.mapEff 31 24 * 50000
  { s with comp := { s.comp with admLog := s.comp.admLog.filter fun a => decide (s.hfn ≤ a.ver + keep) } }

/-- The end of a frame (R43, R49, R503): `off` and `choice` are the servo's estimate and its choice of a step. Scan batches are formed, and
take their view (R84, R85). Slot 0 opens with the next slot boundary, after what this instant publishes or switches: a batch whose view
boundary it is does not see that (R62, R182, R192, R359). -/
def doFrame (off choice : Int) (s : State) : State :=
  if s.phase.up && s.clk.slot == some 15 then
    let f := s.hfn
    let s := tickClock off s
    let s := commitFrame f s
    let s := regsFrame s
    let s := alignFrame choice s
    let s := if s.live then bistFrame (swapFrame s) else s
    let s := sharesFrame s
    let s := if s.live then keeperAssign s else s
    let s := pfailFrame (flashFrame (tierFrame s))
    let s := (List.range 48).foldl stepFrame s
    let s := fabFrame (keeperFrame (sendMarks f s))
    let s := logFrame (timersFrame (statsFrame s))
    if s.live && !s.flushing then scanFrame s else s
  else s

/-! ## The slot boundary -/

/-- One more slot boundary on the interrupt delays (R289). -/
def Ring.slot (r : Ring) : Ring := { r with modT := r.modT.map (· + 1) }
def EvRing.slot (e : EvRing) : EvRing := { e with modT := e.modT.map (· + 1) }
def FnState.slot (x : FnState) : FnState := { x with rings := x.rings.map Ring.slot, eq := x.eq.slot }

/-- Slot 0 opens (R49 step 7): the registers of R200 show the boundary's values (R201). -/
def openFrame (s : State) : State := clearRetries { s with corpora := s.corpora.map Corpus.show }

/-- Every sensor and every unit's power (R28, R469). -/
def sampleAll (x : SlotIn) (s : State) : State := (x.units.zipIdx.take 48).foldl (fun s u => sampleUnit u.2 u.1.1 u.1.2 s) s

/-- The ports go down as the package enters flush mode (R463). -/
def portsDown (s : State) : State :=
  (List.range 20).foldl (fun s i => settlePort i (modPort i (fun p => { p with lanes := [false, false, false, false] }) s)) s

/-- Flush mode begins at a slot boundary (R261). -/
def flushSlot (s : State) : State :=
  let t := flushStart s
  if s.pwr.flush.isNone && t.pwr.flush.isSome then portsDown t else t

/-- What engines, banks, the merge tree and the storage dies do in the slot (R49). -/
def workSlot (x : SlotIn) (s : State) : State :=
  if s.live && !s.flushing then
    let s := formAll (scanSlot x (integSlot x (memSlot x.mem s)))
    if s.flashUp then flashBatches (x.groups.foldl openGroup s) else s
  else s

/-- An uncorrectable error in Lodge SRAM: a reset of the firmware-fault kind (R401, R426). -/
def lodgeFault (x : Option BootIn) (s : State) : State :=
  match x with
  | some b => if s.lodgeUp && s.pwr.resetPending.isNone then firmwareDown b s else s
  | none => s

/-- A slot boundary. -/
def doSlot (x : SlotIn) (s : State) : State :=
  if s.phase.up && s.clk.slot != some 15 then
    let s := if s.clk.slot.isNone then openFrame s else s
    let s := { s with clk := { s.clk with slot := some (match s.clk.slot with | some k => k + 1 | none => 0) }
                      scan := { s.scan with permitEff := s.scan.permitCap }
                      fns := s.fns.map FnState.slot }
    let s := modPwr (capSlot x.pkgW) (sampleAll x s)
    let s := if s.clk.slot == some 0 then modPwr powerFrame s else s
    let s := (List.range 16).foldl (stackSample x) (modScan (fun y => { y with taUse := [], engUse := [] }) s)
    let s := flushSlot (x.retries.foldl noteRetries s)
    lodgeFault x.lodge (noteStalls (fabSlot (workSlot x s)))
  else s

/-- R49. -/
def execFrameBoundary (off choice : Int) (s : State) : Host.Outcome State Fault Refusal := .next (doFrame off choice s)
/-- R49. -/
def execSlotBoundary (x : SlotIn) (s : State) : Host.Outcome State Fault Refusal := .next (doSlot x s)

end Sys2Proof.Machine
end

