-- ==== Sys2Proof/Machine/Dispatch.lean ====
section
/-! DEFINITION. The dispatch of a command to its meaning: one arm per constructor. -/

namespace Sys2Proof.Machine

/-- The effect of a command on everything but the queue. -/
def exec (i : Instr) (s : State) : Host.Outcome State Fault Refusal :=
  match i with
  | .powerOn b => Sys2Proof.Machine.execPowerOn b s
  | .perstNAssert ns => Sys2Proof.Machine.execPerstNAssert ns s
  | .perstNRelease b => Sys2Proof.Machine.execPerstNRelease b s
  | .bootStepTimeout unit => Sys2Proof.Machine.execBootStepTimeout unit s
  | .groundsHeartbeat => Sys2Proof.Machine.execGroundsHeartbeat s
  | .groundsHeartbeatLost b => Sys2Proof.Machine.execGroundsHeartbeatLost b s
  | .ftlReplay a => Sys2Proof.Machine.execFtlReplay a s
  | .indexLoadDone pv => Sys2Proof.Machine.execIndexLoadDone pv s
  | .recoveryConfirmed pv => Sys2Proof.Machine.execRecoveryConfirmed pv s
  | .pfailNAssert ns seen => Sys2Proof.Machine.execPfailNAssert ns seen s
  | .pfailFlushDone b => Sys2Proof.Machine.execPfailFlushDone b s
  | .pfailNDeassert ns => Sys2Proof.Machine.execPfailNDeassert ns s
  | .pfailRegionRestored => Sys2Proof.Machine.execPfailRegionRestored s
  | .sysRefclkLoss => Sys2Proof.Machine.execSysRefclkLoss s
  | .pcieRefclkLoss => Sys2Proof.Machine.execPcieRefclkLoss s
  | .ethRefclkLoss ld => Sys2Proof.Machine.execEthRefclkLoss ld s
  | .ethRefclkReturn ld => Sys2Proof.Machine.execEthRefclkReturn ld s
  | .frameBoundary off choice => Sys2Proof.Machine.execFrameBoundary off choice s
  | .slotBoundary x => Sys2Proof.Machine.execSlotBoundary x s
  | .lateLeantoWithdraw pv id eid => Sys2Proof.Machine.execLateLeantoWithdraw pv id eid s
  | .refreshDoubleExit st => Sys2Proof.Machine.execRefreshDoubleExit st s
  | .diePowerThrottle x => Sys2Proof.Machine.execDiePowerThrottle x s
  | .ptpSample p => Sys2Proof.Machine.execPtpSample p s
  | .ppsEdge p => Sys2Proof.Machine.execPpsEdge p s
  | .alignLocked => Sys2Proof.Machine.execAlignLocked s
  | .alignHoldover => Sys2Proof.Machine.execAlignHoldover s
  | .holdoverLimit => Sys2Proof.Machine.execHoldoverLimit s
  | .ringDb f ring v => Sys2Proof.Machine.execRingDb f ring v s
  | .ringCqDb f ring v => Sys2Proof.Machine.execRingCqDb f ring v s
  | .eqDb f v => Sys2Proof.Machine.execEqDb f v s
  | .ringDisable f ring v => Sys2Proof.Machine.execRingDisable f ring v s
  | .ringEnable f ring v => Sys2Proof.Machine.execRingEnable f ring v s
  | .descriptorFetch f ring got => Sys2Proof.Machine.execDescriptorFetch f ring got s
  | .msixModTimer f ring => Sys2Proof.Machine.execMsixModTimer f ring s
  | .msixUnmask f vec => Sys2Proof.Machine.execMsixUnmask f vec s
  | .bar0BadAccess f write off len => Sys2Proof.Machine.execBar0BadAccess f write off len s
  | .bar2Read f off len => Sys2Proof.Machine.execBar2Read f off len s
  | .bar2Write f off data => Sys2Proof.Machine.execBar2Write f off data s
  | .bar2WaitExpiry f => Sys2Proof.Machine.execBar2WaitExpiry f s
  | .functionLevelReset pv => Sys2Proof.Machine.execFunctionLevelReset pv s
  | .pf0FunctionLevelReset => Sys2Proof.Machine.execPf0FunctionLevelReset s
  | .hotReset => Sys2Proof.Machine.execHotReset s
  | .vfEnableClear => Sys2Proof.Machine.execVfEnableClear s
  | .pavilionResetDone pv => Sys2Proof.Machine.execPavilionResetDone pv s
  | .registerWrite f off v => Sys2Proof.Machine.execRegisterWrite f off v s
  | .hfnLoRead f off => Sys2Proof.Machine.execHfnLoRead f off s
  | .frameCfgWrite v => Sys2Proof.Machine.execFrameCfgWrite v s
  | .corpusCfgWrite f reg v => Sys2Proof.Machine.execCorpusCfgWrite f reg v s
  | .permitCapWrite v => Sys2Proof.Machine.execPermitCapWrite v s
  | .scanCfgWrite v => Sys2Proof.Machine.execScanCfgWrite v s
  | .rerankCfgWrite v => Sys2Proof.Machine.execRerankCfgWrite v s
  | .clipLimitWrite f v => Sys2Proof.Machine.execClipLimitWrite f v s
  | .updCfgWrite v => Sys2Proof.Machine.execUpdCfgWrite v s
  | .mergeCfgWrite v => Sys2Proof.Machine.execMergeCfgWrite v s
  | .tierCfgWrite v => Sys2Proof.Machine.execTierCfgWrite v s
  | .t2WindowWrite f reg v => Sys2Proof.Machine.execT2WindowWrite f reg v s
  | .bar2WinWrite f v => Sys2Proof.Machine.execBar2WinWrite f v s
  | .flashCfgWrite reg v => Sys2Proof.Machine.execFlashCfgWrite reg v s
  | .ringConfigWrite f ring reg v => Sys2Proof.Machine.execRingConfigWrite f ring reg v s
  | .eqCtlWrite f reg v => Sys2Proof.Machine.execEqCtlWrite f reg v s
  | .fabricRegWrite off v => Sys2Proof.Machine.execFabricRegWrite off v s
  | .mapCfgWrite off v => Sys2Proof.Machine.execMapCfgWrite off v s
  | .rolePolicyWrite v => Sys2Proof.Machine.execRolePolicyWrite v s
  | .shareRegWrite off v => Sys2Proof.Machine.execShareRegWrite off v s
  | .integRegWrite off v => Sys2Proof.Machine.execIntegRegWrite off v s
  | .bistGo v => Sys2Proof.Machine.execBistGo v s
  | .pwrCapWrite therm v => Sys2Proof.Machine.execPwrCapWrite therm v s
  | .resetCtlWrite v => Sys2Proof.Machine.execResetCtlWrite v s
  | .hostNodeReset b => Sys2Proof.Machine.execHostNodeReset b s
  | .gpioWrite out v => Sys2Proof.Machine.execGpioWrite out v s
  | .pmbCfgWrite v => Sys2Proof.Machine.execPmbCfgWrite v s
  | .mbxDataLoWrite c v => Sys2Proof.Machine.execMbxDataLoWrite c v s
  | .mbxPost c v => Sys2Proof.Machine.execMbxPost c v s
  | .mbxCtlWrite c v => Sys2Proof.Machine.execMbxCtlWrite c v s
  | .mbxAck v => Sys2Proof.Machine.execMbxAck v s
  | .mbxTimeout c => Sys2Proof.Machine.execMbxTimeout c s
  | .lodgeMsgTimeout => Sys2Proof.Machine.execLodgeMsgTimeout s
  | .search wid recs => Sys2Proof.Machine.execSearch wid recs s
  | .searchBatch wid recs => Sys2Proof.Machine.execSearchBatch wid recs s
  | .queryAdmission wid => Sys2Proof.Machine.execQueryAdmission wid s
  | .queryEncode x => Sys2Proof.Machine.execQueryEncode x s
  | .tileClaim batch tile die => Sys2Proof.Machine.execTileClaim batch tile die s
  | .steal die eng vdie veng => Sys2Proof.Machine.execSteal die eng vdie veng s
  | .hitCompaction hit => Sys2Proof.Machine.execHitCompaction hit s
  | .laneDrain batch qid die => Sys2Proof.Machine.execLaneDrain batch qid die s
  | .vectorRecordArrival qid cand ok => Sys2Proof.Machine.execVectorRecordArrival qid cand ok s
  | .fetchWaitExpiry qid => Sys2Proof.Machine.execFetchWaitExpiry qid s
  | .rerankBlock qid idxs die ta => Sys2Proof.Machine.execRerankBlock qid idxs die ta s
  | .tensorSteal qid die ta vdie vta => Sys2Proof.Machine.execTensorSteal qid die ta vdie vta s
  | .nodeTopk qid t2ok => Sys2Proof.Machine.execNodeTopk qid t2ok s
  | .payloadWaitExpiry qid => Sys2Proof.Machine.execPayloadWaitExpiry qid s
  | .finalMerge qid => Sys2Proof.Machine.execFinalMerge qid s
  | .heldQueryLagging => Sys2Proof.Machine.execHeldQueryLagging s
  | .partialWaitExpiry qid => Sys2Proof.Machine.execPartialWaitExpiry qid s
  | .upsertBatch wid recs => Sys2Proof.Machine.execUpsertBatch wid recs s
  | .deleteBatch wid eids => Sys2Proof.Machine.execDeleteBatch wid eids s
  | .seqWaitRelease id => Sys2Proof.Machine.execSeqWaitRelease id s
  | .updateAdmission id => Sys2Proof.Machine.execUpdateAdmission id s
  | .prepWaitExpiry id => Sys2Proof.Machine.execPrepWaitExpiry id s
  | .stagedDiscard id => Sys2Proof.Machine.execStagedDiscard id s
  | .updateAckTimeout id => Sys2Proof.Machine.execUpdateAckTimeout id s
  | .modelLoad wid hdr img => Sys2Proof.Machine.execModelLoad wid hdr img s
  | .modelLoadComplete wid => Sys2Proof.Machine.execModelLoadComplete wid s
  | .epochCutover wid digest => Sys2Proof.Machine.execEpochCutover wid digest s
  | .cutoverDeadline pv => Sys2Proof.Machine.execCutoverDeadline pv s
  | .epochSwitch pv => Sys2Proof.Machine.execEpochSwitch pv s
  | .epochRetireFree pv => Sys2Proof.Machine.execEpochRetireFree pv s
  | .resketch wid => Sys2Proof.Machine.execResketch wid s
  | .resketchComplete pv => Sys2Proof.Machine.execResketchComplete pv s
  | .mergePass wid => Sys2Proof.Machine.execMergePass wid s
  | .mergePassStart pv x => Sys2Proof.Machine.execMergePassStart pv x s
  | .mergePublish pv => Sys2Proof.Machine.execMergePublish pv s
  | .leantoReuse pv => Sys2Proof.Machine.execLeantoReuse pv s
  | .indexCheckpointCommit pv => Sys2Proof.Machine.execIndexCheckpointCommit pv s
  | .tierMigrate wid => Sys2Proof.Machine.execTierMigrate wid s
  | .tierPin wid => Sys2Proof.Machine.execTierPin wid s
  | .tierUnpin wid => Sys2Proof.Machine.execTierUnpin wid s
  | .tierFlush wid => Sys2Proof.Machine.execTierFlush wid s
  | .autoPromote pv page => Sys2Proof.Machine.execAutoPromote pv page s
  | .policyDemote pv page => Sys2Proof.Machine.execPolicyDemote pv page s
  | .pagePromoteDone pv page ok => Sys2Proof.Machine.execPagePromoteDone pv page ok s
  | .demoteSwitch pv page => Sys2Proof.Machine.execDemoteSwitch pv page s
  | .walledScrub x => Sys2Proof.Machine.execWalledScrub x s
  | .ghStepQuiesce st sl grow => Sys2Proof.Machine.execGhStepQuiesce st sl grow s
  | .ghStepApply st sl => Sys2Proof.Machine.execGhStepApply st sl s
  | .statsRead wid => Sys2Proof.Machine.execStatsRead wid s
  | .fabricCopy wid data => Sys2Proof.Machine.execFabricCopy wid data s
  | .flashReadComplete r => Sys2Proof.Machine.execFlashReadComplete r s
  | .programComplete gseq stripe pos => Sys2Proof.Machine.execProgramComplete gseq stripe pos s
  | .writeGroupCommit gseq => Sys2Proof.Machine.execWriteGroupCommit gseq s
  | .programFailGc gseq block fresh die => Sys2Proof.Machine.execProgramFailGc gseq block fresh die s
  | .programFailUpdate gseq block fresh die => Sys2Proof.Machine.execProgramFailUpdate gseq block fresh die s
  | .eraseFail block => Sys2Proof.Machine.execEraseFail block s
  | .dieRetire die => Sys2Proof.Machine.execDieRetire die s
  | .gcStart block => Sys2Proof.Machine.execGcStart block s
  | .sourceErase block => Sys2Proof.Machine.execSourceErase block s
  | .mapCheckpointStart => Sys2Proof.Machine.execMapCheckpointStart s
  | .rootRecordCommit => Sys2Proof.Machine.execRootRecordCommit s
  | .blockAgeClose block => Sys2Proof.Machine.execBlockAgeClose block s
  | .flashTempPoll temps due => Sys2Proof.Machine.execFlashTempPoll temps due s
  | .retryRiseWindow => Sys2Proof.Machine.execRetryRiseWindow s
  | .quantWindowEnd => Sys2Proof.Machine.execQuantWindowEnd s
  | .jfpPacketReceive port x => Sys2Proof.Machine.execJfpPacketReceive port x s
  | .ackonly src cls idx ack ce => Sys2Proof.Machine.execAckonly src cls idx ack ce s
  | .jfpRto dst cls idx => Sys2Proof.Machine.execJfpRto dst cls idx s
  | .bundle m => Sys2Proof.Machine.execBundle m s
  | .read m => Sys2Proof.Machine.execRead m s
  | .write m => Sys2Proof.Machine.execWrite m s
  | .fetchAdd m => Sys2Proof.Machine.execFetchAdd m s
  | .compareSwap m => Sys2Proof.Machine.execCompareSwap m s
  | .resp m => Sys2Proof.Machine.execResp m s
  | .requestHoldTimeout => Sys2Proof.Machine.execRequestHoldTimeout s
  | .fanout m => Sys2Proof.Machine.execFanout m s
  | .partialList m => Sys2Proof.Machine.execPartialList m s
  | .preElem m => Sys2Proof.Machine.execPreElem m s
  | .preEid m => Sys2Proof.Machine.execPreEid m s
  | .preAck m => Sys2Proof.Machine.execPreAck m s
  | .frameMark m => Sys2Proof.Machine.execFrameMark m s
  | .commitAck m => Sys2Proof.Machine.execCommitAck m s
  | .rdmaRead qpn rkey va len psn ce => Sys2Proof.Machine.execRdmaRead qpn rkey va len psn ce s
  | .rdmaWrite qpn rkey va data psn ce => Sys2Proof.Machine.execRdmaWrite qpn rkey va data psn ce s
  | .roceInvalidRequest qpn access => Sys2Proof.Machine.execRoceInvalidRequest qpn access s
  | .cnp qpn => Sys2Proof.Machine.execCnp qpn s
  | .pfcFrame port prio on => Sys2Proof.Machine.execPfcFrame port prio on s
  | .pfcWatchdog port prio => Sys2Proof.Machine.execPfcWatchdog port prio s
  | .mkpdu port sub body => Sys2Proof.Machine.execMkpdu port sub body s
  | .arpNd port addr => Sys2Proof.Machine.execArpNd port addr s
  | .laserInputLow port input => Sys2Proof.Machine.execLaserInputLow port input s
  | .portBerDegraded port => Sys2Proof.Machine.execPortBerDegraded port s
  | .append src term prevIdx prevTerm ents => Sys2Proof.Machine.execAppend src term prevIdx prevTerm ents s
  | .appendAck src term idx => Sys2Proof.Machine.execAppendAck src term idx s
  | .heartbeat src term commit => Sys2Proof.Machine.execHeartbeat src term commit s
  | .voteReq src term lastIdx lastTerm => Sys2Proof.Machine.execVoteReq src term lastIdx lastTerm s
  | .vote src term granted => Sys2Proof.Machine.execVote src term granted s
  | .propose src id e => Sys2Proof.Machine.execPropose src id e s
  | .proposeResult src id result epoch => Sys2Proof.Machine.execProposeResult src id result epoch s
  | .entries src first es => Sys2Proof.Machine.execEntries src first es s
  | .fetch src first => Sys2Proof.Machine.execFetch src first s
  | .handoff src tok snap elements vs sumOk => Sys2Proof.Machine.execHandoff src tok snap elements vs sumOk s
  | .handoffAck src tok result => Sys2Proof.Machine.execHandoffAck src tok result s
  | .moveDone src tok => Sys2Proof.Machine.execMoveDone src tok s
  | .holdClaim src tok => Sys2Proof.Machine.execHoldClaim src tok s
  | .statePull src tok off => Sys2Proof.Machine.execStatePull src tok off s
  | .rsDone src pv epoch sent vs => Sys2Proof.Machine.execRsDone src pv epoch sent vs s
  | .cutQuery src pv epoch digest => Sys2Proof.Machine.execCutQuery src pv epoch digest s
  | .cutReady src pv epoch ready => Sys2Proof.Machine.execCutReady src pv epoch ready s
  | .mapEntryActivation => Sys2Proof.Machine.execMapEntryActivation s
  | .electionTimeout => Sys2Proof.Machine.execElectionTimeout s
  | .entryAbandon => Sys2Proof.Machine.execEntryAbandon s
  | .noQuorum => Sys2Proof.Machine.execNoQuorum s
  | .moveTransferStart pv plot => Sys2Proof.Machine.execMoveTransferStart pv plot s
  | .handoffResend pv plot => Sys2Proof.Machine.execHandoffResend pv plot s
  | .moveStateFree pv plot => Sys2Proof.Machine.execMoveStateFree pv plot s
  | .suspendReport node => Sys2Proof.Machine.execSuspendReport node s
  | .resume => Sys2Proof.Machine.execResume s
  | .catchUpDone pv vs adm => Sys2Proof.Machine.execCatchUpDone pv vs adm s
  | .rejoinLimit node => Sys2Proof.Machine.execRejoinLimit node s
  | .joinCheck originOk digestsOk => Sys2Proof.Machine.execJoinCheck originOk digestsOk s
  | .roleCheck short => Sys2Proof.Machine.execRoleCheck short s
  | .attest blk => Sys2Proof.Machine.execAttest blk s
  | .identity blk => Sys2Proof.Machine.execIdentity blk s
  | .logRead blk => Sys2Proof.Machine.execLogRead blk s
  | .imageStage blk img fin => Sys2Proof.Machine.execImageStage blk img fin s
  | .rollbackCommit => Sys2Proof.Machine.execRollbackCommit s
  | .lcNonce blk => Sys2Proof.Machine.execLcNonce blk s
  | .lcAdvance blk sigOk => Sys2Proof.Machine.execLcAdvance blk sigOk s
  | .pvErase => Sys2Proof.Machine.execPvErase s
  | .cakSet blk => Sys2Proof.Machine.execCakSet blk s
  | .slices blk => Sys2Proof.Machine.execSlices blk s
  | .plotAssign blk => Sys2Proof.Machine.execPlotAssign blk s
  | .moveBegin blk => Sys2Proof.Machine.execMoveBegin blk s
  | .memberAdd blk => Sys2Proof.Machine.execMemberAdd blk s
  | .drain blk => Sys2Proof.Machine.execDrain blk s
  | .role blk => Sys2Proof.Machine.execRole blk s
  | .keepers blk => Sys2Proof.Machine.execKeepers blk s
  | .winExport pv blk => Sys2Proof.Machine.execWinExport pv blk s
  | .winUnexport pv => Sys2Proof.Machine.execWinUnexport pv s
  | .qpCreate pv blk => Sys2Proof.Machine.execQpCreate pv blk s
  | .qpDestroy pv => Sys2Proof.Machine.execQpDestroy pv s
  | .keyInstall pv => Sys2Proof.Machine.execKeyInstall pv s
  | .sakDerive port sub icv => Sys2Proof.Machine.execSakDerive port sub icv s
  | .bistRequest ctl => Sys2Proof.Machine.execBistRequest ctl s
  | .firewallViolation write => Sys2Proof.Machine.execFirewallViolation write s
  | .shadowExecution id die phys prim shad bounds pos => Sys2Proof.Machine.execShadowExecution id die phys prim shad bounds pos s
  | .arbitration id die phys vals bounds pos => Sys2Proof.Machine.execArbitration id die phys vals bounds pos s
  | .shadowWaitExpiry id => Sys2Proof.Machine.execShadowWaitExpiry id s
  | .suspectHalving => Sys2Proof.Machine.execSuspectHalving s
  | .sketchScrub pv epoch tile same u1 u2 => Sys2Proof.Machine.execSketchScrub pv epoch tile same u1 u2 s
  | .tileRepair pv epoch tile => Sys2Proof.Machine.execTileRepair pv epoch tile s
  | .stragglerWindow rates => Sys2Proof.Machine.execStragglerWindow rates s
  | .bistRunDone sig fail cov => Sys2Proof.Machine.execBistRunDone sig fail cov s
  | .promenadeRetrain conn modul items qids works => Sys2Proof.Machine.execPromenadeRetrain conn modul items qids works s
  | .thermalStepDown unit => Sys2Proof.Machine.execThermalStepDown unit s
  | .thermalTrip unit => Sys2Proof.Machine.execThermalTrip unit s
  | .sensorStuck unit sensor => Sys2Proof.Machine.execSensorStuck unit sensor s
  | .pmbusPoll regs => Sys2Proof.Machine.execPmbusPoll regs s
  | .pmbAlert => Sys2Proof.Machine.execPmbAlert s
  | .smbReadMaxLogic => Sys2Proof.Machine.execSmbReadMaxLogic s
  | .smbReadMaxStack => Sys2Proof.Machine.execSmbReadMaxStack s
  | .smbReadStatus => Sys2Proof.Machine.execSmbReadStatus s
  | .setEndpointId eid => Sys2Proof.Machine.execSetEndpointId eid s
  | .getEndpointId => Sys2Proof.Machine.execGetEndpointId s
  | .getMctpVersionSupport mtype => Sys2Proof.Machine.execGetMctpVersionSupport mtype s
  | .getMessageTypeSupport => Sys2Proof.Machine.execGetMessageTypeSupport s
  | .pldmRequest q => Sys2Proof.Machine.execPldmRequest q s
  | .uartRx port b goodStop => Sys2Proof.Machine.execUartRx port b goodStop s
  | .jtagAccess what => Sys2Proof.Machine.execJtagAccess what s
  | .powerLoss => Sys2Proof.Machine.execPowerLoss s
  | .eraseComplete block => Sys2Proof.Machine.execEraseComplete block s
  | .linkUp port mask => Sys2Proof.Machine.execLinkUp port mask s
  | .linkDown port mask => Sys2Proof.Machine.execLinkDown port mask s
  | .announce port quality => Sys2Proof.Machine.execAnnounce port quality s
  | .vfEnableSet n => Sys2Proof.Machine.execVfEnableSet n s
  | .devicePowerStateWrite f d3 => Sys2Proof.Machine.execDevicePowerStateWrite f d3 s
  | .moduleRetrainDone conn modul => Sys2Proof.Machine.execModuleRetrainDone conn modul s

end Sys2Proof.Machine
end

