-- ==== Sys2Proof/Safety.lean ====
section
/-! DEFINITION. What holds in every state that the block can be in: the slot in progress is one of the sixteen, and every configuration
register, as written and as in force, lies within its ranges with its reserved bits 0 (R7, R34, R51, R109, R135, R199, R231, R267, R353,
R380, R455, R475, R497). -/

namespace Sys2Proof.Machine

/-- A value whose bits outside a mask are 0: reserved bits read 0 (R7). -/
def onlyBits (v mask : W32) : Bool := v &&& ~~~mask == 0#32

/-- FRAME_CFG (R50, R51). -/
def legalFrameCfg (v : W32) : Bool :=
  onlyBits v 0x0000_0FFF#32 && fld v 1 0 != 3 && fld v 7 4 != 0 && inRange 4 (fld v 11 8) 13
/-- PERMIT_CAP (R108, R109). -/
def legalPermitCap (v : W32) : Bool := onlyBits v 0x003F_011F#32 && decide (fld v 4 0 ≤ 16) && inRange 24 (fld v 21 16) 36
/-- SCAN_CFG (R108, R109). -/
def legalScanCfg (v : W32) : Bool := onlyBits v 0x0000_FF07#32 && decide (2 ≤ fld v 15 8)
/-- RERANK_CFG (R134, R135). -/
def legalRerankCfg (v : W32) : Bool := onlyBits v 0x0001_03FF#32 && inRange 8 (fld v 9 0) 1000
/-- UPD_CFG (R198, R199). -/
def legalUpdCfg (v : W32) : Bool :=
  onlyBits v 0xFFFF_03FF#32 && inRange 16 (fld v 9 0) 1000 && decide (1 ≤ fld v 23 16) && inRange 1 (fld v 31 24) 60
/-- MERGE_CFG (R198, R199). -/
def legalMergeCfg (v : W32) : Bool := onlyBits v 0xFFFF_01FF#32 && decide (1 ≤ fld v 7 0) && decide (1 ≤ fld v 31 16)
/-- TIER_CFG (R229, R231). -/
def legalTierCfg (v : W32) : Bool :=
  onlyBits v 0xFFFF_FF03#32 && decide (1 ≤ fld v 15 8) && decide (1 ≤ fld v 23 16) && inRange 1 (fld v 31 24) 168
/-- FLASH_CFG and FLASH_WARN (R266, R267). -/
def legalFlashCfg (v : W32) : Bool :=
  onlyBits v 0x00FF_FF7F#32 && decide (1 ≤ fld v 4 0) && inRange 7 (fld v 15 8) 50 && decide (1 ≤ fld v 23 16)
def legalFlashWarn (v : W32) : Bool := decide (1 ≤ fld v 7 0) && decide (1 ≤ fld v 23 8) && decide (1 ≤ fld v 31 24)
/-- JFP_CFG and PTP_CFG (R352, R353). -/
def legalJfpCfg (v : W32) : Bool :=
  onlyBits v 0xFFF7_FFFF#32 && inRange 1024 (fld v 15 0) 65535 && fld v 15 0 != 4791 && decide (2 ≤ fld v 27 20) && decide (1 ≤ fld v 31 28)
def legalPtpCfg (v : W32) : Bool := onlyBits v 0x0000_03FF#32 && decide (fld v 7 0 ≤ 127) && fld v 9 8 != 3
/-- MAP_CFG and MOVE_CFG (R379, R380). -/
def legalMapCfg (v : W32) : Bool :=
  onlyBits v 0xFFFF_FF01#32 && inRange 50 (fld v 15 8) 200 && decide (1 ≤ fld v 23 16) && decide (1 ≤ fld v 31 24)
def legalMoveCfg (v : W32) : Bool := onlyBits v 0x0000_FFFF#32 && decide (1 ≤ fld v 7 0) && inRange 1 (fld v 15 8) 64
/-- KEEPER_CFG, SHADOW_RATE, SUSPECT_CFG, SPARE_CFG (R454, R455). -/
def legalKeeperCfg (v : W32) : Bool := onlyBits v 0x00FF_FF03#32 && decide (1 ≤ fld v 15 8) && inRange 1 (fld v 23 16) 168
def legalShadowRate (v : W32) : Bool := onlyBits v 0x0000_FF3F#32 && inRange 1 (fld v 4 0) 20 && decide (1 ≤ fld v 15 8)
def legalSuspectCfg (v : W32) : Bool := onlyBits v 0x00FF_FFFF#32 && decide (1 ≤ fld v 15 0) && decide (1 ≤ fld v 23 16)
def legalSpareCfg (v : W32) : Bool := onlyBits v 0x0000_FF07#32 && decide (110 ≤ fld v 15 8)
/-- PWR_CAP and THERM_CFG (R474, R475). -/
def legalPwrCap (v : W32) : Bool := onlyBits v 0x000F_F7FF#32 && inRange 400 (fld v 10 0) 1500 && decide (1 ≤ fld v 19 12)
def legalThermCfg (v : W32) : Bool := onlyBits v 0x0000_FFFF#32 && inRange 85 (fld v 7 0) 105 && inRange 86 (fld v 15 8) 92
/-- PMB_CFG (R496, R497). -/
def legalPmbCfg (v : W32) : Bool :=
  onlyBits v 0x0000_0F7F#32 && inRange 0x08 (fld v 6 0) 0x77 && decide (fld v 11 8 ≤ 8) && decide (fld v 6 0 + fld v 11 8 ≤ 0x78)

/-- What the invariant speaks of: the slot, and the configuration registers, each as written and as in force. -/
structure Words where
  slot : Option Nat
  frame : W32 × W32
  permit : W32 × W32
  scan : W32 × W32
  rerank : W32 × W32
  upd : W32 × W32
  merge : W32 × W32
  tier : W32 × W32
  flash : W32 × W32
  warn : W32 × W32
  jfp : W32 × W32
  ptp : W32 × W32
  map : W32 × W32
  move : W32 × W32
  keeper : W32 × W32
  shadow : W32 × W32
  suspect : W32 × W32
  spare : W32 × W32
  pwr : W32 × W32
  therm : W32 × W32
  pmb : W32
  deriving DecidableEq, Repr

/-- The words of a state. -/
def State.words (s : State) : Words where
  slot := s.clk.slot
  frame := (s.clk.cfg, s.clk.eff)
  permit := (s.scan.permitCap, s.scan.permitEff)
  scan := (s.scan.scanCfg, s.scan.scanEff)
  rerank := (s.scan.rerankCfg, s.scan.rerankEff)
  upd := (s.upd.cfg, s.upd.cfgEff)
  merge := (s.upd.mergeCfg, s.upd.mergeEff)
  tier := (s.tier.cfg, s.tier.cfgEff)
  flash := (s.flash.cfg, s.flash.cfgEff)
  warn := (s.flash.warn, s.flash.warnEff)
  jfp := (s.fab.jfpCfg, s.fab.jfpEff)
  ptp := (s.fab.ptpCfg, s.fab.ptpEff)
  map := (s.comp.mapCfg, s.comp.mapEff)
  move := (s.comp.moveCfg, s.comp.moveEff)
  keeper := (s.integ.keeperCfg, s.integ.keeperEff)
  shadow := (s.integ.shadowRate, s.integ.shadowEff)
  suspect := (s.integ.suspectCfg, s.integ.suspectEff)
  spare := (s.integ.spareCfg, s.integ.spareEff)
  pwr := (s.pwr.cap, s.pwr.capEff)
  therm := (s.pwr.thermCfg, s.pwr.thermEff)
  pmb := s.side.pmbCfg

/-- Both values of a register are legal. -/
def both (ok : W32 → Bool) (x : W32 × W32) : Bool := ok x.1 && ok x.2

/-- Every word is legal, and the slot is one of 0 to 15 (R34). -/
structure Words.Legal (x : Words) : Prop where
  slot : ∀ k, x.slot = some k → k < 16
  frame : both legalFrameCfg x.frame
  permit : both legalPermitCap x.permit
  scan : both legalScanCfg x.scan
  rerank : both legalRerankCfg x.rerank
  upd : both legalUpdCfg x.upd
  merge : both legalMergeCfg x.merge
  tier : both legalTierCfg x.tier
  flash : both legalFlashCfg x.flash
  warn : both legalFlashWarn x.warn
  jfp : both legalJfpCfg x.jfp
  ptp : both legalPtpCfg x.ptp
  map : both legalMapCfg x.map
  move : both legalMoveCfg x.move
  keeper : both legalKeeperCfg x.keeper
  shadow : both legalShadowRate x.shadow
  suspect : both legalSuspectCfg x.suspect
  spare : both legalSpareCfg x.spare
  pwr : both legalPwrCap x.pwr
  therm : both legalThermCfg x.therm
  pmb : legalPmbCfg x.pmb

/-- The invariant of the block. -/
def State.Legal (s : State) : Prop := s.words.Legal

/-! ## Frames: the areas of the state, and what a command leaves alone -/

/-- The areas of the state: one per field, and the words that the invariant speaks of, which several fields hold. -/
inductive Area where
  | pending | free | nextId | out | phase | fns | works | clk | dies | lds | scs | sts | mods | lodge | chans | rx | pwr | side
  | stats | pvStats | corpora | ranges | tier | upd | scan | flash | fab | comp | qos | integ | words
  deriving DecidableEq, Repr

/-- An area holds in `t` what it holds in `s`. -/
def Area.same (p : Area) (s t : State) : Prop :=
  match p with
  | .pending => t.pending = s.pending | .free => t.free = s.free | .nextId => t.nextId = s.nextId | .out => t.out = s.out
  | .phase => t.phase = s.phase | .fns => t.fns = s.fns | .works => t.works = s.works | .clk => t.clk = s.clk
  | .dies => t.dies = s.dies | .lds => t.lds = s.lds | .scs => t.scs = s.scs | .sts => t.sts = s.sts | .mods => t.mods = s.mods
  | .lodge => t.lodge = s.lodge | .chans => t.chans = s.chans | .rx => t.rx = s.rx | .pwr => t.pwr = s.pwr
  | .side => t.side = s.side | .stats => t.stats = s.stats | .pvStats => t.pvStats = s.pvStats
  | .corpora => t.corpora = s.corpora | .ranges => t.ranges = s.ranges | .tier => t.tier = s.tier | .upd => t.upd = s.upd
  | .scan => t.scan = s.scan | .flash => t.flash = s.flash | .fab => t.fab = s.fab | .comp => t.comp = s.comp
  | .qos => t.qos = s.qos | .integ => t.integ = s.integ | .words => t.words = s.words

/-- Every area but those listed holds in `t` what it holds in `s`. -/
structure Keeps (ps : List Area) (s t : State) : Prop where
  same : ∀ p : Area, ps.contains p = false → p.same s t

/-! ## What each command may change -/

/-- The areas that a command may change: every other area is the same in the state that it answers. A node reset writes every area, and
keeps the queue. -/
def touches (c : Instr) : List Area :=
  match c with
  | .powerOn .. | .perstNAssert .. | .groundsHeartbeatLost .. | .pfailFlushDone .. | .sysRefclkLoss | .slotBoundary ..
  | .hostNodeReset .. | .thermalTrip .. | .powerLoss =>
    [.free, .nextId, .out, .phase, .fns, .works, .clk, .dies, .lds, .scs, .sts, .mods, .lodge, .chans, .rx, .pwr, .side, .stats,
     .pvStats, .corpora, .ranges, .tier, .upd, .scan, .flash, .fab, .comp, .qos, .integ, .words]
  | .perstNRelease .. => [.out, .phase, .fns, .dies, .lds, .scs, .sts, .lodge, .rx, .side, .scan]
  | .bootStepTimeout .. => [.out, .phase, .fns, .lodge, .rx]
  | .groundsHeartbeat => [.phase, .lodge]
  | .ftlReplay .. | .flashTempPoll .. | .retryRiseWindow => [.out, .fns, .flash]
  | .indexLoadDone .. | .mergePublish .. => [.corpora, .scan]
  | .recoveryConfirmed .. | .corpusCfgWrite .. | .clipLimitWrite .. | .epochRetireFree .. | .leantoReuse .. => [.corpora]
  | .pfailNAssert .. | .pfailNDeassert .. | .diePowerThrottle .. | .resetCtlWrite .. => [.pwr]
  | .pfailRegionRestored | .mapCheckpointStart | .rootRecordCommit | .blockAgeClose .. => [.flash]
  | .pcieRefclkLoss | .hotReset =>
    [.out, .fns, .works, .chans, .rx, .side, .stats, .pvStats, .corpora, .ranges, .upd, .scan, .fab, .comp, .qos]
  | .ethRefclkLoss .. => [.out, .fns, .side, .fab]
  | .ethRefclkReturn .. | .gpioWrite .. | .pmbusPoll .. | .pmbAlert => [.side]
  | .frameBoundary .. =>
    [.free, .nextId, .out, .phase, .fns, .works, .clk, .dies, .lodge, .chans, .rx, .pwr, .stats, .pvStats, .corpora, .ranges, .tier,
     .upd, .scan, .flash, .fab, .comp, .qos, .integ, .words]
  | .lateLeantoWithdraw .. => [.clk, .stats, .pvStats, .corpora, .upd]
  | .refreshDoubleExit .. => [.out, .fns, .pwr, .scan]
  | .ptpSample .. | .ppsEdge .. | .alignLocked | .alignHoldover | .holdoverLimit => [.clk]
  | .ringDb .. | .ringCqDb .. | .eqDb .. | .msixModTimer .. | .msixUnmask .. => [.out, .fns]
  | .ringDisable .. | .ringEnable .. | .ringConfigWrite .. | .eqCtlWrite .. | .vfEnableSet .. | .devicePowerStateWrite .. => [.fns]
  | .descriptorFetch .. => [.nextId, .out, .fns, .works, .stats, .pvStats, .qos]
  | .bar0BadAccess .. | .mkpdu .. | .arpNd .. | .smbReadMaxLogic | .smbReadMaxStack | .smbReadStatus | .getEndpointId
  | .getMctpVersionSupport .. | .getMessageTypeSupport | .uartRx .. | .jtagAccess .. => [.out]
  | .bar2Read .. | .bar2Write .. | .autoPromote .. | .policyDemote .. | .ghStepQuiesce .. =>
    [.nextId, .out, .fns, .stats, .pvStats, .ranges, .tier, .scan, .flash, .qos]
  | .bar2WaitExpiry .. => [.out, .fns, .tier]
  | .functionLevelReset .. | .vfEnableClear =>
    [.out, .fns, .works, .chans, .stats, .pvStats, .corpora, .ranges, .upd, .scan, .fab, .comp, .qos]
  | .pf0FunctionLevelReset => [.fns, .works, .chans, .rx, .fab, .comp]
  | .pavilionResetDone .. | .shareRegWrite .. => [.qos]
  | .registerWrite .. =>
    [.out, .fns, .works, .clk, .lodge, .chans, .rx, .pwr, .side, .corpora, .ranges, .tier, .upd, .scan, .flash, .fab, .comp, .qos,
     .integ, .words]
  | .hfnLoRead .. => [.free, .out, .fns, .side]
  | .frameCfgWrite .. => [.clk, .words]
  | .permitCapWrite .. | .scanCfgWrite .. | .rerankCfgWrite .. => [.scan, .words]
  | .updCfgWrite .. | .mergeCfgWrite .. => [.upd, .words]
  | .tierCfgWrite .. => [.tier, .words]
  | .t2WindowWrite .. => [.ranges]
  | .bar2WinWrite .. => [.fns, .ranges]
  | .flashCfgWrite .. => [.flash, .words]
  | .fabricRegWrite .. => [.fab, .words]
  | .mapCfgWrite .. => [.comp, .words]
  | .rolePolicyWrite .. | .cutoverDeadline .. | .appendAck .. | .propose .. | .handoffAck .. | .moveDone .. | .holdClaim ..
  | .cutReady .. | .entryAbandon | .suspendReport .. | .resume | .rejoinLimit .. | .joinCheck .. | .roleCheck .. | .plotAssign ..
  | .moveBegin .. | .memberAdd .. | .drain .. | .role .. | .keepers .. => [.out, .fns, .works, .chans, .fab, .comp]
  | .integRegWrite .. => [.integ, .words]
  | .bistGo .. | .suspectHalving | .stragglerWindow .. => [.integ]
  | .pwrCapWrite .. => [.pwr, .words]
  | .pmbCfgWrite .. => [.side, .words]
  | .mbxDataLoWrite .. => [.chans]
  | .mbxPost .. | .attest .. | .identity .. | .logRead .. => [.out, .fns, .chans]
  | .mbxCtlWrite .. => [.chans, .rx]
  | .mbxAck .. | .lodgeMsgTimeout => [.out, .fns, .lodge, .rx]
  | .mbxTimeout .. => [.chans, .comp]
  | .search .. | .searchBatch .. | .queryAdmission .. => [.nextId, .out, .fns, .works, .stats, .pvStats, .corpora, .scan]
  | .queryEncode .. => [.nextId, .out, .stats, .pvStats, .scan, .fab, .comp, .qos]
  | .tileClaim .. | .steal .. => [.free, .stats, .pvStats, .scan]
  | .hitCompaction .. => [.stats, .pvStats, .scan]
  | .laneDrain .. | .fetchWaitExpiry .. | .partialWaitExpiry .. => [.scan]
  | .vectorRecordArrival .. => [.nextId, .out, .fns, .stats, .pvStats, .ranges, .tier, .scan, .flash]
  | .rerankBlock .. => [.free, .nextId, .stats, .pvStats, .corpora, .scan, .qos, .integ]
  | .tensorSteal .. => [.free, .corpora, .scan, .qos]
  | .nodeTopk .. => [.nextId, .out, .fns, .stats, .pvStats, .corpora, .ranges, .tier, .scan, .flash, .fab, .comp, .qos]
  | .payloadWaitExpiry .. => [.nextId, .out, .stats, .pvStats, .corpora, .scan, .fab, .comp, .qos]
  | .finalMerge .. => [.nextId, .out, .fns, .works, .stats, .pvStats, .corpora, .scan, .fab, .comp, .qos]
  | .heldQueryLagging => [.nextId, .out, .fns, .stats, .pvStats, .corpora, .upd, .scan, .fab, .comp, .qos]
  | .upsertBatch .. | .deleteBatch .. | .seqWaitRelease .. => [.out, .fns, .works, .stats, .pvStats, .corpora, .upd, .fab, .qos]
  | .updateAdmission .. => [.nextId, .out, .fns, .works, .stats, .pvStats, .corpora, .ranges, .upd, .flash, .fab, .comp, .qos]
  | .prepWaitExpiry .. | .updateAckTimeout .. => [.out, .fns, .works, .stats, .pvStats, .corpora, .upd]
  | .stagedDiscard .. => [.corpora, .upd]
  | .modelLoad .. => [.out, .fns, .works, .stats, .pvStats, .corpora, .ranges, .tier, .scan]
  | .modelLoadComplete .. => [.out, .fns, .works, .stats, .pvStats, .corpora, .scan]
  | .epochCutover .. => [.out, .fns, .works, .chans, .stats, .pvStats, .fab, .comp]
  | .epochSwitch .. => [.out, .fns, .corpora, .scan]
  | .resketch .. => [.nextId, .out, .fns, .works, .stats, .pvStats, .corpora, .ranges, .tier, .scan, .flash, .fab, .comp]
  | .resketchComplete .. | .indexCheckpointCommit .. => [.out, .fns, .works, .corpora]
  | .mergePass .. => [.out, .fns, .works, .stats, .pvStats, .corpora]
  | .mergePassStart .. => [.corpora, .tier, .integ]
  | .tierMigrate .. | .tierPin .. | .tierFlush .. | .writeGroupCommit .. =>
    [.nextId, .out, .fns, .works, .stats, .pvStats, .ranges, .tier, .scan, .flash, .qos]
  | .tierUnpin .. => [.out, .fns, .works, .stats, .pvStats, .ranges]
  | .pagePromoteDone .. | .demoteSwitch .. | .fabricCopy .. | .slices .. =>
    [.nextId, .out, .fns, .works, .chans, .stats, .pvStats, .ranges, .tier, .scan, .flash, .fab, .comp, .qos]
  | .walledScrub .. => [.out, .fns, .stats, .pvStats, .ranges, .tier, .scan]
  | .ghStepApply .. => [.ranges, .scan]
  | .statsRead .. => [.works]
  | .flashReadComplete .. => [.nextId, .out, .fns, .works, .stats, .pvStats, .corpora, .ranges, .tier, .scan, .flash, .fab, .comp, .qos]
  | .programComplete .. => [.nextId, .out, .stats, .pvStats, .flash]
  | .programFailGc .. | .programFailUpdate .. => [.nextId, .out, .fns, .stats, .pvStats, .flash]
  | .eraseFail .. | .dieRetire .. | .eraseComplete .. => [.out, .fns, .stats, .pvStats, .flash]
  | .gcStart .. => [.nextId, .works, .ranges, .flash]
  | .sourceErase .. => [.nextId, .flash]
  | .quantWindowEnd => [.out, .fns, .corpora]
  | .jfpPacketReceive .. | .bundle .. | .read .. | .write .. | .fetchAdd .. | .compareSwap .. | .resp .. | .fanout .. | .partialList ..
  | .preElem .. | .preEid .. | .preAck .. | .frameMark .. | .commitAck .. | .mapEntryActivation =>
    [.nextId, .out, .fns, .works, .chans, .stats, .pvStats, .corpora, .ranges, .tier, .upd, .scan, .flash, .fab, .comp, .qos]
  | .ackonly .. => [.out, .stats, .pvStats, .fab, .qos]
  | .jfpRto .. => [.out, .fns, .works, .chans, .stats, .pvStats, .corpora, .upd, .scan, .fab, .comp, .qos]
  | .requestHoldTimeout => [.nextId, .out, .fns, .works, .chans, .stats, .pvStats, .corpora, .upd, .scan, .fab, .comp, .qos]
  | .rdmaRead .. => [.out, .fns, .stats, .pvStats, .ranges, .tier, .scan, .fab, .qos]
  | .rdmaWrite .. => [.nextId, .out, .fns, .stats, .pvStats, .ranges, .tier, .scan, .flash, .fab, .qos]
  | .roceInvalidRequest .. => [.out, .qos]
  | .cnp .. | .pfcFrame .. | .fetch .. | .cutQuery .. | .announce .. => [.fab]
  | .pfcWatchdog .. | .laserInputLow .. | .portBerDegraded .. | .linkUp .. | .linkDown .. => [.out, .fns, .fab]
  | .append .. | .voteReq .. | .vote .. | .statePull .. | .moveTransferStart .. | .handoffResend .. => [.fab, .comp]
  | .heartbeat .. | .entries .. | .noQuorum => [.comp]
  | .proposeResult .. => [.out, .fns, .works, .chans, .comp]
  | .handoff .. => [.nextId, .out, .corpora, .ranges, .upd, .flash, .fab, .comp]
  | .rsDone .. => [.nextId, .out, .corpora, .ranges, .flash, .comp]
  | .electionTimeout => [.free, .fab, .comp]
  | .moveStateFree .. => [.corpora, .comp]
  | .catchUpDone .. => [.nextId, .out, .fns, .works, .chans, .corpora, .ranges, .upd, .flash, .fab, .comp]
  | .imageStage .. | .lcNonce .. | .cakSet .. => [.out, .fns, .lodge, .chans]
  | .rollbackCommit | .lcAdvance .. => [.out, .fns, .lodge, .chans, .rx]
  | .pvErase => [.out, .fns, .lodge, .chans, .corpora, .ranges, .flash]
  | .winExport .. => [.free, .nextId, .out, .fns, .chans, .stats, .pvStats, .ranges, .tier, .scan, .flash, .fab, .qos]
  | .winUnexport .. => [.out, .fns, .chans, .ranges, .fab]
  | .qpCreate .. => [.free, .out, .fns, .chans, .fab]
  | .qpDestroy .. => [.out, .fns, .chans, .fab]
  | .keyInstall .. | .sakDerive .. | .firewallViolation .. => [.out, .lodge]
  | .bistRequest .. => [.out, .integ]
  | .shadowExecution .. | .arbitration .. => [.out, .fns, .stats, .pvStats, .scan, .integ]
  | .shadowWaitExpiry .. => [.scan, .integ]
  | .sketchScrub .. => [.out, .fns, .stats, .pvStats, .corpora, .integ]
  | .tileRepair .. => [.corpora, .integ]
  | .bistRunDone .. => [.out, .fns, .dies, .integ]
  | .promenadeRetrain .. => [.nextId, .out, .fns, .works, .mods, .stats, .pvStats, .corpora, .scan, .fab, .comp, .qos]
  | .thermalStepDown .. | .sensorStuck .. => [.out, .fns, .pwr]
  | .setEndpointId .. | .pldmRequest .. => [.out, .side]
  | .moduleRetrainDone .. => [.mods]

end Sys2Proof.Machine
end

