-- ==== Sys2Proof/Certificates/Slice0/Obligations.lean ====
section
/-! DEFINITION. The statements for the provers, and the notions that several of them share. -/

namespace Sys2Proof.Machine

/-- A ring pair that takes doorbells: its function is up, the pair exists, is enabled and not halted (R270, R282, R285). -/
def State.ringReady (s : State) (f : Fn) (r : Nat) : Prop :=
  s.fnUp f = true ∧ r < (s.fn f).rings.length ∧ (s.ring f r).enabled = true ∧ (s.ring f r).halted = false

/-- A ring pair that can be configured: its function is up, the pair exists and is disabled (R270, R293). -/
def State.ringIdle (s : State) (f : Fn) (r : Nat) : Prop :=
  s.fnUp f = true ∧ r < (s.fn f).rings.length ∧ (s.ring f r).enabled = false

/-- The Lodge serves the command that waits on the PF0-to-Lodge channel: it runs, the word is sound, and keys exist (R415, R420). -/
def State.lodgeTakes (s : State) (cmd : Nat) : Prop :=
  s.lodgeUp = true ∧ s.waits 0 cmd = true ∧ s.wordBad 0 = false ∧ s.keyless = false

/-- `t` is what a node reset of a cause makes of `s` (R459, R460): work, clock, fabric and composition in their reset state, with the fuses,
the causes that RESET_STAT keeps and the committed flash map `m`; a page is in T3 if it has a durable copy, else unwritten (R213). -/
def State.resetTo (s t : State) (cause : Nat) (m : List (Lua × MapEnt)) : Prop :=
  t.pwr.cause = cause ∧ t.pwr.pfailSeen = s.pwr.pfailSeen ∧ t.pwr.tripped = s.pwr.tripped ∧ t.works = [] ∧ t.clk = Clock.reset ∧
  t.fab = Fabric.reset ∧ t.comp = Comp.reset ∧ t.lodge.fuses = s.lodge.fuses ∧ t.flash.map = m ∧ t.flash.pool = [] ∧
  (∀ r ∈ t.ranges, ∀ g ∈ r.pages, g.st = .t3 ∧ g.durable = true) ∧ t.pending = s.pending

/-- A fetched work item of an opcode whose turn for admission has come, of a pavilion that the node holds resources for (R276, R286, R297). -/
def State.admitsWork (s : State) (op wid : Nat) (w : Work) : Prop :=
  s.work wid = some w ∧ s.admits = true ∧ w.stage = .fetched ∧ dOp w.desc = op ∧ w.fn.val ≠ 0 ∧ s.composed (pvOf w.fn) = true

/-- The state once `n` bytes of host memory are read for a function (R277); a function that is down reads nothing. -/
def State.readsHost (s : State) (f : Fn) (a n : Nat) : State := { s with out := s.out ++ if s.fnUp f then [.read f a n .snooped] else [] }

/-- The state once the records of a search descriptor are read from host memory (R277, R304). -/
def State.readsRecords (s : State) (w : Work) : State := s.readsHost w.fn (field w.desc 16 8) (dCount w.desc * dQStride w.desc * 64)

/-- The batch that an update descriptor becomes when it is taken (R169, R338). -/
def State.freshBatch (s : State) (w : Work) (del : Bool) (es : List Elem) : Batch :=
  ⟨s.node * 2 ^ 48 + w.ring * 2 ^ 40 + s.upd.nextBatch % 2 ^ 40, w.id, pvOf w.fn, w.ring, field w.desc 8 8, del, es, s.hfn, [], .seqWait, 0,
    [], [], false, 0, 0, [], [], []⟩

/-- The state once the batch is held and its descriptor waits. -/
def State.holds (s : State) (b : Batch) : State := { s with
  upd := { s.upd with batches := s.upd.batches ++ [b], nextBatch := s.upd.nextBatch + 1 }
  works := mapIf (fun x => x.id == b.work) (fun x => { x with stage := .waiting }) s.works }

/-- A batch that is prepared as soon as it is taken: no earlier batch of its ring holds its SEQ, which is the ring's highest so far, and the
pavilion has no other node to tell (R171, R178). -/
def State.preparesNow (s : State) (w : Work) (b : Batch) : Prop :=
  s.composed b.pv = true ∧ seqBusy s w = false ∧ ((s.corpus b.pv).seqTop.lookup b.ring).getD 0 < b.seq ∧
  (∀ x ∈ s.upd.batches, x.id ≠ b.id) ∧ s.ingestPeers b.pv = []

/-- What the query rules say of a record of a search descriptor (R297, R305): none if the query is valid. -/
def State.recordCheck (s : State) (w : Work) (b : Bundle) (bs : List Byte) : Option Status :=
  qCheck (qctx b (s.corpus (pvOf w.fn))) (dQStride w.desc) bs
    (if qLenOk (qctx b (s.corpus (pvOf w.fn))) (dQStride w.desc) (readQRec bs) then (queryVec b (readQRec bs)).1 else [])

/-- A query that is held for a frame that the node does not yet see, past its limit (R176). -/
def State.heldLate (s : State) (q : Query) : Prop :=
  q.stage = .routed ∧ q.toJoin ≠ [] ∧ q.seen s = false ∧ q.arrived + 10 ≤ s.hfn

/-- Admission of queries of a pavilion is open (R38, R41, R194, R196, R372, R391). -/
def State.opensQueries (s : State) (w : Work) : Prop :=
  s.admits = true ∧ s.pvInReset (pvOf w.fn) = false ∧ s.suspended = false ∧
  ((s.corpus (pvOf w.fn)).rstate = .confirmed ∨ ((s.corpus (pvOf w.fn)).rstate = .provisional ∧ w.prov = true))

/-- What the selection unit of a hit's lane holds (R111, R112). -/
def State.laneOf (s : State) (h : Hit) : List SelEnt :=
  ((s.scan.lanes.find? fun l => l.batch == h.batch && l.qid == h.qid && l.die == h.die && l.eng == h.eng).map (·.ents)).getD []

/-- The tile of a hit and the entry at its position, for a query and batch in flight. -/
def State.hitAt (s : State) (h : Hit) (q : Query) (t : ScanTile) (x : Slot) (r : Rec) : Prop :=
  s.query? h.qid = some q ∧ (∃ b, s.sbatch? h.batch = some b ∧ b.tiles[h.tile]? = some t) ∧ t.slots[h.pos]? = some x ∧ x.ent = some r

/-- The tests of compaction (R101): threshold, deletion bit and tombstone, visibility, predicate. -/
def State.passes (s : State) (h : Hit) (q : Query) (t : ScanTile) (x : Slot) (r : Rec) : Prop :=
  q.thr ≤ h.sim ∧ x.deleted = false ∧ ¬ (t.store = 1 ∧ r.tomb = true) ∧
  visible r.ver ((s.corpus t.pv).delOf r) q.visAt = true ∧ predHolds q.q.terms q.q.acomb r.attr = true

/-- The last tile of the queue of a bank (R98, R99). -/
def ScanBatch.bankTail (b : ScanBatch) (t : ScanTile) : Option Nat :=
  ((b.tiles.zipIdx.filter fun x => x.1.inBank && x.1.stk == t.stk && x.1.bank == t.bank && !b.tileDone x.2).map (·.2)).getLast?

/-- An engine of a die has a tile of a batch left for a query, or a hit of it waits there (R113). -/
def State.lanesLeft (s : State) (b : ScanBatch) (qid die : Nat) : Prop :=
  (∃ j ∈ b.jobs, j.die = die ∧ qid ∈ j.lanes ∧ ∃ i ∈ j.tiles, ∃ t, b.tiles[i]? = some t ∧ qid ∈ t.qids) ∨
  (∃ h ∈ s.scan.hits, h.batch = b.id ∧ h.qid = qid ∧ h.die = die)

/-- The body of a RESP (R335). -/
def respBody (m : JMsg) (st : Status) (data : List Byte) : List Byte :=
  leBytes 4 m.msgId ++ leBytes 1 st.code ++ zeros 3 ++ leBytes 4 data.length ++ zeros 4 ++ data

/-- A request of another node that is served at once: heard, routed under a map epoch that this node has, passing every check, its pages
in T1 or unwritten. -/
def State.servesReq (s : State) (op : Nat) (m : JMsg) : Prop :=
  s.hears m.src = true ∧ m.epoch ≤ s.comp.map.epoch ∧ m.src ≠ s.node ∧ reqRefusal s ⟨m, op⟩ = none ∧ reqLow s ⟨m, op⟩ = []

/-- A message that its engine takes now: heard, its body in range, not one that waits for a newer map. -/
def State.takesMsg (s : State) (op : Nat) (m : JMsg) : Prop :=
  s.hears m.src = true ∧ bodyOk ⟨m, op⟩ = true ∧ Msg.waitsMap ⟨m, op⟩ s.comp.map.epoch = false

/-- The Grounds serves the command that waits on a pavilion's channel (R415, R418). -/
def State.groundsTakes (s : State) (p cmd : Nat) : Prop :=
  s.live = true ∧ s.waits (2 + p) cmd = true ∧ s.wordBad (2 + p) = false

/-- A live queue pair whose port carries traffic. -/
def State.qpReady (s : State) (qpn : Nat) (q : Qp) : Prop :=
  s.live = true ∧ s.flushing = false ∧ s.qp? qpn = some q ∧ (s.fab.ports.getD q.port Port.reset).carries = true

/-- A MAP_PROPOSE block of a kind waits on the channel of the Grounds and is well formed (R418, R421). -/
def State.mapTakes (s : State) (b : List Byte) (kind len : Nat) : Prop :=
  s.live = true ∧ s.waits 1 0x20 = true ∧ s.wordBad 1 = false ∧ blockLen 128 (some b) ≠ none ∧ field b 16 1 = kind ∧
  field b 0 4 = len ∧ zeroAt b 20 4 = true

/-- The state once a mailbox channel has read `n` bytes of its argument block (R418). -/
def State.blockRead (s : State) (c n : Nat) : State := s.readsHost (chanFn c) (s.blkAddr c) n

/-- The channel of the Grounds with its block read and its command taken. -/
def State.mapTaken (s : State) (b : List Byte) : State := modChan 1 (fun x => { x with taken := true }) (s.blockRead 1 b.length)

/-- A check of a job may run on a unit, which is logical unit `e` of its die: the check's inputs are held and its wait has not run out, the
die is of the job's quadrant and has run none of it, the unit's slot is open with no pavilion a candidate for it, and no arbitration or
older check comes first (R430, R432, R434, R439). -/
def State.runsCheck (s : State) (x : Shadow) (die phys e : Nat) : Prop := s.live = true ∧ s.checkGrant x die phys = some e

/-- A unit that falls behind its peers in a window (R446). -/
def State.lagsIn (s : State) (rs : List RateIn) (r : RateIn) : Prop :=
  let peers := rs.filter fun y => y.die == r.die && y.ta == r.ta && y.unit != r.unit
  8 ≤ peers.length ∧
  2 * ((r.work : Rat) / r.cycles) * fld s.integ.spareEff 15 8 < 100 * median2 (peers.map fun y => (y.work : Rat) / y.cycles)

end Sys2Proof.Machine


namespace Sys2Proof.Machine

/-- The NOR at a boot: what an external programmer has written, else what it held (R487). -/
def bootNor (b : BootIn) (s : State) : Qspi := b.prog.getD s.lodge.qspi

/-- The NOR after the trial of the Lodge's boot record (R405, R406). -/
def bootNor1 (b : BootIn) (s : State) : Qspi := setNorRec (bootNor b s) 0 (tryRec (bootNor b s).lodgeRec)

/-- The slot of the Lodge image that boots, if one is valid (R405). -/
def lodgeSlot (b : BootIn) (s : State) : Option Bool := bootSlot s.lodge.fuses (bootNor1 b s) 0

/-- The slot of the Grounds image that boots, if one is valid (R405). -/
def groundsSlot (b : BootIn) (s : State) : Option Bool :=
  bootSlot s.lodge.fuses (setNorRec (bootNor1 b s) 1 (tryRec (bootNor b s).groundsRec)) 1

/-- A search die after the self-test of a boot (R19, R20). -/
def bootDie (b : BootIn) (i : Nat) : Die := match b.dies[i]? with | some t => Die.test t | none => Die.reset

end Sys2Proof.Machine

open Sys2Proof Sys2Proof.Machine in
/-- A step is the command at the front of the queue, run on the state with the rest of the queue; an empty queue idles (the model's
choice, log 1). -/
def Obligations.StepTakesFront : Prop :=
  (∀ (c : Instr) (rest : List Instr) (s : State), s.pending = c :: rest → step s = exec c { s with pending := rest }) ∧
  (∀ s : State, s.pending = [] → step s = .next s)

open Sys2Proof Sys2Proof.Machine in
/-- The state after reset is legal. -/
def Obligations.LegalAtReset : Prop :=
 State.reset.Legal ∧ State.reset.pending = [] ∧ State.reset.clk.hfn = 0 ∧ State.reset.clk.jump = none

open Sys2Proof Sys2Proof.Machine in
/-- Every step keeps the invariant: the slot stays one of 0 to 15, and every configuration register, as written and as in force, stays
within its ranges with its reserved bits 0. -/
def Obligations.LegalKept : Prop :=
  ∀ s t : State, s.Legal → step s = .next t → t.Legal

open Sys2Proof Sys2Proof.Machine in
/-- Frame numbers (R37): a jump is only ever due in FREE and UNALIGNED, which every step keeps; no command changes the frame number but a
frame boundary, which raises it by exactly 1 where no jump is due, and a node reset, after which the clock has its reset state; so in
ACQUIRE, LOCKED and HOLDOVER the frame number never repeats, skips or goes back. -/
def Obligations.FrameNumbers : Prop :=
  ∀ (c : Instr) (s t : State), (s.clk.jump ≠ none → s.clk.align = .free ∨ s.clk.align = .unaligned) → exec c s = .next t →
    (t.clk.jump ≠ none → t.clk.align = .free ∨ t.clk.align = .unaligned) ∧
    (t.clk = Clock.reset ∨ t.clk.hfn = s.clk.hfn ∨
      (∃ off choice, c = .frameBoundary off choice ∧ s.clk.slot = some 15 ∧ t.clk.jump = none ∧ t.clk.hfn = s.clk.jump.getD (s.clk.hfn + 1))) ∧
    (s.clk.align = .acquire ∨ s.clk.align = .locked ∨ s.clk.align = .holdover →
      t.clk = Clock.reset ∨ t.clk.hfn = s.clk.hfn ∨ t.clk.hfn = s.clk.hfn + 1)

open Sys2Proof Sys2Proof.Machine in
/-- The frame of every command: of the areas of the state, a command changes none but those that `touches` names for it. -/
def Obligations.FrameOfEveryCommand : Prop :=
  ∀ (c : Instr) (s t : State), exec c s = .next t → ∀ p : Area, (touches c).contains p = false → p.same s t

open Sys2Proof Sys2Proof.Machine in
/-- Every command completes in every state: `exec` answers a next state, whatever state and operands, and the rest of the queue stays as
it was (log 3: an event whose conditions do not hold changes nothing). -/
def Obligations.EveryCommandCompletes : Prop :=
  ∀ (c : Instr) (s : State), ∃ t, exec c s = .next t ∧ t.pending = s.pending

open Sys2Proof Sys2Proof.Machine in
/-- R285: a write to RING_DB or RING_CQ_DB of a pair whose ENABLE is 0, and a write to EQ_DB while the event ring is disabled, has no
effect, whatever index it names: no field changes, no pair halts, no bit is set. -/
def Obligations.DisabledDoorbells : Prop :=
  ∀ (s : State) (f : Fn) (v : W32),
    (∀ r, (s.ring f r).enabled = false → exec (.ringDb f r v) s = .next s ∧ exec (.ringCqDb f r v) s = .next s) ∧
    ((s.fn f).eq.enabled = false → exec (.eqDb f v) s = .next s)

open Sys2Proof Sys2Proof.Machine in
/-- R434: a shadow execution or an arbitration that has not begun when the frame number is past the end of its primary by more than
SHADOW_WAIT frames is dropped: SHADOW_DROP is set, no unit's counts change, and the shadow is no longer held, which releases its inputs
and the hold on its tile; it can then no longer begin. -/
def Obligations.OverdueShadows : Prop :=
  ∀ (s : State) (id : Nat) (x : Shadow), s.live = true → s.integ.shadows.find? (·.id == id) = some x → s.shadowFresh x = false →
    s.shadowFresh x = decide (s.hfn ≤ x.ended + fld s.integ.shadowEff 15 8) ∧
    (∃ t, exec (.shadowWaitExpiry id) s = .next t ∧ t.integ.shadowDrop = true ∧ t.integ.counts = s.integ.counts ∧
      t.integ.shadows = s.integ.shadows.filter (fun y => y.id != id) ∧
      (∀ b ∈ t.scan.batches, b.view = none ∨ (∃ i ∈ b.qids, (s.query? i).isSome = true ∧ s.scanLeft b i = true) ∨
        ∃ y ∈ t.integ.shadows, y.scan = true ∧ y.batch = b.id)) ∧
    (∀ die phys prim shad bounds pos, exec (.shadowExecution id die phys prim shad bounds pos) s = .next s ∧
      exec (.arbitration id die phys prim bounds pos) s = .next s)

open Sys2Proof Sys2Proof.Machine in
/-- R153: a write to CLIP_LIMIT with a zero LIMIT or MIN_KCODES changes no field and sets CFG_REJECT of QUANT_STAT; any other is accepted,
and the test at the end of a window still uses the limit that was in force when the window began: the written one is in force from the end
of that window on, for the test of the next. -/
def Obligations.ClipLimitWrites : Prop :=
  ∀ s : State,
    (∀ (f : Fn) (v : W32) c, f.val ≠ 0 → s.fnUp f = true → s.corpora[pvOf f]? = some c →
      (fld v 15 0 = 0 ∨ fld v 23 16 = 0 → exec (.clipLimitWrite f v) s = .next { s with
        corpora := modifyAt s.corpora (pvOf f) fun c => { c with clipReject := true } }) ∧
      (fld v 15 0 ≠ 0 → fld v 23 16 ≠ 0 → exec (.clipLimitWrite f v) s = .next { s with
        corpora := modifyAt s.corpora (pvOf f) fun c => { c with clip := v &&& 0x00FF_FFFF#32 } })) ∧
    (∀ (c : Corpus) lim, overGroups { c with clip := lim } = overGroups c) ∧
    (∀ p c, s.live = true → s.clk.slot = none → s.hfn % 256 = 0 → p < 12 → s.corpora[p]? = some c → c.clipFrom < s.hfn →
      ∃ t d, exec .quantWindowEnd s = .next t ∧ t.corpora[p]? = some d ∧ d.clipEff = c.clip ∧ d.clip = c.clip ∧ d.clipFrom = s.hfn ∧
        d.drift = (c.drift || (decide (overGroups c ≠ []) && (match c.cur with | some b => b.qmode == 1 | none => false))))

open Sys2Proof Sys2Proof.Machine in
/-- R475: a write to PWR_CAP or THERM_CFG that is out of range changes no field and sets CFG_REJECT of PWR_STAT or of THERM_STAT; an
accepted one takes effect at the next slot boundary; a write to RESET_CTL with another key, or with NODE_RST 0, has no effect; the host
node reset of an accepted one begins 50 frames, which is 1 ms, after the write and not before. -/
def Obligations.PowerRegisterWrites : Prop :=
  ∀ s : State,
    (∀ v, s.bar0Up0 = true →
      (400 ≤ fld v 10 0 ∧ fld v 10 0 ≤ 1500 ∧ 1 ≤ fld v 19 12 →
        exec (.pwrCapWrite false v) s = .next { s with pwr := { s.pwr with cap := v &&& 0x000F_F7FF#32 } }) ∧
      (fld v 10 0 < 400 ∨ 1500 < fld v 10 0 ∨ fld v 19 12 = 0 →
        exec (.pwrCapWrite false v) s = .next { s with pwr := { s.pwr with cfgReject := true } }) ∧
      (85 ≤ fld v 7 0 ∧ fld v 7 0 ≤ 105 ∧ 86 ≤ fld v 15 8 ∧ fld v 15 8 ≤ 92 →
        exec (.pwrCapWrite true v) s = .next { s with pwr := { s.pwr with thermCfg := v &&& 0xFFFF#32 } }) ∧
      (fld v 7 0 < 85 ∨ 105 < fld v 7 0 ∨ fld v 15 8 < 86 ∨ 92 < fld v 15 8 →
        exec (.pwrCapWrite true v) s = .next { s with pwr := { s.pwr with thermReject := true } }) ∧
      (bit v 0 = false ∨ fld v 31 16 ≠ 0x5A32 → exec (.resetCtlWrite v) s = .next s) ∧
      (bit v 0 = true → fld v 31 16 = 0x5A32 → s.pwr.rstAt = none →
        exec (.resetCtlWrite v) s = .next { s with pwr := { s.pwr with rstAt := some s.hfn } })) ∧
    (∀ x : SlotIn, x.lodge = none → s.phase.up = true → s.clk.slot ≠ some 15 →
      ∃ t, exec (.slotBoundary x) s = .next t ∧ t.pwr.capEff = s.pwr.cap ∧ t.pwr.thermEff = s.pwr.thermCfg ∧
        t.pwr.cap = s.pwr.cap ∧ t.pwr.thermCfg = s.pwr.thermCfg) ∧
    (∀ b f, s.pwr.rstAt = some f →
      (s.hfn < f + 50 → exec (.hostNodeReset b) s = .next s) ∧
      (f + 50 ≤ s.hfn → s.phase.up = true → s.pwr.flush = none →
        ∃ t, exec (.hostNodeReset b) s = .next t ∧ t.clk = Clock.reset ∧ t.works = [] ∧ t.pwr.cause = 2))

open Sys2Proof Sys2Proof.Machine in
/-- R497: a write to PMB_CFG whose BASE is outside 0x08 to 0x77, whose COUNT is above 8, or whose last address is above 0x77 changes no
field and sets CFG_REJECT of SB_STAT; an accepted one takes effect at the next poll, which asks the regulators at BASE to BASE + COUNT -
1; writes to GPIO_DIR and GPIO_OUT set them (R490). -/
def Obligations.PmbConfigurationWrites : Prop :=
  ∀ (s : State) (v : W32), s.bar0Up0 = true →
    (fld v 6 0 < 0x08 ∨ 0x77 < fld v 6 0 ∨ 8 < fld v 11 8 ∨ 0x77 < fld v 6 0 + fld v 11 8 - 1 →
      exec (.pmbCfgWrite v) s = .next { s with side := { s.side with cfgReject := true } }) ∧
    (0x08 ≤ fld v 6 0 → fld v 6 0 ≤ 0x77 → fld v 11 8 ≤ 8 → fld v 6 0 + fld v 11 8 - 1 ≤ 0x77 →
      ∃ t, exec (.pmbCfgWrite v) s = .next t ∧ t = { s with side := { s.side with pmbCfg := v &&& 0x0F7F#32 } } ∧
        ∀ regs, s.live = true → s.clk.slot = none → s.hfn % 50000 = 0 ∨ s.side.pmbExtra = true →
          ∃ u, exec (.pmbusPoll regs) t = .next u ∧ u.side.regs.map (·.addr) = (List.range (fld v 11 8)).map (fld v 6 0 + ·)) ∧
    exec (.gpioWrite false v) s = .next { s with side := { s.side with gpioDir := v &&& 0xFFFF#32 } } ∧
    exec (.gpioWrite true v) s = .next { s with side := { s.side with gpioOut := v &&& 0xFFFF#32 } }

open Sys2Proof Sys2Proof.Machine in
/-- Samples of the servo: none is taken while `TIME_SRC` is 0; a PTP sample before the origin, and in LOCKED and HOLDOVER one more than 2
µs from the prediction, is rejected and counted; the first accepted one in FREE and UNALIGNED schedules ACQUIRE and the jump to hall time
(R36); a PPS edge counts only with `TIME_SRC` 2 and `PPS_DIR` 0, is rejected more than 2 µs off, and else accepted. The alignment states
(R38): 64 good frames lead to LOCKED, which locks the origin (R53); 100,000 frames without an accepted sample, or 64 rejections in a row,
lead from LOCKED to HOLDOVER; HOLDOVER beyond its limit leads to UNALIGNED. Each change waits for the next frame boundary, which makes it
(R43, R49), unless TIME_SRC is 0 in the new frame, which leads to FREE (R50), or its offset is past the limit, which leads to UNALIGNED. A
FRAME_CFG write in its ranges is taken with its reserved bits 0; one out of range sets only `CFG_REJECT` (R51). -/
def Obligations.ServoAndAlignment : Prop :=
  (∀ s : State, s.live = true →
      (∀ p : PtpIn, (fld s.clk.eff 1 0 = 0 → exec (.ptpSample p) s = .next s) ∧
        (fld s.clk.eff 1 0 ≠ 0 → p.t < s.clk.originNs →
          exec (.ptpSample p) s = .next { s with clk := { s.clk with ptpRej := (s.clk.ptpRej + 1) % 256, rejRun := s.clk.rejRun + 1 } }) ∧
        (fld s.clk.eff 1 0 ≠ 0 → s.clk.originNs ≤ p.t → s.clk.align.aligned = true → 2000 < p.dev.natAbs →
          exec (.ptpSample p) s = .next { s with clk := { s.clk with ptpRej := (s.clk.ptpRej + 1) % 256, rejRun := s.clk.rejRun + 1 } }) ∧
        (fld s.clk.eff 1 0 ≠ 0 → s.clk.originNs ≤ p.t → s.clk.align = .free ∨ s.clk.align = .unaligned → s.clk.jump = none →
          ∃ t, exec (.ptpSample p) s = .next t ∧ t = { s with clk := t.clk } ∧ t.clk.alignNext = some .acquire ∧
            t.clk.jump = some ((p.endNs - s.clk.originNs + 19999) / 20000) ∧ t.clk.ptpAge = some 0 ∧ t.clk.ptpRej = s.clk.ptpRej) ∧
        (fld s.clk.eff 1 0 ≠ 0 → s.clk.originNs ≤ p.t → s.clk.align = .locked → p.dev.natAbs ≤ 2000 →
          exec (.ptpSample p) s = .next { s with
            clk := { s.clk with ptpAge := some 0, sampleAge := 0, rejRun := 0, offset := p.offset, secondFixed := true } })) ∧
      (∀ p : PpsIn, (fld s.clk.eff 1 0 ≠ 2 ∨ bit s.clk.eff 2 = true → exec (.ppsEdge p) s = .next s) ∧
        (fld s.clk.eff 1 0 = 2 → bit s.clk.eff 2 = false → ppsSeen p = true → s.clk.align = .locked → 2000 < p.dev.natAbs →
          exec (.ppsEdge p) s = .next { s with clk := { s.clk with ppsRej := (s.clk.ppsRej + 1) % 256, rejRun := s.clk.rejRun + 1 } }) ∧
        (fld s.clk.eff 1 0 = 2 → bit s.clk.eff 2 = false → ppsSeen p = true → s.clk.align = .locked → p.dev.natAbs ≤ 2000 →
          exec (.ppsEdge p) s = .next { s with clk := { s.clk with ppsAge := some 0, sampleAge := 0, rejRun := 0, offset := p.offset } }))) ∧
  (∀ s : State,
      (s.live = true → s.clk.alignNext = none →
        (s.clk.align = .acquire ∨ (s.clk.align = .holdover ∧ s.clk.samplesBack = true) → 64 ≤ s.clk.goodFrames →
          exec .alignLocked s = .next { s with clk := { s.clk with alignNext := some .locked } }) ∧
        (s.clk.align = .locked → 100000 ≤ s.clk.sampleAge ∨ 64 ≤ s.clk.rejRun →
          exec .alignHoldover s = .next { s with clk := { s.clk with alignNext := some .holdover } }) ∧
        (s.clk.align = .holdover → fld s.clk.eff 7 4 * 50000 < s.clk.holdFrames →
          exec .holdoverLimit s = .next { s with clk := { s.clk with alignNext := some .unaligned } })) ∧
      (∀ off choice : Int, s.phase.up = true → s.clk.slot = some 15 → s.clk.jump = none →
        (fld s.clk.cfg 1 0 = 0 → ∃ t, exec (.frameBoundary off choice) s = .next t ∧ t.clk.align = .free ∧ t.clk.alignNext = none ∧
          t.clk.tickOffset = 0#32) ∧
        (fld s.clk.cfg 1 0 ≠ 0 → s.clk.align.aligned = true → 750 < off.natAbs →
          ∃ t, exec (.frameBoundary off choice) s = .next t ∧ t.clk.align = .unaligned ∧ t.clk.secondFixed = false) ∧
        (fld s.clk.cfg 1 0 ≠ 0 → off.natAbs ≤ 750 →
          (s.clk.alignNext = some .locked → s.clk.align = .acquire → 64 ≤ s.clk.goodFrames →
            ∃ t, exec (.frameBoundary off choice) s = .next t ∧ t.clk.align = .locked ∧ t.clk.originLock = true ∧ t.clk.alignNext = none) ∧
          (s.clk.alignNext = some .holdover → s.clk.align = .locked → 100000 ≤ s.clk.sampleAge ∨ 64 ≤ s.clk.rejRun →
            ∃ t, exec (.frameBoundary off choice) s = .next t ∧ t.clk.align = .holdover ∧ t.clk.originLock = s.clk.originLock ∧
              t.clk.samplesBack = false ∧ t.clk.alignNext = none) ∧
          (s.clk.alignNext = some .unaligned → s.clk.align = .holdover → fld s.clk.cfg 7 4 * 50000 < s.clk.holdFrames →
            ∃ t, exec (.frameBoundary off choice) s = .next t ∧ t.clk.align = .unaligned ∧ t.clk.secondFixed = false ∧
              t.clk.alignNext = none))) ∧
      (∀ v : W32, s.fnUp 0 = true →
        (fld v 1 0 ≠ 3 ∧ fld v 7 4 ≠ 0 ∧ 4 ≤ fld v 11 8 ∧ fld v 11 8 ≤ 13 →
          exec (.frameCfgWrite v) s = .next { s with clk := { s.clk with cfg := v &&& 0x0000_0FFF#32 } }) ∧
        (fld v 1 0 = 3 ∨ fld v 7 4 = 0 ∨ fld v 11 8 < 4 ∨ 13 < fld v 11 8 →
          exec (.frameCfgWrite v) s = .next { s with clk := { s.clk with cfgReject := true } })))

open Sys2Proof Sys2Proof.Machine in
/-- Boundaries (R34, R37, R49): at the end of slot 15 a frame boundary raises the HFN by exactly 1 (to the jumped value where a jump is
due) and puts `FRAME_CFG` in force, and no slot is open until the slot boundary that opens slot 0; a slot boundary within the frame opens
the next slot; where it finds an uncorrectable error in the SRAM of a Lodge that runs, a reset of the firmware-fault kind follows (R426)
(its instant is the model's choice, log 157). Neither boundary comes out of turn. -/
def Obligations.BoundariesAdvance : Prop :=
  ∀ s : State,
    (∀ off choice : Int, s.phase.up = true → s.clk.slot = some 15 →
      ∃ t, exec (.frameBoundary off choice) s = .next t ∧ t.clk.hfn = s.clk.jump.getD (s.clk.hfn + 1) ∧ t.clk.jump = none ∧
        t.clk.slot = none ∧ t.clk.eff = s.clk.cfg ∧ t.scan.scanEff = s.scan.scanCfg ∧ t.upd.cfgEff = s.upd.cfg) ∧
    (∀ off choice : Int, s.clk.slot ≠ some 15 → exec (.frameBoundary off choice) s = .next s) ∧
    (∀ x : SlotIn, x.lodge = none → s.phase.up = true → s.clk.slot = none →
      ∃ t, exec (.slotBoundary x) s = .next t ∧ t.clk.slot = some 0 ∧ t.clk.hfn = s.clk.hfn ∧ t.scan.permitEff = s.scan.permitCap) ∧
    (∀ (x : SlotIn) (k : Nat), x.lodge = none → s.phase.up = true → s.clk.slot = some k → k < 15 →
      ∃ t, exec (.slotBoundary x) s = .next t ∧ t.clk.slot = some (k + 1) ∧ t.clk.hfn = s.clk.hfn ∧ t.scan.permitEff = s.scan.permitCap) ∧
    (∀ (x : SlotIn) (b : BootIn), x.lodge = some b → s.clk.slot ≠ some 15 → s.lodgeUp = true → s.pwr.resetPending = none →
      s.pwr.flush = none → s.pwr.flushPend = none →
      ∃ t, exec (.slotBoundary x) s = .next t ∧ t.pwr.cause = 3 ∧ t.clk = Clock.reset ∧ t.works = []) ∧
    (∀ x : SlotIn, s.clk.slot = some 15 → exec (.slotBoundary x) s = .next s)

open Sys2Proof Sys2Proof.Machine in
/-- Doorbells of rings and event rings: an index in range that claims no more entries than are free, or releases no more than were
written, is taken, and nothing else changes; an index out of range, or one that claims or releases too much, halts the pair with its
cause, or sets DB_REJECT of the event ring; a release that follows dropped events posts EVENT_LOST with their number; a pair that is
disabled or halted, and an event ring that is disabled, ignore their doorbells. -/
def Obligations.DoorbellsTakeOrHalt : Prop :=
  ∀ (s : State) (f : Fn) (r : Nat) (v : W32),
    (s.ringReady f r →
      (fld v 15 0 < (s.ring f r).sqN ∧
          modSub (fld v 15 0) (s.ring f r).sqTail (s.ring f r).sqN ≤
            ((s.ring f r).sqHead + 2 * (s.ring f r).sqN - 1 - (s.ring f r).sqTail) % (s.ring f r).sqN →
        exec (.ringDb f r v) s = .next (modRing f r (fun x => { x with sqTail := fld v 15 0 }) s)) ∧
      ((s.ring f r).sqN ≤ fld v 15 0 → exec (.ringDb f r v) s = .next (haltRing f r 1 (fld v 15 0) s)) ∧
      (fld v 15 0 < (s.ring f r).sqN ∧ ((s.ring f r).sqHead + 2 * (s.ring f r).sqN - 1 - (s.ring f r).sqTail) % (s.ring f r).sqN <
          modSub (fld v 15 0) (s.ring f r).sqTail (s.ring f r).sqN →
        exec (.ringDb f r v) s = .next (haltRing f r 2 (fld v 15 0) s)) ∧
      (fld v 15 0 < (s.ring f r).cqN ∧
          modSub (fld v 15 0) (s.ring f r).cqHead (s.ring f r).cqN ≤ modSub (s.ring f r).cqTail (s.ring f r).cqHead (s.ring f r).cqN →
        exec (.ringCqDb f r v) s = .next (modRing f r (fun x => { x with cqHead := fld v 15 0 }) s)) ∧
      ((s.ring f r).cqN ≤ fld v 15 0 → exec (.ringCqDb f r v) s = .next (haltRing f r 3 (fld v 15 0) s)) ∧
      (fld v 15 0 < (s.ring f r).cqN ∧
          modSub (s.ring f r).cqTail (s.ring f r).cqHead (s.ring f r).cqN < modSub (fld v 15 0) (s.ring f r).cqHead (s.ring f r).cqN →
        exec (.ringCqDb f r v) s = .next (haltRing f r 4 (fld v 15 0) s))) ∧
    ((s.ring f r).enabled = false ∨ (s.ring f r).halted = true → exec (.ringDb f r v) s = .next s ∧ exec (.ringCqDb f r v) s = .next s) ∧
    (s.fnUp f = true → (s.fn f).eq.enabled = true → (s.fn f).eq.dropped = 0 → fld v 15 0 < (s.fn f).eq.n →
      0 < modSub (fld v 15 0) (s.fn f).eq.head (s.fn f).eq.n →
      modSub (fld v 15 0) (s.fn f).eq.head (s.fn f).eq.n ≤ modSub (s.fn f).eq.tail (s.fn f).eq.head (s.fn f).eq.n →
      exec (.eqDb f v) s = .next (modFn f (fun y => { y with eq := { y.eq with head := fld v 15 0 } }) s)) ∧
    (s.fnUp f = true → (s.fn f).eq.enabled = true → (s.fn f).eq.dropped ≠ 0 → fld v 15 0 < (s.fn f).eq.n →
      0 < modSub (fld v 15 0) (s.fn f).eq.head (s.fn f).eq.n →
      modSub (fld v 15 0) (s.fn f).eq.head (s.fn f).eq.n ≤ modSub (s.fn f).eq.tail (s.fn f).eq.head (s.fn f).eq.n →
      exec (.eqDb f v) s = .next (postLost f (modFn f (fun y => { y with eq := { y.eq with head := fld v 15 0 } }) s))) ∧
    (s.fnUp f = true → (s.fn f).eq.enabled = true →
      (s.fn f).eq.n ≤ fld v 15 0 ∨
        modSub (s.fn f).eq.tail (s.fn f).eq.head (s.fn f).eq.n < modSub (fld v 15 0) (s.fn f).eq.head (s.fn f).eq.n →
      exec (.eqDb f v) s = .next (modFn f (fun y => { y with eq := { y.eq with dbReject := true } }) s)) ∧
    ((s.fn f).eq.enabled = false → exec (.eqDb f v) s = .next s)

open Sys2Proof Sys2Proof.Machine in
/-- The configuration registers of a ring pair and of an event ring: a disabled pair takes base addresses, sizes of 6 to 16 and, once it
is quiet, an enable, which clears its indices, phase and halt state; a disable keeps them; RING_STAT clears the bits written 1. A base or
a size changed while the ring is enabled, a size outside 6 to 16, a vector the function has not, a zero in MOD_COUNT or MOD_TIME, and an
enable before the pair is quiet change no field and set `CFG_REJECT`. -/
def Obligations.RingConfigurationWrites : Prop :=
  ∀ (s : State) (f : Fn) (r : Nat) (v : W32),
    (s.ringIdle f r →
      exec (.ringConfigWrite f r 0 v) s = .next (modRing f r (fun x => { x with sqBase := setLo x.sqBase v }) s) ∧
      exec (.ringConfigWrite f r 1 v) s = .next (modRing f r (fun x => { x with sqBase := setHi x.sqBase v }) s) ∧
      exec (.ringConfigWrite f r 2 v) s = .next (modRing f r (fun x => { x with cqBase := setLo x.cqBase v }) s) ∧
      exec (.ringConfigWrite f r 3 v) s = .next (modRing f r (fun x => { x with cqBase := setHi x.cqBase v }) s) ∧
      (inRange 6 (fld v 4 0) 16 = true ∧ inRange 6 (fld v 12 8) 16 = true →
        exec (.ringConfigWrite f r 4 v) s = .next (modRing f r (fun x => { x with size := v &&& 0x0000_1F1F#32 }) s)) ∧
      (inRange 6 (fld v 4 0) 16 = false ∨ inRange 6 (fld v 12 8) 16 = false →
        exec (.ringConfigWrite f r 4 v) s = .next (modRing f r (fun x => { x with cfgReject := true }) s)) ∧
      (bit v 0 = true ∧ ctlBad f v = false ∧ (s.ring f r).quiesced = true →
        exec (.ringEnable f r v) s = .next (modRing f r (fun x =>
          { x with ctl := v &&& 0xFFFF_3F07#32, sqHead := 0, sqTail := 0, cqHead := 0, cqTail := 0, cqPhase := true,
                   halted := false, haltCause := 0, haltIndex := 0, lostCpl := 0, modN := 0, modT := none,
                   parked := false }) s)) ∧
      (bit v 0 = true ∧ ((s.ring f r).quiesced = false ∨ ctlBad f v = true) →
        exec (.ringEnable f r v) s = .next (modRing f r (fun x => { x with cfgReject := true }) s))) ∧
    (s.fnUp f = true → r < (s.fn f).rings.length → bit v 0 = false → ctlBad f v = false →
      exec (.ringDisable f r v) s = .next (modRing f r (fun x => { x with ctl := v &&& 0xFFFF_3F07#32 }) s)) ∧
    (s.fnUp f = true → r < (s.fn f).rings.length →
      (bit v 0 = false → ctlBad f v = true →
        exec (.ringDisable f r v) s = .next (modRing f r (fun x => { x with cfgReject := true }) s)) ∧
      exec (.ringConfigWrite f r 6 v) s = .next (modRing f r (fun x =>
        { x with cqStall := x.cqStall && !bit v 2, cfgReject := x.cfgReject && !bit v 3 }) s)) ∧
    (s.ringReady f r → bitsOf (s.ring f r).sqBase 31 12 ≠ fld v 31 12 →
      exec (.ringConfigWrite f r 0 v) s = .next (modRing f r (fun x => { x with cfgReject := true }) s)) ∧
    (s.fnUp f = true → (s.fn f).eq.enabled = false →
      exec (.eqCtlWrite f 1 v) s = .next (modFn f (fun y => { y with eq := { y.eq with base := setHi y.eq.base v } }) s)) ∧
    (s.fnUp f = true → (s.fn f).eq.enabled = false → bit v 5 = true → ctlBad f v = false → inRange 6 (fld v 4 0) 16 = true →
      exec (.eqCtlWrite f 2 v) s = .next (modFn f (fun y => { y with eq :=
        { y.eq with ctl := v &&& 0xFFFF_3F7F#32, tail := 0, head := 0, phase := true, modN := 0, modT := none } }) s)) ∧
    (s.fnUp f = true → ctlBad f v = true →
      exec (.eqCtlWrite f 2 v) s = .next (modFn f (fun y => { y with eq := { y.eq with cfgReject := true } }) s))

open Sys2Proof Sys2Proof.Machine in
/-- A fetch of a ring whose turn it is reads 64 bytes of host memory and copies the descriptor: `SQ_HEAD` and the count in flight advance
by one, and the descriptor joins the work list under a new number with the ring's consent to provisional results; one that fails one of
the first five checks is completed with the status of the first that fails; a failed read halts the pair with `FETCH_ERROR`; in a pavilion
that is not confirmed a descriptor that is no search waits in its ring. A ring whose turn it is not, and that has completion credit, stays
as it is. -/
def Obligations.FetchTakesDescriptor : Prop :=
  ∀ (s : State) (f : Fn) (r : Nat) (bs : List Byte),
    (s.turnOf f = some r → s.visitLeft f = true →
      let u := s.readsHost f ((s.ring f r).sqBase + 64 * (s.ring f r).sqHead) 64
      exec (.descriptorFetch f r none) s = .next (haltRing f r 5 (s.ring f r).sqHead u) ∧
      ((f.val = 0 ∨ (s.corpus (pvOf f)).rstate = .confirmed ∨ isSearch (dOp (padTo 64 bs)) = true) →
        (descCheck (f.val == 0) (pvOf f) (padTo 64 bs) = none →
          ∃ t, exec (.descriptorFetch f r (some bs)) s = .next t ∧
            t.works = s.works ++ [⟨s.nextId, f, r, padTo 64 bs, bit (s.ring f r).ctl 1, s.hfn, .fetched, 0, 0, none⟩] ∧
            t.ring f r = { s.ring f r with
              sqHead := ((s.ring f r).sqHead + 1) % (s.ring f r).sqN, inFlight := (s.ring f r).inFlight + 1, parked := false } ∧
            (∀ g, g ≠ f → t.fn g = s.fn g) ∧
            t = { u with fns := t.fns, works := t.works, nextId := s.nextId + 1, qos := t.qos, stats := t.stats, pvStats := t.pvStats }) ∧
        (∀ st, descCheck (f.val == 0) (pvOf f) (padTo 64 bs) = some st →
          ∃ w x, exec (.descriptorFetch f r (some bs)) s = .next (failWork w st x) ∧ w.desc = padTo 64 bs ∧ w.fn = f ∧ w.ring = r ∧
            x.works = s.works ++ [w] ∧ x.out = u.out)) ∧
      (f.val ≠ 0 → (s.corpus (pvOf f)).rstate ≠ .confirmed → isSearch (dOp (padTo 64 bs)) = false →
        exec (.descriptorFetch f r (some bs)) s = .next (modRing f r (fun x => { x with parked := true }) u))) ∧
    (s.turnOf f ≠ some r → (s.ring f r).credit = true → ∀ got, exec (.descriptorFetch f r got) s = .next s)

open Sys2Proof Sys2Proof.Machine in
/-- Interrupts and the functions: `MOD_TIME` slots after the first unsignalled entry, by the fields latched with it, the vector fires and
both counts restart; unmasking fires a pending vector and no other; an access that is not an aligned word is an Unsupported Request if it
reads, and is reported as an error if it writes; the device power state is taken; VF Enable brings the first NumVFs functions into
existence. Resets of functions: a function-level reset of PF0 gives its host interface its reset state, takes back its control word of the
Lodge's channel and ends its work, and leaves every other function as it was; that of a VF takes its pavilion in reset from this frame,
with its work, queries, windows and queue pairs gone; while the pavilion is in reset a second one has no effect; a hot reset and the loss
of the link end PF0's work and put every enabled pavilion in reset; a cleared VF Enable puts them in reset and takes every VF away; the
end of a reset clears the mark. -/
def Obligations.InterruptsAndResets : Prop :=
  (∀ (s : State) (f : Fn),
      (∀ r n, (s.ring f r).modT = some n → ctlModTime (s.ring f r).irq ≤ n →
        exec (.msixModTimer f (some r)) s =
          .next (fire f (ctlVector (s.ring f r).irq) (modRing f r (fun x => { x with modN := 0, modT := none }) s))) ∧
      (∀ n, (s.fn f).eq.modT = some n → ctlModTime (s.fn f).eq.irq ≤ n →
        exec (.msixModTimer f none) s =
          .next (fire f (ctlVector (s.fn f).eq.irq) (modFn f (fun y => { y with eq := { y.eq with modN := 0, modT := none } }) s))) ∧
      (∀ r, (∀ n, (s.ring f r).modT = some n → n < ctlModTime (s.ring f r).irq) → exec (.msixModTimer f (some r)) s = .next s) ∧
      (∀ v, s.fnUp f = true → v < (s.fn f).msix.length → ((s.fn f).msix.getD v Msix.reset).pend = true →
        ∃ t, exec (.msixUnmask f v) s = .next t ∧ t.out = s.out ++ [.msix f v] ∧ t = { s with fns := t.fns, out := t.out } ∧
          bit ((t.fn f).msix.getD v Msix.reset).ctl 0 = false ∧ ((t.fn f).msix.getD v Msix.reset).pend = false) ∧
      (∀ v, s.fnUp f = true → ((s.fn f).msix.getD v Msix.reset).pend = false →
        ∃ t, exec (.msixUnmask f v) s = .next t ∧ t = { s with fns := t.fns }) ∧
      (∀ off len, s.linkUp = true → (s.fn f).enabled = true → (off % 4 ≠ 0 ∨ len ≠ 4) →
        exec (.bar0BadAccess f true off len) s = .next (emit (.aer f) s) ∧
        exec (.bar0BadAccess f false off len) s = .next (emit (.unsupported f) s)) ∧
      (∀ d3, s.linkUp = true → (s.fn f).enabled = true →
        exec (.devicePowerStateWrite f d3) s = .next (modFn f (fun y => { y with d3 := d3 }) s)) ∧
      (∀ n, s.linkUp = true → n ≤ 12 → (s.fns.drop 1).all (fun y => !y.enabled) = true →
        ∃ t, exec (.vfEnableSet n) s = .next t ∧ t = { s with fns := t.fns } ∧
          ∀ g : Fn, g.val < s.fns.length → t.fn g = if 1 ≤ g.val ∧ g.val ≤ n then { s.fn g with enabled := true } else s.fn g)) ∧
  (∀ s : State,
      (s.linkUp = true → 0 < s.fns.length →
        ∃ t, exec .pf0FunctionLevelReset s = .next t ∧ t.fn 0 = FnState.flr true (s.fn 0) ∧ (∀ g : Fn, g ≠ 0 → t.fn g = s.fn g) ∧
          t.works = s.works.filter (fun w => w.fn != 0) ∧ t.rx = { s.rx with ctl := 0#32 }) ∧
      (∀ p : Pv, s.linkUp = true → (s.fn (fnOf p.val)).enabled = true → s.pvInReset p.val = false → p.val < s.qos.inReset.length →
        ∃ t, exec (.functionLevelReset p) s = .next t ∧ t.qos.inReset = modifyAt s.qos.inReset p.val (fun _ => some s.hfn) ∧
          t.works = s.works.filter (fun w => w.fn != fnOf p.val) ∧ (∀ q ∈ t.scan.queries, q.pv ≠ p.val) ∧
          (∀ w ∈ t.fab.windows, w.pv ≠ p.val) ∧ (∀ q ∈ t.fab.qps, q.pv ≠ p.val) ∧
          t.fn (fnOf p.val) = FnState.flr false (s.fn (fnOf p.val))) ∧
      (∀ p : Pv, s.pvInReset p.val = true → exec (.functionLevelReset p) s = .next s) ∧
      (s.phase.up = true → ∃ t, exec .hotReset s = .next t ∧ t.side = { s.side with pcieClk := true } ∧ (∀ w ∈ t.works, w.fn ≠ 0) ∧
        ∀ p : Pv, (s.fn (fnOf p.val)).enabled = true → p.val < s.qos.inReset.length → t.pvInReset p.val = true) ∧
      (s.linkUp = true → ∃ t, exec .pcieRefclkLoss s = .next t ∧ t.side = { s.side with pcieClk := false } ∧
        (∀ w ∈ t.works, w.fn ≠ 0) ∧
        ∀ p : Pv, (s.fn (fnOf p.val)).enabled = true → p.val < s.qos.inReset.length → t.pvInReset p.val = true) ∧
      (s.linkUp = true → ∃ t, exec .vfEnableClear s = .next t ∧ (∀ g : Fn, g.val ≠ 0 → (t.fn g).enabled = false) ∧
        ∀ p : Pv, (s.fn (fnOf p.val)).enabled = true → p.val < s.qos.inReset.length → t.pvInReset p.val = true) ∧
      (∀ p : Pv, exec (.pavilionResetDone p) s =
        .next { s with qos := { s.qos with inReset := modifyAt s.qos.inReset p.val fun _ => none } }))

open Sys2Proof Sys2Proof.Machine in
/-- Reads and writes of BAR0 (parts of R8, R50, R52, R108, R272, R289, R390): a write that is not of 4 aligned bytes is dropped and
reported, and one to a function that is not up is lost; the writes of ORIGIN, of SCAN_STAT and of an MSI-X vector's mask, and of read-only
offsets of every function; an aligned read returns the register as it stands and changes nothing but the functions' latches, or, of
GPIO_IN, the levels sampled; a read of HFN_LO keeps the high half of the same frame number for HFN_HI; a function that is absent or in
reset, and a read that is not aligned, answer Unsupported Request. PERMIT_CAP, SCAN_CFG, RERANK_CFG and the share registers (parts of
R109, R135, R396, R398): a value in range replaces the register as written; a value out of range, or a share of flash or of merges that
would raise its sum above 1,000, changes no field and sets the block's CFG_REJECT. -/
def Obligations.RegisterAccesses : Prop :=
  (∀ (s : State) (f : Fn) (off : Nat) (v : W32),
      (s.fnUp f = false → exec (.registerWrite f off v) s = .next s) ∧
      (s.fnUp f = true → off % 4 ≠ 0 → exec (.registerWrite f off v) s = .next { s with out := s.out ++ [.aer f] }) ∧
      (s.fnUp f = true → off ∈ [0x000, 0x004, 0x008, 0x00C, 0x120, 0x124, 0x128, 0x12C, 0x130, 0x134, 0x138, 0x13C, 0x140, 0x164] →
        exec (.registerWrite f off v) s = .next s) ∧
      (s.fnUp 0 = true → s.clk.originLock = false →
        exec (.registerWrite 0 0x210 v) s = .next { s with clk := { s.clk with originLo := v } } ∧
        exec (.registerWrite 0 0x214 v) s = .next { s with clk := { s.clk with originHi := v &&& 0xFFFF#32 } }) ∧
      (s.fnUp 0 = true → s.clk.originLock = true →
        exec (.registerWrite 0 0x210 v) s = .next s ∧ exec (.registerWrite 0 0x214 v) s = .next s) ∧
      (s.fnUp 0 = true → exec (.registerWrite 0 0x308 v) s = .next { s with scan := { s.scan with
        scanReject := s.scan.scanReject && !bit v 0, hitStall := s.scan.hitStall && !bit v 1, seqRounds := s.scan.seqRounds && !bit v 2 } }) ∧
      (∀ i m, s.fnUp f = true → (s.fn f).msix[i]? = some m → i < 64 → m.pend = true → bit v 0 = false →
        ∃ t, exec (.registerWrite f (0x2000 + 16 * i + 12) v) s = .next t ∧ t.out = s.out ++ [.msix f i] ∧
          (∃ n, (t.fn f).msix[i]? = some n ∧ n = { m with ctl := v &&& 1#32, pend := false })) ∧
      (s.linkUp = true → s.fnUp f = false ∨ off % 4 ≠ 0 →
        exec (.hfnLoRead f off) s = .next { s with out := s.out ++ [.unsupported f] }) ∧
      (s.linkUp = true → s.fnUp f = true → off % 4 = 0 →
        (f.val ≠ 0 ∨ off ≠ 0xE08 → ∃ t, exec (.hfnLoRead f off) s = .next t ∧
          t.out = s.out ++ [.regData f off (readBar0 f s off)] ∧ t = { s with out := t.out, fns := t.fns }) ∧
        (f.val = 0 → off = 0xE08 → ∃ t, exec (.hfnLoRead f off) s = .next t ∧
          t = { s with out := t.out, fns := t.fns, free := t.free, side := { s.side with gpioPins := t.side.gpioPins } })) ∧
      (s.linkUp = true → s.fnUp 0 = true →
        exec (.hfnLoRead 0 0x208) s = .next { s with
          out := s.out ++ [.regData 0 0x208 (BitVec.ofNat 32 s.hfn)]
          fns := modifyAt s.fns 0 fun x => { x with hfnHi := BitVec.ofNat 32 (s.hfn / 2 ^ 32) } } ∧
        exec (.hfnLoRead 0 0x20C) s = .next { s with
          out := s.out ++ [.regData 0 0x20C (s.fn 0).hfnHi], fns := modifyAt s.fns 0 fun x => x } ∧
        exec (.hfnLoRead 0 0x300) s = .next { s with
          out := s.out ++ [.regData 0 0x300 s.scan.permitCap], fns := modifyAt s.fns 0 fun x => x }) ∧
      (s.linkUp = false → exec (.hfnLoRead f off) s = .next s)) ∧
  (∀ (s : State) (v : W32), s.bar0Up0 = true →
      (fld v 4 0 ≤ 16 → 24 ≤ fld v 21 16 → fld v 21 16 ≤ 36 →
        exec (.permitCapWrite v) s = .next { s with scan := { s.scan with permitCap := v &&& 0x003F_011F#32 } }) ∧
      (16 < fld v 4 0 ∨ fld v 21 16 < 24 ∨ 36 < fld v 21 16 →
        exec (.permitCapWrite v) s = .next { s with scan := { s.scan with scanReject := true } }) ∧
      (2 ≤ fld v 15 8 → exec (.scanCfgWrite v) s = .next { s with scan := { s.scan with scanCfg := v &&& 0x0000_FF07#32 } }) ∧
      (fld v 15 8 < 2 → exec (.scanCfgWrite v) s = .next { s with scan := { s.scan with scanReject := true } }) ∧
      (8 ≤ fld v 9 0 → fld v 9 0 ≤ 1000 →
        exec (.rerankCfgWrite v) s = .next { s with scan := { s.scan with rerankCfg := v &&& 0x0001_03FF#32 } }) ∧
      (fld v 9 0 < 8 ∨ 1000 < fld v 9 0 → exec (.rerankCfgWrite v) s = .next { s with scan := { s.scan with selReject := true } }) ∧
      (∀ p, p < 12 →
        (1 ≤ fld v 15 8 → 1 ≤ fld v 22 16 → fld v 22 16 ≤ 100 →
          exec (.shareRegWrite (0xA00 + 16 * p) v) s = .next { s with
            qos := { s.qos with weight := modifyAt s.qos.weight p fun _ => v &&& 0x007F_FFFF#32 } }) ∧
        (fld v 15 8 = 0 ∨ fld v 22 16 = 0 ∨ 100 < fld v 22 16 →
          exec (.shareRegWrite (0xA00 + 16 * p) v) s = .next { s with qos := { s.qos with cfgReject := true } }) ∧
        (fld v 9 0 ≤ 1000 → fld v 19 10 ≤ 1000 → sumOthers s.qos.flash p 9 0 + fld v 9 0 ≤ 1000 →
          sumOthers s.qos.flash p 19 10 + fld v 19 10 ≤ 1000 →
          exec (.shareRegWrite (0xA00 + 16 * p + 4) v) s = .next { s with
            qos := { s.qos with flash := modifyAt s.qos.flash p fun _ => v &&& 0x000F_FFFF#32 } }) ∧
        (1000 < sumOthers s.qos.flash p 9 0 + fld v 9 0 → fld (s.qos.flash.getD p 0#32) 9 0 < fld v 9 0 →
          exec (.shareRegWrite (0xA00 + 16 * p + 4) v) s = .next { s with qos := { s.qos with cfgReject := true } }) ∧
        (fld v 9 0 ≤ 1000 → sumOthers s.qos.merge p 9 0 + fld v 9 0 ≤ 1000 →
          exec (.shareRegWrite (0xA00 + 16 * p + 8) v) s = .next { s with
            qos := { s.qos with merge := modifyAt s.qos.merge p fun _ => v &&& 0x3FF#32 } }) ∧
        (1000 < sumOthers s.qos.merge p 9 0 + fld v 9 0 → fld (s.qos.merge.getD p 0#32) 9 0 < fld v 9 0 →
          exec (.shareRegWrite (0xA00 + 16 * p + 8) v) s = .next { s with qos := { s.qos with cfgReject := true } }) ∧
        exec (.shareRegWrite (0xA00 + 16 * p + 12) v) s = .next { s with
          qos := { s.qos with quota := modifyAt s.qos.quota p fun _ => v &&& 0x00FF_FFFF#32 } }) ∧
      exec (.shareRegWrite 0xAC0 v) s = .next s)

open Sys2Proof Sys2Proof.Machine in
/-- Compaction and selection units (R101, R103, R111, R112): a hit that fails a test is dropped and nothing else changes; one that passes
is counted in the query's histogram and enters its lane while the lane has room; in a full lane it takes the place of the worst entry if
it is better, and the lane keeps its entries if it is not. Lane drains, claims and steals (R99, R105, R113): once no engine of a die has a
tile of a query's batch left, and no hit of it waits there, its lanes empty into what waits for the leaf of the merge tree; the die path
takes an unstarted tile at the tail of a bank queue when it has none of its own; an idle engine whose slot is granted to scan takes half
of the remaining tiles of the busiest one of its die, else of its quadrant, if it has at least STEAL_MIN. -/
def Obligations.CompactionAndDrains : Prop :=
  (∀ (s : State) (i : Nat) (h : Hit), s.live = true → s.scan.hits[i]? = some h →
      ∀ q t x r, s.hitAt h q t x r →
        (¬ s.passes h q t x r →
          exec (.hitCompaction i) s = .next { s with scan := { s.scan with hits := s.scan.hits.eraseIdx i } }) ∧
        (s.passes h q t x r →
          ∃ u q', exec (.hitCompaction i) s = .next u ∧ u.scan.hits = s.scan.hits.eraseIdx i ∧ u.query? h.qid = some q' ∧
            q'.hist = modifyAt q.hist h.sim (fun n => satTo 65535 (n + 1)) ∧ q'.thr = q.thr ∧ u.works = s.works ∧
            u.corpora = s.corpora ∧
            ((s.laneOf h).length < min 64 q.q.c → u.laneOf h = s.laneOf h ++ [⟨h.sim, r, h.lean, h.slot⟩] ∧ u.scan.tree = s.scan.tree) ∧
            (∀ m, min 64 q.q.c ≤ (s.laneOf h).length → worstOf (s.laneOf h) = some m →
              (m.sim < h.sim → u.laneOf h = (s.laneOf h).erase m ++ [⟨h.sim, r, h.lean, h.slot⟩]) ∧
              (h.sim ≤ m.sim → u.scan.lanes = s.scan.lanes)))) ∧
  (∀ s : State, s.live = true →
      (∀ batch qid die b q, s.sbatch? batch = some b → s.query? qid = some q →
        (b.view ≠ none → ¬ s.lanesLeft b qid die →
          ∃ u, exec (.laneDrain batch qid die) s = .next u ∧
            u.scan.lanes = s.scan.lanes.filter (fun l => !(l.batch == batch && l.qid == qid && l.die == die)) ∧
            ((∀ l ∈ s.scan.lanes, ¬ (l.batch = batch ∧ l.qid = qid ∧ l.die = die)) → u.scan.tree = s.scan.tree) ∧
            (∀ l, s.scan.lanes.filter (fun l => l.batch == batch && l.qid == qid && l.die == die) = [l] → (∃ e ∈ l.ents, q.thr ≤ e.sim) →
              (∀ x ∈ s.scan.tree, ¬ (x.level = 0 ∧ x.place = die ∧ x.qid = qid)) →
              u.scan.tree = s.scan.tree ++ [⟨0, die, qid, l.ents.filter fun e => decide (q.thr ≤ e.sim)⟩])) ∧
        (b.view = none ∨ s.lanesLeft b qid die → exec (.laneDrain batch qid die) s = .next s)) ∧
      (∀ batch i die b t, s.sbatch? batch = some b → b.tiles[i]? = some t →
        (b.view ≠ none → bit b.cfg 2 = true → die ∈ s.quadDies b.quad → t.inBank = true → t.passes = 0 → t.done = false →
          b.bankTail t = some i → (∀ c ∈ s.scan.batches, ∀ j ∈ c.jobs, ∀ k ∈ j.tiles, ∀ y, c.tiles[k]? = some y → y.stk ≠ t.stk) →
          ∃ u b', exec (.tileClaim batch i die) s = .next u ∧ u.sbatch? batch = some b' ∧ b'.tiles[i]? = some { t with inBank := false } ∧
            (∃ js, b'.jobs = b.jobs ++ js ∧ ∀ j ∈ js, j.die = die ∧ j.tiles = [i] ∧ j.pv = t.pv) ∧ u.scan.hits = s.scan.hits) ∧
        (b.view = none ∨ bit b.cfg 2 = false ∨ t.inBank = false ∨ 0 < t.passes ∨ t.done = true ∨ b.bankTail t ≠ some i →
          exec (.tileClaim batch i die) s = .next s)) ∧
      (∀ die e ve j rest b, s.jobsOf die ve = j :: rest → rest = [] → s.sbatch? j.batch = some b →
        ((die, e) ∈ s.engines → s.jobsOf die e = [] → s.slotOpen die false e = true → bit b.cfg 0 = true →
          fld b.cfg 15 8 ≤ j.tiles.length →
          (∀ x ∈ s.engines, x.1 = die → ∀ k ∈ s.jobsOf x.1 x.2, k.tiles.length ≤ j.tiles.length) →
          ∃ u m, exec (.steal die e die ve) s = .next u ∧ u.scan.steals = s.scan.steals + 1 ∧
            u.sbatch? j.batch = some { b with
              jobs := mapIf (· == j) (fun k => { k with tiles := j.tiles.take (j.tiles.length - j.tiles.length / 2) }) b.jobs ++
                [{ j with eng := e, tiles := j.tiles.drop (j.tiles.length - j.tiles.length / 2), ran := [], mark := m, saved := none, die := die }] }) ∧
        (bit b.cfg 0 = false ∨ s.jobsOf die e ≠ [] ∨ j.tiles.length < fld b.cfg 15 8 → exec (.steal die e die ve) s = .next s)) ∧
      (∀ die e vdie ve j b, s.jobsOf vdie ve = [j] → s.sbatch? j.batch = some b → vdie ≠ die → vdie / 6 = die / 6 → (die, e) ∈ s.engines →
        s.jobsOf die e = [] → s.slotOpen die false e = true → bit b.cfg 0 = true → bit b.cfg 1 = true → 0 < fld b.cfg 15 8 →
        fld b.cfg 15 8 ≤ j.tiles.length →
        (∀ x ∈ s.engines, x.1 = die → ∀ k ∈ s.jobsOf x.1 x.2, k.tiles.length < fld b.cfg 15 8) →
        (∀ x ∈ s.engines, x.1 ≠ die → x.1 / 6 = die / 6 → ∀ k ∈ s.jobsOf x.1 x.2, k.tiles.length ≤ j.tiles.length) →
        ∃ u m, exec (.steal die e vdie ve) s = .next u ∧ u.scan.steals = s.scan.steals + 1 ∧
          u.sbatch? j.batch = some { b with
            jobs := mapIf (· == j) (fun k => { k with tiles := j.tiles.take (j.tiles.length - j.tiles.length / 2) }) b.jobs ++
              [{ j with eng := e, tiles := j.tiles.drop (j.tiles.length - j.tiles.length / 2), ran := [], mark := m, saved := none, die := die }] }) ∧
      (∀ die e vdie ve, s.jobsOf vdie ve = [] → exec (.steal die e vdie ve) s = .next s))

open Sys2Proof Sys2Proof.Machine in
/-- Candidate records (R119, R120, R217): a record that can be read gives its candidate its bytes and the tier they came from, one that
cannot, or that the host does not deliver, removes the candidate with its status; one that has gone to T3 is asked for by partial-page
reads, and comes when they have ended; a wait that ends removes every candidate that still waits and sets FETCH_LATE; before that nothing
happens. Re-rank blocks (R121, R122, R142, R166, R383): an idle tensor array whose slot the query is granted gives a block of at most 64
candidates whose records have come their exact scores, a record that is bad plus infinity; once every candidate has one, the scorer scores
the best of them, in blocks as large as its activations allow; an idle array may take half of what the busiest array has left, on the
terms of R105, and the block's sums are then made in another order. -/
def Obligations.CandidatesAndBlocks : Prop :=
  (∀ (s : State) (qid : Nat) (q : Query), s.query? qid = some q → s.live = true →
      (∀ i c a n ok, q.stage = .fetching → q.cands[i]? = some c → c.st = .waiting → s.recordOf q c = some (a, n) →
        (s.tierOf q.pv a ≠ 3 ∨ (c.asked = true ∧ s.flash.asked q.pv (.cand qid i) = false) → ok = true ∨ s.tierOf q.pv a ≠ 2 →
          (accessErr s q.pv a n = none →
            ∃ t q' bs, exec (.vectorRecordArrival qid i ok) s = .next t ∧ t.query? qid = some q' ∧ bs = (readFor q.pv a n 0 s).1.2 ∧
              ((∀ g ∈ (s.range q.pv).pages, g.errs = []) → bs = (s.range q.pv).read a n) ∧
              q' = { q with cands := modifyAt q.cands i fun c => { c with st := .got (s.tierOf q.pv a) bs, record := bs } }) ∧
          (∀ st, accessErr s q.pv a n = some st →
            ∃ t q', exec (.vectorRecordArrival qid i ok) s = .next t ∧ t.query? qid = some q' ∧ q'.bad = q.bad ++ [st] ∧
              q'.nLost = q.nLost + 1 ∧ q'.cands = modifyAt q.cands i fun c => { c with st := .lost })) ∧
        (s.tierOf q.pv a = 3 → c.asked = false →
          exec (.vectorRecordArrival qid i ok) s =
            .next (modCand qid i (fun c => { c with asked := true }) (askKib 2 q.pv a n (.cand qid i) s))) ∧
        (s.tierOf q.pv a = 3 → c.asked = true → s.flash.asked q.pv (.cand qid i) = true →
          exec (.vectorRecordArrival qid i ok) s = .next s) ∧
        (s.tierOf q.pv a = 2 → ok = false →
          exec (.vectorRecordArrival qid i ok) s = .next (loseCand qid i .memUncorrectable (memError q.pv 2 0 (a / 64 * 64) s)))) ∧
      (∀ i ok, q.stage ≠ .fetching ∨ q.cands[i]? = none ∨ (∃ c, q.cands[i]? = some c ∧ c.st ≠ .waiting) →
        exec (.vectorRecordArrival qid i ok) s = .next s) ∧
      (q.stage = .fetching → q.formedAt + q.fetchWait < s.hfn → (∃ c ∈ q.cands, c.st = .waiting) →
        ∃ t q', exec (.fetchWaitExpiry qid) s = .next t ∧ t.query? qid = some q' ∧ t.scan.fetchLate = true ∧
          q'.nLost = q.nLost + (q.cands.filter fun c => c.st.isWaiting).length ∧ Status.timeout ∈ q'.bad ∧
          q'.cands = q.cands.map (fun c => if c.st.isWaiting then { c with st := .lost } else c) ∧ t.works = s.works) ∧
      (s.hfn ≤ q.formedAt + q.fetchWait ∨ (∀ c ∈ q.cands, c.st ≠ .waiting) → exec (.fetchWaitExpiry qid) s = .next s)) ∧
  (∀ (s : State) (qid : Nat) (q : Query) (idxs : List Nat) (die ta : Nat), s.query? qid = some q → s.live = true →
      (∀ bor, q.stage = .fetching → idxs ≠ [] → s.taGrant die ta q = some bor →
        (idxs.length ≤ 64 →
          (∀ i ∈ idxs, ∃ c tier bs b, q.cands[i]? = some c ∧ c.st = .got tier bs ∧ (s.corpus q.pv).recBundle q c.sel.ent = some b) →
          ∃ t q', exec (.rerankBlock qid idxs die ta) s = .next t ∧ t.query? qid = some q' ∧ q'.stage = .fetching ∧
            (∀ i c tier bs b, q.cands[i]? = some c → c.st = .got tier bs → (s.corpus q.pv).recBundle q c.sel.ent = some b →
              q'.cands[i]? = some (if i ∈ idxs then
                { c with st := .scored tier ((exactOf s.free q b bs).getD F32.posInf) false, exact := (exactOf s.free q b bs).getD F32.posInf }
                else c)) ∧
            (∃ n, t.scan.taUse = s.scan.taUse ++ [⟨die, ta, qid, idxs, n⟩]) ∧ t.works = s.works ∧ t.out = s.out) ∧
        (∀ p, s.scorerOf q = some p → q.allExact = true → idxs.length ≤ p.blockRows →
          (∀ i ∈ idxs, i ∈ scorerSet q ∧ ∃ c, q.cands[i]? = some c ∧ c.st.isExact = true) →
          ∃ t q', exec (.rerankBlock qid idxs die ta) s = .next t ∧ t.query? qid = some q' ∧
            (∀ i ∈ idxs, ∃ c tier v, q'.cands[i]? = some c ∧ c.st = .scored tier v true) ∧ t.works = s.works ∧ t.out = s.out)) ∧
      (q.stage ≠ .fetching ∨ idxs = [] ∨ 64 < idxs.length ∨ s.taGrant die ta q = none → exec (.rerankBlock qid idxs die ta) s = .next s) ∧
      (∀ vdie vta v p bor, s.scan.taUse.find? (fun u => u.die == vdie && u.ta == vta && u.qid == qid) = some v → q.stage = .fetching →
        s.taIdle die ta = true → bit s.scan.scanEff 0 = true → fld s.scan.scanEff 15 8 ≤ v.left →
        (vdie = die ∧ (∀ u ∈ s.scan.taUse, u.die = die → u.left ≤ v.left)) ∨
          (vdie ≠ die ∧ vdie / 6 = die / 6 ∧ bit s.scan.scanEff 1 = true ∧
            (∀ u ∈ s.scan.taUse, u.die = die → u.left < fld s.scan.scanEff 15 8) ∧
            (∀ u ∈ s.scan.taUse, u.die ≠ die → u.die / 6 = die / 6 → u.left ≤ v.left)) →
        s.qos.pick .ta die [(q.pv, 0)] = some (p, bor) →
        ∃ t, exec (.tensorSteal qid die ta vdie vta) s = .next t ∧ t.free = s.free + 1 ∧
          t.scan.taUse = mapIf (· == v) (fun u => { u with left := v.left - v.left / 2 }) s.scan.taUse ++ [⟨die, ta, qid, v.idxs, v.left / 2⟩] ∧
          t.works = s.works ∧ t.out = s.out) ∧
      (∀ vdie vta, q.stage ≠ .fetching ∨ s.taIdle die ta = false ∨ bit s.scan.scanEff 0 = false ∨
        (∀ u ∈ s.scan.taUse, ¬ (u.die = vdie ∧ u.ta = vta ∧ u.qid = qid)) ∨ die / 6 ≠ vdie / 6 →
        exec (.tensorSteal qid die ta vdie vta) s = .next s))

open Sys2Proof Sys2Proof.Machine in
/-- The node's top k and its rows (R124, R127): once every candidate is scored or removed the best k form the node's part, complete at
once when no rows are wanted; rows that have not come when their wait ends are marked and the part is complete without them. The final
merge (R116, R118, R124 to R132, R307, R337): a query whose parts are all there, with k entries, writes its result buffer and its status
record, which is OK when nothing was lost and the buffer holds it; one with fewer entries and plots left in its budget goes round again; a
PARTIAL that does not come in time is given up with TIMEOUT. -/
def Obligations.TopKAndMerge : Prop :=
  (∀ (s : State) (qid : Nat) (q : Query), s.query? qid = some q → s.live = true → q.origin = none →
      (q.stage = .fetching → (∀ c ∈ q.cands, c.st.isWaiting = false ∧ c.st.isGot = false) → s.scorerOf q = none → q.q.payWant = false →
        ∀ ok, ∃ t q' x, exec (.nodeTopk qid ok) s = .next t ∧ t.query? qid = some q' ∧ q'.stage = .localDone ∧ q'.parts = q.parts ++ [x] ∧
          x.node = s.node ∧ (x.ents, x.kth, x.tieOut) = cutTop q.q.metric q.q.k (q.cands.filterMap (entOf false)) ∧ x.nLost = q.nLost ∧
          x.st = firstStatus q.bad ∧ t.works = s.works ∧ t.out = s.out) ∧
      (q.stage ≠ .fetching ∨ (∃ c ∈ q.cands, c.st.isWaiting = true ∨ c.st.isGot = true) →
        ∀ ok, exec (.nodeTopk qid ok) s = .next s) ∧
      (q.stage = .gathering → q.gatherAt + q.fetchWait < s.hfn → (∃ e ∈ q.top, e.row = none) →
        ∃ t q' x, exec (.payloadWaitExpiry qid) s = .next t ∧ t.query? qid = some q' ∧ t.scan.fetchLate = true ∧ q'.stage = .localDone ∧
          q'.parts = q.parts ++ [x] ∧ x.ents = q.top.map (fun e => if e.row.isNone then { e with payErr := true, row := some [] } else e) ∧
          t.works = s.works ∧ t.out = s.out) ∧
      (q.stage ≠ .gathering ∨ s.hfn ≤ q.gatherAt + q.fetchWait ∨ (∀ e ∈ q.top, e.row ≠ none) →
        exec (.payloadWaitExpiry qid) s = .next s)) ∧
  (∀ (s : State) (qid : Nat) (q : Query), s.query? qid = some q → s.live = true → q.origin = none →
      (∀ w, q.stage = .localDone → q.awaitNodes = [] → s.work q.work = some w → s.fnUp w.fn = true → (mergeParts q).1.length = q.q.k →
        0 < q.q.k → q.bad = [] → (∀ x ∈ q.parts, x.st = .ok) → extent q.q.payWant (fld (s.corpus q.pv).corpusCfg 13 8 * 64) q.q.k q.q.k ≤ q.q.bufLen →
        (resultBytes q (fld (s.corpus q.pv).corpusCfg 13 8 * 64) (mergeParts q).1 (mergeParts q).2.2).1 ≠ [] →
        ∃ t r rest, exec (.finalMerge qid) s = .next t ∧ r.length = 32 ∧ field r 0 1 = Status.ok.code ∧ field r 4 2 = q.q.k % 65536 ∧
          t.out = s.out ++ [.write w.fn q.q.bufAddr
            (resultBytes q (fld (s.corpus q.pv).corpusCfg 13 8 * 64) (mergeParts q).1 (mergeParts q).2.2).1 .snooped,
            .write w.fn (field w.desc 24 8 + 32 * q.idx) r .snooped] ++ rest) ∧
      (q.stage = .localDone → q.awaitNodes = [] → (mergeParts q).1.length < q.q.k → q.widenEn = true → q.q.sweep = false → nextRound q ≠ [] →
        (∀ k ∈ nextRound q, routePlot s.comp.map qid q.pv k = .to s.node) →
        ∃ t q', exec (.finalMerge qid) s = .next t ∧ t.query? qid = some q' ∧ q'.stage = .routed ∧ q'.plots = nextRound q ∧
          q'.rounds = q.rounds + 1 ∧ q'.order = q.order.drop (nextRound q).length ∧ q'.parts = q.parts ∧
          q'.widenLeft = q.widenLeft - (nextRound q).length ∧ q'.cands = [] ∧ t.works = s.works ∧ t.out = s.out) ∧
      (q.stage ≠ .localDone ∨ q.awaitNodes ≠ [] → exec (.finalMerge qid) s = .next s) ∧
      (q.stage.over = false → (∃ r ∈ q.awaitNodes, r.sentAt + 2 * q.fetchWait < s.hfn) →
        ∃ t q', exec (.partialWaitExpiry qid) s = .next t ∧ t.query? qid = some q' ∧
          q' = { q with bad := q.bad ++ [.timeout], awaitNodes := q.awaitNodes.filter fun r => !decide (r.sentAt + 2 * q.fetchWait < s.hfn) } ∧
          t = { s with scan := t.scan }) ∧
      ((∀ r ∈ q.awaitNodes, s.hfn ≤ r.sentAt + 2 * q.fetchWait) → exec (.partialWaitExpiry qid) s = .next s))

open Sys2Proof Sys2Proof.Machine in
/-- Search descriptors (R186, R277, R297, R304 to R308): the records are read from host memory; records that cannot be read are
BAD_ADDRESS, a pavilion without resources here is QUOTA, an epoch that is not served gives the descriptor its status; each record then
becomes a query, valid or with the status of its first failed check, and the descriptor waits for admission; if none is valid it completes
at once. Admission of queries (R31, R44, R186, R194, R306): every valid query of the descriptor takes the frame in progress as its
snapshot and the epoch in force; an epoch no longer served ends the descriptor with the status of its epoch (R186); one staged with a
cutover committed holds it; nothing is admitted while admission is closed. -/
def Obligations.SearchAdmission : Prop :=
  (∀ (s : State) (wid : Nat) (w : Work), s.work wid = some w →
      ∀ x ∈ [(opSearch, Instr.search wid), (opSearchBatch, Instr.searchBatch wid)],
      (s.live = true → w.stage = .fetched → dOp w.desc = x.1 → w.fn.val ≠ 0 →
        exec (x.2 none) s = .next (failWork w .badAddress (s.readsRecords w)) ∧
        (∀ rs, s.composed (pvOf w.fn) = false → exec (x.2 (some rs)) s = .next (failWork w .quota (s.readsRecords w))) ∧
        (∀ rs st, s.composed (pvOf w.fn) = true → searchEpoch s (pvOf w.fn) (dEpoch w.desc) = .inl st →
          exec (x.2 (some rs)) s = .next (failWork w st (s.readsRecords w))) ∧
        (∀ rs b, s.composed (pvOf w.fn) = true → searchEpoch s (pvOf w.fn) (dEpoch w.desc) = .inr b →
          ((∃ i, i < dCount w.desc ∧ s.recordCheck w b (rs.getD i []) = none) →
            ∃ t qs, exec (x.2 (some rs)) s = .next t ∧ t.scan.queries = s.scan.queries ++ qs ∧ qs.map (·.idx) = List.range (dCount w.desc) ∧
              (∀ q ∈ qs, q.work = wid ∧ q.pv = pvOf w.fn ∧ q.epoch = b.epoch ∧ q.q = readQRec (rs.getD q.idx []) ∧
                q.stage = (match s.recordCheck w b (rs.getD q.idx []) with | some st => .invalid st | none => .valid)) ∧
              t.works = mapIf (fun y => y.id == wid) (fun y => { y with stage := .waiting }) s.works ∧ t.out = (s.readsRecords w).out) ∧
          ((∀ i, i < dCount w.desc → s.recordCheck w b (rs.getD i []) ≠ none) → (∀ q ∈ s.scan.queries, q.work ≠ wid) →
            ∃ t, exec (x.2 (some rs)) s = .next t ∧ t.work wid = none ∧ t.scan.queries = s.scan.queries))) ∧
      (∀ r, s.live = false ∨ w.stage ≠ .fetched ∨ dOp w.desc ≠ x.1 → exec (x.2 r) s = .next s)) ∧
  (∀ (s : State) (wid : Nat) (w : Work), s.work wid = some w →
      (s.opensQueries w → w.stage = .waiting → isSearch (dOp w.desc) = true →
        (∀ st, searchEpoch s (pvOf w.fn) (dEpoch w.desc) = .inl st →
          exec (.queryAdmission wid) s = .next (failWork w st { s with scan := { s.scan with
            queries := s.scan.queries.filter fun q => !(q.work == wid && q.origin.isNone) } })) ∧
        (∀ b, searchEpoch s (pvOf w.fn) (dEpoch w.desc) = .inr b →
          ((s.corpus (pvOf w.fn)).inForce s.hfn ≠ some b → exec (.queryAdmission wid) s = .next s) ∧
          ((s.corpus (pvOf w.fn)).inForce s.hfn = some b →
            (∀ q ∈ s.scan.queries, q.work = wid → q.origin = none → q.stage = .valid ∧ q.epoch = b.epoch) →
            (∃ q ∈ s.scan.queries, q.work = wid ∧ q.origin = none) →
            ∃ t, exec (.queryAdmission wid) s = .next t ∧
              t.scan.queries = mapIf (fun q => q.work == wid && q.origin.isNone)
                (Query.admitted_ { s with nextId := s.nextId + 1 } (s.corpus (pvOf w.fn)) b s.nextId) s.scan.queries ∧
              (∀ q ∈ t.scan.queries, q.work = wid → q.origin = none → q.stage = .admitted ∧ q.snapshot = s.hfn ∧ q.epoch = b.epoch ∧ q.admSeq = s.nextId) ∧
              t.works = mapIf (fun x => x.id == wid) (fun x => { x with stage := .running }) s.works ∧ t.out = s.out))) ∧
      (s.admits = false ∨ s.pvInReset (pvOf w.fn) = true ∨ s.suspended = true ∨ (s.corpus (pvOf w.fn)).rstate = .loading ∨
        ((s.corpus (pvOf w.fn)).rstate = .provisional ∧ w.prov = false) ∨ w.stage ≠ .waiting →
        exec (.queryAdmission wid) s = .next s))

open Sys2Proof Sys2Proof.Machine in
/-- Encoding, routing and held queries (R17, R138, R154, R156, R176, R371): on an array of a die that is granted to it, an admitted query
is rotated and coded and its plots ordered, and the array is used for the slot; without the grant nothing happens; its PROBES nearest
plots are routed by the map, those of this node to its scan batches; a query that waits ten frames for a frame the node does not see is
answered LAGGING. -/
def Obligations.EncodingAndRouting : Prop :=
  ∀ s : State,
    (∀ qid die ta bor q b, s.query? qid = some q → s.live = true → q.stage = .admitted → s.taGrant die ta q = some bor → (s.corpus q.pv).bundle? q.epoch = some b →
      q.q.sweep = false → (∀ k ∈ (b.order (b.codeQuery (b.rotate q.vector))).take q.q.probes,
        routePlot s.comp.map qid q.pv k = .to s.node) →
      (b.order (b.codeQuery (b.rotate q.vector))).take q.q.probes ≠ [] →
      ∃ t q', exec (.queryEncode ⟨qid, die, ta⟩) s = .next t ∧ t.query? qid = some q' ∧ q'.code = b.codeQuery (b.rotate q.vector) ∧
        q'.sketch = b.sketch q'.code ∧ q'.plots = (b.order q'.code).take q.q.probes ∧ q'.order = (b.order q'.code).drop q.q.probes ∧
        q'.stage = .routed ∧ q'.awaitNodes = q.awaitNodes ∧ q'.bad = q.bad ∧ q'.snapshot = q.snapshot ∧ t.out = s.out ∧
        t.works = s.works ∧ t.scan.taUse = s.scan.taUse ++ [⟨die, ta, qid, [], 0⟩]) ∧
    (∀ qid die ta q, s.query? qid = some q →
      q.stage ≠ .admitted ∨ s.live = false ∨ (s.corpus q.pv).bundle? q.epoch = none ∨ s.taGrant die ta q = none →
      exec (.queryEncode ⟨qid, die, ta⟩) s = .next s) ∧
    (∀ q, s.live = true → s.query? q.id = some q → s.heldLate q → q.origin = none →
      (∀ x ∈ s.scan.queries, s.heldLate x → x = q) →
      ∃ t q', exec .heldQueryLagging s = .next t ∧ t.upd = { s.upd with laggingSeen := true } ∧ t.query? q.id = some q' ∧
        q'.stage = .localDone ∧ q'.toJoin = [] ∧ Status.lagging ∈ q'.bad ∧ t.works = s.works) ∧
    ((∀ q ∈ s.scan.queries, ¬ s.heldLate q) → exec .heldQueryLagging s = .next s)

open Sys2Proof Sys2Proof.Machine in
/-- Moves at the old owner (R363, R367 to R369): the transfer starts at the boundary after A once the settled frame has reached A - 1; an
OK acknowledgement tells the leading keeper, any other repeats the transfer at most three times; HANDOFF is sent again every 50 frames;
state that is pulled is sent; what is moved is freed after the drain deadline, once no query names it. Moves at the receiver and the
keepers (R189, R367 to R369): a transfer that is short is INCOMPLETE, one whose digest differs BAD_DIGEST, a complete one is placed and
acknowledged OK, again when HANDOFF is repeated; MOVE_DONE of the move in progress, and a HOLD_CLAIM whose old owner is suspended, log
MOVE_END; RS_DONE takes its sender off the list of RESKETCH. -/
def Obligations.Moves : Prop :=
  (∀ (s : State) (p : Pv) (plot src : Nat),
      (∀ m, s.comp.out.find? (fun m => m.tok.pv == p.val && m.tok.plot == plot && m.stage == .begun) = some m →
        (s.live = true → s.flushing = false → s.clk.slot = none → m.act + 1 ≤ s.hfn → m.act - 1 ≤ (s.corpus p.val).settledF →
          ∃ t, exec (.moveTransferStart p plot) s = .next t ∧
            t.fab.reqs = s.fab.reqs ++ [⟨s.fab.nextMsg, m.recv, .move m.tok.epoch p.val plot, []⟩] ∧
            t.fab.coal = s.fab.coal ++ [⟨m.recv, 3, jWrite, p.val, s.fab.nextMsg,
              .map (.versions m.tok (s.plotVers p.val plot (m.act - 1)))⟩] ∧
            t.comp.out = mapIf (·.tok == m.tok) (fun x => { x with
              stage := .transferring, vers := (s.plotVers p.val plot (m.act - 1)).length
              bytes := (s.corpus p.val).transferBytes (s.plotVers p.val plot (m.act - 1)) }) s.comp.out ∧ t.out = s.out) ∧
        (s.clk.slot ≠ none ∨ s.hfn < m.act + 1 ∨ (s.corpus p.val).settledF < m.act - 1 → exec (.moveTransferStart p plot) s = .next s)) ∧
      (∀ tok m, s.hears src = true → s.comp.out.find? (fun m => m.tok == tok && m.recv == src) = some m →
        (m.stage = .handoff → s.comp.keeper.role ≠ 2 → ∀ l, s.comp.keeper.leader = some l →
          exec (.handoffAck src tok 0) s = .next (sendMap l (.moveDone tok) { s with comp := { s.comp with
            out := mapIf (·.tok == tok) (fun m => { m with stage := .done }) s.comp.out } })) ∧
        (∀ r, m.stage = .handoff → r ≠ 0 →
          (m.tries < 3 → exec (.handoffAck src tok r) s = .next { s with comp := { s.comp with
            out := mapIf (·.tok == tok) (fun m => { m with stage := .begun, tries := m.tries + 1 }) s.comp.out } }) ∧
          (3 ≤ m.tries → exec (.handoffAck src tok r) s = .next (propose (.moveAbort tok.pv tok.plot) none none s))) ∧
        (m.stage = .ended → exec (.handoffAck src tok 0) s = .next { s with comp := { s.comp with
            out := mapIf (·.tok == tok) (fun m => { m with pulled := false }) s.comp.out } }) ∧
        (∀ r, m.stage = .begun ∨ m.stage = .transferring ∨ m.stage = .done → exec (.handoffAck src tok r) s = .next s)) ∧
      (∀ m, s.comp.out.find? (fun m => m.tok.pv == p.val && m.tok.plot == plot && m.stage == .handoff) = some m →
        (s.live = true → m.lastSent + 50 ≤ s.hfn → exec (.handoffResend p plot) s = .next { sendMap m.recv
            (.handoff m.tok (m.act - 1) m.vers m.bytes) s with
          comp := { s.comp with
            out := mapIf (·.tok == m.tok)
              (fun m => { m with stage := if m.stage = .transferring then .handoff else m.stage, lastSent := s.hfn }) s.comp.out } }) ∧
        (s.hfn < m.lastSent + 50 → exec (.handoffResend p plot) s = .next s)) ∧
      (∀ tok off, s.hears src = true → tok.pv < 12 →
        (s.takes tok.pv tok.plot = true ∨ (∃ m ∈ s.comp.out, m.tok = tok) → exec (.statePull src tok off) s = .next (sendMap src
          (.handoff tok s.hfn (s.plotVers tok.pv tok.plot s.hfn).length
            ((s.corpus tok.pv).transferBytes (s.plotVers tok.pv tok.plot s.hfn)))
          (sendMap src (.versions tok ((s.plotVers tok.pv tok.plot s.hfn).drop off)) { s with comp := { s.comp with
            out := mapIf (·.tok == tok) (fun m => { m with pulled := true }) s.comp.out } }))) ∧
        (s.takes tok.pv tok.plot = false → (∀ m ∈ s.comp.out, m.tok ≠ tok) → exec (.statePull src tok off) s = .next s)) ∧
      (∀ m, s.comp.out.find? (fun m => m.tok.pv == p.val && m.tok.plot == plot && m.stage == .ended) = some m →
        (∀ a, m.a2 = some a → s.live = true → a + 2 < s.hfn → m.pulled = false → s.plotBusy p.val plot = false →
          (s.takes p.val plot = true → exec (.moveStateFree p plot) s = .next { s with comp := { s.comp with
            out := s.comp.out.filter (·.tok != m.tok) } }) ∧
          (s.takes p.val plot = false → exec (.moveStateFree p plot) s = .next (dropPlot p.val plot { s with comp := { s.comp with
            out := s.comp.out.filter (·.tok != m.tok) } }))) ∧
        ((∃ a, m.a2 = some a ∧ s.hfn ≤ a + 2) ∨ m.pulled = true ∨ s.plotBusy p.val plot = true →
          exec (.moveStateFree p plot) s = .next s)) ∧
      (s.comp.out = [] → exec (.moveTransferStart p plot) s = .next s ∧ exec (.handoffResend p plot) s = .next s ∧
        exec (.moveStateFree p plot) s = .next s)) ∧
  (∀ (s : State) (src : Nat) (tok : Token),
      (∀ m snap el vs ok, s.hears src = true → tok.pv < 12 → s.comp.inn.find? (fun m => m.tok == tok && m.owner == src) = some m →
        (m.held = true → exec (.handoff src tok snap el vs ok) s = .next (sendMap src (.handoffAck tok 0) s)) ∧
        (m.held = false →
          (vs.length < el → exec (.handoff src tok snap el vs ok) s = .next (sendMap src (.handoffAck tok 2) { s with
            comp := { s.comp with inn := mapIf (·.tok == tok) (fun m => { m with got := vs }) s.comp.inn } })) ∧
          (el ≤ vs.length → el < vs.length ∨ ok = false →
            exec (.handoff src tok snap el vs ok) s = .next (sendMap src (.handoffAck tok 1) { s with
              comp := { s.comp with inn := mapIf (·.tok == tok) (fun m => { m with got := vs }) s.comp.inn } })) ∧
          (∀ u, el = vs.length → ok = true → placeVers tok.pv tok.plot vs s = some u →
            exec (.handoff src tok snap el vs ok) s = .next (sendMap src (.handoffAck tok 0) { u with
              comp := { u.comp with inn := mapIf (·.tok == tok) (fun m => { m with got := vs, held := true }) u.comp.inn } })) ∧
          (el = vs.length → ok = true → placeVers tok.pv tok.plot vs s = none →
            exec (.handoff src tok snap el vs ok) s = .next (sendMap src (.handoffAck tok 2) { s with
              comp := { s.comp with inn := mapIf (·.tok == tok) (fun m => { m with got := vs }) s.comp.inn } })))) ∧
      (∀ snap el vs ok, s.comp.inn = [] → s.comp.pulls = [] →
        (s.takes tok.pv tok.plot = false → exec (.handoff src tok snap el vs ok) s = .next s) ∧
        (s.hears src = true → tok.pv < 12 → s.takes tok.pv tok.plot = true →
          exec (.handoff src tok snap el vs ok) s = .next (sendMap src (.handoffAck tok 0) s))) ∧
      (s.keeps src = true → s.comp.keeper.role = 2 →
        (s.comp.map.moving tok = true → exec (.moveDone src tok) s = .next (keeperLog (.moveEnd tok.pv tok.plot) s)) ∧
        (s.comp.map.moving tok = false → exec (.moveDone src tok) s = .next s) ∧
        (∀ x, s.comp.map.plot? tok.pv tok.plot = some x → x.recv = some src → x.tokEpoch = tok.epoch →
          ((∃ m ∈ s.comp.map.members, m.node = x.owner ∧ m.st = 1) →
            exec (.holdClaim src tok) s = .next (keeperLog (.moveEnd tok.pv tok.plot) s)) ∧
          ((∀ m ∈ s.comp.map.members, m.st ≠ 1) → exec (.holdClaim src tok) s = .next s))) ∧
      (s.comp.keeper.role ≠ 2 → exec (.moveDone src tok) s = .next s ∧ exec (.holdClaim src tok) s = .next s) ∧
      (∀ (p : Pv) ep sent, s.hears src = true → (s.corpus p.val).stg.map (·.epoch) = some ep →
        exec (.rsDone src p ep sent []) s = .next { s with corpora := modifyAt s.corpora p.val fun c => { c with
          rsPeers := dedupKeep (c.rsPeers ++ [(src, ep)])
          resketch := c.resketch.map fun r => if r.epoch = ep then { r with peers := r.peers.filter (· != src) } else r } }) ∧
      (∀ (p : Pv) ep sent vs, s.hears src = false ∨ (s.corpus p.val).stg.map (·.epoch) ≠ some ep →
        exec (.rsDone src p ep sent vs) s = .next s))

open Sys2Proof Sys2Proof.Machine in
/-- Map entries, suspension and return (R359, R372 to R376): at a frame boundary committed entries whose frame has come take effect, each
raising the map epoch by 1, and not before; a peer that is silent too long is proposed for suspension; a suspended node that is LOCKED
again proposes its return, and is confirmed once it has caught up; one away too long is removed; a node that cannot join proposes its own
removal. -/
def Obligations.MapChanges : Prop :=
  ∀ s : State,
    (∀ e act, s.live = true → s.clk.slot = none → s.comp.pend = [(s.comp.map.epoch + 1, e, act)] → act ≤ s.hfn →
      (∃ w, e = .policy w) ∨ (∃ n r, e = .role n r) ∨ (∃ n ips, e = .memberAdd n ips ∧ n ≠ s.node) →
      (∀ m ∈ s.comp.map.members, m.st ≠ 2) → s.fab.held = [] →
      ∃ t, exec .mapEntryActivation s = .next t ∧ t.comp.map = s.comp.map.apply e act ∧ t.comp.map.epoch = s.comp.map.epoch + 1 ∧
        t.comp.pend = [] ∧ t.comp.applied = s.comp.applied ++ [(e, act)] ∧ t.corpora = s.corpora ∧ t.works = s.works) ∧
    (s.clk.slot ≠ none ∨ (∀ x ∈ s.comp.pend, x.1 = s.comp.map.epoch + 1 → s.hfn < x.2.2) → exec .mapEntryActivation s = .next s) ∧
    (∀ n, let recs := s.corpora.flatMap fun c => c.peers.filter (·.node == n)
      (s.live = true → s.suspended = false → (∃ x ∈ recs, fld s.comp.mapEff 23 16 * 1000 ≤ x.silent) → s.comp.props = [] →
        exec (.suspendReport n) s = .next (propose (.suspend n ((recs.map (·.got)).min?.getD 0)) none none s)) ∧
      ((∀ x ∈ recs, x.silent < fld s.comp.mapEff 23 16 * 1000) ∨ s.suspended = true → exec (.suspendReport n) s = .next s)) ∧
    (s.live = true → s.suspended = true → s.clk.align = .locked → s.comp.props = [] →
      exec .resume s = .next (propose (.resume s.node s.nodeSettled) none none s)) ∧
    (s.suspended = false ∨ s.clk.align ≠ .locked → exec .resume s = .next s) ∧
    (∀ (p : Pv) vs adm,
      (s.live = true → (s.corpus p.val).rstate = .provisional → s.suspended = false → s.hfn ≤ (s.corpus p.val).settledF + 1 →
        (∀ x ∈ s.comp.pulls, x.1 ≠ p.val) →
        (∀ x ∈ s.comp.map.plots, ¬ (x.pv = p.val ∧ x.owner = s.node ∧ x.st = .dark)) →
        exec (.catchUpDone p [] []) s = .next { s with
          corpora := modifyAt s.corpora p.val fun c => { c with rstate := .confirmed } }) ∧
      ((s.corpus p.val).rstate ≠ .provisional ∨ s.suspended = true ∨ (s.corpus p.val).settledF + 1 < s.hfn →
        exec (.catchUpDone p vs adm) s = .next s)) ∧
    (∀ n m, s.comp.map.members.find? (fun m => m.node == n && m.st == 1) = some m →
      (s.live = true → m.susAt + fld s.comp.mapEff 31 24 * 50000 < s.hfn → exec (.rejoinLimit n) s = .next (keeperLog (.memberRemove n) s)) ∧
      (s.hfn ≤ m.susAt + fld s.comp.mapEff 31 24 * 50000 → exec (.rejoinLimit n) s = .next s)) ∧
    (∀ n, (∀ m ∈ s.comp.map.members, ¬ (m.node = n ∧ m.st = 1)) → exec (.rejoinLimit n) s = .next s) ∧
    (s.live = true → s.comp.joined = false → (∃ m ∈ s.comp.map.members, m.node = s.node) →
      (s.clk.align = .locked → exec (.joinCheck true true) s = .next { s with comp := { s.comp with joined := true } }) ∧
      (∀ o d, o = false ∨ d = false ∨ s.clk.align ≠ .locked → exec (.joinCheck o d) s =
        .next (propose (.memberRemove s.node) none none { s with comp := { s.comp with joinRefused := true } }))) ∧
    (∀ o d, s.comp.joined = true ∨ (∀ m ∈ s.comp.map.members, m.node ≠ s.node) → exec (.joinCheck o d) s = .next s)

open Sys2Proof Sys2Proof.Machine in
/-- MAP_PROPOSE (R357, R368, R376, R377, R418, R420, R421): the block is read from memory; a well-formed block is proposed to the keepers
as its kind says, with the mailbox waiting for the result; a block whose reserved bytes are not 0, or that is not there, is BAD_BLOCK; an
argument out of range BAD_ARG. -/
def Obligations.MapProposals : Prop :=
  ∀ s : State,
    (∀ b, s.mapTakes b 1 128 → zeroAt b 66 62 = true → field b 62 4 < 0x100000 →
      (12 ≤ field b 17 1 → exec (.slices (some b)) s = .next (chanAck 1 rcBadArg (s.mapTaken b))) ∧
      (field b 17 1 < 12 → field b 18 2 ≠ s.node ∨ s.comp.map.slice? (field b 18 2) (field b 17 1) = none →
        exec (.slices (some b)) s = .next (propose (.slices (field b 18 2) (field b 17 1) (field b 24 18) (field b 42 12) (field b 54 8)
          (field b 62 4)) none (some 1) (s.mapTaken b)))) ∧
    (∀ b, s.mapTakes b 2 128 → zeroAt b 38 90 = true →
      (12 ≤ field b 17 1 → exec (.plotAssign (some b)) s = .next (chanAck 1 rcBadArg (s.mapTaken b))) ∧
      (field b 17 1 < 12 → exec (.plotAssign (some b)) s = .next (propose (.plots (field b 17 1) (field b 24 4) (field b 28 4) (field b 18 2)
        ([field b 32 2, field b 34 2, field b 36 2].filter (· != 0xFFFF))) none (some 1) (s.mapTaken b)))) ∧
    (∀ b, s.mapTakes b 3 128 → zeroAt b 31 97 = true →
      (12 ≤ field b 17 1 ∨ 0x100000 ≤ field b 24 4 ∨ 1 < field b 30 1 →
        exec (.moveBegin (some b)) s = .next (chanAck 1 rcBadArg (s.mapTaken b))) ∧
      (field b 17 1 < 12 → field b 24 4 < 0x100000 → field b 30 1 ≤ 1 → exec (.moveBegin (some b)) s = .next (propose (.moveBegin
        (field b 17 1) (field b 24 4) (field b 18 2) (field b 28 2) (field b 30 1 == 1)) none (some 1) (s.mapTaken b)))) ∧
    (∀ b, s.mapTakes b 4 384 → zeroAt b 24 40 = true →
      exec (.memberAdd (some b)) s = .next (propose (.memberAdd (field b 18 2) (slice b 64 320)) none (some 1) (s.mapTaken b))) ∧
    (∀ b, s.mapTakes b 5 128 → zeroAt b 24 104 = true →
      exec (.drain (some b)) s = .next (propose (.draining (field b 18 2)) none (some 1) (s.mapTaken b))) ∧
    (∀ b, s.mapTakes b 6 128 → zeroAt b 25 103 = true →
      (2 < field b 24 1 → exec (.role (some b)) s = .next (chanAck 1 rcBadArg (s.mapTaken b))) ∧
      (field b 24 1 ≤ 2 → exec (.role (some b)) s = .next (propose (.role (field b 18 2) (field b 24 1)) none (some 1) (s.mapTaken b)))) ∧
    (∀ b, s.mapTakes b 7 128 → zeroAt b 25 1 = true → zeroAt b 36 92 = true →
      (field b 24 1 ≠ 3 → field b 24 1 ≠ 5 → exec (.keepers (some b)) s = .next (chanAck 1 rcBadArg (s.mapTaken b))) ∧
      (field b 24 1 = 3 → exec (.keepers (some b)) s = .next (propose (.keepers [field b 26 2, field b 28 2, field b 30 2]) none (some 1)
        (s.mapTaken b)))) ∧
    (∀ b, s.mapTakes b 5 128 → zeroAt b 24 104 = false → exec (.drain (some b)) s = .next (chanAck 1 rcBadBlock (s.blockRead 1 b.length))) ∧
    (∀ b, s.mapTakes b 7 128 → zeroAt b 25 1 = false ∨ zeroAt b 36 92 = false → exec (.keepers (some b)) s = .next (chanAck 1 rcBadBlock (s.blockRead 1 b.length))) ∧
    (∀ k, 1 ≤ k → k ≤ 7 → ∀ b, field b 16 1 = k → k ≠ 5 → exec (.drain (some b)) s = .next s) ∧
    (s.live = true → s.waits 1 0x20 = true → s.wordBad 1 = false → ∀ c ∈ [Instr.slices none, .plotAssign none, .moveBegin none,
        .memberAdd none, .drain none, .role none, .keepers none], exec c s = .next (chanAck 1 rcBadBlock (s.blockRead 1 64)))

open Sys2Proof Sys2Proof.Machine in
/-- Merge passes and recovery (R75, R180 to R185, R194, R222, R316): MERGE_PASS takes its place in the queue of passes; a pass starts at a
frame boundary while no other pass and no RESKETCH runs, for the first of the queue, over the settled frame; a row whose tag does not name
the tile read there is a tag error; the pass publishes at a later boundary: it ends, what it frees waits, and its index checkpoint begins;
what waits is free again once no scan batch of a view up to that boundary runs; an index checkpoint that commits is the durable copy, its
frame never goes back, and the journal up to it is dropped; a loaded index copy makes the pavilion provisional, and the pavilion is
confirmed once its settled frame is that of the frame before. -/
def Obligations.MergesAndRecovery : Prop :=
  ∀ (s : State) (p : Pv), p.val < s.corpora.length →
    (∀ wid w, s.admitsWork opMerge wid w → pvOf w.fn = p.val →
      exec (.mergePass wid) s = .next { s with
        works := mapIf (fun x => x.id == w.id) (fun x => { x with stage := .running }) s.works
        corpora := modifyAt s.corpora p.val fun c => { c with mergeQ := c.mergeQ ++ [(w.id, field w.desc 8 1)] } }) ∧
    (∀ wid m rest mask plots, s.live = true → s.clk.slot = none → (s.corpus p.val).merge = none → (s.corpus p.val).resketch = none →
      (s.corpus p.val).rstate = .confirmed → (s.corpus p.val).mergeQ = (wid, m) :: rest →
      ∃ t x, exec (.mergePassStart p ⟨mask, plots, []⟩) s = .next t ∧ (t.corpus p.val).merge = some x ∧ x.work = some wid ∧ x.mask = m ∧
        x.b0 = s.hfn ∧ x.horizon = (s.corpus p.val).settledF ∧ x.rewrite = plots ∧ (t.corpus p.val).mergeQ = rest ∧
        (t.corpus p.val).stores = (s.corpus p.val).stores ∧ t = { s with corpora := t.corpora } ∧
        ∀ a b bs, exec (.mergePassStart p ⟨mask, plots, [(a, b, bs)]⟩) s =
          .next (if tagNames p.val a b bs = true then t else tagError p.val a b t)) ∧
    (∀ mask plots tags, s.clk.slot ≠ none ∨ (s.corpus p.val).merge ≠ none ∨ (s.corpus p.val).resketch ≠ none ∨
      (s.corpus p.val).rstate ≠ .confirmed → exec (.mergePassStart p ⟨mask, plots, tags⟩) s = .next s) ∧
    (∀ x, (s.corpus p.val).merge = some x →
      (s.live = true → s.clk.slot = none → x.b0 < s.hfn →
        s.tilesFit p.val (s.corpus p.val) (Corpus.publish p.val s x (s.corpus p.val)) = true →
        ∃ t i old, exec (.mergePublish p) s = .next t ∧ (t.corpus p.val).merge = none ∧
          (t.corpus p.val).reuse = (s.corpus p.val).reuse ++ [⟨s.hfn, x.taken, old⟩] ∧
          (t.corpus p.val).ckptNew = some (i, x.work, sumNat (x.taken.map (·.2.2))) ∧ i.frame = x.horizon ∧
          i.stores = (t.corpus p.val).stores.map Store.bare ∧ (t.corpus p.val).ckpt = (s.corpus p.val).ckpt ∧ t.out = s.out) ∧
      (s.clk.slot ≠ none ∨ s.hfn ≤ x.b0 → exec (.mergePublish p) s = .next s)) ∧
    (∀ r rest, (s.corpus p.val).reuse = r :: rest →
      (s.live = true → (∀ b ∈ s.scan.batches, ∀ v, b.view = some v → r.b1 < v) →
        ∃ t, exec (.leantoReuse p) s = .next t ∧ (t.corpus p.val).reuse = rest ∧ t = { s with corpora := t.corpora } ∧
          (r.parts = [] → (t.corpus p.val).stores = (s.corpus p.val).stores.map fun x =>
            { x with freeTiles := x.freeTiles ++ (r.tiles.filter (·.1 == x.epoch)).map (·.2) })) ∧
      ((∃ b ∈ s.scan.batches, ∃ v, b.view = some v ∧ v ≤ r.b1) → exec (.leantoReuse p) s = .next s)) ∧
    (∀ i wid n, (s.corpus p.val).ckptNew = some (i, wid, n) → s.live = true → s.flushing = false →
      (wid = none → ∃ t j, exec (.indexCheckpointCommit p) s = .next t ∧ (t.corpus p.val).ckptNew = none ∧
        (t.corpus p.val).ckpt = max (s.corpus p.val).ckpt i.frame ∧
        (t.corpus p.val).index = some j ∧ j.dels = i.dels ∧ j.frame = i.frame ∧
        (∀ x ∈ i.stores, (∃ b, ((s.corpus p.val).cur = some b ∨ (s.corpus p.val).stg = some b ∨ (s.corpus p.val).ret = some b) ∧
            b.epoch = x.epoch) → (∃ y ∈ (s.corpus p.val).stores, y.epoch = x.epoch) →
          ∃ y ∈ j.stores, i.stores.find? (·.epoch == x.epoch) = some y) ∧
        (∀ j ∈ (t.corpus p.val).journal, max (s.corpus p.val).ckpt i.frame < j.ent.ent.ver) ∧ t = { s with corpora := t.corpora }) ∧
      (∀ x w, wid = some x → s.work x = some w → ∃ u, exec (.indexCheckpointCommit p) s =
        .next (complete w .ok 0 (spec3 0 n i.frame) u) ∧ (u.corpus p.val).ckpt = max (s.corpus p.val).ckpt i.frame ∧
        u = { s with corpora := u.corpora })) ∧
    (s.live = true → (s.corpus p.val).rstate = .loading → s.flash.replayed = true →
      (s.corpus p.val).index = none ∨ s.keyOk p.val = true →
      ∃ t, exec (.indexLoadDone p) s = .next t ∧ t = { s with corpora := t.corpora, scan := { s.scan with resident := t.scan.resident } } ∧
        (t.corpus p.val).rstate = .provisional ∧
        (t.corpus p.val).fCkpt = (s.corpus p.val).ckpt ∧ (∀ i, (s.corpus p.val).index = some i → (t.corpus p.val).cur = i.cur ∧
          (t.corpus p.val).corpusCfg = i.corpusCfg ∧ (t.corpus p.val).vecBase = i.vecBase)) ∧
    (s.flash.replayed = false ∨ (s.corpus p.val).rstate ≠ .loading → exec (.indexLoadDone p) s = .next s) ∧
    (s.live = true → (s.corpus p.val).rstate = .provisional → s.hfn ≤ (s.corpus p.val).settledF + 1 → s.suspended = false →
      (∀ x ∈ s.comp.pulls, x.1 ≠ p.val) →
      exec (.recoveryConfirmed p) s = .next { s with
        corpora := modifyAt s.corpora p.val fun c => { c with rstate := .confirmed } }) ∧
    ((s.corpus p.val).settledF + 1 < s.hfn → exec (.recoveryConfirmed p) s = .next s)

open Sys2Proof Sys2Proof.Machine in
/-- Model loads (R74, R78, R79, R193, R313): an image in host memory is read, header first; one that cannot be read is BAD_ADDRESS, one
whose LENGTH is not its extent BAD_LENGTH, one that fails a check, or any before VEC_STRIDE is set, BAD_FIELD; a sound one waits for its
completion, where a bundle whose epoch is resident, or that comes while an epoch retires or the staged one has a cutover asked for or
pending, is BAD_FIELD; the first bundle becomes current, another staged, in place of the staged one. -/
def Obligations.ModelLoads : Prop :=
  ∀ (s : State) (wid : Nat) (w : Work), s.work wid = some w →
    (s.admitsWork opModelLoad wid w → field w.desc 24 1 = 0 →
      let u := s.readsHost w.fn (field w.desc 8 8) 256
      let x := u.readsHost w.fn (field w.desc 8 8 + 256) (field w.desc 16 8 - 256)
      (∀ img, exec (.modelLoad wid none img) s = .next (failWork w .badAddress u)) ∧
      (∀ h img, (readBundle (padTo 256 h)).extent ≠ field w.desc 16 8 →
        exec (.modelLoad wid (some h) img) s = .next (failWork w .badLength u)) ∧
      (∀ h, (readBundle (padTo 256 h)).extent = field w.desc 16 8 →
        exec (.modelLoad wid (some h) none) s = .next (failWork w .badAddress x) ∧
        (∀ i, let b := readBundle (padTo (field w.desc 16 8) (padTo 256 h ++ i))
          ((s.corpus (pvOf w.fn)).vecStride = 0 ∨ b.ok sha3_512 (fld (s.corpus (pvOf w.fn)).corpusCfg 6 0) = false →
            exec (.modelLoad wid (some h) (some i)) s = .next (failWork w .badField x)) ∧
          ((s.corpus (pvOf w.fn)).vecStride ≠ 0 → b.ok sha3_512 (fld (s.corpus (pvOf w.fn)).corpusCfg 6 0) = true →
            exec (.modelLoad wid (some h) (some i)) s = .next { x with
              works := mapIf (fun x => x.id == w.id) (fun x => { x with stage := .running }) s.works
              corpora := modifyAt s.corpora (pvOf w.fn) fun c => { c with loads := c.loads ++ [(w.id, b)] } })))) ∧
    (∀ c b, s.corpora[pvOf w.fn]? = some c → c.loads = [(wid, b)] → s.live = true → s.flushing = false →
      (c.ret ≠ none ∨ (c.stg ≠ none ∧ (c.cutover ≠ none ∨ s.cutAsked (pvOf w.fn) = true)) ∨
          (∃ x, (c.cur = some x ∨ c.stg = some x) ∧ x.epoch = b.epoch) →
        exec (.modelLoadComplete wid) s = .next (failWork w .badField
          { s with corpora := modifyAt s.corpora (pvOf w.fn) fun c => { c with loads := [] } })) ∧
      (c.cur = none → c.stg = none → c.ret = none →
        ∃ t n, exec (.modelLoadComplete wid) s = .next (complete w .ok 0 (spec3 0 b.epoch (leNat (b.digest.take 8))) t) ∧
          t = { s with corpora := t.corpora, scan := { s.scan with resident := t.scan.resident } } ∧
          t.corpora[pvOf w.fn]? = some n ∧ n.cur = some b ∧ n.stg = none ∧ n.loads = [] ∧
          n.stores = c.stores ++ [Store.new b c.partSize]) ∧
      (∀ x, c.cur = some x → x.epoch ≠ b.epoch → (∀ y, c.stg = some y → y.epoch ≠ b.epoch) → c.ret = none → c.cutover = none →
        s.comp.props = [] → s.comp.pend = [] → c.resketch = none →
        ∃ t n, exec (.modelLoadComplete wid) s = .next (complete w .ok 0 (spec3 0 b.epoch (leNat (b.digest.take 8))) t) ∧
          t = { s with corpora := t.corpora } ∧ t.corpora[pvOf w.fn]? = some n ∧ n.cur = some x ∧ n.stg = some b ∧
          n.d0 = some (s.hfn + 1) ∧ n.resketchDone = false ∧ n.loads = [] ∧
          (c.stg = none → n.stores = c.stores ++ [Store.new b c.partSize]) ∧
          (∀ y, c.stg = some y → n.stores = c.stores.filter (fun z => z.epoch != y.epoch) ++ [Store.new b c.partSize]))) ∧
    ((∀ x ∈ (s.corpus (pvOf w.fn)).loads, x.1 ≠ wid) → exec (.modelLoadComplete wid) s = .next s) ∧
    (s.live = false ∨ s.flushing = true → exec (.modelLoadComplete wid) s = .next s)

open Sys2Proof Sys2Proof.Machine in
/-- Cutovers and epochs (R190 to R193): EPOCH_CUTOVER of an epoch that is not staged, of another digest, while one is pending, or of a
frame outside 500 to 180,000,000 frames from now is BAD_FIELD, a valid one is proposed to the map keepers; the boundary that begins the
cutover frame, or the first one after it, makes the staged epoch current and the current one retiring; the retiring one is freed after its
grace, once no query in flight names it. RESKETCH (R188, R189, R317): BAD_FIELD for an epoch that is not staged or while another runs; it
waits until the visible frame reaches D0 and no pass runs; with nothing to take, and plots that stay as they are, it begins and is built
at once; it completes OK once built, once no peer's transfers are awaited and no flash write of its records is. -/
def Obligations.EpochsAndResketches : Prop :=
  (∀ s : State,
      (∀ wid w, s.admitsWork opCutover wid w →
        let u := s.readsHost w.fn (field w.desc 24 8) 64
        exec (.epochCutover wid none) s = .next (failWork w .badAddress u) ∧
        (∀ dg, (∀ b, (s.corpus (pvOf w.fn)).stg = some b → b.epoch ≠ field w.desc 8 4 ∨ b.digest ≠ padTo 64 dg) ∨
          (s.corpus (pvOf w.fn)).cutover ≠ none ∨ s.cutAsked (pvOf w.fn) = true ∨ field w.desc 16 8 < s.hfn + 500 ∨
          s.hfn + 180000000 < field w.desc 16 8 →
          exec (.epochCutover wid (some dg)) s = .next (failWork w .badField u)) ∧
        (∀ dg b, (s.corpus (pvOf w.fn)).stg = some b → b.epoch = field w.desc 8 4 → b.digest = padTo 64 dg →
          (s.corpus (pvOf w.fn)).cutover = none → s.comp.props = [] → s.hfn + 500 ≤ field w.desc 16 8 →
          field w.desc 16 8 ≤ s.hfn + 180000000 →
          exec (.epochCutover wid (some dg)) s = .next (propose (.cutover (pvOf w.fn) b.epoch (field w.desc 16 8) b.digest) (some w.id) none
            { u with works := mapIf (fun x => x.id == w.id) (fun x => { x with stage := .running }) s.works }))) ∧
      (∀ (p : Pv) c, s.corpora[p.val]? = some c →
        (∀ cf, c.cutover = some cf → s.live = true → s.clk.slot = none → cf ≤ s.hfn →
          ∃ t n, exec (.epochSwitch p) s = .next t ∧ t.corpora[p.val]? = some n ∧ n.cur = c.stg ∧
            n.ret = c.cur ∧ n.stg = none ∧ n.retC = cf ∧ n.cutover = none ∧ n.d0 = none ∧ n.win = [] ∧ n.clipFrom = (s.hfn + 255) / 256 * 256 ∧
            n.stores = c.stores ∧ (s.hfn % 256 ≠ 0 →
              t = { s with corpora := t.corpora, scan := { s.scan with resident := t.scan.resident } })) ∧
        (c.cutover = none ∨ s.clk.slot ≠ none ∨ (∃ cf, c.cutover = some cf ∧ s.hfn < cf) → exec (.epochSwitch p) s = .next s) ∧
        (∀ b, c.ret = some b →
          (s.live = true → c.retC + 50000 * fld s.upd.cfgEff 31 24 ≤ s.hfn →
            (∀ q ∈ s.scan.queries, q.pv ≠ p.val ∨ q.epoch ≠ b.epoch) →
            ∃ t n, exec (.epochRetireFree p) s = .next t ∧ t = { s with corpora := t.corpora } ∧ t.corpora[p.val]? = some n ∧ n.ret = none ∧
              n.stores = c.stores.filter (fun x => x.epoch != b.epoch) ∧ n.cur = c.cur ∧ n.stg = c.stg) ∧
          (s.hfn < c.retC + 50000 * fld s.upd.cfgEff 31 24 → exec (.epochRetireFree p) s = .next s) ∧
          (s.epochBusy p.val b.epoch = true → exec (.epochRetireFree p) s = .next s)) ∧
        (c.ret = none → exec (.epochRetireFree p) s = .next s))) ∧
  (∀ s : State,
      (∀ wid w cur stg d0, s.admitsWork opResketch wid w → (s.corpus (pvOf w.fn)).cur = some cur → (s.corpus (pvOf w.fn)).stg = some stg →
        (s.corpus (pvOf w.fn)).d0 = some d0 →
        (stg.epoch ≠ field w.desc 8 4 ∨ (∃ r, (s.corpus (pvOf w.fn)).resketch = some r ∧ (r.work ≠ w.id ∨ r.built = true)) → exec (.resketch wid) s = .next (failWork w .badField s)) ∧
        (stg.epoch = field w.desc 8 4 → (s.corpus (pvOf w.fn)).resketch = none →
          ((s.corpus (pvOf w.fn)).settledF + 1 < d0 ∨ (s.corpus (pvOf w.fn)).merge ≠ none → exec (.resketch wid) s = .next s) ∧
          (d0 ≤ (s.corpus (pvOf w.fn)).settledF + 1 → (s.corpus (pvOf w.fn)).merge = none → (s.corpus (pvOf w.fn)).reskList d0 = [] →
            stg.plots = cur.plots → pvOf w.fn < s.corpora.length → (∀ x ∈ (s.corpus (pvOf w.fn)).stores, x.nextTile ≤ lastTile + 1) →
            ∃ t r, exec (.resketch wid) s = .next t ∧ (t.corpus (pvOf w.fn)).resketch = some r ∧ r.work = w.id ∧ r.epoch = stg.epoch ∧
              r.built = true ∧ r.total = 0 ∧ r.peers = [] ∧ t.out = s.out))) ∧
      (∀ wid w, s.admitsWork opResketch wid w → (s.corpus (pvOf w.fn)).stg = none → exec (.resketch wid) s = .next (failWork w .badField s)) ∧
      (∀ (p : Pv) c r, s.corpora[p.val]? = some c → c.resketch = some r →
        (s.live = true → r.built = true → r.peers = [] → s.flash.asked p.val .keep = false → s.work r.work = none →
          ∃ t n, exec (.resketchComplete p) s = .next t ∧ t = { s with corpora := t.corpora } ∧ t.corpora[p.val]? = some n ∧
            n.resketchDone = true ∧ n.stores = c.stores) ∧
        (∀ w, s.live = true → r.built = true → r.peers = [] → s.flash.asked p.val .keep = false → s.work r.work = some w →
          ∃ t n, exec (.resketchComplete p) s = .next (complete w .ok 0 (spec3 0 r.skipped r.taken) t) ∧ t = { s with corpora := t.corpora } ∧
            t.corpora[p.val]? = some n ∧ n.resketchDone = true ∧ n.resketch = none ∧ n.stores = c.stores) ∧
        (r.built = false ∨ r.peers ≠ [] ∨ s.flash.asked p.val .keep = true → exec (.resketchComplete p) s = .next s)) ∧
      (∀ p : Pv, (s.corpus p.val).resketch = none → exec (.resketchComplete p) s = .next s))

open Sys2Proof Sys2Proof.Machine in
/-- Corpus registers and the clipping window (R73, R74, R150 to R153): CORPUS_CFG, VEC_BASE and PAY_BASE take valid values while the
pavilion is empty, and a refused write changes only CFG_REJECT; CLIP_LIMIT refuses a zero field; a window ends at the boundary that begins
a frame whose number is a multiple of 256: its values are published, the counts restart, and the limit written meanwhile applies; a window
in which the epoch changed is not published. -/
def Obligations.CorpusRegisters : Prop :=
  ∀ s : State,
    (∀ (f : Fn) (v : W32) c, f.val ≠ 0 → s.fnUp f = true → s.corpora[pvOf f]? = some c →
      (∀ (reg : Nat) (n : Corpus), (reg, n) ∈ [(0, { c with corpusCfg := v &&& 0x001F_3F7F#32 }),
          (1, { c with vecBase := v &&& 0x3FFF_FFFF#32 }), (2, { c with payBase := v &&& 0x3FFF_FFFF#32 })] →
        (c.empty = true → fld n.corpusCfg 6 0 ≤ 80 → fld n.corpusCfg 13 8 ≤ 32 → 16 ≤ fld n.corpusCfg 20 16 → fld n.corpusCfg 20 16 ≤ 24 →
          n.vecOff < hostAreaEnd → n.payOff < hostAreaEnd → n.payStride = 0 ∨ n.vecOff ≠ n.payOff →
          exec (.corpusCfgWrite f reg v) s = .next { s with corpora := modifyAt s.corpora (pvOf f) fun _ => n }) ∧
        (c.empty = false ∨ 80 < fld n.corpusCfg 6 0 ∨ 32 < fld n.corpusCfg 13 8 ∨ fld n.corpusCfg 20 16 < 16 ∨ 24 < fld n.corpusCfg 20 16 ∨
          hostAreaEnd ≤ n.vecOff ∨ hostAreaEnd ≤ n.payOff ∨ (n.payStride ≠ 0 ∧ n.vecOff = n.payOff) →
          exec (.corpusCfgWrite f reg v) s = .next { s with
            corpora := modifyAt s.corpora (pvOf f) fun c => { c with cfgReject := true } })) ∧
      (fld v 15 0 ≠ 0 → fld v 23 16 ≠ 0 → exec (.clipLimitWrite f v) s = .next { s with
        corpora := modifyAt s.corpora (pvOf f) fun c => { c with clip := v &&& 0x00FF_FFFF#32 } }) ∧
      (fld v 15 0 = 0 ∨ fld v 23 16 = 0 → exec (.clipLimitWrite f v) s = .next { s with
        corpora := modifyAt s.corpora (pvOf f) fun c => { c with clipReject := true } })) ∧
    (∀ (f : Fn) (reg : Nat) (v : W32), s.fnUp f = false ∨ f.val = 0 → exec (.corpusCfgWrite f reg v) s = .next s ∧
      exec (.clipLimitWrite f v) s = .next s) ∧
    (s.live = true → s.clk.slot = none → s.hfn % 256 = 0 → s.corpora.length = 12 → (∀ c ∈ s.corpora, s.hfn ≤ c.clipFrom) →
      exec .quantWindowEnd s = .next { s with corpora := s.corpora.map fun c => { c with clipEff := c.clip } }) ∧
    (s.live = true → s.clk.slot = none → s.hfn % 256 = 0 → s.corpora.length = 12 →
      (∀ c ∈ s.corpora, c.clipFrom < s.hfn ∧ overGroups c = []) →
      exec .quantWindowEnd s = .next { s with
        corpora := s.corpora.map fun c => { c with pub := c.win, win := [], clipEff := c.clip, clipFrom := s.hfn } }) ∧
    (s.hfn % 256 ≠ 0 ∨ s.clk.slot ≠ none → exec .quantWindowEnd s = .next s)

open Sys2Proof Sys2Proof.Machine in
/-- Update batches at acceptance (R169, R170, R171, R178, R297, R312): the records or EIDs are read from host memory; a batch that cannot
be read is BAD_ADDRESS, one that fails a check has the status of the check, a pavilion without resources here is QUOTA. One that passes is
coded; it waits while an earlier batch of the ring holds its SEQ, and is prepared at once, with the space that its elements need, if its
SEQ is new and there is no other node to tell. The end of the wait for an earlier batch (R171, R178): a batch whose SEQ is above the
ring's highest is prepared, here with no other node to tell; one whose SEQ has an outcome with nothing missing is completed with that
outcome, and one whose SEQ is not above the highest and has no outcome left is BAD_FIELD; a batch that does not wait, or whose earlier
batch is not done, stays as it is. -/
def Obligations.UpdateAcceptance : Prop :=
  (∀ (s : State) (wid : Nat) (w : Work), s.work wid = some w → s.live = true → s.flushing = false → w.stage = .fetched → w.fn.val ≠ 0 →
      (dOp w.desc = opUpsert →
        let u := s.readsHost w.fn (field w.desc 24 8) (field w.desc 16 2 * dEStride w.desc * 64)
        exec (.upsertBatch wid none) s = .next (failWork w .badAddress u) ∧
        (∀ rs st, recsCheck (s.corpus (pvOf w.fn)) s.hfn (dEStride w.desc)
            ((List.range (dCount w.desc)).map fun i => padTo (dEStride w.desc * 64) (rs.getD i [])) = some st →
          exec (.upsertBatch wid (some rs)) s = .next (failWork w st u)) ∧
        (∀ rs cur, recsCheck (s.corpus (pvOf w.fn)) s.hfn (dEStride w.desc)
            ((List.range (dCount w.desc)).map fun i => padTo (dEStride w.desc * 64) (rs.getD i [])) = none →
          (s.corpus (pvOf w.fn)).cur = some cur →
          (s.composed (pvOf w.fn) = false → exec (.upsertBatch wid (some rs)) s = .next (failWork w .quota u)) ∧
          (s.composed (pvOf w.fn) = true → seqBusy s w = true →
            ∃ t b, exec (.upsertBatch wid (some rs)) s = .next t ∧ t.upd.batches = s.upd.batches ++ [b] ∧ b.work = wid ∧ b.stage = .seqWait ∧
              b.pv = pvOf w.fn ∧ b.seq = field w.desc 8 8 ∧ b.del = false ∧ b.accepted = s.hfn ∧
              b.elems = ((List.range (dCount w.desc)).map fun i => padTo (dEStride w.desc * 64) (rs.getD i [])).filterMap
                (codeRec cur ((s.corpus (pvOf w.fn)).stgAt s.hfn)) ∧
              t.works = mapIf (fun x => x.id == wid) (fun x => { x with stage := .waiting }) s.works ∧ t.out = u.out) ∧
          (∀ b, b = s.freshBatch w false (((List.range (dCount w.desc)).map fun i => padTo (dEStride w.desc * 64) (rs.getD i [])).filterMap
              (codeRec cur ((s.corpus (pvOf w.fn)).stgAt s.hfn))) → s.preparesNow w b → plotGone s.comp.map b.pv b.elems = false →
            ∀ es x, reserveElems b.pv false b.elems (tallyElems b.pv (b.elems.map (·.raw)) (u.holds b)) = some (es, x) →
            ∃ t b', exec (.upsertBatch wid (some rs)) s = .next t ∧ t.batch? b.id = some b' ∧ b'.stage = .prep ∧ b'.elems = es ∧
              b'.await_ = [] ∧ b'.seq = b.seq ∧ t.corpora = x.corpora ∧
              t.works = mapIf (fun x => x.id == w.id) (fun x => { x with stage := .waiting }) s.works))) ∧
      (dOp w.desc = opDelete →
        let u := s.readsHost w.fn (field w.desc 24 8) (field w.desc 16 2 * 8)
        exec (.deleteBatch wid none) s = .next (failWork w .badAddress u) ∧
        (∀ es, eidsBad ((List.range (dCount w.desc)).map fun i => es.getD i 0 % 2 ^ 64) = true ∨ (s.corpus (pvOf w.fn)).vecStride = 0 →
          exec (.deleteBatch wid (some es)) s = .next (failWork w .badField u)) ∧
        (∀ es, eidsBad ((List.range (dCount w.desc)).map fun i => es.getD i 0 % 2 ^ 64) = false →
          (s.corpus (pvOf w.fn)).vecStride ≠ 0 →
          (s.composed (pvOf w.fn) = false → exec (.deleteBatch wid (some es)) s = .next (failWork w .quota u)) ∧
          (s.composed (pvOf w.fn) = true → seqBusy s w = true →
            ∃ t b, exec (.deleteBatch wid (some es)) s = .next t ∧ t.upd.batches = s.upd.batches ++ [b] ∧ b.work = wid ∧
              b.stage = .seqWait ∧ b.del = true ∧ b.elems.map (·.eid) = (List.range (dCount w.desc)).map (fun i => es.getD i 0 % 2 ^ 64) ∧
              t.works = mapIf (fun x => x.id == wid) (fun x => { x with stage := .waiting }) s.works ∧ t.out = u.out) ∧
          (∀ b, b = s.freshBatch w true (((List.range (dCount w.desc)).map fun i => es.getD i 0 % 2 ^ 64).map fun e =>
              ⟨e, 0, [], [], [], [], false, false⟩) → s.preparesNow w b → ∀ es' x, reserveElems b.pv true b.elems (u.holds b) = some (es', x) →
            ∃ t b', exec (.deleteBatch wid (some es)) s = .next t ∧ t.batch? b.id = some b' ∧ b'.stage = .prep ∧ b'.elems = es' ∧
              b'.await_ = [] ∧ b'.seq = b.seq ∧ t.corpora = x.corpora ∧
              t.works = mapIf (fun x => x.id == w.id) (fun x => { x with stage := .waiting }) s.works)))) ∧
  (∀ (s : State) (id : Nat) (b : Batch) (w : Work), s.batch? id = some b → s.work b.work = some w →
      (s.live = true → b.stage = .seqWait → seqBusy s w = false →
        (∀ es u, ((s.corpus b.pv).seqTop.lookup b.ring).getD 0 < b.seq → b.del = true → plotGone s.comp.map b.pv b.elems = false →
          reserveElems b.pv b.del b.elems s = some (es, u) → s.ingestPeers b.pv = [] →
          ∃ t x, exec (.seqWaitRelease id) s = .next t ∧ t.batch? id = some x ∧ x.stage = .prep ∧ x.elems = es ∧ x.await_ = [] ∧
            x.seq = b.seq ∧ t.corpora = u.corpora ∧ t.out = s.out) ∧
        (b.seq ≤ ((s.corpus b.pv).seqTop.lookup b.ring).getD 0 →
          (∀ r, (s.corpus b.pv).seqs.find? (fun r => r.ring == b.ring && r.seq == b.seq) = some r → r.st = Status.ok.code →
            (∀ e ∈ b.elems, ¬ e.eid ∈ r.missing) →
            exec (.seqWaitRelease id) s = .next (complete w .ok 0 (spec3 r.nCommit r.nNover r.ver)
              { s with upd := { s.upd with batches := s.upd.batches.filter (·.id != id) } })) ∧
          ((s.corpus b.pv).seqs.find? (fun r => r.ring == b.ring && r.seq == b.seq) = none →
            exec (.seqWaitRelease id) s = .next (endBatch { b with stage := .seqWait } .badField s)))) ∧
      (s.live = false ∨ b.stage ≠ .seqWait ∨ seqBusy s w = true → exec (.seqWaitRelease id) s = .next s))

open Sys2Proof Sys2Proof.Machine in
/-- Admission and the waits of update batches (R32, R44, R45, R170 to R172, R177, R199): a prepared batch is admitted into the frame in
progress, which fixes its version, names it in the frame's mark and logs it, unless the slot cutoff has passed, an acknowledgement is
missing, the pavilion is not confirmed or no flush region is ready; a preparation and an acknowledgement that take too long end in
TIMEOUT; a late lean-to write is withdrawn and counted; UPD_CFG and MERGE_CFG take values in their ranges. -/
def Obligations.UpdateAdmission : Prop :=
  ∀ s : State,
    (∀ id b k, s.batch? id = some b → s.admits = true → s.clk.slot = some k → k < s.clk.updCutoff → b.stage = .prep → b.await_ = [] →
      (s.corpus b.pv).rstate = .confirmed → s.pvInReset b.pv = false → s.suspended = false → s.flash.regionOk = true →
      (∀ x ∈ s.upd.batches, x.stage = .admitted → x.ver ≠ s.hfn) → plotGone s.comp.map b.pv b.elems = false →
      (∀ x ∈ s.notices b, x ∈ b.sent) → b.covers (s.corpus b.pv) s.hfn = true →
      (∀ e ∈ b.elems, poolRoom s b.pv e.vers (e.payload != []) = .ok) →
      ∃ t, exec (.updateAdmission id) s = .next t ∧ t.upd.marks = s.upd.marks ++ [(b.pv, b.id)] ∧
        (∀ x ∈ t.upd.batches, x.id = b.id → x.stage = .admitted ∧ x.ver = s.hfn) ∧
        t.comp.admLog.length = s.comp.admLog.length + (if b.del then b.elems.length else (b.elems.filter (!·.vers.isEmpty)).length) ∧
        t.clk = s.clk ∧ (∀ o ∈ t.out, o ∈ s.out ∨ ∃ a bs, o = .write (fnOf b.pv) a bs .window)) ∧
    (∀ id b, s.batch? id = some b → b.stage ≠ .prep ∨ b.await_ ≠ [] ∨ (s.corpus b.pv).rstate ≠ .confirmed ∨ s.flash.regionOk = false ∨
      s.admits = false → exec (.updateAdmission id) s = .next s) ∧
    (∀ id b k, s.batch? id = some b → s.clk.slot = some k → s.clk.updCutoff ≤ k → exec (.updateAdmission id) s = .next s) ∧
    (∀ id b, s.batch? id = some b → s.live = true → b.stage = .prep → b.await_ ≠ [] →
      (b.accepted + fld s.upd.cfgEff 9 0 < s.hfn → exec (.prepWaitExpiry id) s = .next (endBatch b .timeout
        { s with upd := { s.upd with prepTimeout := true } })) ∧
      (s.hfn ≤ b.accepted + fld s.upd.cfgEff 9 0 → exec (.prepWaitExpiry id) s = .next s)) ∧
    (∀ id b, s.batch? id = some b → s.live = true → b.stage = .admitted → b.owners ≠ [] →
      (b.ver + 1000 ≤ s.hfn → exec (.updateAckTimeout id) s = .next (endBatch b .timeout s)) ∧
      (s.hfn < b.ver + 1000 → exec (.updateAckTimeout id) s = .next s)) ∧
    (∀ id, (∀ x ∈ s.upd.staged, x.id = id → s.hfn ≤ x.arrived + 2 * fld s.upd.cfgEff 9 0) → exec (.stagedDiscard id) s = .next s) ∧
    (∀ id x, s.live = true → s.upd.staged = [x] → x.id = id → x.arrived + 2 * fld s.upd.cfgEff 9 0 < s.hfn →
      ∃ t, exec (.stagedDiscard id) s = .next t ∧ t.upd = { s.upd with staged := [] }) ∧
    (∀ (p : Pv) id eid, s.live = true → s.clk.slot = some 15 →
      (∃ x ∈ (s.corpus p.val).stores, ∃ l ∈ x.parts, ∃ e ∈ l.ents,
        e.batch = id ∧ e.ent.eid = eid ∧ e.appended = s.hfn ∧ e.committed = false ∧ e.gone = false) →
      ∃ t, exec (.lateLeantoWithdraw p id eid) s = .next t ∧ t.clk = { s.clk with lateCommit := true } ∧
        (∀ x ∈ (t.corpus p.val).stores, ∀ l ∈ x.parts, ∀ e ∈ l.ents,
          e.batch = id → e.ent.eid = eid → e.appended = s.hfn → e.committed = false → e.gone = true) ∧
        (∀ b ∈ t.upd.batches, b.id = id → ∀ e ∈ b.elems, e.eid = eid → e.withdrawn = true)) ∧
    (∀ (p : Pv) id eid, s.clk.slot ≠ some 15 → exec (.lateLeantoWithdraw p id eid) s = .next s) ∧
    (∀ v, s.bar0Up0 = true →
      (16 ≤ fld v 9 0 ∧ fld v 9 0 ≤ 1000 ∧ 1 ≤ fld v 23 16 ∧ 1 ≤ fld v 31 24 ∧ fld v 31 24 ≤ 60 →
        exec (.updCfgWrite v) s = .next { s with upd := { s.upd with cfg := v &&& 0xFFFF_03FF#32 } }) ∧
      (fld v 9 0 < 16 ∨ 1000 < fld v 9 0 ∨ fld v 23 16 = 0 ∨ fld v 31 24 = 0 ∨ 60 < fld v 31 24 →
        exec (.updCfgWrite v) s = .next { s with upd := { s.upd with cfgReject := true } }) ∧
      (1 ≤ fld v 7 0 ∧ 1 ≤ fld v 31 16 →
        exec (.mergeCfgWrite v) s = .next { s with upd := { s.upd with mergeCfg := v &&& 0xFFFF_01FF#32 } }) ∧
      (fld v 7 0 = 0 ∨ fld v 31 16 = 0 →
        exec (.mergeCfgWrite v) s = .next { s with upd := { s.upd with cfgReject := true } }))

open Sys2Proof Sys2Proof.Machine in
/-- The tier opcodes (R207, R210, R211, R297): TIER_MIGRATE of a held page away from T1, or to a T2 window of size 0, is BAD_FIELD; a
promotion begins with the first page that is not in T1, reading its T2 copy from the host, and completes OK where there is none; TIER_PIN
pins pages that are in T1, unless fewer than 1/16 of the frames would stay unpinned, which is QUOTA; UNPIN takes the pins away; TIER_FLUSH
of pages that hold nothing to write changes no page and completes. Work whose turn has not come waits; a pavilion without resources here
is QUOTA. -/
def Obligations.TierOpcodes : Prop :=
  ∀ (s : State) (wid : Nat) (w : Work), s.work wid = some w → w.due = none →
    (∀ g ∈ (s.range (pvOf w.fn)).pages, ∀ c, g.copy = some c → c.work ≠ some wid) →
    (s.admitsWork opMigrate wid w →
      ((∃ g ∈ (s.range (pvOf w.fn)).pages, inTier w.desc g.no = true ∧ g.held = true) → tArg w.desc ≠ 1 →
        exec (.tierMigrate wid) s = .next (failWork w .badField s)) ∧
      (tArg w.desc = 2 → (s.range (pvOf w.fn)).t2Pages = 0 → exec (.tierMigrate wid) s = .next (failWork w .badField s)) ∧
      (tArg w.desc = 1 → (∀ g ∈ (s.range (pvOf w.fn)).pages, inTier w.desc g.no = true → g.st = .unwritten ∨ g.st.tier = 1) →
        exec (.tierMigrate wid) s = .next (complete { w with stage := .running, aux := tFirst w.desc } .ok 0 (spec3 0 w.done 0)
          (startWork w s))) ∧
      (∀ no, tArg w.desc = 1 → 0 < tPages w.desc → 0 < (s.range (pvOf w.fn)).free →
        nextPage (startWork w s) { w with stage := .running, aux := tFirst w.desc } = some no →
        ((s.range (pvOf w.fn)).page no).copy = none → ((s.range (pvOf w.fn)).page no).st = .t2 →
        exec (.tierMigrate wid) s = .next (modWork wid (fun w => { w with aux := no + 1 }) (t2Read (pvOf w.fn) (no * pageSize) pageSize
          (modRange (pvOf w.fn) (fun r => r.modPage no fun g => { g with copy := some ⟨1, false, 0, 0, some wid, 0, false⟩ })
            (startWork w s)))))) ∧
    (s.admitsWork opPin wid w → tArg w.desc = 0 →
      let r := s.range (pvOf w.fn)
      let new := tPages w.desc - (r.pages.filter fun g => inTier w.desc g.no && g.held).length
      (16 * (r.share - (r.pages.filter (·.held)).length - new) < r.share →
        exec (.tierPin wid) s = .next (failWork w .quota s)) ∧
      (r.share ≤ 16 * (r.share - (r.pages.filter (·.held)).length - new) →
        (∀ i, i < tPages w.desc → (r.page (tFirst w.desc + i)).st.inT1 = true) →
        exec (.tierPin wid) s = .next (complete { w with stage := .running, aux := tFirst w.desc, done := tPages w.desc } .ok 0
          (spec3 0 (tPages w.desc) 0) (setPins (pvOf w.fn) w.desc true (startWork w s))))) ∧
    (s.admitsWork opPin wid w → tArg w.desc = 1 →
      exec (.tierUnpin wid) s = .next (complete { w with done := tPages w.desc } .ok 0 (spec3 0 (tPages w.desc) 0)
        (setPins (pvOf w.fn) w.desc false s))) ∧
    (s.admitsWork opFlush wid w → (∀ g ∈ (s.range (pvOf w.fn)).pages, inTier w.desc g.no = true → g.st = .t3 ∨ g.st = .unwritten) →
      ∃ t, exec (.tierFlush wid) s = .next t ∧ t.ranges = s.ranges ∧ t.flash = s.flash ∧
        ((∀ u ∈ s.flash.pool, u.work ≠ some wid) → t.work wid = none)) ∧
    (s.admits = false → exec (.tierMigrate wid) s = .next s ∧ exec (.tierPin wid) s = .next s ∧ exec (.tierUnpin wid) s = .next s ∧
      exec (.tierFlush wid) s = .next s) ∧
    (s.admits = true → w.stage = .fetched → dOp w.desc = opMigrate → w.fn.val ≠ 0 → s.composed (pvOf w.fn) = false →
      exec (.tierMigrate wid) s = .next (failWork w .quota s))

open Sys2Proof Sys2Proof.Machine in
/-- The placement policy, switches, scrub and the refresh regions (R208, R209, R212, R219, R224 to R226): a page in T2 that was read often
enough is promoted; the least recently accessed one is demoted when free frames fall below 1/64, at once if its copy in T2 is clean; a
switch waits for its copy in the pool, copies what was written meanwhile again up to three times, then gives up for the policy and
switches for a work item; a page held in T1 stays there; a scrubbed word that can be corrected is counted as corrected, any other wrong
one as uncorrectable; a step of GH takes two frame boundaries. -/
def Obligations.PlacementPolicy : Prop :=
  ∀ (s : State) (p : Pv) (no : Nat), s.live = true → s.fab.held = [] →
    (bit s.tier.cfgEff 0 = true → fld s.tier.cfgEff 15 8 ≤ ((s.range p.val).page no).misses →
      ((s.range p.val).page no).st = .t2 → ((s.range p.val).page no).copy = none → 0 < (s.range p.val).free →
      exec (.autoPromote p no) s = .next (t2Read p.val (no * pageSize) pageSize (modRange p.val (fun r =>
        r.modPage no fun g => { g with copy := some ⟨1, true, 0, 0, none, 0, false⟩ }) s))) ∧
    (bit s.tier.cfgEff 0 = false ∨ ((s.range p.val).page no).misses < fld s.tier.cfgEff 15 8 →
      exec (.autoPromote p no) s = .next s) ∧
    (∀ g gs, (s.range p.val).free * 64 < (s.range p.val).share → (s.range p.val).victims = g :: gs → g.no = no →
      ((s.range p.val).page no).lastAcc = g.lastAcc → bit s.tier.cfgEff 1 = true → ((s.range p.val).page no).st = .t1OverT2 →
      (((s.range p.val).page no).dirty = 0 → exec (.policyDemote p no) s = .next (migrated (switchPage p.val no 2 s))) ∧
      (((s.range p.val).page no).dirty ≠ 0 → ((s.range p.val).page no).copy = none →
        ∃ t, exec (.policyDemote p no) s = .next t ∧
          ((t.range p.val).page no).copy = some ⟨2, true, 0, 0, none, badSubs s p.val ((s.range p.val).page no), false⟩ ∧
          ((t.range p.val).page no).st = .t1OverT2)) ∧
    ((s.range p.val).share ≤ (s.range p.val).free * 64 → exec (.policyDemote p no) s = .next s) ∧
    (((s.range p.val).page no).copy = none → exec (.demoteSwitch p no) s = .next s) ∧
    (∀ c, ((s.range p.val).page no).copy = some c → 2 ≤ c.tier →
      ((∃ u ∈ s.flash.pool, u.lua.pv = p.val ∧ u.page = some no) → exec (.demoteSwitch p no) s = .next s) ∧
      ((∀ u ∈ s.flash.pool, u.lua.pv ≠ p.val ∨ u.page ≠ some no) → s.flash.asked p.val (.page no) = false →
        (((s.range p.val).page no).held = true → ((s.range p.val).page no).st.inT1 = true → c.work = none →
          exec (.demoteSwitch p no) s = .next (modRange p.val (fun r => r.modPage no fun g => { g with copy := none }) s)) ∧
        (((s.range p.val).page no).held = false → c.skipped = 0 → ((s.range p.val).page no).st ≠ .t3 →
          (c.redirty = 0 → c.work = none → exec (.demoteSwitch p no) s =
            .next (pumpBar2 (fnOf p.val) (migrated (switchPage p.val no c.tier s)))) ∧
          (c.redirty ≠ 0 → c.tries < 3 → c.tier = 2 →
            exec (.demoteSwitch p no) s = .next (modRange p.val (fun r => r.modPage no fun g =>
              { g with copy := some { c with tries := c.tries + 1, redirty := 0, hold := !c.policy && c.tries == 2 } })
              (t2Write p.val no c.redirty s))) ∧
          (c.redirty ≠ 0 → 3 ≤ c.tries → c.policy = true → c.work = none →
            exec (.demoteSwitch p no) s = .next (modRange p.val (fun r => r.modPage no fun g => { g with copy := none }) s)) ∧
          (∀ k, 3 ≤ c.tries → c.policy = false → c.work = some k → exec (.demoteSwitch p no) s =
            .next (pumpBar2 (fnOf p.val) (tierNext k (modWork k (fun x => { x with done := x.done + 1 })
              (migrated (switchPage p.val no c.tier s))))))))) ∧
    (∀ x : ScrubIn, x.stack < 16 → x.inRange = none →
      (x.syms = [] → exec (.walledScrub x) s = .next s) ∧
      (x.syms ≠ [] → (rsDecode x.syms).isSome = true → exec (.walledScrub x) s = .next (count none 5 6 1 { s with scan := { s.scan with
        st := modifyAt s.scan.st x.stack fun k => { k with ce := satTo 0xFFFF (k.ce + 1) } } })) ∧
      (x.syms ≠ [] → rsDecode x.syms = none → exec (.walledScrub x) s = .next (countUe x.stack (rowError 3 x.stack x.row s)))) ∧
    (∀ (st : Fin 16) (sl : Fin 4), s.clk.slot = none →
      (let t := { s with scan := { s.scan with
          st := modifyAt s.scan.st st.val fun k => { k with quiesced := k.quiesced ++ [(sl.val, true, s.hfn)] } } }
       (s.scan.st.getD st.val Stack.reset).quiesced = [] → (s.scan.st.getD st.val Stack.reset).gh.getD sl.val 0 < 85 →
        (∀ q, q < 12 → (s.range q).inT1 ≤ t.shareOf q) → exec (.ghStepQuiesce st sl true) s = .next (setShares t)) ∧
      ((s.scan.st.getD st.val Stack.reset).gh.getD sl.val 0 = 85 → exec (.ghStepQuiesce st sl true) s = .next s) ∧
      ((s.scan.st.getD st.val Stack.reset).gh.getD sl.val 0 = 0 → exec (.ghStepQuiesce st sl false) s = .next s) ∧
      (∀ f, (s.scan.st.getD st.val Stack.reset).quiesced = [(sl.val, true, f)] → f < s.hfn →
        exec (.ghStepApply st sl) s = .next (setShares { s with scan := { s.scan with
          st := modifyAt s.scan.st st.val fun k =>
            { k with quiesced := k.quiesced.filter (·.1 != sl.val), gh := modifyAt k.gh sl.val (· + 1) } } })) ∧
      ((s.scan.st.getD st.val Stack.reset).quiesced = [] → exec (.ghStepApply st sl) s = .next s))

open Sys2Proof Sys2Proof.Machine in
/-- Host memory through BAR2 (R203, R204, R218, R231): a write to pages in T1 reads back and every other byte of the range, and every
other range, reads as before; a read of pages in T1 or unwritten answers their bytes; a read of a page below T1 waits, and a request that
has waited too long is dropped or aborted and marked; TIER_CFG takes values in its ranges, the registers of the T2 window only while it is
unused, and BAR2_WIN values up to 239. -/
def Obligations.HostMemory : Prop :=
  ∀ (s : State) (f : Fn) (off : Nat), f.val ≠ 0 → s.live = true → s.fnUp f = true →
    (∀ data : List Byte, off + data.length ≤ 2 ^ 36 → data ≠ [] → data.length ≤ 2 ^ 20 → (s.fn f).bar2Reqs = [] → pvOf f < s.ranges.length →
      (∀ no ∈ blocksIn pageSize (bar2Addr s f off) data.length,
        ((s.range (pvOf f)).page no).st.inT1 = true ∧ ((s.range (pvOf f)).page no).errs = [] ∧
          ∀ c, ((s.range (pvOf f)).page no).copy = some c → c.hold = false) →
      ∃ t, exec (.bar2Write f off data) s = .next t ∧ (t.range (pvOf f)).read (bar2Addr s f off) data.length = data ∧
        (∀ a, a < bar2Addr s f off ∨ bar2Addr s f off + data.length ≤ a → (t.range (pvOf f)).byte a = (s.range (pvOf f)).byte a) ∧
        (∀ q, q ≠ pvOf f → t.range q = s.range q) ∧ t.fns = s.fns ∧ t.out = s.out) ∧
    (∀ len, 0 < len → off + len ≤ 2 ^ 36 → (s.fn f).bar2Reqs = [] →
      (∀ no ∈ blocksIn pageSize (bar2Addr s f off) len, ((s.range (pvOf f)).page no).st.inT1 = true ∨
        ((s.range (pvOf f)).page no).st = .unwritten) →
      (∀ no ∈ blocksIn pageSize (bar2Addr s f off) len, ((s.range (pvOf f)).page no).errs = []) →
      exec (.bar2Read f off len) s = .next (emit (.bar2Data f (bar2Addr s f off) ((s.range (pvOf f)).read (bar2Addr s f off) len))
        (touch (pvOf f) (bar2Addr s f off) len s))) ∧
    (∀ len, 0 < len → off + len ≤ 2 ^ 36 →
      (∃ no ∈ blocksIn pageSize (bar2Addr s f off) len, ((s.range (pvOf f)).page no).st = .t2 ∨
        ((s.range (pvOf f)).page no).st = .t3) →
      ∃ t, exec (.bar2Read f off len) s = .next t ∧ (∀ a d, Out.bar2Data f a d ∈ t.out → Out.bar2Data f a d ∈ s.out) ∧
        (t.fn f).bar2Reqs = (s.fn f).bar2Reqs ++ [⟨false, bar2Addr s f off, len, [], s.hfn⟩]) ∧
    (∀ q qs, (s.fn f).bar2Reqs = q :: qs →
      (fld s.tier.cfgEff 23 16 ≤ 2 * (s.hfn - q.arrived) →
        (q.write = true → exec (.bar2WaitExpiry f) s = .next { s with
          fns := modifyAt s.fns f.val fun y => { y with bar2Reqs := y.bar2Reqs.drop 1 }
          tier := { s.tier with bar2Drop := true } }) ∧
        (q.write = false → exec (.bar2WaitExpiry f) s = .next { s with
          out := s.out ++ [.abort f]
          fns := modifyAt s.fns f.val fun y => { y with bar2Reqs := y.bar2Reqs.drop 1 }
          tier := { s.tier with bar2Abort := true } })) ∧
      (2 * (s.hfn - q.arrived) < fld s.tier.cfgEff 23 16 → exec (.bar2WaitExpiry f) s = .next s)) ∧
    (∀ v, s.bar0Up0 = true →
      (1 ≤ fld v 15 8 → 1 ≤ fld v 23 16 → 1 ≤ fld v 31 24 → fld v 31 24 ≤ 168 →
        exec (.tierCfgWrite v) s = .next { s with tier := { s.tier with cfg := v &&& 0xFFFF_FF03#32 } }) ∧
      (fld v 15 8 = 0 ∨ fld v 23 16 = 0 ∨ fld v 31 24 = 0 ∨ 168 < fld v 31 24 →
        exec (.tierCfgWrite v) s = .next { s with tier := { s.tier with cfgReject := true } })) ∧
    (∀ v, (s.range (pvOf f)).t2InUse = false →
      exec (.t2WindowWrite f 0 v) s = .next (modRange (pvOf f) (fun r => { r with t2Lo := v &&& 0xFFFF_0000#32 }) s) ∧
      exec (.t2WindowWrite f 1 v) s = .next (modRange (pvOf f) (fun r => { r with t2Hi := v }) s) ∧
      (sumNat (s.ranges.zipIdx.map fun (x, i) => if i = pvOf f then 0 else x.t2Pages) + fld v 26 0 ≤ 0x4000000 →
        exec (.t2WindowWrite f 2 v) s = .next (modRange (pvOf f) (fun r => { r with t2Size := v &&& 0x07FF_FFFF#32 }) s))) ∧
    (∀ v reg, reg < 3 → (s.range (pvOf f)).t2InUse = true →
      exec (.t2WindowWrite f reg v) s = .next (modRange (pvOf f) (fun r => { r with vReject := true }) s)) ∧
    (∀ v, (fld v 7 0 ≤ 239 → exec (.bar2WinWrite f v) s = .next (modFn f (fun y => { y with bar2Win := v &&& 0xFF#32 }) s)) ∧
      (239 < fld v 7 0 → exec (.bar2WinWrite f v) s = .next (modRange (pvOf f) (fun r => { r with vReject := true }) s)))

open Sys2Proof Sys2Proof.Machine in
/-- Programs and write groups (R237, R244, R245, R250, R254, R259, R260): the replay after a reset fixes the array and leaves the map, a
second one has no effect; a program that runs and succeeds ends, and marks its page, whose XOR page is asked for after the last data page;
a program that does not run has no end; a group that is whole commits: each of its units leaves the pool, and one that was not copied by
garbage collection is mapped to its page; a group that is not whole does not; a page that fails retires its block and puts a fresh one of
the channel in its place, in the group too. Garbage collection, erases, checkpoints and dies (R246, R253, R255 to R260): the first valid
unit of a source is copied into the pool with the page it comes from, and the map stays; the erase of a source is asked for once it holds
nothing valid and a root record covers the map update; an erase that runs and succeeds frees the block at one more P/E cycle, one that
fails retires it; a retired die is marked, its blocks are due; a checkpoint begins at a frame boundary when 4,096 frames or 1 GiB have
passed, one at a time, and counts once no checkpoint group is open and its root record is programmed. -/
def Obligations.FlashProgramsAndReclaims : Prop :=
  (∀ s : State,
      (∀ a : ArrayIn, s.live = true → s.flash.replayed = false →
        ∃ t, exec (.ftlReplay a) s = .next t ∧ t.flash.replayed = true ∧ t.flash.opLock = true ∧ t.flash.map = s.flash.map ∧
          t.flash.blocks = s.flash.blocks ∧ t.flash.rated = a.rated ∧ t.flash.total = (useDies a.dies).length * dieBlocks a ∧
          t.flash.regionOk = decide (a.regionNeed ≤ a.regionErased) ∧
          t.flash.ckpt = some (s.flash.capture s.hfn s.flash.nextGseq)) ∧
      (∀ a : ArrayIn, s.flash.replayed = true → exec (.ftlReplay a) s = .next s) ∧
      (∀ q i pos g x, s.flashUp = true → s.flash.groups.find? (·.gseq == q) = some g → g.stripes[i]? = some x → x.program pos ≠ x →
        s.flash.runs (.prog q i pos) = true →
        ∃ t, exec (.programComplete q i pos) s = .next t ∧ t.flash.map = s.flash.map ∧ t.flash.pool = s.flash.pool ∧
          (pos ≠ 15 → (x.program pos).xorIssued = true → x.xorIssued = false → ∃ o ∈ t.flash.ops, o.what = .prog q i 15) ∧
          t.flash.groups = mapIf (·.gseq == q) (fun y => { y with stripes := modifyAt y.stripes i (Stripe.program pos) }) s.flash.groups ∧
          t.flash.sinceCkpt = s.flash.sinceCkpt + (if g.gkind = 2 then 0 else 1)) ∧
      (∀ q i pos, s.flash.runs (.prog q i pos) = false → exec (.programComplete q i pos) s = .next s) ∧
      (∀ q g, s.flashUp = true → s.flash.groups.find? (·.gseq == q) = some g → g.full = true →
        ∃ t, exec (.writeGroupCommit q) s = .next t ∧ (∀ h ∈ t.flash.groups, h.gseq ≠ q) ∧
          ((∀ w ∈ s.works, w.stage ≠ .running) → ∀ x ∈ g.stripes, ∀ p ∈ x.pages, ∀ u ∈ t.flash.pool, p.unit ≠ some u.id) ∧
          t.flash.map = ((g.stripes.flatMap (·.pages)).foldl (commitPage g.gkind) s).flash.map) ∧
      (∀ p x id gk, p.unit = some id → s.flash.pool.find? (·.id == id) = some x → gk ≠ 1 →
        (commitPage gk s p).flash.entry x.lua = some (.at_ p.pun)) ∧
      (∀ q g, s.flash.groups.find? (·.gseq == q) = some g → g.full = false → exec (.writeGroupCommit q) s = .next s) ∧
      (∀ q blk new die g gc, s.flashUp = true → s.flash.groups.find? (·.gseq == q) = some g → (g.gkind == 1) = gc →
        (∃ x ∈ g.stripes, x.xorBlock = blk ∨ ∃ p ∈ x.pages, p.block = blk) → g.gkind = 2 ∨ 0 < s.flash.free → new ≠ blk →
        s.flash.blockDie new = die → s.flash.canOpen g.sd new = true →
        (s.flash.dies.find? (·.id == die)).map (·.channel) = (s.flash.dies.find? (·.id == s.flash.blockDie blk)).map (·.channel) →
        ∃ t, (gc = true → exec (.programFailGc q blk new die) s = .next t) ∧
          (gc = false → exec (.programFailUpdate q blk new die) s = .next t) ∧
          t.flash.free = s.flash.free - (if g.gkind = 2 then 0 else 1) ∧ t.flash.map = s.flash.map ∧ t.flash.pool = s.flash.pool ∧
          (∀ h ∈ t.flash.groups, h.gseq = q → ∀ x ∈ h.stripes, x.xorBlock ≠ blk ∧ ∀ p ∈ x.pages, p.block ≠ blk) ∧
          (∀ b ∈ t.flash.blocks, b.id = blk → b.st = .retired) ∧ (∃ b ∈ t.flash.blocks, b.id = new ∧ b.die = die)) ∧
      (∀ q blk new die g, s.flash.groups.find? (·.gseq == q) = some g →
        (g.gkind ≠ 1 → exec (.programFailGc q blk new die) s = .next s) ∧
        (g.gkind = 1 → exec (.programFailUpdate q blk new die) s = .next s))) ∧
  (∀ s : State,
      (∀ blk b, s.flashUp = true → s.flash.blocks.find? (·.id == blk) = some b → b.st = .closed → b.erasing = false →
        ∃ t, exec (.gcStart blk) s = .next t ∧ t.flash.map = s.flash.map ∧ t.flash.blocks = s.flash.blocks ∧
          (∀ u n, b.valid = [u] → s.flash.entry u = some (.at_ n) → (∀ x ∈ s.flash.pool, x.lua ≠ u) →
            s.flash.poolFits (sdOf s (some (2 * ((s.flash.dies.find? (·.id == b.die)).map (·.sd)).getD 0)) u.unit) (some .gc) 16 = true →
            ∃ x ∈ t.flash.pool, x.lua = u ∧ x.src = some n ∧ ∃ o ∈ t.flash.ops, o.what = .gc ∧ o.lua = u ∧ o.pun = n)) ∧
      (∀ blk b h r, s.flash.blocks.find? (·.id == blk) = some b → b.erasable = some h → s.flash.root = some r →
        (s.flashUp = true → b.st = .closed → b.valid = [] → b.erasing = false → h < r.b →
          ∃ t o, exec (.sourceErase blk) s = .next t ∧ t.flash.ops = s.flash.ops ++ [o] ∧ o.what = .erase blk ∧ o.die = b.die ∧
            o.st = .queued ∧ t.flash.blocks = mapIf (·.id == blk) (fun b => { b with erasing := true }) s.flash.blocks ∧
            t.flash.map = s.flash.map ∧ t.out = s.out) ∧
        (r.b ≤ h ∨ b.valid ≠ [] → exec (.sourceErase blk) s = .next s)) ∧
      (∀ blk b, s.flash.blocks.find? (·.id == blk) = some b → s.flashUp = true → b.erasing = true →
        s.flash.runs (.erase blk) = true →
        (∃ t, exec (.eraseComplete blk) s = .next t ∧ t.flash.free = s.flash.free + 1 ∧ t.flash.map = s.flash.map ∧
          t.flash.blocks = mapIf (·.id == blk) (fun b =>
            { b with st := .erased, pe := b.pe + 1, erasing := false, erasable := none, due := false, next := 0 }) s.flash.blocks) ∧
        (∃ t, exec (.eraseFail blk) s = .next t ∧ t.flash.free = s.flash.free ∧ t.flash.map = s.flash.map ∧
          ∀ b ∈ t.flash.blocks, b.id = blk → b.st = .retired ∧ b.erasing = false)) ∧
      (∀ blk b, s.flash.blocks.find? (·.id == blk) = some b → b.erasing = false ∨ s.flash.runs (.erase blk) = false →
        exec (.eraseComplete blk) s = .next s ∧ exec (.eraseFail blk) s = .next s) ∧
      (∀ die d, s.flashUp = true → s.flash.dies.find? (·.id == die) = some d → d.retired = false →
        ∃ t, exec (.dieRetire die) s = .next t ∧ t.flash.map = s.flash.map ∧
          t.flash.dies = mapIf (·.id == die) (fun d => { d with retired := true }) s.flash.dies ∧
          t.flash.blocks = mapIf (·.die == die) (fun b => { b with due := true }) s.flash.blocks) ∧
      (∀ r, s.flashUp = true → s.clk.slot = none → s.flash.ckpt = none → s.flash.root = some r →
        (r.b + 4096 ≤ s.hfn ∨ 65536 ≤ s.flash.sinceCkpt →
          exec .mapCheckpointStart s = .next { s with flash :=
            { s.flash with ckpt := some (s.flash.capture s.hfn s.flash.replayFrom), sinceCkpt := 0 } }) ∧
        (s.hfn < r.b + 4096 → s.flash.sinceCkpt < 65536 → exec .mapCheckpointStart s = .next s)) ∧
      (s.flash.ckpt.isSome = true → exec .mapCheckpointStart s = .next s) ∧
      (∀ r, s.flashUp = true → s.flash.ckpt = some r → (∀ g ∈ s.flash.groups, g.gkind ≠ 2) →
        exec .rootRecordCommit s = .next { s with flash := { s.flash with root := some r, ckpt := none } }) ∧
      ((∃ g ∈ s.flash.groups, g.gkind = 2) → exec .rootRecordCommit s = .next s))

open Sys2Proof Sys2Proof.Machine in
/-- Reads, ageing, polls and registers of the flash (R243, R248, R249, R264, R267): a block open for an hour is closed; the poll takes the
dies' temperatures and marks the blocks that are due; a window closes with its counts at 0; a read that garbage collection waits for and
that step 5 cannot correct makes its unit unreadable, one that step 1 or 2 corrects is counted and leaves the map and the pool; FLASH_CFG,
SLC_MAX and FLASH_WARN take values in their ranges, OP_PCT only before the first replay. -/
def Obligations.FlashReadsAndRegisters : Prop :=
  ∀ s : State,
    (∀ blk, s.flashUp = true → (∃ b ∈ s.flash.blocks, b.id = blk ∧ b.st = .opened ∧ b.opened + 180000000 ≤ s.hfn) →
      ∃ t, exec (.blockAgeClose blk) s = .next t ∧ (∀ b ∈ t.flash.blocks, b.id = blk → b.st = .closed) ∧ t.flash.map = s.flash.map) ∧
    (∀ blk, (∀ b ∈ s.flash.blocks, b.id = blk → b.st ≠ .opened ∨ s.hfn < b.opened + 180000000) →
      exec (.blockAgeClose blk) s = .next s) ∧
    (∀ temps due, s.flashUp = true → 50000 ≤ s.flash.pollFrames →
      ∃ t, exec (.flashTempPoll temps due) s = .next t ∧ t.flash.pollFrames = 0 ∧ t.flash.map = s.flash.map ∧
        t.flash.dies = s.flash.dies.zipIdx.map (fun (d, i) => { d with temp := temps.getD i d.temp }) ∧
        t.flash.blocks = mapIf (fun b => due.contains b.id) (fun b => { b with due := true }) s.flash.blocks) ∧
    (∀ temps due, s.flash.pollFrames < 50000 → exec (.flashTempPoll temps due) s = .next s) ∧
    (s.flashUp = true → 50000 ≤ s.flash.winFrames →
      ∃ t, exec .retryRiseWindow s = .next t ∧ t.flash.winReads = 0 ∧ t.flash.winRetried = 0 ∧ t.flash.winFrames = 0) ∧
    (s.flash.winFrames < 50000 → exec .retryRiseWindow s = .next s) ∧
    (∀ (r : FReadIn) o, s.flashUp = true → s.flash.ops.find? (·.id == r.op) = some o → o.what = .gc → o.st = .running →
      s.flash.stepsOk o r.steps = true → s.flash.entry o.lua = some (.at_ o.pun) →
      (5 ∈ r.steps → ∃ t, exec (.flashReadComplete r) s = .next t ∧ t.flash.entry o.lua = some .unreadable ∧
        t.flash.unrecov = satTo 0xFFFF (s.flash.unrecov + 1) ∧ t.flash.ops = s.flash.ops.filter (·.id != o.id)) ∧
      ((∀ k ∈ r.steps, k ≤ 2) → ∃ t, exec (.flashReadComplete r) s = .next t ∧ t.flash.map = s.flash.map ∧
        t.flash.pool = s.flash.pool ∧ t.flash.winReads = s.flash.winReads + o.n ∧ t.flash.ops = s.flash.ops.filter (·.id != o.id) ∧
        t.flash.winRetried = s.flash.winRetried + (r.steps.filter (· = 2)).length)) ∧
    (∀ r : FReadIn, (∀ o ∈ s.flash.ops, o.id ≠ r.op) → exec (.flashReadComplete r) s = .next s) ∧
    (∀ v, s.bar0Up0 = true →
      (s.flash.opLock = false → 1 ≤ fld v 4 0 → 7 ≤ fld v 15 8 → fld v 15 8 ≤ 50 → 1 ≤ fld v 23 16 →
        exec (.flashCfgWrite 0 v) s = .next { s with flash :=
          { s.flash with cfg := (v &&& 0x00FF_007F#32) ||| put (fld v 15 8) 8 8 } }) ∧
      (s.flash.opLock = true → 1 ≤ fld v 4 0 → 7 ≤ fld s.flash.cfg 15 8 → fld s.flash.cfg 15 8 ≤ 50 → 1 ≤ fld v 23 16 →
        exec (.flashCfgWrite 0 v) s = .next { s with flash :=
          { s.flash with cfg := (v &&& 0x00FF_007F#32) ||| put (fld s.flash.cfg 15 8) 8 8 } }) ∧
      (fld v 4 0 = 0 ∨ fld v 23 16 = 0 →
        exec (.flashCfgWrite 0 v) s = .next { s with flash := { s.flash with cfgReject := true } }) ∧
      exec (.flashCfgWrite 1 v) s = .next { s with flash := { s.flash with slcMax := v &&& 0xFFFF#32 } } ∧
      (fld v 7 0 ≠ 0 → fld v 23 8 ≠ 0 → fld v 31 24 ≠ 0 →
        exec (.flashCfgWrite 2 v) s = .next { s with flash := { s.flash with warn := v } }) ∧
      (fld v 7 0 = 0 ∨ fld v 23 8 = 0 ∨ fld v 31 24 = 0 →
        exec (.flashCfgWrite 2 v) s = .next { s with flash := { s.flash with cfgReject := true } }))

open Sys2Proof Sys2Proof.Machine in
/-- STATS_READ and FABRIC_COPY (R318 to R321): STATS_READ waits for the next frame boundary; a copy from the host whose source cannot be
read is BAD_ADDRESS; one of at most 1 MiB sends what it read to the node of its destination and waits; a copy from the hall of at most 1
MiB asks the node of its source for the bytes and waits. READ, WRITE and the atomics of a hall address (R335, R339, R364): a request that
is served answers with the bytes it read, OK for a write, or the value before an atomic, which adds, or swaps when the comparison holds;
an access that fails is answered with its status, and a write that has to wait for a frame is held; a failed check or another node's
address is answered without an access. -/
def Obligations.StatisticsCopiesAndHallRequests : Prop :=
  (∀ (s : State) (wid : Nat) (w : Work), s.work wid = some w →
      (s.admits = true → w.stage = .fetched → dOp w.desc = opStats → exec (.statsRead wid) s = .next { s with
        works := mapIf (fun x => x.id == wid) (fun x => { x with stage := .running }) s.works }) ∧
      (s.admits = false ∨ w.stage ≠ .fetched ∨ dOp w.desc ≠ opStats → exec (.statsRead wid) s = .next s) ∧
      (s.admitsWork opCopy wid w → s.fab.held = [] →
        (cDir w.desc = 0 → exec (.fabricCopy wid none) s = .next (failWork w .badAddress
          (s.readsHost w.fn (cSrc w.desc) (cLen w.desc)))) ∧
        (∀ bs, cDir w.desc = 0 → 0 < cLen w.desc → cLen w.desc ≤ 2 ^ 20 → bs.length = cLen w.desc → hallNode (cDst w.desc) ≠ s.node →
          ∃ t, exec (.fabricCopy wid (some bs)) s = .next t ∧
            t.works = mapIf (fun x => x.id == w.id) (fun x => { x with stage := .running }) s.works ∧
            t.fab.reqs = s.fab.reqs ++ [⟨s.fab.nextMsg, hallNode (cDst w.desc), .copy w.id 0 (cLen w.desc) true, writeBody (cDst w.desc) bs⟩] ∧
            t.ranges = s.ranges ∧ t.flash = s.flash ∧ t.corpora = s.corpora ∧
            (cLen w.desc + 16 < 65536 → t = { s.readsHost w.fn (cSrc w.desc) (cLen w.desc) with works := t.works, fab := t.fab })) ∧
        (∀ data, cDir w.desc ≠ 0 → 0 < cLen w.desc → cLen w.desc ≤ 2 ^ 20 → hallNode (cSrc w.desc) ≠ s.node →
          ∃ t, exec (.fabricCopy wid data) s = .next t ∧
            t.works = mapIf (fun x => x.id == w.id) (fun x => { x with stage := .running }) s.works ∧
            t.fab.reqs = s.fab.reqs ++ [⟨s.fab.nextMsg, hallNode (cSrc w.desc), .copy w.id 0 (cLen w.desc) false,
              readBody (cSrc w.desc) (cLen w.desc)⟩] ∧ t.out = s.out ∧ t = { s with works := t.works, fab := t.fab })) ∧
      (∀ data, s.fab.held = [] → w.stage ≠ .fetched ∨ dOp w.desc ≠ opCopy → exec (.fabricCopy wid data) s = .next s)) ∧
  (∀ (s : State) (m : JMsg),
      let p := reqPv ⟨m, jRead⟩
      let a := reqOff ⟨m, jRead⟩
      (s.servesReq jRead m → (∀ no ∈ blocksIn pageSize a (reqLen ⟨m, jRead⟩), ((s.range p).page no).errs = []) →
        ∃ u, exec (.read m) s = .next (sendMsg m.src 3 jResp m.pv (respBody m .ok ((s.range p).read a (reqLen ⟨m, jRead⟩))) u) ∧
          u = { s with ranges := u.ranges }) ∧
      (s.servesReq jRead m → ∀ st u, readFor p a (reqLen ⟨m, jRead⟩) 0 s = ((some st, []), u) →
        exec (.read m) s = .next (sendMsg m.src 3 jResp m.pv (respBody m st []) u)) ∧
      (s.servesReq jWrite m → ∀ u,
        (writeBack p a (slice m.body 16 (reqLen ⟨m, jWrite⟩)) s = (.ready, u) →
          exec (.write m) s = .next (sendMsg m.src 3 jResp m.pv (respBody m .ok []) u)) ∧
        (∀ st, writeBack p a (slice m.body 16 (reqLen ⟨m, jWrite⟩)) s = (.refuse st, u) →
          exec (.write m) s = .next (sendMsg m.src 3 jResp m.pv (respBody m st []) u)) ∧
        (writeBack p a (slice m.body 16 (reqLen ⟨m, jWrite⟩)) s = (.wait, u) →
          exec (.write m) s = .next { u with fab := { u.fab with held := u.fab.held ++ [⟨⟨m, jWrite⟩, u.hfn, true⟩] } })) ∧
      (s.servesReq jAtomic m → ∀ bs u v, readFor p a 8 0 s = ((none, bs), u) →
        (field m.body 8 1 = 0 → writeBack p a (leBytes 8 ((leNat bs + field m.body 16 8) % 2 ^ 64)) u = (.ready, v) →
          exec (.fetchAdd m) s = .next (sendMsg m.src 0 jResp m.pv (respBody m .ok bs) v)) ∧
        (field m.body 8 1 = 1 → writeBack p a
            (leBytes 8 (if leNat bs = field m.body 24 8 then field m.body 16 8 else leNat bs)) u = (.ready, v) →
          exec (.compareSwap m) s = .next (sendMsg m.src 0 jResp m.pv (respBody m .ok bs) v))) ∧
      (∀ st data, s.hears m.src = true → m.epoch ≤ s.comp.map.epoch → m.src ≠ s.node →
        (reqRefusal s ⟨m, jRead⟩ = some (st, data) →
          exec (.read m) s = .next (sendMsg m.src 3 jResp m.pv (respBody m st data) s)) ∧
        (reqRefusal s ⟨m, jWrite⟩ = some (st, data) →
          exec (.write m) s = .next (sendMsg m.src 3 jResp m.pv (respBody m st data) s)) ∧
        (reqRefusal s ⟨m, jAtomic⟩ = some (st, data) → field m.body 8 1 = 0 →
          exec (.fetchAdd m) s = .next (sendMsg m.src 0 jResp m.pv (respBody m st data) s)) ∧
        (reqRefusal s ⟨m, jAtomic⟩ = some (st, data) → field m.body 8 1 = 1 →
          exec (.compareSwap m) s = .next (sendMsg m.src 0 jResp m.pv (respBody m st data) s))) ∧
      (field m.body 8 1 ≠ 0 → exec (.fetchAdd m) s = .next s) ∧
      (field m.body 8 1 ≠ 1 → exec (.compareSwap m) s = .next s))

open Sys2Proof Sys2Proof.Machine in
/-- Holds, answers, bundles and promotions (R208, R335, R339, R343, R363): a request whose pages are not in T1 waits for them, one routed
under a newer map for the map, and one held too long is answered TIMEOUT, as is a query whose plots' state is pulled too long; a RESP ends
its request; a record of a bundle acts as its message; a message of a node that is no member has no effect; a promotion from T2 that is
complete switches the page, one whose read failed ends with a memory error. -/
def Obligations.HoldsAndAnswers : Prop :=
  ∀ (s : State) (m : JMsg),
    (s.hears m.src = true → m.epoch ≤ s.comp.map.epoch → reqRefusal s ⟨m, jRead⟩ = none → reqLow s ⟨m, jRead⟩ ≠ [] →
      reqDead s ⟨m, jRead⟩ = false →
      ∃ t, exec (.read m) s = .next t ∧ t.fab = { s.fab with held := s.fab.held ++ [⟨⟨m, jRead⟩, s.hfn, true⟩] }) ∧
    (s.hears m.src = true → s.comp.map.epoch < m.epoch →
      exec (.write m) s = .next (fetchMap { s with fab := { s.fab with held := s.fab.held ++ [⟨⟨m, jWrite⟩, s.hfn, false⟩] } })) ∧
    (s.live = true → (∀ q ∈ s.scan.queries, q.pulling s = false) → (∀ h, s.fab.held = [h] → isReq h.msg.op = true → h.msg.m.src ≠ s.node → h.forPage = true → h.arrived + 1000 ≤ s.hfn →
      exec .requestHoldTimeout s = .next (sendMsg h.msg.m.src (if h.msg.op = jAtomic then 0 else 3) jResp h.msg.m.pv
        (respBody h.msg.m .timeout []) { s with fab := { s.fab with held := [] } }))) ∧
    (∀ q, s.live = true → s.fab.held = [] → s.scan.queries = [q] → q.stage = .routed → q.toJoin ≠ [] → q.pulling s = true →
      q.arrived + 100 ≤ s.hfn → exec .requestHoldTimeout s = .next (finishLocal q.id { s with scan := { s.scan with
        queries := mapIf (·.id == q.id) (fun q => { q with toJoin := [], bad := q.bad ++ [.timeout] }) s.scan.queries } })) ∧
    ((∀ h ∈ s.fab.held, s.hfn < h.arrived + if h.forPage then 1000 else 100) →
      (∀ q ∈ s.scan.queries, q.stage ≠ .routed ∨ q.pulling s = false ∨ s.hfn < q.arrived + 100) →
      exec .requestHoldTimeout s = .next s) ∧
    (s.takesMsg jResp m →
      (∀ r, s.fab.reqs = [r] → r.msgId = field m.body 0 4 → r.dst = m.src → r.why = .atomic →
        exec (.resp m) s = .next { s with
          fab := { s.fab with reqs := [] }, out := s.out ++ [.internal "ATOMIC" (leNat (m.body.drop 16))] }) ∧
      (∀ r wid off len wr, s.fab.reqs = [r] → r.msgId = field m.body 0 4 → r.dst = m.src → r.why = .copy wid off len wr →
        Status.ofCode (field m.body 4 1) ≠ .ok → Status.ofCode (field m.body 4 1) ≠ .redirect → s.fab.held = [] →
        exec (.resp m) s = .next (completeId wid (Status.ofCode (field m.body 4 1)) 0 (spec3 0 0 off)
          { s with fab := { s.fab with reqs := [] } })) ∧
      ((∀ r ∈ s.fab.reqs, r.msgId ≠ field m.body 0 4 ∨ r.dst ≠ m.src) → exec (.resp m) s = .next s)) ∧
    (∀ x, bundleRecs m m.body.length m.body = [⟨x, jRead⟩] → x.src = m.src → exec (.bundle m) s = exec (.read x) s) ∧
    (∀ x, bundleRecs m m.body.length m.body = [⟨x, jPartial⟩] → x.src = m.src → exec (.bundle m) s = exec (.partialList x) s) ∧
    (s.hears m.src = true → bundleRecs m m.body.length m.body = [] → exec (.bundle m) s = .next s) ∧
    (s.hears m.src = false → exec (.read m) s = .next s ∧ exec (.write m) s = .next s ∧ exec (.fetchAdd m) s = .next s ∧
      exec (.compareSwap m) s = .next s ∧ exec (.resp m) s = .next s ∧ exec (.bundle m) s = .next s ∧ exec (.fanout m) s = .next s ∧
      exec (.partialList m) s = .next s ∧ exec (.preElem m) s = .next s ∧ exec (.preEid m) s = .next s ∧ exec (.preAck m) s = .next s ∧
      exec (.frameMark m) s = .next s ∧ exec (.commitAck m) s = .next s) ∧
    (∀ (p : Pv) no ok, s.fab.held = [] →
      (((s.range p.val).page no).copy = none → exec (.pagePromoteDone p no ok) s = .next s) ∧
      (∀ c, ((s.range p.val).page no).copy = some c → s.live = true → c.tier = 1 → s.flash.asked p.val (.page no) = false →
        (ok = false → ((s.range p.val).page no).st = .t2 → exec (.pagePromoteDone p no ok) s = .next
          (dropCopy p.val no (some .memUncorrectable) (memError p.val 2 2 (no * pageSize) s))) ∧
        (ok = true → ((s.range p.val).page no).st = .t2 → no ∉ (s.range p.val).t2Bad → c.work = none →
          exec (.pagePromoteDone p no ok) s = .next (pumpBar2 (fnOf p.val) (migrated (modRange p.val (fun r =>
            r.modPage no fun g => { g with misses := 0, lastAcc := s.hfn }) (landPage p.val no s)))))))

open Sys2Proof Sys2Proof.Machine in
/-- FANOUT and PARTIAL_LIST (R41, R176, R186, R336, R337, R363, R365): while the node is in ACQUIRE or UNALIGNED a FANOUT is counted and
no more; else a query record for plots that this node answers for joins its queries under the sender's snapshot and epoch; one that it
cannot serve is answered REDIRECT, EPOCH_STALE, TIMEOUT or RESET; a partial list takes the place of the record it answers, and one that
answers nothing is dropped. -/
def Obligations.QueryMessages : Prop :=
  ∀ (s : State) (m : JMsg),
    (s.takesMsg jFanout m → s.alignOpen = false → ∀ r, fanRecords m.body.length m.body = [r] →
      exec (.fanout m) s = .next (count none 4 5 1 s)) ∧
    (s.takesMsg jFanout m → s.alignOpen = true → ∀ r, fanRecords m.body.length m.body = [r] →
      (s.pvInReset m.pv = true → ∃ q, exec (.fanout m) s = .next (refuseFan m.src m.pv (field r 0 8) q .reset (count none 4 5 1 s)) ∧
        q.fanRound = field r 80 2 ∧ q.fanReroute = field r 84 1) ∧
      (s.pvInReset m.pv = false →
        ((s.corpus m.pv).bundle? (field r 16 4) = none →
          ∃ q, exec (.fanout m) s = .next (refuseFan m.src m.pv (field r 0 8) q .epochStale (count none 4 5 1 s)) ∧
            q.fanRound = field r 80 2 ∧ q.fanReroute = field r 84 1) ∧
        (∀ b, (s.corpus m.pv).bundle? (field r 16 4) = some b →
          (field r 8 8 ≤ (s.corpus m.pv).retireH →
            ∃ q, exec (.fanout m) s = .next (refuseFan m.src m.pv (field r 0 8) q .timeout (count none 4 5 1 s)) ∧
              q.fanRound = field r 80 2) ∧
          ((s.corpus m.pv).retireH < field r 8 8 → (readFan b r).1.sweep = false →
            ((∃ k ∈ (readFan b r).2.2.2, s.answersFor m.pv k m.epoch = false) →
              ∃ q, exec (.fanout m) s = .next (refuseFan m.src m.pv (field r 0 8) q .redirect (count none 4 5 1 s)) ∧
                q.fanRound = field r 80 2) ∧
            ((∀ k ∈ (readFan b r).2.2.2, s.answersFor m.pv k m.epoch = true ∧
                ∃ x, s.comp.map.plot? m.pv k = some x ∧ x.st ≠ .lost) → (readFan b r).2.2.2 ≠ [] →
              ∃ t q, exec (.fanout m) s = .next t ∧ t.scan.queries = s.scan.queries ++ [q] ∧ q.origin = some (m.src, field r 0 8) ∧
                q.snapshot = field r 8 8 ∧ q.epoch = field r 16 4 ∧ q.plots = (readFan b r).2.2.2 ∧ q.stage = .routed ∧ q.pv = m.pv ∧
                q.q = (readFan b r).1 ∧ q.code = (readFan b r).2.1 ∧ q.sketch = (readFan b r).2.2.1 ∧ q.arrived = s.hfn ∧
                t.out = s.out ∧ t.works = s.works))))) ∧
    (s.hears m.src = true → bodyOk ⟨m, jFanout⟩ = false → m.epoch ≤ s.comp.map.epoch →
      exec (.fanout m) s = .next { s with fab := { s.fab with rxDrop := true } }) ∧
    (s.takesMsg jPartial m → ∀ q, s.query? (field m.body 0 8) = some q → q.pv = m.pv → q.origin = none → q.stage.over = false →
      (∀ r, q.awaitNodes.find? (fun r => r.node == m.src && r.round == field m.body 22 2 && r.reroute == field m.body 44 1) = some r →
        Status.ofCode (field m.body 8 1) ≠ .redirect →
        ∃ t q', exec (.partialList m) s = .next t ∧ t.query? q.id = some q' ∧ q' = { q with
          parts := q.parts ++ [readPart m.src m.body], awaitNodes := q.awaitNodes.erase r
          shadowed := q.shadowed || (field m.body 9 1).testBit 3 } ∧ t = { s with scan := t.scan }) ∧
      ((∀ r ∈ q.awaitNodes, r.node ≠ m.src) → exec (.partialList m) s = .next s)) ∧
    (s.takesMsg jPartial m → (∀ q ∈ s.scan.queries, q.id ≠ field m.body 0 8) → exec (.partialList m) s = .next s)

open Sys2Proof Sys2Proof.Machine in
/-- Ingest messages (R41, R45, R171 to R173, R177): elements of a pre-notice are reserved, written and staged, or answered QUOTA; EIDs of
a pre-notice are staged; in ACQUIRE and UNALIGNED neither is; an acknowledgement lets its batch go on or ends it; a frame mark without a
gap advances its peer; a commit acknowledgement takes its owner off the batch; what answers nothing is dropped. -/
def Obligations.IngestMessages : Prop :=
  ∀ (s : State) (m : JMsg),
    (s.takesMsg jIngest m → s.alignOpen = false → (∀ x ∈ s.upd.staged, x.id ≠ field m.body 8 8) →
      (field m.body 0 1 = 0 → exec (.preElem m) s = .next s) ∧ (field m.body 0 1 = 1 → exec (.preEid m) s = .next s)) ∧
    (s.takesMsg jIngest m → s.alignOpen = true → field m.body 0 1 = 0 → (∀ x ∈ s.upd.staged, x.id ≠ field m.body 8 8) →
      ((s.corpus m.pv).cur = none → exec (.preElem m) s = .next (sendPreAck m.src m.pv (field m.body 8 8) .ok [] s)) ∧
      (∀ cur, (s.corpus m.pv).cur = some cur →
        let es := (parseElems cur ((s.corpus m.pv).stgAt s.hfn) (field m.body 16 2) (m.body.drop 24)).filter
          (·.heldBy s.comp.map m.pv s.node)
        (reserveElems m.pv false es s = none →
          exec (.preElem m) s = .next (sendPreAck m.src m.pv (field m.body 8 8) .quota [] s)) ∧
        (∀ es' t, reserveElems m.pv false es s = some (es', t) → (∀ e ∈ es', poolRoom t m.pv e.vers (e.payload != []) = .ok) →
          exec (.preElem m) s = .next (sendPreAck m.src m.pv (field m.body 8 8) .ok []
            ((es'.foldl (fun t e => writeElem m.pv e t) t).stage m.src m.pv (field m.body 8 8) false es' (readRec (m.body.drop 24)).ver))) ∧
        (∀ es' t, reserveElems m.pv false es s = some (es', t) → (∃ e ∈ es', poolRoom t m.pv e.vers (e.payload != []) ≠ .ok) →
          exec (.preElem m) s = .next (sendPreAck m.src m.pv (field m.body 8 8) .quota [] s)))) ∧
    (s.takesMsg jIngest m → s.alignOpen = true → field m.body 0 1 = 1 → (∀ x ∈ s.upd.staged, x.id ≠ field m.body 8 8) → field m.body 18 1 = 0 →
      ∃ x, exec (.preEid m) s = .next (sendPreAck m.src m.pv (field m.body 8 8) .ok []
        { s with upd := { s.upd with staged := s.upd.staged ++ [x] } }) ∧ x.id = field m.body 8 8 ∧ x.node = m.src ∧ x.pv = m.pv ∧
        x.del = false ∧ x.arrived = s.hfn ∧ x.elems.map (·.eid) = (List.range (field m.body 16 2)).map fun i => field m.body (24 + 8 * i) 8) ∧
    (s.takesMsg jIngest m → field m.body 0 1 = 2 →
      (∀ b, s.batch? (field m.body 8 8) = some b → b.stage = .prep → m.src ∈ b.await_ →
        (field m.body 16 1 = Status.quota.code → exec (.preAck m) s = .next (endBatch b .quota s)) ∧
        (field m.body 16 1 ≠ Status.quota.code → b.del = false →
          ∃ t b', exec (.preAck m) s = .next t ∧ t.batch? b.id = some b' ∧ b'.await_ = b.await_.erase m.src ∧ b'.owners = b.owners ∧
            b'.elems = b.elems ∧ b'.stage = .prep ∧ t = { s with upd := t.upd })) ∧
      (∀ b, s.batch? (field m.body 8 8) = some b → b.stage ≠ .prep ∨ m.src ∉ b.await_ → exec (.preAck m) s = .next s) ∧
      (s.batch? (field m.body 8 8) = none → exec (.preAck m) s = .next s)) ∧
    (s.takesMsg jIngest m → field m.body 0 1 = 3 →
      ((∃ x ∈ (s.corpus m.pv).peers, x.node = m.src ∧ field m.body 8 8 ≤ x.got) → exec (.frameMark m) s = .next s) ∧
      (∀ c, s.corpora[m.pv]? = some c → (∀ x ∈ c.peers, x.node = m.src → x.got + 1 = field m.body 8 8 ∧ x.later = []) →
        field m.body 16 2 = 0 →
        exec (.frameMark m) s = .next { s with
          corpora := modifyAt s.corpora m.pv fun c => { c with
            peers := mapIf (·.node == m.src) (fun x => { x with got := field m.body 8 8, later := [], silent := 0 }) c.peers } })) ∧
    (s.takesMsg jIngest m → field m.body 0 1 = 4 →
      (∀ b, s.batch? (field m.body 8 8) = some b → b.stage = .admitted → m.src ∈ b.owners →
        (b.elems.filter (b.partOn s.comp.map [m.src])).length ≤ field m.body 16 2 →
        exec (.commitAck m) s = .next (settleBatch (field m.body 8 8) { s with upd := { s.upd with
          batches := mapIf (·.id == field m.body 8 8) (fun b => { b with owners := b.owners.filter (· != m.src) }) s.upd.batches } })) ∧
      (∀ b, s.batch? (field m.body 8 8) = some b → b.stage ≠ .admitted ∨ m.src ∉ b.owners → exec (.commitAck m) s = .next s))

open Sys2Proof Sys2Proof.Machine in
/-- Windows and queue pairs (R350, R351, R418): the block is read from memory; one that cannot be used is BAD_BLOCK, an argument out of
range BAD_ARG, a window that exists or would pin too much REFUSED; a window whose pages are in T1 is exported and its command ends, one
whose pages are on their way keeps its command; UNEXPORT takes a window away; QP_CREATE makes a queue pair while there is room for one,
and QP_DESTROY removes it. RDMA requests (R346, R350, R351): a request in order in a window that it may use is performed and answered; one
without such a window is answered Remote Access Error, one beyond the next in order NAK; a request that is not served has its NAK; what is
sent counts as the pavilion's use of the link; a CNP cuts the rate of its queue pair at most once in two slots. -/
def Obligations.WindowsAndRdma : Prop :=
  (∀ (s : State) (p : Pv),
      (s.groundsTakes p.val 0x40 →
        exec (.winExport p none) s = .next (chanAck (2 + p.val) rcBadBlock (s.blockRead (2 + p.val) 64)) ∧
        (∀ b, blockLen 64 (some b) ≠ none →
          (zeroAt b 18 6 = false ∨ zeroAt b 36 28 = false → exec (.winExport p (some b)) s = .next (chanAck (2 + p.val) rcBadBlock (s.blockRead (2 + p.val) b.length))) ∧
          (zeroAt b 18 6 = true → zeroAt b 36 28 = true →
            (64 ≤ field b 16 1 ∨ 1 < field b 17 1 ∨ field b 32 4 = 0 ∨ field b 24 8 % pageSize ≠ 0 ∨
                hostAreaEnd < field b 24 8 + field b 32 4 * pageSize →
              exec (.winExport p (some b)) s = .next (chanAck (2 + p.val) rcBadArg (s.blockRead (2 + p.val) b.length))) ∧
            (field b 16 1 < 64 → field b 17 1 ≤ 1 → field b 32 4 ≠ 0 → field b 24 8 % pageSize = 0 →
              field b 24 8 + field b 32 4 * pageSize ≤ hostAreaEnd →
              (s.window? p.val (field b 16 1) ≠ none ∨ pinRoom (s.range p.val) (field b 24 8 / pageSize) (field b 32 4) = false →
                exec (.winExport p (some b)) s = .next (chanAck (2 + p.val) rcRefused (s.blockRead (2 + p.val) b.length))) ∧
              (∀ u, s.window? p.val (field b 16 1) = none → pinRoom (s.range p.val) (field b 24 8 / pageSize) (field b 32 4) = true →
                allIntoT1 p.val ((List.range (field b 32 4)).map (field b 24 8 / pageSize + ·)) (s.blockRead (2 + p.val) b.length) =
                  (.ready, u) →
                ∃ t key, exec (.winExport p (some b)) s = .next t ∧ t.fab.windows = s.fab.windows ++
                  [⟨p.val, field b 16 1, field b 24 8 / pageSize * pageSize, field b 32 4, field b 17 1 == 1, key⟩] ∧
                  (t.chan (2 + p.val)).full = false) ∧
              (∀ u, s.window? p.val (field b 16 1) = none → pinRoom (s.range p.val) (field b 24 8 / pageSize) (field b 32 4) = true →
                allIntoT1 p.val ((List.range (field b 32 4)).map (field b 24 8 / pageSize + ·)) (s.blockRead (2 + p.val) b.length) =
                  (.wait, u) →
                exec (.winExport p (some b)) s = .next u))))) ∧
      (s.groundsTakes p.val 0x41 →
        (63 < wordArg (s.chan (2 + p.val)).word → exec (.winUnexport p) s = .next (chanAck (2 + p.val) rcBadArg s)) ∧
        (wordArg (s.chan (2 + p.val)).word ≤ 63 →
          (s.window? p.val (wordArg (s.chan (2 + p.val)).word) = none → exec (.winUnexport p) s = .next (chanAck (2 + p.val) rcRefused s)) ∧
          (∀ w, s.window? p.val (wordArg (s.chan (2 + p.val)).word) = some w →
            exec (.winUnexport p) s = .next (chanAck (2 + p.val) rcOk (dropWindow w s))))) ∧
      (s.groundsTakes p.val 0x42 →
        exec (.qpCreate p none) s = .next (chanAck (2 + p.val) rcBadBlock (s.blockRead (2 + p.val) 64)) ∧
        (∀ b, blockLen 64 (some b) ≠ none → zeroAt b 46 2 = true → zeroAt b 56 8 = true →
          (0x1000000 ≤ field b 32 4 ∨ 0x1000000 ≤ field b 36 4 ∨ 0x1000000 ≤ field b 40 4 ∨ pathMtu (field b 44 1) = 0 ∨ 20 ≤ field b 45 1 →
            exec (.qpCreate p (some b)) s = .next (chanAck (2 + p.val) rcBadArg (s.blockRead (2 + p.val) b.length))) ∧
          (field b 32 4 < 0x1000000 → field b 36 4 < 0x1000000 → field b 40 4 < 0x1000000 → pathMtu (field b 44 1) ≠ 0 → field b 45 1 < 20 →
            (256 ≤ (s.fab.qps.filter (·.pv == p.val)).length → exec (.qpCreate p (some b)) s = .next (chanAck (2 + p.val) rcNoSpace (s.blockRead (2 + p.val) b.length))) ∧
            ((s.fab.qps.filter (·.pv == p.val)).length < 256 → (∃ i, i < 1024 ∧ ∀ x ∈ s.fab.qps, x.qpn % 1024 ≠ i) →
              ∃ t q, exec (.qpCreate p (some b)) s = .next t ∧ t.fab.qps = s.fab.qps ++ [q] ∧ q.pv = p.val ∧ q.rqpn = field b 32 4 ∧
                q.sendPsn = field b 36 4 ∧ q.recvPsn = field b 40 4 ∧ q.mtu = pathMtu (field b 44 1) ∧ q.port = field b 45 1 ∧
                q.winMask = field b 48 8 ∧ q.gid = slice b 16 16 ∧ (∀ x ∈ s.fab.qps, x.qpn ≠ q.qpn))))) ∧
      (s.groundsTakes p.val 0x43 →
        (0x1000000 ≤ wordArg (s.chan (2 + p.val)).word → exec (.qpDestroy p) s = .next (chanAck (2 + p.val) rcBadArg s)) ∧
        (wordArg (s.chan (2 + p.val)).word < 0x1000000 →
          ((∃ q ∈ s.fab.qps, q.pv = p.val ∧ q.qpn = wordArg (s.chan (2 + p.val)).word) →
            exec (.qpDestroy p) s = .next (chanAck (2 + p.val) rcOk { s with fab := { s.fab with
              qps := s.fab.qps.filter fun q => !(q.pv == p.val && q.qpn == wordArg (s.chan (2 + p.val)).word) } })) ∧
          ((∀ q ∈ s.fab.qps, ¬ (q.pv = p.val ∧ q.qpn = wordArg (s.chan (2 + p.val)).word)) →
            exec (.qpDestroy p) s = .next (chanAck (2 + p.val) rcRefused s)))) ∧
      (∀ blk, s.live = false → exec (.winExport p blk) s = .next s ∧ exec (.winUnexport p) s = .next s ∧
        exec (.qpCreate p blk) s = .next s ∧ exec (.qpDestroy p) s = .next s)) ∧
  (∀ (s : State) (qpn : Nat) (q : Qp), s.qpReady qpn q →
      (∀ rkey va len, (s.fab.qps.filter fun x => x.qpn == qpn) = [q] → len ≤ 0x40000000 →
        (∀ w, rocWindow s q rkey va len false = some w → (∀ no ∈ blocksIn pageSize va len, (((s.range q.pv).page no).st.inT1 = true ∨
            ((s.range q.pv).page no).st = .unwritten) ∧ ((s.range q.pv).page no).errs = []) →
          ∃ t q', exec (.rdmaRead qpn rkey va len q.recvPsn false) s = .next t ∧
            t.out = s.out ++ [.roce qpn "READ RESPONSE" ((s.range q.pv).read va len)] ∧ t.fab.qps.find? (fun x => x.qpn == qpn) = some q' ∧
            q' = { q with recvPsn := (q.recvPsn + packetsOf q.mtu len) % 0x1000000 }) ∧
        (rocWindow s q rkey va len false = none →
          ∃ t, exec (.rdmaRead qpn rkey va len q.recvPsn false) s = .next t ∧ t.out = s.out ++ [.roce qpn "NAK REMOTE ACCESS" []] ∧
            t.ranges = s.ranges)) ∧
      (∀ rkey va data w u, data.length ≤ 0x40000000 → rocWindow s q rkey va data.length true = some w →
        writeBack q.pv va data { s with fab := { s.fab with
          qps := mapIf (·.qpn == q.qpn) (fun x => { x with recvPsn := (q.recvPsn + packetsOf q.mtu data.length) % 0x1000000 }) s.fab.qps } } =
            (.ready, u) →
        exec (.rdmaWrite qpn rkey va data q.recvPsn false) s =
          .next (chargeLink q.port q.pv 0 { u with out := u.out ++ [.roce qpn "ACK" []] })) ∧
      (∀ rkey va data, data.length ≤ 0x40000000 → rocWindow s q rkey va data.length true = none →
        exec (.rdmaWrite qpn rkey va data q.recvPsn false) s = .next (chargeLink q.port q.pv 0 { s with
          fab := { s.fab with
            qps := mapIf (·.qpn == q.qpn) (fun x => { x with recvPsn := (q.recvPsn + packetsOf q.mtu data.length) % 0x1000000 }) s.fab.qps }
          out := s.out ++ [.roce qpn "NAK REMOTE ACCESS" []] })) ∧
      (∀ rkey va len psn, 0 < (psn + 0x1000000 - q.recvPsn) % 0x1000000 → (psn + 0x1000000 - q.recvPsn) % 0x1000000 < 0x800000 →
        exec (.rdmaRead qpn rkey va len psn false) s =
          .next (chargeLink q.port q.pv 4 { s with out := s.out ++ [.roce qpn "NAK PSN" (leBytes 4 q.recvPsn)] })) ∧
      exec (.roceInvalidRequest qpn true) s =
        .next (chargeLink q.port q.pv 0 { s with out := s.out ++ [.roce qpn "NAK REMOTE ACCESS" []] }) ∧
      exec (.roceInvalidRequest qpn false) s =
        .next (chargeLink q.port q.pv 0 { s with out := s.out ++ [.roce qpn "NAK INVALID REQUEST" []] }) ∧
      ((∀ x ∈ s.fab.qps, x.qpn = qpn → x = q) →
        (q.sinceCut < 2 → exec (.cnp qpn) s = .next { s with fab := { s.fab with
          qps := mapIf (·.qpn == qpn) (fun x => { x with cnpSeen := true }) s.fab.qps } }) ∧
        (2 ≤ q.sinceCut → exec (.cnp qpn) s = .next { s with fab := { s.fab with
          qps := mapIf (·.qpn == qpn) (fun x => { x with
            cnpSeen := true, rate := max (x.rate * (1 - x.alpha / 2)) (1 / 1024), alpha := x.alpha + (1 - x.alpha) / 16, sinceCut := 0 })
            s.fab.qps } })))

open Sys2Proof Sys2Proof.Machine in
/-- Ports and lanes (R324 to R326, R332): lanes that come up or go down, a laser input that goes low and an error ratio that degrades
change their port alone, whose state becomes the one that its lanes give (R326); a port whose state does not change posts nothing; a port
that is not enabled stays down. Pause, key agreement, address resolution and PTP selection (R327 to R329, R347, R349): a pause frame on a
port with PFC sets or clears its priority, which the watchdog no longer honours after 5,000 frames; MKPDUs are answered where a CAK is
installed, and requests for the port's own address; of two ports the PTP port is the one that announces the lower quality value. -/
def Obligations.PortsAndPause : Prop :=
  (∀ (s : State) (port mask input : Nat) (p : Port), s.live = true → port < 20 → s.fab.ports[port]? = some p →
      (s.flushing = false → bit p.eff 0 = true → s.side.ethClk.getD (port / 5) false = true →
        ∃ t q, exec (.linkUp port mask) s = .next t ∧ t.fab.ports[port]? = some q ∧ q.berDeg = false ∧ q.st = q.state ∧
          q.lanes = p.lanes.zipIdx.map (fun x => if maskHas mask x.2 then true else x.1) ∧
          (∀ i, i ≠ port → t.fab.ports[i]? = s.fab.ports[i]?) ∧ t.works = s.works ∧
          (q.st = p.st → t.out = s.out ∧ t.fab.sflows = s.fab.sflows)) ∧
      (s.flushing = true ∨ bit p.eff 0 = false → exec (.linkUp port mask) s = .next s) ∧
      (∃ t q, exec (.linkDown port mask) s = .next t ∧ t.fab.ports[port]? = some q ∧ q.st = q.state ∧
        q.lanes = p.lanes.zipIdx.map (fun x => if maskHas mask x.2 then false else x.1) ∧
        (∀ i, i ≠ port → t.fab.ports[i]? = s.fab.ports[i]?) ∧ (q.st = p.st → t.out = s.out)) ∧
      (s.flushing = false → input < 2 →
        ∃ t q, exec (.laserInputLow port input) s = .next t ∧ t.fab.ports[port]? = some q ∧ q.st = q.state ∧
          q.laser = modifyAt p.laser input (fun _ => false) ∧
          q.lanes = p.lanes.zipIdx.map (fun x => if maskHas (3 * 4 ^ input) x.2 then false else x.1) ∧ (q.st = p.st → t.out = s.out)) ∧
      (2 ≤ input → exec (.laserInputLow port input) s = .next s) ∧
      (p.carries = true → ∃ t q, exec (.portBerDegraded port) s = .next t ∧ t.fab.ports[port]? = some q ∧ q.berDeg = true ∧ q.st = q.state ∧
        q.lanes = p.lanes ∧ (q.st = p.st → t.out = s.out)) ∧
      (p.carries = false → exec (.portBerDegraded port) s = .next s)) ∧
  (∀ (s : State) (port prio : Nat) (p : Port), s.live = true → s.fab.ports[port]? = some p →
      (p.carries = true → bit p.eff 2 = true →
        exec (.pfcFrame port prio true) s = .next { s with fab := { s.fab with
          ports := modifyAt s.fab.ports port fun p => { p with pause := modifyAt p.pause prio fun x => (true, x.2.1, x.2.2) } } } ∧
        exec (.pfcFrame port prio false) s = .next { s with fab := { s.fab with
          ports := modifyAt s.fab.ports port fun p => { p with pause := modifyAt p.pause prio fun x => (false, 0, x.2.2) } } }) ∧
      (∀ on, p.carries = false ∨ bit p.eff 2 = false → exec (.pfcFrame port prio on) s = .next s) ∧
      (∀ n, p.pause[prio]? = some (true, n, none) →
        (5000 ≤ n → ∃ t q, exec (.pfcWatchdog port prio) s = .next t ∧ t.fab.pfcWdog = true ∧ t.fab.ports[port]? = some q ∧
          q.wdogDeg = true ∧ q.pause = modifyAt p.pause prio (fun _ => (true, n, some 0)) ∧ (p.st = 1 → q.st = q.state)) ∧
        (n < 5000 → exec (.pfcWatchdog port prio) s = .next s)) ∧
      (∀ n, p.pause[prio]? = some (false, n, none) → exec (.pfcWatchdog port prio) s = .next s) ∧
      (∀ sub body, (p.carries = true → (∃ c ∈ s.lodge.caks, c.port = port ∧ c.sub = sub) →
          exec (.mkpdu port sub body) s = .next { s with
            out := s.out ++ [.port port "MKPDU" (Config.macIcv (2 * port + sub) body)] }) ∧
        (p.carries = false ∨ (∀ c ∈ s.lodge.caks, ¬ (c.port = port ∧ c.sub = sub)) → exec (.mkpdu port sub body) s = .next s)) ∧
      (∀ addr, (p.carries = true → s.ownAddr port = some addr →
          exec (.arpNd port addr) s = .next { s with out := s.out ++ [.port port "ARP" addr] }) ∧
        (s.ownAddr port ≠ some addr → exec (.arpNd port addr) s = .next s)) ∧
      (∀ quality, p.carries = true → bit p.eff 5 = true →
        (s.fab.announce = [] → exec (.announce port quality) s = .next { s with fab := { s.fab with
          announce := [(port, quality)], ports := s.fab.ports.zipIdx.map fun x => { x.1 with ptpSel := decide (x.2 = port) } } }) ∧
        (∀ other v o, s.fab.announce = [(other, v)] → other ≠ port → s.fab.ports[other]? = some o → o.carries = true → bit o.eff 5 = true →
          exec (.announce port quality) s = .next { s with fab := { s.fab with
            announce := [(other, v), (port, quality)]
            ports := s.fab.ports.zipIdx.map fun x => { x.1 with ptpSel := decide (x.2 = if quality < v then port else other) } } })) ∧
      (∀ quality, p.carries = false ∨ bit p.eff 5 = false → exec (.announce port quality) s = .next s))

open Sys2Proof Sys2Proof.Machine in
/-- Received packets (R331, R334, R339 to R341): a packet that fails a check is dropped and marked; on a port without PFC one whose class
has no room in the link pool is dropped and marked; an acknowledgement is given to its flow; the next packet of a flow, the first of a
message of several, is taken without an answer, an old one is acknowledged again, and a gap is reported once, when the port can send;
RoCEv2 packets are left to the rules of queue pairs (R351). Acknowledgements, timeouts and fabric registers (R334, R345, R352, R353): an
acknowledgement without a CE echo takes its packets off the flow, one repeated has the rest sent again; a flow that waits too long is sent
again, and closed after JFP_CFG.RETRY_MAX times; a refused write changes only CFG_REJECT, and a write of a locked NODE_ID changes nothing.
-/
def Obligations.PacketsAndFlows : Prop :=
  (∀ (s : State) (port : Nat) (x : RxPkt), s.live = true → s.flushing = false → (s.fab.ports.getD port Port.reset).carries = true →
      (rxOuterOk s port x = false ∨ (x.udpPort ≠ 4791 ∧ (x.udpPort ≠ fld s.fab.jfpEff 15 0 ∨ rxInnerOk s x.data = false)) →
        exec (.jfpPacketReceive port x) s = .next { s with fab := { s.fab with rxDrop := true } }) ∧
      (rxOuterOk s port x = true → x.udpPort = 4791 → exec (.jfpPacketReceive port x) s = .next s) ∧
      (rxOuterOk s port x = true → x.udpPort = fld s.fab.jfpEff 15 0 → x.udpPort ≠ 4791 → rxInnerOk s x.data = true →
        bit (s.fab.ports.getD port Port.reset).eff 2 = false →
        (field x.data 1 1 ≠ jAck → s.underCap port (field x.data 9 1 % 8) (field x.data 10 2) = false →
          exec (.jfpPacketReceive port x) s = .next { s with fab := { s.fab with poolDrop := true } }) ∧
        (s.linkFits port 0 (field x.data 10 2) = true → field x.data 1 1 = jAck → (field x.data 2 2).testBit 2 = true → exec (.jfpPacketReceive port x) s =
          .next (takeAck (field x.data 4 2) (field x.data 9 1 % 8) (field x.data 9 1 / 8) (field x.data 16 4) ((field x.data 2 2).testBit 3) s)) ∧
        (∀ f, s.linkFits port (field x.data 9 1 % 8) (field x.data 10 2) = true → field x.data 1 1 ≠ jAck → (field x.data 2 2).testBit 2 = false → x.ce = false → s.fab.rflows = [f] →
          f.src = field x.data 4 2 → f.cls = field x.data 9 1 % 8 → f.idx = field x.data 9 1 / 8 →
          (field x.data 12 4 = f.expect → (field x.data 2 2).testBit 0 = true → (field x.data 2 2).testBit 1 = false → f.owed < 15 →
            ∃ t r, exec (.jfpPacketReceive port x) s = .next t ∧
              t.fab.rflows = [{ f with expect := (f.expect + 1) % 2 ^ 32, nakSent := false, owed := f.owed + 1 }] ∧
              r ∈ t.fab.rmsgs ∧ r.got = slice x.data 48 (field x.data 10 2) ∧ r.src = f.src ∧ r.len = field x.data 28 4 ∧
              r.op = field x.data 1 1 ∧ t.out = s.out) ∧
          (2 ^ 31 ≤ (field x.data 12 4 + 2 ^ 32 - f.expect) % 2 ^ 32 →
            exec (.jfpPacketReceive port x) s = .next (sendAck f.src f.cls f.idx s)) ∧
          (0 < (field x.data 12 4 + 2 ^ 32 - f.expect) % 2 ^ 32 → (field x.data 12 4 + 2 ^ 32 - f.expect) % 2 ^ 32 < 2 ^ 31 →
            (f.nakSent = true → exec (.jfpPacketReceive port x) s = .next s) ∧
            (f.nakSent = false → s.canAck f.idx = false → exec (.jfpPacketReceive port x) s = .next s) ∧
            (f.nakSent = false → s.canAck f.idx = true → exec (.jfpPacketReceive port x) s =
              .next (sendAck f.src f.cls f.idx { s with fab := { s.fab with rflows := [{ f with nakSent := true }] } })))))) ∧
  (∀ (s : State) (dst cls idx : Nat),
      (∀ f ack, s.hears dst = true → s.fab.sflows.find? (SFlow.is dst cls idx) = some f →
        (0 < (ack + 2 ^ 32 - f.acked) % 2 ^ 32 → (ack + 2 ^ 32 - f.acked) % 2 ^ 32 ≤ f.unacked.length →
          exec (.ackonly dst cls idx ack false) s = .next { s with fab := { s.fab with
            sflows := mapIf (SFlow.is dst cls idx) (fun g => { g with
              acked := ack, unacked := g.unacked.drop ((ack + 2 ^ 32 - f.acked) % 2 ^ 32), lastAck := some ack, idle := 0, timeouts := 0 })
              s.fab.sflows } }) ∧
        ((ack + 2 ^ 32 - f.acked) % 2 ^ 32 = 0 → f.lastAck = some ack → f.unacked ≠ [] →
          exec (.ackonly dst cls idx ack false) s = .next (retransmit dst cls idx s)) ∧
        (f.unacked.length < (ack + 2 ^ 32 - f.acked) % 2 ^ 32 → exec (.ackonly dst cls idx ack false) s = .next s)) ∧
      (∀ ack ce, s.hears dst = false → exec (.ackonly dst cls idx ack ce) s = .next s) ∧
      (∀ f, s.live = true → s.fab.sflows.find? (SFlow.is dst cls idx) = some f →
        (f.unacked ≠ [] → fld s.fab.jfpEff 27 20 ≤ f.idle → f.timeouts + 1 < fld s.fab.jfpEff 31 28 →
          exec (.jfpRto dst cls idx) s = .next (retransmit dst cls idx { s with fab := { s.fab with
            sflows := mapIf (SFlow.is dst cls idx) (fun f => { f with idle := 0, timeouts := f.timeouts + 1 }) s.fab.sflows } })) ∧
        (cls = 0 ∨ cls = 4 → s.upPorts ≠ [] → f.unacked ≠ [] → fld s.fab.jfpEff 27 20 ≤ f.idle → fld s.fab.jfpEff 31 28 ≤ f.timeouts + 1 →
          exec (.jfpRto dst cls idx) s = .next { s with fab := { s.fab with
            flowClosed := true
            sflows := mapIf (SFlow.is dst cls idx) (fun g => { g with
              next := g.acked, unacked := [], idle := 0, timeouts := 0, lastAck := none, port := portFrom s ((f.port + 1) % 20) })
              s.fab.sflows } }) ∧
        (f.unacked = [] ∨ f.idle < fld s.fab.jfpEff 27 20 → exec (.jfpRto dst cls idx) s = .next s)) ∧
      (∀ v, s.bar0Up0 = true →
        (s.fab.nodeLock = false → exec (.fabricRegWrite 0x800 v) s = .next { s with fab := { s.fab with nodeId := v &&& 0xFFFF#32 } }) ∧
        (s.fab.nodeLock = true → exec (.fabricRegWrite 0x800 v) s = .next s) ∧
        (1024 ≤ fld v 15 0 → fld v 15 0 ≠ 4791 → 2 ≤ fld v 27 20 → 1 ≤ fld v 31 28 → fld v 15 0 ≤ 65535 →
          exec (.fabricRegWrite 0x804 v) s = .next { s with fab := { s.fab with jfpCfg := v &&& 0xFFF7_FFFF#32 } }) ∧
        (fld v 15 0 < 1024 ∨ fld v 15 0 = 4791 ∨ fld v 27 20 < 2 ∨ fld v 31 28 = 0 →
          exec (.fabricRegWrite 0x804 v) s = .next { s with fab := { s.fab with cfgReject := true } }) ∧
        (fld v 7 0 ≤ 127 → fld v 9 8 ≠ 3 → exec (.fabricRegWrite 0x80C v) s = .next { s with fab := { s.fab with ptpCfg := v &&& 0x3FF#32 } }) ∧
        (127 < fld v 7 0 ∨ fld v 9 8 = 3 → exec (.fabricRegWrite 0x80C v) s = .next { s with fab := { s.fab with cfgReject := true } }) ∧
        (∀ i, i < 20 → (portCfgBad s i v = false → exec (.fabricRegWrite (0x840 + 4 * i) v) s = .next { s with fab := { s.fab with
            ports := modifyAt s.fab.ports i fun p => { p with cfg := portWord v } } }) ∧
          (portCfgBad s i v = true →
            exec (.fabricRegWrite (0x840 + 4 * i) v) s = .next { s with fab := { s.fab with cfgReject := true } }))))

open Sys2Proof Sys2Proof.Machine in
/-- The keepers' log (R360 to R362): entries of the leading keeper of the term replace what differs and are acknowledged, those of an
older term are ignored, and a newer term is adopted; acknowledgements of a majority by A - 10 commit an entry, which is queued under the
next map epoch; a HEARTBEAT shows a quorum; ENTRIES queue what the map has not reached, and mark what is committed of the log; FETCH is
answered with the committed entries. Elections (R360, R361): at most one vote per term, for a candidate whose log is not older; a keeper
that hears no HEARTBEAT for its drawn limit of 25 to 50 frames stands in the next term; a candidate with a majority leads and offers its
entries again; entries not committed by A - 10 are abandoned, and proposals without a result given up; 100 frames without HEARTBEAT set
NO_QUORUM. -/
def Obligations.KeeperLogAndElections : Prop :=
  (∀ (s : State) (src : Nat),
      let k := s.comp.keeper
      (∀ term prevIdx prevTerm ents, s.hears src = true → src ∈ s.comp.map.keepers →
        (term < k.term → exec (.append src term prevIdx prevTerm ents) s = .next s) ∧
        (term = k.term → k.holds prevIdx prevTerm = false →
          exec (.append src term prevIdx prevTerm ents) s = .next (sendMap src (.appendAck term (min k.lastIdx (prevIdx - 1)))
            { s with comp := { s.comp with keeper := { k with role := 1, leader := some src, hbAge := 0 } } })) ∧
        (∀ e, term = k.term → k.holds prevIdx prevTerm = true → ents = [e] → (∀ x ∈ k.log, ¬ (x.e.idx = e.idx ∧ x.e.term = e.term)) →
          exec (.append src term prevIdx prevTerm ents) s = .next (sendMap src (.appendAck term e.idx)
            { s with comp := { s.comp with
              keeper := { k with role := 1, leader := some src, hbAge := 0
                                 log := k.log.filter (fun x => decide (x.e.idx < e.idx)) ++ [⟨e, [], false, false⟩] } } })) ∧
        (k.term < term → ∃ t, exec (.append src term prevIdx prevTerm ents) s = .next t ∧ t.comp.keeper.term = term ∧
          t.comp.keeper.role = 1 ∧ t.comp.keeper.voted = none ∧ t.comp.keeper.leader = some src ∧ t.comp.map = s.comp.map)) ∧
      (∀ term prevIdx prevTerm ents, src ∉ s.comp.map.keepers → exec (.append src term prevIdx prevTerm ents) s = .next s) ∧
      (∀ idx, s.keeps src = true → k.role = 2 →
        ((∀ x ∈ k.log, x.e.idx ≤ idx) → exec (.appendAck src k.term idx) s = .next (tryCommit
          { s with comp := { s.comp with
            keeper := { k with log := k.log.map fun x => { x with acks := dedupKeep (x.acks ++ [src]) } } } })) ∧
        (∀ x, k.log = [x] → x.committed = false → x.abandoned = false → x.e.term = k.term → x.e.idx ≤ idx → s.comp.pend = [] →
          s.hfn + 10 ≤ x.e.act → s.majority ≤ (dedupKeep (x.acks ++ [src])).length →
          ∃ t y, exec (.appendAck src k.term idx) s = .next t ∧ t.comp.keeper.log = [y] ∧ y.committed = true ∧ y.e = x.e ∧
            t.comp.pend = [(s.comp.map.epoch + 1, x.e.ent, x.e.act)])) ∧
      (∀ term idx, k.role ≠ 2 → term ≤ k.term → exec (.appendAck src term idx) s = .next s) ∧
      (∀ term commit, s.hears src = true →
        (s.isKeeper = false ∨ term < k.term → exec (.heartbeat src term commit) s = .next { s with
          comp := { s.comp with hbAge := 0, noQuorum := false } }) ∧
        (s.isKeeper = true → term = k.term → exec (.heartbeat src term commit) s = .next { s with
          comp := { s.comp with
            hbAge := 0, noQuorum := false
            keeper := { k with role := 1, leader := some src, hbAge := 0, commit := max k.commit (min commit k.lastIdx) } } })) ∧
      (∀ first e a, s.hears src = true → s.comp.pend = [] →
        (s.comp.map.epoch < first → exec (.entries src first [(e, a)]) s = .next { s with
          comp := { s.comp with pend := [(first, e, a)], keeper := k.learn [(e, a)] } }) ∧
        (first ≤ s.comp.map.epoch → exec (.entries src first [(e, a)]) s = .next { s with
          comp := { s.comp with keeper := k.learn [(e, a)] } })) ∧
      (∀ first, (s.keeps src = true → exec (.fetch src first) s =
          .next (sendMap src (.entries first ((s.comp.applied ++ s.comp.pend.map (·.2)).drop (first - 1))) s)) ∧
        (s.keeps src = false → exec (.fetch src first) s = .next s))) ∧
  (∀ (s : State) (src : Nat),
      let k := s.comp.keeper
      (∀ term li lt, s.keeps src = true →
        (term = k.term → (k.voted = none ∨ k.voted = some src) → k.upToDate li lt = true →
          exec (.voteReq src term li lt) s = .next (sendMap src (.vote term true)
            { s with comp := { s.comp with keeper := { k with voted := some src, hbAge := 0 } } })) ∧
        (term = k.term → (∃ n, k.voted = some n ∧ n ≠ src) ∨ k.upToDate li lt = false →
          exec (.voteReq src term li lt) s = .next (sendMap src (.vote term false) s)) ∧
        (term < k.term → exec (.voteReq src term li lt) s = .next (sendMap src (.vote k.term false) s)) ∧
        (k.term < term → k.upToDate li lt = true → exec (.voteReq src term li lt) s = .next (sendMap src (.vote term true)
          { s with comp := { s.comp with
            keeper := { k with term := term, voted := some src, role := 1, leader := none, votes := [], hbAge := 0 } } }))) ∧
      (s.keeps src = true → k.role = 3 →
        ((dedupKeep (k.votes ++ [src])).length < s.majority → exec (.vote src k.term true) s = .next { s with
          comp := { s.comp with keeper := { k with votes := dedupKeep (k.votes ++ [src]) } } }) ∧
        (s.majority ≤ (dedupKeep (k.votes ++ [src])).length → exec (.vote src k.term true) s =
          .next (sendAll s.otherKeepers (.append k.term 0 0 (k.log.map (·.e))) { s with comp := { s.comp with
            keeper := { k with
              role := 2, leader := some s.node, hbAge := 0, votes := dedupKeep (k.votes ++ [src])
              log := k.log.map fun x => if x.committed then x else { x with acks := [s.node] } } } })) ∧
        exec (.vote src k.term false) s = .next s) ∧
      (s.live = true → s.isKeeper = true → k.role ≠ 2 → k.limit ≤ k.hbAge →
        ∃ t, exec .electionTimeout s = .next t ∧ t.comp.keeper.term = k.term + 1 ∧ t.comp.keeper.voted = some s.node ∧
          t.comp.keeper.votes = [s.node] ∧ t.comp.keeper.hbAge = 0 ∧ 25 ≤ t.comp.keeper.limit ∧ t.comp.keeper.limit ≤ 50 ∧
          (1 < s.majority → t.comp.keeper.role = 3 ∧ t.comp.keeper.leader = none ∧ t.comp.keeper.log = k.log) ∧
          (s.majority = 1 → t.comp.keeper.role = 2 ∧ t.comp.keeper.leader = some s.node)) ∧
      (s.isKeeper = false ∨ k.role = 2 ∨ k.hbAge < k.limit → exec .electionTimeout s = .next s) ∧
      (s.live = true → 100 ≤ s.comp.hbAge → exec .noQuorum s = .next { s with comp := { s.comp with noQuorum := true } }) ∧
      (s.comp.hbAge < 100 → exec .noQuorum s = .next s) ∧
      (∀ x, s.live = true → k.role = 2 → k.log = [x] → x.committed = false → x.abandoned = false → x.e.act ≤ s.hfn + 10 →
        x.e.src ≠ s.node → s.comp.props = [] →
        exec .entryAbandon s = .next (sendMap x.e.src (.proposeResult x.e.prop 2 0) { s with
          comp := { s.comp with keeper := { k with log := [{ x with abandoned := true }] } } })) ∧
      (∀ p n r, s.live = true → k.role ≠ 2 → s.comp.props = [p] → p.ent = .role n r → p.work = none → p.chan = none →
        p.made + fld s.comp.mapEff 15 8 ≤ s.hfn → exec .entryAbandon s = .next { s with comp := { s.comp with props := [] } }) ∧
      ((k.role = 2 → ∀ x ∈ k.log, x.committed = true ∨ x.abandoned = true ∨ s.hfn + 10 < x.e.act) →
        (∀ p ∈ s.comp.props, s.hfn < p.made + fld s.comp.mapEff 15 8) → exec .entryAbandon s = .next s))

open Sys2Proof Sys2Proof.Machine in
/-- Proposals, cutovers, roles and map registers (R191, R355, R360, R362, R377 to R380): the leading keeper refuses or logs a proposal and
tells its proposer; a cutover is logged once every node answered READY, and refused when one did not; a short pool gets one node of the
pool with the largest surplus; MAP_CFG, MOVE_CFG and ROLE_POLICY take values in range. -/
def Obligations.ProposalsAndRoles : Prop :=
  ∀ (s : State) (src : Nat),
    let k := s.comp.keeper
    (∀ id n r, s.keeps src = true → k.role = 2 →
      (src ≠ s.node → s.refuses (.role n r) = true →
        exec (.propose src id (.role n r)) s = .next (sendMap src (.proposeResult id 1 0) s)) ∧
      (s.refuses (.role n r) = false → k.log = [] → 1 < s.majority →
        ∃ t, exec (.propose src id (.role n r)) s = .next t ∧ t.comp.map = s.comp.map ∧ t.comp.pend = s.comp.pend ∧
          t.comp.keeper = { k with log := [⟨⟨1, k.term, .role n r, s.hfn + fld s.comp.mapEff 15 8, src, id⟩, [s.node], false, false⟩] })) ∧
    (∀ id e, k.role ≠ 2 → exec (.propose src id e) s = .next s) ∧
    (∀ p res ep, s.hears src = true → s.comp.props = [p] →
      (∀ w q e c d, p.ent = .cutover q e c d → p.work = some w → p.chan = none →
        exec (.proposeResult src p.id 0 ep) s = .next (completeId w .ok 0 (spec3 0 e ep) { s with comp := { s.comp with props := [] } }) ∧
        exec (.proposeResult src p.id 1 ep) s = .next (completeId w .badField 0 (spec3 0 e 0) { s with comp := { s.comp with props := [] } })) ∧
      (∀ v, p.ent = .policy v → p.work = none → p.chan = none → res ≠ 0 →
        exec (.proposeResult src p.id res ep) s = .next { s with comp := { s.comp with props := [], cfgReject := true } }) ∧
      (∀ id, id ≠ p.id → exec (.proposeResult src id res ep) s = .next s)) ∧
    (∀ (p : Pv) ep dg, (s.hears src = true →
        exec (.cutQuery src p ep dg) s = .next (sendMap src (.cutReady p.val ep (s.cutOk p.val ep dg)) s)) ∧
      (s.hears src = false → exec (.cutQuery src p ep dg) s = .next s)) ∧
    (∀ (p : Pv) w, k.cutWait = [w] → w.pv = p.val →
      (s.hears src = true → w.src ≠ s.node →
        exec (.cutReady src p w.epoch false) s = .next (sendMap w.src (.proposeResult w.prop 1 0) { s with
          comp := { s.comp with keeper := { k with cutWait := [] } } }) ∧
        ((w.await_.filter (· != src)) ≠ [] → exec (.cutReady src p w.epoch true) s = .next { s with
          comp := { s.comp with keeper := { k with cutWait := [{ w with await_ := w.await_.filter (· != src) }] } } }) ∧
        ((w.await_.filter (· != src)) = [] → s.hfn < w.c - 250 → exec (.cutReady src p w.epoch true) s =
          .next (leaderLog w.src w.prop (.cutover p.val w.epoch w.c w.digest) { s with
            comp := { s.comp with keeper := { k with cutWait := [] } } }))) ∧
      (s.live = true → w.src ≠ s.node → w.c ≤ s.hfn + 250 →
        exec (.cutoverDeadline p) s = .next (sendMap w.src (.proposeResult w.prop 2 0) { s with
          comp := { s.comp with keeper := { k with cutWait := [] } } })) ∧
      (s.hfn + 250 < w.c → exec (.cutoverDeadline p) s = .next s)) ∧
    (∀ (p : Pv) ep r, k.cutWait = [] → exec (.cutReady src p ep r) s = .next s ∧ exec (.cutoverDeadline p) s = .next s) ∧
    (∀ x, s.live = true → k.role = 2 → bit s.comp.map.policy 7 = true → s.hfn % 50000 = 0 → s.clk.slot = none →
      0 < s.comp.map.surplus 1 → s.comp.map.surplus 2 = 0 →
      (s.comp.map.pool 1).filter (fun x => decide (x.roleAt + fld s.comp.map.policy 30 24 * 50000 ≤ s.hfn)) = [x] →
      exec (.roleCheck [true, false, false]) s = .next (keeperLog (.role x.node 0) s)) ∧
    (∀ short, k.role ≠ 2 ∨ bit s.comp.map.policy 7 = false ∨ s.hfn % 50000 ≠ 0 ∨ short = [false, false, false] →
      exec (.roleCheck short) s = .next s) ∧
    (∀ v, s.bar0Up0 = true →
      (50 ≤ fld v 15 8 → fld v 15 8 ≤ 200 → 1 ≤ fld v 23 16 → 1 ≤ fld v 31 24 → s.isKeeper = false ∨ bit v 0 = true →
        exec (.mapCfgWrite 0x900 v) s = .next { s with comp := { s.comp with mapCfg := v &&& 0xFFFF_FF01#32 } }) ∧
      (fld v 15 8 < 50 ∨ 200 < fld v 15 8 ∨ fld v 23 16 = 0 ∨ fld v 31 24 = 0 ∨ (s.isKeeper = true ∧ bit v 0 = false) →
        exec (.mapCfgWrite 0x900 v) s = .next { s with comp := { s.comp with cfgReject := true } }) ∧
      (1 ≤ fld v 7 0 → 1 ≤ fld v 15 8 → fld v 15 8 ≤ 64 →
        exec (.mapCfgWrite 0x914 v) s = .next { s with comp := { s.comp with moveCfg := v &&& 0xFFFF#32 } }) ∧
      (fld v 7 0 = 0 ∨ fld v 15 8 = 0 ∨ 64 < fld v 15 8 →
        exec (.mapCfgWrite 0x914 v) s = .next { s with comp := { s.comp with cfgReject := true } }) ∧
      (let w := v &&& 0x7F7F_7FFF#32
       (fld w 6 0 + fld w 14 8 + fld w 22 16 ≤ 100 → fld w 30 24 ≠ 0 →
         exec (.rolePolicyWrite v) s = .next (propose (.policy w) none none s)) ∧
       (100 < fld w 6 0 + fld w 14 8 + fld w 22 16 ∨ fld w 30 24 = 0 →
         exec (.rolePolicyWrite v) s = .next { s with comp := { s.comp with cfgReject := true } })))

open Sys2Proof Sys2Proof.Machine in
/-- The Lodge's commands that read or report (R409, R410, R412, R418, R420): each reads its block from memory, writes its result into it,
then `OUT`, and acknowledges OK; a block that cannot be read is BAD_BLOCK, as one too short for IDENTITY; a reserved bit of the word is
BAD_ARG; in BLANK and DECOMMISSIONED every command but LC_NONCE and LC_ADVANCE is DENIED. The services the Lodge gives the Grounds (R389,
R400, R422): a key is installed for a pavilion that is composed, and again only in the life-cycle state it is wrapped in; a SAK only for
an interface that has a CAK; a refused access is counted and marked. -/
def Obligations.LodgeReportsAndServices : Prop :=
  (∀ (s : State) (b : List Byte) (n : Nat),
      let u := s.blockRead 0 b.length
      (s.lodgeTakes 0x01 → blockLen 5248 (some b) = some n → zeroAt b 80 48 = true →
        exec (.attest (some b)) s = .next (chanAck 0 rcOk (blockOut 0 (s.blkAddr 0) 0
          (hostWrite 0 (s.blkAddr 0 + 128) (report (slice b 16 64) s) u)))) ∧
      (s.lodgeTakes 0x02 → blockLen 64 (some b) = some n → 2688 + s.lodge.fuses.idChain.length ≤ n →
        exec (.identity (some b)) s = .next (chanAck 0 rcOk (blockOut 0 (s.blkAddr 0) s.lodge.fuses.idChain.length
          (hostWrite 0 (s.blkAddr 0 + 2688) s.lodge.fuses.idChain
            (hostWrite 0 (s.blkAddr 0 + 64) (padTo 2592 s.lodge.fuses.idKey) u))))) ∧
      (s.lodgeTakes 0x02 → blockLen 64 (some b) = some n → n < 2688 + s.lodge.fuses.idChain.length →
        exec (.identity (some b)) s = .next (chanAck 0 rcBadBlock u)) ∧
      (s.lodgeTakes 0x03 → blockLen 64 (some b) = some n →
        exec (.logRead (some b)) s = .next (chanAck 0 rcOk (blockOut 0 (s.blkAddr 0) s.lodge.logN
          (hostWrite 0 (s.blkAddr 0 + 64) ((s.lodge.log.drop (field b 16 4)).take ((n - 64) / 128)).flatten u)))) ∧
      (s.lodgeUp = true → s.waits 0 0x06 = true → s.wordBad 0 = false → blockLen 64 (some b) = some n →
        exec (.lcNonce (some b)) s = .next (chanAck 0 rcOk (blockOut 0 (s.blkAddr 0) 0
          (hostWrite 0 (s.blkAddr 0 + 16) (padTo 32 (Config.random s.lodge.nonceN)) { u with
            lodge := { s.lodge with nonce := some (padTo 32 (Config.random s.lodge.nonceN)), nonceN := s.lodge.nonceN + 1 } })))) ∧
      (∀ x ∈ [(0x01, Instr.attest none), (0x02, .identity none), (0x03, .logRead none), (0x04, .imageStage none none false),
          (0x07, .lcAdvance none false), (0x09, .cakSet none)],
        s.lodgeTakes x.1 → exec x.2 s = .next (chanAck 0 rcBadBlock (s.blockRead 0 64))) ∧
      (∀ x ∈ [(0x01, Instr.attest (some b)), (0x02, .identity (some b)), (0x03, .logRead (some b)), (0x04, .imageStage (some b) none false),
          (0x05, .rollbackCommit), (0x08, .pvErase), (0x09, .cakSet (some b))], s.lodgeUp = true → s.waits 0 x.1 = true →
        (s.wordBad 0 = true → exec x.2 s = .next (chanAck 0 rcBadArg s)) ∧
        (s.wordBad 0 = false → s.keyless = true → exec x.2 s = .next (chanAck 0 rcDenied s)))) ∧
  (∀ s : State, s.live = true →
      (∀ p : Pv, s.keyless = false → s.lodge.pvKeys.getD p.val none = none → (s.slices p.val).isSome = true →
        exec (.keyInstall p) s = .next { s with lodge := { s.lodge with
          pvKeys := modifyAt s.lodge.pvKeys p.val fun _ => some ⟨s.lodge.lc, true⟩ } }) ∧
      (∀ (p : Pv) (k : PvKey), s.keyless = false → s.lodge.pvKeys.getD p.val none = some k → k.wrappedIn = s.lodge.lc →
        exec (.keyInstall p) s = .next { s with lodge := { s.lodge with
          pvKeys := modifyAt s.lodge.pvKeys p.val fun _ => some ⟨k.wrappedIn, true⟩ } }) ∧
      (∀ (p : Pv) (k : PvKey), s.keyless = false → s.lodge.pvKeys.getD p.val none = some k → k.wrappedIn ≠ s.lodge.lc →
        exec (.keyInstall p) s = .next (emit (.internal "KEY DENIED" p.val) s)) ∧
      (∀ port sub, (∃ c ∈ s.lodge.caks, c.port = port ∧ c.sub = sub) →
        exec (.sakDerive port sub false) s = .next { s with lodge := { s.lodge with saks := dedupKeep (s.lodge.saks ++ [(port, sub)]) } } ∧
        exec (.sakDerive port sub true) s = .next (emit (.internal "ICV" (2 * port + sub)) s)) ∧
      (∀ port sub icv, (∀ c ∈ s.lodge.caks, ¬ (c.port = port ∧ c.sub = sub)) →
        exec (.sakDerive port sub icv) s = .next (emit (.internal "SAK DENIED" (2 * port + sub)) s)) ∧
      exec (.firewallViolation true) s = .next { s with lodge := { s.lodge with
        fwViol := true, fwViolCnt := satTo 0xFFFF (s.lodge.fwViolCnt + 1) } })

open Sys2Proof Sys2Proof.Machine in
/-- The Lodge's commands that change what it holds: a stage reads its image and ends with the copy checked (R407), answered unless its
word was withdrawn (R417); a rollback commit raises the fuse count to the version that runs and never above (R404); a permitted life-cycle
transition is fused and waits for the next reset (R412); a CAK replaces its interface's (R420); an erased pavilion has no key, no unit and
no page in flash left (R389). -/
def Obligations.LodgeChanges : Prop :=
  ∀ (s : State) (b : List Byte) (n : Nat),
    (∀ i, s.lodgeTakes 0x04 → blockLen 64 (some b) = some n → s.lodge.staging = none →
      (zeroAt b 17 7 && zeroAt b 40 24) = true → field b 16 1 ≤ 1 → s.fnUp 0 = true →
      exec (.imageStage (some b) (some i) false) s = .next (modChan 0 (fun x => { x with taken := true })
        { s with lodge := { s.lodge with staging := some (field b 16 1 == 1, i) }
                 out := s.out ++ [.read 0 (s.blkAddr 0) b.length .snooped, .read 0 (field b 24 8) (field b 32 8) .snooped] })) ∧
    (∀ k i img blk, s.lodgeUp = true → s.lodge.staging = some (k, i) → imgSound s.lodge.fuses (if k then 1 else 0) i = false →
      ∃ u, u = { s with lodge := u.lodge } ∧ u.lodge.staging = none ∧ u.lodge.fuses = s.lodge.fuses ∧
        norRec u.lodge.qspi (if k then 1 else 0) = norRec s.lodge.qspi (if k then 1 else 0) ∧
        ((s.chan 0).full = true → (s.chan 0).taken = true →
          exec (.imageStage blk img true) s = .next (chanAck 0 rcVerifyFail u)) ∧
        ((s.chan 0).full = false ∨ (s.chan 0).taken = false → exec (.imageStage blk img true) s = .next u)) ∧
    (∀ k i img blk, s.lodgeUp = true → s.lodge.staging = some (k, i) → imgValid s.lodge.fuses (if k then 1 else 0) i = true →
      ∃ t, exec (.imageStage blk img true) s = .next t ∧ t.lodge.staging = none ∧
        norRec t.lodge.qspi (if k then 1 else 0) = ⟨!(norRec s.lodge.qspi (if k then 1 else 0)).pref, 0⟩ ∧
        norSlot t.lodge.qspi (if k then 1 else 0) (!(norRec s.lodge.qspi (if k then 1 else 0)).pref) = i ∧
        t.lodge.logN = s.lodge.logN + 1) ∧
    (∀ r, s.lodgeTakes 0x05 → wordArg (s.chan 0).word = 0 → s.lodge.lodgeImg = some r → s.lodge.fuses.lodgeCount < r.svn →
      ∃ t, exec .rollbackCommit s = .next t ∧ t.lodge.fuses = { s.lodge.fuses with lodgeCount := r.svn } ∧
        t.lodge.logN = s.lodge.logN + 1 ∧ t.lodge.lodgeSvn = s.lodge.lodgeSvn) ∧
    (∀ r, s.lodgeTakes 0x05 → wordArg (s.chan 0).word = 1 → s.lodge.groundsImg = some r → r.svn ≤ s.lodge.fuses.groundsCount →
      exec .rollbackCommit s = .next (chanAck 0 rcOk s)) ∧
    (∀ sigOk, s.lodgeUp = true → s.waits 0 0x07 = true → s.wordBad 0 = false → blockLen 64 (some b) = some n → zeroAt b 17 15 = true →
      (lcPermitted s.lodge b n (field b 16 1) sigOk = true →
        ∃ t, exec (.lcAdvance (some b) sigOk) s = .next t ∧ t.lodge.fuses.lc = field b 16 1 ∧ t.lodge.lcPending = true ∧
          t.lodge.nonce = none ∧ t.lodge.lc = s.lodge.lc ∧ t.lodge.logN = s.lodge.logN + 1) ∧
      (lcPermitted s.lodge b n (field b 16 1) sigOk = false →
        exec (.lcAdvance (some b) sigOk) s = .next (chanAck 0 rcDenied (s.blockRead 0 b.length)))) ∧
    (s.lodgeTakes 0x09 → blockLen 128 (some b) = some n → zeroAt b 19 13 = true →
      (field b 16 1 ≤ 19 → field b 17 1 ≤ 1 → 1 ≤ field b 18 1 → field b 18 1 ≤ 32 →
        exec (.cakSet (some b)) s = .next (chanAck 0 rcOk (blockOut 0 (s.blkAddr 0) 0 (hostWrite 0 (s.blkAddr 0 + 64) (zeros 32)
          { s.blockRead 0 b.length with lodge := { s.lodge with caks :=
            (s.lodge.caks.filter fun c => !(c.port == field b 16 1 && c.sub == field b 17 1)) ++
              [⟨field b 16 1, field b 17 1, slice b 32 (field b 18 1), slice b 64 32⟩] } })))) ∧
      (19 < field b 16 1 ∨ 1 < field b 17 1 ∨ field b 18 1 = 0 ∨ 32 < field b 18 1 →
        exec (.cakSet (some b)) s = .next (chanAck 0 rcBadArg (s.blockRead 0 b.length)))) ∧
    (∀ p : Pv, s.lodgeTakes 0x08 → wordArg (s.chan 0).word = p.val →
      ((s.fn (fnOf p.val)).enabled = true → exec .pvErase s = .next (chanAck 0 rcRefused s)) ∧
      ((s.fn (fnOf p.val)).enabled = false → p.val < s.ranges.length →
        ∃ t, exec .pvErase s = .next t ∧ t.lodge.pvKeys = modifyAt s.lodge.pvKeys p.val (fun _ => none) ∧
          (∀ e ∈ t.flash.map, ¬ (e.1.space ≤ 2 ∧ e.1.pv = p.val)) ∧ (∀ u ∈ t.flash.pool, ¬ (u.lua.space ≤ 2 ∧ u.lua.pv = p.val)) ∧
          (∀ g ∈ (t.range p.val).pages, g.st ≠ .t3 ∧ g.st ≠ .t1OverT3 ∧ g.durable = false)))

open Sys2Proof Sys2Proof.Machine in
/-- The mailbox channels (R416, R417, R419, R424, R425): a word is posted while the channel is free; a write while it is full is not
performed and sets `OVERRUN`; an undefined command is answered BAD_CMD where the receiver runs; the timer's limit withdraws the word; a
control write in range sets the channel's control, any other `CFG_REJECT`; the host's acknowledgement, or 250,000 frames without one,
makes room for the next message. -/
def Obligations.MailboxChannels : Prop :=
  ∀ (s : State) (c : Fin 14) (v : W32),
    (s.fnUp (chanFn c.val) = true →
      ((s.chan c.val).full = false → exec (.mbxDataLoWrite c v) s = .next (modChan c.val (fun x => { x with lo := v }) s)) ∧
      ((s.chan c.val).full = true →
        exec (.mbxDataLoWrite c v) s = .next (modChan c.val (fun x => { x with overrun := true }) s) ∧
        exec (.mbxPost c v) s = .next (modChan c.val (fun x => { x with overrun := true }) s)) ∧
      (let u := modChan c.val (fun x =>
          { x with hi := v, full := true, ackValid := false, ret := 0, timer := 0, limit := fld x.ctl 15 0 * 100, taken := false }) s
       (s.chan c.val).full = false →
        (s.chanServed c.val = false ∨ wordCmd (u.chan c.val).word ∈ chanCmds c.val → exec (.mbxPost c v) s = .next u) ∧
        (s.chanServed c.val = true → wordCmd (u.chan c.val).word ∉ chanCmds c.val →
          exec (.mbxPost c v) s = .next (chanAck c.val rcBadCmd u))) ∧
      (fld v 15 0 ≠ 0 → fld v 21 16 < (if c.val < 2 then 16 else 64) →
        exec (.mbxCtlWrite c.castSucc v) s = .next (modChan c.val (fun x => { x with ctl := v &&& 0x007F_FFFF#32 }) s)) ∧
      (fld v 15 0 = 0 ∨ (if c.val < 2 then 16 else 64) ≤ fld v 21 16 →
        exec (.mbxCtlWrite c.castSucc v) s = .next (modChan c.val (fun x => { x with cfgReject := true }) s))) ∧
    (s.fnUp 0 = true → fld v 21 16 < 16 →
      exec (.mbxCtlWrite 14 v) s = .next { s with rx := { s.rx with ctl := v &&& 0x007F_0000#32 } }) ∧
    (s.fnUp 0 = true → s.rx.full = true → s.rx.waiting = [] → exec (.mbxAck v) s = .next { s with rx := { s.rx with full := false } }) ∧
    ((s.chan c.val).full = true → (s.chan c.val).limit ≤ (s.chan c.val).timer →
      ∃ t, exec (.mbxTimeout c) s = .next t ∧ t = { s with chans := t.chans, comp := t.comp } ∧
        t.chans = modifyAt s.chans c.val (fun x => { x with full := false, timedOut := true, taken := false })) ∧
    (s.rx.full = true → 250000 ≤ s.rx.timer → s.rx.waiting = [] →
      exec .lodgeMsgTimeout s = .next { s with rx := { s.rx with full := false }, lodge := { s.lodge with mbxLost := true } })

open Sys2Proof Sys2Proof.Machine in
/-- Shadow checks (parts of R430, R432, R434, R436, R439): a shadow execution that agrees with its primary counts a check for each of the
two runs; one that disagrees waits for an arbitration, or, where none can be made, counts a mismatch for each run; an arbitration counts a
check for each of three runs and a mismatch for each that disagrees with both others, and sets PRIMARY_WRONG if it sides with the shadow;
neither runs for a check whose wait has run out or on a die that has run a part of it. A shadow whose wait runs out is dropped with
SHADOW_DROP. SUSPECT_HALVING halves every count at a frame boundary of a multiple of 30,000,000. -/
def Obligations.ShadowChecks : Prop :=
  ∀ (s : State) (id die phys e : Nat),
    (∀ x, s.integ.shadows.find? (·.id == id) = some x →
      (∀ prim shad bounds pos, x.runs = [] → s.runsCheck x die phys e →
        let a : Run := ⟨x.prim, x.band, prim⟩
        let b : Run := ⟨⟨die, !x.scan, phys⟩, (useUnit x die e s).bandNow die, shad⟩
        (runsAgree x.scan bounds prim shad = true → exec (.shadowExecution id die phys prim shad bounds pos) s =
          .next (dropShadow id (settleRuns x pos [(a, false), (b, false)] (useUnit x die e s)))) ∧
        (runsAgree x.scan bounds prim shad = false →
          ((useUnit x die e s).unresolved x x.prim b.u = false →
            exec (.shadowExecution id die phys prim shad bounds pos) s = .next { useUnit x die e s with
              integ := { s.integ with shadows := mapIf (·.id == id) (fun x => { x with runs := [a, b] }) s.integ.shadows } }) ∧
          ((useUnit x die e s).unresolved x x.prim b.u = true → exec (.shadowExecution id die phys prim shad bounds pos) s =
            .next (dropShadow id (settleRuns x pos [(a, true), (b, true)] (useUnit x die e s)))))) ∧
      (∀ prim shad bounds pos, x.runs ≠ [] ∨ s.shadowFresh x = false ∨ die = x.prim.die →
        exec (.shadowExecution id die phys prim shad bounds pos) s = .next s) ∧
      (∀ a b vals bounds pos, x.runs = [a, b] → s.runsCheck x die phys e → s.unresolved x a.u b.u = false →
        let c : Run := ⟨⟨die, !x.scan, phys⟩, (useUnit x die e s).bandNow die, vals⟩
        let u := useUnit x die e s
        (runsAgree x.scan bounds vals a.vals = true → runsAgree x.scan bounds vals b.vals = true →
          exec (.arbitration id die phys vals bounds pos) s =
            .next (dropShadow id (settleRuns x pos [(a, false), (b, false), (c, false)] u))) ∧
        (runsAgree x.scan bounds vals a.vals = false → runsAgree x.scan bounds vals b.vals = true →
          exec (.arbitration id die phys vals bounds pos) s = .next (dropShadow id (settleRuns x pos [(a, true), (b, false), (c, false)]
            { u with integ := { u.integ with primaryWrong := true } }))) ∧
        (runsAgree x.scan bounds vals a.vals = true → runsAgree x.scan bounds vals b.vals = false →
          exec (.arbitration id die phys vals bounds pos) s =
            .next (dropShadow id (settleRuns x pos [(a, false), (b, true), (c, false)] u))) ∧
        (runsAgree x.scan bounds vals a.vals = false → runsAgree x.scan bounds vals b.vals = false →
          exec (.arbitration id die phys vals bounds pos) s =
            .next (dropShadow id (settleRuns x pos [(a, true), (b, true), (c, true)] u)))) ∧
      (∀ a b vals bounds pos, x.runs = [a, b] → s.live = true → s.shadowFresh x = true → s.unresolved x a.u b.u = true →
        exec (.arbitration id die phys vals bounds pos) s = .next (dropShadow id (settleRuns x pos [(a, true), (b, true)] s))) ∧
      (∀ vals bounds pos, x.runs = [] ∨ s.shadowFresh x = false ∨ (die = x.prim.die ∧ ∀ a b, x.runs = [a, b] → s.unresolved x a.u b.u = false) → exec (.arbitration id die phys vals bounds pos) s = .next s) ∧
      (s.live = true → s.shadowFresh x = false → exec (.shadowWaitExpiry id) s = .next { dropShadow id s with
        integ := { (dropShadow id s).integ with shadowDrop := true } }) ∧
      (s.shadowFresh x = true → exec (.shadowWaitExpiry id) s = .next s)) ∧
    (s.integ.shadows = [] → exec (.shadowWaitExpiry id) s = .next s) ∧
    (s.live = true → s.clk.slot = none → s.hfn % 30000000 = 0 → exec .suspectHalving s = .next { s with integ := { s.integ with
      counts := s.integ.counts.map fun c => { c with checks := c.checks / 2, mism := c.mism / 2, posted := false } } }) ∧
    (s.clk.slot ≠ none ∨ s.hfn % 30000000 ≠ 0 → exec .suspectHalving s = .next s)

open Sys2Proof Sys2Proof.Machine in
/-- Scrub, repair and stragglers (parts of R444 to R447). SKETCH_SCRUB of a tile with no bad record: a tile that its records rebuild
unchanged stays; one that two arrays rebuild alike is replaced; where the arrays disagree the row stays, and each array is charged a
mismatch. TILE_REPAIR of a tile named for repair rebuilds it and takes its entry off the list, and writes none that has been released; of
a tile not named it does nothing. In a window of 1,000 frames a unit with 1,000 slots that is below the median of at least 8 peers by
STRAG_PCT asks for a swap with cause 0, if AUTO_STRAGGLER is set. -/
def Obligations.ScrubAndStragglers : Prop :=
  ∀ (s : State) (p : Pv) (ep num : Nat),
    (∀ x b t, (s.corpus p.val).store? ep = some x → (s.corpus p.val).bundle? ep = some b → x.tile? num = some t → s.live = true →
      (∀ y ∈ t.slots, ∀ r, y.ent = some r → y.deleted = false → recSketch p.val b r s ≠ none) →
      (∀ same u1 u2, rebuild p.val b x t s = t →
        ∃ n, exec (.sketchScrub p ep num same u1 u2) s = .next { s with integ := { s.integ with scrubProg := n } }) ∧
      (∀ u1 u2, rebuild p.val b x t s ≠ t →
        ∃ n, exec (.sketchScrub p ep num true u1 u2) s =
          .next (putTile p.val ep (rebuild p.val b x t s) { s with integ := { s.integ with scrubProg := n } })) ∧
      (∀ u1 u2, rebuild p.val b x t s ≠ t → ∃ n, exec (.sketchScrub p ep num false u1 u2) s = .next
        (noteCheck ⟨u2.1, true, u2.2⟩ (bandOf (s.unit u2.1).temp) true (count none 5 (1 + bandOf (s.unit u2.1).temp) 1
          (noteCheck ⟨u1.1, true, u1.2⟩ (bandOf (s.unit u1.1).temp) true (count none 5 (1 + bandOf (s.unit u1.1).temp) 1
            { s with integ := { s.integ with scrubProg := n } })))))) ∧
    (∀ same u1 u2, (s.corpus p.val).store? ep = none → exec (.sketchScrub p ep num same u1 u2) s = .next s) ∧
    (∀ x b t, s.live = true → (∃ r ∈ s.integ.repairs, r.1 = p.val ∧ r.2.1 = ep ∧ r.2.2.1 = num) →
      (s.corpus p.val).store? ep = some x → (s.corpus p.val).bundle? ep = some b → x.tile? num = some t →
      (x.tagFor p.val num ≠ none → ∃ u, exec (.tileRepair p ep num) s = .next (putTile p.val ep (rebuild p.val b x t s) u) ∧
        u = { s with integ := { s.integ with
          repairs := s.integ.repairs.filter fun r => !(r.1 == p.val && r.2.1 == ep && r.2.2.1 == num) } }) ∧
      (x.tagFor p.val num = none → exec (.tileRepair p ep num) s = .next { s with integ := { s.integ with
        repairs := s.integ.repairs.filter fun r => !(r.1 == p.val && r.2.1 == ep && r.2.2.1 == num) } })) ∧
    ((∀ r ∈ s.integ.repairs, ¬ (r.1 = p.val ∧ r.2.1 = ep ∧ r.2.2.1 = num)) → exec (.tileRepair p ep num) s = .next s) ∧
    (s.live = true → s.clk.slot = none → s.hfn % 1000 = 0 → bit s.integ.spareEff 0 = true →
      (∀ pre r post, (∀ y ∈ pre ++ r :: post, 1000 ≤ y.slots ∧ 0 < y.cycles) → s.lagsIn (pre ++ r :: post) r →
        (∀ y ∈ pre ++ post, ¬ s.lagsIn (pre ++ r :: post) y) →
        exec (.stragglerWindow (pre ++ r :: post)) s = .next (askSwap r.die r.ta r.unit 0 s)) ∧
      (∀ rs, (∀ y ∈ rs, y.slots < 1000) → exec (.stragglerWindow rs) s = .next s)) ∧
    (∀ rs, s.clk.slot ≠ none ∨ s.hfn % 1000 ≠ 0 ∨ bit s.integ.spareEff 0 = false → exec (.stragglerWindow rs) s = .next s)

open Sys2Proof Sys2Proof.Machine in
/-- BIST and the integrity registers (parts of R411, R422, R450 to R452, R454, R455). BIST_GO: a run is accepted in TEST and RETURNED,
with no other run and its condition met, else BIST_STAT.CFG_REJECT is set. BIST_REQUEST: the Lodge accepts it on the same terms, denies it
outside those states and refuses it otherwise. A run that has lasted its time returns its target from behind the spare, and reports
signature, duration, coverage and verdict. Writes of the integrity registers: the accepted values, the write-1-to-clear bits, and the
refusals. -/
def Obligations.BistAndIntegrityRegisters : Prop :=
  ∀ (s : State) (v : W32),
    (s.bar0Up0 = true → bit v 16 = true →
      (s.bistOpen = true → s.integ.bist = none → s.bistCond v = true → exec (.bistGo v) s = .next { s with integ := { s.integ with
        bistCtl := v &&& 0x7FFF#32, bist := some ⟨v &&& 0x7FFF#32, false, bFrames v, none, bFrames v⟩ } }) ∧
      (s.bistOpen = false ∨ s.integ.bist ≠ none ∨ s.bistCond v = false →
        exec (.bistGo v) s = .next { s with integ := { s.integ with bistReject := true } })) ∧
    (bit v 16 = false → exec (.bistGo v) s = .next s) ∧
    (s.live = true →
      (s.bistOpen = false → exec (.bistRequest v) s = .next { s with out := s.out ++ [.internal "BIST" rcDenied] }) ∧
      (s.bistOpen = true → s.integ.bist = none → s.bistCond v = true → exec (.bistRequest v) s = .next { s with
        integ := { s.integ with bistCtl := v &&& 0x7FFF#32, bist := some ⟨v &&& 0x7FFF#32, false, bFrames v, none, bFrames v⟩ }
        out := s.out ++ [.internal "BIST" rcOk] }) ∧
      (s.bistOpen = true → s.integ.bist ≠ none ∨ s.bistCond v = false →
        exec (.bistRequest v) s = .next { s with out := s.out ++ [.internal "BIST" rcRefused] })) ∧
    (∀ b sig fail cov, s.integ.bist = some b →
      (s.live = true → b.begun = true → b.left = 0 → s.clk.slot = none → b.spare = none → exec (.bistRunDone sig fail cov) s =
        .next (bistFlag b.ctl fail sig { s with integ := { s.integ with
          bist := none, bistSig := sig, bistMs := satTo 0xFFFF (b.frames / 50), bistCov := bCov b.ctl cov, bistFail := fail
          bistAbort := false } })) ∧
      (∀ p n, s.live = true → b.begun = true → b.left = 0 → s.clk.slot = none → b.spare = some p →
        (s.die (bUnit b.ctl)).logicalOf (bTa b.ctl) p = some n → exec (.bistRunDone sig fail cov) s =
        .next (bistFlag b.ctl fail sig { modDie (bUnit b.ctl) (·.setMap (bTa b.ctl) n (some (bSub b.ctl))) s with integ := { s.integ with
          bist := none, bistSig := sig, bistMs := satTo 0xFFFF (b.frames / 50), bistCov := bCov b.ctl cov, bistFail := fail
          bistAbort := false } })) ∧
      (b.begun = false ∨ b.left ≠ 0 ∨ s.clk.slot ≠ none → exec (.bistRunDone sig fail cov) s = .next s)) ∧
    (∀ sig fail cov, s.integ.bist = none → exec (.bistRunDone sig fail cov) s = .next s) ∧
    (s.bar0Up0 = true →
      (1 ≤ fld v 15 8 → 1 ≤ fld v 23 16 → fld v 23 16 ≤ 168 →
        exec (.integRegWrite 0xC00 v) s = .next { s with integ := { s.integ with keeperCfg := v &&& 0x00FF_FF03#32 } }) ∧
      (fld v 15 8 = 0 ∨ fld v 23 16 = 0 ∨ 168 < fld v 23 16 →
        exec (.integRegWrite 0xC00 v) s = .next { s with integ := { s.integ with cfgReject := true } }) ∧
      (1 ≤ fld v 4 0 → fld v 4 0 ≤ 20 → 1 ≤ fld v 15 8 →
        exec (.integRegWrite 0xC04 v) s = .next { s with integ := { s.integ with shadowRate := v &&& 0x0000_FF3F#32 } }) ∧
      (fld v 4 0 = 0 ∨ 20 < fld v 4 0 ∨ fld v 15 8 = 0 →
        exec (.integRegWrite 0xC04 v) s = .next { s with integ := { s.integ with cfgReject := true } }) ∧
      (1 ≤ fld v 15 0 → 1 ≤ fld v 23 16 →
        exec (.integRegWrite 0xC08 v) s = .next { s with integ := { s.integ with suspectCfg := v &&& 0x00FF_FFFF#32 } }) ∧
      (110 ≤ fld v 15 8 → exec (.integRegWrite 0xC0C v) s = .next { s with integ := { s.integ with spareCfg := v &&& 0x0000_FF07#32 } }) ∧
      (fld v 15 8 < 110 → exec (.integRegWrite 0xC0C v) s = .next { s with integ := { s.integ with cfgReject := true } }) ∧
      (fld v 15 0 = 0 ∨ fld v 23 16 = 0 →
        exec (.integRegWrite 0xC08 v) s = .next { s with integ := { s.integ with cfgReject := true } }) ∧
      exec (.integRegWrite 0xC10 v) s = .next { s with integ := { s.integ with
        cfgReject := s.integ.cfgReject && !bit v 0, suspectSeen := s.integ.suspectSeen && !bit v 1
        swapSeen := s.integ.swapSeen && !bit v 2, noSpare := s.integ.noSpare && !bit v 3
        shadowDrop := s.integ.shadowDrop && !bit v 4, primaryWrong := s.integ.primaryWrong && !bit v 5
        sramUe := s.integ.sramUe && !bit v 6 } } ∧
      (fld v 4 0 < 24 → fld v 10 5 < (if bit v 11 then 5 else 52) →
        exec (.integRegWrite 0xC20 v) s = .next { s with integ := { s.integ with suspectSel := v &&& 0x3FFF#32 } }) ∧
      (24 ≤ fld v 4 0 ∨ (if bit v 11 then 5 else 52) ≤ fld v 10 5 →
        exec (.integRegWrite 0xC20 v) s = .next { s with integ := { s.integ with cfgReject := true } }) ∧
      (bit v 16 = true → exec (.integRegWrite 0xC40 v) s = exec (.bistGo v) s) ∧
      exec (.integRegWrite 0xC44 v) s = .next { s with integ := { s.integ with
        bistFail := s.integ.bistFail && !bit v 1, bistAbort := s.integ.bistAbort && !bit v 2
        bistReject := s.integ.bistReject && !bit v 3 } }) ∧
    (s.bar0Up0 = false → ∀ off, exec (.integRegWrite off v) s = .next s)

open Sys2Proof Sys2Proof.Machine in
/-- Power and resets (parts of R401, R457 to R461, R475): a low PERST_N of less than 1 µs has no effect, one of 1 µs or more resets the
node; so does a host's reset 1 ms after it was asked for, and the loss of the heartbeat for 50,000 frames. Each writes the update data of
the pools to flash first, and of the state that `resetTo` names keeps what outlasts a reset and gives the rest its reset state; one that
comes during a flush waits for its end. Power that goes takes what no flush has written; power that returns finds the part's fuses and
NOR. -/
def Obligations.NodeResets : Prop :=
  ∀ s : State,
    (∀ ns, ns < 1000 → exec (.perstNAssert ns) s = .next s) ∧
    (∀ ns, 1000 ≤ ns → s.phase.up = true → s.pwr.flush.isSome = true →
      exec (.perstNAssert ns) s = .next { s with pwr := { s.pwr with resetPending := some 1 } }) ∧
    (∀ ns, 1000 ≤ ns → s.phase.up = true → s.pwr.flush = none →
      ∃ t, exec (.perstNAssert ns) s = .next t ∧ t.phase = .held .perst ∧ s.resetTo t 1 (flushPools s).2.flash.map ∧ t.fns = fnsReset ∧
        t.lodge.qspi = s.lodge.qspi) ∧
    (∀ ns, s.phase = .off ∨ s.phase = .held .tripped → exec (.perstNAssert ns) s = .next s) ∧
    (∀ b f, s.phase.up = true → s.pwr.rstAt = some f → f + 50 ≤ s.hfn →
      (s.pwr.flush = none → ∃ t, exec (.hostNodeReset b) s = .next t ∧ s.resetTo t 2 (flushPools s).2.flash.map) ∧
      (s.pwr.flush.isSome = true → exec (.hostNodeReset b) s =
        .next { s with pwr := { s.pwr with resetPending := some 2, rstAt := none } })) ∧
    (∀ b, (∀ f, s.pwr.rstAt = some f → s.hfn < f + 50) → exec (.hostNodeReset b) s = .next s) ∧
    (∀ b, s.live = true → 50000 ≤ s.lodge.hbAge → s.pwr.resetPending = none →
      let u := lodgePost 0x81 0 (s.lodge.hbAt % 2 ^ 48) { s with lodge := { s.lodge with groundsRestart := true } }
      (s.pwr.flush = none → ∃ t, exec (.groundsHeartbeatLost b) s = .next t ∧ s.resetTo t 3 (flushPools u).2.flash.map ∧
        t.fns.map (·.enabled) = s.fns.map (·.enabled) ∧ t.lodge.groundsRestart = true) ∧
      (s.pwr.flush.isSome = true → exec (.groundsHeartbeatLost b) s =
        .next { u with pwr := { u.pwr with resetPending := some 3 } })) ∧
    (∀ b, s.lodge.hbAge < 50000 → exec (.groundsHeartbeatLost b) s = .next s) ∧
    (s.phase ≠ .off → ∃ t, exec .powerLoss s = .next t ∧ t.phase = .off ∧ s.resetTo t 0 s.flash.map) ∧
    (s.phase = .off → exec .powerLoss s = .next s) ∧
    (∀ b : Board, s.phase = .off ∨ s.phase = .held .perst →
      ∃ t, exec (.powerOn b) s = .next t ∧ t.phase = .held .perst ∧ t.lodge.fuses = b.fuses ∧ t.lodge.qspi = b.qspi ∧
        t.pwr.cause = (if s.pwr.tripped then 4 else 0) ∧ t.pwr.pfailSeen = false ∧ t.pwr.tripped = false ∧ t.fns = fnsReset ∧
        t.works = [] ∧ t.flash.map = s.flash.map)

open Sys2Proof Sys2Proof.Machine in
/-- Boot at the release of PERST_N (parts of R405, R406, R20, R401): with valid straps, a valid Lodge image, sound routers, a search die
in service in every quadrant and a valid Grounds image it reaches step 4, with the images that the boot records name; invalid straps or no
valid Lodge image stop it at step 1, and no valid Grounds image at step 3, each with BOOT_FAIL; a failed router, or a quadrant without a
search die in service, takes the node out at step 2; a part without keys stays with the Lodge alone; a step that stalls fails when its
time is over. The first heartbeat ends step 4, clears TRIES and lets the node run; later ones start the wait for the next one. -/
def Obligations.BootSteps : Prop :=
  ∀ (s : State) (b : BootIn),
    (s.phase = .held .perst →
      (strapsOk b.straps = false → ∃ t, exec (.perstNRelease b) s = .next t ∧ t.phase = .failed 1 ∧ t.side.strapBad = true ∧
        t.side.strap = b.straps ∧ t.dies = s.dies) ∧
      (strapsOk b.straps = true → b.stall = some 1 → ∃ t, exec (.perstNRelease b) s = .next t ∧ t.phase = .boot 1) ∧
      (strapsOk b.straps = true → b.stall = none →
        (lodgeSlot b s = none → ∃ t, exec (.perstNRelease b) s = .next t ∧ t.phase = .failed 1 ∧ t.side.strapBad = false ∧
          t.side.pcieClk = true ∧ t.lodge.qspi.lodgeRec = tryRec (bootNor b s).lodgeRec) ∧
        (∀ k, lodgeSlot b s = some k →
          (b.badRouters ≠ [] → ∃ t, exec (.perstNRelease b) s = .next t ∧ t.phase = .failed 2) ∧
          (b.badRouters = [] → (∃ q, q < 4 ∧ ∀ i, i < 6 → (bootDie b (6 * q + i)).inService = false) →
            ∃ t, exec (.perstNRelease b) s = .next t ∧ t.phase = .failed 2) ∧
          (b.badRouters = [] → (∀ q, q < 4 → ∃ i, i < 6 ∧ (bootDie b (6 * q + i)).inService = true) →
            (s.keyless = true → ∃ t, exec (.perstNRelease b) s = .next t ∧ t.phase = .lodgeOnly) ∧
            (s.keyless = false → groundsSlot b s = none → ∃ t, exec (.perstNRelease b) s = .next t ∧ t.phase = .failed 3 ∧
              t.lodge.qspi.groundsRec = tryRec (bootNor b s).groundsRec) ∧
            (∀ j, s.keyless = false → groundsSlot b s = some j → ∃ t, exec (.perstNRelease b) s = .next t ∧ t.phase = .boot 4 ∧
              (∀ i, i < 24 → t.dies.getD i Die.reset = bootDie b i) ∧ t.lds = b.lds ∧ t.scs = b.scs ∧ t.sts = b.sts ∧
              t.lodge.energies = b.energies ∧ t.side.pcieClk = true ∧ t.side.strap = b.straps ∧
              t.lodge.lodgeImg = some ⟨k, imgSvn (norSlot (bootNor b s) 0 k), imgDigest (norSlot (bootNor b s) 0 k)⟩ ∧
              t.lodge.groundsImg = some ⟨j, imgSvn (norSlot (bootNor b s) 1 j), imgDigest (norSlot (bootNor b s) 1 j)⟩ ∧
              t.lodge.qspi.lodgeRec = tryRec (bootNor b s).lodgeRec ∧ t.lodge.qspi.groundsRec = tryRec (bootNor b s).groundsRec))))) ∧
    (s.phase ≠ .held .perst → exec (.perstNRelease b) s = .next s) ∧
    (∀ k unit, s.phase = .boot k → exec (.bootStepTimeout unit) s =
      .next (lodgePost 0x80 k (if k = 2 ∨ k = 3 then unit % 256 else 0) { s with phase := .failed k })) ∧
    (∀ unit, (∀ k, s.phase ≠ .boot k) → exec (.bootStepTimeout unit) s = .next s) ∧
    (s.phase = .boot 4 → exec .groundsHeartbeat s = .next { s with
      phase := .running
      lodge := { s.lodge with
        hbAge := 0, hbAt := s.hfn
        qspi := { s.lodge.qspi with
          lodgeRec := { s.lodge.qspi.lodgeRec with tries := 0 }, groundsRec := { s.lodge.qspi.groundsRec with tries := 0 } } } }) ∧
    (s.phase = .running → exec .groundsHeartbeat s = .next { s with lodge := { s.lodge with hbAge := 0, hbAt := s.hfn } }) ∧
    (s.phase ≠ .boot 4 → s.phase ≠ .running → exec .groundsHeartbeat s = .next s)

open Sys2Proof Sys2Proof.Machine in
/-- Power fail and the reference clocks (parts of R261 to R263, R461, R462, R472, R483): PFAIL_N counts from 500 ns on, and from 400 ns on
if recognised, and asks for a flush; when the flush is done, every update unit that waited is in the map of flash and no pool holds one,
FLUSH_DONE is low, PFAIL_DONE is posted, and admission stays stopped until PFAIL_N has been high; a reset that waited follows, or the hold
that the flush was for. A lost SYS_REFCLK asks for a flush; a lost Ethernet clock takes its five ports down. -/
def Obligations.PowerFail : Prop :=
  ∀ s : State,
    (∀ ns seen, 500 ≤ ns ∨ (400 ≤ ns ∧ seen = true) → s.phase.up = true → s.pwr.flush = none → s.pwr.pfailLow = false →
      s.pwr.stopped = false → exec (.pfailNAssert ns seen) s = .next { s with pwr :=
        { s.pwr with pfailLow := true, flushStart := s.hfn, flushPend := some .pfail } }) ∧
    (∀ ns seen, ns < 400 ∨ (ns < 500 ∧ seen = false) → exec (.pfailNAssert ns seen) s = .next s) ∧
    (∀ b, s.pwr.flush = none → exec (.pfailFlushDone b) s = .next s) ∧
    (∀ b, s.pwr.flush = some .pfail → s.pwr.resetPending = none →
      ∃ t, exec (.pfailFlushDone b) s = .next t ∧ t.flash.map = (flushPools s).2.flash.map ∧ t.flash.pool = [] ∧
        t.pwr.flush = none ∧ t.pwr.stopped = true ∧ t.pwr.flushDone = false ∧ t.pwr.resume = !s.pwr.pfailLow ∧
        t.out = (nodeEvent evPfailDone (leBytes 8 (flushPools s).1 ++ leBytes 4 ((s.hfn - s.pwr.flushStart) * 20)) (flushPools s).2).out) ∧
    (∀ b, s.pwr.flush = some .pfail → s.pwr.resetPending = some 1 →
      ∃ t, exec (.pfailFlushDone b) s = .next t ∧ t.phase = .held .perst ∧ t.pwr.cause = 1 ∧ t.flash.map = (flushPools s).2.flash.map) ∧
    (∀ b, s.pwr.flush = some .clock → ∃ t, exec (.pfailFlushDone b) s = .next t ∧ t.phase = .held .clock) ∧
    (∀ b, s.pwr.flush = some .trip → ∃ t, exec (.pfailFlushDone b) s = .next t ∧ t.phase = .held .tripped ∧ t.pwr.thermTripN = false) ∧
    (∀ ns, 500 ≤ ns → s.pwr.pfailLow = true → exec (.pfailNDeassert ns) s = .next { s with pwr :=
      { s.pwr with pfailLow := false, resume := s.pwr.resume || s.pwr.stopped } }) ∧
    (∀ ns, ns < 500 → exec (.pfailNDeassert ns) s = .next s) ∧
    (s.flashUp = true → s.flash.regionOk = false → exec .pfailRegionRestored s = .next { s with flash :=
      { s.flash with regionErased := max s.flash.regionErased s.flash.regionNeed } }) ∧
    (s.phase.up = true → s.pwr.flush = none → s.pwr.stopped = false → exec .sysRefclkLoss s = .next { s with pwr :=
      { s.pwr with pfailSeen := true, flushPend := some .clock, flushStart := s.hfn } }) ∧
    (∀ ld : Quad, s.phase.up = true → ld.val < s.side.ethClk.length → s.fab.ports.length = 20 →
      ∃ t, exec (.ethRefclkLoss ld) s = .next t ∧ t.side.ethClk = modifyAt s.side.ethClk ld.val (fun _ => false) ∧
        ∀ i, i < 20 → if i / 5 = ld.val then (t.fab.ports.getD i Port.reset).lanes = [false, false, false, false]
          else t.fab.ports.getD i Port.reset = s.fab.ports.getD i Port.reset) ∧
    (∀ ld : Quad, exec (.ethRefclkReturn ld) s = .next { s with side :=
      { s.side with ethClk := modifyAt s.side.ethClk ld.val fun _ => true } })

open Sys2Proof Sys2Proof.Machine in
/-- Units, temperature and the package cap (parts of R28, R48, R464, R467, R469 to R472, R475): a second slot in a row over the class
budget costs a die two slots of duty, once a boundary; two samples at the limit trip the package, and a storage die's trip loses what its
pool holds; a step falls by one after the frames that it asks for; a stack leaves doubled refresh, and step 1 with it, after 16 cool
frames; a sensor that is stuck is left out, and a unit without a working one takes its highest step. PWR_CAP and THERM_CFG take values in
their ranges and refuse others, and RESET_CTL takes the word with the key 5A32H. -/
def Obligations.ThermalAndPower : Prop :=
  ∀ s : State, s.phase.up = true →
    (∀ u w, u < 32 → budgetW u < w → 1 ≤ (s.unit u).overN → (s.unit u).cutNow = false → exec (.diePowerThrottle ⟨u, w⟩) s =
      .next { s with pwr := { s.pwr with units := modifyAt s.pwr.units u fun x => { x with cut := min 16 (x.cut + 2), cutNow := true } } }) ∧
    (∀ u w, w ≤ budgetW u ∨ (s.unit u).overN = 0 ∨ (s.unit u).cutNow = true → exec (.diePowerThrottle ⟨u, w⟩) s = .next s) ∧
    (∀ u, u < 48 → 2 ≤ (s.unit u).tripN →
      (s.pwr.flush = none → s.pwr.stopped = false → s.pwr.tripped = false → exec (.thermalTrip u) s = .next { s with
        pwr := { s.pwr with tripUnit := u, tripped := true, flushPend := some .trip, flushStart := s.hfn }
        flash := if u = 28 ∨ u = 29 then { s.flash with pool := s.flash.pool.filter (·.sd != u - 28) } else s.flash }) ∧
      (s.pwr.flush.isSome = true → s.pwr.tripped = false → exec (.thermalTrip u) s = .next { s with
        pwr := { s.pwr with tripUnit := u, tripped := true, flush := some .trip }
        flash := if u = 28 ∨ u = 29 then { s.flash with pool := s.flash.pool.filter (·.sd != u - 28) } else s.flash }) ∧
      (s.pwr.flush = none → s.pwr.stopped = true →
        ∃ t, exec (.thermalTrip u) s = .next t ∧ t.phase = .held .tripped ∧ t.pwr.thermTripN = false ∧ t.pwr.tripped = true)) ∧
    (∀ u, (s.unit u).tripN < 2 → exec (.thermalTrip u) s = .next s) ∧
    (∀ u, u < 48 → s.clk.slot = none → (s.unit u).sensorFail = false → (if u < 32 then 64 else 16) ≤ (s.unit u).cool →
      (if u < 32 then 0 else 1) < (s.unit u).step → exec (.thermalStepDown u) s = .next (nodeEvent evThermal
        (leBytes 1 u ++ leBytes 1 ((s.unit u).step - 1) ++ leBytes 1 (twos 8 (s.unit u).temp))
        { s with pwr := { s.pwr with units := modifyAt s.pwr.units u fun x => { x with step := (s.unit u).step - 1, cool := 0 } } })) ∧
    (∀ u, (s.unit u).cool < (if u < 32 then 64 else 16) → exec (.thermalStepDown u) s = .next s) ∧
    (∀ st : Fin 16, s.clk.slot = none → (s.scan.st.getD st.val Stack.reset).doubled = true →
      16 ≤ (s.scan.st.getD st.val Stack.reset).cool →
      ((s.unit (32 + st.val)).step = 0 → exec (.refreshDoubleExit st) s = .next { s with scan := { s.scan with
        st := modifyAt s.scan.st st.val fun k => { k with doubled := false, cool := 0 } } }) ∧
      ((s.unit (32 + st.val)).step = 1 → exec (.refreshDoubleExit st) s = .next (nodeEvent evThermal
        (leBytes 1 (32 + st.val) ++ leBytes 1 0 ++ leBytes 1 (twos 8 (s.unit (32 + st.val)).temp))
        { s with
          scan := { s.scan with st := modifyAt s.scan.st st.val fun k => { k with doubled := false, cool := 0 } }
          pwr := { s.pwr with units := modifyAt s.pwr.units (32 + st.val) fun x => { x with step := 0, cool := 0 } } }))) ∧
    (∀ u k, u < 48 → k < sensorsOf u → u < s.pwr.units.length →
      ((dedupKeep ((s.unit u).stuck ++ [k])).length ≠ sensorsOf u → exec (.sensorStuck u k) s = .next { s with pwr := { s.pwr with
        units := modifyAt s.pwr.units u fun x => { x with stuck := dedupKeep (x.stuck ++ [k]) } } }) ∧
      ((dedupKeep ((s.unit u).stuck ++ [k])).length = sensorsOf u →
        ∃ t, exec (.sensorStuck u k) s = .next t ∧ (t.unit u).step = topStep u ∧ (t.unit u).sensorFail = true)) ∧
    (∀ v, s.bar0Up0 = true →
      (400 ≤ fld v 10 0 ∧ fld v 10 0 ≤ 1500 ∧ 1 ≤ fld v 19 12 →
        exec (.pwrCapWrite false v) s = .next { s with pwr := { s.pwr with cap := v &&& 0x000F_F7FF#32 } }) ∧
      (fld v 10 0 < 400 ∨ 1500 < fld v 10 0 ∨ fld v 19 12 = 0 →
        exec (.pwrCapWrite false v) s = .next { s with pwr := { s.pwr with cfgReject := true } }) ∧
      (85 ≤ fld v 7 0 ∧ fld v 7 0 ≤ 105 ∧ 86 ≤ fld v 15 8 ∧ fld v 15 8 ≤ 92 →
        exec (.pwrCapWrite true v) s = .next { s with pwr := { s.pwr with thermCfg := v &&& 0xFFFF#32 } }) ∧
      (fld v 7 0 < 85 ∨ 105 < fld v 7 0 ∨ fld v 15 8 < 86 ∨ 92 < fld v 15 8 →
        exec (.pwrCapWrite true v) s = .next { s with pwr := { s.pwr with thermReject := true } }) ∧
      (bit v 0 = true ∧ fld v 31 16 = 0x5A32 ∧ s.pwr.rstAt = none →
        exec (.resetCtlWrite v) s = .next { s with pwr := { s.pwr with rstAt := some s.hfn } }) ∧
      (bit v 0 = false ∨ fld v 31 16 ≠ 0x5A32 → exec (.resetCtlWrite v) s = .next s))

open Sys2Proof Sys2Proof.Machine in
/-- SMBus, MCTP, PLDM, PMBus, the consoles and the TAP (parts of R411, R485, R486, R488, R489): hardware reads answer one byte whenever
power is on; the Grounds answers MCTP and PLDM while it runs (the bytes of the answers are the model's, log 25); a poll with no regulator
or one takes its four values and marks a fault, at a frame of a multiple of 50,000 or after PMB_ALERT_N; a console byte and a TAP access
reach the node in TEST and RETURNED only. The sideband registers, LSR_EN and the promenade's links (parts of R24, R490, R491, R497):
GPIO_DIR and GPIO_OUT take their low 16 bits; PMB_CFG takes a base and a count that stay below 78H; LSR_EN of a port is high while the
port is enabled in a running node that is not in flush mode, and low while the node is held in reset by a clock or a trip. A module with
more than 16 retries in the frame retrains from the boundary on, and counts once; the work of a connection with a module left goes on; a
search die whose last module is down has its jobs taken by another die of its quadrant, and each of them counts as reissued. -/
def Obligations.SidebandAndPromenade : Prop :=
  (∀ s : State,
      (s.phase ≠ .off →
        exec .smbReadMaxLogic s = .next (emit (.smbus (leBytes 1 (twos 8 (s.maxTemp false)))) s) ∧
        exec .smbReadMaxStack s = .next (emit (.smbus (leBytes 1 (twos 8 (s.maxTemp true)))) s) ∧
        exec .smbReadStatus s = .next (emit (.smbus (leBytes 1 s.smbStatus)) s)) ∧
      (s.phase = .off → exec .smbReadMaxLogic s = .next s ∧ exec .smbReadMaxStack s = .next s ∧ exec .smbReadStatus s = .next s) ∧
      (s.groundsUp = true →
        (∀ e, exec (.setEndpointId e) s = .next (emit (.smbus [0#8, 0#8, e, 0#8]) { s with side := { s.side with eid := e } })) ∧
        exec .getEndpointId s = .next (emit (.smbus [0#8, s.side.eid, 0#8, 0#8]) s) ∧
        exec .getMessageTypeSupport s = .next (emit (.smbus [0#8, 1#8, 1#8]) s) ∧
        exec (.getMctpVersionSupport 1#8) s = .next (emit (.smbus [0#8, 1#8, 0xF1#8, 0xF3#8, 0xF1#8, 0#8]) s) ∧
        exec (.getMctpVersionSupport 5#8) s = .next (emit (.smbus [0x80#8]) s) ∧
        (∀ q : PldmReq, q.type_ = 2 → q.setThreshold = none →
          exec (.pldmRequest q) s = .next (emit (.smbus (match s.sensor q.sensor with
            | some v => 0#8 :: leBytes 4 (twos 32 v) | none => [1#8])) s)) ∧
        (∀ (q : PldmReq) v, q.type_ = 2 → q.setThreshold = some v →
          exec (.pldmRequest q) s = .next { s with
            out := s.out ++ [.smbus [0#8]]
            side := { s.side with thresholds := (s.side.thresholds.filter (·.1 != q.sensor)) ++ [(q.sensor, v)] } })) ∧
      (∀ regs, s.live = true → s.clk.slot = none → s.hfn % 50000 = 0 ∨ s.side.pmbExtra = true → fld s.side.pmbCfg 11 8 = 0 →
        exec (.pmbusPoll regs) s = .next { s with side := { s.side with pmbExtra := false, regs := [] } }) ∧
      (∀ regs, s.live = true → s.clk.slot = none → s.hfn % 50000 = 0 ∨ s.side.pmbExtra = true → fld s.side.pmbCfg 11 8 = 1 →
        (∀ a b c, regs = [⟨fld s.side.pmbCfg 6 0, some (a, b, c, 0)⟩] →
          exec (.pmbusPoll regs) s = .next { s with side := { s.side with pmbExtra := false, regs := regs } }) ∧
        (regs = [] → exec (.pmbusPoll regs) s = .next { s with side :=
          { s.side with pmbExtra := false, pmbFault := true, regs := [⟨fld s.side.pmbCfg 6 0, none⟩] } })) ∧
      (∀ regs, s.hfn % 50000 ≠ 0 → s.side.pmbExtra = false → exec (.pmbusPoll regs) s = .next s) ∧
      (s.live = true → exec .pmbAlert s = .next { s with side := { s.side with pmbExtra := true } }) ∧
      (∀ b, s.live = true →
        (s.lodge.lc = 1 ∨ s.lodge.lc = 3 →
          exec (.uartRx 0 b true) s = .next (emit (.internal "UART0 RX" b.toNat) s) ∧
          exec (.uartRx 1 b true) s = .next (emit (.internal "UART1 RX" b.toNat) s) ∧ (∀ port, exec (.uartRx port b false) s = .next s) ∧
          ∀ x, exec (.jtagAccess x) s = .next (emit (.jtag x) s)) ∧
        (s.lodge.lc ≠ 1 → s.lodge.lc ≠ 3 →
          (∀ port stop, exec (.uartRx port b stop) s = .next s) ∧ ∀ x, exec (.jtagAccess x) s = .next s))) ∧
  (∀ s : State,
      (∀ v, s.bar0Up0 = true →
        exec (.gpioWrite false v) s = .next { s with side := { s.side with gpioDir := v &&& 0xFFFF#32 } } ∧
        exec (.gpioWrite true v) s = .next { s with side := { s.side with gpioOut := v &&& 0xFFFF#32 } } ∧
        (0x08 ≤ fld v 6 0 ∧ fld v 6 0 ≤ 0x77 ∧ fld v 11 8 ≤ 8 ∧ fld v 6 0 + fld v 11 8 ≤ 0x78 →
          exec (.pmbCfgWrite v) s = .next { s with side := { s.side with pmbCfg := v &&& 0x0F7F#32 } }) ∧
        (fld v 6 0 < 0x08 ∨ 0x77 < fld v 6 0 ∨ 8 < fld v 11 8 ∨ 0x78 < fld v 6 0 + fld v 11 8 →
          exec (.pmbCfgWrite v) s = .next { s with side := { s.side with cfgReject := true } })) ∧
      (∀ p, (s.live = true → s.flushing = false → s.lsrEn p = some (bit (s.fab.ports.getD p Port.reset).eff 0)) ∧
        (s.live = true → s.flushing = true → s.lsrEn p = some false) ∧
        (s.phase = .held .clock ∨ s.phase = .held .tripped → s.lsrEn p = some false)) ∧
      (∀ c m n qids works, s.live = true → s.clk.slot = none → 16 < (s.module c m).retries → (s.module c m).retraining = false →
        let u := count none 4 1 1 { s with mods := modifyAt s.mods c fun ms => modifyAt ms m fun x => { x with retraining := true } }
        ((∃ k, k ≠ m ∧ k < (s.mods.getD c []).length ∧ (s.module c k).retraining = false) → exec (.promenadeRetrain c m n qids works) s = .next u) ∧
        (∀ d ds, c < 24 → u.connUp c = false → u.quadDies (c / 6) = d :: ds → exec (.promenadeRetrain c m n qids works) s =
          .next (count none 4 2 (u.scan.batches.flatMap fun b => b.jobs.filter (·.die == c)).length { u with scan := { u.scan with
            batches := u.scan.batches.map fun b => { b with
              jobs := mapIf (fun j => j.die == c) (fun j => { j with die := d, eng := (u.die d).engs.headD 0 }) b.jobs } } }))) ∧
      (∀ c m n qids works, (s.module c m).retries ≤ 16 ∨ (s.module c m).retraining = true → exec (.promenadeRetrain c m n qids works) s = .next s) ∧
      (∀ c m, exec (.moduleRetrainDone c m) s = .next { s with
        mods := modifyAt s.mods c fun ms => modifyAt ms m fun x => { x with retraining := false } }))
end

