-- ==== Sys2Proof/Laws/Keeps.lean ====
section
/-! SUPPORT. The rules by which a frame is shown: composition, choice, iteration, and the update of one field. -/

namespace Sys2Proof.Machine

theorem Area.same.trans {p : Area} {s t u : State} (h : p.same s t) (k : p.same t u) : p.same s u := by
  cases p <;> exact Eq.trans k h

theorem Keeps.refl (ps : List Area) (s : State) : Keeps ps s s := ⟨fun p _ => by cases p <;> rfl⟩

/-- After a state that keeps all but `ps`, a step that keeps all but a part of `ps`. -/
theorem Keeps.after {ps qs : List Area} {s t u : State} (h : Keeps ps s t) (k : Keeps qs t u)
    (hs : qs.all ps.contains = true) : Keeps ps s u := by
  constructor
  intro p hp
  refine (h.same p hp).trans (k.same p ?_)
  rw [List.all_eq_true] at hs
  cases hq : qs.contains p with
  | false => rfl
  | true => rw [hs p (by simpa using hq)] at hp; cases hp

theorem Keeps.then_ {ps : List Area} {s t u : State} (h : Keeps ps s t) (k : Keeps ps t u) : Keeps ps s u :=
  ⟨fun p hp => (h.same p hp).trans (k.same p hp)⟩

/-- What a step leaves alone it leaves alone under a longer list. -/
theorem Keeps.mono {ps qs : List Area} {s t : State} (k : Keeps qs s t) (hs : qs.all ps.contains = true) : Keeps ps s t :=
  (Keeps.refl ps s).after k hs

theorem Keeps.ite {ps : List Area} {s a b : State} {c : Prop} [Decidable c] (h : Keeps ps s a) (k : Keeps ps s b) :
    Keeps ps s (if c then a else b) := by
  split <;> assumption

theorem Keeps.foldl {ps : List Area} {α : Type} {s a : State} {f : State → α → State} {l : List α} (h : Keeps ps s a)
    (k : ∀ t x, Keeps ps t (f t x)) : Keeps ps s (l.foldl f a) := by
  induction l generalizing a with
  | nil => exact h
  | cons x l ih => exact ih (h.then_ (k a x))

/-! Results that carry a state beside a value, or perhaps no state. -/

theorem Keeps.mk2 {ps : List Area} {α : Type} {s x : State} {a : α} (h : Keeps ps s x) : Keeps ps s (a, x).2 := h
theorem Keeps.mk3 {ps : List Area} {α β : Type} {s x : State} {a : α} {b : β} (h : Keeps ps s x) : Keeps ps s (a, b, x).2.2 := h
theorem Keeps.ite2 {ps : List Area} {α : Type} {s : State} {a b : α × State} {c : Prop} [Decidable c] (h : Keeps ps s a.2)
    (k : Keeps ps s b.2) : Keeps ps s (if c then a else b).2 := by
  split <;> assumption
theorem Keeps.ite3 {ps : List Area} {α β : Type} {s : State} {a b : α × β × State} {c : Prop} [Decidable c] (h : Keeps ps s a.2.2)
    (k : Keeps ps s b.2.2) : Keeps ps s (if c then a else b).2.2 := by
  split <;> assumption
theorem Keeps.of2 {ps : List Area} {α : Type} {s x : State} {e : α × State} {a : α} (h : e = (a, x)) (k : Keeps ps s e.2) :
    Keeps ps s x := by
  subst h; exact k
theorem Keeps.of3 {ps : List Area} {α β : Type} {s x : State} {e : α × β × State} {a : α} {b : β} (h : e = (a, b, x))
    (k : Keeps ps s e.2.2) : Keeps ps s x := by
  subst h; exact k
theorem Keeps.foldl2 {ps : List Area} {α β : Type} {s : State} {a : β × State} {f : β × State → α → β × State} {l : List α}
    (h : Keeps ps s a.2) (k : ∀ t x, Keeps ps t.2 (f t x).2) : Keeps ps s (l.foldl f a).2 := by
  induction l generalizing a with
  | nil => exact h
  | cons x l ih => exact ih (h.then_ (k a x))

theorem Keeps.foldl3 {ps : List Area} {α β γ : Type} {s : State} {a : β × γ × State} {f : β × γ × State → α → β × γ × State} {l : List α}
    (h : Keeps ps s a.2.2) (k : ∀ t x, Keeps ps t.2.2 (f t x).2.2) : Keeps ps s (l.foldl f a).2.2 := by
  induction l generalizing a with
  | nil => exact h
  | cons x l ih => exact ih (h.then_ (k a x))

/-- A state, where there is one, keeps all but `ps`. -/
structure KeepsO (ps : List Area) (s : State) (o : Option State) : Prop where
  all : ∀ x, o = some x → Keeps ps s x
/-- The same of a state beside a value. -/
structure KeepsOP {α : Type} (ps : List Area) (s : State) (o : Option (α × State)) : Prop where
  all : ∀ a x, o = some (a, x) → Keeps ps s x

theorem KeepsO.none (ps : List Area) (s : State) : KeepsO ps s none := ⟨fun _ h => nomatch h⟩
theorem KeepsO.some {ps : List Area} {s x : State} (h : Keeps ps s x) : KeepsO ps s (some x) := ⟨by
  intro y e; cases e; exact h⟩
theorem KeepsO.ite {ps : List Area} {s : State} {a b : Option State} {c : Prop} [Decidable c] (h : KeepsO ps s a) (k : KeepsO ps s b) :
    KeepsO ps s (if c then a else b) := by
  split <;> assumption
theorem KeepsO.get {ps : List Area} {s x : State} {o : Option State} (h : o = Option.some x) (k : KeepsO ps s o) : Keeps ps s x := k.all x h
theorem KeepsO.getD {ps : List Area} {s x : State} {o : Option State} (k : KeepsO ps s o) (h : Keeps ps s x) :
    Keeps ps s (o.getD x) := by
  cases o with
  | none => exact h
  | some y => exact k.all y rfl
theorem KeepsO.after {ps qs : List Area} {s t : State} {o : Option State} (h : Keeps ps s t) (k : KeepsO qs t o)
    (hs : qs.all ps.contains = true) : KeepsO ps s o := ⟨fun x e => h.after (k.all x e) hs⟩
theorem KeepsOP.none {α : Type} (ps : List Area) (s : State) : KeepsOP (α := α) ps s none := ⟨fun _ _ h => nomatch h⟩
theorem KeepsOP.some {α : Type} {ps : List Area} {s x : State} {a : α} (h : Keeps ps s x) : KeepsOP ps s (some (a, x)) := ⟨by
  intro b y e; cases e; exact h⟩
theorem KeepsOP.ite {α : Type} {ps : List Area} {s : State} {a b : Option (α × State)} {c : Prop} [Decidable c]
    (h : KeepsOP ps s a) (k : KeepsOP ps s b) : KeepsOP ps s (if c then a else b) := by
  split <;> assumption
theorem KeepsOP.get {α : Type} {ps : List Area} {s x : State} {o : Option (α × State)} {a : α} (h : o = Option.some (a, x))
    (k : KeepsOP ps s o) : Keeps ps s x := k.all a x h
theorem KeepsOP.after {α : Type} {ps qs : List Area} {s t : State} {o : Option (α × State)} (h : Keeps ps s t) (k : KeepsOP qs t o)
    (hs : qs.all ps.contains = true) : KeepsOP ps s o := ⟨fun a x e => h.after (k.all a x e) hs⟩
theorem KeepsO.foldl {ps : List Area} {α : Type} {s : State} {a : Option State} {f : Option State → α → Option State} {l : List α}
    (h : KeepsO ps s a) (k : ∀ o x, KeepsO ps s o → KeepsO ps s (f o x)) : KeepsO ps s (l.foldl f a) := by
  induction l generalizing a with
  | nil => exact h
  | cons x l ih => exact ih (k a x h)
theorem KeepsOP.foldl {ps : List Area} {α β : Type} {s : State} {a : Option (β × State)} {f : Option (β × State) → α → Option (β × State)}
    {l : List α} (h : KeepsOP ps s a) (k : ∀ o x, KeepsOP ps s o → KeepsOP ps s (f o x)) : KeepsOP ps s (l.foldl f a) := by
  induction l generalizing a with
  | nil => exact h
  | cons x l ih => exact ih (k a x h)

/-! The update of fields of the state, the words apart and with them. -/

theorem upd_chans {s : State} (a) : Keeps [.chans] s { s with chans := a } := by
  constructor; intro p hp; cases p <;> first | rfl | exact absurd hp (by decide)
theorem upd_clk {s : State} (a) (h : ({ s with clk := a } : State).words = s.words) :
    Keeps [.clk] s { s with clk := a } := by
  constructor; intro p hp; cases p <;> first | rfl | exact h | exact absurd hp (by decide)
theorem touch_clk {s : State} (a) : Keeps [.clk, .words] s { s with clk := a } := by
  constructor; intro p hp; cases p <;> first | rfl | exact absurd hp (by decide)
theorem upd_comp {s : State} (a) (h : ({ s with comp := a } : State).words = s.words) :
    Keeps [.comp] s { s with comp := a } := by
  constructor; intro p hp; cases p <;> first | rfl | exact h | exact absurd hp (by decide)
theorem touch_comp {s : State} (a) : Keeps [.comp, .words] s { s with comp := a } := by
  constructor; intro p hp; cases p <;> first | rfl | exact absurd hp (by decide)
theorem upd_corpora {s : State} (a) : Keeps [.corpora] s { s with corpora := a } := by
  constructor; intro p hp; cases p <;> first | rfl | exact absurd hp (by decide)
theorem upd_corpora_comp {s : State} (a b) (h : ({ s with corpora := a, comp := b } : State).words = s.words) :
    Keeps [.corpora, .comp] s { s with corpora := a, comp := b } := by
  constructor; intro p hp; cases p <;> first | rfl | exact h | exact absurd hp (by decide)
theorem touch_corpora_comp {s : State} (a b) : Keeps [.corpora, .comp, .words] s { s with corpora := a, comp := b } := by
  constructor; intro p hp; cases p <;> first | rfl | exact absurd hp (by decide)
theorem upd_dies {s : State} (a) : Keeps [.dies] s { s with dies := a } := by
  constructor; intro p hp; cases p <;> first | rfl | exact absurd hp (by decide)
theorem upd_dies_lds_scs_sts {s : State} (a b c d) : Keeps [.dies, .lds, .scs, .sts] s { s with dies := a, lds := b, scs := c, sts := d } := by
  constructor; intro p hp; cases p <;> first | rfl | exact absurd hp (by decide)
theorem upd_fab {s : State} (a) (h : ({ s with fab := a } : State).words = s.words) :
    Keeps [.fab] s { s with fab := a } := by
  constructor; intro p hp; cases p <;> first | rfl | exact h | exact absurd hp (by decide)
theorem touch_fab {s : State} (a) : Keeps [.fab, .words] s { s with fab := a } := by
  constructor; intro p hp; cases p <;> first | rfl | exact absurd hp (by decide)
theorem upd_flash {s : State} (a) (h : ({ s with flash := a } : State).words = s.words) :
    Keeps [.flash] s { s with flash := a } := by
  constructor; intro p hp; cases p <;> first | rfl | exact h | exact absurd hp (by decide)
theorem touch_flash {s : State} (a) : Keeps [.flash, .words] s { s with flash := a } := by
  constructor; intro p hp; cases p <;> first | rfl | exact absurd hp (by decide)
theorem upd_fns {s : State} (a) : Keeps [.fns] s { s with fns := a } := by
  constructor; intro p hp; cases p <;> first | rfl | exact absurd hp (by decide)
theorem upd_fns_clk_scan {s : State} (a b c) (h : ({ s with fns := a, clk := b, scan := c } : State).words = s.words) :
    Keeps [.fns, .clk, .scan] s { s with fns := a, clk := b, scan := c } := by
  constructor; intro p hp; cases p <;> first | rfl | exact h | exact absurd hp (by decide)
theorem touch_fns_clk_scan {s : State} (a b c) : Keeps [.fns, .clk, .scan, .words] s { s with fns := a, clk := b, scan := c } := by
  constructor; intro p hp; cases p <;> first | rfl | exact absurd hp (by decide)
theorem upd_fns_lodge_pwr_side_corpora_ranges_flash {s : State} (a b c d e f g) (h : ({ s with fns := a, lodge := b, pwr := c, side := d, corpora := e, ranges := f, flash := g } : State).words = s.words) :
    Keeps [.fns, .lodge, .pwr, .side, .corpora, .ranges, .flash] s { s with fns := a, lodge := b, pwr := c, side := d, corpora := e, ranges := f, flash := g } := by
  constructor; intro p hp; cases p <;> first | rfl | exact h | exact absurd hp (by decide)
theorem touch_fns_lodge_pwr_side_corpora_ranges_flash {s : State} (a b c d e f g) : Keeps [.fns, .lodge, .pwr, .side, .corpora, .ranges, .flash, .words] s { s with fns := a, lodge := b, pwr := c, side := d, corpora := e, ranges := f, flash := g } := by
  constructor; intro p hp; cases p <;> first | rfl | exact absurd hp (by decide)
theorem upd_free {s : State} (a) : Keeps [.free] s { s with free := a } := by
  constructor; intro p hp; cases p <;> first | rfl | exact absurd hp (by decide)
theorem upd_integ {s : State} (a) (h : ({ s with integ := a } : State).words = s.words) :
    Keeps [.integ] s { s with integ := a } := by
  constructor; intro p hp; cases p <;> first | rfl | exact h | exact absurd hp (by decide)
theorem touch_integ {s : State} (a) : Keeps [.integ, .words] s { s with integ := a } := by
  constructor; intro p hp; cases p <;> first | rfl | exact absurd hp (by decide)
theorem upd_lodge {s : State} (a) : Keeps [.lodge] s { s with lodge := a } := by
  constructor; intro p hp; cases p <;> first | rfl | exact absurd hp (by decide)
theorem upd_lodge_chans_rx {s : State} (a b c) : Keeps [.lodge, .chans, .rx] s { s with lodge := a, chans := b, rx := c } := by
  constructor; intro p hp; cases p <;> first | rfl | exact absurd hp (by decide)
theorem upd_mods {s : State} (a) : Keeps [.mods] s { s with mods := a } := by
  constructor; intro p hp; cases p <;> first | rfl | exact absurd hp (by decide)
theorem upd_nextId {s : State} (a) : Keeps [.nextId] s { s with nextId := a } := by
  constructor; intro p hp; cases p <;> first | rfl | exact absurd hp (by decide)
theorem upd_out {s : State} (a) : Keeps [.out] s { s with out := a } := by
  constructor; intro p hp; cases p <;> first | rfl | exact absurd hp (by decide)
theorem upd_phase {s : State} (a) : Keeps [.phase] s { s with phase := a } := by
  constructor; intro p hp; cases p <;> first | rfl | exact absurd hp (by decide)
theorem upd_phase_lodge_pwr_side {s : State} (a b c d) (h : ({ s with phase := a, lodge := b, pwr := c, side := d } : State).words = s.words) :
    Keeps [.phase, .lodge, .pwr, .side] s { s with phase := a, lodge := b, pwr := c, side := d } := by
  constructor; intro p hp; cases p <;> first | rfl | exact h | exact absurd hp (by decide)
theorem touch_phase_lodge_pwr_side {s : State} (a b c d) : Keeps [.phase, .lodge, .pwr, .side, .words] s { s with phase := a, lodge := b, pwr := c, side := d } := by
  constructor; intro p hp; cases p <;> first | rfl | exact absurd hp (by decide)
theorem upd_pvStats {s : State} (a) : Keeps [.pvStats] s { s with pvStats := a } := by
  constructor; intro p hp; cases p <;> first | rfl | exact absurd hp (by decide)
theorem upd_pwr {s : State} (a) (h : ({ s with pwr := a } : State).words = s.words) :
    Keeps [.pwr] s { s with pwr := a } := by
  constructor; intro p hp; cases p <;> first | rfl | exact h | exact absurd hp (by decide)
theorem touch_pwr {s : State} (a) : Keeps [.pwr, .words] s { s with pwr := a } := by
  constructor; intro p hp; cases p <;> first | rfl | exact absurd hp (by decide)
theorem upd_qos {s : State} (a) : Keeps [.qos] s { s with qos := a } := by
  constructor; intro p hp; cases p <;> first | rfl | exact absurd hp (by decide)
theorem upd_ranges {s : State} (a) : Keeps [.ranges] s { s with ranges := a } := by
  constructor; intro p hp; cases p <;> first | rfl | exact absurd hp (by decide)
theorem upd_rx {s : State} (a) : Keeps [.rx] s { s with rx := a } := by
  constructor; intro p hp; cases p <;> first | rfl | exact absurd hp (by decide)
theorem upd_scan {s : State} (a) (h : ({ s with scan := a } : State).words = s.words) :
    Keeps [.scan] s { s with scan := a } := by
  constructor; intro p hp; cases p <;> first | rfl | exact h | exact absurd hp (by decide)
theorem touch_scan {s : State} (a) : Keeps [.scan, .words] s { s with scan := a } := by
  constructor; intro p hp; cases p <;> first | rfl | exact absurd hp (by decide)
theorem upd_side {s : State} (a) (h : ({ s with side := a } : State).words = s.words) :
    Keeps [.side] s { s with side := a } := by
  constructor; intro p hp; cases p <;> first | rfl | exact h | exact absurd hp (by decide)
theorem touch_side {s : State} (a) : Keeps [.side, .words] s { s with side := a } := by
  constructor; intro p hp; cases p <;> first | rfl | exact absurd hp (by decide)
theorem upd_stats {s : State} (a) : Keeps [.stats] s { s with stats := a } := by
  constructor; intro p hp; cases p <;> first | rfl | exact absurd hp (by decide)
theorem upd_tier {s : State} (a) (h : ({ s with tier := a } : State).words = s.words) :
    Keeps [.tier] s { s with tier := a } := by
  constructor; intro p hp; cases p <;> first | rfl | exact h | exact absurd hp (by decide)
theorem touch_tier {s : State} (a) : Keeps [.tier, .words] s { s with tier := a } := by
  constructor; intro p hp; cases p <;> first | rfl | exact absurd hp (by decide)
theorem upd_tier_integ {s : State} (a b) (h : ({ s with tier := a, integ := b } : State).words = s.words) :
    Keeps [.tier, .integ] s { s with tier := a, integ := b } := by
  constructor; intro p hp; cases p <;> first | rfl | exact h | exact absurd hp (by decide)
theorem touch_tier_integ {s : State} (a b) : Keeps [.tier, .integ, .words] s { s with tier := a, integ := b } := by
  constructor; intro p hp; cases p <;> first | rfl | exact absurd hp (by decide)
theorem upd_upd {s : State} (a) (h : ({ s with upd := a } : State).words = s.words) :
    Keeps [.upd] s { s with upd := a } := by
  constructor; intro p hp; cases p <;> first | rfl | exact h | exact absurd hp (by decide)
theorem touch_upd {s : State} (a) : Keeps [.upd, .words] s { s with upd := a } := by
  constructor; intro p hp; cases p <;> first | rfl | exact absurd hp (by decide)
theorem upd_upd_scan_integ {s : State} (a b c) (h : ({ s with upd := a, scan := b, integ := c } : State).words = s.words) :
    Keeps [.upd, .scan, .integ] s { s with upd := a, scan := b, integ := c } := by
  constructor; intro p hp; cases p <;> first | rfl | exact h | exact absurd hp (by decide)
theorem touch_upd_scan_integ {s : State} (a b c) : Keeps [.upd, .scan, .integ, .words] s { s with upd := a, scan := b, integ := c } := by
  constructor; intro p hp; cases p <;> first | rfl | exact absurd hp (by decide)
theorem upd_works {s : State} (a) : Keeps [.works] s { s with works := a } := by
  constructor; intro p hp; cases p <;> first | rfl | exact absurd hp (by decide)
theorem upd_works_ranges {s : State} (a b) : Keeps [.works, .ranges] s { s with works := a, ranges := b } := by
  constructor; intro p hp; cases p <;> first | rfl | exact absurd hp (by decide)

end Sys2Proof.Machine
end

