-- ==== Sys2Proof/Laws/KeepsOps.lean ====
section
/-! SUPPORT. What each operation of Machine/Ops.lean leaves alone. -/

namespace Sys2Proof.Machine

theorem modFn_keeps (f g) (s : State) : Keeps [.fns] s (modFn f g s) := upd_fns _
theorem emit_keeps (o) (s : State) : Keeps [.out] s (emit o s) := upd_out _
theorem modRing_keeps (a0 a1 a2 s) : Keeps [.fns] s (modRing a0 a1 a2 s) := by
  unfold modRing
  exact (modFn_keeps ..).mono rfl

theorem modCorpus_keeps (a0 a1 s) : Keeps [.corpora] s (modCorpus a0 a1 s) := by
  unfold modCorpus
  exact (upd_corpora _).mono rfl

theorem modRange_keeps (a0 a1 s) : Keeps [.ranges] s (modRange a0 a1 s) := by
  unfold modRange
  exact (upd_ranges _).mono rfl

theorem draw_keeps (s) : Keeps [.free] s (draw s).2 := by
  unfold draw
  refine Keeps.mk2 ?_
  exact (upd_free _).mono rfl

theorem fresh_keeps (s) : Keeps [.nextId] s (fresh s).2 := by
  unfold fresh
  refine Keeps.mk2 ?_
  exact (upd_nextId _).mono rfl

theorem count_keeps (a0 a1 a2 a3 s) : Keeps [.stats, .pvStats] s (count a0 a1 a2 a3 s) := by
  unfold count
  extract_lets -merge x0
  have hx0 : Keeps [.stats, .pvStats] s x0 := by
    unfold x0
    exact (upd_stats _).mono rfl
  clear_value x0
  split
  · exact Keeps.after (by assumption) (upd_pvStats _) rfl
  · assumption

theorem hostWrite_keeps (a0 a1 a2 s) : Keeps [.out] s (hostWrite a0 a1 a2 s) := by
  unfold hostWrite
  refine Keeps.ite ?_ ?_
  · exact (emit_keeps ..).mono rfl
  · exact Keeps.refl _ _

theorem hostRead_keeps (a0 a1 a2 s) : Keeps [.out] s (hostRead a0 a1 a2 s) := by
  unfold hostRead
  refine Keeps.ite ?_ ?_
  · exact (emit_keeps ..).mono rfl
  · exact Keeps.refl _ _

theorem fire_keeps (a0 a1 s) : Keeps [.out, .fns] s (fire a0 a1 s) := by
  unfold fire
  refine Keeps.ite ?_ ?_
  · refine Keeps.ite ?_ ?_
    · exact (modFn_keeps ..).mono rfl
    · exact (emit_keeps ..).mono rfl
  · exact Keeps.refl _ _

theorem ringIrq_keeps (a0 a1 s) : Keeps [.out, .fns] s (ringIrq a0 a1 s) := by
  unfold ringIrq
  extract_lets -merge x0 x1
  have hx0 : Keeps [.out, .fns] s x0 := by
    unfold x0
    exact (modRing_keeps ..).mono rfl
  clear_value x0
  refine Keeps.ite ?_ ?_
  · refine Keeps.ite ?_ ?_
    · refine Keeps.after ?_ (fire_keeps ..) rfl
      exact Keeps.after (by assumption) (modRing_keeps ..) rfl
    · exact Keeps.after (by assumption) (modRing_keeps ..) rfl
  · exact Keeps.after (by assumption) (modRing_keeps ..) rfl

theorem eqIrq_keeps (a0 s) : Keeps [.out, .fns] s (eqIrq a0 s) := by
  unfold eqIrq
  extract_lets -merge x0 x1
  have hx0 : Keeps [.out, .fns] s x0 := by
    unfold x0
    exact (modFn_keeps ..).mono rfl
  clear_value x0
  refine Keeps.ite ?_ ?_
  · refine Keeps.ite ?_ ?_
    · refine Keeps.after ?_ (fire_keeps ..) rfl
      exact Keeps.after (by assumption) (modFn_keeps ..) rfl
    · exact Keeps.after (by assumption) (modFn_keeps ..) rfl
  · exact Keeps.after (by assumption) (modFn_keeps ..) rfl

theorem putCq_keeps (a0 a1 a2 s) : Keeps [.out, .fns] s (putCq a0 a1 a2 s) := by
  unfold putCq
  extract_lets -merge x0 x1 x2
  have hx1 : Keeps [.out, .fns] s x1 := by
    unfold x1
    exact (hostWrite_keeps ..).mono rfl
  clear_value x1
  refine Keeps.after ?_ (ringIrq_keeps ..) rfl
  exact Keeps.after (by assumption) (modRing_keeps ..) rfl

theorem putEq_keeps (a0 a1 s) : Keeps [.out, .fns] s (putEq a0 a1 s) := by
  unfold putEq
  extract_lets -merge x0 x1 x2
  have hx1 : Keeps [.out, .fns] s x1 := by
    unfold x1
    exact (hostWrite_keeps ..).mono rfl
  clear_value x1
  refine Keeps.after ?_ (eqIrq_keeps ..) rfl
  exact Keeps.after (by assumption) (modFn_keeps ..) rfl

theorem postEventAt_keeps (a0 a1 a2 a3 a4 s) : Keeps [.out, .fns] s (postEventAt a0 a1 a2 a3 a4 s) := by
  unfold postEventAt
  extract_lets -merge x0
  refine Keeps.ite ?_ ?_
  · refine Keeps.ite ?_ ?_
    · exact (modFn_keeps ..).mono rfl
    · exact (putEq_keeps ..).mono rfl
  · exact Keeps.refl _ _

theorem postEvent_keeps (a0 a1 a2 a3 s) : Keeps [.out, .fns] s (postEvent a0 a1 a2 a3 s) := by
  unfold postEvent
  exact (postEventAt_keeps ..).mono rfl

theorem nodeEvent_keeps (a0 a1 s) : Keeps [.out, .fns] s (nodeEvent a0 a1 s) := by
  unfold nodeEvent
  exact (postEvent_keeps ..).mono rfl

theorem pvEvent_keeps (a0 a1 a2 s) : Keeps [.out, .fns] s (pvEvent a0 a1 a2 s) := by
  unfold pvEvent
  exact (postEvent_keeps ..).mono rfl

theorem settleHalt_keeps (a0 a1 s) : Keeps [.out, .fns] s (settleHalt a0 a1 s) := by
  unfold settleHalt
  extract_lets -merge x0
  refine Keeps.ite ?_ ?_
  · refine Keeps.after ?_ (putCq_keeps ..) rfl
    exact (modRing_keeps ..).mono rfl
  · exact Keeps.refl _ _

theorem haltRing_keeps (a0 a1 a2 a3 s) : Keeps [.out, .fns] s (haltRing a0 a1 a2 a3 s) := by
  unfold haltRing
  extract_lets -merge x0 x1
  have hx0 : Keeps [.out, .fns] s x0 := by
    unfold x0
    exact (modRing_keeps ..).mono rfl
  have hx1 : Keeps [.out, .fns] s x1 := by
    unfold x1
    exact Keeps.after (by assumption) (postEvent_keeps ..) rfl
  clear_value x0 x1
  refine Keeps.ite ?_ ?_
  · exact Keeps.refl _ _
  · exact Keeps.after (by assumption) (settleHalt_keeps ..) rfl

theorem complete_keeps (a0 a1 a2 a3 s) : Keeps [.out, .fns, .works] s (complete a0 a1 a2 a3 s) := by
  unfold complete
  extract_lets -merge x0 x1 x2
  have hx0 : Keeps [.out, .fns, .works] s x0 := by
    unfold x0
    exact (upd_works _).mono rfl
  have hx1 : Keeps [.out, .fns, .works] s x1 := by
    unfold x1
    exact Keeps.after (by assumption) (modRing_keeps ..) rfl
  clear_value x0 x1
  refine Keeps.ite ?_ ?_
  · exact Keeps.after (by assumption) (modRing_keeps ..) rfl
  · refine Keeps.after ?_ (settleHalt_keeps ..) rfl
    exact Keeps.after (by assumption) (putCq_keeps ..) rfl

theorem modWork_keeps (a0 a1 s) : Keeps [.works] s (modWork a0 a1 s) := by
  unfold modWork
  exact (upd_works _).mono rfl

theorem completeId_keeps (a0 a1 a2 a3 s) : Keeps [.out, .fns, .works] s (completeId a0 a1 a2 a3 s) := by
  unfold completeId
  split
  · exact (complete_keeps ..).mono rfl
  · exact Keeps.refl _ _

theorem memError_keeps (a0 a1 a2 a3 s) : Keeps [.out, .fns, .tier] s (memError a0 a1 a2 a3 s) := by
  unfold memError
  extract_lets -merge x0
  refine Keeps.after ?_ (pvEvent_keeps ..) rfl
  refine Keeps.after ?_ (upd_tier _ ?_) rfl
  · exact Keeps.refl _ _
  · rfl

theorem modChan_keeps (a0 a1 s) : Keeps [.chans] s (modChan a0 a1 s) := by
  unfold modChan
  exact (upd_chans _).mono rfl

theorem chanAck_keeps (a0 a1 s) : Keeps [.out, .fns, .chans] s (chanAck a0 a1 s) := by
  unfold chanAck
  extract_lets -merge x0 x1
  have hx1 : Keeps [.out, .fns, .chans] s x1 := by
    unfold x1
    exact (modChan_keeps ..).mono rfl
  clear_value x1
  refine Keeps.ite ?_ ?_
  · refine Keeps.ite ?_ ?_
    · exact Keeps.after (by assumption) (fire_keeps ..) rfl
    · assumption
  · exact Keeps.refl _ _

theorem blockOut_keeps (a0 a1 a2 s) : Keeps [.out] s (blockOut a0 a1 a2 s) := by
  unfold blockOut
  exact (hostWrite_keeps ..).mono rfl

theorem rxPump_keeps (s) : Keeps [.out, .fns, .lodge, .rx] s (rxPump s) := by
  unfold rxPump
  split
  · extract_lets -merge x4 x5 x6 x7
    have hx5 : Keeps [.out, .fns, .lodge, .rx] s x5 := by
      unfold x5
      exact (upd_rx _).mono rfl
    have hx7 : Keeps [.out, .fns, .lodge, .rx] s x7 := by
      unfold x7
      exact Keeps.after (by assumption) (upd_lodge _) rfl
    clear_value x5 x7
    refine Keeps.ite ?_ ?_
    · exact Keeps.refl _ _
    · refine Keeps.ite ?_ ?_
      · exact Keeps.after (by assumption) (fire_keeps ..) rfl
      · assumption
  · exact Keeps.refl _ _

theorem lodgePost_keeps (a0 a1 a2 s) : Keeps [.out, .fns, .lodge, .rx] s (lodgePost a0 a1 a2 s) := by
  unfold lodgePost
  extract_lets -merge x0 x1 x2
  have hx1 : Keeps [.out, .fns, .lodge, .rx] s x1 := by
    unfold x1
    refine Keeps.foldl ?_ (fun t3 z4 => ?_)
    · exact Keeps.refl _ _
    · exact (emit_keeps ..).mono rfl
  clear_value x1
  refine Keeps.after ?_ (rxPump_keeps ..) rfl
  exact Keeps.after (by assumption) (upd_rx _) rfl

end Sys2Proof.Machine
end

