-- ==== Sys2Proof/Laws/KeepsFabOps.lean ====
section
/-! SUPPORT. What each operation of Machine/FabOps.lean leaves alone. -/

namespace Sys2Proof.Machine

theorem chargeLink_keeps (a0 a1 a2 s) : Keeps [.qos] s (chargeLink a0 a1 a2 s) := by
  unfold chargeLink
  extract_lets -merge x0 x1
  exact (upd_qos _).mono rfl

theorem putPkt_keeps (a0 a1 s) : Keeps [.out, .stats, .pvStats, .fab, .qos] s (putPkt a0 a1 s) := by
  unfold putPkt
  extract_lets -merge x0 x1 x2 x3
  have hx2 : Keeps [.out, .stats, .pvStats, .fab, .qos] s x2 := by
    unfold x2
    refine Keeps.after ?_ (upd_fab _ ?_) rfl
    · exact Keeps.refl _ _
    · rfl
  have hx3 : Keeps [.out, .stats, .pvStats, .fab, .qos] s x3 := by
    unfold x3
    unfold when_
    refine Keeps.ite ?_ ?_
    · exact Keeps.after (by assumption) (chargeLink_keeps ..) rfl
    · assumption
  clear_value x2 x3
  refine Keeps.after ?_ (count_keeps ..) rfl
  exact Keeps.after (by assumption) (emit_keeps ..) rfl

theorem modFlow_keeps (a0 a1 s) : Keeps [.fab] s (modFlow a0 a1 s) := by
  unfold modFlow
  extract_lets -merge x0
  refine Keeps.after ?_ (upd_fab _ ?_) rfl
  · exact Keeps.refl _ _
  · rfl

theorem takeBuffer_keeps (a0 a1 s) : KeepsO [.fab] s (takeBuffer a0 a1 s) := by
  unfold takeBuffer
  split
  · refine KeepsO.some ?_
    exact (modFlow_keeps ..).mono rfl
  · split
    · split
      · extract_lets -merge x13
        refine KeepsO.some ?_
        refine Keeps.after ?_ (upd_fab _ ?_) rfl
        · exact Keeps.refl _ _
        · rfl
    · exact KeepsO.none _ _

theorem findBuffer_keeps (k port cls n s) : Keeps [.fab] s (findBuffer k port cls n s).2 := by
  induction k generalizing s with
  | zero => exact Keeps.refl _ _
  | succ k ih =>
    unfold findBuffer
    refine Keeps.ite2 ?_ ?_
    · refine Keeps.mk2 ?_
      exact Keeps.refl _ _
    · refine Keeps.ite2 ?_ ?_
      · split
        · rename_i y0 y1 y2
          have ky1 : Keeps [.fab] s y1 := by
            refine KeepsO.get y2 ?_
            refine KeepsO.after ?_ (takeBuffer_keeps ..) rfl
            exact Keeps.refl _ _
          exact Keeps.after (by assumption) (ih ..) rfl
        · refine Keeps.mk2 ?_
          exact Keeps.refl _ _
      · refine Keeps.mk2 ?_
        exact Keeps.refl _ _

theorem sendWaiting_keeps (f ps s) : Keeps [.out, .stats, .pvStats, .fab, .qos] s (sendWaiting f ps s) := by
  induction ps generalizing s with
  | nil => exact Keeps.refl _ _
  | cons p ps ih =>
    unfold sendWaiting
    refine Keeps.ite ?_ ?_
    · exact Keeps.refl _ _
    · split
      · rename_i y0 y1 y2
        have ky1 : Keeps [.out, .stats, .pvStats, .fab, .qos] s y1 := by
          refine Keeps.of2 y2 ?_
          refine Keeps.ite2 ?_ ?_
          · refine Keeps.mk2 ?_
            exact Keeps.refl _ _
          · exact (findBuffer_keeps ..).mono rfl
        refine Keeps.after ?_ (ih ..) rfl
        refine Keeps.after ?_ (putPkt_keeps ..) rfl
        exact Keeps.after (by assumption) (modFlow_keeps ..) rfl
      · rename_i y3 y4 y5
        have ky4 : Keeps [.out, .stats, .pvStats, .fab, .qos] s y4 := by
          refine Keeps.of2 y5 ?_
          refine Keeps.ite2 ?_ ?_
          · refine Keeps.mk2 ?_
            exact Keeps.refl _ _
          · exact (findBuffer_keeps ..).mono rfl
        assumption

theorem transmit_keeps (a0 a1 a2 a3 a4 a5 s) : Keeps [.out, .stats, .pvStats, .fab, .qos] s (transmit a0 a1 a2 a3 a4 a5 s) := by
  unfold transmit
  extract_lets -merge x0 x1 x2
  have hx2 : Keeps [.out, .stats, .pvStats, .fab, .qos] s x2 := by
    unfold x2
    refine Keeps.ite ?_ ?_
    · exact Keeps.refl _ _
    · refine Keeps.after ?_ (upd_fab _ ?_) rfl
      · exact Keeps.refl _ _
      · rfl
  clear_value x2
  refine Keeps.ite ?_ ?_
  · split
    · assumption
    · extract_lets -merge x8 x9
      have hx9 : Keeps [.out, .stats, .pvStats, .fab, .qos] s x9 := by
        unfold x9
        exact Keeps.after (by assumption) (modFlow_keeps ..) rfl
      clear_value x9
      refine Keeps.ite ?_ ?_
      · exact Keeps.after (by assumption) (sendWaiting_keeps ..) rfl
      · assumption
  · exact Keeps.refl _ _

theorem newMsgId_keeps (s) : Keeps [.fab] s (newMsgId s).2 := by
  unfold newMsgId
  extract_lets -merge x0
  refine Keeps.mk2 ?_
  refine Keeps.after ?_ (upd_fab _ ?_) rfl
  · exact Keeps.refl _ _
  · rfl

theorem sendBytes_keeps (a0 a1 a2 a3 a4 a5 s) : Keeps [.out, .stats, .pvStats, .fab, .qos] s (sendBytes a0 a1 a2 a3 a4 a5 s) := by
  unfold sendBytes
  extract_lets -merge x0 x1 x2 x3
  refine Keeps.ite ?_ ?_
  · refine Keeps.ite ?_ ?_
    · refine Keeps.ite ?_ ?_
      · refine Keeps.after ?_ (upd_fab _ ?_) rfl
        · exact Keeps.refl _ _
        · rfl
      · refine Keeps.after ?_ (upd_fab _ ?_) rfl
        · exact Keeps.refl _ _
        · rfl
    · exact (transmit_keeps ..).mono rfl
  · exact Keeps.refl _ _

theorem sendMsg_keeps (a0 a1 a2 a3 a4 s) : Keeps [.out, .stats, .pvStats, .fab, .qos] s (sendMsg a0 a1 a2 a3 a4 s) := by
  unfold sendMsg
  split
  · rename_i y0 y1 y2 y3
    have ky2 : Keeps [.out, .stats, .pvStats, .fab, .qos] s y2 := by
      refine Keeps.of2 y3 ?_
      exact (newMsgId_keeps ..).mono rfl
    exact Keeps.after (by assumption) (sendBytes_keeps ..) rfl

theorem sendMap_keeps (a0 a1 s) : Keeps [.fab] s (sendMap a0 a1 s) := by
  unfold sendMap
  refine Keeps.ite ?_ ?_
  · split
    · rename_i y0 y1 y2 y3
      have ky2 : Keeps [.fab] s y2 := by
        refine Keeps.of2 y3 ?_
        exact (newMsgId_keeps ..).mono rfl
      extract_lets -merge x4
      refine Keeps.after ?_ (upd_fab _ ?_) rfl
      · assumption
      · rfl
  · exact Keeps.refl _ _

theorem flushTo_keeps (a0 a1 a2 s) : Keeps [.out, .stats, .pvStats, .fab, .qos] s (flushTo a0 a1 a2 s) := by
  unfold flushTo
  extract_lets -merge x0 x1 x2
  have hx1 : Keeps [.out, .stats, .pvStats, .fab, .qos] s x1 := by
    unfold x1
    refine Keeps.foldl ?_ (fun t3 z4 => ?_)
    · exact Keeps.refl _ _
    · split
      · exact (emit_keeps ..).mono rfl
      · exact Keeps.refl _ _
  have hx2 : Keeps [.out, .stats, .pvStats, .fab, .qos] s x2 := by
    unfold x2
    refine Keeps.foldl ?_ (fun t11 z12 => ?_)
    · assumption
    · split
      · rename_i y13 y14 y15 y16
        have ky15 : Keeps [.out, .stats, .pvStats, .fab, .qos] t11 y15 := by
          refine Keeps.of2 y16 ?_
          exact (newMsgId_keeps ..).mono rfl
        exact Keeps.after (by assumption) (transmit_keeps ..) rfl
  clear_value x1 x2
  refine Keeps.foldl ?_ (fun t17 z18 => ?_)
  · assumption
  · split
    · refine Keeps.ite ?_ ?_
      · exact (transmit_keeps ..).mono rfl
      · exact Keeps.refl _ _
    · exact Keeps.refl _ _

theorem flushCoal_keeps (s) : Keeps [.out, .stats, .pvStats, .fab, .qos] s (flushCoal s) := by
  unfold flushCoal
  extract_lets -merge x0 x1 x2 x3
  have hx2 : Keeps [.out, .stats, .pvStats, .fab, .qos] s x2 := by
    unfold x2
    refine Keeps.after ?_ (upd_fab _ ?_) rfl
    · exact Keeps.refl _ _
    · rfl
  clear_value x2
  refine Keeps.foldl ?_ (fun t4 z5 => ?_)
  · assumption
  · exact (flushTo_keeps ..).mono rfl

theorem moveFlows_keeps (s) : Keeps [.fab] s (moveFlows s) := by
  unfold moveFlows
  exact (modFlow_keeps ..).mono rfl

theorem settlePort_keeps (a0 s) : Keeps [.out, .fns, .fab] s (settlePort a0 s) := by
  unfold settlePort
  extract_lets -merge x0 x1 x2 x3
  have hx3 : Keeps [.out, .fns, .fab] s x3 := by
    unfold x3
    refine Keeps.after ?_ (upd_fab _ ?_) rfl
    · exact Keeps.refl _ _
    · rfl
  clear_value x3
  refine Keeps.ite ?_ ?_
  · exact Keeps.refl _ _
  · refine Keeps.after ?_ (moveFlows_keeps ..) rfl
    exact Keeps.after (by assumption) (nodeEvent_keeps ..) rfl

theorem modPort_keeps (a0 a1 s) : Keeps [.fab] s (modPort a0 a1 s) := by
  unfold modPort
  extract_lets -merge x0
  refine Keeps.after ?_ (upd_fab _ ?_) rfl
  · exact Keeps.refl _ _
  · rfl

end Sys2Proof.Machine
end

