-- ==== Sys2Proof/Laws/KeepsCompOps.lean ====
section
/-! SUPPORT. What each operation of Machine/CompOps.lean leaves alone. -/

namespace Sys2Proof.Machine

theorem modKeeper_keeps (a0 s) : Keeps [.comp] s (modKeeper a0 s) := by
  unfold modKeeper
  extract_lets -merge x0
  refine Keeps.after ?_ (upd_comp _ ?_) rfl
  · exact Keeps.refl _ _
  · rfl

theorem sendAll_keeps (a0 a1 s) : Keeps [.fab] s (sendAll a0 a1 s) := by
  unfold sendAll
  refine Keeps.foldl ?_ (fun t0 z1 => ?_)
  · exact Keeps.refl _ _
  · exact (sendMap_keeps ..).mono rfl

theorem propResult_keeps (a0 a1 a2 s) : Keeps [.out, .fns, .works, .chans, .comp] s (propResult a0 a1 a2 s) := by
  unfold propResult
  split
  · exact Keeps.refl _ _
  · extract_lets -merge x5 x6 x7 x8 x9 x10
    have hx6 : Keeps [.out, .fns, .works, .chans, .comp] s x6 := by
      unfold x6
      refine Keeps.after ?_ (upd_comp _ ?_) rfl
      · exact Keeps.refl _ _
      · rfl
    have hx8 : Keeps [.out, .fns, .works, .chans, .comp] s x8 := by
      unfold x8
      split
      · refine Keeps.ite ?_ ?_
        · assumption
        · refine Keeps.after ?_ (upd_comp _ ?_) rfl
          · assumption
          · rfl
      · assumption
    have hx9 : Keeps [.out, .fns, .works, .chans, .comp] s x9 := by
      unfold x9
      split
      · extract_lets -merge x19 x20
        have hx20 : Keeps [.out, .fns, .works, .chans, .comp] s x20 := by
          unfold x20
          exact Keeps.after (by assumption) (blockOut_keeps ..) rfl
        clear_value x20
        exact Keeps.after (by assumption) (chanAck_keeps ..) rfl
      · assumption
    clear_value x6 x8 x9
    split
    · exact Keeps.after (by assumption) (completeId_keeps ..) rfl
    · assumption

theorem queueEntries_keeps (a0 a1 s) : Keeps [.comp] s (queueEntries a0 a1 s) := by
  unfold queueEntries
  extract_lets -merge x0 x1
  refine Keeps.after ?_ (upd_comp _ ?_) rfl
  · exact Keeps.refl _ _
  · rfl

theorem answerProp_keeps (a0 a1 a2 a3 s) : Keeps [.out, .fns, .works, .chans, .fab, .comp] s (answerProp a0 a1 a2 a3 s) := by
  unfold answerProp
  refine Keeps.ite ?_ ?_
  · exact (propResult_keeps ..).mono rfl
  · exact (sendMap_keeps ..).mono rfl

theorem commitOne_keeps (a0 s) : Keeps [.out, .fns, .works, .chans, .fab, .comp] s (commitOne a0 s) := by
  unfold commitOne
  extract_lets -merge x0 x1 x2 x3 x4
  have hx2 : Keeps [.out, .fns, .works, .chans, .fab, .comp] s x2 := by
    unfold x2
    exact (modKeeper_keeps ..).mono rfl
  have hx3 : Keeps [.out, .fns, .works, .chans, .fab, .comp] s x3 := by
    unfold x3
    refine Keeps.after ?_ (queueEntries_keeps ..) rfl
    exact Keeps.after (by assumption) (sendAll_keeps ..) rfl
  have hx4 : Keeps [.out, .fns, .works, .chans, .fab, .comp] s x4 := by
    unfold x4
    split
    · exact Keeps.after (by assumption) (sendMap_keeps ..) rfl
    · assumption
  clear_value x2 x3 x4
  exact Keeps.after (by assumption) (answerProp_keeps ..) rfl

theorem tryCommit_keeps (s) : Keeps [.out, .fns, .works, .chans, .fab, .comp] s (tryCommit s) := by
  unfold tryCommit
  extract_lets -merge x0
  refine Keeps.ite ?_ ?_
  · refine Keeps.foldl ?_ (fun t1 z2 => ?_)
    · exact Keeps.refl _ _
    · exact (commitOne_keeps ..).mono rfl
  · exact Keeps.refl _ _

theorem leaderLog_keeps (a0 a1 a2 s) : Keeps [.out, .fns, .works, .chans, .fab, .comp] s (leaderLog a0 a1 a2 s) := by
  unfold leaderLog
  extract_lets -merge x0 x1 x2
  have hx2 : Keeps [.out, .fns, .works, .chans, .fab, .comp] s x2 := by
    unfold x2
    exact (sendAll_keeps ..).mono rfl
  clear_value x2
  refine Keeps.after ?_ (tryCommit_keeps ..) rfl
  exact Keeps.after (by assumption) (modKeeper_keeps ..) rfl

theorem leaderCut_keeps (a0 a1 a2 a3 a4 a5 s) : Keeps [.out, .fns, .works, .chans, .fab, .comp] s (leaderCut a0 a1 a2 a3 a4 a5 s) := by
  unfold leaderCut
  extract_lets -merge x0 x1
  have hx1 : Keeps [.out, .fns, .works, .chans, .fab, .comp] s x1 := by
    unfold x1
    exact (modKeeper_keeps ..).mono rfl
  clear_value x1
  refine Keeps.ite ?_ ?_
  · exact (answerProp_keeps ..).mono rfl
  · refine Keeps.ite ?_ ?_
    · exact (answerProp_keeps ..).mono rfl
    · refine Keeps.ite ?_ ?_
      · exact (leaderLog_keeps ..).mono rfl
      · exact Keeps.after (by assumption) (sendAll_keeps ..) rfl

theorem sendLog_keeps (a0 s) : Keeps [.fab] s (sendLog a0 s) := by
  unfold sendLog
  exact (sendAll_keeps ..).mono rfl

theorem leaderTake_keeps (a0 a1 a2 s) : Keeps [.out, .fns, .works, .chans, .fab, .comp] s (leaderTake a0 a1 a2 s) := by
  unfold leaderTake
  split
  · exact (leaderCut_keeps ..).mono rfl
  · refine Keeps.ite ?_ ?_
    · exact (answerProp_keeps ..).mono rfl
    · refine Keeps.after ?_ (sendLog_keeps ..) rfl
      exact (leaderLog_keeps ..).mono rfl
  · refine Keeps.ite ?_ ?_
    · exact (answerProp_keeps ..).mono rfl
    · exact (leaderLog_keeps ..).mono rfl

theorem keeperLog_keeps (a0 s) : Keeps [.out, .fns, .works, .chans, .fab, .comp] s (keeperLog a0 s) := by
  unfold keeperLog
  extract_lets -merge x0
  refine Keeps.ite ?_ ?_
  · exact (leaderLog_keeps ..).mono rfl
  · exact Keeps.refl _ _

theorem propose_keeps (a0 a1 a2 s) : Keeps [.out, .fns, .works, .chans, .fab, .comp] s (propose a0 a1 a2 s) := by
  unfold propose
  extract_lets -merge x0 x1 x2
  have hx2 : Keeps [.out, .fns, .works, .chans, .fab, .comp] s x2 := by
    unfold x2
    refine Keeps.after ?_ (upd_comp _ ?_) rfl
    · exact Keeps.refl _ _
    · rfl
  clear_value x2
  refine Keeps.ite ?_ ?_
  · exact Keeps.after (by assumption) (leaderTake_keeps ..) rfl
  · split
    · exact Keeps.after (by assumption) (sendMap_keeps ..) rfl
    · split
      · exact Keeps.after (by assumption) (sendMap_keeps ..) rfl
      · assumption

theorem proposeSuspend_keeps (s) : Keeps [.out, .fns, .works, .chans, .fab, .comp] s (proposeSuspend s) := by
  unfold proposeSuspend
  refine Keeps.ite ?_ ?_
  · exact (propose_keeps ..).mono rfl
  · exact Keeps.refl _ _

end Sys2Proof.Machine
end

