-- ==== Sys2Proof/Laws/KeepsClock.lean ====
section
/-! SUPPORT. What each operation of Machine/Clock.lean leaves alone. -/

namespace Sys2Proof.Machine

theorem setAlign_keeps (a0 s) : Keeps [.out, .fns, .works, .clk, .chans, .fab, .comp] s (setAlign a0 s) := by
  unfold setAlign
  extract_lets -merge x0 x1 x2 x3 x4
  have hx3 : Keeps [.out, .fns, .works, .clk, .chans, .fab, .comp] s x3 := by
    unfold x3
    refine Keeps.after ?_ (upd_clk _ ?_) rfl
    · exact Keeps.refl _ _
    · rfl
  have hx4 : Keeps [.out, .fns, .works, .clk, .chans, .fab, .comp] s x4 := by
    unfold x4
    exact Keeps.after (by assumption) (nodeEvent_keeps ..) rfl
  clear_value x3 x4
  refine Keeps.ite ?_ ?_
  · exact Keeps.refl _ _
  · refine Keeps.ite ?_ ?_
    · exact Keeps.after (by assumption) (proposeSuspend_keeps ..) rfl
    · assumption

theorem tickClock_keeps (a0 s) : Keeps [.clk, .words] s (tickClock a0 s) := by
  unfold tickClock
  extract_lets -merge x0
  exact (touch_clk _).mono rfl

theorem alignFrame_keeps (k s) : Keeps [.out, .fns, .works, .clk, .chans, .fab, .comp] s (alignFrame k s) := by
  have fromZero : ∀ t a (c : Clock), ({ t with clk := c } : State).words = t.words → Keeps [.out, .fns, .works, .clk, .chans, .fab, .comp] t (setAlign a { t with clk := c }) :=
    fun t a c h => ((Keeps.refl _ _).after (upd_clk c h) rfl).after (setAlign_keeps ..) rfl
  have goTo : ∀ t a, Keeps [.out, .fns, .works, .clk, .chans, .fab, .comp] t (setAlign a t) := fun t a => (setAlign_keeps ..).mono rfl
  have choose : ∀ t (w : Option Align) (c : Clock), ({ t with clk := c } : State).words = t.words → Keeps [.out, .fns, .works, .clk, .chans, .fab, .comp] t
      (if t.clk.timeSrc = 0 then setAlign .free { t with clk := c } else if t.clk.far then setAlign .unaligned t
        else match w with | some a => if t.clk.due a then setAlign a t else t | none => t) := by
    intro t w c h
    refine Keeps.ite (fromZero _ _ _ h) (Keeps.ite (goTo _ _) ?_)
    cases w with
    | some a => exact Keeps.ite (goTo _ _) (Keeps.refl _ _)
    | none => exact Keeps.refl _ _
  have steer : ∀ t, Keeps [.out, .fns, .works, .clk, .chans, .fab, .comp] t { t with clk := t.clk.countGood.steer k } := fun t => (Keeps.refl _ _).after (upd_clk _ rfl) rfl
  unfold alignFrame
  extract_lets want c t c' u
  have h1 : Keeps [.out, .fns, .works, .clk, .chans, .fab, .comp] s t := (Keeps.refl _ _).after (upd_clk _ rfl) rfl
  have h2 : Keeps [.out, .fns, .works, .clk, .chans, .fab, .comp] t u := choose t want _ rfl
  clear_value c' u t
  exact (h1.then_ h2).then_ (steer u)

theorem askAlign_keeps (a0 s) : Keeps [.clk] s (askAlign a0 s) := by
  unfold askAlign
  unfold when_
  refine Keeps.ite ?_ ?_
  · beta_reduce
    extract_lets -merge x0
    refine Keeps.after ?_ (upd_clk _ ?_) rfl
    · exact Keeps.refl _ _
    · rfl
  · exact Keeps.refl _ _

end Sys2Proof.Machine
end

