-- ==== Sys2Proof/Laws/KeepsMemOps.lean ====
section
/-! SUPPORT. What each operation of Machine/MemOps.lean leaves alone. -/

namespace Sys2Proof.Machine

theorem modPage_keeps (a0 a1 a2 s) : Keeps [.ranges] s (modPage a0 a1 a2 s) := by
  unfold modPage
  exact (modRange_keeps ..).mono rfl

theorem modStack_keeps (a0 a1 s) : Keeps [.scan] s (modStack a0 a1 s) := by
  unfold modStack
  extract_lets -merge x0
  refine Keeps.after ?_ (upd_scan _ ?_) rfl
  · exact Keeps.refl _ _
  · rfl

theorem countCe_keeps (a0 s) : Keeps [.stats, .pvStats, .scan] s (countCe a0 s) := by
  unfold countCe
  refine Keeps.after ?_ (count_keeps ..) rfl
  exact (modStack_keeps ..).mono rfl

theorem countUe_keeps (a0 s) : Keeps [.stats, .pvStats, .scan] s (countUe a0 s) := by
  unfold countUe
  refine Keeps.after ?_ (count_keeps ..) rfl
  exact (modStack_keeps ..).mono rfl

theorem t2Read_keeps (a0 a1 a2 s) : Keeps [.out] s (t2Read a0 a1 a2 s) := by
  unfold t2Read
  extract_lets -merge x0
  refine Keeps.foldl ?_ (fun t1 z2 => ?_)
  · exact Keeps.refl _ _
  · extract_lets -merge x3
    refine Keeps.ite ?_ ?_
    · exact (emit_keeps ..).mono rfl
    · exact Keeps.refl _ _

theorem t2Write_keeps (a0 a1 a2 s) : Keeps [.out, .ranges] s (t2Write a0 a1 a2 s) := by
  unfold t2Write
  extract_lets -merge x0 x1 x2
  have hx2 : Keeps [.out, .ranges] s x2 := by
    unfold x2
    refine Keeps.foldl ?_ (fun t3 z4 => ?_)
    · exact Keeps.refl _ _
    · extract_lets -merge x5
      refine Keeps.ite ?_ ?_
      · exact (emit_keeps ..).mono rfl
      · exact Keeps.refl _ _
  clear_value x2
  exact Keeps.after (by assumption) (modRange_keeps ..) rfl

theorem readWords_keeps (a0 a1 a2 a3 a4 s) : Keeps [.out, .fns, .stats, .pvStats, .ranges, .tier, .scan] s (readWords a0 a1 a2 a3 a4 s).2 := by
  unfold readWords
  refine Keeps.foldl2 ?_ (fun t0 z1 => ?_)
  · refine Keeps.mk2 ?_
    exact Keeps.refl _ _
  · extract_lets -merge x2
    refine Keeps.ite2 ?_ ?_
    · refine Keeps.foldl2 ?_ (fun t3 z4 => ?_)
      · exact Keeps.refl _ _
      · unfold readWord
        split
        · rename_i y5 y6 y7
          extract_lets -merge x8 x9 x10 x11
          have hx9 : ∀ a12 a13, Keeps [.out, .fns, .stats, .pvStats, .ranges, .tier, .scan] a13 (x9 a12 a13) := by
            intro a12 a13
            unfold x9
            exact (modRange_keeps ..).mono rfl
          have hx11 : Keeps [.out, .fns, .stats, .pvStats, .ranges, .tier, .scan] ((y6, y7).2) x11 := by
            unfold x11
            refine Keeps.ite ?_ ?_
            · exact (t2Read_keeps ..).mono rfl
            · exact Keeps.refl _ _
          clear_value x9 x11
          split
          · refine Keeps.mk2 ?_
            refine Keeps.after ?_ (countCe_keeps ..) rfl
            refine Keeps.then_ ?_ (hx9 ..)
            exact Keeps.refl _ _
          · refine Keeps.ite2 ?_ ?_
            · refine Keeps.mk2 ?_
              refine Keeps.after ?_ (countCe_keeps ..) rfl
              refine Keeps.then_ ?_ (hx9 ..)
              assumption
            · refine Keeps.mk2 ?_
              refine Keeps.after ?_ (countUe_keeps ..) rfl
              exact (memError_keeps ..).mono rfl
    · exact Keeps.refl _ _

theorem touch_keeps (a0 a1 a2 s) : Keeps [.ranges] s (touch a0 a1 a2 s) := by
  unfold touch
  extract_lets -merge x0
  exact (modRange_keeps ..).mono rfl

theorem readFor_keeps (a0 a1 a2 a3 s) : Keeps [.out, .fns, .stats, .pvStats, .ranges, .tier, .scan] s (readFor a0 a1 a2 a3 s).2 := by
  unfold readFor
  extract_lets -merge x0 x1 x2
  have hx2 : Keeps [.out, .fns, .stats, .pvStats, .ranges, .tier, .scan] s x2 := by
    unfold x2
    refine Keeps.ite ?_ ?_
    · exact (t2Read_keeps ..).mono rfl
    · exact Keeps.refl _ _
  clear_value x2
  split
  · rename_i y3 y4 y5 y6
    have ky5 : Keeps [.out, .fns, .stats, .pvStats, .ranges, .tier, .scan] s y5 := by
      refine Keeps.of2 y6 ?_
      exact Keeps.after (by assumption) (readWords_keeps ..) rfl
    refine Keeps.mk2 ?_
    assumption
  · rename_i y7 y8 y9
    have ky8 : Keeps [.out, .fns, .stats, .pvStats, .ranges, .tier, .scan] s y8 := by
      refine Keeps.of2 y9 ?_
      exact Keeps.after (by assumption) (readWords_keeps ..) rfl
    refine Keeps.ite2 ?_ ?_
    · refine Keeps.mk2 ?_
      exact Keeps.after (by assumption) (memError_keeps ..) rfl
    · refine Keeps.ite2 ?_ ?_
      · refine Keeps.mk2 ?_
        assumption
      · refine Keeps.mk2 ?_
        exact Keeps.after (by assumption) (touch_keeps ..) rfl

theorem noteMiss_keeps (a0 a1 a2 s) : Keeps [.ranges] s (noteMiss a0 a1 a2 s) := by
  unfold noteMiss
  extract_lets -merge x0 x1
  exact (modRange_keeps ..).mono rfl

theorem addOp_keeps (a0 a1 a2 a3 a4 a5 a6 a7 s) : Keeps [.nextId, .flash] s (addOp a0 a1 a2 a3 a4 a5 a6 a7 s) := by
  unfold addOp
  split
  · rename_i y0 y1 y2 y3
    have ky2 : Keeps [.nextId, .flash] s y2 := by
      refine Keeps.of2 y3 ?_
      exact (fresh_keeps ..).mono rfl
    extract_lets -merge x4
    refine Keeps.after ?_ (upd_flash _ ?_) rfl
    · assumption
    · rfl

theorem askRead_keeps (a0 a1 a2 a3 a4 s) : Keeps [.nextId, .flash] s (askRead a0 a1 a2 a3 a4 s) := by
  unfold askRead
  split
  · exact (addOp_keeps ..).mono rfl
  · exact Keeps.refl _ _

theorem askKib_keeps (a0 a1 a2 a3 a4 s) : Keeps [.nextId, .flash] s (askKib a0 a1 a2 a3 a4 s) := by
  unfold askKib
  refine Keeps.foldl ?_ (fun t0 z1 => ?_)
  · exact Keeps.refl _ _
  · refine Keeps.ite ?_ ?_
    · exact (askRead_keeps ..).mono rfl
    · exact Keeps.refl _ _

theorem askPage_keeps (a0 a1 s) : Keeps [.nextId, .flash] s (askPage a0 a1 s) := by
  unfold askPage
  refine Keeps.foldl ?_ (fun t0 z1 => ?_)
  · exact Keeps.refl _ _
  · exact (askRead_keeps ..).mono rfl

theorem noteQuota_keeps (a0 a1 s) : Keeps [.qos] s (noteQuota a0 a1 s) := by
  unfold noteQuota
  extract_lets -merge x0 x1 x2 x3
  refine Keeps.ite ?_ ?_
  · exact (upd_qos _).mono rfl
  · exact Keeps.refl _ _

theorem putUnit_keeps (a0 a1 a2 a3 a4 a5 a6 s) : Keeps [.nextId, .flash] s (putUnit a0 a1 a2 a3 a4 a5 a6 s) := by
  unfold putUnit
  extract_lets -merge x0 x1
  refine Keeps.ite ?_ ?_
  · refine Keeps.after ?_ (upd_flash _ ?_) rfl
    · exact Keeps.refl _ _
    · rfl
  · split
    · rename_i y2 y3 y4 y5
      have ky4 : Keeps [.nextId, .flash] s y4 := by
        refine Keeps.of2 y5 ?_
        exact (fresh_keeps ..).mono rfl
      extract_lets -merge x6
      refine Keeps.after ?_ (upd_flash _ ?_) rfl
      · assumption
      · rfl

theorem requeueCopy_keeps (a0 a1 s) : Keeps [.works, .ranges, .flash] s (requeueCopy a0 a1 s) := by
  unfold requeueCopy
  extract_lets -merge x0 x1 x2 x3
  have hx2 : Keeps [.works, .ranges, .flash] s x2 := by
    unfold x2
    refine Keeps.after ?_ (upd_flash _ ?_) rfl
    · exact Keeps.refl _ _
    · rfl
  have hx3 : Keeps [.works, .ranges, .flash] s x3 := by
    unfold x3
    exact Keeps.after (by assumption) (modPage_keeps ..) rfl
  clear_value x2 x3
  clear_value x0
  split
  · exact Keeps.after (by assumption) (modWork_keeps ..) rfl
  · assumption

theorem gcRoom_keeps (a0 s) : KeepsO [.works, .ranges, .flash] s (gcRoom a0 s) := by
  unfold gcRoom
  refine KeepsO.ite ?_ ?_
  · refine KeepsO.some ?_
    exact Keeps.refl _ _
  · refine KeepsO.ite ?_ ?_
    · exact KeepsO.none _ _
    · split
      · extract_lets -merge x3
        have hx3 : Keeps [.works, .ranges, .flash] s x3 := by
          unfold x3
          exact (requeueCopy_keeps ..).mono rfl
        clear_value x3
        refine KeepsO.ite ?_ ?_
        · refine KeepsO.some ?_
          assumption
        · exact KeepsO.none _ _
      · exact KeepsO.none _ _

theorem unitToT3_keeps (a0 a1 a2 a3 a4 a5 s) : Keeps [.nextId, .ranges, .flash] s (unitToT3 a0 a1 a2 a3 a4 a5 s) := by
  unfold unitToT3
  extract_lets -merge x0 x1
  have hx1 : Keeps [.nextId, .ranges, .flash] s x1 := by
    unfold x1
    exact (modRange_keeps ..).mono rfl
  clear_value x1
  exact Keeps.after (by assumption) (putUnit_keeps ..) rfl

theorem writeThrough_keeps (a0 a1 a2 a3 s) : Keeps [.nextId, .out, .ranges, .flash] s (writeThrough a0 a1 a2 a3 s) := by
  unfold writeThrough
  extract_lets -merge x0 x1 x2 x3 x4 x5 x6 x7
  have hx6 : Keeps [.nextId, .out, .ranges, .flash] s x6 := by
    unfold x6
    exact (modRange_keeps ..).mono rfl
  have hx7 : Keeps [.nextId, .out, .ranges, .flash] s x7 := by
    unfold x7
    refine Keeps.ite ?_ ?_
    · exact Keeps.after (by assumption) (emit_keeps ..) rfl
    · assumption
  clear_value x6 x7
  refine Keeps.foldl ?_ (fun t8 z9 => ?_)
  · assumption
  · exact (putUnit_keeps ..).mono rfl

theorem commitUnit_keeps (a0 a1 a2 s) : Keeps [.ranges, .flash] s (commitUnit a0 a1 a2 s) := by
  unfold commitUnit
  extract_lets -merge x0 x1 x2
  have hx2 : Keeps [.ranges, .flash] s x2 := by
    unfold x2
    refine Keeps.after ?_ (upd_flash _ ?_) rfl
    · exact Keeps.refl _ _
    · rfl
  clear_value x2
  refine Keeps.ite ?_ ?_
  · exact Keeps.after (by assumption) (modRange_keeps ..) rfl
  · assumption

theorem flushPools_keeps (s) : Keeps [.ranges, .flash] s (flushPools s).2 := by
  unfold flushPools
  extract_lets -merge x0 x1 x2 x3
  have hx1 : Keeps [.ranges, .flash] s x1 := by
    unfold x1
    refine Keeps.foldl ?_ (fun t4 z5 => ?_)
    · exact Keeps.refl _ _
    · exact (commitUnit_keeps ..).mono rfl
  clear_value x1
  refine Keeps.mk2 ?_
  refine Keeps.after ?_ (upd_flash _ ?_) rfl
  · assumption
  · rfl

end Sys2Proof.Machine
end

