-- ==== Sys2Proof/Laws/KeepsCorpusOps.lean ====
section
/-! SUPPORT. What each operation of Machine/CorpusOps.lean leaves alone. -/

namespace Sys2Proof.Machine

theorem loadWeights_keeps (a0 s) : Keeps [.scan] s (loadWeights a0 s) := by
  unfold loadWeights
  extract_lets -merge x0 x1 x2
  refine Keeps.after ?_ (upd_scan _ ?_) rfl
  · exact Keeps.refl _ _
  · rfl

theorem freeElems_keeps (a0 s) : Keeps [.corpora] s (freeElems a0 s) := by
  unfold freeElems
  extract_lets -merge x0
  exact (modCorpus_keeps ..).mono rfl

theorem fixQuad_keeps (a0 a1 s) : Keeps [.comp] s (fixQuad a0 a1 s) := by
  unfold fixQuad
  extract_lets -merge x0
  refine Keeps.ite ?_ ?_
  · exact Keeps.refl _ _
  · refine Keeps.after ?_ (upd_comp _ ?_) rfl
    · exact Keeps.refl _ _
    · rfl

theorem numberElem_keeps (p vs s) : KeepsOP [.corpora] s (numberElem p vs s) := by
  unfold numberElem
  refine KeepsOP.foldl (KeepsOP.some (Keeps.refl _ _)) (fun o x h => ?_)
  cases o with
  | none => exact KeepsOP.none _ _
  | some y =>
    have hy := h.all y.1 y.2 rfl
    dsimp only
    split
    · exact KeepsOP.some hy
    · split
      · exact KeepsOP.some hy
      · split
        · exact KeepsOP.some (hy.after (modCorpus_keeps ..) rfl)
        · exact KeepsOP.none _ _

theorem writeElem_keeps (a0 a1 s) : Keeps [.nextId, .out, .ranges, .flash] s (writeElem a0 a1 s) := by
  unfold writeElem
  extract_lets -merge x0 x1
  refine Keeps.foldl ?_ (fun t2 z3 => ?_)
  · exact Keeps.refl _ _
  · extract_lets -merge x4
    have hx4 : Keeps [.nextId, .out, .ranges, .flash] t2 x4 := by
      unfold x4
      exact (writeThrough_keeps ..).mono rfl
    clear_value x4
    refine Keeps.ite ?_ ?_
    · assumption
    · exact Keeps.after (by assumption) (writeThrough_keeps ..) rfl

theorem appendEnt_keeps (a0 a1 a2 a3 s) : Keeps [.nextId, .stats, .pvStats, .corpora, .flash] s (appendEnt a0 a1 a2 a3 s) := by
  unfold appendEnt
  extract_lets -merge x0 x1
  have hx0 : Keeps [.nextId, .stats, .pvStats, .corpora, .flash] s x0 := by
    unfold x0
    exact (modCorpus_keeps ..).mono rfl
  have hx1 : Keeps [.nextId, .stats, .pvStats, .corpora, .flash] s x1 := by
    unfold x1
    exact Keeps.after (by assumption) (putUnit_keeps ..) rfl
  clear_value x0 x1
  exact Keeps.after (by assumption) (count_keeps ..) rfl

theorem appendElem_keeps (a0 a1 a2 a3 a4 a5 a6 a7 s) : Keeps [.nextId, .stats, .pvStats, .corpora, .flash, .comp] s (appendElem a0 a1 a2 a3 a4 a5 a6 a7 s) := by
  unfold appendElem
  extract_lets -merge x0 x1 x2
  have hx1 : ∀ a3 a4 a5 a6 a7 a8, Keeps [.nextId, .stats, .pvStats, .corpora, .flash, .comp] a3 (x1 a3 a4 a5 a6 a7 a8) := by
    intro a3 a4 a5 a6 a7 a8
    unfold x1
    refine Keeps.after ?_ (appendEnt_keeps ..) rfl
    exact (fixQuad_keeps ..).mono rfl
  have hx2 : Keeps [.nextId, .stats, .pvStats, .corpora, .flash, .comp] s x2 := by
    unfold x2
    refine Keeps.ite ?_ ?_
    · refine Keeps.foldl ?_ (fun t9 z10 => ?_)
      · exact Keeps.refl _ _
      · refine Keeps.ite ?_ ?_
        · refine Keeps.then_ ?_ (hx1 ..)
          exact Keeps.refl _ _
        · exact (modCorpus_keeps ..).mono rfl
    · refine Keeps.foldl ?_ (fun t11 z12 => ?_)
      · exact Keeps.refl _ _
      · split
        · refine Keeps.ite ?_ ?_
          · refine Keeps.then_ ?_ (hx1 ..)
            exact Keeps.refl _ _
          · exact (modCorpus_keeps ..).mono rfl
        · exact Keeps.refl _ _
  clear_value x1 x2
  exact Keeps.after (by assumption) (modCorpus_keeps ..) rfl

theorem dropElem_keeps (a0 a1 s) : Keeps [.corpora] s (dropElem a0 a1 s) := by
  unfold dropElem
  exact (modCorpus_keeps ..).mono rfl

end Sys2Proof.Machine
end

