-- ==== Sys2Proof/Laws/KeepsPages.lean ====
section
/-! SUPPORT. What each operation of Machine/Pages.lean leaves alone. -/

namespace Sys2Proof.Machine

theorem readSubs_keeps (a0 a1 a2 s) : Keeps [.out, .fns, .stats, .pvStats, .ranges, .tier, .scan] s (readSubs a0 a1 a2 s) := by
  unfold readSubs
  extract_lets -merge x0 x1
  have hx1 : Keeps [.out, .fns, .stats, .pvStats, .ranges, .tier, .scan] s x1 := by
    unfold x1
    exact (t2Read_keeps ..).mono rfl
  clear_value x1
  refine Keeps.ite ?_ ?_
  · refine Keeps.ite ?_ ?_
    · exact Keeps.after (by assumption) (memError_keeps ..) rfl
    · assumption
  · exact (readWords_keeps ..).mono rfl

theorem copyDown_keeps (a0 a1 a2 a3 a4 s) : Keeps [.nextId, .out, .fns, .stats, .pvStats, .ranges, .tier, .scan, .flash] s (copyDown a0 a1 a2 a3 a4 s) := by
  unfold copyDown
  extract_lets -merge x0 x1 x2 x3
  have hx1 : Keeps [.nextId, .out, .fns, .stats, .pvStats, .ranges, .tier, .scan, .flash] s x1 := by
    unfold x1
    exact (readSubs_keeps ..).mono rfl
  clear_value x1
  refine Keeps.foldl ?_ (fun t4 z5 => ?_)
  · assumption
  · exact (unitToT3_keeps ..).mono rfl

theorem beginDown_keeps (a0 a1 a2 a3 a4 s) : Keeps [.nextId, .out, .fns, .stats, .pvStats, .ranges, .tier, .scan, .flash, .qos] s (beginDown a0 a1 a2 a3 a4 s).2 := by
  unfold beginDown
  extract_lets -merge x0 x1 x2 x3 x4
  have hx3 : ∀ a5, Keeps [.nextId, .out, .fns, .stats, .pvStats, .ranges, .tier, .scan, .flash, .qos] a5 (x3 a5) := by
    intro a5
    unfold x3
    exact (modPage_keeps ..).mono rfl
  clear_value x3
  refine Keeps.ite2 ?_ ?_
  · refine Keeps.mk2 ?_
    exact Keeps.refl _ _
  · refine Keeps.ite2 ?_ ?_
    · refine Keeps.ite2 ?_ ?_
      · refine Keeps.ite2 ?_ ?_
        · refine Keeps.mk2 ?_
          refine Keeps.after ?_ (askPage_keeps ..) rfl
          refine Keeps.then_ ?_ (hx3 ..)
          exact Keeps.refl _ _
        · refine Keeps.mk2 ?_
          refine Keeps.after ?_ (t2Write_keeps ..) rfl
          refine Keeps.after ?_ (readSubs_keeps ..) rfl
          refine Keeps.then_ ?_ (hx3 ..)
          exact Keeps.refl _ _
      · refine Keeps.mk2 ?_
        exact Keeps.refl _ _
    · refine Keeps.ite2 ?_ ?_
      · refine Keeps.mk2 ?_
        exact (noteQuota_keeps ..).mono rfl
      · refine Keeps.ite2 ?_ ?_
        · refine Keeps.mk2 ?_
          exact Keeps.refl _ _
        · refine Keeps.mk2 ?_
          refine Keeps.after ?_ (copyDown_keeps ..) rfl
          refine Keeps.then_ ?_ (hx3 ..)
          exact Keeps.refl _ _

theorem switchPage_keeps (a0 a1 a2 s) : Keeps [.out, .ranges] s (switchPage a0 a1 a2 s) := by
  unfold switchPage
  extract_lets -merge x0
  have hx0 : Keeps [.out, .ranges] s x0 := by
    unfold x0
    refine Keeps.ite ?_ ?_
    · exact (t2Write_keeps ..).mono rfl
    · exact Keeps.refl _ _
  clear_value x0
  exact Keeps.after (by assumption) (modRange_keeps ..) rfl

theorem migrated_keeps (s) : Keeps [.tier] s (migrated s) := by
  unfold migrated
  extract_lets -merge x0
  refine Keeps.after ?_ (upd_tier _ ?_) rfl
  · exact Keeps.refl _ _
  · rfl

theorem demoteFirst_keeps (p gs s) : Keeps [.nextId, .out, .fns, .stats, .pvStats, .ranges, .tier, .scan, .flash, .qos] s (demoteFirst p gs s).2 := by
  induction gs generalizing s with
  | nil => exact Keeps.refl _ _
  | cons g gs ih =>
    unfold demoteFirst
    extract_lets -merge x0
    refine Keeps.ite2 ?_ ?_
    · refine Keeps.mk2 ?_
      refine Keeps.after ?_ (migrated_keeps ..) rfl
      exact (switchPage_keeps ..).mono rfl
    · split
      · rename_i y1 y2 y3 y4
        have ky3 : Keeps [.nextId, .out, .fns, .stats, .pvStats, .ranges, .tier, .scan, .flash, .qos] s y3 := by
          refine Keeps.of2 y4 ?_
          exact (beginDown_keeps ..).mono rfl
        exact Keeps.after (by assumption) (ih ..) rfl
      · rename_i y5 y6 y7 y8 y9
        have ky7 : Keeps [.nextId, .out, .fns, .stats, .pvStats, .ranges, .tier, .scan, .flash, .qos] s y7 := by
          refine Keeps.of2 y9 ?_
          exact (beginDown_keeps ..).mono rfl
        refine Keeps.mk2 ?_
        assumption

theorem freeFrame_keeps (a0 s) : Keeps [.nextId, .out, .fns, .stats, .pvStats, .ranges, .tier, .scan, .flash, .qos] s (freeFrame a0 s).2 := by
  unfold freeFrame
  extract_lets -merge x0
  refine Keeps.ite2 ?_ ?_
  · refine Keeps.mk2 ?_
    exact Keeps.refl _ _
  · refine Keeps.ite2 ?_ ?_
    · refine Keeps.mk2 ?_
      exact Keeps.refl _ _
    · exact (demoteFirst_keeps ..).mono rfl

theorem beginUp_keeps (a0 a1 a2 a3 s) : Keeps [.nextId, .out, .fns, .stats, .pvStats, .ranges, .tier, .scan, .flash, .qos] s (beginUp a0 a1 a2 a3 s).2 := by
  unfold beginUp
  refine Keeps.ite2 ?_ ?_
  · refine Keeps.mk2 ?_
    exact Keeps.refl _ _
  · split
    · rename_i y0 y1 y2
      have ky1 : Keeps [.nextId, .out, .fns, .stats, .pvStats, .ranges, .tier, .scan, .flash, .qos] s y1 := by
        refine Keeps.of2 y2 ?_
        exact (freeFrame_keeps ..).mono rfl
      extract_lets -merge x3
      have hx3 : Keeps [.nextId, .out, .fns, .stats, .pvStats, .ranges, .tier, .scan, .flash, .qos] s x3 := by
        unfold x3
        exact Keeps.after (by assumption) (modPage_keeps ..) rfl
      clear_value x3
      refine Keeps.mk2 ?_
      refine Keeps.ite ?_ ?_
      · exact Keeps.after (by assumption) (askPage_keeps ..) rfl
      · exact Keeps.after (by assumption) (t2Read_keeps ..) rfl
    · exact (freeFrame_keeps ..).mono rfl

theorem promote_keeps (a0 a1 s) : Keeps [.nextId, .out, .fns, .stats, .pvStats, .ranges, .tier, .scan, .flash, .qos] s (promote a0 a1 s) := by
  unfold promote
  split
  · exact (beginUp_keeps ..).mono rfl
  · exact (beginUp_keeps ..).mono rfl
  · exact Keeps.refl _ _

theorem landPage_keeps (a0 a1 s) : Keeps [.ranges] s (landPage a0 a1 s) := by
  unfold landPage
  extract_lets -merge x0 x1
  exact (modRange_keeps ..).mono rfl

theorem intoT1_keeps (a0 a1 s) : Keeps [.nextId, .out, .fns, .stats, .pvStats, .ranges, .tier, .scan, .flash, .qos] s (intoT1 a0 a1 s).2 := by
  unfold intoT1
  extract_lets -merge x0
  refine Keeps.ite2 ?_ ?_
  · refine Keeps.mk2 ?_
    exact Keeps.refl _ _
  · refine Keeps.ite2 ?_ ?_
    · split
      · rename_i y1 y2 y3
        have ky2 : Keeps [.nextId, .out, .fns, .stats, .pvStats, .ranges, .tier, .scan, .flash, .qos] s y2 := by
          refine Keeps.of2 y3 ?_
          exact (freeFrame_keeps ..).mono rfl
        refine Keeps.mk2 ?_
        exact Keeps.after (by assumption) (landPage_keeps ..) rfl
      · exact (freeFrame_keeps ..).mono rfl
    · refine Keeps.ite2 ?_ ?_
      · refine Keeps.mk2 ?_
        exact Keeps.refl _ _
      · split
        · rename_i y6 y7 y8
          have ky7 : Keeps [.nextId, .out, .fns, .stats, .pvStats, .ranges, .tier, .scan, .flash, .qos] s y7 := by
            refine Keeps.of2 y8 ?_
            exact (beginUp_keeps ..).mono rfl
          refine Keeps.mk2 ?_
          assumption
        · exact (beginUp_keeps ..).mono rfl

theorem allIntoT1_keeps (p ns s) : Keeps [.nextId, .out, .fns, .stats, .pvStats, .ranges, .tier, .scan, .flash, .qos] s (allIntoT1 p ns s).2 := by
  induction ns generalizing s with
  | nil => exact Keeps.refl _ _
  | cons n ns ih =>
    unfold allIntoT1
    split
    · rename_i y0 y1 y2
      have ky1 : Keeps [.nextId, .out, .fns, .stats, .pvStats, .ranges, .tier, .scan, .flash, .qos] s y1 := by
        refine Keeps.of2 y2 ?_
        exact (intoT1_keeps ..).mono rfl
      exact Keeps.after (by assumption) (ih ..) rfl
    · exact (intoT1_keeps ..).mono rfl

theorem writeBack_keeps (a0 a1 a2 s) : Keeps [.nextId, .out, .fns, .stats, .pvStats, .ranges, .tier, .scan, .flash, .qos] s (writeBack a0 a1 a2 s).2 := by
  unfold writeBack
  extract_lets -merge x0
  split
  · rename_i y1 y2 y3
    have ky2 : Keeps [.nextId, .out, .fns, .stats, .pvStats, .ranges, .tier, .scan, .flash, .qos] s y2 := by
      refine Keeps.of2 y3 ?_
      exact (allIntoT1_keeps ..).mono rfl
    refine Keeps.ite2 ?_ ?_
    · refine Keeps.mk2 ?_
      assumption
    · split
      · rename_i y4 y5 y6 y7
        have ky6 : Keeps [.nextId, .out, .fns, .stats, .pvStats, .ranges, .tier, .scan, .flash, .qos] s y6 := by
          refine Keeps.of2 y7 ?_
          exact Keeps.after (by assumption) (readWords_keeps ..) rfl
        refine Keeps.mk2 ?_
        assumption
      · rename_i y8 y9 y10
        have ky9 : Keeps [.nextId, .out, .fns, .stats, .pvStats, .ranges, .tier, .scan, .flash, .qos] s y9 := by
          refine Keeps.of2 y10 ?_
          exact Keeps.after (by assumption) (readWords_keeps ..) rfl
        extract_lets -merge x11
        refine Keeps.mk2 ?_
        exact Keeps.after (by assumption) (modRange_keeps ..) rfl
  · exact (allIntoT1_keeps ..).mono rfl

theorem endTier_keeps (a0 a1 s) : Keeps [.out, .fns, .works] s (endTier a0 a1 s) := by
  unfold endTier
  exact (complete_keeps ..).mono rfl

theorem startWork_keeps (a0 s) : Keeps [.works] s (startWork a0 s) := by
  unfold startWork
  exact (modWork_keeps ..).mono rfl

theorem setPins_keeps (a0 a1 a2 s) : Keeps [.ranges] s (setPins a0 a1 a2 s) := by
  unfold setPins
  exact (modRange_keeps ..).mono rfl

theorem beginPage_keeps (a0 a1 s) : Keeps [.nextId, .out, .fns, .works, .stats, .pvStats, .ranges, .tier, .scan, .flash, .qos] s (beginPage a0 a1 s).2 := by
  unfold beginPage
  extract_lets -merge x0 x1
  refine Keeps.ite2 ?_ ?_
  · refine Keeps.mk2 ?_
    exact Keeps.refl _ _
  · refine Keeps.ite2 ?_ ?_
    · refine Keeps.ite2 ?_ ?_
      · refine Keeps.mk2 ?_
        refine Keeps.after ?_ (modWork_keeps ..) rfl
        refine Keeps.after ?_ (migrated_keeps ..) rfl
        exact (switchPage_keeps ..).mono rfl
      · exact (beginDown_keeps ..).mono rfl
    · refine Keeps.ite2 ?_ ?_
      · exact (intoT1_keeps ..).mono rfl
      · exact (beginUp_keeps ..).mono rfl

theorem tierGo_keeps (n wid s) : Keeps [.nextId, .out, .fns, .works, .stats, .pvStats, .ranges, .tier, .scan, .flash, .qos] s (tierGo n wid s) := by
  induction n generalizing s with
  | zero => exact Keeps.refl _ _
  | succ n ih =>
    unfold tierGo
    split
    · exact Keeps.refl _ _
    · extract_lets -merge x5 x6
      refine Keeps.ite ?_ ?_
      · exact Keeps.refl _ _
      · refine Keeps.ite ?_ ?_
        · exact (endTier_keeps ..).mono rfl
        · split
          · split
            · rename_i y10 y11 y12
              have ky11 : Keeps [.nextId, .out, .fns, .works, .stats, .pvStats, .ranges, .tier, .scan, .flash, .qos] s y11 := by
                refine Keeps.of2 y12 ?_
                exact (beginPage_keeps ..).mono rfl
              refine Keeps.after ?_ (ih ..) rfl
              exact Keeps.after (by assumption) (modWork_keeps ..) rfl
            · rename_i y13 y14 y15
              have ky14 : Keeps [.nextId, .out, .fns, .works, .stats, .pvStats, .ranges, .tier, .scan, .flash, .qos] s y14 := by
                refine Keeps.of2 y15 ?_
                exact (beginPage_keeps ..).mono rfl
              assumption
            · rename_i y16 y17 y18 y19
              have ky18 : Keeps [.nextId, .out, .fns, .works, .stats, .pvStats, .ranges, .tier, .scan, .flash, .qos] s y18 := by
                refine Keeps.of2 y19 ?_
                exact (beginPage_keeps ..).mono rfl
              exact Keeps.after (by assumption) (endTier_keeps ..) rfl
          · refine Keeps.ite ?_ ?_
            · refine Keeps.after ?_ (endTier_keeps ..) rfl
              exact (setPins_keeps ..).mono rfl
            · exact (endTier_keeps ..).mono rfl

theorem tierNext_keeps (a0 s) : Keeps [.nextId, .out, .fns, .works, .stats, .pvStats, .ranges, .tier, .scan, .flash, .qos] s (tierNext a0 s) := by
  unfold tierNext
  exact (tierGo_keeps ..).mono rfl

theorem flushPage_keeps (p d w no s) : Keeps [.nextId, .out, .fns, .works, .stats, .pvStats, .ranges, .tier, .scan, .flash] s (flushPage p d w no s).2 := by
  unfold flushPage
  extract_lets g skip note clean down
  have hn : ∀ t, Keeps [.nextId, .out, .fns, .works, .stats, .pvStats, .ranges, .tier, .scan, .flash] t (note t) := fun t => (modWork_keeps ..).mono rfl
  have hc : ∀ t, Keeps [.nextId, .out, .fns, .works, .stats, .pvStats, .ranges, .tier, .scan, .flash] t (clean t) := fun t => (modPage_keeps ..).mono rfl
  have hd : ∀ us after, (∀ t, Keeps [.nextId, .out, .fns, .works, .stats, .pvStats, .ranges, .tier, .scan, .flash] t (after t)) → Keeps [.nextId, .out, .fns, .works, .stats, .pvStats, .ranges, .tier, .scan, .flash] s (down us after).2 := by
    intro us after h
    exact Keeps.ite2 ((((Keeps.refl _ _).after (copyDown_keeps ..) rfl).then_ (h _)).then_ (hn _)) (Keeps.refl _ _)
  clear_value down note clean
  split
  · exact Keeps.ite2 (Keeps.refl _ _) (hd _ _ hc)
  · refine Keeps.ite2 (hd _ _ fun t => Keeps.refl _ t) (Keeps.ite2 (Keeps.refl _ _) ?_)
    exact ((((Keeps.refl _ _).after (readSubs_keeps ..) rfl).after (t2Write_keeps ..) rfl).then_ (hc _)).then_ (hn _)
  · exact Keeps.ite2 (hd _ _ fun t => Keeps.refl _ t) (Keeps.refl _ _)
  · exact Keeps.ite2 (hd _ _ fun t => Keeps.refl _ t) (Keeps.refl _ _)
  · exact Keeps.refl _ _

theorem flushGo_keeps (a0 s) : Keeps [.nextId, .out, .fns, .works, .stats, .pvStats, .ranges, .tier, .scan, .flash] s (flushGo a0 s) := by
  unfold flushGo
  split
  · exact Keeps.refl _ _
  · extract_lets -merge x5 x6
    split
    · rename_i y7 y8 y9 y10
      have ky9 : Keeps [.nextId, .out, .fns, .works, .stats, .pvStats, .ranges, .tier, .scan, .flash] s y9 := by
        refine Keeps.of2 y10 ?_
        refine Keeps.foldl2 ?_ (fun t11 z12 => ?_)
        · refine Keeps.mk2 ?_
          exact Keeps.refl _ _
        · refine Keeps.ite2 ?_ ?_
          · split
            · rename_i y13 y14 y15
              have ky14 : Keeps [.nextId, .out, .fns, .works, .stats, .pvStats, .ranges, .tier, .scan, .flash] (t11.2) y14 := by
                refine Keeps.of2 y15 ?_
                exact (flushPage_keeps ..).mono rfl
              refine Keeps.mk2 ?_
              exact Keeps.after (by assumption) (modWork_keeps ..) rfl
            · rename_i y16 y17 y18
              have ky17 : Keeps [.nextId, .out, .fns, .works, .stats, .pvStats, .ranges, .tier, .scan, .flash] (t11.2) y17 := by
                refine Keeps.of2 y18 ?_
                exact (flushPage_keeps ..).mono rfl
              refine Keeps.mk2 ?_
              assumption
          · exact Keeps.refl _ _
      refine Keeps.ite ?_ ?_
      · split
        · exact Keeps.after (by assumption) (complete_keeps ..) rfl
        · assumption
      · assumption

theorem tierAll_keeps (s) : Keeps [.nextId, .out, .fns, .works, .stats, .pvStats, .ranges, .tier, .scan, .flash, .qos] s (tierAll s) := by
  unfold tierAll
  refine Keeps.foldl ?_ (fun t0 z1 => ?_)
  · exact Keeps.refl _ _
  · refine Keeps.ite ?_ ?_
    · exact (flushGo_keeps ..).mono rfl
    · refine Keeps.ite ?_ ?_
      · exact (tierNext_keeps ..).mono rfl
      · exact Keeps.refl _ _

end Sys2Proof.Machine
end

