-- ==== Sys2Proof/Laws/KeepsFlash.lean ====
section
/-! SUPPORT. What each operation of Machine/Flash.lean leaves alone. -/

namespace Sys2Proof.Machine

theorem modFlash_keeps (g) (s : State) (h : (modFlash g s).words = s.words) : Keeps [.flash] s (modFlash g s) := upd_flash _ h
theorem modFlash_touch (g) (s : State) : Keeps [.flash, .words] s (modFlash g s) := touch_flash _

/-- The words of the flash store that the invariant speaks of. -/
def Flash.conf (f : Flash) : W32 × W32 × W32 × W32 := (f.cfg, f.cfgEff, f.warn, f.warnEff)
theorem words_of_conf {s : State} {f : Flash} (h : f.conf = s.flash.conf) : ({ s with flash := f } : State).words = s.words := by
  simp only [Flash.conf, Prod.mk.injEq] at h
  obtain ⟨a, b, c, d⟩ := h
  simp only [State.words, a, b, c, d]
@[simp] theorem Flash.modBlock_conf (f : Flash) (b g) : (f.modBlock b g).conf = f.conf := rfl
@[simp] theorem Flash.modDie_conf (f : Flash) (d g) : (f.modDie d g).conf = f.conf := rfl
@[simp] theorem Flash.modStripe_conf (f : Flash) (q i g) : (f.modStripe q i g).conf = f.conf := rfl
@[simp] theorem Flash.endOps_conf (f : Flash) (g) : (f.endOps g).conf = f.conf := rfl
@[simp] theorem Flash.openBlock_conf (slc res h f b) : (Flash.openBlock slc res h f b).conf = f.conf := rfl
@[simp] theorem Flash.takePages_conf (n f b) : (Flash.takePages n f b).conf = f.conf := rfl
theorem Flash.foldl_conf {α : Type} (g : Flash → α → Flash) (h : ∀ f x, (g f x).conf = f.conf) (l : List α) (f : Flash) :
    (l.foldl g f).conf = f.conf := by
  induction l generalizing f with
  | nil => rfl
  | cons x l ih => exact (ih _).trans (h ..)
theorem modFlash_conf (g) (s : State) (h : (g s.flash).conf = s.flash.conf) : Keeps [.flash] s (modFlash g s) := upd_flash _ (words_of_conf h)
theorem warn_keeps (a0 a1 s) : Keeps [.out, .fns, .flash] s (warn a0 a1 s) := by
  unfold warn
  refine Keeps.ite ?_ ?_
  · refine Keeps.after ?_ (nodeEvent_keeps ..) rfl
    refine Keeps.after ?_ (modFlash_keeps _ _ ?_) rfl
    · exact Keeps.refl _ _
    · rfl
  · exact Keeps.refl _ _

theorem checkHealth_keeps (s) : Keeps [.out, .fns, .flash] s (checkHealth s) := by
  unfold checkHealth
  extract_lets -merge x0 x1 x2 x3 x4 x5 x6
  have hx1 : Keeps [.out, .fns, .flash] s x1 := by
    unfold x1
    refine Keeps.ite ?_ ?_
    · exact (warn_keeps ..).mono rfl
    · exact Keeps.refl _ _
  have hx3 : Keeps [.out, .fns, .flash] s x3 := by
    unfold x3
    refine Keeps.ite ?_ ?_
    · exact Keeps.after (by assumption) (warn_keeps ..) rfl
    · assumption
  have hx4 : Keeps [.out, .fns, .flash] s x4 := by
    unfold x4
    refine Keeps.after ?_ (modFlash_keeps _ _ ?_) rfl
    · assumption
    · rfl
  have hx6 : Keeps [.out, .fns, .flash] s x6 := by
    unfold x6
    refine Keeps.ite ?_ ?_
    · exact Keeps.after (by assumption) (warn_keeps ..) rfl
    · assumption
  clear_value x1 x3 x4 x6
  refine Keeps.after ?_ (modFlash_keeps _ _ ?_) rfl
  · assumption
  · rfl

theorem nandCmd_keeps (a0 a1 a2 s) : Keeps [.out] s (nandCmd a0 a1 a2 s) := by
  unfold nandCmd
  exact (emit_keeps ..).mono rfl

theorem initDie_keeps (s a1) : Keeps [.out] s (initDie s a1) := by
  unfold initDie
  refine Keeps.foldl ?_ (fun t0 z1 => ?_)
  · exact Keeps.refl _ _
  · exact (nandCmd_keeps ..).mono rfl

theorem doReplay_keeps (a0 s) : Keeps [.out, .fns, .flash] s (doReplay a0 s) := by
  unfold doReplay
  refine Keeps.ite ?_ ?_
  · refine Keeps.after ?_ (checkHealth_keeps ..) rfl
    refine Keeps.after ?_ (modFlash_keeps _ _ ?_) rfl
    · refine Keeps.foldl ?_ (fun t0 z1 => ?_)
      · exact Keeps.refl _ _
      · exact (initDie_keeps ..).mono rfl
    · rfl
  · exact Keeps.refl _ _

theorem askProgram_keeps (a0 a1 a2 a3 s) : Keeps [.nextId, .flash] s (askProgram a0 a1 a2 a3 s) := by
  unfold askProgram
  extract_lets -merge x0 x1
  exact (addOp_keeps ..).mono rfl

theorem askGroup_keeps (a0 s) : Keeps [.nextId, .flash] s (askGroup a0 s) := by
  unfold askGroup
  refine Keeps.foldl ?_ (fun t0 z1 => ?_)
  · exact Keeps.refl _ _
  · split
    · refine Keeps.foldl ?_ (fun t5 z6 => ?_)
      · exact Keeps.refl _ _
      · exact (askProgram_keeps ..).mono rfl

theorem openGroup_keeps (s g) : Keeps [.nextId, .flash] s (openGroup s g) := by
  unfold openGroup
  extract_lets f f1 n ids stripe w f2
  refine Keeps.ite ?_ (Keeps.refl _ _)
  have h1 : f1.conf = s.flash.conf := Flash.foldl_conf (Flash.openBlock g.slc (g.gkind == 2) s.hfn) (fun _ _ => rfl) _ _
  have h2 : f2.conf = f1.conf := Flash.foldl_conf (Flash.takePages g.stripes.length) (fun _ _ => rfl) _ _
  have h3 : ∀ f3 : Flash, f3.conf = f2.conf → Keeps [.nextId, .flash] s (askGroup w { s with flash := f3 }) := fun f3 h3 =>
    ((Keeps.refl _ _).after (upd_flash f3 (words_of_conf (h3.trans (h2.trans h1)))) rfl).after (askGroup_keeps ..) rfl
  exact h3 _ rfl

theorem doProgram_keeps (q i pos s) : Keeps [.nextId, .out, .stats, .pvStats, .flash] s (doProgram q i pos s) := by
  unfold doProgram
  split
  · exact Keeps.refl _ _
  split
  · exact Keeps.refl _ _
  refine Keeps.ite ?_ (Keeps.refl _ _)
  extract_lets blk die t u v w
  have hu : Keeps [.nextId, .out, .stats, .pvStats, .flash] s u := (nandCmd_keeps ..).mono rfl
  have hv : Keeps [.nextId, .out, .stats, .pvStats, .flash] s v := by
    unfold v
    clear_value u
    refine hu.after (modFlash_conf _ _ ?_) rfl
    rw [Flash.modDie_conf, Flash.modBlock_conf, Flash.modStripe_conf, Flash.endOps_conf]
  clear_value v
  have hw : Keeps [.nextId, .out, .stats, .pvStats, .flash] s w := (hv.after (modFlash_keeps _ _ rfl) rfl).after (count_keeps ..) rfl
  clear_value w
  exact Keeps.ite (hw.after (askProgram_keeps ..) rfl) hw

theorem commitPage_keeps (a0 s a2) : Keeps [.stats, .pvStats, .ranges, .flash] s (commitPage a0 s a2) := by
  unfold commitPage
  split
  · exact Keeps.refl _ _
  · extract_lets -merge x5 x6
    have hx5 : Keeps [.stats, .pvStats, .ranges, .flash] s x5 := by
      unfold x5
      refine Keeps.ite ?_ ?_
      · exact Keeps.refl _ _
      · exact (commitUnit_keeps ..).mono rfl
    have hx6 : Keeps [.stats, .pvStats, .ranges, .flash] s x6 := by
      unfold x6
      refine Keeps.ite ?_ ?_
      · exact Keeps.after (by assumption) (count_keeps ..) rfl
      · assumption
    clear_value x5 x6
    refine Keeps.after ?_ (modFlash_keeps _ _ ?_) rfl
    · assumption
    · rfl

theorem doCommit_keeps (a0 s) : Keeps [.nextId, .out, .fns, .works, .stats, .pvStats, .ranges, .tier, .scan, .flash, .qos] s (doCommit a0 s) := by
  unfold doCommit
  split
  · exact Keeps.refl _ _
  · extract_lets -merge x5
    have hx5 : Keeps [.nextId, .out, .fns, .works, .stats, .pvStats, .ranges, .tier, .scan, .flash, .qos] s x5 := by
      unfold x5
      refine Keeps.foldl ?_ (fun t6 z7 => ?_)
      · exact Keeps.refl _ _
      · exact (commitPage_keeps ..).mono rfl
    clear_value x5
    refine Keeps.ite ?_ ?_
    · refine Keeps.after ?_ (tierAll_keeps ..) rfl
      refine Keeps.after ?_ (modFlash_keeps _ _ ?_) rfl
      · assumption
      · rfl
    · exact Keeps.refl _ _

theorem doRetire_keeps (a0 s) : Keeps [.out, .fns, .stats, .pvStats, .flash] s (doRetire a0 s) := by
  unfold doRetire
  split
  · exact Keeps.refl _ _
  · extract_lets -merge x5
    have hx5 : Keeps [.out, .fns, .stats, .pvStats, .flash] s x5 := by
      unfold x5
      refine Keeps.after ?_ (modFlash_keeps _ _ ?_) rfl
      · exact Keeps.refl _ _
      · rfl
    clear_value x5
    refine Keeps.ite ?_ ?_
    · refine Keeps.after ?_ (checkHealth_keeps ..) rfl
      refine Keeps.after ?_ (count_keeps ..) rfl
      exact Keeps.after (by assumption) (warn_keeps ..) rfl
    · exact Keeps.refl _ _

theorem failDie_keeps (a0 s) : Keeps [.out, .fns, .stats, .pvStats, .flash] s (failDie a0 s) := by
  unfold failDie
  extract_lets -merge x0
  have hx0 : Keeps [.out, .fns, .stats, .pvStats, .flash] s x0 := by
    unfold x0
    refine Keeps.after ?_ (modFlash_keeps _ _ ?_) rfl
    · exact Keeps.refl _ _
    · rfl
  clear_value x0
  refine Keeps.ite ?_ ?_
  · exact Keeps.after (by assumption) (doRetire_keeps ..) rfl
  · assumption

theorem askRedo_keeps (a0 a1 s) : Keeps [.nextId, .flash] s (askRedo a0 a1 s) := by
  unfold askRedo
  split
  · exact Keeps.refl _ _
  · refine Keeps.foldl ?_ (fun t5 z6 => ?_)
    · exact Keeps.refl _ _
    · split
      · refine Keeps.ite ?_ ?_
        · refine Keeps.foldl ?_ (fun t10 z11 => ?_)
          · exact Keeps.refl _ _
          · split
            · refine Keeps.ite ?_ ?_
              · exact Keeps.refl _ _
              · exact (askProgram_keeps ..).mono rfl
        · exact Keeps.refl _ _

theorem doProgramFail_keeps (gc q blk new die s) : Keeps [.nextId, .out, .fns, .stats, .pvStats, .flash] s (doProgramFail gc q blk new die s) := by
  unfold doProgramFail
  split
  · exact Keeps.refl _ _
  extract_lets hit mine chan old redo xors next u v w
  refine Keeps.ite ?_ (Keeps.refl _ _)
  have hu : Keeps [.nextId, .out, .fns, .stats, .pvStats, .flash] s u := (Keeps.refl _ _).after (modFlash_conf _ _ (by simp [Flash.conf, Flash.modBlock, Flash.openBlock, Flash.endOps])) rfl
  clear_value u
  have hv : Keeps [.nextId, .out, .fns, .stats, .pvStats, .flash] s v := hu.after (askRedo_keeps ..) rfl
  clear_value v
  have hw : Keeps [.nextId, .out, .fns, .stats, .pvStats, .flash] s w := by
    unfold w
    split
    · refine Keeps.foldl hv fun t x => ?_
      split
      · exact (askProgram_keeps ..).mono rfl
      · exact Keeps.refl _ _
    · exact hv
  clear_value w
  exact ((hw.after (count_keeps ..) rfl).after (failDie_keeps ..) rfl).after (checkHealth_keeps ..) rfl

theorem doGc_keeps (a0 s) : Keeps [.nextId, .works, .ranges, .flash] s (doGc a0 s) := by
  unfold doGc
  split
  · exact Keeps.refl _ _
  · extract_lets -merge x5
    refine Keeps.ite ?_ ?_
    · refine Keeps.foldl ?_ (fun t6 z7 => ?_)
      · exact Keeps.refl _ _
      · split
        · refine Keeps.ite ?_ ?_
          · exact Keeps.refl _ _
          · split
            · rename_i y11 y12 y13
              have ky12 : Keeps [.nextId, .works, .ranges, .flash] t6 y12 := by
                refine KeepsO.get y13 ?_
                refine KeepsO.after ?_ (gcRoom_keeps ..) rfl
                exact Keeps.refl _ _
              refine Keeps.after ?_ (askRead_keeps ..) rfl
              exact Keeps.after (by assumption) (putUnit_keeps ..) rfl
            · exact Keeps.refl _ _
        · exact Keeps.refl _ _
    · exact Keeps.refl _ _

theorem doSourceErase_keeps (a0 s) : Keeps [.nextId, .flash] s (doSourceErase a0 s) := by
  unfold doSourceErase
  split
  · exact Keeps.refl _ _
  · extract_lets -merge x5
    refine Keeps.ite ?_ ?_
    · refine Keeps.after ?_ (addOp_keeps ..) rfl
      refine Keeps.after ?_ (modFlash_keeps _ _ ?_) rfl
      · exact Keeps.refl _ _
      · rfl
    · exact Keeps.refl _ _

theorem doEraseDone_keeps (blk s) : Keeps [.out, .fns, .stats, .pvStats, .flash] s (doEraseDone blk s) := by
  unfold doEraseDone
  split
  · exact Keeps.refl _ _
  refine Keeps.ite ?_ (Keeps.refl _ _)
  refine Keeps.after ?_ (checkHealth_keeps ..) rfl
  refine Keeps.after ?_ (count_keeps ..) rfl
  exact (Keeps.refl _ _).after (modFlash_conf _ _ (by simp [Flash.conf, Flash.modBlock, Flash.modDie, Flash.endOps])) rfl

theorem doEraseFail_keeps (a0 s) : Keeps [.out, .fns, .stats, .pvStats, .flash] s (doEraseFail a0 s) := by
  unfold doEraseFail
  split
  · exact Keeps.refl _ _
  · refine Keeps.ite ?_ ?_
    · refine Keeps.after ?_ (failDie_keeps ..) rfl
      refine Keeps.after ?_ (count_keeps ..) rfl
      refine Keeps.after ?_ (modFlash_keeps _ _ ?_) rfl
      · exact Keeps.refl _ _
      · rfl
    · exact Keeps.refl _ _

theorem doCkptStart_keeps (s) : Keeps [.flash] s (doCkptStart s) := by
  unfold doCkptStart
  refine Keeps.ite ?_ ?_
  · refine Keeps.after ?_ (modFlash_keeps _ _ ?_) rfl
    · exact Keeps.refl _ _
    · rfl
  · exact Keeps.refl _ _

theorem doRoot_keeps (s) : Keeps [.flash] s (doRoot s) := by
  unfold doRoot
  split
  · refine Keeps.ite ?_ ?_
    · refine Keeps.after ?_ (modFlash_keeps _ _ ?_) rfl
      · exact Keeps.refl _ _
      · rfl
    · exact Keeps.refl _ _
  · exact Keeps.refl _ _

theorem unreadable_keeps (a0 s) : Keeps [.out, .fns, .stats, .pvStats, .flash] s (unreadable a0 s) := by
  unfold unreadable
  extract_lets -merge x0
  have hx0 : Keeps [.out, .fns, .stats, .pvStats, .flash] s x0 := by
    unfold x0
    refine Keeps.after ?_ (modFlash_keeps _ _ ?_) rfl
    · exact Keeps.refl _ _
    · rfl
  clear_value x0
  refine Keeps.ite ?_ ?_
  · exact Keeps.refl _ _
  · refine Keeps.after ?_ (count_keeps ..) rfl
    exact Keeps.after (by assumption) (warn_keeps ..) rfl

theorem dropCopyOf_keeps (a0 s) : Keeps [.flash] s (dropCopyOf a0 s) := by
  unfold dropCopyOf
  refine Keeps.ite ?_ ?_
  · refine Keeps.after ?_ (modFlash_keeps _ _ ?_) rfl
    · exact Keeps.refl _ _
    · rfl
  · exact Keeps.refl _ _

theorem readDone_keeps (a0 a1 s) : Keeps [.nextId, .out, .fns, .works, .stats, .pvStats, .ranges, .flash] s (readDone a0 a1 s) := by
  unfold readDone
  extract_lets -merge x0 x1 x2
  have hx0 : Keeps [.nextId, .out, .fns, .works, .stats, .pvStats, .ranges, .flash] s x0 := by
    unfold x0
    refine Keeps.after ?_ (modFlash_keeps _ _ ?_) rfl
    · exact Keeps.refl _ _
    · rfl
  have hx1 : Keeps [.nextId, .out, .fns, .works, .stats, .pvStats, .ranges, .flash] s x1 := by
    unfold x1
    refine Keeps.foldl ?_ (fun t3 z4 => ?_)
    · assumption
    · extract_lets -merge x5
      refine Keeps.ite ?_ ?_
      · exact Keeps.refl _ _
      · exact (count_keeps ..).mono rfl
  have hx2 : Keeps [.nextId, .out, .fns, .works, .stats, .pvStats, .ranges, .flash] s x2 := by
    unfold x2
    refine Keeps.ite ?_ ?_
    · refine Keeps.after ?_ (modFlash_keeps _ _ ?_) rfl
      · assumption
      · rfl
    · assumption
  clear_value x0 x1 x2
  refine Keeps.ite ?_ ?_
  · refine Keeps.after ?_ (dropCopyOf_keeps ..) rfl
    refine Keeps.ite ?_ ?_
    · exact Keeps.after (by assumption) (unreadable_keeps ..) rfl
    · assumption
  · refine Keeps.ite ?_ ?_
    · split
      · rename_i y6 y7 y8
        have ky7 : Keeps [.nextId, .out, .fns, .works, .stats, .pvStats, .ranges, .flash] s y7 := by
          refine KeepsO.get y8 ?_
          refine KeepsO.after ?_ (gcRoom_keeps ..) rfl
          assumption
        exact Keeps.after (by assumption) (putUnit_keeps ..) rfl
      · assumption
    · assumption

theorem doAgeClose_keeps (a0 s) : Keeps [.flash] s (doAgeClose a0 s) := by
  unfold doAgeClose
  refine Keeps.ite ?_ ?_
  · refine Keeps.after ?_ (modFlash_keeps _ _ ?_) rfl
    · exact Keeps.refl _ _
    · rfl
  · exact Keeps.refl _ _

theorem doTempPoll_keeps (a0 a1 s) : Keeps [.out, .fns, .flash] s (doTempPoll a0 a1 s) := by
  unfold doTempPoll
  extract_lets -merge x0 x1
  have hx0 : Keeps [.out, .fns, .flash] s x0 := by
    unfold x0
    refine Keeps.foldl ?_ (fun t2 z3 => ?_)
    · exact Keeps.refl _ _
    · refine Keeps.ite ?_ ?_
      · exact Keeps.refl _ _
      · exact (nandCmd_keeps ..).mono rfl
  have hx1 : Keeps [.out, .fns, .flash] s x1 := by
    unfold x1
    refine Keeps.after ?_ (modFlash_keeps _ _ ?_) rfl
    · assumption
    · rfl
  clear_value x0 x1
  refine Keeps.ite ?_ ?_
  · refine Keeps.ite ?_ ?_
    · exact Keeps.after (by assumption) (warn_keeps ..) rfl
    · assumption
  · exact Keeps.refl _ _

theorem doRetryWindow_keeps (s) : Keeps [.out, .fns, .flash] s (doRetryWindow s) := by
  unfold doRetryWindow
  extract_lets -merge x0 x1
  have hx1 : Keeps [.out, .fns, .flash] s x1 := by
    unfold x1
    refine Keeps.ite ?_ ?_
    · exact (warn_keeps ..).mono rfl
    · exact Keeps.refl _ _
  clear_value x1
  refine Keeps.ite ?_ ?_
  · refine Keeps.after ?_ (modFlash_keeps _ _ ?_) rfl
    · assumption
    · rfl
  · exact Keeps.refl _ _

theorem writeFlash_keeps (a0 a1 s) : Keeps [.flash, .words] s (writeFlash a0 a1 s) := by
  unfold writeFlash
  extract_lets -merge x0 x1
  refine Keeps.ite ?_ ?_
  · refine Keeps.ite ?_ ?_
    · refine Keeps.ite ?_ ?_
      · refine Keeps.after ?_ (modFlash_keeps _ _ ?_) rfl
        · exact Keeps.refl _ _
        · rfl
      · exact (modFlash_touch ..).mono rfl
    · refine Keeps.ite ?_ ?_
      · refine Keeps.after ?_ (modFlash_keeps _ _ ?_) rfl
        · exact Keeps.refl _ _
        · rfl
      · refine Keeps.ite ?_ ?_
        · refine Keeps.ite ?_ ?_
          · refine Keeps.after ?_ (modFlash_keeps _ _ ?_) rfl
            · exact Keeps.refl _ _
            · rfl
          · exact (modFlash_touch ..).mono rfl
        · refine Keeps.ite ?_ ?_
          · refine Keeps.after ?_ (modFlash_keeps _ _ ?_) rfl
            · exact Keeps.refl _ _
            · rfl
          · exact Keeps.refl _ _
  · exact Keeps.refl _ _

theorem flashFrame_keeps (s) : Keeps [.flash, .words] s (flashFrame s) := by
  unfold flashFrame
  exact (modFlash_touch ..).mono rfl

end Sys2Proof.Machine
end

