-- ==== Sys2Proof/Laws/KeepsLodge.lean ====
section
/-! SUPPORT. What each operation of Machine/Lodge.lean leaves alone. -/

namespace Sys2Proof.Machine

theorem modLodge_keeps (a0 s) : Keeps [.lodge] s (modLodge a0 s) := by
  unfold modLodge
  exact (upd_lodge _).mono rfl

theorem addLog_keeps (a0 a1 a2 s) : Keeps [.lodge] s (addLog a0 a1 a2 s) := by
  unfold addLog
  extract_lets -merge x0
  exact (modLodge_keeps ..).mono rfl

theorem logImage_keeps (a0 a1 a2 a3 s) : Keeps [.lodge] s (logImage a0 a1 a2 a3 s) := by
  unfold logImage
  exact (addLog_keeps ..).mono rfl

theorem readBlock_keeps (a0 a1 s) : Keeps [.out] s (readBlock a0 a1 s) := by
  unfold readBlock
  exact (hostRead_keeps ..).mono rfl

theorem doAttest_keeps (a0 s) : Keeps [.out, .fns, .chans] s (doAttest a0 s) := by
  unfold doAttest
  unfold lodgeBlock
  extract_lets -merge x0
  have hx0 : Keeps [.out, .fns, .chans] s x0 := by
    unfold x0
    exact (readBlock_keeps ..).mono rfl
  clear_value x0
  refine Keeps.ite ?_ ?_
  · refine Keeps.ite ?_ ?_
    · exact (chanAck_keeps ..).mono rfl
    · refine Keeps.ite ?_ ?_
      · exact (chanAck_keeps ..).mono rfl
      · split
        · exact Keeps.after (by assumption) (chanAck_keeps ..) rfl
        · beta_reduce
          refine Keeps.ite ?_ ?_
          · refine Keeps.after ?_ (chanAck_keeps ..) rfl
            refine Keeps.after ?_ (blockOut_keeps ..) rfl
            exact Keeps.after (by assumption) (hostWrite_keeps ..) rfl
          · exact Keeps.after (by assumption) (chanAck_keeps ..) rfl
  · exact Keeps.refl _ _

theorem doIdentity_keeps (a0 s) : Keeps [.out, .fns, .chans] s (doIdentity a0 s) := by
  unfold doIdentity
  unfold lodgeBlock
  extract_lets -merge x0
  have hx0 : Keeps [.out, .fns, .chans] s x0 := by
    unfold x0
    exact (readBlock_keeps ..).mono rfl
  clear_value x0
  refine Keeps.ite ?_ ?_
  · refine Keeps.ite ?_ ?_
    · exact (chanAck_keeps ..).mono rfl
    · refine Keeps.ite ?_ ?_
      · exact (chanAck_keeps ..).mono rfl
      · split
        · exact Keeps.after (by assumption) (chanAck_keeps ..) rfl
        · beta_reduce
          extract_lets -merge x6 x7
          have hx7 : Keeps [.out, .fns, .chans] s x7 := by
            unfold x7
            exact Keeps.after (by assumption) (hostWrite_keeps ..) rfl
          clear_value x7
          refine Keeps.ite ?_ ?_
          · refine Keeps.after ?_ (chanAck_keeps ..) rfl
            refine Keeps.after ?_ (blockOut_keeps ..) rfl
            exact Keeps.after (by assumption) (hostWrite_keeps ..) rfl
          · exact Keeps.after (by assumption) (chanAck_keeps ..) rfl
  · exact Keeps.refl _ _

theorem doLogRead_keeps (a0 s) : Keeps [.out, .fns, .chans] s (doLogRead a0 s) := by
  unfold doLogRead
  unfold lodgeBlock
  extract_lets -merge x0
  have hx0 : Keeps [.out, .fns, .chans] s x0 := by
    unfold x0
    exact (readBlock_keeps ..).mono rfl
  clear_value x0
  refine Keeps.ite ?_ ?_
  · refine Keeps.ite ?_ ?_
    · exact (chanAck_keeps ..).mono rfl
    · refine Keeps.ite ?_ ?_
      · exact (chanAck_keeps ..).mono rfl
      · split
        · exact Keeps.after (by assumption) (chanAck_keeps ..) rfl
        · beta_reduce
          extract_lets -merge x6
          refine Keeps.after ?_ (chanAck_keeps ..) rfl
          refine Keeps.after ?_ (blockOut_keeps ..) rfl
          exact Keeps.after (by assumption) (hostWrite_keeps ..) rfl
  · exact Keeps.refl _ _

theorem stageAck_keeps (a0 s) : Keeps [.out, .fns, .chans] s (stageAck a0 s) := by
  unfold stageAck
  refine Keeps.ite ?_ ?_
  · refine Keeps.after ?_ (chanAck_keeps ..) rfl
    refine Keeps.ite ?_ ?_
    · exact (blockOut_keeps ..).mono rfl
    · exact Keeps.refl _ _
  · exact Keeps.refl _ _

theorem endStage_keeps (a0 a1 s) : Keeps [.out, .fns, .lodge, .chans] s (endStage a0 a1 s) := by
  unfold endStage
  extract_lets -merge x0 x1 x2 x3 x4
  have hx3 : Keeps [.out, .fns, .lodge, .chans] s x3 := by
    unfold x3
    exact (modLodge_keeps ..).mono rfl
  have hx4 : Keeps [.out, .fns, .lodge, .chans] s x4 := by
    unfold x4
    exact Keeps.after (by assumption) (modLodge_keeps ..) rfl
  clear_value x3 x4
  refine Keeps.ite ?_ ?_
  · refine Keeps.after ?_ (stageAck_keeps ..) rfl
    exact Keeps.after (by assumption) (logImage_keeps ..) rfl
  · exact Keeps.after (by assumption) (stageAck_keeps ..) rfl

theorem doImageStage_keeps (a0 a1 a2 s) : Keeps [.out, .fns, .lodge, .chans] s (doImageStage a0 a1 a2 s) := by
  unfold doImageStage
  refine Keeps.ite ?_ ?_
  · split
    · refine Keeps.ite ?_ ?_
      · exact (endStage_keeps ..).mono rfl
      · exact Keeps.refl _ _
    · exact Keeps.refl _ _
  · unfold lodgeBlock
    extract_lets -merge x6
    have hx6 : Keeps [.out, .fns, .lodge, .chans] s x6 := by
      unfold x6
      exact (readBlock_keeps ..).mono rfl
    clear_value x6
    refine Keeps.ite ?_ ?_
    · refine Keeps.ite ?_ ?_
      · exact (chanAck_keeps ..).mono rfl
      · refine Keeps.ite ?_ ?_
        · exact (chanAck_keeps ..).mono rfl
        · split
          · exact Keeps.after (by assumption) (chanAck_keeps ..) rfl
          · beta_reduce
            extract_lets -merge x12
            have hx12 : Keeps [.out, .fns, .lodge, .chans] s x12 := by
              unfold x12
              exact Keeps.after (by assumption) (hostRead_keeps ..) rfl
            clear_value x12
            refine Keeps.ite ?_ ?_
            · exact Keeps.after (by assumption) (chanAck_keeps ..) rfl
            · refine Keeps.ite ?_ ?_
              · exact Keeps.after (by assumption) (chanAck_keeps ..) rfl
              · refine Keeps.ite ?_ ?_
                · exact Keeps.after (by assumption) (chanAck_keeps ..) rfl
                · split
                  · exact Keeps.after (by assumption) (chanAck_keeps ..) rfl
                  · refine Keeps.after ?_ (modChan_keeps ..) rfl
                    exact Keeps.after (by assumption) (modLodge_keeps ..) rfl
    · exact Keeps.refl _ _

theorem doRollbackCommit_keeps (s) : Keeps [.out, .fns, .lodge, .chans, .rx] s (doRollbackCommit s) := by
  unfold doRollbackCommit
  unfold lodgeImm
  refine Keeps.ite ?_ ?_
  · refine Keeps.ite ?_ ?_
    · exact (chanAck_keeps ..).mono rfl
    · refine Keeps.ite ?_ ?_
      · exact (chanAck_keeps ..).mono rfl
      · beta_reduce
        refine Keeps.ite ?_ ?_
        · exact (chanAck_keeps ..).mono rfl
        · split
          · exact (chanAck_keeps ..).mono rfl
          · extract_lets -merge x5 x6 x7
            have hx6 : Keeps [.out, .fns, .lodge, .chans, .rx] s x6 := by
              unfold x6
              exact (modLodge_keeps ..).mono rfl
            have hx7 : Keeps [.out, .fns, .lodge, .chans, .rx] s x7 := by
              unfold x7
              exact Keeps.after (by assumption) (addLog_keeps ..) rfl
            clear_value x6 x7
            refine Keeps.ite ?_ ?_
            · exact (chanAck_keeps ..).mono rfl
            · refine Keeps.after ?_ (chanAck_keeps ..) rfl
              exact Keeps.after (by assumption) (lodgePost_keeps ..) rfl
  · exact Keeps.refl _ _

theorem doLcNonce_keeps (a0 s) : Keeps [.out, .fns, .lodge, .chans] s (doLcNonce a0 s) := by
  unfold doLcNonce
  unfold lodgeBlock
  extract_lets -merge x0
  have hx0 : Keeps [.out, .fns, .lodge, .chans] s x0 := by
    unfold x0
    exact (readBlock_keeps ..).mono rfl
  clear_value x0
  refine Keeps.ite ?_ ?_
  · refine Keeps.ite ?_ ?_
    · exact (chanAck_keeps ..).mono rfl
    · refine Keeps.ite ?_ ?_
      · exact (chanAck_keeps ..).mono rfl
      · split
        · exact Keeps.after (by assumption) (chanAck_keeps ..) rfl
        · beta_reduce
          extract_lets -merge x6 x7
          have hx7 : Keeps [.out, .fns, .lodge, .chans] s x7 := by
            unfold x7
            exact Keeps.after (by assumption) (modLodge_keeps ..) rfl
          clear_value x7
          refine Keeps.after ?_ (chanAck_keeps ..) rfl
          refine Keeps.after ?_ (blockOut_keeps ..) rfl
          exact Keeps.after (by assumption) (hostWrite_keeps ..) rfl
  · exact Keeps.refl _ _

theorem doLcAdvance_keeps (a0 a1 s) : Keeps [.out, .fns, .lodge, .chans, .rx] s (doLcAdvance a0 a1 s) := by
  unfold doLcAdvance
  unfold lodgeBlock
  extract_lets -merge x0
  have hx0 : Keeps [.out, .fns, .lodge, .chans, .rx] s x0 := by
    unfold x0
    exact (readBlock_keeps ..).mono rfl
  clear_value x0
  refine Keeps.ite ?_ ?_
  · refine Keeps.ite ?_ ?_
    · exact (chanAck_keeps ..).mono rfl
    · refine Keeps.ite ?_ ?_
      · exact (chanAck_keeps ..).mono rfl
      · split
        · exact Keeps.after (by assumption) (chanAck_keeps ..) rfl
        · beta_reduce
          extract_lets -merge x6 x7 x8 x9
          have hx9 : Keeps [.out, .fns, .lodge, .chans, .rx] s x9 := by
            unfold x9
            refine Keeps.after ?_ (addLog_keeps ..) rfl
            exact Keeps.after (by assumption) (modLodge_keeps ..) rfl
          clear_value x9
          refine Keeps.ite ?_ ?_
          · exact Keeps.after (by assumption) (chanAck_keeps ..) rfl
          · refine Keeps.ite ?_ ?_
            · refine Keeps.after ?_ (chanAck_keeps ..) rfl
              refine Keeps.after ?_ (blockOut_keeps ..) rfl
              exact Keeps.after (by assumption) (lodgePost_keeps ..) rfl
            · exact Keeps.after (by assumption) (chanAck_keeps ..) rfl
  · exact Keeps.refl _ _

theorem unmapPv_keeps (a0 s) : Keeps [.corpora, .ranges, .flash] s (unmapPv a0 s) := by
  unfold unmapPv
  extract_lets -merge x0 x1 x2 x3 x4
  have hx2 : Keeps [.corpora, .ranges, .flash] s x2 := by
    unfold x2
    refine Keeps.after ?_ (upd_flash _ ?_) rfl
    · exact Keeps.refl _ _
    · rfl
  have hx3 : Keeps [.corpora, .ranges, .flash] s x3 := by
    unfold x3
    exact Keeps.after (by assumption) (modRange_keeps ..) rfl
  clear_value x2 x3
  exact Keeps.after (by assumption) (modCorpus_keeps ..) rfl

theorem doPvErase_keeps (s) : Keeps [.out, .fns, .lodge, .chans, .corpora, .ranges, .flash] s (doPvErase s) := by
  unfold doPvErase
  unfold lodgeImm
  refine Keeps.ite ?_ ?_
  · refine Keeps.ite ?_ ?_
    · exact (chanAck_keeps ..).mono rfl
    · refine Keeps.ite ?_ ?_
      · exact (chanAck_keeps ..).mono rfl
      · beta_reduce
        extract_lets -merge x0
        have hx0 : Keeps [.out, .fns, .lodge, .chans, .corpora, .ranges, .flash] s x0 := by
          unfold x0
          exact (modLodge_keeps ..).mono rfl
        clear_value x0
        refine Keeps.ite ?_ ?_
        · exact (chanAck_keeps ..).mono rfl
        · refine Keeps.ite ?_ ?_
          · exact (chanAck_keeps ..).mono rfl
          · refine Keeps.after ?_ (chanAck_keeps ..) rfl
            exact Keeps.after (by assumption) (unmapPv_keeps ..) rfl
  · exact Keeps.refl _ _

theorem doCakSet_keeps (a0 s) : Keeps [.out, .fns, .lodge, .chans] s (doCakSet a0 s) := by
  unfold doCakSet
  unfold lodgeBlock
  extract_lets -merge x0
  have hx0 : Keeps [.out, .fns, .lodge, .chans] s x0 := by
    unfold x0
    exact (readBlock_keeps ..).mono rfl
  clear_value x0
  refine Keeps.ite ?_ ?_
  · refine Keeps.ite ?_ ?_
    · exact (chanAck_keeps ..).mono rfl
    · refine Keeps.ite ?_ ?_
      · exact (chanAck_keeps ..).mono rfl
      · split
        · exact Keeps.after (by assumption) (chanAck_keeps ..) rfl
        · beta_reduce
          extract_lets -merge x6 x7 x8 x9 x10
          have hx10 : Keeps [.out, .fns, .lodge, .chans] s x10 := by
            unfold x10
            exact Keeps.after (by assumption) (modLodge_keeps ..) rfl
          clear_value x10
          refine Keeps.ite ?_ ?_
          · exact Keeps.after (by assumption) (chanAck_keeps ..) rfl
          · refine Keeps.ite ?_ ?_
            · refine Keeps.after ?_ (chanAck_keeps ..) rfl
              refine Keeps.after ?_ (blockOut_keeps ..) rfl
              exact Keeps.after (by assumption) (hostWrite_keeps ..) rfl
            · exact Keeps.after (by assumption) (chanAck_keeps ..) rfl
  · exact Keeps.refl _ _

theorem doKeyInstall_keeps (a0 s) : Keeps [.out, .lodge] s (doKeyInstall a0 s) := by
  unfold doKeyInstall
  refine Keeps.ite ?_ ?_
  · split
    · refine Keeps.ite ?_ ?_
      · exact (modLodge_keeps ..).mono rfl
      · exact (emit_keeps ..).mono rfl
    · refine Keeps.ite ?_ ?_
      · exact (modLodge_keeps ..).mono rfl
      · exact (emit_keeps ..).mono rfl
  · exact Keeps.refl _ _

theorem doSakDerive_keeps (a0 a1 a2 s) : Keeps [.out, .lodge] s (doSakDerive a0 a1 a2 s) := by
  unfold doSakDerive
  refine Keeps.ite ?_ ?_
  · refine Keeps.ite ?_ ?_
    · refine Keeps.ite ?_ ?_
      · exact (emit_keeps ..).mono rfl
      · exact (modLodge_keeps ..).mono rfl
    · exact (emit_keeps ..).mono rfl
  · exact Keeps.refl _ _

theorem doFirewall_keeps (a0 s) : Keeps [.out, .lodge] s (doFirewall a0 s) := by
  unfold doFirewall
  extract_lets -merge x0
  have hx0 : Keeps [.out, .lodge] s x0 := by
    unfold x0
    exact (modLodge_keeps ..).mono rfl
  clear_value x0
  refine Keeps.ite ?_ ?_
  · refine Keeps.ite ?_ ?_
    · assumption
    · exact Keeps.after (by assumption) (emit_keeps ..) rfl
  · exact Keeps.refl _ _

theorem doMbxLo_keeps (a0 a1 s) : Keeps [.chans] s (doMbxLo a0 a1 s) := by
  unfold doMbxLo
  refine Keeps.ite ?_ ?_
  · exact (modChan_keeps ..).mono rfl
  · exact Keeps.refl _ _

theorem doMbxPost_keeps (a0 a1 s) : Keeps [.out, .fns, .chans] s (doMbxPost a0 a1 s) := by
  unfold doMbxPost
  extract_lets -merge x0
  have hx0 : Keeps [.out, .fns, .chans] s x0 := by
    unfold x0
    exact (modChan_keeps ..).mono rfl
  clear_value x0
  refine Keeps.ite ?_ ?_
  · refine Keeps.ite ?_ ?_
    · exact (modChan_keeps ..).mono rfl
    · refine Keeps.ite ?_ ?_
      · exact Keeps.after (by assumption) (chanAck_keeps ..) rfl
      · assumption
  · exact Keeps.refl _ _

theorem doMbxCtl_keeps (a0 a1 s) : Keeps [.chans, .rx] s (doMbxCtl a0 a1 s) := by
  unfold doMbxCtl
  extract_lets -merge x0
  refine Keeps.ite ?_ ?_
  · refine Keeps.ite ?_ ?_
    · refine Keeps.ite ?_ ?_
      · exact (modChan_keeps ..).mono rfl
      · exact (upd_rx _).mono rfl
    · exact Keeps.refl _ _
  · refine Keeps.ite ?_ ?_
    · refine Keeps.ite ?_ ?_
      · exact (modChan_keeps ..).mono rfl
      · exact (modChan_keeps ..).mono rfl
    · exact Keeps.refl _ _

theorem doMbxAck_keeps (s) : Keeps [.out, .fns, .lodge, .rx] s (doMbxAck s) := by
  unfold doMbxAck
  extract_lets -merge x0
  refine Keeps.ite ?_ ?_
  · refine Keeps.after ?_ (rxPump_keeps ..) rfl
    exact (upd_rx _).mono rfl
  · exact Keeps.refl _ _

theorem doMbxTimeout_keeps (a0 s) : Keeps [.chans, .comp] s (doMbxTimeout a0 s) := by
  unfold doMbxTimeout
  extract_lets -merge x0 x1 x2
  have hx1 : Keeps [.chans, .comp] s x1 := by
    unfold x1
    exact (modChan_keeps ..).mono rfl
  clear_value x1
  refine Keeps.ite ?_ ?_
  · refine Keeps.after ?_ (upd_comp _ ?_) rfl
    · assumption
    · rfl
  · exact Keeps.refl _ _

theorem doLodgeTimeout_keeps (s) : Keeps [.out, .fns, .lodge, .rx] s (doLodgeTimeout s) := by
  unfold doLodgeTimeout
  extract_lets -merge x0
  refine Keeps.ite ?_ ?_
  · refine Keeps.after ?_ (rxPump_keeps ..) rfl
    refine Keeps.after ?_ (modLodge_keeps ..) rfl
    exact (upd_rx _).mono rfl
  · exact Keeps.refl _ _

end Sys2Proof.Machine
end

