-- ==== Sys2Proof/Laws/KeepsPower.lean ====
section
/-! SUPPORT. What each operation of Machine/Power.lean leaves alone. -/

namespace Sys2Proof.Machine

theorem modPwr_keeps (g) (s : State) (h : (modPwr g s).words = s.words) : Keeps [.pwr] s (modPwr g s) := upd_pwr _ h
theorem modPwr_touch (g) (s : State) : Keeps [.pwr, .words] s (modPwr g s) := touch_pwr _
theorem resetNode_keeps (cause cfg s) : Keeps [.free, .nextId, .out, .phase, .fns, .works, .clk, .dies, .lds, .scs, .sts, .mods, .lodge, .chans, .rx, .pwr, .side, .stats, .pvStats, .corpora, .ranges, .tier, .upd, .scan, .flash, .fab, .comp, .qos, .integ, .words] s (resetNode cause cfg s) := by
  constructor
  intro p hp
  cases p <;> first | rfl | exact absurd hp (by decide)

theorem nodeReset_keeps (a0 a1 s) : Keeps [.free, .nextId, .out, .phase, .fns, .works, .clk, .dies, .lds, .scs, .sts, .mods, .lodge, .chans, .rx, .pwr, .side, .stats, .pvStats, .corpora, .ranges, .tier, .upd, .scan, .flash, .fab, .comp, .qos, .integ, .words] s (nodeReset a0 a1 s) := by
  unfold nodeReset
  refine Keeps.after ?_ (resetNode_keeps ..) rfl
  exact (flushPools_keeps ..).mono rfl

theorem bootFail_keeps (a0 a1 s) : Keeps [.out, .phase, .fns, .lodge, .rx] s (bootFail a0 a1 s) := by
  unfold bootFail
  refine Keeps.after ?_ (lodgePost_keeps ..) rfl
  exact (upd_phase _).mono rfl

theorem bootGrounds_keeps (a0 s) : Keeps [.out, .phase, .fns, .lodge, .rx] s (bootGrounds a0 s) := by
  unfold bootGrounds
  extract_lets -merge x0
  have hx0 : Keeps [.out, .phase, .fns, .lodge, .rx] s x0 := by
    unfold x0
    exact (modLodge_keeps ..).mono rfl
  clear_value x0
  refine Keeps.ite ?_ ?_
  · exact (upd_phase _).mono rfl
  · split
    · exact Keeps.after (by assumption) (bootFail_keeps ..) rfl
    · extract_lets -merge x6 x7 x8
      have hx7 : Keeps [.out, .phase, .fns, .lodge, .rx] s x7 := by
        unfold x7
        exact Keeps.after (by assumption) (modLodge_keeps ..) rfl
      have hx8 : Keeps [.out, .phase, .fns, .lodge, .rx] s x8 := by
        unfold x8
        exact Keeps.after (by assumption) (logImage_keeps ..) rfl
      clear_value x7 x8
      exact Keeps.after (by assumption) (upd_phase _) rfl

theorem bootTest_keeps (a0 s) : Keeps [.out, .phase, .fns, .dies, .lds, .scs, .sts, .lodge, .rx, .scan] s (bootTest a0 s) := by
  unfold bootTest
  extract_lets -merge x0 x1 x2 x3 x4
  have hx1 : Keeps [.out, .phase, .fns, .dies, .lds, .scs, .sts, .lodge, .rx, .scan] s x1 := by
    unfold x1
    refine Keeps.after ?_ (modLodge_keeps ..) rfl
    exact (upd_dies_lds_scs_sts _ _ _ _).mono rfl
  have hx3 : Keeps [.out, .phase, .fns, .dies, .lds, .scs, .sts, .lodge, .rx, .scan] s x3 := by
    unfold x3
    refine Keeps.after ?_ (upd_scan _ ?_) rfl
    · assumption
    · rfl
  clear_value x1 x3
  refine Keeps.ite ?_ ?_
  · exact (upd_phase _).mono rfl
  · split
    · extract_lets -merge x9
      have hx9 : Keeps [.out, .phase, .fns, .dies, .lds, .scs, .sts, .lodge, .rx, .scan] s x9 := by
        unfold x9
        exact Keeps.after (by assumption) (nodeEvent_keeps ..) rfl
      clear_value x9
      exact Keeps.after (by assumption) (upd_phase _) rfl
    · clear_value x4
      split
      · extract_lets -merge x14
        have hx14 : Keeps [.out, .phase, .fns, .dies, .lds, .scs, .sts, .lodge, .rx, .scan] s x14 := by
          unfold x14
          exact Keeps.after (by assumption) (nodeEvent_keeps ..) rfl
        clear_value x14
        exact Keeps.after (by assumption) (upd_phase _) rfl
      · refine Keeps.ite ?_ ?_
        · exact Keeps.after (by assumption) (upd_phase _) rfl
        · exact Keeps.after (by assumption) (bootGrounds_keeps ..) rfl

theorem boot_keeps (a0 s) : Keeps [.out, .phase, .fns, .dies, .lds, .scs, .sts, .lodge, .rx, .side, .scan] s (boot a0 s) := by
  unfold boot
  extract_lets -merge x0 x1 x2
  have hx1 : Keeps [.out, .phase, .fns, .dies, .lds, .scs, .sts, .lodge, .rx, .side, .scan] s x1 := by
    unfold x1
    refine Keeps.after ?_ (upd_side _ ?_) rfl
    · exact Keeps.refl _ _
    · rfl
  have hx2 : Keeps [.out, .phase, .fns, .dies, .lds, .scs, .sts, .lodge, .rx, .side, .scan] s x2 := by
    unfold x2
    exact Keeps.after (by assumption) (modLodge_keeps ..) rfl
  clear_value x1 x2
  refine Keeps.ite ?_ ?_
  · exact Keeps.after (by assumption) (bootFail_keeps ..) rfl
  · refine Keeps.ite ?_ ?_
    · exact Keeps.after (by assumption) (upd_phase _) rfl
    · split
      · exact Keeps.after (by assumption) (bootFail_keeps ..) rfl
      · extract_lets -merge x8 x9
        have hx9 : Keeps [.out, .phase, .fns, .dies, .lds, .scs, .sts, .lodge, .rx, .side, .scan] s x9 := by
          unfold x9
          exact Keeps.after (by assumption) (modLodge_keeps ..) rfl
        clear_value x9
        refine Keeps.after ?_ (bootTest_keeps ..) rfl
        exact Keeps.after (by assumption) (logImage_keeps ..) rfl

theorem doPowerOn_keeps (a0 s) : Keeps [.free, .nextId, .out, .phase, .fns, .works, .clk, .dies, .lds, .scs, .sts, .mods, .lodge, .chans, .rx, .pwr, .side, .stats, .pvStats, .corpora, .ranges, .tier, .upd, .scan, .flash, .fab, .comp, .qos, .integ, .words] s (doPowerOn a0 s) := by
  unfold doPowerOn
  split
  · extract_lets -merge x2 x3 x4 x5
    have hx2 : Keeps [.free, .nextId, .out, .phase, .fns, .works, .clk, .dies, .lds, .scs, .sts, .mods, .lodge, .chans, .rx, .pwr, .side, .stats, .pvStats, .corpora, .ranges, .tier, .upd, .scan, .flash, .fab, .comp, .qos, .integ, .words] s x2 := by
      unfold x2
      exact (resetNode_keeps ..).mono rfl
    clear_value x2
    refine Keeps.after ?_ (upd_phase_lodge_pwr_side _ _ _ _ ?_) rfl
    · assumption
    · rfl
  · extract_lets -merge x8 x9 x10 x11
    have hx8 : Keeps [.free, .nextId, .out, .phase, .fns, .works, .clk, .dies, .lds, .scs, .sts, .mods, .lodge, .chans, .rx, .pwr, .side, .stats, .pvStats, .corpora, .ranges, .tier, .upd, .scan, .flash, .fab, .comp, .qos, .integ, .words] s x8 := by
      unfold x8
      exact (resetNode_keeps ..).mono rfl
    clear_value x8
    refine Keeps.after ?_ (upd_phase_lodge_pwr_side _ _ _ _ ?_) rfl
    · assumption
    · rfl
  · exact Keeps.refl _ _

theorem doPerst_keeps (a0 s) : Keeps [.free, .nextId, .out, .phase, .fns, .works, .clk, .dies, .lds, .scs, .sts, .mods, .lodge, .chans, .rx, .pwr, .side, .stats, .pvStats, .corpora, .ranges, .tier, .upd, .scan, .flash, .fab, .comp, .qos, .integ, .words] s (doPerst a0 s) := by
  unfold doPerst
  refine Keeps.ite ?_ ?_
  · exact Keeps.refl _ _
  · split
    · exact Keeps.refl _ _
    · exact Keeps.refl _ _
    · exact (upd_phase _).mono rfl
    · extract_lets -merge x12
      have hx12 : Keeps [.free, .nextId, .out, .phase, .fns, .works, .clk, .dies, .lds, .scs, .sts, .mods, .lodge, .chans, .rx, .pwr, .side, .stats, .pvStats, .corpora, .ranges, .tier, .upd, .scan, .flash, .fab, .comp, .qos, .integ, .words] s x12 := by
        unfold x12
        exact (nodeReset_keeps ..).mono rfl
      clear_value x12
      refine Keeps.ite ?_ ?_
      · refine Keeps.after ?_ (modPwr_keeps _ _ ?_) rfl
        · exact Keeps.refl _ _
        · rfl
      · exact Keeps.after (by assumption) (upd_phase _) rfl

theorem doRelease_keeps (a0 s) : Keeps [.out, .phase, .fns, .dies, .lds, .scs, .sts, .lodge, .rx, .side, .scan] s (doRelease a0 s) := by
  unfold doRelease
  split
  · extract_lets -merge x2 x3
    have hx2 : Keeps [.out, .phase, .fns, .dies, .lds, .scs, .sts, .lodge, .rx, .side, .scan] s x2 := by
      unfold x2
      exact (modLodge_keeps ..).mono rfl
    clear_value x2
    refine Keeps.after ?_ (boot_keeps ..) rfl
    refine Keeps.after ?_ (upd_side _ ?_) rfl
    · assumption
    · rfl
  · exact Keeps.refl _ _

theorem doBootTimeout_keeps (a0 s) : Keeps [.out, .phase, .fns, .lodge, .rx] s (doBootTimeout a0 s) := by
  unfold doBootTimeout
  split
  · exact (bootFail_keeps ..).mono rfl
  · exact Keeps.refl _ _

theorem doHeartbeat_keeps (s) : Keeps [.phase, .lodge] s (doHeartbeat s) := by
  unfold doHeartbeat
  extract_lets -merge x0 x1
  have hx0 : ∀ a2, Keeps [.phase, .lodge] a2 (x0 a2) := by
    intro a2
    unfold x0
    exact (modLodge_keeps ..).mono rfl
  clear_value x0
  split
  · refine Keeps.then_ ?_ (hx0 ..)
    refine Keeps.after ?_ (modLodge_keeps ..) rfl
    exact (upd_phase _).mono rfl
  · refine Keeps.then_ ?_ (hx0 ..)
    exact Keeps.refl _ _
  · exact Keeps.refl _ _

theorem firmwareReset_keeps (a0 s) : Keeps [.free, .nextId, .out, .phase, .fns, .works, .clk, .dies, .lds, .scs, .sts, .mods, .lodge, .chans, .rx, .pwr, .side, .stats, .pvStats, .corpora, .ranges, .tier, .upd, .scan, .flash, .fab, .comp, .qos, .integ, .words] s (firmwareReset a0 s) := by
  unfold firmwareReset
  refine Keeps.after ?_ (addLog_keeps ..) rfl
  refine Keeps.after ?_ (boot_keeps ..) rfl
  exact (nodeReset_keeps ..).mono rfl

theorem firmwareDown_keeps (a0 s) : Keeps [.free, .nextId, .out, .phase, .fns, .works, .clk, .dies, .lds, .scs, .sts, .mods, .lodge, .chans, .rx, .pwr, .side, .stats, .pvStats, .corpora, .ranges, .tier, .upd, .scan, .flash, .fab, .comp, .qos, .integ, .words] s (firmwareDown a0 s) := by
  unfold firmwareDown
  refine Keeps.ite ?_ ?_
  · refine Keeps.after ?_ (modPwr_keeps _ _ ?_) rfl
    · exact Keeps.refl _ _
    · rfl
  · exact (firmwareReset_keeps ..).mono rfl

theorem doHeartbeatLost_keeps (a0 s) : Keeps [.free, .nextId, .out, .phase, .fns, .works, .clk, .dies, .lds, .scs, .sts, .mods, .lodge, .chans, .rx, .pwr, .side, .stats, .pvStats, .corpora, .ranges, .tier, .upd, .scan, .flash, .fab, .comp, .qos, .integ, .words] s (doHeartbeatLost a0 s) := by
  unfold doHeartbeatLost
  refine Keeps.ite ?_ ?_
  · refine Keeps.after ?_ (firmwareDown_keeps ..) rfl
    refine Keeps.after ?_ (lodgePost_keeps ..) rfl
    exact (modLodge_keeps ..).mono rfl
  · exact Keeps.refl _ _

theorem doHostReset_keeps (a0 s) : Keeps [.free, .nextId, .out, .phase, .fns, .works, .clk, .dies, .lds, .scs, .sts, .mods, .lodge, .chans, .rx, .pwr, .side, .stats, .pvStats, .corpora, .ranges, .tier, .upd, .scan, .flash, .fab, .comp, .qos, .integ, .words] s (doHostReset a0 s) := by
  unfold doHostReset
  split
  · refine Keeps.ite ?_ ?_
    · refine Keeps.ite ?_ ?_
      · refine Keeps.after ?_ (modPwr_keeps _ _ ?_) rfl
        · exact Keeps.refl _ _
        · rfl
      · refine Keeps.after ?_ (boot_keeps ..) rfl
        exact (nodeReset_keeps ..).mono rfl
    · exact Keeps.refl _ _
  · exact Keeps.refl _ _

theorem doPowerLoss_keeps (s) : Keeps [.free, .nextId, .out, .phase, .fns, .works, .clk, .dies, .lds, .scs, .sts, .mods, .lodge, .chans, .rx, .pwr, .side, .stats, .pvStats, .corpora, .ranges, .tier, .upd, .scan, .flash, .fab, .comp, .qos, .integ, .words] s (doPowerLoss s) := by
  unfold doPowerLoss
  split
  · exact Keeps.refl _ _
  · extract_lets -merge x4
    have hx4 : Keeps [.free, .nextId, .out, .phase, .fns, .works, .clk, .dies, .lds, .scs, .sts, .mods, .lodge, .chans, .rx, .pwr, .side, .stats, .pvStats, .corpora, .ranges, .tier, .upd, .scan, .flash, .fab, .comp, .qos, .integ, .words] s x4 := by
      unfold x4
      exact (resetNode_keeps ..).mono rfl
    clear_value x4
    exact Keeps.after (by assumption) (upd_phase _) rfl

theorem doPfail_keeps (a0 a1 s) : Keeps [.pwr] s (doPfail a0 a1 s) := by
  unfold doPfail
  refine Keeps.ite ?_ ?_
  · refine Keeps.after ?_ (modPwr_keeps _ _ ?_) rfl
    · exact Keeps.refl _ _
    · rfl
  · exact Keeps.refl _ _

theorem abortOps_keeps (s) : Keeps [.out, .flash] s (abortOps s) := by
  unfold abortOps
  extract_lets -merge x0 x1
  refine Keeps.after ?_ (modFlash_keeps _ _ ?_) rfl
  · refine Keeps.foldl ?_ (fun t2 z3 => ?_)
    · exact Keeps.refl _ _
    · exact (nandCmd_keeps ..).mono rfl
  · rfl

theorem flushStart_keeps (s) : Keeps [.out, .pwr, .flash] s (flushStart s) := by
  unfold flushStart
  split
  · extract_lets -merge x3
    have hx3 : Keeps [.out, .pwr, .flash] s x3 := by
      unfold x3
      refine Keeps.after ?_ (abortOps_keeps ..) rfl
      refine Keeps.after ?_ (modPwr_keeps _ _ ?_) rfl
      · exact Keeps.refl _ _
      · rfl
    clear_value x3
    refine Keeps.ite ?_ ?_
    · refine Keeps.after ?_ (modFlash_keeps _ _ ?_) rfl
      · assumption
      · rfl
    · refine Keeps.after ?_ (modPwr_keeps _ _ ?_) rfl
      · exact Keeps.refl _ _
      · rfl
  · exact Keeps.refl _ _

theorem deadWork_keeps (s) : Keeps [.works, .ranges] s (deadWork s) := by
  unfold deadWork
  exact (upd_works_ranges _ _).mono rfl

theorem doFlushDone_keeps (a0 s) : Keeps [.free, .nextId, .out, .phase, .fns, .works, .clk, .dies, .lds, .scs, .sts, .mods, .lodge, .chans, .rx, .pwr, .side, .stats, .pvStats, .corpora, .ranges, .tier, .upd, .scan, .flash, .fab, .comp, .qos, .integ, .words] s (doFlushDone a0 s) := by
  unfold doFlushDone
  split
  · exact Keeps.refl _ _
  · split
    · rename_i y5 y6 y7 y8
      have ky7 : Keeps [.free, .nextId, .out, .phase, .fns, .works, .clk, .dies, .lds, .scs, .sts, .mods, .lodge, .chans, .rx, .pwr, .side, .stats, .pvStats, .corpora, .ranges, .tier, .upd, .scan, .flash, .fab, .comp, .qos, .integ, .words] s y7 := by
        refine Keeps.of2 y8 ?_
        exact (flushPools_keeps ..).mono rfl
      extract_lets -merge x9 x10 x11 x12 x13 x14 x15
      have hx9 : Keeps [.free, .nextId, .out, .phase, .fns, .works, .clk, .dies, .lds, .scs, .sts, .mods, .lodge, .chans, .rx, .pwr, .side, .stats, .pvStats, .corpora, .ranges, .tier, .upd, .scan, .flash, .fab, .comp, .qos, .integ, .words] s x9 := by
        unfold x9
        exact Keeps.after (by assumption) (deadWork_keeps ..) rfl
      have hx10 : Keeps [.free, .nextId, .out, .phase, .fns, .works, .clk, .dies, .lds, .scs, .sts, .mods, .lodge, .chans, .rx, .pwr, .side, .stats, .pvStats, .corpora, .ranges, .tier, .upd, .scan, .flash, .fab, .comp, .qos, .integ, .words] s x10 := by
        unfold x10
        exact Keeps.after (by assumption) (nodeEvent_keeps ..) rfl
      have hx11 : Keeps [.free, .nextId, .out, .phase, .fns, .works, .clk, .dies, .lds, .scs, .sts, .mods, .lodge, .chans, .rx, .pwr, .side, .stats, .pvStats, .corpora, .ranges, .tier, .upd, .scan, .flash, .fab, .comp, .qos, .integ, .words] s x11 := by
        unfold x11
        refine Keeps.after ?_ (modFlash_keeps _ _ ?_) rfl
        · assumption
        · rfl
      have hx12 : Keeps [.free, .nextId, .out, .phase, .fns, .works, .clk, .dies, .lds, .scs, .sts, .mods, .lodge, .chans, .rx, .pwr, .side, .stats, .pvStats, .corpora, .ranges, .tier, .upd, .scan, .flash, .fab, .comp, .qos, .integ, .words] s x12 := by
        unfold x12
        refine Keeps.after ?_ (modPwr_keeps _ _ ?_) rfl
        · assumption
        · rfl
      have hx13 : Keeps [.free, .nextId, .out, .phase, .fns, .works, .clk, .dies, .lds, .scs, .sts, .mods, .lodge, .chans, .rx, .pwr, .side, .stats, .pvStats, .corpora, .ranges, .tier, .upd, .scan, .flash, .fab, .comp, .qos, .integ, .words] s x13 := by
        unfold x13
        exact Keeps.after (by assumption) (resetNode_keeps ..) rfl
      have hx14 : Keeps [.free, .nextId, .out, .phase, .fns, .works, .clk, .dies, .lds, .scs, .sts, .mods, .lodge, .chans, .rx, .pwr, .side, .stats, .pvStats, .corpora, .ranges, .tier, .upd, .scan, .flash, .fab, .comp, .qos, .integ, .words] s x14 := by
        unfold x14
        exact Keeps.after (by assumption) (resetNode_keeps ..) rfl
      have hx15 : Keeps [.free, .nextId, .out, .phase, .fns, .works, .clk, .dies, .lds, .scs, .sts, .mods, .lodge, .chans, .rx, .pwr, .side, .stats, .pvStats, .corpora, .ranges, .tier, .upd, .scan, .flash, .fab, .comp, .qos, .integ, .words] s x15 := by
        unfold x15
        exact Keeps.after (by assumption) (resetNode_keeps ..) rfl
      clear_value x9 x10 x11 x12 x13 x14 x15
      split
      · exact Keeps.after (by assumption) (upd_phase _) rfl
      · refine Keeps.after ?_ (modPwr_keeps _ _ ?_) rfl
        · exact Keeps.after (by assumption) (upd_phase _) rfl
        · rfl
      · split
        · exact Keeps.after (by assumption) (upd_phase _) rfl
        · refine Keeps.after ?_ (boot_keeps ..) rfl
          exact Keeps.after (by assumption) (resetNode_keeps ..) rfl
        · exact Keeps.after (by assumption) (firmwareReset_keeps ..) rfl
        · assumption

theorem doPfailHigh_keeps (a0 s) : Keeps [.pwr] s (doPfailHigh a0 s) := by
  unfold doPfailHigh
  refine Keeps.ite ?_ ?_
  · refine Keeps.after ?_ (modPwr_keeps _ _ ?_) rfl
    · exact Keeps.refl _ _
    · rfl
  · exact Keeps.refl _ _

theorem doRegion_keeps (s) : Keeps [.flash] s (doRegion s) := by
  unfold doRegion
  refine Keeps.ite ?_ ?_
  · refine Keeps.after ?_ (modFlash_keeps _ _ ?_) rfl
    · exact Keeps.refl _ _
    · rfl
  · exact Keeps.refl _ _

theorem pfailFrame_keeps (s) : Keeps [.pwr, .flash] s (pfailFrame s) := by
  unfold pfailFrame
  extract_lets -merge x0
  have hx0 : Keeps [.pwr, .flash] s x0 := by
    unfold x0
    refine Keeps.after ?_ (modPwr_keeps _ _ ?_) rfl
    · exact Keeps.refl _ _
    · rfl
  clear_value x0
  refine Keeps.after ?_ (modFlash_keeps _ _ ?_) rfl
  · assumption
  · rfl

theorem doSysClk_keeps (s) : Keeps [.free, .nextId, .out, .phase, .fns, .works, .clk, .dies, .lds, .scs, .sts, .mods, .lodge, .chans, .rx, .pwr, .side, .stats, .pvStats, .corpora, .ranges, .tier, .upd, .scan, .flash, .fab, .comp, .qos, .integ, .words] s (doSysClk s) := by
  unfold doSysClk
  extract_lets -merge x0 x1
  have hx0 : Keeps [.free, .nextId, .out, .phase, .fns, .works, .clk, .dies, .lds, .scs, .sts, .mods, .lodge, .chans, .rx, .pwr, .side, .stats, .pvStats, .corpora, .ranges, .tier, .upd, .scan, .flash, .fab, .comp, .qos, .integ, .words] s x0 := by
    unfold x0
    refine Keeps.after ?_ (modPwr_keeps _ _ ?_) rfl
    · exact Keeps.refl _ _
    · rfl
  have hx1 : Keeps [.free, .nextId, .out, .phase, .fns, .works, .clk, .dies, .lds, .scs, .sts, .mods, .lodge, .chans, .rx, .pwr, .side, .stats, .pvStats, .corpora, .ranges, .tier, .upd, .scan, .flash, .fab, .comp, .qos, .integ, .words] s x1 := by
    unfold x1
    exact Keeps.after (by assumption) (resetNode_keeps ..) rfl
  clear_value x0 x1
  refine Keeps.ite ?_ ?_
  · refine Keeps.ite ?_ ?_
    · refine Keeps.after ?_ (modPwr_keeps _ _ ?_) rfl
      · assumption
      · rfl
    · refine Keeps.ite ?_ ?_
      · exact Keeps.after (by assumption) (upd_phase _) rfl
      · refine Keeps.after ?_ (modPwr_keeps _ _ ?_) rfl
        · assumption
        · rfl
  · exact Keeps.refl _ _

theorem doEthLoss_keeps (a0 s) : Keeps [.out, .fns, .side, .fab] s (doEthLoss a0 s) := by
  unfold doEthLoss
  extract_lets -merge x0 x1
  have hx1 : Keeps [.out, .fns, .side, .fab] s x1 := by
    unfold x1
    refine Keeps.after ?_ (upd_side _ ?_) rfl
    · exact Keeps.refl _ _
    · rfl
  clear_value x1
  refine Keeps.ite ?_ ?_
  · refine Keeps.foldl ?_ (fun t2 z3 => ?_)
    · assumption
    · refine Keeps.after ?_ (settlePort_keeps ..) rfl
      exact (modPort_keeps ..).mono rfl
  · exact Keeps.refl _ _

theorem doEthReturn_keeps (a0 s) : Keeps [.side] s (doEthReturn a0 s) := by
  unfold doEthReturn
  extract_lets -merge x0
  refine Keeps.after ?_ (upd_side _ ?_) rfl
  · exact Keeps.refl _ _
  · rfl

theorem modUnit_keeps (a0 a1 s) : Keeps [.pwr] s (modUnit a0 a1 s) := by
  unfold modUnit
  refine Keeps.after ?_ (modPwr_keeps _ _ ?_) rfl
  · exact Keeps.refl _ _
  · rfl

theorem setStep_keeps (a0 a1 s) : Keeps [.out, .fns, .pwr] s (setStep a0 a1 s) := by
  unfold setStep
  extract_lets -merge x0 x1 x2
  have hx1 : Keeps [.out, .fns, .pwr] s x1 := by
    unfold x1
    exact (modUnit_keeps ..).mono rfl
  have hx2 : Keeps [.out, .fns, .pwr] s x2 := by
    unfold x2
    refine Keeps.ite ?_ ?_
    · refine Keeps.after ?_ (modPwr_keeps _ _ ?_) rfl
      · assumption
      · rfl
    · assumption
  clear_value x1 x2
  refine Keeps.ite ?_ ?_
  · exact Keeps.refl _ _
  · exact Keeps.after (by assumption) (nodeEvent_keeps ..) rfl

theorem doStuck_keeps (a0 a1 s) : Keeps [.out, .fns, .pwr] s (doStuck a0 a1 s) := by
  unfold doStuck
  extract_lets -merge x0
  have hx0 : Keeps [.out, .fns, .pwr] s x0 := by
    unfold x0
    exact (modUnit_keeps ..).mono rfl
  clear_value x0
  refine Keeps.ite ?_ ?_
  · refine Keeps.ite ?_ ?_
    · refine Keeps.after ?_ (setStep_keeps ..) rfl
      exact Keeps.after (by assumption) (modUnit_keeps ..) rfl
    · assumption
  · exact Keeps.refl _ _

theorem doStepDown_keeps (a0 s) : Keeps [.out, .fns, .pwr] s (doStepDown a0 s) := by
  unfold doStepDown
  extract_lets -merge x0
  refine Keeps.ite ?_ ?_
  · exact (setStep_keeps ..).mono rfl
  · exact Keeps.refl _ _

theorem doRefreshExit_keeps (a0 s) : Keeps [.out, .fns, .pwr, .scan] s (doRefreshExit a0 s) := by
  unfold doRefreshExit
  extract_lets -merge x0
  refine Keeps.ite ?_ ?_
  · refine Keeps.after ?_ (setStep_keeps ..) rfl
    exact (modStack_keeps ..).mono rfl
  · exact Keeps.refl _ _

theorem stepUnit_keeps (s a1) : Keeps [.out, .fns, .pwr, .scan] s (stepUnit s a1) := by
  unfold stepUnit
  extract_lets -merge x0 x1 x2 x3 x4 x5 x6
  have hx2 : Keeps [.out, .fns, .pwr, .scan] s x2 := by
    unfold x2
    refine Keeps.ite ?_ ?_
    · exact (modStack_keeps ..).mono rfl
    · exact (modStack_keeps ..).mono rfl
  clear_value x2
  refine Keeps.ite ?_ ?_
  · exact (setStep_keeps ..).mono rfl
  · refine Keeps.ite ?_ ?_
    · refine Keeps.ite ?_ ?_
      · exact Keeps.after (by assumption) (setStep_keeps ..) rfl
      · refine Keeps.ite ?_ ?_
        · exact Keeps.after (by assumption) (setStep_keeps ..) rfl
        · refine Keeps.ite ?_ ?_
          · exact Keeps.after (by assumption) (setStep_keeps ..) rfl
          · exact Keeps.after (by assumption) (modUnit_keeps ..) rfl
    · refine Keeps.ite ?_ ?_
      · exact (setStep_keeps ..).mono rfl
      · exact (modUnit_keeps ..).mono rfl

theorem stepFrame_keeps (s a1) : Keeps [.out, .fns, .pwr, .scan] s (stepFrame s a1) := by
  unfold stepFrame
  refine Keeps.after ?_ (modUnit_keeps ..) rfl
  exact (stepUnit_keeps ..).mono rfl

theorem sampleUnit_keeps (a0 a1 a2 s) : Keeps [.pwr] s (sampleUnit a0 a1 a2 s) := by
  unfold sampleUnit
  extract_lets -merge x0 x1 x2 x3 x4 x5
  exact (modUnit_keeps ..).mono rfl

theorem doThrottle_keeps (a0 a1 s) : Keeps [.pwr] s (doThrottle a0 a1 s) := by
  unfold doThrottle
  refine Keeps.ite ?_ ?_
  · exact (modUnit_keeps ..).mono rfl
  · exact Keeps.refl _ _

theorem doTrip_keeps (a0 s) : Keeps [.free, .nextId, .out, .phase, .fns, .works, .clk, .dies, .lds, .scs, .sts, .mods, .lodge, .chans, .rx, .pwr, .side, .stats, .pvStats, .corpora, .ranges, .tier, .upd, .scan, .flash, .fab, .comp, .qos, .integ, .words] s (doTrip a0 s) := by
  unfold doTrip
  extract_lets -merge x0 x1 x2
  have hx0 : Keeps [.free, .nextId, .out, .phase, .fns, .works, .clk, .dies, .lds, .scs, .sts, .mods, .lodge, .chans, .rx, .pwr, .side, .stats, .pvStats, .corpora, .ranges, .tier, .upd, .scan, .flash, .fab, .comp, .qos, .integ, .words] s x0 := by
    unfold x0
    refine Keeps.after ?_ (modPwr_keeps _ _ ?_) rfl
    · exact Keeps.refl _ _
    · rfl
  have hx1 : Keeps [.free, .nextId, .out, .phase, .fns, .works, .clk, .dies, .lds, .scs, .sts, .mods, .lodge, .chans, .rx, .pwr, .side, .stats, .pvStats, .corpora, .ranges, .tier, .upd, .scan, .flash, .fab, .comp, .qos, .integ, .words] s x1 := by
    unfold x1
    refine Keeps.ite ?_ ?_
    · refine Keeps.after ?_ (modFlash_keeps _ _ ?_) rfl
      · assumption
      · rfl
    · assumption
  have hx2 : Keeps [.free, .nextId, .out, .phase, .fns, .works, .clk, .dies, .lds, .scs, .sts, .mods, .lodge, .chans, .rx, .pwr, .side, .stats, .pvStats, .corpora, .ranges, .tier, .upd, .scan, .flash, .fab, .comp, .qos, .integ, .words] s x2 := by
    unfold x2
    exact Keeps.after (by assumption) (resetNode_keeps ..) rfl
  clear_value x0 x1 x2
  refine Keeps.ite ?_ ?_
  · refine Keeps.ite ?_ ?_
    · refine Keeps.after ?_ (modPwr_keeps _ _ ?_) rfl
      · assumption
      · rfl
    · refine Keeps.ite ?_ ?_
      · refine Keeps.after ?_ (modPwr_keeps _ _ ?_) rfl
        · exact Keeps.after (by assumption) (upd_phase _) rfl
        · rfl
      · refine Keeps.after ?_ (modPwr_keeps _ _ ?_) rfl
        · assumption
        · rfl
  · exact Keeps.refl _ _

theorem writePwr_keeps (a0 a1 s) : Keeps [.pwr, .words] s (writePwr a0 a1 s) := by
  unfold writePwr
  refine Keeps.ite ?_ ?_
  · refine Keeps.ite ?_ ?_
    · refine Keeps.ite ?_ ?_
      · exact (modPwr_touch ..).mono rfl
      · refine Keeps.after ?_ (modPwr_keeps _ _ ?_) rfl
        · exact Keeps.refl _ _
        · rfl
    · refine Keeps.ite ?_ ?_
      · exact (modPwr_touch ..).mono rfl
      · refine Keeps.after ?_ (modPwr_keeps _ _ ?_) rfl
        · exact Keeps.refl _ _
        · rfl
  · exact Keeps.refl _ _

theorem writeReset_keeps (a0 s) : Keeps [.pwr] s (writeReset a0 s) := by
  unfold writeReset
  refine Keeps.ite ?_ ?_
  · refine Keeps.after ?_ (modPwr_keeps _ _ ?_) rfl
    · exact Keeps.refl _ _
    · rfl
  · exact Keeps.refl _ _

theorem clearPwrStat_keeps (a0 s) : Keeps [.pwr] s (clearPwrStat a0 s) := by
  unfold clearPwrStat
  refine Keeps.after ?_ (modPwr_keeps _ _ ?_) rfl
  · exact Keeps.refl _ _
  · rfl

theorem clearThermStat_keeps (a0 s) : Keeps [.pwr] s (clearThermStat a0 s) := by
  unfold clearThermStat
  refine Keeps.after ?_ (modPwr_keeps _ _ ?_) rfl
  · exact Keeps.refl _ _
  · rfl

theorem clearResetStat_keeps (a0 s) : Keeps [.pwr] s (clearResetStat a0 s) := by
  unfold clearResetStat
  refine Keeps.after ?_ (modPwr_keeps _ _ ?_) rfl
  · exact Keeps.refl _ _
  · rfl

end Sys2Proof.Machine
end

