-- ==== Sys2Proof/Laws/KeepsShares.lean ====
section
/-! SUPPORT. What each operation of Machine/Shares.lean leaves alone. -/

namespace Sys2Proof.Machine

theorem modQos_keeps (a0 s) : Keeps [.qos] s (modQos a0 s) := by
  unfold modQos
  exact (upd_qos _).mono rfl

theorem reloadShares_keeps (s) : Keeps [.qos] s (reloadShares s) := by
  unfold reloadShares
  extract_lets -merge x0
  exact (modQos_keeps ..).mono rfl

theorem permitShares_keeps (a0 a1 s) : Keeps [.qos] s (permitShares a0 a1 s) := by
  unfold permitShares
  extract_lets -merge x0 x1 x2
  exact (modQos_keeps ..).mono rfl

theorem noteUse_keeps (s) : Keeps [.qos] s (noteUse s) := by
  unfold noteUse
  exact (modQos_keeps ..).mono rfl

end Sys2Proof.Machine
end

