-- ==== Sys2Proof/Laws/KeepsBatch.lean ====
section
/-! SUPPORT. What each operation of Machine/Batch.lean leaves alone. -/

namespace Sys2Proof.Machine

theorem issueOp_keeps (a0 s) : Keeps [.out, .flash] s (issueOp a0 s) := by
  unfold issueOp
  split
  · extract_lets -merge x5 x6
    refine Keeps.after ?_ (emit_keeps ..) rfl
    refine Keeps.ite ?_ ?_
    · exact Keeps.refl _ _
    · refine Keeps.after ?_ (modFlash_keeps _ _ ?_) rfl
      · exact Keeps.refl _ _
      · rfl
  · exact (nandCmd_keeps ..).mono rfl
  · refine Keeps.after ?_ (nandCmd_keeps ..) rfl
    exact (nandCmd_keeps ..).mono rfl

theorem startOp_keeps (a0 a1 s) : Keeps [.out, .flash, .qos] s (startOp a0 a1 s) := by
  unfold startOp
  extract_lets -merge x0 x1 x2
  have hx0 : ∀ a3 a4 a5, Keeps [.out, .flash, .qos] a5 (x0 a3 a4 a5) := by
    intro a3 a4 a5
    unfold x0
    refine Keeps.after ?_ (modFlash_keeps _ _ ?_) rfl
    · exact Keeps.refl _ _
    · rfl
  have hx1 : Keeps [.out, .flash, .qos] s x1 := by
    unfold x1
    split
    · refine Keeps.after ?_ (nandCmd_keeps ..) rfl
      refine Keeps.then_ ?_ (hx0 ..)
      exact Keeps.refl _ _
    · exact Keeps.refl _ _
  have hx2 : Keeps [.out, .flash, .qos] s x2 := by
    unfold x2
    split
    · exact Keeps.after (by assumption) (modQos_keeps ..) rfl
    · assumption
  clear_value x0 x1 x2
  refine Keeps.ite ?_ ?_
  · refine Keeps.after ?_ (nandCmd_keeps ..) rfl
    refine Keeps.then_ ?_ (hx0 ..)
    assumption
  · refine Keeps.after ?_ (issueOp_keeps ..) rfl
    refine Keeps.then_ ?_ (hx0 ..)
    assumption

theorem channelBatch_keeps (ch n used s) : Keeps [.out, .flash, .qos] s (channelBatch ch n used s) := by
  induction n generalizing used s with
  | zero => exact Keeps.refl _ _
  | succ n ih =>
    unfold channelBatch
    split
    · refine Keeps.after ?_ (ih ..) rfl
      exact (startOp_keeps ..).mono rfl
    · exact Keeps.refl _ _

theorem flashBatches_keeps (s) : Keeps [.out, .flash, .qos] s (flashBatches s) := by
  unfold flashBatches
  refine Keeps.ite ?_ ?_
  · exact Keeps.refl _ _
  · refine Keeps.foldl ?_ (fun t0 z1 => ?_)
    · exact Keeps.refl _ _
    · exact (channelBatch_keeps ..).mono rfl

end Sys2Proof.Machine
end

