-- ==== Sys2Proof/Laws/KeepsHost.lean ====
section
/-! SUPPORT. What each operation of Machine/Host.lean leaves alone. -/

namespace Sys2Proof.Machine

theorem doRingDb_keeps (a0 a1 a2 s) : Keeps [.out, .fns] s (doRingDb a0 a1 a2 s) := by
  unfold doRingDb
  extract_lets -merge x0 x1
  refine Keeps.ite ?_ ?_
  · refine Keeps.ite ?_ ?_
    · exact (haltRing_keeps ..).mono rfl
    · refine Keeps.ite ?_ ?_
      · exact (modRing_keeps ..).mono rfl
      · exact (haltRing_keeps ..).mono rfl
  · exact Keeps.refl _ _

theorem doRingCqDb_keeps (a0 a1 a2 s) : Keeps [.out, .fns] s (doRingCqDb a0 a1 a2 s) := by
  unfold doRingCqDb
  extract_lets -merge x0 x1
  refine Keeps.ite ?_ ?_
  · refine Keeps.ite ?_ ?_
    · exact (haltRing_keeps ..).mono rfl
    · refine Keeps.ite ?_ ?_
      · exact (modRing_keeps ..).mono rfl
      · exact (haltRing_keeps ..).mono rfl
  · exact Keeps.refl _ _

theorem postLost_keeps (a0 s) : Keeps [.out, .fns] s (postLost a0 s) := by
  unfold postLost
  extract_lets -merge x0
  refine Keeps.ite ?_ ?_
  · exact Keeps.refl _ _
  · refine Keeps.after ?_ (putEq_keeps ..) rfl
    exact (modFn_keeps ..).mono rfl

theorem doEqDb_keeps (a0 a1 s) : Keeps [.out, .fns] s (doEqDb a0 a1 s) := by
  unfold doEqDb
  extract_lets -merge x0 x1
  refine Keeps.ite ?_ ?_
  · refine Keeps.ite ?_ ?_
    · exact (modFn_keeps ..).mono rfl
    · refine Keeps.ite ?_ ?_
      · exact Keeps.refl _ _
      · refine Keeps.after ?_ (postLost_keeps ..) rfl
        exact (modFn_keeps ..).mono rfl
  · exact Keeps.refl _ _

theorem writeRing_keeps (a0 a1 a2 a3 s) : Keeps [.fns] s (writeRing a0 a1 a2 a3 s) := by
  unfold writeRing
  refine Keeps.ite ?_ ?_
  · refine Keeps.ite ?_ ?_
    · exact (modRing_keeps ..).mono rfl
    · exact (modRing_keeps ..).mono rfl
  · exact Keeps.refl _ _

theorem writeEq_keeps (a0 a1 a2 s) : Keeps [.fns] s (writeEq a0 a1 a2 s) := by
  unfold writeEq
  refine Keeps.ite ?_ ?_
  · exact (modFn_keeps ..).mono rfl
  · exact Keeps.refl _ _

theorem takeVisit_keeps (a0 s) : Keeps [.qos] s (takeVisit a0 s) := by
  unfold takeVisit
  extract_lets -merge x0 x1
  exact (upd_qos _).mono rfl

theorem failWork_keeps (a0 a1 s) : Keeps [.out, .fns, .works, .stats, .pvStats] s (failWork a0 a1 s) := by
  unfold failWork
  extract_lets -merge x0
  have hx0 : Keeps [.out, .fns, .works, .stats, .pvStats] s x0 := by
    unfold x0
    refine Keeps.ite ?_ ?_
    · exact (count_keeps ..).mono rfl
    · exact Keeps.refl _ _
  clear_value x0
  exact Keeps.after (by assumption) (complete_keeps ..) rfl

theorem noteStall_keeps (a0 a1 s) : Keeps [.fns] s (noteStall a0 a1 s) := by
  unfold noteStall
  refine Keeps.ite ?_ ?_
  · exact (modRing_keeps ..).mono rfl
  · exact Keeps.refl _ _

theorem noteStalls_keeps (s) : Keeps [.fns] s (noteStalls s) := by
  unfold noteStalls
  refine Keeps.foldl ?_ (fun t0 z1 => ?_)
  · exact Keeps.refl _ _
  · refine Keeps.foldl ?_ (fun t2 z3 => ?_)
    · exact Keeps.refl _ _
    · exact (noteStall_keeps ..).mono rfl

theorem takeDesc_keeps (f r d s) : Keeps [.nextId, .out, .fns, .works, .stats, .pvStats, .qos] s (takeDesc f r d s) := by
  have start : ∀ b : Bool, Keeps [.nextId, .out, .fns, .works, .stats, .pvStats, .qos] s (if b then takeVisit f s else s) := by
    intro b
    refine Keeps.ite ?_ (Keeps.refl _ _)
    exact (takeVisit_keeps ..).mono rfl
  unfold takeDesc
  extract_lets x b t
  have ht : Keeps [.nextId, .out, .fns, .works, .stats, .pvStats, .qos] s t := start b
  clear_value t b
  split
  rename_i y id u h
  have hu : Keeps [.nextId, .out, .fns, .works, .stats, .pvStats, .qos] s u := Keeps.of2 h (ht.after (fresh_keeps ..) rfl)
  extract_lets w u1 u2 u3
  have h1 : Keeps [.nextId, .out, .fns, .works, .stats, .pvStats, .qos] s u1 := hu.after (modFn_keeps ..) rfl
  clear_value u1
  have h2 : Keeps [.nextId, .out, .fns, .works, .stats, .pvStats, .qos] s u2 := h1.after (modRing_keeps ..) rfl
  clear_value u2
  have h3 : Keeps [.nextId, .out, .fns, .works, .stats, .pvStats, .qos] s u3 := (h2.after (upd_works _) rfl).after (count_keeps ..) rfl
  clear_value u3
  split
  · exact h3.after (failWork_keeps ..) rfl
  · exact h3

theorem doFetch_keeps (a0 a1 a2 s) : Keeps [.nextId, .out, .fns, .works, .stats, .pvStats, .qos] s (doFetch a0 a1 a2 s) := by
  unfold doFetch
  extract_lets -merge x0
  have hx0 : Keeps [.nextId, .out, .fns, .works, .stats, .pvStats, .qos] s x0 := by
    unfold x0
    exact (hostRead_keeps ..).mono rfl
  clear_value x0
  refine Keeps.ite ?_ ?_
  · split
    · exact Keeps.after (by assumption) (haltRing_keeps ..) rfl
    · extract_lets -merge x4
      refine Keeps.ite ?_ ?_
      · exact Keeps.after (by assumption) (modRing_keeps ..) rfl
      · exact Keeps.after (by assumption) (takeDesc_keeps ..) rfl
  · exact (noteStall_keeps ..).mono rfl

theorem doModTimer_keeps (a0 a1 s) : Keeps [.out, .fns] s (doModTimer a0 a1 s) := by
  unfold doModTimer
  split
  · extract_lets -merge x2
    split
    · refine Keeps.ite ?_ ?_
      · refine Keeps.after ?_ (fire_keeps ..) rfl
        exact (modRing_keeps ..).mono rfl
      · exact Keeps.refl _ _
    · exact Keeps.refl _ _
  · extract_lets -merge x9
    split
    · refine Keeps.ite ?_ ?_
      · refine Keeps.after ?_ (fire_keeps ..) rfl
        exact (modFn_keeps ..).mono rfl
      · exact Keeps.refl _ _
    · exact Keeps.refl _ _

theorem doUnmask_keeps (a0 a1 s) : Keeps [.out, .fns] s (doUnmask a0 a1 s) := by
  unfold doUnmask
  extract_lets -merge x0 x1
  have hx1 : Keeps [.out, .fns] s x1 := by
    unfold x1
    exact (modFn_keeps ..).mono rfl
  clear_value x1
  refine Keeps.ite ?_ ?_
  · refine Keeps.ite ?_ ?_
    · exact Keeps.after (by assumption) (emit_keeps ..) rfl
    · assumption
  · exact Keeps.refl _ _

theorem doBadAccess_keeps (a0 a1 a2 a3 s) : Keeps [.out] s (doBadAccess a0 a1 a2 a3 s) := by
  unfold doBadAccess
  refine Keeps.ite ?_ ?_
  · exact (emit_keeps ..).mono rfl
  · exact Keeps.refl _ _

theorem doPowerState_keeps (a0 a1 s) : Keeps [.fns] s (doPowerState a0 a1 s) := by
  unfold doPowerState
  refine Keeps.ite ?_ ?_
  · exact (modFn_keeps ..).mono rfl
  · exact Keeps.refl _ _

theorem doVfEnable_keeps (a0 s) : Keeps [.fns] s (doVfEnable a0 s) := by
  unfold doVfEnable
  refine Keeps.ite ?_ ?_
  · exact (upd_fns _).mono rfl
  · exact Keeps.refl _ _

end Sys2Proof.Machine
end

