-- ==== Sys2Proof/Laws/KeepsTiers.lean ====
section
/-! SUPPORT. What each operation of Machine/Tiers.lean leaves alone. -/

namespace Sys2Proof.Machine

theorem modTier_keeps (g) (s : State) (h : (modTier g s).words = s.words) : Keeps [.tier] s (modTier g s) := upd_tier _ h
theorem modTier_touch (g) (s : State) : Keeps [.tier, .words] s (modTier g s) := touch_tier _
theorem setShares_keeps (s) : Keeps [.ranges] s (setShares s) := by
  unfold setShares
  exact (upd_ranges _).mono rfl

theorem serveBar2_keeps (a0 a1 s) : Keeps [.nextId, .out, .fns, .stats, .pvStats, .ranges, .tier, .scan, .flash, .qos] s (serveBar2 a0 a1 s).2 := by
  unfold serveBar2
  extract_lets -merge x0
  refine Keeps.ite2 ?_ ?_
  · split
    · rename_i y1 y2 y3
      have ky2 : Keeps [.nextId, .out, .fns, .stats, .pvStats, .ranges, .tier, .scan, .flash, .qos] s y2 := by
        refine Keeps.of2 y3 ?_
        exact (writeBack_keeps ..).mono rfl
      refine Keeps.mk2 ?_
      assumption
    · rename_i y4 y5 y6
      have ky5 : Keeps [.nextId, .out, .fns, .stats, .pvStats, .ranges, .tier, .scan, .flash, .qos] s y5 := by
        refine Keeps.of2 y6 ?_
        exact (writeBack_keeps ..).mono rfl
      refine Keeps.mk2 ?_
      assumption
    · rename_i y7 y8 y9 y10
      have ky9 : Keeps [.nextId, .out, .fns, .stats, .pvStats, .ranges, .tier, .scan, .flash, .qos] s y9 := by
        refine Keeps.of2 y10 ?_
        exact (writeBack_keeps ..).mono rfl
      refine Keeps.mk2 ?_
      refine Keeps.after ?_ (modTier_keeps _ _ ?_) rfl
      · assumption
      · rfl
  · split
    · rename_i y11 y12 y13 y14 y15
      have ky14 : Keeps [.nextId, .out, .fns, .stats, .pvStats, .ranges, .tier, .scan, .flash, .qos] s y14 := by
        refine Keeps.of2 y15 ?_
        exact (readFor_keeps ..).mono rfl
      refine Keeps.mk2 ?_
      refine Keeps.after ?_ (emit_keeps ..) rfl
      refine Keeps.after ?_ (modTier_keeps _ _ ?_) rfl
      · assumption
      · rfl
    · rename_i y16 y17 y18 y19
      have ky18 : Keeps [.nextId, .out, .fns, .stats, .pvStats, .ranges, .tier, .scan, .flash, .qos] s y18 := by
        refine Keeps.of2 y19 ?_
        exact (readFor_keeps ..).mono rfl
      refine Keeps.mk2 ?_
      exact Keeps.after (by assumption) (emit_keeps ..) rfl

theorem pumpGo_keeps (f qs left s) : Keeps [.nextId, .out, .fns, .stats, .pvStats, .ranges, .tier, .scan, .flash, .qos] s (pumpGo f qs left s) := by
  induction qs generalizing left s with
  | nil =>
    unfold pumpGo
    refine Keeps.foldl ?_ (fun t0 z1 => ?_)
    · exact (modFn_keeps ..).mono rfl
    · refine Keeps.foldl ?_ (fun t2 z3 => ?_)
      · exact Keeps.refl _ _
      · exact (promote_keeps ..).mono rfl
  | cons q qs ih =>
    unfold pumpGo
    refine Keeps.ite ?_ ?_
    · split
      · rename_i y0 y1 y2
        have ky1 : Keeps [.nextId, .out, .fns, .stats, .pvStats, .ranges, .tier, .scan, .flash, .qos] s y1 := by
          refine Keeps.of2 y2 ?_
          exact (serveBar2_keeps ..).mono rfl
        exact Keeps.after (by assumption) (ih ..) rfl
      · rename_i y3 y4 y5
        have ky4 : Keeps [.nextId, .out, .fns, .stats, .pvStats, .ranges, .tier, .scan, .flash, .qos] s y4 := by
          refine Keeps.of2 y5 ?_
          exact (serveBar2_keeps ..).mono rfl
        exact Keeps.after (by assumption) (ih ..) rfl
    · exact (ih ..).mono rfl

theorem pumpBar2_keeps (a0 s) : Keeps [.nextId, .out, .fns, .stats, .pvStats, .ranges, .tier, .scan, .flash, .qos] s (pumpBar2 a0 s) := by
  unfold pumpBar2
  exact (pumpGo_keeps ..).mono rfl

theorem doMigrate_keeps (a0 s) : Keeps [.nextId, .out, .fns, .works, .stats, .pvStats, .ranges, .tier, .scan, .flash, .qos] s (doMigrate a0 s) := by
  unfold doMigrate
  extract_lets -merge x0
  refine Keeps.ite ?_ ?_
  · exact (failWork_keeps ..).mono rfl
  · refine Keeps.ite ?_ ?_
    · exact (failWork_keeps ..).mono rfl
    · refine Keeps.after ?_ (tierNext_keeps ..) rfl
      exact (startWork_keeps ..).mono rfl

theorem doPin_keeps (a0 s) : Keeps [.nextId, .out, .fns, .works, .stats, .pvStats, .ranges, .tier, .scan, .flash, .qos] s (doPin a0 s) := by
  unfold doPin
  extract_lets -merge x0 x1
  refine Keeps.ite ?_ ?_
  · refine Keeps.after ?_ (tierNext_keeps ..) rfl
    exact (startWork_keeps ..).mono rfl
  · exact (failWork_keeps ..).mono rfl

theorem doFlush_keeps (a0 s) : Keeps [.nextId, .out, .fns, .works, .stats, .pvStats, .ranges, .tier, .scan, .flash, .qos] s (doFlush a0 s) := by
  unfold doFlush
  extract_lets -merge x0 x1 x2
  refine Keeps.ite ?_ ?_
  · refine Keeps.after ?_ (flushGo_keeps ..) rfl
    exact (startWork_keeps ..).mono rfl
  · refine Keeps.after ?_ (failWork_keeps ..) rfl
    exact (noteQuota_keeps ..).mono rfl

theorem dropCopy_keeps (a0 a1 a2 s) : Keeps [.nextId, .out, .fns, .works, .stats, .pvStats, .ranges, .tier, .scan, .flash, .qos] s (dropCopy a0 a1 a2 s) := by
  unfold dropCopy
  split
  · exact Keeps.refl _ _
  · extract_lets -merge x5
    have hx5 : Keeps [.nextId, .out, .fns, .works, .stats, .pvStats, .ranges, .tier, .scan, .flash, .qos] s x5 := by
      unfold x5
      exact (modPage_keeps ..).mono rfl
    clear_value x5
    split
    · refine Keeps.after ?_ (tierNext_keeps ..) rfl
      exact Keeps.after (by assumption) (modWork_keeps ..) rfl
    · assumption

theorem copyDone_keeps (a0 s) : Keeps [.nextId, .out, .fns, .works, .stats, .pvStats, .ranges, .tier, .scan, .flash, .qos] s (copyDone a0 s) := by
  unfold copyDone
  split
  · refine Keeps.after ?_ (tierNext_keeps ..) rfl
    exact (modWork_keeps ..).mono rfl
  · exact Keeps.refl _ _

theorem copyAgain_keeps (a0 a1 a2 s) : Keeps [.nextId, .out, .fns, .stats, .pvStats, .ranges, .tier, .scan, .flash] s (copyAgain a0 a1 a2 s) := by
  unfold copyAgain
  extract_lets -merge x0
  have hx0 : ∀ a1, Keeps [.nextId, .out, .fns, .stats, .pvStats, .ranges, .tier, .scan, .flash] a1 (x0 a1) := by
    intro a1
    unfold x0
    exact (modPage_keeps ..).mono rfl
  clear_value x0
  refine Keeps.ite ?_ ?_
  · refine Keeps.then_ ?_ (hx0 ..)
    exact (t2Write_keeps ..).mono rfl
  · refine Keeps.ite ?_ ?_
    · refine Keeps.then_ ?_ (hx0 ..)
      exact (copyDown_keeps ..).mono rfl
    · exact Keeps.refl _ _

theorem doSwitch_keeps (a0 a1 s) : Keeps [.nextId, .out, .fns, .works, .stats, .pvStats, .ranges, .tier, .scan, .flash, .qos] s (doSwitch a0 a1 s) := by
  unfold doSwitch
  extract_lets -merge x0 x1
  split
  · exact Keeps.refl _ _
  · refine Keeps.ite ?_ ?_
    · refine Keeps.ite ?_ ?_
      · exact (dropCopy_keeps ..).mono rfl
      · refine Keeps.ite ?_ ?_
        · refine Keeps.after ?_ (dropCopy_keeps ..) rfl
          refine Keeps.ite ?_ ?_
          · exact (modPage_keeps ..).mono rfl
          · exact Keeps.refl _ _
        · refine Keeps.ite ?_ ?_
          · exact (dropCopy_keeps ..).mono rfl
          · refine Keeps.ite ?_ ?_
            · exact (copyAgain_keeps ..).mono rfl
            · refine Keeps.ite ?_ ?_
              · exact (dropCopy_keeps ..).mono rfl
              · refine Keeps.after ?_ (pumpBar2_keeps ..) rfl
                refine Keeps.after ?_ (copyDone_keeps ..) rfl
                refine Keeps.after ?_ (migrated_keeps ..) rfl
                exact (switchPage_keeps ..).mono rfl
    · exact Keeps.refl _ _

theorem doPromoted_keeps (a0 a1 a2 s) : Keeps [.nextId, .out, .fns, .works, .stats, .pvStats, .ranges, .tier, .scan, .flash, .qos] s (doPromoted a0 a1 a2 s) := by
  unfold doPromoted
  extract_lets -merge x0 x1
  have hx1 : Keeps [.nextId, .out, .fns, .works, .stats, .pvStats, .ranges, .tier, .scan, .flash, .qos] s x1 := by
    unfold x1
    refine Keeps.after ?_ (modPage_keeps ..) rfl
    exact (landPage_keeps ..).mono rfl
  clear_value x1
  split
  · exact Keeps.refl _ _
  · refine Keeps.ite ?_ ?_
    · refine Keeps.ite ?_ ?_
      · refine Keeps.after ?_ (dropCopy_keeps ..) rfl
        exact (memError_keeps ..).mono rfl
      · refine Keeps.ite ?_ ?_
        · exact (dropCopy_keeps ..).mono rfl
        · refine Keeps.after ?_ (copyDone_keeps ..) rfl
          refine Keeps.after ?_ (pumpBar2_keeps ..) rfl
          exact Keeps.after (by assumption) (migrated_keeps ..) rfl
    · exact Keeps.refl _ _

theorem doAutoPromote_keeps (a0 a1 s) : Keeps [.nextId, .out, .fns, .stats, .pvStats, .ranges, .tier, .scan, .flash, .qos] s (doAutoPromote a0 a1 s) := by
  unfold doAutoPromote
  extract_lets -merge x0
  refine Keeps.ite ?_ ?_
  · exact (promote_keeps ..).mono rfl
  · exact Keeps.refl _ _

theorem doPolicyDemote_keeps (a0 a1 s) : Keeps [.nextId, .out, .fns, .stats, .pvStats, .ranges, .tier, .scan, .flash, .qos] s (doPolicyDemote a0 a1 s) := by
  unfold doPolicyDemote
  extract_lets -merge x0 x1 x2
  refine Keeps.ite ?_ ?_
  · exact (demoteFirst_keeps ..).mono rfl
  · exact Keeps.refl _ _

theorem doBar2_keeps (a0 a1 a2 a3 a4 s) : Keeps [.nextId, .out, .fns, .stats, .pvStats, .ranges, .tier, .scan, .flash, .qos] s (doBar2 a0 a1 a2 a3 a4 s) := by
  unfold doBar2
  extract_lets -merge x0 x1
  have hx1 : ∀ a2, Keeps [.nextId, .out, .fns, .stats, .pvStats, .ranges, .tier, .scan, .flash, .qos] a2 (x1 a2) := by
    intro a2
    unfold x1
    exact (modFn_keeps ..).mono rfl
  clear_value x1
  refine Keeps.ite ?_ ?_
  · refine Keeps.ite ?_ ?_
    · refine Keeps.ite ?_ ?_
      · exact Keeps.refl _ _
      · exact (emit_keeps ..).mono rfl
    · refine Keeps.ite ?_ ?_
      · refine Keeps.ite ?_ ?_
        · exact Keeps.refl _ _
        · refine Keeps.ite ?_ ?_
          · split
            · rename_i y3 y4 y5
              have ky4 : Keeps [.nextId, .out, .fns, .stats, .pvStats, .ranges, .tier, .scan, .flash, .qos] s y4 := by
                refine Keeps.of2 y5 ?_
                exact (serveBar2_keeps ..).mono rfl
              assumption
            · rename_i y6 y7 y8
              have ky7 : Keeps [.nextId, .out, .fns, .stats, .pvStats, .ranges, .tier, .scan, .flash, .qos] s y7 := by
                refine Keeps.of2 y8 ?_
                exact (serveBar2_keeps ..).mono rfl
              refine Keeps.then_ ?_ (hx1 ..)
              assumption
          · refine Keeps.then_ ?_ (hx1 ..)
            refine Keeps.foldl ?_ (fun t9 z10 => ?_)
            · exact Keeps.refl _ _
            · exact (promote_keeps ..).mono rfl
      · exact Keeps.refl _ _
  · exact Keeps.refl _ _

theorem doBar2Expiry_keeps (a0 s) : Keeps [.out, .fns, .tier] s (doBar2Expiry a0 s) := by
  unfold doBar2Expiry
  split
  · extract_lets -merge x4
    have hx4 : Keeps [.out, .fns, .tier] s x4 := by
      unfold x4
      exact (modFn_keeps ..).mono rfl
    clear_value x4
    refine Keeps.ite ?_ ?_
    · refine Keeps.ite ?_ ?_
      · refine Keeps.after ?_ (modTier_keeps _ _ ?_) rfl
        · assumption
        · rfl
      · refine Keeps.after ?_ (emit_keeps ..) rfl
        refine Keeps.after ?_ (modTier_keeps _ _ ?_) rfl
        · assumption
        · rfl
    · exact Keeps.refl _ _
  · exact Keeps.refl _ _

theorem fenceHit_keeps (a0 s) : Keeps [.stats, .pvStats, .tier, .scan] s (fenceHit a0 s) := by
  unfold fenceHit
  refine Keeps.after ?_ (count_keeps ..) rfl
  refine Keeps.after ?_ (modTier_keeps _ _ ?_) rfl
  · exact (modStack_keeps ..).mono rfl
  · rfl

theorem tagError_keeps (a0 a1 a2 s) : Keeps [.tier, .integ] s (tagError a0 a1 a2 s) := by
  unfold tagError
  extract_lets -merge x0 x1
  refine Keeps.after ?_ (upd_tier_integ _ _ ?_) rfl
  · exact Keeps.refl _ _
  · rfl

theorem rowError_keeps (a0 a1 a2 s) : Keeps [.out, .fns, .tier] s (rowError a0 a1 a2 s) := by
  unfold rowError
  refine Keeps.after ?_ (nodeEvent_keeps ..) rfl
  refine Keeps.after ?_ (modTier_keeps _ _ ?_) rfl
  · exact Keeps.refl _ _
  · rfl

theorem noteFlip_keeps (a0 s) : Keeps [.ranges] s (noteFlip a0 s) := by
  unfold noteFlip
  extract_lets -merge x0 x1
  refine Keeps.ite ?_ ?_
  · exact (modPage_keeps ..).mono rfl
  · exact Keeps.refl _ _

theorem scrubRange_keeps (a0 s) : Keeps [.out, .fns, .stats, .pvStats, .ranges, .tier, .scan] s (scrubRange a0 s) := by
  unfold scrubRange
  refine Keeps.foldl ?_ (fun t0 z1 => ?_)
  · exact Keeps.refl _ _
  · exact (readWords_keeps ..).mono rfl

theorem doScrub_keeps (a0 s) : Keeps [.out, .fns, .stats, .pvStats, .ranges, .tier, .scan] s (doScrub a0 s) := by
  unfold doScrub
  refine Keeps.ite ?_ ?_
  · split
    · refine Keeps.after ?_ (readWords_keeps ..) rfl
      exact (noteFlip_keeps ..).mono rfl
    · refine Keeps.ite ?_ ?_
      · exact Keeps.refl _ _
      · refine Keeps.ite ?_ ?_
        · exact (countCe_keeps ..).mono rfl
        · refine Keeps.after ?_ (countUe_keeps ..) rfl
          exact (rowError_keeps ..).mono rfl
  · exact Keeps.refl _ _

theorem memSlot_keeps (a0 s) : Keeps [.ranges] s (memSlot a0 s) := by
  unfold memSlot
  extract_lets -merge x0 x1
  have hx0 : Keeps [.ranges] s x0 := by
    unfold x0
    refine Keeps.foldl ?_ (fun t2 z3 => ?_)
    · exact Keeps.refl _ _
    · exact (noteFlip_keeps ..).mono rfl
  have hx1 : Keeps [.ranges] s x1 := by
    unfold x1
    exact Keeps.after (by assumption) (upd_ranges _) rfl
  clear_value x0 x1
  refine Keeps.foldl ?_ (fun t4 z5 => ?_)
  · assumption
  · refine Keeps.ite ?_ ?_
    · exact (modRange_keeps ..).mono rfl
    · exact Keeps.refl _ _

theorem doQuiesce_keeps (a0 a1 a2 s) : Keeps [.nextId, .out, .fns, .stats, .pvStats, .ranges, .tier, .scan, .flash, .qos] s (doQuiesce a0 a1 a2 s) := by
  unfold doQuiesce
  extract_lets -merge x0 x1 x2 x3
  have hx2 : Keeps [.nextId, .out, .fns, .stats, .pvStats, .ranges, .tier, .scan, .flash, .qos] s x2 := by
    unfold x2
    exact (modStack_keeps ..).mono rfl
  clear_value x2
  refine Keeps.ite ?_ ?_
  · refine Keeps.ite ?_ ?_
    · refine Keeps.ite ?_ ?_
      · exact Keeps.after (by assumption) (setShares_keeps ..) rfl
      · refine Keeps.foldl ?_ (fun t4 z5 => ?_)
        · exact Keeps.refl _ _
        · exact (demoteFirst_keeps ..).mono rfl
    · refine Keeps.ite ?_ ?_
      · exact Keeps.after (by assumption) (setShares_keeps ..) rfl
      · exact Keeps.refl _ _
  · exact Keeps.refl _ _

theorem doGhApply_keeps (a0 a1 s) : Keeps [.ranges, .scan] s (doGhApply a0 a1 s) := by
  unfold doGhApply
  split
  · refine Keeps.ite ?_ ?_
    · refine Keeps.after ?_ (setShares_keeps ..) rfl
      exact (modStack_keeps ..).mono rfl
    · exact Keeps.refl _ _
  · exact Keeps.refl _ _

theorem writeTierCfg_keeps (a0 s) : Keeps [.tier, .words] s (writeTierCfg a0 s) := by
  unfold writeTierCfg
  refine Keeps.ite ?_ ?_
  · refine Keeps.ite ?_ ?_
    · refine Keeps.after ?_ (modTier_keeps _ _ ?_) rfl
      · exact Keeps.refl _ _
      · rfl
    · exact (modTier_touch ..).mono rfl
  · exact Keeps.refl _ _

theorem writeT2_keeps (a0 a1 a2 s) : Keeps [.ranges] s (writeT2 a0 a1 a2 s) := by
  unfold writeT2
  extract_lets -merge x0 x1 x2
  refine Keeps.ite ?_ ?_
  · refine Keeps.ite ?_ ?_
    · exact (modRange_keeps ..).mono rfl
    · exact (modRange_keeps ..).mono rfl
  · exact Keeps.refl _ _

theorem writeBar2Win_keeps (a0 a1 s) : Keeps [.fns, .ranges] s (writeBar2Win a0 a1 s) := by
  unfold writeBar2Win
  refine Keeps.ite ?_ ?_
  · refine Keeps.ite ?_ ?_
    · exact (modRange_keeps ..).mono rfl
    · exact (modFn_keeps ..).mono rfl
  · exact Keeps.refl _ _

theorem tierFrame_keeps (s) : Keeps [.nextId, .out, .fns, .works, .stats, .pvStats, .ranges, .tier, .scan, .flash, .qos, .words] s (tierFrame s) := by
  have mark : ∀ (t : State) (n : Frame), Keeps [.nextId, .out, .fns, .works, .stats, .pvStats, .ranges, .tier, .scan, .flash, .qos, .words] t (modTier (fun x => { x with scrubAt := n }) t) := fun t n => (modTier_keeps _ _ rfl).mono rfl
  have scrub : ∀ t, Keeps [.nextId, .out, .fns, .works, .stats, .pvStats, .ranges, .tier, .scan, .flash, .qos, .words] t (modTier (fun x => { x with scrubAt := t.hfn }) ((List.range 12).foldl (fun s p => scrubRange p s) t)) := by
    intro t
    exact (Keeps.foldl (Keeps.refl _ _) fun t x => (scrubRange_keeps ..).mono rfl).then_ (mark _ _)
  have pump : ∀ t, Keeps [.nextId, .out, .fns, .works, .stats, .pvStats, .ranges, .tier, .scan, .flash, .qos, .words] t ((List.range 12).foldl (fun s p => pumpBar2 (fnOf p) s) (tierAll t)) := by
    intro t
    exact Keeps.foldl ((tierAll_keeps ..).mono rfl) fun t x => (pumpBar2_keeps ..).mono rfl
  unfold tierFrame
  extract_lets t u v
  have ht : Keeps [.nextId, .out, .fns, .works, .stats, .pvStats, .ranges, .tier, .scan, .flash, .qos, .words] s t := (modTier_touch ..).mono rfl
  clear_value t
  have hu : Keeps [.nextId, .out, .fns, .works, .stats, .pvStats, .ranges, .tier, .scan, .flash, .qos, .words] s u := by
    unfold u
    refine Keeps.ite (ht.after (upd_ranges _) rfl) ht
  clear_value u
  have hv : Keeps [.nextId, .out, .fns, .works, .stats, .pvStats, .ranges, .tier, .scan, .flash, .qos, .words] s v := by
    unfold v
    exact Keeps.ite (hu.then_ (scrub u)) hu
  clear_value v
  exact Keeps.ite (hv.then_ (pump v)) hu

end Sys2Proof.Machine
end

