-- ==== Sys2Proof/Laws/KeepsUpdates.lean ====
section
/-! SUPPORT. What each operation of Machine/Updates.lean leaves alone. -/

namespace Sys2Proof.Machine

theorem modUpd_keeps (g) (s : State) (h : (modUpd g s).words = s.words) : Keeps [.upd] s (modUpd g s) := upd_upd _ h
theorem modUpd_touch (g) (s : State) : Keeps [.upd, .words] s (modUpd g s) := touch_upd _
theorem modBatch_keeps (a0 a1 s) : Keeps [.upd] s (modBatch a0 a1 s) := by
  unfold modBatch
  refine Keeps.after ?_ (modUpd_keeps _ _ ?_) rfl
  · exact Keeps.refl _ _
  · rfl

theorem endBatch_keeps (a0 a1 s) : Keeps [.out, .fns, .works, .stats, .pvStats, .corpora, .upd] s (endBatch a0 a1 s) := by
  unfold endBatch
  extract_lets -merge x0 x1 x2 x3 x4 x5 x6 x7 x8 x9
  have hx1 : Keeps [.out, .fns, .works, .stats, .pvStats, .corpora, .upd] s x1 := by
    unfold x1
    refine Keeps.ite ?_ ?_
    · refine Keeps.foldl ?_ (fun t10 z11 => ?_)
      · exact Keeps.refl _ _
      · exact (dropElem_keeps ..).mono rfl
    · exact Keeps.refl _ _
  have hx7 : Keeps [.out, .fns, .works, .stats, .pvStats, .corpora, .upd] s x7 := by
    unfold x7
    exact Keeps.after (by assumption) (modCorpus_keeps ..) rfl
  have hx8 : Keeps [.out, .fns, .works, .stats, .pvStats, .corpora, .upd] s x8 := by
    unfold x8
    refine Keeps.after ?_ (modUpd_keeps _ _ ?_) rfl
    · assumption
    · rfl
  have hx9 : Keeps [.out, .fns, .works, .stats, .pvStats, .corpora, .upd] s x9 := by
    unfold x9
    refine Keeps.ite ?_ ?_
    · assumption
    · exact Keeps.after (by assumption) (count_keeps ..) rfl
  clear_value x1 x7 x8 x9
  exact Keeps.after (by assumption) (completeId_keeps ..) rfl

theorem settleBatch_keeps (a0 s) : Keeps [.out, .fns, .works, .stats, .pvStats, .corpora, .upd] s (settleBatch a0 s) := by
  unfold settleBatch
  split
  · refine Keeps.ite ?_ ?_
    · exact (endBatch_keeps ..).mono rfl
    · exact Keeps.refl _ _
  · exact Keeps.refl _ _

theorem sendNotice_keeps (a0 a1 s) : Keeps [.out, .stats, .pvStats, .fab, .qos] s (sendNotice a0 a1 s) := by
  unfold sendNotice
  extract_lets -merge x0 x1 x2
  have hx2 : Keeps [.out, .stats, .pvStats, .fab, .qos] s x2 := by
    unfold x2
    refine Keeps.ite ?_ ?_
    · exact Keeps.refl _ _
    · exact (sendMsg_keeps ..).mono rfl
  clear_value x2
  refine Keeps.ite ?_ ?_
  · assumption
  · exact Keeps.after (by assumption) (sendMsg_keeps ..) rfl

theorem sendNotices_keeps (a0 s) : Keeps [.out, .stats, .pvStats, .upd, .fab, .qos] s (sendNotices a0 s) := by
  unfold sendNotices
  split
  · exact Keeps.refl _ _
  · extract_lets -merge x5 x6
    have hx6 : Keeps [.out, .stats, .pvStats, .upd, .fab, .qos] s x6 := by
      unfold x6
      refine Keeps.foldl ?_ (fun t7 z8 => ?_)
      · exact Keeps.refl _ _
      · exact (sendNotice_keeps ..).mono rfl
    clear_value x6
    exact Keeps.after (by assumption) (modBatch_keeps ..) rfl

theorem reserveElem_keeps (a0 a1 a2 s) : KeepsOP [.corpora] s (reserveElem a0 a1 a2 s) := by
  unfold reserveElem
  extract_lets -merge x0 x1
  refine KeepsOP.ite ?_ ?_
  · split
    · refine KeepsOP.ite ?_ ?_
      · refine KeepsOP.some ?_
        exact (modCorpus_keeps ..).mono rfl
      · exact KeepsOP.none _ _
    · exact KeepsOP.none _ _
  · split
    · exact KeepsOP.none _ _
    · rename_i y9 y10 y11 y12
      have ky11 : Keeps [.corpora] s y11 := by
        refine KeepsOP.get y12 ?_
        refine KeepsOP.after ?_ (numberElem_keeps ..) rfl
        exact Keeps.refl _ _
      extract_lets -merge x13
      split
      · refine KeepsOP.ite ?_ ?_
        · refine KeepsOP.some ?_
          exact Keeps.after (by assumption) (modCorpus_keeps ..) rfl
        · exact KeepsOP.none _ _
      · exact KeepsOP.none _ _

theorem reserveElems_keeps (p d es s) : KeepsOP [.corpora] s (reserveElems p d es s) := by
  induction es generalizing s with
  | nil => exact KeepsOP.some (Keeps.refl _ _)
  | cons e es ih =>
    unfold reserveElems
    split
    · exact KeepsOP.none _ _
    · rename_i y2 y3 y4 y5
      have ky4 : Keeps [.corpora] s y4 := by
        refine KeepsOP.get y5 ?_
        refine KeepsOP.after ?_ (reserveElem_keeps ..) rfl
        exact Keeps.refl _ _
      split
      · rename_i y6 y7 y8 y9
        have ky8 : Keeps [.corpora] s y8 := by
          refine KeepsOP.get y9 ?_
          refine KeepsOP.after ?_ (ih ..) rfl
          assumption
        refine KeepsOP.some ?_
        assumption
      · exact KeepsOP.none _ _

theorem prepBatch_keeps (a0 s) : Keeps [.out, .fns, .works, .stats, .pvStats, .corpora, .upd, .fab, .qos] s (prepBatch a0 s) := by
  unfold prepBatch
  split
  · exact Keeps.refl _ _
  · refine Keeps.ite ?_ ?_
    · exact (endBatch_keeps ..).mono rfl
    · split
      · exact (endBatch_keeps ..).mono rfl
      · rename_i y7 y8 y9 y10
        have ky9 : Keeps [.out, .fns, .works, .stats, .pvStats, .corpora, .upd, .fab, .qos] s y9 := by
          refine KeepsOP.get y10 ?_
          refine KeepsOP.after ?_ (reserveElems_keeps ..) rfl
          exact Keeps.refl _ _
        extract_lets -merge x11
        refine Keeps.after ?_ (sendNotices_keeps ..) rfl
        exact Keeps.after (by assumption) (modBatch_keeps ..) rfl

theorem tallyElems_keeps (a0 a1 s) : Keeps [.corpora] s (tallyElems a0 a1 s) := by
  unfold tallyElems
  exact (modCorpus_keeps ..).mono rfl

theorem firstPrep_keeps (a0 s) : Keeps [.out, .fns, .works, .stats, .pvStats, .corpora, .upd, .fab, .qos] s (firstPrep a0 s) := by
  unfold firstPrep
  refine Keeps.after ?_ (prepBatch_keeps ..) rfl
  refine Keeps.ite ?_ ?_
  · exact Keeps.refl _ _
  · exact (tallyElems_keeps ..).mono rfl

theorem seqGate_keeps (a0 s) : Keeps [.out, .fns, .works, .stats, .pvStats, .corpora, .upd, .fab, .qos] s (seqGate a0 s) := by
  unfold seqGate
  split
  · exact Keeps.refl _ _
  · extract_lets -merge x5 x6
    have hx6 : Keeps [.out, .fns, .works, .stats, .pvStats, .corpora, .upd, .fab, .qos] s x6 := by
      unfold x6
      refine Keeps.after ?_ (modUpd_keeps _ _ ?_) rfl
      · exact Keeps.refl _ _
      · rfl
    clear_value x6
    refine Keeps.ite ?_ ?_
    · exact (firstPrep_keeps ..).mono rfl
    · split
      · exact (endBatch_keeps ..).mono rfl
      · extract_lets -merge x12 x13
        refine Keeps.ite ?_ ?_
        · refine Keeps.after ?_ (completeId_keeps ..) rfl
          refine Keeps.ite ?_ ?_
          · assumption
          · exact Keeps.after (by assumption) (count_keeps ..) rfl
        · refine Keeps.after ?_ (firstPrep_keeps ..) rfl
          exact (modBatch_keeps ..).mono rfl

theorem enterBatch_keeps (a0 a1 a2 s) : Keeps [.out, .fns, .works, .stats, .pvStats, .corpora, .upd, .fab, .qos] s (enterBatch a0 a1 a2 s) := by
  unfold enterBatch
  extract_lets -merge x0 x1 x2 x3
  have hx3 : Keeps [.out, .fns, .works, .stats, .pvStats, .corpora, .upd, .fab, .qos] s x3 := by
    unfold x3
    refine Keeps.after ?_ (modWork_keeps ..) rfl
    refine Keeps.after ?_ (modUpd_keeps _ _ ?_) rfl
    · exact Keeps.refl _ _
    · rfl
  clear_value x3
  refine Keeps.ite ?_ ?_
  · assumption
  · exact Keeps.after (by assumption) (seqGate_keeps ..) rfl

theorem doUpsert_keeps (a0 a1 s) : Keeps [.out, .fns, .works, .stats, .pvStats, .corpora, .upd, .fab, .qos] s (doUpsert a0 a1 s) := by
  unfold doUpsert
  split
  · exact Keeps.refl _ _
  · extract_lets -merge x5 x6
    have hx5 : Keeps [.out, .fns, .works, .stats, .pvStats, .corpora, .upd, .fab, .qos] s x5 := by
      unfold x5
      exact (hostRead_keeps ..).mono rfl
    clear_value x5
    refine Keeps.ite ?_ ?_
    · split
      · exact Keeps.after (by assumption) (failWork_keeps ..) rfl
      · extract_lets -merge x10
        split
        · exact Keeps.after (by assumption) (failWork_keeps ..) rfl
        · exact Keeps.after (by assumption) (failWork_keeps ..) rfl
        · refine Keeps.ite ?_ ?_
          · exact Keeps.after (by assumption) (enterBatch_keeps ..) rfl
          · exact Keeps.after (by assumption) (failWork_keeps ..) rfl
    · exact Keeps.refl _ _

theorem doDelete_keeps (a0 a1 s) : Keeps [.out, .fns, .works, .stats, .pvStats, .corpora, .upd, .fab, .qos] s (doDelete a0 a1 s) := by
  unfold doDelete
  split
  · exact Keeps.refl _ _
  · extract_lets -merge x5
    have hx5 : Keeps [.out, .fns, .works, .stats, .pvStats, .corpora, .upd, .fab, .qos] s x5 := by
      unfold x5
      exact (hostRead_keeps ..).mono rfl
    clear_value x5
    refine Keeps.ite ?_ ?_
    · split
      · exact Keeps.after (by assumption) (failWork_keeps ..) rfl
      · extract_lets -merge x9
        refine Keeps.ite ?_ ?_
        · exact Keeps.after (by assumption) (failWork_keeps ..) rfl
        · refine Keeps.ite ?_ ?_
          · exact Keeps.after (by assumption) (enterBatch_keeps ..) rfl
          · exact Keeps.after (by assumption) (failWork_keeps ..) rfl
    · exact Keeps.refl _ _

theorem doSeqRelease_keeps (a0 s) : Keeps [.out, .fns, .works, .stats, .pvStats, .corpora, .upd, .fab, .qos] s (doSeqRelease a0 s) := by
  unfold doSeqRelease
  split
  · split
    · refine Keeps.ite ?_ ?_
      · exact (seqGate_keeps ..).mono rfl
      · exact Keeps.refl _ _
    · exact Keeps.refl _ _
  · exact Keeps.refl _ _

theorem reprep_keeps (a0 s) : Keeps [.out, .fns, .works, .stats, .pvStats, .corpora, .upd, .fab, .qos] s (reprep a0 s) := by
  unfold reprep
  extract_lets -merge x0 x1
  have hx1 : Keeps [.out, .fns, .works, .stats, .pvStats, .corpora, .upd, .fab, .qos] s x1 := by
    unfold x1
    refine Keeps.foldl ?_ (fun t2 z3 => ?_)
    · exact Keeps.refl _ _
    · exact (dropElem_keeps ..).mono rfl
  clear_value x1
  split
  · exact (endBatch_keeps ..).mono rfl
  · extract_lets -merge x9 x10 x11
    refine Keeps.ite ?_ ?_
    · refine Keeps.after ?_ (prepBatch_keeps ..) rfl
      refine Keeps.after ?_ (modBatch_keeps ..) rfl
      refine Keeps.ite ?_ ?_
      · exact Keeps.after (by assumption) (tallyElems_keeps ..) rfl
      · assumption
    · exact (endBatch_keeps ..).mono rfl

theorem admitBatch_keeps (a0 s) : Keeps [.nextId, .out, .stats, .pvStats, .corpora, .ranges, .upd, .flash, .comp] s (admitBatch a0 s) := by
  unfold admitBatch
  extract_lets -merge x0 x1 x2 x3 x4 x5 x6
  have hx1 : Keeps [.nextId, .out, .stats, .pvStats, .corpora, .ranges, .upd, .flash, .comp] s x1 := by
    unfold x1
    refine Keeps.foldl ?_ (fun t7 z8 => ?_)
    · exact Keeps.refl _ _
    · refine Keeps.ite ?_ ?_
      · exact (dropElem_keeps ..).mono rfl
      · refine Keeps.after ?_ (appendElem_keeps ..) rfl
        exact (writeElem_keeps ..).mono rfl
  have hx2 : Keeps [.nextId, .out, .stats, .pvStats, .corpora, .ranges, .upd, .flash, .comp] s x2 := by
    unfold x2
    refine Keeps.after ?_ (modUpd_keeps _ _ ?_) rfl
    · assumption
    · rfl
  have hx5 : Keeps [.nextId, .out, .stats, .pvStats, .corpora, .ranges, .upd, .flash, .comp] s x5 := by
    unfold x5
    refine Keeps.after ?_ (upd_comp _ ?_) rfl
    · assumption
    · rfl
  have hx6 : Keeps [.nextId, .out, .stats, .pvStats, .corpora, .ranges, .upd, .flash, .comp] s x6 := by
    unfold x6
    exact Keeps.after (by assumption) (modCorpus_keeps ..) rfl
  clear_value x1 x2 x5 x6
  refine Keeps.after ?_ (count_keeps ..) rfl
  exact Keeps.after (by assumption) (modBatch_keeps ..) rfl

theorem doUpdateAdmission_keeps (a0 s) : Keeps [.nextId, .out, .fns, .works, .stats, .pvStats, .corpora, .ranges, .upd, .flash, .fab, .comp, .qos] s (doUpdateAdmission a0 s) := by
  unfold doUpdateAdmission
  split
  · exact Keeps.refl _ _
  · extract_lets -merge x5 x6 x7
    refine Keeps.ite ?_ ?_
    · refine Keeps.ite ?_ ?_
      · exact (endBatch_keeps ..).mono rfl
      · refine Keeps.ite ?_ ?_
        · exact (sendNotices_keeps ..).mono rfl
        · refine Keeps.ite ?_ ?_
          · exact (reprep_keeps ..).mono rfl
          · split
            · exact (admitBatch_keeps ..).mono rfl
            · refine Keeps.after ?_ (endBatch_keeps ..) rfl
              exact (noteQuota_keeps ..).mono rfl
            · exact Keeps.refl _ _
    · exact Keeps.refl _ _

theorem doPrepExpiry_keeps (a0 s) : Keeps [.out, .fns, .works, .stats, .pvStats, .corpora, .upd] s (doPrepExpiry a0 s) := by
  unfold doPrepExpiry
  split
  · refine Keeps.ite ?_ ?_
    · refine Keeps.after ?_ (endBatch_keeps ..) rfl
      refine Keeps.after ?_ (modUpd_keeps _ _ ?_) rfl
      · exact Keeps.refl _ _
      · rfl
    · exact Keeps.refl _ _
  · exact Keeps.refl _ _

theorem doAckTimeout_keeps (a0 s) : Keeps [.out, .fns, .works, .stats, .pvStats, .corpora, .upd] s (doAckTimeout a0 s) := by
  unfold doAckTimeout
  split
  · refine Keeps.ite ?_ ?_
    · exact (endBatch_keeps ..).mono rfl
    · exact Keeps.refl _ _
  · exact Keeps.refl _ _

theorem dropStaged_keeps (a0 s) : Keeps [.corpora, .upd] s (dropStaged a0 s) := by
  unfold dropStaged
  extract_lets -merge x0
  have hx0 : Keeps [.corpora, .upd] s x0 := by
    unfold x0
    refine Keeps.foldl ?_ (fun t1 z2 => ?_)
    · exact Keeps.refl _ _
    · exact (dropElem_keeps ..).mono rfl
  clear_value x0
  refine Keeps.after ?_ (freeElems_keeps ..) rfl
  refine Keeps.after ?_ (modUpd_keeps _ _ ?_) rfl
  · assumption
  · rfl

theorem doStagedDiscard_keeps (a0 s) : Keeps [.corpora, .upd] s (doStagedDiscard a0 s) := by
  unfold doStagedDiscard
  refine Keeps.foldl ?_ (fun t0 z1 => ?_)
  · exact Keeps.refl _ _
  · exact (dropStaged_keeps ..).mono rfl

theorem withdraw_keeps (a0 a1 a2 s) : Keeps [.corpora] s (withdraw a0 a1 a2 s) := by
  unfold withdraw
  extract_lets -merge x0 x1
  exact (modCorpus_keeps ..).mono rfl

theorem doWithdraw_keeps (a0 a1 a2 s) : Keeps [.clk, .stats, .pvStats, .corpora, .upd] s (doWithdraw a0 a1 a2 s) := by
  unfold doWithdraw
  extract_lets -merge x0 x1
  refine Keeps.ite ?_ ?_
  · refine Keeps.after ?_ (count_keeps ..) rfl
    refine Keeps.after ?_ (modBatch_keeps ..) rfl
    refine Keeps.after ?_ (withdraw_keeps ..) rfl
    refine Keeps.after ?_ (upd_clk _ ?_) rfl
    · exact Keeps.refl _ _
    · rfl
  · exact Keeps.refl _ _

theorem sendPreAck_keeps (a0 a1 a2 a3 a4 s) : Keeps [.out, .stats, .pvStats, .fab, .qos] s (sendPreAck a0 a1 a2 a3 a4 s) := by
  unfold sendPreAck
  exact (sendMsg_keeps ..).mono rfl

theorem doPreElem_keeps (a0 a1 a2 s) : Keeps [.nextId, .out, .stats, .pvStats, .corpora, .ranges, .upd, .flash, .fab, .qos] s (doPreElem a0 a1 a2 s) := by
  unfold doPreElem
  extract_lets -merge x0 x1 x2 x3
  have hx2 : Keeps [.nextId, .out, .stats, .pvStats, .corpora, .ranges, .upd, .flash, .fab, .qos] s x2 := by
    unfold x2
    refine Keeps.foldl ?_ (fun t4 z5 => ?_)
    · exact Keeps.refl _ _
    · exact (dropStaged_keeps ..).mono rfl
  clear_value x2
  refine Keeps.ite ?_ ?_
  · assumption
  · split
    · exact Keeps.after (by assumption) (sendPreAck_keeps ..) rfl
    · extract_lets -merge x11
      split
      · exact Keeps.after (by assumption) (sendPreAck_keeps ..) rfl
      · rename_i y14 y15 y16 y17
        have ky16 : Keeps [.nextId, .out, .stats, .pvStats, .corpora, .ranges, .upd, .flash, .fab, .qos] s y16 := by
          refine KeepsOP.get y17 ?_
          refine KeepsOP.after ?_ (reserveElems_keeps ..) rfl
          assumption
        extract_lets -merge x18
        have hx18 : Keeps [.nextId, .out, .stats, .pvStats, .corpora, .ranges, .upd, .flash, .fab, .qos] s x18 := by
          unfold x18
          refine Keeps.foldl ?_ (fun t19 z20 => ?_)
          · assumption
          · exact (writeElem_keeps ..).mono rfl
        clear_value x18
        refine Keeps.ite ?_ ?_
        · refine Keeps.after ?_ (sendPreAck_keeps ..) rfl
          unfold State.stage
          refine Keeps.after ?_ (modUpd_keeps _ _ ?_) rfl
          · assumption
          · rfl
        · exact Keeps.after (by assumption) (sendPreAck_keeps ..) rfl

theorem doPreEid_keeps (a0 a1 a2 s) : Keeps [.out, .stats, .pvStats, .corpora, .upd, .fab, .qos] s (doPreEid a0 a1 a2 s) := by
  unfold doPreEid
  extract_lets -merge x0 x1 x2 x3 x4 x5 x6
  have hx3 : Keeps [.out, .stats, .pvStats, .corpora, .upd, .fab, .qos] s x3 := by
    unfold x3
    refine Keeps.foldl ?_ (fun t7 z8 => ?_)
    · exact Keeps.refl _ _
    · exact (dropStaged_keeps ..).mono rfl
  clear_value x3
  refine Keeps.ite ?_ ?_
  · assumption
  · refine Keeps.ite ?_ ?_
    · split
      · exact Keeps.after (by assumption) (sendPreAck_keeps ..) rfl
      · rename_i y11 y12 y13 y14
        have ky13 : Keeps [.out, .stats, .pvStats, .corpora, .upd, .fab, .qos] s y13 := by
          refine KeepsOP.get y14 ?_
          refine KeepsOP.after ?_ (reserveElems_keeps ..) rfl
          assumption
        refine Keeps.after ?_ (sendPreAck_keeps ..) rfl
        unfold State.stage
        refine Keeps.after ?_ (modUpd_keeps _ _ ?_) rfl
        · assumption
        · rfl
    · refine Keeps.after ?_ (sendPreAck_keeps ..) rfl
      unfold State.stage
      refine Keeps.after ?_ (modUpd_keeps _ _ ?_) rfl
      · assumption
      · rfl

theorem doPreAck_keeps (a0 a1 s) : Keeps [.out, .fns, .works, .stats, .pvStats, .corpora, .upd] s (doPreAck a0 a1 s) := by
  unfold doPreAck
  split
  · exact Keeps.refl _ _
  · extract_lets -merge x5
    refine Keeps.ite ?_ ?_
    · refine Keeps.ite ?_ ?_
      · exact (endBatch_keeps ..).mono rfl
      · exact (modBatch_keeps ..).mono rfl
    · exact Keeps.refl _ _

theorem doFrameMark_keeps (a0 a1 a2 s) : Keeps [.nextId, .stats, .pvStats, .corpora, .upd, .flash, .comp] s (doFrameMark a0 a1 a2 s) := by
  unfold doFrameMark
  extract_lets -merge x0 x1 x2
  have hx2 : Keeps [.nextId, .stats, .pvStats, .corpora, .upd, .flash, .comp] s x2 := by
    unfold x2
    refine Keeps.foldl ?_ (fun t3 z4 => ?_)
    · exact Keeps.refl _ _
    · refine Keeps.foldl ?_ (fun t5 z6 => ?_)
      · exact Keeps.refl _ _
      · extract_lets -merge x7
        have hx7 : Keeps [.nextId, .stats, .pvStats, .corpora, .upd, .flash, .comp] t5 x7 := by
          unfold x7
          refine Keeps.foldl ?_ (fun t8 z9 => ?_)
          · exact Keeps.refl _ _
          · refine Keeps.ite ?_ ?_
            · refine Keeps.after ?_ (modUpd_keeps _ _ ?_) rfl
              · exact (dropElem_keeps ..).mono rfl
              · rfl
            · exact (appendElem_keeps ..).mono rfl
        clear_value x7
        refine Keeps.after ?_ (modUpd_keeps _ _ ?_) rfl
        · assumption
        · rfl
  clear_value x2
  refine Keeps.ite ?_ ?_
  · exact Keeps.refl _ _
  · exact Keeps.after (by assumption) (modCorpus_keeps ..) rfl

theorem doCommitAck_keeps (a0 a1 s) : Keeps [.out, .fns, .works, .stats, .pvStats, .corpora, .upd] s (doCommitAck a0 a1 s) := by
  unfold doCommitAck
  extract_lets -merge x0
  split
  · exact Keeps.refl _ _
  · extract_lets -merge x6 x7
    refine Keeps.ite ?_ ?_
    · refine Keeps.after ?_ (settleBatch_keeps ..) rfl
      exact (modBatch_keeps ..).mono rfl
    · exact Keeps.refl _ _

theorem commitFrame_keeps (a0 s) : Keeps [.out, .fns, .works, .stats, .pvStats, .corpora, .upd, .fab, .qos] s (commitFrame a0 s) := by
  unfold commitFrame
  extract_lets -merge x0 x1 x2 x3
  have hx1 : Keeps [.out, .fns, .works, .stats, .pvStats, .corpora, .upd, .fab, .qos] s x1 := by
    unfold x1
    exact (upd_corpora _).mono rfl
  have hx2 : Keeps [.out, .fns, .works, .stats, .pvStats, .corpora, .upd, .fab, .qos] s x2 := by
    unfold x2
    refine Keeps.foldl ?_ (fun t4 z5 => ?_)
    · assumption
    · exact (sendMsg_keeps ..).mono rfl
  have hx3 : Keeps [.out, .fns, .works, .stats, .pvStats, .corpora, .upd, .fab, .qos] s x3 := by
    unfold x3
    refine Keeps.after ?_ (modUpd_keeps _ _ ?_) rfl
    · assumption
    · rfl
  clear_value x1 x2 x3
  refine Keeps.foldl ?_ (fun t6 z7 => ?_)
  · assumption
  · exact (settleBatch_keeps ..).mono rfl

theorem sendMarks_keeps (a0 s) : Keeps [.out, .stats, .pvStats, .upd, .fab, .qos] s (sendMarks a0 s) := by
  unfold sendMarks
  extract_lets -merge x0
  have hx0 : Keeps [.out, .stats, .pvStats, .upd, .fab, .qos] s x0 := by
    unfold x0
    refine Keeps.foldl ?_ (fun t1 z2 => ?_)
    · exact Keeps.refl _ _
    · extract_lets -merge x3
      refine Keeps.ite ?_ ?_
      · refine Keeps.foldl ?_ (fun t4 z5 => ?_)
        · exact Keeps.refl _ _
        · exact (sendMsg_keeps ..).mono rfl
      · exact Keeps.refl _ _
  clear_value x0
  refine Keeps.after ?_ (modUpd_keeps _ _ ?_) rfl
  · assumption
  · rfl

theorem writeUpdCfg_keeps (a0 s) : Keeps [.upd, .words] s (writeUpdCfg a0 s) := by
  unfold writeUpdCfg
  refine Keeps.ite ?_ ?_
  · refine Keeps.ite ?_ ?_
    · exact (modUpd_touch ..).mono rfl
    · refine Keeps.after ?_ (modUpd_keeps _ _ ?_) rfl
      · exact Keeps.refl _ _
      · rfl
  · exact Keeps.refl _ _

theorem writeMergeCfg_keeps (a0 s) : Keeps [.upd, .words] s (writeMergeCfg a0 s) := by
  unfold writeMergeCfg
  refine Keeps.ite ?_ ?_
  · refine Keeps.ite ?_ ?_
    · exact (modUpd_touch ..).mono rfl
    · refine Keeps.after ?_ (modUpd_keeps _ _ ?_) rfl
      · exact Keeps.refl _ _
      · rfl
  · exact Keeps.refl _ _

theorem clearUpdStat_keeps (a0 s) : Keeps [.upd] s (clearUpdStat a0 s) := by
  unfold clearUpdStat
  refine Keeps.after ?_ (modUpd_keeps _ _ ?_) rfl
  · exact Keeps.refl _ _
  · rfl

end Sys2Proof.Machine
end

