-- ==== Sys2Proof/Laws/KeepsMerge.lean ====
section
/-! SUPPORT. What each operation of Machine/Merge.lean leaves alone. -/

namespace Sys2Proof.Machine

theorem doMergePass_keeps (a0 s) : Keeps [.works, .corpora] s (doMergePass a0 s) := by
  unfold doMergePass
  refine Keeps.after ?_ (modWork_keeps ..) rfl
  exact (modCorpus_keeps ..).mono rfl

theorem doMergeStart_keeps (a0 a1 a2 a3 s) : Keeps [.corpora, .tier, .integ] s (doMergeStart a0 a1 a2 a3 s) := by
  unfold doMergeStart
  extract_lets -merge x0 x1 x2 x3
  have hx1 : ∀ a4 a5, Keeps [.corpora, .tier, .integ] a4 (x1 a4 a5) := by
    intro a4 a5
    unfold x1
    refine Keeps.ite ?_ ?_
    · exact Keeps.refl _ _
    · exact (tagError_keeps ..).mono rfl
  have hx3 : ∀ a6 a7 a8, Keeps [.corpora, .tier, .integ] a8 (x3 a6 a7 a8) := by
    intro a6 a7 a8
    unfold x3
    extract_lets -merge x9 x10
    refine Keeps.foldl ?_ (fun t11 z12 => ?_)
    · exact (modCorpus_keeps ..).mono rfl
    · refine Keeps.then_ ?_ (hx1 ..)
      exact Keeps.refl _ _
  clear_value x1 x3
  refine Keeps.ite ?_ ?_
  · split
    · refine Keeps.then_ ?_ (hx3 ..)
      exact (modCorpus_keeps ..).mono rfl
    · refine Keeps.ite ?_ ?_
      · refine Keeps.then_ ?_ (hx3 ..)
        exact Keeps.refl _ _
      · exact Keeps.refl _ _
  · exact Keeps.refl _ _

theorem doMergePublish_keeps (a0 s) : Keeps [.corpora, .scan] s (doMergePublish a0 s) := by
  unfold doMergePublish
  split
  · exact Keeps.refl _ _
  · extract_lets -merge x5 x6 x7 x8 x9
    have hx5 : Keeps [.corpora, .scan] s x5 := by
      unfold x5
      exact (modCorpus_keeps ..).mono rfl
    have hx7 : Keeps [.corpora, .scan] s x7 := by
      unfold x7
      exact Keeps.after (by assumption) (modCorpus_keeps ..) rfl
    clear_value x5 x7
    refine Keeps.ite ?_ ?_
    · refine Keeps.after ?_ (freeElems_keeps ..) rfl
      refine Keeps.after ?_ (upd_scan _ ?_) rfl
      · assumption
      · rfl
    · exact Keeps.refl _ _

theorem doLeantoReuse_keeps (a0 s) : Keeps [.corpora] s (doLeantoReuse a0 s) := by
  unfold doLeantoReuse
  split
  · refine Keeps.ite ?_ ?_
    · exact (modCorpus_keeps ..).mono rfl
    · exact Keeps.refl _ _
  · exact Keeps.refl _ _

theorem doIndexCommit_keeps (a0 s) : Keeps [.out, .fns, .works, .corpora] s (doIndexCommit a0 s) := by
  unfold doIndexCommit
  split
  · exact Keeps.refl _ _
  · extract_lets -merge x7
    have hx7 : Keeps [.out, .fns, .works, .corpora] s x7 := by
      unfold x7
      exact (modCorpus_keeps ..).mono rfl
    clear_value x7
    refine Keeps.ite ?_ ?_
    · split
      · exact Keeps.after (by assumption) (completeId_keeps ..) rfl
      · assumption
    · exact Keeps.refl _ _

theorem doIndexLoad_keeps (a0 s) : Keeps [.corpora, .scan] s (doIndexLoad a0 s) := by
  unfold doIndexLoad
  extract_lets -merge x0
  refine Keeps.ite ?_ ?_
  · refine Keeps.after ?_ (loadWeights_keeps ..) rfl
    exact (modCorpus_keeps ..).mono rfl
  · exact Keeps.refl _ _

theorem doRecovered_keeps (a0 s) : Keeps [.corpora] s (doRecovered a0 s) := by
  unfold doRecovered
  extract_lets -merge x0
  refine Keeps.ite ?_ ?_
  · exact (modCorpus_keeps ..).mono rfl
  · exact Keeps.refl _ _

end Sys2Proof.Machine
end

