-- ==== Sys2Proof/Laws/KeepsEpochs.lean ====
section
/-! SUPPORT. What each operation of Machine/Epochs.lean leaves alone. -/

namespace Sys2Proof.Machine

theorem rangeImage_keeps (a0 a1 s) : Keeps [.out, .fns, .stats, .pvStats, .ranges, .tier, .scan] s (rangeImage a0 a1 s).2 := by
  unfold rangeImage
  exact (readFor_keeps ..).mono rfl

theorem doModelLoad_keeps (a0 a1 a2 s) : Keeps [.out, .fns, .works, .stats, .pvStats, .corpora, .ranges, .tier, .scan] s (doModelLoad a0 a1 a2 s) := by
  unfold doModelLoad
  extract_lets -merge x0 x1 x2 x3 x4 x5
  have hx3 : ∀ a6 a8, Keeps [.out, .fns, .works, .stats, .pvStats, .corpora, .ranges, .tier, .scan] a8 (x3 a6 a8) := by
    intro a6 a8
    unfold x3
    extract_lets -merge x9 x10
    refine Keeps.ite ?_ ?_
    · refine Keeps.after ?_ (modCorpus_keeps ..) rfl
      exact (modWork_keeps ..).mono rfl
    · exact (failWork_keeps ..).mono rfl
  have hx4 : Keeps [.out, .fns, .works, .stats, .pvStats, .corpora, .ranges, .tier, .scan] s x4 := by
    unfold x4
    exact (hostRead_keeps ..).mono rfl
  have hx5 : Keeps [.out, .fns, .works, .stats, .pvStats, .corpora, .ranges, .tier, .scan] s x5 := by
    unfold x5
    exact Keeps.after (by assumption) (hostRead_keeps ..) rfl
  clear_value x3 x4 x5
  refine Keeps.ite ?_ ?_
  · split
    · exact Keeps.after (by assumption) (failWork_keeps ..) rfl
    · refine Keeps.ite ?_ ?_
      · exact Keeps.after (by assumption) (failWork_keeps ..) rfl
      · split
        · exact Keeps.after (by assumption) (failWork_keeps ..) rfl
        · refine Keeps.then_ ?_ (hx3 ..)
          assumption
  · split
    · rename_i y17 y18 y19 y20 y21
      have ky20 : Keeps [.out, .fns, .works, .stats, .pvStats, .corpora, .ranges, .tier, .scan] s y20 := by
        refine Keeps.of2 y21 ?_
        exact (rangeImage_keeps ..).mono rfl
      exact Keeps.after (by assumption) (failWork_keeps ..) rfl
    · rename_i y22 y23 y24 y25
      have ky24 : Keeps [.out, .fns, .works, .stats, .pvStats, .corpora, .ranges, .tier, .scan] s y24 := by
        refine Keeps.of2 y25 ?_
        exact (rangeImage_keeps ..).mono rfl
      refine Keeps.ite ?_ ?_
      · exact Keeps.after (by assumption) (failWork_keeps ..) rfl
      · refine Keeps.then_ ?_ (hx3 ..)
        assumption

theorem endResketch_keeps (a0 a1 s) : Keeps [.out, .fns, .works, .corpora] s (endResketch a0 a1 s) := by
  unfold endResketch
  split
  · refine Keeps.after ?_ (completeId_keeps ..) rfl
    exact (modCorpus_keeps ..).mono rfl
  · exact Keeps.refl _ _

theorem doLoadComplete_keeps (a0 s) : Keeps [.out, .fns, .works, .stats, .pvStats, .corpora, .scan] s (doLoadComplete a0 s) := by
  unfold doLoadComplete
  split
  · exact Keeps.refl _ _
  · extract_lets -merge x5 x6 x7 x8 x9
    have hx7 : Keeps [.out, .fns, .works, .stats, .pvStats, .corpora, .scan] s x7 := by
      unfold x7
      exact (modCorpus_keeps ..).mono rfl
    clear_value x7
    split
    · exact Keeps.refl _ _
    · extract_lets -merge x16
      have hx16 : Keeps [.out, .fns, .works, .stats, .pvStats, .corpora, .scan] s x16 := by
        unfold x16
        split
        · refine Keeps.after ?_ (loadWeights_keeps ..) rfl
          exact Keeps.after (by assumption) (modCorpus_keeps ..) rfl
        · refine Keeps.after ?_ (freeElems_keeps ..) rfl
          refine Keeps.after ?_ (modCorpus_keeps ..) rfl
          exact Keeps.after (by assumption) (endResketch_keeps ..) rfl
      clear_value x16
      refine Keeps.ite ?_ ?_
      · refine Keeps.ite ?_ ?_
        · exact Keeps.after (by assumption) (failWork_keeps ..) rfl
        · exact Keeps.after (by assumption) (complete_keeps ..) rfl
      · exact Keeps.refl _ _

theorem windowEnd_keeps (a0 s) : Keeps [.out, .fns, .corpora] s (windowEnd a0 s) := by
  unfold windowEnd
  extract_lets -merge x0 x1 x2
  have hx2 : Keeps [.out, .fns, .corpora] s x2 := by
    unfold x2
    split
    · refine Keeps.ite ?_ ?_
      · refine Keeps.after ?_ (modCorpus_keeps ..) rfl
        exact (postEventAt_keeps ..).mono rfl
      · exact Keeps.refl _ _
    · exact Keeps.refl _ _
  clear_value x2
  refine Keeps.ite ?_ ?_
  · exact (modCorpus_keeps ..).mono rfl
  · exact Keeps.after (by assumption) (modCorpus_keeps ..) rfl

theorem doCutover_keeps (a0 a1 s) : Keeps [.out, .fns, .works, .chans, .stats, .pvStats, .fab, .comp] s (doCutover a0 a1 s) := by
  unfold doCutover
  extract_lets -merge x0 x1 x2 x3 x4
  have hx4 : Keeps [.out, .fns, .works, .chans, .stats, .pvStats, .fab, .comp] s x4 := by
    unfold x4
    exact (hostRead_keeps ..).mono rfl
  clear_value x4
  split
  · exact Keeps.after (by assumption) (failWork_keeps ..) rfl
  · extract_lets -merge x8 x9
    refine Keeps.ite ?_ ?_
    · refine Keeps.after ?_ (propose_keeps ..) rfl
      exact Keeps.after (by assumption) (modWork_keeps ..) rfl
    · exact Keeps.after (by assumption) (failWork_keeps ..) rfl

theorem setCutover_keeps (a0 a1 a2 s) : Keeps [.corpora] s (setCutover a0 a1 a2 s) := by
  unfold setCutover
  exact (modCorpus_keeps ..).mono rfl

theorem doSwitchEpoch_keeps (a0 s) : Keeps [.out, .fns, .corpora, .scan] s (doSwitchEpoch a0 s) := by
  unfold doSwitchEpoch
  extract_lets -merge x0
  split
  · refine Keeps.ite ?_ ?_
    · refine Keeps.after ?_ (loadWeights_keeps ..) rfl
      refine Keeps.after ?_ (modCorpus_keeps ..) rfl
      refine Keeps.ite ?_ ?_
      · exact (windowEnd_keeps ..).mono rfl
      · exact Keeps.refl _ _
    · exact Keeps.refl _ _
  · exact Keeps.refl _ _

theorem doRetireFree_keeps (a0 s) : Keeps [.corpora] s (doRetireFree a0 s) := by
  unfold doRetireFree
  extract_lets -merge x0
  split
  · refine Keeps.ite ?_ ?_
    · refine Keeps.after ?_ (freeElems_keeps ..) rfl
      exact (modCorpus_keeps ..).mono rfl
    · exact Keeps.refl _ _
  · exact Keeps.refl _ _

theorem resketchOne_keeps (a0 a1 a2 a3 s) : KeepsO [.nextId, .out, .fns, .stats, .pvStats, .corpora, .ranges, .tier, .scan, .flash, .fab, .comp] s (resketchOne a0 a1 a2 a3 s) := by
  unfold resketchOne
  extract_lets -merge x0 x1 x2 x3 x4 x5
  have hx1 : ∀ a6, Keeps [.nextId, .out, .fns, .stats, .pvStats, .corpora, .ranges, .tier, .scan, .flash, .fab, .comp] a6 (x1 a6) := by
    intro a6
    unfold x1
    exact (modCorpus_keeps ..).mono rfl
  clear_value x1
  split
  · rename_i y7 y8 y9 y10 y11
    have ky10 : Keeps [.nextId, .out, .fns, .stats, .pvStats, .corpora, .ranges, .tier, .scan, .flash, .fab, .comp] s y10 := by
      refine Keeps.of2 y11 ?_
      refine Keeps.after ?_ (readFor_keeps ..) rfl
      exact (askKib_keeps ..).mono rfl
    refine KeepsO.some ?_
    refine Keeps.then_ ?_ (hx1 ..)
    assumption
  · rename_i y12 y13 y14 y15
    have ky14 : Keeps [.nextId, .out, .fns, .stats, .pvStats, .corpora, .ranges, .tier, .scan, .flash, .fab, .comp] s y14 := by
      refine Keeps.of2 y15 ?_
      refine Keeps.after ?_ (readFor_keeps ..) rfl
      exact (askKib_keeps ..).mono rfl
    refine KeepsO.ite ?_ ?_
    · refine KeepsO.some ?_
      assumption
    · split
      · refine KeepsO.some ?_
        refine Keeps.then_ ?_ (hx1 ..)
        refine Keeps.ite ?_ ?_
        · exact Keeps.after (by assumption) (modCorpus_keeps ..) rfl
        · assumption
      · extract_lets -merge x24 x25 x26 x27 x28 x29 x30
        have hx29 : Keeps [.nextId, .out, .fns, .stats, .pvStats, .corpora, .ranges, .tier, .scan, .flash, .fab, .comp] s x29 := by
          unfold x29
          refine Keeps.ite ?_ ?_
          · assumption
          · exact Keeps.after (by assumption) (sendMap_keeps ..) rfl
        have hx30 : ∀ a31 a32, Keeps [.nextId, .out, .fns, .stats, .pvStats, .corpora, .ranges, .tier, .scan, .flash, .fab, .comp] a31 (x30 a31 a32) := by
          intro a31 a32
          unfold x30
          refine Keeps.after ?_ (modCorpus_keeps ..) rfl
          exact (fixQuad_keeps ..).mono rfl
        clear_value x29 x30
        refine KeepsO.ite ?_ ?_
        · refine KeepsO.ite ?_ ?_
          · refine KeepsO.some ?_
            refine Keeps.then_ ?_ (hx30 ..)
            assumption
          · split
            · exact KeepsO.none _ _
            · extract_lets -merge x38 x39 x40 x41
              have hx38 : Keeps [.nextId, .out, .fns, .stats, .pvStats, .corpora, .ranges, .tier, .scan, .flash, .fab, .comp] s x38 := by
                unfold x38
                exact Keeps.after (by assumption) (modCorpus_keeps ..) rfl
              have hx40 : Keeps [.nextId, .out, .fns, .stats, .pvStats, .corpora, .ranges, .tier, .scan, .flash, .fab, .comp] s x40 := by
                unfold x40
                exact Keeps.after (by assumption) (writeThrough_keeps ..) rfl
              have hx41 : Keeps [.nextId, .out, .fns, .stats, .pvStats, .corpora, .ranges, .tier, .scan, .flash, .fab, .comp] s x41 := by
                unfold x41
                refine Keeps.ite ?_ ?_
                · assumption
                · exact Keeps.after (by assumption) (writeThrough_keeps ..) rfl
              clear_value x38 x40 x41
              refine KeepsO.some ?_
              refine Keeps.then_ ?_ (hx30 ..)
              assumption
        · refine KeepsO.some ?_
          assumption

theorem resketchAll_keeps (p cur stg vs s) : KeepsO [.nextId, .out, .fns, .stats, .pvStats, .corpora, .ranges, .tier, .scan, .flash, .fab, .comp] s (resketchAll p cur stg vs s) := by
  induction vs generalizing s with
  | nil => exact KeepsO.some (Keeps.refl _ _)
  | cons v vs ih =>
    unfold resketchAll
    refine KeepsO.ite ?_ ?_
    · split
      · rename_i y0 y1 y2
        have ky1 : Keeps [.nextId, .out, .fns, .stats, .pvStats, .corpora, .ranges, .tier, .scan, .flash, .fab, .comp] s y1 := by
          refine KeepsO.get y2 ?_
          refine KeepsO.after ?_ (resketchOne_keeps ..) rfl
          exact Keeps.refl _ _
        refine KeepsO.after ?_ (ih ..) rfl
        exact Keeps.after (by assumption) (modCorpus_keeps ..) rfl
      · exact KeepsO.none _ _
    · refine KeepsO.some ?_
      exact Keeps.refl _ _

theorem doResketch_keeps (a0 s) : Keeps [.nextId, .out, .fns, .works, .stats, .pvStats, .corpora, .ranges, .tier, .scan, .flash, .fab, .comp] s (doResketch a0 s) := by
  unfold doResketch
  extract_lets -merge x0 x1 x2 x3
  have hx3 : Keeps [.nextId, .out, .fns, .works, .stats, .pvStats, .corpora, .ranges, .tier, .scan, .flash, .fab, .comp] s x3 := by
    unfold x3
    exact Keeps.refl _ _
  clear_value x3
  split
  · extract_lets -merge x13 x14 x15 x16 x17
    have hx16 : Keeps [.nextId, .out, .fns, .works, .stats, .pvStats, .corpora, .ranges, .tier, .scan, .flash, .fab, .comp] s x16 := by
      unfold x16
      refine Keeps.ite ?_ ?_
      · exact Keeps.refl _ _
      · exact (modCorpus_keeps ..).mono rfl
    clear_value x16
    refine Keeps.ite ?_ ?_
    · exact (failWork_keeps ..).mono rfl
    · refine Keeps.ite ?_ ?_
      · exact Keeps.refl _ _
      · split
        · exact Keeps.after (by assumption) (endResketch_keeps ..) rfl
        · rename_i y20 y21 y22
          have ky21 : Keeps [.nextId, .out, .fns, .works, .stats, .pvStats, .corpora, .ranges, .tier, .scan, .flash, .fab, .comp] s y21 := by
            refine KeepsO.get y22 ?_
            refine KeepsO.after ?_ (resketchAll_keeps ..) rfl
            assumption
          extract_lets -merge x23
          have hx23 : Keeps [.nextId, .out, .fns, .works, .stats, .pvStats, .corpora, .ranges, .tier, .scan, .flash, .fab, .comp] s x23 := by
            unfold x23
            refine Keeps.after ?_ (modWork_keeps ..) rfl
            exact Keeps.after (by assumption) (modCorpus_keeps ..) rfl
          clear_value x23
          refine Keeps.ite ?_ ?_
          · assumption
          · refine Keeps.ite ?_ ?_
            · assumption
            · refine Keeps.ite ?_ ?_
              · refine Keeps.foldl ?_ (fun t24 z25 => ?_)
                · assumption
                · exact (sendMap_keeps ..).mono rfl
              · assumption
  · exact (failWork_keeps ..).mono rfl

theorem doResketchDone_keeps (a0 s) : Keeps [.out, .fns, .works, .corpora] s (doResketchDone a0 s) := by
  unfold doResketchDone
  split
  · extract_lets -merge x3
    refine Keeps.ite ?_ ?_
    · refine Keeps.after ?_ (endResketch_keeps ..) rfl
      exact (modCorpus_keeps ..).mono rfl
    · exact Keeps.refl _ _
  · exact Keeps.refl _ _

theorem doRsDone_keeps (a0 a1 a2 s) : Keeps [.corpora] s (doRsDone a0 a1 a2 s) := by
  unfold doRsDone
  exact (modCorpus_keeps ..).mono rfl

theorem doWindow_keeps (s) : Keeps [.out, .fns, .corpora] s (doWindow s) := by
  unfold doWindow
  refine Keeps.ite ?_ ?_
  · refine Keeps.foldl ?_ (fun t0 z1 => ?_)
    · exact Keeps.refl _ _
    · exact (windowEnd_keeps ..).mono rfl
  · exact Keeps.refl _ _

theorem writeCorpus_keeps (a0 a1 a2 s) : Keeps [.corpora] s (writeCorpus a0 a1 a2 s) := by
  unfold writeCorpus
  extract_lets -merge x0 x1 x2 x3
  refine Keeps.ite ?_ ?_
  · exact (modCorpus_keeps ..).mono rfl
  · exact Keeps.refl _ _

theorem writeClip_keeps (a0 a1 s) : Keeps [.corpora] s (writeClip a0 a1 s) := by
  unfold writeClip
  refine Keeps.ite ?_ ?_
  · exact (modCorpus_keeps ..).mono rfl
  · exact Keeps.refl _ _

end Sys2Proof.Machine
end

