-- ==== Sys2Proof/Laws/KeepsSearch.lean ====
section
/-! SUPPORT. What each operation of Machine/Search.lean leaves alone. -/

namespace Sys2Proof.Machine

theorem modScan_keeps (g) (s : State) (h : (modScan g s).words = s.words) : Keeps [.scan] s (modScan g s) := upd_scan _ h
theorem modScan_touch (g) (s : State) : Keeps [.scan, .words] s (modScan g s) := touch_scan _
theorem modQuery_keeps (a0 a1 s) : Keeps [.scan] s (modQuery a0 a1 s) := by
  unfold modQuery
  refine Keeps.after ?_ (modScan_keeps _ _ ?_) rfl
  · exact Keeps.refl _ _
  · rfl

theorem dropQuery_keeps (a0 s) : Keeps [.scan] s (dropQuery a0 s) := by
  unfold dropQuery
  refine Keeps.after ?_ (modScan_keeps _ _ ?_) rfl
  · exact Keeps.refl _ _
  · rfl

theorem noteGather_keeps (a0 a1 s) : Keeps [.stats, .pvStats, .corpora] s (noteGather a0 a1 s) := by
  unfold noteGather
  refine Keeps.ite ?_ ?_
  · exact Keeps.refl _ _
  · refine Keeps.after ?_ (count_keeps ..) rfl
    exact (modCorpus_keeps ..).mono rfl

theorem takeRecord_keeps (a0 a1 s a3) : Keeps [.nextId, .stats, .pvStats, .corpora, .scan] s (takeRecord a0 a1 s a3) := by
  unfold takeRecord
  extract_lets -merge x0 x1 x2
  split
  · extract_lets -merge x7
    split
    · rename_i y8 y9 y10 y11
      have ky10 : Keeps [.nextId, .stats, .pvStats, .corpora, .scan] s y10 := by
        refine Keeps.of2 y11 ?_
        exact (fresh_keeps ..).mono rfl
      extract_lets -merge x12 x13
      refine Keeps.after ?_ (modScan_keeps _ _ ?_) rfl
      · exact Keeps.after (by assumption) (noteGather_keeps ..) rfl
      · rfl

theorem writeInvalid_keeps (a0 s a2) : Keeps [.out, .stats, .pvStats] s (writeInvalid a0 s a2) := by
  unfold writeInvalid
  split
  · refine Keeps.after ?_ (hostWrite_keeps ..) rfl
    exact (count_keeps ..).mono rfl
  · exact Keeps.refl _ _

theorem settleSearch_keeps (a0 s) : Keeps [.out, .fns, .works, .stats, .pvStats, .scan] s (settleSearch a0 s) := by
  unfold settleSearch
  split
  · exact Keeps.refl _ _
  · extract_lets -merge x5 x6 x7 x8 x9 x10 x11
    have hx10 : Keeps [.out, .fns, .works, .stats, .pvStats, .scan] s x10 := by
      unfold x10
      refine Keeps.foldl ?_ (fun t12 z13 => ?_)
      · exact Keeps.refl _ _
      · exact (writeInvalid_keeps ..).mono rfl
    have hx11 : Keeps [.out, .fns, .works, .stats, .pvStats, .scan] s x11 := by
      unfold x11
      refine Keeps.after ?_ (modScan_keeps _ _ ?_) rfl
      · assumption
      · rfl
    clear_value x10 x11
    refine Keeps.ite ?_ ?_
    · exact Keeps.after (by assumption) (complete_keeps ..) rfl
    · exact Keeps.refl _ _

theorem doSearch_keeps (a0 a1 a2 s) : Keeps [.nextId, .out, .fns, .works, .stats, .pvStats, .corpora, .scan] s (doSearch a0 a1 a2 s) := by
  unfold doSearch
  split
  · exact Keeps.refl _ _
  · extract_lets -merge x5
    have hx5 : Keeps [.nextId, .out, .fns, .works, .stats, .pvStats, .corpora, .scan] s x5 := by
      unfold x5
      exact (hostRead_keeps ..).mono rfl
    clear_value x5
    refine Keeps.ite ?_ ?_
    · split
      · exact Keeps.after (by assumption) (failWork_keeps ..) rfl
      · refine Keeps.ite ?_ ?_
        · exact Keeps.after (by assumption) (failWork_keeps ..) rfl
        · split
          · exact Keeps.after (by assumption) (failWork_keeps ..) rfl
          · extract_lets -merge x15 x16
            have hx16 : Keeps [.nextId, .out, .fns, .works, .stats, .pvStats, .corpora, .scan] s x16 := by
              unfold x16
              refine Keeps.foldl ?_ (fun t17 z18 => ?_)
              · exact Keeps.after (by assumption) (modWork_keeps ..) rfl
              · exact (takeRecord_keeps ..).mono rfl
            clear_value x16
            exact Keeps.after (by assumption) (settleSearch_keeps ..) rfl
    · exact Keeps.refl _ _

theorem doQueryAdmission_keeps (a0 s) : Keeps [.nextId, .out, .fns, .works, .stats, .pvStats, .corpora, .scan] s (doQueryAdmission a0 s) := by
  unfold doQueryAdmission
  split
  · exact Keeps.refl _ _
  · extract_lets -merge x5 x6 x7 x8
    refine Keeps.ite ?_ ?_
    · split
      · refine Keeps.after ?_ (failWork_keeps ..) rfl
        refine Keeps.after ?_ (modScan_keeps _ _ ?_) rfl
        · exact Keeps.refl _ _
        · rfl
      · extract_lets -merge x15 x16 x17 x18
        have hx16 : Keeps [.nextId, .out, .fns, .works, .stats, .pvStats, .corpora, .scan] s x16 := by
          unfold x16
          exact (noteGather_keeps ..).mono rfl
        have hx17 : Keeps [.nextId, .out, .fns, .works, .stats, .pvStats, .corpora, .scan] s x17 := by
          unfold x17
          refine Keeps.after ?_ (modScan_keeps _ _ ?_) rfl
          · assumption
          · rfl
        clear_value x16 x17
        refine Keeps.ite ?_ ?_
        · exact Keeps.refl _ _
        · split
          · rename_i y19 y20 y21 y22
            have ky21 : Keeps [.nextId, .out, .fns, .works, .stats, .pvStats, .corpora, .scan] s y21 := by
              refine Keeps.of2 y22 ?_
              exact Keeps.after (by assumption) (fresh_keeps ..) rfl
            extract_lets -merge x23
            have hx23 : Keeps [.nextId, .out, .fns, .works, .stats, .pvStats, .corpora, .scan] s x23 := by
              unfold x23
              refine Keeps.after ?_ (modScan_keeps _ _ ?_) rfl
              · assumption
              · rfl
            clear_value x23
            refine Keeps.after ?_ (settleSearch_keeps ..) rfl
            refine Keeps.after ?_ (count_keeps ..) rfl
            exact Keeps.after (by assumption) (modWork_keeps ..) rfl
    · exact Keeps.refl _ _

theorem fixQuads_keeps (a0 a1 s) : Keeps [.comp] s (fixQuads a0 a1 s) := by
  unfold fixQuads
  refine Keeps.foldl ?_ (fun t0 z1 => ?_)
  · exact Keeps.refl _ _
  · exact (fixQuad_keeps ..).mono rfl

theorem selfRecord_keeps (a0 a1 a2 a3 s) : Keeps [.nextId, .scan, .comp] s (selfRecord a0 a1 a2 a3 s) := by
  unfold selfRecord
  split
  · rename_i y0 y1 y2 y3
    have ky2 : Keeps [.nextId, .scan, .comp] s y2 := by
      refine Keeps.of2 y3 ?_
      exact (fresh_keeps ..).mono rfl
    extract_lets -merge x4 x5
    have hx4 : Keeps [.nextId, .scan, .comp] s x4 := by
      unfold x4
      exact Keeps.after (by assumption) (fixQuads_keeps ..) rfl
    clear_value x4
    refine Keeps.after ?_ (modScan_keeps _ _ ?_) rfl
    · assumption
    · rfl

theorem fanOut_keeps (a0 a1 a2 a3 s) : Keeps [.nextId, .out, .stats, .pvStats, .scan, .fab, .comp, .qos] s (fanOut a0 a1 a2 a3 s) := by
  unfold fanOut
  extract_lets -merge x0
  refine Keeps.foldl ?_ (fun t1 z2 => ?_)
  · exact Keeps.refl _ _
  · extract_lets -merge x3
    have hx3 : Keeps [.nextId, .out, .stats, .pvStats, .scan, .fab, .comp, .qos] t1 x3 := by
      unfold x3
      refine Keeps.ite ?_ ?_
      · exact (selfRecord_keeps ..).mono rfl
      · exact (sendMsg_keeps ..).mono rfl
    clear_value x3
    exact Keeps.after (by assumption) (modQuery_keeps ..) rfl

theorem routeRound_keeps (a0 a1 s) : Keeps [.nextId, .out, .stats, .pvStats, .scan, .fab, .comp, .qos] s (routeRound a0 a1 s) := by
  unfold routeRound
  split
  · exact Keeps.refl _ _
  · extract_lets -merge x5 x6 x7 x8 x9 x10
    have hx9 : Keeps [.nextId, .out, .stats, .pvStats, .scan, .fab, .comp, .qos] s x9 := by
      unfold x9
      exact (fixQuads_keeps ..).mono rfl
    have hx10 : Keeps [.nextId, .out, .stats, .pvStats, .scan, .fab, .comp, .qos] s x10 := by
      unfold x10
      exact Keeps.after (by assumption) (modQuery_keeps ..) rfl
    clear_value x9 x10
    exact Keeps.after (by assumption) (fanOut_keeps ..) rfl

theorem refuseFan_keeps (a0 a1 a2 a3 a4 s) : Keeps [.out, .stats, .pvStats, .fab, .qos] s (refuseFan a0 a1 a2 a3 a4 s) := by
  unfold refuseFan
  extract_lets -merge x0
  refine Keeps.after ?_ (count_keeps ..) rfl
  exact (sendMsg_keeps ..).mono rfl

theorem addPart_keeps (a0 a1 a2 a3 s) : Keeps [.scan] s (addPart a0 a1 a2 a3 s) := by
  unfold addPart
  exact (modQuery_keeps ..).mono rfl

theorem rerouteRec_keeps (a0 a1 s) : Keeps [.nextId, .out, .stats, .pvStats, .scan, .fab, .comp, .qos] s (rerouteRec a0 a1 s) := by
  unfold rerouteRec
  extract_lets -merge x0 x1 x2
  have hx0 : Keeps [.nextId, .out, .stats, .pvStats, .scan, .fab, .comp, .qos] s x0 := by
    unfold x0
    exact (modQuery_keeps ..).mono rfl
  have hx2 : Keeps [.nextId, .out, .stats, .pvStats, .scan, .fab, .comp, .qos] s x2 := by
    unfold x2
    exact Keeps.after (by assumption) (modQuery_keeps ..) rfl
  clear_value x0 x2
  refine Keeps.ite ?_ ?_
  · exact Keeps.after (by assumption) (modQuery_keeps ..) rfl
  · exact Keeps.after (by assumption) (fanOut_keeps ..) rfl

theorem takePartial_keeps (a0 a1 a2 s) : Keeps [.nextId, .out, .stats, .pvStats, .scan, .fab, .comp, .qos] s (takePartial a0 a1 a2 s) := by
  unfold takePartial
  split
  · exact Keeps.refl _ _
  · split
    · exact Keeps.refl _ _
    · refine Keeps.ite ?_ ?_
      · exact (rerouteRec_keeps ..).mono rfl
      · exact (addPart_keeps ..).mono rfl

theorem finishLocal_keeps (a0 s) : Keeps [.nextId, .out, .stats, .pvStats, .corpora, .scan, .fab, .comp, .qos] s (finishLocal a0 s) := by
  unfold finishLocal
  split
  · exact Keeps.refl _ _
  · split
    · exact (modQuery_keeps ..).mono rfl
    · extract_lets -merge x11 x12 x13
      have hx13 : Keeps [.nextId, .out, .stats, .pvStats, .corpora, .scan, .fab, .comp, .qos] s x13 := by
        unfold x13
        refine Keeps.after ?_ (freeElems_keeps ..) rfl
        exact (dropQuery_keeps ..).mono rfl
      clear_value x13
      refine Keeps.ite ?_ ?_
      · exact Keeps.after (by assumption) (takePartial_keeps ..) rfl
      · refine Keeps.after ?_ (count_keeps ..) rfl
        exact Keeps.after (by assumption) (sendMsg_keeps ..) rfl

theorem serveRecord_keeps (a0 a1 a2 a3 s) : Keeps [.nextId, .out, .stats, .pvStats, .corpora, .scan, .fab, .comp, .qos] s (serveRecord a0 a1 a2 a3 s) := by
  unfold serveRecord
  extract_lets -merge x0 x1 x2 x3 x4 x5 x6
  refine Keeps.ite ?_ ?_
  · exact Keeps.refl _ _
  · refine Keeps.ite ?_ ?_
    · exact (refuseFan_keeps ..).mono rfl
    · split
      · exact (refuseFan_keeps ..).mono rfl
      · split
        · extract_lets -merge x18 x19
          refine Keeps.ite ?_ ?_
          · exact (refuseFan_keeps ..).mono rfl
          · refine Keeps.ite ?_ ?_
            · exact (refuseFan_keeps ..).mono rfl
            · split
              · rename_i y20 y21 y22 y23
                have ky22 : Keeps [.nextId, .out, .stats, .pvStats, .corpora, .scan, .fab, .comp, .qos] s y22 := by
                  refine Keeps.of2 y23 ?_
                  exact (fresh_keeps ..).mono rfl
                extract_lets -merge x24 x25 x26 x27
                have hx24 : Keeps [.nextId, .out, .stats, .pvStats, .corpora, .scan, .fab, .comp, .qos] s x24 := by
                  unfold x24
                  exact Keeps.after (by assumption) (fixQuads_keeps ..) rfl
                have hx27 : Keeps [.nextId, .out, .stats, .pvStats, .corpora, .scan, .fab, .comp, .qos] s x27 := by
                  unfold x27
                  refine Keeps.after ?_ (modScan_keeps _ _ ?_) rfl
                  · assumption
                  · rfl
                clear_value x24 x27
                refine Keeps.ite ?_ ?_
                · exact Keeps.after (by assumption) (finishLocal_keeps ..) rfl
                · assumption

theorem doFanout_keeps (a0 a1 a2 a3 s) : Keeps [.nextId, .out, .stats, .pvStats, .corpora, .scan, .fab, .comp, .qos] s (doFanout a0 a1 a2 a3 s) := by
  unfold doFanout
  refine Keeps.foldl ?_ (fun t0 z1 => ?_)
  · exact (count_keeps ..).mono rfl
  · exact (serveRecord_keeps ..).mono rfl

theorem doHeldLagging_keeps (s) : Keeps [.nextId, .out, .fns, .stats, .pvStats, .corpora, .upd, .scan, .fab, .comp, .qos] s (doHeldLagging s) := by
  unfold doHeldLagging
  extract_lets -merge x0 x1 x2 x3
  have hx1 : Keeps [.nextId, .out, .fns, .stats, .pvStats, .corpora, .upd, .scan, .fab, .comp, .qos] s x1 := by
    unfold x1
    refine Keeps.foldl ?_ (fun t4 z5 => ?_)
    · exact Keeps.refl _ _
    · extract_lets -merge x6
      refine Keeps.after ?_ (finishLocal_keeps ..) rfl
      exact (modQuery_keeps ..).mono rfl
  have hx3 : Keeps [.nextId, .out, .fns, .stats, .pvStats, .corpora, .upd, .scan, .fab, .comp, .qos] s x3 := by
    unfold x3
    refine Keeps.after ?_ (upd_upd _ ?_) rfl
    · assumption
    · rfl
  clear_value x1 x3
  refine Keeps.ite ?_ ?_
  · clear_value x0
    split
    · exact Keeps.refl _ _
    · exact Keeps.after (by assumption) (postEvent_keeps ..) rfl
  · exact Keeps.refl _ _

end Sys2Proof.Machine
end

