-- ==== Sys2Proof/Laws/KeepsScan.lean ====
section
/-! SUPPORT. What each operation of Machine/Scan.lean leaves alone. -/

namespace Sys2Proof.Machine

theorem drawMark_keeps (s) : Keeps [.free] s (drawMark s).2 := by
  unfold drawMark
  split
  · rename_i y0 y1 y2 y3
    have ky2 : Keeps [.free] s y2 := by
      refine Keeps.of2 y3 ?_
      exact (draw_keeps ..).mono rfl
    extract_lets -merge x4
    refine Keeps.mk2 ?_
    assumption

theorem addShadow_keeps (a0 a1 a2 a3 a4 a5 a6 a7 s) : Keeps [.nextId, .scan, .integ] s (addShadow a0 a1 a2 a3 a4 a5 a6 a7 s) := by
  unfold addShadow
  split
  · rename_i y0 y1 y2 y3
    have ky2 : Keeps [.nextId, .scan, .integ] s y2 := by
      refine Keeps.of2 y3 ?_
      exact (fresh_keeps ..).mono rfl
    extract_lets -merge x4 x5 x6
    have hx6 : Keeps [.nextId, .scan, .integ] s x6 := by
      unfold x6
      refine Keeps.after ?_ (upd_integ _ ?_) rfl
      · assumption
      · rfl
    clear_value x6
    refine Keeps.foldl ?_ (fun t7 z8 => ?_)
    · assumption
    · exact (modQuery_keeps ..).mono rfl

theorem modSBatch_keeps (a0 a1 s) : Keeps [.scan] s (modSBatch a0 a1 s) := by
  unfold modSBatch
  refine Keeps.after ?_ (modScan_keeps _ _ ?_) rfl
  · exact Keeps.refl _ _
  · rfl

theorem formBatch_keeps (s a1) : Keeps [.nextId, .scan] s (formBatch s a1) := by
  unfold formBatch
  extract_lets -merge x0 x1 x2 x3 x4
  refine Keeps.ite ?_ ?_
  · exact Keeps.refl _ _
  · split
    · rename_i y5 y6 y7 y8
      have ky7 : Keeps [.nextId, .scan] s y7 := by
        refine Keeps.of2 y8 ?_
        exact (fresh_keeps ..).mono rfl
      extract_lets -merge x9 x10
      have hx10 : Keeps [.nextId, .scan] s x10 := by
        unfold x10
        refine Keeps.after ?_ (modScan_keeps _ _ ?_) rfl
        · assumption
        · rfl
      clear_value x10
      refine Keeps.foldl ?_ (fun t11 z12 => ?_)
      · assumption
      · exact (modQuery_keeps ..).mono rfl

theorem markJobs_keeps (a0 s) : Keeps [.free] s (markJobs a0 s).2 := by
  unfold markJobs
  refine Keeps.foldl2 ?_ (fun t0 z1 => ?_)
  · refine Keeps.mk2 ?_
    exact Keeps.refl _ _
  · split
    · rename_i y2 y3 y4 y5
      have ky4 : Keeps [.free] (t0.2) y4 := by
        refine Keeps.of2 y5 ?_
        exact (drawMark_keeps ..).mono rfl
      refine Keeps.mk2 ?_
      assumption

theorem viewBatch_keeps (a0 s) : Keeps [.free, .stats, .pvStats, .scan] s (viewBatch a0 s) := by
  unfold viewBatch
  split
  · exact Keeps.refl _ _
  · extract_lets -merge x5 x6 x7 x8 x9 x10 x11 x12
    refine Keeps.ite ?_ ?_
    · exact Keeps.refl _ _
    · split
      · rename_i y13 y14 y15 y16
        have ky15 : Keeps [.free, .stats, .pvStats, .scan] s y15 := by
          refine Keeps.of2 y16 ?_
          exact (markJobs_keeps ..).mono rfl
        extract_lets -merge x17 x18
        have hx18 : Keeps [.free, .stats, .pvStats, .scan] s x18 := by
          unfold x18
          refine Keeps.ite ?_ ?_
          · refine Keeps.after ?_ (count_keeps ..) rfl
            refine Keeps.after ?_ (modScan_keeps _ _ ?_) rfl
            · assumption
            · rfl
          · assumption
        clear_value x18
        exact Keeps.after (by assumption) (modSBatch_keeps ..) rfl

theorem settleBatches_keeps (s) : Keeps [.scan] s (settleBatches s) := by
  unfold settleBatches
  extract_lets -merge x0 x1 x2
  refine Keeps.after ?_ (modScan_keeps _ _ ?_) rfl
  · exact Keeps.refl _ _
  · rfl

theorem scanFrame_keeps (s) : Keeps [.free, .nextId, .stats, .pvStats, .scan] s (scanFrame s) := by
  unfold scanFrame
  extract_lets -merge x0 x1
  have hx0 : Keeps [.free, .nextId, .stats, .pvStats, .scan] s x0 := by
    unfold x0
    refine Keeps.foldl ?_ (fun t2 z3 => ?_)
    · exact Keeps.refl _ _
    · exact (formBatch_keeps ..).mono rfl
  have hx1 : Keeps [.free, .nextId, .stats, .pvStats, .scan] s x1 := by
    unfold x1
    refine Keeps.foldl ?_ (fun t4 z5 => ?_)
    · assumption
    · exact (viewBatch_keeps ..).mono rfl
  clear_value x0 x1
  refine Keeps.after ?_ (modScan_keeps _ _ ?_) rfl
  · assumption
  · rfl

theorem pushHits_keeps (a0 s) : Keeps [.scan] s (pushHits a0 s) := by
  unfold pushHits
  refine Keeps.after ?_ (modScan_keeps _ _ ?_) rfl
  · exact Keeps.refl _ _
  · rfl

theorem skipTile_keeps (a0 a1 s) : Keeps [.scan] s (skipTile a0 a1 s) := by
  unfold skipTile
  exact (modSBatch_keeps ..).mono rfl

theorem badTag_keeps (s a1) : Keeps [.tier, .scan, .integ] s (badTag s a1) := by
  unfold badTag
  split
  · exact Keeps.refl _ _
  · split
    · exact Keeps.refl _ _
    · refine Keeps.ite ?_ ?_
      · exact Keeps.refl _ _
      · refine Keeps.after ?_ (tagError_keeps ..) rfl
        exact (skipTile_keeps ..).mono rfl

theorem grantPermits_keeps (a b n got ws s) : Keeps [.qos] s (grantPermits a b n got ws s).2 := by
  induction n generalizing got ws s with
  | zero => exact Keeps.refl _ _
  | succ n ih =>
    unfold grantPermits
    extract_lets -merge x0 x1 x2 x3
    split
    · refine Keeps.mk2 ?_
      exact Keeps.refl _ _
    · split
      · refine Keeps.mk2 ?_
        exact Keeps.refl _ _
      · refine Keeps.after ?_ (ih ..) rfl
        exact (modQos_keeps ..).mono rfl

theorem runBurst_keeps (st pv k n xs s) : Keeps [.stats, .pvStats, .scan] s (runBurst st pv k n xs s) := by
  induction k generalizing n xs s with
  | zero => unfold runBurst; exact Keeps.refl _ _
  | succ k ih =>
    cases n with
    | zero => unfold runBurst; exact Keeps.refl _ _
    | succ n =>
      cases xs with
      | nil => unfold runBurst; exact Keeps.refl _ _
      | cons x xs =>
        unfold runBurst
        split
        · exact (ih ..).mono rfl
        · split
          · exact (ih ..).mono rfl
          · extract_lets -merge x10 x11 x12
            have hx11 : Keeps [.stats, .pvStats, .scan] s x11 := by
              unfold x11
              exact (pushHits_keeps ..).mono rfl
            have hx12 : Keeps [.stats, .pvStats, .scan] s x12 := by
              unfold x12
              refine Keeps.after ?_ (count_keeps ..) rfl
              exact Keeps.after (by assumption) (modSBatch_keeps ..) rfl
            clear_value x11 x12
            refine Keeps.ite ?_ ?_
            · exact (ih ..).mono rfl
            · refine Keeps.ite ?_ ?_
              · exact Keeps.after (by assumption) (ih ..) rfl
              · exact Keeps.after (by assumption) (ih ..) rfl

theorem burst_keeps (a0 a1 a2 a3 s a5) : Keeps [.stats, .pvStats, .scan] s (burst a0 a1 a2 a3 s a5) := by
  unfold burst
  extract_lets -merge x0 x1 x2 x3
  have hx3 : Keeps [.stats, .pvStats, .scan] s x3 := by
    unfold x3
    exact (runBurst_keeps ..).mono rfl
  clear_value x3
  split
  · assumption
  · extract_lets -merge x13 x14 x15
    have hx13 : Keeps [.stats, .pvStats, .scan] s x13 := by
      unfold x13
      exact (runBurst_keeps ..).mono rfl
    have hx14 : Keeps [.stats, .pvStats, .scan] s x14 := by
      unfold x14
      refine Keeps.after ?_ (count_keeps ..) rfl
      refine Keeps.after ?_ (modScan_keeps _ _ ?_) rfl
      · assumption
      · rfl
    clear_value x13 x14
    refine Keeps.ite ?_ ?_
    · assumption
    · refine Keeps.after ?_ (modScan_keeps _ _ ?_) rfl
      · assumption
      · rfl

theorem burstAll_keeps (a0 a1 a2 a3 a4 s) : Keeps [.stats, .pvStats, .scan] s (burstAll a0 a1 a2 a3 a4 s) := by
  unfold burstAll
  refine Keeps.foldl ?_ (fun t0 z1 => ?_)
  · exact Keeps.refl _ _
  · exact (burst_keeps ..).mono rfl

theorem drainFifo_keeps (a0 s) : Keeps [.scan] s (drainFifo a0 s) := by
  unfold drainFifo
  refine Keeps.after ?_ (modScan_keeps _ _ ?_) rfl
  · exact Keeps.refl _ _
  · rfl

theorem stackSample_keeps (a0 s a2) : Keeps [.scan] s (stackSample a0 s a2) := by
  unfold stackSample
  extract_lets -merge x0 x1
  exact (modStack_keeps ..).mono rfl

theorem stackSlot_keeps (a0 s a2) : Keeps [.stats, .pvStats, .scan, .qos] s (stackSlot a0 s a2) := by
  unfold stackSlot
  extract_lets -merge x0 x1 x2 x3 x4 x5 x6 x7 x8 x9 x10 x11 x12
  have hx1 : Keeps [.stats, .pvStats, .scan, .qos] s x1 := by
    unfold x1
    exact (drainFifo_keeps ..).mono rfl
  have hx6 : Keeps [.stats, .pvStats, .scan, .qos] s x6 := by
    unfold x6
    exact Keeps.after (by assumption) (modStack_keeps ..) rfl
  have hx7 : Keeps [.stats, .pvStats, .scan, .qos] s x7 := by
    unfold x7
    refine Keeps.ite ?_ ?_
    · exact Keeps.after (by assumption) (count_keeps ..) rfl
    · assumption
  clear_value x1 x6 x7
  refine Keeps.ite ?_ ?_
  · split
    · rename_i y13 y14 y15 y16
      have ky15 : Keeps [.stats, .pvStats, .scan, .qos] s y15 := by
        refine Keeps.of2 y16 ?_
        refine Keeps.after ?_ (grantPermits_keeps ..) rfl
        exact Keeps.after (by assumption) (permitShares_keeps ..) rfl
      extract_lets -merge x17
      have hx17 : Keeps [.stats, .pvStats, .scan, .qos] s x17 := by
        unfold x17
        exact Keeps.after (by assumption) (burstAll_keeps ..) rfl
      clear_value x17
      split
      · rename_i y18 y19 y20 y21
        have ky20 : Keeps [.stats, .pvStats, .scan, .qos] s y20 := by
          refine Keeps.of2 y21 ?_
          refine Keeps.after ?_ (grantPermits_keeps ..) rfl
          exact Keeps.after (by assumption) (permitShares_keeps ..) rfl
        exact Keeps.after (by assumption) (burstAll_keeps ..) rfl
  · split
    · rename_i y22 y23 y24 y25
      have ky24 : Keeps [.stats, .pvStats, .scan, .qos] s y24 := by
        refine Keeps.of2 y25 ?_
        refine Keeps.after ?_ (grantPermits_keeps ..) rfl
        exact Keeps.after (by assumption) (permitShares_keeps ..) rfl
      exact Keeps.after (by assumption) (burstAll_keeps ..) rfl

theorem runJob_keeps (a0 a1 s) : Keeps [.nextId, .stats, .pvStats, .scan, .integ] s (runJob a0 a1 s) := by
  unfold runJob
  split
  · exact Keeps.refl _ _
  · extract_lets -merge x5 x6 x7 x8 x9
    have hx6 : Keeps [.nextId, .stats, .pvStats, .scan, .integ] s x6 := by
      unfold x6
      refine Keeps.foldl ?_ (fun t10 z11 => ?_)
      · exact Keeps.refl _ _
      · extract_lets -merge x12 x13
        refine Keeps.after ?_ (count_keeps ..) rfl
        exact (pushHits_keeps ..).mono rfl
    have hx9 : Keeps [.nextId, .stats, .pvStats, .scan, .integ] s x9 := by
      unfold x9
      exact Keeps.after (by assumption) (modSBatch_keeps ..) rfl
    clear_value x6 x9
    refine Keeps.ite ?_ ?_
    · exact Keeps.after (by assumption) (addShadow_keeps ..) rfl
    · assumption

theorem engineSlot_keeps (a0 s a2) : Keeps [.nextId, .stats, .pvStats, .scan, .qos, .integ] s (engineSlot a0 s a2) := by
  unfold engineSlot
  extract_lets -merge x0 x1 x2
  refine Keeps.ite ?_ ?_
  · exact Keeps.refl _ _
  · split
    · exact Keeps.refl _ _
    · split
      · exact Keeps.refl _ _
      · refine Keeps.after ?_ (runJob_keeps ..) rfl
        refine Keeps.after ?_ (modScan_keeps _ _ ?_) rfl
        · exact (modQos_keeps ..).mono rfl
        · rfl

theorem broadcast_keeps (s) : Keeps [.scan] s (broadcast s) := by
  unfold broadcast
  extract_lets -merge x0 x1
  refine Keeps.after ?_ (modScan_keeps _ _ ?_) rfl
  · exact Keeps.refl _ _
  · rfl

theorem doClaim_keeps (a0 a1 a2 s) : Keeps [.free, .stats, .pvStats, .scan] s (doClaim a0 a1 a2 s) := by
  unfold doClaim
  split
  · exact Keeps.refl _ _
  · split
    · exact Keeps.refl _ _
    · extract_lets -merge x10 x11 x12 x13
      refine Keeps.ite ?_ ?_
      · split
        · rename_i y14 y15 y16 y17
          have ky16 : Keeps [.free, .stats, .pvStats, .scan] s y16 := by
            refine Keeps.of2 y17 ?_
            exact (markJobs_keeps ..).mono rfl
          refine Keeps.after ?_ (count_keeps ..) rfl
          exact Keeps.after (by assumption) (modSBatch_keeps ..) rfl
      · exact Keeps.refl _ _

theorem doSteal_keeps (a0 a1 a2 a3 s) : Keeps [.free, .stats, .pvStats, .scan] s (doSteal a0 a1 a2 a3 s) := by
  unfold doSteal
  extract_lets -merge x0 x1 x2
  split
  · exact Keeps.refl _ _
  · split
    · exact Keeps.refl _ _
    · extract_lets -merge x13 x14 x15 x16 x17
      refine Keeps.ite ?_ ?_
      · split
        · rename_i y18 y19 y20 y21
          have ky20 : Keeps [.free, .stats, .pvStats, .scan] s y20 := by
            refine Keeps.of2 y21 ?_
            exact (drawMark_keeps ..).mono rfl
          extract_lets -merge x22 x23
          have hx23 : Keeps [.free, .stats, .pvStats, .scan] s x23 := by
            unfold x23
            exact Keeps.after (by assumption) (modSBatch_keeps ..) rfl
          clear_value x23
          refine Keeps.after ?_ (count_keeps ..) rfl
          refine Keeps.after ?_ (modScan_keeps _ _ ?_) rfl
          · assumption
          · rfl
      · exact Keeps.refl _ _

theorem addTree_keeps (a0 a1 a2 a3 a4 s) : Keeps [.scan] s (addTree a0 a1 a2 a3 a4 s) := by
  unfold addTree
  extract_lets -merge x0 x1
  refine Keeps.ite ?_ ?_
  · exact Keeps.refl _ _
  · refine Keeps.ite ?_ ?_
    · refine Keeps.after ?_ (modScan_keeps _ _ ?_) rfl
      · exact Keeps.refl _ _
      · rfl
    · refine Keeps.after ?_ (modScan_keeps _ _ ?_) rfl
      · exact Keeps.refl _ _
      · rfl

theorem selectHit_keeps (a0 a1 a2 s) : Keeps [.stats, .pvStats, .scan] s (selectHit a0 a1 a2 s) := by
  unfold selectHit
  extract_lets -merge x0 x1 x2
  have hx2 : ∀ a3 a4, Keeps [.stats, .pvStats, .scan] a4 (x2 a3 a4) := by
    intro a3 a4
    unfold x2
    refine Keeps.ite ?_ ?_
    · refine Keeps.after ?_ (modScan_keeps _ _ ?_) rfl
      · exact Keeps.refl _ _
      · rfl
    · refine Keeps.after ?_ (modScan_keeps _ _ ?_) rfl
      · exact Keeps.refl _ _
      · rfl
  clear_value x2
  refine Keeps.ite ?_ ?_
  · refine Keeps.then_ ?_ (hx2 ..)
    exact Keeps.refl _ _
  · split
    · exact Keeps.refl _ _
    · split
      · rename_i y10 y11 y12 y13
        have ky12 : Keeps [.stats, .pvStats, .scan] s y12 := by
          refine Keeps.of2 y13 ?_
          refine Keeps.ite2 ?_ ?_
          · refine Keeps.mk2 ?_
            refine Keeps.then_ ?_ (hx2 ..)
            exact Keeps.refl _ _
          · refine Keeps.mk2 ?_
            exact Keeps.refl _ _
        refine Keeps.ite ?_ ?_
        · exact Keeps.after (by assumption) (addTree_keeps ..) rfl
        · refine Keeps.ite ?_ ?_
          · refine Keeps.after ?_ (count_keeps ..) rfl
            refine Keeps.after ?_ (modQuery_keeps ..) rfl
            refine Keeps.after ?_ (modScan_keeps _ _ ?_) rfl
            · assumption
            · rfl
          · assumption

theorem doCompact_keeps (a0 s) : Keeps [.stats, .pvStats, .scan] s (doCompact a0 s) := by
  unfold doCompact
  split
  · exact Keeps.refl _ _
  · extract_lets -merge x5
    have hx5 : Keeps [.stats, .pvStats, .scan] s x5 := by
      unfold x5
      refine Keeps.after ?_ (modScan_keeps _ _ ?_) rfl
      · exact Keeps.refl _ _
      · rfl
    clear_value x5
    refine Keeps.ite ?_ ?_
    · exact Keeps.refl _ _
    · split
      · split
        · assumption
        · split
          · assumption
          · extract_lets -merge x22 x23
            have hx23 : Keeps [.stats, .pvStats, .scan] s x23 := by
              unfold x23
              exact Keeps.after (by assumption) (modQuery_keeps ..) rfl
            clear_value x23
            refine Keeps.ite ?_ ?_
            · exact Keeps.after (by assumption) (selectHit_keeps ..) rfl
            · assumption
      · assumption

theorem doDrain_keeps (a0 a1 a2 s) : Keeps [.scan] s (doDrain a0 a1 a2 s) := by
  unfold doDrain
  split
  · extract_lets -merge x6 x7 x8 x9
    refine Keeps.ite ?_ ?_
    · refine Keeps.after ?_ (settleBatches_keeps ..) rfl
      refine Keeps.after ?_ (addTree_keeps ..) rfl
      refine Keeps.after ?_ (modScan_keeps _ _ ?_) rfl
      · exact Keeps.refl _ _
      · rfl
    · exact Keeps.refl _ _
  · exact Keeps.refl _ _

theorem treeStep_keeps (l i k p n m s) : Keeps [.scan, .qos] s (treeStep l i k p n m s) := by
  induction n generalizing m s with
  | zero => unfold treeStep; exact Keeps.refl _ _
  | succ n ih =>
    cases m with
    | zero => unfold treeStep; exact Keeps.refl _ _
    | succ m =>
      rw [treeStep]
      rotate_left
      · exact Nat.succ_ne_zero m
      split
      · exact Keeps.refl _ _
      · split
        · exact Keeps.refl _ _
        · extract_lets -merge x11 x12 x13 x14 x15 x16
          have hx13 : Keeps [.scan, .qos] s x13 := by
            unfold x13
            exact (modQos_keeps ..).mono rfl
          have hx14 : Keeps [.scan, .qos] s x14 := by
            unfold x14
            refine Keeps.after ?_ (modScan_keeps _ _ ?_) rfl
            · assumption
            · rfl
          have hx16 : Keeps [.scan, .qos] s x16 := by
            unfold x16
            refine Keeps.ite ?_ ?_
            · exact Keeps.after (by assumption) (modQuery_keeps ..) rfl
            · exact Keeps.after (by assumption) (addTree_keeps ..) rfl
          clear_value x13 x14 x16
          exact Keeps.after (by assumption) (ih ..) rfl

theorem treeSlot_keeps (s) : Keeps [.scan, .qos] s (treeSlot s) := by
  unfold treeSlot
  extract_lets -merge x0 x1
  have hx0 : Keeps [.scan, .qos] s x0 := by
    unfold x0
    exact (treeStep_keeps ..).mono rfl
  have hx1 : Keeps [.scan, .qos] s x1 := by
    unfold x1
    refine Keeps.foldl ?_ (fun t2 z3 => ?_)
    · assumption
    · exact (treeStep_keeps ..).mono rfl
  clear_value x0 x1
  refine Keeps.foldl ?_ (fun t4 z5 => ?_)
  · assumption
  · exact (treeStep_keeps ..).mono rfl

theorem scanSlot_keeps (a0 s) : Keeps [.nextId, .stats, .pvStats, .tier, .scan, .qos, .integ] s (scanSlot a0 s) := by
  unfold scanSlot
  extract_lets -merge x0 x1 x2 x3
  have hx0 : Keeps [.nextId, .stats, .pvStats, .tier, .scan, .qos, .integ] s x0 := by
    unfold x0
    refine Keeps.foldl ?_ (fun t4 z5 => ?_)
    · exact Keeps.refl _ _
    · exact (badTag_keeps ..).mono rfl
  have hx1 : Keeps [.nextId, .stats, .pvStats, .tier, .scan, .qos, .integ] s x1 := by
    unfold x1
    exact Keeps.after (by assumption) (broadcast_keeps ..) rfl
  have hx2 : Keeps [.nextId, .stats, .pvStats, .tier, .scan, .qos, .integ] s x2 := by
    unfold x2
    refine Keeps.foldl ?_ (fun t6 z7 => ?_)
    · assumption
    · exact (engineSlot_keeps ..).mono rfl
  have hx3 : Keeps [.nextId, .stats, .pvStats, .tier, .scan, .qos, .integ] s x3 := by
    unfold x3
    refine Keeps.foldl ?_ (fun t8 z9 => ?_)
    · assumption
    · exact (stackSlot_keeps ..).mono rfl
  clear_value x0 x1 x2 x3
  refine Keeps.after ?_ (settleBatches_keeps ..) rfl
  exact Keeps.after (by assumption) (treeSlot_keeps ..) rfl

end Sys2Proof.Machine
end

