-- ==== Sys2Proof/Laws/KeepsSelect.lean ====
section
/-! SUPPORT. What each operation of Machine/Select.lean leaves alone. -/

namespace Sys2Proof.Machine

theorem modCand_keeps (a0 a1 a2 s) : Keeps [.scan] s (modCand a0 a1 a2 s) := by
  unfold modCand
  exact (modQuery_keeps ..).mono rfl

theorem fetchCand_keeps (a0 s a2) : Keeps [.nextId, .scan, .flash] s (fetchCand a0 s a2) := by
  unfold fetchCand
  split
  · exact Keeps.refl _ _
  · split
    · exact Keeps.refl _ _
    · split
      · refine Keeps.ite ?_ ?_
        · refine Keeps.after ?_ (modCand_keeps ..) rfl
          exact (askKib_keeps ..).mono rfl
        · exact Keeps.refl _ _
      · exact Keeps.refl _ _

theorem formCands_keeps (s a1) : Keeps [.nextId, .stats, .pvStats, .scan, .flash] s (formCands s a1) := by
  unfold formCands
  extract_lets -merge x0
  refine Keeps.ite ?_ ?_
  · split
    · extract_lets -merge x5 x6 x7 x8
      have hx6 : Keeps [.nextId, .stats, .pvStats, .scan, .flash] s x6 := by
        unfold x6
        exact (modQuery_keeps ..).mono rfl
      have hx7 : Keeps [.nextId, .stats, .pvStats, .scan, .flash] s x7 := by
        unfold x7
        refine Keeps.foldl ?_ (fun t9 z10 => ?_)
        · assumption
        · exact (fetchCand_keeps ..).mono rfl
      have hx8 : Keeps [.nextId, .stats, .pvStats, .scan, .flash] s x8 := by
        unfold x8
        refine Keeps.ite ?_ ?_
        · refine Keeps.after ?_ (modScan_keeps _ _ ?_) rfl
          · assumption
          · rfl
        · assumption
      clear_value x6 x7 x8
      refine Keeps.ite ?_ ?_
      · assumption
      · exact Keeps.after (by assumption) (count_keeps ..) rfl
  · exact Keeps.refl _ _

theorem formAll_keeps (s) : Keeps [.nextId, .stats, .pvStats, .scan, .flash] s (formAll s) := by
  unfold formAll
  refine Keeps.foldl ?_ (fun t0 z1 => ?_)
  · exact Keeps.refl _ _
  · exact (formCands_keeps ..).mono rfl

theorem loseCand_keeps (a0 a1 a2 s) : Keeps [.scan] s (loseCand a0 a1 a2 s) := by
  unfold loseCand
  refine Keeps.after ?_ (modQuery_keeps ..) rfl
  exact (modCand_keeps ..).mono rfl

theorem doArrival_keeps (a0 a1 a2 s) : Keeps [.nextId, .out, .fns, .stats, .pvStats, .ranges, .tier, .scan, .flash] s (doArrival a0 a1 a2 s) := by
  unfold doArrival
  split
  · exact Keeps.refl _ _
  · split
    · exact Keeps.refl _ _
    · refine Keeps.ite ?_ ?_
      · split
        · exact Keeps.refl _ _
        · extract_lets -merge x16
          refine Keeps.ite ?_ ?_
          · exact (fetchCand_keeps ..).mono rfl
          · refine Keeps.ite ?_ ?_
            · exact Keeps.refl _ _
            · refine Keeps.ite ?_ ?_
              · refine Keeps.after ?_ (loseCand_keeps ..) rfl
                exact (memError_keeps ..).mono rfl
              · split
                · rename_i y17 y18 y19 y20 y21
                  have ky20 : Keeps [.nextId, .out, .fns, .stats, .pvStats, .ranges, .tier, .scan, .flash] s y20 := by
                    refine Keeps.of2 y21 ?_
                    exact (readFor_keeps ..).mono rfl
                  exact Keeps.after (by assumption) (loseCand_keeps ..) rfl
                · rename_i y22 y23 y24 y25
                  have ky24 : Keeps [.nextId, .out, .fns, .stats, .pvStats, .ranges, .tier, .scan, .flash] s y24 := by
                    refine Keeps.of2 y25 ?_
                    exact (readFor_keeps ..).mono rfl
                  extract_lets -merge x26
                  have hx26 : Keeps [.nextId, .out, .fns, .stats, .pvStats, .ranges, .tier, .scan, .flash] s x26 := by
                    unfold x26
                    exact Keeps.after (by assumption) (count_keeps ..) rfl
                  clear_value x26
                  refine Keeps.after ?_ (modCand_keeps ..) rfl
                  exact Keeps.after (by assumption) (noteMiss_keeps ..) rfl
      · exact Keeps.refl _ _

theorem doFetchExpiry_keeps (a0 s) : Keeps [.scan] s (doFetchExpiry a0 s) := by
  unfold doFetchExpiry
  split
  · exact Keeps.refl _ _
  · extract_lets -merge x5
    refine Keeps.ite ?_ ?_
    · refine Keeps.after ?_ (modScan_keeps _ _ ?_) rfl
      · refine Keeps.foldl ?_ (fun t6 z7 => ?_)
        · exact Keeps.refl _ _
        · exact (loseCand_keeps ..).mono rfl
      · rfl
    · exact Keeps.refl _ _

theorem scoreOne_keeps (a0 a1 s a3) : Keeps [.corpora, .scan] s (scoreOne a0 a1 s a3) := by
  unfold scoreOne
  split
  · exact Keeps.refl _ _
  · split
    · split
      · extract_lets -merge x15 x16
        have hx16 : Keeps [.corpora, .scan] s x16 := by
          unfold x16
          refine Keeps.ite ?_ ?_
          · exact (modCorpus_keeps ..).mono rfl
          · exact Keeps.refl _ _
        clear_value x16
        exact Keeps.after (by assumption) (modCand_keeps ..) rfl
      · exact Keeps.refl _ _
    · exact Keeps.refl _ _

theorem scoreBlock_keeps (a0 a1 a2 s) : Keeps [.stats, .pvStats, .corpora, .scan] s (scoreBlock a0 a1 a2 s) := by
  unfold scoreBlock
  split
  · exact Keeps.refl _ _
  · extract_lets -merge x5 x6 x7 x8 x9 x10 x11 x12 x13 x14 x15 x16 x17 x18
    have hx15 : Keeps [.stats, .pvStats, .corpora, .scan] s x15 := by
      unfold x15
      exact (count_keeps ..).mono rfl
    have hx17 : Keeps [.stats, .pvStats, .corpora, .scan] s x17 := by
      unfold x17
      refine Keeps.ite ?_ ?_
      · assumption
      · exact Keeps.after (by assumption) (count_keeps ..) rfl
    have hx18 : Keeps [.stats, .pvStats, .corpora, .scan] s x18 := by
      unfold x18
      exact Keeps.after (by assumption) (noteGather_keeps ..) rfl
    clear_value x15 x17 x18
    refine Keeps.foldl ?_ (fun t19 z20 => ?_)
    · assumption
    · extract_lets -merge x21
      exact (modCand_keeps ..).mono rfl

theorem useTa_keeps (a0 a1 a2 s) : Keeps [.scan, .qos] s (useTa a0 a1 a2 s) := by
  unfold useTa
  refine Keeps.after ?_ (modScan_keeps _ _ ?_) rfl
  · exact (modQos_keeps ..).mono rfl
  · rfl

theorem doEncode_keeps (a0 a1 a2 s) : Keeps [.nextId, .out, .stats, .pvStats, .scan, .fab, .comp, .qos] s (doEncode a0 a1 a2 s) := by
  unfold doEncode
  split
  · exact Keeps.refl _ _
  · refine Keeps.ite ?_ ?_
    · split
      · exact Keeps.refl _ _
      · split
        · exact Keeps.refl _ _
        · extract_lets -merge x15 x16 x17 x18
          have hx15 : Keeps [.nextId, .out, .stats, .pvStats, .scan, .fab, .comp, .qos] s x15 := by
            unfold x15
            exact (useTa_keeps ..).mono rfl
          have hx18 : Keeps [.nextId, .out, .stats, .pvStats, .scan, .fab, .comp, .qos] s x18 := by
            unfold x18
            exact Keeps.after (by assumption) (modQuery_keeps ..) rfl
          clear_value x15 x18
          exact Keeps.after (by assumption) (routeRound_keeps ..) rfl
    · exact Keeps.refl _ _

theorem doRerank_keeps (a0 a1 a2 a3 s) : Keeps [.free, .nextId, .stats, .pvStats, .corpora, .scan, .qos, .integ] s (doRerank a0 a1 a2 a3 s) := by
  unfold doRerank
  split
  · exact Keeps.refl _ _
  · split
    · exact Keeps.refl _ _
    · extract_lets -merge x10 x11 x12 x13
      have hx11 : ∀ a14 a15, Keeps [.free, .nextId, .stats, .pvStats, .corpora, .scan, .qos, .integ] a15 (x11 a14 a15) := by
        intro a14 a15
        unfold x11
        split
        · rename_i y16 y17 y18 y19
          have ky18 : Keeps [.free, .nextId, .stats, .pvStats, .corpora, .scan, .qos, .integ] a15 y18 := by
            refine Keeps.of2 y19 ?_
            refine Keeps.after ?_ (drawMark_keeps ..) rfl
            exact (useTa_keeps ..).mono rfl
          refine Keeps.ite ?_ ?_
          · exact Keeps.after (by assumption) (addShadow_keeps ..) rfl
          · assumption
      clear_value x11
      refine Keeps.ite ?_ ?_
      · exact Keeps.refl _ _
      · refine Keeps.ite ?_ ?_
        · refine Keeps.then_ ?_ (hx11 ..)
          refine Keeps.foldl ?_ (fun t20 z21 => ?_)
          · exact (upd_free _).mono rfl
          · exact (scoreOne_keeps ..).mono rfl
        · split
          · exact Keeps.refl _ _
          · refine Keeps.ite ?_ ?_
            · refine Keeps.then_ ?_ (hx11 ..)
              exact (scoreBlock_keeps ..).mono rfl
            · exact Keeps.refl _ _

theorem doTensorSteal_keeps (a0 a1 a2 a3 a4 s) : Keeps [.free, .corpora, .scan, .qos] s (doTensorSteal a0 a1 a2 a3 a4 s) := by
  unfold doTensorSteal
  split
  · extract_lets -merge x6 x7 x8 x9 x10 x11 x12 x13 x14
    have hx14 : Keeps [.free, .corpora, .scan, .qos] s x14 := by
      unfold x14
      refine Keeps.after ?_ (modScan_keeps _ _ ?_) rfl
      · exact Keeps.refl _ _
      · rfl
    clear_value x14
    split
    · extract_lets -merge x19 x20
      have hx19 : Keeps [.free, .corpora, .scan, .qos] s x19 := by
        unfold x19
        exact Keeps.after (by assumption) (useTa_keeps ..) rfl
      clear_value x19
      refine Keeps.ite ?_ ?_
      · refine Keeps.foldl ?_ (fun t21 z22 => ?_)
        · exact Keeps.after (by assumption) (upd_free _) rfl
        · refine Keeps.after ?_ (scoreOne_keeps ..) rfl
          exact (modCand_keeps ..).mono rfl
      · exact Keeps.refl _ _
    · exact Keeps.refl _ _
  · exact Keeps.refl _ _

theorem modTop_keeps (a0 a1 a2 s) : Keeps [.scan] s (modTop a0 a1 a2 s) := by
  unfold modTop
  exact (modQuery_keeps ..).mono rfl

theorem loseRow_keeps (a0 a1 a2 s) : Keeps [.scan] s (loseRow a0 a1 a2 s) := by
  unfold loseRow
  refine Keeps.after ?_ (modQuery_keeps ..) rfl
  exact (modTop_keeps ..).mono rfl

theorem gatherRow_keeps (a0 a1 a2 s a4) : Keeps [.nextId, .out, .fns, .stats, .pvStats, .ranges, .tier, .scan, .flash] s (gatherRow a0 a1 a2 s a4) := by
  unfold gatherRow
  split
  · exact Keeps.refl _ _
  · split
    · exact Keeps.refl _ _
    · extract_lets -merge x10 x11 x12
      have hx12 : Keeps [.nextId, .out, .fns, .stats, .pvStats, .ranges, .tier, .scan, .flash] s x12 := by
        unfold x12
        refine Keeps.ite ?_ ?_
        · exact (askKib_keeps ..).mono rfl
        · exact Keeps.refl _ _
      clear_value x12
      refine Keeps.ite ?_ ?_
      · exact Keeps.refl _ _
      · refine Keeps.ite ?_ ?_
        · assumption
        · refine Keeps.ite ?_ ?_
          · refine Keeps.after ?_ (loseRow_keeps ..) rfl
            exact Keeps.after (by assumption) (memError_keeps ..) rfl
          · split
            · rename_i y13 y14 y15 y16 y17
              have ky16 : Keeps [.nextId, .out, .fns, .stats, .pvStats, .ranges, .tier, .scan, .flash] s y16 := by
                refine Keeps.of2 y17 ?_
                exact Keeps.after (by assumption) (readFor_keeps ..) rfl
              exact Keeps.after (by assumption) (loseRow_keeps ..) rfl
            · rename_i y18 y19 y20 y21
              have ky20 : Keeps [.nextId, .out, .fns, .stats, .pvStats, .ranges, .tier, .scan, .flash] s y20 := by
                refine Keeps.of2 y21 ?_
                exact Keeps.after (by assumption) (readFor_keeps ..) rfl
              refine Keeps.after ?_ (modTop_keeps ..) rfl
              exact Keeps.after (by assumption) (noteMiss_keeps ..) rfl

theorem settleGather_keeps (a0 s) : Keeps [.nextId, .out, .stats, .pvStats, .corpora, .scan, .fab, .comp, .qos] s (settleGather a0 s) := by
  unfold settleGather
  split
  · refine Keeps.ite ?_ ?_
    · exact (finishLocal_keeps ..).mono rfl
    · exact Keeps.refl _ _
  · exact Keeps.refl _ _

theorem doTopk_keeps (a0 a1 s) : Keeps [.nextId, .out, .fns, .stats, .pvStats, .corpora, .ranges, .tier, .scan, .flash, .fab, .comp, .qos] s (doTopk a0 a1 s) := by
  unfold doTopk
  split
  · exact Keeps.refl _ _
  · extract_lets -merge x5 x6
    refine Keeps.ite ?_ ?_
    · split
      · extract_lets -merge x12
        have hx12 : Keeps [.nextId, .out, .fns, .stats, .pvStats, .corpora, .ranges, .tier, .scan, .flash, .fab, .comp, .qos] s x12 := by
          unfold x12
          exact (modQuery_keeps ..).mono rfl
        clear_value x12
        refine Keeps.after ?_ (settleGather_keeps ..) rfl
        refine Keeps.foldl ?_ (fun t13 z14 => ?_)
        · assumption
        · exact (gatherRow_keeps ..).mono rfl
    · exact Keeps.refl _ _

theorem doPayloadExpiry_keeps (a0 s) : Keeps [.nextId, .out, .stats, .pvStats, .corpora, .scan, .fab, .comp, .qos] s (doPayloadExpiry a0 s) := by
  unfold doPayloadExpiry
  split
  · exact Keeps.refl _ _
  · extract_lets -merge x5
    refine Keeps.ite ?_ ?_
    · refine Keeps.after ?_ (settleGather_keeps ..) rfl
      refine Keeps.after ?_ (modScan_keeps _ _ ?_) rfl
      · refine Keeps.foldl ?_ (fun t6 z7 => ?_)
        · exact Keeps.refl _ _
        · exact (loseRow_keeps ..).mono rfl
      · rfl
    · exact Keeps.refl _ _

theorem readEnds_keeps (a0 a1 s) : Keeps [.nextId, .out, .fns, .stats, .pvStats, .corpora, .ranges, .tier, .scan, .flash, .fab, .comp, .qos] s (readEnds a0 a1 s) := by
  unfold readEnds
  split
  · split
    · refine Keeps.ite ?_ ?_
      · exact (loseCand_keeps ..).mono rfl
      · exact Keeps.refl _ _
    · exact Keeps.refl _ _
  · split
    · refine Keeps.ite ?_ ?_
      · refine Keeps.after ?_ (settleGather_keeps ..) rfl
        exact (gatherRow_keeps ..).mono rfl
      · exact Keeps.refl _ _
    · exact Keeps.refl _ _
  · exact Keeps.refl _ _

theorem doFlashRead_keeps (a0 s) : Keeps [.nextId, .out, .fns, .works, .stats, .pvStats, .corpora, .ranges, .tier, .scan, .flash, .fab, .comp, .qos] s (doFlashRead a0 s) := by
  unfold doFlashRead
  split
  · refine Keeps.ite ?_ ?_
    · refine Keeps.after ?_ (readEnds_keeps ..) rfl
      exact (readDone_keeps ..).mono rfl
    · exact Keeps.refl _ _
  · exact Keeps.refl _ _

theorem doPartialExpiry_keeps (a0 s) : Keeps [.scan] s (doPartialExpiry a0 s) := by
  unfold doPartialExpiry
  split
  · exact Keeps.refl _ _
  · extract_lets -merge x5
    refine Keeps.ite ?_ ?_
    · exact (modQuery_keeps ..).mono rfl
    · exact Keeps.refl _ _

theorem finishQuery_keeps (a0 a1 a2 a3 s) : Keeps [.out, .fns, .works, .stats, .pvStats, .corpora, .scan] s (finishQuery a0 a1 a2 a3 s) := by
  unfold finishQuery
  extract_lets -merge x0 x1 x2 x3 x4 x5 x6 x7 x8
  split
  · extract_lets -merge x14 x15 x16 x17 x18 x19
    have hx16 : Keeps [.out, .fns, .works, .stats, .pvStats, .corpora, .scan] s x16 := by
      unfold x16
      refine Keeps.ite ?_ ?_
      · exact Keeps.refl _ _
      · exact (hostWrite_keeps ..).mono rfl
    have hx17 : Keeps [.out, .fns, .works, .stats, .pvStats, .corpora, .scan] s x17 := by
      unfold x17
      exact Keeps.after (by assumption) (hostWrite_keeps ..) rfl
    have hx18 : Keeps [.out, .fns, .works, .stats, .pvStats, .corpora, .scan] s x18 := by
      unfold x18
      exact Keeps.after (by assumption) (count_keeps ..) rfl
    have hx19 : Keeps [.out, .fns, .works, .stats, .pvStats, .corpora, .scan] s x19 := by
      unfold x19
      exact Keeps.after (by assumption) (modQuery_keeps ..) rfl
    clear_value x16 x17 x18 x19
    refine Keeps.after ?_ (settleSearch_keeps ..) rfl
    exact Keeps.after (by assumption) (freeElems_keeps ..) rfl

theorem doFinal_keeps (a0 s) : Keeps [.nextId, .out, .fns, .works, .stats, .pvStats, .corpora, .scan, .fab, .comp, .qos] s (doFinal a0 s) := by
  unfold doFinal
  split
  · exact Keeps.refl _ _
  · refine Keeps.ite ?_ ?_
    · split
      · extract_lets -merge x10 x11 x12 x13
        have hx10 : Keeps [.nextId, .out, .fns, .works, .stats, .pvStats, .corpora, .scan, .fab, .comp, .qos] s x10 := by
          unfold x10
          refine Keeps.ite ?_ ?_
          · exact Keeps.refl _ _
          · exact (count_keeps ..).mono rfl
        have hx13 : Keeps [.nextId, .out, .fns, .works, .stats, .pvStats, .corpora, .scan, .fab, .comp, .qos] s x13 := by
          unfold x13
          exact Keeps.after (by assumption) (modQuery_keeps ..) rfl
        clear_value x10 x13
        refine Keeps.ite ?_ ?_
        · refine Keeps.after ?_ (routeRound_keeps ..) rfl
          exact Keeps.after (by assumption) (count_keeps ..) rfl
        · split
          · exact Keeps.after (by assumption) (finishQuery_keeps ..) rfl
          · exact Keeps.after (by assumption) (dropQuery_keeps ..) rfl
    · exact Keeps.refl _ _

end Sys2Proof.Machine
end

