-- ==== Sys2Proof/Laws/KeepsIntegrity.lean ====
section
/-! SUPPORT. What each operation of Machine/Integrity.lean leaves alone. -/

namespace Sys2Proof.Machine

theorem modInteg_keeps (g) (s : State) (h : (modInteg g s).words = s.words) : Keeps [.integ] s (modInteg g s) := upd_integ _ h
theorem modInteg_touch (g) (s : State) : Keeps [.integ, .words] s (modInteg g s) := touch_integ _
theorem modDie_keeps (a0 a1 s) : Keeps [.dies] s (modDie a0 a1 s) := by
  unfold modDie
  exact (upd_dies _).mono rfl

theorem askSwap_keeps (a0 a1 a2 a3 s) : Keeps [.integ] s (askSwap a0 a1 a2 a3 s) := by
  unfold askSwap
  refine Keeps.after ?_ (modInteg_keeps _ _ ?_) rfl
  · exact Keeps.refl _ _
  · rfl

theorem suspect_keeps (a0 a1 s) : Keeps [.out, .fns, .integ] s (suspect a0 a1 s) := by
  unfold suspect
  extract_lets -merge x0 x1 x2
  have hx2 : Keeps [.out, .fns, .integ] s x2 := by
    unfold x2
    refine Keeps.after ?_ (modInteg_keeps _ _ ?_) rfl
    · exact Keeps.refl _ _
    · rfl
  clear_value x2
  refine Keeps.ite ?_ ?_
  · split
    · exact Keeps.refl _ _
    · extract_lets -merge x8
      have hx8 : Keeps [.out, .fns, .integ] s x8 := by
        unfold x8
        exact Keeps.after (by assumption) (nodeEvent_keeps ..) rfl
      clear_value x8
      refine Keeps.ite ?_ ?_
      · exact Keeps.after (by assumption) (askSwap_keeps ..) rfl
      · assumption
  · exact Keeps.refl _ _

theorem noteCheck_keeps (a0 a1 a2 s) : Keeps [.out, .fns, .integ] s (noteCheck a0 a1 a2 s) := by
  unfold noteCheck
  extract_lets -merge x0 x1
  have hx1 : Keeps [.out, .fns, .integ] s x1 := by
    unfold x1
    refine Keeps.after ?_ (modInteg_keeps _ _ ?_) rfl
    · exact Keeps.refl _ _
    · rfl
  clear_value x1
  exact Keeps.after (by assumption) (suspect_keeps ..) rfl

theorem doHalve_keeps (s) : Keeps [.integ] s (doHalve s) := by
  unfold doHalve
  refine Keeps.ite ?_ ?_
  · refine Keeps.after ?_ (modInteg_keeps _ _ ?_) rfl
    · exact Keeps.refl _ _
    · rfl
  · exact Keeps.refl _ _

theorem dropShadow_keeps (a0 s) : Keeps [.scan, .integ] s (dropShadow a0 s) := by
  unfold dropShadow
  refine Keeps.after ?_ (settleBatches_keeps ..) rfl
  refine Keeps.after ?_ (modInteg_keeps _ _ ?_) rfl
  · exact Keeps.refl _ _
  · rfl

theorem capture_keeps (a0 a1 a2 s) : Keeps [.integ] s (capture a0 a1 a2 s) := by
  unfold capture
  extract_lets -merge x0 x1 x2 x3 x4
  refine Keeps.ite ?_ ?_
  · refine Keeps.after ?_ (modInteg_keeps _ _ ?_) rfl
    · exact Keeps.refl _ _
    · rfl
  · exact Keeps.refl _ _

theorem settleRuns_keeps (a0 a1 a2 s) : Keeps [.out, .fns, .stats, .pvStats, .integ] s (settleRuns a0 a1 a2 s) := by
  unfold settleRuns
  refine Keeps.foldl ?_ (fun t0 z1 => ?_)
  · exact (count_keeps ..).mono rfl
  · extract_lets -merge x2
    have hx2 : Keeps [.out, .fns, .stats, .pvStats, .integ] t0 x2 := by
      unfold x2
      exact (noteCheck_keeps ..).mono rfl
    clear_value x2
    refine Keeps.ite ?_ ?_
    · refine Keeps.after ?_ (capture_keeps ..) rfl
      exact Keeps.after (by assumption) (count_keeps ..) rfl
    · assumption

theorem useUnit_keeps (a0 a1 a2 s) : Keeps [.scan] s (useUnit a0 a1 a2 s) := by
  unfold useUnit
  refine Keeps.after ?_ (modScan_keeps _ _ ?_) rfl
  · exact Keeps.refl _ _
  · split <;> rfl

theorem doShadow_keeps (a0 a1 a2 a3 a4 a5 a6 s) : Keeps [.out, .fns, .stats, .pvStats, .scan, .integ] s (doShadow a0 a1 a2 a3 a4 a5 a6 s) := by
  unfold doShadow
  split
  · exact Keeps.refl _ _
  · split
    · exact Keeps.refl _ _
    · extract_lets -merge x10 x11 x12
      have hx10 : Keeps [.out, .fns, .stats, .pvStats, .scan, .integ] s x10 := by
        unfold x10
        exact (useUnit_keeps ..).mono rfl
      clear_value x10
      refine Keeps.ite ?_ ?_
      · refine Keeps.ite ?_ ?_
        · refine Keeps.after ?_ (dropShadow_keeps ..) rfl
          exact Keeps.after (by assumption) (settleRuns_keeps ..) rfl
        · refine Keeps.ite ?_ ?_
          · refine Keeps.after ?_ (dropShadow_keeps ..) rfl
            exact Keeps.after (by assumption) (settleRuns_keeps ..) rfl
          · refine Keeps.after ?_ (modInteg_keeps _ _ ?_) rfl
            · assumption
            · rfl
      · exact Keeps.refl _ _

theorem doArbitrate_keeps (a0 a1 a2 a3 a4 a5 s) : Keeps [.out, .fns, .stats, .pvStats, .scan, .integ] s (doArbitrate a0 a1 a2 a3 a4 a5 s) := by
  unfold doArbitrate
  split
  · exact Keeps.refl _ _
  · split
    · refine Keeps.ite ?_ ?_
      · refine Keeps.after ?_ (dropShadow_keeps ..) rfl
        exact (settleRuns_keeps ..).mono rfl
      · split
        · exact Keeps.refl _ _
        · extract_lets -merge x14 x15 x16 x17 x18
          have hx14 : Keeps [.out, .fns, .stats, .pvStats, .scan, .integ] s x14 := by
            unfold x14
            exact (useUnit_keeps ..).mono rfl
          have hx18 : Keeps [.out, .fns, .stats, .pvStats, .scan, .integ] s x18 := by
            unfold x18
            refine Keeps.ite ?_ ?_
            · refine Keeps.after ?_ (modInteg_keeps _ _ ?_) rfl
              · assumption
              · rfl
            · assumption
          clear_value x14 x18
          refine Keeps.ite ?_ ?_
          · refine Keeps.after ?_ (dropShadow_keeps ..) rfl
            exact Keeps.after (by assumption) (settleRuns_keeps ..) rfl
          · exact Keeps.refl _ _
    · exact Keeps.refl _ _

theorem doShadowExpiry_keeps (a0 s) : Keeps [.scan, .integ] s (doShadowExpiry a0 s) := by
  unfold doShadowExpiry
  split
  · refine Keeps.ite ?_ ?_
    · refine Keeps.after ?_ (modInteg_keeps _ _ ?_) rfl
      · exact (dropShadow_keeps ..).mono rfl
      · rfl
    · exact Keeps.refl _ _
  · exact Keeps.refl _ _

theorem keeperAssign_keeps (s) : Keeps [.stats, .pvStats, .integ] s (keeperAssign s) := by
  unfold keeperAssign
  extract_lets -merge x0 x1 x2 x3 x4 x5 x6
  have hx6 : Keeps [.stats, .pvStats, .integ] s x6 := by
    unfold x6
    refine Keeps.after ?_ (modInteg_keeps _ _ ?_) rfl
    · exact Keeps.refl _ _
    · rfl
  clear_value x6
  refine Keeps.ite ?_ ?_
  · assumption
  · exact Keeps.after (by assumption) (count_keeps ..) rfl

theorem keeperResult_keeps (a0 s) : Keeps [.out, .fns, .integ] s (keeperResult a0 s) := by
  unfold keeperResult
  extract_lets -merge x0 x1
  have hx1 : Keeps [.out, .fns, .integ] s x1 := by
    unfold x1
    exact (noteCheck_keeps ..).mono rfl
  clear_value x1
  refine Keeps.ite ?_ ?_
  · refine Keeps.ite ?_ ?_
    · refine Keeps.after ?_ (modInteg_keeps _ _ ?_) rfl
      · assumption
      · rfl
    · refine Keeps.ite ?_ ?_
      · refine Keeps.after ?_ (askSwap_keeps ..) rfl
        refine Keeps.after ?_ (modInteg_keeps _ _ ?_) rfl
        · assumption
        · rfl
      · refine Keeps.after ?_ (modInteg_keeps _ _ ?_) rfl
        · assumption
        · rfl
  · exact Keeps.refl _ _

theorem bankTest_keeps (a0 s) : Keeps [.out, .fns, .integ] s (bankTest a0 s) := by
  unfold bankTest
  extract_lets -merge x0 x1 x2
  have hx2 : Keeps [.out, .fns, .integ] s x2 := by
    unfold x2
    exact (nodeEvent_keeps ..).mono rfl
  clear_value x2
  refine Keeps.ite ?_ ?_
  · exact Keeps.refl _ _
  · refine Keeps.ite ?_ ?_
    · refine Keeps.after ?_ (modInteg_keeps _ _ ?_) rfl
      · exact Keeps.refl _ _
      · rfl
    · refine Keeps.ite ?_ ?_
      · refine Keeps.ite ?_ ?_
        · refine Keeps.after ?_ (modInteg_keeps _ _ ?_) rfl
          · assumption
          · rfl
        · assumption
      · refine Keeps.after ?_ (modInteg_keeps _ _ ?_) rfl
        · exact Keeps.refl _ _
        · rfl

theorem replay_keeps (a0 s) : Keeps [.integ] s (replay a0 s) := by
  unfold replay
  extract_lets -merge x0 x1 x2 x3
  refine Keeps.ite ?_ ?_
  · refine Keeps.after ?_ (modInteg_keeps _ _ ?_) rfl
    · exact Keeps.refl _ _
    · rfl
  · exact Keeps.refl _ _

theorem breakQuery_keeps (a0 s a2) : Keeps [.nextId, .out, .stats, .pvStats, .corpora, .scan, .fab, .comp, .qos] s (breakQuery a0 s a2) := by
  unfold breakQuery
  split
  · refine Keeps.ite ?_ ?_
    · exact Keeps.refl _ _
    · refine Keeps.after ?_ (finishLocal_keeps ..) rfl
      exact (modQuery_keeps ..).mono rfl
  · exact Keeps.refl _ _

theorem breakWork_keeps (a0 a1 a2 s) : Keeps [.nextId, .out, .fns, .works, .stats, .pvStats, .corpora, .scan, .fab, .comp, .qos] s (breakWork a0 a1 a2 s) := by
  unfold breakWork
  refine Keeps.foldl ?_ (fun t0 z1 => ?_)
  · refine Keeps.foldl ?_ (fun t2 z3 => ?_)
    · exact Keeps.refl _ _
    · exact (breakQuery_keeps ..).mono rfl
  · exact (completeId_keeps ..).mono rfl

theorem fenceStop_keeps (a0 s) : Keeps [.nextId, .out, .fns, .works, .stats, .pvStats, .corpora, .tier, .scan, .fab, .comp, .qos] s (fenceStop a0 s) := by
  unfold fenceStop
  extract_lets -merge x0
  have hx0 : Keeps [.nextId, .out, .fns, .works, .stats, .pvStats, .corpora, .tier, .scan, .fab, .comp, .qos] s x0 := by
    unfold x0
    exact (fenceHit_keeps ..).mono rfl
  clear_value x0
  split
  · split
    · refine Keeps.after ?_ (breakWork_keeps ..) rfl
      exact Keeps.after (by assumption) (skipTile_keeps ..) rfl
    · assumption
  · refine Keeps.after ?_ (breakWork_keeps ..) rfl
    exact Keeps.after (by assumption) (rowError_keeps ..) rfl
  · exact Keeps.after (by assumption) (breakWork_keeps ..) rfl

theorem sramError_keeps (a0 s) : Keeps [.nextId, .out, .fns, .works, .stats, .pvStats, .corpora, .scan, .fab, .comp, .qos, .integ] s (sramError a0 s) := by
  unfold sramError
  extract_lets -merge x0 x1
  have hx0 : Keeps [.nextId, .out, .fns, .works, .stats, .pvStats, .corpora, .scan, .fab, .comp, .qos, .integ] s x0 := by
    unfold x0
    refine Keeps.after ?_ (breakWork_keeps ..) rfl
    exact (count_keeps ..).mono rfl
  have hx1 : Keeps [.nextId, .out, .fns, .works, .stats, .pvStats, .corpora, .scan, .fab, .comp, .qos, .integ] s x1 := by
    unfold x1
    refine Keeps.after ?_ (modInteg_keeps _ _ ?_) rfl
    · assumption
    · rfl
  clear_value x0 x1
  refine Keeps.ite ?_ ?_
  · exact (count_keeps ..).mono rfl
  · split
    · assumption
    · split
      · exact Keeps.after (by assumption) (askSwap_keeps ..) rfl
      · assumption

theorem integSlot_keeps (a0 s) : Keeps [.nextId, .out, .fns, .works, .stats, .pvStats, .corpora, .tier, .scan, .fab, .comp, .qos, .integ] s (integSlot a0 s) := by
  unfold integSlot
  extract_lets -merge x0 x1
  have hx0 : Keeps [.nextId, .out, .fns, .works, .stats, .pvStats, .corpora, .tier, .scan, .fab, .comp, .qos, .integ] s x0 := by
    unfold x0
    refine Keeps.foldl ?_ (fun t2 z3 => ?_)
    · refine Keeps.foldl ?_ (fun t4 z5 => ?_)
      · exact Keeps.refl _ _
      · exact (fenceStop_keeps ..).mono rfl
    · exact (sramError_keeps ..).mono rfl
  have hx1 : Keeps [.nextId, .out, .fns, .works, .stats, .pvStats, .corpora, .tier, .scan, .fab, .comp, .qos, .integ] s x1 := by
    unfold x1
    refine Keeps.foldl ?_ (fun t6 z7 => ?_)
    · assumption
    · exact (keeperResult_keeps ..).mono rfl
  clear_value x0 x1
  refine Keeps.foldl ?_ (fun t8 z9 => ?_)
  · refine Keeps.foldl ?_ (fun t10 z11 => ?_)
    · assumption
    · exact (bankTest_keeps ..).mono rfl
  · exact (replay_keeps ..).mono rfl

theorem putTile_keeps (a0 a1 a2 s) : Keeps [.corpora, .integ] s (putTile a0 a1 a2 s) := by
  unfold putTile
  refine Keeps.after ?_ (modInteg_keeps _ _ ?_) rfl
  · exact (modCorpus_keeps ..).mono rfl
  · rfl

theorem doScrubTile_keeps (a0 a1 a2 a3 a4 a5 s) : Keeps [.out, .fns, .stats, .pvStats, .corpora, .integ] s (doScrubTile a0 a1 a2 a3 a4 a5 s) := by
  unfold doScrubTile
  split
  · split
    · exact Keeps.refl _ _
    · extract_lets -merge x11 x12 x13 x14 x15 x16 x17
      have hx13 : Keeps [.out, .fns, .stats, .pvStats, .corpora, .integ] s x13 := by
        unfold x13
        refine Keeps.after ?_ (modInteg_keeps _ _ ?_) rfl
        · exact Keeps.refl _ _
        · rfl
      have hx15 : Keeps [.out, .fns, .stats, .pvStats, .corpora, .integ] s x15 := by
        unfold x15
        refine Keeps.ite ?_ ?_
        · exact Keeps.after (by assumption) (modCorpus_keeps ..) rfl
        · assumption
      have hx17 : ∀ a18 a19, Keeps [.out, .fns, .stats, .pvStats, .corpora, .integ] a19 (x17 a18 a19) := by
        intro a18 a19
        unfold x17
        refine Keeps.after ?_ (noteCheck_keeps ..) rfl
        exact (count_keeps ..).mono rfl
      clear_value x13 x15 x17
      refine Keeps.ite ?_ ?_
      · refine Keeps.ite ?_ ?_
        · assumption
        · refine Keeps.ite ?_ ?_
          · exact Keeps.after (by assumption) (putTile_keeps ..) rfl
          · refine Keeps.then_ ?_ (hx17 ..)
            refine Keeps.then_ ?_ (hx17 ..)
            assumption
      · exact Keeps.refl _ _
  · exact Keeps.refl _ _

theorem doRepair_keeps (a0 a1 a2 s) : Keeps [.corpora, .integ] s (doRepair a0 a1 a2 s) := by
  unfold doRepair
  extract_lets -merge x0 x1
  have hx1 : Keeps [.corpora, .integ] s x1 := by
    unfold x1
    refine Keeps.after ?_ (modInteg_keeps _ _ ?_) rfl
    · exact Keeps.refl _ _
    · rfl
  clear_value x1
  refine Keeps.ite ?_ ?_
  · split
    · split
      · refine Keeps.ite ?_ ?_
        · exact Keeps.after (by assumption) (putTile_keeps ..) rfl
        · assumption
      · refine Keeps.ite ?_ ?_
        · refine Keeps.after ?_ (modInteg_keeps _ _ ?_) rfl
          · assumption
          · rfl
        · assumption
    · assumption
  · exact Keeps.refl _ _

theorem doStraggler_keeps (a0 s) : Keeps [.integ] s (doStraggler a0 s) := by
  unfold doStraggler
  extract_lets -merge x0 x1
  refine Keeps.ite ?_ ?_
  · refine Keeps.foldl ?_ (fun t2 z3 => ?_)
    · exact Keeps.refl _ _
    · extract_lets -merge x4
      refine Keeps.ite ?_ ?_
      · exact (askSwap_keeps ..).mono rfl
      · exact Keeps.refl _ _
  · exact Keeps.refl _ _

theorem startBist_keeps (a0 s) : Keeps [.integ] s (startBist a0 s) := by
  unfold startBist
  refine Keeps.after ?_ (modInteg_keeps _ _ ?_) rfl
  · exact Keeps.refl _ _
  · rfl

theorem doBistGo_keeps (a0 s) : Keeps [.integ] s (doBistGo a0 s) := by
  unfold doBistGo
  refine Keeps.ite ?_ ?_
  · refine Keeps.ite ?_ ?_
    · exact (startBist_keeps ..).mono rfl
    · refine Keeps.after ?_ (modInteg_keeps _ _ ?_) rfl
      · exact Keeps.refl _ _
      · rfl
  · exact Keeps.refl _ _

theorem doBistRequest_keeps (a0 s) : Keeps [.out, .integ] s (doBistRequest a0 s) := by
  unfold doBistRequest
  refine Keeps.ite ?_ ?_
  · refine Keeps.ite ?_ ?_
    · exact (emit_keeps ..).mono rfl
    · refine Keeps.ite ?_ ?_
      · refine Keeps.after ?_ (emit_keeps ..) rfl
        exact (startBist_keeps ..).mono rfl
      · exact (emit_keeps ..).mono rfl
  · exact Keeps.refl _ _

theorem beginBist_keeps (a0 s) : Keeps [.dies, .integ] s (beginBist a0 s) := by
  unfold beginBist
  extract_lets -merge x0 x1 x2 x3 x4
  have hx4 : Keeps [.dies, .integ] s x4 := by
    unfold x4
    clear_value x0 x1 x3
    split
    · exact (modDie_keeps ..).mono rfl
    · exact Keeps.refl _ _
  clear_value x4
  refine Keeps.after ?_ (modInteg_keeps _ _ ?_) rfl
  · assumption
  · rfl

theorem returnTarget_keeps (a0 s) : Keeps [.dies] s (returnTarget a0 s) := by
  unfold returnTarget
  extract_lets -merge x0 x1
  split
  · split
    · exact (modDie_keeps ..).mono rfl
    · exact Keeps.refl _ _
  · exact Keeps.refl _ _

theorem bistFlag_keeps (a0 a1 a2 s) : Keeps [.out, .fns] s (bistFlag a0 a1 a2 s) := by
  unfold bistFlag
  exact (nodeEvent_keeps ..).mono rfl

theorem abortBist_keeps (a0 s) : Keeps [.out, .fns, .dies, .integ] s (abortBist a0 s) := by
  unfold abortBist
  refine Keeps.after ?_ (bistFlag_keeps ..) rfl
  refine Keeps.after ?_ (modInteg_keeps _ _ ?_) rfl
  · exact (returnTarget_keeps ..).mono rfl
  · rfl

theorem doBistDone_keeps (a0 a1 a2 s) : Keeps [.out, .fns, .dies, .integ] s (doBistDone a0 a1 a2 s) := by
  unfold doBistDone
  split
  · refine Keeps.ite ?_ ?_
    · refine Keeps.after ?_ (bistFlag_keeps ..) rfl
      refine Keeps.after ?_ (modInteg_keeps _ _ ?_) rfl
      · exact (returnTarget_keeps ..).mono rfl
      · rfl
    · exact Keeps.refl _ _
  · exact Keeps.refl _ _

theorem bistFrame_keeps (s) : Keeps [.out, .fns, .dies, .integ] s (bistFrame s) := by
  unfold bistFrame
  split
  · refine Keeps.ite ?_ ?_
    · exact (beginBist_keeps ..).mono rfl
    · refine Keeps.ite ?_ ?_
      · exact (abortBist_keeps ..).mono rfl
      · refine Keeps.after ?_ (modInteg_keeps _ _ ?_) rfl
        · exact Keeps.refl _ _
        · rfl
  · exact Keeps.refl _ _

theorem moveJobs_keeps (a0 a1 a2 s) : Keeps [.scan] s (moveJobs a0 a1 a2 s) := by
  unfold moveJobs
  refine Keeps.after ?_ (modScan_keeps _ _ ?_) rfl
  · exact Keeps.refl _ _
  · rfl

theorem leaveDie_keeps (a0 s) : Keeps [.nextId, .out, .fns, .works, .stats, .pvStats, .corpora, .scan, .fab, .comp, .qos] s (leaveDie a0 s) := by
  unfold leaveDie
  split
  · refine Keeps.after ?_ (modScan_keeps _ _ ?_) rfl
    · exact Keeps.refl _ _
    · rfl
  · exact (breakWork_keeps ..).mono rfl

theorem outOfService_keeps (a0 s) : Keeps [.out, .phase, .fns] s (outOfService a0 s) := by
  unfold outOfService
  extract_lets -merge x0
  have hx0 : Keeps [.out, .phase, .fns] s x0 := by
    unfold x0
    exact (nodeEvent_keeps ..).mono rfl
  clear_value x0
  exact Keeps.after (by assumption) (upd_phase _) rfl

theorem checkDie_keeps (a0 s) : Keeps [.nextId, .out, .phase, .fns, .works, .dies, .stats, .pvStats, .corpora, .scan, .fab, .comp, .qos] s (checkDie a0 s) := by
  unfold checkDie
  extract_lets -merge x0
  have hx0 : Keeps [.nextId, .out, .phase, .fns, .works, .dies, .stats, .pvStats, .corpora, .scan, .fab, .comp, .qos] s x0 := by
    unfold x0
    exact (modDie_keeps ..).mono rfl
  clear_value x0
  refine Keeps.ite ?_ ?_
  · refine Keeps.ite ?_ ?_
    · exact Keeps.after (by assumption) (outOfService_keeps ..) rfl
    · exact Keeps.after (by assumption) (leaveDie_keeps ..) rfl
  · exact Keeps.refl _ _

theorem swapped_keeps (a0 a1 a2 s) : Keeps [.nextId, .out, .phase, .fns, .works, .dies, .stats, .pvStats, .corpora, .scan, .fab, .comp, .qos, .integ] s (swapped a0 a1 a2 s) := by
  unfold swapped
  extract_lets -merge x0 x1
  have hx0 : Keeps [.nextId, .out, .phase, .fns, .works, .dies, .stats, .pvStats, .corpora, .scan, .fab, .comp, .qos, .integ] s x0 := by
    unfold x0
    exact (modDie_keeps ..).mono rfl
  have hx1 : Keeps [.nextId, .out, .phase, .fns, .works, .dies, .stats, .pvStats, .corpora, .scan, .fab, .comp, .qos, .integ] s x1 := by
    unfold x1
    refine Keeps.after ?_ (modInteg_keeps _ _ ?_) rfl
    · assumption
    · rfl
  clear_value x0 x1
  refine Keeps.after ?_ (checkDie_keeps ..) rfl
  exact Keeps.after (by assumption) (nodeEvent_keeps ..) rfl

theorem serveSwap_keeps (s a1) : Keeps [.nextId, .out, .phase, .fns, .works, .dies, .stats, .pvStats, .corpora, .scan, .fab, .comp, .qos, .integ] s (serveSwap s a1) := by
  unfold serveSwap
  extract_lets -merge x0 x1 x2
  split
  · exact Keeps.refl _ _
  · extract_lets -merge x8
    have hx8 : ∀ a9 a10, Keeps [.nextId, .out, .phase, .fns, .works, .dies, .stats, .pvStats, .corpora, .scan, .fab, .comp, .qos, .integ] a10 (x8 a9 a10) := by
      intro a9 a10
      unfold x8
      refine Keeps.after ?_ (swapped_keeps ..) rfl
      exact (modDie_keeps ..).mono rfl
    clear_value x8
    split
    · refine Keeps.then_ ?_ (hx8 ..)
      exact Keeps.refl _ _
    · clear_value x0 x1 x2
      split
      · refine Keeps.ite ?_ ?_
        · refine Keeps.after ?_ (swapped_keeps ..) rfl
          exact (abortBist_keeps ..).mono rfl
        · refine Keeps.then_ ?_ (hx8 ..)
          exact (abortBist_keeps ..).mono rfl
      · refine Keeps.ite ?_ ?_
        · split
          · exact Keeps.refl _ _
          · extract_lets -merge x25 x26
            have hx25 : Keeps [.nextId, .out, .phase, .fns, .works, .dies, .stats, .pvStats, .corpora, .scan, .fab, .comp, .qos, .integ] s x25 := by
              unfold x25
              exact (modDie_keeps ..).mono rfl
            have hx26 : Keeps [.nextId, .out, .phase, .fns, .works, .dies, .stats, .pvStats, .corpora, .scan, .fab, .comp, .qos, .integ] s x26 := by
              unfold x26
              refine Keeps.ite ?_ ?_
              · assumption
              · exact Keeps.after (by assumption) (moveJobs_keeps ..) rfl
            clear_value x25 x26
            exact Keeps.after (by assumption) (swapped_keeps ..) rfl
        · refine Keeps.after ?_ (modInteg_keeps _ _ ?_) rfl
          · exact Keeps.refl _ _
          · rfl

theorem swapFrame_keeps (s) : Keeps [.nextId, .out, .phase, .fns, .works, .dies, .stats, .pvStats, .corpora, .scan, .fab, .comp, .qos, .integ] s (swapFrame s) := by
  unfold swapFrame
  extract_lets -merge x0 x1 x2 x3
  have hx3 : Keeps [.nextId, .out, .phase, .fns, .works, .dies, .stats, .pvStats, .corpora, .scan, .fab, .comp, .qos, .integ] s x3 := by
    unfold x3
    refine Keeps.foldl ?_ (fun t4 z5 => ?_)
    · refine Keeps.after ?_ (modInteg_keeps _ _ ?_) rfl
      · exact Keeps.refl _ _
      · rfl
    · exact (serveSwap_keeps ..).mono rfl
  clear_value x3
  exact Keeps.after (by assumption) (upd_dies _) rfl

theorem writeInteg_keeps (a0 a1 s) : Keeps [.integ, .words] s (writeInteg a0 a1 s) := by
  unfold writeInteg
  extract_lets -merge x0 x1
  have hx0 : ∀ a2, Keeps [.integ, .words] a2 (x0 a2) := by
    intro a2
    unfold x0
    refine Keeps.after ?_ (modInteg_keeps _ _ ?_) rfl
    · exact Keeps.refl _ _
    · rfl
  have hx1 : ∀ a3 a4 a5, Keeps [.integ, .words] a5 (x1 a3 a4 a5) := by
    intro a3 a4 a5
    unfold x1
    refine Keeps.ite ?_ ?_
    · exact (modInteg_touch ..).mono rfl
    · refine Keeps.then_ ?_ (hx0 ..)
      exact Keeps.refl _ _
  clear_value x0 x1
  refine Keeps.ite ?_ ?_
  · exact Keeps.refl _ _
  · refine Keeps.ite ?_ ?_
    · refine Keeps.then_ ?_ (hx1 ..)
      exact Keeps.refl _ _
    · refine Keeps.ite ?_ ?_
      · refine Keeps.then_ ?_ (hx1 ..)
        exact Keeps.refl _ _
      · refine Keeps.ite ?_ ?_
        · refine Keeps.then_ ?_ (hx1 ..)
          exact Keeps.refl _ _
        · refine Keeps.ite ?_ ?_
          · refine Keeps.then_ ?_ (hx1 ..)
            exact Keeps.refl _ _
          · refine Keeps.ite ?_ ?_
            · refine Keeps.after ?_ (modInteg_keeps _ _ ?_) rfl
              · exact Keeps.refl _ _
              · rfl
            · refine Keeps.ite ?_ ?_
              · refine Keeps.then_ ?_ (hx1 ..)
                exact Keeps.refl _ _
              · refine Keeps.ite ?_ ?_
                · refine Keeps.ite ?_ ?_
                  · exact (doBistGo_keeps ..).mono rfl
                  · refine Keeps.ite ?_ ?_
                    · refine Keeps.after ?_ (modInteg_keeps _ _ ?_) rfl
                      · exact Keeps.refl _ _
                      · rfl
                    · refine Keeps.after ?_ (modInteg_keeps _ _ ?_) rfl
                      · exact Keeps.refl _ _
                      · rfl
                · refine Keeps.ite ?_ ?_
                  · refine Keeps.after ?_ (modInteg_keeps _ _ ?_) rfl
                    · exact Keeps.refl _ _
                    · rfl
                  · exact Keeps.refl _ _

end Sys2Proof.Machine
end

