-- ==== Sys2Proof/Laws/KeepsRequests.lean ====
section
/-! SUPPORT. What each operation of Machine/Requests.lean leaves alone. -/

namespace Sys2Proof.Machine

theorem modFab_keeps (g) (s : State) (h : (modFab g s).words = s.words) : Keeps [.fab] s (modFab g s) := upd_fab _ h
theorem modFab_touch (g) (s : State) : Keeps [.fab, .words] s (modFab g s) := touch_fab _
theorem performReq_keeps (a0 s) : Keeps [.nextId, .out, .fns, .stats, .pvStats, .ranges, .tier, .scan, .flash, .qos] s (performReq a0 s).2 := by
  unfold performReq
  extract_lets -merge x0 x1 x2
  refine Keeps.ite2 ?_ ?_
  · unfold writeAnswer
    split
    · rename_i y3 y4 y5
      have ky4 : Keeps [.nextId, .out, .fns, .stats, .pvStats, .ranges, .tier, .scan, .flash, .qos] s y4 := by
        refine Keeps.of2 y5 ?_
        exact (writeBack_keeps ..).mono rfl
      refine Keeps.mk2 ?_
      assumption
    · rename_i y6 y7 y8
      have ky7 : Keeps [.nextId, .out, .fns, .stats, .pvStats, .ranges, .tier, .scan, .flash, .qos] s y7 := by
        refine Keeps.of2 y8 ?_
        exact (writeBack_keeps ..).mono rfl
      refine Keeps.mk2 ?_
      assumption
    · rename_i y9 y10 y11 y12
      have ky11 : Keeps [.nextId, .out, .fns, .stats, .pvStats, .ranges, .tier, .scan, .flash, .qos] s y11 := by
        refine Keeps.of2 y12 ?_
        exact (writeBack_keeps ..).mono rfl
      refine Keeps.mk2 ?_
      assumption
  · split
    · rename_i y13 y14 y15 y16 y17
      have ky16 : Keeps [.nextId, .out, .fns, .stats, .pvStats, .ranges, .tier, .scan, .flash, .qos] s y16 := by
        refine Keeps.of2 y17 ?_
        exact (readFor_keeps ..).mono rfl
      refine Keeps.mk2 ?_
      assumption
    · rename_i y18 y19 y20 y21
      have ky20 : Keeps [.nextId, .out, .fns, .stats, .pvStats, .ranges, .tier, .scan, .flash, .qos] s y20 := by
        refine Keeps.of2 y21 ?_
        exact (readFor_keeps ..).mono rfl
      extract_lets -merge x22 x23
      refine Keeps.ite2 ?_ ?_
      · refine Keeps.mk2 ?_
        assumption
      · unfold writeAnswer
        split
        · rename_i y24 y25 y26
          have ky25 : Keeps [.nextId, .out, .fns, .stats, .pvStats, .ranges, .tier, .scan, .flash, .qos] s y25 := by
            refine Keeps.of2 y26 ?_
            exact Keeps.after (by assumption) (writeBack_keeps ..) rfl
          refine Keeps.mk2 ?_
          assumption
        · rename_i y27 y28 y29
          have ky28 : Keeps [.nextId, .out, .fns, .stats, .pvStats, .ranges, .tier, .scan, .flash, .qos] s y28 := by
            refine Keeps.of2 y29 ?_
            exact Keeps.after (by assumption) (writeBack_keeps ..) rfl
          refine Keeps.mk2 ?_
          assumption
        · rename_i y30 y31 y32 y33
          have ky32 : Keeps [.nextId, .out, .fns, .stats, .pvStats, .ranges, .tier, .scan, .flash, .qos] s y32 := by
            refine Keeps.of2 y33 ?_
            exact Keeps.after (by assumption) (writeBack_keeps ..) rfl
          refine Keeps.mk2 ?_
          assumption

theorem tryReq_keeps (a0 s) : Keeps [.nextId, .out, .fns, .stats, .pvStats, .ranges, .tier, .scan, .flash, .qos] s (tryReq a0 s).2 := by
  unfold tryReq
  split
  · refine Keeps.mk2 ?_
    exact Keeps.refl _ _
  · refine Keeps.ite2 ?_ ?_
    · refine Keeps.mk2 ?_
      exact Keeps.refl _ _
    · split
      · exact (performReq_keeps ..).mono rfl
      · refine Keeps.mk2 ?_
        refine Keeps.foldl ?_ (fun t9 z10 => ?_)
        · exact Keeps.refl _ _
        · exact (promote_keeps ..).mono rfl

theorem issueReq_keeps (a0 a1 a2 a3 a4 s) : Keeps [.out, .stats, .pvStats, .fab, .qos] s (issueReq a0 a1 a2 a3 a4 s) := by
  unfold issueReq
  split
  · rename_i y0 y1 y2 y3
    have ky2 : Keeps [.out, .stats, .pvStats, .fab, .qos] s y2 := by
      refine Keeps.of2 y3 ?_
      exact (newMsgId_keeps ..).mono rfl
    extract_lets -merge x4
    have hx4 : Keeps [.out, .stats, .pvStats, .fab, .qos] s x4 := by
      unfold x4
      refine Keeps.after ?_ (modFab_keeps _ _ ?_) rfl
      · assumption
      · rfl
    clear_value x4
    refine Keeps.ite ?_ ?_
    · refine Keeps.after ?_ (modFab_keeps _ _ ?_) rfl
      · assumption
      · rfl
    · exact Keeps.after (by assumption) (sendBytes_keeps ..) rfl

theorem startFabCopy_keeps (a0 a1 s) : Keeps [.out, .fns, .works, .stats, .pvStats, .fab, .qos] s (startFabCopy a0 a1 s) := by
  unfold startFabCopy
  extract_lets -merge x0 x1 x2 x3
  have hx2 : Keeps [.out, .fns, .works, .stats, .pvStats, .fab, .qos] s x2 := by
    unfold x2
    unfold when_
    refine Keeps.ite ?_ ?_
    · exact (hostRead_keeps ..).mono rfl
    · exact Keeps.refl _ _
  have hx3 : Keeps [.out, .fns, .works, .stats, .pvStats, .fab, .qos] s x3 := by
    unfold x3
    exact Keeps.after (by assumption) (modWork_keeps ..) rfl
  clear_value x2 x3
  refine Keeps.ite ?_ ?_
  · split
    · exact Keeps.after (by assumption) (failWork_keeps ..) rfl
    · extract_lets -merge x7
      refine Keeps.foldl ?_ (fun t8 z9 => ?_)
      · assumption
      · exact (issueReq_keeps ..).mono rfl
  · refine Keeps.foldl ?_ (fun t10 z11 => ?_)
    · assumption
    · exact (issueReq_keeps ..).mono rfl

theorem endCopy_keeps (a0 a1 a2 a3 s) : Keeps [.out, .fns, .works, .fab] s (endCopy a0 a1 a2 a3 s) := by
  unfold endCopy
  extract_lets -merge x0 x1
  have hx1 : Keeps [.out, .fns, .works, .fab] s x1 := by
    unfold x1
    refine Keeps.after ?_ (modFab_keeps _ _ ?_) rfl
    · exact Keeps.refl _ _
    · rfl
  clear_value x1
  exact Keeps.after (by assumption) (completeId_keeps ..) rfl

theorem copyAnswered_keeps (a0 a1 a2 a3 a4 s) : Keeps [.out, .fns, .works, .stats, .pvStats, .fab, .qos] s (copyAnswered a0 a1 a2 a3 a4 s) := by
  unfold copyAnswered
  split
  · exact Keeps.refl _ _
  · extract_lets -merge x5 x6
    have hx6 : Keeps [.out, .fns, .works, .stats, .pvStats, .fab, .qos] s x6 := by
      unfold x6
      refine Keeps.ite ?_ ?_
      · exact Keeps.refl _ _
      · exact (hostWrite_keeps ..).mono rfl
    clear_value x6
    refine Keeps.ite ?_ ?_
    · exact (issueReq_keeps ..).mono rfl
    · refine Keeps.ite ?_ ?_
      · assumption
      · exact Keeps.after (by assumption) (endCopy_keeps ..) rfl

theorem modOut_keeps (a0 a1 s) : Keeps [.comp] s (modOut a0 a1 s) := by
  unfold modOut
  extract_lets -merge x0
  refine Keeps.after ?_ (upd_comp _ ?_) rfl
  · exact Keeps.refl _ _
  · rfl

theorem sendHandoff_keeps (a0 s) : Keeps [.fab, .comp] s (sendHandoff a0 s) := by
  unfold sendHandoff
  refine Keeps.after ?_ (modOut_keeps ..) rfl
  exact (sendMap_keeps ..).mono rfl

theorem repeatMove_keeps (a0 s) : Keeps [.out, .fns, .works, .chans, .fab, .comp] s (repeatMove a0 s) := by
  unfold repeatMove
  refine Keeps.ite ?_ ?_
  · exact (modOut_keeps ..).mono rfl
  · exact (propose_keeps ..).mono rfl

theorem moveAnswered_keeps (a0 a1 s) : Keeps [.out, .fns, .works, .chans, .fab, .comp] s (moveAnswered a0 a1 s) := by
  unfold moveAnswered
  split
  · exact Keeps.refl _ _
  · refine Keeps.ite ?_ ?_
    · exact (sendHandoff_keeps ..).mono rfl
    · exact (repeatMove_keeps ..).mono rfl

theorem takeResp_keeps (a0 a1 a2 a3 s) : Keeps [.out, .fns, .works, .chans, .stats, .pvStats, .fab, .comp, .qos] s (takeResp a0 a1 a2 a3 s) := by
  unfold takeResp
  split
  · exact Keeps.refl _ _
  · extract_lets -merge x5
    have hx5 : Keeps [.out, .fns, .works, .chans, .stats, .pvStats, .fab, .comp, .qos] s x5 := by
      unfold x5
      refine Keeps.after ?_ (modFab_keeps _ _ ?_) rfl
      · exact Keeps.refl _ _
      · rfl
    clear_value x5
    split
    · refine Keeps.ite ?_ ?_
      · exact Keeps.after (by assumption) (copyAnswered_keeps ..) rfl
      · exact Keeps.after (by assumption) (endCopy_keeps ..) rfl
    · exact Keeps.after (by assumption) (emit_keeps ..) rfl
    · exact Keeps.after (by assumption) (moveAnswered_keeps ..) rfl

theorem answerReq_keeps (a0 a1 a2 s) : Keeps [.out, .fns, .works, .chans, .stats, .pvStats, .fab, .comp, .qos] s (answerReq a0 a1 a2 s) := by
  unfold answerReq
  refine Keeps.ite ?_ ?_
  · exact (takeResp_keeps ..).mono rfl
  · exact (sendMsg_keeps ..).mono rfl

theorem doRequest_keeps (a0 s) : Keeps [.nextId, .out, .fns, .works, .chans, .stats, .pvStats, .ranges, .tier, .scan, .flash, .fab, .comp, .qos] s (doRequest a0 s) := by
  unfold doRequest
  split
  · rename_i y0 y1 y2 y3 y4
    have ky3 : Keeps [.nextId, .out, .fns, .works, .chans, .stats, .pvStats, .ranges, .tier, .scan, .flash, .fab, .comp, .qos] s y3 := by
      refine Keeps.of2 y4 ?_
      exact (tryReq_keeps ..).mono rfl
    exact Keeps.after (by assumption) (answerReq_keeps ..) rfl
  · rename_i y5 y6 y7
    have ky6 : Keeps [.nextId, .out, .fns, .works, .chans, .stats, .pvStats, .ranges, .tier, .scan, .flash, .fab, .comp, .qos] s y6 := by
      refine Keeps.of2 y7 ?_
      exact (tryReq_keeps ..).mono rfl
    refine Keeps.after ?_ (modFab_keeps _ _ ?_) rfl
    · assumption
    · rfl

theorem pumpReqs_keeps (n s) : Keeps [.nextId, .out, .fns, .works, .chans, .stats, .pvStats, .ranges, .tier, .scan, .flash, .fab, .comp, .qos] s (pumpReqs n s) := by
  induction n generalizing s with
  | zero => exact Keeps.refl _ _
  | succ n ih =>
    unfold pumpReqs
    split
    · exact Keeps.refl _ _
    · split
      · rename_i y5 y6 y7 y8 y9
        have ky8 : Keeps [.nextId, .out, .fns, .works, .chans, .stats, .pvStats, .ranges, .tier, .scan, .flash, .fab, .comp, .qos] s y8 := by
          refine Keeps.of2 y9 ?_
          refine Keeps.after ?_ (tryReq_keeps ..) rfl
          refine Keeps.after ?_ (modFab_keeps _ _ ?_) rfl
          · exact Keeps.refl _ _
          · rfl
        refine Keeps.after ?_ (ih ..) rfl
        exact Keeps.after (by assumption) (answerReq_keeps ..) rfl
      · rename_i y10 y11 y12
        have ky11 : Keeps [.nextId, .out, .fns, .works, .chans, .stats, .pvStats, .ranges, .tier, .scan, .flash, .fab, .comp, .qos] s y11 := by
          refine Keeps.of2 y12 ?_
          refine Keeps.after ?_ (tryReq_keeps ..) rfl
          refine Keeps.after ?_ (modFab_keeps _ _ ?_) rfl
          · exact Keeps.refl _ _
          · rfl
        refine Keeps.after ?_ (modFab_keeps _ _ ?_) rfl
        · assumption
        · rfl

theorem promoteHeld_keeps (s) : Keeps [.nextId, .out, .fns, .stats, .pvStats, .ranges, .tier, .scan, .flash, .qos] s (promoteHeld s) := by
  unfold promoteHeld
  refine Keeps.foldl ?_ (fun t0 z1 => ?_)
  · exact Keeps.refl _ _
  · refine Keeps.ite ?_ ?_
    · refine Keeps.foldl ?_ (fun t2 z3 => ?_)
      · exact Keeps.refl _ _
      · exact (promote_keeps ..).mono rfl
    · exact Keeps.refl _ _

theorem pumpAll_keeps (s) : Keeps [.nextId, .out, .fns, .works, .chans, .stats, .pvStats, .ranges, .tier, .scan, .flash, .fab, .comp, .qos] s (pumpAll s) := by
  unfold pumpAll
  refine Keeps.after ?_ (promoteHeld_keeps ..) rfl
  exact (pumpReqs_keeps ..).mono rfl

theorem doCopy_keeps (a0 a1 s) : Keeps [.nextId, .out, .fns, .works, .chans, .stats, .pvStats, .ranges, .tier, .scan, .flash, .fab, .comp, .qos] s (doCopy a0 a1 s) := by
  unfold doCopy
  unfold admitWork
  split
  · refine Keeps.ite ?_ ?_
    · refine Keeps.ite ?_ ?_
      · beta_reduce
        refine Keeps.after ?_ (pumpAll_keeps ..) rfl
        exact (startFabCopy_keeps ..).mono rfl
      · exact (failWork_keeps ..).mono rfl
    · exact Keeps.refl _ _
  · exact Keeps.refl _ _

theorem doPromoteDone_keeps (a0 a1 a2 s) : Keeps [.nextId, .out, .fns, .works, .chans, .stats, .pvStats, .ranges, .tier, .scan, .flash, .fab, .comp, .qos] s (doPromoteDone a0 a1 a2 s) := by
  unfold doPromoteDone
  refine Keeps.after ?_ (pumpAll_keeps ..) rfl
  exact (doPromoted_keeps ..).mono rfl

theorem doDemoteSwitch_keeps (a0 a1 s) : Keeps [.nextId, .out, .fns, .works, .chans, .stats, .pvStats, .ranges, .tier, .scan, .flash, .fab, .comp, .qos] s (doDemoteSwitch a0 a1 s) := by
  unfold doDemoteSwitch
  refine Keeps.after ?_ (pumpAll_keeps ..) rfl
  exact (doSwitch_keeps ..).mono rfl

theorem rxDrop_keeps (s) : Keeps [.fab] s (rxDrop s) := by
  unfold rxDrop
  refine Keeps.after ?_ (modFab_keeps _ _ ?_) rfl
  · exact Keeps.refl _ _
  · rfl

theorem handOver_keeps (a0 s) : Keeps [.nextId, .out, .fns, .works, .chans, .stats, .pvStats, .corpora, .ranges, .tier, .upd, .scan, .flash, .fab, .comp, .qos] s (handOver a0 s) := by
  unfold handOver
  extract_lets -merge x0
  refine Keeps.ite ?_ ?_
  · exact (doRequest_keeps ..).mono rfl
  · refine Keeps.ite ?_ ?_
    · exact (rxDrop_keeps ..).mono rfl
    · refine Keeps.ite ?_ ?_
      · exact (doFanout_keeps ..).mono rfl
      · refine Keeps.ite ?_ ?_
        · exact (takePartial_keeps ..).mono rfl
        · refine Keeps.ite ?_ ?_
          · exact (takeResp_keeps ..).mono rfl
          · split
            · exact (doPreElem_keeps ..).mono rfl
            · exact (doPreEid_keeps ..).mono rfl
            · exact (doPreAck_keeps ..).mono rfl
            · exact (doFrameMark_keeps ..).mono rfl
            · exact (doCommitAck_keeps ..).mono rfl

theorem fetchMap_keeps (s) : Keeps [.fab] s (fetchMap s) := by
  unfold fetchMap
  split
  · exact (sendMap_keeps ..).mono rfl
  · exact Keeps.refl _ _

theorem deliver_keeps (a0 s) : Keeps [.nextId, .out, .fns, .works, .chans, .stats, .pvStats, .corpora, .ranges, .tier, .upd, .scan, .flash, .fab, .comp, .qos] s (deliver a0 s) := by
  unfold deliver
  refine Keeps.ite ?_ ?_
  · refine Keeps.after ?_ (fetchMap_keeps ..) rfl
    refine Keeps.after ?_ (modFab_keeps _ _ ?_) rfl
    · exact Keeps.refl _ _
    · rfl
  · exact (handOver_keeps ..).mono rfl

theorem pumpMapHeld_keeps (s) : Keeps [.nextId, .out, .fns, .works, .chans, .stats, .pvStats, .corpora, .ranges, .tier, .upd, .scan, .flash, .fab, .comp, .qos] s (pumpMapHeld s) := by
  unfold pumpMapHeld
  extract_lets -merge x0
  refine Keeps.foldl ?_ (fun t1 z2 => ?_)
  · exact Keeps.refl _ _
  · refine Keeps.after ?_ (handOver_keeps ..) rfl
    refine Keeps.after ?_ (modFab_keeps _ _ ?_) rfl
    · exact Keeps.refl _ _
    · rfl

theorem doBundle_keeps (a0 s) : Keeps [.nextId, .out, .fns, .works, .chans, .stats, .pvStats, .corpora, .ranges, .tier, .upd, .scan, .flash, .fab, .comp, .qos] s (doBundle a0 s) := by
  unfold doBundle
  refine Keeps.foldl ?_ (fun t0 z1 => ?_)
  · exact Keeps.refl _ _
  · exact (deliver_keeps ..).mono rfl

theorem arrive_keeps (a0 a1 s) : Keeps [.nextId, .out, .fns, .works, .chans, .stats, .pvStats, .corpora, .ranges, .tier, .upd, .scan, .flash, .fab, .comp, .qos] s (arrive a0 a1 s) := by
  unfold arrive
  refine Keeps.ite ?_ ?_
  · exact (doBundle_keeps ..).mono rfl
  · refine Keeps.ite ?_ ?_
    · exact Keeps.refl _ _
    · exact (deliver_keeps ..).mono rfl

theorem arriveFrom_keeps (a0 a1 s) : Keeps [.nextId, .out, .fns, .works, .chans, .stats, .pvStats, .corpora, .ranges, .tier, .upd, .scan, .flash, .fab, .comp, .qos] s (arriveFrom a0 a1 s) := by
  unfold arriveFrom
  refine Keeps.ite ?_ ?_
  · exact (arrive_keeps ..).mono rfl
  · exact Keeps.refl _ _

theorem arriveSub_keeps (a0 a1 a2 s) : Keeps [.nextId, .out, .fns, .works, .chans, .stats, .pvStats, .corpora, .ranges, .tier, .upd, .scan, .flash, .fab, .comp, .qos] s (arriveSub a0 a1 a2 s) := by
  unfold arriveSub
  refine Keeps.ite ?_ ?_
  · exact (arriveFrom_keeps ..).mono rfl
  · exact Keeps.refl _ _

theorem holdTimeout_keeps (a0 s) : Keeps [.out, .fns, .works, .chans, .stats, .pvStats, .corpora, .upd, .fab, .comp, .qos] s (holdTimeout a0 s) := by
  unfold holdTimeout
  extract_lets -merge x0 x1
  have hx1 : Keeps [.out, .fns, .works, .chans, .stats, .pvStats, .corpora, .upd, .fab, .comp, .qos] s x1 := by
    unfold x1
    refine Keeps.after ?_ (modFab_keeps _ _ ?_) rfl
    · exact Keeps.refl _ _
    · rfl
  clear_value x1
  refine Keeps.ite ?_ ?_
  · exact Keeps.after (by assumption) (answerReq_keeps ..) rfl
  · refine Keeps.ite ?_ ?_
    · refine Keeps.foldl ?_ (fun t2 z3 => ?_)
      · assumption
      · extract_lets -merge x4
        exact (refuseFan_keeps ..).mono rfl
    · refine Keeps.ite ?_ ?_
      · refine Keeps.foldl ?_ (fun t5 z6 => ?_)
        · assumption
        · exact (dropStaged_keeps ..).mono rfl
      · assumption

theorem pullTimeout_keeps (a0 s) : Keeps [.nextId, .out, .stats, .pvStats, .corpora, .scan, .fab, .comp, .qos] s (pullTimeout a0 s) := by
  unfold pullTimeout
  refine Keeps.after ?_ (finishLocal_keeps ..) rfl
  exact (modQuery_keeps ..).mono rfl

theorem doHoldTimeout_keeps (s) : Keeps [.nextId, .out, .fns, .works, .chans, .stats, .pvStats, .corpora, .upd, .scan, .fab, .comp, .qos] s (doHoldTimeout s) := by
  unfold doHoldTimeout
  extract_lets -merge x0
  have hx0 : Keeps [.nextId, .out, .fns, .works, .chans, .stats, .pvStats, .corpora, .upd, .scan, .fab, .comp, .qos] s x0 := by
    unfold x0
    refine Keeps.foldl ?_ (fun t1 z2 => ?_)
    · exact Keeps.refl _ _
    · exact (holdTimeout_keeps ..).mono rfl
  clear_value x0
  refine Keeps.ite ?_ ?_
  · refine Keeps.foldl ?_ (fun t3 z4 => ?_)
    · assumption
    · exact (pullTimeout_keeps ..).mono rfl
  · exact Keeps.refl _ _

theorem sampleStats_keeps (s a1) : Keeps [.out, .fns, .works, .stats, .pvStats] s (sampleStats s a1) := by
  unfold sampleStats
  extract_lets -merge x0 x1 x2 x3 x4
  have hx3 : Keeps [.out, .fns, .works, .stats, .pvStats] s x3 := by
    unfold x3
    exact (hostWrite_keeps ..).mono rfl
  have hx4 : Keeps [.out, .fns, .works, .stats, .pvStats] s x4 := by
    unfold x4
    refine Keeps.ite ?_ ?_
    · refine Keeps.ite ?_ ?_
      · exact Keeps.after (by assumption) (upd_stats _) rfl
      · exact Keeps.after (by assumption) (upd_pvStats _) rfl
    · assumption
  clear_value x3 x4
  exact Keeps.after (by assumption) (complete_keeps ..) rfl

theorem statsFrame_keeps (s) : Keeps [.out, .fns, .works, .stats, .pvStats] s (statsFrame s) := by
  unfold statsFrame
  refine Keeps.foldl ?_ (fun t0 z1 => ?_)
  · exact Keeps.refl _ _
  · exact (sampleStats_keeps ..).mono rfl

theorem doStats_keeps (a0 s) : Keeps [.works] s (doStats a0 s) := by
  unfold doStats
  split
  · refine Keeps.ite ?_ ?_
    · exact (modWork_keeps ..).mono rfl
    · exact Keeps.refl _ _
  · exact Keeps.refl _ _

end Sys2Proof.Machine
end

