-- ==== Sys2Proof/Laws/KeepsKeepers.lean ====
section
/-! SUPPORT. What each operation of Machine/Keepers.lean leaves alone. -/

namespace Sys2Proof.Machine

theorem seeTerm_keeps (a0 s) : Keeps [.comp] s (seeTerm a0 s) := by
  unfold seeTerm
  refine Keeps.ite ?_ ?_
  · exact (modKeeper_keeps ..).mono rfl
  · exact Keeps.refl _ _

theorem follow_keeps (a0 s) : Keeps [.comp] s (follow a0 s) := by
  unfold follow
  exact (modKeeper_keeps ..).mono rfl

theorem doAppend_keeps (a0 a1 a2 a3 a4 s) : Keeps [.fab, .comp] s (doAppend a0 a1 a2 a3 a4 s) := by
  unfold doAppend
  extract_lets -merge x0 x1 x2
  have hx0 : Keeps [.fab, .comp] s x0 := by
    unfold x0
    exact (seeTerm_keeps ..).mono rfl
  have hx1 : Keeps [.fab, .comp] s x1 := by
    unfold x1
    exact Keeps.after (by assumption) (follow_keeps ..) rfl
  have hx2 : Keeps [.fab, .comp] s x2 := by
    unfold x2
    exact Keeps.after (by assumption) (modKeeper_keeps ..) rfl
  clear_value x0 x1 x2
  refine Keeps.ite ?_ ?_
  · refine Keeps.ite ?_ ?_
    · assumption
    · refine Keeps.ite ?_ ?_
      · exact Keeps.after (by assumption) (sendMap_keeps ..) rfl
      · exact Keeps.after (by assumption) (sendMap_keeps ..) rfl
  · exact Keeps.refl _ _

theorem doAppendAck_keeps (a0 a1 a2 s) : Keeps [.out, .fns, .works, .chans, .fab, .comp] s (doAppendAck a0 a1 a2 s) := by
  unfold doAppendAck
  extract_lets -merge x0 x1 x2 x3 x4 x5
  have hx0 : Keeps [.out, .fns, .works, .chans, .fab, .comp] s x0 := by
    unfold x0
    exact (seeTerm_keeps ..).mono rfl
  have hx3 : Keeps [.out, .fns, .works, .chans, .fab, .comp] s x3 := by
    unfold x3
    exact Keeps.after (by assumption) (modKeeper_keeps ..) rfl
  clear_value x0 x3
  refine Keeps.ite ?_ ?_
  · refine Keeps.ite ?_ ?_
    · refine Keeps.after ?_ (tryCommit_keeps ..) rfl
      refine Keeps.ite ?_ ?_
      · assumption
      · exact Keeps.after (by assumption) (sendMap_keeps ..) rfl
    · assumption
  · exact Keeps.refl _ _

theorem doHall_keeps (a0 a1 a2 s) : Keeps [.comp] s (doHall a0 a1 a2 s) := by
  unfold doHall
  extract_lets -merge x0 x1 x2
  have hx1 : Keeps [.comp] s x1 := by
    unfold x1
    refine Keeps.after ?_ (upd_comp _ ?_) rfl
    · exact Keeps.refl _ _
    · rfl
  have hx2 : Keeps [.comp] s x2 := by
    unfold x2
    exact Keeps.after (by assumption) (seeTerm_keeps ..) rfl
  clear_value x1 x2
  refine Keeps.ite ?_ ?_
  · refine Keeps.ite ?_ ?_
    · refine Keeps.ite ?_ ?_
      · assumption
      · refine Keeps.after ?_ (modKeeper_keeps ..) rfl
        exact Keeps.after (by assumption) (follow_keeps ..) rfl
    · assumption
  · exact Keeps.refl _ _

theorem doVoteReq_keeps (a0 a1 a2 a3 s) : Keeps [.fab, .comp] s (doVoteReq a0 a1 a2 a3 s) := by
  unfold doVoteReq
  extract_lets -merge x0 x1 x2 x3
  have hx0 : Keeps [.fab, .comp] s x0 := by
    unfold x0
    exact (seeTerm_keeps ..).mono rfl
  have hx3 : Keeps [.fab, .comp] s x3 := by
    unfold x3
    refine Keeps.ite ?_ ?_
    · exact Keeps.after (by assumption) (modKeeper_keeps ..) rfl
    · assumption
  clear_value x0 x3
  refine Keeps.ite ?_ ?_
  · exact Keeps.after (by assumption) (sendMap_keeps ..) rfl
  · exact Keeps.refl _ _

theorem lead_keeps (s) : Keeps [.fab, .comp] s (lead s) := by
  unfold lead
  extract_lets -merge x0 x1
  have hx1 : Keeps [.fab, .comp] s x1 := by
    unfold x1
    exact (modKeeper_keeps ..).mono rfl
  clear_value x1
  refine Keeps.ite ?_ ?_
  · exact Keeps.after (by assumption) (sendAll_keeps ..) rfl
  · exact Keeps.refl _ _

theorem doVote_keeps (a0 a1 a2 s) : Keeps [.fab, .comp] s (doVote a0 a1 a2 s) := by
  unfold doVote
  extract_lets -merge x0
  have hx0 : Keeps [.fab, .comp] s x0 := by
    unfold x0
    exact (seeTerm_keeps ..).mono rfl
  clear_value x0
  refine Keeps.ite ?_ ?_
  · refine Keeps.ite ?_ ?_
    · refine Keeps.after ?_ (lead_keeps ..) rfl
      exact Keeps.after (by assumption) (modKeeper_keeps ..) rfl
    · assumption
  · exact Keeps.refl _ _

theorem doElection_keeps (s) : Keeps [.free, .fab, .comp] s (doElection s) := by
  unfold doElection
  extract_lets -merge x0
  refine Keeps.ite ?_ ?_
  · split
    · rename_i y1 y2 y3 y4
      have ky3 : Keeps [.free, .fab, .comp] s y3 := by
        refine Keeps.of2 y4 ?_
        exact (draw_keeps ..).mono rfl
      extract_lets -merge x5
      have hx5 : Keeps [.free, .fab, .comp] s x5 := by
        unfold x5
        exact Keeps.after (by assumption) (modKeeper_keeps ..) rfl
      clear_value x5
      refine Keeps.after ?_ (lead_keeps ..) rfl
      exact Keeps.after (by assumption) (sendAll_keeps ..) rfl
  · exact Keeps.refl _ _

theorem doPropose_keeps (a0 a1 a2 s) : Keeps [.out, .fns, .works, .chans, .fab, .comp] s (doPropose a0 a1 a2 s) := by
  unfold doPropose
  refine Keeps.ite ?_ ?_
  · exact (leaderTake_keeps ..).mono rfl
  · exact Keeps.refl _ _

theorem doProposeResult_keeps (a0 a1 a2 a3 s) : Keeps [.out, .fns, .works, .chans, .comp] s (doProposeResult a0 a1 a2 a3 s) := by
  unfold doProposeResult
  refine Keeps.ite ?_ ?_
  · exact (propResult_keeps ..).mono rfl
  · exact Keeps.refl _ _

theorem doAbandon_keeps (s) : Keeps [.out, .fns, .works, .chans, .fab, .comp] s (doAbandon s) := by
  unfold doAbandon
  extract_lets -merge x0 x1
  have hx1 : Keeps [.out, .fns, .works, .chans, .fab, .comp] s x1 := by
    unfold x1
    refine Keeps.foldl ?_ (fun t2 z3 => ?_)
    · exact Keeps.refl _ _
    · refine Keeps.after ?_ (answerProp_keeps ..) rfl
      exact (modKeeper_keeps ..).mono rfl
  clear_value x1
  refine Keeps.ite ?_ ?_
  · refine Keeps.foldl ?_ (fun t4 z5 => ?_)
    · assumption
    · exact (propResult_keeps ..).mono rfl
  · exact Keeps.refl _ _

theorem doNoQuorum_keeps (s) : Keeps [.comp] s (doNoQuorum s) := by
  unfold doNoQuorum
  extract_lets -merge x0
  refine Keeps.ite ?_ ?_
  · refine Keeps.after ?_ (upd_comp _ ?_) rfl
    · exact Keeps.refl _ _
    · rfl
  · exact Keeps.refl _ _

theorem doEntries_keeps (a0 a1 a2 s) : Keeps [.comp] s (doEntries a0 a1 a2 s) := by
  unfold doEntries
  refine Keeps.ite ?_ ?_
  · refine Keeps.after ?_ (queueEntries_keeps ..) rfl
    exact (modKeeper_keeps ..).mono rfl
  · exact Keeps.refl _ _

theorem doFetchMap_keeps (a0 a1 s) : Keeps [.fab] s (doFetchMap a0 a1 s) := by
  unfold doFetchMap
  refine Keeps.ite ?_ ?_
  · exact (sendMap_keeps ..).mono rfl
  · exact Keeps.refl _ _

theorem doCutQuery_keeps (a0 a1 a2 a3 s) : Keeps [.fab] s (doCutQuery a0 a1 a2 a3 s) := by
  unfold doCutQuery
  refine Keeps.ite ?_ ?_
  · exact (sendMap_keeps ..).mono rfl
  · exact Keeps.refl _ _

theorem dropCut_keeps (a0 s) : Keeps [.comp] s (dropCut a0 s) := by
  unfold dropCut
  exact (modKeeper_keeps ..).mono rfl

theorem doCutReady_keeps (a0 a1 a2 a3 s) : Keeps [.out, .fns, .works, .chans, .fab, .comp] s (doCutReady a0 a1 a2 a3 s) := by
  unfold doCutReady
  split
  · exact Keeps.refl _ _
  · extract_lets -merge x5
    refine Keeps.ite ?_ ?_
    · refine Keeps.ite ?_ ?_
      · refine Keeps.after ?_ (answerProp_keeps ..) rfl
        exact (dropCut_keeps ..).mono rfl
      · refine Keeps.ite ?_ ?_
        · refine Keeps.after ?_ (leaderLog_keeps ..) rfl
          exact (dropCut_keeps ..).mono rfl
        · exact (modKeeper_keeps ..).mono rfl
    · exact Keeps.refl _ _

theorem doCutDeadline_keeps (a0 s) : Keeps [.out, .fns, .works, .chans, .fab, .comp] s (doCutDeadline a0 s) := by
  unfold doCutDeadline
  split
  · exact Keeps.refl _ _
  · refine Keeps.ite ?_ ?_
    · refine Keeps.after ?_ (answerProp_keeps ..) rfl
      exact (dropCut_keeps ..).mono rfl
    · exact Keeps.refl _ _

theorem doRoleCheck_keeps (a0 s) : Keeps [.out, .fns, .works, .chans, .fab, .comp] s (doRoleCheck a0 s) := by
  unfold doRoleCheck
  extract_lets -merge x0
  refine Keeps.ite ?_ ?_
  · split
    · exact Keeps.refl _ _
    · extract_lets -merge x6 x7
      clear_value x0 x7
      split
      · exact Keeps.refl _ _
      · split
        · exact Keeps.refl _ _
        · exact (keeperLog_keeps ..).mono rfl
  · exact Keeps.refl _ _

theorem writeMap_keeps (a0 a1 s) : Keeps [.comp, .words] s (writeMap a0 a1 s) := by
  unfold writeMap
  extract_lets -merge x0 x1 x2 x3
  have hx0 : ∀ a4, Keeps [.comp, .words] a4 (x0 a4) := by
    intro a4
    unfold x0
    extract_lets -merge x5
    refine Keeps.after ?_ (upd_comp _ ?_) rfl
    · exact Keeps.refl _ _
    · rfl
  clear_value x0
  refine Keeps.ite ?_ ?_
  · refine Keeps.ite ?_ ?_
    · refine Keeps.ite ?_ ?_
      · exact (touch_comp _).mono rfl
      · refine Keeps.then_ ?_ (hx0 ..)
        exact Keeps.refl _ _
    · refine Keeps.ite ?_ ?_
      · refine Keeps.after ?_ (upd_comp _ ?_) rfl
        · exact Keeps.refl _ _
        · rfl
      · refine Keeps.ite ?_ ?_
        · refine Keeps.ite ?_ ?_
          · exact (touch_comp _).mono rfl
          · refine Keeps.then_ ?_ (hx0 ..)
            exact Keeps.refl _ _
        · exact Keeps.refl _ _
  · exact Keeps.refl _ _

theorem writePolicy_keeps (a0 s) : Keeps [.out, .fns, .works, .chans, .fab, .comp] s (writePolicy a0 s) := by
  unfold writePolicy
  extract_lets -merge x0 x1
  refine Keeps.ite ?_ ?_
  · refine Keeps.ite ?_ ?_
    · refine Keeps.after ?_ (upd_comp _ ?_) rfl
      · exact Keeps.refl _ _
      · rfl
    · exact (propose_keeps ..).mono rfl
  · exact Keeps.refl _ _

theorem keeperFrame_keeps (s) : Keeps [.fab, .comp, .words] s (keeperFrame s) := by
  unfold keeperFrame
  extract_lets c t t1 u
  have ht : Keeps [.fab, .comp, .words] s t := (touch_comp _).mono rfl
  have hu : ∀ (b : Comp) (g : Keeper → Keeper), ({ t with comp := b } : State).words = t.words →
      Keeps [.fab, .comp, .words] s (modKeeper g { t with comp := b }) :=
    fun b g h => (ht.after (upd_comp b h) rfl).after (modKeeper_keeps ..) rfl
  refine Keeps.ite ?_ (hu { t.comp with hbAge := t.comp.hbAge + 1 } _ rfl)
  have h := hu { t.comp with hbAge := 0, noQuorum := false } (fun k => { k with hbAge := 0 }) rfl
  exact h.after (sendAll_keeps ..) rfl

end Sys2Proof.Machine
end

