-- ==== Sys2Proof/Laws/KeepsLinks.lean ====
section
/-! SUPPORT. What each operation of Machine/Links.lean leaves alone. -/

namespace Sys2Proof.Machine

theorem sendQueued_keeps (a0 a1 a2 s) : Keeps [.out, .stats, .pvStats, .fab, .qos] s (sendQueued a0 a1 a2 s) := by
  unfold sendQueued
  split
  · exact Keeps.refl _ _
  · exact (sendWaiting_keeps ..).mono rfl

theorem retransmit_keeps (a0 a1 a2 s) : Keeps [.out, .stats, .pvStats, .fab, .qos] s (retransmit a0 a1 a2 s) := by
  unfold retransmit
  refine Keeps.after ?_ (sendQueued_keeps ..) rfl
  exact (modFlow_keeps ..).mono rfl

theorem takeAck_keeps (a0 a1 a2 a3 a4 s) : Keeps [.out, .stats, .pvStats, .fab, .qos] s (takeAck a0 a1 a2 a3 a4 s) := by
  unfold takeAck
  split
  · exact Keeps.refl _ _
  · extract_lets -merge x5 x6
    have hx6 : Keeps [.out, .stats, .pvStats, .fab, .qos] s x6 := by
      unfold x6
      refine Keeps.ite ?_ ?_
      · exact (modFlow_keeps ..).mono rfl
      · exact Keeps.refl _ _
    clear_value x6
    refine Keeps.ite ?_ ?_
    · refine Keeps.ite ?_ ?_
      · exact Keeps.after (by assumption) (retransmit_keeps ..) rfl
      · exact Keeps.after (by assumption) (modFlow_keeps ..) rfl
    · refine Keeps.ite ?_ ?_
      · exact Keeps.after (by assumption) (modFlow_keeps ..) rfl
      · assumption

theorem modRFlow_keeps (a0 a1 a2 a3 s) : Keeps [.fab] s (modRFlow a0 a1 a2 a3 s) := by
  unfold modRFlow
  refine Keeps.after ?_ (modFab_keeps _ _ ?_) rfl
  · exact Keeps.refl _ _
  · rfl

theorem sendAck_keeps (a0 a1 a2 s) : Keeps [.out, .stats, .pvStats, .fab] s (sendAck a0 a1 a2 s) := by
  unfold sendAck
  split
  · exact Keeps.refl _ _
  · extract_lets -merge x5
    refine Keeps.ite ?_ ?_
    · refine Keeps.after ?_ (count_keeps ..) rfl
      refine Keeps.after ?_ (emit_keeps ..) rfl
      exact (modRFlow_keeps ..).mono rfl
    · exact Keeps.refl _ _

theorem rxPayload_keeps (a0 a1 s) : Keeps [.nextId, .out, .fns, .works, .chans, .stats, .pvStats, .corpora, .ranges, .tier, .upd, .scan, .flash, .fab, .comp, .qos] s (rxPayload a0 a1 s) := by
  unfold rxPayload
  extract_lets -merge x0 x1 x2 x3 x4 x5 x6 x7 x8
  have hx8 : Keeps [.nextId, .out, .fns, .works, .chans, .stats, .pvStats, .corpora, .ranges, .tier, .upd, .scan, .flash, .fab, .comp, .qos] s x8 := by
    unfold x8
    refine Keeps.after ?_ (modFab_keeps _ _ ?_) rfl
    · exact Keeps.refl _ _
    · rfl
  clear_value x8
  refine Keeps.ite ?_ ?_
  · refine Keeps.ite ?_ ?_
    · exact Keeps.after (by assumption) (arrive_keeps ..) rfl
    · exact Keeps.after (by assumption) (rxDrop_keeps ..) rfl
  · refine Keeps.after ?_ (modFab_keeps _ _ ?_) rfl
    · assumption
    · rfl

theorem rxFlow_keeps (a0 a1 s) : Keeps [.nextId, .out, .fns, .works, .chans, .stats, .pvStats, .corpora, .ranges, .tier, .upd, .scan, .flash, .fab, .comp, .qos] s (rxFlow a0 a1 s) := by
  unfold rxFlow
  extract_lets -merge x0 x1 x2 x3 x4 x5 x6 x7
  have hx4 : Keeps [.nextId, .out, .fns, .works, .chans, .stats, .pvStats, .corpora, .ranges, .tier, .upd, .scan, .flash, .fab, .comp, .qos] s x4 := by
    unfold x4
    refine Keeps.ite ?_ ?_
    · exact Keeps.refl _ _
    · refine Keeps.after ?_ (modFab_keeps _ _ ?_) rfl
      · exact Keeps.refl _ _
      · rfl
  have hx5 : Keeps [.nextId, .out, .fns, .works, .chans, .stats, .pvStats, .corpora, .ranges, .tier, .upd, .scan, .flash, .fab, .comp, .qos] s x5 := by
    unfold x5
    exact Keeps.after (by assumption) (modRFlow_keeps ..) rfl
  have hx6 : Keeps [.nextId, .out, .fns, .works, .chans, .stats, .pvStats, .corpora, .ranges, .tier, .upd, .scan, .flash, .fab, .comp, .qos] s x6 := by
    unfold x6
    exact Keeps.after (by assumption) (modRFlow_keeps ..) rfl
  have hx7 : Keeps [.nextId, .out, .fns, .works, .chans, .stats, .pvStats, .corpora, .ranges, .tier, .upd, .scan, .flash, .fab, .comp, .qos] s x7 := by
    unfold x7
    refine Keeps.after ?_ (rxPayload_keeps ..) rfl
    exact Keeps.after (by assumption) (count_keeps ..) rfl
  clear_value x4 x5 x6 x7
  split
  · assumption
  · extract_lets -merge x13
    refine Keeps.ite ?_ ?_
    · refine Keeps.ite ?_ ?_
      · exact Keeps.after (by assumption) (sendAck_keeps ..) rfl
      · assumption
    · refine Keeps.ite ?_ ?_
      · exact Keeps.after (by assumption) (sendAck_keeps ..) rfl
      · refine Keeps.ite ?_ ?_
        · assumption
        · refine Keeps.after ?_ (sendAck_keeps ..) rfl
          exact Keeps.after (by assumption) (modRFlow_keeps ..) rfl

theorem pausePrio_keeps (a0 s a2) : Keeps [.out, .fab] s (pausePrio a0 s a2) := by
  unfold pausePrio
  extract_lets -merge x0 x1 x2
  refine Keeps.ite ?_ ?_
  · refine Keeps.ite ?_ ?_
    · refine Keeps.after ?_ (emit_keeps ..) rfl
      exact (modPort_keeps ..).mono rfl
    · refine Keeps.ite ?_ ?_
      · refine Keeps.after ?_ (emit_keeps ..) rfl
        exact (modPort_keeps ..).mono rfl
      · exact Keeps.refl _ _
  · exact Keeps.refl _ _

theorem pausePort_keeps (a0 s) : Keeps [.out, .fab] s (pausePort a0 s) := by
  unfold pausePort
  refine Keeps.ite ?_ ?_
  · refine Keeps.foldl ?_ (fun t0 z1 => ?_)
    · exact Keeps.refl _ _
    · exact (pausePrio_keeps ..).mono rfl
  · exact Keeps.refl _ _

theorem doRx_keeps (a0 a1 s) : Keeps [.nextId, .out, .fns, .works, .chans, .stats, .pvStats, .corpora, .ranges, .tier, .upd, .scan, .flash, .fab, .comp, .qos] s (doRx a0 a1 s) := by
  unfold doRx
  extract_lets -merge x0 x1 x2 x3
  refine Keeps.ite ?_ ?_
  · refine Keeps.ite ?_ ?_
    · exact (rxDrop_keeps ..).mono rfl
    · refine Keeps.ite ?_ ?_
      · exact Keeps.refl _ _
      · refine Keeps.ite ?_ ?_
        · exact (rxDrop_keeps ..).mono rfl
        · split
          · rename_i y4 y5 y6
            have ky5 : Keeps [.nextId, .out, .fns, .works, .chans, .stats, .pvStats, .corpora, .ranges, .tier, .upd, .scan, .flash, .fab, .comp, .qos] s y5 := by
              refine Keeps.of2 y6 ?_
              exact (findBuffer_keeps ..).mono rfl
            refine Keeps.after ?_ (pausePort_keeps ..) rfl
            refine Keeps.ite ?_ ?_
            · assumption
            · refine Keeps.after ?_ (modFab_keeps _ _ ?_) rfl
              · assumption
              · rfl
          · rename_i y7 y8 y9
            have ky8 : Keeps [.nextId, .out, .fns, .works, .chans, .stats, .pvStats, .corpora, .ranges, .tier, .upd, .scan, .flash, .fab, .comp, .qos] s y8 := by
              refine Keeps.of2 y9 ?_
              exact (findBuffer_keeps ..).mono rfl
            extract_lets -merge x10
            have hx10 : Keeps [.nextId, .out, .fns, .works, .chans, .stats, .pvStats, .corpora, .ranges, .tier, .upd, .scan, .flash, .fab, .comp, .qos] s x10 := by
              unfold x10
              refine Keeps.ite ?_ ?_
              · exact Keeps.after (by assumption) (takeAck_keeps ..) rfl
              · assumption
            clear_value x10
            refine Keeps.ite ?_ ?_
            · assumption
            · refine Keeps.after ?_ (pausePort_keeps ..) rfl
              exact Keeps.after (by assumption) (rxFlow_keeps ..) rfl
  · exact Keeps.refl _ _

theorem failMsgs_keeps (a0 a1 a2 a3 s) : Keeps [.out, .fns, .works, .chans, .stats, .pvStats, .corpora, .upd, .scan, .fab, .comp, .qos] s (failMsgs a0 a1 a2 a3 s) := by
  unfold failMsgs
  extract_lets -merge x0 x1 x2
  have hx1 : Keeps [.out, .fns, .works, .chans, .stats, .pvStats, .corpora, .upd, .scan, .fab, .comp, .qos] s x1 := by
    unfold x1
    refine Keeps.foldl ?_ (fun t3 z4 => ?_)
    · exact Keeps.refl _ _
    · exact (takeResp_keeps ..).mono rfl
  have hx2 : Keeps [.out, .fns, .works, .chans, .stats, .pvStats, .corpora, .upd, .scan, .fab, .comp, .qos] s x2 := by
    unfold x2
    refine Keeps.ite ?_ ?_
    · refine Keeps.foldl ?_ (fun t5 z6 => ?_)
      · assumption
      · exact (modQuery_keeps ..).mono rfl
    · assumption
  clear_value x1 x2
  refine Keeps.ite ?_ ?_
  · refine Keeps.foldl ?_ (fun t7 z8 => ?_)
    · assumption
    · exact (endBatch_keeps ..).mono rfl
  · assumption

theorem closeFlow_keeps (a0 s) : Keeps [.out, .fns, .works, .chans, .stats, .pvStats, .corpora, .upd, .scan, .fab, .comp, .qos] s (closeFlow a0 s) := by
  unfold closeFlow
  extract_lets -merge x0 x1 x2 x3
  have hx1 : Keeps [.out, .fns, .works, .chans, .stats, .pvStats, .corpora, .upd, .scan, .fab, .comp, .qos] s x1 := by
    unfold x1
    exact (modFlow_keeps ..).mono rfl
  have hx2 : Keeps [.out, .fns, .works, .chans, .stats, .pvStats, .corpora, .upd, .scan, .fab, .comp, .qos] s x2 := by
    unfold x2
    refine Keeps.after ?_ (modFab_keeps _ _ ?_) rfl
    · assumption
    · rfl
  have hx3 : Keeps [.out, .fns, .works, .chans, .stats, .pvStats, .corpora, .upd, .scan, .fab, .comp, .qos] s x3 := by
    unfold x3
    exact Keeps.after (by assumption) (failMsgs_keeps ..) rfl
  clear_value x1 x2 x3
  refine Keeps.ite ?_ ?_
  · exact Keeps.after (by assumption) (emit_keeps ..) rfl
  · assumption

theorem doRto_keeps (a0 a1 a2 s) : Keeps [.out, .fns, .works, .chans, .stats, .pvStats, .corpora, .upd, .scan, .fab, .comp, .qos] s (doRto a0 a1 a2 s) := by
  unfold doRto
  split
  · exact Keeps.refl _ _
  · refine Keeps.ite ?_ ?_
    · refine Keeps.ite ?_ ?_
      · exact (closeFlow_keeps ..).mono rfl
      · refine Keeps.after ?_ (retransmit_keeps ..) rfl
        exact (modFlow_keeps ..).mono rfl
    · exact Keeps.refl _ _

theorem doAckOnly_keeps (a0 a1 a2 a3 a4 s) : Keeps [.out, .stats, .pvStats, .fab, .qos] s (doAckOnly a0 a1 a2 a3 a4 s) := by
  unfold doAckOnly
  refine Keeps.ite ?_ ?_
  · exact (takeAck_keeps ..).mono rfl
  · exact Keeps.refl _ _

theorem setLanes_keeps (a0 a1 a2 s) : Keeps [.fab] s (setLanes a0 a1 a2 s) := by
  unfold setLanes
  exact (modPort_keeps ..).mono rfl

theorem doLaserLow_keeps (a0 a1 s) : Keeps [.out, .fns, .fab] s (doLaserLow a0 a1 s) := by
  unfold doLaserLow
  refine Keeps.ite ?_ ?_
  · refine Keeps.after ?_ (settlePort_keeps ..) rfl
    refine Keeps.after ?_ (setLanes_keeps ..) rfl
    exact (modPort_keeps ..).mono rfl
  · exact Keeps.refl _ _

theorem doLinkUp_keeps (a0 a1 s) : Keeps [.out, .fns, .fab] s (doLinkUp a0 a1 s) := by
  unfold doLinkUp
  extract_lets -merge x0 x1
  have hx1 : Keeps [.out, .fns, .fab] s x1 := by
    unfold x1
    exact (modPort_keeps ..).mono rfl
  clear_value x1
  refine Keeps.ite ?_ ?_
  · refine Keeps.after ?_ (settlePort_keeps ..) rfl
    exact Keeps.after (by assumption) (setLanes_keeps ..) rfl
  · exact Keeps.refl _ _

theorem doLinkDown_keeps (a0 a1 s) : Keeps [.out, .fns, .fab] s (doLinkDown a0 a1 s) := by
  unfold doLinkDown
  refine Keeps.ite ?_ ?_
  · refine Keeps.after ?_ (settlePort_keeps ..) rfl
    exact (setLanes_keeps ..).mono rfl
  · exact Keeps.refl _ _

theorem doBer_keeps (a0 s) : Keeps [.out, .fns, .fab] s (doBer a0 s) := by
  unfold doBer
  refine Keeps.ite ?_ ?_
  · refine Keeps.after ?_ (settlePort_keeps ..) rfl
    exact (modPort_keeps ..).mono rfl
  · exact Keeps.refl _ _

theorem doPfc_keeps (a0 a1 a2 s) : Keeps [.fab] s (doPfc a0 a1 a2 s) := by
  unfold doPfc
  extract_lets -merge x0
  refine Keeps.ite ?_ ?_
  · exact (modPort_keeps ..).mono rfl
  · exact Keeps.refl _ _

theorem dropQueued_keeps (a0 s) : Keeps [.fab] s (dropQueued a0 s) := by
  unfold dropQueued
  exact (modFlow_keeps ..).mono rfl

theorem doPfcWatch_keeps (a0 a1 s) : Keeps [.out, .fns, .fab] s (doPfcWatch a0 a1 s) := by
  unfold doPfcWatch
  extract_lets -merge x0 x1 x2 x3
  have hx2 : Keeps [.out, .fns, .fab] s x2 := by
    unfold x2
    refine Keeps.after ?_ (modFab_keeps _ _ ?_) rfl
    · refine Keeps.ite ?_ ?_
      · exact (dropQueued_keeps ..).mono rfl
      · exact Keeps.refl _ _
    · rfl
  have hx3 : Keeps [.out, .fns, .fab] s x3 := by
    unfold x3
    exact Keeps.after (by assumption) (modPort_keeps ..) rfl
  clear_value x2 x3
  refine Keeps.ite ?_ ?_
  · refine Keeps.ite ?_ ?_
    · exact Keeps.after (by assumption) (settlePort_keeps ..) rfl
    · exact Keeps.after (by assumption) (nodeEvent_keeps ..) rfl
  · exact Keeps.refl _ _

theorem selectPtp_keeps (s) : Keeps [.fab] s (selectPtp s) := by
  unfold selectPtp
  extract_lets -merge x0 x1
  refine Keeps.after ?_ (modFab_keeps _ _ ?_) rfl
  · exact Keeps.refl _ _
  · rfl

theorem doAnnounce_keeps (a0 a1 s) : Keeps [.fab] s (doAnnounce a0 a1 s) := by
  unfold doAnnounce
  extract_lets -merge x0
  refine Keeps.ite ?_ ?_
  · refine Keeps.after ?_ (selectPtp_keeps ..) rfl
    refine Keeps.after ?_ (modFab_keeps _ _ ?_) rfl
    · exact Keeps.refl _ _
    · rfl
  · exact Keeps.refl _ _

theorem doMkpdu_keeps (a0 a1 a2 s) : Keeps [.out] s (doMkpdu a0 a1 a2 s) := by
  unfold doMkpdu
  refine Keeps.ite ?_ ?_
  · exact (emit_keeps ..).mono rfl
  · exact Keeps.refl _ _

theorem doArp_keeps (a0 a1 s) : Keeps [.out] s (doArp a0 a1 s) := by
  unfold doArp
  refine Keeps.ite ?_ ?_
  · exact (emit_keeps ..).mono rfl
  · exact Keeps.refl _ _

theorem fabSlot_keeps (s) : Keeps [.out, .stats, .pvStats, .fab, .qos] s (fabSlot s) := by
  unfold fabSlot
  extract_lets -merge x0 x1
  have hx0 : Keeps [.out, .stats, .pvStats, .fab, .qos] s x0 := by
    unfold x0
    refine Keeps.foldl ?_ (fun t2 z3 => ?_)
    · exact Keeps.refl _ _
    · exact (sendQueued_keeps ..).mono rfl
  have hx1 : Keeps [.out, .stats, .pvStats, .fab, .qos] s x1 := by
    unfold x1
    refine Keeps.foldl ?_ (fun t4 z5 => ?_)
    · assumption
    · exact (pausePort_keeps ..).mono rfl
  clear_value x0 x1
  refine Keeps.after ?_ (modFab_keeps _ _ ?_) rfl
  · assumption
  · rfl

theorem fabFrame_keeps (s) : Keeps [.out, .fns, .stats, .pvStats, .fab, .qos, .words] s (fabFrame s) := by
  unfold fabFrame
  extract_lets -merge x0 x1 x2 x3
  have hx0 : Keeps [.out, .fns, .stats, .pvStats, .fab, .qos, .words] s x0 := by
    unfold x0
    exact (modFab_touch ..).mono rfl
  have hx1 : Keeps [.out, .fns, .stats, .pvStats, .fab, .qos, .words] s x1 := by
    unfold x1
    refine Keeps.foldl ?_ (fun t4 z5 => ?_)
    · assumption
    · exact (settlePort_keeps ..).mono rfl
  have hx2 : Keeps [.out, .fns, .stats, .pvStats, .fab, .qos, .words] s x2 := by
    unfold x2
    exact Keeps.after (by assumption) (selectPtp_keeps ..) rfl
  have hx3 : Keeps [.out, .fns, .stats, .pvStats, .fab, .qos, .words] s x3 := by
    unfold x3
    refine Keeps.foldl ?_ (fun t6 z7 => ?_)
    · assumption
    · exact (sendAck_keeps ..).mono rfl
  clear_value x0 x1 x2 x3
  exact Keeps.after (by assumption) (flushCoal_keeps ..) rfl

theorem writeFab_keeps (a0 a1 s) : Keeps [.fab, .words] s (writeFab a0 a1 s) := by
  unfold writeFab
  extract_lets -merge x0 x1
  have hx0 : ∀ a2, Keeps [.fab, .words] a2 (x0 a2) := by
    intro a2
    unfold x0
    refine Keeps.after ?_ (modFab_keeps _ _ ?_) rfl
    · exact Keeps.refl _ _
    · rfl
  clear_value x0
  refine Keeps.ite ?_ ?_
  · refine Keeps.ite ?_ ?_
    · refine Keeps.ite ?_ ?_
      · exact Keeps.refl _ _
      · refine Keeps.after ?_ (modFab_keeps _ _ ?_) rfl
        · exact Keeps.refl _ _
        · rfl
    · refine Keeps.ite ?_ ?_
      · refine Keeps.ite ?_ ?_
        · exact (modFab_touch ..).mono rfl
        · refine Keeps.then_ ?_ (hx0 ..)
          exact Keeps.refl _ _
      · refine Keeps.ite ?_ ?_
        · refine Keeps.after ?_ (modFab_keeps _ _ ?_) rfl
          · exact Keeps.refl _ _
          · rfl
        · refine Keeps.ite ?_ ?_
          · refine Keeps.ite ?_ ?_
            · exact (modFab_touch ..).mono rfl
            · refine Keeps.then_ ?_ (hx0 ..)
              exact Keeps.refl _ _
          · refine Keeps.ite ?_ ?_
            · refine Keeps.ite ?_ ?_
              · refine Keeps.then_ ?_ (hx0 ..)
                exact Keeps.refl _ _
              · exact (modPort_keeps ..).mono rfl
            · exact Keeps.refl _ _
  · exact Keeps.refl _ _

end Sys2Proof.Machine
end

