-- ==== Sys2Proof/Laws/KeepsRoce.lean ====
section
/-! SUPPORT. What each operation of Machine/Roce.lean leaves alone. -/

namespace Sys2Proof.Machine

theorem pinWindow_keeps (a0 a1 a2 a3 s) : Keeps [.ranges] s (pinWindow a0 a1 a2 a3 s) := by
  unfold pinWindow
  refine Keeps.foldl ?_ (fun t0 z1 => ?_)
  · exact Keeps.refl _ _
  · exact (modRange_keeps ..).mono rfl

theorem exportWindow_keeps (a0 a1 a2 a3 a4 a5 a6 s) : Keeps [.free, .nextId, .out, .fns, .chans, .stats, .pvStats, .ranges, .tier, .scan, .flash, .fab, .qos] s (exportWindow a0 a1 a2 a3 a4 a5 a6 s) := by
  unfold exportWindow
  refine Keeps.ite ?_ ?_
  · exact (chanAck_keeps ..).mono rfl
  · split
    · rename_i y0 y1 y2
      have ky1 : Keeps [.free, .nextId, .out, .fns, .chans, .stats, .pvStats, .ranges, .tier, .scan, .flash, .fab, .qos] s y1 := by
        refine Keeps.of2 y2 ?_
        exact (allIntoT1_keeps ..).mono rfl
      split
      · rename_i y3 y4 y5 y6
        have ky5 : Keeps [.free, .nextId, .out, .fns, .chans, .stats, .pvStats, .ranges, .tier, .scan, .flash, .fab, .qos] s y5 := by
          refine Keeps.of2 y6 ?_
          exact Keeps.after (by assumption) (draw_keeps ..) rfl
        extract_lets -merge x7 x8 x9
        have hx8 : Keeps [.free, .nextId, .out, .fns, .chans, .stats, .pvStats, .ranges, .tier, .scan, .flash, .fab, .qos] s x8 := by
          unfold x8
          exact Keeps.after (by assumption) (pinWindow_keeps ..) rfl
        have hx9 : Keeps [.free, .nextId, .out, .fns, .chans, .stats, .pvStats, .ranges, .tier, .scan, .flash, .fab, .qos] s x9 := by
          unfold x9
          refine Keeps.after ?_ (modFab_keeps _ _ ?_) rfl
          · assumption
          · rfl
        clear_value x8 x9
        refine Keeps.after ?_ (chanAck_keeps ..) rfl
        exact Keeps.after (by assumption) (blockOut_keeps ..) rfl
    · rename_i y10 y11 y12
      have ky11 : Keeps [.free, .nextId, .out, .fns, .chans, .stats, .pvStats, .ranges, .tier, .scan, .flash, .fab, .qos] s y11 := by
        refine Keeps.of2 y12 ?_
        exact (allIntoT1_keeps ..).mono rfl
      assumption
    · rename_i y13 y14 y15
      have ky14 : Keeps [.free, .nextId, .out, .fns, .chans, .stats, .pvStats, .ranges, .tier, .scan, .flash, .fab, .qos] s y14 := by
        refine Keeps.of2 y15 ?_
        exact (allIntoT1_keeps ..).mono rfl
      exact Keeps.after (by assumption) (chanAck_keeps ..) rfl
    · rename_i y16 y17 y18 y19 y20
      have ky18 : Keeps [.free, .nextId, .out, .fns, .chans, .stats, .pvStats, .ranges, .tier, .scan, .flash, .fab, .qos] s y18 := by
        refine Keeps.of2 y20 ?_
        exact (allIntoT1_keeps ..).mono rfl
      exact Keeps.after (by assumption) (chanAck_keeps ..) rfl

theorem doWinExport_keeps (a0 a1 s) : Keeps [.free, .nextId, .out, .fns, .chans, .stats, .pvStats, .ranges, .tier, .scan, .flash, .fab, .qos] s (doWinExport a0 a1 s) := by
  unfold doWinExport
  unfold groundsBlock
  extract_lets -merge x0
  have hx0 : Keeps [.free, .nextId, .out, .fns, .chans, .stats, .pvStats, .ranges, .tier, .scan, .flash, .fab, .qos] s x0 := by
    unfold x0
    exact (readBlock_keeps ..).mono rfl
  clear_value x0
  refine Keeps.ite ?_ ?_
  · refine Keeps.ite ?_ ?_
    · exact (chanAck_keeps ..).mono rfl
    · split
      · exact Keeps.after (by assumption) (chanAck_keeps ..) rfl
      · beta_reduce
        extract_lets -merge x6 x7 x8
        refine Keeps.ite ?_ ?_
        · exact Keeps.after (by assumption) (chanAck_keeps ..) rfl
        · refine Keeps.ite ?_ ?_
          · exact Keeps.after (by assumption) (chanAck_keeps ..) rfl
          · exact Keeps.after (by assumption) (exportWindow_keeps ..) rfl
  · exact Keeps.refl _ _

theorem dropWindow_keeps (a0 s) : Keeps [.ranges, .fab] s (dropWindow a0 s) := by
  unfold dropWindow
  refine Keeps.after ?_ (pinWindow_keeps ..) rfl
  refine Keeps.after ?_ (modFab_keeps _ _ ?_) rfl
  · exact Keeps.refl _ _
  · rfl

theorem doWinUnexport_keeps (a0 s) : Keeps [.out, .fns, .chans, .ranges, .fab] s (doWinUnexport a0 s) := by
  unfold doWinUnexport
  unfold groundsImm
  refine Keeps.ite ?_ ?_
  · refine Keeps.ite ?_ ?_
    · exact (chanAck_keeps ..).mono rfl
    · beta_reduce
      refine Keeps.ite ?_ ?_
      · exact (chanAck_keeps ..).mono rfl
      · split
        · refine Keeps.after ?_ (chanAck_keeps ..) rfl
          exact (dropWindow_keeps ..).mono rfl
        · exact (chanAck_keeps ..).mono rfl
  · exact Keeps.refl _ _

theorem doQpCreate_keeps (a0 a1 s) : Keeps [.free, .out, .fns, .chans, .fab] s (doQpCreate a0 a1 s) := by
  unfold doQpCreate
  extract_lets -merge x0
  unfold groundsBlock
  extract_lets -merge x1
  have hx1 : Keeps [.free, .out, .fns, .chans, .fab] s x1 := by
    unfold x1
    exact (readBlock_keeps ..).mono rfl
  clear_value x1
  refine Keeps.ite ?_ ?_
  · refine Keeps.ite ?_ ?_
    · exact (chanAck_keeps ..).mono rfl
    · split
      · exact Keeps.after (by assumption) (chanAck_keeps ..) rfl
      · beta_reduce
        extract_lets -merge x7
        refine Keeps.ite ?_ ?_
        · exact Keeps.after (by assumption) (chanAck_keeps ..) rfl
        · refine Keeps.ite ?_ ?_
          · exact Keeps.after (by assumption) (chanAck_keeps ..) rfl
          · split
            · exact Keeps.after (by assumption) (chanAck_keeps ..) rfl
            · refine Keeps.ite ?_ ?_
              · exact Keeps.after (by assumption) (chanAck_keeps ..) rfl
              · split
                · rename_i y13 y14 y15 y16
                  have ky15 : Keeps [.free, .out, .fns, .chans, .fab] s y15 := by
                    refine Keeps.of2 y16 ?_
                    exact Keeps.after (by assumption) (draw_keeps ..) rfl
                  extract_lets -merge x17 x18
                  refine Keeps.after ?_ (chanAck_keeps ..) rfl
                  refine Keeps.after ?_ (blockOut_keeps ..) rfl
                  refine Keeps.after ?_ (modFab_keeps _ _ ?_) rfl
                  · assumption
                  · rfl
  · exact Keeps.refl _ _

theorem doQpDestroy_keeps (a0 s) : Keeps [.out, .fns, .chans, .fab] s (doQpDestroy a0 s) := by
  unfold doQpDestroy
  unfold groundsImm
  refine Keeps.ite ?_ ?_
  · refine Keeps.ite ?_ ?_
    · exact (chanAck_keeps ..).mono rfl
    · beta_reduce
      refine Keeps.ite ?_ ?_
      · exact (chanAck_keeps ..).mono rfl
      · refine Keeps.ite ?_ ?_
        · refine Keeps.after ?_ (chanAck_keeps ..) rfl
          refine Keeps.after ?_ (modFab_keeps _ _ ?_) rfl
          · exact Keeps.refl _ _
          · rfl
        · exact (chanAck_keeps ..).mono rfl
  · exact Keeps.refl _ _

theorem modQp_keeps (a0 a1 s) : Keeps [.fab] s (modQp a0 a1 s) := by
  unfold modQp
  refine Keeps.after ?_ (modFab_keeps _ _ ?_) rfl
  · exact Keeps.refl _ _
  · rfl

theorem roceSend_keeps (a0 a1 a2 s) : Keeps [.out, .qos] s (roceSend a0 a1 a2 s) := by
  unfold roceSend
  refine Keeps.ite ?_ ?_
  · refine Keeps.after ?_ (chargeLink_keeps ..) rfl
    exact (emit_keeps ..).mono rfl
  · exact Keeps.refl _ _

theorem roceCe_keeps (a0 a1 s) : Keeps [.out, .fab, .qos] s (roceCe a0 a1 s) := by
  unfold roceCe
  refine Keeps.ite ?_ ?_
  · refine Keeps.after ?_ (roceSend_keeps ..) rfl
    exact (modQp_keeps ..).mono rfl
  · exact Keeps.refl _ _

theorem endQp_keeps (a0 s) : Keeps [.out, .fab, .qos] s (endQp a0 s) := by
  unfold endQp
  refine Keeps.after ?_ (roceSend_keeps ..) rfl
  exact (modQp_keeps ..).mono rfl

theorem roceRead_keeps (a0 a1 a2 a3 s) : Keeps [.out, .fns, .stats, .pvStats, .ranges, .tier, .scan, .fab, .qos] s (roceRead a0 a1 a2 a3 s) := by
  unfold roceRead
  refine Keeps.ite ?_ ?_
  · exact (roceSend_keeps ..).mono rfl
  · split
    · exact (roceSend_keeps ..).mono rfl
    · split
      · rename_i y5 y6 y7 y8 y9
        have ky8 : Keeps [.out, .fns, .stats, .pvStats, .ranges, .tier, .scan, .fab, .qos] s y8 := by
          refine Keeps.of2 y9 ?_
          exact (readFor_keeps ..).mono rfl
        exact Keeps.after (by assumption) (endQp_keeps ..) rfl
      · rename_i y10 y11 y12 y13
        have ky12 : Keeps [.out, .fns, .stats, .pvStats, .ranges, .tier, .scan, .fab, .qos] s y12 := by
          refine Keeps.of2 y13 ?_
          exact (readFor_keeps ..).mono rfl
        exact Keeps.after (by assumption) (roceSend_keeps ..) rfl

theorem roceWrite_keeps (a0 a1 a2 a3 s) : Keeps [.nextId, .out, .fns, .stats, .pvStats, .ranges, .tier, .scan, .flash, .fab, .qos] s (roceWrite a0 a1 a2 a3 s) := by
  unfold roceWrite
  refine Keeps.ite ?_ ?_
  · exact (roceSend_keeps ..).mono rfl
  · split
    · exact (roceSend_keeps ..).mono rfl
    · split
      · rename_i y5 y6 y7
        have ky6 : Keeps [.nextId, .out, .fns, .stats, .pvStats, .ranges, .tier, .scan, .flash, .fab, .qos] s y6 := by
          refine Keeps.of2 y7 ?_
          exact (writeBack_keeps ..).mono rfl
        exact Keeps.after (by assumption) (roceSend_keeps ..) rfl
      · rename_i y8 y9 y10 y11 y12
        have ky10 : Keeps [.nextId, .out, .fns, .stats, .pvStats, .ranges, .tier, .scan, .flash, .fab, .qos] s y10 := by
          refine Keeps.of2 y12 ?_
          exact (writeBack_keeps ..).mono rfl
        exact Keeps.after (by assumption) (endQp_keeps ..) rfl

theorem doRdmaRead_keeps (a0 a1 a2 a3 a4 a5 s) : Keeps [.out, .fns, .stats, .pvStats, .ranges, .tier, .scan, .fab, .qos] s (doRdmaRead a0 a1 a2 a3 a4 a5 s) := by
  unfold doRdmaRead
  split
  · exact Keeps.refl _ _
  · refine Keeps.ite ?_ ?_
    · unfold roceOrder
      extract_lets -merge x5
      refine Keeps.ite ?_ ?_
      · refine Keeps.after ?_ (roceRead_keeps ..) rfl
        refine Keeps.after ?_ (modQp_keeps ..) rfl
        exact (roceCe_keeps ..).mono rfl
      · refine Keeps.ite ?_ ?_
        · refine Keeps.after ?_ (roceRead_keeps ..) rfl
          exact (roceCe_keeps ..).mono rfl
        · refine Keeps.after ?_ (roceSend_keeps ..) rfl
          exact (roceCe_keeps ..).mono rfl
    · exact Keeps.refl _ _

theorem doRdmaWrite_keeps (a0 a1 a2 a3 a4 a5 s) : Keeps [.nextId, .out, .fns, .stats, .pvStats, .ranges, .tier, .scan, .flash, .fab, .qos] s (doRdmaWrite a0 a1 a2 a3 a4 a5 s) := by
  unfold doRdmaWrite
  split
  · exact Keeps.refl _ _
  · refine Keeps.ite ?_ ?_
    · unfold roceOrder
      extract_lets -merge x5
      refine Keeps.ite ?_ ?_
      · refine Keeps.after ?_ (roceWrite_keeps ..) rfl
        refine Keeps.after ?_ (modQp_keeps ..) rfl
        exact (roceCe_keeps ..).mono rfl
      · refine Keeps.ite ?_ ?_
        · refine Keeps.after ?_ (roceSend_keeps ..) rfl
          exact (roceCe_keeps ..).mono rfl
        · refine Keeps.after ?_ (roceSend_keeps ..) rfl
          exact (roceCe_keeps ..).mono rfl
    · exact Keeps.refl _ _

theorem doRoceBad_keeps (a0 a1 s) : Keeps [.out, .qos] s (doRoceBad a0 a1 s) := by
  unfold doRoceBad
  split
  · exact Keeps.refl _ _
  · refine Keeps.ite ?_ ?_
    · exact (roceSend_keeps ..).mono rfl
    · exact Keeps.refl _ _

theorem doCnp_keeps (a0 s) : Keeps [.fab] s (doCnp a0 s) := by
  unfold doCnp
  refine Keeps.ite ?_ ?_
  · exact (modQp_keeps ..).mono rfl
  · exact Keeps.refl _ _

end Sys2Proof.Machine
end

