-- ==== Sys2Proof/Laws/KeepsMoves.lean ====
section
/-! SUPPORT. What each operation of Machine/Moves.lean leaves alone. -/

namespace Sys2Proof.Machine

theorem placeVer_keeps (a0 a1 a2 s) : KeepsO [.nextId, .out, .corpora, .ranges, .flash, .comp] s (placeVer a0 a1 a2 s) := by
  unfold placeVer
  extract_lets -merge x0 x1 x2
  have hx2 : ∀ a3, Keeps [.nextId, .out, .corpora, .ranges, .flash, .comp] a3 (x2 a3) := by
    intro a3
    unfold x2
    split
    · exact (modCorpus_keeps ..).mono rfl
    · exact Keeps.refl _ _
  clear_value x2
  refine KeepsO.ite ?_ ?_
  · refine KeepsO.some ?_
    refine Keeps.then_ ?_ (hx2 ..)
    exact Keeps.refl _ _
  · split
    · exact KeepsO.none _ _
    · extract_lets -merge x14 x15 x16 x17 x18 x19 x20 x21
      have hx14 : Keeps [.nextId, .out, .corpora, .ranges, .flash, .comp] s x14 := by
        unfold x14
        exact (modCorpus_keeps ..).mono rfl
      have hx16 : Keeps [.nextId, .out, .corpora, .ranges, .flash, .comp] s x16 := by
        unfold x16
        exact Keeps.after (by assumption) (writeThrough_keeps ..) rfl
      have hx17 : Keeps [.nextId, .out, .corpora, .ranges, .flash, .comp] s x17 := by
        unfold x17
        refine Keeps.ite ?_ ?_
        · assumption
        · exact Keeps.after (by assumption) (writeThrough_keeps ..) rfl
      have hx18 : Keeps [.nextId, .out, .corpora, .ranges, .flash, .comp] s x18 := by
        unfold x18
        exact Keeps.after (by assumption) (fixQuad_keeps ..) rfl
      clear_value x14 x16 x17 x18
      refine KeepsO.some ?_
      refine Keeps.then_ ?_ (hx2 ..)
      exact Keeps.after (by assumption) (modCorpus_keeps ..) rfl

theorem placeVers_keeps (p plot vs s) : KeepsO [.nextId, .out, .corpora, .ranges, .flash, .comp] s (placeVers p plot vs s) := by
  induction vs generalizing s with
  | nil => exact KeepsO.some (Keeps.refl _ _)
  | cons v vs ih =>
    unfold placeVers
    split
    · rename_i y0 y1 y2
      have ky1 : Keeps [.nextId, .out, .corpora, .ranges, .flash, .comp] s y1 := by
        refine KeepsO.get y2 ?_
        refine KeepsO.after ?_ (placeVer_keeps ..) rfl
        exact Keeps.refl _ _
      refine KeepsO.after ?_ (ih ..) rfl
      assumption
    · exact KeepsO.none _ _

theorem noteSplit_keeps (a0 a1 s) : Keeps [.upd] s (noteSplit a0 a1 s) := by
  unfold noteSplit
  extract_lets -merge x0
  refine Keeps.ite ?_ ?_
  · refine Keeps.after ?_ (upd_upd _ ?_) rfl
    · exact Keeps.refl _ _
    · rfl
  · exact Keeps.refl _ _

theorem dropPlot_keeps (a0 a1 s) : Keeps [.corpora, .comp] s (dropPlot a0 a1 s) := by
  unfold dropPlot
  extract_lets -merge x0 x1 x2
  have hx1 : Keeps [.corpora, .comp] s x1 := by
    unfold x1
    exact (modCorpus_keeps ..).mono rfl
  clear_value x1
  refine Keeps.after ?_ (freeElems_keeps ..) rfl
  refine Keeps.after ?_ (upd_comp _ ?_) rfl
  · assumption
  · rfl

theorem toLeader_keeps (a0 s) : Keeps [.fab] s (toLeader a0 s) := by
  unfold toLeader
  split
  · exact (sendMap_keeps ..).mono rfl
  · split
    · exact (sendMap_keeps ..).mono rfl
    · exact Keeps.refl _ _

theorem takeMoveDone_keeps (a0 s) : Keeps [.out, .fns, .works, .chans, .fab, .comp] s (takeMoveDone a0 s) := by
  unfold takeMoveDone
  refine Keeps.ite ?_ ?_
  · exact (keeperLog_keeps ..).mono rfl
  · exact Keeps.refl _ _

theorem doTransfer_keeps (a0 a1 s) : Keeps [.fab, .comp] s (doTransfer a0 a1 s) := by
  unfold doTransfer
  split
  · exact Keeps.refl _ _
  · extract_lets -merge x5
    refine Keeps.ite ?_ ?_
    · split
      · rename_i y6 y7 y8 y9
        have ky8 : Keeps [.fab, .comp] s y8 := by
          refine Keeps.of2 y9 ?_
          exact (newMsgId_keeps ..).mono rfl
        extract_lets -merge x10
        have hx10 : Keeps [.fab, .comp] s x10 := by
          unfold x10
          exact Keeps.after (by assumption) (modOut_keeps ..) rfl
        clear_value x10
        refine Keeps.after ?_ (modFab_keeps _ _ ?_) rfl
        · assumption
        · rfl
    · exact Keeps.refl _ _

theorem takeState_keeps (a0 a1 a2 a3 s) : Keeps [.nextId, .out, .corpora, .ranges, .flash, .comp] s (takeState a0 a1 a2 a3 s).2 := by
  unfold takeState
  refine Keeps.ite2 ?_ ?_
  · refine Keeps.mk2 ?_
    exact Keeps.refl _ _
  · refine Keeps.ite2 ?_ ?_
    · refine Keeps.mk2 ?_
      exact Keeps.refl _ _
    · split
      · rename_i y0 y1 y2
        have ky1 : Keeps [.nextId, .out, .corpora, .ranges, .flash, .comp] s y1 := by
          refine KeepsO.get y2 ?_
          refine KeepsO.after ?_ (placeVers_keeps ..) rfl
          exact Keeps.refl _ _
        refine Keeps.mk2 ?_
        assumption
      · refine Keeps.mk2 ?_
        exact Keeps.refl _ _

theorem doHandoff_keeps (a0 a1 a2 a3 a4 s) : Keeps [.nextId, .out, .corpora, .ranges, .upd, .flash, .fab, .comp] s (doHandoff a0 a1 a2 a3 a4 s) := by
  unfold doHandoff
  extract_lets -merge x0 x1
  have hx0 : ∀ a2 a3, Keeps [.nextId, .out, .corpora, .ranges, .upd, .flash, .fab, .comp] a3 (x0 a2 a3) := by
    intro a2 a3
    unfold x0
    exact (sendMap_keeps ..).mono rfl
  clear_value x0
  refine Keeps.ite ?_ ?_
  · split
    · refine Keeps.ite ?_ ?_
      · refine Keeps.then_ ?_ (hx0 ..)
        exact Keeps.refl _ _
      · split
        · rename_i y7 y8 y9 y10
          have ky9 : Keeps [.nextId, .out, .corpora, .ranges, .upd, .flash, .fab, .comp] s y9 := by
            refine Keeps.of2 y10 ?_
            exact (takeState_keeps ..).mono rfl
          extract_lets -merge x11 x12
          refine Keeps.then_ ?_ (hx0 ..)
          refine Keeps.after ?_ (upd_comp _ ?_) rfl
          · assumption
          · rfl
    · refine Keeps.ite ?_ ?_
      · split
        · rename_i y15 y16 y17 y18
          have ky17 : Keeps [.nextId, .out, .corpora, .ranges, .upd, .flash, .fab, .comp] s y17 := by
            refine Keeps.of2 y18 ?_
            refine Keeps.after ?_ (takeState_keeps ..) rfl
            exact (noteSplit_keeps ..).mono rfl
          extract_lets -merge x19
          refine Keeps.then_ ?_ (hx0 ..)
          refine Keeps.ite ?_ ?_
          · refine Keeps.after ?_ (upd_comp _ ?_) rfl
            · assumption
            · rfl
          · assumption
      · refine Keeps.ite ?_ ?_
        · refine Keeps.then_ ?_ (hx0 ..)
          exact Keeps.refl _ _
        · exact Keeps.refl _ _
  · exact Keeps.refl _ _

theorem doHandoffAck_keeps (a0 a1 a2 s) : Keeps [.out, .fns, .works, .chans, .fab, .comp] s (doHandoffAck a0 a1 a2 s) := by
  unfold doHandoffAck
  refine Keeps.ite ?_ ?_
  · split
    · exact Keeps.refl _ _
    · extract_lets -merge x5
      have hx5 : Keeps [.out, .fns, .works, .chans, .fab, .comp] s x5 := by
        unfold x5
        exact (modOut_keeps ..).mono rfl
      clear_value x5
      refine Keeps.ite ?_ ?_
      · refine Keeps.ite ?_ ?_
        · exact (modOut_keeps ..).mono rfl
        · refine Keeps.after ?_ (sendHandoff_keeps ..) rfl
          exact (sendMap_keeps ..).mono rfl
      · refine Keeps.ite ?_ ?_
        · refine Keeps.ite ?_ ?_
          · refine Keeps.ite ?_ ?_
            · exact Keeps.after (by assumption) (takeMoveDone_keeps ..) rfl
            · exact Keeps.after (by assumption) (toLeader_keeps ..) rfl
          · exact (repeatMove_keeps ..).mono rfl
        · exact Keeps.refl _ _
  · exact Keeps.refl _ _

theorem doMoveDone_keeps (a0 a1 s) : Keeps [.out, .fns, .works, .chans, .fab, .comp] s (doMoveDone a0 a1 s) := by
  unfold doMoveDone
  refine Keeps.ite ?_ ?_
  · exact (takeMoveDone_keeps ..).mono rfl
  · exact Keeps.refl _ _

theorem takeClaim_keeps (a0 a1 s) : Keeps [.out, .fns, .works, .chans, .fab, .comp] s (takeClaim a0 a1 s) := by
  unfold takeClaim
  split
  · extract_lets -merge x3
    refine Keeps.ite ?_ ?_
    · exact (keeperLog_keeps ..).mono rfl
    · exact Keeps.refl _ _
  · exact Keeps.refl _ _

theorem doHoldClaim_keeps (a0 a1 s) : Keeps [.out, .fns, .works, .chans, .fab, .comp] s (doHoldClaim a0 a1 s) := by
  unfold doHoldClaim
  refine Keeps.ite ?_ ?_
  · exact (takeClaim_keeps ..).mono rfl
  · exact Keeps.refl _ _

theorem doStatePull_keeps (a0 a1 a2 s) : Keeps [.fab, .comp] s (doStatePull a0 a1 a2 s) := by
  unfold doStatePull
  extract_lets -merge x0 x1 x2
  have hx2 : Keeps [.fab, .comp] s x2 := by
    unfold x2
    exact (modOut_keeps ..).mono rfl
  clear_value x2
  refine Keeps.ite ?_ ?_
  · refine Keeps.after ?_ (sendMap_keeps ..) rfl
    exact Keeps.after (by assumption) (sendMap_keeps ..) rfl
  · exact Keeps.refl _ _

theorem doResend_keeps (a0 a1 s) : Keeps [.fab, .comp] s (doResend a0 a1 s) := by
  unfold doResend
  split
  · refine Keeps.ite ?_ ?_
    · exact (sendHandoff_keeps ..).mono rfl
    · exact Keeps.refl _ _
  · exact Keeps.refl _ _

theorem doMoveFree_keeps (a0 a1 s) : Keeps [.corpora, .comp] s (doMoveFree a0 a1 s) := by
  unfold doMoveFree
  split
  · extract_lets -merge x3 x4
    have hx4 : Keeps [.corpora, .comp] s x4 := by
      unfold x4
      refine Keeps.after ?_ (upd_comp _ ?_) rfl
      · exact Keeps.refl _ _
      · rfl
    clear_value x4
    refine Keeps.ite ?_ ?_
    · refine Keeps.ite ?_ ?_
      · assumption
      · exact Keeps.after (by assumption) (dropPlot_keeps ..) rfl
    · exact Keeps.refl _ _
  · exact Keeps.refl _ _

theorem syncPeers_keeps (a0 s) : Keeps [.corpora] s (syncPeers a0 s) := by
  unfold syncPeers
  refine Keeps.foldl ?_ (fun t0 z1 => ?_)
  · exact Keeps.refl _ _
  · extract_lets -merge x2 x3
    exact (modCorpus_keeps ..).mono rfl

theorem pullPlot_keeps (a0 a1 s) : Keeps [.out, .fns, .works, .chans, .fab, .comp] s (pullPlot a0 a1 s) := by
  unfold pullPlot
  split
  · extract_lets -merge x4
    refine Keeps.after ?_ (sendMap_keeps ..) rfl
    refine Keeps.after ?_ (upd_comp _ ?_) rfl
    · exact Keeps.refl _ _
    · rfl
  · exact (propose_keeps ..).mono rfl

theorem repull_keeps (a0 s) : Keeps [.out, .fns, .works, .chans, .fab, .comp] s (repull a0 s) := by
  unfold repull
  extract_lets -merge x0 x1 x2
  have hx2 : Keeps [.out, .fns, .works, .chans, .fab, .comp] s x2 := by
    unfold x2
    refine Keeps.after ?_ (upd_comp _ ?_) rfl
    · exact Keeps.refl _ _
    · rfl
  clear_value x2
  refine Keeps.foldl ?_ (fun t3 z4 => ?_)
  · assumption
  · split
    · exact (pullPlot_keeps ..).mono rfl
    · exact Keeps.refl _ _

theorem forgetNode_keeps (a0 a1 s) : Keeps [.out, .fns, .works, .stats, .pvStats, .corpora, .upd] s (forgetNode a0 a1 s) := by
  unfold forgetNode
  extract_lets -merge x0 x1
  have hx1 : Keeps [.out, .fns, .works, .stats, .pvStats, .corpora, .upd] s x1 := by
    unfold x1
    refine Keeps.after ?_ (modUpd_keeps _ _ ?_) rfl
    · exact Keeps.refl _ _
    · rfl
  clear_value x1
  refine Keeps.foldl ?_ (fun t2 z3 => ?_)
  · assumption
  · exact (settleBatch_keeps ..).mono rfl

theorem drainStep_keeps (s) : Keeps [.out, .fns, .works, .chans, .fab, .comp] s (drainStep s) := by
  unfold drainStep
  refine Keeps.foldl ?_ (fun t0 z1 => ?_)
  · exact Keeps.refl _ _
  · extract_lets -merge x2 x3 x4
    refine Keeps.ite ?_ ?_
    · exact (keeperLog_keeps ..).mono rfl
    · refine Keeps.foldl ?_ (fun t5 z6 => ?_)
      · exact Keeps.refl _ _
      · split
        · exact (keeperLog_keeps ..).mono rfl
        · exact Keeps.refl _ _

theorem rejoin_keeps (a0 a1 s) : Keeps [.out, .fns, .works, .chans, .corpora, .fab, .comp] s (rejoin a0 a1 s) := by
  unfold rejoin
  extract_lets -merge x0
  have hx0 : Keeps [.out, .fns, .works, .chans, .corpora, .fab, .comp] s x0 := by
    unfold x0
    refine Keeps.foldl ?_ (fun t1 z2 => ?_)
    · exact Keeps.refl _ _
    · refine Keeps.ite ?_ ?_
      · exact (modCorpus_keeps ..).mono rfl
      · exact Keeps.refl _ _
  clear_value x0
  refine Keeps.ite ?_ ?_
  · refine Keeps.foldl ?_ (fun t3 z4 => ?_)
    · assumption
    · exact (pullPlot_keeps ..).mono rfl
  · exact Keeps.refl _ _

theorem afterEntry_keeps (a0 a1 a2 a3 s) : Keeps [.out, .fns, .works, .chans, .stats, .pvStats, .corpora, .ranges, .upd, .fab, .comp] s (afterEntry a0 a1 a2 a3 s) := by
  unfold afterEntry
  split
  · extract_lets -merge x3
    refine Keeps.ite ?_ ?_
    · refine Keeps.after ?_ (modFab_keeps _ _ ?_) rfl
      · refine Keeps.after ?_ (upd_corpora_comp _ _ ?_) rfl
        · exact Keeps.refl _ _
        · rfl
      · rfl
    · exact Keeps.refl _ _
  · extract_lets -merge x6 x7
    have hx6 : Keeps [.out, .fns, .works, .chans, .stats, .pvStats, .corpora, .ranges, .upd, .fab, .comp] s x6 := by
      unfold x6
      refine Keeps.after ?_ (repull_keeps ..) rfl
      refine Keeps.after ?_ (syncPeers_keeps ..) rfl
      exact (forgetNode_keeps ..).mono rfl
    clear_value x6
    refine Keeps.ite ?_ ?_
    · refine Keeps.after ?_ (upd_comp _ ?_) rfl
      · assumption
      · rfl
    · assumption
  · extract_lets -merge x11 x12
    have hx11 : Keeps [.out, .fns, .works, .chans, .stats, .pvStats, .corpora, .ranges, .upd, .fab, .comp] s x11 := by
      unfold x11
      refine Keeps.after ?_ (repull_keeps ..) rfl
      refine Keeps.after ?_ (syncPeers_keeps ..) rfl
      exact (forgetNode_keeps ..).mono rfl
    have hx12 : Keeps [.out, .fns, .works, .chans, .stats, .pvStats, .corpora, .ranges, .upd, .fab, .comp] s x12 := by
      unfold x12
      refine Keeps.foldl ?_ (fun t13 z14 => ?_)
      · assumption
      · exact (keeperLog_keeps ..).mono rfl
    clear_value x11 x12
    refine Keeps.foldl ?_ (fun t15 z16 => ?_)
    · assumption
    · refine Keeps.ite ?_ ?_
      · exact (takeClaim_keeps ..).mono rfl
      · exact (toLeader_keeps ..).mono rfl
  · extract_lets -merge x20
    have hx20 : Keeps [.out, .fns, .works, .chans, .stats, .pvStats, .corpora, .ranges, .upd, .fab, .comp] s x20 := by
      unfold x20
      exact (syncPeers_keeps ..).mono rfl
    clear_value x20
    refine Keeps.ite ?_ ?_
    · split
      · exact Keeps.after (by assumption) (rejoin_keeps ..) rfl
      · assumption
    · assumption
  · exact Keeps.refl _ _
  · refine Keeps.ite ?_ ?_
    · exact (modKeeper_keeps ..).mono rfl
    · refine Keeps.ite ?_ ?_
      · exact (modKeeper_keeps ..).mono rfl
      · exact Keeps.refl _ _
  · refine Keeps.after ?_ (setShares_keeps ..) rfl
    exact (syncPeers_keeps ..).mono rfl
  · refine Keeps.foldl ?_ (fun t43 z44 => ?_)
    · exact Keeps.refl _ _
    · refine Keeps.ite ?_ ?_
      · exact (fixQuad_keeps ..).mono rfl
      · exact Keeps.refl _ _
  · extract_lets -merge x51 x52 x53
    refine Keeps.ite ?_ ?_
    · refine Keeps.after ?_ (upd_comp _ ?_) rfl
      · exact Keeps.refl _ _
      · rfl
    · refine Keeps.ite ?_ ?_
      · refine Keeps.after ?_ (fixQuad_keeps ..) rfl
        refine Keeps.after ?_ (upd_comp _ ?_) rfl
        · exact Keeps.refl _ _
        · rfl
      · exact Keeps.refl _ _
  · split
    · exact Keeps.refl _ _
    · extract_lets -merge x62 x63 x64 x65 x66
      have hx64 : Keeps [.out, .fns, .works, .chans, .stats, .pvStats, .corpora, .ranges, .upd, .fab, .comp] s x64 := by
        unfold x64
        refine Keeps.ite ?_ ?_
        · refine Keeps.after ?_ (upd_comp _ ?_) rfl
          · exact Keeps.refl _ _
          · rfl
        · exact (modOut_keeps ..).mono rfl
      have hx66 : Keeps [.out, .fns, .works, .chans, .stats, .pvStats, .corpora, .ranges, .upd, .fab, .comp] s x66 := by
        unfold x66
        refine Keeps.after ?_ (upd_comp _ ?_) rfl
        · assumption
        · rfl
      clear_value x64 x66
      split
      · refine Keeps.ite ?_ ?_
        · assumption
        · exact Keeps.after (by assumption) (pullPlot_keeps ..) rfl
      · assumption
  · extract_lets -merge x75 x76 x77 x78
    have hx77 : Keeps [.out, .fns, .works, .chans, .stats, .pvStats, .corpora, .ranges, .upd, .fab, .comp] s x77 := by
      unfold x77
      refine Keeps.after ?_ (upd_comp _ ?_) rfl
      · exact Keeps.refl _ _
      · rfl
    clear_value x77
    refine Keeps.ite ?_ ?_
    · refine Keeps.after ?_ (dropPlot_keeps ..) rfl
      refine Keeps.after ?_ (upd_comp _ ?_) rfl
      · assumption
      · rfl
    · assumption
  · exact Keeps.refl _ _
  · exact Keeps.refl _ _
  · exact Keeps.refl _ _
  · exact Keeps.refl _ _
  · exact (setCutover_keeps ..).mono rfl

theorem applyEntries_keeps (n s) : Keeps [.out, .fns, .works, .chans, .stats, .pvStats, .corpora, .ranges, .upd, .fab, .comp] s (applyEntries n s) := by
  induction n generalizing s with
  | zero => exact Keeps.refl _ _
  | succ n ih =>
    unfold applyEntries
    split
    · exact Keeps.refl _ _
    · extract_lets -merge x7 x8 x9
      have hx9 : Keeps [.out, .fns, .works, .chans, .stats, .pvStats, .corpora, .ranges, .upd, .fab, .comp] s x9 := by
        unfold x9
        refine Keeps.after ?_ (upd_comp _ ?_) rfl
        · exact Keeps.refl _ _
        · rfl
      clear_value x9
      refine Keeps.after ?_ (ih ..) rfl
      exact Keeps.after (by assumption) (afterEntry_keeps ..) rfl

theorem doActivate_keeps (s) : Keeps [.nextId, .out, .fns, .works, .chans, .stats, .pvStats, .corpora, .ranges, .tier, .upd, .scan, .flash, .fab, .comp, .qos] s (doActivate s) := by
  unfold doActivate
  extract_lets -merge x0 x1
  have hx0 : Keeps [.nextId, .out, .fns, .works, .chans, .stats, .pvStats, .corpora, .ranges, .tier, .upd, .scan, .flash, .fab, .comp, .qos] s x0 := by
    unfold x0
    exact (applyEntries_keeps ..).mono rfl
  clear_value x0
  refine Keeps.ite ?_ ?_
  · refine Keeps.after ?_ (reloadShares_keeps ..) rfl
    refine Keeps.after ?_ (pumpMapHeld_keeps ..) rfl
    refine Keeps.after ?_ (drainStep_keeps ..) rfl
    exact Keeps.after (by assumption) (nodeEvent_keeps ..) rfl
  · exact Keeps.refl _ _

theorem doSuspend_keeps (a0 s) : Keeps [.out, .fns, .works, .chans, .fab, .comp] s (doSuspend a0 s) := by
  unfold doSuspend
  extract_lets -merge x0
  refine Keeps.ite ?_ ?_
  · exact (propose_keeps ..).mono rfl
  · exact Keeps.refl _ _

theorem doResume_keeps (s) : Keeps [.out, .fns, .works, .chans, .fab, .comp] s (doResume s) := by
  unfold doResume
  refine Keeps.ite ?_ ?_
  · exact (propose_keeps ..).mono rfl
  · exact Keeps.refl _ _

theorem doCatchUp_keeps (a0 a1 a2 s) : Keeps [.nextId, .out, .fns, .works, .chans, .corpora, .ranges, .upd, .flash, .fab, .comp] s (doCatchUp a0 a1 a2 s) := by
  unfold doCatchUp
  extract_lets -merge x0 x1 x2
  have hx1 : Keeps [.nextId, .out, .fns, .works, .chans, .corpora, .ranges, .upd, .flash, .fab, .comp] s x1 := by
    unfold x1
    refine Keeps.foldl ?_ (fun t3 z4 => ?_)
    · exact (noteSplit_keeps ..).mono rfl
    · refine KeepsO.getD ?_ ?_
      · refine KeepsO.after ?_ (placeVer_keeps ..) rfl
        exact Keeps.refl _ _
      · exact Keeps.refl _ _
  have hx2 : Keeps [.nextId, .out, .fns, .works, .chans, .corpora, .ranges, .upd, .flash, .fab, .comp] s x2 := by
    unfold x2
    exact Keeps.after (by assumption) (modCorpus_keeps ..) rfl
  clear_value x1 x2
  refine Keeps.ite ?_ ?_
  · refine Keeps.foldl ?_ (fun t5 z6 => ?_)
    · assumption
    · exact (propose_keeps ..).mono rfl
  · exact Keeps.refl _ _

theorem doRejoinLimit_keeps (a0 s) : Keeps [.out, .fns, .works, .chans, .fab, .comp] s (doRejoinLimit a0 s) := by
  unfold doRejoinLimit
  split
  · refine Keeps.ite ?_ ?_
    · exact (keeperLog_keeps ..).mono rfl
    · exact Keeps.refl _ _
  · exact Keeps.refl _ _

theorem doJoinCheck_keeps (a0 a1 s) : Keeps [.out, .fns, .works, .chans, .fab, .comp] s (doJoinCheck a0 a1 s) := by
  unfold doJoinCheck
  extract_lets -merge x0 x1
  refine Keeps.ite ?_ ?_
  · refine Keeps.ite ?_ ?_
    · refine Keeps.after ?_ (upd_comp _ ?_) rfl
      · exact Keeps.refl _ _
      · rfl
    · refine Keeps.after ?_ (propose_keeps ..) rfl
      refine Keeps.after ?_ (upd_comp _ ?_) rfl
      · exact Keeps.refl _ _
      · rfl
  · exact Keeps.refl _ _

theorem demoteTo_keeps (p share n s) : Keeps [.nextId, .out, .fns, .stats, .pvStats, .ranges, .tier, .scan, .flash, .qos] s (demoteTo p share n s).2 := by
  induction n generalizing s with
  | zero => exact Keeps.refl _ _
  | succ n ih =>
    unfold demoteTo
    extract_lets -merge x0 x1
    refine Keeps.ite2 ?_ ?_
    · refine Keeps.mk2 ?_
      exact Keeps.refl _ _
    · refine Keeps.ite2 ?_ ?_
      · refine Keeps.mk2 ?_
        exact Keeps.refl _ _
      · split
        · rename_i y2 y3 y4 y5
          have ky4 : Keeps [.nextId, .out, .fns, .stats, .pvStats, .ranges, .tier, .scan, .flash, .qos] s y4 := by
            refine Keeps.of2 y5 ?_
            exact (demoteFirst_keeps ..).mono rfl
          refine Keeps.ite2 ?_ ?_
          · refine Keeps.mk2 ?_
            assumption
          · refine Keeps.mk2 ?_
            assumption
        · rename_i y6 y7 y8 y9 y10
          have ky8 : Keeps [.nextId, .out, .fns, .stats, .pvStats, .ranges, .tier, .scan, .flash, .qos] s y8 := by
            refine Keeps.of2 y10 ?_
            exact (demoteFirst_keeps ..).mono rfl
          exact Keeps.after (by assumption) (ih ..) rfl

theorem evacuate_keeps (a0 s) : Keeps [.nextId, .out, .fns, .stats, .pvStats, .ranges, .tier, .scan, .flash, .comp, .qos] s (evacuate a0 s).2 := by
  unfold evacuate
  extract_lets -merge x0 x1 x2
  have hx1 : Keeps [.nextId, .out, .fns, .stats, .pvStats, .ranges, .tier, .scan, .flash, .comp, .qos] s x1 := by
    unfold x1
    refine Keeps.after ?_ (upd_comp _ ?_) rfl
    · exact Keeps.refl _ _
    · rfl
  clear_value x1
  refine Keeps.ite2 ?_ ?_
  · exact (demoteTo_keeps ..).mono rfl
  · refine Keeps.mk2 ?_
    exact Keeps.refl _ _

theorem hostPropose_keeps (a0 s) : Keeps [.out, .fns, .works, .chans, .fab, .comp] s (hostPropose a0 s) := by
  unfold hostPropose
  exact (propose_keeps ..).mono rfl

theorem doSlices_keeps (a0 s) : Keeps [.nextId, .out, .fns, .works, .chans, .stats, .pvStats, .ranges, .tier, .scan, .flash, .fab, .comp, .qos] s (doSlices a0 s) := by
  unfold doSlices
  unfold mapPropose
  extract_lets -merge x0
  refine Keeps.ite ?_ ?_
  · unfold groundsBlock
    extract_lets -merge x1
    have hx1 : Keeps [.nextId, .out, .fns, .works, .chans, .stats, .pvStats, .ranges, .tier, .scan, .flash, .fab, .comp, .qos] s x1 := by
      unfold x1
      exact (readBlock_keeps ..).mono rfl
    clear_value x1
    refine Keeps.ite ?_ ?_
    · refine Keeps.ite ?_ ?_
      · exact (chanAck_keeps ..).mono rfl
      · split
        · exact Keeps.after (by assumption) (chanAck_keeps ..) rfl
        · beta_reduce
          extract_lets -merge x7 x8 x9
          refine Keeps.ite ?_ ?_
          · exact Keeps.after (by assumption) (chanAck_keeps ..) rfl
          · refine Keeps.ite ?_ ?_
            · exact Keeps.after (by assumption) (chanAck_keeps ..) rfl
            · refine Keeps.ite ?_ ?_
              · refine Keeps.after ?_ (chanAck_keeps ..) rfl
                exact Keeps.after (by assumption) (modChan_keeps ..) rfl
              · refine Keeps.ite ?_ ?_
                · split
                  · rename_i y10 y11 y12
                    have ky11 : Keeps [.nextId, .out, .fns, .works, .chans, .stats, .pvStats, .ranges, .tier, .scan, .flash, .fab, .comp, .qos] s y11 := by
                      refine Keeps.of2 y12 ?_
                      refine Keeps.after ?_ (evacuate_keeps ..) rfl
                      exact Keeps.after (by assumption) (modChan_keeps ..) rfl
                    exact Keeps.after (by assumption) (hostPropose_keeps ..) rfl
                  · rename_i y13 y14 y15
                    have ky14 : Keeps [.nextId, .out, .fns, .works, .chans, .stats, .pvStats, .ranges, .tier, .scan, .flash, .fab, .comp, .qos] s y14 := by
                      refine Keeps.of2 y15 ?_
                      refine Keeps.after ?_ (evacuate_keeps ..) rfl
                      exact Keeps.after (by assumption) (modChan_keeps ..) rfl
                    exact Keeps.after (by assumption) (modChan_keeps ..) rfl
                  · rename_i y16 y17 y18 y19
                    have ky18 : Keeps [.nextId, .out, .fns, .works, .chans, .stats, .pvStats, .ranges, .tier, .scan, .flash, .fab, .comp, .qos] s y18 := by
                      refine Keeps.of2 y19 ?_
                      refine Keeps.after ?_ (evacuate_keeps ..) rfl
                      exact Keeps.after (by assumption) (modChan_keeps ..) rfl
                    exact Keeps.after (by assumption) (chanAck_keeps ..) rfl
                · refine Keeps.after ?_ (hostPropose_keeps ..) rfl
                  exact Keeps.after (by assumption) (modChan_keeps ..) rfl
    · exact Keeps.refl _ _
  · exact Keeps.refl _ _

theorem doPlotAssign_keeps (a0 s) : Keeps [.out, .fns, .works, .chans, .fab, .comp] s (doPlotAssign a0 s) := by
  unfold doPlotAssign
  unfold mapPropose
  extract_lets -merge x0
  refine Keeps.ite ?_ ?_
  · unfold groundsBlock
    extract_lets -merge x1
    have hx1 : Keeps [.out, .fns, .works, .chans, .fab, .comp] s x1 := by
      unfold x1
      exact (readBlock_keeps ..).mono rfl
    clear_value x1
    refine Keeps.ite ?_ ?_
    · refine Keeps.ite ?_ ?_
      · exact (chanAck_keeps ..).mono rfl
      · split
        · exact Keeps.after (by assumption) (chanAck_keeps ..) rfl
        · beta_reduce
          extract_lets -merge x7
          refine Keeps.ite ?_ ?_
          · exact Keeps.after (by assumption) (chanAck_keeps ..) rfl
          · refine Keeps.ite ?_ ?_
            · exact Keeps.after (by assumption) (chanAck_keeps ..) rfl
            · refine Keeps.ite ?_ ?_
              · refine Keeps.after ?_ (chanAck_keeps ..) rfl
                exact Keeps.after (by assumption) (modChan_keeps ..) rfl
              · refine Keeps.after ?_ (hostPropose_keeps ..) rfl
                exact Keeps.after (by assumption) (modChan_keeps ..) rfl
    · exact Keeps.refl _ _
  · exact Keeps.refl _ _

theorem doMoveBegin_keeps (a0 s) : Keeps [.out, .fns, .works, .chans, .fab, .comp] s (doMoveBegin a0 s) := by
  unfold doMoveBegin
  unfold mapPropose
  extract_lets -merge x0
  refine Keeps.ite ?_ ?_
  · unfold groundsBlock
    extract_lets -merge x1
    have hx1 : Keeps [.out, .fns, .works, .chans, .fab, .comp] s x1 := by
      unfold x1
      exact (readBlock_keeps ..).mono rfl
    clear_value x1
    refine Keeps.ite ?_ ?_
    · refine Keeps.ite ?_ ?_
      · exact (chanAck_keeps ..).mono rfl
      · split
        · exact Keeps.after (by assumption) (chanAck_keeps ..) rfl
        · beta_reduce
          refine Keeps.ite ?_ ?_
          · exact Keeps.after (by assumption) (chanAck_keeps ..) rfl
          · refine Keeps.ite ?_ ?_
            · exact Keeps.after (by assumption) (chanAck_keeps ..) rfl
            · refine Keeps.ite ?_ ?_
              · refine Keeps.after ?_ (chanAck_keeps ..) rfl
                exact Keeps.after (by assumption) (modChan_keeps ..) rfl
              · refine Keeps.after ?_ (hostPropose_keeps ..) rfl
                exact Keeps.after (by assumption) (modChan_keeps ..) rfl
    · exact Keeps.refl _ _
  · exact Keeps.refl _ _

theorem doMemberAdd_keeps (a0 s) : Keeps [.out, .fns, .works, .chans, .fab, .comp] s (doMemberAdd a0 s) := by
  unfold doMemberAdd
  unfold mapPropose
  extract_lets -merge x0
  refine Keeps.ite ?_ ?_
  · unfold groundsBlock
    extract_lets -merge x1
    have hx1 : Keeps [.out, .fns, .works, .chans, .fab, .comp] s x1 := by
      unfold x1
      exact (readBlock_keeps ..).mono rfl
    clear_value x1
    refine Keeps.ite ?_ ?_
    · refine Keeps.ite ?_ ?_
      · exact (chanAck_keeps ..).mono rfl
      · split
        · exact Keeps.after (by assumption) (chanAck_keeps ..) rfl
        · beta_reduce
          refine Keeps.ite ?_ ?_
          · exact Keeps.after (by assumption) (chanAck_keeps ..) rfl
          · refine Keeps.ite ?_ ?_
            · exact Keeps.after (by assumption) (chanAck_keeps ..) rfl
            · refine Keeps.after ?_ (hostPropose_keeps ..) rfl
              exact Keeps.after (by assumption) (modChan_keeps ..) rfl
    · exact Keeps.refl _ _
  · exact Keeps.refl _ _

theorem doDrainNode_keeps (a0 s) : Keeps [.out, .fns, .works, .chans, .fab, .comp] s (doDrainNode a0 s) := by
  unfold doDrainNode
  unfold mapPropose
  extract_lets -merge x0
  refine Keeps.ite ?_ ?_
  · unfold groundsBlock
    extract_lets -merge x1
    have hx1 : Keeps [.out, .fns, .works, .chans, .fab, .comp] s x1 := by
      unfold x1
      exact (readBlock_keeps ..).mono rfl
    clear_value x1
    refine Keeps.ite ?_ ?_
    · refine Keeps.ite ?_ ?_
      · exact (chanAck_keeps ..).mono rfl
      · split
        · exact Keeps.after (by assumption) (chanAck_keeps ..) rfl
        · beta_reduce
          refine Keeps.ite ?_ ?_
          · exact Keeps.after (by assumption) (chanAck_keeps ..) rfl
          · refine Keeps.ite ?_ ?_
            · exact Keeps.after (by assumption) (chanAck_keeps ..) rfl
            · refine Keeps.after ?_ (hostPropose_keeps ..) rfl
              exact Keeps.after (by assumption) (modChan_keeps ..) rfl
    · exact Keeps.refl _ _
  · exact Keeps.refl _ _

theorem doRole_keeps (a0 s) : Keeps [.out, .fns, .works, .chans, .fab, .comp] s (doRole a0 s) := by
  unfold doRole
  unfold mapPropose
  extract_lets -merge x0
  refine Keeps.ite ?_ ?_
  · unfold groundsBlock
    extract_lets -merge x1
    have hx1 : Keeps [.out, .fns, .works, .chans, .fab, .comp] s x1 := by
      unfold x1
      exact (readBlock_keeps ..).mono rfl
    clear_value x1
    refine Keeps.ite ?_ ?_
    · refine Keeps.ite ?_ ?_
      · exact (chanAck_keeps ..).mono rfl
      · split
        · exact Keeps.after (by assumption) (chanAck_keeps ..) rfl
        · beta_reduce
          refine Keeps.ite ?_ ?_
          · exact Keeps.after (by assumption) (chanAck_keeps ..) rfl
          · refine Keeps.ite ?_ ?_
            · exact Keeps.after (by assumption) (chanAck_keeps ..) rfl
            · refine Keeps.ite ?_ ?_
              · refine Keeps.after ?_ (chanAck_keeps ..) rfl
                exact Keeps.after (by assumption) (modChan_keeps ..) rfl
              · refine Keeps.after ?_ (hostPropose_keeps ..) rfl
                exact Keeps.after (by assumption) (modChan_keeps ..) rfl
    · exact Keeps.refl _ _
  · exact Keeps.refl _ _

theorem doKeepers_keeps (a0 s) : Keeps [.out, .fns, .works, .chans, .fab, .comp] s (doKeepers a0 s) := by
  unfold doKeepers
  unfold mapPropose
  extract_lets -merge x0
  refine Keeps.ite ?_ ?_
  · unfold groundsBlock
    extract_lets -merge x1
    have hx1 : Keeps [.out, .fns, .works, .chans, .fab, .comp] s x1 := by
      unfold x1
      exact (readBlock_keeps ..).mono rfl
    clear_value x1
    refine Keeps.ite ?_ ?_
    · refine Keeps.ite ?_ ?_
      · exact (chanAck_keeps ..).mono rfl
      · split
        · exact Keeps.after (by assumption) (chanAck_keeps ..) rfl
        · beta_reduce
          extract_lets -merge x7
          refine Keeps.ite ?_ ?_
          · exact Keeps.after (by assumption) (chanAck_keeps ..) rfl
          · refine Keeps.ite ?_ ?_
            · exact Keeps.after (by assumption) (chanAck_keeps ..) rfl
            · refine Keeps.ite ?_ ?_
              · refine Keeps.after ?_ (chanAck_keeps ..) rfl
                exact Keeps.after (by assumption) (modChan_keeps ..) rfl
              · refine Keeps.after ?_ (hostPropose_keeps ..) rfl
                exact Keeps.after (by assumption) (modChan_keeps ..) rfl
    · exact Keeps.refl _ _
  · exact Keeps.refl _ _

theorem doRsTransfers_keeps (a0 a1 a2 a3 s) : Keeps [.nextId, .out, .corpora, .ranges, .flash, .comp] s (doRsTransfers a0 a1 a2 a3 s) := by
  unfold doRsTransfers
  refine Keeps.ite ?_ ?_
  · refine Keeps.after ?_ (doRsDone_keeps ..) rfl
    refine Keeps.foldl ?_ (fun t0 z1 => ?_)
    · exact Keeps.refl _ _
    · refine KeepsO.getD ?_ ?_
      · refine KeepsO.after ?_ (placeVer_keeps ..) rfl
        exact Keeps.refl _ _
      · exact Keeps.refl _ _
  · exact Keeps.refl _ _

end Sys2Proof.Machine
end

