-- ==== Sys2Proof/Laws/KeepsPromenade.lean ====
section
/-! SUPPORT. What each operation of Machine/Promenade.lean leaves alone. -/

namespace Sys2Proof.Machine

theorem modModule_keeps (a0 a1 a2 s) : Keeps [.mods] s (modModule a0 a1 a2 s) := by
  unfold modModule
  exact (upd_mods _).mono rfl

theorem noteRetries_keeps (s a1) : Keeps [.mods, .stats, .pvStats] s (noteRetries s a1) := by
  unfold noteRetries
  refine Keeps.after ?_ (count_keeps ..) rfl
  exact (modModule_keeps ..).mono rfl

theorem clearRetries_keeps (s) : Keeps [.mods] s (clearRetries s) := by
  unfold clearRetries
  exact (upd_mods _).mono rfl

theorem connDown_keeps (a0 a1 s) : Keeps [.nextId, .out, .fns, .works, .stats, .pvStats, .corpora, .scan, .fab, .comp, .qos] s (connDown a0 a1 s) := by
  unfold connDown
  extract_lets -merge x0 x1
  refine Keeps.ite ?_ ?_
  · refine Keeps.after ?_ (count_keeps ..) rfl
    exact (leaveDie_keeps ..).mono rfl
  · refine Keeps.after ?_ (count_keeps ..) rfl
    exact (breakWork_keeps ..).mono rfl

theorem doRetrain_keeps (a0 a1 a2 a3 a4 s) : Keeps [.nextId, .out, .fns, .works, .mods, .stats, .pvStats, .corpora, .scan, .fab, .comp, .qos] s (doRetrain a0 a1 a2 a3 a4 s) := by
  unfold doRetrain
  extract_lets -merge x0
  have hx0 : Keeps [.nextId, .out, .fns, .works, .mods, .stats, .pvStats, .corpora, .scan, .fab, .comp, .qos] s x0 := by
    unfold x0
    refine Keeps.after ?_ (count_keeps ..) rfl
    exact (modModule_keeps ..).mono rfl
  clear_value x0
  refine Keeps.ite ?_ ?_
  · refine Keeps.ite ?_ ?_
    · assumption
    · exact Keeps.after (by assumption) (connDown_keeps ..) rfl
  · exact Keeps.refl _ _

theorem doRetrained_keeps (a0 a1 s) : Keeps [.mods] s (doRetrained a0 a1 s) := by
  unfold doRetrained
  exact (modModule_keeps ..).mono rfl

end Sys2Proof.Machine
end

