-- ==== Sys2Proof/Laws/KeepsResets.lean ====
section
/-! SUPPORT. What each operation of Machine/Resets.lean leaves alone. -/

namespace Sys2Proof.Machine

theorem cutChan_keeps (a0 s) : Keeps [.chans, .comp] s (cutChan a0 s) := by
  unfold cutChan
  extract_lets -merge x0 x1
  have hx0 : Keeps [.chans, .comp] s x0 := by
    unfold x0
    exact (modChan_keeps ..).mono rfl
  clear_value x0
  refine Keeps.after ?_ (upd_comp _ ?_) rfl
  · assumption
  · rfl

theorem stopCopies_keeps (a0 s) : Keeps [.fab] s (stopCopies a0 s) := by
  unfold stopCopies
  extract_lets -merge x0 x1
  refine Keeps.after ?_ (modFab_keeps _ _ ?_) rfl
  · exact Keeps.refl _ _
  · rfl

theorem dropWorks_keeps (a0 s) : Keeps [.works, .fab] s (dropWorks a0 s) := by
  unfold dropWorks
  extract_lets -merge x0
  have hx0 : Keeps [.works, .fab] s x0 := by
    unfold x0
    exact (stopCopies_keeps ..).mono rfl
  clear_value x0
  exact Keeps.after (by assumption) (upd_works _) rfl

theorem resetPf0_keeps (s) : Keeps [.fns, .works, .chans, .rx, .fab, .comp] s (resetPf0 s) := by
  unfold resetPf0
  extract_lets -merge x0 x1 x2
  have hx0 : Keeps [.fns, .works, .chans, .rx, .fab, .comp] s x0 := by
    unfold x0
    refine Keeps.after ?_ (modFn_keeps ..) rfl
    exact (dropWorks_keeps ..).mono rfl
  have hx1 : Keeps [.fns, .works, .chans, .rx, .fab, .comp] s x1 := by
    unfold x1
    refine Keeps.after ?_ (cutChan_keeps ..) rfl
    exact Keeps.after (by assumption) (cutChan_keeps ..) rfl
  clear_value x0 x1
  exact Keeps.after (by assumption) (upd_rx _) rfl

theorem endQueries_keeps (a0 s) : Keeps [.out, .stats, .pvStats, .scan, .fab, .qos] s (endQueries a0 s) := by
  unfold endQueries
  refine Keeps.foldl ?_ (fun t0 z1 => ?_)
  · exact Keeps.refl _ _
  · extract_lets -merge x2
    have hx2 : Keeps [.out, .stats, .pvStats, .scan, .fab, .qos] t0 x2 := by
      unfold x2
      exact (dropQuery_keeps ..).mono rfl
    clear_value x2
    split
    · refine Keeps.ite ?_ ?_
      · assumption
      · exact Keeps.after (by assumption) (refuseFan_keeps ..) rfl
    · assumption

theorem cutBatch_keeps (a0 s) : Keeps [.corpora, .upd, .comp] s (cutBatch a0 s) := by
  unfold cutBatch
  extract_lets -merge x0 x1 x2
  have hx0 : ∀ a3, Keeps [.corpora, .upd, .comp] a3 (x0 a3) := by
    intro a3
    unfold x0
    refine Keeps.after ?_ (modUpd_keeps _ _ ?_) rfl
    · exact Keeps.refl _ _
    · rfl
  have hx1 : Keeps [.corpora, .upd, .comp] s x1 := by
    unfold x1
    refine Keeps.then_ ?_ (hx0 ..)
    refine Keeps.foldl ?_ (fun t4 z5 => ?_)
    · exact Keeps.refl _ _
    · exact (withdraw_keeps ..).mono rfl
  clear_value x0 x1
  split
  · refine Keeps.then_ ?_ (hx0 ..)
    exact Keeps.refl _ _
  · refine Keeps.then_ ?_ (hx0 ..)
    refine Keeps.foldl ?_ (fun t10 z11 => ?_)
    · exact Keeps.refl _ _
    · exact (dropElem_keeps ..).mono rfl
  · refine Keeps.ite ?_ ?_
    · refine Keeps.after ?_ (upd_comp _ ?_) rfl
      · assumption
      · rfl
    · exact Keeps.refl _ _

theorem resetPv_keeps (a0 s) : Keeps [.out, .fns, .works, .chans, .stats, .pvStats, .corpora, .ranges, .upd, .scan, .fab, .comp, .qos] s (resetPv a0 s) := by
  unfold resetPv
  extract_lets -merge x0 x1 x2 x3 x4 x5 x6 x7
  have hx1 : Keeps [.out, .fns, .works, .chans, .stats, .pvStats, .corpora, .ranges, .upd, .scan, .fab, .comp, .qos] s x1 := by
    unfold x1
    refine Keeps.after ?_ (endQueries_keeps ..) rfl
    exact (dropWorks_keeps ..).mono rfl
  have hx2 : Keeps [.out, .fns, .works, .chans, .stats, .pvStats, .corpora, .ranges, .upd, .scan, .fab, .comp, .qos] s x2 := by
    unfold x2
    refine Keeps.foldl ?_ (fun t8 z9 => ?_)
    · assumption
    · exact (cutBatch_keeps ..).mono rfl
  have hx3 : Keeps [.out, .fns, .works, .chans, .stats, .pvStats, .corpora, .ranges, .upd, .scan, .fab, .comp, .qos] s x3 := by
    unfold x3
    refine Keeps.foldl ?_ (fun t10 z11 => ?_)
    · assumption
    · exact (dropWindow_keeps ..).mono rfl
  have hx4 : Keeps [.out, .fns, .works, .chans, .stats, .pvStats, .corpora, .ranges, .upd, .scan, .fab, .comp, .qos] s x4 := by
    unfold x4
    refine Keeps.after ?_ (modFab_keeps _ _ ?_) rfl
    · assumption
    · rfl
  have hx5 : Keeps [.out, .fns, .works, .chans, .stats, .pvStats, .corpora, .ranges, .upd, .scan, .fab, .comp, .qos] s x5 := by
    unfold x5
    refine Keeps.after ?_ (freeElems_keeps ..) rfl
    refine Keeps.after ?_ (modCorpus_keeps ..) rfl
    exact Keeps.after (by assumption) (modRange_keeps ..) rfl
  have hx6 : Keeps [.out, .fns, .works, .chans, .stats, .pvStats, .corpora, .ranges, .upd, .scan, .fab, .comp, .qos] s x6 := by
    unfold x6
    refine Keeps.after ?_ (cutChan_keeps ..) rfl
    exact Keeps.after (by assumption) (modFn_keeps ..) rfl
  clear_value x1 x2 x3 x4 x5 x6
  refine Keeps.ite ?_ ?_
  · exact Keeps.refl _ _
  · exact Keeps.after (by assumption) (upd_qos _) rfl

theorem doFlr_keeps (a0 s) : Keeps [.out, .fns, .works, .chans, .stats, .pvStats, .corpora, .ranges, .upd, .scan, .fab, .comp, .qos] s (doFlr a0 s) := by
  unfold doFlr
  refine Keeps.ite ?_ ?_
  · exact (resetPv_keeps ..).mono rfl
  · exact Keeps.refl _ _

theorem doFlr0_keeps (s) : Keeps [.fns, .works, .chans, .rx, .fab, .comp] s (doFlr0 s) := by
  unfold doFlr0
  refine Keeps.ite ?_ ?_
  · exact (resetPf0_keeps ..).mono rfl
  · exact Keeps.refl _ _

theorem resetAll_keeps (s) : Keeps [.out, .fns, .works, .chans, .rx, .stats, .pvStats, .corpora, .ranges, .upd, .scan, .fab, .comp, .qos] s (resetAll s) := by
  unfold resetAll
  refine Keeps.foldl ?_ (fun t0 z1 => ?_)
  · exact (resetPf0_keeps ..).mono rfl
  · refine Keeps.ite ?_ ?_
    · exact (resetPv_keeps ..).mono rfl
    · exact Keeps.refl _ _

theorem doHot_keeps (s) : Keeps [.out, .fns, .works, .chans, .rx, .side, .stats, .pvStats, .corpora, .ranges, .upd, .scan, .fab, .comp, .qos] s (doHot s) := by
  unfold doHot
  extract_lets -merge x0 x1
  have hx0 : Keeps [.out, .fns, .works, .chans, .rx, .side, .stats, .pvStats, .corpora, .ranges, .upd, .scan, .fab, .comp, .qos] s x0 := by
    unfold x0
    exact (resetAll_keeps ..).mono rfl
  clear_value x0
  refine Keeps.ite ?_ ?_
  · refine Keeps.after ?_ (upd_side _ ?_) rfl
    · assumption
    · rfl
  · exact Keeps.refl _ _

theorem doPcieLoss_keeps (s) : Keeps [.out, .fns, .works, .chans, .rx, .side, .stats, .pvStats, .corpora, .ranges, .upd, .scan, .fab, .comp, .qos] s (doPcieLoss s) := by
  unfold doPcieLoss
  extract_lets -merge x0 x1
  have hx0 : Keeps [.out, .fns, .works, .chans, .rx, .side, .stats, .pvStats, .corpora, .ranges, .upd, .scan, .fab, .comp, .qos] s x0 := by
    unfold x0
    exact (resetAll_keeps ..).mono rfl
  clear_value x0
  refine Keeps.ite ?_ ?_
  · refine Keeps.after ?_ (upd_side _ ?_) rfl
    · assumption
    · rfl
  · exact Keeps.refl _ _

theorem doVfClear_keeps (s) : Keeps [.out, .fns, .works, .chans, .stats, .pvStats, .corpora, .ranges, .upd, .scan, .fab, .comp, .qos] s (doVfClear s) := by
  unfold doVfClear
  extract_lets -merge x0
  have hx0 : Keeps [.out, .fns, .works, .chans, .stats, .pvStats, .corpora, .ranges, .upd, .scan, .fab, .comp, .qos] s x0 := by
    unfold x0
    refine Keeps.foldl ?_ (fun t1 z2 => ?_)
    · exact Keeps.refl _ _
    · refine Keeps.ite ?_ ?_
      · exact (resetPv_keeps ..).mono rfl
      · exact Keeps.refl _ _
  clear_value x0
  refine Keeps.ite ?_ ?_
  · exact Keeps.after (by assumption) (upd_fns _) rfl
  · exact Keeps.refl _ _

theorem doResetDone_keeps (a0 s) : Keeps [.qos] s (doResetDone a0 s) := by
  unfold doResetDone
  extract_lets -merge x0
  exact (upd_qos _).mono rfl

end Sys2Proof.Machine
end

