-- ==== Sys2Proof/Laws/KeepsSideband.lean ====
section
/-! SUPPORT. What each operation of Machine/Sideband.lean leaves alone. -/

namespace Sys2Proof.Machine

theorem smbRead_keeps (a0 s) : Keeps [.out] s (smbRead a0 s) := by
  unfold smbRead
  refine Keeps.ite ?_ ?_
  · exact Keeps.refl _ _
  · exact (emit_keeps ..).mono rfl

theorem mctp_keeps (a0 s) : Keeps [.out] s (mctp a0 s) := by
  unfold mctp
  refine Keeps.ite ?_ ?_
  · exact (emit_keeps ..).mono rfl
  · exact Keeps.refl _ _

theorem doPldm_keeps (a0 s) : Keeps [.out, .side] s (doPldm a0 s) := by
  unfold doPldm
  refine Keeps.ite ?_ ?_
  · refine Keeps.ite ?_ ?_
    · exact (emit_keeps ..).mono rfl
    · refine Keeps.ite ?_ ?_
      · split
        · extract_lets -merge x3
          refine Keeps.after ?_ (emit_keeps ..) rfl
          refine Keeps.after ?_ (upd_side _ ?_) rfl
          · exact Keeps.refl _ _
          · rfl
        · split
          · exact (emit_keeps ..).mono rfl
          · exact (emit_keeps ..).mono rfl
      · exact (emit_keeps ..).mono rfl
  · exact Keeps.refl _ _

theorem doPoll_keeps (a0 s) : Keeps [.side] s (doPoll a0 s) := by
  unfold doPoll
  extract_lets -merge x0 x1 x2 x3 x4
  refine Keeps.ite ?_ ?_
  · refine Keeps.after ?_ (upd_side _ ?_) rfl
    · exact Keeps.refl _ _
    · rfl
  · exact Keeps.refl _ _

theorem doUart_keeps (a0 a1 a2 s) : Keeps [.out] s (doUart a0 a1 a2 s) := by
  unfold doUart
  refine Keeps.ite ?_ ?_
  · exact (emit_keeps ..).mono rfl
  · exact Keeps.refl _ _

theorem doJtag_keeps (a0 s) : Keeps [.out] s (doJtag a0 s) := by
  unfold doJtag
  refine Keeps.ite ?_ ?_
  · exact (emit_keeps ..).mono rfl
  · exact Keeps.refl _ _

theorem writeGpio_keeps (a0 a1 s) : Keeps [.side] s (writeGpio a0 a1 s) := by
  unfold writeGpio
  extract_lets -merge x0 x1
  refine Keeps.ite ?_ ?_
  · refine Keeps.after ?_ (upd_side _ ?_) rfl
    · exact Keeps.refl _ _
    · split <;> rfl
  · exact Keeps.refl _ _

theorem writePmb_keeps (a0 s) : Keeps [.side, .words] s (writePmb a0 s) := by
  unfold writePmb
  extract_lets -merge x0 x1 x2 x3
  refine Keeps.ite ?_ ?_
  · refine Keeps.ite ?_ ?_
    · exact (touch_side _).mono rfl
    · refine Keeps.after ?_ (upd_side _ ?_) rfl
      · exact Keeps.refl _ _
      · rfl
  · exact Keeps.refl _ _

end Sys2Proof.Machine
end

