-- ==== Sys2Proof/Laws/KeepsRegisters.lean ====
section
/-! SUPPORT. What each operation of Machine/Registers.lean leaves alone. -/

namespace Sys2Proof.Machine

theorem samplePins_keeps (s) : Keeps [.free, .side] s (samplePins s) := by
  unfold samplePins
  split
  · rename_i y0 y1 y2 y3
    have ky2 : Keeps [.free, .side] s y2 := by
      refine Keeps.of2 y3 ?_
      exact (draw_keeps ..).mono rfl
    extract_lets -merge x4
    refine Keeps.after ?_ (upd_side _ ?_) rfl
    · assumption
    · rfl

theorem doBarRead_keeps (a0 a1 s) : Keeps [.free, .out, .fns, .side] s (doBarRead a0 a1 s) := by
  unfold doBarRead
  extract_lets -merge x0
  have hx0 : Keeps [.free, .out, .fns, .side] s x0 := by
    unfold x0
    refine Keeps.ite ?_ ?_
    · exact (samplePins_keeps ..).mono rfl
    · exact Keeps.refl _ _
  clear_value x0
  refine Keeps.ite ?_ ?_
  · exact Keeps.refl _ _
  · refine Keeps.ite ?_ ?_
    · exact (emit_keeps ..).mono rfl
    · refine Keeps.after ?_ (modFn_keeps ..) rfl
      exact Keeps.after (by assumption) (emit_keeps ..) rfl

theorem writePermit_keeps (a0 s) : Keeps [.scan, .words] s (writePermit a0 s) := by
  unfold writePermit
  extract_lets -merge x0 x1
  refine Keeps.ite ?_ ?_
  · refine Keeps.ite ?_ ?_
    · exact (touch_scan _).mono rfl
    · refine Keeps.after ?_ (upd_scan _ ?_) rfl
      · exact Keeps.refl _ _
      · rfl
  · exact Keeps.refl _ _

theorem writeScan_keeps (a0 s) : Keeps [.scan, .words] s (writeScan a0 s) := by
  unfold writeScan
  extract_lets -merge x0 x1
  refine Keeps.ite ?_ ?_
  · refine Keeps.ite ?_ ?_
    · exact (touch_scan _).mono rfl
    · refine Keeps.after ?_ (upd_scan _ ?_) rfl
      · exact Keeps.refl _ _
      · rfl
  · exact Keeps.refl _ _

theorem writeRerank_keeps (a0 s) : Keeps [.scan, .words] s (writeRerank a0 s) := by
  unfold writeRerank
  extract_lets -merge x0 x1
  refine Keeps.ite ?_ ?_
  · refine Keeps.ite ?_ ?_
    · exact (touch_scan _).mono rfl
    · refine Keeps.after ?_ (upd_scan _ ?_) rfl
      · exact Keeps.refl _ _
      · rfl
  · exact Keeps.refl _ _

theorem writeShare_keeps (a0 a1 s) : Keeps [.qos] s (writeShare a0 a1 s) := by
  unfold writeShare
  split
  · exact Keeps.refl _ _
  · extract_lets -merge x5
    refine Keeps.ite ?_ ?_
    · refine Keeps.ite ?_ ?_
      · exact (modQos_keeps ..).mono rfl
      · exact (modQos_keeps ..).mono rfl
    · exact Keeps.refl _ _

theorem clearQosStat_keeps (a0 s) : Keeps [.qos] s (clearQosStat a0 s) := by
  unfold clearQosStat
  exact (modQos_keeps ..).mono rfl

theorem writeOrigin_keeps (a0 a1 s) : Keeps [.clk] s (writeOrigin a0 a1 s) := by
  unfold writeOrigin
  extract_lets -merge x0 x1
  refine Keeps.ite ?_ ?_
  · exact Keeps.refl _ _
  · refine Keeps.after ?_ (upd_clk _ ?_) rfl
    · exact Keeps.refl _ _
    · split <;> rfl

theorem clearFrameStat_keeps (a0 s) : Keeps [.clk] s (clearFrameStat a0 s) := by
  unfold clearFrameStat
  extract_lets -merge x0
  refine Keeps.after ?_ (upd_clk _ ?_) rfl
  · exact Keeps.refl _ _
  · rfl

theorem clearScanStat_keeps (a0 s) : Keeps [.scan] s (clearScanStat a0 s) := by
  unfold clearScanStat
  extract_lets -merge x0
  refine Keeps.after ?_ (upd_scan _ ?_) rfl
  · exact Keeps.refl _ _
  · rfl

theorem clearSelectStat_keeps (a0 s) : Keeps [.scan] s (clearSelectStat a0 s) := by
  unfold clearSelectStat
  extract_lets -merge x0
  refine Keeps.after ?_ (upd_scan _ ?_) rfl
  · exact Keeps.refl _ _
  · rfl

theorem clearTierStat_keeps (a0 s) : Keeps [.tier] s (clearTierStat a0 s) := by
  unfold clearTierStat
  refine Keeps.after ?_ (modTier_keeps _ _ ?_) rfl
  · exact Keeps.refl _ _
  · rfl

theorem clearLodgeStat_keeps (a0 s) : Keeps [.lodge] s (clearLodgeStat a0 s) := by
  unfold clearLodgeStat
  extract_lets -merge x0
  exact (upd_lodge _).mono rfl

theorem clearSbStat_keeps (a0 s) : Keeps [.side] s (clearSbStat a0 s) := by
  unfold clearSbStat
  extract_lets -merge x0
  refine Keeps.after ?_ (upd_side _ ?_) rfl
  · exact Keeps.refl _ _
  · rfl

theorem clearVf_keeps (a0 a1 a2 s) : Keeps [.corpora, .ranges, .qos] s (clearVf a0 a1 a2 s) := by
  unfold clearVf
  split
  · exact (modCorpus_keeps ..).mono rfl
  · exact (modCorpus_keeps ..).mono rfl
  · exact (modRange_keeps ..).mono rfl
  · exact (modQos_keeps ..).mono rfl
  · exact Keeps.refl _ _

theorem clearMbx_keeps (a0 a1 s) : Keeps [.chans] s (clearMbx a0 a1 s) := by
  unfold clearMbx
  exact (modChan_keeps ..).mono rfl

theorem writeMsix_keeps (a0 a1 a2 a3 s) : Keeps [.out, .fns] s (writeMsix a0 a1 a2 a3 s) := by
  unfold writeMsix
  extract_lets -merge x0 x1
  have hx1 : Keeps [.out, .fns] s x1 := by
    unfold x1
    exact (modFn_keeps ..).mono rfl
  clear_value x1
  split
  · exact Keeps.refl _ _
  · refine Keeps.ite ?_ ?_
    · exact Keeps.after (by assumption) (emit_keeps ..) rfl
    · assumption

theorem writeMbx_keeps (a0 a1 a2 s) : Keeps [.out, .fns, .lodge, .chans, .rx] s (writeMbx a0 a1 a2 s) := by
  unfold writeMbx
  extract_lets -merge x0 x1
  refine Keeps.ite ?_ ?_
  · refine Keeps.ite ?_ ?_
    · exact (doMbxAck_keeps ..).mono rfl
    · refine Keeps.ite ?_ ?_
      · exact (doMbxCtl_keeps ..).mono rfl
      · exact Keeps.refl _ _
  · split
    · clear_value x1
      split
      · exact (doMbxLo_keeps ..).mono rfl
      · exact (doMbxPost_keeps ..).mono rfl
      · exact (clearMbx_keeps ..).mono rfl
      · exact (doMbxCtl_keeps ..).mono rfl
      · exact Keeps.refl _ _
    · exact Keeps.refl _ _

theorem writeNode_keeps (a0 a1 s) : Keeps [.out, .fns, .works, .clk, .lodge, .chans, .pwr, .side, .tier, .upd, .scan, .flash, .fab, .comp, .qos, .integ, .words] s (writeNode a0 a1 s) := by
  unfold writeNode
  split
  · exact (touch_clk _).mono rfl
  · exact (writeOrigin_keeps ..).mono rfl
  · exact (writeOrigin_keeps ..).mono rfl
  · exact (clearFrameStat_keeps ..).mono rfl
  · exact (writePermit_keeps ..).mono rfl
  · exact (writeScan_keeps ..).mono rfl
  · exact (clearScanStat_keeps ..).mono rfl
  · exact (writeRerank_keeps ..).mono rfl
  · exact (clearSelectStat_keeps ..).mono rfl
  · exact (writeUpdCfg_keeps ..).mono rfl
  · exact (writeMergeCfg_keeps ..).mono rfl
  · exact (clearUpdStat_keeps ..).mono rfl
  · exact (writeTierCfg_keeps ..).mono rfl
  · exact (clearTierStat_keeps ..).mono rfl
  · exact (writeFlash_keeps ..).mono rfl
  · exact (writeFlash_keeps ..).mono rfl
  · exact (writeFlash_keeps ..).mono rfl
  · exact (writeFlash_keeps ..).mono rfl
  · exact (writePolicy_keeps ..).mono rfl
  · exact (clearQosStat_keeps ..).mono rfl
  · exact (clearLodgeStat_keeps ..).mono rfl
  · exact (writePwr_keeps ..).mono rfl
  · exact (clearPwrStat_keeps ..).mono rfl
  · exact (writePwr_keeps ..).mono rfl
  · exact (clearThermStat_keeps ..).mono rfl
  · exact (writeReset_keeps ..).mono rfl
  · exact (clearResetStat_keeps ..).mono rfl
  · exact (writeGpio_keeps ..).mono rfl
  · exact (writeGpio_keeps ..).mono rfl
  · exact (clearSbStat_keeps ..).mono rfl
  · exact (writePmb_keeps ..).mono rfl
  · refine Keeps.ite ?_ ?_
    · exact (writeFab_keeps ..).mono rfl
    · refine Keeps.ite ?_ ?_
      · exact (writeMap_keeps ..).mono rfl
      · refine Keeps.ite ?_ ?_
        · exact (writeShare_keeps ..).mono rfl
        · refine Keeps.ite ?_ ?_
          · exact (writeInteg_keeps ..).mono rfl
          · exact Keeps.refl _ _

theorem writeVf_keeps (a0 a1 a2 s) : Keeps [.fns, .corpora, .ranges, .qos] s (writeVf a0 a1 a2 s) := by
  unfold writeVf
  split
  · exact (writeCorpus_keeps ..).mono rfl
  · exact (writeCorpus_keeps ..).mono rfl
  · exact (writeCorpus_keeps ..).mono rfl
  · exact (writeClip_keeps ..).mono rfl
  · exact (writeT2_keeps ..).mono rfl
  · exact (writeT2_keeps ..).mono rfl
  · exact (writeT2_keeps ..).mono rfl
  · exact (writeBar2Win_keeps ..).mono rfl
  · exact (clearVf_keeps ..).mono rfl

theorem writeBar0_keeps (a0 a1 a2 s) : Keeps [.out, .fns, .works, .clk, .lodge, .chans, .rx, .pwr, .side, .corpora, .ranges, .tier, .upd, .scan, .flash, .fab, .comp, .qos, .integ, .words] s (writeBar0 a0 a1 a2 s) := by
  unfold writeBar0
  refine Keeps.ite ?_ ?_
  · refine Keeps.ite ?_ ?_
    · exact (writeNode_keeps ..).mono rfl
    · exact (writeVf_keeps ..).mono rfl
  · refine Keeps.ite ?_ ?_
    · exact (writeRing_keeps ..).mono rfl
    · refine Keeps.ite ?_ ?_
      · exact (writeEq_keeps ..).mono rfl
      · refine Keeps.ite ?_ ?_
        · exact (writeMsix_keeps ..).mono rfl
        · refine Keeps.ite ?_ ?_
          · exact (writeMbx_keeps ..).mono rfl
          · refine Keeps.ite ?_ ?_
            · refine Keeps.ite ?_ ?_
              · exact (doRingDb_keeps ..).mono rfl
              · refine Keeps.ite ?_ ?_
                · exact (doRingCqDb_keeps ..).mono rfl
                · exact Keeps.refl _ _
            · refine Keeps.ite ?_ ?_
              · exact (doEqDb_keeps ..).mono rfl
              · exact Keeps.refl _ _

theorem doWrite_keeps (a0 a1 a2 s) : Keeps [.out, .fns, .works, .clk, .lodge, .chans, .rx, .pwr, .side, .corpora, .ranges, .tier, .upd, .scan, .flash, .fab, .comp, .qos, .integ, .words] s (doWrite a0 a1 a2 s) := by
  unfold doWrite
  refine Keeps.ite ?_ ?_
  · exact Keeps.refl _ _
  · refine Keeps.ite ?_ ?_
    · exact (emit_keeps ..).mono rfl
    · exact (writeBar0_keeps ..).mono rfl

end Sys2Proof.Machine
end

