-- ==== Sys2Proof/Laws/KeepsTick.lean ====
section
/-! SUPPORT. What each operation of Machine/Tick.lean leaves alone. -/

namespace Sys2Proof.Machine

theorem regsFrame_keeps (s) : Keeps [.upd, .scan, .integ, .words] s (regsFrame s) := by
  constructor
  intro p hp
  cases p <;> first | rfl | exact absurd hp (by decide)

theorem sharesFrame_keeps (s) : Keeps [.qos] s (sharesFrame s) := by
  unfold sharesFrame
  extract_lets -merge x0
  have hx0 : Keeps [.qos] s x0 := by
    unfold x0
    exact (noteUse_keeps ..).mono rfl
  clear_value x0
  refine Keeps.after ?_ (reloadShares_keeps ..) rfl
  exact Keeps.after (by assumption) (modQos_keeps ..) rfl

theorem timersFrame_keeps (s) : Keeps [.lodge, .chans, .rx] s (timersFrame s) := by
  unfold timersFrame
  extract_lets -merge x0 x1 x2
  exact (upd_lodge_chans_rx _ _ _).mono rfl

theorem logFrame_keeps (s) : Keeps [.comp] s (logFrame s) := by
  unfold logFrame
  extract_lets -merge x0 x1
  refine Keeps.after ?_ (upd_comp _ ?_) rfl
  · exact Keeps.refl _ _
  · rfl

theorem doFrame_keeps (off choice s) : Keeps [.free, .nextId, .out, .phase, .fns, .works, .clk, .dies, .lodge, .chans, .rx, .pwr, .stats, .pvStats, .corpora, .ranges, .tier, .upd, .scan, .flash, .fab, .comp, .qos, .integ, .words] s (doFrame off choice s) := by
  unfold doFrame
  extract_lets f s1 s2 s3 s4 s5 s6 s7 s8 s9 s10 s11
  refine Keeps.ite ?_ (Keeps.refl _ _)
  have h1 : Keeps [.free, .nextId, .out, .phase, .fns, .works, .clk, .dies, .lodge, .chans, .rx, .pwr, .stats, .pvStats, .corpora, .ranges, .tier, .upd, .scan, .flash, .fab, .comp, .qos, .integ, .words] s s1 := (Keeps.refl _ _).after (tickClock_keeps ..) rfl
  clear_value s1
  have h2 : Keeps [.free, .nextId, .out, .phase, .fns, .works, .clk, .dies, .lodge, .chans, .rx, .pwr, .stats, .pvStats, .corpora, .ranges, .tier, .upd, .scan, .flash, .fab, .comp, .qos, .integ, .words] s s2 := h1.after (commitFrame_keeps ..) rfl
  clear_value s2
  have h3 : Keeps [.free, .nextId, .out, .phase, .fns, .works, .clk, .dies, .lodge, .chans, .rx, .pwr, .stats, .pvStats, .corpora, .ranges, .tier, .upd, .scan, .flash, .fab, .comp, .qos, .integ, .words] s s3 := h2.after (regsFrame_keeps ..) rfl
  clear_value s3
  have h4 : Keeps [.free, .nextId, .out, .phase, .fns, .works, .clk, .dies, .lodge, .chans, .rx, .pwr, .stats, .pvStats, .corpora, .ranges, .tier, .upd, .scan, .flash, .fab, .comp, .qos, .integ, .words] s s4 := h3.after (alignFrame_keeps ..) rfl
  clear_value s4
  have h5 : Keeps [.free, .nextId, .out, .phase, .fns, .works, .clk, .dies, .lodge, .chans, .rx, .pwr, .stats, .pvStats, .corpora, .ranges, .tier, .upd, .scan, .flash, .fab, .comp, .qos, .integ, .words] s s5 := Keeps.ite ((h4.after (swapFrame_keeps ..) rfl).after (bistFrame_keeps ..) rfl) h4
  clear_value s5
  have h6 : Keeps [.free, .nextId, .out, .phase, .fns, .works, .clk, .dies, .lodge, .chans, .rx, .pwr, .stats, .pvStats, .corpora, .ranges, .tier, .upd, .scan, .flash, .fab, .comp, .qos, .integ, .words] s s6 := h5.after (sharesFrame_keeps ..) rfl
  clear_value s6
  have h7 : Keeps [.free, .nextId, .out, .phase, .fns, .works, .clk, .dies, .lodge, .chans, .rx, .pwr, .stats, .pvStats, .corpora, .ranges, .tier, .upd, .scan, .flash, .fab, .comp, .qos, .integ, .words] s s7 := Keeps.ite (h6.after (keeperAssign_keeps ..) rfl) h6
  clear_value s7
  have h8 : Keeps [.free, .nextId, .out, .phase, .fns, .works, .clk, .dies, .lodge, .chans, .rx, .pwr, .stats, .pvStats, .corpora, .ranges, .tier, .upd, .scan, .flash, .fab, .comp, .qos, .integ, .words] s s8 := ((h7.after (tierFrame_keeps ..) rfl).after (flashFrame_keeps ..) rfl).after (pfailFrame_keeps ..) rfl
  clear_value s8
  have h9 : Keeps [.free, .nextId, .out, .phase, .fns, .works, .clk, .dies, .lodge, .chans, .rx, .pwr, .stats, .pvStats, .corpora, .ranges, .tier, .upd, .scan, .flash, .fab, .comp, .qos, .integ, .words] s s9 := Keeps.foldl h8 (fun t x => (stepFrame_keeps ..).mono rfl)
  clear_value s9
  have h10 : Keeps [.free, .nextId, .out, .phase, .fns, .works, .clk, .dies, .lodge, .chans, .rx, .pwr, .stats, .pvStats, .corpora, .ranges, .tier, .upd, .scan, .flash, .fab, .comp, .qos, .integ, .words] s s10 := ((h9.after (sendMarks_keeps ..) rfl).after (keeperFrame_keeps ..) rfl).after (fabFrame_keeps ..) rfl
  clear_value s10
  have h11 : Keeps [.free, .nextId, .out, .phase, .fns, .works, .clk, .dies, .lodge, .chans, .rx, .pwr, .stats, .pvStats, .corpora, .ranges, .tier, .upd, .scan, .flash, .fab, .comp, .qos, .integ, .words] s s11 := ((h10.after (statsFrame_keeps ..) rfl).after (timersFrame_keeps ..) rfl).after (logFrame_keeps ..) rfl
  clear_value s11
  exact Keeps.ite (h11.after (scanFrame_keeps ..) rfl) h11

theorem openFrame_keeps (s) : Keeps [.mods, .corpora] s (openFrame s) := by
  unfold openFrame
  refine Keeps.after ?_ (clearRetries_keeps ..) rfl
  exact (upd_corpora _).mono rfl

theorem sampleAll_keeps (a0 s) : Keeps [.pwr] s (sampleAll a0 s) := by
  unfold sampleAll
  refine Keeps.foldl ?_ (fun t0 z1 => ?_)
  · exact Keeps.refl _ _
  · exact (sampleUnit_keeps ..).mono rfl

theorem portsDown_keeps (s) : Keeps [.out, .fns, .fab] s (portsDown s) := by
  unfold portsDown
  refine Keeps.foldl ?_ (fun t0 z1 => ?_)
  · exact Keeps.refl _ _
  · refine Keeps.after ?_ (settlePort_keeps ..) rfl
    exact (modPort_keeps ..).mono rfl

theorem flushSlot_keeps (s) : Keeps [.out, .fns, .pwr, .flash, .fab] s (flushSlot s) := by
  unfold flushSlot
  extract_lets -merge x0
  have hx0 : Keeps [.out, .fns, .pwr, .flash, .fab] s x0 := by
    unfold x0
    exact (flushStart_keeps ..).mono rfl
  clear_value x0
  refine Keeps.ite ?_ ?_
  · exact Keeps.after (by assumption) (portsDown_keeps ..) rfl
  · assumption

theorem workSlot_keeps (a0 s) : Keeps [.nextId, .out, .fns, .works, .stats, .pvStats, .corpora, .ranges, .tier, .scan, .flash, .fab, .comp, .qos, .integ] s (workSlot a0 s) := by
  unfold workSlot
  extract_lets -merge x0
  have hx0 : Keeps [.nextId, .out, .fns, .works, .stats, .pvStats, .corpora, .ranges, .tier, .scan, .flash, .fab, .comp, .qos, .integ] s x0 := by
    unfold x0
    refine Keeps.after ?_ (formAll_keeps ..) rfl
    refine Keeps.after ?_ (scanSlot_keeps ..) rfl
    refine Keeps.after ?_ (integSlot_keeps ..) rfl
    exact (memSlot_keeps ..).mono rfl
  clear_value x0
  refine Keeps.ite ?_ ?_
  · refine Keeps.ite ?_ ?_
    · refine Keeps.after ?_ (flashBatches_keeps ..) rfl
      refine Keeps.foldl ?_ (fun t1 z2 => ?_)
      · assumption
      · exact (openGroup_keeps ..).mono rfl
    · assumption
  · exact Keeps.refl _ _

theorem lodgeFault_keeps (a0 s) : Keeps [.free, .nextId, .out, .phase, .fns, .works, .clk, .dies, .lds, .scs, .sts, .mods, .lodge, .chans, .rx, .pwr, .side, .stats, .pvStats, .corpora, .ranges, .tier, .upd, .scan, .flash, .fab, .comp, .qos, .integ, .words] s (lodgeFault a0 s) := by
  unfold lodgeFault
  split
  · refine Keeps.ite ?_ ?_
    · exact (firmwareDown_keeps ..).mono rfl
    · exact Keeps.refl _ _
  · exact Keeps.refl _ _

theorem doSlot_keeps (a0 s) : Keeps [.free, .nextId, .out, .phase, .fns, .works, .clk, .dies, .lds, .scs, .sts, .mods, .lodge, .chans, .rx, .pwr, .side, .stats, .pvStats, .corpora, .ranges, .tier, .upd, .scan, .flash, .fab, .comp, .qos, .integ, .words] s (doSlot a0 s) := by
  unfold doSlot
  extract_lets -merge x0 x1 x2 x3 x4 x5 x6 x7
  have hx0 : Keeps [.free, .nextId, .out, .phase, .fns, .works, .clk, .dies, .lds, .scs, .sts, .mods, .lodge, .chans, .rx, .pwr, .side, .stats, .pvStats, .corpora, .ranges, .tier, .upd, .scan, .flash, .fab, .comp, .qos, .integ, .words] s x0 := by
    unfold x0
    refine Keeps.ite ?_ ?_
    · exact (openFrame_keeps ..).mono rfl
    · exact Keeps.refl _ _
  have hx3 : Keeps [.free, .nextId, .out, .phase, .fns, .works, .clk, .dies, .lds, .scs, .sts, .mods, .lodge, .chans, .rx, .pwr, .side, .stats, .pvStats, .corpora, .ranges, .tier, .upd, .scan, .flash, .fab, .comp, .qos, .integ, .words] s x3 := by
    unfold x3
    exact Keeps.after (by assumption) (touch_fns_clk_scan _ _ _) rfl
  have hx4 : Keeps [.free, .nextId, .out, .phase, .fns, .works, .clk, .dies, .lds, .scs, .sts, .mods, .lodge, .chans, .rx, .pwr, .side, .stats, .pvStats, .corpora, .ranges, .tier, .upd, .scan, .flash, .fab, .comp, .qos, .integ, .words] s x4 := by
    unfold x4
    refine Keeps.after ?_ (modPwr_touch ..) rfl
    exact Keeps.after (by assumption) (sampleAll_keeps ..) rfl
  have hx5 : Keeps [.free, .nextId, .out, .phase, .fns, .works, .clk, .dies, .lds, .scs, .sts, .mods, .lodge, .chans, .rx, .pwr, .side, .stats, .pvStats, .corpora, .ranges, .tier, .upd, .scan, .flash, .fab, .comp, .qos, .integ, .words] s x5 := by
    unfold x5
    refine Keeps.ite ?_ ?_
    · refine Keeps.after ?_ (modPwr_keeps _ _ ?_) rfl
      · assumption
      · rfl
    · assumption
  have hx6 : Keeps [.free, .nextId, .out, .phase, .fns, .works, .clk, .dies, .lds, .scs, .sts, .mods, .lodge, .chans, .rx, .pwr, .side, .stats, .pvStats, .corpora, .ranges, .tier, .upd, .scan, .flash, .fab, .comp, .qos, .integ, .words] s x6 := by
    unfold x6
    refine Keeps.foldl ?_ (fun t8 z9 => ?_)
    · refine Keeps.after ?_ (modScan_keeps _ _ ?_) rfl
      · assumption
      · rfl
    · exact (stackSample_keeps ..).mono rfl
  have hx7 : Keeps [.free, .nextId, .out, .phase, .fns, .works, .clk, .dies, .lds, .scs, .sts, .mods, .lodge, .chans, .rx, .pwr, .side, .stats, .pvStats, .corpora, .ranges, .tier, .upd, .scan, .flash, .fab, .comp, .qos, .integ, .words] s x7 := by
    unfold x7
    refine Keeps.after ?_ (flushSlot_keeps ..) rfl
    refine Keeps.foldl ?_ (fun t10 z11 => ?_)
    · assumption
    · exact (noteRetries_keeps ..).mono rfl
  clear_value x0 x3 x4 x5 x6 x7
  refine Keeps.ite ?_ ?_
  · refine Keeps.after ?_ (lodgeFault_keeps ..) rfl
    refine Keeps.after ?_ (noteStalls_keeps ..) rfl
    refine Keeps.after ?_ (fabSlot_keeps ..) rfl
    exact Keeps.after (by assumption) (workSlot_keeps ..) rfl
  · exact Keeps.refl _ _

end Sys2Proof.Machine
end

