-- ==== Sys2Proof/Laws/Legal.lean ====
section
/-! SUPPORT. The invariant `State.Legal` (Safety.lean) under the operations that write a register it speaks of: the register writes, the frame
and slot boundaries, the resets. Every other operation keeps it by its frame (`Keeps.legal`). -/

namespace Sys2Proof.Machine

/-! ## Words and masks -/

theorem onlyBits_and (v m : W32) : onlyBits (v &&& m) m = true := by
  have h : v &&& m &&& ~~~m = 0#32 := by
    ext i hi
    simp
  simp [onlyBits, h]

/-- A mask that covers a field leaves the field. -/
theorem fld_and (v m : W32) (hi lo : Nat) (h : (List.range (hi - lo + 1)).all (fun i => m.getLsbD (lo + i)) = true) :
    fld (v &&& m) hi lo = fld v hi lo := by
  unfold fld bitsOf
  apply Nat.eq_of_testBit_eq
  intro i
  rw [Nat.testBit_mod_two_pow, Nat.testBit_mod_two_pow]
  by_cases hi' : i < hi - lo + 1
  · have := List.all_eq_true.mp h i (List.mem_range.mpr hi')
    simp [Nat.testBit_shiftRight, BitVec.getLsbD] at this ⊢
    simp [this]
  · simp only [hi', decide_false, Bool.false_and]

/-- What leaves the words alone keeps the invariant. -/
theorem Keeps.legal {ps : List Area} {s t : State} (k : Keeps ps s t) (h : s.Legal) (hw : ps.contains Area.words = false := by rfl) :
    t.Legal := by
  have e : t.words = s.words := k.same .words hw
  unfold State.Legal
  rw [e]
  exact h

/-! ## The register writes -/

theorem both_fst {ok : W32 → Bool} {a b c : W32} (h : both ok (a, b) = true) (hc : ok c = true) : both ok (c, b) = true := by
  simp only [both, Bool.and_eq_true] at h ⊢
  exact ⟨hc, h.2⟩

theorem legal_ite {c : Prop} [Decidable c] {a b : State} (h : c → a.Legal) (k : ¬c → b.Legal) : (if c then a else b).Legal := by
  split
  · exact h ‹_›
  · exact k ‹_›

theorem writeScan_legal (v : W32) (s : State) (h : s.Legal) : (writeScan v s).Legal := by
  unfold writeScan
  split
  · split
    · rename_i hv
      refine { h with scan := both_fst h.scan ?_ }
      show legalScanCfg (v &&& 0x0000_FF07#32) = true
      simp only [legalScanCfg, onlyBits_and, fld_and v 0x0000_FF07#32 15 8 rfl, hv, decide_true, Bool.and_self]
    · exact h
  · exact h

theorem writePermit_legal (v : W32) (s : State) (h : s.Legal) : (writePermit v s).Legal := by
  unfold writePermit
  split
  · split
    · rename_i hv
      refine { h with permit := both_fst h.permit ?_ }
      show legalPermitCap (v &&& 0x003F_011F#32) = true
      simp only [legalPermitCap, onlyBits_and, fld_and v 0x003F_011F#32 4 0 rfl, fld_and v 0x003F_011F#32 21 16 rfl, Bool.true_and, hv]
    · exact h
  · exact h

theorem writeRerank_legal (v : W32) (s : State) (h : s.Legal) : (writeRerank v s).Legal := by
  unfold writeRerank
  split
  · split
    · rename_i hv
      refine { h with rerank := both_fst h.rerank ?_ }
      show legalRerankCfg (v &&& 0x0001_03FF#32) = true
      simp only [legalRerankCfg, onlyBits_and, fld_and v 0x0001_03FF#32 9 0 rfl, Bool.true_and, hv]
    · exact h
  · exact h

theorem writeCfg_legal (v : W32) (s : State) (h : s.Legal) : ({ s with clk := s.clk.writeCfg v } : State).Legal := by
  unfold Clock.writeCfg
  split
  · rename_i hv
    refine { h with frame := both_fst h.frame ?_ }
    show legalFrameCfg (v &&& 0x0000_0FFF#32) = true
    simp only [frameCfgOk] at hv
    simp only [legalFrameCfg, onlyBits_and, fld_and v 0x0000_0FFF#32 1 0 rfl, fld_and v 0x0000_0FFF#32 7 4 rfl,
      fld_and v 0x0000_0FFF#32 11 8 rfl, Bool.true_and, hv]
  · exact { h with }

theorem writeUpdCfg_legal (v : W32) (s : State) (h : s.Legal) : (writeUpdCfg v s).Legal := by
  unfold writeUpdCfg
  split
  · split
    · rename_i hv
      refine { h with upd := both_fst h.upd ?_ }
      show legalUpdCfg (v &&& 0xFFFF_03FF#32) = true
      simp only [legalUpdCfg, onlyBits_and, fld_and v 0xFFFF_03FF#32 9 0 rfl, fld_and v 0xFFFF_03FF#32 23 16 rfl,
        fld_and v 0xFFFF_03FF#32 31 24 rfl, Bool.true_and, hv]
    · exact { h with }
  · exact h

theorem writeMergeCfg_legal (v : W32) (s : State) (h : s.Legal) : (writeMergeCfg v s).Legal := by
  unfold writeMergeCfg
  split
  · split
    · rename_i hv
      refine { h with merge := both_fst h.merge ?_ }
      show legalMergeCfg (v &&& 0xFFFF_01FF#32) = true
      simp only [legalMergeCfg, onlyBits_and, fld_and v 0xFFFF_01FF#32 7 0 rfl, fld_and v 0xFFFF_01FF#32 31 16 rfl, Bool.true_and, hv]
    · exact { h with }
  · exact h

theorem writeTierCfg_legal (v : W32) (s : State) (h : s.Legal) : (writeTierCfg v s).Legal := by
  unfold writeTierCfg
  split
  · split
    · exact { h with }
    · rename_i hv
      refine { h with tier := both_fst h.tier ?_ }
      show legalTierCfg (v &&& 0xFFFF_FF03#32) = true
      simp only [Bool.or_eq_true, decide_eq_true_eq, Bool.not_eq_true', not_or, Bool.not_eq_false] at hv
      simp only [legalTierCfg, onlyBits_and, fld_and v 0xFFFF_FF03#32 15 8 rfl, fld_and v 0xFFFF_FF03#32 23 16 rfl,
        fld_and v 0xFFFF_FF03#32 31 24 rfl, hv, Bool.and_true, Nat.one_le_iff_ne_zero, ne_eq, not_false_eq_true,
        decide_true]
  · exact h

theorem writePmb_legal (v : W32) (s : State) (h : s.Legal) : (writePmb v s).Legal := by
  unfold writePmb
  dsimp only
  split
  · split
    · rename_i hv
      refine { h with pmb := ?_ }
      show legalPmbCfg (v &&& 0x0000_0F7F#32) = true
      simp only [legalPmbCfg, onlyBits_and, fld_and v 0x0000_0F7F#32 6 0 rfl, fld_and v 0x0000_0F7F#32 11 8 rfl, Bool.true_and, hv]
    · exact { h with }
  · exact h

theorem writePwr_legal (t : Bool) (v : W32) (s : State) (h : s.Legal) : (writePwr t v s).Legal := by
  unfold writePwr
  split
  · split
    · split
      · rename_i hv
        refine { h with therm := both_fst h.therm ?_ }
        show legalThermCfg (v &&& 0x0000_FFFF#32) = true
        simp only [legalThermCfg, onlyBits_and, fld_and v 0x0000_FFFF#32 7 0 rfl, fld_and v 0x0000_FFFF#32 15 8 rfl, Bool.true_and, hv]
      · exact { h with }
    · split
      · rename_i hv
        refine { h with pwr := both_fst h.pwr ?_ }
        show legalPwrCap (v &&& 0x000F_F7FF#32) = true
        simp only [legalPwrCap, onlyBits_and, fld_and v 0x000F_F7FF#32 10 0 rfl, fld_and v 0x000F_F7FF#32 19 12 rfl, Bool.true_and, hv]
      · exact { h with }
  · exact h

theorem writeFab_legal (off : Nat) (v : W32) (s : State) (h : s.Legal) : (writeFab off v s).Legal := by
  unfold writeFab
  extract_lets bad
  have hb : ∀ t : State, t.Legal → (bad t).Legal := fun t k => { k with }
  clear_value bad
  split
  · split
    · split
      · exact h
      · exact { h with }
    · split
      · split
        · rename_i hv
          refine { h with jfp := both_fst h.jfp ?_ }
          show legalJfpCfg (v &&& 0xFFF7_FFFF#32) = true
          simp only [legalJfpCfg, onlyBits_and, fld_and v 0xFFF7_FFFF#32 15 0 rfl, fld_and v 0xFFF7_FFFF#32 27 20 rfl,
            fld_and v 0xFFF7_FFFF#32 31 28 rfl, Bool.true_and, hv]
        · exact hb s h
      · split
        · exact { h with }
        · split
          · split
            · rename_i hv
              refine { h with ptp := both_fst h.ptp ?_ }
              show legalPtpCfg (v &&& 0x0000_03FF#32) = true
              simp only [legalPtpCfg, onlyBits_and, fld_and v 0x0000_03FF#32 7 0 rfl, fld_and v 0x0000_03FF#32 9 8 rfl, Bool.true_and,
                hv.1, decide_true, bne_iff_ne, ne_eq, hv.2, not_false_eq_true]
            · exact hb s h
          · split
            · split
              · exact hb s h
              · exact { h with }
            · exact h
  · exact h

theorem writeMap_legal (off : Nat) (v : W32) (s : State) (h : s.Legal) : (writeMap off v s).Legal := by
  unfold writeMap
  extract_lets bad
  have hb : ∀ t : State, t.Legal → (bad t).Legal := fun t k => { k with }
  clear_value bad
  split
  · split
    · split
      · rename_i hv
        refine { h with map := both_fst h.map ?_ }
        show legalMapCfg (v &&& 0xFFFF_FF01#32) = true
        simp only [Bool.and_eq_true] at hv
        simp only [legalMapCfg, onlyBits_and, fld_and v 0xFFFF_FF01#32 15 8 rfl, fld_and v 0xFFFF_FF01#32 23 16 rfl,
          fld_and v 0xFFFF_FF01#32 31 24 rfl, hv, Bool.and_self]
      · exact hb s h
    · split
      · exact { h with }
      · split
        · split
          · rename_i hv
            refine { h with move := both_fst h.move ?_ }
            show legalMoveCfg (v &&& 0x0000_FFFF#32) = true
            simp only [legalMoveCfg, onlyBits_and, fld_and v 0x0000_FFFF#32 7 0 rfl, fld_and v 0x0000_FFFF#32 15 8 rfl, Bool.true_and, hv]
          · exact hb s h
        · exact h
  · exact h

theorem writeInteg_legal (off : Nat) (v : W32) (s : State) (h : s.Legal) : (writeInteg off v s).Legal := by
  unfold writeInteg
  extract_lets bad put
  have hb : ∀ t : State, t.Legal → (bad t).Legal := fun t k => { k with }
  clear_value bad
  have hp : ∀ (ok : Bool) (g : Integ → Integ), (ok = true → (modInteg g s).Legal) → (put ok g s).Legal := by
    intro ok g hg
    unfold put
    exact legal_ite hg fun _ => hb s h
  clear_value put
  refine legal_ite (fun _ => h) fun _ => ?_
  refine legal_ite (fun _ => hp _ _ fun hv => ?_) fun _ => ?_
  · refine { h with keeper := both_fst h.keeper ?_ }
    show legalKeeperCfg (v &&& 0x00FF_FF03#32) = true
    simp only [legalKeeperCfg, onlyBits_and, fld_and v 0x00FF_FF03#32 15 8 rfl, fld_and v 0x00FF_FF03#32 23 16 rfl, Bool.true_and, hv]
  refine legal_ite (fun _ => hp _ _ fun hv => ?_) fun _ => ?_
  · refine { h with shadow := both_fst h.shadow ?_ }
    show legalShadowRate (v &&& 0x0000_FF3F#32) = true
    simp only [legalShadowRate, onlyBits_and, fld_and v 0x0000_FF3F#32 4 0 rfl, fld_and v 0x0000_FF3F#32 15 8 rfl, Bool.true_and, hv]
  refine legal_ite (fun _ => hp _ _ fun hv => ?_) fun _ => ?_
  · refine { h with suspect := both_fst h.suspect ?_ }
    show legalSuspectCfg (v &&& 0x00FF_FFFF#32) = true
    simp only [legalSuspectCfg, onlyBits_and, fld_and v 0x00FF_FFFF#32 15 0 rfl, fld_and v 0x00FF_FFFF#32 23 16 rfl, Bool.true_and, hv]
  refine legal_ite (fun _ => hp _ _ fun hv => ?_) fun _ => ?_
  · refine { h with spare := both_fst h.spare ?_ }
    show legalSpareCfg (v &&& 0x0000_FF07#32) = true
    simp only [legalSpareCfg, onlyBits_and, fld_and v 0x0000_FF07#32 15 8 rfl, Bool.true_and, hv]
  refine legal_ite (fun _ => { h with }) fun _ => ?_
  refine legal_ite (fun _ => hp _ _ fun _ => { h with }) fun _ => ?_
  refine legal_ite (fun _ => ?_) fun _ => legal_ite (fun _ => { h with }) fun _ => h
  refine legal_ite (fun _ => (doBistGo_keeps ..).legal h) fun _ => legal_ite (fun _ => { h with }) fun _ => { h with }

theorem put_getLsbD (v lo w i : Nat) : (put v lo w).getLsbD i = (decide (i < 32) && decide (lo ≤ i) && decide (i - lo < w) && v.testBit (i - lo)) := by
  simp [put, BitVec.getLsbD_ofNat, Nat.testBit_shiftLeft, Nat.testBit_mod_two_pow, Bool.and_assoc]

theorem bitsOf_testBit (v hi lo i : Nat) : (bitsOf v hi lo).testBit i = (decide (i < hi - lo + 1) && v.testBit (lo + i)) := by
  simp [bitsOf, Nat.testBit_mod_two_pow, Nat.testBit_shiftRight]

/-- A byte laid over bits [15:8] that a mask clears: what it reads as there, and elsewhere. -/
theorem byte1_or (v m : W32) (op : Nat) (h : (List.range 8).all (fun i => !m.getLsbD (8 + i)) = true) (ho : op < 256) :
    fld ((v &&& m) ||| put op 8 8) 15 8 = op := by
  unfold fld
  apply Nat.eq_of_testBit_eq
  intro i
  rw [bitsOf_testBit, BitVec.testBit_toNat, BitVec.getLsbD_or, BitVec.getLsbD_and, put_getLsbD]
  by_cases hi : i < 8
  · have := List.all_eq_true.mp h i (List.mem_range.mpr hi)
    simp only [Bool.not_eq_true'] at this
    simp [this, hi]
    omega
  · have : op.testBit i = false := Nat.testBit_lt_two_pow (Nat.lt_of_lt_of_le ho (by
      calc 256 = 2 ^ 8 := by norm_num
        _ ≤ 2 ^ i := Nat.pow_le_pow_right (by norm_num) (by omega)))
    simp [hi, this]

theorem byte1_or_field (v m : W32) (op hi lo : Nat) (h : (List.range (hi - lo + 1)).all (fun i => m.getLsbD (lo + i)) = true)
    (hl : hi < 8 ∨ 16 ≤ lo) (hh : lo ≤ hi) : fld ((v &&& m) ||| put op 8 8) hi lo = fld v hi lo := by
  rw [← fld_and v m hi lo h]
  unfold fld
  apply Nat.eq_of_testBit_eq
  intro i
  rw [bitsOf_testBit, bitsOf_testBit, BitVec.testBit_toNat, BitVec.testBit_toNat, BitVec.getLsbD_or, put_getLsbD]
  by_cases hi' : i < hi - lo + 1
  · have : (decide (lo + i < 32) && decide (8 ≤ lo + i) && decide (lo + i - 8 < 8) && op.testBit (lo + i - 8)) = false := by
      rcases hl with hl | hl
      · have : ¬ 8 ≤ lo + i := by omega
        simp [this]
      · have : ¬ lo + i - 8 < 8 := by omega
        simp [this]
    rw [this, Bool.or_false]
  · simp only [hi', decide_false, Bool.false_and]

theorem byte1_or_only (v m k : W32) (op : Nat) (hm : m &&& ~~~k = 0#32)
    (hk : (List.range 8).all (fun i => k.getLsbD (8 + i)) = true) : onlyBits ((v &&& m) ||| put op 8 8) k = true := by
  have : ((v &&& m) ||| put op 8 8) &&& ~~~k = 0#32 := by
    apply BitVec.eq_of_getLsbD_eq
    intro i hi
    have a := congrArg (fun x : W32 => x.getLsbD i) hm
    simp only [BitVec.getLsbD_and, BitVec.getLsbD_not, BitVec.getLsbD_or, put_getLsbD, BitVec.getLsbD_zero, hi, decide_true,
      Bool.true_and] at a ⊢
    by_cases h8 : 8 ≤ i ∧ i - 8 < 8
    · have b := List.all_eq_true.mp hk (i - 8) (List.mem_range.mpr h8.2)
      rw [Nat.add_sub_cancel' h8.1] at b
      simp [b]
    · have : (decide (8 ≤ i) && decide (i - 8 < 8)) = false := by
        simpa using h8
      simp only [this, Bool.false_and, Bool.or_false, Bool.and_assoc, a, Bool.and_false]
  simp [onlyBits, this]

theorem writeFlash_legal (r : Nat) (v : W32) (s : State) (h : s.Legal) : (writeFlash r v s).Legal := by
  unfold writeFlash
  dsimp only
  split
  · split
    · generalize hop : (if s.flash.opLock = true then fld s.flash.cfg 15 8 else fld v 15 8) = op
      split
      · exact { h with }
      · rename_i hv
        refine { h with flash := both_fst h.flash ?_ }
        show legalFlashCfg ((v &&& 0x00FF_007F#32) ||| put op 8 8) = true
        simp only [Bool.or_eq_true, decide_eq_true_eq, Bool.not_eq_true', not_or, Bool.not_eq_false] at hv
        have ho : op < 256 := by
          have := hv.1.2
          simp only [inRange, Bool.and_eq_true, decide_eq_true_eq] at this
          omega
        simp only [legalFlashCfg, byte1_or_only v 0x00FF_007F#32 0x00FF_FF7F#32 op rfl rfl, byte1_or v 0x00FF_007F#32 op rfl ho,
          byte1_or_field v 0x00FF_007F#32 op 4 0 rfl (by decide) (by decide),
          byte1_or_field v 0x00FF_007F#32 op 23 16 rfl (by decide) (by decide), hv, Nat.one_le_iff_ne_zero, ne_eq, not_false_eq_true,
          decide_true, Bool.and_self]
    · split
      · exact { h with }
      · split
        · split
          · exact { h with }
          · rename_i hv
            refine { h with warn := both_fst h.warn ?_ }
            show legalFlashWarn v = true
            simp only [Bool.or_eq_true, decide_eq_true_eq, not_or] at hv
            simp only [legalFlashWarn, Nat.one_le_iff_ne_zero, ne_eq, hv, not_false_eq_true, decide_true, Bool.and_self]
        · split
          · exact { h with }
          · exact h
  · exact h

theorem writeNode_legal (off : Nat) (v : W32) (s : State) (h : s.Legal) : (writeNode off v s).Legal := by
  unfold writeNode
  split
  · exact writeCfg_legal v s h
  · exact (writeOrigin_keeps ..).legal h
  · exact (writeOrigin_keeps ..).legal h
  · exact (clearFrameStat_keeps ..).legal h
  · exact writePermit_legal v s h
  · exact writeScan_legal v s h
  · exact (clearScanStat_keeps ..).legal h
  · exact writeRerank_legal v s h
  · exact (clearSelectStat_keeps ..).legal h
  · exact writeUpdCfg_legal v s h
  · exact writeMergeCfg_legal v s h
  · exact (clearUpdStat_keeps ..).legal h
  · exact writeTierCfg_legal v s h
  · exact (clearTierStat_keeps ..).legal h
  · exact writeFlash_legal 0 v s h
  · exact writeFlash_legal 1 v s h
  · exact writeFlash_legal 2 v s h
  · exact writeFlash_legal 3 v s h
  · exact (writePolicy_keeps ..).legal h
  · exact (clearQosStat_keeps ..).legal h
  · exact (clearLodgeStat_keeps ..).legal h
  · exact writePwr_legal false v s h
  · exact (clearPwrStat_keeps ..).legal h
  · exact writePwr_legal true v s h
  · exact (clearThermStat_keeps ..).legal h
  · exact (writeReset_keeps ..).legal h
  · exact (clearResetStat_keeps ..).legal h
  · exact (writeGpio_keeps ..).legal h
  · exact (writeGpio_keeps ..).legal h
  · exact (clearSbStat_keeps ..).legal h
  · exact writePmb_legal v s h
  · refine legal_ite (fun _ => writeFab_legal _ v s h) fun _ => ?_
    refine legal_ite (fun _ => writeMap_legal _ v s h) fun _ => ?_
    refine legal_ite (fun _ => (writeShare_keeps ..).legal h) fun _ => ?_
    exact legal_ite (fun _ => writeInteg_legal _ v s h) fun _ => h

theorem writeBar0_legal (f : Fn) (off : Nat) (v : W32) (s : State) (h : s.Legal) : (writeBar0 f off v s).Legal := by
  unfold writeBar0
  refine legal_ite (fun _ => legal_ite (fun _ => writeNode_legal off v s h) fun _ => (writeVf_keeps ..).legal h) fun _ => ?_
  refine legal_ite (fun _ => (writeRing_keeps ..).legal h) fun _ => ?_
  refine legal_ite (fun _ => (writeEq_keeps ..).legal h) fun _ => ?_
  refine legal_ite (fun _ => (writeMsix_keeps ..).legal h) fun _ => ?_
  refine legal_ite (fun _ => (writeMbx_keeps ..).legal h) fun _ => ?_
  refine legal_ite (fun _ => legal_ite (fun _ => (doRingDb_keeps ..).legal h) fun _ => ?_) fun _ => ?_
  · exact legal_ite (fun _ => (doRingCqDb_keeps ..).legal h) fun _ => h
  · exact legal_ite (fun _ => (doEqDb_keeps ..).legal h) fun _ => h

theorem doWrite_legal (f : Fn) (off : Nat) (v : W32) (s : State) (h : s.Legal) : (doWrite f off v s).Legal := by
  unfold doWrite
  exact legal_ite (fun _ => h) fun _ => legal_ite (fun _ => (emit_keeps ..).legal h) fun _ => writeBar0_legal f off v s h

/-! ## The boundaries -/

/-- A register in force takes the value last written, which is legal. -/
theorem both_apply {ok : W32 → Bool} {x : W32 × W32} (h : both ok x = true) : both ok (x.1, x.1) = true := by
  simp only [both, Bool.and_eq_true] at h ⊢
  exact ⟨h.1, h.1⟩

theorem newFrame_words (off : Int) (c : Clock) : (c.newFrame off).cfg = c.cfg ∧ (c.newFrame off).eff = c.cfg := by
  unfold Clock.newFrame
  dsimp only
  split <;> exact ⟨rfl, rfl⟩

theorem tickClock_legal (off : Int) (s : State) (h : s.Legal) : (tickClock off s).Legal := by
  refine { h with slot := fun k hk => (nomatch hk), frame := ?_ }
  show both legalFrameCfg ((s.clk.newFrame off).cfg, (s.clk.newFrame off).eff) = true
  rw [(newFrame_words off s.clk).1, (newFrame_words off s.clk).2]
  exact both_apply h.frame

theorem regsFrame_legal (s : State) (h : s.Legal) : (regsFrame s).Legal :=
  { h with
    scan := both_apply h.scan, rerank := both_apply h.rerank, upd := both_apply h.upd, merge := both_apply h.merge
    keeper := both_apply h.keeper, shadow := both_apply h.shadow, suspect := both_apply h.suspect, spare := both_apply h.spare }

theorem tierFrame_legal (s : State) (h : s.Legal) : (tierFrame s).Legal := by
  have mark : ∀ (t : State) (n : Frame), t.Legal → (modTier (fun x => { x with scrubAt := n }) t).Legal := fun t n k => { k with }
  have rows : ∀ (t : State) (rs : List Range), t.Legal → ({ t with ranges := rs } : State).Legal := fun t rs k => { k with }
  unfold tierFrame
  extract_lets t u v
  have ht : t.Legal := { h with tier := both_apply h.tier }
  clear_value t
  have hu : u.Legal := legal_ite (fun _ => rows _ _ ht) fun _ => ht
  clear_value u
  have hv : v.Legal := legal_ite (fun _ => mark _ _ ((Keeps.foldl (Keeps.refl _ _) fun t x => scrubRange_keeps ..).legal hu)) fun _ => hu
  clear_value v
  exact legal_ite (fun _ => (Keeps.foldl (Keeps.refl _ _) fun t x => pumpBar2_keeps ..).legal ((tierAll_keeps ..).legal hv)) fun _ => hu

theorem flashFrame_legal (s : State) (h : s.Legal) : (flashFrame s).Legal :=
  { h with flash := both_apply h.flash, warn := both_apply h.warn }

theorem keeperFrame_legal (s : State) (h : s.Legal) : (keeperFrame s).Legal := by
  have k : ∀ c : Comp, c.mapCfg = s.comp.mapCfg → c.mapEff = s.comp.mapCfg → c.moveCfg = s.comp.moveCfg → c.moveEff = s.comp.moveCfg →
      ({ s with comp := c } : State).Legal := by
    intro c h1 h2 h3 h4
    refine { h with map := ?_, move := ?_ }
    · show both legalMapCfg (c.mapCfg, c.mapEff) = true
      rw [h1, h2]
      exact both_apply h.map
    · show both legalMoveCfg (c.moveCfg, c.moveEff) = true
      rw [h3, h4]
      exact both_apply h.move
  unfold keeperFrame
  dsimp only
  refine legal_ite (fun _ => ?_) fun _ => ?_
  · exact (sendAll_keeps ..).legal ((modKeeper_keeps ..).legal (k _ rfl rfl rfl rfl))
  · exact (modKeeper_keeps ..).legal (k _ rfl rfl rfl rfl)

theorem fabFrame_legal (s : State) (h : s.Legal) : (fabFrame s).Legal := by
  unfold fabFrame
  extract_lets s1 s2 s3 s4
  have h1 : s1.Legal := { h with jfp := both_apply h.jfp, ptp := both_apply h.ptp }
  clear_value s1
  have h2 : s2.Legal := (Keeps.foldl (Keeps.refl _ _) fun t x => settlePort_keeps ..).legal h1
  clear_value s2
  have h3 : s3.Legal := (selectPtp_keeps ..).legal h2
  clear_value s3
  have h4 : s4.Legal := (Keeps.foldl (Keeps.refl _ _) fun t x => sendAck_keeps ..).legal h3
  exact (flushCoal_keeps ..).legal h4

theorem powerFrame_legal (s : State) (h : s.Legal) : (modPwr powerFrame s).Legal := { h with }

theorem doFrame_legal (off choice : Int) (s : State) (h : s.Legal) : (doFrame off choice s).Legal := by
  unfold doFrame
  extract_lets f s1 s2 s3 s4 s5 s6 s7 s8 s9 s10 s11
  refine legal_ite (fun _ => ?_) fun _ => h
  have h1 : s1.Legal := tickClock_legal off s h
  clear_value s1
  have h2 : s2.Legal := (commitFrame_keeps ..).legal h1
  clear_value s2
  have h3 : s3.Legal := regsFrame_legal s2 h2
  clear_value s3
  have h4 : s4.Legal := (alignFrame_keeps ..).legal h3
  clear_value s4
  have h5 : s5.Legal := legal_ite (fun _ => (bistFrame_keeps ..).legal ((swapFrame_keeps ..).legal h4)) fun _ => h4
  clear_value s5
  have h6 : s6.Legal := (sharesFrame_keeps ..).legal h5
  clear_value s6
  have h7 : s7.Legal := legal_ite (fun _ => (keeperAssign_keeps ..).legal h6) fun _ => h6
  clear_value s7
  have h8 : s8.Legal := (pfailFrame_keeps ..).legal (flashFrame_legal _ (tierFrame_legal _ h7))
  clear_value s8
  have h9 : s9.Legal := (Keeps.foldl (Keeps.refl _ _) fun t x => stepFrame_keeps ..).legal h8
  clear_value s9
  have h10 : s10.Legal := fabFrame_legal _ (keeperFrame_legal _ ((sendMarks_keeps ..).legal h9))
  clear_value s10
  have h11 : s11.Legal := (logFrame_keeps ..).legal ((timersFrame_keeps ..).legal ((statsFrame_keeps ..).legal h10))
  clear_value s11
  exact legal_ite (fun _ => (scanFrame_keeps ..).legal h11) fun _ => h11

theorem capSlot_words (w : Nat) (p : Power) : (capSlot w p).cap = p.cap ∧ (capSlot w p).capEff = p.cap ∧
    (capSlot w p).thermCfg = p.thermCfg ∧ (capSlot w p).thermEff = p.thermCfg := by
  unfold capSlot
  dsimp only
  repeat' split
  all_goals exact ⟨rfl, rfl, rfl, rfl⟩

theorem capSlot_legal (w : Nat) (s : State) (h : s.Legal) : (modPwr (capSlot w) s).Legal := by
  obtain ⟨a, b, c, d⟩ := capSlot_words w s.pwr
  refine { h with pwr := ?_, therm := ?_ }
  · show both legalPwrCap ((capSlot w s.pwr).cap, (capSlot w s.pwr).capEff) = true
    rw [a, b]
    exact both_apply h.pwr
  · show both legalThermCfg ((capSlot w s.pwr).thermCfg, (capSlot w s.pwr).thermEff) = true
    rw [c, d]
    exact both_apply h.therm

/-! ## Resets -/

theorem reset_legal : State.reset.Legal := by
  constructor <;> first | rfl | (intro k hk; cases hk)

theorem resetNode_legal (cause : Nat) (cfg : Bool) (s : State) : (resetNode cause cfg s).Legal :=
  { reset_legal with }

theorem firmwareDown_legal (b : BootIn) (s : State) (h : s.Legal) : (firmwareDown b s).Legal := by
  unfold firmwareDown
  exact legal_ite (fun _ => { h with }) fun _ => (addLog_keeps ..).legal ((boot_keeps ..).legal (resetNode_legal _ _ _))

theorem lodgeFault_legal (x : Option BootIn) (s : State) (h : s.Legal) : (lodgeFault x s).Legal := by
  unfold lodgeFault
  split
  · exact legal_ite (fun _ => firmwareDown_legal _ _ h) fun _ => h
  · exact h

/-! ## The slot boundary -/

theorem doSlot_legal (x : SlotIn) (s : State) (h : s.Legal) : (doSlot x s).Legal := by
  unfold doSlot
  refine legal_ite (fun hc => ?_) fun _ => h
  have ho : ∀ t : State, t.Legal → (openFrame t).Legal := fun t k => (openFrame_keeps ..).legal k
  have hs : ∀ k, (openFrame s).clk.slot = some k → k < 16 := fun k hk => (ho s h).slot k hk
  have hslot : (match (if s.clk.slot.isNone then openFrame s else s).clk.slot with | some k => k + 1 | none => 0) < 16 := by
    cases hn : s.clk.slot with
    | none =>
      have : (openFrame s).clk.slot = s.clk.slot := by
        have e := (openFrame_keeps s).same .clk rfl
        exact congrArg Clock.slot e
      simp only [Option.isNone_none, if_true, this, hn]
      decide
    | some k =>
      have hk := h.slot k hn
      have : k ≠ 15 := by
        intro e
        subst e
        simp [hn] at hc
      simp only [Option.isNone_some, Bool.false_eq_true, if_false, hn]
      show k + 1 < 16
      omega
  extract_lets s1 c1 c2 s2 s3 s4 s5 s6
  have h1 : s1.Legal := legal_ite (fun _ => ho s h) fun _ => h
  have h2 : s2.Legal := { h1 with slot := fun k hk => Option.some.inj hk ▸ hslot, permit := both_apply h1.permit }
  clear_value s2
  have h3 : s3.Legal := capSlot_legal _ _ ((sampleAll_keeps ..).legal h2)
  clear_value s3
  have h4 : s4.Legal := legal_ite (fun _ => powerFrame_legal _ h3) fun _ => h3
  clear_value s4
  have clear : ∀ t : State, t.Legal → (modScan (fun y => { y with taUse := [], engUse := [] }) t).Legal := fun t k => { k with }
  have h5 : s5.Legal := (Keeps.foldl (Keeps.refl _ _) fun t n => stackSample_keeps ..).legal (clear _ h4)
  clear_value s5
  have h6 : s6.Legal := (flushSlot_keeps ..).legal ((Keeps.foldl (Keeps.refl _ _) fun t x => noteRetries_keeps ..).legal h5)
  clear_value s6
  exact lodgeFault_legal _ _ ((noteStalls_keeps ..).legal ((fabSlot_keeps ..).legal ((workSlot_keeps ..).legal h6)))

end Sys2Proof.Machine
end

