-- ==== Sys2Proof/Laws/Lists.lean ====
section
/-! SUPPORT. What the list helpers do: one element changed, the length and every other element as they were. -/

namespace Sys2Proof.Machine

variable {α : Type}

@[simp] theorem modifyAt_length (xs : List α) (i : Nat) (f : α → α) : (modifyAt xs i f).length = xs.length := by
  induction xs generalizing i with
  | nil => rfl
  | cons x xs ih => cases i <;> simp [modifyAt, ih]

theorem getD_modifyAt_self (xs : List α) (i : Nat) (f : α → α) (d : α) (h : i < xs.length) :
    (modifyAt xs i f).getD i d = f (xs.getD i d) := by
  induction xs generalizing i with
  | nil => simp at h
  | cons x xs ih =>
    cases i with
    | zero => simp [modifyAt]
    | succ i => simpa [modifyAt] using ih i (by simpa using h)

theorem getD_modifyAt_ne (xs : List α) (i j : Nat) (f : α → α) (d : α) (h : i ≠ j) :
    (modifyAt xs i f).getD j d = xs.getD j d := by
  induction xs generalizing i j with
  | nil => cases j <;> rfl
  | cons x xs ih =>
    cases i with
    | zero => cases j with
      | zero => exact absurd rfl h
      | succ j => simp [modifyAt]
    | succ i => cases j with
      | zero => simp [modifyAt]
      | succ j => simpa [modifyAt] using ih i j (by omega)

theorem modifyAt_modifyAt (xs : List α) (i : Nat) (f g : α → α) : modifyAt (modifyAt xs i f) i g = modifyAt xs i fun x => g (f x) := by
  induction xs generalizing i with
  | nil => rfl
  | cons x xs ih => cases i <;> simp [modifyAt, ih]

@[simp] theorem mapIf_length (p : α → Bool) (f : α → α) (xs : List α) : (mapIf p f xs).length = xs.length := by simp [mapIf]

/-- A function that exists reads back what was written to it; every other function reads as before. -/
theorem fn_modFn (f : Fn) (g : FnState → FnState) (s : State) (h : f.val < s.fns.length) : (modFn f g s).fn f = g (s.fn f) := by
  simp only [State.fn, modFn_fns]; exact getD_modifyAt_self _ _ _ _ h
where modFn_fns : (modFn f g s).fns = modifyAt s.fns f.val g := rfl

theorem fn_modFn_ne (f f' : Fn) (g : FnState → FnState) (s : State) (h : f ≠ f') : (modFn f g s).fn f' = s.fn f' := by
  have h' : f.val ≠ f'.val := fun e => h (Fin.ext e)
  exact getD_modifyAt_ne _ _ _ _ _ h'

/-- A function whose event ring is enabled is one of the state's functions. -/
theorem fn_lt_of_eq_enabled (s : State) (f : Fn) (h : (s.fn f).eq.enabled = true) : f.val < s.fns.length := by
  by_contra hn
  have : s.fn f = FnState.reset false := by
    simp only [State.fn, List.getD_eq_getElem?_getD, List.getElem?_eq_none (Nat.le_of_not_lt hn), Option.getD_none]
  rw [this] at h; exact absurd h (by decide)

/-- A function that may use the link is one of the state's functions. -/
theorem fn_lt_of_fnUp (s : State) (f : Fn) (h : s.fnUp f = true) : f.val < s.fns.length := by
  by_contra hn
  have : s.fn f = FnState.reset false := by
    simp only [State.fn, List.getD_eq_getElem?_getD, List.getElem?_eq_none (Nat.le_of_not_lt hn), Option.getD_none]
  simp [State.fnUp, this, FnState.reset] at h

theorem ring_modRing (f : Fn) (r : Nat) (g : Ring → Ring) (s : State) (h : f.val < s.fns.length)
    (hr : r < (s.fn f).rings.length) : (modRing f r g s).ring f r = g (s.ring f r) := by
  unfold modRing State.ring
  rw [fn_modFn _ _ _ h]
  exact getD_modifyAt_self _ _ _ _ hr

/-- Two changes that agree on the element make the same list. -/
theorem modifyAt_congr (xs : List α) (i : Nat) (f g : α → α) (d : α) (h : f (xs.getD i d) = g (xs.getD i d)) :
    modifyAt xs i f = modifyAt xs i g := by
  induction xs generalizing i with
  | nil => rfl
  | cons x xs ih =>
    cases i with
    | zero => simpa [modifyAt] using h
    | succ i => simpa [modifyAt] using ih i (by simpa using h)

theorem modFn_congr (f : Fn) (g h : FnState → FnState) (s : State) (e : g (s.fn f) = h (s.fn f)) : modFn f g s = modFn f h s := by
  unfold modFn; rw [modifyAt_congr _ _ g h (FnState.reset false) e]

theorem modRing_congr (f : Fn) (r : Nat) (g h : Ring → Ring) (s : State) (e : g (s.ring f r) = h (s.ring f r)) :
    modRing f r g s = modRing f r h s := by
  unfold modRing; apply modFn_congr
  simp only [FnState.mk.injEq, true_and, and_true]
  exact modifyAt_congr _ _ g h Ring.reset e

theorem modCorpus_congr (p : Nat) (g h : Corpus → Corpus) (s : State) (e : g (s.corpus p) = h (s.corpus p)) :
    modCorpus p g s = modCorpus p h s := by
  unfold modCorpus; rw [modifyAt_congr _ _ g h Corpus.reset e]

theorem modRange_congr (p : Nat) (g h : Range → Range) (s : State) (e : g (s.range p) = h (s.range p)) :
    modRange p g s = modRange p h s := by
  unfold modRange; rw [modifyAt_congr _ _ g h Range.reset e]

theorem modChan_congr (c : Nat) (g h : Chan → Chan) (s : State) (e : g (s.chan c) = h (s.chan c)) :
    modChan c g s = modChan c h s := by
  unfold modChan; rw [modifyAt_congr _ _ g h Chan.reset e]

end Sys2Proof.Machine
end

