-- ==== Sys2Proof/Laws/Memory.lean ====
section
/-! SUPPORT. The sparse memories: every operation keeps the canonical form, a byte that was written reads back, every other byte reads as
before. -/

namespace Sys2Proof.Machine

/-! ## The canonical form as a property of pairs -/

/-- The canonical form: no byte 0, addresses strictly rising. -/
theorem wf_iff (m : Mem) : Memory.wf m = true ↔ (∀ c ∈ m, c.2 ≠ 0#8) ∧ m.Pairwise fun c d => c.1 < d.1 := by
  induction m with
  | nil => simp [Memory.wf]
  | cons c m ih =>
    obtain ⟨a, b⟩ := c
    cases m with
    | nil => simp [Memory.wf]
    | cons d m =>
      obtain ⟨a', b'⟩ := d
      simp only [Memory.wf, Bool.and_eq_true, bne_iff_ne, ne_eq, decide_eq_true_eq, ih, List.mem_cons, List.pairwise_cons]
      constructor
      · rintro ⟨⟨h1, h2⟩, h3, h4, h5⟩
        refine ⟨?_, ?_, h4, h5⟩
        · rintro c (rfl | hc)
          · exact h1
          · exact h3 c hc
        · rintro c (rfl | hc)
          · exact h2
          · exact Nat.lt_trans h2 (h4 c hc)
      · rintro ⟨h1, h2, h4, h5⟩
        exact ⟨⟨h1 _ (.inl rfl), h2 _ (.inl rfl)⟩, fun c hc => h1 c (.inr hc), h4, h5⟩

theorem wf_filter (m : Mem) (p : Host.Cell → Bool) (h : Memory.wf m = true) : Memory.wf (m.filter p) = true := by
  rw [wf_iff] at h ⊢
  exact ⟨fun c hc => h.1 c (List.mem_filter.mp hc).1, h.2.filter p⟩

theorem mem_memInsert (m : Mem) (a : Nat) (b : Byte) (c : Host.Cell) : c ∈ memInsert m a b ↔ c = (a, b) ∨ c ∈ m := by
  induction m with
  | nil => simp [memInsert]
  | cons d m ih =>
    unfold memInsert
    split
    · simp
    · simp only [List.mem_cons, ih]
      tauto

theorem wf_memInsert (m : Mem) (a : Nat) (b : Byte) (h : Memory.wf m = true) (hb : b ≠ 0#8) (ha : ∀ c ∈ m, c.1 ≠ a) :
    Memory.wf (memInsert m a b) = true := by
  rw [wf_iff] at h ⊢
  refine ⟨fun c hc => ?_, ?_⟩
  · rcases (mem_memInsert m a b c).mp hc with rfl | hc
    · exact hb
    · exact h.1 c hc
  · have hp := h.2
    clear h
    induction m with
    | nil => simp [memInsert]
    | cons d m ih =>
      have hd := List.pairwise_cons.mp hp
      unfold memInsert
      split
      · rename_i hlt
        refine List.pairwise_cons.mpr ⟨fun c hc => ?_, hp⟩
        rcases List.mem_cons.mp hc with rfl | hc
        · exact hlt
        · exact Nat.lt_trans hlt (hd.1 c hc)
      · rename_i hge
        refine List.pairwise_cons.mpr ⟨fun c hc => ?_, ih (fun c hc => ha c (List.mem_cons_of_mem _ hc)) hd.2⟩
        rcases (mem_memInsert m a b c).mp hc with rfl | hc
        · have := ha d (List.mem_cons_self ..)
          exact Nat.lt_of_le_of_ne (Nat.le_of_not_lt hge) this
        · exact hd.1 c hc

/-- Writing a byte keeps the canonical form. -/
theorem wf_memSet (m : Mem) (a : Nat) (b : Byte) (h : Memory.wf m = true) : Memory.wf (memSet m a b) = true := by
  unfold memSet
  dsimp only
  split
  · exact wf_filter _ _ h
  · refine wf_memInsert _ _ _ (wf_filter _ _ h) ‹_› fun c hc => ?_
    simpa using (List.mem_filter.mp hc).2

/-- Writing bytes keeps it. -/
theorem wf_memWrite (m : Mem) (a : Nat) (bs : List Byte) (h : Memory.wf m = true) : Memory.wf (memWrite m a bs) = true := by
  induction bs generalizing m a with
  | nil => exact h
  | cons b bs ih => exact ih _ _ (wf_memSet m a b h)

/-- A cut keeps it. -/
theorem wf_memCut (m : Mem) (a n : Nat) (h : Memory.wf m = true) : Memory.wf (memCut m a n) = true := wf_filter _ _ h

/-- A splice keeps it. -/
theorem wf_memSplice (src dst : Mem) (a n : Nat) (h : Memory.wf src = true) (k : Memory.wf dst = true) :
    Memory.wf (memSplice src dst a n) = true := by
  have h' := (wf_iff _).mp (wf_memCut src a n h)
  have k1 := (wf_iff _).mp (wf_filter dst (fun c => decide (c.1 < a)) k)
  have k2 := (wf_iff _).mp (wf_filter dst (fun c => decide (a + n ≤ c.1)) k)
  have cut : ∀ c ∈ memCut src a n, a ≤ c.1 ∧ c.1 < a + n := fun c hc => by
    simpa using (List.mem_filter.mp hc).2
  rw [wf_iff]
  unfold memSplice
  refine ⟨fun c hc => ?_, ?_⟩
  · rcases List.mem_append.mp hc with hc | hc
    · rcases List.mem_append.mp hc with hc | hc
      · exact k1.1 c hc
      · exact h'.1 c hc
    · exact k2.1 c hc
  · refine List.pairwise_append.mpr ⟨List.pairwise_append.mpr ⟨k1.2, h'.2, fun c hc d hd => ?_⟩, k2.2, fun c hc d hd => ?_⟩
    · have := (List.mem_filter.mp hc).2
      simp only [decide_eq_true_eq] at this
      exact Nat.lt_of_lt_of_le this (cut d hd).1
    · have hd := (List.mem_filter.mp hd).2
      simp only [decide_eq_true_eq] at hd
      rcases List.mem_append.mp hc with hc | hc
      · have := (List.mem_filter.mp hc).2
        simp only [decide_eq_true_eq] at this
        omega
      · exact Nat.lt_of_lt_of_le (cut c hc).2 hd

/-! ## Reads after writes -/

theorem memGet_cons (c : Host.Cell) (m : Mem) (x : Nat) : memGet (c :: m) x = if c.1 = x then c.2 else memGet m x := by
  unfold memGet
  by_cases hx : c.1 = x
  · simp [hx]
  · have : (c.1 == x) = false := by simpa using hx
    simp only [List.find?_cons, this, hx, if_false]

theorem memGet_filter (m : Mem) (p : Host.Cell → Bool) (x : Nat) (h : ∀ c ∈ m, c.1 = x → p c = true) :
    memGet (m.filter p) x = memGet m x := by
  induction m with
  | nil => rfl
  | cons c m ih =>
    have ih := ih fun d hd => h d (List.mem_cons_of_mem _ hd)
    by_cases hx : c.1 = x
    · rw [List.filter_cons_of_pos (h c (List.mem_cons_self ..) hx), memGet_cons, memGet_cons, if_pos hx, if_pos hx]
    · by_cases hp : p c = true
      · rw [List.filter_cons_of_pos hp, memGet_cons, memGet_cons, if_neg hx, if_neg hx, ih]
      · rw [List.filter_cons_of_neg hp, memGet_cons, if_neg hx, ih]

theorem memGet_none (m : Mem) (x : Nat) (h : ∀ c ∈ m, c.1 ≠ x) : memGet m x = 0#8 := by
  unfold memGet
  rw [List.find?_eq_none.mpr]
  · rfl
  · intro c hc
    simpa using h c hc

theorem memGet_append (m k : Mem) (x : Nat) (h : ∀ c ∈ m, c.1 ≠ x) : memGet (m ++ k) x = memGet k x := by
  unfold memGet
  rw [List.find?_append, List.find?_eq_none.mpr]
  · rfl
  · intro c hc
    simpa using h c hc

theorem memGet_append_left (m k : Mem) (x : Nat) (h : ∀ c ∈ k, c.1 ≠ x) : memGet (m ++ k) x = memGet m x := by
  unfold memGet
  rw [List.find?_append]
  cases hm : m.find? fun c => c.1 == x with
  | some c => rfl
  | none =>
    rw [List.find?_eq_none.mpr]
    · rfl
    · intro c hc
      simpa using h c hc

theorem memGet_memInsert (m : Mem) (a : Nat) (b : Byte) (x : Nat) (h : ∀ c ∈ m, c.1 ≠ a) :
    memGet (memInsert m a b) x = if x = a then b else memGet m x := by
  induction m with
  | nil =>
    rw [memInsert, memGet_cons]
    by_cases hx : x = a
    · rw [if_pos hx, if_pos hx.symm]
    · rw [if_neg hx, if_neg (Ne.symm hx)]
  | cons c m ih =>
    have ih := ih fun d hd => h d (List.mem_cons_of_mem _ hd)
    have hc := h c (List.mem_cons_self ..)
    unfold memInsert
    split
    · rw [memGet_cons]
      by_cases hx : x = a
      · rw [if_pos hx, if_pos hx.symm]
      · rw [if_neg hx, if_neg (Ne.symm hx)]
    · rw [memGet_cons, memGet_cons, ih]
      by_cases hcx : c.1 = x
      · have : x ≠ a := fun e => hc (hcx.trans e)
        rw [if_pos hcx, if_pos hcx, if_neg this]
      · rw [if_neg hcx, if_neg hcx]

/-- The byte written reads back, every other byte reads as before. -/
theorem memGet_memSet (m : Mem) (a : Nat) (b : Byte) (x : Nat) : memGet (memSet m a b) x = if x = a then b else memGet m x := by
  unfold memSet
  dsimp only
  have hn : ∀ c ∈ m.filter (fun c => c.1 != a), c.1 ≠ a := fun c hc => by simpa using (List.mem_filter.mp hc).2
  have hf : x ≠ a → memGet (m.filter fun c => c.1 != a) x = memGet m x := fun hx =>
    memGet_filter m _ x fun c _ e => by simpa [e] using hx
  split
  · rename_i hb
    split
    · rename_i hx
      rw [hb]
      exact memGet_none _ _ fun c hc => by rw [hx]; exact hn c hc
    · exact hf ‹_›
  · rw [memGet_memInsert _ _ _ _ hn]
    split
    · rfl
    · exact hf ‹_›

/-- Bytes written from an address on read back, every other byte reads as before. -/
theorem memGet_memWrite (m : Mem) (a : Nat) (bs : List Byte) (x : Nat) :
    memGet (memWrite m a bs) x = if a ≤ x ∧ x < a + bs.length then bs.getD (x - a) 0#8 else memGet m x := by
  induction bs generalizing m a with
  | nil =>
    have : ¬ (a ≤ x ∧ x < a + ([] : List Byte).length) := by simp only [List.length_nil]; omega
    rw [if_neg this]
    rfl
  | cons b bs ih =>
    show memGet (memWrite (memSet m a b) (a + 1) bs) x = _
    rw [ih, memGet_memSet]
    simp only [List.length_cons]
    by_cases hx : x = a
    · subst hx
      have : ¬ (x + 1 ≤ x ∧ x < x + 1 + bs.length) := by omega
      simp
    · by_cases hr : a + 1 ≤ x ∧ x < a + 1 + bs.length
      · have h2 : a ≤ x ∧ x < a + (bs.length + 1) := by omega
        rw [if_pos hr, if_pos h2]
        have : x - a = (x - (a + 1)) + 1 := by omega
        rw [this, List.getD_cons_succ]
      · have h2 : ¬ (a ≤ x ∧ x < a + (bs.length + 1)) := by omega
        rw [if_neg hr, if_neg h2, if_neg hx]

/-- A splice reads as its source inside the extent and as its destination outside it. -/
theorem memGet_memSplice (src dst : Mem) (a n x : Nat) :
    memGet (memSplice src dst a n) x = if a ≤ x ∧ x < a + n then memGet src x else memGet dst x := by
  unfold memSplice
  by_cases hx : a ≤ x ∧ x < a + n
  · rw [if_pos hx, memGet_append_left _ _ _ fun c hc => by
      have := (List.mem_filter.mp hc).2
      simp only [decide_eq_true_eq] at this
      omega]
    rw [memGet_append _ _ _ fun c hc => by
      have := (List.mem_filter.mp hc).2
      simp only [decide_eq_true_eq] at this
      omega]
    exact memGet_filter _ _ _ fun c _ e => by simp [e, hx]
  · rw [if_neg hx]
    by_cases hl : x < a
    · rw [List.append_assoc, memGet_append_left _ _ _ fun c hc => by
        rcases List.mem_append.mp hc with hc | hc
        · have := (List.mem_filter.mp hc).2
          simp only [Bool.and_eq_true, decide_eq_true_eq] at this
          omega
        · have := (List.mem_filter.mp hc).2
          simp only [decide_eq_true_eq] at this
          omega]
      exact memGet_filter _ _ _ fun c _ e => by simp [e, hl]
    · rw [memGet_append _ _ _ fun c hc => by
        rcases List.mem_append.mp hc with hc | hc
        · have := (List.mem_filter.mp hc).2
          simp only [decide_eq_true_eq] at this
          omega
        · have := (List.mem_filter.mp hc).2
          simp only [Bool.and_eq_true, decide_eq_true_eq] at this
          omega]
      exact memGet_filter _ _ _ fun c _ e => by simp [e]; omega

/-! ## Pages -/

/-- Changing a page leaves the bytes of the tiers as they were. -/
@[simp] theorem modPage_t1 (r : Range) (no : Nat) (g : Page → Page) : (r.modPage no g).t1 = r.t1 := by unfold Range.modPage; split <;> rfl
@[simp] theorem modPage_t2 (r : Range) (no : Nat) (g : Page → Page) : (r.modPage no g).t2 = r.t2 := by unfold Range.modPage; split <;> rfl
@[simp] theorem modPage_t3 (r : Range) (no : Nat) (g : Page → Page) : (r.modPage no g).t3 = r.t3 := by unfold Range.modPage; split <;> rfl
@[simp] theorem modPage_dur (r : Range) (no : Nat) (g : Page → Page) : (r.modPage no g).dur = r.dur := by unfold Range.modPage; split <;> rfl

/-- The range of a pavilion at reset has its four memories in canonical form. -/
theorem reset_wf : Memory.wf Range.reset.t1 = true ∧ Memory.wf Range.reset.t2 = true ∧ Memory.wf Range.reset.t3 = true ∧
    Memory.wf Range.reset.dur = true := by decide

end Sys2Proof.Machine
end

