-- ==== Sys2Proof/Laws/State.lean ====
section
/-! SUPPORT. What each update of one part of the state leaves in every part: the part it changes, and every other part as it was.
One theorem per update, a conjunction that `simp` takes field by field. -/

namespace Sys2Proof.Machine

@[simp] theorem modFn_parts (f₀ : Fn) (g : FnState → FnState) (s : State) :
    (modFn f₀ g s).pending = s.pending ∧ (modFn f₀ g s).free = s.free ∧ (modFn f₀ g s).nextId = s.nextId ∧
    (modFn f₀ g s).out = s.out ∧ (modFn f₀ g s).phase = s.phase ∧ (modFn f₀ g s).fns = modifyAt s.fns f₀.val g ∧
    (modFn f₀ g s).works = s.works ∧ (modFn f₀ g s).clk = s.clk ∧ (modFn f₀ g s).dies = s.dies ∧ (modFn f₀ g s).lds = s.lds ∧
    (modFn f₀ g s).scs = s.scs ∧ (modFn f₀ g s).sts = s.sts ∧ (modFn f₀ g s).mods = s.mods ∧ (modFn f₀ g s).lodge = s.lodge ∧
    (modFn f₀ g s).chans = s.chans ∧ (modFn f₀ g s).rx = s.rx ∧ (modFn f₀ g s).pwr = s.pwr ∧ (modFn f₀ g s).side = s.side ∧
    (modFn f₀ g s).stats = s.stats ∧ (modFn f₀ g s).pvStats = s.pvStats ∧ (modFn f₀ g s).corpora = s.corpora ∧
    (modFn f₀ g s).ranges = s.ranges ∧ (modFn f₀ g s).tier = s.tier ∧ (modFn f₀ g s).upd = s.upd ∧
    (modFn f₀ g s).scan = s.scan ∧ (modFn f₀ g s).flash = s.flash ∧ (modFn f₀ g s).fab = s.fab ∧ (modFn f₀ g s).comp = s.comp ∧
    (modFn f₀ g s).qos = s.qos ∧ (modFn f₀ g s).integ = s.integ ∧ (modFn f₀ g s).live = s.live ∧
    (modFn f₀ g s).linkUp = s.linkUp ∧ (modFn f₀ g s).flushing = s.flushing ∧ (modFn f₀ g s).hfn = s.hfn ∧
    (modFn f₀ g s).node = s.node ∧ (modFn f₀ g s).admits = s.admits ∧ (∀ p : Nat, (modFn f₀ g s).corpus p = s.corpus p) ∧
    (∀ p : Nat, (modFn f₀ g s).range p = s.range p) ∧ (∀ c : Nat, (modFn f₀ g s).chan c = s.chan c) ∧
    (∀ i : Nat, (modFn f₀ g s).work i = s.work i) := by
  refine ⟨?_, ?_, ?_, ?_, ?_, ?_, ?_, ?_, ?_, ?_, ?_, ?_, ?_, ?_, ?_, ?_, ?_, ?_, ?_, ?_, ?_, ?_, ?_, ?_, ?_, ?_, ?_, ?_, ?_, ?_, ?_, ?_, ?_, ?_, ?_, ?_, ?_, ?_, ?_, ?_⟩
  all_goals first | rfl | exact fun _ => rfl

@[simp] theorem modRing_parts (f₀ : Fn) (r : Nat) (g : Ring → Ring) (s : State) :
    (modRing f₀ r g s).pending = s.pending ∧ (modRing f₀ r g s).free = s.free ∧ (modRing f₀ r g s).nextId = s.nextId ∧
    (modRing f₀ r g s).out = s.out ∧ (modRing f₀ r g s).phase = s.phase ∧
    (modRing f₀ r g s).fns = (modifyAt s.fns f₀.val fun x => { x with rings := modifyAt x.rings r g }) ∧
    (modRing f₀ r g s).works = s.works ∧ (modRing f₀ r g s).clk = s.clk ∧ (modRing f₀ r g s).dies = s.dies ∧
    (modRing f₀ r g s).lds = s.lds ∧ (modRing f₀ r g s).scs = s.scs ∧ (modRing f₀ r g s).sts = s.sts ∧
    (modRing f₀ r g s).mods = s.mods ∧ (modRing f₀ r g s).lodge = s.lodge ∧ (modRing f₀ r g s).chans = s.chans ∧
    (modRing f₀ r g s).rx = s.rx ∧ (modRing f₀ r g s).pwr = s.pwr ∧ (modRing f₀ r g s).side = s.side ∧
    (modRing f₀ r g s).stats = s.stats ∧ (modRing f₀ r g s).pvStats = s.pvStats ∧ (modRing f₀ r g s).corpora = s.corpora ∧
    (modRing f₀ r g s).ranges = s.ranges ∧ (modRing f₀ r g s).tier = s.tier ∧ (modRing f₀ r g s).upd = s.upd ∧
    (modRing f₀ r g s).scan = s.scan ∧ (modRing f₀ r g s).flash = s.flash ∧ (modRing f₀ r g s).fab = s.fab ∧
    (modRing f₀ r g s).comp = s.comp ∧ (modRing f₀ r g s).qos = s.qos ∧ (modRing f₀ r g s).integ = s.integ ∧
    (modRing f₀ r g s).live = s.live ∧ (modRing f₀ r g s).linkUp = s.linkUp ∧ (modRing f₀ r g s).flushing = s.flushing ∧
    (modRing f₀ r g s).hfn = s.hfn ∧ (modRing f₀ r g s).node = s.node ∧ (modRing f₀ r g s).admits = s.admits ∧
    (∀ p : Nat, (modRing f₀ r g s).corpus p = s.corpus p) ∧ (∀ p : Nat, (modRing f₀ r g s).range p = s.range p) ∧
    (∀ c : Nat, (modRing f₀ r g s).chan c = s.chan c) ∧ (∀ i : Nat, (modRing f₀ r g s).work i = s.work i) := by
  refine ⟨?_, ?_, ?_, ?_, ?_, ?_, ?_, ?_, ?_, ?_, ?_, ?_, ?_, ?_, ?_, ?_, ?_, ?_, ?_, ?_, ?_, ?_, ?_, ?_, ?_, ?_, ?_, ?_, ?_, ?_, ?_, ?_, ?_, ?_, ?_, ?_, ?_, ?_, ?_, ?_⟩
  all_goals first | rfl | exact fun _ => rfl

@[simp] theorem modCorpus_parts (p₀ : Nat) (g : Corpus → Corpus) (s : State) :
    (modCorpus p₀ g s).pending = s.pending ∧ (modCorpus p₀ g s).free = s.free ∧ (modCorpus p₀ g s).nextId = s.nextId ∧
    (modCorpus p₀ g s).out = s.out ∧ (modCorpus p₀ g s).phase = s.phase ∧ (modCorpus p₀ g s).fns = s.fns ∧
    (modCorpus p₀ g s).works = s.works ∧ (modCorpus p₀ g s).clk = s.clk ∧ (modCorpus p₀ g s).dies = s.dies ∧
    (modCorpus p₀ g s).lds = s.lds ∧ (modCorpus p₀ g s).scs = s.scs ∧ (modCorpus p₀ g s).sts = s.sts ∧
    (modCorpus p₀ g s).mods = s.mods ∧ (modCorpus p₀ g s).lodge = s.lodge ∧ (modCorpus p₀ g s).chans = s.chans ∧
    (modCorpus p₀ g s).rx = s.rx ∧ (modCorpus p₀ g s).pwr = s.pwr ∧ (modCorpus p₀ g s).side = s.side ∧
    (modCorpus p₀ g s).stats = s.stats ∧ (modCorpus p₀ g s).pvStats = s.pvStats ∧
    (modCorpus p₀ g s).corpora = modifyAt s.corpora p₀ g ∧ (modCorpus p₀ g s).ranges = s.ranges ∧
    (modCorpus p₀ g s).tier = s.tier ∧ (modCorpus p₀ g s).upd = s.upd ∧ (modCorpus p₀ g s).scan = s.scan ∧
    (modCorpus p₀ g s).flash = s.flash ∧ (modCorpus p₀ g s).fab = s.fab ∧ (modCorpus p₀ g s).comp = s.comp ∧
    (modCorpus p₀ g s).qos = s.qos ∧ (modCorpus p₀ g s).integ = s.integ ∧ (modCorpus p₀ g s).live = s.live ∧
    (modCorpus p₀ g s).linkUp = s.linkUp ∧ (modCorpus p₀ g s).flushing = s.flushing ∧ (modCorpus p₀ g s).hfn = s.hfn ∧
    (modCorpus p₀ g s).node = s.node ∧ (modCorpus p₀ g s).admits = s.admits ∧ (∀ f : Fn, (modCorpus p₀ g s).fn f = s.fn f) ∧
    (∀ f : Fn, (modCorpus p₀ g s).fnUp f = s.fnUp f) ∧ (∀ p : Nat, (modCorpus p₀ g s).range p = s.range p) ∧
    (∀ c : Nat, (modCorpus p₀ g s).chan c = s.chan c) ∧ (∀ i : Nat, (modCorpus p₀ g s).work i = s.work i) := by
  refine ⟨?_, ?_, ?_, ?_, ?_, ?_, ?_, ?_, ?_, ?_, ?_, ?_, ?_, ?_, ?_, ?_, ?_, ?_, ?_, ?_, ?_, ?_, ?_, ?_, ?_, ?_, ?_, ?_, ?_, ?_, ?_, ?_, ?_, ?_, ?_, ?_, ?_, ?_, ?_, ?_, ?_⟩
  all_goals first | rfl | exact fun _ => rfl

@[simp] theorem modRange_parts (p₀ : Nat) (g : Range → Range) (s : State) :
    (modRange p₀ g s).pending = s.pending ∧ (modRange p₀ g s).free = s.free ∧ (modRange p₀ g s).nextId = s.nextId ∧
    (modRange p₀ g s).out = s.out ∧ (modRange p₀ g s).phase = s.phase ∧ (modRange p₀ g s).fns = s.fns ∧
    (modRange p₀ g s).works = s.works ∧ (modRange p₀ g s).clk = s.clk ∧ (modRange p₀ g s).dies = s.dies ∧
    (modRange p₀ g s).lds = s.lds ∧ (modRange p₀ g s).scs = s.scs ∧ (modRange p₀ g s).sts = s.sts ∧
    (modRange p₀ g s).mods = s.mods ∧ (modRange p₀ g s).lodge = s.lodge ∧ (modRange p₀ g s).chans = s.chans ∧
    (modRange p₀ g s).rx = s.rx ∧ (modRange p₀ g s).pwr = s.pwr ∧ (modRange p₀ g s).side = s.side ∧
    (modRange p₀ g s).stats = s.stats ∧ (modRange p₀ g s).pvStats = s.pvStats ∧ (modRange p₀ g s).corpora = s.corpora ∧
    (modRange p₀ g s).ranges = modifyAt s.ranges p₀ g ∧ (modRange p₀ g s).tier = s.tier ∧ (modRange p₀ g s).upd = s.upd ∧
    (modRange p₀ g s).scan = s.scan ∧ (modRange p₀ g s).flash = s.flash ∧ (modRange p₀ g s).fab = s.fab ∧
    (modRange p₀ g s).comp = s.comp ∧ (modRange p₀ g s).qos = s.qos ∧ (modRange p₀ g s).integ = s.integ ∧
    (modRange p₀ g s).live = s.live ∧ (modRange p₀ g s).linkUp = s.linkUp ∧ (modRange p₀ g s).flushing = s.flushing ∧
    (modRange p₀ g s).hfn = s.hfn ∧ (modRange p₀ g s).node = s.node ∧ (modRange p₀ g s).admits = s.admits ∧
    (∀ f : Fn, (modRange p₀ g s).fn f = s.fn f) ∧ (∀ f : Fn, (modRange p₀ g s).fnUp f = s.fnUp f) ∧
    (∀ p : Nat, (modRange p₀ g s).corpus p = s.corpus p) ∧ (∀ c : Nat, (modRange p₀ g s).chan c = s.chan c) ∧
    (∀ i : Nat, (modRange p₀ g s).work i = s.work i) := by
  refine ⟨?_, ?_, ?_, ?_, ?_, ?_, ?_, ?_, ?_, ?_, ?_, ?_, ?_, ?_, ?_, ?_, ?_, ?_, ?_, ?_, ?_, ?_, ?_, ?_, ?_, ?_, ?_, ?_, ?_, ?_, ?_, ?_, ?_, ?_, ?_, ?_, ?_, ?_, ?_, ?_, ?_⟩
  all_goals first | rfl | exact fun _ => rfl

@[simp] theorem emit_parts (o : Out) (s : State) :
    (emit o s).pending = s.pending ∧ (emit o s).free = s.free ∧ (emit o s).nextId = s.nextId ∧ (emit o s).out = s.out ++ [o] ∧
    (emit o s).phase = s.phase ∧ (emit o s).fns = s.fns ∧ (emit o s).works = s.works ∧ (emit o s).clk = s.clk ∧
    (emit o s).dies = s.dies ∧ (emit o s).lds = s.lds ∧ (emit o s).scs = s.scs ∧ (emit o s).sts = s.sts ∧
    (emit o s).mods = s.mods ∧ (emit o s).lodge = s.lodge ∧ (emit o s).chans = s.chans ∧ (emit o s).rx = s.rx ∧
    (emit o s).pwr = s.pwr ∧ (emit o s).side = s.side ∧ (emit o s).stats = s.stats ∧ (emit o s).pvStats = s.pvStats ∧
    (emit o s).corpora = s.corpora ∧ (emit o s).ranges = s.ranges ∧ (emit o s).tier = s.tier ∧ (emit o s).upd = s.upd ∧
    (emit o s).scan = s.scan ∧ (emit o s).flash = s.flash ∧ (emit o s).fab = s.fab ∧ (emit o s).comp = s.comp ∧
    (emit o s).qos = s.qos ∧ (emit o s).integ = s.integ ∧ (emit o s).live = s.live ∧ (emit o s).linkUp = s.linkUp ∧
    (emit o s).flushing = s.flushing ∧ (emit o s).hfn = s.hfn ∧ (emit o s).node = s.node ∧ (emit o s).admits = s.admits ∧
    (∀ f : Fn, (emit o s).fn f = s.fn f) ∧ (∀ f : Fn, (emit o s).fnUp f = s.fnUp f) ∧
    (∀ p : Nat, (emit o s).corpus p = s.corpus p) ∧ (∀ p : Nat, (emit o s).range p = s.range p) ∧
    (∀ c : Nat, (emit o s).chan c = s.chan c) ∧ (∀ i : Nat, (emit o s).work i = s.work i) := by
  refine ⟨?_, ?_, ?_, ?_, ?_, ?_, ?_, ?_, ?_, ?_, ?_, ?_, ?_, ?_, ?_, ?_, ?_, ?_, ?_, ?_, ?_, ?_, ?_, ?_, ?_, ?_, ?_, ?_, ?_, ?_, ?_, ?_, ?_, ?_, ?_, ?_, ?_, ?_, ?_, ?_, ?_, ?_⟩
  all_goals first | rfl | exact fun _ => rfl

@[simp] theorem modWork_parts (id : Nat) (g : Work → Work) (s : State) :
    (modWork id g s).pending = s.pending ∧ (modWork id g s).free = s.free ∧ (modWork id g s).nextId = s.nextId ∧
    (modWork id g s).out = s.out ∧ (modWork id g s).phase = s.phase ∧ (modWork id g s).fns = s.fns ∧
    (modWork id g s).works = (mapIf (fun w => w.id == id) g s.works) ∧ (modWork id g s).clk = s.clk ∧
    (modWork id g s).dies = s.dies ∧ (modWork id g s).lds = s.lds ∧ (modWork id g s).scs = s.scs ∧
    (modWork id g s).sts = s.sts ∧ (modWork id g s).mods = s.mods ∧ (modWork id g s).lodge = s.lodge ∧
    (modWork id g s).chans = s.chans ∧ (modWork id g s).rx = s.rx ∧ (modWork id g s).pwr = s.pwr ∧
    (modWork id g s).side = s.side ∧ (modWork id g s).stats = s.stats ∧ (modWork id g s).pvStats = s.pvStats ∧
    (modWork id g s).corpora = s.corpora ∧ (modWork id g s).ranges = s.ranges ∧ (modWork id g s).tier = s.tier ∧
    (modWork id g s).upd = s.upd ∧ (modWork id g s).scan = s.scan ∧ (modWork id g s).flash = s.flash ∧
    (modWork id g s).fab = s.fab ∧ (modWork id g s).comp = s.comp ∧ (modWork id g s).qos = s.qos ∧
    (modWork id g s).integ = s.integ ∧ (modWork id g s).live = s.live ∧ (modWork id g s).linkUp = s.linkUp ∧
    (modWork id g s).flushing = s.flushing ∧ (modWork id g s).hfn = s.hfn ∧ (modWork id g s).node = s.node ∧
    (modWork id g s).admits = s.admits ∧ (∀ f : Fn, (modWork id g s).fn f = s.fn f) ∧
    (∀ f : Fn, (modWork id g s).fnUp f = s.fnUp f) ∧ (∀ p : Nat, (modWork id g s).corpus p = s.corpus p) ∧
    (∀ p : Nat, (modWork id g s).range p = s.range p) ∧ (∀ c : Nat, (modWork id g s).chan c = s.chan c) := by
  refine ⟨?_, ?_, ?_, ?_, ?_, ?_, ?_, ?_, ?_, ?_, ?_, ?_, ?_, ?_, ?_, ?_, ?_, ?_, ?_, ?_, ?_, ?_, ?_, ?_, ?_, ?_, ?_, ?_, ?_, ?_, ?_, ?_, ?_, ?_, ?_, ?_, ?_, ?_, ?_, ?_, ?_⟩
  all_goals first | rfl | exact fun _ => rfl

@[simp] theorem modChan_parts (c₀ : Nat) (g : Chan → Chan) (s : State) :
    (modChan c₀ g s).pending = s.pending ∧ (modChan c₀ g s).free = s.free ∧ (modChan c₀ g s).nextId = s.nextId ∧
    (modChan c₀ g s).out = s.out ∧ (modChan c₀ g s).phase = s.phase ∧ (modChan c₀ g s).fns = s.fns ∧
    (modChan c₀ g s).works = s.works ∧ (modChan c₀ g s).clk = s.clk ∧ (modChan c₀ g s).dies = s.dies ∧
    (modChan c₀ g s).lds = s.lds ∧ (modChan c₀ g s).scs = s.scs ∧ (modChan c₀ g s).sts = s.sts ∧
    (modChan c₀ g s).mods = s.mods ∧ (modChan c₀ g s).lodge = s.lodge ∧ (modChan c₀ g s).chans = modifyAt s.chans c₀ g ∧
    (modChan c₀ g s).rx = s.rx ∧ (modChan c₀ g s).pwr = s.pwr ∧ (modChan c₀ g s).side = s.side ∧
    (modChan c₀ g s).stats = s.stats ∧ (modChan c₀ g s).pvStats = s.pvStats ∧ (modChan c₀ g s).corpora = s.corpora ∧
    (modChan c₀ g s).ranges = s.ranges ∧ (modChan c₀ g s).tier = s.tier ∧ (modChan c₀ g s).upd = s.upd ∧
    (modChan c₀ g s).scan = s.scan ∧ (modChan c₀ g s).flash = s.flash ∧ (modChan c₀ g s).fab = s.fab ∧
    (modChan c₀ g s).comp = s.comp ∧ (modChan c₀ g s).qos = s.qos ∧ (modChan c₀ g s).integ = s.integ ∧
    (modChan c₀ g s).live = s.live ∧ (modChan c₀ g s).linkUp = s.linkUp ∧ (modChan c₀ g s).flushing = s.flushing ∧
    (modChan c₀ g s).hfn = s.hfn ∧ (modChan c₀ g s).node = s.node ∧ (modChan c₀ g s).admits = s.admits ∧
    (∀ f : Fn, (modChan c₀ g s).fn f = s.fn f) ∧ (∀ f : Fn, (modChan c₀ g s).fnUp f = s.fnUp f) ∧
    (∀ p : Nat, (modChan c₀ g s).corpus p = s.corpus p) ∧ (∀ p : Nat, (modChan c₀ g s).range p = s.range p) ∧
    (∀ i : Nat, (modChan c₀ g s).work i = s.work i) := by
  refine ⟨?_, ?_, ?_, ?_, ?_, ?_, ?_, ?_, ?_, ?_, ?_, ?_, ?_, ?_, ?_, ?_, ?_, ?_, ?_, ?_, ?_, ?_, ?_, ?_, ?_, ?_, ?_, ?_, ?_, ?_, ?_, ?_, ?_, ?_, ?_, ?_, ?_, ?_, ?_, ?_, ?_⟩
  all_goals first | rfl | exact fun _ => rfl

@[simp] theorem modDie_parts (d : Nat) (g : Die → Die) (s : State) :
    (modDie d g s).pending = s.pending ∧ (modDie d g s).free = s.free ∧ (modDie d g s).nextId = s.nextId ∧
    (modDie d g s).out = s.out ∧ (modDie d g s).phase = s.phase ∧ (modDie d g s).fns = s.fns ∧ (modDie d g s).works = s.works ∧
    (modDie d g s).clk = s.clk ∧ (modDie d g s).dies = modifyAt s.dies d g ∧ (modDie d g s).lds = s.lds ∧
    (modDie d g s).scs = s.scs ∧ (modDie d g s).sts = s.sts ∧ (modDie d g s).mods = s.mods ∧ (modDie d g s).lodge = s.lodge ∧
    (modDie d g s).chans = s.chans ∧ (modDie d g s).rx = s.rx ∧ (modDie d g s).pwr = s.pwr ∧ (modDie d g s).side = s.side ∧
    (modDie d g s).stats = s.stats ∧ (modDie d g s).pvStats = s.pvStats ∧ (modDie d g s).corpora = s.corpora ∧
    (modDie d g s).ranges = s.ranges ∧ (modDie d g s).tier = s.tier ∧ (modDie d g s).upd = s.upd ∧
    (modDie d g s).scan = s.scan ∧ (modDie d g s).flash = s.flash ∧ (modDie d g s).fab = s.fab ∧ (modDie d g s).comp = s.comp ∧
    (modDie d g s).qos = s.qos ∧ (modDie d g s).integ = s.integ ∧ (modDie d g s).live = s.live ∧
    (modDie d g s).linkUp = s.linkUp ∧ (modDie d g s).flushing = s.flushing ∧ (modDie d g s).hfn = s.hfn ∧
    (modDie d g s).node = s.node ∧ (modDie d g s).admits = s.admits ∧ (∀ f : Fn, (modDie d g s).fn f = s.fn f) ∧
    (∀ f : Fn, (modDie d g s).fnUp f = s.fnUp f) ∧ (∀ p : Nat, (modDie d g s).corpus p = s.corpus p) ∧
    (∀ p : Nat, (modDie d g s).range p = s.range p) ∧ (∀ c : Nat, (modDie d g s).chan c = s.chan c) ∧
    (∀ i : Nat, (modDie d g s).work i = s.work i) := by
  refine ⟨?_, ?_, ?_, ?_, ?_, ?_, ?_, ?_, ?_, ?_, ?_, ?_, ?_, ?_, ?_, ?_, ?_, ?_, ?_, ?_, ?_, ?_, ?_, ?_, ?_, ?_, ?_, ?_, ?_, ?_, ?_, ?_, ?_, ?_, ?_, ?_, ?_, ?_, ?_, ?_, ?_, ?_⟩
  all_goals first | rfl | exact fun _ => rfl

@[simp] theorem modModule_parts (n m : Nat) (g : Module → Module) (s : State) :
    (modModule n m g s).pending = s.pending ∧ (modModule n m g s).free = s.free ∧ (modModule n m g s).nextId = s.nextId ∧
    (modModule n m g s).out = s.out ∧ (modModule n m g s).phase = s.phase ∧ (modModule n m g s).fns = s.fns ∧
    (modModule n m g s).works = s.works ∧ (modModule n m g s).clk = s.clk ∧ (modModule n m g s).dies = s.dies ∧
    (modModule n m g s).lds = s.lds ∧ (modModule n m g s).scs = s.scs ∧ (modModule n m g s).sts = s.sts ∧
    (modModule n m g s).mods = (modifyAt s.mods n fun ms => modifyAt ms m g) ∧ (modModule n m g s).lodge = s.lodge ∧
    (modModule n m g s).chans = s.chans ∧ (modModule n m g s).rx = s.rx ∧ (modModule n m g s).pwr = s.pwr ∧
    (modModule n m g s).side = s.side ∧ (modModule n m g s).stats = s.stats ∧ (modModule n m g s).pvStats = s.pvStats ∧
    (modModule n m g s).corpora = s.corpora ∧ (modModule n m g s).ranges = s.ranges ∧ (modModule n m g s).tier = s.tier ∧
    (modModule n m g s).upd = s.upd ∧ (modModule n m g s).scan = s.scan ∧ (modModule n m g s).flash = s.flash ∧
    (modModule n m g s).fab = s.fab ∧ (modModule n m g s).comp = s.comp ∧ (modModule n m g s).qos = s.qos ∧
    (modModule n m g s).integ = s.integ ∧ (modModule n m g s).live = s.live ∧ (modModule n m g s).linkUp = s.linkUp ∧
    (modModule n m g s).flushing = s.flushing ∧ (modModule n m g s).hfn = s.hfn ∧ (modModule n m g s).node = s.node ∧
    (modModule n m g s).admits = s.admits ∧ (∀ f : Fn, (modModule n m g s).fn f = s.fn f) ∧
    (∀ f : Fn, (modModule n m g s).fnUp f = s.fnUp f) ∧ (∀ p : Nat, (modModule n m g s).corpus p = s.corpus p) ∧
    (∀ p : Nat, (modModule n m g s).range p = s.range p) ∧ (∀ c : Nat, (modModule n m g s).chan c = s.chan c) ∧
    (∀ i : Nat, (modModule n m g s).work i = s.work i) := by
  refine ⟨?_, ?_, ?_, ?_, ?_, ?_, ?_, ?_, ?_, ?_, ?_, ?_, ?_, ?_, ?_, ?_, ?_, ?_, ?_, ?_, ?_, ?_, ?_, ?_, ?_, ?_, ?_, ?_, ?_, ?_, ?_, ?_, ?_, ?_, ?_, ?_, ?_, ?_, ?_, ?_, ?_, ?_⟩
  all_goals first | rfl | exact fun _ => rfl

@[simp] theorem modKeeper_parts (g : Keeper → Keeper) (s : State) :
    (modKeeper g s).pending = s.pending ∧ (modKeeper g s).free = s.free ∧ (modKeeper g s).nextId = s.nextId ∧
    (modKeeper g s).out = s.out ∧ (modKeeper g s).phase = s.phase ∧ (modKeeper g s).fns = s.fns ∧
    (modKeeper g s).works = s.works ∧ (modKeeper g s).clk = s.clk ∧ (modKeeper g s).dies = s.dies ∧
    (modKeeper g s).lds = s.lds ∧ (modKeeper g s).scs = s.scs ∧ (modKeeper g s).sts = s.sts ∧ (modKeeper g s).mods = s.mods ∧
    (modKeeper g s).lodge = s.lodge ∧ (modKeeper g s).chans = s.chans ∧ (modKeeper g s).rx = s.rx ∧
    (modKeeper g s).pwr = s.pwr ∧ (modKeeper g s).side = s.side ∧ (modKeeper g s).stats = s.stats ∧
    (modKeeper g s).pvStats = s.pvStats ∧ (modKeeper g s).corpora = s.corpora ∧ (modKeeper g s).ranges = s.ranges ∧
    (modKeeper g s).tier = s.tier ∧ (modKeeper g s).upd = s.upd ∧ (modKeeper g s).scan = s.scan ∧
    (modKeeper g s).flash = s.flash ∧ (modKeeper g s).fab = s.fab ∧
    (modKeeper g s).comp = { s.comp with keeper := g s.comp.keeper } ∧ (modKeeper g s).qos = s.qos ∧
    (modKeeper g s).integ = s.integ ∧ (modKeeper g s).live = s.live ∧ (modKeeper g s).linkUp = s.linkUp ∧
    (modKeeper g s).flushing = s.flushing ∧ (modKeeper g s).hfn = s.hfn ∧ (modKeeper g s).node = s.node ∧
    (modKeeper g s).admits = s.admits ∧ (∀ f : Fn, (modKeeper g s).fn f = s.fn f) ∧
    (∀ f : Fn, (modKeeper g s).fnUp f = s.fnUp f) ∧ (∀ p : Nat, (modKeeper g s).corpus p = s.corpus p) ∧
    (∀ p : Nat, (modKeeper g s).range p = s.range p) ∧ (∀ c : Nat, (modKeeper g s).chan c = s.chan c) ∧
    (∀ i : Nat, (modKeeper g s).work i = s.work i) := by
  refine ⟨?_, ?_, ?_, ?_, ?_, ?_, ?_, ?_, ?_, ?_, ?_, ?_, ?_, ?_, ?_, ?_, ?_, ?_, ?_, ?_, ?_, ?_, ?_, ?_, ?_, ?_, ?_, ?_, ?_, ?_, ?_, ?_, ?_, ?_, ?_, ?_, ?_, ?_, ?_, ?_, ?_, ?_⟩
  all_goals first | rfl | exact fun _ => rfl

@[simp] theorem modPort_parts (n : Nat) (g : Port → Port) (s : State) :
    (modPort n g s).pending = s.pending ∧ (modPort n g s).free = s.free ∧ (modPort n g s).nextId = s.nextId ∧
    (modPort n g s).out = s.out ∧ (modPort n g s).phase = s.phase ∧ (modPort n g s).fns = s.fns ∧
    (modPort n g s).works = s.works ∧ (modPort n g s).clk = s.clk ∧ (modPort n g s).dies = s.dies ∧
    (modPort n g s).lds = s.lds ∧ (modPort n g s).scs = s.scs ∧ (modPort n g s).sts = s.sts ∧ (modPort n g s).mods = s.mods ∧
    (modPort n g s).lodge = s.lodge ∧ (modPort n g s).chans = s.chans ∧ (modPort n g s).rx = s.rx ∧
    (modPort n g s).pwr = s.pwr ∧ (modPort n g s).side = s.side ∧ (modPort n g s).stats = s.stats ∧
    (modPort n g s).pvStats = s.pvStats ∧ (modPort n g s).corpora = s.corpora ∧ (modPort n g s).ranges = s.ranges ∧
    (modPort n g s).tier = s.tier ∧ (modPort n g s).upd = s.upd ∧ (modPort n g s).scan = s.scan ∧
    (modPort n g s).flash = s.flash ∧ (modPort n g s).fab = { s.fab with ports := modifyAt s.fab.ports n g } ∧
    (modPort n g s).comp = s.comp ∧ (modPort n g s).qos = s.qos ∧ (modPort n g s).integ = s.integ ∧
    (modPort n g s).live = s.live ∧ (modPort n g s).linkUp = s.linkUp ∧ (modPort n g s).flushing = s.flushing ∧
    (modPort n g s).hfn = s.hfn ∧ (modPort n g s).admits = s.admits ∧ (∀ f : Fn, (modPort n g s).fn f = s.fn f) ∧
    (∀ f : Fn, (modPort n g s).fnUp f = s.fnUp f) ∧ (∀ p : Nat, (modPort n g s).corpus p = s.corpus p) ∧
    (∀ p : Nat, (modPort n g s).range p = s.range p) ∧ (∀ c : Nat, (modPort n g s).chan c = s.chan c) ∧
    (∀ i : Nat, (modPort n g s).work i = s.work i) := by
  refine ⟨?_, ?_, ?_, ?_, ?_, ?_, ?_, ?_, ?_, ?_, ?_, ?_, ?_, ?_, ?_, ?_, ?_, ?_, ?_, ?_, ?_, ?_, ?_, ?_, ?_, ?_, ?_, ?_, ?_, ?_, ?_, ?_, ?_, ?_, ?_, ?_, ?_, ?_, ?_, ?_, ?_⟩
  all_goals first | rfl | exact fun _ => rfl

@[simp] theorem modStack_parts (n : Nat) (g : Stack → Stack) (s : State) :
    (modStack n g s).pending = s.pending ∧ (modStack n g s).free = s.free ∧ (modStack n g s).nextId = s.nextId ∧
    (modStack n g s).out = s.out ∧ (modStack n g s).phase = s.phase ∧ (modStack n g s).fns = s.fns ∧
    (modStack n g s).works = s.works ∧ (modStack n g s).clk = s.clk ∧ (modStack n g s).dies = s.dies ∧
    (modStack n g s).lds = s.lds ∧ (modStack n g s).scs = s.scs ∧ (modStack n g s).sts = s.sts ∧
    (modStack n g s).mods = s.mods ∧ (modStack n g s).lodge = s.lodge ∧ (modStack n g s).chans = s.chans ∧
    (modStack n g s).rx = s.rx ∧ (modStack n g s).pwr = s.pwr ∧ (modStack n g s).side = s.side ∧
    (modStack n g s).stats = s.stats ∧ (modStack n g s).pvStats = s.pvStats ∧ (modStack n g s).corpora = s.corpora ∧
    (modStack n g s).ranges = s.ranges ∧ (modStack n g s).tier = s.tier ∧ (modStack n g s).upd = s.upd ∧
    (modStack n g s).scan = { s.scan with st := modifyAt s.scan.st n g } ∧ (modStack n g s).flash = s.flash ∧
    (modStack n g s).fab = s.fab ∧ (modStack n g s).comp = s.comp ∧ (modStack n g s).qos = s.qos ∧
    (modStack n g s).integ = s.integ ∧ (modStack n g s).live = s.live ∧ (modStack n g s).linkUp = s.linkUp ∧
    (modStack n g s).flushing = s.flushing ∧ (modStack n g s).hfn = s.hfn ∧ (modStack n g s).node = s.node ∧
    (modStack n g s).admits = s.admits ∧ (∀ f : Fn, (modStack n g s).fn f = s.fn f) ∧
    (∀ f : Fn, (modStack n g s).fnUp f = s.fnUp f) ∧ (∀ p : Nat, (modStack n g s).corpus p = s.corpus p) ∧
    (∀ p : Nat, (modStack n g s).range p = s.range p) ∧ (∀ c : Nat, (modStack n g s).chan c = s.chan c) ∧
    (∀ i : Nat, (modStack n g s).work i = s.work i) := by
  refine ⟨?_, ?_, ?_, ?_, ?_, ?_, ?_, ?_, ?_, ?_, ?_, ?_, ?_, ?_, ?_, ?_, ?_, ?_, ?_, ?_, ?_, ?_, ?_, ?_, ?_, ?_, ?_, ?_, ?_, ?_, ?_, ?_, ?_, ?_, ?_, ?_, ?_, ?_, ?_, ?_, ?_, ?_⟩
  all_goals first | rfl | exact fun _ => rfl

@[simp] theorem modLodge_parts (g : Lodge → Lodge) (s : State) :
    (modLodge g s).pending = s.pending ∧ (modLodge g s).free = s.free ∧ (modLodge g s).nextId = s.nextId ∧
    (modLodge g s).out = s.out ∧ (modLodge g s).phase = s.phase ∧ (modLodge g s).fns = s.fns ∧ (modLodge g s).works = s.works ∧
    (modLodge g s).clk = s.clk ∧ (modLodge g s).dies = s.dies ∧ (modLodge g s).lds = s.lds ∧ (modLodge g s).scs = s.scs ∧
    (modLodge g s).sts = s.sts ∧ (modLodge g s).mods = s.mods ∧ (modLodge g s).lodge = g s.lodge ∧
    (modLodge g s).chans = s.chans ∧ (modLodge g s).rx = s.rx ∧ (modLodge g s).pwr = s.pwr ∧ (modLodge g s).side = s.side ∧
    (modLodge g s).stats = s.stats ∧ (modLodge g s).pvStats = s.pvStats ∧ (modLodge g s).corpora = s.corpora ∧
    (modLodge g s).ranges = s.ranges ∧ (modLodge g s).tier = s.tier ∧ (modLodge g s).upd = s.upd ∧
    (modLodge g s).scan = s.scan ∧ (modLodge g s).flash = s.flash ∧ (modLodge g s).fab = s.fab ∧ (modLodge g s).comp = s.comp ∧
    (modLodge g s).qos = s.qos ∧ (modLodge g s).integ = s.integ ∧ (modLodge g s).live = s.live ∧
    (modLodge g s).linkUp = s.linkUp ∧ (modLodge g s).flushing = s.flushing ∧ (modLodge g s).hfn = s.hfn ∧
    (modLodge g s).node = s.node ∧ (modLodge g s).admits = s.admits ∧ (∀ f : Fn, (modLodge g s).fn f = s.fn f) ∧
    (∀ f : Fn, (modLodge g s).fnUp f = s.fnUp f) ∧ (∀ p : Nat, (modLodge g s).corpus p = s.corpus p) ∧
    (∀ p : Nat, (modLodge g s).range p = s.range p) ∧ (∀ c : Nat, (modLodge g s).chan c = s.chan c) ∧
    (∀ i : Nat, (modLodge g s).work i = s.work i) := by
  refine ⟨?_, ?_, ?_, ?_, ?_, ?_, ?_, ?_, ?_, ?_, ?_, ?_, ?_, ?_, ?_, ?_, ?_, ?_, ?_, ?_, ?_, ?_, ?_, ?_, ?_, ?_, ?_, ?_, ?_, ?_, ?_, ?_, ?_, ?_, ?_, ?_, ?_, ?_, ?_, ?_, ?_, ?_⟩
  all_goals first | rfl | exact fun _ => rfl

@[simp] theorem modFlash_parts (g : Flash → Flash) (s : State) :
    (modFlash g s).pending = s.pending ∧ (modFlash g s).free = s.free ∧ (modFlash g s).nextId = s.nextId ∧
    (modFlash g s).out = s.out ∧ (modFlash g s).phase = s.phase ∧ (modFlash g s).fns = s.fns ∧ (modFlash g s).works = s.works ∧
    (modFlash g s).clk = s.clk ∧ (modFlash g s).dies = s.dies ∧ (modFlash g s).lds = s.lds ∧ (modFlash g s).scs = s.scs ∧
    (modFlash g s).sts = s.sts ∧ (modFlash g s).mods = s.mods ∧ (modFlash g s).lodge = s.lodge ∧
    (modFlash g s).chans = s.chans ∧ (modFlash g s).rx = s.rx ∧ (modFlash g s).pwr = s.pwr ∧ (modFlash g s).side = s.side ∧
    (modFlash g s).stats = s.stats ∧ (modFlash g s).pvStats = s.pvStats ∧ (modFlash g s).corpora = s.corpora ∧
    (modFlash g s).ranges = s.ranges ∧ (modFlash g s).tier = s.tier ∧ (modFlash g s).upd = s.upd ∧
    (modFlash g s).scan = s.scan ∧ (modFlash g s).flash = g s.flash ∧ (modFlash g s).fab = s.fab ∧
    (modFlash g s).comp = s.comp ∧ (modFlash g s).qos = s.qos ∧ (modFlash g s).integ = s.integ ∧ (modFlash g s).live = s.live ∧
    (modFlash g s).linkUp = s.linkUp ∧ (modFlash g s).flushing = s.flushing ∧ (modFlash g s).hfn = s.hfn ∧
    (modFlash g s).node = s.node ∧ (modFlash g s).admits = s.admits ∧ (∀ f : Fn, (modFlash g s).fn f = s.fn f) ∧
    (∀ f : Fn, (modFlash g s).fnUp f = s.fnUp f) ∧ (∀ p : Nat, (modFlash g s).corpus p = s.corpus p) ∧
    (∀ p : Nat, (modFlash g s).range p = s.range p) ∧ (∀ c : Nat, (modFlash g s).chan c = s.chan c) ∧
    (∀ i : Nat, (modFlash g s).work i = s.work i) := by
  refine ⟨?_, ?_, ?_, ?_, ?_, ?_, ?_, ?_, ?_, ?_, ?_, ?_, ?_, ?_, ?_, ?_, ?_, ?_, ?_, ?_, ?_, ?_, ?_, ?_, ?_, ?_, ?_, ?_, ?_, ?_, ?_, ?_, ?_, ?_, ?_, ?_, ?_, ?_, ?_, ?_, ?_, ?_⟩
  all_goals first | rfl | exact fun _ => rfl

@[simp] theorem modPwr_parts (g : Power → Power) (s : State) :
    (modPwr g s).pending = s.pending ∧ (modPwr g s).free = s.free ∧ (modPwr g s).nextId = s.nextId ∧ (modPwr g s).out = s.out ∧
    (modPwr g s).phase = s.phase ∧ (modPwr g s).fns = s.fns ∧ (modPwr g s).works = s.works ∧ (modPwr g s).clk = s.clk ∧
    (modPwr g s).dies = s.dies ∧ (modPwr g s).lds = s.lds ∧ (modPwr g s).scs = s.scs ∧ (modPwr g s).sts = s.sts ∧
    (modPwr g s).mods = s.mods ∧ (modPwr g s).lodge = s.lodge ∧ (modPwr g s).chans = s.chans ∧ (modPwr g s).rx = s.rx ∧
    (modPwr g s).pwr = g s.pwr ∧ (modPwr g s).side = s.side ∧ (modPwr g s).stats = s.stats ∧ (modPwr g s).pvStats = s.pvStats ∧
    (modPwr g s).corpora = s.corpora ∧ (modPwr g s).ranges = s.ranges ∧ (modPwr g s).tier = s.tier ∧ (modPwr g s).upd = s.upd ∧
    (modPwr g s).scan = s.scan ∧ (modPwr g s).flash = s.flash ∧ (modPwr g s).fab = s.fab ∧ (modPwr g s).comp = s.comp ∧
    (modPwr g s).qos = s.qos ∧ (modPwr g s).integ = s.integ ∧ (modPwr g s).live = s.live ∧ (modPwr g s).linkUp = s.linkUp ∧
    (modPwr g s).hfn = s.hfn ∧ (modPwr g s).node = s.node ∧ (∀ f : Fn, (modPwr g s).fn f = s.fn f) ∧
    (∀ f : Fn, (modPwr g s).fnUp f = s.fnUp f) ∧ (∀ p : Nat, (modPwr g s).corpus p = s.corpus p) ∧
    (∀ p : Nat, (modPwr g s).range p = s.range p) ∧ (∀ c : Nat, (modPwr g s).chan c = s.chan c) ∧
    (∀ i : Nat, (modPwr g s).work i = s.work i) := by
  refine ⟨?_, ?_, ?_, ?_, ?_, ?_, ?_, ?_, ?_, ?_, ?_, ?_, ?_, ?_, ?_, ?_, ?_, ?_, ?_, ?_, ?_, ?_, ?_, ?_, ?_, ?_, ?_, ?_, ?_, ?_, ?_, ?_, ?_, ?_, ?_, ?_, ?_, ?_, ?_, ?_⟩
  all_goals first | rfl | exact fun _ => rfl

@[simp] theorem modInteg_parts (g : Integ → Integ) (s : State) :
    (modInteg g s).pending = s.pending ∧ (modInteg g s).free = s.free ∧ (modInteg g s).nextId = s.nextId ∧
    (modInteg g s).out = s.out ∧ (modInteg g s).phase = s.phase ∧ (modInteg g s).fns = s.fns ∧ (modInteg g s).works = s.works ∧
    (modInteg g s).clk = s.clk ∧ (modInteg g s).dies = s.dies ∧ (modInteg g s).lds = s.lds ∧ (modInteg g s).scs = s.scs ∧
    (modInteg g s).sts = s.sts ∧ (modInteg g s).mods = s.mods ∧ (modInteg g s).lodge = s.lodge ∧
    (modInteg g s).chans = s.chans ∧ (modInteg g s).rx = s.rx ∧ (modInteg g s).pwr = s.pwr ∧ (modInteg g s).side = s.side ∧
    (modInteg g s).stats = s.stats ∧ (modInteg g s).pvStats = s.pvStats ∧ (modInteg g s).corpora = s.corpora ∧
    (modInteg g s).ranges = s.ranges ∧ (modInteg g s).tier = s.tier ∧ (modInteg g s).upd = s.upd ∧
    (modInteg g s).scan = s.scan ∧ (modInteg g s).flash = s.flash ∧ (modInteg g s).fab = s.fab ∧ (modInteg g s).comp = s.comp ∧
    (modInteg g s).qos = s.qos ∧ (modInteg g s).integ = g s.integ ∧ (modInteg g s).live = s.live ∧
    (modInteg g s).linkUp = s.linkUp ∧ (modInteg g s).flushing = s.flushing ∧ (modInteg g s).hfn = s.hfn ∧
    (modInteg g s).node = s.node ∧ (modInteg g s).admits = s.admits ∧ (∀ f : Fn, (modInteg g s).fn f = s.fn f) ∧
    (∀ f : Fn, (modInteg g s).fnUp f = s.fnUp f) ∧ (∀ p : Nat, (modInteg g s).corpus p = s.corpus p) ∧
    (∀ p : Nat, (modInteg g s).range p = s.range p) ∧ (∀ c : Nat, (modInteg g s).chan c = s.chan c) ∧
    (∀ i : Nat, (modInteg g s).work i = s.work i) := by
  refine ⟨?_, ?_, ?_, ?_, ?_, ?_, ?_, ?_, ?_, ?_, ?_, ?_, ?_, ?_, ?_, ?_, ?_, ?_, ?_, ?_, ?_, ?_, ?_, ?_, ?_, ?_, ?_, ?_, ?_, ?_, ?_, ?_, ?_, ?_, ?_, ?_, ?_, ?_, ?_, ?_, ?_, ?_⟩
  all_goals first | rfl | exact fun _ => rfl

@[simp] theorem modScan_parts (g : Scan → Scan) (s : State) :
    (modScan g s).pending = s.pending ∧ (modScan g s).free = s.free ∧ (modScan g s).nextId = s.nextId ∧
    (modScan g s).out = s.out ∧ (modScan g s).phase = s.phase ∧ (modScan g s).fns = s.fns ∧ (modScan g s).works = s.works ∧
    (modScan g s).clk = s.clk ∧ (modScan g s).dies = s.dies ∧ (modScan g s).lds = s.lds ∧ (modScan g s).scs = s.scs ∧
    (modScan g s).sts = s.sts ∧ (modScan g s).mods = s.mods ∧ (modScan g s).lodge = s.lodge ∧ (modScan g s).chans = s.chans ∧
    (modScan g s).rx = s.rx ∧ (modScan g s).pwr = s.pwr ∧ (modScan g s).side = s.side ∧ (modScan g s).stats = s.stats ∧
    (modScan g s).pvStats = s.pvStats ∧ (modScan g s).corpora = s.corpora ∧ (modScan g s).ranges = s.ranges ∧
    (modScan g s).tier = s.tier ∧ (modScan g s).upd = s.upd ∧ (modScan g s).scan = g s.scan ∧ (modScan g s).flash = s.flash ∧
    (modScan g s).fab = s.fab ∧ (modScan g s).comp = s.comp ∧ (modScan g s).qos = s.qos ∧ (modScan g s).integ = s.integ ∧
    (modScan g s).live = s.live ∧ (modScan g s).linkUp = s.linkUp ∧ (modScan g s).flushing = s.flushing ∧
    (modScan g s).hfn = s.hfn ∧ (modScan g s).node = s.node ∧ (modScan g s).admits = s.admits ∧
    (∀ f : Fn, (modScan g s).fn f = s.fn f) ∧ (∀ f : Fn, (modScan g s).fnUp f = s.fnUp f) ∧
    (∀ p : Nat, (modScan g s).corpus p = s.corpus p) ∧ (∀ p : Nat, (modScan g s).range p = s.range p) ∧
    (∀ c : Nat, (modScan g s).chan c = s.chan c) ∧ (∀ i : Nat, (modScan g s).work i = s.work i) := by
  refine ⟨?_, ?_, ?_, ?_, ?_, ?_, ?_, ?_, ?_, ?_, ?_, ?_, ?_, ?_, ?_, ?_, ?_, ?_, ?_, ?_, ?_, ?_, ?_, ?_, ?_, ?_, ?_, ?_, ?_, ?_, ?_, ?_, ?_, ?_, ?_, ?_, ?_, ?_, ?_, ?_, ?_, ?_⟩
  all_goals first | rfl | exact fun _ => rfl

@[simp] theorem modFab_parts (g : Fabric → Fabric) (s : State) :
    (modFab g s).pending = s.pending ∧ (modFab g s).free = s.free ∧ (modFab g s).nextId = s.nextId ∧ (modFab g s).out = s.out ∧
    (modFab g s).phase = s.phase ∧ (modFab g s).fns = s.fns ∧ (modFab g s).works = s.works ∧ (modFab g s).clk = s.clk ∧
    (modFab g s).dies = s.dies ∧ (modFab g s).lds = s.lds ∧ (modFab g s).scs = s.scs ∧ (modFab g s).sts = s.sts ∧
    (modFab g s).mods = s.mods ∧ (modFab g s).lodge = s.lodge ∧ (modFab g s).chans = s.chans ∧ (modFab g s).rx = s.rx ∧
    (modFab g s).pwr = s.pwr ∧ (modFab g s).side = s.side ∧ (modFab g s).stats = s.stats ∧ (modFab g s).pvStats = s.pvStats ∧
    (modFab g s).corpora = s.corpora ∧ (modFab g s).ranges = s.ranges ∧ (modFab g s).tier = s.tier ∧ (modFab g s).upd = s.upd ∧
    (modFab g s).scan = s.scan ∧ (modFab g s).flash = s.flash ∧ (modFab g s).fab = g s.fab ∧ (modFab g s).comp = s.comp ∧
    (modFab g s).qos = s.qos ∧ (modFab g s).integ = s.integ ∧ (modFab g s).live = s.live ∧ (modFab g s).linkUp = s.linkUp ∧
    (modFab g s).flushing = s.flushing ∧ (modFab g s).hfn = s.hfn ∧ (modFab g s).admits = s.admits ∧
    (∀ f : Fn, (modFab g s).fn f = s.fn f) ∧ (∀ f : Fn, (modFab g s).fnUp f = s.fnUp f) ∧
    (∀ p : Nat, (modFab g s).corpus p = s.corpus p) ∧ (∀ p : Nat, (modFab g s).range p = s.range p) ∧
    (∀ c : Nat, (modFab g s).chan c = s.chan c) ∧ (∀ i : Nat, (modFab g s).work i = s.work i) := by
  refine ⟨?_, ?_, ?_, ?_, ?_, ?_, ?_, ?_, ?_, ?_, ?_, ?_, ?_, ?_, ?_, ?_, ?_, ?_, ?_, ?_, ?_, ?_, ?_, ?_, ?_, ?_, ?_, ?_, ?_, ?_, ?_, ?_, ?_, ?_, ?_, ?_, ?_, ?_, ?_, ?_, ?_⟩
  all_goals first | rfl | exact fun _ => rfl

@[simp] theorem modQos_parts (g : Qos → Qos) (s : State) :
    (modQos g s).pending = s.pending ∧ (modQos g s).free = s.free ∧ (modQos g s).nextId = s.nextId ∧ (modQos g s).out = s.out ∧
    (modQos g s).phase = s.phase ∧ (modQos g s).fns = s.fns ∧ (modQos g s).works = s.works ∧ (modQos g s).clk = s.clk ∧
    (modQos g s).dies = s.dies ∧ (modQos g s).lds = s.lds ∧ (modQos g s).scs = s.scs ∧ (modQos g s).sts = s.sts ∧
    (modQos g s).mods = s.mods ∧ (modQos g s).lodge = s.lodge ∧ (modQos g s).chans = s.chans ∧ (modQos g s).rx = s.rx ∧
    (modQos g s).pwr = s.pwr ∧ (modQos g s).side = s.side ∧ (modQos g s).stats = s.stats ∧ (modQos g s).pvStats = s.pvStats ∧
    (modQos g s).corpora = s.corpora ∧ (modQos g s).ranges = s.ranges ∧ (modQos g s).tier = s.tier ∧ (modQos g s).upd = s.upd ∧
    (modQos g s).scan = s.scan ∧ (modQos g s).flash = s.flash ∧ (modQos g s).fab = s.fab ∧ (modQos g s).comp = s.comp ∧
    (modQos g s).qos = g s.qos ∧ (modQos g s).integ = s.integ ∧ (modQos g s).live = s.live ∧ (modQos g s).linkUp = s.linkUp ∧
    (modQos g s).flushing = s.flushing ∧ (modQos g s).hfn = s.hfn ∧ (modQos g s).node = s.node ∧
    (modQos g s).admits = s.admits ∧ (∀ f : Fn, (modQos g s).fn f = s.fn f) ∧ (∀ p : Nat, (modQos g s).corpus p = s.corpus p) ∧
    (∀ p : Nat, (modQos g s).range p = s.range p) ∧ (∀ c : Nat, (modQos g s).chan c = s.chan c) ∧
    (∀ i : Nat, (modQos g s).work i = s.work i) := by
  refine ⟨?_, ?_, ?_, ?_, ?_, ?_, ?_, ?_, ?_, ?_, ?_, ?_, ?_, ?_, ?_, ?_, ?_, ?_, ?_, ?_, ?_, ?_, ?_, ?_, ?_, ?_, ?_, ?_, ?_, ?_, ?_, ?_, ?_, ?_, ?_, ?_, ?_, ?_, ?_, ?_, ?_⟩
  all_goals first | rfl | exact fun _ => rfl

@[simp] theorem modTier_parts (g : Tier → Tier) (s : State) :
    (modTier g s).pending = s.pending ∧ (modTier g s).free = s.free ∧ (modTier g s).nextId = s.nextId ∧
    (modTier g s).out = s.out ∧ (modTier g s).phase = s.phase ∧ (modTier g s).fns = s.fns ∧ (modTier g s).works = s.works ∧
    (modTier g s).clk = s.clk ∧ (modTier g s).dies = s.dies ∧ (modTier g s).lds = s.lds ∧ (modTier g s).scs = s.scs ∧
    (modTier g s).sts = s.sts ∧ (modTier g s).mods = s.mods ∧ (modTier g s).lodge = s.lodge ∧ (modTier g s).chans = s.chans ∧
    (modTier g s).rx = s.rx ∧ (modTier g s).pwr = s.pwr ∧ (modTier g s).side = s.side ∧ (modTier g s).stats = s.stats ∧
    (modTier g s).pvStats = s.pvStats ∧ (modTier g s).corpora = s.corpora ∧ (modTier g s).ranges = s.ranges ∧
    (modTier g s).tier = g s.tier ∧ (modTier g s).upd = s.upd ∧ (modTier g s).scan = s.scan ∧ (modTier g s).flash = s.flash ∧
    (modTier g s).fab = s.fab ∧ (modTier g s).comp = s.comp ∧ (modTier g s).qos = s.qos ∧ (modTier g s).integ = s.integ ∧
    (modTier g s).live = s.live ∧ (modTier g s).linkUp = s.linkUp ∧ (modTier g s).flushing = s.flushing ∧
    (modTier g s).hfn = s.hfn ∧ (modTier g s).node = s.node ∧ (modTier g s).admits = s.admits ∧
    (∀ f : Fn, (modTier g s).fn f = s.fn f) ∧ (∀ f : Fn, (modTier g s).fnUp f = s.fnUp f) ∧
    (∀ p : Nat, (modTier g s).corpus p = s.corpus p) ∧ (∀ p : Nat, (modTier g s).range p = s.range p) ∧
    (∀ c : Nat, (modTier g s).chan c = s.chan c) ∧ (∀ i : Nat, (modTier g s).work i = s.work i) := by
  refine ⟨?_, ?_, ?_, ?_, ?_, ?_, ?_, ?_, ?_, ?_, ?_, ?_, ?_, ?_, ?_, ?_, ?_, ?_, ?_, ?_, ?_, ?_, ?_, ?_, ?_, ?_, ?_, ?_, ?_, ?_, ?_, ?_, ?_, ?_, ?_, ?_, ?_, ?_, ?_, ?_, ?_, ?_⟩
  all_goals first | rfl | exact fun _ => rfl

@[simp] theorem modUpd_parts (g : Upd → Upd) (s : State) :
    (modUpd g s).pending = s.pending ∧ (modUpd g s).free = s.free ∧ (modUpd g s).nextId = s.nextId ∧ (modUpd g s).out = s.out ∧
    (modUpd g s).phase = s.phase ∧ (modUpd g s).fns = s.fns ∧ (modUpd g s).works = s.works ∧ (modUpd g s).clk = s.clk ∧
    (modUpd g s).dies = s.dies ∧ (modUpd g s).lds = s.lds ∧ (modUpd g s).scs = s.scs ∧ (modUpd g s).sts = s.sts ∧
    (modUpd g s).mods = s.mods ∧ (modUpd g s).lodge = s.lodge ∧ (modUpd g s).chans = s.chans ∧ (modUpd g s).rx = s.rx ∧
    (modUpd g s).pwr = s.pwr ∧ (modUpd g s).side = s.side ∧ (modUpd g s).stats = s.stats ∧ (modUpd g s).pvStats = s.pvStats ∧
    (modUpd g s).corpora = s.corpora ∧ (modUpd g s).ranges = s.ranges ∧ (modUpd g s).tier = s.tier ∧
    (modUpd g s).upd = g s.upd ∧ (modUpd g s).scan = s.scan ∧ (modUpd g s).flash = s.flash ∧ (modUpd g s).fab = s.fab ∧
    (modUpd g s).comp = s.comp ∧ (modUpd g s).qos = s.qos ∧ (modUpd g s).integ = s.integ ∧ (modUpd g s).live = s.live ∧
    (modUpd g s).linkUp = s.linkUp ∧ (modUpd g s).flushing = s.flushing ∧ (modUpd g s).hfn = s.hfn ∧
    (modUpd g s).node = s.node ∧ (modUpd g s).admits = s.admits ∧ (∀ f : Fn, (modUpd g s).fn f = s.fn f) ∧
    (∀ f : Fn, (modUpd g s).fnUp f = s.fnUp f) ∧ (∀ p : Nat, (modUpd g s).corpus p = s.corpus p) ∧
    (∀ p : Nat, (modUpd g s).range p = s.range p) ∧ (∀ c : Nat, (modUpd g s).chan c = s.chan c) ∧
    (∀ i : Nat, (modUpd g s).work i = s.work i) := by
  refine ⟨?_, ?_, ?_, ?_, ?_, ?_, ?_, ?_, ?_, ?_, ?_, ?_, ?_, ?_, ?_, ?_, ?_, ?_, ?_, ?_, ?_, ?_, ?_, ?_, ?_, ?_, ?_, ?_, ?_, ?_, ?_, ?_, ?_, ?_, ?_, ?_, ?_, ?_, ?_, ?_, ?_, ?_⟩
  all_goals first | rfl | exact fun _ => rfl

@[simp] theorem modQuery_parts (id : Nat) (g : Query → Query) (s : State) :
    (modQuery id g s).pending = s.pending ∧ (modQuery id g s).free = s.free ∧ (modQuery id g s).nextId = s.nextId ∧
    (modQuery id g s).out = s.out ∧ (modQuery id g s).phase = s.phase ∧ (modQuery id g s).fns = s.fns ∧
    (modQuery id g s).works = s.works ∧ (modQuery id g s).clk = s.clk ∧ (modQuery id g s).dies = s.dies ∧
    (modQuery id g s).lds = s.lds ∧ (modQuery id g s).scs = s.scs ∧ (modQuery id g s).sts = s.sts ∧
    (modQuery id g s).mods = s.mods ∧ (modQuery id g s).lodge = s.lodge ∧ (modQuery id g s).chans = s.chans ∧
    (modQuery id g s).rx = s.rx ∧ (modQuery id g s).pwr = s.pwr ∧ (modQuery id g s).side = s.side ∧
    (modQuery id g s).stats = s.stats ∧ (modQuery id g s).pvStats = s.pvStats ∧ (modQuery id g s).corpora = s.corpora ∧
    (modQuery id g s).ranges = s.ranges ∧ (modQuery id g s).tier = s.tier ∧ (modQuery id g s).upd = s.upd ∧
    (modQuery id g s).scan = ({ s.scan with queries := mapIf (fun x => x.id == id) g s.scan.queries }) ∧
    (modQuery id g s).flash = s.flash ∧ (modQuery id g s).fab = s.fab ∧ (modQuery id g s).comp = s.comp ∧
    (modQuery id g s).qos = s.qos ∧ (modQuery id g s).integ = s.integ ∧ (modQuery id g s).live = s.live ∧
    (modQuery id g s).linkUp = s.linkUp ∧ (modQuery id g s).flushing = s.flushing ∧ (modQuery id g s).hfn = s.hfn ∧
    (modQuery id g s).node = s.node ∧ (modQuery id g s).admits = s.admits ∧ (∀ f : Fn, (modQuery id g s).fn f = s.fn f) ∧
    (∀ f : Fn, (modQuery id g s).fnUp f = s.fnUp f) ∧ (∀ p : Nat, (modQuery id g s).corpus p = s.corpus p) ∧
    (∀ p : Nat, (modQuery id g s).range p = s.range p) ∧ (∀ c : Nat, (modQuery id g s).chan c = s.chan c) ∧
    (∀ i : Nat, (modQuery id g s).work i = s.work i) := by
  refine ⟨?_, ?_, ?_, ?_, ?_, ?_, ?_, ?_, ?_, ?_, ?_, ?_, ?_, ?_, ?_, ?_, ?_, ?_, ?_, ?_, ?_, ?_, ?_, ?_, ?_, ?_, ?_, ?_, ?_, ?_, ?_, ?_, ?_, ?_, ?_, ?_, ?_, ?_, ?_, ?_, ?_, ?_⟩
  all_goals first | rfl | exact fun _ => rfl

@[simp] theorem modBatch_parts (id : Nat) (g : Batch → Batch) (s : State) :
    (modBatch id g s).pending = s.pending ∧ (modBatch id g s).free = s.free ∧ (modBatch id g s).nextId = s.nextId ∧
    (modBatch id g s).out = s.out ∧ (modBatch id g s).phase = s.phase ∧ (modBatch id g s).fns = s.fns ∧
    (modBatch id g s).works = s.works ∧ (modBatch id g s).clk = s.clk ∧ (modBatch id g s).dies = s.dies ∧
    (modBatch id g s).lds = s.lds ∧ (modBatch id g s).scs = s.scs ∧ (modBatch id g s).sts = s.sts ∧
    (modBatch id g s).mods = s.mods ∧ (modBatch id g s).lodge = s.lodge ∧ (modBatch id g s).chans = s.chans ∧
    (modBatch id g s).rx = s.rx ∧ (modBatch id g s).pwr = s.pwr ∧ (modBatch id g s).side = s.side ∧
    (modBatch id g s).stats = s.stats ∧ (modBatch id g s).pvStats = s.pvStats ∧ (modBatch id g s).corpora = s.corpora ∧
    (modBatch id g s).ranges = s.ranges ∧ (modBatch id g s).tier = s.tier ∧
    (modBatch id g s).upd = ({ s.upd with batches := mapIf (fun x => x.id == id) g s.upd.batches }) ∧
    (modBatch id g s).scan = s.scan ∧ (modBatch id g s).flash = s.flash ∧ (modBatch id g s).fab = s.fab ∧
    (modBatch id g s).comp = s.comp ∧ (modBatch id g s).qos = s.qos ∧ (modBatch id g s).integ = s.integ ∧
    (modBatch id g s).live = s.live ∧ (modBatch id g s).linkUp = s.linkUp ∧ (modBatch id g s).flushing = s.flushing ∧
    (modBatch id g s).hfn = s.hfn ∧ (modBatch id g s).node = s.node ∧ (modBatch id g s).admits = s.admits ∧
    (∀ f : Fn, (modBatch id g s).fn f = s.fn f) ∧ (∀ f : Fn, (modBatch id g s).fnUp f = s.fnUp f) ∧
    (∀ p : Nat, (modBatch id g s).corpus p = s.corpus p) ∧ (∀ p : Nat, (modBatch id g s).range p = s.range p) ∧
    (∀ c : Nat, (modBatch id g s).chan c = s.chan c) ∧ (∀ i : Nat, (modBatch id g s).work i = s.work i) := by
  refine ⟨?_, ?_, ?_, ?_, ?_, ?_, ?_, ?_, ?_, ?_, ?_, ?_, ?_, ?_, ?_, ?_, ?_, ?_, ?_, ?_, ?_, ?_, ?_, ?_, ?_, ?_, ?_, ?_, ?_, ?_, ?_, ?_, ?_, ?_, ?_, ?_, ?_, ?_, ?_, ?_, ?_, ?_⟩
  all_goals first | rfl | exact fun _ => rfl

end Sys2Proof.Machine
end

