-- ==== Sys2Proof/WellFormed.lean ====
section
/-! DEFINITION. Which commands are well formed: every operand within the range that the spec gives what it names. -/

namespace Sys2Proof

/-- A ring pair of a function (R270). -/
def ringOk (f : Fn) (r : Nat) : Bool := decide (r < if f.val = 0 then 8 else 64)
/-- An MSI-X vector of a function (R270). -/
def vecOk (f : Fn) (v : Nat) : Bool := decide (v < if f.val = 0 then 16 else 64)
/-- An aligned offset of a register block (R272). -/
def regIn (lo hi off : Nat) : Bool := decide (lo ≤ off) && decide (off < hi) && off % 4 == 0
/-- A node number (R330). -/
def nodeOk (n : Nat) : Bool := decide (n < 0xFFFF)

/-- The command is well formed. A meaning is total all the same: a command that is not has no effect, or that of an unimplemented
offset or an absent unit. -/
def Instr.wf (i : Instr) : Bool :=
  match i with
  | .powerOn _ => true
  | .perstNAssert _ => true
  | .perstNRelease _ => true
  | .bootStepTimeout unit => decide (unit < 48)
  | .groundsHeartbeat => true
  | .groundsHeartbeatLost _ => true
  | .ftlReplay a => a.dies.all fun d => decide (d.channel < 64) && d.sd == d.channel / 32
  | .indexLoadDone _ => true
  | .recoveryConfirmed _ => true
  | .pfailNAssert _ _ => true
  | .pfailFlushDone _ => true
  | .pfailNDeassert _ => true
  | .pfailRegionRestored => true
  | .sysRefclkLoss => true
  | .pcieRefclkLoss => true
  | .ethRefclkLoss _ => true
  | .ethRefclkReturn _ => true
  | .frameBoundary _ _ => true
  | .slotBoundary _ => true
  | .lateLeantoWithdraw _ _ _ => true
  | .refreshDoubleExit _ => true
  | .diePowerThrottle x => decide (x.unit < 32)
  | .ptpSample _ => true
  | .ppsEdge _ => true
  | .alignLocked => true
  | .alignHoldover => true
  | .holdoverLimit => true
  | .ringDb f ring _ => ringOk f ring
  | .ringCqDb f ring _ => ringOk f ring
  | .eqDb _ _ => true
  | .ringDisable f ring _ => ringOk f ring
  | .ringEnable f ring _ => ringOk f ring
  | .descriptorFetch f ring _ => ringOk f ring
  | .msixModTimer f ring => (match ring with | some r => ringOk f r | none => true)
  | .msixUnmask f vec => vecOk f vec
  | .bar0BadAccess _ _ off len => off % 4 != 0 || len != 4
  | .bar2Read f _ _ => f.val != 0
  | .bar2Write f _ _ => f.val != 0
  | .bar2WaitExpiry f => f.val != 0
  | .functionLevelReset _ => true
  | .pf0FunctionLevelReset => true
  | .hotReset => true
  | .vfEnableClear => true
  | .pavilionResetDone _ => true
  | .registerWrite _ off _ => decide (off < 0x80000)
  | .hfnLoRead _ off => decide (off < 0x80000)
  | .frameCfgWrite _ => true
  | .corpusCfgWrite f reg _ => f.val != 0 && decide (reg < 3)
  | .permitCapWrite _ => true
  | .scanCfgWrite _ => true
  | .rerankCfgWrite _ => true
  | .clipLimitWrite f _ => f.val != 0
  | .updCfgWrite _ => true
  | .mergeCfgWrite _ => true
  | .tierCfgWrite _ => true
  | .t2WindowWrite f reg _ => f.val != 0 && decide (reg < 3)
  | .bar2WinWrite f _ => f.val != 0
  | .flashCfgWrite reg _ => decide (reg < 4)
  | .ringConfigWrite f ring reg _ => ringOk f ring && decide (reg < 8)
  | .eqCtlWrite _ reg _ => decide (reg < 4)
  | .fabricRegWrite off _ => regIn 0x800 0x900 off
  | .mapCfgWrite off _ => regIn 0x900 0xA00 off
  | .rolePolicyWrite _ => true
  | .shareRegWrite off _ => regIn 0xA00 0xAC0 off
  | .integRegWrite off _ => regIn 0xC00 0xC50 off
  | .bistGo _ => true
  | .pwrCapWrite _ _ => true
  | .resetCtlWrite _ => true
  | .hostNodeReset _ => true
  | .gpioWrite _ _ => true
  | .pmbCfgWrite _ => true
  | .mbxDataLoWrite _ _ => true
  | .mbxPost _ _ => true
  | .mbxCtlWrite _ _ => true
  | .mbxAck _ => true
  | .mbxTimeout _ => true
  | .lodgeMsgTimeout => true
  | .search _ _ => true
  | .searchBatch _ _ => true
  | .queryAdmission _ => true
  | .queryEncode x => decide (x.die < 24) && decide (x.ta < 4)
  | .tileClaim _ _ die => decide (die < 24)
  | .steal die eng vdie veng => decide (die < 24) && decide (eng < 48) && decide (vdie < 24) && decide (veng < 48)
  | .hitCompaction _ => true
  | .laneDrain _ _ die => decide (die < 24)
  | .vectorRecordArrival _ _ _ => true
  | .fetchWaitExpiry _ => true
  | .rerankBlock _ idxs die ta => decide (die < 24) && decide (ta < 4) && decide (idxs.length ≤ 256)
  | .tensorSteal _ die ta vdie vta => decide (die < 24) && decide (ta < 4) && decide (vdie < 24) && decide (vta < 4)
  | .nodeTopk _ _ => true
  | .payloadWaitExpiry _ => true
  | .finalMerge _ => true
  | .heldQueryLagging => true
  | .partialWaitExpiry _ => true
  | .upsertBatch _ _ => true
  | .deleteBatch _ _ => true
  | .seqWaitRelease _ => true
  | .updateAdmission _ => true
  | .prepWaitExpiry _ => true
  | .stagedDiscard _ => true
  | .updateAckTimeout _ => true
  | .modelLoad _ _ _ => true
  | .modelLoadComplete _ => true
  | .epochCutover _ _ => true
  | .cutoverDeadline _ => true
  | .epochSwitch _ => true
  | .epochRetireFree _ => true
  | .resketch _ => true
  | .resketchComplete _ => true
  | .mergePass _ => true
  | .mergePassStart _ x => decide (1 ≤ x.mask) && decide (x.mask < 16)
  | .mergePublish _ => true
  | .leantoReuse _ => true
  | .indexCheckpointCommit _ => true
  | .tierMigrate _ => true
  | .tierPin _ => true
  | .tierUnpin _ => true
  | .tierFlush _ => true
  | .autoPromote _ _ => true
  | .policyDemote _ _ => true
  | .pagePromoteDone _ _ _ => true
  | .demoteSwitch _ _ => true
  | .walledScrub _ => true
  | .ghStepQuiesce _ _ _ => true
  | .ghStepApply _ _ => true
  | .statsRead _ => true
  | .fabricCopy _ _ => true
  | .flashReadComplete _ => true
  | .programComplete _ stripe pos => decide (stripe < 64) && decide (pos < 16)
  | .writeGroupCommit _ => true
  | .programFailGc _ _ _ die => decide (die < 1024)
  | .programFailUpdate _ _ _ die => decide (die < 1024)
  | .eraseFail _ => true
  | .dieRetire die => decide (die < 1024)
  | .gcStart _ => true
  | .sourceErase _ => true
  | .mapCheckpointStart => true
  | .rootRecordCommit => true
  | .blockAgeClose _ => true
  | .flashTempPoll temps _ => decide (temps.length ≤ 1024)
  | .retryRiseWindow => true
  | .quantWindowEnd => true
  | .jfpPacketReceive port _ => decide (port < 20)
  | .ackonly _ cls idx _ _ => decide (cls < 5) && decide (idx < 20)
  | .jfpRto _ cls idx => decide (cls < 5) && decide (idx < 20)
  | .bundle _ => true
  | .read _ => true
  | .write _ => true
  | .fetchAdd _ => true
  | .compareSwap _ => true
  | .resp _ => true
  | .requestHoldTimeout => true
  | .fanout _ => true
  | .partialList _ => true
  | .preElem _ => true
  | .preEid _ => true
  | .preAck _ => true
  | .frameMark _ => true
  | .commitAck _ => true
  | .rdmaRead _ _ _ _ _ _ => true
  | .rdmaWrite _ _ _ _ _ _ => true
  | .roceInvalidRequest _ _ => true
  | .cnp _ => true
  | .pfcFrame port prio _ => decide (port < 20) && decide (prio < 8)
  | .pfcWatchdog port prio => decide (port < 20) && decide (prio < 8)
  | .mkpdu port sub _ => decide (port < 20) && decide (sub < 2)
  | .arpNd port _ => decide (port < 20)
  | .laserInputLow port input => decide (port < 20) && decide (input < 2)
  | .portBerDegraded port => decide (port < 20)
  | .append src _ _ _ _ => nodeOk src
  | .appendAck src _ _ => nodeOk src
  | .heartbeat src _ _ => nodeOk src
  | .voteReq src _ _ _ => nodeOk src
  | .vote src _ _ => nodeOk src
  | .propose src _ _ => nodeOk src
  | .proposeResult src _ _ _ => nodeOk src
  | .entries src _ _ => nodeOk src
  | .fetch src _ => nodeOk src
  | .handoff src _ _ _ _ _ => nodeOk src
  | .handoffAck src _ _ => nodeOk src
  | .moveDone src _ => nodeOk src
  | .holdClaim src _ => nodeOk src
  | .statePull src _ _ => nodeOk src
  | .rsDone src _ _ _ _ => nodeOk src
  | .cutQuery src _ _ _ => nodeOk src
  | .cutReady src _ _ _ => nodeOk src
  | .mapEntryActivation => true
  | .electionTimeout => true
  | .entryAbandon => true
  | .noQuorum => true
  | .moveTransferStart _ _ => true
  | .handoffResend _ _ => true
  | .moveStateFree _ _ => true
  | .suspendReport node => nodeOk node
  | .resume => true
  | .catchUpDone _ _ _ => true
  | .rejoinLimit node => nodeOk node
  | .joinCheck _ _ => true
  | .roleCheck _ => true
  | .attest _ => true
  | .identity _ => true
  | .logRead _ => true
  | .imageStage _ _ _ => true
  | .rollbackCommit => true
  | .lcNonce _ => true
  | .lcAdvance _ _ => true
  | .pvErase => true
  | .cakSet _ => true
  | .slices _ => true
  | .plotAssign _ => true
  | .moveBegin _ => true
  | .memberAdd _ => true
  | .drain _ => true
  | .role _ => true
  | .keepers _ => true
  | .winExport _ _ => true
  | .winUnexport _ => true
  | .qpCreate _ _ => true
  | .qpDestroy _ => true
  | .keyInstall _ => true
  | .sakDerive port sub _ => decide (port < 20) && decide (sub < 2)
  | .bistRequest _ => true
  | .firewallViolation _ => true
  | .shadowExecution _ die phys _ _ _ _ => decide (die < 24) && decide (phys < 52)
  | .arbitration _ die phys _ _ _ => decide (die < 24) && decide (phys < 52)
  | .shadowWaitExpiry _ => true
  | .suspectHalving => true
  | .sketchScrub _ _ _ _ _ _ => true
  | .tileRepair _ _ _ => true
  | .stragglerWindow _ => true
  | .bistRunDone _ _ _ => true
  | .promenadeRetrain conn .. => decide (conn < 47)
  | .thermalStepDown unit => decide (unit < 48)
  | .thermalTrip unit => decide (unit < 48)
  | .sensorStuck unit sensor => decide (unit < 48) && decide (sensor < 4)
  | .pmbusPoll _ => true
  | .pmbAlert => true
  | .smbReadMaxLogic => true
  | .smbReadMaxStack => true
  | .smbReadStatus => true
  | .setEndpointId _ => true
  | .getEndpointId => true
  | .getMctpVersionSupport _ => true
  | .getMessageTypeSupport => true
  | .pldmRequest _ => true
  | .uartRx port _ _ => decide (port < 2)
  | .jtagAccess _ => true
  | .powerLoss => true
  | .eraseComplete _ => true
  | .linkUp port mask => decide (port < 20) && decide (mask < 16)
  | .linkDown port mask => decide (port < 20) && decide (mask < 16)
  | .announce port _ => decide (port < 20)
  | .vfEnableSet n => decide (n ≤ 12)
  | .devicePowerStateWrite _ _ => true
  | .moduleRetrainDone conn _ => decide (conn < 47)

end Sys2Proof
end

