-- ==== Sys2Proof/Tests/Live.lean ====
section
/-! SUPPORT. Concrete states for the witnesses: a running node 5 of a hall of three, and variations of it. -/

namespace Sys2Proof.Tests
open Sys2Proof Sys2Proof.Machine

/-- The map of the witnesses: nodes 5, 6 and 7, keepers all three, pavilion 0 composed on node 5 and 6, plot 0 of it owned by node 5. -/
def map0 : CMap :=
  { CMap.blank with
    epoch := 4
    members := [⟨5, [], 0, 0, 0, 0, 0⟩, ⟨6, [], 0, 0, 0, 1, 0⟩, ⟨7, [], 0, 0, 0, 2, 0⟩]
    keepers := [5, 6, 7]
    slices := [⟨5, 0, 0xFF, 0xF, 0xF, 1⟩, ⟨6, 0, 0xFF, 0xF, 0xF, 1⟩]
    plots := [⟨0, 0, 5, [], .served, none, false, 0, 0, []⟩] }

/-- A running node 5, locked to the hall, in slot 3 of frame 1,000, every function enabled, the flash replayed, keys present. -/
def live0 : State :=
  { State.reset with
    phase := .running
    clk := { Clock.reset with slot := some 3, hfn := 1000, align := .locked }
    fns := State.reset.fns.map fun x => { x with enabled := true }
    lodge := { State.reset.lodge with lc := 1, fuses := { Fuses.blank with lc := 1, uds := true } }
    fab := { Fabric.reset with nodeId := 5#32 }
    flash := { Flash.reset with replayed := true, opLock := true, regionOk := true }
    comp := { Comp.reset with map := map0, keeper := { Keeper.reset with role := 1, term := 3, leader := some 6 }, joined := true, quads := [(0, 0, 0)] } }

/-- `live0` between a frame boundary and the opening of slot 0, at a frame. -/
def atBoundary (h : Nat) (s : State) : State := { s with clk := { s.clk with slot := none, hfn := h } }

end Sys2Proof.Tests
end

