-- ==== Sys2Proof/Tests/WitnessClock.lean ====
section
/-! SUPPORT. Witnesses: states and operands that meet the hypotheses of the statements about the clock, the rings, the functions and the
registers, clause by clause. -/

namespace Sys2Proof.Tests
open Sys2Proof Sys2Proof.Machine

/-- `live0` with a FRAME_CFG in force, an alignment state and a PTP origin of one second. -/
def servo (cfg : W32) (a : Align) : State := { live0 with clk := { live0.clk with eff := cfg, align := a, originLo := 1#32 } }
def sampleAt (t : Nat) (dev : Int) : PtpIn := ⟨t, t + 20000, 0, dev⟩
def edge (dev : Int) : PpsIn := ⟨1000, 1000, true, dev, 0⟩

theorem witness_StepTakesFront :
    { live0 with pending := [Instr.pmbAlert] }.pending = Instr.pmbAlert :: [] ∧ live0.pending = [] := by decide

/-- A next state that every command answers exists, with every area kept that a command does not touch. -/
theorem witness_FrameOfEveryCommand : exec .pmbAlert live0 = .next { live0 with side := { live0.side with pmbExtra := true } } ∧
    (touches .pmbAlert).contains .clk = false := ⟨rfl, by decide⟩

theorem witness_LegalKept : live0.Legal ∧ step live0 = .next live0 := by
  refine ⟨?_, rfl⟩
  constructor <;> first | rfl | decide

theorem witness_FrameNumbers :
    (live0.clk.jump ≠ none → live0.clk.align = .free ∨ live0.clk.align = .unaligned) ∧ live0.clk.align = .locked ∧
    (servo 1#32 .free).clk.jump = none ∧ exec .pmbAlert live0 = .next { live0 with side := { live0.side with pmbExtra := true } } :=
  ⟨fun h => absurd rfl h, rfl, rfl, rfl⟩

theorem witness_ServoAndAlignment :
    (live0.live = true ∧ fld live0.clk.eff 1 0 = 0) ∧
    ((servo 1#32 .free).live = true ∧ fld (servo 1#32 .free).clk.eff 1 0 ≠ 0 ∧ (sampleAt 999999999 0).t < (servo 1#32 .free).clk.originNs) ∧
    (fld (servo 1#32 .locked).clk.eff 1 0 ≠ 0 ∧ (servo 1#32 .locked).clk.originNs ≤ (sampleAt 1000000000 2001).t ∧
      (servo 1#32 .locked).clk.align.aligned = true ∧ 2000 < (sampleAt 1000000000 2001).dev.natAbs) ∧
    (fld (servo 1#32 .unaligned).clk.eff 1 0 ≠ 0 ∧ (servo 1#32 .unaligned).clk.originNs ≤ (sampleAt 1000000000 0).t ∧
      (servo 1#32 .unaligned).clk.align = .unaligned ∧ (servo 1#32 .unaligned).clk.jump = none) ∧
    ((servo 1#32 .locked).clk.align = .locked ∧ (sampleAt 1000000000 (-2000)).dev.natAbs ≤ 2000) ∧
    (fld (servo 1#32 .locked).clk.eff 1 0 ≠ 2) ∧
    (bit (servo 6#32 .locked).clk.eff 2 = true) ∧
    (fld (servo 2#32 .locked).clk.eff 1 0 = 2 ∧ bit (servo 2#32 .locked).clk.eff 2 = false ∧ ppsSeen (edge 2001) = true ∧
      2000 < (edge 2001).dev.natAbs ∧ ppsSeen (edge 2000) = true ∧ (edge 2000).dev.natAbs ≤ 2000) := by decide

/-- A clock with counts: `n` good frames, `m` rejections in a row, `h` frames of HOLDOVER. -/
def counted (a : Align) (n m h : Nat) : State :=
  { live0 with clk := { live0.clk with align := a, goodFrames := n, rejRun := m, holdFrames := h, samplesBack := true } }

theorem witness_AlignmentStates :
    ((counted .acquire 64 0 0).live = true ∧ (counted .acquire 64 0 0).clk.alignNext = none ∧ (counted .acquire 64 0 0).clk.align = .acquire ∧ 64 ≤ (counted .acquire 64 0 0).clk.goodFrames) ∧
    ((counted .holdover 64 0 0).clk.align = .holdover ∧ (counted .holdover 64 0 0).clk.samplesBack = true) ∧
    ((counted .locked 0 64 0).clk.align = .locked ∧ 64 ≤ (counted .locked 0 64 0).clk.rejRun) ∧
    ((counted .holdover 0 0 200001).clk.align = .holdover ∧
      fld (counted .holdover 0 0 200001).clk.eff 7 4 * 50000 < (counted .holdover 0 0 200001).clk.holdFrames) ∧
    (live0.fnUp 0 = true ∧ fld 0x410#32 1 0 ≠ 3 ∧ fld 0x410#32 7 4 ≠ 0 ∧ 4 ≤ fld 0x410#32 11 8 ∧ fld 0x410#32 11 8 ≤ 13 ∧
      fld 0xDF2#32 11 8 = 13 ∧ fld 0x310#32 11 8 < 4 ∧ 13 < fld 0xE10#32 11 8 ∧ fld 0x413#32 1 0 = 3 ∧ fld 0x400#32 7 4 = 0) := by decide

/-- A clock at the end of slot 15 with a change that waits, under the FRAME_CFG that the next frame gets. -/
def ending (cfg : W32) (a : Align) (n : Option Align) : State :=
  let s := counted a 64 64 200001
  { s with clk := { s.clk with slot := some 15, cfg := cfg, alignNext := n } }

theorem witness_AlignmentChanges :
    ((ending 0x410#32 .locked none).phase.up = true ∧ (ending 0x410#32 .locked none).clk.slot = some 15 ∧
      (ending 0x410#32 .locked none).clk.jump = none ∧ fld (ending 0x410#32 .locked none).clk.cfg 1 0 = 0) ∧
    (fld (ending 0x411#32 .locked none).clk.cfg 1 0 ≠ 0 ∧ (ending 0x411#32 .locked none).clk.align.aligned = true ∧
      750 < (751 : Int).natAbs ∧ (-750 : Int).natAbs ≤ 750) ∧
    ((ending 0x411#32 .acquire (some .locked)).clk.alignNext = some .locked ∧ (ending 0x411#32 .acquire (some .locked)).clk.align = .acquire ∧
      64 ≤ (ending 0x411#32 .acquire (some .locked)).clk.goodFrames) ∧
    ((ending 0x411#32 .locked (some .holdover)).clk.alignNext = some .holdover ∧ (ending 0x411#32 .locked (some .holdover)).clk.align = .locked ∧
      64 ≤ (ending 0x411#32 .locked (some .holdover)).clk.rejRun) ∧
    ((ending 0x411#32 .holdover (some .unaligned)).clk.alignNext = some .unaligned ∧
      (ending 0x411#32 .holdover (some .unaligned)).clk.align = .holdover ∧
      fld (ending 0x411#32 .holdover (some .unaligned)).clk.cfg 7 4 * 50000 < (ending 0x411#32 .holdover (some .unaligned)).clk.holdFrames) := by
  decide

/-- A slot in which nothing is found. -/
def quiet : SlotIn := ⟨[], 0, [], [], [], [], [], [], [], [], [], [], ⟨[], [], [], []⟩, none⟩
/-- A boot that finds every part in service and the straps of node 5. -/
def boot0 : BootIn := ⟨none, none, List.replicate 8 ⟨List.replicate 56 true, List.replicate 6 true, true, true⟩, [], [0, 1, 2, 3], [0, 1],
  List.range 16, [], [], 0x15#8⟩

theorem witness_BoundariesAdvance :
    (quiet.lodge = none ∧ { quiet with lodge := some boot0 }.lodge = some boot0) ∧
    (live0.clk.slot ≠ some 15 ∧ live0.lodgeUp = true ∧ live0.pwr.resetPending = none ∧ live0.pwr.flush = none ∧
      live0.pwr.flushPend = none) ∧
    ({ live0 with clk := { live0.clk with slot := some 15 } }.phase.up = true ∧ { live0 with clk := { live0.clk with slot := some 15 } }.clk.slot = some 15) ∧
    (live0.clk.slot ≠ some 15) ∧ ((atBoundary 1000 live0).phase.up = true ∧ (atBoundary 1000 live0).clk.slot = none) ∧
    ({ live0 with clk := { live0.clk with slot := some 14 } }.clk.slot = some 14 ∧ 14 < 15) := by decide

/-- `live0` with ring pair 0 of a function changed. -/
def withRing (f : Fn) (x : Ring) : State := modRing f 0 (fun _ => x) live0
/-- An enabled pair of 64 entries with its indices. -/
def ringUp (head tail cqHead cqTail : Nat) : Ring :=
  { Ring.reset with ctl := 0x0401_0001#32, sqHead := head, sqTail := tail, cqHead := cqHead, cqTail := cqTail }
def withEq (f : Fn) (x : EvRing) : State := modFn f (fun y => { y with eq := x }) live0

theorem witness_DisabledDoorbells : (live0.ring 1 0).enabled = false ∧ (live0.fn 1).eq.enabled = false := by decide

theorem witness_DoorbellsTakeOrHalt :
    ((withRing 1 (ringUp 3 2 0 0)).ringReady 1 0 ∧ fld 2#32 15 0 < ((withRing 1 (ringUp 3 2 0 0)).ring 1 0).sqN ∧
      modSub (fld 2#32 15 0) ((withRing 1 (ringUp 3 2 0 0)).ring 1 0).sqTail ((withRing 1 (ringUp 3 2 0 0)).ring 1 0).sqN ≤
        (((withRing 1 (ringUp 3 2 0 0)).ring 1 0).sqHead + 2 * ((withRing 1 (ringUp 3 2 0 0)).ring 1 0).sqN - 1 -
          ((withRing 1 (ringUp 3 2 0 0)).ring 1 0).sqTail) % ((withRing 1 (ringUp 3 2 0 0)).ring 1 0).sqN) ∧
    ((withRing 1 (ringUp 0 0 0 5)).ringReady 1 0 ∧ ((withRing 1 (ringUp 0 0 0 5)).ring 1 0).sqN ≤ fld 64#32 15 0 ∧
      ((withRing 1 (ringUp 0 0 0 5)).ring 1 0).cqN ≤ fld 64#32 15 0 ∧ fld 5#32 15 0 < ((withRing 1 (ringUp 0 0 0 5)).ring 1 0).cqN ∧
      modSub (fld 5#32 15 0) ((withRing 1 (ringUp 0 0 0 5)).ring 1 0).cqHead ((withRing 1 (ringUp 0 0 0 5)).ring 1 0).cqN ≤
        modSub ((withRing 1 (ringUp 0 0 0 5)).ring 1 0).cqTail ((withRing 1 (ringUp 0 0 0 5)).ring 1 0).cqHead
          ((withRing 1 (ringUp 0 0 0 5)).ring 1 0).cqN) ∧
    (live0.ring 1 0).enabled = false ∧
    (let s := withEq 1 { EvRing.reset with ctl := 0x0401_0026#32, tail := 4 }
     s.fnUp 1 = true ∧ (s.fn 1).eq.enabled = true ∧ (s.fn 1).eq.dropped = 0 ∧ fld 4#32 15 0 < (s.fn 1).eq.n ∧
      0 < modSub (fld 4#32 15 0) (s.fn 1).eq.head (s.fn 1).eq.n ∧
      modSub (fld 4#32 15 0) (s.fn 1).eq.head (s.fn 1).eq.n ≤ modSub (s.fn 1).eq.tail (s.fn 1).eq.head (s.fn 1).eq.n ∧
      (s.fn 1).eq.n ≤ fld 64#32 15 0 ∧
      modSub (s.fn 1).eq.tail (s.fn 1).eq.head (s.fn 1).eq.n < modSub (fld 5#32 15 0) (s.fn 1).eq.head (s.fn 1).eq.n) ∧
    (live0.fn 1).eq.enabled = false := by
  unfold State.ringReady
  decide

theorem witness_RingConfigurationWrites :
    ((inRange 6 (fld 0x0606#32 4 0) 16 = true ∧ inRange 6 (fld 0x1010#32 12 8) 16 = true ∧ inRange 6 (fld 0x0605#32 4 0) 16 = false) ∧
      live0.ringIdle 1 0 ∧ bit 0x0401_0001#32 0 = true ∧ ctlBad 1 0x0401_0001#32 = false ∧ (live0.ring 1 0).quiesced = true) ∧
    ((withRing 1 { Ring.reset with inFlight := 1 }).ringIdle 1 0 ∧ ((withRing 1 { Ring.reset with inFlight := 1 }).ring 1 0).quiesced = false) ∧
    (live0.fnUp 1 = true ∧ 0 < (live0.fn 1).rings.length ∧ bit 0x0401_0000#32 0 = false ∧ ctlBad 1 0x0401_0000#32 = false) ∧
    ((withRing 1 (ringUp 0 0 0 0)).ringReady 1 0 ∧
      bitsOf ((withRing 1 (ringUp 0 0 0 0)).ring 1 0).sqBase 31 12 ≠ fld 0x1000#32 31 12) ∧
    (live0.fnUp 1 = true ∧ (live0.fn 1).eq.enabled = false) ∧
    (bit 0x0401_0030#32 5 = true ∧ ctlBad 1 0x0401_0030#32 = false ∧ inRange 6 (fld 0x0401_0030#32 4 0) 16 = true) ∧
    ctlBad 1 0x0001_0030#32 = true := by
  unfold State.ringReady State.ringIdle
  decide

end Sys2Proof.Tests
end

