-- ==== Sys2Proof/Tests/WitnessHost.lean ====
section
/-! SUPPORT. Witnesses for the statements about fetches, functions and registers. -/

namespace Sys2Proof.Tests
open Sys2Proof Sys2Proof.Machine

/-- A descriptor: its bytes from a list of (offset, width, value). -/
def desc (xs : List (Nat × Nat × Nat)) : List Byte :=
  xs.foldl (fun d x => d.take x.1 ++ leBytes x.2.1 x.2.2 ++ d.drop (x.1 + x.2.1)) (zeros 64)

/-- STATS_READ of 64 bytes at 1 MiB, group 0. -/
def statsDesc : List Byte := desc [(0, 1, opStats), (8, 8, 0x100000), (16, 4, 64)]

/-- `live0` with one descriptor to fetch on ring 0 of PF0. -/
def toFetch : State := { withRing 0 (ringUp 0 1 0 0) with qos := { live0.qos with visits := List.replicate 13 0 } }

theorem witness_FetchTakesDescriptor :
    toFetch.turnOf 0 = some 0 ∧ toFetch.visitLeft 0 = true ∧ (0 : Fn).val = 0 ∧
    descCheck ((0 : Fn).val == 0) (pvOf 0) (padTo 64 statsDesc) = none ∧
    descCheck ((0 : Fn).val == 0) (pvOf 0) (padTo 64 (desc [(0, 1, opSearch)])) = some .badOpcode ∧
    live0.turnOf 0 ≠ some 0 ∧ (live0.ring 0 0).credit = true := by decide

/-- `toFetch` on VF0, whose pavilion is in a recovery state. -/
def vfFetch (r : RState) : State :=
  { modRing 1 0 (fun _ => { ringUp 0 1 0 0 with ctl := 0x0401_0003#32 }) toFetch with
    corpora := modifyAt toFetch.corpora 0 fun c => { c with rstate := r } }
theorem witness_FetchTakesDescriptor_vf :
    (let s := vfFetch .confirmed
     s.turnOf 1 = some 0 ∧ s.visitLeft 1 = true ∧ (s.corpus (pvOf 1)).rstate = .confirmed) ∧
    (let s := vfFetch .provisional
     s.turnOf 1 = some 0 ∧ s.visitLeft 1 = true ∧ (1 : Fn).val ≠ 0 ∧ (s.corpus (pvOf 1)).rstate ≠ .confirmed ∧
     isSearch (dOp (padTo 64 statsDesc)) = false ∧ isSearch (dOp (padTo 64 (desc [(0, 1, opSearch)]))) = true) := by decide

/-- `live0` with a pending vector 0, counts that have run out on ring 0 and on the event ring of VF0. -/
def fnBusy : State :=
  modFn 1 (fun x => { x with
    rings := modifyAt x.rings 0 fun r => { r with modN := 1, modT := some 4 }
    eq := { x.eq with modN := 1, modT := some 4 }
    msix := modifyAt x.msix 0 fun m => { m with pend := true } }) live0

theorem witness_InterruptsAndResets :
    ((fnBusy.ring 1 0).modT = some 4 ∧ ctlModTime (fnBusy.ring 1 0).irq ≤ 4 ∧ (live0.ring 1 0).modT = none) ∧
    ((fnBusy.fn 1).eq.modT = some 4 ∧ ctlModTime (fnBusy.fn 1).eq.irq ≤ 4) ∧
    (fnBusy.fnUp 1 = true ∧ 0 < (fnBusy.fn 1).msix.length ∧ ((fnBusy.fn 1).msix.getD 0 Msix.reset).pend = true) ∧
    (live0.fnUp 1 = true ∧ ((live0.fn 1).msix.getD 0 Msix.reset).pend = false) ∧
    (live0.linkUp = true ∧ (live0.fn 1).enabled = true ∧ (2 % 4 ≠ 0 ∨ (4 : Nat) ≠ 4)) ∧
    ({ live0 with fns := fnsReset }.linkUp = true ∧ 12 ≤ 12 ∧
      ({ live0 with fns := fnsReset }.fns.drop 1).all (fun y => !y.enabled) = true) ∧
    (0 < live0.fns.length ∧ (live0.fn (fnOf 11)).enabled = true ∧ live0.pvInReset 11 = false ∧ 11 < live0.qos.inReset.length) ∧
    ({ live0 with qos := { live0.qos with inReset := modifyAt live0.qos.inReset 11 fun _ => some 9 } }.pvInReset 11 = true) ∧
    live0.phase.up = true := by decide

theorem witness_RegisterAccesses :
    (State.reset.fnUp 0 = false ∧ live0.fnUp 1 = true ∧ 2 % 4 ≠ 0 ∧ 0x164 ∈ [0x000, 0x004, 0x008, 0x00C, 0x120, 0x124, 0x128, 0x12C, 0x130,
      0x134, 0x138, 0x13C, 0x140, 0x164]) ∧
    (live0.fnUp 0 = true ∧ live0.clk.originLock = false ∧ { live0 with clk := { live0.clk with originLock := true } }.clk.originLock = true) ∧
    (let s := modFn 1 (fun x => { x with msix := modifyAt x.msix 63 fun _ => ⟨0#32, 0#32, 7#32, 1#32, true⟩ }) live0
     s.fnUp 1 = true ∧ (s.fn 1).msix[63]? = some ⟨0#32, 0#32, 7#32, 1#32, true⟩ ∧ 63 < 64 ∧ bit 0#32 0 = false) ∧
    (live0.linkUp = true ∧ State.reset.linkUp = false ∧ live0.bar0Up0 = true) ∧
    (fld 0x0018_0010#32 4 0 ≤ 16 ∧ 24 ≤ fld 0x0018_0010#32 21 16 ∧ fld 0x0024_0010#32 21 16 ≤ 36 ∧ 16 < fld 0x0024_0011#32 4 0 ∧
      fld 0x0017_0010#32 21 16 < 24 ∧ 36 < fld 0x0025_0010#32 21 16) ∧
    (2 ≤ fld 0x0207#32 15 8 ∧ fld 0x0107#32 15 8 < 2) ∧
    (8 ≤ fld 8#32 9 0 ∧ fld 1000#32 9 0 ≤ 1000 ∧ fld 7#32 9 0 < 8 ∧ 1000 < fld 1001#32 9 0) ∧
    (11 < 12 ∧ 1 ≤ fld 0x0064_0101#32 15 8 ∧ 1 ≤ fld 0x0064_0101#32 22 16 ∧ fld 0x0064_0101#32 22 16 ≤ 100 ∧ fld 0x0064_0001#32 15 8 = 0 ∧
      fld 0x0000_0101#32 22 16 = 0 ∧ 100 < fld 0x0065_0101#32 22 16) ∧
    (fld 1000#32 9 0 ≤ 1000 ∧ fld 1000#32 19 10 ≤ 1000 ∧ sumOthers live0.qos.flash 11 9 0 + fld 1000#32 9 0 ≤ 1000 ∧
      sumOthers live0.qos.flash 11 19 10 + fld 1000#32 19 10 ≤ 1000) ∧
    (let s := { live0 with qos := { live0.qos with merge := modifyAt live0.qos.merge 0 fun _ => 1000#32 } }
     1000 < sumOthers s.qos.merge 11 9 0 + fld 1#32 9 0 ∧ fld (s.qos.merge.getD 11 0#32) 9 0 < fld 1#32 9 0) := by decide

theorem witness_ClipLimitWrites :
    ((1 : Fn).val ≠ 0 ∧ live0.fnUp 1 = true ∧ live0.corpora[pvOf 1]? = some Corpus.reset ∧ fld 0x0004_0000#32 15 0 = 0 ∧
      fld 0x0000_0040#32 23 16 = 0 ∧ fld 0x0001_0001#32 15 0 ≠ 0 ∧ fld 0x0001_0001#32 23 16 ≠ 0) ∧
    ((atBoundary 1024 live0).live = true ∧ (atBoundary 1024 live0).clk.slot = none ∧ (atBoundary 1024 live0).hfn % 256 = 0 ∧ 11 < 12 ∧
      (atBoundary 1024 live0).corpora[11]? = some Corpus.reset ∧ Corpus.reset.clipFrom < (atBoundary 1024 live0).hfn) := by decide

theorem witness_PowerRegisterWrites :
    (live0.bar0Up0 = true ∧ 400 ≤ fld 0x1190#32 10 0 ∧ fld 0x15DC#32 10 0 ≤ 1500 ∧ 1 ≤ fld 0x1190#32 19 12 ∧ fld 0x118F#32 10 0 < 400 ∧
      1500 < fld 0x15DD#32 10 0 ∧ fld 0x0190#32 19 12 = 0) ∧
    (85 ≤ fld 0x5655#32 7 0 ∧ fld 0x5C69#32 7 0 ≤ 105 ∧ 86 ≤ fld 0x5655#32 15 8 ∧ fld 0x5C69#32 15 8 ≤ 92 ∧ fld 0x5654#32 7 0 < 85 ∧
      105 < fld 0x566A#32 7 0 ∧ fld 0x5555#32 15 8 < 86 ∧ 92 < fld 0x5D55#32 15 8) ∧
    (bit 0x5A32_0000#32 0 = false ∧ fld 0x5A33_0001#32 31 16 ≠ 0x5A32 ∧ bit 0x5A32_0001#32 0 = true ∧ fld 0x5A32_0001#32 31 16 = 0x5A32 ∧
      live0.pwr.rstAt = none) ∧
    (live0.phase.up = true ∧ live0.clk.slot ≠ some 15) ∧
    (let s := { live0 with pwr := { live0.pwr with rstAt := some 950 } }
     s.pwr.rstAt = some 950 ∧ 950 + 50 ≤ s.hfn ∧ s.phase.up = true ∧ s.pwr.flush = none) ∧
    (let s := { live0 with pwr := { live0.pwr with rstAt := some 951 } }
     s.pwr.rstAt = some 951 ∧ s.hfn < 951 + 50) := by decide

theorem witness_PmbConfigurationWrites :
    live0.bar0Up0 = true ∧ fld 0x0107#32 6 0 < 0x08 ∧ 0x77 < fld 0x0178#32 6 0 ∧ 8 < fld 0x0910#32 11 8 ∧
    0x77 < fld 0x0277#32 6 0 + fld 0x0277#32 11 8 - 1 ∧ 0x08 ≤ fld 0x0808#32 6 0 ∧ fld 0x0177#32 6 0 ≤ 0x77 ∧ fld 0x0808#32 11 8 ≤ 8 ∧
    fld 0x0177#32 6 0 + fld 0x0177#32 11 8 - 1 ≤ 0x77 ∧ (atBoundary 50000 live0).live = true ∧ (atBoundary 50000 live0).clk.slot = none ∧
    (atBoundary 50000 live0).hfn % 50000 = 0 ∧ { live0 with side := { live0.side with pmbExtra := true } }.side.pmbExtra = true := by decide

/-- A shadow of a scan job whose primary ended in frame 949, with the wait of 50 frames over. -/
def shadow0 : Shadow := ⟨1, 0, true, ⟨0, false, 3⟩, 0, [], 7, [0], none, 0, 949, []⟩

theorem witness_OverdueShadows :
    (let s := { live0 with integ := { live0.integ with shadows := [shadow0] } }
     s.live = true ∧ s.integ.shadows.find? (·.id == 1) = some shadow0 ∧ s.shadowFresh shadow0 = false) := by decide

end Sys2Proof.Tests
end

