-- ==== Sys2Proof/Tests/WitnessScan.lean ====
section
/-! SUPPORT. Witnesses for the statements about queries: search, scan, selection, re-rank and merge. -/

namespace Sys2Proof.Tests
open Sys2Proof Sys2Proof.Machine

/-- A bundle of 64 dimensions, 128-bit sketches and one plot, with empty sections. -/
def bundle0 : Bundle := ⟨1, 64, 64, 128, 0, 64, 0, 1, [], zeros 64, []⟩

/-- The corpus of pavilion 0 of `live1`: `bundle0` current, confirmed, its settled frame the frame before. -/
def corpus0 : Corpus :=
  { Corpus.reset with cur := some bundle0, rstate := .confirmed, stores := [Store.new bundle0 1048576], corpusCfg := 0x0014_0101#32
                      vecBase := 1#32, payBase := 2#32, committed := 999 }

/-- `live0` with that corpus, one search die of quadrant 0 in service, and its tensor arrays the pavilion's. -/
def live1 : State :=
  { live0 with
    corpora := modifyAt live0.corpora 0 fun _ => corpus0
    qos := { live0.qos with shares := [⟨.ta, 0, 0, 4, 4, 0, 0⟩] }
    dies := modifyAt live0.dies 0 fun d => { d with inService := true, engMap := List.replicate 48 (some 0), taMap := List.replicate 4 (some 0) } }

/-- A record of one int8 input of 64 values, k = C = PROBES = 1. -/
def qbytes : List Byte :=
  let put_ (d : List Byte) (x : Nat × Nat × Nat) : List Byte := d.take x.1 ++ leBytes x.2.1 x.2.2 ++ d.drop (x.1 + x.2.1)
  [(8, 4, 4096), (12, 2, 1), (14, 2, 1), (16, 2, 1), (24, 1, 3), (80, 4, 64)].foldl put_ (zeros 192)
def qrec0 : QRec := readQRec qbytes

/-- The query of that record, at a stage. -/
def query0 (st : QStage) : Query := { Query.new 9 4 0 0 qrec0 false 1 998 st with snapshot := 998 }
/-- `live1` with a query. -/
def withQuery (q : Query) : State := { live1 with scan := { live1.scan with queries := [q] } }

def rec0 : Rec := ⟨77, 5, 0, 0, 0, 0, 1⟩
def tile0 : ScanTile := ⟨0, 0, 0, 1, 128, 0, 0, 0, 0, 1, [⟨5, some rec0, false⟩], [9], true, 0, false⟩
def job0 (die eng : Nat) (tiles : List Nat) : Job := ⟨7, die, eng, 0, 128, [0], tiles, [], false, none⟩
def batch0 (tiles : List ScanTile) (jobs : List Job) : ScanBatch := ⟨7, 0, 998, some 999, [9], tiles, jobs, 0x0000_0807#32, [(128, [9])]⟩
def hit0 (sim : Nat) : Hit := ⟨7, 9, 0, 3, 0, 0, sim, 0, false, 0⟩
/-- A state with the query scanning, one batch and one hit of a similarity; its lane holds `n` entries. -/
def scanning (thr sim n : Nat) : State :=
  { live1 with scan := { live1.scan with
      queries := [{ query0 .scanning with thr := thr, hist := List.replicate 129 0 }]
      batches := [batch0 [tile0] []]
      hits := [hit0 sim]
      lanes := [⟨7, 9, 0, 3, List.replicate n ⟨50, rec0, false, 0⟩⟩] } }

theorem witness_CompactionAndDrains_hits :
    (let s := scanning 10 60 0
     let q := { query0 .scanning with thr := 10, hist := List.replicate 129 0 }
     s.live = true ∧ s.scan.hits[0]? = some (hit0 60) ∧ s.hitAt (hit0 60) q tile0 ⟨5, some rec0, false⟩ rec0 ∧
     s.passes (hit0 60) q tile0 ⟨5, some rec0, false⟩ rec0 ∧ (s.laneOf (hit0 60)).length < min 64 q.q.c) ∧
    (let s := scanning 10 60 1
     min 64 qrec0.c ≤ (s.laneOf (hit0 60)).length ∧ worstOf (s.laneOf (hit0 60)) = some ⟨50, rec0, false, 0⟩ ∧ 50 < (hit0 60).sim ∧
     (hit0 50).sim ≤ 50) ∧
    (let q := { query0 .scanning with thr := 61, hist := List.replicate 129 0 }
     (scanning 61 60 0).hitAt (hit0 60) q tile0 ⟨5, some rec0, false⟩ rec0 ∧
     ¬ (scanning 61 60 0).passes (hit0 60) q tile0 ⟨5, some rec0, false⟩ rec0) := by
  refine ⟨⟨rfl, rfl, ⟨rfl, ⟨batch0 [tile0] [], rfl, rfl⟩, rfl, rfl⟩, ?_, by decide⟩, by decide, ⟨rfl, ⟨batch0 [tile0] [], rfl, rfl⟩, rfl, rfl⟩, ?_⟩
  · unfold State.passes
    decide
  · exact fun h => absurd h.1 (by decide)

/-- A state whose one batch is of tiles that no bank queue holds, with a job of a die and engine; a second die is in service in the quadrant. -/
def stealing (die eng n : Nat) : State :=
  { live1 with
    dies := modifyAt live1.dies 1 fun d => { d with inService := true, engMap := List.replicate 48 (some 0) }
    scan := { live1.scan with batches := [batch0 (List.replicate 8 { tile0 with inBank := false }) [job0 die eng (List.range n)]] } }
def stolen (die eng n : Nat) : ScanBatch := batch0 (List.replicate 8 { tile0 with inBank := false }) [job0 die eng (List.range n)]

theorem witness_CompactionAndDrains_claims :
    (let b := batch0 [{ tile0 with inBank := false, done := true }] []
     let s := { scanning 10 60 1 with scan := { (scanning 10 60 1).scan with hits := [], batches := [b] } }
     let q := { query0 .scanning with thr := 10, hist := List.replicate 129 0 }
     s.live = true ∧ s.sbatch? 7 = some b ∧ s.query? 9 = some q ∧ b.view ≠ none ∧ b.jobs = [] ∧ s.scan.hits = [] ∧
     s.scan.lanes.filter (fun l => l.batch == 7 && l.qid == 9 && l.die == 0) = [⟨7, 9, 0, 3, [⟨50, rec0, false, 0⟩]⟩] ∧ q.thr ≤ 50 ∧
     s.scan.tree = [] ∧ (∀ l ∈ s.scan.lanes, ¬ (l.batch = 7 ∧ l.qid = 9 ∧ l.die = 1))) ∧
    (∃ h ∈ (scanning 10 60 1).scan.hits, h.batch = 7 ∧ h.qid = 9 ∧ h.die = 0) ∧
    (let s := scanning 10 60 0
     let b := batch0 [tile0] []
     s.sbatch? 7 = some b ∧ b.tiles[0]? = some tile0 ∧ b.view ≠ none ∧ bit b.cfg 2 = true ∧ 0 ∈ s.quadDies b.quad ∧ tile0.inBank = true ∧
     tile0.passes = 0 ∧ tile0.done = false ∧ b.bankTail tile0 = some 0 ∧ (∀ c ∈ s.scan.batches, c.jobs = []) ∧
     { tile0 with inBank := false }.inBank = false) ∧
    (let s := stealing 0 3 8
     let j := job0 0 3 (List.range 8)
     s.jobsOf 0 3 = [j] ∧ s.sbatch? j.batch = some (stolen 0 3 8) ∧ (0, 4) ∈ s.engines ∧ s.jobsOf 0 4 = [] ∧ s.slotOpen 0 false 4 = true ∧
     bit (stolen 0 3 8).cfg 0 = true ∧ fld (stolen 0 3 8).cfg 15 8 ≤ j.tiles.length ∧
     (∀ x ∈ s.engines, x.1 = 0 → ∀ k ∈ s.jobsOf x.1 x.2, k.tiles.length ≤ j.tiles.length)) ∧
    ((stealing 0 3 7).jobsOf 0 3 = [job0 0 3 (List.range 7)] ∧ (List.range 7).length < fld (stolen 0 3 7).cfg 15 8) ∧
    (let s := stealing 1 3 8
     let j := job0 1 3 (List.range 8)
     s.jobsOf 1 3 = [j] ∧ s.sbatch? j.batch = some (stolen 1 3 8) ∧ 1 ≠ 0 ∧ 1 / 6 = 0 / 6 ∧ (0, 4) ∈ s.engines ∧ s.jobsOf 0 4 = [] ∧
     s.slotOpen 0 false 4 = true ∧ bit (stolen 1 3 8).cfg 1 = true ∧ 0 < fld (stolen 1 3 8).cfg 15 8 ∧
     (∀ x ∈ s.engines, x.1 = 0 → ∀ k ∈ s.jobsOf x.1 x.2, k.tiles.length < fld (stolen 1 3 8).cfg 15 8) ∧
     (∀ x ∈ s.engines, x.1 ≠ 0 → x.1 / 6 = 0 / 6 → ∀ k ∈ s.jobsOf x.1 x.2, k.tiles.length ≤ j.tiles.length)) ∧
    live1.jobsOf 0 3 = [] := by
  refine ⟨?_, ?_, ?_, ?_, ?_, ?_, ?_⟩ <;> decide +kernel

end Sys2Proof.Tests
end

