-- ==== Sys2Proof/Tests/WitnessSelect.lean ====
section
/-! SUPPORT. Witnesses for the statements about re-rank, the node's top k, the final merge and search descriptors. -/

namespace Sys2Proof.Tests
open Sys2Proof Sys2Proof.Machine

/-- The candidate of `rec0` at a stage of its fetch, and its entry. -/
def cand0 (st : CandSt) : Cand := ⟨⟨60, rec0, false, 0⟩, st, [], F32.one, false⟩
def ent0 (row : Option (List Byte)) : Ent := ⟨77, 5, 60, false, false, false, false, 0, 0, row⟩
/-- `live1` with `query0` fetching the record of one candidate of the exact metric. -/
def fetching0 (st : CandSt) : Query := { query0 .fetching with cands := [cand0 st], formedAt := 900, fetchWait := 99 }
/-- A state whose page that holds the record of `rec0` is in a state, with words of it that cannot be corrected. -/
def withPage (st : PState) (bad : List WordErr) (s : State) : State :=
  let no := (s.corpus 0).vecAddr rec0.elem / pageSize
  modRange 0 (fun r => { r with pages := [{ Page.fresh no with st := st, errs := bad }] }) s

/-- A scored candidate of a query that asks for the scorer, on a corpus whose bundle has one. -/
def scored0 : Query := { fetching0 (.scored 1 F32.one false) with q := { qrec0 with scEn := true, metric := 1 } }
def withScorer (q : Query) : State :=
  let b : Bundle := { bundle0 with secs := [(0, 0), (0, 0), (0, 0), (0, 0), (0, 64), (0, 0)], image := zeros 64 }
  { withQuery q with corpora := modifyAt live1.corpora 0 fun c => { c with cur := some b } }

/-- A query whose part of the round is done, with parts, plots left to widen, and their order. -/
def done0 (parts : List Part) (left : Nat) (order : List Nat) : Query :=
  { query0 .localDone with parts := parts, widenEn := true, widenLeft := left, order := order }

/-- Plot 0 of pavilion 0 is routed to node 5, its only holder. -/
theorem routes0 (qid : Nat) : routePlot map0 qid 0 0 = .to 5 := by
  have h : ∀ n : Nat, ([5] : List Nat).getD (n % ([5] : List Nat).length) 0 = 5 := by
    intro n
    simp [Nat.mod_one]
  exact congrArg Route.to (h _)

theorem witness_CandidatesAndBlocks_records :
    (let q := fetching0 .waiting
     let s := withQuery q
     let a := (s.corpus q.pv).vecAddr rec0.elem
     let n := recordBytes bundle0.dim bundle0.vfmt bundle0.group bundle0.qmode
     s.query? 9 = some q ∧ s.live = true ∧ q.stage = .fetching ∧ q.cands[0]? = some (cand0 .waiting) ∧ (cand0 .waiting).st = .waiting ∧
     s.recordOf q (cand0 .waiting) = some (a, n) ∧ accessErr s q.pv a n = none ∧ s.tierOf q.pv a ≠ 2 ∧ s.tierOf q.pv a ≠ 3 ∧
     (∀ g ∈ (s.range q.pv).pages, g.errs = []) ∧ q.formedAt + q.fetchWait < s.hfn ∧ q.cands[1]? = none) ∧
    (let q := fetching0 .waiting
     let a := ((withQuery q).corpus q.pv).vecAddr rec0.elem
     let n := recordBytes bundle0.dim bundle0.vfmt bundle0.group bundle0.qmode
     let s := withPage .t1Only [⟨a % pageSize / 64, 0, [(0, 1#8), (1, 1#8)]⟩] (withQuery q)
     s.query? 9 = some q ∧ s.live = true ∧ s.recordOf q (cand0 .waiting) = some (a, n) ∧ s.tierOf q.pv a ≠ 3 ∧
     accessErr s q.pv a n = some .memUncorrectable ∧ s.tierOf q.pv a ≠ 2 ∧ (withPage .t2 [] (withQuery q)).tierOf q.pv a = 2) ∧
    (let q := fetching0 .waiting
     let a := ((withQuery q).corpus q.pv).vecAddr rec0.elem
     let s := withPage .t3 [] (withQuery q)
     s.tierOf q.pv a = 3 ∧ (cand0 .waiting).asked = false ∧ s.flash.asked q.pv (.cand 9 0) = false ∧ { cand0 .waiting with asked := true }.asked = true ∧
     { s.flash with ops := [⟨0, 0, 2, some 0, .cand 9 0, ⟨0, 0, 0⟩, 0, 0, 1, .queued, 0⟩] }.asked q.pv (.cand 9 0) = true) ∧
    (let q := { fetching0 .waiting with fetchWait := 100 }
     (withQuery q).hfn ≤ q.formedAt + q.fetchWait) := by
  refine ⟨?_, ?_, ?_, ?_⟩ <;> decide +kernel

/-- A record of 64 dimensions, read. -/
def ready0 : Query := fetching0 (.got 1 (zeros 64))
/-- The tensor array 2 of die 0 works on the query, with groups left. -/
def tensorBusy (n : Nat) : State :=
  { withQuery ready0 with scan := { (withQuery ready0).scan with taUse := [⟨0, 2, 9, [0], n⟩] } }

theorem witness_CandidatesAndBlocks_blocks :
    (let q := ready0
     let s := withQuery q
     s.query? 9 = some q ∧ s.live = true ∧ q.stage = .fetching ∧ [0] ≠ [] ∧ s.taGrant 0 3 q = some false ∧ [0].length ≤ 64 ∧
     q.cands[0]? = some (cand0 (.got 1 (zeros 64))) ∧ (cand0 (.got 1 (zeros 64))).st = .got 1 (zeros 64) ∧
     (s.corpus q.pv).recBundle q (cand0 (.got 1 (zeros 64))).sel.ent = some bundle0 ∧
     s.taGrant 0 4 q = none ∧ 64 < (List.range 65).length) ∧
    (let q := scored0
     let s := withScorer q
     s.query? 9 = some q ∧ s.live = true ∧ q.stage = .fetching ∧ s.taGrant 0 3 q = some false ∧
     (∃ p, s.scorerOf q = some p ∧ [0].length ≤ p.blockRows) ∧ q.allExact = true ∧
     (∀ i ∈ [0], i ∈ scorerSet q ∧ ∃ c, q.cands[i]? = some c ∧ c.st.isExact = true)) ∧
    (let q := ready0
     let s := tensorBusy 8
     let v : TaUse := ⟨0, 2, 9, [0], 8⟩
     s.query? 9 = some q ∧ s.live = true ∧ s.scan.taUse.find? (fun u => u.die == 0 && u.ta == 2 && u.qid == 9) = some v ∧ q.stage = .fetching ∧
     s.taIdle 0 3 = true ∧ bit s.scan.scanEff 0 = true ∧ fld s.scan.scanEff 15 8 ≤ v.left ∧ (∀ u ∈ s.scan.taUse, u.die = 0 → u.left ≤ v.left) ∧
     s.qos.pick .ta 0 [(q.pv, 0)] = some (0, false) ∧ s.taIdle 0 2 = false ∧ 0 / 6 ≠ 6 / 6) ∧
    (let q := ready0
     let s0 := { tensorBusy 8 with scan := { (tensorBusy 8).scan with taUse := [⟨1, 2, 9, [0], 8⟩] } }
     let v : TaUse := ⟨1, 2, 9, [0], 8⟩
     s0.scan.taUse.find? (fun u => u.die == 1 && u.ta == 2 && u.qid == 9) = some v ∧ s0.taIdle 0 3 = true ∧ 1 ≠ 0 ∧ 1 / 6 = 0 / 6 ∧
     bit s0.scan.scanEff 1 = true ∧ (∀ u ∈ s0.scan.taUse, u.die = 0 → u.left < fld s0.scan.scanEff 15 8) ∧
     (∀ u ∈ s0.scan.taUse, u.die ≠ 0 → u.die / 6 = 0 / 6 → u.left ≤ v.left) ∧ s0.qos.pick .ta 0 [(q.pv, 0)] = some (0, false)) := by
  refine ⟨by decide +kernel, ⟨?_, ?_, ?_, ?_, ⟨_, rfl, ?_⟩, ?_, ?_⟩, by decide +kernel, by decide +kernel⟩
  rotate_left 6
  · intro i hi
    rw [List.mem_singleton] at hi
    subst hi
    exact ⟨by decide, _, rfl, rfl⟩
  all_goals decide +kernel

theorem witness_TopKAndMerge :
    (let q := { fetching0 (.scored 1 F32.one false) with q := { qrec0 with k := 1 } }
     let s := withQuery q
     s.query? 9 = some q ∧ s.live = true ∧ q.origin = none ∧ q.stage = .fetching ∧
     (∀ c ∈ q.cands, c.st.isWaiting = false ∧ c.st.isGot = false) ∧ s.scorerOf q = none ∧ q.q.payWant = false) ∧
    (∃ c ∈ (fetching0 .waiting).cands, c.st.isWaiting = true ∨ c.st.isGot = true) ∧
    (let q := { fetching0 .lost with stage := .gathering, gatherAt := 900, top := [ent0 none] }
     let s := withQuery q
     s.query? 9 = some q ∧ s.live = true ∧ q.origin = none ∧ q.stage = .gathering ∧ q.gatherAt + q.fetchWait < s.hfn ∧ (∃ e ∈ q.top, e.row = none)) ∧
    (let q := done0 [⟨5, [ent0 (some [])], 60, 0, 0, false, .ok, none, none, false⟩] 0 []
     let s := withQuery q
     let w : Work := ⟨4, 1, 0, zeros 64, false, 998, .running, 0, 0, none⟩
     let s := { s with works := [w] }
     s.query? 9 = some q ∧ s.live = true ∧ q.origin = none ∧ q.stage = .localDone ∧ q.awaitNodes = [] ∧ s.work q.work = some w ∧ s.fnUp w.fn = true ∧
     (mergeParts q).1.length = q.q.k ∧ 0 < q.q.k ∧ q.bad = [] ∧ (∀ x ∈ q.parts, x.st = .ok) ∧
     extent q.q.payWant (fld (s.corpus q.pv).corpusCfg 13 8 * 64) q.q.k q.q.k ≤ q.q.bufLen ∧
     (resultBytes q (fld (s.corpus q.pv).corpusCfg 13 8 * 64) (mergeParts q).1 (mergeParts q).2.2).1 ≠ []) ∧
    (let q := done0 [] 1 [0]
     let s := withQuery q
     s.query? 9 = some q ∧ s.live = true ∧ q.origin = none ∧ q.stage = .localDone ∧ q.awaitNodes = [] ∧ (mergeParts q).1.length < q.q.k ∧
     q.widenEn = true ∧ q.q.sweep = false ∧ nextRound q ≠ [] ∧ ∀ k ∈ nextRound q, routePlot s.comp.map 9 q.pv k = .to s.node) ∧
    (let q := { done0 [] 0 [] with awaitNodes := [⟨6, 0, 0, [0], 900⟩], fetchWait := 49 }
     let s := withQuery q
     s.query? 9 = some q ∧ q.stage.over = false ∧ q.awaitNodes ≠ [] ∧ (∃ r ∈ q.awaitNodes, r.sentAt + 2 * q.fetchWait < s.hfn) ∧
     (∀ r ∈ { q with fetchWait := 50 }.awaitNodes, s.hfn ≤ r.sentAt + 2 * 50)) := by
  refine ⟨?_, ?_, ?_, ?_, ⟨?_, ?_, ?_, ?_, ?_, ?_, ?_, ?_, ?_, ?_⟩, ?_⟩
  rotate_left 13
  · intro k hk
    have h : k ∈ [0] := hk
    rw [List.mem_singleton] at h
    subst h
    exact routes0 9
  all_goals decide

end Sys2Proof.Tests
end

