-- ==== Sys2Proof/Tests/WitnessSearch.lean ====
section
/-! SUPPORT. Witnesses for the statements about search descriptors, admission, encoding and routing, and messages about queries. -/

namespace Sys2Proof.Tests
open Sys2Proof Sys2Proof.Machine

/-- A search descriptor of `n` records of 192 bytes for an epoch, and its work item on a ring of VF0. -/
def searchDesc (op epoch n : Nat) : List Byte := desc [(0, 1, op), (8, 4, epoch), (12, 2, n), (14, 2, 3), (16, 8, 8192), (24, 8, 16384)]
def work0 (d : List Byte) (st : WorkStage) : Work := ⟨4, 1, 0, d, false, 998, st, 0, 0, none⟩
/-- `live1` with that work item. -/
def withWork (d : List Byte) (st : WorkStage) : State := { live1 with works := [work0 d st] }
/-- `qbytes` with a byte of its reserved part set. -/
def qbad : List Byte := qbytes.set 127 1#8

theorem witness_SearchAdmission :
    (∀ x ∈ [(opSearch, Instr.search 4), (opSearchBatch, Instr.searchBatch 4)],
      let d := searchDesc x.1 1 1
      let s := withWork d .fetched
      s.work 4 = some (work0 d .fetched) ∧ s.live = true ∧ dOp d = x.1 ∧ (work0 d .fetched).fn.val ≠ 0 ∧ s.composed 0 = true ∧
      { s with comp := { s.comp with map := { map0 with slices := [] } } }.composed 0 = false ∧
      searchEpoch s 0 (dEpoch d) = .inr bundle0 ∧
      searchEpoch s 0 (dEpoch (searchDesc x.1 2 1)) = .inl .epochStale ∧ dCount d = 1 ∧
      (∀ q ∈ s.scan.queries, q.work ≠ 4)) ∧
    (let s := withWork (searchDesc opSearch 1 1) .fetched
     s.recordCheck (work0 (searchDesc opSearch 1 1) .fetched) bundle0 qbytes = none ∧
     s.recordCheck (work0 (searchDesc opSearch 1 1) .fetched) bundle0 qbad ≠ none) ∧
    (let d := searchDesc opSearch 1 1
     let q : Query := { query0 .valid with work := 4 }
     let s := { withWork d .waiting with scan := { live1.scan with queries := [q] } }
     s.work 4 = some (work0 d .waiting) ∧ s.admits = true ∧ s.pvInReset 0 = false ∧ s.suspended = false ∧ (s.corpus 0).rstate = .confirmed ∧
     isSearch (dOp d) = true ∧ searchEpoch s 0 (dEpoch d) = .inr bundle0 ∧ (s.corpus 0).inForce s.hfn = some bundle0 ∧
     (∀ q ∈ s.scan.queries, q.work = 4 → q.origin = none → q.stage = .valid ∧ q.epoch = bundle0.epoch) ∧
     (∃ q ∈ s.scan.queries, q.work = 4 ∧ q.origin = none)) ∧
    (let b2 := { bundle0 with epoch := 2 }
     let c : Corpus := { corpus0 with stg := some b2, cutover := some 1001 }
     let s : State := { live1 with corpora := modifyAt live1.corpora 0 fun _ => c }
     searchEpoch s 0 2 = .inr b2 ∧ c.inForce 1000 ≠ some b2 ∧ c.inForce 1001 = some b2 ∧
     searchEpoch { s with clk := { s.clk with hfn := 1001 } } 0 1 = .inl .epochStale) ∧
    (State.reset.admits = false) := by
  refine ⟨?_, ⟨?_, ?_⟩, ?_, ?_, ?_⟩ <;> decide

/-- A query that waits for a frame that the node does not see, since ten frames. -/
def held0 : Query := { query0 .routed with toJoin := [0], arrived := 990, snapshot := 1001 }

theorem witness_EncodingAndRouting :
    (let q := query0 .admitted
     let s := withQuery q
     s.query? 9 = some q ∧ s.live = true ∧ q.stage = .admitted ∧ s.taGrant 0 3 q = some false ∧ (s.corpus q.pv).bundle? q.epoch = some bundle0 ∧
     q.q.sweep = false ∧
     (bundle0.order (bundle0.codeQuery (bundle0.rotate q.vector))).take q.q.probes = [0] ∧
     ∀ k ∈ [0], routePlot s.comp.map 9 q.pv k = .to s.node) ∧
    ((withQuery (query0 .admitted)).corpus 1).bundle? 1 = none ∧
    (let s := withQuery held0
     s.live = true ∧ s.query? held0.id = some held0 ∧ s.heldLate held0 ∧ held0.origin = none ∧
     ∀ x ∈ s.scan.queries, s.heldLate x → x = held0) ∧
    (∀ q ∈ (withQuery (query0 .routed)).scan.queries, ¬ (withQuery (query0 .routed)).heldLate q) := by
  refine ⟨⟨?_, ?_, ?_, ?_, ?_, ?_, rfl, ?_⟩, ?_, ⟨?_, ?_, ⟨?_, ?_, ?_, ?_⟩, ?_, fun _ hx _ => List.mem_singleton.mp hx⟩, ?_⟩
  all_goals first
    | decide
    | exact fun k hk => List.mem_singleton.mp hk ▸ routes0 9
    | exact fun x hx h => absurd rfl (List.mem_singleton.mp hx ▸ h).2.1

end Sys2Proof.Tests
end

