-- ==== Sys2Proof/Tests/WitnessMessages.lean ====
section
/-! SUPPORT. Witnesses for the statements about messages of other nodes. -/

namespace Sys2Proof.Tests
open Sys2Proof Sys2Proof.Machine
set_option Elab.async false -- one proof at a time: the kernel evaluations below would each hold a thread

/-- `n` bytes from a list of (offset, width, value). -/
def put (n : Nat) (xs : List (Nat × Nat × Nat)) : List Byte :=
  xs.foldl (fun d x => d.take x.1 ++ leBytes x.2.1 x.2.2 ++ d.drop (x.1 + x.2.1)) (zeros n)
/-- `live1` with room for elements: pages in T1, glasshouse ranks, flash. -/
def live2 : State :=
  { modRange 0 (fun r => { r with share := 100 }) live1 with
    scan := { live1.scan with st := live1.scan.st.map fun k => { k with gh := [1, 1, 1, 1] } }
    flash := { live1.flash with rawGib := 64, total := 4, free := 4 } }

/-- A message of node 6 for pavilion 0 under the map in force. -/
def msg (body : List Byte) : JMsg := ⟨6, 4, 0, 11, body⟩
/-- A FANOUT of one record for plot 0, under an epoch and a snapshot; a PARTIAL of query 9. -/
def fanBody (epoch snap : Nat) : List Byte := put 192 [(0, 8, 33), (8, 8, snap), (16, 4, epoch), (20, 2, 1), (22, 2, 1), (24, 2, 1), (82, 2, 3)]
def partBody : List Byte := put 64 [(0, 8, 9)]

theorem witness_QueryMessages :
    ({ live1 with clk := { live1.clk with align := .unaligned } }.takesMsg jFanout (msg (fanBody 1 998)) ∧
      { live1 with clk := { live1.clk with align := .unaligned } }.alignOpen = false ∧ live1.alignOpen = true) ∧
    (let m := msg (fanBody 1 998)
     live1.takesMsg jFanout m ∧ fanRecords m.body.length m.body = [m.body] ∧ live1.pvInReset m.pv = false ∧
     (live1.corpus m.pv).bundle? (field m.body 16 4) = some bundle0 ∧ (live1.corpus m.pv).bundle? (field (fanBody 2 998) 16 4) = none ∧
     { live1 with qos := { live1.qos with inReset := modifyAt live1.qos.inReset 0 fun _ => some 9 } }.pvInReset m.pv = true ∧
     (live1.corpus m.pv).retireH < field m.body 8 8 ∧ field (fanBody 1 0) 8 8 ≤ (live1.corpus m.pv).retireH ∧
     (readFan bundle0 m.body).1.sweep = false ∧ (readFan bundle0 m.body).2.2.2 = [0] ∧
     (∀ k ∈ [0], live1.answersFor m.pv k m.epoch = true ∧ ((live1.comp.map.plot? m.pv k).map (·.st) = some .served)) ∧
     { live1 with comp := { live1.comp with map := { map0 with plots := [] } } }.answersFor m.pv 0 m.epoch = false) ∧
    (live1.hears 6 = true ∧ bodyOk ⟨msg (fanBody 1 998 ++ [0#8]), jFanout⟩ = false ∧ (msg []).epoch ≤ live1.comp.map.epoch) ∧
    (let q : Query := { query0 .routed with awaitNodes := [⟨6, 0, 0, [0], 999⟩] }
     let s := withQuery q
     let m := msg partBody
     s.takesMsg jPartial m ∧ s.query? (field m.body 0 8) = some q ∧ q.pv = m.pv ∧ q.origin = none ∧ q.stage.over = false ∧
     q.awaitNodes.find? (fun r => r.node == m.src && r.round == field m.body 22 2 && r.reroute == field m.body 44 1) = some ⟨6, 0, 0, [0], 999⟩ ∧
     Status.ofCode (field m.body 8 1) ≠ .redirect) ∧
    (live1.takesMsg jPartial (msg partBody) ∧ ∀ q ∈ live1.scan.queries, q.id ≠ field partBody 0 8) := by
  refine ⟨?_, ?_, ?_, ?_, ?_⟩
  all_goals try simp only [State.takesMsg]
  all_goals decide +kernel

/-- A PRE_ELEM of one element of plot 0, and other INGEST bodies of batch 33. -/
def preElemBody : List Byte := put 304 [(8, 8, 33), (16, 2, 1), (24, 8, 77), (52, 4, 1)]
def ingest (sub at_ : Nat) (xs : List (Nat × Nat × Nat)) : JMsg := msg (put 32 ([(0, 1, sub), (8, 8, at_)] ++ xs))
/-- The frame mark of a frame, of no elements. -/
def mark (f : Nat) : JMsg := msg (put 24 [(0, 1, 3), (8, 8, f)])
/-- An update batch of this node at a stage, awaiting node 6 and owned by it. -/
def ubatch0 (st : BatchStage) : Batch := ⟨33, 4, 0, 0, 1, false, [], 990, [6], st, 999, [6], [], false, 0, 0, [(6, true)], [], []⟩
def withBatch (b : Batch) : State := { live2 with upd := { live2.upd with batches := [b] } }
/-- `live2` with node 6 as a peer of pavilion 0 that has sent its marks to frame 998. -/
def peered : State :=
  { live2 with corpora := modifyAt live2.corpora 0 fun c => { c with peers := [⟨6, 998, [], 998, 0⟩] } }


theorem witness_IngestMessages :
    (let m := msg preElemBody
     let es := (parseElems bundle0 ((live2.corpus m.pv).stgAt live2.hfn) (field m.body 16 2) (m.body.drop 24)).filter (·.heldBy live2.comp.map m.pv live2.node)
     live2.takesMsg jIngest m ∧ field m.body 0 1 = 0 ∧ (∀ x ∈ live2.upd.staged, x.id ≠ field m.body 8 8) ∧
     (live2.corpus m.pv).cur = some bundle0 ∧ (live0.corpus m.pv).cur = none ∧ es.length = 1 ∧ (reserveElems m.pv false es live1).isNone = true ∧
     (match reserveElems m.pv false es live2 with | some x => x.1.all (fun e => poolRoom x.2 m.pv e.vers (e.payload != []) == .ok) | none => false) = true) ∧
    (live2.takesMsg jIngest (ingest 1 33 [(16, 2, 1)]) ∧ field (ingest 1 33 [(16, 2, 1)]).body 18 1 = 0) ∧
    (live2.alignOpen = true ∧
      { live2 with clk := { live2.clk with align := .acquire } }.takesMsg jIngest (msg preElemBody) ∧
      { live2 with clk := { live2.clk with align := .acquire } }.alignOpen = false ∧
      (match reserveElems 0 false ((parseElems bundle0 none 1 (preElemBody.drop 24)).filter (·.heldBy live2.comp.map 0 live2.node))
          { live2 with flash := { live2.flash with readOnly := true } } with
       | some x => x.1.all (fun e => poolRoom x.2 0 e.vers (e.payload != []) != .ok) && x.1.length == 1 | none => false) = true) ∧
    (let s := withBatch (ubatch0 .prep)
     let m := ingest 2 33 [(16, 1, Status.quota.code)]
     s.takesMsg jIngest m ∧ s.takesMsg jIngest (ingest 2 33 []) ∧ s.batch? (field m.body 8 8) = some (ubatch0 .prep) ∧
     m.src ∈ (ubatch0 .prep).await_ ∧ field m.body 16 1 = Status.quota.code ∧ field (ingest 2 33 []).body 16 1 ≠ Status.quota.code ∧
     live2.batch? (field m.body 8 8) = none) ∧
    (let m := mark 999
     peered.takesMsg jIngest m ∧ field m.body 0 1 = 3 ∧ (peered.corpora[m.pv]?).map (·.peers) = some [⟨6, 998, [], 998, 0⟩] ∧
     998 + 1 = field m.body 8 8 ∧ field m.body 16 2 = 0 ∧ field (mark 998).body 8 8 ≤ 998) ∧
    (let s := withBatch (ubatch0 .admitted)
     let m := ingest 4 33 []
     s.takesMsg jIngest m ∧ field m.body 0 1 = 4 ∧ s.batch? (field m.body 8 8) = some (ubatch0 .admitted) ∧ m.src ∈ (ubatch0 .admitted).owners ∧
     ((ubatch0 .admitted).elems.filter ((ubatch0 .admitted).partOn s.comp.map [m.src])).length ≤ field m.body 16 2) := by
  refine ⟨?_, ?_, ?_, ?_, ?_, ?_⟩
  all_goals try simp only [State.takesMsg]
  all_goals decide +kernel

/-- A READ, a WRITE and an ATOMIC of `n` bytes at offset 1 MiB of pavilion 0 on node 5. -/
def hallAt : Nat := 5 * 2 ^ 48 + 0x100000
def readMsg (n : Nat) : JMsg := msg (put 16 [(0, 8, hallAt), (8, 4, n)])
def writeMsg (n : Nat) : JMsg := msg (put (16 + n) [(0, 8, hallAt), (8, 4, n), (16, 1, 7)])
def atomicMsg (aop : Nat) : JMsg := msg (put 32 [(0, 8, hallAt), (8, 1, aop), (16, 8, 7)])
/-- `live2` with page 16 of pavilion 0 in a state, with bad words. -/
def page16 (st : PState) (bad : List WordErr) : State :=
  modRange 0 (fun r => { r with pages := [{ Page.fresh 16 with st := st, errs := bad }] }) live2

/-- `page16` with a copy down of the page on its way. -/
def copying (st : PState) (hold : Bool) : State :=
  modRange 0 (fun r => { r with pages := mapIf (·.no == 16) (fun g => { g with copy := some ⟨2, false, 3, 0, none, 0, hold⟩ }) r.pages }) (page16 st [])

theorem witness_StatisticsCopiesAndHallRequests_requests :
    ((page16 .t1Only []).servesReq jRead (readMsg 8) ∧ reqPv ⟨readMsg 8, jRead⟩ = 0 ∧ reqOff ⟨readMsg 8, jRead⟩ = 0x100000 ∧
      (∀ no ∈ blocksIn pageSize 0x100000 8, (((page16 .t1Only []).range 0).page no).errs = [])) ∧
    ((page16 .t1Only [⟨0, 0, [(0, 1#8), (1, 1#8)]⟩]).servesReq jRead (readMsg 8) ∧ (readFor 0 0x100000 8 0 (page16 .t1Only [⟨0, 0, [(0, 1#8), (1, 1#8)]⟩])).1 = (some .memUncorrectable, [])) ∧
    ((page16 .t1Only []).servesReq jWrite (writeMsg 8) ∧
      (writeBack 0 0x100000 (slice (writeMsg 8).body 16 8) (page16 .t1Only [])).1 = .ready ∧
      live1.servesReq jWrite (writeMsg 8) ∧ (writeBack 0 0x100000 (slice (writeMsg 8).body 16 8) live1).1 = .refuse .quota ∧
      (copying .t1OverT2 true).servesReq jWrite (writeMsg 8) ∧
      (writeBack 0 0x100000 (slice (writeMsg 8).body 16 8) (copying .t1OverT2 true)).1 = .wait) ∧
    ((page16 .t1Only []).servesReq jAtomic (atomicMsg 0) ∧ (page16 .t1Only []).servesReq jAtomic (atomicMsg 1) ∧
      (readFor 0 0x100000 8 0 (page16 .t1Only [])).1.1 = none ∧
      (writeBack 0 0x100000 (leBytes 8 7) (readFor 0 0x100000 8 0 (page16 .t1Only [])).2).1 = .ready) ∧
    (live2.hears 6 = true ∧ reqRefusal live2 ⟨readMsg 0, jRead⟩ = some (.badLength, []) ∧
      reqRefusal live2 ⟨msg (put 16 [(0, 8, hallAt + 2 ^ 48), (8, 4, 8)]), jRead⟩ = some (.redirect, leBytes 8 6) ∧
      reqRefusal live2 ⟨msg (put 32 [(0, 8, hallAt + 4)]), jAtomic⟩ = some (.badField, []) ∧ field (atomicMsg 1).body 8 1 ≠ 0) := by
  refine ⟨?_, ?_, ?_, ?_, ?_⟩ <;> try simp only [State.servesReq]
  all_goals decide +kernel

theorem witness_StatisticsCopiesAndHallRequests_copies :
    (let w := work0 statsDesc .fetched
     let s := withWork statsDesc .fetched
     s.work 4 = some w ∧ s.admits = true ∧ dOp w.desc = opStats ∧ State.reset.admits = false) ∧
    (let d := desc [(0, 1, opCopy), (8, 8, hallAt + 2 ^ 48), (16, 8, 0x100000), (24, 4, 2 ^ 20), (28, 1, 1)]
     let s := withWork d .fetched
     s.admitsWork opCopy 4 (work0 d .fetched) ∧ s.fab.held = [] ∧ cDir d ≠ 0 ∧ 0 < cLen d ∧ cLen d ≤ 2 ^ 20 ∧ hallNode (cSrc d) ≠ s.node ∧
     cDir (desc [(0, 1, opCopy)]) = 0) ∧
    (let d := desc [(0, 1, opCopy), (8, 8, 0x100000), (16, 8, hallAt + 2 ^ 48), (24, 4, 2 ^ 20)]
     let s := withWork d .fetched
     s.admitsWork opCopy 4 (work0 d .fetched) ∧ s.fab.held = [] ∧ cDir d = 0 ∧ 0 < cLen d ∧ cLen d ≤ 2 ^ 20 ∧ hallNode (cDst d) ≠ s.node) ∧
    (let d := desc [(0, 1, opCopy), (8, 8, 0x100000), (16, 8, hallAt + 2 ^ 48), (24, 4, 4096)]
     let s := withWork d .fetched
     s.admitsWork opCopy 4 (work0 d .fetched) ∧ s.fab.held = [] ∧ cDir d = 0 ∧ 0 < cLen d ∧ cLen d + 16 < 65536 ∧ hallNode (cDst d) ≠ s.node) := by
  refine ⟨?_, ?_, ?_, ?_⟩ <;> try simp only [State.admitsWork]
  all_goals decide +kernel

/-- `live2` with a request held since a frame. -/
def withHeld (forPage : Bool) (at_ : Nat) : State :=
  { live2 with fab := { live2.fab with held := [⟨⟨readMsg 8, jRead⟩, at_, forPage⟩] } }
/-- `live2` with a request of a kind sent to node 6. -/
def withReq (why : ReqFor) : State := { live2 with fab := { live2.fab with reqs := [⟨21, 6, why, []⟩] } }
/-- The RESP of that request, with a status. -/
def respMsg (st : Status) : JMsg := msg (put 16 [(0, 4, 21), (4, 1, st.code)])

theorem witness_HoldsAndAnswers :
    (let s := page16 .t2 []
     let m := readMsg 8
     s.hears m.src = true ∧ m.epoch ≤ s.comp.map.epoch ∧ reqRefusal s ⟨m, jRead⟩ = none ∧ reqLow s ⟨m, jRead⟩ ≠ [] ∧ reqDead s ⟨m, jRead⟩ = false) ∧
    (live2.hears 6 = true ∧ live2.comp.map.epoch < { writeMsg 8 with epoch := 5 }.epoch) ∧
    (let s := withHeld true 0
     s.live = true ∧ s.fab.held = [⟨⟨readMsg 8, jRead⟩, 0, true⟩] ∧ isReq jRead = true ∧ (readMsg 8).src ≠ s.node ∧ 0 + 1000 ≤ s.hfn) ∧
    (let q : Query := { query0 .routed with toJoin := [0], plots := [0], arrived := 900 }
     let s := { withQuery q with comp := { live1.comp with pulls := [(0, 0, 6)] } }
     s.live = true ∧ s.fab.held = [] ∧ s.scan.queries = [q] ∧ q.toJoin ≠ [] ∧ q.pulling s = true ∧ q.arrived + 100 ≤ s.hfn ∧
     ¬ { s with clk := { s.clk with hfn := 999 } }.hfn ≥ q.arrived + 100 ∧ (∀ x ∈ (withHeld true 0).scan.queries, x.pulling (withHeld true 0) = false)) ∧
    (∀ h ∈ (withHeld false 901).fab.held, (withHeld false 901).hfn < h.arrived + if h.forPage then 1000 else 100) ∧
    ((withReq .atomic).takesMsg jResp (respMsg .ok) ∧ (21 : Nat) = field (respMsg .ok).body 0 4) ∧
    (let m := respMsg .badAddress
     let s := withReq (.copy 4 0 64 false)
     s.takesMsg jResp m ∧ Status.ofCode (field m.body 4 1) ≠ .ok ∧ Status.ofCode (field m.body 4 1) ≠ .redirect ∧ s.fab.held = []) ∧
    (live2.takesMsg jResp (respMsg .ok) ∧ ∀ r ∈ live2.fab.reqs, r.msgId ≠ field (respMsg .ok).body 0 4 ∨ r.dst ≠ (respMsg .ok).src) ∧
    (let m := msg (put 16 [(0, 1, jRead), (4, 4, 16), (8, 4, 9)] ++ (readMsg 8).body)
     bundleRecs m m.body.length m.body = [⟨⟨6, 4, 0, 9, (readMsg 8).body⟩, jRead⟩]) ∧
    (let m := msg (put 16 [(0, 1, jPartial), (4, 4, 64), (8, 4, 9)] ++ partBody)
     bundleRecs m m.body.length m.body = [⟨⟨6, 4, 0, 9, partBody⟩, jPartial⟩] ∧ bundleRecs (msg []) 0 [] = []) ∧
    ({ live2 with fab := { live2.fab with nodeId := 0xFFFF#32 } }.hears 6 = false) ∧
    (let s := modRange 0 (fun r => { r with pages := mapIf (·.no == 16) (fun g => { g with copy := some ⟨1, false, 0, 0, none, 0, false⟩ }) r.pages }) (page16 .t2 [])
     s.fab.held = [] ∧ ((s.range 0).page 16).copy = some ⟨1, false, 0, 0, none, 0, false⟩ ∧ s.live = true ∧ ((s.range 0).page 16).st = .t2 ∧
     16 ∉ (s.range 0).t2Bad ∧ s.flash.asked 0 (.page 16) = false ∧ ((s.range 0).page 15).copy = none) := by
  refine ⟨?_, ?_, ?_, ?_, ?_, ?_, ?_, ?_, ?_, ?_, ?_, ?_⟩ <;> try simp only [State.takesMsg]
  all_goals decide +kernel

end Sys2Proof.Tests
end

