-- ==== Sys2Proof/Tests/WitnessMoves.lean ====
section
/-! SUPPORT. Witnesses for the statements about moves of plots, the map and proposals. -/

namespace Sys2Proof.Tests
open Sys2Proof Sys2Proof.Machine
set_option Elab.async false -- one proof at a time: the kernel evaluations below would each hold a thread

/-- The token of the move of plot 0 of pavilion 0 that map epoch 3 began, and a move of it at the old owner and at the receiver. -/
def tok0 : Token := ⟨3, 0, 0⟩
def out0 (st : MoveStage) (tries : Nat) : MoveOut := ⟨tok0, 6, 990, st, 0, 0, tries, 950, some 997, false⟩
def inn0 (held : Bool) : MoveIn := ⟨tok0, 6, [], held⟩
/-- `live2` as old owner or receiver of that move, its map with plot 0 as given. -/
def withOut (m : MoveOut) : State := { live2 with comp := { live2.comp with out := [m] } }
def withIn (m : MoveIn) : State := { live2 with comp := { live2.comp with inn := [m] } }
def withPlot (x : CPlot) (s : State) : State := { s with comp := { s.comp with map := { s.comp.map with plots := [x] } } }
/-- `live2` as the leading keeper, the move of plot 0 in progress to node 6. -/
def leading : State :=
  withPlot ⟨0, 0, 5, [], .moving, some 6, false, 3, 990, []⟩ { live2 with comp := { live2.comp with keeper := { live2.comp.keeper with role := 2 } } }
/-- A version of plot 0 that is a replica of nothing here. -/
def ver0 : PlotVer := ⟨77, 900, 0, 0, 0, 1, none, [(1, 5, false)], zeros 64, [], 6, 0, 1⟩

theorem witness_Moves :
    (let m := out0 .begun 0
     let s := atBoundary 1000 (withOut m)
     s.comp.out.find? (fun m => m.tok.pv == 0 && m.tok.plot == 0 && m.stage == .begun) = some m ∧ s.live = true ∧ s.flushing = false ∧
     s.clk.slot = none ∧ m.act + 1 ≤ s.hfn ∧ m.act - 1 ≤ (s.corpus 0).settledF ∧ (withOut m).clk.slot ≠ none) ∧
    (let m := out0 .handoff 2
     let s := withOut m
     s.hears 6 = true ∧ s.comp.out.find? (fun m => m.tok == tok0 && m.recv == 6) = some m ∧ m.stage = .handoff ∧ s.comp.keeper.role ≠ 2 ∧
     s.comp.keeper.leader = some 6 ∧ m.tries < 3 ∧ 3 ≤ (out0 .handoff 3).tries ∧
     s.comp.out.find? (fun m => m.tok.pv == 0 && m.tok.plot == 0 && m.stage == .handoff) = some m ∧ s.live = true ∧ m.lastSent + 50 ≤ s.hfn ∧
     999 < m.lastSent + 50 ∧ s.takes 0 0 = true ∧ (∃ m ∈ s.comp.out, m.tok = tok0) ∧ tok0.pv < 12) ∧
    (let m := out0 .ended 0
     let s := withOut m
     let u := withPlot ⟨0, 0, 6, [], .served, none, false, 3, 990, []⟩ s
     s.comp.out.find? (fun m => m.tok.pv == 0 && m.tok.plot == 0 && m.stage == .ended) = some m ∧ m.a2 = some 997 ∧ s.live = true ∧
     997 + 2 < s.hfn ∧ m.pulled = false ∧ s.plotBusy 0 0 = false ∧ s.takes 0 0 = true ∧ u.takes 0 0 = false ∧
     (withQuery { query0 .scanning with plots := [0] }).plotBusy 0 0 = true ∧ live2.comp.out = []) ∧
    (let m := inn0 false
     let s := withIn m
     s.hears 6 = true ∧ tok0.pv < 12 ∧ s.comp.inn.find? (fun m => m.tok == tok0 && m.owner == 6) = some m ∧ m.held = false ∧ (inn0 true).held = true ∧
     [ver0].length < 2 ∧ 0 < [ver0].length ∧ (placeVers 0 0 [ver0] s).isSome = true ∧ (placeVers 0 0 [ver0] { s with corpora := modifyAt s.corpora 0 fun c => { c with vecBase := 0xFFFF_FFFF#32 } }).isNone = true) ∧
    (live2.comp.inn = [] ∧ live2.comp.pulls = [] ∧ live2.takes 0 0 = true ∧ live2.takes 0 1 = false ∧ live2.hears 6 = true) ∧
    (let s := leading
     let u := { s with comp := { s.comp with map := { s.comp.map with members := [⟨5, [], 1, 0, 0, 0, 0⟩, ⟨6, [], 0, 0, 0, 1, 0⟩] } } }
     s.keeps 6 = true ∧ s.comp.keeper.role = 2 ∧ s.comp.map.moving tok0 = true ∧ s.comp.map.moving ⟨4, 0, 0⟩ = false ∧
     (s.comp.map.plot? 0 0).map (fun x => (x.recv, x.tokEpoch, x.owner)) = some (some 6, 3, 5) ∧ (∀ m ∈ s.comp.map.members, m.st ≠ 1) ∧
     u.keeps 6 = true ∧ (∃ m ∈ u.comp.map.members, m.node = 5 ∧ m.st = 1) ∧ live2.comp.keeper.role ≠ 2) ∧
    (let s := { live2 with corpora := modifyAt live2.corpora 0 fun c => { c with stg := some { bundle0 with epoch := 2 } } }
     s.hears 6 = true ∧ (s.corpus 0).stg.map (·.epoch) = some 2 ∧ (live2.corpus 0).stg.map (·.epoch) ≠ some 2) := by
  refine ⟨?_, ?_, ?_, ?_, ?_, ?_, ?_⟩ <;> decide +kernel

/-- `live2` with a map in which a node has a state since a frame. -/
def withMember (n st at_ : Nat) (s : State) : State :=
  { s with comp := { s.comp with map := { s.comp.map with
      members := s.comp.map.members.map fun m => if m.node = n then { m with st := st, susAt := at_ } else m } } }
/-- `peered` with node 6 silent for 50,000 frames. -/
def silent6 : State := { peered with corpora := modifyAt peered.corpora 0 fun c => { c with peers := [⟨6, 998, [], 998, 50000⟩] } }

theorem witness_MapChanges :
    (let s := atBoundary 1000 { live2 with comp := { live2.comp with pend := [(5, .policy 0x060A_0A19#32, 1000)] } }
     s.live = true ∧ s.clk.slot = none ∧ s.comp.pend = [(s.comp.map.epoch + 1, .policy 0x060A_0A19#32, 1000)] ∧ 1000 ≤ s.hfn ∧
     (∀ m ∈ s.comp.map.members, m.st ≠ 2) ∧ s.fab.held = [] ∧ live2.clk.slot ≠ none) ∧
    (let s := silent6
     s.live = true ∧ s.suspended = false ∧ s.comp.props = [] ∧
     (∃ x ∈ s.corpora.flatMap fun c => c.peers.filter (·.node == 6), fld s.comp.mapEff 23 16 * 1000 ≤ x.silent) ∧
     (∀ x ∈ peered.corpora.flatMap fun c => c.peers.filter (·.node == 6), x.silent < fld peered.comp.mapEff 23 16 * 1000)) ∧
    (let s := withMember 5 1 900 live2
     s.live = true ∧ s.suspended = true ∧ s.clk.align = .locked ∧ s.comp.props = [] ∧ live2.suspended = false) ∧
    (let s := { live2 with corpora := modifyAt live2.corpora 0 fun c => { c with rstate := .provisional } }
     s.live = true ∧ (s.corpus 0).rstate = .provisional ∧ s.suspended = false ∧ s.hfn ≤ (s.corpus 0).settledF + 1 ∧
     (∀ x ∈ s.comp.pulls, x.1 ≠ 0) ∧ (∀ x ∈ s.comp.map.plots, ¬ (x.pv = 0 ∧ x.owner = s.node ∧ x.st = .dark)) ∧
     (live2.corpus 0).rstate ≠ .provisional) ∧
    (let s := { withMember 6 1 900 live2 with clk := { live2.clk with hfn := 900 + fld live2.comp.mapEff 31 24 * 50000 + 1 } }
     s.comp.map.members.find? (fun m => m.node == 6 && m.st == 1) = some ⟨6, [], 1, 0, 900, 1, 0⟩ ∧ s.live = true ∧
     900 + fld s.comp.mapEff 31 24 * 50000 < s.hfn ∧ s.hfn - 1 ≤ 900 + fld s.comp.mapEff 31 24 * 50000 ∧
     (∀ m ∈ s.comp.map.members, ¬ (m.node = 7 ∧ m.st = 1))) ∧
    (let s := { live2 with comp := { live2.comp with joined := false } }
     s.live = true ∧ s.comp.joined = false ∧ (∃ m ∈ s.comp.map.members, m.node = s.node) ∧ s.clk.align = .locked ∧ live2.comp.joined = true) := by
  refine ⟨?_, ?_, ?_, ?_, ?_, ?_⟩ <;> decide +kernel

/-- `live2` with a command on a channel that has an argument of 0. -/
def posted (c cmd : Nat) (s : State) : State :=
  modChan c (fun x => { x with full := true, hi := BitVec.ofNat 32 (cmd * 2 ^ 24) }) s
/-- A block of `n` bytes with its length. -/
def block (n : Nat) (xs : List (Nat × Nat × Nat)) : List Byte := put n ((0, 4, n) :: xs)

theorem witness_MapProposals :
    (let s := posted 1 0x20 live2
     s.mapTakes (block 128 [(16, 1, 1), (17, 1, 11)]) 1 128 ∧ zeroAt (block 128 [(16, 1, 1), (17, 1, 11)]) 66 62 = true ∧
     12 ≤ field (block 128 [(16, 1, 1), (17, 1, 12)]) 17 1 ∧ s.mapTakes (block 128 [(16, 1, 1), (17, 1, 12)]) 1 128 ∧
     field (block 128 [(16, 1, 1), (17, 1, 11), (18, 2, 6)]) 18 2 ≠ s.node ∧ s.comp.map.slice? 5 11 = none ∧
     field (block 128 [(62, 4, 0xFFFFF)]) 62 4 < 0x100000) ∧
    (let s := posted 1 0x20 live2
     let b := block 128 [(16, 1, 2), (17, 1, 11)]
     s.mapTakes b 2 128 ∧ zeroAt b 38 90 = true ∧ field b 17 1 < 12) ∧
    (let s := posted 1 0x20 live2
     let b := block 128 [(16, 1, 3), (24, 4, 0xFFFFF), (30, 1, 1)]
     s.mapTakes b 3 128 ∧ zeroAt b 31 97 = true ∧ field b 17 1 < 12 ∧ field b 24 4 < 0x100000 ∧ field b 30 1 ≤ 1 ∧
     1 < field (block 128 [(16, 1, 3), (30, 1, 2)]) 30 1 ∧ 0x100000 ≤ field (block 128 [(16, 1, 3), (24, 4, 0x100000)]) 24 4) ∧
    (let s := posted 1 0x20 live2
     let b := block 384 [(16, 1, 4)]
     s.mapTakes b 4 384 ∧ zeroAt b 24 40 = true) ∧
    (let s := posted 1 0x20 live2
     let b := block 128 [(16, 1, 5)]
     s.mapTakes b 5 128 ∧ zeroAt b 24 104 = true ∧ zeroAt (block 128 [(16, 1, 5), (127, 1, 1)]) 24 104 = false) ∧
    (let s := posted 1 0x20 live2
     let b := block 128 [(16, 1, 6), (24, 1, 2)]
     s.mapTakes b 6 128 ∧ zeroAt b 25 103 = true ∧ field b 24 1 ≤ 2 ∧ 2 < field (block 128 [(16, 1, 6), (24, 1, 3)]) 24 1) ∧
    (let s := posted 1 0x20 live2
     let b := block 128 [(16, 1, 7), (24, 1, 3)]
     s.mapTakes b 7 128 ∧ zeroAt b 25 1 = true ∧ zeroAt b 36 92 = true ∧ field b 24 1 = 3 ∧ field (block 128 [(16, 1, 7), (24, 1, 4)]) 24 1 ≠ 3 ∧
     zeroAt (block 128 [(16, 1, 7), (25, 1, 1)]) 25 1 = false) ∧
    (let s := posted 1 0x20 live2
     s.live = true ∧ s.waits 1 0x20 = true ∧ s.wordBad 1 = false) := by
  refine ⟨?_, ?_, ?_, ?_, ?_, ?_, ?_, ?_⟩
  all_goals try simp only [State.mapTakes]
  all_goals decide +kernel

end Sys2Proof.Tests
end

