-- ==== Sys2Proof/Tests/WitnessModel.lean ====
section
/-! SUPPORT. A model bundle that passes every check of R78, and the witness for the statement about MODEL_LOAD. -/

namespace Sys2Proof.Tests
open Sys2Proof Sys2Proof.Machine
set_option Elab.async false -- one proof at a time: the kernel evaluations below would each hold a thread

/-! ## Parts of a structure -/

theorem slice_left (a b : List Byte) (o n : Nat) (h : o + n ≤ a.length) : slice (a ++ b) o n = slice a o n := by
  unfold slice
  rw [List.drop_append_of_le_length (by omega), List.take_append_of_le_length (by rw [List.length_drop]; omega)]

theorem slice_right (a b : List Byte) (o n : Nat) (h : a.length ≤ o) : slice (a ++ b) o n = slice b (o - a.length) n := by
  unfold slice
  rw [List.drop_append, List.drop_eq_nil_of_le h, List.nil_append]

theorem slice_mid (a h t : List Byte) : slice (a ++ (h ++ t)) a.length h.length = h := by
  rw [slice_right _ _ _ _ (Nat.le_refl _), Nat.sub_self]
  simp [slice]

/-! ## The length of a digest -/

theorem leBytes_length (n v : Nat) : (leBytes n v).length = n := by
  induction n generalizing v with
  | zero => rfl
  | succ n ih => simp [leBytes, ih]

theorem keccakRound_length (a : List Nat) (rc : Nat) : (keccakRound a rc).length = 25 := by
  unfold keccakRound
  simp [lanePlaces, List.range_succ]

theorem absorb_length (a : List Nat) (b : List Byte) : (absorb a b).length = 25 := by
  unfold absorb keccakF
  generalize (a.zipIdx.map _) = x
  simp only [keccakRc, List.cons_append, List.nil_append, List.foldl_cons, List.foldl_nil]
  exact keccakRound_length _ _

theorem absorbs_length (xs : List (List Byte)) (a : List Nat) (h : a.length = 25) : (xs.foldl absorb a).length = 25 := by
  induction xs generalizing a with
  | nil => exact h
  | cons x xs ih => exact ih _ (absorb_length a x)

theorem sha3_512_length (m : List Byte) : (sha3_512 m).length = 64 := by
  unfold sha3_512
  have h := absorbs_length (chunks 72 (m ++ sha3Pad m.length)) _ (List.length_replicate (n := 25) (a := 0))
  generalize (chunks 72 (m ++ sha3Pad m.length)).foldl absorb (List.replicate 25 0) = st at h
  simp [List.length_flatMap, leBytes_length, h]

/-! ## The bundle: 64 dimensions, one plot, per-vector int8, sections of zeros -/

def bhead : List Byte :=
  put 128 ([(0, 4, 0x4E425A47), (4, 4, 1), (8, 2, 64), (10, 2, 64), (12, 2, 128), (14, 1, 0), (15, 1, 64), (24, 4, 1)] ++
    [(32, 8, 256), (40, 8, 8), (48, 8, 320), (56, 8, 8192), (80, 8, 8512), (88, 8, 66)])
/-- What stands after the digest. -/
def btail : List Byte := zeros 8386
/-- What the digest covers. -/
def bcover : List Byte := bhead ++ zeros 8266
def bimg : List Byte := bhead ++ (sha3_512 bcover ++ btail)

theorem bhead_length : bhead.length = 128 := by decide +kernel

theorem bimg_head (o n : Nat) (h : o + n ≤ 128) : slice bimg o n = slice bhead o n :=
  slice_left _ _ _ _ (by rw [bhead_length]; exact h)

theorem bimg_field (o n : Nat) (h : o + n ≤ 128) : field bimg o n = field bhead o n := congrArg leNat (bimg_head o n h)

theorem bimg_tail (o n : Nat) (h : 192 ≤ o) : slice bimg o n = slice btail (o - 192) n := by
  unfold bimg
  rw [slice_right _ _ _ _ (by rw [bhead_length]; omega), slice_right _ _ _ _ (by rw [sha3_512_length, bhead_length]; omega), sha3_512_length,
    bhead_length, Nat.sub_sub]

theorem bimg_digest : slice bimg 128 64 = sha3_512 bcover := by
  have h := slice_mid bhead (sha3_512 bcover) btail
  rwa [sha3_512_length, bhead_length] at h

theorem bimg_read : readBundle bimg =
    ⟨1, 64, 64, 128, 0, 64, 0, 1, [(256, 8), (320, 8192), (0, 0), (8512, 66), (0, 0), (0, 0)], sha3_512 bcover, bimg⟩ := by
  unfold readBundle
  rw [bimg_digest]
  have h : (List.range 6).map (fun i => (field bimg (32 + 16 * i) 8, field bimg (40 + 16 * i) 8)) =
      (List.range 6).map (fun i => (field bhead (32 + 16 * i) 8, field bhead (40 + 16 * i) 8)) := by
    apply List.map_congr_left
    intro i hi
    have := List.mem_range.mp hi
    rw [bimg_field _ _ (by omega), bimg_field _ _ (by omega)]
  rw [h]
  repeat rw [bimg_field _ _ (by omega)]
  have e : field bhead 4 4 = 1 ∧ field bhead 8 2 = 64 ∧ field bhead 10 2 = 64 ∧ field bhead 12 2 = 128 ∧ field bhead 14 1 = 0 ∧
      field bhead 15 1 = 64 ∧ field bhead 16 1 = 0 ∧ field bhead 24 4 = 1 ∧
      (List.range 6).map (fun i => (field bhead (32 + 16 * i) 8, field bhead (40 + 16 * i) 8)) =
        [(256, 8), (320, 8192), (0, 0), (8512, 66), (0, 0), (0, 0)] := by decide +kernel
  simp only [e]

theorem slice_zeros (n o k : Nat) (h : o + k ≤ n) : slice (zeros n) o k = zeros k := by
  unfold slice zeros
  rw [List.drop_replicate, List.take_replicate, Nat.min_eq_left (by omega)]

theorem bimg_zeros (o k : Nat) (h : 192 ≤ o) (h2 : o + k ≤ 8578) : slice bimg o k = zeros k := by
  rw [bimg_tail _ _ h]
  exact slice_zeros _ _ _ (by omega)

theorem zeros_add (a b : Nat) : zeros a ++ zeros b = zeros (a + b) := List.replicate_append_replicate

theorem bhead_whole : slice bhead 0 128 = bhead := List.take_of_length_le (Nat.le_of_eq bhead_length)

theorem bimg_ok : (readBundle bimg).ok sha3_512 2 = true := by
  rw [bimg_read]
  have hz : zeroAt bimg 17 7 = true ∧ zeroAt bimg 28 4 = true ∧ zeroAt bimg 192 64 = true ∧ field bimg 0 4 = 0x4E425A47 := by
    unfold zeroAt field
    rw [bimg_head 17 7 (by omega), bimg_head 28 4 (by omega), bimg_head 0 4 (by omega), bimg_zeros 192 64 (by omega) (by omega)]
    decide +kernel
  have hi : (slice bimg 0 128 ++ (slice bimg 256 8 ++ (slice bimg 320 8192 ++ slice bimg 8512 66))) = bcover := by
    rw [bimg_head 0 128 (by omega), bimg_zeros 256 8 (by omega) (by omega), bimg_zeros 320 8192 (by omega) (by omega),
      bimg_zeros 8512 66 (by omega) (by omega), zeros_add, zeros_add, bhead_whole]
    rfl
  have h3 : (fp16.decode (field (slice bimg 8512 66) 64 2)).isFinite = true := by
    rw [bimg_zeros _ _ (by omega) (by omega)]
    decide +kernel
  have hd : (Bundle.mk 1 64 64 128 0 64 0 1 [(256, 8), (320, 8192), (0, 0), (8512, 66), (0, 0), (0, 0)] (sha3_512 bcover) bimg).digestInput =
      bcover := by
    rw [← hi]
    simp [Bundle.digestInput, Bundle.sec, List.range_succ, slice]
  unfold Bundle.ok
  rw [hd]
  simp only [Bundle.headOk, hz, Bundle.sec, beq_self_eq_true, Bool.true_and, Bool.and_true]
  simp [Bundle.secsOk, List.range_succ, h3, apart, recordBytes]

theorem bimg_length : bimg.length = 8578 := by
  unfold bimg
  rw [List.length_append, List.length_append, bhead_length, sha3_512_length]
  unfold btail zeros
  rw [List.length_replicate]

theorem bimg_padded : padTo 8578 bimg = bimg := by
  unfold padTo
  rw [bimg_length, List.take_of_length_le (Nat.le_of_eq bimg_length), Nat.sub_self]
  exact List.append_nil _

/-- The header as the first read returns it: its first 192 bytes (the 64 reserved bytes after them are zero). -/
def bfirst : List Byte := bhead ++ sha3_512 bcover

theorem bfirst_padded : padTo 256 bfirst = bhead ++ (sha3_512 bcover ++ zeros 64) := by
  have h : bfirst.length = 192 := by rw [bfirst, List.length_append, bhead_length, sha3_512_length]
  unfold padTo
  rw [h, List.take_of_length_le (by omega), bfirst, List.append_assoc]

theorem bfirst_whole : padTo 256 bfirst ++ zeros 8322 = bimg := by
  rw [bfirst_padded, List.append_assoc, List.append_assoc, zeros_add]
  rfl

theorem bfirst_extent : (readBundle (padTo 256 bfirst)).extent = 8578 := by
  rw [bfirst_padded]
  unfold Bundle.extent readBundle
  have h : (List.range 6).map (fun i => (field (bhead ++ (sha3_512 bcover ++ zeros 64)) (32 + 16 * i) 8,
      field (bhead ++ (sha3_512 bcover ++ zeros 64)) (40 + 16 * i) 8)) =
      (List.range 6).map (fun i => (field bhead (32 + 16 * i) 8, field bhead (40 + 16 * i) 8)) := by
    apply List.map_congr_left
    intro i hi
    have := List.mem_range.mp hi
    have e (o : Nat) (ho : o + 8 ≤ 128) : field (bhead ++ (sha3_512 bcover ++ zeros 64)) o 8 = field bhead o 8 :=
      congrArg leNat (slice_left _ _ _ _ (by rw [bhead_length]; exact ho))
    rw [e _ (by omega), e _ (by omega)]
  simp only [h]
  decide +kernel

/-- A MODEL_LOAD descriptor of the bundle, and a state in which it is fetched for pavilion 0 with CORPUS_CFG and bundles as given. -/
def loadDesc : List Byte := desc [(0, 1, opModelLoad), (8, 8, 0x200000), (16, 8, 8578)]
def withCorpus (c : Corpus) : State := { withWork loadDesc .fetched with corpora := modifyAt live2.corpora 0 fun _ => c }
def empty0 : Corpus := { Corpus.reset with corpusCfg := 0x0014_0002#32, rstate := .confirmed }

theorem witness_ModelLoads :
    (let s := withCorpus empty0
     s.admitsWork opModelLoad 4 (work0 loadDesc .fetched) ∧ field loadDesc 24 1 = 0 ∧ 
     (readBundle (padTo 256 [])).extent ≠ field loadDesc 16 8 ∧ (s.corpus 0).vecStride ≠ 0 ∧
     ((withCorpus Corpus.reset).corpus 0).vecStride = 0) ∧
    (readBundle (padTo 256 bfirst)).extent = field loadDesc 16 8 ∧
    (readBundle (padTo (field loadDesc 16 8) (padTo 256 bfirst ++ zeros 8322))).ok sha3_512 (fld ((withCorpus empty0).corpus 0).corpusCfg 6 0) = true ∧
    (let c := { empty0 with loads := [(4, bundle0)] }
     let s := withCorpus c
     s.work 4 = some (work0 loadDesc .fetched) ∧ s.corpora[pvOf 1]? = some c ∧ s.live = true ∧ s.flushing = false ∧ c.cur = none ∧ c.stg = none ∧
     c.ret = none) ∧
    (let c := { empty0 with loads := [(4, bundle0)], ret := some { bundle0 with epoch := 7 } }
     c.ret ≠ none ∧ ∃ x, ({ c with cur := some bundle0 }.cur = some x ∨ c.stg = some x) ∧ x.epoch = bundle0.epoch) ∧
    (let c := { empty0 with loads := [(4, bundle0)], cur := some { bundle0 with epoch := 7 } }
     (withCorpus c).corpora[pvOf 1]? = some c ∧ c.cur = some { bundle0 with epoch := 7 } ∧ 7 ≠ bundle0.epoch ∧
     c.stg = none ∧ c.ret = none ∧ c.cutover = none ∧ c.resketch = none ∧ (withCorpus c).comp.props = [] ∧ (withCorpus c).comp.pend = []) ∧
    (let c := { empty0 with loads := [(4, bundle0)], stg := some { bundle0 with epoch := 7 } }
     let s := { withCorpus c with comp := { live2.comp with props := [⟨1, .cutover 0 7 2000 [], none, none, 990⟩] } }
     s.corpora[pvOf 1]? = some c ∧ c.stg ≠ none ∧ s.cutAsked (pvOf 1) = true) ∧
    ((∀ x ∈ ((withCorpus empty0).corpus 0).loads, x.1 ≠ 4) ∧ State.reset.live = false) := by
  have hd : field loadDesc 16 8 = 8578 := by decide +kernel
  refine ⟨?_, bfirst_extent.trans hd.symm, ?_, ?_, ⟨?_, bundle0, Or.inl rfl, rfl⟩, ?_, ?_, ?_⟩
  rotate_left 1
  · have h : field loadDesc 16 8 = 8578 ∧ fld ((withCorpus empty0).corpus 0).corpusCfg 6 0 = 2 := by decide +kernel
    rw [h.1, h.2, bfirst_whole, bimg_padded]
    exact bimg_ok
  all_goals try simp only [State.admitsWork]
  all_goals decide +kernel

end Sys2Proof.Tests
end

