-- ==== Sys2Proof/Tests/WitnessCorpus.lean ====
section
/-! SUPPORT. Witnesses for the statements about merge passes, epochs, corpus registers and update batches. -/

namespace Sys2Proof.Tests
open Sys2Proof Sys2Proof.Machine
set_option Elab.async false -- one proof at a time: the kernel evaluations below would each hold a thread

/-- `live2` with the corpus of pavilion 0 changed. -/
def onCorpus (g : Corpus → Corpus) (s : State) : State := { s with corpora := modifyAt s.corpora 0 g }
/-- `live2` with a descriptor fetched. -/
def fetched (xs : List (Nat × Nat × Nat)) : State := { live2 with works := [work0 (desc xs) .fetched] }
/-- A merge pass that began at frame 990 and took nothing, and an index copy of frame 989. -/
def pass0 : MergePass := ⟨none, 15, 990, 989, 980, [], [], []⟩
def copy0 : IndexCopy := ⟨[], [], some bundle0, none, none, 0, [], 0x0014_0101#32, 1#32, 2#32, none, false, 989⟩
/-- A staged bundle, a running RESKETCH of it. -/
def stg0 : Bundle := { bundle0 with epoch := 2 }
def resk0 (peers : List Nat) : Resketch := ⟨4, 2, 0, 0, 0, peers, true⟩

theorem witness_MergesAndRecovery :
    (0 < live2.corpora.length) ∧
    (let d := [(0, 1, opMerge), (8, 1, 15)]
     (fetched d).admitsWork opMerge 4 (work0 (desc d) .fetched) ∧ pvOf (work0 (desc d) .fetched).fn = 0) ∧
    (let s := atBoundary 1000 (onCorpus (fun c => { c with mergeQ := [(4, 15)] }) live2)
     s.live = true ∧ s.clk.slot = none ∧ (s.corpus 0).merge = none ∧ (s.corpus 0).resketch = none ∧ (s.corpus 0).rstate = .confirmed ∧
     (s.corpus 0).mergeQ = (4, 15) :: [] ∧ live2.clk.slot ≠ none) ∧
    (let s := atBoundary 1000 (onCorpus (fun c => { c with merge := some pass0 }) live2)
     (s.corpus 0).merge = some pass0 ∧ s.live = true ∧ s.clk.slot = none ∧ pass0.b0 < s.hfn ∧
     s.tilesFit 0 (s.corpus 0) (Corpus.publish 0 s pass0 (s.corpus 0)) = true ∧ (atBoundary 990 s).hfn ≤ pass0.b0) ∧
    (let s := onCorpus (fun c => { c with reuse := [⟨995, [], []⟩] }) live2
     let u := { s with scan := { s.scan with batches := [{ batch0 [] [] with view := some 995 }] } }
     (s.corpus 0).reuse = ⟨995, [], []⟩ :: [] ∧ s.live = true ∧ s.scan.batches = [] ∧ (u.corpus 0).reuse = ⟨995, [], []⟩ :: [] ∧
     u.scan.batches.any (fun b => match b.view with | some v => decide (v ≤ 995) | none => false) = true) ∧
    (let s := onCorpus (fun c => { c with ckptNew := some (copy0, some 4, 0) }) (fetched [(0, 1, opMerge)])
     (s.corpus 0).ckptNew = some (copy0, some 4, 0) ∧ s.live = true ∧ s.flushing = false ∧ s.work 4 = some (work0 (desc [(0, 1, opMerge)]) .fetched)) ∧
    (let s := onCorpus (fun c => { c with rstate := .loading, index := none }) live2
     s.live = true ∧ (s.corpus 0).rstate = .loading ∧ s.flash.replayed = true ∧ (s.corpus 0).index = none ∧ (live2.corpus 0).rstate ≠ .loading) ∧
    (let s := onCorpus (fun c => { c with rstate := .loading, index := some copy0 })
       { live2 with lodge := { live2.lodge with pvKeys := modifyAt live2.lodge.pvKeys 0 fun _ => some ⟨1, true⟩ } }
     (s.corpus 0).rstate = .loading ∧ (s.corpus 0).index = some copy0 ∧ s.keyOk 0 = true) ∧
    (let s := onCorpus (fun c => { c with rstate := .provisional }) live2
     s.live = true ∧ (s.corpus 0).rstate = .provisional ∧ s.hfn ≤ (s.corpus 0).settledF + 1 ∧ s.suspended = false ∧ (∀ x ∈ s.comp.pulls, x.1 ≠ 0) ∧
     ((onCorpus (fun c => { c with committed := 998 }) s).corpus 0).settledF + 1 < s.hfn) := by
  refine ⟨?_, ?_, ?_, ?_, ?_, ?_, ?_, ?_, ?_⟩
  all_goals try simp only [State.admitsWork]
  all_goals decide +kernel

theorem witness_EpochsAndResketches :
    (let d := [(0, 1, opCutover), (8, 4, 2), (16, 8, 1500)]
     let s := onCorpus (fun c => { c with stg := some stg0 }) (fetched d)
     s.admitsWork opCutover 4 (work0 (desc d) .fetched) ∧ (s.corpus 0).stg = some stg0 ∧ stg0.epoch = field (desc d) 8 4 ∧
     stg0.digest = padTo 64 [] ∧ (s.corpus 0).cutover = none ∧ s.comp.props = [] ∧ s.hfn + 500 ≤ field (desc d) 16 8 ∧
     field (desc d) 16 8 ≤ s.hfn + 180000000 ∧ field (desc [(16, 8, 1499)]) 16 8 < s.hfn + 500 ∧
     s.hfn + 180000000 < field (desc [(16, 8, 180001001)]) 16 8 ∧ (live2.corpus 0).stg = none) ∧
    (let s := atBoundary 1000 (onCorpus (fun c => { c with stg := some stg0, cutover := some 1000 }) live2)
     (s.corpora[0]?).map (·.cutover) = some (some 1000) ∧ s.live = true ∧ s.clk.slot = none ∧ 1000 ≤ s.hfn ∧ (atBoundary 999 s).hfn < 1000) ∧
    (let s := { onCorpus (fun c => { c with ret := some stg0, retC := 900 }) live2 with
       clk := { live2.clk with hfn := 900 + 50000 * fld live2.upd.cfgEff 31 24 } }
     (s.corpora[0]?).map (·.ret) = some (some stg0) ∧ s.live = true ∧ 900 + 50000 * fld s.upd.cfgEff 31 24 ≤ s.hfn ∧ (s.corpus 0).merge = none ∧
     (∀ q ∈ s.scan.queries, q.pv ≠ 0 ∨ q.epoch ≠ stg0.epoch) ∧ s.hfn - 1 < 900 + 50000 * fld s.upd.cfgEff 31 24 ∧
     (withQuery { query0 .scanning with epoch := 2 }).epochBusy 0 2 = true ∧ (live2.corpus 0).ret = none) ∧
    (let d := [(0, 1, opResketch), (8, 4, 2)]
     let s := onCorpus (fun c => { c with stg := some stg0, d0 := some 1000 }) (fetched d)
     s.admitsWork opResketch 4 (work0 (desc d) .fetched) ∧ (s.corpus 0).cur = some bundle0 ∧ (s.corpus 0).stg = some stg0 ∧ (s.corpus 0).d0 = some 1000 ∧
     stg0.epoch = field (desc d) 8 4 ∧ (s.corpus 0).resketch = none ∧ 1000 ≤ (s.corpus 0).settledF + 1 ∧ (s.corpus 0).settledF + 1 < 1001 ∧
     (s.corpus 0).merge = none ∧ (s.corpus 0).reskList 1000 = [] ∧ stg0.plots = bundle0.plots ∧ 0 < s.corpora.length ∧
     (∀ x ∈ (s.corpus 0).stores, x.nextTile ≤ lastTile + 1) ∧ stg0.epoch ≠ field (desc [(8, 4, 3)]) 8 4) ∧
    (let s := onCorpus (fun c => { c with stg := some stg0, resketch := some (resk0 []) }) live2
     let u := onCorpus (fun c => { c with stg := some stg0, resketch := some (resk0 []) }) (fetched [(0, 1, opResketch)])
     (s.corpora[0]?).map (·.resketch) = some (some (resk0 [])) ∧ s.live = true ∧ (resk0 []).built = true ∧ (resk0 []).peers = [] ∧
     s.work (resk0 []).work = none ∧ s.flash.asked 0 .keep = false ∧ u.work (resk0 []).work = some (work0 (desc [(0, 1, opResketch)]) .fetched) ∧ (resk0 [6]).peers ≠ [] ∧ (resk0 []).work ≠ 5 ∧
     (live2.corpus 0).resketch = none) := by
  refine ⟨?_, ?_, ?_, ?_, ?_⟩
  all_goals try simp only [State.admitsWork]
  all_goals decide +kernel

theorem witness_CorpusRegisters :
    (live2.fnUp 1 = true ∧ (1 : Fn).val ≠ 0 ∧ (live2.corpora[pvOf 1]?).map (·.empty) = some false ∧
      ((live2.corpora[pvOf 2]?).map fun c => { c with vecBase := 1#32 }.empty) = some true) ∧
    (let s := { live2 with corpora := modifyAt live2.corpora 0 fun _ => { Corpus.reset with payBase := 1#32 } }
     let v := 0x0018_2050#32
     s.fnUp 1 = true ∧ (s.corpus 0).empty = true ∧ fld (v &&& 0x001F_3F7F#32) 6 0 ≤ 80 ∧ fld (v &&& 0x001F_3F7F#32) 13 8 ≤ 32 ∧
     16 ≤ fld (v &&& 0x001F_3F7F#32) 20 16 ∧ fld (v &&& 0x001F_3F7F#32) 20 16 ≤ 24 ∧ (s.corpus 0).vecOff < hostAreaEnd ∧
     (s.corpus 0).payOff < hostAreaEnd ∧ (s.corpus 0).vecOff ≠ (s.corpus 0).payOff) ∧
    (80 < fld (0x0018_2051#32 &&& 0x001F_3F7F#32) 6 0 ∧ 32 < fld (0x0018_2150#32 &&& 0x001F_3F7F#32) 13 8 ∧
      fld (0x000F_2050#32 &&& 0x001F_3F7F#32) 20 16 < 16 ∧ 24 < fld (0x0019_2050#32 &&& 0x001F_3F7F#32) 20 16) ∧
    (fld 0x0001_0001#32 15 0 ≠ 0 ∧ fld 0x0001_0001#32 23 16 ≠ 0 ∧ fld 0x0001_0000#32 15 0 = 0 ∧ fld 0x0000_0001#32 23 16 = 0) ∧
    (State.reset.fnUp 1 = false) ∧
    (let s := atBoundary 1024 { live2 with corpora := live2.corpora.map fun c => { c with clipFrom := 1024 } }
     s.live = true ∧ s.clk.slot = none ∧ s.hfn % 256 = 0 ∧ (∀ p, p < 12 → s.hfn ≤ (s.corpus p).clipFrom)) ∧
    (let s := atBoundary 1024 { live2 with corpora := live2.corpora.map fun c => { c with clipFrom := 768 } }
     s.live = true ∧ s.clk.slot = none ∧ s.hfn % 256 = 0 ∧ s.corpora.length = 12 ∧ (∀ c ∈ s.corpora, c.clipFrom < s.hfn ∧ overGroups c = [])) := by
  refine ⟨?_, ?_, ?_, ?_, ?_, ?_, ?_⟩ <;> decide +kernel

/-- An element record of `bundle0`'s dimensions in int8, and an update descriptor of one record. -/
def erec0 : List Byte := put 128 [(0, 8, 77), (14, 1, 3), (15, 1, 1)]
def updDesc (op : Nat) : List (Nat × Nat × Nat) := [(0, 1, op), (8, 8, 1), (16, 2, 1), (18, 2, 2), (24, 8, 0x300000)]
/-- `live2` with an update fetched, and an earlier one of the same ring and SEQ. -/
def updFetched (op : Nat) : State :=
  { live2 with works := [⟨2, 1, 0, desc (updDesc op), false, 997, .waiting, 0, 0, none⟩, work0 (desc (updDesc op)) .fetched] }
/-- A batch of that update that waits for the earlier one; alone, its SEQ is the ring's highest and has its outcome. -/
def waiting0 : Batch := { ubatch0 .seqWait with await_ := [], owners := [], sent := [] }
def repeated (seqs : List SeqRec) : State :=
  { onCorpus (fun c => { c with seqs := seqs, seqTop := [(0, 1)] }) live2 with
    works := [work0 (desc (updDesc opUpsert)) .waiting], upd := { live2.upd with batches := [waiting0] } }

theorem witness_UpdateAcceptance :
    (let s := updFetched opUpsert
     let w := work0 (desc (updDesc opUpsert)) .fetched
     s.work 4 = some w ∧ s.live = true ∧ s.flushing = false ∧ w.stage = .fetched ∧ w.fn.val ≠ 0 ∧ dOp w.desc = opUpsert ∧
     recsCheck (s.corpus 0) s.hfn (dEStride w.desc) ((List.range (dCount w.desc)).map fun i => padTo (dEStride w.desc * 64) ([erec0].getD i [])) = none ∧
     recsCheck (s.corpus 0) s.hfn (dEStride w.desc) ((List.range (dCount w.desc)).map fun i => padTo (dEStride w.desc * 64) (([] : List (List Byte)).getD i []))
       = some .badLength ∧
     (s.corpus 0).cur = some bundle0 ∧ s.composed 0 = true ∧ seqBusy s w = true) ∧
    (let s := updFetched opDelete
     let w := work0 (desc (updDesc opDelete)) .fetched
     s.work 4 = some w ∧ s.live = true ∧ s.flushing = false ∧ dOp w.desc = opDelete ∧
     eidsBad ((List.range (dCount w.desc)).map fun i => [77].getD i 0 % 2 ^ 64) = false ∧
     eidsBad ((List.range (dCount w.desc)).map fun i => [emptyEid].getD i 0 % 2 ^ 64) = true ∧ (s.corpus 0).vecStride ≠ 0 ∧ s.composed 0 = true ∧
     seqBusy s w = true ∧ { s with comp := { s.comp with map := { map0 with slices := [] } } }.composed 0 = false) ∧
    (let s := { updFetched opUpsert with upd := { live2.upd with batches := [ubatch0 .prep] } }
     s.batch? 33 = some (ubatch0 .prep) ∧ (ubatch0 .prep).work = 4 ∧ (ubatch0 .prep).stage ≠ .seqWait) ∧
    (let r : SeqRec := ⟨0, 1, Status.ok.code, 1, 0, 900, []⟩
     let s := repeated [r]
     let w := work0 (desc (updDesc opUpsert)) .waiting
     s.batch? 33 = some waiting0 ∧ s.work waiting0.work = some w ∧ s.live = true ∧ waiting0.stage = .seqWait ∧ w.stage = .waiting ∧
     seqBusy s w = false ∧ waiting0.seq ≤ ((s.corpus waiting0.pv).seqTop.lookup waiting0.ring).getD 0 ∧
     (s.corpus waiting0.pv).seqs.find? (fun r => r.ring == waiting0.ring && r.seq == waiting0.seq) = some r ∧ r.st = Status.ok.code ∧
     (∀ e ∈ waiting0.elems, ¬ e.eid ∈ r.missing) ∧
     ((repeated []).corpus 0).seqs.find? (fun r => r.ring == waiting0.ring && r.seq == waiting0.seq) = none) := by
  refine ⟨?_, ?_, ?_, ?_⟩ <;> decide +kernel

/-- `live2` with node 5 the only server of pavilion 0, and an update fetched whose SEQ is new. -/
def alone (op : Nat) : State :=
  { live2 with
    works := [work0 (desc (updDesc op)) .fetched]
    comp := { live2.comp with map := { map0 with slices := [⟨5, 0, 0xFF, 0xF, 0xF, 1⟩] } } }
def aloneElems : List Elem :=
  ((List.range 1).map fun i => padTo 128 ([erec0].getD i [])).filterMap (codeRec bundle0 none)

theorem witness_UpdateAcceptance_new :
    (let s := alone opUpsert
     let w := work0 (desc (updDesc opUpsert)) .fetched
     let b := s.freshBatch w false aloneElems
     s.work 4 = some w ∧ dEStride w.desc = 2 ∧ dCount w.desc = 1 ∧ (s.corpus 0).cur = some bundle0 ∧ (s.corpus 0).stgAt s.hfn = none ∧
     s.preparesNow w b ∧ plotGone s.comp.map b.pv b.elems = false ∧
     (reserveElems b.pv false b.elems (tallyElems b.pv (b.elems.map (·.raw)) ((s.readsHost w.fn 0x300000 128).holds b))).isSome = true) ∧
    (let s := alone opDelete
     let w := work0 (desc (updDesc opDelete)) .fetched
     let b := s.freshBatch w true [⟨77, 0, [], [], [], [], false, false⟩]
     s.work 4 = some w ∧ s.preparesNow w b ∧ (reserveElems b.pv true b.elems ((s.readsHost w.fn 0x300000 8).holds b)).isSome = true) := by
  refine ⟨?_, ?_⟩
  all_goals simp only [State.preparesNow]
  all_goals decide +kernel

/-- A delete batch that waits for an earlier one, its SEQ new. -/
def waitingDelete : Batch := { waiting0 with del := true, elems := [⟨77, 0, [], [], [], [], false, false⟩] }

theorem witness_RepeatedSequences_new :
    (let s := { alone opDelete with works := [work0 (desc (updDesc opDelete)) .waiting], upd := { live2.upd with batches := [waitingDelete] } }
     let w := work0 (desc (updDesc opDelete)) .waiting
     let b := waitingDelete
     s.batch? 33 = some b ∧ s.work b.work = some w ∧ s.live = true ∧ b.stage = .seqWait ∧ seqBusy s w = false ∧
     ((s.corpus b.pv).seqTop.lookup b.ring).getD 0 < b.seq ∧ b.del = true ∧ plotGone s.comp.map b.pv b.elems = false ∧
     (reserveElems b.pv b.del b.elems s).isSome = true ∧ s.ingestPeers b.pv = []) := by decide +kernel

/-- A batch ready for admission, with its pre-notice sent and acknowledged. -/
def readyBatch : Batch := { ubatch0 .prep with await_ := [], owners := [], sent := [(6, false)] }
/-- A lean-to entry of batch 33 in frame 1,000, not committed. -/
def late0 : LeanEnt := ⟨0, rec0, 0, 1000, false, 5, 0, 1, 33, false⟩

theorem witness_UpdateAdmission :
    (let s := withBatch readyBatch
     let b := readyBatch
     s.batch? 33 = some b ∧ s.admits = true ∧ s.clk.slot = some 3 ∧ 3 < s.clk.updCutoff ∧ b.stage = .prep ∧ b.await_ = [] ∧
     (s.corpus b.pv).rstate = .confirmed ∧ s.pvInReset b.pv = false ∧ s.suspended = false ∧ s.flash.regionOk = true ∧
     (∀ x ∈ s.upd.batches, x.stage = .admitted → x.ver ≠ s.hfn) ∧ plotGone s.comp.map b.pv b.elems = false ∧ (∀ x ∈ s.notices b, x ∈ b.sent) ∧
     b.covers (s.corpus b.pv) s.hfn = true ∧ (∀ e ∈ b.elems, poolRoom s b.pv e.vers (e.payload != []) = .ok)) ∧
    (let s := { withBatch readyBatch with clk := { live2.clk with slot := some live2.clk.updCutoff } }
     s.batch? 33 = some readyBatch ∧ s.clk.slot = some live2.clk.updCutoff ∧ s.clk.updCutoff ≤ live2.clk.updCutoff) ∧
    (let b := { ubatch0 .prep with accepted := 499 }
     (withBatch b).batch? 33 = some b ∧ live2.live = true ∧ b.await_ ≠ [] ∧ b.accepted + fld live2.upd.cfgEff 9 0 < live2.hfn ∧
     live2.hfn ≤ { ubatch0 .prep with accepted := 500 }.accepted + fld live2.upd.cfgEff 9 0) ∧
    (let b := { ubatch0 .admitted with ver := 0 }
     (withBatch b).batch? 33 = some b ∧ b.stage = .admitted ∧ b.owners ≠ [] ∧ b.ver + 1000 ≤ live2.hfn ∧ live2.hfn < (ubatch0 .admitted).ver + 1000) ∧
    (let x : Staged := ⟨33, 6, 0, false, [], 999, 0⟩
     let s := { live2 with upd := { live2.upd with staged := [x] }, clk := { live2.clk with hfn := 2000 } }
     s.live = true ∧ s.upd.staged = [x] ∧ x.id = 33 ∧ x.arrived + 2 * fld s.upd.cfgEff 9 0 < s.hfn ∧ s.hfn ≤ { x with arrived := 1000 }.arrived + 2 * fld s.upd.cfgEff 9 0) ∧
    (let s := onCorpus (fun c => { c with stores := [{ Store.new bundle0 1048576 with parts := [⟨1048576, 0, [late0], 0, 0⟩] }] })
       { live2 with clk := { live2.clk with slot := some 15 } }
     s.live = true ∧ s.clk.slot = some 15 ∧ (∃ x ∈ (s.corpus 0).stores, ∃ l ∈ x.parts, ∃ e ∈ l.ents,
       e.batch = 33 ∧ e.ent.eid = 77 ∧ e.appended = s.hfn ∧ e.committed = false ∧ e.gone = false) ∧ live2.clk.slot ≠ some 15) ∧
    (let lo := 0x0101_0010#32
     let hi := 0x3CFF_03E8#32
     live2.bar0Up0 = true ∧ 16 ≤ fld lo 9 0 ∧ fld hi 9 0 ≤ 1000 ∧ 1 ≤ fld lo 23 16 ∧ 1 ≤ fld lo 31 24 ∧ fld hi 31 24 ≤ 60 ∧ fld 0x0101_000F#32 9 0 < 16 ∧
     1000 < fld 0x0101_03E9#32 9 0 ∧ fld 0x0100_0010#32 23 16 = 0 ∧ fld 0x0001_0010#32 31 24 = 0 ∧ 60 < fld 0x3D01_0010#32 31 24 ∧
     1 ≤ fld 0x0001_0001#32 7 0 ∧ 1 ≤ fld 0x0001_0001#32 31 16 ∧ fld 0x0001_0000#32 7 0 = 0 ∧ fld 0x0000_0001#32 31 16 = 0) := by
  refine ⟨?_, ?_, ?_, ?_, ?_, ?_, ?_⟩ <;> decide +kernel

end Sys2Proof.Tests
end

