-- ==== Sys2Proof/Tests/WitnessMemory.lean ====
section
/-! SUPPORT. Witnesses for the statements about memory tiers, host memory and the flash store. -/

namespace Sys2Proof.Tests
open Sys2Proof Sys2Proof.Machine
set_option Elab.async false -- one proof at a time: the kernel evaluations below would each hold a thread

/-- A tier descriptor of one page at page 16, and `live2` with it fetched, page 16 in a state, pinned or not. -/
def tierDesc (op arg : Nat) : List (Nat × Nat × Nat) := [(0, 1, op), (8, 8, 16 * 65536), (16, 4, 1), (20, 1, arg)]
def tierState (op arg : Nat) (st : PState) (pinned : Bool) : State :=
  modRange 0 (fun r => { r with pages := [{ Page.fresh 16 with st := st, pinned := pinned }] }) (fetched (tierDesc op arg))

theorem witness_TierOpcodes :
    (let s := tierState opMigrate 3 .t1Only true
     let w := work0 (desc (tierDesc opMigrate 3)) .fetched
     s.work 4 = some w ∧ w.due = none ∧ s.admitsWork opMigrate 4 w ∧
     (∃ g ∈ (s.range 0).pages, inTier w.desc g.no = true ∧ g.held = true) ∧ tArg w.desc ≠ 1) ∧
    ((tierState opMigrate 2 .t1Only false).admitsWork opMigrate 4 (work0 (desc (tierDesc opMigrate 2)) .fetched) ∧
     tArg (desc (tierDesc opMigrate 2)) = 2 ∧ ((tierState opMigrate 2 .t1Only false).range 0).t2Pages = 0) ∧
    (let s := tierState opMigrate 1 .t1Only false
     let w := work0 (desc (tierDesc opMigrate 1)) .fetched
     s.admitsWork opMigrate 4 w ∧ tArg w.desc = 1 ∧
     (∀ g ∈ (s.range 0).pages, inTier w.desc g.no = true → g.st = .unwritten ∨ g.st.tier = 1)) ∧
    (let s := tierState opMigrate 1 .t2 false
     let w := work0 (desc (tierDesc opMigrate 1)) .fetched
     s.admitsWork opMigrate 4 w ∧ 0 < tPages w.desc ∧ 0 < (s.range 0).free ∧ ((s.range 0).page 16).copy = none ∧ ((s.range 0).page 16).st = .t2 ∧
     (∀ g ∈ (s.range 0).pages, ∀ c, g.copy = some c → c.work ≠ some 4) ∧ nextPage (startWork w s) { w with stage := .running, aux := tFirst w.desc } = some 16) ∧
    (let s := tierState opPin 0 .t1Only false
     let w := work0 (desc (tierDesc opPin 0)) .fetched
     let r := s.range 0
     let new := tPages w.desc - (r.pages.filter fun g => inTier w.desc g.no && g.held).length
     s.admitsWork opPin 4 w ∧ tArg w.desc = 0 ∧ r.share ≤ 16 * (r.share - (r.pages.filter (·.held)).length - new) ∧
     tPages w.desc = 1 ∧ (r.page (tFirst w.desc)).st.inT1 = true) ∧
    (let s := modRange 0 (fun r => { r with share := 1 }) (tierState opPin 0 .t1Only false)
     let w := work0 (desc (tierDesc opPin 0)) .fetched
     let r := s.range 0
     let new := tPages w.desc - (r.pages.filter fun g => inTier w.desc g.no && g.held).length
     s.admitsWork opPin 4 w ∧ 16 * (r.share - (r.pages.filter (·.held)).length - new) < r.share) ∧
    ((tierState opPin 1 .t1Only true).admitsWork opPin 4 (work0 (desc (tierDesc opPin 1)) .fetched) ∧ tArg (desc (tierDesc opPin 1)) = 1) ∧
    (let s := tierState opFlush 0 .t3 false
     let w := work0 (desc (tierDesc opFlush 0)) .fetched
     s.admitsWork opFlush 4 w ∧ (∀ g ∈ (s.range 0).pages, inTier w.desc g.no = true → g.st = .t3 ∨ g.st = .unwritten) ∧
     (∀ u ∈ s.flash.pool, u.work ≠ some 4)) ∧
    (let s := tierState opMigrate 1 .t2 false
     { s with clk := { s.clk with align := .unaligned } }.admits = false ∧
     { s with comp := { s.comp with map := { map0 with slices := [] } } }.composed 0 = false ∧ s.admits = true) := by
  refine ⟨?_, ?_, ?_, ?_, ?_, ?_, ?_, ?_, ?_⟩
  all_goals try simp only [State.admitsWork]
  all_goals decide +kernel

/-- `live2` with page 16 as given, and a policy that promotes after two misses and demotes. -/
def page16As (g : Page) : State :=
  let s := modRange 0 (fun r => { r with pages := [g] }) live2
  { s with tier := { s.tier with cfgEff := 0x0101_0203#32 } }
def copied (tier tries redirty : Nat) (policy held : Bool) : State :=
  page16As { Page.fresh 16 with st := .t1OverT2, copy := some ⟨tier, policy, tries, redirty, if policy then none else some 4, 0, false⟩, pinned := held }
/-- A unit of page 16 that waits in the pool. -/
def poolUnit0 : PoolUnit := ⟨60, ⟨0, 0, 64⟩, 0, .migration, [], none, none, some 16, none⟩
/-- `live2` between frames with a step of GH of slice 0 of stack 15 as given. -/
def ghState (gh : Nat) (q : List (Nat × Bool × Nat)) : State :=
  atBoundary 1000 { live2 with scan := { live2.scan with
    st := modifyAt live2.scan.st 15 fun k => { k with gh := [gh, 1, 1, 1], quiesced := q } } }

theorem witness_PlacementPolicy :
    (let s := page16As { Page.fresh 16 with st := .t2, misses := 2 }
     s.live = true ∧ s.fab.held = [] ∧ bit s.tier.cfgEff 0 = true ∧ fld s.tier.cfgEff 15 8 ≤ ((s.range 0).page 16).misses ∧
     ((s.range 0).page 16).st = .t2 ∧ ((s.range 0).page 16).copy = none ∧ 0 < (s.range 0).free ∧
     (((page16As { Page.fresh 16 with st := .t3, misses := 1 }).range 0).page 16).misses < fld s.tier.cfgEff 15 8) ∧
    (let g : Page := { Page.fresh 16 with st := .t1OverT2 }
     let s := modRange 0 (fun r => { r with share := 1 }) (page16As g)
     let u := modRange 0 (fun r => { r with share := 1 }) (page16As { g with dirty := 1 })
     (s.range 0).free * 64 < (s.range 0).share ∧ (s.range 0).victims = g :: [] ∧ g.no = 16 ∧ ((s.range 0).page 16).lastAcc = g.lastAcc ∧
     bit s.tier.cfgEff 1 = true ∧ ((s.range 0).page 16).st = .t1OverT2 ∧ ((s.range 0).page 16).dirty = 0 ∧ ((u.range 0).page 16).dirty ≠ 0 ∧
     (u.range 0).victims = { g with dirty := 1 } :: [] ∧ ((u.range 0).page 16).copy = none ∧ (live2.range 0).share ≤ (live2.range 0).free * 64) ∧
    (let s := copied 2 2 1 true false
     (∃ c, ((s.range 0).page 16).copy = some c ∧ 2 ≤ c.tier ∧ c.skipped = 0 ∧ c.redirty ≠ 0 ∧ c.tries < 3 ∧ c.tier = 2) ∧
     (∀ u ∈ s.flash.pool, u.lua.pv ≠ 0 ∨ u.page ≠ some 16) ∧ s.flash.asked 0 (.page 16) = false ∧
     ((s.range 0).page 16).held = false ∧ ((s.range 0).page 16).st ≠ .t3 ∧
     (∃ u ∈ { s.flash with pool := [poolUnit0] }.pool, u.lua.pv = 0 ∧ u.page = some 16)) ∧
    (let s := copied 3 0 0 true true
     (∃ c, ((s.range 0).page 16).copy = some c ∧ c.work = none) ∧ ((s.range 0).page 16).held = true ∧ ((s.range 0).page 16).st.inT1 = true) ∧
    (∃ c, (((copied 3 0 0 true false).range 0).page 16).copy = some c ∧ c.redirty = 0 ∧ c.work = none) ∧
    (∃ c, (((copied 3 3 1 true false).range 0).page 16).copy = some c ∧ c.redirty ≠ 0 ∧ 3 ≤ c.tries ∧ c.policy = true ∧ c.work = none) ∧
    (∃ c, (((copied 3 3 1 false false).range 0).page 16).copy = some c ∧ 3 ≤ c.tries ∧ c.policy = false ∧ c.work = some 4) ∧
    (let x : ScrubIn := ⟨15, [(71, 1#8)], none, (0, 0, 0)⟩
     x.stack < 16 ∧ x.inRange = none ∧ x.syms ≠ [] ∧ (rsDecode x.syms).isSome = true ∧ rsDecode [(0, 1#8), (1, 1#8)] = none) ∧
    (let s := ghState 84 []
     s.clk.slot = none ∧ (s.scan.st.getD 15 Stack.reset).quiesced = [] ∧ (s.scan.st.getD 15 Stack.reset).gh.getD 0 0 < 85 ∧
     ((ghState 85 []).scan.st.getD 15 Stack.reset).gh.getD 0 0 = 85 ∧ ((ghState 0 []).scan.st.getD 15 Stack.reset).gh.getD 0 0 = 0 ∧
     ((ghState 84 [(0, true, 999)]).scan.st.getD 15 Stack.reset).quiesced = [(0, true, 999)] ∧ 999 < s.hfn ∧
     (∀ q, q < 12 → (s.range q).inT1 ≤ ({ s with scan := { s.scan with
        st := modifyAt s.scan.st 15 fun k => { k with quiesced := k.quiesced ++ [(0, true, s.hfn)] } } } : State).shareOf q)) := by
  refine ⟨?_, ?_, ⟨⟨_, rfl, ?_, ?_, ?_, ?_, ?_⟩, ?_, ?_, ?_, ?_, ?_⟩, ⟨⟨_, rfl, ?_⟩, ?_, ?_⟩, ⟨_, rfl, ?_, ?_⟩, ⟨_, rfl, ?_, ?_, ?_, ?_⟩,
    ⟨_, rfl, ?_, ?_, ?_⟩, ?_, ?_⟩ <;> decide +kernel

/-- `live2` with a BAR2 request of VF0 that has waited since a frame. -/
def bar2Waits (write : Bool) (at_ : Nat) : State :=
  modFn 1 (fun y => { y with bar2Reqs := [⟨write, 16 * 65536, 4, zeros 4, at_⟩] }) live2

theorem witness_HostMemory :
    (let s := page16 .t1Only []
     (1 : Fn).val ≠ 0 ∧ s.live = true ∧ s.fnUp 1 = true ∧ 16 * 65536 + [7#8].length ≤ 2 ^ 36 ∧ [7#8] ≠ [] ∧ (s.fn 1).bar2Reqs = [] ∧
     pvOf 1 < s.ranges.length ∧ (∀ no ∈ blocksIn pageSize (bar2Addr s 1 (16 * 65536)) 1,
       ((s.range 0).page no).st.inT1 = true ∧ ((s.range 0).page no).errs = []) ∧ ((s.range 0).page 16).copy = none) ∧
    (2 ^ 36 - 1 + [7#8].length ≤ 2 ^ 36 ∧ (page16 .t2 []).fnUp 1 = true ∧
      (∃ no ∈ blocksIn pageSize (bar2Addr (page16 .t2 []) 1 (16 * 65536)) 4, (((page16 .t2 []).range 0).page no).st = .t2)) ∧
    (let w := fld live2.tier.cfgEff 23 16
     let s := { bar2Waits true 900 with clk := { live2.clk with hfn := 900 + (w + 1) / 2 } }
     (s.fn 1).bar2Reqs = ⟨true, 16 * 65536, 4, zeros 4, 900⟩ :: [] ∧ fld s.tier.cfgEff 23 16 ≤ 2 * (s.hfn - 900) ∧
     ((bar2Waits false 900).fn 1).bar2Reqs = ⟨false, 16 * 65536, 4, zeros 4, 900⟩ :: [] ∧ 2 * (s.hfn - 1 - 900) < fld s.tier.cfgEff 23 16) ∧
    (live2.bar0Up0 = true ∧ 1 ≤ fld 0xA801_0100#32 15 8 ∧ 1 ≤ fld 0xA801_0100#32 23 16 ∧ fld 0xA801_0100#32 31 24 ≤ 168 ∧
      168 < fld 0xA901_0100#32 31 24 ∧ fld 0x0101_0000#32 15 8 = 0 ∧ fld 0x0100_0100#32 23 16 = 0 ∧ fld 0x0001_0100#32 31 24 = 0) ∧
    ((live2.range 0).t2InUse = false ∧ ((page16 .t2 []).range 0).t2InUse = true ∧
      sumNat (live2.ranges.zipIdx.map fun (x, i) => if i = 0 then 0 else x.t2Pages) + fld 0x0400_0000#32 26 0 ≤ 0x4000000) ∧
    (fld 239#32 7 0 ≤ 239 ∧ 239 < fld 240#32 7 0) := by
  refine ⟨?_, ?_, ?_, ?_, ?_, ?_⟩ <;> decide +kernel

/-- A block, a page of a stripe, a stripe of one page, and a write group on it. -/
def fblk (id : Nat) (st : BlockSt) (valid : List Lua) (erasable : Option Nat) (erasing : Bool) : FBlock :=
  ⟨id, 2, false, st, 1, valid, 0, 0, 0, 0, 0, erasable, erasing, false, 0⟩
def stripe0 (done : Bool) : Stripe := ⟨[⟨some 60, 7, 700, done⟩], 8, done, done, 0⟩
def group0 (kind : Nat) (done : Bool) : WGroup := ⟨3, kind, 0, false, [stripe0 done]⟩
/-- An operation of die 2 for a purpose, in a state. -/
def fop (what : FFor) (st : FOpSt) : FOp := ⟨50, 2, 4, none, what, ⟨0, 0, 64⟩, 700, 0, 2, st, 0⟩
/-- `live2` with flash of a die, blocks and groups. -/
def flashed (bs : List FBlock) (gs : List WGroup) : State :=
  { live2 with flash := { live2.flash with
      dies := [⟨1, 0, 0, 0, false, 40⟩, ⟨2, 0, 0, 0, false, 40⟩], blocksPerDie := 4, blocks := bs, groups := gs, pool := [poolUnit0]
      root := some ⟨1, 900, 0, [], []⟩ } }
def running (what : FFor) (s : State) : State := { s with flash := { s.flash with ops := [fop what .running] } }

theorem witness_FlashProgramsAndReclaims_programs :
    (let s := { live2 with flash := { live2.flash with replayed := false } }
     s.live = true ∧ s.flash.replayed = false ∧ live2.flash.replayed = true) ∧
    (let s := running (.prog 3 0 0) (flashed [] [group0 0 false])
     s.flashUp = true ∧ s.flash.groups.find? (·.gseq == 3) = some (group0 0 false) ∧ (group0 0 false).stripes[0]? = some (stripe0 false) ∧
     (stripe0 false).program 0 ≠ stripe0 false ∧ s.flash.runs (.prog 3 0 0) = true ∧ (0 : Nat) ≠ 15 ∧
     ((stripe0 false).program 0).xorIssued = true ∧ (stripe0 false).xorIssued = false ∧ s.flash.runs (.prog 3 0 1) = false ∧
     (group0 0 false).full = false) ∧
    (let s := flashed [] [group0 0 true]
     s.flash.groups.find? (·.gseq == 3) = some (group0 0 true) ∧ (group0 0 true).full = true ∧
     s.flash.pool.find? (·.id == 60) = some poolUnit0 ∧ (∀ w ∈ s.works, w.stage ≠ .running)) ∧
    (let s := flashed [] [group0 1 false]
     s.flashUp = true ∧ ((group0 1 false).gkind == 1) = true ∧ (∃ x ∈ (group0 1 false).stripes, x.xorBlock = 7 ∨ ∃ p ∈ x.pages, p.block = 7) ∧
     0 < s.flash.free ∧ 9 ≠ 7 ∧ s.flash.blockDie 9 = 2 ∧ s.flash.canOpen (group0 1 false).sd 9 = true ∧
     (s.flash.dies.find? (·.id == 2)).map (·.channel) = (s.flash.dies.find? (·.id == s.flash.blockDie 7)).map (·.channel)) := by
  refine ⟨?_, ?_, ?_, ?_⟩ <;> decide +kernel

theorem witness_FlashProgramsAndReclaims_reclaims :
    (let b := fblk 7 .closed [⟨0, 0, 64⟩] none false
     let s := flashed [b] []
     let u := { s with flash := { s.flash with map := [(⟨0, 0, 64⟩, .at_ 700)] } }
     u.flashUp = true ∧ u.flash.blocks.find? (·.id == 7) = some b ∧ b.st = .closed ∧ b.erasing = false ∧ u.flash.entry ⟨0, 0, 64⟩ = some (.at_ 700) ∧ b.valid = [⟨0, 0, 64⟩] ∧
     (∀ x ∈ { u.flash with pool := [] }.pool, x.lua ≠ ⟨0, 0, 64⟩) ∧
     u.flash.poolFits (sdOf u (some (2 * ((u.flash.dies.find? (·.id == b.die)).map (·.sd)).getD 0)) 64) (some .gc) 16 = true) ∧
    (let b := fblk 7 .closed [] (some 899) false
     let s := flashed [b] []
     s.flash.blocks.find? (·.id == 7) = some b ∧ b.erasable = some 899 ∧ s.flash.root = some ⟨1, 900, 0, [], []⟩ ∧ s.flashUp = true ∧ b.st = .closed ∧
     b.valid = [] ∧ 899 < 900 ∧ { b with valid := [⟨0, 0, 64⟩] }.valid ≠ []) ∧
    (let b := fblk 7 .closed [] none true
     let s := running (.erase 7) (flashed [b] [])
     s.flash.blocks.find? (·.id == 7) = some b ∧ s.flashUp = true ∧ b.erasing = true ∧ s.flash.runs (.erase 7) = true ∧
     (flashed [b] []).flash.runs (.erase 7) = false) ∧
    ((flashed [] []).flashUp = true ∧ (flashed [] []).flash.dies.find? (·.id == 2) = some ⟨2, 0, 0, 0, false, 40⟩) ∧
    (let s := atBoundary 4996 (flashed [] [])
     s.flashUp = true ∧ s.clk.slot = none ∧ s.flash.ckpt = none ∧ s.flash.root = some ⟨1, 900, 0, [], []⟩ ∧ 900 + 4096 ≤ s.hfn ∧
     (atBoundary 4995 s).hfn < 900 + 4096 ∧ s.flash.sinceCkpt < 65536 ∧
     { s.flash with ckpt := some ⟨2, 950, 0, [], []⟩ }.ckpt.isSome = true ∧ (∀ g ∈ s.flash.groups, g.gkind ≠ 2) ∧
     (∃ g ∈ (flashed [] [group0 2 false]).flash.groups, g.gkind = 2)) := by
  refine ⟨?_, ?_, ?_, ?_, ?_⟩ <;> decide +kernel

/-- A block opened in frame 0, at a frame. -/
def aged (h : Nat) : State := { flashed [fblk 7 .opened [] none false] [] with clk := { live2.clk with hfn := h } }

theorem witness_FlashReadsAndRegisters :
    ((aged 180000000).flashUp = true ∧ (aged 180000000).flash.blocks = [fblk 7 .opened [] none false] ∧
     (fblk 7 .opened [] none false).opened + 180000000 ≤ (aged 180000000).hfn ∧
     (aged 179999999).hfn < (fblk 7 .opened [] none false).opened + 180000000) ∧
    (let s := { live2 with flash := { live2.flash with pollFrames := 50000, winFrames := 50000 } }
     s.flashUp = true ∧ 50000 ≤ s.flash.pollFrames ∧ 50000 ≤ s.flash.winFrames ∧ live2.flash.pollFrames < 50000 ∧ live2.flash.winFrames < 50000) ∧
    (let s := running .gc (flashed [] [])
     let u := { s with flash := { s.flash with map := [(⟨0, 0, 64⟩, .at_ 700)] } }
     u.flashUp = true ∧ u.flash.ops.find? (·.id == 50) = some (fop .gc .running) ∧ (fop .gc .running).what = .gc ∧
     u.flash.stepsOk (fop .gc .running) [5, 1] = true ∧ u.flash.stepsOk (fop .gc .running) [1, 2] = true ∧
     u.flash.entry (fop .gc .running).lua = some (.at_ (fop .gc .running).pun) ∧ (∀ o ∈ live2.flash.ops, o.id ≠ 50)) ∧
    (live2.bar0Up0 = true ∧ live2.flash.opLock = true ∧ { live2.flash with opLock := false }.opLock = false ∧ 7 ≤ fld live2.flash.cfg 15 8 ∧
      fld live2.flash.cfg 15 8 ≤ 50 ∧ 1 ≤ fld 0x0001_0701#32 4 0 ∧ 7 ≤ fld 0x0001_0701#32 15 8 ∧ fld 0x0001_3201#32 15 8 ≤ 50 ∧
      1 ≤ fld 0x0001_0701#32 23 16 ∧ fld 0x0001_0700#32 4 0 = 0 ∧ fld 0x0000_0701#32 23 16 = 0 ∧ fld 0x0100_0101#32 7 0 ≠ 0 ∧
      fld 0x0100_0101#32 23 8 ≠ 0 ∧ fld 0x0100_0101#32 31 24 ≠ 0 ∧ fld 0x0100_0100#32 7 0 = 0 ∧ fld 0x0100_0001#32 23 8 = 0 ∧
      fld 0x0000_0101#32 31 24 = 0) := by
  refine ⟨?_, ?_, ?_, ?_⟩ <;> decide +kernel

end Sys2Proof.Tests
end

