-- ==== Sys2Proof/Tests/WitnessFabric.lean ====
section
/-! SUPPORT. Witnesses for the statements about windows, queue pairs, ports, packets and flows. -/

namespace Sys2Proof.Tests
open Sys2Proof Sys2Proof.Machine
set_option Elab.async false -- one proof at a time: the kernel evaluations below would each hold a thread

/-- A port that is up, PFC and PTP on; `live2` with its first two ports so. -/
def port0 : Port := { Port.reset with eff := 0x2328_0027#32, lanes := List.replicate 4 true, laser := [true, true], st := 1 }
def linked (p : Port) : State := { live2 with fab := { live2.fab with ports := p :: port0 :: List.replicate 18 Port.reset } }

/-- A window of page 16 with key 77, a queue pair that may use it, and `linked` with both, page 16 in T1. -/
def win0 : Window := ⟨0, 0, 16 * 65536, 1, false, 77⟩
def qp0 (since : Nat) : Qp := ⟨0, 9, [], 3, 0, 5, 1024, 0, 1, false, 1, 1, since, false, 0⟩
def rdma (since : Nat) : State :=
  let s := modRange 0 (fun r => { r with pages := [{ Page.fresh 16 with st := .t1Only, winPins := 1 }] }) (linked port0)
  { s with fab := { s.fab with windows := [win0], qps := [qp0 since] } }
/-- A command of a pavilion's Grounds with an argument. -/
def postedArg (c cmd arg : Nat) (s : State) : State :=
  modChan c (fun x => { x with full := true, hi := BitVec.ofNat 32 (cmd * 2 ^ 24), lo := BitVec.ofNat 32 arg }) s

theorem witness_WindowsAndRdma :
    (let s := posted 2 0x40 live2
     let b := block 64 [(16, 1, 63), (24, 8, 16 * 65536), (32, 4, 1)]
     s.groundsTakes 0 0x40 ∧ blockLen 64 (some b) ≠ none ∧ zeroAt b 18 6 = true ∧ zeroAt b 36 28 = true ∧ field b 16 1 < 64 ∧ field b 17 1 ≤ 1 ∧
     field b 32 4 ≠ 0 ∧ field b 24 8 % pageSize = 0 ∧ field b 24 8 + field b 32 4 * pageSize ≤ hostAreaEnd ∧ s.window? 0 (field b 16 1) = none ∧
     pinRoom (s.range 0) (field b 24 8 / pageSize) (field b 32 4) = true ∧
     (allIntoT1 0 ((List.range (field b 32 4)).map (field b 24 8 / pageSize + ·)) s).1 = .ready ∧
     pinRoom ((modRange 0 (fun r => { r with share := 1 }) s).range 0) (field b 24 8 / pageSize) (field b 32 4) = false ∧
     (allIntoT1 0 [16] (posted 2 0x40 (page16 .t2 []))).1 = .wait ∧
     zeroAt (block 64 [(63, 1, 1)]) 36 28 = false ∧ field (block 64 []) 32 4 = 0 ∧ 64 ≤ field (block 64 [(16, 1, 64)]) 16 1) ∧
    (let s := postedArg 2 0x41 0 (rdma 0)
     s.groundsTakes 0 0x41 ∧ wordArg (s.chan 2).word ≤ 63 ∧ s.window? 0 (wordArg (s.chan 2).word) = some win0 ∧
     s.window? 0 63 = none ∧ wordArg ((postedArg 2 0x41 63 live2).chan 2).word ≤ 63 ∧ 63 < wordArg ((postedArg 2 0x41 64 live2).chan 2).word) ∧
    (let s := posted 2 0x42 live2
     let b := block 64 [(44, 1, 3), (45, 1, 19), (48, 8, 1)]
     s.groundsTakes 0 0x42 ∧ blockLen 64 (some b) ≠ none ∧ zeroAt b 46 2 = true ∧ zeroAt b 56 8 = true ∧ field b 32 4 < 0x1000000 ∧
     field b 36 4 < 0x1000000 ∧ field b 40 4 < 0x1000000 ∧ pathMtu (field b 44 1) ≠ 0 ∧ field b 45 1 < 20 ∧
     (s.fab.qps.filter (·.pv == 0)).length < 256 ∧ (∀ x ∈ s.fab.qps, x.qpn % 1024 ≠ 0) ∧ 20 ≤ field (block 64 [(45, 1, 20)]) 45 1 ∧
     pathMtu (field (block 64 [(44, 1, 6)]) 44 1) = 0 ∧ 0x1000000 ≤ field (block 64 [(32, 4, 0x1000000)]) 32 4 ∧
     256 ≤ ((List.replicate 256 (qp0 0)).filter (·.pv == 0)).length) ∧
    (let s := postedArg 2 0x43 9 (rdma 0)
     s.groundsTakes 0 0x43 ∧ wordArg (s.chan 2).word < 0x1000000 ∧ (∃ q ∈ s.fab.qps, q.pv = 0 ∧ q.qpn = wordArg (s.chan 2).word) ∧
     (∀ q ∈ live2.fab.qps, ¬ (q.pv = 0 ∧ q.qpn = 9)) ∧ 0x1000000 ≤ wordArg ((postedArg 2 0x43 0x1000000 live2).chan 2).word) ∧
    (State.reset.live = false) ∧
    ((rdma 2).qpReady 9 (qp0 2) ∧ ((rdma 2).fab.qps.filter fun x => x.qpn == 9) = [qp0 2] ∧
      rocWindow (rdma 2) (qp0 2) 77 (16 * 65536 + 65532) 4 false = some win0 ∧ rocWindow (rdma 2) (qp0 2) 77 (16 * 65536 + 65533) 4 false = none ∧
      rocWindow (rdma 2) (qp0 2) 77 (16 * 65536) 4 true = some win0 ∧ rocWindow (rdma 2) (qp0 2) 78 (16 * 65536) 4 true = none ∧
      (∀ no ∈ blocksIn pageSize (16 * 65536 + 65532) 4, (((rdma 2).range 0).page no).st.inT1 = true ∧ (((rdma 2).range 0).page no).errs = []) ∧ (writeBack 0 (16 * 65536) (zeros 4) (rdma 2)).1 = .ready ∧
      0 < (6 + 0x1000000 - (qp0 2).recvPsn) % 0x1000000 ∧ (6 + 0x1000000 - (qp0 2).recvPsn) % 0x1000000 < 0x800000 ∧
      2 ≤ (qp0 2).sinceCut ∧ (qp0 1).sinceCut < 2 ∧ (rdma 1).qpReady 9 (qp0 1)) := by
  refine ⟨?_, ?_, ?_, ?_, ?_, ?_⟩
  all_goals try simp only [State.groundsTakes, State.qpReady]
  all_goals decide +kernel

theorem witness_PortsAndPause :
    (let s := linked port0
     s.live = true ∧ (0 : Nat) < 20 ∧ s.fab.ports[0]? = some port0 ∧ s.flushing = false ∧ bit port0.eff 0 = true ∧
     s.side.ethClk.getD (0 / 5) false = true ∧ bit { port0 with eff := 0#32 }.eff 0 = false ∧ port0.carries = true ∧ Port.reset.carries = false ∧
     bit port0.eff 2 = true ∧ bit port0.eff 5 = true ∧ s.fab.announce = []) ∧
    (let p := { port0 with pause := modifyAt port0.pause 7 fun _ => (true, 5000, none) }
     (linked p).fab.ports[0]? = some p ∧ p.pause[7]? = some (true, 5000, none) ∧ p.st = 1 ∧ port0.pause[7]? = some (false, 0, none) ∧
     (modifyAt port0.pause 7 fun _ => (true, 4999, none))[7]? = some (true, 4999, none)) ∧
    (let s := { linked port0 with lodge := { live2.lodge with caks := [⟨0, 1, [], []⟩] } }
     (∃ c ∈ s.lodge.caks, c.port = 0 ∧ c.sub = 1) ∧ (∀ c ∈ live2.lodge.caks, ¬ (c.port = 0 ∧ c.sub = 1))) ∧
    (let m := put 320 [(15, 1, 9)]
     let s := { linked port0 with comp := { live2.comp with map := { map0 with members := [⟨5, m, 0, 0, 0, 0, 0⟩] } } }
     s.ownAddr 0 = some (put 16 [(15, 1, 9)]) ∧ s.ownAddr 1 ≠ some (put 16 [(15, 1, 9)])) ∧
    (let s := { linked port0 with fab := { (linked port0).fab with announce := [(1, 50)] } }
     s.fab.announce = [(1, 50)] ∧ (1 : Nat) ≠ 0 ∧ s.fab.ports[1]? = some port0 ∧ port0.carries = true ∧ bit port0.eff 5 = true) := by
  refine ⟨?_, ?_, ?_, ?_, ?_⟩ <;> decide +kernel

/-- A JFP packet of node 6 for node 5: operation, flags, PSN, and 8 bytes or none. -/
def jfp (op flags psn seg len : Nat) : List Byte :=
  let h := put 44 [(0, 1, 1), (1, 1, op), (2, 2, flags), (4, 2, 6), (6, 2, 5), (10, 2, seg), (12, 4, psn), (28, 4, len)]
  h ++ leBytes 4 (crc32c h) ++ zeros seg
/-- It as the MAC hands it on. -/
def rx0 (data : List Byte) : RxPkt := ⟨true, true, true, true, fld live2.fab.jfpEff 15 0, false, data⟩
def rflow0 (nak : Bool) (owed : Nat) : RFlow := ⟨6, 0, 0, 40, nak, owed, false⟩
/-- A sending flow to node 6 with one packet not acknowledged. -/
def sflow0 (idle timeouts : Nat) (last : Option Nat) : SFlow :=
  ⟨6, 0, 0, 0, 41, 40, [⟨40, jRead, 0, 1, 0, 16, true, [], 0, 4, true, true, false⟩], last, idle, timeouts, 1, 1, 0, false⟩
def flowing (f : SFlow) : State := { linked port0 with fab := { (linked port0).fab with sflows := [f] } }
/-- The port without pause. -/
def plain0 : Port := { port0 with eff := 0x2328_0001#32 }

/-- A state whose port 1 is paused for the priority of JFP. -/
def paused1 (s : State) : State :=
  { s with fab := { s.fab with ports := modifyAt s.fab.ports 1 fun p => { p with pause := modifyAt p.pause 0 fun _ => (true, 0, none) } } }

/-- With 8 MiB of messages of class 0 that are not whole, the class is at its cap. -/
def filled (g : List Byte) : State :=
  { linked plain0 with fab := { (linked plain0).fab with rmsgs := [⟨6, 0, 0, 1, 9, jRead, 0, 4, 2 ^ 24, g, [g.length]⟩] } }
theorem filled_holds (g : List Byte) : (filled g).linkHolds 0 0 = g.length := by
  have h : (filled g).fab.sflows = [] := rfl
  simp only [State.linkHolds, diePorts, State.portHolds, h]
  simp [filled, sumNat, List.range_succ]
theorem witness_PacketReception_cap :
    (filled (zeros (2 ^ 23))).underCap 0 (field (jfp jRead 1 40 8 16) 9 1 % 8) 8 = false := by
  have h : field (jfp jRead 1 40 8 16) 9 1 % 8 = 0 := by decide +kernel
  have z : (zeros (2 ^ 23)).length = 2 ^ 23 := List.length_replicate
  rw [h, State.underCap, filled_holds, z]
  decide

theorem witness_PacketsAndFlows :
    (let s := linked plain0
     s.live = true ∧ s.flushing = false ∧ (s.fab.ports.getD 0 Port.reset).carries = true ∧ rxOuterOk s 0 (rx0 []) = true ∧
     rxOuterOk s 0 { rx0 [] with csumOk := false } = false ∧ rxInnerOk s [] = false ∧ { rx0 [] with udpPort := 4791 }.udpPort = 4791 ∧
     (rx0 []).udpPort ≠ 4791 ∧ bit (s.fab.ports.getD 0 Port.reset).eff 2 = false) ∧
    (let s := linked plain0
     let d := jfp jAck 4 0 0 1
     rxInnerOk s d = true ∧ s.linkFits 0 0 (field d 10 2) = true ∧ field d 1 1 = jAck ∧ (field d 2 2).testBit 2 = true) ∧
    (let f := rflow0 false 14
     let s := { linked plain0 with fab := { (linked plain0).fab with rflows := [f] } }
     let d := jfp jRead 1 40 8 16
     rxInnerOk s d = true ∧ s.linkFits 0 (field d 9 1 % 8) (field d 10 2) = true ∧ field d 1 1 ≠ jAck ∧ (field d 2 2).testBit 2 = false ∧ (rx0 d).ce = false ∧ s.fab.rflows = [f] ∧ f.src = field d 4 2 ∧
     f.cls = field d 9 1 % 8 ∧ f.idx = field d 9 1 / 8 ∧ field d 12 4 = f.expect ∧ (field d 2 2).testBit 0 = true ∧ (field d 2 2).testBit 1 = false ∧
     f.owed < 15) ∧
    (let f := rflow0 false 0
     2 ^ 31 ≤ (field (jfp jRead 1 39 8 16) 12 4 + 2 ^ 32 - f.expect) % 2 ^ 32 ∧
     0 < (field (jfp jRead 1 41 8 16) 12 4 + 2 ^ 32 - f.expect) % 2 ^ 32 ∧ (field (jfp jRead 1 41 8 16) 12 4 + 2 ^ 32 - f.expect) % 2 ^ 32 < 2 ^ 31 ∧
     rxInnerOk (linked plain0) (jfp jRead 1 41 8 16) = true ∧ (linked plain0).canAck 0 = true ∧ (paused1 (linked plain0)).canAck 1 = false) ∧
    (let f := sflow0 0 0 (some 40)
     let s := flowing f
     s.hears 6 = true ∧ s.fab.sflows.find? (SFlow.is 6 0 0) = some f ∧ 0 < (41 + 2 ^ 32 - f.acked) % 2 ^ 32 ∧
     (41 + 2 ^ 32 - f.acked) % 2 ^ 32 ≤ f.unacked.length ∧ (40 + 2 ^ 32 - f.acked) % 2 ^ 32 = 0 ∧ f.lastAck = some 40 ∧ f.unacked ≠ [] ∧
     f.unacked.length < (42 + 2 ^ 32 - f.acked) % 2 ^ 32 ∧ s.hears 9 = false) ∧
    (let i := fld live2.fab.jfpEff 27 20
     let r := fld live2.fab.jfpEff 31 28
     let f := sflow0 i (r - 2) none
     let g := sflow0 i (r - 1) none
     (flowing f).live = true ∧ (flowing f).fab.sflows.find? (SFlow.is 6 0 0) = some f ∧ f.unacked ≠ [] ∧ i ≤ f.idle ∧ f.timeouts + 1 < r ∧
     (flowing g).upPorts ≠ [] ∧ r ≤ g.timeouts + 1 ∧ (sflow0 (i - 1) 0 none).idle < i) ∧
    (live2.bar0Up0 = true ∧ live2.fab.nodeLock = false ∧ 1024 ≤ fld 0x1020_0400#32 15 0 ∧ fld 0x1020_0400#32 15 0 ≠ 4791 ∧
      2 ≤ fld 0x1020_0400#32 27 20 ∧ 1 ≤ fld 0x1020_0400#32 31 28 ∧ fld 0x1020_0400#32 15 0 ≤ 65535 ∧ fld 0x1020_03FF#32 15 0 < 1024 ∧
      fld 0x1020_12B7#32 15 0 = 4791 ∧ fld 0x1010_0400#32 27 20 < 2 ∧ fld 0x0020_0400#32 31 28 = 0 ∧ fld 0x027F#32 7 0 ≤ 127 ∧
      fld 0x027F#32 9 8 ≠ 3 ∧ 127 < fld 0x0280#32 7 0 ∧ fld 0x0300#32 9 8 = 3 ∧ portCfgBad live2 19 0x2400_08C0#32 = false ∧
      portCfgBad live2 19 0x2401_08C0#32 = true ∧ { live2.fab with nodeLock := true }.nodeLock = true) := by
  refine ⟨?_, ?_, ?_, ?_, ?_, ?_, ?_⟩ <;> decide +kernel

end Sys2Proof.Tests
end

