-- ==== Sys2Proof/Tests/WitnessKeepers.lean ====
section
/-! SUPPORT. Witnesses for the statements about the map keepers, proposals, the mailbox and the Lodge. -/

namespace Sys2Proof.Tests
open Sys2Proof Sys2Proof.Machine
set_option Elab.async false -- one proof at a time: the kernel evaluations below would each hold a thread

/-- An entry of the keepers' log, and what a keeper holds of it; `live2` with a keeper as given. -/
def lent0 (idx term : Nat) (act : Nat) : LogEnt := ⟨idx, term, .role 6 1, act, 6, 2⟩
def kent0 (acks : List Nat) : KEnt := ⟨lent0 1 3 1060, acks, false, false⟩
def keeping (role : Nat) (voted : Option Nat) (log : List KEnt) (age : Nat) : State :=
  { live2 with comp := { live2.comp with
      keeper := { live2.comp.keeper with role := role, voted := voted, log := log, hbAge := age, limit := 25 } } }

theorem witness_KeeperLogAndElections :
    (let s := keeping 1 none [kent0 []] 0
     let k := s.comp.keeper
     s.hears 6 = true ∧ 6 ∈ s.comp.map.keepers ∧ 9 ∉ s.comp.map.keepers ∧ k.term = 3 ∧ k.holds 2 3 = false ∧ k.holds 1 3 = true ∧
     (∀ x ∈ k.log, ¬ (x.e.idx = 2 ∧ x.e.term = 3)) ∧ s.isKeeper = true ∧ k.role ≠ 2 ∧ s.comp.pend = [] ∧ s.comp.map.epoch < 5 ∧
     s.keeps 6 = true ∧ s.keeps 9 = false) ∧
    (let s := keeping 2 none [kent0 [5]] 0
     let k := s.comp.keeper
     s.keeps 6 = true ∧ k.role = 2 ∧ (∀ x ∈ k.log, x.e.idx ≤ 1) ∧ k.log = [kent0 [5]] ∧ (kent0 [5]).committed = false ∧ (kent0 [5]).abandoned = false ∧
     (kent0 [5]).e.term = k.term ∧ (kent0 [5]).e.idx ≤ 1 ∧ s.comp.pend = [] ∧ s.majority ≤ (dedupKeep ((kent0 [5]).acks ++ [6])).length ∧
     1 < s.majority) ∧
    (let s := keeping 1 none [kent0 []] 0
     let k := s.comp.keeper
     s.keeps 6 = true ∧ k.voted = none ∧ k.upToDate 1 3 = true ∧ k.upToDate 0 3 = false ∧ (keeping 1 (some 7) [] 0).comp.keeper.voted = some 7) ∧
    (let s := keeping 3 none [] 0
     s.keeps 6 = true ∧ s.comp.keeper.role = 3 ∧ s.majority ≤ (dedupKeep ([5] ++ [6])).length ∧
     (dedupKeep (s.comp.keeper.votes ++ [6])).length < s.majority ∧
     s.majority ≤ (dedupKeep ({ s.comp.keeper with votes := [5] }.votes ++ [6])).length) ∧
    (let s := keeping 1 none [] 25
     s.live = true ∧ s.isKeeper = true ∧ s.comp.keeper.role ≠ 2 ∧ s.comp.keeper.limit ≤ s.comp.keeper.hbAge ∧
     (keeping 1 none [] 24).comp.keeper.hbAge < (keeping 1 none [] 24).comp.keeper.limit ∧
     { s with comp := { s.comp with map := { map0 with keepers := [5] } } }.majority = 1) ∧
    (100 ≤ { live2.comp with hbAge := 100 }.hbAge ∧ live2.comp.hbAge < 100) ∧
    (let x : KEnt := ⟨lent0 1 3 1010, [5], false, false⟩
     let s := keeping 2 none [x] 0
     s.live = true ∧ s.comp.keeper.role = 2 ∧ s.comp.keeper.log = [x] ∧ x.committed = false ∧ x.abandoned = false ∧ x.e.act ≤ s.hfn + 10 ∧
     x.e.src ≠ s.node ∧ s.comp.props = [] ∧ s.hfn + 10 < (lent0 1 3 1011).act) ∧
    (let p : Prop_ := ⟨2, .role 6 1, none, none, 1000 - fld live2.comp.mapEff 15 8⟩
     let s := { live2 with comp := { live2.comp with props := [p] } }
     s.live = true ∧ s.comp.keeper.role ≠ 2 ∧ s.comp.props = [p] ∧ p.ent = .role 6 1 ∧ p.work = none ∧ p.chan = none ∧
     p.made + fld s.comp.mapEff 15 8 ≤ s.hfn ∧ s.hfn < (p.made + 1) + fld s.comp.mapEff 15 8) := by
  refine ⟨?_, ?_, ?_, ?_, ?_, ?_, ?_, ?_⟩ <;> decide +kernel

/-- A cutover that waits for the answers of some nodes, its frame as given. -/
def cut0 (c : Nat) (aw : List Nat) : CutWait := ⟨6, 2, 0, 2, c, zeros 64, aw⟩
def cutting (w : CutWait) : State :=
  { live2 with comp := { live2.comp with keeper := { live2.comp.keeper with role := 2, cutWait := [w] } } }
def prop0 (e : MapEntry) (w : Option Nat) : Prop_ := ⟨2, e, w, none, 990⟩
def proposing (p : Prop_) : State := { fetched [(0, 1, opCutover)] with comp := { live2.comp with props := [p] } }

theorem witness_ProposalsAndRoles :
    (let s := keeping 2 none [] 0
     s.keeps 6 = true ∧ s.comp.keeper.role = 2 ∧ (6 : Nat) ≠ s.node ∧ s.refuses (.role 9 1) = true ∧ s.refuses (.role 6 1) = false ∧
     s.comp.keeper.log = [] ∧ 1 < s.majority ∧ live2.comp.keeper.role ≠ 2) ∧
    (let p := prop0 (.cutover 0 2 1500 (zeros 64)) (some 4)
     (proposing p).hears 6 = true ∧ (proposing p).comp.props = [p] ∧ p.work = some 4 ∧ p.chan = none ∧
     (proposing (prop0 (.policy 0x060A_0A19#32) none)).comp.props = [prop0 (.policy 0x060A_0A19#32) none] ∧ (1 : Nat) ≠ 0 ∧ (3 : Nat) ≠ p.id ∧
     (proposing p).hears 9 = false) ∧
    (let s := cutting (cut0 1251 [6])
     s.comp.keeper.cutWait = [cut0 1251 [6]] ∧ (cut0 1251 [6]).pv = 0 ∧ s.hears 6 = true ∧ (cut0 1251 [6]).src ≠ s.node ∧
     ((cut0 1251 [6]).await_.filter (· != 6)) = [] ∧ s.hfn < (cut0 1251 [6]).c - 250 ∧ ((cut0 1251 [6, 7]).await_.filter (· != 6)) ≠ [] ∧
     s.live = true ∧ (cut0 1250 []).c ≤ s.hfn + 250 ∧ s.hfn + 250 < (cut0 1251 [6]).c ∧ live2.comp.keeper.cutWait = []) ∧
    (let ms : List CMember := (List.range 20).map fun i => ⟨5 + i, [], 0, 0, 0, if i = 0 then 1 else 0, 0⟩
     let s := atBoundary 5000000 { keeping 2 none [] 0 with comp := { (keeping 2 none [] 0).comp with
       map := { map0 with policy := 0x0605_0599#32, members := ms } } }
     s.live = true ∧ s.comp.keeper.role = 2 ∧ bit s.comp.map.policy 7 = true ∧ s.hfn % 50000 = 0 ∧ s.clk.slot = none) ∧
    (let ms : List CMember := [⟨5, [], 0, 0, 0, 1, 0⟩]
     let s := atBoundary 5000000 { keeping 2 none [] 0 with comp := { (keeping 2 none [] 0).comp with
       map := { map0 with policy := 0x0600_0080#32, members := ms } } }
     s.live = true ∧ s.comp.keeper.role = 2 ∧ bit s.comp.map.policy 7 = true ∧ s.hfn % 50000 = 0 ∧ s.clk.slot = none ∧
     0 < s.comp.map.surplus 1 ∧ s.comp.map.surplus 2 = 0 ∧
     (s.comp.map.pool 1).filter (fun x => decide (x.roleAt + fld s.comp.map.policy 30 24 * 50000 ≤ s.hfn)) = [⟨5, [], 0, 0, 0, 1, 0⟩]) ∧
    (live2.bar0Up0 = true ∧ live2.isKeeper = true ∧ 50 ≤ fld 0x0101_3201#32 15 8 ∧ fld 0x0101_C801#32 15 8 ≤ 200 ∧ 1 ≤ fld 0x0101_3201#32 23 16 ∧
      1 ≤ fld 0x0101_3201#32 31 24 ∧ bit 0x0101_3201#32 0 = true ∧ fld 0x0101_3101#32 15 8 < 50 ∧ 200 < fld 0x0101_C901#32 15 8 ∧
      fld 0x0100_3201#32 23 16 = 0 ∧ fld 0x0001_3201#32 31 24 = 0 ∧ bit 0x0101_3200#32 0 = false ∧ 1 ≤ fld 0x4001#32 7 0 ∧
      fld 0x4001#32 15 8 ≤ 64 ∧ fld 0x4000#32 7 0 = 0 ∧ fld 0x0001#32 15 8 = 0 ∧ 64 < fld 0x4101#32 15 8 ∧
      (let w := 0x0132_1919#32 &&& 0x7F7F_7FFF#32
       fld w 6 0 + fld w 14 8 + fld w 22 16 ≤ 100 ∧ fld w 30 24 ≠ 0) ∧
      (let w := 0x0133_1919#32 &&& 0x7F7F_7FFF#32
       100 < fld w 6 0 + fld w 14 8 + fld w 22 16) ∧ fld (0x0000_0000#32 &&& 0x7F7F_7FFF#32) 30 24 = 0) := by
  refine ⟨?_, ?_, ?_, ?_, ?_, ?_⟩ <;> decide +kernel

theorem witness_MailboxChannels :
    (live2.fnUp (chanFn 13) = true ∧ (live2.chan 13).full = false ∧ ((posted 13 0x40 live2).chan 13).full = true ∧
      { live2 with phase := .boot 3 }.chanServed 13 = false ∧ fld 0x003F_0001#32 15 0 ≠ 0 ∧ fld 0x003F_0001#32 21 16 < 64 ∧
      fld 0x000F_0001#32 21 16 < 16 ∧ fld 0x003F_0000#32 15 0 = 0 ∧ live2.fnUp 0 = true) ∧
    (let s := { live2 with rx := { live2.rx with full := true, waiting := [], timer := 250000 } }
     s.fnUp 0 = true ∧ s.rx.full = true ∧ s.rx.waiting = [] ∧ 250000 ≤ s.rx.timer) ∧
    (let s := modChan 13 (fun x => { x with full := true, limit := 100, timer := 100 }) live2
     (s.chan 13).full = true ∧ (s.chan 13).limit ≤ (s.chan 13).timer) := by
  refine ⟨?_, ?_, ?_⟩ <;> decide +kernel

/-- A Lodge image and a Grounds image of one byte each, and fuses that bear their keys. -/
def img0 : Image := ⟨put 64 [(0, 4, 0x494D5A47), (16, 1, 1), (24, 8, 1)] ++ zeros 8129, true⟩
def img1 : Image := ⟨put 64 [(0, 4, 0x494D5A47), (4, 1, 1), (16, 1, 1), (24, 8, 1)] ++ zeros 8129, true⟩
def keyed : Fuses :=
  { live0.lodge.fuses with lodgeKeyHash := sha3_512 (slice img0.data 64 2592), groundsKeyHash := sha3_512 (slice img1.data 64 2592) }

theorem img0_valid : imgValid keyed 0 img0 = true := by
  have h : (field img0.data 0 4 == 0x494D5A47 && field img0.data 4 1 == 0 && zeroAt img0.data 5 3 && zeroAt img0.data 17 7 &&
      zeroAt img0.data 32 32 && zeroAt img0.data 7283 909 && decide (imgSvn img0 ≤ 64) && inRange 1 (field img0.data 24 8) 0x7E000 &&
      (imgBody img0).length == field img0.data 24 8) = true := by decide +kernel
  have h2 : decide (fuseCount keyed 0 ≤ imgSvn img0) = true := by decide +kernel
  unfold imgValid imgSound
  rw [h2, Bool.and_true, if_pos rfl, if_pos rfl, h]
  simp only [keyed, beq_self_eq_true, Bool.and_self]
  rfl

theorem img1_valid : imgValid keyed 1 img1 = true := by
  have h : (field img1.data 0 4 == 0x494D5A47 && field img1.data 4 1 == 1 && zeroAt img1.data 5 3 && zeroAt img1.data 17 7 &&
      zeroAt img1.data 32 32 && zeroAt img1.data 7283 909 && decide (imgSvn img1 ≤ 64) && inRange 1 (field img1.data 24 8) 0x1FFE000 &&
      (imgBody img1).length == field img1.data 24 8) = true := by decide +kernel
  have h2 : decide (fuseCount keyed 1 ≤ imgSvn img1) = true := by decide +kernel
  unfold imgValid imgSound
  rw [h2, Bool.and_true, if_neg (by decide), if_neg (by decide), h]
  simp only [keyed, beq_self_eq_true, Bool.and_self]
  rfl

/-- `live2` with a command for the Lodge that waits, its argument as given. -/
def lodged (cmd arg : Nat) : State := postedArg 0 cmd arg live2
/-- That state with the image above staged, its key fused. -/
def staged0 : State := { live2 with lodge := { live2.lodge with staging := some (false, img0), fuses := keyed } }

theorem witness_LodgeReportsAndServices :
    ((lodged 0x01 0).lodgeTakes 0x01 ∧ blockLen 5248 (some (block 5248 [])) = some 5248 ∧ zeroAt (block 5248 []) 80 48 = true ∧
      (lodged 0x02 0).lodgeTakes 0x02 ∧ blockLen 64 (some (block 2752 [])) = some 2752 ∧
      2688 + (lodged 0x02 0).lodge.fuses.idChain.length ≤ 2752 ∧ blockLen 64 (some (block 2624 [])) = some 2624 ∧
      2624 < 2688 + (lodged 0x02 0).lodge.fuses.idChain.length ∧ (lodged 0x03 0).lodgeTakes 0x03 ∧ blockLen 64 (some (block 64 [])) = some 64) ∧
    (let s := lodged 0x06 0
     s.lodgeUp = true ∧ s.waits 0 0x06 = true ∧ s.wordBad 0 = false ∧
     { lodged 0x01 0 with lodge := { live2.lodge with lc := 0 } }.keyless = true ∧ (lodged 0x01 0).waits 0 0x01 = true ∧
     (modChan 0 (fun x => { x with full := true, hi := 0x0110_0000#32 }) live2).wordBad 0 = true ∧
     (modChan 0 (fun x => { x with full := true, hi := 0x0110_0000#32 }) live2).waits 0 0x01 = true) ∧
    (live2.live = true ∧ live2.keyless = false ∧ live2.lodge.pvKeys.getD 0 none = none ∧ (live2.slices 0).isSome = true) ∧
    (let s := { live2 with lodge := { live2.lodge with pvKeys := modifyAt live2.lodge.pvKeys 0 fun _ => some ⟨1, false⟩, caks := [⟨19, 1, [], []⟩] } }
     s.lodge.pvKeys.getD 0 none = some ⟨1, false⟩ ∧ (1 : Nat) = s.lodge.lc ∧ ({ s.lodge with lc := 2 }.lc ≠ 1) ∧
     (∃ c ∈ s.lodge.caks, c.port = 19 ∧ c.sub = 1) ∧ (∀ c ∈ live2.lodge.caks, ¬ (c.port = 19 ∧ c.sub = 1))) := by
  refine ⟨?_, ?_, ?_, ?_⟩
  all_goals try simp only [State.lodgeTakes]
  all_goals decide +kernel

theorem witness_LodgeChanges :
    ((lodged 0x04 0).lodgeTakes 0x04 ∧ blockLen 64 (some (block 64 [(16, 1, 1)])) = some 64 ∧ (lodged 0x04 0).lodge.staging = none ∧
      (zeroAt (block 64 [(16, 1, 1)]) 17 7 && zeroAt (block 64 [(16, 1, 1)]) 40 24) = true ∧ field (block 64 [(16, 1, 1)]) 16 1 ≤ 1 ∧ (lodged 0x04 0).fnUp 0 = true ∧
      ((modChan 0 (fun x => { x with taken := true }) (lodged 0x04 0)).chan 0).taken = true ∧ ((lodged 0x04 0).chan 0).taken = false) ∧
    (let s := { live2 with lodge := { live2.lodge with staging := some (true, img0) } }
     s.lodgeUp = true ∧ s.lodge.staging = some (true, img0) ∧ imgSound s.lodge.fuses 1 img0 = false) ∧
    (staged0.lodgeUp = true ∧ staged0.lodge.staging = some (false, img0) ∧ imgValid staged0.lodge.fuses (if false = true then 1 else 0) img0 = true) ∧
    (let s := { lodged 0x05 0 with lodge := { live2.lodge with lodgeImg := some ⟨false, 1, []⟩ } }
     s.lodgeTakes 0x05 ∧ wordArg (s.chan 0).word = 0 ∧ s.lodge.lodgeImg = some ⟨false, 1, []⟩ ∧ s.lodge.fuses.lodgeCount < 1) ∧
    (let s := { lodged 0x05 1 with lodge := { live2.lodge with groundsImg := some ⟨false, 0, []⟩ } }
     s.lodgeTakes 0x05 ∧ wordArg (s.chan 0).word = 1 ∧ s.lodge.groundsImg = some ⟨false, 0, []⟩ ∧ 0 ≤ s.lodge.fuses.groundsCount) ∧
    (let s := lodged 0x07 0
     let b := block 64 [(16, 1, 2)]
     s.lodgeUp = true ∧ s.waits 0 0x07 = true ∧ s.wordBad 0 = false ∧ blockLen 64 (some b) = some 64 ∧ zeroAt b 17 15 = true ∧
     lcPermitted s.lodge b 64 (field b 16 1) false = true ∧ lcPermitted s.lodge (block 64 [(16, 1, 1)]) 64 1 false = false) ∧
    (let b := block 128 [(16, 1, 19), (17, 1, 1), (18, 1, 32)]
     (lodged 0x09 0).lodgeTakes 0x09 ∧ blockLen 128 (some b) = some 128 ∧ zeroAt b 19 13 = true ∧ field b 16 1 ≤ 19 ∧ field b 17 1 ≤ 1 ∧
     1 ≤ field b 18 1 ∧ field b 18 1 ≤ 32) ∧
    (let s := modFn 1 (fun x => { x with enabled := false }) (lodged 0x08 0)
     s.lodgeTakes 0x08 ∧ wordArg (s.chan 0).word = 0 ∧ (s.fn (fnOf 0)).enabled = false ∧ (0 : Nat) < s.ranges.length ∧ ((lodged 0x08 0).fn (fnOf 0)).enabled = true) := by
  refine ⟨?_, ⟨?_, rfl, ?_⟩, ⟨?_, rfl, img0_valid⟩, ?_, ?_, ?_, ?_, ?_⟩
  all_goals try simp only [State.lodgeTakes]
  all_goals decide +kernel

end Sys2Proof.Tests
end

