-- ==== Sys2Proof/Tests/WitnessNode.lean ====
section
/-! SUPPORT. Witnesses for the statements about integrity checks, resets, boot, power, temperature and the sideband. -/

namespace Sys2Proof.Tests
open Sys2Proof Sys2Proof.Machine
set_option Elab.async false -- one proof at a time: the kernel evaluations below would each hold a thread

/-- A shadow of a scan job of engine 3 of die 0 that ended in frame 999; `live2` with it, and dies 0 to `n` of quadrant 0 in service. -/
def shadow1 (runs : List Run) : Shadow := ⟨21, 0, true, ⟨0, false, 3⟩, 2, [9], 7, [0], none, 24, 999, runs⟩
def shadowing (n : Nat) (runs : List Run) : State :=
  { live2 with
    dies := live2.dies.zipIdx.map fun x => if x.2 ≤ n then
      { x.1 with inService := true, engMap := (List.range 48).map some, taMap := (List.range 4).map some } else x.1
    integ := { live2.integ with shadows := [shadow1 runs] } }
def vals0 (sig : BitVec 32) : JobVals := ⟨sig, []⟩
def run0 (die : Nat) (sig : BitVec 32) : Run := ⟨⟨die, false, 3⟩, 2, vals0 sig⟩

theorem witness_ShadowChecks :
    (let s := shadowing 2 []
     let x := shadow1 []
     s.integ.shadows.find? (·.id == 21) = some x ∧ x.runs = [] ∧ s.runsCheck x 1 3 3 ∧
     runsAgree true [] (vals0 7) (vals0 7) = true ∧ runsAgree true [] (vals0 7) (vals0 8) = false ∧
     (useUnit x 1 3 s).unresolved x x.prim ⟨1, false, 3⟩ = false ∧ (shadowing 1 []).runsCheck x 1 3 3 ∧
     (useUnit x 1 3 (shadowing 1 [])).unresolved x x.prim ⟨1, false, 3⟩ = true) ∧
    (let x := shadow1 [run0 0 7, run0 1 8]
     let s := shadowing 2 [run0 0 7, run0 1 8]
     s.integ.shadows.find? (·.id == 21) = some x ∧ x.runs = [run0 0 7, run0 1 8] ∧ s.runsCheck x 2 3 3 ∧
     s.unresolved x (run0 0 7).u (run0 1 8).u = false ∧ s.live = true ∧ s.shadowFresh x = true ∧
     (shadowing 1 [run0 0 7, run0 1 8]).unresolved x (run0 0 7).u (run0 1 8).u = true ∧
     runsAgree true [] (vals0 8) (run0 0 7).vals = false ∧ runsAgree true [] (vals0 8) (run0 1 8).vals = true ∧
     runsAgree true [] (vals0 7) (run0 0 7).vals = true ∧ runsAgree true [] (vals0 7) (run0 1 8).vals = false ∧
     runsAgree true [] (vals0 9) (run0 0 7).vals = false ∧ runsAgree true [] (vals0 9) (run0 1 8).vals = false) ∧
    (let s := { shadowing 2 [] with clk := { live2.clk with hfn := 999 + fld live2.integ.shadowEff 15 8 + 1 } }
     s.live = true ∧ s.shadowFresh (shadow1 []) = false ∧ (shadowing 2 []).shadowFresh (shadow1 []) = true ∧ live2.integ.shadows = []) ∧
    (let s := atBoundary 30000000 live2
     s.live = true ∧ s.clk.slot = none ∧ s.hfn % 30000000 = 0 ∧ live2.clk.slot ≠ none) := by
  refine ⟨?_, ?_, ?_, ?_⟩
  all_goals try simp only [State.runsCheck]
  all_goals decide +kernel

/-- A tile of plot 0 with one empty slot that holds a sketch and one with the record of `rec0`; a store with it; a state with both. -/
def tileOf (sketch : Nat) : Tile := ⟨3, ⟨0, 0, 1, 0, 0, 0⟩, [⟨sketch, none, false⟩, ⟨0, some rec0, false⟩]⟩
def storeOf (sketch : Nat) : Store := { Store.new bundle0 1048576 with tiles := [tileOf sketch], dir := [⟨0, 0, [3], 2, 0⟩] }
def tiled (sketch : Nat) : State := onCorpus (fun c => { c with stores := [storeOf sketch] }) live2
/-- Rates of nine engines of die 0, the last slow. -/
def rates : List RateIn := (List.range 8).map fun i => ⟨0, false, i, 1000, 10, 1⟩
def slow0 : RateIn := ⟨0, false, 8, 1000, 4, 1⟩

theorem witness_ScrubAndStragglers :
    (let s := tiled 0
     (s.corpus 0).store? 1 = some (storeOf 0) ∧ (s.corpus 0).bundle? 1 = some bundle0 ∧ (storeOf 0).tile? 3 = some (tileOf 0) ∧ s.live = true ∧
     (∀ y ∈ (tileOf 0).slots, ∀ r ∈ y.ent, y.deleted = false → recSketch 0 bundle0 r s ≠ none) ∧
     rebuild 0 bundle0 (storeOf 0) { tileOf 0 with tag := ((storeOf 0).tagFor 0 3).getD (tileOf 0).tag } s =
       { tileOf 0 with tag := ((storeOf 0).tagFor 0 3).getD (tileOf 0).tag } ∧ (storeOf 0).tagFor 0 3 ≠ none) ∧
    (let s := tiled 5
     (s.corpus 0).store? 1 = some (storeOf 5) ∧ (storeOf 5).tile? 3 = some (tileOf 5) ∧ rebuild 0 bundle0 (storeOf 5) (tileOf 5) s ≠ tileOf 5 ∧
     (s.corpus 0).store? 2 = none) ∧
    (let s := { tiled 5 with integ := { live2.integ with repairs := [(0, 1, 3, 0)] } }
     (∃ r ∈ s.integ.repairs, r.1 = 0 ∧ r.2.1 = 1 ∧ r.2.2.1 = 3) ∧ (∀ r ∈ live2.integ.repairs, ¬ (r.1 = 0 ∧ r.2.1 = 1 ∧ r.2.2.1 = 3)) ∧
     { storeOf 5 with dir := [] }.tagFor 0 3 = none) ∧
    (let s := atBoundary 1000 { live2 with integ := { live2.integ with spareEff := 0x0000_7D01#32 } }
     s.live = true ∧ s.clk.slot = none ∧ s.hfn % 1000 = 0 ∧ bit s.integ.spareEff 0 = true ∧
     (∀ y ∈ rates ++ slow0 :: [], 1000 ≤ y.slots ∧ 0 < y.cycles) ∧ s.lagsIn (rates ++ slow0 :: []) slow0 ∧
     (∀ y ∈ rates ++ [], ¬ s.lagsIn (rates ++ slow0 :: []) y) ∧ bit { live2.integ with spareEff := 0#32 }.spareEff 0 = false) := by
  refine ⟨?_, ?_, ?_, ?_⟩
  all_goals try simp only [State.lagsIn]
  all_goals decide +kernel

/-- `live2` in TEST with a run as given. -/
def testing (b : Option BistRun) : State :=
  { shadowing 0 [] with lodge := { live2.lodge with lc := 1 }, integ := { live2.integ with bist := b } }
/-- BIST_CTL for the SRAM of die 0, with GO. -/
def bistWord : W32 := 0x0001_1D00#32

theorem witness_BistAndIntegrityRegisters :
    ((testing none).bar0Up0 = true ∧ bit bistWord 16 = true ∧ (testing none).bistOpen = true ∧ (testing none).integ.bist = none ∧ (testing none).bistCond bistWord = true ∧
      (testing none).live = true ∧ { live2 with lodge := { live2.lodge with lc := 2 } }.bistOpen = false ∧ bit 0#32 16 = false) ∧
    (let b : BistRun := ⟨0#32, true, 0, none, 50⟩
     let s := atBoundary 1000 (testing (some b))
     s.integ.bist = some b ∧ s.live = true ∧ b.begun = true ∧ b.left = 0 ∧ s.clk.slot = none ∧ b.spare = none ∧ { b with left := 1 }.left ≠ 0) ∧
    (1 ≤ fld 0x00A8_0100#32 15 8 ∧ 1 ≤ fld 0x00A8_0100#32 23 16 ∧ fld 0x00A8_0100#32 23 16 ≤ 168 ∧ fld 0x00A8_0000#32 15 8 = 0 ∧
      fld 0x0000_0100#32 23 16 = 0 ∧ 168 < fld 0x00A9_0100#32 23 16 ∧ 1 ≤ fld 0x0114#32 4 0 ∧ fld 0x0114#32 4 0 ≤ 20 ∧ 1 ≤ fld 0x0114#32 15 8 ∧
      fld 0x0100#32 4 0 = 0 ∧ 20 < fld 0x0115#32 4 0 ∧ fld 0x0001#32 15 8 = 0 ∧ 1 ≤ fld 0x0001_0001#32 15 0 ∧ 1 ≤ fld 0x0001_0001#32 23 16 ∧
      110 ≤ fld 0x6E00#32 15 8 ∧ fld 0x6D00#32 15 8 < 110 ∧ State.reset.bar0Up0 = false) := by
  refine ⟨?_, ?_, ?_⟩ <;> decide +kernel

/-- What a boot finds: the straps, the routers that fail, and the tests of the search dies; a die that passes its test. -/
def bootIn0 (straps : Byte) (bad : List Nat) (dies : List DieTest) : BootIn := ⟨none, none, dies, bad, [], [], [], [], [], straps⟩
def sound0 : List DieTest := List.replicate 24 ⟨List.replicate 52 true, List.replicate 5 true, true, true⟩
/-- `live2` held in reset with the Lodge image above in its NOR, its key fused, and as the Grounds image the one given. -/
def imaged (g : Image) : State :=
  { live2 with phase := .held .perst, lodge := { live2.lodge with
      fuses := keyed, qspi := { live2.lodge.qspi with lodgeA := img0, groundsA := g, groundsB := ⟨[], false⟩ } } }

theorem witness_NodeResets :
    (live2.phase.up = true ∧ live2.pwr.flush = none ∧ { live2.pwr with flush := some .pfail }.flush.isSome = true ∧ live2.pwr.rstAt = none) ∧
    (let s := { live2 with pwr := { live2.pwr with rstAt := some 950 } }
     s.phase.up = true ∧ s.pwr.rstAt = some 950 ∧ 950 + 50 ≤ s.hfn ∧ s.pwr.flush = none) ∧
    (let s := { live2 with lodge := { live2.lodge with hbAge := 50000 } }
     s.live = true ∧ 50000 ≤ s.lodge.hbAge ∧ s.pwr.resetPending = none ∧ s.pwr.flush = none ∧ live2.lodge.hbAge < 50000 ∧
     (∀ f, live2.pwr.rstAt = some f → live2.hfn < f + 50)) ∧
    (live2.phase ≠ .off ∧ State.reset.phase = .held .perst ∧ { live2 with phase := .off }.phase = .off) := by
  refine ⟨?_, ?_, ?_, ?_⟩ <;> decide +kernel

theorem imaged_lodge (g : Image) (b : BootIn) (h : b.prog = none) : lodgeSlot b (imaged g) = some false := by
  have hr : norRec (bootNor1 b (imaged g)) 0 = ⟨false, 1⟩ := by simp only [bootNor1, bootNor, h]; rfl
  have hs : norSlot (bootNor1 b (imaged g)) 0 false = img0 := by simp only [bootNor1, bootNor, h]; rfl
  unfold lodgeSlot bootSlot
  rw [hr]
  dsimp only
  rw [hs]
  exact if_pos img0_valid
theorem imaged_grounds (b : BootIn) (h : b.prog = none) : groundsSlot b (imaged img1) = some false := by
  have hr : norRec (setNorRec (bootNor1 b (imaged img1)) 1 (tryRec (bootNor b (imaged img1)).groundsRec)) 1 = ⟨false, 1⟩ := by
    simp only [bootNor1, bootNor, h]; rfl
  have hs : norSlot (setNorRec (bootNor1 b (imaged img1)) 1 (tryRec (bootNor b (imaged img1)).groundsRec)) 1 false = img1 := by
    simp only [bootNor1, bootNor, h]; rfl
  unfold groundsSlot bootSlot
  rw [hr]
  dsimp only
  rw [hs]
  exact if_pos img1_valid

theorem witness_BootSteps :
    (State.reset.phase = .held .perst ∧ strapsOk (bootIn0 0x20#8 [] []).straps = false ∧ strapsOk (bootIn0 0x10#8 [] []).straps = true ∧
      (bootIn0 0#8 [] []).stall = none ∧ { bootIn0 0#8 [] [] with stall := some 1 }.stall = some 1 ∧
      lodgeSlot (bootIn0 0#8 [] []) State.reset = none) ∧
    ((imaged img1).phase = .held .perst ∧ (imaged img1).keyless = false ∧ (bootIn0 0#8 [47] []).badRouters ≠ [] ∧
      lodgeSlot (bootIn0 0#8 [47] []) (imaged img1) = some false ∧ lodgeSlot (bootIn0 0#8 [] sound0) (imaged img1) = some false ∧
      groundsSlot (bootIn0 0#8 [] sound0) (imaged img1) = some false ∧ (bootIn0 0#8 [] sound0).badRouters = [] ∧
      (∀ q, q < 4 → ∃ i, i < 6 ∧ (bootDie (bootIn0 0#8 [] sound0) (6 * q + i)).inService = true) ∧
      (∃ q, q < 4 ∧ ∀ i, i < 6 → (bootDie (bootIn0 0#8 [] []) (6 * q + i)).inService = false)) ∧
    (let s := { imaged ⟨[], false⟩ with lodge := { (imaged ⟨[], false⟩).lodge with lc := 4 } }
     s.keyless = true ∧ lodgeSlot (bootIn0 0#8 [] sound0) (imaged ⟨[], false⟩) = some false ∧
     groundsSlot (bootIn0 0#8 [] sound0) (imaged ⟨[], false⟩) = none) ∧
    ({ live2 with phase := .boot 4 }.phase = .boot 4 ∧ live2.phase = .running ∧ live2.phase ≠ .held .perst ∧
      (∀ k, live2.phase ≠ .boot k)) := by
  refine ⟨?_, ⟨rfl, ?_, ?_, imaged_lodge _ _ rfl, imaged_lodge _ _ rfl, imaged_grounds _ rfl, rfl, ?_, ?_⟩, ⟨?_, imaged_lodge _ _ rfl, ?_⟩, rfl,
    rfl, ?_, fun k h => by cases h⟩
  all_goals decide +kernel

theorem witness_PowerFail :
    (live2.phase.up = true ∧ live2.pwr.flush = none ∧ live2.pwr.pfailLow = false ∧ live2.pwr.stopped = false ∧ live2.pwr.resetPending = none ∧
      live2.flashUp = true ∧ { live2.flash with regionOk := false }.regionOk = false) ∧
    ({ live2.pwr with flush := some .pfail }.flush = some .pfail ∧ { live2.pwr with flush := some .clock }.flush = some .clock ∧
      { live2.pwr with flush := some .trip }.flush = some .trip ∧ { live2.pwr with pfailLow := true }.pfailLow = true ∧
      { live2.pwr with resetPending := some 1 }.resetPending = some 1) ∧
    (3 < live2.side.ethClk.length ∧ live2.fab.ports.length = 20) := by
  refine ⟨?_, ?_, ?_⟩ <;> decide +kernel

/-- `live2` with the temperature and power state of a unit changed. -/
def withUnit (u : Nat) (g : ThermUnit → ThermUnit) (s : State) : State := { s with pwr := { s.pwr with units := modifyAt s.pwr.units u g } }

theorem witness_ThermalAndPower :
    (let s := withUnit 31 (fun x => { x with overN := 1 }) live2
     s.phase.up = true ∧ budgetW 31 < budgetW 31 + 1 ∧ 1 ≤ (s.unit 31).overN ∧ (s.unit 31).cutNow = false ∧ (live2.unit 31).overN = 0) ∧
    (let s := withUnit 47 (fun x => { x with tripN := 2 }) live2
     2 ≤ (s.unit 47).tripN ∧ s.pwr.flush = none ∧ s.pwr.stopped = false ∧ s.pwr.tripped = false ∧ (live2.unit 47).tripN < 2 ∧
     { s.pwr with flush := some .pfail }.flush.isSome = true ∧ { s.pwr with stopped := true }.stopped = true) ∧
    (let s := atBoundary 1000 (withUnit 23 (fun x => { x with step := 1, cool := 64, sensorFail := false }) live2)
     s.clk.slot = none ∧ (s.unit 23).sensorFail = false ∧ 64 ≤ (s.unit 23).cool ∧ 0 < (s.unit 23).step ∧ (live2.unit 23).cool < 64) ∧
    (let s := atBoundary 1000 { live2 with scan := { live2.scan with st := modifyAt live2.scan.st 15 fun k => { k with doubled := true, cool := 16 } } }
     s.clk.slot = none ∧ (s.scan.st.getD 15 Stack.reset).doubled = true ∧ 16 ≤ (s.scan.st.getD 15 Stack.reset).cool ∧ (s.unit 47).step = 0 ∧
     ((withUnit 47 (fun x => { x with step := 1 }) s).unit 47).step = 1) ∧
    (31 < live2.pwr.units.length ∧ (dedupKeep ((live2.unit 31).stuck ++ [3])).length ≠ sensorsOf 31 ∧
      (dedupKeep (((withUnit 31 (fun x => { x with stuck := [0, 1, 2] }) live2).unit 31).stuck ++ [3])).length = sensorsOf 31) ∧
    (live2.bar0Up0 = true ∧ 400 ≤ fld 0x0000_1190#32 10 0 ∧ fld 0x0000_15DC#32 10 0 ≤ 1500 ∧ 1 ≤ fld 0x0000_1190#32 19 12 ∧
      fld 0x0000_118F#32 10 0 < 400 ∧ 1500 < fld 0x0000_15DD#32 10 0 ∧ fld 0x0000_0190#32 19 12 = 0 ∧ 85 ≤ fld 0x5655#32 7 0 ∧ fld 0x5C69#32 7 0 ≤ 105 ∧
      86 ≤ fld 0x5655#32 15 8 ∧ fld 0x5C69#32 15 8 ≤ 92 ∧ bit 0x5A32_0001#32 0 = true ∧ fld 0x5A32_0001#32 31 16 = 0x5A32 ∧ live2.pwr.rstAt = none ∧
      bit 0x5A32_0000#32 0 = false ∧ fld 0x0000_0001#32 31 16 ≠ 0x5A32) := by
  refine ⟨?_, ?_, ?_, ?_, ?_, ?_⟩ <;> decide +kernel

/-- `live2` between frames with PMB_CFG as given. -/
def polling (h : Nat) (v : W32) : State := atBoundary h { live2 with side := { live2.side with pmbCfg := v, pmbExtra := false } }

theorem witness_SidebandAndPromenade :
    (live2.phase ≠ .off ∧ { live2 with phase := .off }.phase = .off ∧ live2.groundsUp = true ∧ live2.live = true ∧ live2.lodge.lc = 1 ∧
      { live2.lodge with lc := 2 }.lc ≠ 1 ∧ { live2.lodge with lc := 2 }.lc ≠ 3) ∧
    (let s := polling 50000 0x0020#32
     s.live = true ∧ s.clk.slot = none ∧ s.hfn % 50000 = 0 ∧ fld s.side.pmbCfg 11 8 = 0 ∧ fld (polling 50000 0x0120#32).side.pmbCfg 11 8 = 1 ∧
     (polling 50001 0x0120#32).hfn % 50000 ≠ 0 ∧ s.side.pmbExtra = false ∧
     fld (polling 50000 0x0120#32).side.pmbCfg 6 0 = 0x20) ∧
    (let s := atBoundary 1000 { live2 with mods := [[⟨17, false⟩, ⟨16, false⟩]] }
     s.live = true ∧ s.clk.slot = none ∧ 16 < (s.module 0 0).retries ∧ (s.module 0 0).retraining = false ∧ 1 < (s.mods.getD 0 []).length ∧
     (s.module 0 1).retraining = false ∧ (s.module 0 1).retries ≤ 16) ∧
    (let s := atBoundary 1000 { shadowing 1 [] with mods := [[⟨17, false⟩]] }
     let u := count none 4 1 1 { s with mods := modifyAt s.mods 0 fun ms => modifyAt ms 0 fun x => { x with retraining := true } }
     u.connUp 0 = false ∧ u.quadDies 0 = [1]) ∧
    (live2.flushing = false ∧ { live2 with pwr := { live2.pwr with flush := some .pfail } }.flushing = true) ∧
    (live2.bar0Up0 = true ∧ 0x08 ≤ fld 0x0808#32 6 0 ∧ fld 0x0177#32 6 0 ≤ 0x77 ∧ fld 0x0808#32 11 8 ≤ 8 ∧ fld 0x0177#32 6 0 + fld 0x0177#32 11 8 ≤ 0x78 ∧
      fld 0x0107#32 6 0 < 0x08 ∧ 0x77 < fld 0x0078#32 6 0 ∧ 8 < fld 0x0908#32 11 8 ∧ 0x78 < fld 0x0277#32 6 0 + fld 0x0277#32 11 8) := by
  refine ⟨?_, ?_, ?_, ?_, ?_, ?_⟩ <;> decide +kernel

end Sys2Proof.Tests
end

