-- ==== Sys2Proof/Tests/Slice0.lean ====
section
/-! SUPPORT. The smoke test of `WellFormed`, one ill-formed command for each check, and small tests whose expected values stand in
the spec's worked examples. -/

namespace Sys2Proof.Tests
open Sys2Proof Sys2Proof.Machine
set_option Elab.async false -- one proof at a time: the kernel evaluations below would each hold a thread

/-! ## Ill-formed commands -/

/-- Units, connections and sensors (R322, R469). -/
theorem test_illFormed_units :
    ([.bootStepTimeout 48, .diePowerThrottle ⟨32, 0⟩, .thermalStepDown 48, .thermalTrip 48, .sensorStuck 48 0, .sensorStuck 0 4,
      .promenadeRetrain 47 0 0 [] [], .moduleRetrainDone 47 0, .uartRx 2 0#8 true] : List Instr).all (fun i => !i.wf) = true := by decide

/-- Ring pairs, vectors, BAR0 accesses and BAR2 accesses (R270, R272). -/
theorem test_illFormed_host :
    ([.ringDb 0 8 0#32, .ringDb 1 64 0#32, .ringCqDb 0 8 0#32, .ringDisable 0 8 0#32, .ringEnable 1 64 0#32, .descriptorFetch 0 8 none,
      .msixModTimer 1 (some 64), .msixUnmask 0 16, .msixUnmask 1 64, .bar0BadAccess 0 true 8 4, .bar2Read 0 0 4, .bar2Write 0 0 [],
      .bar2WaitExpiry 0, .vfEnableSet 13] : List Instr).all (fun i => !i.wf) = true := by decide

/-- Register blocks and numbered registers (R272). -/
theorem test_illFormed_registers :
    ([.registerWrite 0 0x80000 0#32, .hfnLoRead 1 0x80000, .corpusCfgWrite 0 0 0#32, .corpusCfgWrite 1 3 0#32, .clipLimitWrite 0 0#32,
      .t2WindowWrite 0 0 0#32, .t2WindowWrite 1 3 0#32, .bar2WinWrite 0 0#32, .flashCfgWrite 4 0#32, .ringConfigWrite 0 0 8 0#32,
      .ringConfigWrite 0 8 0 0#32, .eqCtlWrite 0 4 0#32, .fabricRegWrite 0x900 0#32, .fabricRegWrite 0x801 0#32, .mapCfgWrite 0xA00 0#32,
      .shareRegWrite 0xAC0 0#32, .integRegWrite 0xC50 0#32] : List Instr).all (fun i => !i.wf) = true := by decide

/-- Engines, tensor arrays, jobs and merge units. -/
theorem test_illFormed_engines :
    ([.tileClaim 0 0 24, .steal 24 0 0 0, .steal 0 48 0 0, .steal 0 0 24 0, .steal 0 0 0 48, .laneDrain 0 0 24, .rerankBlock 0 [] 24 0,
      .rerankBlock 0 [] 0 4, .tensorSteal 0 24 0 0 0, .tensorSteal 0 0 4 0 0, .mergePassStart 0 ⟨0, [], []⟩,
      .mergePassStart 0 ⟨16, [], []⟩, .queryEncode ⟨0, 24, 0⟩, .queryEncode ⟨0, 0, 4⟩, .shadowExecution 0 24 0 ⟨0#32, []⟩ ⟨0#32, []⟩ [] 0, .shadowExecution 0 0 52 ⟨0#32, []⟩ ⟨0#32, []⟩ [] 0,
      .arbitration 0 24 0 ⟨0#32, []⟩ [] 0] : List Instr).all (fun i => !i.wf) = true := by decide
theorem test_illFormed_block : Instr.wf (.rerankBlock 0 (List.replicate 257 0) 0 0) = false := by decide +kernel

/-- Flash dies, stripes and temperatures (R232, R236). -/
theorem test_illFormed_flash :
    ([.ftlReplay ⟨[⟨2, 64, ⟨0, 0, 1, 1, 1, 0, 0⟩, true⟩], 1, 1, 1, false, 0, 0, 0, 0, 0⟩,
      .ftlReplay ⟨[⟨0, 32, ⟨0, 0, 1, 1, 1, 0, 0⟩, true⟩], 1, 1, 1, false, 0, 0, 0, 0, 0⟩, .programComplete 0 64 0, .programComplete 0 0 16, .programFailGc 0 0 0 1024, .programFailUpdate 0 0 0 1024, .dieRetire 1024,
      .flashTempPoll (List.replicate 1025 0) []] : List Instr).all (fun i => !i.wf) = true := by decide +kernel

/-- Ports, classes, lasers, links and nodes (R323, R330). -/
theorem test_illFormed_fabric :
    ([.jfpPacketReceive 20 ⟨true, true, true, true, 0, false, []⟩, .ackonly 0 5 0 0 false, .ackonly 0 0 20 0 false, .jfpRto 0 5 0,
      .jfpRto 0 0 20, .pfcFrame 20 0 true, .pfcFrame 0 8 true, .pfcWatchdog 20 0, .mkpdu 20 0 [], .mkpdu 0 2 [], .sakDerive 20 0 true,
      .sakDerive 0 2 true, .arpNd 20 [], .laserInputLow 20 0, .laserInputLow 0 2, .portBerDegraded 20, .linkUp 20 0, .linkUp 0 16,
      .linkDown 20 0, .linkDown 0 16, .announce 20 0] : List Instr).all (fun i => !i.wf) = true := by decide

/-- The node number 0xFFFF is no node (R330). -/
theorem test_illFormed_nodes :
    ([.append 0xFFFF 0 0 0 [], .appendAck 0xFFFF 0 0, .heartbeat 0xFFFF 0 0, .voteReq 0xFFFF 0 0 0, .vote 0xFFFF 0 true,
      .propose 0xFFFF 0 (.draining 0), .proposeResult 0xFFFF 0 0 0, .entries 0xFFFF 0 [], .fetch 0xFFFF 0, .handoff 0xFFFF ⟨0, 0, 0⟩ 0 0 [] true,
      .handoffAck 0xFFFF ⟨0, 0, 0⟩ 0, .moveDone 0xFFFF ⟨0, 0, 0⟩, .holdClaim 0xFFFF ⟨0, 0, 0⟩, .statePull 0xFFFF ⟨0, 0, 0⟩ 0,
      .rsDone 0xFFFF 0 0 0 [], .cutQuery 0xFFFF 0 0 [], .cutReady 0xFFFF 0 0 true, .suspendReport 0xFFFF, .rejoinLimit 0xFFFF]
      : List Instr).all (fun i => !i.wf) = true := by decide

/-- Well-formed commands at the last value of their ranges. -/
theorem test_wellFormed :
    ([.bootStepTimeout 47, .ringDb 0 7 0#32, .ringDb 12 63 0#32, .msixUnmask 0 15, .bar0BadAccess 0 true 8 8, .registerWrite 0 0x7FFFC 0#32,
      .fabricRegWrite 0x8FC 0#32, .vfEnableSet 12, .linkUp 19 15, .heartbeat 0xFFFE 0 0, .tileClaim 0 0 23, .mergePassStart 11 ⟨15, [], []⟩]
      : List Instr).all Instr.wf = true := by decide

/-! ## The spec's worked examples -/

/-- The example under R36: origin 1,800,000,000 s, PTP time 1,800,007,200.000013 s. A frame ends at or before that time exactly when
its end is the boundary of HFN 360,000,000; the next boundary carries the number one higher. -/
theorem test_hfn_of_time :
    let c := { Clock.reset with originLo := 1800000000#32, originHi := 0#32 }
    c.jumpTo 1800007200000000000 = 0x15752A00 ∧ c.jumpTo 1800007200000013000 = 0x15752A01 := by decide

/-- The example under R91: at u = 0.78, 0.92 and 1.0 the governor grants 16, 13 and 11 units. -/
theorem test_governor :
    let s := { live0 with scan := { live0.scan with
      permitEff := 0x0024_0010#32, st := modifyAt live0.scan.st 0 fun k => { k with pBase := 6, pIf := 20, pBf := 14 } } }
    s.govern 0 2500000 = ⟨16, false, 2500000⟩ ∧ s.govern 0 2950000 = ⟨13, true, 2950000⟩ ∧ s.govern 0 3200000 = ⟨11, true, 3200000⟩ := by decide +kernel

/-- R92: a full-slot burst of 812 cycles runs floor(804 / 32) passes, and floor(687 / 32) on a refreshed bank. -/
theorem test_burst_passes : burstPasses 812 0 = 25 ∧ burstPasses 812 117 = 21 ∧ burstPasses 406 0 = 12 := by decide

/-- The example under R130: ROW_OFF(100), the full extent, and the entries that fit 48 KiB. -/
theorem test_result_extent :
    rowOff 100 = 1600 ∧ extent true 512 100 100 = 52800 ∧ rowOff 93 = 1536 ∧ extent true 512 93 93 = 49152 ∧ extent true 512 94 94 = 49664 ∧
    fitEntries true 512 49152 100 = 93 := by decide

/-- The example at the end of *Descriptor and Completion Formats*: the status record of query 1. -/
theorem test_status_record :
    statusRecord .short flagWidened 87 100 0 0 48 0x15752BA0 0 0 =
      [0x01, 0x00, 0x04, 0x00, 0x57, 0x00, 0x64, 0x00, 0x00, 0x00, 0x00, 0x00, 0x30, 0x00, 0x00, 0x00, 0xA0, 0x2B, 0x75, 0x15, 0x00, 0x00, 0x00,
       0x00].map (BitVec.ofNat 8) ++ zeros 8 := by decide

/-- The same example: BAD_FIELD comes first under R301 among the four statuses. -/
theorem test_first_status : firstStatus [.ok, .short, .trunc, .badField] = .badField := by decide

/-- R126: the empty entry. -/
theorem test_empty_entry :
    emptyEntry true = List.replicate 8 0xFF#8 ++ [0x00#8, 0x00#8, 0x80#8, 0x7F#8, 1#8, 0#8, 0#8, 0#8] := by decide

/-- The example under R69: 1,024 bytes, and with a parameter block of 34 bytes 1,058, hence strides of 16 and 17 units. -/
theorem test_vector_stride :
    recordBytes 1024 0 64 1 = 1024 ∧ recordBytes 1024 0 64 0 = 1058 ∧ (1058 + 63) / 64 = 17 := by decide

/-- Rounding to nearest even and the exact value of binary32: 1 / 3 is 0x3EAAAAAB, 2^24 + 1 rounds to 2^24, 0.5 and 1.5 round to
0 and 2. -/
theorem test_float :
    F32.div F32.one (F32.ofInt 3) = 0x3EAAAAAB#32 ∧ F32.ofInt (2 ^ 24 + 1) = 0x4B800000#32 ∧
    (F32.val 0x3F000000#32).toIntRne = 0 ∧ (F32.val 0x3FC00000#32).toIntRne = 2 := by decide +kernel

/-- The example under R144: group 0 of −8.1 to 12.5 needs 20.6 / 254 and is the widest; group 1 of −1.1 to 0.9. The scale S2 rounds up,
every code of the widest group stays within −128 to 127, and the ends of its range code to the ends of the code range. -/
theorem test_per_vector :
    (codePerVector 0 2 [0xC101999A#32, 0x41480000#32, 0xBF8CCCCD#32, 0x3F666666#32]).map (fun c => (c.codes.take 1, c.scaleCodes.take 1))
      = some ([-128], [0x7E]) := by decide +kernel

/-- The example of the shares: in a slot in which ST0 grants 768 permits, PV0 and PV1 with 700 and 300 banks waiting have 576 and 96
guaranteed, and the 96 unreserved go by (b + 1) / weight: 72 to PV0 and 24 to PV1. -/
def lend : Nat → Qos → Qos
  | 0, x => x
  | n + 1, x => match x.pick .permit 0 [(0, 0), (1, 0)] with
    | some (p, b) => lend n (x.charge .permit 0 p 1 b)
    | none => x

theorem test_shares :
    let x := { live0.qos with weightEff := [3#32, 1#32], shares := [⟨.permit, 0, 0, 576, 700, 576, 0⟩, ⟨.permit, 0, 1, 96, 300, 96, 0⟩] }
    (lend 96 x).shares.map (fun y => (y.u, y.b)) = [(648, 72), (120, 24)] := by decide +kernel

/-- The example under R283: RING_DB 63 is accepted, RING_DB 2 after it too, RING_DB 2 again has no effect, and RING_DB 70 halts the
ring with SQ_DB_RANGE and HALT_INDEX 70. -/
theorem test_doorbells :
    let s0 := modRing 1 0 (fun x => { x with ctl := x.ctl ||| 1#32 }) live0
    let s1 := doRingDb 1 0 63#32 s0
    let s2 := doRingDb 1 0 2#32 (modRing 1 0 (fun x => { x with sqHead := 63 }) s1)
    let s3 := doRingDb 1 0 70#32 (doRingDb 1 0 2#32 s2)
    (s1.ring 1 0).sqTail = 63 ∧ (s1.ring 1 0).halted = false ∧ (s2.ring 1 0).sqTail = 2 ∧ (s2.ring 1 0).halted = false ∧
    (s3.ring 1 0).halted = true ∧ (s3.ring 1 0).haltCause = 1 ∧ (s3.ring 1 0).haltIndex = 70 := by decide +kernel

/-- The example under R468: at 1,180, 1,152 and 1,124 W the level rises to 3, at 1,096 W it is held. -/
theorem test_cap_levels :
    let p := { live0.pwr with cap := 0x0001_444C#32 }
    ([1180, 1152, 1124, 1096].foldl (fun p w => capSlot w p) p).level = 3 ∧ capUnits 3 = 10 := by decide +kernel

/-- The example under R481: straps of 0x15 are valid; bit 7 set, or bits 5 and 4 above 1, are not. -/
theorem test_straps : strapsOk 0x15#8 = true ∧ strapsOk 0x95#8 = false ∧ strapsOk 0x25#8 = false := by decide

/-- The example of the mailbox: the word 0x0100000100800000 is command 0x01 with argument 0x1_0080_0000. -/
theorem test_mailbox_word : wordCmd 0x0100000100800000 = 1 ∧ wordArg 0x0100000100800000 = 0x100800000 := by decide

/-- The check value of CRC-32C: "123456789" gives 0xE3069283. -/
theorem test_crc : crc32c ([0x31, 0x32, 0x33, 0x34, 0x35, 0x36, 0x37, 0x38, 0x39].map (BitVec.ofNat 8)) = 0xE3069283 := by decide +kernel

/-- SHA3-512 of the empty message begins A6 9F 73 CC (FIPS 202). -/
theorem test_sha3 : (sha3_512 []).take 4 = [0xA6#8, 0x9F#8, 0x73#8, 0xCC#8] := by decide +kernel

/-- A step takes the command in front and leaves the others waiting. -/
theorem test_step_takes_front :
    (match Machine.step { live0 with pending := [.groundsHeartbeat, .pmbAlert] } with
     | .next t => t.pending | _ => []) = [.pmbAlert] := by decide +kernel

end Sys2Proof.Tests
end

/-! O9: writes to CLIP_LIMIT, and what the end of a clipping window does to the corpora of the node (R150, R151, R153). -/

namespace Sys2Proof.Machine

/-- Ties the model's list update to the library's, whose lemmas then apply to it. -/
theorem modifyAt_eq_modify {α : Type} (xs : List α) (i : Nat) (f : α → α) : modifyAt xs i f = xs.modify i f := by
  induction xs generalizing i with
  | nil => cases i <;> rfl
  | cons x xs ih =>
    cases i with
    | zero => rfl
    | succ i => exact congrArg (x :: ·) (ih i)

/-! ## One corpus at the end of a window -/

/-- The test of R151: a group over the limit, in calibrated mode, sets the drift mark and shows the worst group. -/
def Corpus.markDrift (c : Corpus) : Corpus :=
  match c.cur, worstGroup (overGroups c) with
  | some b, some (g, _, _) => if b.qmode = 1 then { c with drift := true, worst := g } else c
  | _, _ => c

/-- A corpus after the end of a window at the boundary of frame `hfn`: a complete window is tested and published; complete or not, the
limit as written is in force from here on (R153). -/
def Corpus.endWindow (hfn : Frame) (c : Corpus) : Corpus :=
  if hfn ≤ c.clipFrom then { c with clipEff := c.clip }
  else { c.markDrift with pub := c.win, win := [], clipEff := c.clip, clipFrom := hfn }

theorem worstGroup_eq_none_iff (xs : List (Nat × Nat × Nat)) : worstGroup xs = none ↔ xs = [] := by
  cases xs with
  | nil => simp [worstGroup]
  | cons x xs =>
    cases h : worstGroup xs with
    | none => simp [worstGroup, h]
    | some y => simp only [worstGroup, h]; split <;> simp

theorem Corpus.markDrift_of_over {c : Corpus} {b : Bundle} {g n k : Nat} (hb : c.cur = some b)
    (hw : worstGroup (overGroups c) = some (g, n, k)) (hq : b.qmode = 1) : c.markDrift = { c with drift := true, worst := g } := by
  simp [markDrift, hb, hw, hq]

theorem Corpus.markDrift_of_not_over {c : Corpus}
    (h : ∀ x, worstGroup (overGroups c) = some x → ∀ b, c.cur = some b → b.qmode ≠ 1) : c.markDrift = c := by
  unfold markDrift
  split
  · next b g n k hb hw => exact if_neg (h _ hw b hb)
  · rfl

/-- The mark is set exactly where some group is over the limit in calibrated mode; a mark from before stays. -/
theorem Corpus.markDrift_drift (c : Corpus) :
    c.markDrift.drift = (c.drift || (decide (overGroups c ≠ []) && c.cur.any (·.qmode == 1))) := by
  cases hb : c.cur with
  | none =>
    rw [markDrift_of_not_over (by simp [hb])]
    simp
  | some b =>
    cases hw : worstGroup (overGroups c) with
    | none =>
      rw [markDrift_of_not_over (by simp [hw])]
      simp [(worstGroup_eq_none_iff _).1 hw]
    | some x =>
      have hne : overGroups c ≠ [] := fun h => by simp [(worstGroup_eq_none_iff _).2 h] at hw
      by_cases hq : b.qmode = 1
      · simp [markDrift_of_over hb hw hq, hq, hne]
      · rw [markDrift_of_not_over (by simp [hb, hq])]
        simp [hq]

/-- The test leaves the limit as written. -/
theorem Corpus.markDrift_clip (c : Corpus) : c.markDrift.clip = c.clip := by
  unfold markDrift
  split
  · split <;> rfl
  · rfl

theorem Corpus.endWindow_of_lt {hfn : Frame} {c : Corpus} (h : c.clipFrom < hfn) :
    c.endWindow hfn = { c.markDrift with pub := c.win, win := [], clipEff := c.clip, clipFrom := hfn } :=
  if_neg (Nat.not_le.2 h)

/-! ## The end of the window on the state -/

/-- Posting an event changes no corpus. -/
theorem postEventAt_corpora (hfn : Frame) (f : Fn) (ev pv : Nat) (data : List Byte) (s : State) :
    (postEventAt hfn f ev pv data s).corpora = s.corpora := (postEventAt_keeps ..).same .corpora rfl

/-- Posting an event leaves the frame in progress. -/
theorem postEventAt_hfn (hfn : Frame) (f : Fn) (ev pv : Nat) (data : List Byte) (s : State) :
    (postEventAt hfn f ev pv data s).hfn = s.hfn := congrArg Clock.hfn ((postEventAt_keeps ..).same .clk rfl)

/-- Of the corpora the end of a pavilion's window changes its own; the event that it may post changes none. -/
theorem windowEnd_corpora (p : Nat) (s : State) :
    (windowEnd p s).corpora = modifyAt s.corpora p (Corpus.endWindow s.hfn) := by
  have to_endWindow (g : Corpus → Corpus) (h : g (s.corpus p) = (s.corpus p).endWindow s.hfn) :
      modifyAt s.corpora p g = modifyAt s.corpora p (Corpus.endWindow s.hfn) := modifyAt_congr _ _ _ _ Corpus.reset h
  unfold windowEnd
  by_cases hc : s.hfn ≤ (s.corpus p).clipFrom
  · simp only [hc, if_true, modCorpus_parts]
    exact to_endWindow _ (if_pos hc).symm
  · have hend := Corpus.endWindow_of_lt (Nat.lt_of_not_le hc)
    simp only [hc, if_false]
    split
    · next b g n k hb hw =>
      split
      · next hq =>
        simp only [modCorpus_parts, postEventAt_corpora, postEventAt_hfn, modifyAt_modifyAt]
        refine to_endWindow _ (hend.trans ?_).symm
        rw [Corpus.markDrift_of_over hb hw hq]
      · next hq =>
        refine to_endWindow _ (hend.trans ?_).symm
        rw [Corpus.markDrift_of_not_over (by simp [hb, hq])]
    · next hno =>
      refine to_endWindow _ (hend.trans ?_).symm
      rw [Corpus.markDrift_of_not_over fun x hw b hb => (hno b _ _ _ hb hw).elim]

/-- The windows of the pavilions below `n` end one after another: each corpus below `n` has its own end, the others stay as they were. -/
theorem foldl_windowEnd_corpus (n p : Nat) (s : State) :
    ((List.range n).foldl (fun s p => windowEnd p s) s).corpora[p]? =
      if p < n then s.corpora[p]?.map (Corpus.endWindow s.hfn) else s.corpora[p]? := by
  induction n with
  | zero => simp
  | succ n ih =>
    have hclk : ((List.range n).foldl (fun s p => windowEnd p s) s).hfn = s.hfn := congrArg Clock.hfn
      ((Keeps.foldl (Keeps.refl _ s) fun t q => windowEnd_keeps q t).same .clk rfl)
    rw [List.range_succ, List.foldl_append, List.foldl_cons, List.foldl_nil, windowEnd_corpora, modifyAt_eq_modify,
      List.getElem?_modify, ih, hclk]
    obtain h | rfl | h := Nat.lt_trichotomy p n
    · simp [h, h.ne', Nat.lt_succ_of_lt h]
    · simp
    · simp [h.ne, Nat.not_lt_of_gt h, Nat.not_lt.2 h]

/-- QUANT_WINDOW_END at a boundary that ends a window: the corpus of every pavilion has the end of its window. -/
theorem exec_quantWindowEnd_corpus {s : State} {p : Nat} {c : Corpus} (hlive : s.live = true) (hslot : s.clk.slot = none)
    (hhfn : s.hfn % 256 = 0) (hp : p < 12) (hc : s.corpora[p]? = some c) :
    ∃ t, exec .quantWindowEnd s = .next t ∧ t.corpora[p]? = some (c.endWindow s.hfn) := by
  refine ⟨doWindow s, rfl, ?_⟩
  have hdo : doWindow s = (List.range 12).foldl (fun s p => windowEnd p s) s := if_pos (by simp [hlive, hslot, hhfn])
  rw [hdo, foldl_windowEnd_corpus, if_pos hp, hc]
  rfl

/-! ## Writes to CLIP_LIMIT, and the statement -/

/-- A write to the CLIP_LIMIT of a VF that is up: refused for a zero field, else taken without the reserved bits (R152, R153). -/
theorem exec_clipLimitWrite {f : Fn} {s : State} (v : W32) (hf : f.val ≠ 0) (hup : s.fnUp f = true) :
    exec (.clipLimitWrite f v) s = .next (modCorpus (pvOf f) (fun c =>
      if fld v 15 0 = 0 ∨ fld v 23 16 = 0 then { c with clipReject := true } else { c with clip := v &&& 0x00FF_FFFF#32 }) s) :=
  congrArg Host.Outcome.next (if_pos (by simp [hf, hup]))

/-- Settles O9: a window end acts on each corpus by `Corpus.endWindow`, which tests with the limit in force and then takes the one
written. -/
theorem clipLimitWrites : Obligations.ClipLimitWrites := by
  unfold Obligations.ClipLimitWrites
  intro s
  refine ⟨fun f v c hf hup _ => ⟨fun hz => ?_, fun hl hm => ?_⟩, fun c lim => rfl, fun p c hlive hslot hhfn hp hc hfrom => ?_⟩
  · simp only [exec_clipLimitWrite v hf hup, modCorpus, if_pos hz]
  · simp only [exec_clipLimitWrite v hf hup, modCorpus, if_neg (not_or.2 ⟨hl, hm⟩)]
  · obtain ⟨t, hexec, ht⟩ := exec_quantWindowEnd_corpus hlive hslot hhfn hp hc
    rw [Corpus.endWindow_of_lt hfrom] at ht
    refine ⟨t, _, hexec, ht, rfl, c.markDrift_clip, rfl, c.markDrift_drift.trans ?_⟩
    cases c.cur <;> rfl

end Sys2Proof.Machine

/-! O7: the doorbells of disabled ring pairs and of a disabled event ring are ignored (R285). -/

namespace Sys2Proof.Machine

/-- The guard of the doorbells of a ring pair, as the model tests it, is `State.ringReady`. -/
theorem doorbellGuard_iff_ringReady {s : State} {f : Fn} {r : Nat} :
    (s.bar0Up f && decide (r < (s.fn f).rings.length) && (s.ring f r).enabled && !(s.ring f r).halted) = true ↔ s.ringReady f r := by
  simp [State.ringReady, State.bar0Up, and_assoc]

/-- A pair that takes no doorbells ignores RING_DB, whatever index it names. -/
theorem doRingDb_of_not_ringReady {s : State} {f : Fn} {r : Nat} (v : W32) (h : ¬ s.ringReady f r) : doRingDb f r v s = s :=
  if_neg (mt doorbellGuard_iff_ringReady.1 h)

/-- A pair that takes no doorbells ignores RING_CQ_DB, whatever index it names. -/
theorem doRingCqDb_of_not_ringReady {s : State} {f : Fn} {r : Nat} (v : W32) (h : ¬ s.ringReady f r) : doRingCqDb f r v s = s :=
  if_neg (mt doorbellGuard_iff_ringReady.1 h)

theorem not_ringReady_of_disabled {s : State} {f : Fn} {r : Nat} (h : (s.ring f r).enabled = false) : ¬ s.ringReady f r :=
  fun ⟨_, _, henabled, _⟩ => Bool.false_ne_true (h.symm.trans henabled)

/-- A disabled event ring ignores EQ_DB, whatever index it names. -/
theorem doEqDb_of_disabled {s : State} {f : Fn} (v : W32) (h : (s.fn f).eq.enabled = false) : doEqDb f v s = s :=
  if_neg (by simp [h])

/-- Settles O7: a doorbell acts only behind its guard, which a disabled pair and a disabled event ring do not pass. -/
theorem disabledDoorbells : Obligations.DisabledDoorbells := by
  unfold Obligations.DisabledDoorbells
  intro s f v
  refine ⟨fun r hring => ?_, fun heq => congrArg Host.Outcome.next (doEqDb_of_disabled v heq)⟩
  have hready : ¬ s.ringReady f r := not_ringReady_of_disabled hring
  constructor
  · exact congrArg Host.Outcome.next (doRingDb_of_not_ringReady v hready)
  · exact congrArg Host.Outcome.next (doRingCqDb_of_not_ringReady v hready)

end Sys2Proof.Machine

/-! O8: a shadow execution or an arbitration that has not begun when its wait has run out (R434). -/

namespace Sys2Proof.Machine

/-! ## What a dropped shadow releases -/

/-- Telling the queries of the batches that finish changes nothing of the integrity unit. -/
theorem settleBatches_integ (s : State) : (settleBatches s).integ = s.integ := (settleBatches_keeps s).same .integ rfl

/-- A batch stays only while it waits for its view, has work left, or is held by a scan shadow (R430). -/
theorem held_of_mem_settleBatches {s : State} {b : ScanBatch} (h : b ∈ (settleBatches s).scan.batches) :
    b.view = none ∨ (∃ i ∈ b.qids, (s.query? i).isSome = true ∧ s.scanLeft b i = true) ∨
      ∃ y ∈ s.integ.shadows, y.scan = true ∧ y.batch = b.id := by
  have hstays := (List.mem_filter.1 h).2
  simp only [Bool.not_eq_true', Bool.and_eq_false_iff, Bool.not_eq_false', Option.isSome_eq_false_iff, Option.isNone_iff_eq_none,
    List.any_eq_true, Bool.and_eq_true, beq_iff_eq] at hstays
  exact or_assoc.1 hstays

/-- Of the integrity unit, dropping a shadow changes the list of those held and no more. -/
theorem dropShadow_integ (id : Nat) (s : State) :
    (dropShadow id s).integ = { s.integ with shadows := s.integ.shadows.filter (·.id != id) } := settleBatches_integ _

/-- After a shadow is dropped, a batch stays only for its own work or for another shadow, one that is still held (R434). -/
theorem held_of_mem_dropShadow {id : Nat} {s : State} {b : ScanBatch} (h : b ∈ (dropShadow id s).scan.batches) :
    b.view = none ∨ (∃ i ∈ b.qids, (s.query? i).isSome = true ∧ s.scanLeft b i = true) ∨
      ∃ y ∈ (dropShadow id s).integ.shadows, y.scan = true ∧ y.batch = b.id := by
  rw [dropShadow_integ]
  exact held_of_mem_settleBatches h

/-! ## A check whose wait has run out -/

/-- The expiry of the wait drops the check and sets SHADOW_DROP. -/
theorem doShadowExpiry_of_overdue {s : State} {id : Nat} {x : Shadow} (hlive : s.live = true)
    (hx : s.integ.shadows.find? (·.id == id) = some x) (hover : s.shadowFresh x = false) :
    doShadowExpiry id s = modInteg (fun y => { y with shadowDrop := true }) (dropShadow id s) := by
  simp [doShadowExpiry, hx, hlive, hover]

/-- Only a check whose wait has not run out is among those that may begin on a unit. -/
theorem shadowFresh_of_mem_checksFor {s : State} {die phys : Nat} {x : Shadow} (h : x ∈ s.checksFor die phys) : s.shadowFresh x = true := by
  have hable : x ∈ s.integ.shadows.filter (s.checkOn die phys) :=
    (List.mem_append.1 h).elim List.mem_of_mem_filter List.mem_of_mem_filter
  have hon : s.checkOn die phys x = true := (List.mem_filter.1 hable).2
  simp only [State.checkOn, Bool.and_eq_true] at hon
  exact hon.1.1

/-- A slot is granted only to a check that may begin on the unit. -/
theorem mem_checksFor_of_checkGrant {s : State} {x : Shadow} {die phys e : Nat} (h : s.checkGrant x die phys = some e) :
    x ∈ s.checksFor die phys := by
  unfold State.checkGrant at h
  split at h
  · split at h
    · next hgrant =>
      have hhead := eq_of_beq (Bool.and_eq_true_iff.1 hgrant).2
      exact List.mem_of_mem_filter (List.mem_of_head? hhead)
    · cases h
  · cases h

/-- A check whose wait has run out is granted no slot. -/
theorem checkGrant_of_overdue {s : State} {x : Shadow} (hover : s.shadowFresh x = false) (die phys : Nat) :
    s.checkGrant x die phys = none :=
  Option.eq_none_iff_forall_ne_some.2 fun _ hgrant =>
    Bool.false_ne_true (hover.symm.trans (shadowFresh_of_mem_checksFor (mem_checksFor_of_checkGrant hgrant)))

section
variable {s : State} {id : Nat} {x : Shadow} (hx : s.integ.shadows.find? (·.id == id) = some x) (hover : s.shadowFresh x = false)
include hx hover

/-- A shadow execution whose wait has run out does not begin. -/
theorem doShadow_of_overdue (die phys : Nat) (prim shad : JobVals) (bounds : List F32) (pos : Nat) :
    doShadow id die phys prim shad bounds pos s = s := by
  simp [doShadow, hx, checkGrant_of_overdue hover]

/-- An arbitration whose wait has run out does not begin, nor is its disagreement settled as one that no arbitration can settle. -/
theorem doArbitrate_of_overdue (die phys : Nat) (vals : JobVals) (bounds : List F32) (pos : Nat) :
    doArbitrate id die phys vals bounds pos s = s := by
  simp only [doArbitrate, hx]
  split
  · simp [hover, checkGrant_of_overdue hover]
  · rfl

end

/-- Settles O8: the expiry is `dropShadow` with SHADOW_DROP set; what settles the batches after it leaves none that only the dropped shadow
held, and the arbiter of slots grants none to a check whose wait has run out. -/
theorem overdueShadows : Obligations.OverdueShadows := by
  unfold Obligations.OverdueShadows
  intro s id x hlive hx hover
  refine ⟨rfl, ?_, fun die phys prim shad bounds pos => ⟨?_, ?_⟩⟩
  · refine ⟨_, congrArg Host.Outcome.next (doShadowExpiry_of_overdue hlive hx hover), rfl, ?_, ?_, fun b hb => ?_⟩
    · simp only [modInteg_parts, dropShadow_integ]
    · simp only [modInteg_parts, dropShadow_integ]
    · exact held_of_mem_dropShadow hb
  · exact congrArg Host.Outcome.next (doShadow_of_overdue hx hover die phys prim shad bounds pos)
  · exact congrArg Host.Outcome.next (doArbitrate_of_overdue hx hover die phys prim bounds pos)

end Sys2Proof.Machine

/-! O10: writes to PWR_CAP, THERM_CFG and RESET_CTL, when they take effect, and the host node reset (R459, R475). -/

namespace Sys2Proof.Machine

/-! ## The writes -/

/-- A write to PWR_CAP while BAR0 of PF0 answers: taken in range without the reserved bits, else refused (R475). -/
theorem exec_pwrCapWrite {s : State} (v : W32) (hup : s.bar0Up0 = true) :
    exec (.pwrCapWrite false v) s = .next (modPwr (fun p =>
      if 400 ≤ fld v 10 0 ∧ fld v 10 0 ≤ 1500 ∧ 1 ≤ fld v 19 12 then { p with cap := v &&& 0x000F_F7FF#32 }
      else { p with cfgReject := true }) s) := by
  refine congrArg Host.Outcome.next ?_
  simp only [writePwr, hup, inRange, Bool.and_eq_true, decide_eq_true_eq, and_assoc, if_true, Bool.false_eq_true, if_false]
  split <;> rfl

/-- A write to THERM_CFG, likewise. -/
theorem exec_thermCfgWrite {s : State} (v : W32) (hup : s.bar0Up0 = true) :
    exec (.pwrCapWrite true v) s = .next (modPwr (fun p =>
      if 85 ≤ fld v 7 0 ∧ fld v 7 0 ≤ 105 ∧ 86 ≤ fld v 15 8 ∧ fld v 15 8 ≤ 92 then { p with thermCfg := v &&& 0xFFFF#32 }
      else { p with thermReject := true }) s) := by
  refine congrArg Host.Outcome.next ?_
  simp only [writePwr, hup, inRange, Bool.and_eq_true, decide_eq_true_eq, and_assoc, if_true]
  split <;> rfl

/-- RESET_CTL ignores a write without NODE_RST or with another key (R475). -/
theorem writeReset_of_ignored {v : W32} (s : State) (h : bit v 0 = false ∨ fld v 31 16 ≠ 0x5A32) : writeReset v s = s := by
  refine if_neg fun hguard => ?_
  obtain ⟨⟨-, hrst⟩, hkey⟩ := (Bool.and_eq_true_iff.1 hguard).imp_left Bool.and_eq_true_iff.1
  exact h.elim (fun h0 => Bool.false_ne_true (h0.symm.trans hrst)) fun hne => hne (eq_of_beq hkey)

/-- An accepted write to RESET_CTL with no reset pending notes the frame from which the 1 ms counts (R475). -/
theorem writeReset_of_accepted {s : State} {v : W32} (hup : s.bar0Up0 = true) (hrst : bit v 0 = true) (hkey : fld v 31 16 = 0x5A32)
    (hnone : s.pwr.rstAt = none) : writeReset v s = modPwr (fun p => { p with rstAt := some s.hfn }) s := by
  simp [writeReset, modPwr, hup, hrst, hkey, hnone]

/-! ## The slot boundary that puts the words in force -/

/-- The measurement of a slot latches PWR_CAP and THERM_CFG as they stand. -/
theorem modPwr_capSlot_latches (w : Nat) (s : State) :
    (modPwr (capSlot w) s).words.pwr = (s.words.pwr.1, s.words.pwr.1) ∧
      (modPwr (capSlot w) s).words.therm = (s.words.therm.1, s.words.therm.1) := by
  obtain ⟨hcap, hcapEff, htherm, hthermEff⟩ := capSlot_words w s.pwr
  exact ⟨Prod.ext hcap hcapEff, Prod.ext htherm hthermEff⟩

/-- Without an error in its SRAM the Lodge causes no reset. -/
theorem lodgeFault_none (s : State) : lodgeFault none s = s := rfl

/-- A slot boundary with no fault of the Lodge puts PWR_CAP and THERM_CFG in force as they were written: `capSlot` latches them, and no
other part of the boundary writes either. -/
theorem doSlot_latches_powerWords {x : SlotIn} {s : State} (hlodge : x.lodge = none) (hup : s.phase.up = true)
    (hslot : s.clk.slot ≠ some 15) :
    (doSlot x s).words.pwr = (s.pwr.cap, s.pwr.cap) ∧ (doSlot x s).words.therm = (s.pwr.thermCfg, s.pwr.thermCfg) := by
  unfold doSlot
  rw [if_pos (by simp [hup, hslot]), hlodge]
  extract_lets s1 c1 c2 s2 s3 s4 s5 s6
  have hlatch : s3.words.pwr = (s.pwr.cap, s.pwr.cap) ∧ s3.words.therm = (s.pwr.thermCfg, s.pwr.thermCfg) := by
    have hopen : s1.pwr = s.pwr := by
      unfold s1
      split
      · exact (openFrame_keeps s).same .pwr rfl
      · rfl
    have hsample : (sampleAll x s2).words = s2.words := (sampleAll_keeps x s2).same .words rfl
    have hs3 := modPwr_capSlot_latches x.pkgW (sampleAll x s2)
    rw [hsample] at hs3
    rw [← hopen]
    exact hs3
  clear_value s3
  have h4 : s4.words = s3.words := by
    unfold s4
    split <;> rfl
  clear_value s4
  have h5 : s5.words = s4.words := (Keeps.foldl (Keeps.refl _ _) fun t n => stackSample_keeps x t n).same .words rfl
  clear_value s5
  have h6 : s6.words = s5.words :=
    ((Keeps.foldl (Keeps.refl _ _) fun t r => noteRetries_keeps t r).same .words rfl).trans ((flushSlot_keeps _).same .words rfl)
  clear_value s6
  have hafter : (noteStalls (fabSlot (workSlot x s6))).words = s3.words := calc
    _ = (fabSlot (workSlot x s6)).words := (noteStalls_keeps _).same .words rfl
    _ = (workSlot x s6).words := (fabSlot_keeps _).same .words rfl
    _ = s6.words := (workSlot_keeps x s6).same .words rfl
    _ = s3.words := h6.trans (h5.trans h4)
  rw [lodgeFault_none, hafter]
  exact hlatch

/-! ## The host node reset -/

/-- Within 1 ms of the accepted write the host node reset does not begin (R475). -/
theorem doHostReset_of_early {b : BootIn} {s : State} {f : Frame} (hat : s.pwr.rstAt = some f) (hearly : s.hfn < f + 50) :
    doHostReset b s = s := by
  simp [doHostReset, hat, hearly]

/-- From 1 ms on the node is reset and boots, unless a flush holds the reset back (R459, R475). -/
theorem doHostReset_of_due {b : BootIn} {s : State} {f : Frame} (hat : s.pwr.rstAt = some f) (hdue : f + 50 ≤ s.hfn)
    (hup : s.phase.up = true) (hflush : s.pwr.flush = none) : doHostReset b s = boot b (nodeReset 2 false s) := by
  simp [doHostReset, hat, hdue, hup, hflush]

/-- A node that was reset and boots has the clock of the reset state, no work, and the cause of that reset. -/
theorem boot_nodeReset (b : BootIn) (cause : Nat) (cfg : Bool) (s : State) :
    (boot b (nodeReset cause cfg s)).clk = Clock.reset ∧ (boot b (nodeReset cause cfg s)).works = [] ∧
      (boot b (nodeReset cause cfg s)).pwr.cause = cause :=
  have hboot := boot_keeps b (nodeReset cause cfg s)
  ⟨hboot.same .clk rfl, hboot.same .works rfl, congrArg Power.cause (hboot.same .pwr rfl)⟩

/-- Settles O10: each write acts as its guard says, `capSlot` latches the words at the slot boundary, and the host node reset waits for
the 50 frames. -/
theorem powerRegisterWrites : Obligations.PowerRegisterWrites := by
  unfold Obligations.PowerRegisterWrites
  intro s
  refine ⟨fun v hup => ⟨fun hok => ?_, fun hbad => ?_, fun hok => ?_, fun hbad => ?_, fun hignored => ?_, fun hrst hkey hnone => ?_⟩,
    fun x hlodge hup hslot => ?_, fun b f hat => ⟨fun hearly => ?_, fun hdue hup hflush => ?_⟩⟩
  · simp only [exec_pwrCapWrite v hup, if_pos hok, modPwr]
  · simp only [exec_pwrCapWrite v hup, if_neg (by omega : ¬(400 ≤ fld v 10 0 ∧ fld v 10 0 ≤ 1500 ∧ 1 ≤ fld v 19 12)), modPwr]
  · simp only [exec_thermCfgWrite v hup, if_pos hok, modPwr]
  · simp only [exec_thermCfgWrite v hup,
      if_neg (by omega : ¬(85 ≤ fld v 7 0 ∧ fld v 7 0 ≤ 105 ∧ 86 ≤ fld v 15 8 ∧ fld v 15 8 ≤ 92)), modPwr]
  · exact congrArg Host.Outcome.next (writeReset_of_ignored s hignored)
  · exact congrArg Host.Outcome.next (writeReset_of_accepted hup hrst hkey hnone)
  · obtain ⟨hcap, htherm⟩ := doSlot_latches_powerWords hlodge hup hslot
    exact ⟨doSlot x s, rfl, congrArg Prod.snd hcap, congrArg Prod.snd htherm, congrArg Prod.fst hcap, congrArg Prod.fst htherm⟩
  · exact congrArg Host.Outcome.next (doHostReset_of_early hat hearly)
  · exact ⟨_, congrArg Host.Outcome.next (doHostReset_of_due hat hdue hup hflush), boot_nodeReset b 2 false s⟩

end Sys2Proof.Machine

/-! O11: writes to PMB_CFG, GPIO_DIR and GPIO_OUT, and the poll that the accepted PMB_CFG sets up (R486, R490, R497). -/

namespace Sys2Proof.Machine

/-! ## The writes -/

/-- A write to PMB_CFG while BAR0 of PF0 answers: taken without the reserved bits where BASE and the last address are addresses of
regulators and COUNT is at most 8, else refused (R497). -/
theorem exec_pmbCfgWrite {s : State} (v : W32) (hup : s.bar0Up0 = true) :
    exec (.pmbCfgWrite v) s = .next (
      if 0x08 ≤ fld v 6 0 ∧ fld v 6 0 ≤ 0x77 ∧ fld v 11 8 ≤ 8 ∧ fld v 6 0 + fld v 11 8 ≤ 0x78 then
        { s with side := { s.side with pmbCfg := v &&& 0x0F7F#32 } }
      else { s with side := { s.side with cfgReject := true } }) := by
  refine congrArg Host.Outcome.next ?_
  simp only [writePmb, hup, inRange, Bool.and_eq_true, decide_eq_true_eq, and_assoc, if_true]

/-- A write to GPIO_DIR or GPIO_OUT while BAR0 of PF0 answers sets its 16 bits (R490). -/
theorem exec_gpioWrite {s : State} (out : Bool) (v : W32) (hup : s.bar0Up0 = true) :
    exec (.gpioWrite out v) s = .next { s with side :=
      if out then { s.side with gpioOut := v &&& 0xFFFF#32 } else { s.side with gpioDir := v &&& 0xFFFF#32 } } :=
  congrArg Host.Outcome.next (if_pos hup)

/-! ## The poll -/

/-- What is found for an address, or stands in for it where nothing is, carries that address. -/
theorem find_getD_addr (regs : List RegRead) (a : Nat) : ((regs.find? (·.addr == a)).getD ⟨a, none⟩).addr = a := by
  cases h : regs.find? (·.addr == a) with
  | none => rfl
  | some r =>
    have hfound := List.find?_some h
    exact eq_of_beq hfound

/-- A poll that is due asks the regulators at BASE to BASE + COUNT - 1, in that order, whatever they answer (R486). -/
theorem doPoll_addrs {s : State} (regs : List RegRead) (hlive : s.live = true) (hslot : s.clk.slot = none)
    (hdue : s.hfn % 50000 = 0 ∨ s.side.pmbExtra = true) {base num : Nat} (hbase : fld s.side.pmbCfg 6 0 = base)
    (hnum : fld s.side.pmbCfg 11 8 = num) : (doPoll regs s).side.regs.map (·.addr) = (List.range num).map (base + ·) := by
  have hguard : (s.live && s.clk.slot.isNone && (s.hfn % 50000 == 0 || s.side.pmbExtra)) = true := by
    simpa [hlive, hslot] using hdue
  unfold doPoll
  rw [if_pos hguard]
  simp only [List.map_map, hbase, hnum]
  refine List.map_congr_left fun i _ => ?_
  simp only [Function.comp_apply]
  -- withdrawing the values of a faulty reading leaves its address
  rw [apply_ite RegRead.addr, ite_self, find_getD_addr]

/-- Settles O11: the guard of the write decides between the two cases, and a poll that is due goes by the fields as written,
of which the mask takes nothing. -/
theorem pmbConfigurationWrites : Obligations.PmbConfigurationWrites := by
  unfold Obligations.PmbConfigurationWrites
  intro s v hup
  refine ⟨fun hbad => ?_, fun hlow hhigh hcount hlast => ?_, exec_gpioWrite false v hup, exec_gpioWrite true v hup⟩
  · rw [exec_pmbCfgWrite v hup, if_neg (by omega)]
  · refine ⟨_, ?_, rfl, fun regs hlive hslot hdue => ⟨_, rfl, ?_⟩⟩
    · rw [exec_pmbCfgWrite v hup, if_pos (by omega)]
    · exact doPoll_addrs (s := { s with side := { s.side with pmbCfg := v &&& 0x0F7F#32 } }) regs hlive hslot hdue
        (fld_and v _ 6 0 rfl) (fld_and v _ 11 8 rfl)

end Sys2Proof.Machine

/-! O5, O6: the frame of every command, and that every command answers a next state and leaves the queue alone. -/

namespace Sys2Proof.Machine
-- The whole text is compiled by one process of limited memory: one proof at a time keeps it small.
set_option Elab.async false

/-! ## What a frame says of one area -/

section

variable {ps : List Area} {s t : State} (k : Keeps ps s t)

include k

theorem Keeps.pending (h : ps.contains .pending = false := by rfl) : t.pending = s.pending := k.same .pending h
theorem Keeps.clk (h : ps.contains .clk = false := by rfl) : t.clk = s.clk := k.same .clk h
theorem Keeps.words (h : ps.contains .words = false := by rfl) : t.words = s.words := k.same .words h
theorem Keeps.out (h : ps.contains .out = false := by rfl) : t.out = s.out := k.same .out h
theorem Keeps.phase (h : ps.contains .phase = false := by rfl) : t.phase = s.phase := k.same .phase h
theorem Keeps.fns (h : ps.contains .fns = false := by rfl) : t.fns = s.fns := k.same .fns h
theorem Keeps.works (h : ps.contains .works = false := by rfl) : t.works = s.works := k.same .works h
theorem Keeps.lodge (h : ps.contains .lodge = false := by rfl) : t.lodge = s.lodge := k.same .lodge h
theorem Keeps.chans (h : ps.contains .chans = false := by rfl) : t.chans = s.chans := k.same .chans h
theorem Keeps.rx (h : ps.contains .rx = false := by rfl) : t.rx = s.rx := k.same .rx h
theorem Keeps.pwr (h : ps.contains .pwr = false := by rfl) : t.pwr = s.pwr := k.same .pwr h
theorem Keeps.side (h : ps.contains .side = false := by rfl) : t.side = s.side := k.same .side h
theorem Keeps.stats (h : ps.contains .stats = false := by rfl) : t.stats = s.stats := k.same .stats h
theorem Keeps.corpora (h : ps.contains .corpora = false := by rfl) : t.corpora = s.corpora := k.same .corpora h
theorem Keeps.ranges (h : ps.contains .ranges = false := by rfl) : t.ranges = s.ranges := k.same .ranges h
theorem Keeps.tier (h : ps.contains .tier = false := by rfl) : t.tier = s.tier := k.same .tier h
theorem Keeps.upd (h : ps.contains .upd = false := by rfl) : t.upd = s.upd := k.same .upd h
theorem Keeps.scan (h : ps.contains .scan = false := by rfl) : t.scan = s.scan := k.same .scan h
theorem Keeps.flash (h : ps.contains .flash = false := by rfl) : t.flash = s.flash := k.same .flash h
theorem Keeps.fab (h : ps.contains .fab = false := by rfl) : t.fab = s.fab := k.same .fab h
theorem Keeps.comp (h : ps.contains .comp = false := by rfl) : t.comp = s.comp := k.same .comp h
theorem Keeps.qos (h : ps.contains .qos = false := by rfl) : t.qos = s.qos := k.same .qos h
theorem Keeps.integ (h : ps.contains .integ = false := by rfl) : t.integ = s.integ := k.same .integ h
theorem Keeps.dies (h : ps.contains .dies = false := by rfl) : t.dies = s.dies := k.same .dies h

end

/-! ## Rules for the shapes that the meanings have -/

/-- What the answer of a command keeps, the state after it keeps. -/
theorem Keeps.of_next {ps qs : List Area} {s t u : State} (k : Keeps qs s u)
    (h : (.next u : Host.Outcome State Fault Refusal) = .next t) (hs : qs.all ps.contains = true := by rfl) : Keeps ps s t := by
  cases h
  exact k.mono hs

/-- An operation behind a guard changes no more than the operation. -/
theorem Keeps.when {ps : List Area} {s : State} {c : Bool} {f : State → State} (k : ∀ t, Keeps ps t (f t)) :
    Keeps ps s (when_ c f s) := Keeps.ite (k s) (Keeps.refl ps s)

/-- The opcodes' common admission changes no more than what it admits, and than the completion of a work item that fails. -/
theorem admitWork_keeps {ps : List Area} {op wid : Nat} {f : Work → State → State} {s : State} (k : ∀ w t, Keeps ps t (f w t))
    (hs : [Area.out, .fns, .works, .stats, .pvStats].all ps.contains = true) : Keeps ps s (admitWork op wid f s) := by
  unfold admitWork
  split
  · exact Keeps.ite (Keeps.ite (k ..) ((failWork_keeps ..).mono hs)) (Keeps.refl ..)
  · exact Keeps.refl ..

/-- Taking pins away ends the work item and changes its pages. -/
theorem unpin_keeps (w : Work) (s : State) : Keeps [.out, .fns, .works, .stats, .pvStats, .ranges] s (if tArg w.desc = 1 then
    endTier { w with done := tPages w.desc } .ok (setPins (pvOf w.fn) w.desc false s) else s) :=
  Keeps.ite (((setPins_keeps ..).mono rfl).after (endTier_keeps ..) rfl) (Keeps.refl ..)

/-- A new endpoint number is answered. -/
theorem setEid_keeps (eid : Byte) (s : State) : Keeps [.out, .side] s (mctp [0#8, eid, 0#8] { s with side := { s.side with eid := eid } }) := by
  have k : Keeps [.out, .side] s { s with side := { s.side with eid := eid } } := (upd_side { s.side with eid := eid } rfl).mono rfl
  exact k.after (mctp_keeps ..) rfl

/-! ## The clock's own operations -/

/-- Of the clock, the words hold the slot and FRAME_CFG. -/
theorem words_of_clock {s : State} {c : Clock} (h : c.slot = s.clk.slot ∧ c.cfg = s.clk.cfg ∧ c.eff = s.clk.eff) :
    ({ s with clk := c } : State).words = s.words := by
  obtain ⟨hslot, hcfg, heff⟩ := h
  simp [State.words, hslot, hcfg, heff]

/-- A PTP sample leaves the slot and FRAME_CFG. -/
theorem ptp_words (p : PtpIn) (c : Clock) : (c.ptp p).slot = c.slot ∧ (c.ptp p).cfg = c.cfg ∧ (c.ptp p).eff = c.eff := by
  unfold Clock.ptp
  dsimp only
  repeat' split
  all_goals exact ⟨rfl, rfl, rfl⟩

/-- A PPS edge leaves the slot and FRAME_CFG. -/
theorem pps_words (p : PpsIn) (c : Clock) : (c.pps p).slot = c.slot ∧ (c.pps p).cfg = c.cfg ∧ (c.pps p).eff = c.eff := by
  unfold Clock.pps
  repeat' split
  all_goals exact ⟨rfl, rfl, rfl⟩

/-! ## The frame of every command -/

/-- The state that a command answers keeps every area that `touches` does not name for it: each meaning by the frame of its operation. -/
theorem exec_keeps (c : Instr) (s t : State) (h : exec c s = .next t) : Keeps (touches c) s t := by
  match c, h with
  | .powerOn .., h => exact (doPowerOn_keeps ..).of_next h
  | .perstNAssert .., h => exact (doPerst_keeps ..).of_next h
  | .perstNRelease .., h => exact (doRelease_keeps ..).of_next h
  | .bootStepTimeout .., h => exact (doBootTimeout_keeps ..).of_next h
  | .groundsHeartbeat, h => exact (doHeartbeat_keeps ..).of_next h
  | .groundsHeartbeatLost .., h => exact (doHeartbeatLost_keeps ..).of_next h
  | .ftlReplay .., h => exact (doReplay_keeps ..).of_next h
  | .indexLoadDone .., h => exact (doIndexLoad_keeps ..).of_next h
  | .recoveryConfirmed .., h => exact (doRecovered_keeps ..).of_next h
  | .pfailNAssert .., h => exact (doPfail_keeps ..).of_next h
  | .pfailFlushDone .., h => exact (doFlushDone_keeps ..).of_next h
  | .pfailNDeassert .., h => exact (doPfailHigh_keeps ..).of_next h
  | .pfailRegionRestored, h => exact (doRegion_keeps ..).of_next h
  | .sysRefclkLoss, h => exact (doSysClk_keeps ..).of_next h
  | .pcieRefclkLoss, h => exact (doPcieLoss_keeps ..).of_next h
  | .ethRefclkLoss .., h => exact (doEthLoss_keeps ..).of_next h
  | .ethRefclkReturn .., h => exact (doEthReturn_keeps ..).of_next h
  | .frameBoundary .., h => exact (doFrame_keeps ..).of_next h
  | .slotBoundary .., h => exact (doSlot_keeps ..).of_next h
  | .lateLeantoWithdraw .., h => exact (doWithdraw_keeps ..).of_next h
  | .refreshDoubleExit .., h => exact (doRefreshExit_keeps ..).of_next h
  | .diePowerThrottle .., h => exact (doThrottle_keeps ..).of_next h
  | .ptpSample .., h => exact (Keeps.when fun t => upd_clk _ (words_of_clock (ptp_words ..))).of_next h
  | .ppsEdge .., h => exact (Keeps.when fun t => upd_clk _ (words_of_clock (pps_words ..))).of_next h
  | .alignLocked, h => exact (askAlign_keeps ..).of_next h
  | .alignHoldover, h => exact (askAlign_keeps ..).of_next h
  | .holdoverLimit, h => exact (askAlign_keeps ..).of_next h
  | .ringDb .., h => exact (doRingDb_keeps ..).of_next h
  | .ringCqDb .., h => exact (doRingCqDb_keeps ..).of_next h
  | .eqDb .., h => exact (doEqDb_keeps ..).of_next h
  | .ringDisable .., h => exact (Keeps.when fun t => writeRing_keeps ..).of_next h
  | .ringEnable .., h => exact (Keeps.when fun t => writeRing_keeps ..).of_next h
  | .descriptorFetch .., h => exact (doFetch_keeps ..).of_next h
  | .msixModTimer .., h => exact (doModTimer_keeps ..).of_next h
  | .msixUnmask .., h => exact (doUnmask_keeps ..).of_next h
  | .bar0BadAccess .., h => exact (doBadAccess_keeps ..).of_next h
  | .bar2Read .., h => exact (doBar2_keeps ..).of_next h
  | .bar2Write .., h => exact (doBar2_keeps ..).of_next h
  | .bar2WaitExpiry .., h => exact (doBar2Expiry_keeps ..).of_next h
  | .functionLevelReset .., h => exact (doFlr_keeps ..).of_next h
  | .pf0FunctionLevelReset, h => exact (doFlr0_keeps ..).of_next h
  | .hotReset, h => exact (doHot_keeps ..).of_next h
  | .vfEnableClear, h => exact (doVfClear_keeps ..).of_next h
  | .pavilionResetDone .., h => exact (doResetDone_keeps ..).of_next h
  | .registerWrite .., h => exact (doWrite_keeps ..).of_next h
  | .hfnLoRead .., h => exact (doBarRead_keeps ..).of_next h
  | .frameCfgWrite .., h => exact (Keeps.when fun t => touch_clk _).of_next h
  | .corpusCfgWrite .., h => exact (writeCorpus_keeps ..).of_next h
  | .permitCapWrite .., h => exact (writePermit_keeps ..).of_next h
  | .scanCfgWrite .., h => exact (writeScan_keeps ..).of_next h
  | .rerankCfgWrite .., h => exact (writeRerank_keeps ..).of_next h
  | .clipLimitWrite .., h => exact (writeClip_keeps ..).of_next h
  | .updCfgWrite .., h => exact (writeUpdCfg_keeps ..).of_next h
  | .mergeCfgWrite .., h => exact (writeMergeCfg_keeps ..).of_next h
  | .tierCfgWrite .., h => exact (writeTierCfg_keeps ..).of_next h
  | .t2WindowWrite .., h => exact (writeT2_keeps ..).of_next h
  | .bar2WinWrite .., h => exact (writeBar2Win_keeps ..).of_next h
  | .flashCfgWrite .., h => exact (writeFlash_keeps ..).of_next h
  | .ringConfigWrite .., h => exact (writeRing_keeps ..).of_next h
  | .eqCtlWrite .., h => exact (writeEq_keeps ..).of_next h
  | .fabricRegWrite .., h => exact (writeFab_keeps ..).of_next h
  | .mapCfgWrite .., h => exact (writeMap_keeps ..).of_next h
  | .rolePolicyWrite .., h => exact (writePolicy_keeps ..).of_next h
  | .shareRegWrite .., h => exact (writeShare_keeps ..).of_next h
  | .integRegWrite .., h => exact (writeInteg_keeps ..).of_next h
  | .bistGo .., h => exact (doBistGo_keeps ..).of_next h
  | .pwrCapWrite .., h => exact (writePwr_keeps ..).of_next h
  | .resetCtlWrite .., h => exact (writeReset_keeps ..).of_next h
  | .hostNodeReset .., h => exact (doHostReset_keeps ..).of_next h
  | .gpioWrite .., h => exact (writeGpio_keeps ..).of_next h
  | .pmbCfgWrite .., h => exact (writePmb_keeps ..).of_next h
  | .mbxDataLoWrite .., h => exact (doMbxLo_keeps ..).of_next h
  | .mbxPost .., h => exact (doMbxPost_keeps ..).of_next h
  | .mbxCtlWrite .., h => exact (doMbxCtl_keeps ..).of_next h
  | .mbxAck .., h => exact (doMbxAck_keeps ..).of_next h
  | .mbxTimeout .., h => exact (doMbxTimeout_keeps ..).of_next h
  | .lodgeMsgTimeout, h => exact (doLodgeTimeout_keeps ..).of_next h
  | .search .., h => exact (doSearch_keeps ..).of_next h
  | .searchBatch .., h => exact (doSearch_keeps ..).of_next h
  | .queryAdmission .., h => exact (doQueryAdmission_keeps ..).of_next h
  | .queryEncode .., h => exact (doEncode_keeps ..).of_next h
  | .tileClaim .., h => exact (doClaim_keeps ..).of_next h
  | .steal .., h => exact (doSteal_keeps ..).of_next h
  | .hitCompaction .., h => exact (doCompact_keeps ..).of_next h
  | .laneDrain .., h => exact (doDrain_keeps ..).of_next h
  | .vectorRecordArrival .., h => exact (doArrival_keeps ..).of_next h
  | .fetchWaitExpiry .., h => exact (doFetchExpiry_keeps ..).of_next h
  | .rerankBlock .., h => exact (doRerank_keeps ..).of_next h
  | .tensorSteal .., h => exact (doTensorSteal_keeps ..).of_next h
  | .nodeTopk .., h => exact (doTopk_keeps ..).of_next h
  | .payloadWaitExpiry .., h => exact (doPayloadExpiry_keeps ..).of_next h
  | .finalMerge .., h => exact (doFinal_keeps ..).of_next h
  | .heldQueryLagging, h => exact (doHeldLagging_keeps ..).of_next h
  | .partialWaitExpiry .., h => exact (doPartialExpiry_keeps ..).of_next h
  | .upsertBatch .., h => exact (doUpsert_keeps ..).of_next h
  | .deleteBatch .., h => exact (doDelete_keeps ..).of_next h
  | .seqWaitRelease .., h => exact (doSeqRelease_keeps ..).of_next h
  | .updateAdmission .., h => exact (doUpdateAdmission_keeps ..).of_next h
  | .prepWaitExpiry .., h => exact (doPrepExpiry_keeps ..).of_next h
  | .stagedDiscard .., h => exact (doStagedDiscard_keeps ..).of_next h
  | .updateAckTimeout .., h => exact (doAckTimeout_keeps ..).of_next h
  | .modelLoad .., h => exact (admitWork_keeps (fun _ _ => doModelLoad_keeps ..) rfl).of_next h
  | .modelLoadComplete .., h => exact (doLoadComplete_keeps ..).of_next h
  | .epochCutover .., h => exact (admitWork_keeps (fun _ _ => doCutover_keeps ..) rfl).of_next h
  | .cutoverDeadline .., h => exact (doCutDeadline_keeps ..).of_next h
  | .epochSwitch .., h => exact (doSwitchEpoch_keeps ..).of_next h
  | .epochRetireFree .., h => exact (doRetireFree_keeps ..).of_next h
  | .resketch .., h => exact (admitWork_keeps (fun _ _ => doResketch_keeps ..) rfl).of_next h
  | .resketchComplete .., h => exact (doResketchDone_keeps ..).of_next h
  | .mergePass .., h => exact (admitWork_keeps (ps := [.out, .fns, .works, .stats, .pvStats, .corpora]) (fun _ _ => (doMergePass_keeps ..).mono rfl) rfl).of_next h
  | .mergePassStart .., h => exact (doMergeStart_keeps ..).of_next h
  | .mergePublish .., h => exact (doMergePublish_keeps ..).of_next h
  | .leantoReuse .., h => exact (doLeantoReuse_keeps ..).of_next h
  | .indexCheckpointCommit .., h => exact (doIndexCommit_keeps ..).of_next h
  | .tierMigrate .., h => exact (admitWork_keeps (fun _ _ => doMigrate_keeps ..) rfl).of_next h
  | .tierPin .., h => exact (admitWork_keeps (fun _ _ => Keeps.ite (doPin_keeps ..) (Keeps.refl ..)) rfl).of_next h
  | .tierUnpin .., h => exact (admitWork_keeps (fun _ _ => unpin_keeps ..) rfl).of_next h
  | .tierFlush .., h => exact (admitWork_keeps (fun _ _ => doFlush_keeps ..) rfl).of_next h
  | .autoPromote .., h => exact (doAutoPromote_keeps ..).of_next h
  | .policyDemote .., h => exact (doPolicyDemote_keeps ..).of_next h
  | .pagePromoteDone .., h => exact (doPromoteDone_keeps ..).of_next h
  | .demoteSwitch .., h => exact (doDemoteSwitch_keeps ..).of_next h
  | .walledScrub .., h => exact (doScrub_keeps ..).of_next h
  | .ghStepQuiesce .., h => exact (doQuiesce_keeps ..).of_next h
  | .ghStepApply .., h => exact (doGhApply_keeps ..).of_next h
  | .statsRead .., h => exact (doStats_keeps ..).of_next h
  | .fabricCopy .., h => exact (doCopy_keeps ..).of_next h
  | .flashReadComplete .., h => exact (doFlashRead_keeps ..).of_next h
  | .programComplete .., h => exact (doProgram_keeps ..).of_next h
  | .writeGroupCommit .., h => exact (doCommit_keeps ..).of_next h
  | .programFailGc .., h => exact (doProgramFail_keeps ..).of_next h
  | .programFailUpdate .., h => exact (doProgramFail_keeps ..).of_next h
  | .eraseFail .., h => exact (doEraseFail_keeps ..).of_next h
  | .dieRetire .., h => exact (doRetire_keeps ..).of_next h
  | .gcStart .., h => exact (doGc_keeps ..).of_next h
  | .sourceErase .., h => exact (doSourceErase_keeps ..).of_next h
  | .mapCheckpointStart, h => exact (doCkptStart_keeps ..).of_next h
  | .rootRecordCommit, h => exact (doRoot_keeps ..).of_next h
  | .blockAgeClose .., h => exact (doAgeClose_keeps ..).of_next h
  | .flashTempPoll .., h => exact (doTempPoll_keeps ..).of_next h
  | .retryRiseWindow, h => exact (doRetryWindow_keeps ..).of_next h
  | .quantWindowEnd, h => exact (doWindow_keeps ..).of_next h
  | .jfpPacketReceive .., h => exact (doRx_keeps ..).of_next h
  | .ackonly .., h => exact (doAckOnly_keeps ..).of_next h
  | .jfpRto .., h => exact (doRto_keeps ..).of_next h
  | .bundle .., h => exact (arriveFrom_keeps ..).of_next h
  | .read .., h => exact (arriveFrom_keeps ..).of_next h
  | .write .., h => exact (arriveFrom_keeps ..).of_next h
  | .fetchAdd .., h => exact (arriveSub_keeps ..).of_next h
  | .compareSwap .., h => exact (arriveSub_keeps ..).of_next h
  | .resp .., h => exact (arriveFrom_keeps ..).of_next h
  | .requestHoldTimeout, h => exact (doHoldTimeout_keeps ..).of_next h
  | .fanout .., h => exact (arriveFrom_keeps ..).of_next h
  | .partialList .., h => exact (arriveFrom_keeps ..).of_next h
  | .preElem .., h => exact (arriveSub_keeps ..).of_next h
  | .preEid .., h => exact (arriveSub_keeps ..).of_next h
  | .preAck .., h => exact (arriveSub_keeps ..).of_next h
  | .frameMark .., h => exact (arriveSub_keeps ..).of_next h
  | .commitAck .., h => exact (arriveSub_keeps ..).of_next h
  | .rdmaRead .., h => exact (doRdmaRead_keeps ..).of_next h
  | .rdmaWrite .., h => exact (doRdmaWrite_keeps ..).of_next h
  | .roceInvalidRequest .., h => exact (doRoceBad_keeps ..).of_next h
  | .cnp .., h => exact (doCnp_keeps ..).of_next h
  | .pfcFrame .., h => exact (doPfc_keeps ..).of_next h
  | .pfcWatchdog .., h => exact (doPfcWatch_keeps ..).of_next h
  | .mkpdu .., h => exact (doMkpdu_keeps ..).of_next h
  | .arpNd .., h => exact (doArp_keeps ..).of_next h
  | .laserInputLow .., h => exact (doLaserLow_keeps ..).of_next h
  | .portBerDegraded .., h => exact (doBer_keeps ..).of_next h
  | .append .., h => exact (doAppend_keeps ..).of_next h
  | .appendAck .., h => exact (doAppendAck_keeps ..).of_next h
  | .heartbeat .., h => exact (doHall_keeps ..).of_next h
  | .voteReq .., h => exact (doVoteReq_keeps ..).of_next h
  | .vote .., h => exact (doVote_keeps ..).of_next h
  | .propose .., h => exact (doPropose_keeps ..).of_next h
  | .proposeResult .., h => exact (doProposeResult_keeps ..).of_next h
  | .entries .., h => exact (doEntries_keeps ..).of_next h
  | .fetch .., h => exact (doFetchMap_keeps ..).of_next h
  | .handoff .., h => exact (doHandoff_keeps ..).of_next h
  | .handoffAck .., h => exact (doHandoffAck_keeps ..).of_next h
  | .moveDone .., h => exact (doMoveDone_keeps ..).of_next h
  | .holdClaim .., h => exact (doHoldClaim_keeps ..).of_next h
  | .statePull .., h => exact (doStatePull_keeps ..).of_next h
  | .rsDone .., h => exact (doRsTransfers_keeps ..).of_next h
  | .cutQuery .., h => exact (doCutQuery_keeps ..).of_next h
  | .cutReady .., h => exact (doCutReady_keeps ..).of_next h
  | .mapEntryActivation, h => exact (doActivate_keeps ..).of_next h
  | .electionTimeout, h => exact (doElection_keeps ..).of_next h
  | .entryAbandon, h => exact (doAbandon_keeps ..).of_next h
  | .noQuorum, h => exact (doNoQuorum_keeps ..).of_next h
  | .moveTransferStart .., h => exact (doTransfer_keeps ..).of_next h
  | .handoffResend .., h => exact (doResend_keeps ..).of_next h
  | .moveStateFree .., h => exact (doMoveFree_keeps ..).of_next h
  | .suspendReport .., h => exact (doSuspend_keeps ..).of_next h
  | .resume, h => exact (doResume_keeps ..).of_next h
  | .catchUpDone .., h => exact (doCatchUp_keeps ..).of_next h
  | .rejoinLimit .., h => exact (doRejoinLimit_keeps ..).of_next h
  | .joinCheck .., h => exact (doJoinCheck_keeps ..).of_next h
  | .roleCheck .., h => exact (doRoleCheck_keeps ..).of_next h
  | .attest .., h => exact (doAttest_keeps ..).of_next h
  | .identity .., h => exact (doIdentity_keeps ..).of_next h
  | .logRead .., h => exact (doLogRead_keeps ..).of_next h
  | .imageStage .., h => exact (doImageStage_keeps ..).of_next h
  | .rollbackCommit, h => exact (doRollbackCommit_keeps ..).of_next h
  | .lcNonce .., h => exact (doLcNonce_keeps ..).of_next h
  | .lcAdvance .., h => exact (doLcAdvance_keeps ..).of_next h
  | .pvErase, h => exact (doPvErase_keeps ..).of_next h
  | .cakSet .., h => exact (doCakSet_keeps ..).of_next h
  | .slices .., h => exact (doSlices_keeps ..).of_next h
  | .plotAssign .., h => exact (doPlotAssign_keeps ..).of_next h
  | .moveBegin .., h => exact (doMoveBegin_keeps ..).of_next h
  | .memberAdd .., h => exact (doMemberAdd_keeps ..).of_next h
  | .drain .., h => exact (doDrainNode_keeps ..).of_next h
  | .role .., h => exact (doRole_keeps ..).of_next h
  | .keepers .., h => exact (doKeepers_keeps ..).of_next h
  | .winExport .., h => exact (doWinExport_keeps ..).of_next h
  | .winUnexport .., h => exact (doWinUnexport_keeps ..).of_next h
  | .qpCreate .., h => exact (doQpCreate_keeps ..).of_next h
  | .qpDestroy .., h => exact (doQpDestroy_keeps ..).of_next h
  | .keyInstall .., h => exact (doKeyInstall_keeps ..).of_next h
  | .sakDerive .., h => exact (doSakDerive_keeps ..).of_next h
  | .bistRequest .., h => exact (doBistRequest_keeps ..).of_next h
  | .firewallViolation .., h => exact (doFirewall_keeps ..).of_next h
  | .shadowExecution .., h => exact (doShadow_keeps ..).of_next h
  | .arbitration .., h => exact (doArbitrate_keeps ..).of_next h
  | .shadowWaitExpiry .., h => exact (doShadowExpiry_keeps ..).of_next h
  | .suspectHalving, h => exact (doHalve_keeps ..).of_next h
  | .sketchScrub .., h => exact (doScrubTile_keeps ..).of_next h
  | .tileRepair .., h => exact (doRepair_keeps ..).of_next h
  | .stragglerWindow .., h => exact (doStraggler_keeps ..).of_next h
  | .bistRunDone .., h => exact (doBistDone_keeps ..).of_next h
  | .promenadeRetrain .., h => exact (doRetrain_keeps ..).of_next h
  | .thermalStepDown .., h => exact (doStepDown_keeps ..).of_next h
  | .thermalTrip .., h => exact (doTrip_keeps ..).of_next h
  | .sensorStuck .., h => exact (doStuck_keeps ..).of_next h
  | .pmbusPoll .., h => exact (doPoll_keeps ..).of_next h
  | .pmbAlert, h => exact (Keeps.when fun t => upd_side { t.side with pmbExtra := true } rfl).of_next h
  | .smbReadMaxLogic, h => exact (smbRead_keeps ..).of_next h
  | .smbReadMaxStack, h => exact (smbRead_keeps ..).of_next h
  | .smbReadStatus, h => exact (smbRead_keeps ..).of_next h
  | .setEndpointId .., h => exact (Keeps.when fun t => setEid_keeps ..).of_next h
  | .getEndpointId, h => exact (mctp_keeps ..).of_next h
  | .getMctpVersionSupport .., h => exact (Keeps.when fun t => Keeps.ite (mctp_keeps ..) (emit_keeps ..)).of_next h
  | .getMessageTypeSupport, h => exact (mctp_keeps ..).of_next h
  | .pldmRequest .., h => exact (doPldm_keeps ..).of_next h
  | .uartRx .., h => exact (doUart_keeps ..).of_next h
  | .jtagAccess .., h => exact (doJtag_keeps ..).of_next h
  | .powerLoss, h => exact (doPowerLoss_keeps ..).of_next h
  | .eraseComplete .., h => exact (doEraseDone_keeps ..).of_next h
  | .linkUp .., h => exact (doLinkUp_keeps ..).of_next h
  | .linkDown .., h => exact (doLinkDown_keeps ..).of_next h
  | .announce .., h => exact (doAnnounce_keeps ..).of_next h
  | .vfEnableSet .., h => exact (doVfEnable_keeps ..).of_next h
  | .devicePowerStateWrite .., h => exact (doPowerState_keeps ..).of_next h
  | .moduleRetrainDone .., h => exact (doRetrained_keeps ..).of_next h

/-- Settles O5, by the frame of each meaning. -/
theorem frameOfEveryCommand : Obligations.FrameOfEveryCommand := by
  unfold Obligations.FrameOfEveryCommand
  exact fun c s t h => (exec_keeps c s t h).same

/-- No command's list names the queue. -/
theorem touches_pending (c : Instr) : (touches c).contains Area.pending = false := by
  cases c <;> rfl

/-- No meaning stops: each one is a next state. -/
theorem exec_next (c : Instr) (s : State) : ∃ t, exec c s = .next t := by
  cases c <;> exact ⟨_, rfl⟩

/-- Settles O6: every meaning is a next state, and the queue is in no command's list. -/
theorem everyCommandCompletes : Obligations.EveryCommandCompletes := by
  unfold Obligations.EveryCommandCompletes
  intro c s
  obtain ⟨t, ht⟩ := exec_next c s
  exact ⟨t, ht, (exec_keeps c s t ht).same .pending (touches_pending c)⟩

end Sys2Proof.Machine

/-! The commands that may reset the node: which leave the clock and the words, or have those of the reset state (R459 to R461). -/

namespace Sys2Proof.Machine
-- The whole text is compiled by one process of limited memory: one proof at a time keeps it small.
set_option Elab.async false

/-! ## Commands that may reset the node -/

/-- Every area but the queue, the clock and the words that the invariant speaks of. -/
def besideClock : List Area :=
  [.free, .nextId, .out, .phase, .fns, .works, .dies, .lds, .scs, .sts, .mods, .lodge, .chans, .rx, .pwr, .side, .stats, .pvStats,
   .corpora, .ranges, .tier, .upd, .scan, .flash, .fab, .comp, .qos, .integ]

/-- `t` is `s` with its clock and words as they were, or a state right after a node reset with the clock and words of that. -/
inductive KeepsOrResets (s t : State) : Prop
  | keeps (k : Keeps besideClock s t)
  | resets (cause : Nat) (cfg : Bool) (u : State) (k : Keeps besideClock (resetNode cause cfg u) t)

theorem KeepsOrResets.refl (s : State) : KeepsOrResets s s := .keeps (Keeps.refl ..)

theorem KeepsOrResets.of_keeps {qs : List Area} {s t : State} (k : Keeps qs s t) (hs : qs.all besideClock.contains = true := by rfl) :
    KeepsOrResets s t := .keeps (k.mono hs)

theorem KeepsOrResets.ite {c : Prop} [Decidable c] {s a b : State} (h : KeepsOrResets s a) (k : KeepsOrResets s b) :
    KeepsOrResets s (if c then a else b) := by
  split <;> assumption

/-- What comes before, if it leaves the clock and the words. -/
theorem KeepsOrResets.of_before {qs : List Area} {s t u : State} (h : KeepsOrResets t u) (k : Keeps qs s t)
    (hs : qs.all besideClock.contains = true := by rfl) : KeepsOrResets s u := by
  cases h with
  | keeps h => exact .keeps ((k.mono hs).then_ h)
  | resets cause cfg v h => exact .resets cause cfg v h

/-- What comes after, if it leaves the clock and the words. -/
theorem KeepsOrResets.then_ {qs : List Area} {s t u : State} (h : KeepsOrResets s t) (k : Keeps qs t u)
    (hs : qs.all besideClock.contains = true := by rfl) : KeepsOrResets s u := by
  cases h with
  | keeps h => exact .keeps (h.after k hs)
  | resets cause cfg v h => exact .resets cause cfg v (h.after k hs)

theorem resetNode_resets (cause : Nat) (cfg : Bool) (s u : State) : KeepsOrResets s (resetNode cause cfg u) :=
  .resets cause cfg u (Keeps.refl ..)

theorem nodeReset_resets (cause : Nat) (cfg : Bool) (s u : State) : KeepsOrResets s (nodeReset cause cfg u) := resetNode_resets ..

/-- A change of the power state that leaves the words. -/
theorem KeepsOrResets.pwr {g : Power → Power} {s t : State} (h : KeepsOrResets s t) (hw : (modPwr g t).words = t.words) :
    KeepsOrResets s (modPwr g t) := h.then_ (modPwr_keeps g t hw)

theorem firmwareReset_resets (b : BootIn) (s u : State) : KeepsOrResets s (firmwareReset b u) :=
  ((nodeReset_resets 3 true s u).then_ (boot_keeps b _)).then_ (addLog_keeps 6 [] [] _)

theorem firmwareDown_keepsOrResets (b : BootIn) (s : State) : KeepsOrResets s (firmwareDown b s) :=
  .ite (.pwr (.refl _) rfl) (firmwareReset_resets ..)

theorem lodgeFault_keepsOrResets (x : Option BootIn) (s : State) : KeepsOrResets s (lodgeFault x s) := by
  unfold lodgeFault
  split
  · exact .ite (firmwareDown_keepsOrResets ..) (.refl _)
  · exact .refl _

theorem doPowerOn_keepsOrResets (b : Board) (s : State) : KeepsOrResets s (doPowerOn b s) := by
  unfold doPowerOn
  split
  · exact (resetNode_resets (if s.pwr.tripped then 4 else 0) false s s).then_ (upd_phase_lodge_pwr_side _ _ _ _ rfl)
  · exact (resetNode_resets (if s.pwr.tripped then 4 else 0) false s s).then_ (upd_phase_lodge_pwr_side _ _ _ _ rfl)
  · exact .refl _

theorem doPerst_keepsOrResets (ns : Nat) (s : State) : KeepsOrResets s (doPerst ns s) := by
  unfold doPerst
  refine .ite (.refl _) ?_
  split
  · exact .refl _
  · exact .refl _
  · exact .of_keeps (upd_phase _)
  · exact .ite (.pwr (.refl _) rfl) ((nodeReset_resets 1 false s s).then_ (upd_phase _))

theorem doHeartbeatLost_keepsOrResets (b : BootIn) (s : State) : KeepsOrResets s (doHeartbeatLost b s) := by
  unfold doHeartbeatLost
  refine .ite ?_ (.refl _)
  refine ((firmwareDown_keepsOrResets b _).of_before (lodgePost_keeps ..)).of_before (modLodge_keeps ..)

theorem doHostReset_keepsOrResets (b : BootIn) (s : State) : KeepsOrResets s (doHostReset b s) := by
  unfold doHostReset
  split
  · exact .ite (.ite (.pwr (.refl _) rfl) ((nodeReset_resets 2 false s s).then_ (boot_keeps ..))) (.refl _)
  · exact .refl _

theorem doPowerLoss_keepsOrResets (s : State) : KeepsOrResets s (doPowerLoss s) := by
  unfold doPowerLoss
  split
  · exact .refl _
  · exact (resetNode_resets 0 false s s).then_ (upd_phase _)

theorem doSysClk_keepsOrResets (s : State) : KeepsOrResets s (doSysClk s) := by
  unfold doSysClk
  refine .ite ?_ (.refl _)
  dsimp only
  have h : KeepsOrResets s (modPwr (fun p => { p with pfailSeen := true }) s) := (KeepsOrResets.refl s).pwr rfl
  exact .ite (h.pwr rfl) (.ite ((resetNode_resets 1 false s _).then_ (upd_phase _)) (h.pwr rfl))

theorem doTrip_keepsOrResets (u : Nat) (s : State) : KeepsOrResets s (doTrip u s) := by
  unfold doTrip
  refine .ite ?_ (.refl _)
  extract_lets s1 s2 s3
  have h1 : KeepsOrResets s s1 := .pwr (.refl _) rfl
  clear_value s1
  have h2 : KeepsOrResets s s2 := .ite (h1.then_ (modFlash_keeps (fun f => { f with pool := f.pool.filter (·.sd != u - 28) }) s1 rfl)) h1
  clear_value s2
  have h3 : KeepsOrResets s { s3 with phase := .held .tripped } := (resetNode_resets ..).then_ (upd_phase _)
  exact .ite (h2.pwr rfl) (.ite (h3.pwr rfl) (h2.pwr rfl))

/-- The state once a flush has written what the pools held and PFAIL_DONE is posted (R261, R262, R462). -/
def afterFlush (s : State) : State :=
  let n := (flushPools s).1
  let s := deadWork (flushPools s).2
  let s := nodeEvent evPfailDone (leBytes 8 n ++ leBytes 4 ((s.hfn - s.pwr.flushStart) * 20)) s
  let s := modFlash (fun f => { f with regionOk := decide (f.regionNeed ≤ f.regionErased) }) s
  modPwr (fun p => { p with flush := none, stopped := true, flushDone := false, resume := !p.pfailLow }) s

/-- What follows the end of a flush: what it was for, or a reset that waited for its end (R461, R462). -/
def endFlush (b : BootIn) (why : FlushFor) (s : State) : State :=
  match why with
  | .clock => { resetNode 1 false s with phase := .held .clock }
  | .trip => modPwr (fun p => { p with thermTripN := false }) { resetNode s.pwr.cause false s with phase := .held .tripped }
  | .pfail =>
    match s.pwr.resetPending with
    | some 1 => { resetNode 1 false s with phase := .held .perst }
    | some 2 => boot b (resetNode 2 false s)
    | some _ => firmwareReset b s
    | none => s

theorem doFlushDone_of_flush {b : BootIn} {s : State} {why : FlushFor} (h : s.pwr.flush = some why) :
    doFlushDone b s = endFlush b why (afterFlush s) := by
  simp only [doFlushDone, h]
  cases why <;> rfl

/-- The end of a flush leaves the clock and the words. -/
theorem afterFlush_keeps (s : State) : Keeps besideClock s (afterFlush s) := by
  have h1 : Keeps besideClock s (deadWork (flushPools s).2) := ((flushPools_keeps s).mono rfl).after (deadWork_keeps _) rfl
  unfold afterFlush
  extract_lets n s1 s2 s3
  have h3 : Keeps besideClock s s3 := (h1.after (nodeEvent_keeps ..) rfl).after (modFlash_keeps _ _ rfl) rfl
  exact h3.after (modPwr_keeps _ _ rfl) rfl

theorem endFlush_keepsOrResets (b : BootIn) (why : FlushFor) (s : State) : KeepsOrResets s (endFlush b why s) := by
  cases why with
  | clock => exact (resetNode_resets 1 false s s).then_ (upd_phase _)
  | trip =>
    have hheld := (resetNode_resets s.pwr.cause false s s).then_ (upd_phase (.held .tripped))
    exact hheld.pwr (g := fun p => { p with thermTripN := false }) rfl
  | pfail =>
    unfold endFlush
    dsimp only
    split
    · exact (resetNode_resets 1 false s s).then_ (upd_phase _)
    · exact (resetNode_resets 2 false s s).then_ (boot_keeps ..)
    · exact firmwareReset_resets ..
    · exact .refl _

theorem doFlushDone_keepsOrResets (b : BootIn) (s : State) : KeepsOrResets s (doFlushDone b s) := by
  cases h : s.pwr.flush with
  | none => simpa [doFlushDone, h] using KeepsOrResets.refl s
  | some why =>
    rw [doFlushDone_of_flush h]
    exact (endFlush_keepsOrResets ..).of_before (afterFlush_keeps s)

/-- The commands after which the node may have been reset keep the clock and the words, or have those of a reset. -/
def mayReset : Instr → Bool
  | .powerOn .. | .perstNAssert .. | .groundsHeartbeatLost .. | .pfailFlushDone .. | .sysRefclkLoss | .hostNodeReset .. | .thermalTrip ..
  | .powerLoss => true
  | _ => false

theorem exec_keepsOrResets {c : Instr} {s t : State} (hc : mayReset c = true) (h : exec c s = .next t) : KeepsOrResets s t := by
  have next {u : State} (k : KeepsOrResets s u) (e : (.next u : Host.Outcome State Fault Refusal) = .next t) : KeepsOrResets s t := by
    cases e
    exact k
  match c, h with
  | .powerOn .., h => exact next (doPowerOn_keepsOrResets ..) h
  | .perstNAssert .., h => exact next (doPerst_keepsOrResets ..) h
  | .groundsHeartbeatLost .., h => exact next (doHeartbeatLost_keepsOrResets ..) h
  | .pfailFlushDone .., h => exact next (doFlushDone_keepsOrResets ..) h
  | .sysRefclkLoss, h => exact next (doSysClk_keepsOrResets ..) h
  | .hostNodeReset .., h => exact next (doHostReset_keepsOrResets ..) h
  | .thermalTrip .., h => exact next (doTrip_keepsOrResets ..) h
  | .powerLoss, h => exact next (doPowerLoss_keepsOrResets ..) h

/-! ## The invariant -/

theorem KeepsOrResets.legal {s t : State} (k : KeepsOrResets s t) (h : s.Legal) : t.Legal := by
  cases k with
  | keeps k => exact k.legal h
  | resets cause cfg u k => exact k.legal (resetNode_legal ..)

end Sys2Proof.Machine

/-! O1, O2, O3: a step runs one command, and every command keeps the invariant `State.Legal`. -/

namespace Sys2Proof.Machine
-- The whole text is compiled by one process of limited memory: one proof at a time keeps it small.
set_option Elab.async false

/-- The other commands that may change a word: the boundaries and the register writes. -/
def writesWord : Instr → Bool
  | .frameBoundary .. | .slotBoundary .. | .registerWrite .. | .frameCfgWrite .. | .permitCapWrite .. | .scanCfgWrite ..
  | .rerankCfgWrite .. | .updCfgWrite .. | .mergeCfgWrite .. | .tierCfgWrite .. | .flashCfgWrite .. | .fabricRegWrite ..
  | .mapCfgWrite .. | .integRegWrite .. | .pwrCapWrite .. | .pmbCfgWrite .. => true
  | _ => false

theorem touches_words (c : Instr) : (touches c).contains Area.words = (mayReset c || writesWord c) := by
  cases c <;> rfl

/-- A command that writes words answers a legal state. -/
theorem exec_legal_of_writesWord {c : Instr} {s t : State} (hc : writesWord c = true) (hs : s.Legal) (h : exec c s = .next t) : t.Legal := by
  have next {u : State} (k : u.Legal) (e : (.next u : Host.Outcome State Fault Refusal) = .next t) : t.Legal := by
    cases e
    exact k
  unfold writesWord at hc
  split at hc
  · exact next (doFrame_legal _ _ s hs) h
  · exact next (doSlot_legal _ s hs) h
  · exact next (doWrite_legal _ _ _ s hs) h
  · exact next (legal_ite (fun _ => writeCfg_legal _ s hs) fun _ => hs) h
  · exact next (writePermit_legal _ s hs) h
  · exact next (writeScan_legal _ s hs) h
  · exact next (writeRerank_legal _ s hs) h
  · exact next (writeUpdCfg_legal _ s hs) h
  · exact next (writeMergeCfg_legal _ s hs) h
  · exact next (writeTierCfg_legal _ s hs) h
  · exact next (writeFlash_legal _ _ s hs) h
  · exact next (writeFab_legal _ _ s hs) h
  · exact next (writeMap_legal _ _ s hs) h
  · exact next (writeInteg_legal _ _ s hs) h
  · exact next (writePwr_legal _ _ s hs) h
  · exact next (writePmb_legal _ s hs) h
  · cases hc

/-- Every command keeps the invariant. -/
theorem exec_legal (c : Instr) (s t : State) (hs : s.Legal) (h : exec c s = .next t) : t.Legal := by
  cases hr : mayReset c with
  | true => exact (exec_keepsOrResets hr h).legal hs
  | false =>
    cases hw : writesWord c with
    | true => exact exec_legal_of_writesWord hw hs h
    | false => exact (exec_keeps c s t h).legal hs (by rw [touches_words, hr, hw]; rfl)

/-! ## A step -/

theorem step_of_empty {s : State} (h : s.pending = []) : step s = .next s := by
  unfold step
  rw [h]

theorem step_of_cons {s : State} {c : Instr} {rest : List Instr} (h : s.pending = c :: rest) :
    step s = exec c { s with pending := rest } := by
  unfold step
  rw [h]

/-- Settles O1: the two cases of a step. -/
theorem stepTakesFront : Obligations.StepTakesFront := by
  unfold Obligations.StepTakesFront
  exact ⟨fun c rest s h => step_of_cons h, fun s h => step_of_empty h⟩

/-- Settles O2. -/
theorem legalAtReset : Obligations.LegalAtReset := by
  unfold Obligations.LegalAtReset
  exact ⟨reset_legal, rfl, rfl, rfl⟩

/-- Settles O3: a step runs one command, and taking it off the queue changes no word. -/
theorem legalKept : Obligations.LegalKept := by
  unfold Obligations.LegalKept
  intro s t hs h
  cases hp : s.pending with
  | nil =>
    rw [step_of_empty hp] at h
    cases h
    exact hs
  | cons c rest =>
    rw [step_of_cons hp] at h
    have hrest : ({ s with pending := rest } : State).Legal := { hs with }
    exact exec_legal c _ t hrest h

end Sys2Proof.Machine

/-! The clock of a frame boundary, and what the rest of a frame boundary leaves of it (R34 to R38, R49). -/

namespace Sys2Proof.Machine
-- The whole text is compiled by one process of limited memory: one proof at a time keeps it small.
set_option Elab.async false

/-! ## The clock at a frame boundary -/

/-- A change of alignment state, as far as the clock goes (R38, R53). -/
def Clock.withAlign (a : Align) (c : Clock) : Clock :=
  if c.align = a then c
  else { c with align := a, goodFrames := 0, holdFrames := 0, samplesBack := false, originLock := c.originLock || a == .locked,
                secondFixed := c.secondFixed && (a != .free && a != .unaligned) }

/-- The alignment state that a frame begins with: no source, an offset past its limit, or a change that waits and is still due (R38, R49). -/
def Clock.realign (c : Clock) : Clock :=
  let d := { c with alignNext := none }
  if c.timeSrc = 0 then { d with offset := 0 }.withAlign .free
  else if c.far then d.withAlign .unaligned
  else match c.alignNext with
    | some a => if c.due a then d.withAlign a else d
    | none => d

/-- The clock of the frame that begins. -/
def Clock.tick (off choice : Int) (c : Clock) : Clock := ({ c.newFrame off with slot := none }.realign.countGood).steer choice

theorem setAlign_clk (a : Align) (s : State) : (setAlign a s).clk = s.clk.withAlign a := by
  unfold setAlign Clock.withAlign
  extract_lets old c s1 s2 s3
  have h3 : s3.clk = s2.clk := (nodeEvent_keeps ..).clk
  by_cases h : old = a
  · rw [if_pos h, if_pos h]
  · rw [if_neg h, if_neg h]
    split
    · exact ((proposeSuspend_keeps s3).clk).trans h3
    · exact h3

theorem alignFrame_clk (choice : Int) (s : State) : (alignFrame choice s).clk = s.clk.realign.countGood.steer choice := by
  refine congrArg (fun c : Clock => c.countGood.steer choice) ?_
  unfold Clock.realign
  dsimp only
  rw [apply_ite State.clk, apply_ite State.clk, setAlign_clk, setAlign_clk]
  refine ite_congr rfl (fun _ => rfl) fun _ => ite_congr rfl (fun _ => rfl) fun _ => ?_
  cases s.clk.alignNext with
  | none => rfl
  | some a => exact (apply_ite State.clk ..).trans (ite_congr rfl (fun _ => setAlign_clk ..) fun _ => rfl)

/-! ## What a frame boundary does after the clock is set -/

/-- Of the pages' part of a frame boundary, only the latch of TIER_CFG changes a word. -/
theorem tierFrame_words (s : State) : (tierFrame s).words = { s.words with tier := (s.words.tier.1, s.words.tier.1) } := by
  unfold tierFrame
  extract_lets t u v
  have ht : t.words = { s.words with tier := (s.words.tier.1, s.words.tier.1) } := rfl
  clear_value t
  have hu : u.words = t.words := (Keeps.ite (upd_ranges _) (Keeps.refl ..) : Keeps [.ranges] t u).words
  clear_value u
  have hv : v.words = u.words := by
    unfold v
    split
    · have hscrub : Keeps _ u ((List.range 12).foldl (fun s p => scrubRange p s) u) :=
        Keeps.foldl (Keeps.refl ..) fun t p => scrubRange_keeps p t
      exact (modTier_keeps (fun t => { t with scrubAt := u.hfn }) _ rfl).words.trans hscrub.words
    · rfl
  clear_value v
  rw [← ht, ← hu]
  split
  · have hpump : Keeps _ (tierAll v) ((List.range 12).foldl (fun s p => pumpBar2 (fnOf p) s) (tierAll v)) :=
      Keeps.foldl (Keeps.refl ..) fun t p => pumpBar2_keeps (fnOf p) t
    exact (hpump.words.trans (tierAll_keeps v).words).trans hv
  · rfl

/-- The clock, and the registers of the scan and of updates as written and as in force. -/
def State.frameWords (s : State) : Clock × (W32 × W32) × (W32 × W32) := (s.clk, s.words.scan, s.words.upd)

theorem Keeps.frameWords {ps : List Area} {s t : State} (k : Keeps ps s t) (hc : ps.contains .clk = false := by rfl)
    (hw : ps.contains .words = false := by rfl) : t.frameWords = s.frameWords := by
  unfold State.frameWords
  rw [show t.clk = s.clk from k.clk hc, show t.words = s.words from k.words hw]

/-- What changes words but neither the scan nor updates. -/
theorem Keeps.frameWords_of_areas {ps : List Area} {s t : State} (k : Keeps ps s t) (hc : ps.contains .clk = false := by rfl)
    (hs : ps.contains .scan = false := by rfl) (hu : ps.contains .upd = false := by rfl) : t.frameWords = s.frameWords := by
  unfold State.frameWords State.words
  rw [show t.clk = s.clk from k.clk hc, show t.scan = s.scan from k.scan hs, show t.upd = s.upd from k.upd hu]

theorem tierFrame_frameWords (s : State) : (tierFrame s).frameWords = s.frameWords := by
  unfold State.frameWords
  rw [tierFrame_words, show (tierFrame s).clk = s.clk from (tierFrame_keeps s).clk]

/-- A frame boundary in its turn: the clock is that of the new frame, and SCAN_CFG and UPD_CFG are in force as they were written. -/
theorem doFrame_frameWords (off choice : Int) {s : State} (hup : s.phase.up = true) (hslot : s.clk.slot = some 15) :
    (doFrame off choice s).frameWords = (s.clk.tick off choice, (s.scan.scanCfg, s.scan.scanCfg), (s.upd.cfg, s.upd.cfg)) := by
  unfold doFrame
  rw [if_pos (by simp [hup, hslot])]
  extract_lets f s1 s2 s3 s4 s5 s6 s7 s8 s9 s10 s11
  have h2 : s2.frameWords = s1.frameWords := (commitFrame_keeps f s1).frameWords
  clear_value s2
  have h3 : s3.frameWords = (s1.clk, (s1.words.scan.1, s1.words.scan.1), (s1.words.upd.1, s1.words.upd.1)) := by
    show (s2.frameWords.1, (s2.frameWords.2.1.1, s2.frameWords.2.1.1), (s2.frameWords.2.2.1, s2.frameWords.2.2.1)) = _
    rw [h2]
    rfl
  clear_value s3
  have h4 : s4.frameWords = (s.clk.tick off choice, (s.scan.scanCfg, s.scan.scanCfg), (s.upd.cfg, s.upd.cfg)) := by
    have hclk : s3.clk = s1.clk := congrArg Prod.fst h3
    have hwords : s3.frameWords.2 = ((s.scan.scanCfg, s.scan.scanCfg), (s.upd.cfg, s.upd.cfg)) := congrArg Prod.snd h3
    have halign : s4.words = s3.words := (alignFrame_keeps choice s3).words
    refine Prod.ext ?_ ?_
    · show (alignFrame choice s3).clk = _
      rw [alignFrame_clk, hclk]
      rfl
    · rw [← hwords]
      show (s4.words.scan, s4.words.upd) = _
      rw [halign]
      rfl
  rw [← h4]
  clear_value s4
  have h5 : s5.frameWords = s4.frameWords := by
    unfold s5
    split
    · exact (bistFrame_keeps _).frameWords.trans (swapFrame_keeps s4).frameWords
    · rfl
  clear_value s5
  have h7 : s7.frameWords = s5.frameWords := by
    have h6 : s6.frameWords = s5.frameWords := (sharesFrame_keeps s5).frameWords
    rw [← h6]
    unfold s7
    split
    · exact (keeperAssign_keeps s6).frameWords
    · rfl
  clear_value s7
  have h8 : s8.frameWords = s7.frameWords := calc
    _ = (flashFrame (tierFrame s7)).frameWords := (pfailFrame_keeps _).frameWords
    _ = (tierFrame s7).frameWords := (flashFrame_keeps _).frameWords_of_areas
    _ = s7.frameWords := tierFrame_frameWords s7
  clear_value s8
  have h9 : s9.frameWords = s8.frameWords := by
    have hfold : Keeps _ s8 ((List.range 48).foldl stepFrame s8) := Keeps.foldl (Keeps.refl ..) fun t u => stepFrame_keeps t u
    exact hfold.frameWords
  clear_value s9
  have h10 : s10.frameWords = s9.frameWords := calc
    _ = (keeperFrame (sendMarks f s9)).frameWords := (fabFrame_keeps _).frameWords_of_areas
    _ = (sendMarks f s9).frameWords := (keeperFrame_keeps _).frameWords_of_areas
    _ = s9.frameWords := (sendMarks_keeps f s9).frameWords
  clear_value s10
  have h11 : s11.frameWords = s10.frameWords := calc
    _ = (timersFrame (statsFrame s10)).frameWords := (logFrame_keeps _).frameWords
    _ = (statsFrame s10).frameWords := (timersFrame_keeps _).frameWords
    _ = s10.frameWords := (statsFrame_keeps s10).frameWords
  clear_value s11
  rw [← h5, ← h7, ← h8, ← h9, ← h10, ← h11]
  split
  · exact (scanFrame_keeps s11).frameWords
  · rfl

end Sys2Proof.Machine

/-! O4: what every command does to the frame number (R37). -/

namespace Sys2Proof.Machine
-- The whole text is compiled by one process of limited memory: one proof at a time keeps it small.
set_option Elab.async false

/-! ## Frame numbers -/

/-- A jump is due in FREE and UNALIGNED only (R37). -/
def Clock.jumpOk (c : Clock) : Prop := c.jump ≠ none → c.align = .free ∨ c.align = .unaligned

/-- The frame number stays, and a jump is due in FREE and UNALIGNED only if it was so before. -/
def Clock.FrameStays (c d : Clock) : Prop := d.hfn = c.hfn ∧ (c.jumpOk → d.jumpOk)

theorem Clock.FrameStays.refl (c : Clock) : c.FrameStays c := ⟨rfl, id⟩

theorem Clock.FrameStays.of_eq {c d : Clock} (h : d = c) : c.FrameStays d := h ▸ .refl c

/-- A change of other fields. -/
theorem Clock.FrameStays.of_same {c d : Clock} (hn : d.hfn = c.hfn) (hj : d.jump = c.jump) (ha : d.align = c.align) : c.FrameStays d := by
  refine ⟨hn, fun h hd => ?_⟩
  rw [ha]
  exact h (hj ▸ hd)

theorem Clock.FrameStays.ite {p : Prop} [Decidable p] {c a b : Clock} (h : c.FrameStays a) (k : c.FrameStays b) :
    c.FrameStays (if p then a else b) := by
  split <;> assumption

theorem Clock.FrameStays.ite_clk {p : Prop} [Decidable p] {c : Clock} {a b : State} (h : c.FrameStays a.clk) (k : c.FrameStays b.clk) :
    c.FrameStays (if p then a else b).clk := by
  split <;> assumption

/-- A PTP sample makes a jump due in FREE and UNALIGNED only. -/
theorem ptp_frameStays (p : PtpIn) (c : Clock) : c.FrameStays (c.ptp p) := by
  unfold Clock.ptp
  dsimp only
  refine .ite (.refl c) (.ite (.of_same rfl rfl rfl) (.ite (.of_same rfl rfl rfl) ?_))
  split
  · next h => exact ⟨rfl, fun _ _ => h.1⟩
  · exact .of_same rfl rfl rfl

theorem pps_frameStays (p : PpsIn) (c : Clock) : c.FrameStays (c.pps p) :=
  .ite (.refl c) (.ite (.refl c) (.ite (.of_same rfl rfl rfl) (.of_same rfl rfl rfl)))

theorem writeCfg_frameStays (v : W32) (c : Clock) : c.FrameStays (c.writeCfg v) := .ite (.of_same rfl rfl rfl) (.of_same rfl rfl rfl)

theorem writeOrigin_frameStays (hi : Bool) (v : W32) (s : State) : s.clk.FrameStays (writeOrigin hi v s).clk := by
  refine .ite_clk (.refl _) ?_
  cases hi <;> exact .of_same rfl rfl rfl

/-- Of the registers of PF0, FRAME_CFG, ORIGIN and FRAME_STAT are in the clock; no write to them moves the frame. -/
theorem writeNode_frameStays (off : Nat) (v : W32) (s : State) : s.clk.FrameStays (writeNode off v s).clk := by
  unfold writeNode
  split
  · exact writeCfg_frameStays v s.clk
  · exact writeOrigin_frameStays ..
  · exact writeOrigin_frameStays ..
  · exact .of_same rfl rfl rfl
  · exact .of_eq (writePermit_keeps ..).clk
  · exact .of_eq (writeScan_keeps ..).clk
  · exact .of_eq (clearScanStat_keeps ..).clk
  · exact .of_eq (writeRerank_keeps ..).clk
  · exact .of_eq (clearSelectStat_keeps ..).clk
  · exact .of_eq (writeUpdCfg_keeps ..).clk
  · exact .of_eq (writeMergeCfg_keeps ..).clk
  · exact .of_eq (clearUpdStat_keeps ..).clk
  · exact .of_eq (writeTierCfg_keeps ..).clk
  · exact .of_eq (clearTierStat_keeps ..).clk
  · exact .of_eq (writeFlash_keeps ..).clk
  · exact .of_eq (writeFlash_keeps ..).clk
  · exact .of_eq (writeFlash_keeps ..).clk
  · exact .of_eq (writeFlash_keeps ..).clk
  · exact .of_eq (writePolicy_keeps ..).clk
  · exact .of_eq (clearQosStat_keeps ..).clk
  · exact .of_eq (clearLodgeStat_keeps ..).clk
  · exact .of_eq (writePwr_keeps ..).clk
  · exact .of_eq (clearPwrStat_keeps ..).clk
  · exact .of_eq (writePwr_keeps ..).clk
  · exact .of_eq (clearThermStat_keeps ..).clk
  · exact .of_eq (writeReset_keeps ..).clk
  · exact .of_eq (clearResetStat_keeps ..).clk
  · exact .of_eq (writeGpio_keeps ..).clk
  · exact .of_eq (writeGpio_keeps ..).clk
  · exact .of_eq (clearSbStat_keeps ..).clk
  · exact .of_eq (writePmb_keeps ..).clk
  · refine .ite_clk (.of_eq (writeFab_keeps ..).clk) (.ite_clk (.of_eq (writeMap_keeps ..).clk) (.ite_clk ?_ (.ite_clk ?_ (.refl _))))
    · exact .of_eq (writeShare_keeps ..).clk
    · exact .of_eq (writeInteg_keeps ..).clk

theorem doWrite_frameStays (f : Fn) (off : Nat) (v : W32) (s : State) : s.clk.FrameStays (doWrite f off v s).clk := by
  unfold doWrite
  refine .ite_clk (.refl _) (.ite_clk (.of_eq (emit_keeps ..).clk) ?_)
  unfold writeBar0
  refine .ite_clk (.ite_clk (writeNode_frameStays ..) (.of_eq (writeVf_keeps ..).clk)) ?_
  refine .ite_clk (.of_eq (writeRing_keeps ..).clk) (.ite_clk (.of_eq (writeEq_keeps ..).clk) ?_)
  refine .ite_clk (.of_eq (writeMsix_keeps ..).clk) (.ite_clk (.of_eq (writeMbx_keeps ..).clk) ?_)
  refine .ite_clk (.ite_clk (.of_eq (doRingDb_keeps ..).clk) (.ite_clk (.of_eq (doRingCqDb_keeps ..).clk) (.refl _))) ?_
  exact .ite_clk (.of_eq (doEqDb_keeps ..).clk) (.refl _)

theorem doWithdraw_frameStays (p id eid : Nat) (s : State) : s.clk.FrameStays (doWithdraw p id eid s).clk := by
  unfold doWithdraw
  refine .ite_clk ?_ (.refl _)
  rw [(count_keeps ..).clk, (modBatch_keeps ..).clk, (withdraw_keeps ..).clk]
  exact .of_same rfl rfl rfl

/-! ## The slot boundary -/

/-- The slot that the next boundary opens. -/
def Clock.nextSlot (c : Clock) : Nat := match c.slot with | some k => k + 1 | none => 0

/-- What a flush or a reset that is asked for waits in. -/
def Power.waiting (p : Power) : Option Nat × Option FlushFor × Option FlushFor := (p.resetPending, p.flush, p.flushPend)

theorem sampleAll_waiting (x : SlotIn) (s : State) : (sampleAll x s).pwr.waiting = s.pwr.waiting := by
  unfold sampleAll
  generalize x.units.zipIdx.take 48 = us
  induction us generalizing s with
  | nil => rfl
  | cons u us ih => exact (ih _).trans rfl

theorem capSlot_waiting (w : Nat) (p : Power) : (capSlot w p).waiting = p.waiting := by
  unfold capSlot
  dsimp only
  repeat' split
  all_goals rfl

/-- Without a flush that is asked for or runs, none begins. -/
theorem flushSlot_of_none {s : State} (hpend : s.pwr.flushPend = none) (hflush : s.pwr.flush = none) : flushSlot s = s := by
  have hstart : flushStart s = s := by simp [flushStart, hpend]
  simp [flushSlot, hstart, hflush]

/-- A slot boundary in its turn, before an error in the Lodge's SRAM is looked at: the next slot is open and PERMIT_CAP in force. -/
structure OpensSlot (s u : State) : Prop where
  clk : u.clk = { s.clk with slot := some s.clk.nextSlot }
  permit : u.words.permit.2 = s.scan.permitCap
  phase : u.phase = s.phase
  waiting : s.pwr.flush = none → s.pwr.flushPend = none → u.pwr.waiting = s.pwr.waiting

theorem OpensSlot.of_same {s u v : State} (h : OpensSlot s u) (hclk : v.clk = u.clk) (hpermit : v.words.permit = u.words.permit)
    (hphase : v.phase = u.phase) (hwait : v.pwr.waiting = u.pwr.waiting) : OpensSlot s v where
  clk := hclk.trans h.clk
  permit := (congrArg Prod.snd hpermit).trans h.permit
  phase := hphase.trans h.phase
  waiting hflush hpend := hwait.trans (h.waiting hflush hpend)

theorem OpensSlot.after {ps : List Area} {s u v : State} (h : OpensSlot s u) (k : Keeps ps u v) (hc : ps.contains .clk = false := by rfl)
    (hw : ps.contains .words = false := by rfl) (hp : ps.contains .phase = false := by rfl)
    (hq : ps.contains .pwr = false := by rfl) : OpensSlot s v :=
  h.of_same (k.clk hc) (congrArg Words.permit (k.words hw)) (k.phase hp) (congrArg Power.waiting (k.pwr hq))

theorem flushSlot_opensSlot {s u : State} (h : OpensSlot s u) : OpensSlot s (flushSlot u) where
  clk := (flushSlot_keeps u).clk.trans h.clk
  permit := (congrArg (fun w => w.permit.2) (flushSlot_keeps u).words).trans h.permit
  phase := (flushSlot_keeps u).phase.trans h.phase
  waiting hflush hpend := by
    have hwait := h.waiting hflush hpend
    have hflush' : u.pwr.flush = none := (congrArg (fun w => w.2.1) hwait).trans hflush
    have hpend' : u.pwr.flushPend = none := (congrArg (fun w => w.2.2) hwait).trans hpend
    rw [flushSlot_of_none hpend' hflush', hwait]

theorem doSlot_of_turn (x : SlotIn) {s : State} (hup : s.phase.up = true) (hslot : s.clk.slot ≠ some 15) :
    ∃ u, doSlot x s = lodgeFault x.lodge u ∧ OpensSlot s u := by
  unfold doSlot
  rw [if_pos (by simp [hup, hslot])]
  extract_lets s1 c1 c2 s2 s3 s4 s5 s6
  refine ⟨_, rfl, ?_⟩
  have h1 : Keeps [.mods, .corpora] s s1 := by
    unfold s1
    exact Keeps.ite (openFrame_keeps s) (Keeps.refl ..)
  have h2 : OpensSlot s s2 :=
    ⟨congrArg (fun c : Clock => { c with slot := some c.nextSlot }) h1.clk, congrArg (fun y : Scan => y.permitCap) h1.scan, h1.phase,
      fun _ _ => congrArg Power.waiting h1.pwr⟩
  clear_value s2
  have h3 : OpensSlot s s3 := by
    have hsample : OpensSlot s (sampleAll x s2) :=
      h2.of_same (sampleAll_keeps ..).clk (congrArg Words.permit (sampleAll_keeps ..).words) (sampleAll_keeps ..).phase (sampleAll_waiting x s2)
    exact hsample.of_same rfl rfl rfl (capSlot_waiting ..)
  clear_value s3
  have h4 : OpensSlot s s4 := by
    unfold s4
    split
    · exact h3.of_same rfl rfl rfl rfl
    · exact h3
  clear_value s4
  have h5 : OpensSlot s s5 := by
    have hfold : Keeps _ (modScan (fun y => { y with taUse := [], engUse := [] }) s4) s5 :=
      Keeps.foldl (Keeps.refl ..) fun t n => stackSample_keeps x t n
    have hclear : OpensSlot s (modScan (fun y => { y with taUse := [], engUse := [] }) s4) := h4.of_same rfl rfl rfl rfl
    exact hclear.after hfold
  clear_value s5
  have h6 : OpensSlot s s6 := by
    have hfold : Keeps _ s5 (x.retries.foldl noteRetries s5) := Keeps.foldl (Keeps.refl ..) fun t r => noteRetries_keeps t r
    exact flushSlot_opensSlot (h5.after hfold)
  clear_value s6
  exact ((h6.after (workSlot_keeps x s6)).after (fabSlot_keeps _)).after (noteStalls_keeps _)

theorem doSlot_out_of_turn (x : SlotIn) {s : State} (h : s.phase.up = false ∨ s.clk.slot = some 15) : doSlot x s = s :=
  if_neg (by rcases h with h | h <;> simp [h])

theorem doFrame_out_of_turn (off choice : Int) {s : State} (h : s.phase.up = false ∨ s.clk.slot ≠ some 15) : doFrame off choice s = s :=
  if_neg (by rcases h with h | h <;> simp [h])

theorem KeepsOrResets.clk {s t : State} (k : KeepsOrResets s t) : t.clk = s.clk ∨ t.clk = Clock.reset := by
  cases k with
  | keeps k => exact .inl k.clk
  | resets cause cfg u k => exact .inr k.clk

/-- A slot boundary leaves the frame, unless the error in the Lodge's SRAM resets the node. -/
theorem doSlot_frame (x : SlotIn) (s : State) : (doSlot x s).clk = Clock.reset ∨ s.clk.FrameStays (doSlot x s).clk := by
  by_cases h : s.phase.up = true ∧ s.clk.slot ≠ some 15
  · obtain ⟨u, hu, hopen⟩ := doSlot_of_turn x h.1 h.2
    rw [hu]
    rcases (lodgeFault_keepsOrResets x.lodge u).clk with hclk | hclk
    · rw [hclk, hopen.clk]
      exact .inr (.of_same rfl rfl rfl)
    · exact .inl hclk
  · rw [doSlot_out_of_turn x (by simpa [Decidable.or_iff_not_imp_left] using h)]
    exact .inr (.refl _)

/-! ## Every command -/

/-- The commands that may change the clock, besides those that may reset the node. -/
def writesClock : Instr → Bool
  | .ptpSample .. | .ppsEdge .. | .alignLocked | .alignHoldover | .holdoverLimit | .frameCfgWrite .. | .registerWrite ..
  | .lateLeantoWithdraw .. | .slotBoundary .. | .frameBoundary .. => true
  | _ => false

theorem touches_clk (c : Instr) : (touches c).contains Area.clk = (mayReset c || writesClock c) := by
  cases c <;> rfl

theorem askAlign_frameStays (a : Align) (s : State) : s.clk.FrameStays (askAlign a s).clk :=
  .ite_clk (.of_same rfl rfl rfl) (.refl _)

/-- Two clocks with the same frame number, jump, slot and FRAME_CFG in force. -/
def Clock.SameFrame (c d : Clock) : Prop := d.hfn = c.hfn ∧ d.jump = c.jump ∧ d.slot = c.slot ∧ d.eff = c.eff

theorem Clock.SameFrame.trans {c d e : Clock} (h : c.SameFrame d) (k : d.SameFrame e) : c.SameFrame e := by
  obtain ⟨h1, h2, h3, h4⟩ := h
  obtain ⟨k1, k2, k3, k4⟩ := k
  exact ⟨k1.trans h1, k2.trans h2, k3.trans h3, k4.trans h4⟩

theorem Clock.withAlign_sameFrame (a : Align) (c : Clock) : c.SameFrame (c.withAlign a) := by
  unfold withAlign
  split <;> exact ⟨rfl, rfl, rfl, rfl⟩

theorem Clock.realign_sameFrame (c : Clock) : c.SameFrame c.realign := by
  unfold realign
  dsimp only
  split
  · exact SameFrame.trans (d := { c with alignNext := none, offset := 0 }) ⟨rfl, rfl, rfl, rfl⟩ (withAlign_sameFrame ..)
  · have hclear : c.SameFrame { c with alignNext := none } := ⟨rfl, rfl, rfl, rfl⟩
    split
    · exact hclear.trans (withAlign_sameFrame ..)
    · split
      · split
        · exact hclear.trans (withAlign_sameFrame ..)
        · exact hclear
      · exact hclear

/-- Counting and steering leave the frame. -/
theorem Clock.steer_countGood_sameFrame (choice : Int) (c : Clock) : c.SameFrame (c.countGood.steer choice) := ⟨rfl, rfl, rfl, rfl⟩

/-- The frame that begins: the next, or the one jumped to (R37), no slot open, FRAME_CFG in force as it was written (R51). -/
theorem Clock.tick_frame (off choice : Int) (c : Clock) :
    (c.tick off choice).hfn = c.jump.getD (c.hfn + 1) ∧ (c.tick off choice).jump = none ∧ (c.tick off choice).slot = none ∧
      (c.tick off choice).eff = c.cfg := by
  have hnew : (c.newFrame off).hfn = c.jump.getD (c.hfn + 1) ∧ (c.newFrame off).jump = none ∧ (c.newFrame off).eff = c.cfg := by
    unfold newFrame
    dsimp only
    split <;> exact ⟨rfl, rfl, rfl⟩
  obtain ⟨hhfn, hjump, hslot, heff⟩ := (realign_sameFrame { c.newFrame off with slot := none }).trans (steer_countGood_sameFrame choice _)
  exact ⟨hhfn.trans hnew.1, hjump.trans hnew.2.1, hslot, heff.trans hnew.2.2⟩

/-- What any command does to the frame. -/
inductive FrameStep (c : Instr) (s t : State) : Prop
  | reset (h : t.clk = Clock.reset)
  | stays (h : s.clk.FrameStays t.clk)
  | ticks (off choice : Int) (hc : c = .frameBoundary off choice) (hslot : s.clk.slot = some 15) (h : t.clk = s.clk.tick off choice)

theorem exec_frame_of_writesClock {c : Instr} {s t : State} (hc : writesClock c = true) (h : exec c s = .next t) : FrameStep c s t := by
  have next {u : State} (k : s.clk.FrameStays u.clk) (e : (.next u : Host.Outcome State Fault Refusal) = .next t) : FrameStep c s t := by
    cases e
    exact .stays k
  unfold writesClock at hc
  split at hc
  · exact next (.ite_clk (ptp_frameStays ..) (.refl _)) h
  · exact next (.ite_clk (pps_frameStays ..) (.refl _)) h
  · exact next (askAlign_frameStays ..) h
  · exact next (askAlign_frameStays ..) h
  · exact next (askAlign_frameStays ..) h
  · exact next (.ite_clk (writeCfg_frameStays ..) (.refl _)) h
  · exact next (doWrite_frameStays ..) h
  · exact next (doWithdraw_frameStays ..) h
  · next x =>
    cases h
    exact (doSlot_frame x s).elim .reset .stays
  · next off choice =>
    cases h
    by_cases hturn : s.phase.up = true ∧ s.clk.slot = some 15
    · exact .ticks off choice rfl hturn.2 (congrArg Prod.fst (doFrame_frameWords off choice hturn.1 hturn.2))
    · refine .stays (.of_eq (congrArg State.clk (doFrame_out_of_turn off choice ?_)))
      simpa [Decidable.or_iff_not_imp_left] using hturn
  · cases hc

theorem exec_frame (c : Instr) (s t : State) (h : exec c s = .next t) : FrameStep c s t := by
  cases hr : mayReset c with
  | true => exact (exec_keepsOrResets hr h).clk.elim (fun e => .stays (.of_eq e)) .reset
  | false =>
    cases hw : writesClock c with
    | true => exact exec_frame_of_writesClock hw h
    | false => exact .stays (.of_eq ((exec_keeps c s t h).clk (by rw [touches_clk, hr, hw]; rfl)))

/-- Settles O4: a reset, a frame that stays, or the tick of a frame boundary. -/
theorem frameNumbers : Obligations.FrameNumbers := by
  unfold Obligations.FrameNumbers
  intro c s t hjump h
  have hnone : s.clk.align = .acquire ∨ s.clk.align = .locked ∨ s.clk.align = .holdover → s.clk.jump = none := by
    intro halign
    by_contra hne
    rcases hjump hne with h | h <;> simp [h] at halign
  cases exec_frame c s t h with
  | reset hreset =>
    have hj : t.clk.jump = none := congrArg Clock.jump hreset
    exact ⟨fun hne => absurd hj hne, .inl hreset, fun _ => .inl hreset⟩
  | stays hstays => exact ⟨hstays.2 hjump, .inr (.inl hstays.1), fun _ => .inr (.inl hstays.1)⟩
  | ticks off choice hc hslot htick =>
    obtain ⟨hhfn, hj, -⟩ := Clock.tick_frame off choice s.clk
    rw [← htick] at hhfn hj
    refine ⟨fun hne => absurd hj hne, .inr (.inr ⟨off, choice, hc, hslot, hj, hhfn⟩), fun halign => .inr (.inr ?_)⟩
    rw [hhfn, hnone halign]
    rfl

end Sys2Proof.Machine

/-! O35: host memory through BAR2 (R203, R217, R218, R226, R229 to R231). -/

namespace Sys2Proof.Machine
-- The whole text is compiled by one process of limited memory: one proof at a time keeps it small.
set_option Elab.async false

/-! ## Pages of a range -/

theorem find?_mapIf {α : Type} (p q : α → Bool) (g : α → α) (hq : ∀ x, q (g x) = q x) (xs : List α) :
    (mapIf p g xs).find? q = (xs.find? q).map fun x => if p x then g x else x := by
  unfold mapIf
  rw [List.find?_map]
  congr 2
  funext x
  simp only [Function.comp]
  split <;> simp [hq]

/-- Changing a page changes that page, which is a fresh one where it was not listed, and no other. -/
theorem page_modPage (r : Range) (no no' : Nat) (g : Page → Page) (hg : ∀ x, (g x).no = x.no) :
    (r.modPage no g).page no' = if no' = no then g (r.page no) else r.page no' := by
  have hmap := find?_mapIf (·.no == no) (·.no == no') g (fun x => by simp only [hg]) r.pages
  unfold Range.modPage Range.page
  cases hfind : r.pages.find? (·.no == no') with
  | none =>
    have hne : no' ∈ r.pages.map (·.no) → False := by
      intro hmem
      obtain ⟨x, hx, hno⟩ := List.mem_map.1 hmem
      exact absurd (List.find?_eq_none.1 hfind x hx) (by simp [hno])
    split
    · next h =>
      obtain ⟨x, hx, hno⟩ := List.any_eq_true.1 h
      have : no' ≠ no := fun e => hne (List.mem_map.2 ⟨x, hx, by rw [e]; exact eq_of_beq hno⟩)
      simp [hmap, hfind, this]
    · rw [List.find?_append, hfind]
      by_cases e : no' = no
      · subst e
        simp [hg, hfind, Page.fresh]
      · simp [hg, Page.fresh, Ne.symm e, e]
  | some x =>
    have hx : x.no = no' := eq_of_beq (List.find?_some (p := fun y : Page => y.no == no') hfind)
    split
    · rw [hmap, hfind]
      by_cases e : no' = no
      · subst e
        simp [hx, hfind]
      · simp [hx, e]
    · next h =>
      have : no' ≠ no := by
        rintro rfl
        exact h (List.any_eq_true.2 ⟨x, List.mem_of_find?_eq_some hfind, by simp [hx]⟩)
      rw [List.find?_append, hfind]
      simp [this]

theorem range_modRange (p : Nat) (g : Range → Range) (s : State) (h : p < s.ranges.length) : (modRange p g s).range p = g (s.range p) :=
  getD_modifyAt_self _ _ _ _ h

theorem range_modRange_ne {p q : Nat} (g : Range → Range) (s : State) (h : q ≠ p) : (modRange p g s).range q = s.range q :=
  getD_modifyAt_ne _ _ _ _ _ h.symm

/-- The blocks of an extent are those of its addresses. -/
theorem mem_blocksIn {size a n : Nat} (hsize : 0 < size) (no : Nat) :
    no ∈ blocksIn size a n ↔ ∃ x, a ≤ x ∧ x < a + n ∧ x / size = no := by
  unfold blocksIn
  split
  · next h =>
    subst h
    simp only [List.not_mem_nil, false_iff, not_exists, not_and]
    omega
  · next h =>
    have hle : a / size ≤ (a + n - 1) / size := Nat.div_le_div_right (by omega)
    simp only [List.mem_map, List.mem_range]
    constructor
    · rintro ⟨i, hi, rfl⟩
      refine ⟨max a ((a / size + i) * size), by omega, ?_, ?_⟩
      · have hend : (a / size + i) * size ≤ a + n - 1 := (Nat.le_div_iff_mul_le hsize).1 (by omega)
        omega
      · rcases Nat.eq_zero_or_pos i with rfl | hi
        · rw [Nat.add_zero, Nat.max_eq_left (Nat.div_mul_le_self a size)]
        · have hlt : a < (a / size + i) * size := (Nat.div_lt_iff_lt_mul hsize).1 (by omega)
          rw [Nat.max_eq_right (by omega), Nat.mul_div_cancel _ hsize]
    · rintro ⟨x, hax, hxn, rfl⟩
      have hlo : a / size ≤ x / size := Nat.div_le_div_right hax
      have hhi : x / size ≤ (a + n - 1) / size := Nat.div_le_div_right (by omega)
      exact ⟨x / size - a / size, by omega, by omega⟩

/-! ## A write to pages in T1 -/

theorem allIntoT1_of_inT1 (p : Nat) {nos : List Nat} {s : State} (h : ∀ no ∈ nos, ((s.range p).page no).st.inT1 = true) :
    allIntoT1 p nos s = (.ready, s) := by
  induction nos with
  | nil => rfl
  | cons no nos ih =>
    have hno : intoT1 p no s = (.ready, s) := if_pos (h no (.head _))
    simp only [allIntoT1, hno]
    exact ih fun x hx => h x (.tail _ hx)

/-- Where every word of a page reads as written, a read finds no error. -/
theorem readWords_of_clean {p a n : Nat} (access : Nat) (sel : Nat → Bool) {s : State}
    (h : ∀ no ∈ blocksIn pageSize a n, ((s.range p).page no).errs = []) : readWords p a n access sel s = (none, s) := by
  unfold readWords
  generalize blocksIn pageSize a n = nos at h
  induction nos with
  | nil => rfl
  | cons no nos ih =>
    simp only [List.foldl_cons, h no (.head _), List.filter_nil, List.foldl_nil, ite_self]
    exact ih fun x hx => h x (.tail _ hx)

/-- Page `no` after a write-back write of an extent (R203, R208, R226). -/
def Page.wrote (hfn : Frame) (a n no : Nat) (g : Page) : Page :=
  { g with
    dirty := if g.st = .t1Only then g.dirty else g.dirty ||| subMask no a n
    lastAcc := hfn
    copy := g.copy.map fun c => { c with redirty := c.redirty ||| subMask no a n }
    errs := g.errs.filter fun e => !meet a n (no * pageSize + e.word * 64) 64 }

/-- A range after a write-back write into T1. -/
def Range.wrote (hfn : Frame) (a : Nat) (bs : List Byte) (r : Range) : Range :=
  (blocksIn pageSize a bs.length).foldl (fun r no => r.modPage no (Page.wrote hfn a bs.length no)) { r with t1 := memWrite r.t1 a bs }

/-- A write whose pages are in T1, none held by a copy and every word as written, is performed at once. -/
theorem writeBack_of_inT1 {p a : Nat} {bs : List Byte} {s : State}
    (h : ∀ no ∈ blocksIn pageSize a bs.length, ((s.range p).page no).st.inT1 = true ∧ ((s.range p).page no).errs = [] ∧
      ∀ c, ((s.range p).page no).copy = some c → c.hold = false) :
    writeBack p a bs s = (.ready, modRange p (Range.wrote s.hfn a bs) s) := by
  have hhold : ((blocksIn pageSize a bs.length).any fun no => ((s.range p).page no).copy.any (·.hold)) = false := by
    simp only [List.any_eq_false, Option.any_eq_true, not_exists, not_and]
    exact fun no hno c hc => by simp [(h no hno).2.2 c hc]
  unfold writeBack
  simp only [allIntoT1_of_inT1 p fun no hno => (h no hno).1, hhold, readWords_of_clean _ _ fun no hno => (h no hno).2.1]
  rfl

/-- Changes of pages that leave their numbers and states leave what the pages' states and the memories are. -/
theorem foldl_modPage_parts (g : Nat → Page → Page) (hno : ∀ k x, (g k x).no = x.no) (hst : ∀ k x, (g k x).st = x.st) (nos : List Nat)
    (r : Range) :
    (∀ k, ((nos.foldl (fun r no => r.modPage no (g no)) r).page k).st = (r.page k).st) ∧
      (nos.foldl (fun r no => r.modPage no (g no)) r).t1 = r.t1 ∧ (nos.foldl (fun r no => r.modPage no (g no)) r).t2 = r.t2 ∧
      (nos.foldl (fun r no => r.modPage no (g no)) r).t3 = r.t3 := by
  induction nos generalizing r with
  | nil => exact ⟨fun _ => rfl, rfl, rfl, rfl⟩
  | cons no nos ih =>
    obtain ⟨hpages, h1, h2, h3⟩ := ih (r.modPage no (g no))
    refine ⟨fun k => (hpages k).trans ?_, h1.trans (modPage_t1 ..), h2.trans (modPage_t2 ..), h3.trans (modPage_t3 ..)⟩
    rw [page_modPage _ _ _ _ (hno no)]
    split
    · next h => rw [h, hst]
    · rfl

/-- The current copy of a byte depends on its page's state and on the memories. -/
theorem byte_congr {r r' : Range} {x : Nat} (hst : (r'.page (x / pageSize)).st = (r.page (x / pageSize)).st)
    (h1 : memGet r'.t1 x = memGet r.t1 x) (h2 : r'.t2 = r.t2) (h3 : r'.t3 = r.t3) : r'.byte x = r.byte x := by
  unfold Range.byte
  rw [hst, h1, h2, h3]

theorem byte_of_inT1 {r : Range} {x : Nat} (h : (r.page (x / pageSize)).st.inT1 = true) : r.byte x = memGet r.t1 x := by
  unfold Range.byte
  cases hst : (r.page (x / pageSize)).st with
  | t1Only | t1OverT2 | t1OverT3 => rfl
  | unwritten | t2 | t3 => rw [hst] at h; cases h

theorem byte_wrote_outside (hfn : Frame) {a : Nat} {bs : List Byte} (r : Range) {x : Nat} (h : x < a ∨ a + bs.length ≤ x) :
    (r.wrote hfn a bs).byte x = r.byte x := by
  obtain ⟨hpages, h1, h2, h3⟩ := foldl_modPage_parts (Page.wrote hfn a bs.length) (fun _ _ => rfl) (fun _ _ => rfl)
    (blocksIn pageSize a bs.length) { r with t1 := memWrite r.t1 a bs }
  refine byte_congr (hpages _) ?_ h2 h3
  show memGet (r.wrote hfn a bs).t1 x = _
  rw [show (r.wrote hfn a bs).t1 = memWrite r.t1 a bs from h1, memGet_memWrite, if_neg (by omega)]

/-- What is written to pages in T1 reads back. -/
theorem read_wrote (hfn : Frame) {a : Nat} {bs : List Byte} {r : Range}
    (h : ∀ no ∈ blocksIn pageSize a bs.length, (r.page no).st.inT1 = true) : (r.wrote hfn a bs).read a bs.length = bs := by
  obtain ⟨hpages, h1, -, -⟩ := foldl_modPage_parts (Page.wrote hfn a bs.length) (fun _ _ => rfl) (fun _ _ => rfl)
    (blocksIn pageSize a bs.length) { r with t1 := memWrite r.t1 a bs }
  refine List.ext_getElem (by simp [Range.read]) fun i hi hbs => ?_
  have hblock : (a + i) / pageSize ∈ blocksIn pageSize a bs.length := (mem_blocksIn (by decide) _).2 ⟨a + i, by omega, by omega, rfl⟩
  have hin : (((r.wrote hfn a bs).page ((a + i) / pageSize)).st).inT1 = true := by
    rw [show ((r.wrote hfn a bs).page ((a + i) / pageSize)).st = _ from hpages _]
    exact h _ hblock
  simp only [Range.read, List.getElem_map, List.getElem_range]
  rw [byte_of_inT1 hin, show (r.wrote hfn a bs).t1 = memWrite r.t1 a bs from h1, memGet_memWrite, if_pos (by omega)]
  simp [hbs]

/-! ## Reads of pages in T1 -/

/-- A read of pages in T1 or unwritten, every word as written, answers the current copies. -/
theorem readFor_of_high {p a n : Nat} (access : Nat) {s : State}
    (hst : ∀ no ∈ blocksIn pageSize a n, ((s.range p).page no).st.inT1 = true ∨ ((s.range p).page no).st = .unwritten)
    (herrs : ∀ no ∈ blocksIn pageSize a n, ((s.range p).page no).errs = []) :
    readFor p a n access s = ((none, (s.range p).read a n), touch p a n s) := by
  have hne : ∀ no ∈ blocksIn pageSize a n, ((s.range p).page no).st ≠ .t2 ∧ ((s.range p).page no).st ≠ .t3 := by
    intro no hno
    rcases hst no hno with h | h
    · constructor <;> intro e <;> rw [e] at h <;> cases h
    · rw [h]
      exact ⟨nofun, nofun⟩
  have hunit : ∀ u ∈ blocksIn unitSize a n, u / 4 ∈ blocksIn pageSize a n := by
    intro u hu
    obtain ⟨x, hax, hxn, rfl⟩ := (mem_blocksIn (by decide) u).1 hu
    refine (mem_blocksIn (by decide) _).2 ⟨x, hax, hxn, ?_⟩
    rw [Nat.div_div_eq_div_mul]
    rfl
  have hlow2 : ((blocksIn pageSize a n).any fun no => ((s.range p).page no).st == .t2) = false := by
    simpa [List.any_eq_false] using fun no hno => (hne no hno).1
  have hbad2 : ((blocksIn pageSize a n).any fun no => ((s.range p).page no).st == .t2 && (s.range p).t2Bad.contains no) = false := by
    simp only [List.any_eq_false, Bool.and_eq_true, beq_iff_eq, not_and]
    exact fun no hno e => absurd e (hne no hno).1
  have hbad3 : ((blocksIn unitSize a n).any fun u => ((s.range p).page (u / 4)).st == .t3 && s.flash.bad ⟨0, p, u⟩) = false := by
    simp only [List.any_eq_false, Bool.and_eq_true, beq_iff_eq, not_and]
    exact fun u hu e => absurd e (hne _ (hunit u hu)).2
  unfold readFor
  simp only [hlow2, hbad2, hbad3, readWords_of_clean _ _ herrs, Bool.false_eq_true, if_false]

end Sys2Proof.Machine

namespace Sys2Proof.Machine
-- The whole text is compiled by one process of limited memory: one proof at a time keeps it small.
set_option Elab.async false

/-! ## What reaches the host while pages move -/

/-- What a function sends the host of its own accord: writes, reads, interrupts. -/
def Out.unasked : Out → Bool
  | .write .. | .read .. | .msix .. => true
  | _ => false

/-- A function's state but its event ring and the state of its vectors. -/
def FnState.beside (x : FnState) : FnState := { x with eq := (FnState.reset false).eq, msix := [] }

/-- At most host writes, host reads and interrupts leave, and of the functions only event rings and vectors change. -/
structure Quiet (s t : State) : Prop where
  out : ∃ xs : List Out, t.out = s.out ++ xs ∧ ∀ x ∈ xs, x.unasked = true
  fns : t.fns.map FnState.beside = s.fns.map FnState.beside

theorem Quiet.refl (s : State) : Quiet s s := ⟨⟨[], by simp, by simp⟩, rfl⟩

theorem Quiet.trans {s t u : State} (h : Quiet s t) (k : Quiet t u) : Quiet s u := by
  obtain ⟨⟨xs, hxs, hx⟩, hf⟩ := h
  obtain ⟨⟨ys, hys, hy⟩, kf⟩ := k
  refine ⟨⟨xs ++ ys, by rw [hys, hxs, List.append_assoc], fun o ho => ?_⟩, kf.trans hf⟩
  exact (List.mem_append.1 ho).elim (hx o) (hy o)

theorem Quiet.ite {c : Prop} [Decidable c] {s a b : State} (h : Quiet s a) (k : Quiet s b) : Quiet s (if c then a else b) := by
  split <;> assumption

theorem Quiet.foldl {α : Type} {f : State → α → State} (k : ∀ t x, Quiet t (f t x)) (xs : List α) (s : State) :
    Quiet s (xs.foldl f s) := by
  induction xs generalizing s with
  | nil => exact .refl s
  | cons x xs ih => exact (k s x).trans (ih _)

theorem Quiet.of_keeps {ps : List Area} {s t : State} (k : Keeps ps s t) (ho : ps.contains .out = false := by rfl)
    (hf : ps.contains .fns = false := by rfl) : Quiet s t :=
  ⟨⟨[], by rw [k.out ho, List.append_nil], by simp⟩, by rw [k.fns hf]⟩

theorem Quiet.of2 {α : Type} {s t : State} {e : α × State} {a : α} (h : e = (a, t)) (k : Quiet s e.2) : Quiet s t := by
  subst h
  exact k

theorem emit_quiet {o : Out} (h : o.unasked = true) (s : State) : Quiet s (emit o s) := ⟨⟨[o], rfl, by simpa using h⟩, rfl⟩

theorem modFn_quiet (f : Fn) (g : FnState → FnState) (s : State) (hg : ∀ x, (g x).beside = x.beside := by exact fun _ => rfl) :
    Quiet s (modFn f g s) := by
  refine ⟨⟨[], by simp, by simp⟩, ?_⟩
  show (modifyAt s.fns f.val g).map FnState.beside = _
  rw [modifyAt_eq_modify]
  refine List.ext_getElem? fun i => ?_
  rw [List.getElem?_map, List.getElem?_modify, List.getElem?_map]
  split
  · cases s.fns[i]? <;> simp [hg]
  · simp

/-- Every function keeps what is not its event ring or its vectors. -/
theorem Quiet.fn {s t : State} (h : Quiet s t) (f : Fn) : (t.fn f).beside = (s.fn f).beside := by
  have hi := congrArg (fun xs : List FnState => xs[f.val]?) h.fns
  simp only [List.getElem?_map] at hi
  unfold State.fn
  rw [List.getD_eq_getElem?_getD, List.getD_eq_getElem?_getD]
  cases ht : t.fns[f.val]? <;> cases hs : s.fns[f.val]? <;> simp_all

theorem Quiet.length_fns {s t : State} (h : Quiet s t) : t.fns.length = s.fns.length := by
  simpa using congrArg List.length h.fns

theorem hostWrite_quiet (f : Fn) (a : Nat) (bs : List Byte) (s : State) : Quiet s (hostWrite f a bs s) := .ite (emit_quiet rfl s) (.refl s)

theorem fire_quiet (f : Fn) (v : Nat) (s : State) : Quiet s (fire f v s) :=
  .ite (.ite (modFn_quiet ..) (emit_quiet rfl s)) (.refl s)

theorem eqIrq_quiet (f : Fn) (s : State) : Quiet s (eqIrq f s) := by
  unfold eqIrq
  refine (modFn_quiet f (fun y => { y with eq := { y.eq with irq := y.eq.ctl } }) s).trans ?_
  exact .ite (.ite ((modFn_quiet ..).trans (fire_quiet ..)) (modFn_quiet ..)) (modFn_quiet ..)

theorem postEventAt_quiet (hfn : Frame) (f : Fn) (ev pv : Nat) (data : List Byte) (s : State) :
    Quiet s (postEventAt hfn f ev pv data s) := by
  unfold postEventAt putEq
  refine .ite (.ite (modFn_quiet ..) ?_) (.refl s)
  exact ((hostWrite_quiet ..).trans (modFn_quiet ..)).trans (eqIrq_quiet ..)

theorem memError_quiet (p tier access off : Nat) (s : State) : Quiet s (memError p tier access off s) := by
  have hmark : Quiet s { s with tier := { s.tier with uncorrSeen := true } } := ⟨⟨[], by simp, by simp⟩, rfl⟩
  exact hmark.trans (postEventAt_quiet ..)

theorem t2Read_quiet (p a n : Nat) (s : State) : Quiet s (t2Read p a n s) :=
  .foldl (fun t _ => .ite (emit_quiet rfl t) (.refl t)) _ s

theorem t2Write_quiet (p no mask : Nat) (s : State) : Quiet s (t2Write p no mask s) := by
  unfold t2Write
  exact (Quiet.foldl (fun t i => .ite (emit_quiet rfl t) (.refl t)) (List.range 16) s).trans (.of_keeps (modRange_keeps ..))

theorem readWord_quiet (p no access : Nat) (x : Option Status × State) (e : WordErr) : Quiet x.2 (readWord p no access x e).2 := by
  obtain ⟨st, s⟩ := x
  unfold readWord
  dsimp only
  split
  · exact (Quiet.of_keeps (modRange_keeps ..)).trans (.of_keeps (countCe_keeps ..))
  · split
    · have hread : Quiet s (if ((s.range p).page no).st = .t1OverT2 then
          t2Read p (no * pageSize + e.word / 64 * subSize) subSize s else s) := .ite (t2Read_quiet ..) (.refl s)
      exact (hread.trans (.of_keeps (modRange_keeps ..))).trans (.of_keeps (countCe_keeps ..))
    · exact (memError_quiet ..).trans (.of_keeps (countUe_keeps ..))

theorem foldl_quiet2 {α β : Type} {f : β × State → α → β × State} (k : ∀ x a, Quiet x.2 (f x a).2) (xs : List α) (x : β × State) :
    Quiet x.2 (xs.foldl f x).2 := by
  induction xs generalizing x with
  | nil => exact .refl _
  | cons a xs ih => exact (k x a).trans (ih _)

theorem readWords_quiet (p a n access : Nat) (sel : Nat → Bool) (s : State) : Quiet s (readWords p a n access sel s).2 := by
  refine foldl_quiet2 (fun x no => ?_) _ (none, s)
  dsimp only
  split
  · exact foldl_quiet2 (readWord_quiet p no access) _ x
  · exact .refl _

theorem readSubs_quiet (p no mask : Nat) (s : State) : Quiet s (readSubs p no mask s) := by
  unfold readSubs
  dsimp only
  split
  · exact (t2Read_quiet ..).trans (.ite (memError_quiet ..) (.refl _))
  · exact readWords_quiet ..

theorem copyDown_quiet (p no : Nat) (us : List Nat) (work page : Option Nat) (s : State) : Quiet s (copyDown p no us work page s) :=
  (readSubs_quiet ..).trans (.foldl (fun _ _ => .of_keeps (unitToT3_keeps ..)) _ _)

theorem beginDown_quiet (p no tier : Nat) (policy : Bool) (work : Option Nat) (s : State) : Quiet s (beginDown p no tier policy work s).2 := by
  unfold beginDown
  extract_lets r g skip set us
  have hset : Quiet s (set s) := .of_keeps (modPage_keeps ..)
  clear_value set
  split
  · exact .refl s
  · split
    · split
      · split
        · exact hset.trans (.of_keeps (askPage_keeps ..))
        · exact (hset.trans (readSubs_quiet ..)).trans (t2Write_quiet ..)
      · exact .refl s
    · split
      · exact .of_keeps (noteQuota_keeps ..)
      · split
        · exact .refl s
        · exact hset.trans (copyDown_quiet ..)

theorem switchPage_quiet (p no tier : Nat) (s : State) : Quiet s (switchPage p no tier s) := by
  unfold switchPage
  refine Quiet.trans (t := if tier = 2 ∧ ((s.range p).page no).st = .t3 then t2Write p no 0xFFFF s else s) ?_ (.of_keeps (modRange_keeps ..))
  exact .ite (t2Write_quiet ..) (.refl s)

theorem demoteFirst_quiet (p : Nat) (gs : List Page) (s : State) : Quiet s (demoteFirst p gs s).2 := by
  induction gs generalizing s with
  | nil => exact .refl s
  | cons g gs ih =>
    unfold demoteFirst
    dsimp only
    split
    · exact (switchPage_quiet ..).trans (.of_keeps (migrated_keeps _))
    · have hdown := beginDown_quiet p g.no (policyTier s p g) true none s
      split
      · next h => exact (Quiet.of2 h hdown).trans (ih _)
      · next h => exact Quiet.of2 h hdown

theorem freeFrame_quiet (p : Nat) (s : State) : Quiet s (freeFrame p s).2 := by
  unfold freeFrame
  dsimp only
  split
  · exact .refl s
  · split
    · exact .refl s
    · exact demoteFirst_quiet ..

theorem beginUp_quiet (p no : Nat) (policy : Bool) (work : Option Nat) (s : State) : Quiet s (beginUp p no policy work s).2 := by
  unfold beginUp
  split
  · exact .refl s
  · have hfree := freeFrame_quiet p s
    split
    · next t h =>
      have hcopy : Quiet s (modPage p no (fun g => { g with copy := some ⟨1, policy, 0, 0, work, 0, false⟩ }) t) :=
        (Quiet.of2 h hfree).trans (.of_keeps (modPage_keeps ..))
      exact hcopy.trans (.ite (.of_keeps (askPage_keeps ..)) (t2Read_quiet ..))
    · exact hfree

theorem promote_quiet (p no : Nat) (s : State) : Quiet s (promote p no s) := by
  unfold promote
  split
  · exact beginUp_quiet ..
  · exact beginUp_quiet ..
  · exact .refl s

/-- Quiet operations answer no BAR2 read. -/
theorem Quiet.bar2Data {s t : State} (h : Quiet s t) {f : Fn} {a : Nat} {d : List Byte} (hmem : Out.bar2Data f a d ∈ t.out) :
    Out.bar2Data f a d ∈ s.out := by
  obtain ⟨xs, hxs, hx⟩ := h.out
  rw [hxs] at hmem
  exact (List.mem_append.1 hmem).resolve_right fun hin => Bool.false_ne_true (hx _ hin)

theorem Quiet.bar2Reqs {s t : State} (h : Quiet s t) (f : Fn) : (t.fn f).bar2Reqs = (s.fn f).bar2Reqs := by
  have hreqs := congrArg FnState.bar2Reqs (h.fn f)
  exact hreqs

/-! ## BAR2 -/

/-- A function that is up has its link, exists and is in D0. -/
theorem linkUp_of_fnUp {s : State} {f : Fn} (h : s.fnUp f = true) : s.linkUp = true ∧ (s.fn f).enabled = true ∧ (s.fn f).d3 = false := by
  unfold State.fnUp at h
  simp only [Bool.and_eq_true, Bool.not_eq_true'] at h
  exact ⟨h.1.1.1, h.1.1.2, h.1.2⟩

/-- A BAR2 access of a VF that is up goes on to the pages. -/
theorem doBar2_of_up {f : Fn} {write : Bool} {off len : Nat} {data : List Byte} {s : State} (hf : f.val ≠ 0) (hlive : s.live = true)
    (hup : s.fnUp f = true) (hend : off + len ≤ 2 ^ 36) (hlen : 0 < len) :
    doBar2 f write off len data s =
      let q : Bar2Req := ⟨write, bar2Addr s f off, len, data, s.hfn⟩
      let hold (s : State) : State := modFn f (fun y => { y with bar2Reqs := y.bar2Reqs ++ [q] }) s
      if write && decide (2 ^ 20 < len + sumNat (((s.fn f).bar2Reqs.filter (·.write)).map (·.len))) then s
      else if bar2Ready s (pvOf f) q && (s.fn f).bar2Reqs.all (bar2Pass q) then
        if (serveBar2 f q s).1 then (serveBar2 f q s).2 else hold (serveBar2 f q s).2
      else hold ((blocksIn pageSize q.addr q.len).foldl (fun s no => promote (pvOf f) no s) s) := by
  obtain ⟨hlink, henabled, -⟩ := linkUp_of_fnUp hup
  unfold doBar2
  rw [if_pos (by simp only [hlink, henabled, decide_eq_true hend, decide_eq_true hlen, bne_iff_ne.2 hf, Bool.and_self])]
  simp only [hup, hlive, Bool.not_true, Bool.false_eq_true, if_false, if_true]
  refine ite_congr rfl (fun _ => rfl) fun _ => ite_congr rfl (fun _ => ?_) fun _ => rfl
  generalize serveBar2 f ⟨write, bar2Addr s f off, len, data, s.hfn⟩ s = x
  obtain ⟨b, t⟩ := x
  cases b <;> rfl

theorem bar2Ready_iff {s : State} {p : Nat} {q : Bar2Req} : bar2Ready s p q = true ↔
    ∀ no ∈ blocksIn pageSize q.addr q.len, ((s.range p).page no).st ≠ .t2 ∧ ((s.range p).page no).st ≠ .t3 := by
  unfold bar2Ready
  simp only [List.all_eq_true]
  refine forall₂_congr fun no _ => ?_
  cases ((s.range p).page no).st <;> simp

theorem not_low_of_high {st : PState} (h : st.inT1 = true ∨ st = .unwritten) : st ≠ .t2 ∧ st ≠ .t3 := by
  cases st <;> simp [PState.inT1] at h ⊢

/-- A write whose pages are in T1 is performed at once, and nothing but its range changes. -/
theorem doBar2_write_of_inT1 {f : Fn} {off : Nat} {data : List Byte} {s : State} (hf : f.val ≠ 0) (hlive : s.live = true)
    (hup : s.fnUp f = true) (hend : off + data.length ≤ 2 ^ 36) (hne : data ≠ []) (hmax : data.length ≤ 2 ^ 20)
    (hreqs : (s.fn f).bar2Reqs = [])
    (hpages : ∀ no ∈ blocksIn pageSize (bar2Addr s f off) data.length, ((s.range (pvOf f)).page no).st.inT1 = true ∧
      ((s.range (pvOf f)).page no).errs = [] ∧ ∀ c, ((s.range (pvOf f)).page no).copy = some c → c.hold = false) :
    doBar2 f true off data.length data s = modRange (pvOf f) (Range.wrote s.hfn (bar2Addr s f off) data) s := by
  have hserve : serveBar2 f ⟨true, bar2Addr s f off, data.length, data, s.hfn⟩ s =
      (true, modRange (pvOf f) (Range.wrote s.hfn (bar2Addr s f off) data) s) := by
    simp only [serveBar2, if_true, writeBack_of_inT1 hpages]
  have hready : bar2Ready s (pvOf f) ⟨true, bar2Addr s f off, data.length, data, s.hfn⟩ = true :=
    bar2Ready_iff.2 fun no hno => not_low_of_high (.inl (hpages no hno).1)
  rw [doBar2_of_up hf hlive hup hend (List.length_pos_iff.2 hne)]
  simp only [hserve, hready, hreqs]
  simp only [List.filter_nil, List.map_nil, List.all_nil, sumNat, List.foldl_nil, Nat.add_zero, decide_eq_false (Nat.not_lt.2 hmax)]
  simp

/-- A read of pages in T1 or unwritten is answered at once. -/
theorem doBar2_read_of_high {f : Fn} {off len : Nat} {s : State} (hf : f.val ≠ 0) (hlive : s.live = true) (hup : s.fnUp f = true)
    (hlen : 0 < len) (hend : off + len ≤ 2 ^ 36) (hreqs : (s.fn f).bar2Reqs = [])
    (hst : ∀ no ∈ blocksIn pageSize (bar2Addr s f off) len, ((s.range (pvOf f)).page no).st.inT1 = true ∨
      ((s.range (pvOf f)).page no).st = .unwritten)
    (herrs : ∀ no ∈ blocksIn pageSize (bar2Addr s f off) len, ((s.range (pvOf f)).page no).errs = []) :
    doBar2 f false off len [] s = emit (.bar2Data f (bar2Addr s f off) ((s.range (pvOf f)).read (bar2Addr s f off) len))
      (touch (pvOf f) (bar2Addr s f off) len s) := by
  have hserve : serveBar2 f ⟨false, bar2Addr s f off, len, [], s.hfn⟩ s =
      (true, emit (.bar2Data f (bar2Addr s f off) ((s.range (pvOf f)).read (bar2Addr s f off) len))
        (touch (pvOf f) (bar2Addr s f off) len s)) := by
    simp only [serveBar2, Bool.false_eq_true, if_false, readFor_of_high 4 hst herrs]
  have hready : bar2Ready s (pvOf f) ⟨false, bar2Addr s f off, len, [], s.hfn⟩ = true :=
    bar2Ready_iff.2 fun no hno => not_low_of_high (hst no hno)
  rw [doBar2_of_up hf hlive hup hend hlen]
  simp [hserve, hready, hreqs]

/-- A read that meets a page below T1 waits, behind the promotions that it begins. -/
theorem doBar2_read_of_low {f : Fn} {off len : Nat} {s : State} (hf : f.val ≠ 0) (hlive : s.live = true) (hup : s.fnUp f = true)
    (hlen : 0 < len) (hend : off + len ≤ 2 ^ 36)
    (hlow : ∃ no ∈ blocksIn pageSize (bar2Addr s f off) len, ((s.range (pvOf f)).page no).st = .t2 ∨
      ((s.range (pvOf f)).page no).st = .t3) :
    ∃ u, Quiet s u ∧ doBar2 f false off len [] s =
      modFn f (fun y => { y with bar2Reqs := y.bar2Reqs ++ [⟨false, bar2Addr s f off, len, [], s.hfn⟩] }) u := by
  have hready : bar2Ready s (pvOf f) ⟨false, bar2Addr s f off, len, [], s.hfn⟩ = false := by
    obtain ⟨no, hno, hst⟩ := hlow
    rw [← Bool.not_eq_true, bar2Ready_iff]
    exact fun h => hst.elim (h no hno).1 (h no hno).2
  refine ⟨_, Quiet.foldl (fun t no => promote_quiet (pvOf f) no t) (blocksIn pageSize (bar2Addr s f off) len) s, ?_⟩
  rw [doBar2_of_up hf hlive hup hend hlen]
  simp [hready]

theorem doBar2Expiry_of_first {f : Fn} {q : Bar2Req} {qs : List Bar2Req} {s : State} (hlive : s.live = true)
    (hreqs : (s.fn f).bar2Reqs = q :: qs) :
    doBar2Expiry f s =
      if fld s.tier.cfgEff 23 16 ≤ 2 * (s.hfn - q.arrived) then
        let s := modFn f (fun y => { y with bar2Reqs := y.bar2Reqs.drop 1 }) s
        if q.write then modTier (fun t => { t with bar2Drop := true }) s
        else emit (.abort f) (modTier (fun t => { t with bar2Abort := true }) s)
      else s := by
  simp [doBar2Expiry, hreqs, hlive]

/-! ## The window registers -/

theorem exec_tierCfgWrite {s : State} (v : W32) (hup : s.bar0Up0 = true) :
    exec (.tierCfgWrite v) s = .next (modTier (fun t =>
      if fld v 15 8 = 0 ∨ fld v 23 16 = 0 ∨ fld v 31 24 = 0 ∨ 168 < fld v 31 24 then { t with cfgReject := true }
      else { t with cfg := v &&& 0xFFFF_FF03#32 }) s) := by
  refine congrArg Host.Outcome.next ?_
  unfold writeTierCfg
  rw [if_pos hup]
  have hbad : (fld v 15 8 = 0 || fld v 23 16 = 0 || !inRange 1 (fld v 31 24) 168) = true ↔
      fld v 15 8 = 0 ∨ fld v 23 16 = 0 ∨ fld v 31 24 = 0 ∨ 168 < fld v 31 24 := by
    simp [inRange, or_assoc]
  by_cases h : fld v 15 8 = 0 ∨ fld v 23 16 = 0 ∨ fld v 31 24 = 0 ∨ 168 < fld v 31 24
  · rw [if_pos (hbad.2 h)]
    simp [modTier, h]
  · rw [if_neg (mt hbad.1 h)]
    simp [modTier, h]

/-- The T2 window's registers are refused while the window is used (R231). -/
theorem writeT2_of_inUse {f : Fn} {reg : Nat} {s : State} (v : W32) (hf : f.val ≠ 0) (hup : s.fnUp f = true) (hreg : reg < 3)
    (huse : (s.range (pvOf f)).t2InUse = true) : writeT2 f reg v s = modRange (pvOf f) (fun r => { r with vReject := true }) s := by
  simp [writeT2, hf, hup, hreg, huse]

theorem writeT2_of_free {f : Fn} {reg : Nat} {s : State} (v : W32) (hf : f.val ≠ 0) (hup : s.fnUp f = true) (hreg : reg < 3)
    (huse : (s.range (pvOf f)).t2InUse = false)
    (hsum : reg = 2 → sumNat (s.ranges.zipIdx.map fun (x, i) => if i = pvOf f then 0 else x.t2Pages) + fld v 26 0 ≤ 0x4000000) :
    writeT2 f reg v s = modRange (pvOf f) (fun r => if reg = 0 then { r with t2Lo := v &&& 0xFFFF_0000#32 }
      else if reg = 1 then { r with t2Hi := v } else { r with t2Size := v &&& 0x07FF_FFFF#32 }) s := by
  unfold writeT2
  rw [if_pos (by simp [hf, hup, hreg])]
  refine if_neg ?_
  simp only [huse, Bool.false_or, Bool.and_eq_true, beq_iff_eq, decide_eq_true_eq, not_and, not_lt]
  exact hsum

theorem exec_bar2WinWrite {f : Fn} {s : State} (v : W32) (hf : f.val ≠ 0) (hup : s.fnUp f = true) :
    exec (.bar2WinWrite f v) s = .next (if 239 < fld v 7 0 then modRange (pvOf f) (fun r => { r with vReject := true }) s
      else modFn f (fun y => { y with bar2Win := v &&& 0xFF#32 }) s) :=
  congrArg Host.Outcome.next (if_pos (by simp [hf, hup]))

/-- Settles O35: accesses to pages in T1 are served at once, others wait behind promotions, which answer no read; the registers act as
their guards say. -/
theorem hostMemory : Obligations.HostMemory := by
  unfold Obligations.HostMemory
  intro s f off hf hlive hup
  refine ⟨fun data hend hne hmax hreqs hp hpages => ?_, fun len hlen hend hreqs hst herrs => ?_, fun len hlen hend hlow => ?_,
    fun q qs hreqs => ⟨fun hdue => ⟨fun hw => ?_, fun hw => ?_⟩, fun hearly => ?_⟩,
    fun v hup0 => ⟨fun h1 h2 h3 h4 => ?_, fun hbad => ?_⟩, fun v huse => ⟨?_, ?_, fun hsum => ?_⟩, fun v reg hreg huse => ?_,
    fun v => ⟨fun h => ?_, fun h => ?_⟩⟩
  · refine ⟨_, congrArg Host.Outcome.next (doBar2_write_of_inT1 hf hlive hup hend hne hmax hreqs hpages), ?_, fun a ha => ?_,
      fun q hq => range_modRange_ne _ _ hq, rfl, rfl⟩
    · rw [range_modRange _ _ _ hp]
      exact read_wrote _ fun no hno => (hpages no hno).1
    · rw [range_modRange _ _ _ hp]
      exact byte_wrote_outside _ _ ha
  · exact congrArg Host.Outcome.next (doBar2_read_of_high hf hlive hup hlen hend hreqs hst herrs)
  · obtain ⟨u, hquiet, hu⟩ := doBar2_read_of_low hf hlive hup hlen hend hlow
    refine ⟨_, congrArg Host.Outcome.next hu, fun a d h => hquiet.bar2Data h, ?_⟩
    rw [fn_modFn _ _ _ (by rw [hquiet.length_fns]; exact fn_lt_of_fnUp s f hup)]
    rw [hquiet.bar2Reqs]
  · refine congrArg Host.Outcome.next ((doBar2Expiry_of_first hlive hreqs).trans ?_)
    simp [hdue, hw, modTier, modFn]
  · refine congrArg Host.Outcome.next ((doBar2Expiry_of_first hlive hreqs).trans ?_)
    simp [hdue, hw, modTier, modFn, emit]
  · exact congrArg Host.Outcome.next ((doBar2Expiry_of_first hlive hreqs).trans (if_neg (Nat.not_le.2 hearly)))
  · rw [exec_tierCfgWrite v hup0]
    simp only [modTier, if_neg (by omega : ¬(fld v 15 8 = 0 ∨ fld v 23 16 = 0 ∨ fld v 31 24 = 0 ∨ 168 < fld v 31 24))]
  · rw [exec_tierCfgWrite v hup0]
    simp only [modTier, if_pos hbad]
  · exact congrArg Host.Outcome.next (writeT2_of_free (reg := 0) v hf hup (by decide) huse nofun)
  · exact congrArg Host.Outcome.next (writeT2_of_free (reg := 1) v hf hup (by decide) huse nofun)
  · exact congrArg Host.Outcome.next (writeT2_of_free (reg := 2) v hf hup (by decide) huse fun _ => hsum)
  · exact congrArg Host.Outcome.next (writeT2_of_inUse v hf hup hreg huse)
  · exact (exec_bar2WinWrite v hf hup).trans (congrArg Host.Outcome.next (if_neg (by omega)))
  · exact (exec_bar2WinWrite v hf hup).trans (congrArg Host.Outcome.next (if_pos h))

end Sys2Proof.Machine

/-! O12, O13: the servo's samples, the alignment states, and the boundaries (R34 to R43, R49 to R53, R426). -/

namespace Sys2Proof.Machine
-- The whole text is compiled by one process of limited memory: one proof at a time keeps it small.
set_option Elab.async false

/-! ## The boundaries -/

theorem phaseUp_of_lodgeUp {s : State} (h : s.lodgeUp = true) : s.phase.up = true := by
  unfold State.lodgeUp at h
  cases hp : s.phase with
  | off | held _ => rw [hp] at h; cases h
  | boot _ | failed _ | lodgeOnly | running => rfl

/-- An error in the SRAM of a Lodge that runs resets the node for a firmware fault, unless a reset or a flush is waited for (R401, R426). -/
theorem lodgeFault_of_running {b : BootIn} {u : State} (hup : u.lodgeUp = true) (hpend : u.pwr.resetPending = none)
    (hflush : u.pwr.flush = none) : lodgeFault (some b) u = firmwareReset b u := by
  simp [lodgeFault, firmwareDown, hup, hpend, hflush]

/-- After a firmware-fault reset: the cause, the clock of the reset state, no work. -/
theorem firmwareReset_parts (b : BootIn) (u : State) :
    (firmwareReset b u).pwr.cause = 3 ∧ (firmwareReset b u).clk = Clock.reset ∧ (firmwareReset b u).works = [] := by
  have hlog : Keeps [.lodge] (boot b (nodeReset 3 true u)) (firmwareReset b u) := addLog_keeps 6 [] [] _
  obtain ⟨hclk, hworks, hcause⟩ := boot_nodeReset b 3 true u
  exact ⟨(congrArg Power.cause hlog.pwr).trans hcause, hlog.clk.trans hclk, hlog.works.trans hworks⟩

/-- A slot boundary in its turn without an error of the Lodge. -/
theorem exec_slotBoundary_opens {x : SlotIn} {s : State} (hlodge : x.lodge = none) (hup : s.phase.up = true)
    (hslot : s.clk.slot ≠ some 15) :
    ∃ t, exec (.slotBoundary x) s = .next t ∧ t.clk.slot = some s.clk.nextSlot ∧ t.clk.hfn = s.clk.hfn ∧
      t.scan.permitEff = s.scan.permitCap := by
  obtain ⟨u, hu, hopen⟩ := doSlot_of_turn x hup hslot
  rw [hlodge, lodgeFault_none] at hu
  exact ⟨u, congrArg Host.Outcome.next hu, by rw [hopen.clk], by rw [hopen.clk], hopen.permit⟩

theorem exec_slotBoundary_fault {x : SlotIn} {b : BootIn} {s : State} (hlodge : x.lodge = some b) (hslot : s.clk.slot ≠ some 15)
    (hup : s.lodgeUp = true) (hpend : s.pwr.resetPending = none) (hflush : s.pwr.flush = none) (hask : s.pwr.flushPend = none) :
    ∃ t, exec (.slotBoundary x) s = .next t ∧ t.pwr.cause = 3 ∧ t.clk = Clock.reset ∧ t.works = [] := by
  obtain ⟨u, hu, hopen⟩ := doSlot_of_turn x (phaseUp_of_lodgeUp hup) hslot
  have hwait := hopen.waiting hflush hask
  have hupu : u.lodgeUp = true := by
    unfold State.lodgeUp at hup ⊢
    rw [hopen.phase]
    exact hup
  rw [hlodge, lodgeFault_of_running hupu ((congrArg Prod.fst hwait).trans hpend)
    ((congrArg (fun w => w.2.1) hwait).trans hflush)] at hu
  exact ⟨_, congrArg Host.Outcome.next hu, firmwareReset_parts b u⟩

/-- Settles O13: the frame boundary by `doFrame_frameWords`, the slot boundary by `doSlot_of_turn`. -/
theorem boundariesAdvance : Obligations.BoundariesAdvance := by
  unfold Obligations.BoundariesAdvance
  intro s
  refine ⟨fun off choice hup hslot => ?_, fun off choice hslot => ?_, fun x hlodge hup hslot => ?_, fun x k hlodge hup hslot hk => ?_,
    fun x b hlodge hslot hup hpend hflush hask => exec_slotBoundary_fault hlodge hslot hup hpend hflush hask, fun x hslot => ?_⟩
  · have hwords := doFrame_frameWords off choice hup hslot
    have hclk : (doFrame off choice s).clk = s.clk.tick off choice := congrArg Prod.fst hwords
    obtain ⟨hhfn, hjump, hnone, heff⟩ := Clock.tick_frame off choice s.clk
    rw [← hclk] at hhfn hjump hnone heff
    exact ⟨_, rfl, hhfn, hjump, hnone, heff, congrArg (fun w => w.2.1.2) hwords, congrArg (fun w => w.2.2.2) hwords⟩
  · exact congrArg Host.Outcome.next (doFrame_out_of_turn off choice (.inr hslot))
  · obtain ⟨t, ht, hnext, hrest⟩ := exec_slotBoundary_opens hlodge hup (by simp [hslot])
    exact ⟨t, ht, by rw [hnext, Clock.nextSlot, hslot], hrest⟩
  · obtain ⟨t, ht, hnext, hrest⟩ := exec_slotBoundary_opens hlodge hup (by simp [hslot]; omega)
    exact ⟨t, ht, by rw [hnext, Clock.nextSlot, hslot], hrest⟩
  · exact congrArg Host.Outcome.next (doSlot_out_of_turn x (.inr hslot))

/-! ## Samples -/

theorem exec_ptpSample (p : PtpIn) {s : State} (hlive : s.live = true) : exec (.ptpSample p) s = .next { s with clk := s.clk.ptp p } :=
  congrArg Host.Outcome.next (if_pos hlive)

theorem exec_ppsEdge (p : PpsIn) {s : State} (hlive : s.live = true) : exec (.ppsEdge p) s = .next { s with clk := s.clk.pps p } :=
  congrArg Host.Outcome.next (if_pos hlive)

theorem ptp_of_no_source {p : PtpIn} {c : Clock} (h : fld c.eff 1 0 = 0) : c.ptp p = c := if_pos h

/-- A sample before the origin, or too far from the prediction of a steered clock, is rejected (R40). -/
theorem ptp_of_rejected {p : PtpIn} {c : Clock} (hsrc : fld c.eff 1 0 ≠ 0)
    (h : p.t < c.originNs ∨ c.align.aligned = true ∧ 2000 < p.dev.natAbs) :
    c.ptp p = { c with ptpRej := (c.ptpRej + 1) % 256, rejRun := c.rejRun + 1 } := by
  have hreject : c.reject true = { c with ptpRej := (c.ptpRej + 1) % 256, rejRun := c.rejRun + 1 } := rfl
  unfold Clock.ptp
  rw [if_neg (show ¬c.timeSrc = 0 from hsrc)]
  by_cases ht : p.t < c.originNs
  · rw [if_pos ht, hreject]
  · obtain ⟨ha, hd⟩ := h.resolve_left ht
    rw [if_neg ht, if_pos (by simp [ha, hd]), hreject]

/-- A sample that is not rejected is accepted; in FREE and UNALIGNED it schedules ACQUIRE and the jump (R36, R38). -/
theorem ptp_of_accepted {p : PtpIn} {c : Clock} (hsrc : fld c.eff 1 0 ≠ 0) (ht : c.originNs ≤ p.t)
    (hd : ¬(c.align.aligned = true ∧ 2000 < p.dev.natAbs)) :
    c.ptp p = if (c.align = .free ∨ c.align = .unaligned) ∧ c.jump = none then
        { c.accept true p.offset with alignNext := some .acquire, jump := some ((p.endNs - c.originNs + 19999) / 20000) }
      else c.accept true p.offset := by
  unfold Clock.ptp
  rw [if_neg (show ¬c.timeSrc = 0 from hsrc), if_neg (Nat.not_lt.2 ht), if_neg (by simpa using hd)]
  rfl

/-- In LOCKED an accepted sample restarts the ages and moves the offset. -/
theorem accept_of_locked {ptp : Bool} {off : Int} {c : Clock} (h : c.align = .locked) :
    c.accept ptp off = { c with ptpAge := if ptp then some 0 else c.ptpAge, ppsAge := if ptp then c.ppsAge else some 0, sampleAge := 0,
                                rejRun := 0, offset := off, secondFixed := c.secondFixed || ptp } := by
  simp [Clock.accept, h]

theorem pps_of_unused {p : PpsIn} {c : Clock} (h : fld c.eff 1 0 ≠ 2 ∨ bit c.eff 2 = true) : c.pps p = c :=
  if_pos (by rcases h with h | h <;> simp [Clock.timeSrc, Clock.ppsOutDir, h])

/-- An edge that counts in LOCKED is rejected or accepted by its distance from the prediction (R40). -/
theorem pps_of_locked {p : PpsIn} {c : Clock} (hsrc : fld c.eff 1 0 = 2) (hdir : bit c.eff 2 = false) (hseen : ppsSeen p = true)
    (hlock : c.align = .locked) :
    c.pps p = if 2000 < p.dev.natAbs then { c with ppsRej := (c.ppsRej + 1) % 256, rejRun := c.rejRun + 1 }
      else { c with ppsAge := some 0, sampleAge := 0, rejRun := 0, offset := p.offset } := by
  unfold Clock.pps
  rw [if_neg (by simp [Clock.timeSrc, Clock.ppsOutDir, hsrc, hdir, hseen]), if_neg (by simp [hlock]), accept_of_locked hlock]
  simp [Clock.reject]

/-! ## The alignment states -/

/-- A change that is due is asked for while none waits (R43). -/
theorem askAlign_of_due {a : Align} {s : State} (hlive : s.live = true) (hnone : s.clk.alignNext = none) (hdue : s.clk.due a = true) :
    askAlign a s = { s with clk := { s.clk with alignNext := some a } } := if_pos (by simp [hlive, hnone, hdue])

theorem due_locked {c : Clock} (h : c.align = .acquire ∨ (c.align = .holdover ∧ c.samplesBack = true)) (hgood : 64 ≤ c.goodFrames) :
    c.due .locked = true := by
  rcases h with h | ⟨h, hback⟩ <;> simp [Clock.due, *]

theorem due_holdover {c : Clock} (h : c.align = .locked) (hage : 100000 ≤ c.sampleAge ∨ 64 ≤ c.rejRun) : c.due .holdover = true := by
  rcases hage with hage | hage <;> simp [Clock.due, h, hage]

theorem due_unaligned {c : Clock} (h : c.align = .holdover) (hlim : fld c.eff 7 4 * 50000 < c.holdFrames) : c.due .unaligned = true := by
  simp [Clock.due, Clock.holdLim, h, hlim]

/-- What of a clock the counting and steering of its new frame leave. -/
theorem steer_countGood_parts (choice : Int) (c : Clock) :
    (c.countGood.steer choice).align = c.align ∧ (c.countGood.steer choice).alignNext = c.alignNext ∧
      (c.countGood.steer choice).offset = c.offset ∧ (c.countGood.steer choice).originLock = c.originLock ∧
      (c.countGood.steer choice).samplesBack = c.samplesBack ∧ (c.countGood.steer choice).secondFixed = c.secondFixed :=
  ⟨rfl, rfl, rfl, rfl, rfl, rfl⟩

theorem Clock.withAlign_align (a : Align) (c : Clock) : (c.withAlign a).align = a ∧ (c.withAlign a).alignNext = c.alignNext := by
  unfold withAlign
  split
  · next h => exact ⟨h, rfl⟩
  · exact ⟨rfl, rfl⟩

/-- Without a source the frame begins in FREE (R50). -/
theorem realign_of_no_source {c : Clock} (h : fld c.eff 1 0 = 0) : c.realign.align = .free ∧ c.realign.alignNext = none := by
  unfold Clock.realign
  rw [if_pos (show c.timeSrc = 0 from h)]
  exact Clock.withAlign_align ..

/-- An offset past the limit of a steered clock leads to UNALIGNED (R38). -/
theorem realign_of_far {c : Clock} (hsrc : fld c.eff 1 0 ≠ 0) (ha : c.align.aligned = true) (hfar : 750 < c.offset.natAbs) :
    c.realign.align = .unaligned ∧ c.realign.secondFixed = false := by
  have hne : c.align ≠ .unaligned := by
    intro h
    rw [h] at ha
    cases ha
  unfold Clock.realign
  rw [if_neg (show ¬c.timeSrc = 0 from hsrc), if_pos (by simp [Clock.far, ha, hfar])]
  unfold Clock.withAlign
  rw [if_neg hne]
  exact ⟨rfl, by simp⟩

/-- A change that waits and is still due is made (R38, R53). -/
theorem realign_of_due {c : Clock} {a : Align} (hsrc : fld c.eff 1 0 ≠ 0) (hnear : c.offset.natAbs ≤ 750)
    (hwait : c.alignNext = some a) (hdue : c.due a = true) (hne : c.align ≠ a) :
    c.realign = { c with alignNext := none, align := a, goodFrames := 0, holdFrames := 0, samplesBack := false,
                         originLock := c.originLock || a == .locked,
                         secondFixed := c.secondFixed && (a != .free && a != .unaligned) } := by
  have hfar : c.far = false := by
    simp only [Clock.far, Bool.or_eq_false_iff, Bool.and_eq_false_iff, decide_eq_false_iff_not]
    exact ⟨.inr (by omega), .inr (by omega)⟩
  unfold Clock.realign
  rw [if_neg (show ¬c.timeSrc = 0 from hsrc), hfar, hwait]
  simp only [Bool.false_eq_true, if_false, hdue, if_true, Clock.withAlign, if_neg hne]

/-- The clock of a new frame before its alignment state is looked at: nothing but the frame, the ages and the offset is new. -/
theorem newFrame_of_no_jump (off : Int) {c : Clock} (hjump : c.jump = none) (hfree : c.align ≠ .free) :
    ({ c.newFrame off with slot := none } : Clock) =
      { c with hfn := c.hfn + 1, jump := none, ptpAge := ageUp c.ptpAge, ppsAge := ageUp c.ppsAge, sampleAge := c.sampleAge + 1, eff := c.cfg,
               ppsOut := bit c.cfg 2, offset := off, slot := none } := by
  simp [Clock.newFrame, hjump, hfree]

/-! ## FRAME_CFG -/

theorem exec_frameCfgWrite {s : State} (v : W32) (hup : s.fnUp 0 = true) :
    exec (.frameCfgWrite v) s = .next { s with clk := s.clk.writeCfg v } := congrArg Host.Outcome.next (if_pos hup)

theorem frameCfgOk_iff {v : W32} : frameCfgOk v = true ↔ fld v 1 0 ≠ 3 ∧ fld v 7 4 ≠ 0 ∧ 4 ≤ fld v 11 8 ∧ fld v 11 8 ≤ 13 := by
  simp [frameCfgOk, inRange, and_assoc]

/-- A frame boundary in its turn: the clock. -/
theorem exec_frameBoundary_clk (off choice : Int) {s : State} (hup : s.phase.up = true) (hslot : s.clk.slot = some 15) :
    ∃ t, exec (.frameBoundary off choice) s = .next t ∧ t.clk = s.clk.tick off choice :=
  ⟨_, rfl, congrArg Prod.fst (doFrame_frameWords off choice hup hslot)⟩

/-- A change that waits and is still due in the new frame is made at its boundary. -/
theorem tick_of_due {off choice : Int} {c : Clock} {a : Align} (hjump : c.jump = none) (hfree : c.align ≠ .free) (hsrc : fld c.cfg 1 0 ≠ 0)
    (hnear : off.natAbs ≤ 750) (hwait : c.alignNext = some a) (hne : c.align ≠ a)
    (hdue : ({ c.newFrame off with slot := none } : Clock).due a = true) :
    (c.tick off choice).align = a ∧ (c.tick off choice).alignNext = none ∧ (c.tick off choice).originLock = (c.originLock || a == .locked) ∧
      (c.tick off choice).samplesBack = false ∧ (c.tick off choice).secondFixed = (c.secondFixed && (a != .free && a != .unaligned)) := by
  have hframe := newFrame_of_no_jump off hjump hfree
  have hrealign := realign_of_due (c := { c.newFrame off with slot := none }) (by rw [hframe]; exact hsrc) (by rw [hframe]; exact hnear)
    (by rw [hframe]; exact hwait) hdue (by rw [hframe]; exact hne)
  obtain ⟨halign, hnext, -, hlock, hback, hsecond⟩ := steer_countGood_parts choice ({ c.newFrame off with slot := none } : Clock).realign
  rw [hrealign, hframe] at halign hnext hlock hback hsecond
  unfold Clock.tick
  rw [hrealign, hframe]
  exact ⟨halign, hnext, hlock, hback, hsecond⟩

theorem Clock.tickOffset_of_free {c : Clock} (h : c.align = .free) : c.tickOffset = 0#32 := if_pos h

/-- A frame that begins without a source is in FREE, with no offset to show (R50). -/
theorem tick_of_no_source {off choice : Int} {c : Clock} (hsrc : fld c.cfg 1 0 = 0) :
    (c.tick off choice).align = .free ∧ (c.tick off choice).alignNext = none ∧ (c.tick off choice).tickOffset = 0#32 := by
  have hd : fld ({ c.newFrame off with slot := none } : Clock).eff 1 0 = 0 := by
    rw [show ({ c.newFrame off with slot := none } : Clock).eff = c.cfg from (newFrame_words off c).2, hsrc]
  obtain ⟨halign, hnext⟩ := realign_of_no_source hd
  have hfree : (c.tick off choice).align = .free := halign
  exact ⟨hfree, hnext, Clock.tickOffset_of_free hfree⟩

/-- A steered clock whose offset is past its limit is UNALIGNED in the new frame (R38). -/
theorem tick_of_far {off choice : Int} {c : Clock} (hjump : c.jump = none) (hsrc : fld c.cfg 1 0 ≠ 0) (ha : c.align.aligned = true)
    (hfar : 750 < off.natAbs) : (c.tick off choice).align = .unaligned ∧ (c.tick off choice).secondFixed = false := by
  have hfree : c.align ≠ .free := by
    intro h
    rw [h] at ha
    cases ha
  have hd : (({ c.newFrame off with slot := none } : Clock).realign).align = .unaligned ∧
      (({ c.newFrame off with slot := none } : Clock).realign).secondFixed = false := by
    rw [newFrame_of_no_jump off hjump hfree]
    exact realign_of_far hsrc ha hfar
  exact hd

/-- Settles O12: the samples by what the clock does with each, the alignment states by `due` at the request and at the boundary. -/
theorem servoAndAlignment : Obligations.ServoAndAlignment := by
  unfold Obligations.ServoAndAlignment
  refine ⟨fun s hlive => ⟨fun p => ⟨fun hsrc => ?_, fun hsrc ht => ?_, fun hsrc ht ha hd => ?_, fun hsrc ht ha hjump => ?_,
      fun hsrc ht ha hd => ?_⟩, fun p => ⟨fun hun => ?_, fun hsrc hdir hseen ha hd => ?_, fun hsrc hdir hseen ha hd => ?_⟩⟩,
    fun s => ⟨fun hlive hnone => ⟨fun ha hgood => ?_, fun ha hage => ?_, fun ha hlim => ?_⟩,
      fun off choice hup hslot hjump => ⟨fun hsrc => ?_, fun hsrc ha hfar => ?_, fun hsrc hnear => ⟨fun hwait ha hgood => ?_,
        fun hwait ha hage => ?_, fun hwait ha hlim => ?_⟩⟩,
      fun v hup => ⟨fun hok => ?_, fun hbad => ?_⟩⟩⟩
  · rw [exec_ptpSample p hlive, ptp_of_no_source hsrc]
  · rw [exec_ptpSample p hlive, ptp_of_rejected hsrc (.inl ht)]
  · rw [exec_ptpSample p hlive, ptp_of_rejected hsrc (.inr ⟨ha, hd⟩)]
  · have hsteered : ¬(s.clk.align.aligned = true ∧ 2000 < p.dev.natAbs) := by rcases ha with h | h <;> simp [h, Align.aligned]
    rw [exec_ptpSample p hlive, ptp_of_accepted hsrc ht hsteered, if_pos ⟨ha, hjump⟩]
    exact ⟨_, rfl, rfl, rfl, rfl, rfl, rfl⟩
  · rw [exec_ptpSample p hlive, ptp_of_accepted hsrc ht (by omega), if_neg (by simp [ha]), accept_of_locked ha]
    simp
  · rw [exec_ppsEdge p hlive, pps_of_unused hun]
  · rw [exec_ppsEdge p hlive, pps_of_locked hsrc hdir hseen ha, if_pos hd]
  · rw [exec_ppsEdge p hlive, pps_of_locked hsrc hdir hseen ha, if_neg (by omega)]
  · exact congrArg Host.Outcome.next (askAlign_of_due hlive hnone (due_locked ha hgood))
  · exact congrArg Host.Outcome.next (askAlign_of_due hlive hnone (due_holdover ha hage))
  · exact congrArg Host.Outcome.next (askAlign_of_due hlive hnone (due_unaligned ha hlim))
  · obtain ⟨t, ht, hclk⟩ := exec_frameBoundary_clk off choice hup hslot
    exact ⟨t, ht, hclk ▸ tick_of_no_source hsrc⟩
  · obtain ⟨t, ht, hclk⟩ := exec_frameBoundary_clk off choice hup hslot
    exact ⟨t, ht, hclk ▸ tick_of_far hjump hsrc ha hfar⟩
  · obtain ⟨t, ht, hclk⟩ := exec_frameBoundary_clk off choice hup hslot
    have hdue : ({ s.clk.newFrame off with slot := none } : Clock).due .locked = true := by
      rw [newFrame_of_no_jump off hjump (by simp [ha])]
      exact due_locked (.inl ha) hgood
    obtain ⟨halign, hnext, hlock, -, -⟩ := tick_of_due (choice := choice) hjump (by simp [ha]) hsrc hnear hwait (by simp [ha]) hdue
    rw [← hclk] at halign hnext hlock
    exact ⟨t, ht, halign, hlock.trans (by simp), hnext⟩
  · obtain ⟨t, ht, hclk⟩ := exec_frameBoundary_clk off choice hup hslot
    have hdue : ({ s.clk.newFrame off with slot := none } : Clock).due .holdover = true := by
      rw [newFrame_of_no_jump off hjump (by simp [ha])]
      exact due_holdover ha (hage.imp_left (by intro h; exact Nat.le_succ_of_le h))
    obtain ⟨halign, hnext, hlock, hback, -⟩ := tick_of_due (choice := choice) hjump (by simp [ha]) hsrc hnear hwait (by simp [ha]) hdue
    rw [← hclk] at halign hnext hlock hback
    exact ⟨t, ht, halign, hlock.trans (by simp), hback, hnext⟩
  · obtain ⟨t, ht, hclk⟩ := exec_frameBoundary_clk off choice hup hslot
    have hdue : ({ s.clk.newFrame off with slot := none } : Clock).due .unaligned = true := by
      rw [newFrame_of_no_jump off hjump (by simp [ha])]
      exact due_unaligned ha hlim
    obtain ⟨halign, hnext, -, -, hsecond⟩ := tick_of_due (choice := choice) hjump (by simp [ha]) hsrc hnear hwait (by simp [ha]) hdue
    rw [← hclk] at halign hnext hsecond
    exact ⟨t, ht, halign, hsecond.trans (by simp), hnext⟩
  · rw [exec_frameCfgWrite v hup, Clock.writeCfg, if_pos (frameCfgOk_iff.2 hok)]
  · rw [exec_frameCfgWrite v hup, Clock.writeCfg, if_neg (mt frameCfgOk_iff.1 (by omega))]

end Sys2Proof.Machine

/-! ## Doorbells and the configuration registers of rings (R269 to R293) -/

namespace Sys2Proof.Machine
-- The whole text is compiled by one process of limited memory: one proof at a time keeps it small.
set_option Elab.async false

/-- The SQ doorbell of a pair that takes doorbells, by where its index lies (R275, R285). -/
theorem exec_ringDb {s : State} {f : Fn} {r : Nat} (v : W32) (h : s.ringReady f r) :
    exec (.ringDb f r v) s = .next (
      if (s.ring f r).sqN ≤ fld v 15 0 then haltRing f r 1 (fld v 15 0) s
      else if modSub (fld v 15 0) (s.ring f r).sqTail (s.ring f r).sqN ≤
          ((s.ring f r).sqHead + 2 * (s.ring f r).sqN - 1 - (s.ring f r).sqTail) % (s.ring f r).sqN then
        modRing f r (fun x => { x with sqTail := fld v 15 0 }) s
      else haltRing f r 2 (fld v 15 0) s) :=
  congrArg Host.Outcome.next (if_pos (doorbellGuard_iff_ringReady.2 h))

/-- The CQ doorbell of a pair that takes doorbells, by where its index lies (R280, R285). -/
theorem exec_ringCqDb {s : State} {f : Fn} {r : Nat} (v : W32) (h : s.ringReady f r) :
    exec (.ringCqDb f r v) s = .next (
      if (s.ring f r).cqN ≤ fld v 15 0 then haltRing f r 3 (fld v 15 0) s
      else if modSub (fld v 15 0) (s.ring f r).cqHead (s.ring f r).cqN ≤
          modSub (s.ring f r).cqTail (s.ring f r).cqHead (s.ring f r).cqN then
        modRing f r (fun x => { x with cqHead := fld v 15 0 }) s
      else haltRing f r 4 (fld v 15 0) s) :=
  congrArg Host.Outcome.next (if_pos (doorbellGuard_iff_ringReady.2 h))

theorem not_ringReady_of_off {s : State} {f : Fn} {r : Nat} (h : (s.ring f r).enabled = false ∨ (s.ring f r).halted = true) :
    ¬ s.ringReady f r := fun hr => by
  obtain ⟨-, -, hen, hrun⟩ := hr
  rcases h with h | h
  · exact absurd (hen.symm.trans h) (by decide)
  · exact absurd (hrun.symm.trans h) (by decide)

/-- The doorbell of an event ring, by where its index lies (R285, R287). -/
theorem exec_eqDb {s : State} {f : Fn} (v : W32) (hup : s.fnUp f = true) (hen : (s.fn f).eq.enabled = true) :
    exec (.eqDb f v) s = .next (
      if (s.fn f).eq.n ≤ fld v 15 0 ∨
          modSub (s.fn f).eq.tail (s.fn f).eq.head (s.fn f).eq.n < modSub (fld v 15 0) (s.fn f).eq.head (s.fn f).eq.n then
        modFn f (fun y => { y with eq := { y.eq with dbReject := true } }) s
      else if modSub (fld v 15 0) (s.fn f).eq.head (s.fn f).eq.n = 0 then s
      else postLost f (modFn f (fun y => { y with eq := { y.eq with head := fld v 15 0 } }) s)) := by
  refine congrArg Host.Outcome.next ((if_pos (by simp [State.bar0Up, hup, hen])).trans (if_congr ?_ rfl rfl))
  rw [Bool.or_eq_true, decide_eq_true_iff, decide_eq_true_iff, EvRing.unreleased]

/-- A release after which no dropped event is owed posts nothing (R288). -/
theorem postLost_of_none {s : State} {f : Fn} (h : (s.fn f).eq.dropped = 0) : postLost f s = s := if_pos h

/-- Settles O14: each doorbell by its equation, in the case that its index is in. -/
theorem doorbellsTakeOrHalt : Obligations.DoorbellsTakeOrHalt := by
  unfold Obligations.DoorbellsTakeOrHalt
  refine fun s f r v => ⟨fun hr => ⟨fun h => ?_, fun h => ?_, fun h => ?_, fun h => ?_, fun h => ?_, fun h => ?_⟩,
    fun h => ⟨?_, ?_⟩, fun hup hen hdrop hlt hpos hle => ?_, fun hup hen _ hlt hpos hle => ?_, fun hup hen h => ?_, fun h => ?_⟩
  · rw [exec_ringDb v hr, if_neg (Nat.not_le.2 h.1), if_pos h.2]
  · rw [exec_ringDb v hr, if_pos h]
  · rw [exec_ringDb v hr, if_neg (Nat.not_le.2 h.1), if_neg (Nat.not_le.2 h.2)]
  · rw [exec_ringCqDb v hr, if_neg (Nat.not_le.2 h.1), if_pos h.2]
  · rw [exec_ringCqDb v hr, if_pos h]
  · rw [exec_ringCqDb v hr, if_neg (Nat.not_le.2 h.1), if_neg (Nat.not_le.2 h.2)]
  · exact congrArg Host.Outcome.next (doRingDb_of_not_ringReady v (not_ringReady_of_off h))
  · exact congrArg Host.Outcome.next (doRingCqDb_of_not_ringReady v (not_ringReady_of_off h))
  · rw [exec_eqDb v hup hen, if_neg (not_or.2 ⟨Nat.not_le.2 hlt, Nat.not_lt.2 hle⟩), if_neg hpos.ne', postLost_of_none]
    rw [fn_modFn _ _ _ (fn_lt_of_fnUp s f hup)]
    exact hdrop
  · rw [exec_eqDb v hup hen, if_neg (not_or.2 ⟨Nat.not_le.2 hlt, Nat.not_lt.2 hle⟩), if_neg hpos.ne']
  · rw [exec_eqDb v hup hen, if_pos h]
  · exact congrArg Host.Outcome.next (doEqDb_of_disabled v h)

/-! ## Configuration writes -/

/-- A write to a ring's block whose function and pair are there is refused or made (R290, R293). -/
theorem writeRing_of_there {s : State} {f : Fn} {r : Nat} (reg : Nat) (v : W32) (hup : s.fnUp f = true)
    (hr : r < (s.fn f).rings.length) :
    writeRing f r reg v s = if ringWriteBad f (s.ring f r) reg v then modRing f r (fun x => { x with cfgReject := true }) s
      else modRing f r (fun x => x.write reg v) s := if_pos (by simp [State.bar0Up, hup, hr])

theorem writeRing_of_good {s : State} {f : Fn} {r reg : Nat} {v : W32} (hup : s.fnUp f = true) (hr : r < (s.fn f).rings.length)
    (h : ringWriteBad f (s.ring f r) reg v = false) : writeRing f r reg v s = modRing f r (fun x => x.write reg v) s := by
  rw [writeRing_of_there reg v hup hr, h]
  rfl

theorem writeRing_of_bad {s : State} {f : Fn} {r reg : Nat} {v : W32} (hup : s.fnUp f = true) (hr : r < (s.fn f).rings.length)
    (h : ringWriteBad f (s.ring f r) reg v = true) : writeRing f r reg v s = modRing f r (fun x => { x with cfgReject := true }) s := by
  rw [writeRing_of_there reg v hup hr, h]
  rfl

/-- A base address may be written while the ring is disabled (R293). -/
theorem ringWriteBad_base_of_disabled {f : Fn} {x : Ring} {reg : Nat} (v : W32) (h : x.enabled = false) (hreg : reg < 4) :
    ringWriteBad f x reg v = false := by
  obtain rfl | rfl | rfl | rfl : reg = 0 ∨ reg = 1 ∨ reg = 2 ∨ reg = 3 := by omega
  all_goals simp [ringWriteBad, h]

/-- The sizes of a disabled ring are refused outside 6 to 16 alone (R293). -/
theorem ringWriteBad_size_of_disabled {f : Fn} {x : Ring} (v : W32) (h : x.enabled = false) :
    ringWriteBad f x 4 v = !(inRange 6 (fld v 4 0) 16 && inRange 6 (fld v 12 8) 16) := by simp [ringWriteBad, h]

theorem ringWriteBad_ctl (f : Fn) (x : Ring) (v : W32) :
    ringWriteBad f x 5 v = (ctlBad f v || (bit v 0 && !x.enabled && !x.quiesced)) := rfl

theorem exec_ringEnable {s : State} (f : Fn) (r : Nat) {v : W32} (h : bit v 0 = true) :
    exec (.ringEnable f r v) s = .next (writeRing f r 5 v s) := congrArg Host.Outcome.next (if_pos h)

theorem exec_ringDisable {s : State} (f : Fn) (r : Nat) {v : W32} (h : bit v 0 = false) :
    exec (.ringDisable f r v) s = .next (writeRing f r 5 v s) := congrArg Host.Outcome.next (if_pos (by rw [h]; rfl))

/-- An enable of a disabled ring resets its indices, phase and halt state (R284). -/
theorem Ring.setCtl_of_enable {x : Ring} {v : W32} (hv : bit v 0 = true) (hx : x.enabled = false) :
    x.setCtl v = { x with ctl := v &&& 0xFFFF_3F07#32, sqHead := 0, sqTail := 0, cqHead := 0, cqTail := 0, cqPhase := true,
                          halted := false, haltCause := 0, haltIndex := 0, lostCpl := 0, modN := 0, modT := none, parked := false } :=
  if_pos (by simp [hv, hx])

/-- A write with ENABLE 0 keeps them (R283). -/
theorem Ring.setCtl_of_disable {x : Ring} {v : W32} (hv : bit v 0 = false) : x.setCtl v = { x with ctl := v &&& 0xFFFF_3F07#32 } :=
  if_neg (by simp [hv])

theorem writeEq_of_up {s : State} {f : Fn} {reg : Nat} (v : W32) (hup : s.fnUp f = true) (hreg : reg < 4) :
    writeEq f reg v s =
      modFn f (fun y => { y with eq := if eqWriteBad f y.eq reg v then { y.eq with cfgReject := true } else y.eq.write reg v }) s :=
  if_pos (by simp [State.bar0Up, hup, hreg])

/-- Settles O15: each write by what the block refuses, and by what an accepted write sets. -/
theorem ringConfigurationWrites : Obligations.RingConfigurationWrites := by
  unfold Obligations.RingConfigurationWrites
  refine fun s f r v => ⟨fun ⟨hup, hr, hoff⟩ => ⟨?_, ?_, ?_, ?_, fun hsize => ?_, fun hsize => ?_, fun ⟨hv, hok, hq⟩ => ?_, fun ⟨hv, hbad⟩ => ?_⟩,
    fun hup hr hv hok => ?_, fun hup hr => ⟨fun hv hbad => ?_, ?_⟩, fun ⟨hup, hr, hen, _⟩ hne => ?_, fun hup hoff => ?_,
    fun hup hoff hv hok hsize => ?_, fun hup hbad => ?_⟩
  · exact congrArg Host.Outcome.next (writeRing_of_good hup hr (ringWriteBad_base_of_disabled v hoff (by decide)))
  · exact congrArg Host.Outcome.next (writeRing_of_good hup hr (ringWriteBad_base_of_disabled v hoff (by decide)))
  · exact congrArg Host.Outcome.next (writeRing_of_good hup hr (ringWriteBad_base_of_disabled v hoff (by decide)))
  · exact congrArg Host.Outcome.next (writeRing_of_good hup hr (ringWriteBad_base_of_disabled v hoff (by decide)))
  · exact congrArg Host.Outcome.next (writeRing_of_good hup hr (by rw [ringWriteBad_size_of_disabled v hoff, hsize.1, hsize.2]; rfl))
  · refine congrArg Host.Outcome.next (writeRing_of_bad hup hr ?_)
    rw [ringWriteBad_size_of_disabled v hoff]
    rcases hsize with h | h <;> simp [h]
  · rw [exec_ringEnable f r hv, writeRing_of_good hup hr (by rw [ringWriteBad_ctl, hok, hq]; simp)]
    exact congrArg Host.Outcome.next (modRing_congr _ _ _ _ _ (Ring.setCtl_of_enable hv hoff))
  · rw [exec_ringEnable f r hv, writeRing_of_bad hup hr]
    rw [ringWriteBad_ctl, hv, hoff]
    rcases hbad with h | h <;> simp [h]
  · rw [exec_ringDisable f r hv, writeRing_of_good hup hr (by rw [ringWriteBad_ctl, hok, hv]; simp)]
    exact congrArg Host.Outcome.next (modRing_congr _ _ _ _ _ (Ring.setCtl_of_disable hv))
  · rw [exec_ringDisable f r hv, writeRing_of_bad hup hr (by rw [ringWriteBad_ctl, hbad]; rfl)]
  · exact congrArg Host.Outcome.next (writeRing_of_good hup hr rfl)
  · exact congrArg Host.Outcome.next (writeRing_of_bad hup hr (by simp [ringWriteBad, hen, hne]))
  · refine congrArg Host.Outcome.next ((writeEq_of_up v hup (by decide)).trans (modFn_congr _ _ _ _ ?_))
    simp [eqWriteBad, EvRing.write, hoff]
  · refine congrArg Host.Outcome.next ((writeEq_of_up v hup (by decide)).trans (modFn_congr _ _ _ _ ?_))
    simp [eqWriteBad, EvRing.write, EvRing.start, hoff, hv, hok, hsize]
  · refine congrArg Host.Outcome.next ((writeEq_of_up v hup (by decide)).trans (modFn_congr _ _ _ _ ?_))
    simp [eqWriteBad, hbad]

end Sys2Proof.Machine

/-! ## Accesses to BAR0, and the share registers -/

namespace Sys2Proof.Machine
-- The whole text is compiled by one process of limited memory: one proof at a time keeps it small.
set_option Elab.async false

/-! ## Writes -/

theorem exec_registerWrite_of_down {s : State} {f : Fn} (off : Nat) (v : W32) (h : s.fnUp f = false) :
    exec (.registerWrite f off v) s = .next s := congrArg Host.Outcome.next (if_pos (by rw [h]; rfl))

theorem exec_registerWrite_of_unaligned {s : State} {f : Fn} {off : Nat} (v : W32) (hup : s.fnUp f = true) (h : off % 4 ≠ 0) :
    exec (.registerWrite f off v) s = .next (emit (.aer f) s) :=
  congrArg Host.Outcome.next ((if_neg (by simp [hup])).trans (if_pos (by simpa using h)))

theorem exec_registerWrite {s : State} {f : Fn} {off : Nat} (v : W32) (hup : s.fnUp f = true) (h : off % 4 = 0) :
    exec (.registerWrite f off v) s = .next (writeBar0 f off v s) :=
  congrArg Host.Outcome.next ((if_neg (by simp [hup])).trans (if_neg (by simpa using h)))

/-- The offsets below 0x200 that no function writes (R8, R52, R200). -/
def readOnlyOffsets : List Nat := [0x000, 0x004, 0x008, 0x00C, 0x120, 0x124, 0x128, 0x12C, 0x130, 0x134, 0x138, 0x13C, 0x140, 0x164]

theorem writeNode_of_readOnly {off : Nat} (v : W32) (s : State) (h : off ∈ readOnlyOffsets) : writeNode off v s = s := by
  simp only [readOnlyOffsets, List.mem_cons, List.not_mem_nil, or_false] at h
  rcases h with rfl | rfl | rfl | rfl | rfl | rfl | rfl | rfl | rfl | rfl | rfl | rfl | rfl | rfl <;> rfl

theorem writeVf_of_readOnly {off : Nat} (f : Fn) (v : W32) (s : State) (h : off ∈ readOnlyOffsets) : writeVf f off v s = s := by
  simp only [readOnlyOffsets, List.mem_cons, List.not_mem_nil, or_false] at h
  rcases h with rfl | rfl | rfl | rfl | rfl | rfl | rfl | rfl | rfl | rfl | rfl | rfl | rfl | rfl <;> rfl

theorem readOnlyOffsets_bounds : ∀ off ∈ readOnlyOffsets, off < 0x1000 ∧ off % 4 = 0 := by decide

theorem writeBar0_of_readOnly {off : Nat} (f : Fn) (v : W32) (s : State) (h : off ∈ readOnlyOffsets) : writeBar0 f off v s = s := by
  unfold writeBar0
  rw [if_pos (readOnlyOffsets_bounds off h).1, writeNode_of_readOnly v s h, writeVf_of_readOnly f v s h, ite_self]

theorem exec_registerWrite_node {s : State} (off : Nat) (v : W32) (hup : s.fnUp 0 = true) (h : off % 4 = 0) (hlt : off < 0x1000) :
    exec (.registerWrite 0 off v) s = .next (writeNode off v s) :=
  (exec_registerWrite v hup h).trans (congrArg Host.Outcome.next ((if_pos hlt).trans (if_pos rfl)))

theorem writeOrigin_of_locked (hi : Bool) (v : W32) {s : State} (h : s.clk.originLock = true) : writeOrigin hi v s = s := if_pos h

theorem writeOrigin_of_open (hi : Bool) (v : W32) {s : State} (h : s.clk.originLock = false) :
    writeOrigin hi v s =
      { s with clk := if hi then { s.clk with originHi := v &&& 0xFFFF#32 } else { s.clk with originLo := v } } := if_neg (by simp [h])

/-- The control word of a vector is the last of the four of its entry. -/
theorem writeBar0_msixCtl {s : State} (f : Fn) {i : Nat} (v : W32) (hi : i < 64) :
    writeBar0 f (0x2000 + 16 * i + 12) v s = writeMsix f i 3 v s := by
  unfold writeBar0
  rw [if_neg (by omega), if_neg (by omega), if_neg (by omega), if_pos (by omega),
    show (0x2000 + 16 * i + 12 - 0x2000) / 16 = i by omega, show (0x2000 + 16 * i + 12) % 16 / 4 = 3 by omega]

/-- Unmasking a vector whose pending bit is set fires it and clears the bit (R289). -/
theorem writeMsix_of_pending {s : State} {f : Fn} {i : Nat} {m : Msix} {v : W32} (hm : (s.fn f).msix[i]? = some m) (hpend : m.pend = true)
    (hv : bit v 0 = false) :
    writeMsix f i 3 v s = emit (.msix f i)
      (modFn f (fun x => { x with msix := modifyAt x.msix i fun m => { m with ctl := v &&& 1#32, pend := m.pend && bit v 0 } }) s) := by
  unfold writeMsix
  rw [hm]
  exact if_pos ⟨rfl, hpend, hv⟩

/-! ## Reads -/

theorem doBarRead_of_linkDown {s : State} (f : Fn) (off : Nat) (h : s.linkUp = false) : doBarRead f off s = s := if_pos (by simp [h])

theorem doBarRead_of_bad {s : State} {f : Fn} {off : Nat} (hlink : s.linkUp = true) (h : s.fnUp f = false ∨ off % 4 ≠ 0) :
    doBarRead f off s = emit (.unsupported f) s :=
  (if_neg (by simp [hlink])).trans (if_pos (by rcases h with h | h <;> simp [h]))

/-- An aligned read of a function that is there answers its register and latches for it (R52, R272). -/
theorem doBarRead_of_good {s : State} {f : Fn} {off : Nat} (hlink : s.linkUp = true) (hup : s.fnUp f = true) (h : off % 4 = 0)
    (hpin : f.val ≠ 0 ∨ off ≠ 0xE08) :
    doBarRead f off s = modFn f (latchHi f s off) (emit (.regData f off (readBar0 f s off)) s) := by
  unfold doBarRead
  rw [if_neg (by simp [hlink]), if_neg (by simp [hup, h]), if_neg (by rintro ⟨h1, h2⟩; exact hpin.elim (· h1) (· h2))]

/-- A read of GPIO_IN samples the levels first (R490). -/
theorem doBarRead_pins {s : State} {f : Fn} {off : Nat} (hlink : s.linkUp = true) (hup : s.fnUp f = true) (hf : f.val = 0)
    (hoff : off = 0xE08) :
    doBarRead f off s =
      modFn f (latchHi f (samplePins s) off) (emit (.regData f off (readBar0 f (samplePins s) off)) (samplePins s)) := by
  unfold doBarRead
  rw [if_neg (by simp [hlink]), if_neg (by simp [hup, hoff]), if_pos ⟨hf, hoff⟩]

/-! ## Share registers -/

theorem arrayIdx_share {p w : Nat} (hp : p < 12) (hw : w < 4) : arrayIdx (0xA00 + 16 * p + 4 * w) 0xA00 48 = some (4 * p + w) := by
  unfold arrayIdx
  rw [if_pos (by omega)]
  congr 1
  omega

/-- What an accepted write to a share register of a pavilion sets (R396). -/
def Qos.setShare (x : Qos) (p w : Nat) (v : W32) : Qos := match w with
  | 0 => { x with weight := modifyAt x.weight p fun _ => v &&& 0x007F_FFFF#32 }
  | 1 => { x with flash := modifyAt x.flash p fun _ => v &&& 0x000F_FFFF#32 }
  | 2 => { x with merge := modifyAt x.merge p fun _ => v &&& 0x3FF#32 }
  | _ => { x with quota := modifyAt x.quota p fun _ => v &&& 0x00FF_FFFF#32 }

/-- A write to a share register is accepted or refused (R398). -/
theorem exec_shareRegWrite {s : State} {p w : Nat} (v : W32) (hup : s.bar0Up0 = true) (hp : p < 12) (hw : w < 4) :
    exec (.shareRegWrite (0xA00 + 16 * p + 4 * w) v) s = .next
      { s with qos := if shareOk s.qos p w v then s.qos.setShare p w v else { s.qos with cfgReject := true } } := by
  refine congrArg Host.Outcome.next ?_
  unfold writeShare
  rw [arrayIdx_share hp hw]
  simp only [hup, if_true, show (4 * p + w) / 4 = p by omega, show (4 * p + w) % 4 = w by omega]
  split <;> rfl

theorem raisesOver_of_within {ws : List W32} {p hi lo : Nat} {v : W32} (h : sumOthers ws p hi lo + fld v hi lo ≤ 1000) :
    raisesOver ws p v hi lo = false := by
  rw [raisesOver, decide_eq_false (p := 1000 < _) (by omega), Bool.and_false]

theorem raisesOver_of_raises {ws : List W32} {p hi lo : Nat} {v : W32} (h : 1000 < sumOthers ws p hi lo + fld v hi lo)
    (hup : fld (ws.getD p 0#32) hi lo < fld v hi lo) : raisesOver ws p v hi lo = true := by
  rw [raisesOver, decide_eq_true hup, decide_eq_true h, Bool.and_true]

theorem exec_shareRegWrite_of_ok {s : State} {p w : Nat} {v : W32} (hup : s.bar0Up0 = true) (hp : p < 12) (hw : w < 4)
    (h : shareOk s.qos p w v = true) :
    exec (.shareRegWrite (0xA00 + 16 * p + 4 * w) v) s = .next { s with qos := s.qos.setShare p w v } := by
  rw [exec_shareRegWrite v hup hp hw, if_pos h]

theorem exec_shareRegWrite_of_bad {s : State} {p w : Nat} {v : W32} (hup : s.bar0Up0 = true) (hp : p < 12) (hw : w < 4)
    (h : shareOk s.qos p w v = false) :
    exec (.shareRegWrite (0xA00 + 16 * p + 4 * w) v) s = .next { s with qos := { s.qos with cfgReject := true } } := by
  rw [exec_shareRegWrite v hup hp hw, if_neg (by simp [h])]

/-- Settles O18: the accesses by what BAR0 does at each offset, the shares by what R398 accepts. -/
theorem registerAccesses : Obligations.RegisterAccesses := by
  unfold Obligations.RegisterAccesses
  refine ⟨fun s f off v => ⟨fun hdown => exec_registerWrite_of_down off v hdown, fun hup h => exec_registerWrite_of_unaligned v hup h,
      fun hup h => ?_, fun hup hopen => ⟨?_, ?_⟩, fun hup hlock => ⟨?_, ?_⟩, fun hup => ?_, fun i m hup hm hi hpend hv => ?_,
      fun hlink h => congrArg Host.Outcome.next (doBarRead_of_bad hlink h),
      fun hlink hup h => ⟨fun hpin => ?_, fun hf hoff => ?_⟩, fun hlink hup => ⟨?_, ?_, ?_⟩,
      fun h => congrArg Host.Outcome.next (doBarRead_of_linkDown f off h)⟩,
    fun s v hup => ⟨fun h1 h2 h3 => ?_, fun h => ?_, fun h => ?_, fun h => ?_, fun h1 h2 => ?_, fun h => ?_,
      fun p hp => ⟨fun h1 h2 h3 => ?_, fun h => ?_, fun h1 h2 h3 h4 => ?_, fun h1 h2 => ?_, fun h1 h2 => ?_, fun h1 h2 => ?_, ?_⟩, ?_⟩⟩
  · rw [exec_registerWrite v hup (readOnlyOffsets_bounds off h).2, writeBar0_of_readOnly f v s h]
  · exact (exec_registerWrite_node _ v hup (by decide) (by decide)).trans (congrArg _ (writeOrigin_of_open false v hopen))
  · exact (exec_registerWrite_node _ v hup (by decide) (by decide)).trans (congrArg _ (writeOrigin_of_open true v hopen))
  · exact (exec_registerWrite_node _ v hup (by decide) (by decide)).trans (congrArg _ (writeOrigin_of_locked false v hlock))
  · exact (exec_registerWrite_node _ v hup (by decide) (by decide)).trans (congrArg _ (writeOrigin_of_locked true v hlock))
  · exact exec_registerWrite_node _ v hup (by decide) (by decide)
  · refine ⟨_, (exec_registerWrite v hup (by omega)).trans (congrArg _ ((writeBar0_msixCtl f v hi).trans (writeMsix_of_pending hm hpend hv))),
      rfl, ?_⟩
    have hfn : (emit (.msix f i) (modFn f (fun x => { x with msix := modifyAt x.msix i fun m => { m with ctl := v &&& 1#32, pend := m.pend && bit v 0 } }) s)).fn f =
        { s.fn f with msix := modifyAt (s.fn f).msix i fun m => { m with ctl := v &&& 1#32, pend := m.pend && bit v 0 } } :=
      fn_modFn _ _ _ (fn_lt_of_fnUp s f hup)
    rw [hfn]
    simp [modifyAt_eq_modify, hm, hv]
  · exact ⟨_, congrArg Host.Outcome.next (doBarRead_of_good hlink hup h hpin), rfl, rfl⟩
  · exact ⟨_, congrArg Host.Outcome.next (doBarRead_pins hlink hup hf hoff), rfl⟩
  · exact congrArg Host.Outcome.next (doBarRead_of_good hlink hup (by decide) (.inr (by decide)))
  · exact congrArg Host.Outcome.next (doBarRead_of_good hlink hup (by decide) (.inr (by decide)))
  · exact congrArg Host.Outcome.next (doBarRead_of_good hlink hup (by decide) (.inr (by decide)))
  · exact congrArg Host.Outcome.next ((if_pos hup).trans (if_pos (by simp [inRange, h1, h2, h3])))
  · exact congrArg Host.Outcome.next ((if_pos hup).trans (if_neg (by simp [inRange]; omega)))
  · exact congrArg Host.Outcome.next ((if_pos hup).trans (if_pos h))
  · exact congrArg Host.Outcome.next ((if_pos hup).trans (if_neg (by omega)))
  · exact congrArg Host.Outcome.next ((if_pos hup).trans (if_pos (by simp [inRange, h1, h2])))
  · exact congrArg Host.Outcome.next ((if_pos hup).trans (if_neg (by simp [inRange]; omega)))
  · exact exec_shareRegWrite_of_ok (w := 0) hup hp (by decide) (by simp [shareOk, inRange, h1, h2, h3])
  · exact exec_shareRegWrite_of_bad (w := 0) hup hp (by decide) (by simp [shareOk, inRange]; omega)
  · exact exec_shareRegWrite_of_ok (w := 1) hup hp (by decide)
      (by simp [shareOk, h1, h2, raisesOver_of_within h3, raisesOver_of_within h4])
  · exact exec_shareRegWrite_of_bad (w := 1) hup hp (by decide) (by simp [shareOk, raisesOver_of_raises h1 h2])
  · exact exec_shareRegWrite_of_ok (w := 2) hup hp (by decide) (by simp [shareOk, h1, raisesOver_of_within h2])
  · exact exec_shareRegWrite_of_bad (w := 2) hup hp (by decide) (by simp [shareOk, raisesOver_of_raises h1 h2])
  · exact exec_shareRegWrite_of_ok (w := 3) hup hp (by decide) rfl
  · rfl

end Sys2Proof.Machine

/-! ## Descriptor fetch (R276 to R280, R386) -/

namespace Sys2Proof.Machine
-- The whole text is compiled by one process of limited memory: one proof at a time keeps it small.
set_option Elab.async false

/-- A read of host memory for a function, as the state that the statements write. -/
theorem hostRead_eq (f : Fn) (a n : Nat) (s : State) : hostRead f a n s = s.readsHost f a n := by
  unfold hostRead State.readsHost
  split
  · rfl
  · rw [List.append_nil]

/-- The work item that a fetched descriptor becomes (R276). -/
def State.fetchedWork (s : State) (f : Fn) (r : Nat) (d : List Byte) : Work :=
  ⟨s.nextId, f, r, d, bit (s.ring f r).ctl 1, s.hfn, .fetched, 0, 0, none⟩

/-- The ring that a descriptor is fetched from, after the fetch. -/
def Ring.fetched (x : Ring) : Ring := { x with sqHead := (x.sqHead + 1) % x.sqN, inFlight := x.inFlight + 1, parked := false }

theorem count_parts (pv : Option Nat) (g i n : Nat) (s : State) :
    count pv g i n s = { s with stats := (count pv g i n s).stats, pvStats := (count pv g i n s).pvStats } := by
  cases pv <;> rfl

/-- A fetch of this ring begins a new turn of its function (R276). -/
def State.newTurn (s : State) (f : Fn) (r : Nat) : Bool := (s.fn f).rrRing != r || decide (8 ≤ (s.fn f).rrTaken)

/-- The function after a fetch of a ring. -/
def FnState.tookFrom (x : FnState) (r : Nat) (newTurn : Bool) : FnState :=
  { x with rrRing := r, rrTaken := if newTurn then 1 else x.rrTaken + 1 }

/-- The visits of the round once a fetch has begun (R386). -/
def State.visited (s : State) (f : Fn) (r : Nat) : Qos := (if s.newTurn f r then takeVisit f s else s).qos

/-- The state once a descriptor is copied, before it is counted. -/
def State.copied (s : State) (f : Fn) (r : Nat) (d : List Byte) : State :=
  { modRing f r Ring.fetched (modFn f (fun y => y.tookFrom r (s.newTurn f r)) s) with
    works := s.works ++ [s.fetchedWork f r d], nextId := s.nextId + 1, qos := s.visited f r }

/-- The state once a descriptor is taken, before its checks. -/
def State.taken (s : State) (f : Fn) (r : Nat) (d : List Byte) : State :=
  count (if f.val = 0 then none else some (pvOf f)) 0 0 1 (s.copied f r d)

theorem visited_ite (f : Fn) (r : Nat) (s : State) :
    (if s.newTurn f r then takeVisit f s else s) = { s with qos := s.visited f r } := by
  unfold State.visited
  cases s.newTurn f r <;> rfl

/-- What `takeDesc` makes of the state in which the turn has begun. -/
def takeBegun (f : Fn) (r : Nat) (d : List Byte) (prov newTurn : Bool) (s : State) : State :=
  let w : Work := ⟨s.nextId, f, r, d, prov, s.hfn, .fetched, 0, 0, none⟩
  let x := count (if f.val = 0 then none else some (pvOf f)) 0 0 1
    { modRing f r Ring.fetched (modFn f (fun y => y.tookFrom r newTurn) s) with works := s.works ++ [w], nextId := s.nextId + 1 }
  match descCheck (f.val == 0) (pvOf f) d with
  | some st => failWork w st x
  | none => x

/-- A descriptor that is taken fails with the first of the checks 1 to 5 that it does not pass (R276, R297). -/
theorem takeDesc_eq (f : Fn) (r : Nat) (d : List Byte) (s : State) :
    takeDesc f r d s = match descCheck (f.val == 0) (pvOf f) d with
      | some st => failWork (s.fetchedWork f r d) st (s.taken f r d)
      | none => s.taken f r d := by
  have h : takeDesc f r d s =
      takeBegun f r d (bit (s.ring f r).ctl 1) (s.newTurn f r) (if s.newTurn f r then takeVisit f s else s) := rfl
  rw [h, visited_ite]
  rfl

/-- What a fetch has changed when the descriptor is taken. -/
theorem taken_parts (f : Fn) (r : Nat) (d : List Byte) (s : State) :
    s.taken f r d = { s with
      fns := (modRing f r Ring.fetched (modFn f (fun y => y.tookFrom r (s.newTurn f r)) s)).fns, works := s.works ++ [s.fetchedWork f r d]
      nextId := s.nextId + 1, qos := s.visited f r, stats := (s.taken f r d).stats, pvStats := (s.taken f r d).pvStats } :=
  count_parts ..

/-- The rings and the functions after a fetch. -/
theorem ring_taken {f : Fn} {r : Nat} (d : List Byte) {s : State} (hf : f.val < s.fns.length) (hr : r < (s.fn f).rings.length) :
    (s.taken f r d).ring f r = (s.ring f r).fetched := by
  have hfn : (modFn f (fun y => y.tookFrom r (s.newTurn f r)) s).fn f = (s.fn f).tookFrom r (s.newTurn f r) := fn_modFn _ _ _ hf
  have hring : (s.taken f r d).ring f r = (modRing f r Ring.fetched (modFn f (fun y => y.tookFrom r (s.newTurn f r)) s)).ring f r := by
    rw [taken_parts]
    rfl
  rw [hring, ring_modRing _ _ _ _ (by simpa using hf) (by rw [hfn]; exact hr), State.ring, hfn]
  rfl

theorem fn_taken_ne {f g : Fn} (r : Nat) (d : List Byte) (s : State) (h : g ≠ f) : (s.taken f r d).fn g = s.fn g := by
  have hfn : (s.taken f r d).fn g = (modRing f r Ring.fetched (modFn f (fun y => y.tookFrom r (s.newTurn f r)) s)).fn g := by
    rw [taken_parts]
    rfl
  rw [hfn, modRing, fn_modFn_ne _ _ _ _ h.symm, fn_modFn_ne _ _ _ _ h.symm]

/-- A ring whose turn it is can fetch (R276). -/
theorem mayFetch_of_turnOf {s : State} {f : Fn} {r : Nat} (h : s.turnOf f = some r) : s.mayFetch f r = true := by
  unfold State.turnOf at h
  extract_lets x n can at h
  have hcan : can r = true := by
    split at h
    · next hc =>
      rw [Bool.and_eq_true] at hc
      rw [← Option.some.inj h]
      exact hc.1
    · exact List.find?_some h
  exact (Bool.and_eq_true_iff.1 hcan).1

/-- A ring that may fetch belongs to a function that is there. -/
theorem there_of_mayFetch {s : State} {f : Fn} {r : Nat} (h : s.mayFetch f r = true) : f.val < s.fns.length ∧ r < (s.fn f).rings.length := by
  simp only [State.mayFetch, Bool.and_eq_true, decide_eq_true_eq] at h
  obtain ⟨⟨⟨⟨⟨⟨-, hup⟩, hr⟩, -⟩, -⟩, -⟩, -⟩ := h
  exact ⟨fn_lt_of_fnUp s f hup, hr⟩

/-- A fetch of the ring whose turn it is: the read, and by its data the halt, the wait, or the descriptor taken. -/
theorem doFetch_of_turn {s : State} {f : Fn} {r : Nat} (got : Option (List Byte)) (hturn : s.turnOf f = some r) (hleft : s.visitLeft f = true) :
    doFetch f r got s =
      (let u := s.readsHost f ((s.ring f r).sqBase + 64 * (s.ring f r).sqHead) 64
       match got with
       | none => haltRing f r 5 (s.ring f r).sqHead u
       | some bs =>
         if f.val != 0 && (s.corpus (pvOf f)).rstate != .confirmed && !isSearch (dOp (padTo 64 bs)) then
           modRing f r (fun x => { x with parked := true }) u
         else takeDesc f r (padTo 64 bs) u) := by
  unfold doFetch
  rw [if_pos (by simp [hturn, hleft]), hostRead_eq]
  rfl

/-- A ring whose turn it is not, and that has credit, stays as it is (R276, R280). -/
theorem doFetch_of_no_turn {s : State} {f : Fn} {r : Nat} (got : Option (List Byte)) (hturn : s.turnOf f ≠ some r)
    (hcredit : (s.ring f r).credit = true) : doFetch f r got s = s := by
  unfold doFetch noteStall
  rw [if_neg (by simp [hturn]), if_neg (by simp [hcredit])]

/-- Settles O16: the fetch of a ring in its turn by what the read gives, and what `takeDesc` makes of the descriptor. -/
theorem fetchTakesDescriptor : Obligations.FetchTakesDescriptor := by
  unfold Obligations.FetchTakesDescriptor
  refine fun s f r bs => ⟨fun hturn hleft => ?_, fun hturn hcredit got => congrArg Host.Outcome.next (doFetch_of_no_turn got hturn hcredit)⟩
  intro u
  obtain ⟨hf, hr⟩ := there_of_mayFetch (mayFetch_of_turnOf hturn)
  refine ⟨congrArg Host.Outcome.next (doFetch_of_turn none hturn hleft), fun htake => ?_, fun hf0 hstate hsearch => ?_⟩
  · have htaken : exec (.descriptorFetch f r (some bs)) s = .next (takeDesc f r (padTo 64 bs) u) := by
      refine congrArg Host.Outcome.next ((doFetch_of_turn (some bs) hturn hleft).trans (if_neg ?_))
      rcases htake with h | h | h <;> simp [h]
    refine ⟨fun hok => ⟨u.taken f r (padTo 64 bs), ?_, ?_, ring_taken _ (s := u) hf hr, fun g hg => fn_taken_ne r _ u hg, ?_⟩,
      fun st hst => ⟨u.fetchedWork f r (padTo 64 bs), u.taken f r (padTo 64 bs), ?_, rfl, rfl, rfl, ?_, ?_⟩⟩
    · rw [htaken, takeDesc_eq, hok]
    · rw [taken_parts]
      rfl
    · rw [taken_parts]
      rfl
    · rw [htaken, takeDesc_eq, hst]
    · rw [taken_parts]
      rfl
    · rw [taken_parts]
  · exact congrArg Host.Outcome.next ((doFetch_of_turn (some bs) hturn hleft).trans (if_pos (by simp [hf0, hstate, hsearch])))

end Sys2Proof.Machine

/-! ## What a message that is sent leaves alone (R331 to R343) -/

namespace Sys2Proof.Machine
-- The whole text is compiled by one process of limited memory: one proof at a time keeps it small.
set_option Elab.async false

/-- A packet on the wire of a port. -/
def Out.onPort : Out → Bool | .port .. => true | _ => false

/-- `t` is `s` with messages sent: of the fabric only flows, messages under way, their numbers and what waits to be sent have changed, of
the shares only what counts the link, and nothing left the node but on its ports. -/
structure Sends (s t : State) : Prop where
  keeps : Keeps [.out, .stats, .pvStats, .fab, .qos] s t
  fab : t.fab = { s.fab with retx := t.fab.retx, coal := t.fab.coal, sflows := t.fab.sflows, rflows := t.fab.rflows,
                             rmsgs := t.fab.rmsgs, nextMsg := t.fab.nextMsg }
  qos : t.qos = { s.qos with shares := t.qos.shares }
  out : ∃ os, t.out = s.out ++ os ∧ ∀ o ∈ os, o.onPort = true

namespace Sends

theorem refl (s : State) : Sends s s := ⟨Keeps.refl _ _, rfl, rfl, [], by simp, by simp⟩

theorem trans {s t u : State} (h : Sends s t) (h' : Sends t u) : Sends s u := by
  obtain ⟨os, hos, hport⟩ := h.out
  obtain ⟨os', hos', hport'⟩ := h'.out
  refine ⟨h.keeps.after h'.keeps rfl, h'.fab.trans ?_, h'.qos.trans ?_, os ++ os', ?_, fun o ho => ?_⟩
  · rw [h.fab]
  · rw [h.qos]
  · rw [hos', hos, List.append_assoc]
  · exact (List.mem_append.1 ho).elim (hport o) (hport' o)

/-- Messages are sent by what changes only the parts of the fabric that are theirs. -/
theorem ofFab {s : State} {x : Fabric}
    (h : x = { s.fab with retx := x.retx, coal := x.coal, sflows := x.sflows, rflows := x.rflows
                          rmsgs := x.rmsgs, nextMsg := x.nextMsg }) : Sends s { s with fab := x } := by
  refine ⟨Keeps.after (Keeps.refl _ _) (upd_fab _ ?_) rfl, h, rfl, [], by simp, by simp⟩
  rw [h]
  rfl

theorem ite {c : Prop} [Decidable c] {s t u : State} (ht : Sends s t) (hu : Sends s u) : Sends s (if c then t else u) := by
  split
  · exact ht
  · exact hu

theorem foldl {α : Type} {f : State → α → State} (h : ∀ s a, Sends s (f s a)) (l : List α) (s : State) : Sends s (l.foldl f s) := by
  induction l generalizing s with
  | nil => exact .refl s
  | cons a l ih => exact (h s a).trans (ih (f s a))

theorem count (pv : Option Nat) (g i n : Nat) (s : State) : Sends s (Machine.count pv g i n s) := by
  refine ⟨(count_keeps ..).mono rfl, ?_, ?_, [], ?_, by simp⟩ <;> cases pv <;> simp [Machine.count]

theorem port (i : Nat) (k : String) (bs : List Byte) (s : State) : Sends s (emit (.port i k bs) s) :=
  ⟨(emit_keeps ..).mono rfl, rfl, rfl, [.port i k bs], rfl, by simp [Out.onPort]⟩

theorem chargeLink (port pv n : Nat) (s : State) : Sends s (Machine.chargeLink port pv n s) :=
  ⟨(chargeLink_keeps ..).mono rfl, rfl, rfl, [], by simp [Machine.chargeLink], by simp⟩

theorem modFlow (sel : SFlow → Bool) (g : SFlow → SFlow) (s : State) : Sends s (Machine.modFlow sel g s) := ofFab rfl

theorem putPkt (f : SFlow) (p : Pkt) (s : State) : Sends s (Machine.putPkt f p s) := by
  unfold Machine.putPkt
  extract_lets -merge bs x1 s1 s2
  have h1 : Sends s s1 := ofFab rfl
  have h2 : Sends s1 s2 := ite (chargeLink ..) (refl _)
  exact (h1.trans h2).trans ((port ..).trans (count ..))

theorem takeBuffer {port cls : Nat} {s t : State} (h : Machine.takeBuffer port cls s = some t) : Sends s t := by
  unfold Machine.takeBuffer at h
  split at h
  · rw [← Option.some.inj h]
    exact modFlow ..
  · split at h
    · rw [← Option.some.inj h]
      exact ofFab rfl
    · cases h

theorem findBuffer (k port cls n : Nat) (s : State) : Sends s (Machine.findBuffer k port cls n s).2 := by
  induction k generalizing s with
  | zero => exact refl s
  | succ k ih =>
    unfold Machine.findBuffer
    split
    · exact refl s
    · split
      · split
        · next t ht => exact (takeBuffer ht).trans (ih t)
        · exact refl s
      · exact refl s

theorem sendWaiting (f : SFlow) (ps : List Pkt) (s : State) : Sends s (Machine.sendWaiting f ps s) := by
  induction ps generalizing s with
  | nil => exact refl s
  | cons p ps ih =>
    have hfound : Sends s (if p.buf = true then (true, s) else Machine.findBuffer 8192 f.port f.cls p.data.length s).2 := by
      split
      · exact refl s
      · exact findBuffer ..
    unfold Machine.sendWaiting
    refine ite (refl s) ?_
    split
    · next t ht =>
      rw [ht] at hfound
      exact hfound.trans ((modFlow ..).trans ((putPkt ..).trans (ih _)))
    · next t ht =>
      rw [ht] at hfound
      exact hfound

theorem transmit (dst cls op pv msgId : Nat) (body : List Byte) (s : State) : Sends s (Machine.transmit dst cls op pv msgId body s) := by
  unfold Machine.transmit
  refine ite ?_ (refl s)
  extract_lets -merge idx x1 s1
  have h1 : Sends s s1 := ite (refl s) (ofFab rfl)
  split
  · exact h1
  · exact h1.trans ((modFlow ..).trans (ite (sendWaiting ..) (refl _)))

theorem newMsgId (s : State) : Sends s (Machine.newMsgId s).2 := ofFab rfl

theorem sendBytes (dst cls op pv msgId : Nat) (body : List Byte) (s : State) : Sends s (Machine.sendBytes dst cls op pv msgId body s) := by
  unfold Machine.sendBytes
  extract_lets same g
  exact ite (ite (ite (ofFab rfl) (ofFab rfl)) (transmit ..)) (refl s)

theorem sendMsg (dst cls op pv : Nat) (body : List Byte) (s : State) : Sends s (Machine.sendMsg dst cls op pv body s) :=
  (newMsgId s).trans (sendBytes ..)

theorem sendMap (dst : Nat) (m : MapMsg) (s : State) : Sends s (Machine.sendMap dst m s) := by
  unfold Machine.sendMap
  exact ite ((newMsgId s).trans (ofFab rfl)) (refl s)

/-! ### What the rest of the state reads after messages are sent -/

variable {s t : State}

theorem windows (h : Sends s t) : t.fab.windows = s.fab.windows := by rw [h.fab]
theorem qps (h : Sends s t) : t.fab.qps = s.fab.qps := by rw [h.fab]
theorem reqs (h : Sends s t) : t.fab.reqs = s.fab.reqs := by rw [h.fab]
theorem held (h : Sends s t) : t.fab.held = s.fab.held := by rw [h.fab]
theorem ports (h : Sends s t) : t.fab.ports = s.fab.ports := by rw [h.fab]
theorem inReset (h : Sends s t) : t.qos.inReset = s.qos.inReset := by rw [h.qos]

end Sends

end Sys2Proof.Machine

/-! ## Interrupts, functions and their resets (R268 to R294, R390 to R392) -/

namespace Sys2Proof.Machine
-- The whole text is compiled by one process of limited memory: one proof at a time keeps it small.
set_option Elab.async false

/-! ## Folds over the state -/

/-- What each step of a fold leaves alone, the fold leaves alone. -/
theorem foldl_same {α β : Type} {f : State → α → State} (g : State → β) (h : ∀ s a, g (f s a) = g s) (l : List α) (s : State) :
    g (l.foldl f s) = g s := by
  induction l generalizing s with
  | nil => rfl
  | cons a l ih => exact (ih (f s a)).trans (h s a)

/-- A list that each step of a fold filters is filtered by all of them. -/
theorem foldl_filter {α β : Type} {f : State → α → State} (g : State → List β) (keep : α → β → Bool)
    (h : ∀ s a, g (f s a) = (g s).filter (keep a)) (l : List α) (s : State) :
    g (l.foldl f s) = (g s).filter fun b => l.all (keep · b) := by
  induction l generalizing s with
  | nil => simp
  | cons a l ih => simp [ih, h, List.filter_filter, Bool.and_comm]

/-! ## Interrupts and function registers -/

theorem exec_msixModTimer_ring {s : State} {f : Fn} {r n : Nat} (ht : (s.ring f r).modT = some n)
    (hn : ctlModTime (s.ring f r).irq ≤ n) :
    exec (.msixModTimer f (some r)) s =
      .next (fire f (ctlVector (s.ring f r).irq) (modRing f r (fun x => { x with modN := 0, modT := none }) s)) := by
  refine congrArg Host.Outcome.next ?_
  unfold doModTimer
  simp only [ht]
  exact if_pos hn

theorem exec_msixModTimer_eq {s : State} {f : Fn} {n : Nat} (ht : (s.fn f).eq.modT = some n) (hn : ctlModTime (s.fn f).eq.irq ≤ n) :
    exec (.msixModTimer f none) s =
      .next (fire f (ctlVector (s.fn f).eq.irq) (modFn f (fun y => { y with eq := { y.eq with modN := 0, modT := none } }) s)) := by
  refine congrArg Host.Outcome.next ?_
  unfold doModTimer
  simp only [ht]
  exact if_pos hn

/-- A timer that does not run, or has not run out, does nothing. -/
theorem exec_msixModTimer_early {s : State} {f : Fn} {r : Nat}
    (h : ∀ n, (s.ring f r).modT = some n → n < ctlModTime (s.ring f r).irq) : exec (.msixModTimer f (some r)) s = .next s := by
  refine congrArg Host.Outcome.next ?_
  unfold doModTimer
  dsimp only
  split
  · next n hn => exact if_neg (Nat.not_le.2 (h n hn))
  · rfl

/-- A vector whose mask bit is cleared. -/
def Msix.unmasked (m : Msix) : Msix := { m with ctl := m.ctl &&& 0xFFFF_FFFE#32, pend := false }

theorem bit_unmasked (m : Msix) : bit m.unmasked.ctl 0 = false := by simp [bit, Msix.unmasked]

/-- Unmasking a vector fires it where it is pending (R289). -/
theorem doUnmask_of_up {s : State} {f : Fn} (v : Nat) (hup : s.fnUp f = true) :
    doUnmask f v s =
      if ((s.fn f).msix.getD v Msix.reset).pend then emit (.msix f v) (modFn f (fun y => { y with msix := modifyAt y.msix v Msix.unmasked }) s)
      else modFn f (fun y => { y with msix := modifyAt y.msix v Msix.unmasked }) s := if_pos hup

theorem exec_bar0BadAccess {s : State} {f : Fn} {off len : Nat} (write : Bool) (hlink : s.linkUp = true) (hen : (s.fn f).enabled = true)
    (h : off % 4 ≠ 0 ∨ len ≠ 4) :
    exec (.bar0BadAccess f write off len) s = .next (emit (if write then .aer f else .unsupported f) s) := by
  refine congrArg Host.Outcome.next (if_pos ?_)
  rw [hlink, hen]
  rcases h with h | h <;> simp [h]

theorem exec_devicePowerStateWrite {s : State} {f : Fn} (d3 : Bool) (hlink : s.linkUp = true) (hen : (s.fn f).enabled = true) :
    exec (.devicePowerStateWrite f d3) s = .next (modFn f (fun y => { y with d3 := d3 }) s) :=
  congrArg Host.Outcome.next (if_pos (by simp [hlink, hen]))

/-- A function of a list whose entries are changed by their place. -/
theorem getD_mapIdx_of_lt {α : Type} (g : α × Nat → α) (xs : List α) (d : α) {i : Nat} (h : i < xs.length) :
    (xs.zipIdx.map g).getD i d = g (xs.getD i d, i) := by
  simp [List.getD_eq_getElem?_getD, h]

theorem exec_vfEnableSet {s : State} {n : Nat} (hlink : s.linkUp = true) (hn : n ≤ 12)
    (hoff : (s.fns.drop 1).all (fun y => !y.enabled) = true) :
    exec (.vfEnableSet n) s =
      .next { s with fns := s.fns.zipIdx.map fun (y, i) => if 1 ≤ i ∧ i ≤ n then { y with enabled := true } else y } :=
  congrArg Host.Outcome.next (if_pos (by rw [hlink, hoff, decide_eq_true hn]; rfl))

/-! ## The reset of PF0 -/

theorem resetPf0_parts (s : State) :
    (resetPf0 s).fns = modifyAt s.fns 0 (FnState.flr true) ∧ (resetPf0 s).works = s.works.filter (fun w => w.fn != 0) ∧
      (resetPf0 s).rx = { s.rx with ctl := 0#32 } ∧ (resetPf0 s).qos = s.qos := by
  unfold resetPf0
  extract_lets s1 s2
  have f1 : s1.fns = modifyAt s.fns 0 (FnState.flr true) := congrArg (modifyAt · 0 _) (dropWorks_keeps ..).fns
  have w1 : s1.works = s.works.filter (fun w => w.fn != 0) := rfl
  have k1 : Keeps [.works, .fns, .fab] s s1 := ((dropWorks_keeps ..).mono rfl).after (modFn_keeps ..) rfl
  clear_value s1
  have k2 : Keeps [.chans, .comp] s1 s2 := (cutChan_keeps ..).after (cutChan_keeps ..) rfl
  clear_value s2
  have hrx : s2.rx = s.rx := k2.rx.trans k1.rx
  exact ⟨k2.fns.trans f1, k2.works.trans w1, congrArg (fun x : RxChan => { x with ctl := 0#32 }) hrx, k2.qos.trans k1.qos⟩

/-! ## The reset of a pavilion -/

/-- Queries of the pavilion go, and nothing else of the machine but what is sent (R391). -/
theorem endQueries_queries (p : Nat) (s : State) : ∀ q ∈ (endQueries p s).scan.queries, q.pv ≠ p := by
  intro q hq hp
  unfold endQueries at hq
  rw [foldl_filter (fun t => t.scan.queries) (fun q x => x.id != q.id)] at hq
  · obtain ⟨hmem, hall⟩ := List.mem_filter.1 hq
    have := List.all_eq_true.1 hall q (List.mem_filter.2 ⟨hmem, by simpa using hp⟩)
    simp at this
  · intro t q
    dsimp only
    split
    · split
      · rfl
      · exact congrArg Scan.queries (refuseFan_keeps ..).scan
    · rfl

theorem endQueries_inReset (p : Nat) (s : State) : (endQueries p s).qos.inReset = s.qos.inReset := by
  unfold endQueries
  refine foldl_same (fun t => t.qos.inReset) (fun t q => ?_) _ s
  dsimp only
  split
  · split
    · rfl
    · exact (Sends.sendMsg ..).inReset
  · rfl

/-- The windows of the pavilion go. -/
theorem dropWindows_windows (p : Nat) (s : State) :
    ∀ w ∈ ((s.fab.windows.filter fun w => w.pv == p).foldl (fun s w => dropWindow w s) s).fab.windows, w.pv ≠ p := by
  intro w hw hp
  rw [foldl_filter (fun t => t.fab.windows) (fun w x => x != w)] at hw
  · obtain ⟨hmem, hall⟩ := List.mem_filter.1 hw
    have := List.all_eq_true.1 hall w (List.mem_filter.2 ⟨hmem, by simpa using hp⟩)
    simp at this
  · intro t w
    exact congrArg Fabric.windows (pinWindow_keeps ..).fab

/-- The reset instant of a pavilion (R390, R391): its work, queries, windows and queue pairs are gone, its function is reset, and it is in
reset from the frame on. -/
theorem resetPv_parts {p : Nat} {s : State} (h : s.pvInReset p = false) :
    (resetPv p s).qos.inReset = modifyAt s.qos.inReset p (fun _ => some s.hfn) ∧
      (resetPv p s).works = s.works.filter (fun w => w.fn != fnOf p) ∧
      (resetPv p s).fns = modifyAt s.fns (fnOf p).val (FnState.flr false) ∧
      (∀ q ∈ (resetPv p s).scan.queries, q.pv ≠ p) ∧ (∀ w ∈ (resetPv p s).fab.windows, w.pv ≠ p) ∧
      ∀ q ∈ (resetPv p s).fab.qps, q.pv ≠ p := by
  unfold resetPv
  rw [if_neg (by simp [h])]
  extract_lets f s1 s2 s3 s4 s5 s6
  have hf : f = fnOf p := rfl
  have k1 : Keeps [.out, .works, .stats, .pvStats, .scan, .fab, .qos] s s1 := ((dropWorks_keeps ..).mono rfl).after (endQueries_keeps ..) rfl
  have w1 : s1.works = s.works.filter (fun w => w.fn != f) := (endQueries_keeps ..).works
  have q1 : ∀ q ∈ s1.scan.queries, q.pv ≠ p := endQueries_queries p _
  have r1 : s1.qos.inReset = s.qos.inReset := (endQueries_inReset p _).trans (congrArg Qos.inReset (dropWorks_keeps ..).qos)
  clear_value s1 f
  have k2 : Keeps [.corpora, .upd, .comp] s1 s2 := Keeps.foldl (Keeps.refl _ _) fun t b => cutBatch_keeps ..
  clear_value s2
  have k3 : Keeps [.ranges, .fab] s2 s3 := Keeps.foldl (Keeps.refl _ _) fun t w => dropWindow_keeps ..
  have v3 : ∀ w ∈ s3.fab.windows, w.pv ≠ p := dropWindows_windows p s2
  clear_value s3
  have k4 : Keeps [.fab] s3 s4 := (modFab_keeps _ _ rfl).mono rfl
  have v4 : s4.fab.windows = s3.fab.windows := rfl
  have q4 : ∀ q ∈ s4.fab.qps, q.pv ≠ p := fun q hq => by simpa using (List.mem_filter.1 hq).2
  clear_value s4
  have k5 : Keeps [.corpora, .ranges] s4 s5 := (((modRange_keeps ..).mono rfl).after (modCorpus_keeps ..) rfl).after (freeElems_keeps ..) rfl
  clear_value s5
  have f6 : s6.fns = modifyAt s5.fns f.val (FnState.flr false) := (cutChan_keeps ..).fns
  have k6 : Keeps [.fns, .chans, .comp] s5 s6 := ((modFn_keeps ..).mono rfl).after (cutChan_keeps ..) rfl
  clear_value s6
  have hqos : s6.qos = s1.qos := k6.qos.trans (k5.qos.trans (k4.qos.trans (k3.qos.trans k2.qos)))
  have hclk : s6.clk = s.clk := k6.clk.trans (k5.clk.trans (k4.clk.trans (k3.clk.trans (k2.clk.trans k1.clk))))
  have hfab : s6.fab = s4.fab := k6.fab.trans k5.fab
  refine ⟨?_, ?_, ?_, ?_, ?_, ?_⟩
  · show modifyAt s6.qos.inReset p (fun _ => some s6.clk.hfn) = modifyAt s.qos.inReset p (fun _ => some s.clk.hfn)
    rw [hqos, hclk, r1]
  · exact (k6.works.trans (k5.works.trans (k4.works.trans (k3.works.trans k2.works)))).trans (hf ▸ w1)
  · exact f6.trans (by rw [k5.fns, k4.fns, k3.fns, k2.fns, k1.fns, hf])
  · have hscan : s6.scan = s1.scan := k6.scan.trans (k5.scan.trans (k4.scan.trans (k3.scan.trans k2.scan)))
    intro q hq
    exact q1 q (hscan ▸ hq)
  · intro w hw
    exact v3 w (v4 ▸ hfab ▸ hw)
  · intro q hq
    exact q4 q (hfab ▸ hq)

theorem resetPv_of_inReset {p : Nat} {s : State} (h : s.pvInReset p = true) : resetPv p s = s := if_pos h

/-! ## Resets of several functions at once -/

/-- Resets of functions and pavilions: no work comes, a pavilion in reset stays in reset, and every function stays as present as it was. -/
structure ResetsFns (s t : State) : Prop where
  works : ∀ w ∈ t.works, w ∈ s.works
  length : t.qos.inReset.length = s.qos.inReset.length
  inReset : ∀ p, s.pvInReset p = true → t.pvInReset p = true
  enabled : ∀ g, (t.fn g).enabled = (s.fn g).enabled

theorem ResetsFns.refl (s : State) : ResetsFns s s := ⟨fun _ h => h, rfl, fun _ h => h, fun _ => rfl⟩

theorem ResetsFns.trans {s t u : State} (h : ResetsFns s t) (h' : ResetsFns t u) : ResetsFns s u :=
  ⟨fun w hw => h.works w (h'.works w hw), h'.length.trans h.length, fun p hp => h'.inReset p (h.inReset p hp),
    fun g => (h'.enabled g).trans (h.enabled g)⟩

/-- A change of a function that leaves it present or absent leaves every function so. -/
theorem enabled_modifyAt (f g : Fn) (k : FnState → FnState) (hk : ∀ x, (k x).enabled = x.enabled) (xs : List FnState) :
    ((modifyAt xs f.val k).getD g.val (FnState.reset false)).enabled = (xs.getD g.val (FnState.reset false)).enabled := by
  by_cases h : f = g
  · subst h
    by_cases hlt : f.val < xs.length
    · rw [getD_modifyAt_self _ _ _ _ hlt, hk]
    · rw [List.getD_eq_getElem?_getD, List.getElem?_eq_none (by simpa using hlt), List.getD_eq_getElem?_getD,
        List.getElem?_eq_none (Nat.le_of_not_lt hlt)]
  · rw [getD_modifyAt_ne _ _ _ _ _ fun e => h (Fin.ext e)]

theorem resetPf0_resetsFns (s : State) : ResetsFns s (resetPf0 s) := by
  obtain ⟨hfns, hworks, -, hqos⟩ := resetPf0_parts s
  refine ⟨fun w hw => (List.mem_filter.1 (hworks ▸ hw)).1, by rw [hqos], fun p hp => ?_, fun g => ?_⟩
  · rw [State.pvInReset, hqos]
    exact hp
  · rw [State.fn, hfns]
    exact enabled_modifyAt 0 g (FnState.flr true) (fun _ => rfl) s.fns

theorem resetPv_resetsFns (p : Nat) (s : State) : ResetsFns s (resetPv p s) := by
  by_cases h : s.pvInReset p = true
  · rw [resetPv_of_inReset h]
    exact .refl s
  · obtain ⟨hreset, hworks, hfns, -⟩ := resetPv_parts (Bool.eq_false_iff.2 h)
    refine ⟨fun w hw => (List.mem_filter.1 (hworks ▸ hw)).1, by rw [hreset, modifyAt_length], fun q hq => ?_, fun g => ?_⟩
    · by_cases hpq : p = q
      · exact absurd (hpq ▸ hq) h
      · rw [State.pvInReset, hreset, getD_modifyAt_ne _ _ _ _ _ hpq]
        exact hq
    · rw [State.fn, hfns]
      exact enabled_modifyAt _ g (FnState.flr false) (fun _ => rfl) s.fns

/-- After the reset instant of a pavilion it is in reset. -/
theorem pvInReset_resetPv {p : Nat} {s : State} (hp : p < s.qos.inReset.length) : (resetPv p s).pvInReset p = true := by
  by_cases h : s.pvInReset p = true
  · rw [resetPv_of_inReset h]
    exact h
  · rw [State.pvInReset, (resetPv_parts (Bool.eq_false_iff.2 h)).1, getD_modifyAt_self _ _ _ _ hp]
    rfl

/-- The reset instant of the enabled pavilions among some. -/
def resetPvs (ps : List Nat) (s : State) : State := ps.foldl (fun s p => if (s.fn (fnOf p)).enabled then resetPv p s else s) s

theorem resetPvs_resetsFns (ps : List Nat) (s : State) : ResetsFns s (resetPvs ps s) := by
  induction ps generalizing s with
  | nil => exact .refl s
  | cons p ps ih =>
    refine ResetsFns.trans ?_ (ih _)
    dsimp only
    split
    · exact resetPv_resetsFns p s
    · exact .refl s

theorem pvInReset_resetPvs {ps : List Nat} {s : State} {p : Nat} (hmem : p ∈ ps) (hen : (s.fn (fnOf p)).enabled = true)
    (hp : p < s.qos.inReset.length) : (resetPvs ps s).pvInReset p = true := by
  induction ps generalizing s with
  | nil => cases hmem
  | cons q ps ih =>
    have hstep : ResetsFns s (if (s.fn (fnOf q)).enabled then resetPv q s else s) := by
      split
      · exact resetPv_resetsFns q s
      · exact .refl s
    rcases List.mem_cons.1 hmem with rfl | hmem
    · refine (resetPvs_resetsFns ps _).inReset p ?_
      dsimp only
      rw [if_pos hen]
      exact pvInReset_resetPv hp
    · exact ih hmem ((hstep.enabled _).trans hen) (hstep.length.symm ▸ hp)

theorem resetAll_eq (s : State) : resetAll s = resetPvs (List.range 12) (resetPf0 s) := rfl

/-- The reset of every function: PF0's work ends, and every enabled pavilion is in reset. -/
theorem resetAll_parts (s : State) :
    (∀ w ∈ (resetAll s).works, w.fn ≠ 0) ∧
      ∀ p : Pv, (s.fn (fnOf p.val)).enabled = true → p.val < s.qos.inReset.length → (resetAll s).pvInReset p.val = true := by
  refine ⟨fun w hw => ?_, fun p hen hp => ?_⟩
  · have hmem : w ∈ (resetPf0 s).works := (resetPvs_resetsFns _ _).works w hw
    rw [(resetPf0_parts s).2.1] at hmem
    simpa using (List.mem_filter.1 hmem).2
  · exact pvInReset_resetPvs (List.mem_range.2 p.isLt) (((resetPf0_resetsFns s).enabled _).trans hen)
      ((resetPf0_resetsFns s).length.symm ▸ hp)

/-- With VF Enable cleared no VF exists (R270). -/
theorem absent_vfClear {g : Fn} (hg : g.val ≠ 0) (xs : List FnState) :
    ((xs.zipIdx.map fun (y, i) => if i = 0 then y else { y with enabled := false }).getD g.val (FnState.reset false)).enabled = false := by
  by_cases h : g.val < xs.length
  · rw [getD_mapIdx_of_lt _ _ _ h]
    dsimp only
    rw [if_neg hg]
  · rw [List.getD_eq_getElem?_getD, List.getElem?_eq_none (by simpa using h)]
    rfl

theorem exec_hotReset {s : State} (hup : s.phase.up = true) :
    exec .hotReset s = .next { resetAll s with side := { s.side with pcieClk := true } } := by
  rw [← (resetAll_keeps s).side]
  exact congrArg Host.Outcome.next (if_pos hup)

theorem exec_pcieRefclkLoss {s : State} (hlink : s.linkUp = true) :
    exec .pcieRefclkLoss s = .next { resetAll s with side := { s.side with pcieClk := false } } := by
  rw [← (resetAll_keeps s).side]
  exact congrArg Host.Outcome.next (if_pos hlink)

theorem exec_vfEnableClear {s : State} (hlink : s.linkUp = true) :
    exec .vfEnableClear s = .next { resetPvs (List.range 12) s with
      fns := (resetPvs (List.range 12) s).fns.zipIdx.map fun (y, i) => if i = 0 then y else { y with enabled := false } } :=
  congrArg Host.Outcome.next (if_pos hlink)

/-- Settles O17: timers, masks and power states by their equations; the resets by what one pavilion's reset does, repeated. -/
theorem interruptsAndResets : Obligations.InterruptsAndResets := by
  unfold Obligations.InterruptsAndResets
  refine ⟨fun s f => ⟨fun r n => exec_msixModTimer_ring, fun n => exec_msixModTimer_eq, fun r => exec_msixModTimer_early,
      fun v hup hv hpend => ?_, fun v hup hpend => ?_, fun off len hlink hen h => ⟨exec_bar0BadAccess true hlink hen h,
      exec_bar0BadAccess false hlink hen h⟩, fun d3 => exec_devicePowerStateWrite d3, fun n hlink hn hoff => ?_⟩,
    fun s => ⟨fun hlink hlen => ?_, fun p hlink hen hout hp => ?_, fun p hin => ?_, fun hup => ?_, fun hlink => ?_, fun hlink => ?_,
      fun p => rfl⟩⟩
  · have hfn : (emit (.msix f v) (modFn f (fun y => { y with msix := modifyAt y.msix v Msix.unmasked }) s)).fn f =
        { s.fn f with msix := modifyAt (s.fn f).msix v Msix.unmasked } := fn_modFn _ _ _ (fn_lt_of_fnUp s f hup)
    refine ⟨_, congrArg Host.Outcome.next ((doUnmask_of_up v hup).trans (if_pos hpend)), rfl, rfl, ?_, ?_⟩
    · rw [hfn, getD_modifyAt_self _ _ _ _ hv]
      exact bit_unmasked _
    · rw [hfn, getD_modifyAt_self _ _ _ _ hv]
      rfl
  · exact ⟨_, congrArg Host.Outcome.next ((doUnmask_of_up v hup).trans (if_neg (by rw [hpend]; decide))), rfl⟩
  · exact ⟨_, exec_vfEnableSet hlink hn hoff, rfl, fun g hg => getD_mapIdx_of_lt _ _ _ hg⟩
  · obtain ⟨hfns, hworks, hrx, -⟩ := resetPf0_parts s
    refine ⟨_, congrArg Host.Outcome.next (if_pos hlink), ?_, fun g hg => ?_, hworks, hrx⟩
    · rw [State.fn, hfns]
      exact getD_modifyAt_self _ _ _ _ hlen
    · rw [State.fn, hfns]
      exact getD_modifyAt_ne _ _ _ _ _ fun e => hg (Fin.ext e.symm)
  · obtain ⟨hreset, hworks, hfns, hqueries, hwindows, hqps⟩ := resetPv_parts hout
    refine ⟨_, congrArg Host.Outcome.next (if_pos (by rw [hlink, hen]; rfl)), hreset, hworks, hqueries, hwindows, hqps, ?_⟩
    have hlt : (fnOf p.val).val < s.fns.length := by
      by_contra hn
      rw [State.fn, List.getD_eq_getElem?_getD, List.getElem?_eq_none (Nat.le_of_not_lt hn)] at hen
      cases hen
    rw [State.fn, hfns]
    exact getD_modifyAt_self _ _ _ _ hlt
  · refine congrArg Host.Outcome.next ?_
    unfold doFlr
    split
    · exact resetPv_of_inReset hin
    · rfl
  · obtain ⟨hworks, hin⟩ := resetAll_parts s
    have hexec := exec_hotReset hup
    generalize resetAll s = t at hexec hworks hin
    exact ⟨_, hexec, rfl, hworks, hin⟩
  · obtain ⟨hworks, hin⟩ := resetAll_parts s
    have hexec := exec_pcieRefclkLoss hlink
    generalize resetAll s = t at hexec hworks hin
    exact ⟨_, hexec, rfl, hworks, hin⟩
  · have hin (p : Pv) (hen : (s.fn (fnOf p.val)).enabled = true) (hp : p.val < s.qos.inReset.length) :=
      pvInReset_resetPvs (List.mem_range.2 p.isLt) hen hp
    have hexec := exec_vfEnableClear hlink
    generalize resetPvs (List.range 12) s = t at hexec hin
    exact ⟨_, hexec, fun g hg => absent_vfClear hg _, hin⟩

end Sys2Proof.Machine

/-! ## Compaction, selection units, lane drains, claims and steals (R99 to R113) -/

namespace Sys2Proof.Machine
-- The whole text is compiled by one process of limited memory: one proof at a time keeps it small.
set_option Elab.async false

/-! ## Queries and scan batches by number -/

theorem id_of_query? {s : State} {i : Nat} {q : Query} (h : s.query? i = some q) : q.id = i := by simpa using List.find?_some h

theorem id_of_sbatch? {s : State} {i : Nat} {b : ScanBatch} (h : s.sbatch? i = some b) : b.id = i := by simpa using List.find?_some h

theorem query?_modQuery {s : State} {i : Nat} {q : Query} {g : Query → Query} (hg : ∀ x, (g x).id = x.id) (h : s.query? i = some q) :
    (modQuery i g s).query? i = some (g q) := by
  have hfind := find?_mapIf (·.id == i) (·.id == i) g (fun x => by rw [hg]) s.scan.queries
  refine hfind.trans ?_
  rw [show s.scan.queries.find? (·.id == i) = some q from h]
  simp [id_of_query? h]

theorem sbatch?_modSBatch {s : State} {i : Nat} {b : ScanBatch} {g : ScanBatch → ScanBatch} (hg : ∀ x, (g x).id = x.id)
    (h : s.sbatch? i = some b) : (modSBatch i g s).sbatch? i = some (g b) := by
  have hfind := find?_mapIf (·.id == i) (·.id == i) g (fun x => by rw [hg]) s.scan.batches
  refine hfind.trans ?_
  rw [show s.scan.batches.find? (·.id == i) = some b from h]
  simp [id_of_sbatch? h]

/-- Lookups read the scan state alone. -/
theorem query?_congr {s t : State} (h : t.scan.queries = s.scan.queries) (i : Nat) : t.query? i = s.query? i := by
  rw [State.query?, h, State.query?]

theorem sbatch?_congr {s t : State} (h : t.scan.batches = s.scan.batches) (i : Nat) : t.sbatch? i = s.sbatch? i := by
  rw [State.sbatch?, h, State.sbatch?]

/-! ## The merge tree and the lanes -/

/-- Entries that join the merge tree change the tree alone. -/
theorem addTree_scan (level place qid c : Nat) (es : List SelEnt) (s : State) :
    addTree level place qid c es s = { s with scan := { s.scan with tree := (addTree level place qid c es s).scan.tree } } := by
  unfold addTree
  extract_lets same put
  split
  · rfl
  · split <;> rfl

/-- The lane of a hit's selection unit. -/
def Hit.onLane (h : Hit) (l : Lane) : Bool := l.batch == h.batch && l.qid == h.qid && l.die == h.die && l.eng == h.eng

/-- The entries of a hit's lane are set. -/
def Scan.setLane (x : Scan) (h : Hit) (es : List SelEnt) : Scan :=
  if x.lanes.any h.onLane then { x with lanes := mapIf h.onLane (fun l => { l with ents := es }) x.lanes }
  else { x with lanes := x.lanes ++ [⟨h.batch, h.qid, h.die, h.eng, es⟩] }

theorem Scan.setLane_parts (x : Scan) (h : Hit) (es : List SelEnt) : x.setLane h es = { x with lanes := (x.setLane h es).lanes } := by
  unfold Scan.setLane
  split <;> rfl

theorem laneOf_eq (s : State) (h : Hit) : s.laneOf h = ((s.scan.lanes.find? h.onLane).map (·.ents)).getD [] := rfl

theorem laneOf_congr {s t : State} (h : Hit) (hl : t.scan.lanes = s.scan.lanes) : t.laneOf h = s.laneOf h := by
  rw [laneOf_eq, hl, laneOf_eq]

/-- A lane that is set holds what it was set to. -/
theorem laneOf_setLane (s : State) (h : Hit) (es : List SelEnt) : ({ s with scan := s.scan.setLane h es } : State).laneOf h = es := by
  rw [laneOf_eq]
  unfold Scan.setLane
  split
  · next hany =>
    obtain ⟨l, hl⟩ := Option.isSome_iff_exists.1 ((List.find?_isSome (p := h.onLane)).2 (by simpa using hany))
    have hfind := find?_mapIf h.onLane h.onLane (fun l => { l with ents := es }) (fun _ => rfl) s.scan.lanes
    rw [hfind, hl]
    simp [List.find?_some hl]
  · next hany =>
    have hnone : s.scan.lanes.find? h.onLane = none := by
      rw [List.find?_eq_none]
      simpa using hany
    simp [List.find?_append, hnone, Hit.onLane]

/-- A selection unit sets the lane that it has, or a new one. -/
theorem setLane_ite (h : Hit) (es : List SelEnt) (s : State) :
    (if s.scan.lanes.any h.onLane then modScan (fun x => { x with lanes := mapIf h.onLane (fun l => { l with ents := es }) x.lanes }) s
      else modScan (fun x => { x with lanes := x.lanes ++ [⟨h.batch, h.qid, h.die, h.eng, es⟩] }) s) =
      { s with scan := s.scan.setLane h es } := by
  unfold Scan.setLane
  split <;> rfl

/-- A hit that reaches a selection unit, by the room of its lane and the worst entry there (R112). -/
theorem selectHit_of_room {h : Hit} {q : Query} {e : SelEnt} {s : State} (hroom : (s.laneOf h).length < min 64 q.q.c) :
    selectHit h q e s = { s with scan := s.scan.setLane h (s.laneOf h ++ [e]) } := by
  unfold selectHit
  extract_lets same held setLane
  have hset : setLane (held ++ [e]) s = { s with scan := s.scan.setLane h (s.laneOf h ++ [e]) } := setLane_ite h _ s
  exact (if_pos hroom).trans hset

/-- What the entry that a full lane does not keep does: it goes to the merge tree, is counted as a tie, or is dropped (R112). -/
def passOn (h : Hit) (q : Query) (out : SelEnt) (s : State) : State :=
  if q.thr < out.sim then addTree 0 h.die h.qid q.q.c [out] s
  else if out.sim = q.thr then
    count (some q.pv) 2 0 1 (modQuery q.id (fun q => { q with tieDrops := q.tieDrops + 1 })
      (modScan (fun x => { x with tieDrops := x.tieDrops + 1 }) s))
  else s

theorem selectHit_of_better {h : Hit} {q : Query} {e m : SelEnt} {s : State} (hfull : min 64 q.q.c ≤ (s.laneOf h).length)
    (hm : worstOf (s.laneOf h) = some m) (hlt : m.sim < e.sim) :
    selectHit h q e s = passOn h q m { s with scan := s.scan.setLane h ((s.laneOf h).erase m ++ [e]) } := by
  unfold selectHit
  extract_lets same held setLane
  have hset : setLane (held.erase m ++ [e]) s = { s with scan := s.scan.setLane h ((s.laneOf h).erase m ++ [e]) } := setLane_ite h _ s
  rw [if_neg (show ¬held.length < _ from Nat.not_lt.2 hfull), show worstOf held = some m from hm]
  simp only [if_pos hlt, hset]
  rfl

theorem selectHit_of_worse {h : Hit} {q : Query} {e m : SelEnt} {s : State} (hfull : min 64 q.q.c ≤ (s.laneOf h).length)
    (hm : worstOf (s.laneOf h) = some m) (hle : e.sim ≤ m.sim) : selectHit h q e s = passOn h q e s := by
  unfold selectHit
  extract_lets same held setLane
  rw [if_neg (show ¬held.length < _ from Nat.not_lt.2 hfull), show worstOf held = some m from hm]
  simp only [if_neg (Nat.not_lt.2 hle)]
  rfl

/-- A lane that holds nothing keeps nothing where the lanes of the query have no room at all. -/
theorem selectHit_of_none {h : Hit} {q : Query} {e : SelEnt} {s : State} (hfull : min 64 q.q.c ≤ (s.laneOf h).length)
    (hm : worstOf (s.laneOf h) = none) : selectHit h q e s = s := by
  unfold selectHit
  extract_lets same held setLane
  rw [if_neg (show ¬held.length < _ from Nat.not_lt.2 hfull), show worstOf held = none from hm]

/-- What compaction and selection leave of the scan state: the hits that wait, and each query but for its ties. -/
structure Selects (qid : Nat) (q : Query) (s t : State) : Prop where
  hits : t.scan.hits = s.scan.hits
  works : t.works = s.works
  corpora : t.corpora = s.corpora
  query : s.query? qid = some q → ∃ n, t.query? qid = some { q with tieDrops := n }

theorem passOn_selects {h : Hit} {q' q : Query} (out : SelEnt) {s : State} (hid : q'.id = h.qid) :
    Selects h.qid q s (passOn h q' out s) ∧ (passOn h q' out s).scan.lanes = s.scan.lanes := by
  unfold passOn
  split
  · rw [addTree_scan]
    exact ⟨⟨rfl, rfl, rfl, fun hq => ⟨q.tieDrops, hq⟩⟩, rfl⟩
  · split
    · rw [count_parts, hid]
      refine ⟨⟨rfl, rfl, rfl, fun hq => ⟨q.tieDrops + 1, ?_⟩⟩, rfl⟩
      exact query?_modQuery (s := modScan (fun x => { x with tieDrops := x.tieDrops + 1 }) s) (fun _ => rfl) hq
    · exact ⟨⟨rfl, rfl, rfl, fun hq => ⟨q.tieDrops, hq⟩⟩, rfl⟩

theorem setLane_selects (h : Hit) (qid : Nat) (q : Query) (es : List SelEnt) (s : State) :
    Selects qid q s { s with scan := s.scan.setLane h es } := by
  rw [Scan.setLane_parts]
  exact ⟨rfl, rfl, rfl, fun hq => ⟨q.tieDrops, hq⟩⟩

theorem Selects.trans {qid : Nat} {q : Query} {s t u : State} (h : Selects qid q s t) (h' : ∀ q, Selects qid q t u) : Selects qid q s u := by
  refine ⟨(h' q).hits.trans h.hits, (h' q).works.trans h.works, (h' q).corpora.trans h.corpora, fun hq => ?_⟩
  obtain ⟨n, hn⟩ := h.query hq
  obtain ⟨m, hm⟩ := (h' _).query hn
  exact ⟨m, hm⟩

theorem selectHit_selects {h : Hit} {q' q : Query} (e : SelEnt) {s : State} (hid : q'.id = h.qid) :
    Selects h.qid q s (selectHit h q' e s) := by
  by_cases hroom : (s.laneOf h).length < min 64 q'.q.c
  · rw [selectHit_of_room hroom]
    exact setLane_selects ..
  · cases hm : worstOf (s.laneOf h) with
    | none =>
      rw [selectHit_of_none (Nat.not_lt.1 hroom) hm]
      exact ⟨rfl, rfl, rfl, fun hq => ⟨q.tieDrops, hq⟩⟩
    | some m =>
      by_cases hlt : m.sim < e.sim
      · rw [selectHit_of_better (Nat.not_lt.1 hroom) hm hlt]
        exact (setLane_selects ..).trans fun q => (passOn_selects m hid).1
      · rw [selectHit_of_worse (Nat.not_lt.1 hroom) hm (Nat.not_lt.1 hlt)]
        exact (passOn_selects e hid).1

/-! ## Compaction -/

/-- The state once a hit is taken from those that wait. -/
def State.tookHit (s : State) (i : Nat) : State := modScan (fun x => { x with hits := x.hits.eraseIdx i }) s

theorem doCompact_of_hit {s : State} {i : Nat} {h : Hit} {q : Query} {t : ScanTile} {x : Slot} {r : Rec} (hlive : s.live = true)
    (hi : s.scan.hits[i]? = some h) (hat : s.hitAt h q t x r) :
    (¬ s.passes h q t x r → doCompact i s = s.tookHit i) ∧
      (s.passes h q t x r → doCompact i s = selectHit h q ⟨h.sim, r, h.lean, h.slot⟩
        (modQuery q.id (fun q => { q with hist := modifyAt q.hist h.sim fun n => satTo 65535 (n + 1) }) (s.tookHit i))) := by
  obtain ⟨hq, ⟨b, hb, ht⟩, hx, hr⟩ := hat
  have htile : ((s.tookHit i).sbatch? h.batch).bind (fun b => b.tiles[h.tile]?) = some t := by
    rw [sbatch?_congr (t := s.tookHit i) (s := s) rfl, hb]
    exact ht
  have hcompact : doCompact i s = if decide (q.thr ≤ h.sim) && !x.deleted && !(t.store == 1 && r.tomb) &&
        visible r.ver ((s.corpus t.pv).delOf r) q.visAt && predHolds q.q.terms q.q.acomb r.attr then
      selectHit h q ⟨h.sim, r, h.lean, h.slot⟩
        (modQuery q.id (fun q => { q with hist := modifyAt q.hist h.sim fun n => satTo 65535 (n + 1) }) (s.tookHit i))
      else s.tookHit i := by
    unfold doCompact
    rw [hi]
    dsimp only
    rw [if_neg (by simp [hlive])]
    rw [show modScan (fun x => { x with hits := x.hits.eraseIdx i }) s = s.tookHit i from rfl, query?_congr (t := s.tookHit i) (s := s) rfl, hq, htile]
    dsimp only
    rw [hx]
    dsimp only
    rw [hr]
    rfl
  have hpass : (decide (q.thr ≤ h.sim) && !x.deleted && !(t.store == 1 && r.tomb) && visible r.ver ((s.corpus t.pv).delOf r) q.visAt &&
      predHolds q.q.terms q.q.acomb r.attr) = true ↔ s.passes h q t x r := by
    simp [State.passes, and_assoc, imp_iff_not_or]
  exact ⟨fun h => hcompact.trans (if_neg (mt hpass.1 h)), fun h => hcompact.trans (if_pos (hpass.2 h))⟩

end Sys2Proof.Machine

/-! ## Lane drains, tile claims and steals (R99, R105, R113) -/

namespace Sys2Proof.Machine
-- The whole text is compiled by one process of limited memory: one proof at a time keeps it small.
set_option Elab.async false

/-! ## Drains -/

/-- Settled batches leave hits, lanes and the merge tree as they are. -/
theorem settleBatches_parts (s : State) :
    (settleBatches s).scan.lanes = s.scan.lanes ∧ (settleBatches s).scan.tree = s.scan.tree ∧ (settleBatches s).scan.hits = s.scan.hits :=
  ⟨rfl, rfl, rfl⟩

/-- A lane of a query on a die, for a batch. -/
def Lane.isOf (batch qid die : Nat) (l : Lane) : Bool := l.batch == batch && l.qid == qid && l.die == die

theorem Lane.isOf_iff {batch qid die : Nat} {l : Lane} : l.isOf batch qid die = true ↔ l.batch = batch ∧ l.qid = qid ∧ l.die = die := by
  simp [Lane.isOf, and_assoc]

/-- What the lanes of a query on a die pass to the merge tree (R103, R113). -/
def State.laneEnts (s : State) (batch qid die thr : Nat) : List SelEnt :=
  (s.scan.lanes.filter (Lane.isOf batch qid die)).flatMap fun l => l.ents.filter fun e => decide (thr ≤ e.sim)

/-- The state once the lanes are empty. -/
def State.emptied (s : State) (batch qid die : Nat) : State :=
  modScan (fun x => { x with lanes := x.lanes.filter fun l => !l.isOf batch qid die }) s

theorem doDrain_of_batch {s : State} {batch qid die : Nat} {b : ScanBatch} {q : Query} (hlive : s.live = true)
    (hb : s.sbatch? batch = some b) (hq : s.query? qid = some q) :
    (b.view ≠ none → ¬ s.lanesLeft b qid die →
      doDrain batch qid die s = settleBatches (addTree 0 die qid q.q.c (s.laneEnts batch qid die q.thr) (s.emptied batch qid die))) ∧
    (b.view = none ∨ s.lanesLeft b qid die → doDrain batch qid die s = s) := by
  have hleft : ((b.jobs.any fun j => j.die == die && j.lanes.contains qid &&
      j.tiles.any fun i => match b.tiles[i]? with | some t => t.qids.contains qid | none => false) ||
      s.scan.hits.any fun h => h.batch == batch && h.qid == qid && h.die == die) = true ↔ s.lanesLeft b qid die := by
    have htile (i : Nat) : (match b.tiles[i]? with | some t => t.qids.contains qid | none => false) = true ↔
        ∃ t, b.tiles[i]? = some t ∧ qid ∈ t.qids := by
      cases b.tiles[i]? <;> simp
    simp only [State.lanesLeft, Bool.or_eq_true, List.any_eq_true, Bool.and_eq_true, htile, beq_iff_eq, List.contains_iff_mem,
      id_of_sbatch? hb, and_assoc]
  have hdrain : doDrain batch qid die s = if s.live && b.view.isSome && !((b.jobs.any fun j => j.die == die && j.lanes.contains qid &&
      j.tiles.any fun i => match b.tiles[i]? with | some t => t.qids.contains qid | none => false) ||
      s.scan.hits.any fun h => h.batch == batch && h.qid == qid && h.die == die) then
        settleBatches (addTree 0 die qid q.q.c (s.laneEnts batch qid die q.thr) (s.emptied batch qid die)) else s := by
    unfold doDrain
    rw [hb, hq]
    rfl
  refine ⟨fun hview hnot => hdrain.trans (if_pos ?_), fun h => hdrain.trans (if_neg ?_)⟩
  · rw [hlive, Option.isSome_iff_ne_none.2 hview, Bool.eq_false_iff.2 (mt hleft.1 hnot)]
    rfl
  · rcases h with h | h
    · simp [h]
    · rw [hleft.2 h]
      simp

/-- A query that has no list at a leaf gets one (R114). -/
theorem addTree_of_new {die qid c : Nat} {es : List SelEnt} {s : State} (hes : es ≠ [])
    (h : ∀ x ∈ s.scan.tree, ¬ (x.level = 0 ∧ x.place = die ∧ x.qid = qid)) :
    (addTree 0 die qid c es s).scan.tree = s.scan.tree ++ [⟨0, die, qid, es⟩] := by
  have hany : (s.scan.tree.any fun t => t.level == 0 && t.place == die && t.qid == qid) = false := by
    simpa [and_assoc] using h
  unfold addTree
  rw [if_neg (by simpa using hes), hany]
  simp

/-! ## Claims -/

/-- Marks that are drawn change no job but its mark, and of the state only the draws. -/
theorem markJobs_parts (js : List Job) (s : State) :
    (∀ j ∈ (markJobs js s).1, ∃ k ∈ js, ∃ m, j = { k with mark := m }) ∧ Keeps [.free] s (markJobs js s).2 := by
  refine ⟨?_, markJobs_keeps js s⟩
  have hgen (done : List Job × State) : ∀ j ∈ (js.foldl (fun x j => let (m, s) := drawMark x.2; (x.1 ++ [{ j with mark := m }], s)) done).1,
      j ∈ done.1 ∨ ∃ k ∈ js, ∃ m, j = { k with mark := m } := by
    induction js generalizing done with
    | nil => exact fun j hj => .inl hj
    | cons k js ih =>
      intro j hj
      rcases ih _ j hj with hj | ⟨k', hk', hm⟩
      · rcases List.mem_append.1 hj with hj | hj
        · exact .inl hj
        · exact .inr ⟨k, List.mem_cons_self, _, List.mem_singleton.1 hj⟩
      · exact .inr ⟨k', List.mem_cons_of_mem _ hk', hm⟩
  intro j hj
  exact (hgen ([], s) j hj).resolve_left List.not_mem_nil

/-- Jobs that a die gets for a tile that it claims (R83, R99). -/
def State.claimJobs (s : State) (b : ScanBatch) (batch i die : Nat) (t : ScanTile) : List Job :=
  b.groups.zipIdx.filterMap fun (g, gi) =>
    let lanes := g.2.filter fun q => match s.query? q with | some y => y.pv == t.pv | none => false
    match groupEngs (s.dies.getD die Die.reset) b.groups.length gi with
    | e :: _ => if g.1 = t.width ∧ !lanes.isEmpty then some (⟨batch, die, e, t.pv, g.1, lanes, [i], [], false, none⟩ : Job) else none
    | [] => none

theorem mem_claimJobs {s : State} {b : ScanBatch} {batch i die : Nat} {t : ScanTile} {j : Job} (h : j ∈ s.claimJobs b batch i die t) :
    j.die = die ∧ j.tiles = [i] ∧ j.pv = t.pv := by
  obtain ⟨x, -, hx⟩ := List.mem_filterMap.1 h
  dsimp only at hx
  split at hx
  · split at hx
    · rw [← Option.some.inj hx]
      exact ⟨rfl, rfl, rfl⟩
    · cases hx
  · cases hx

/-- The tile of a batch is taken by the die path, with these jobs. -/
def ScanBatch.claimed (b : ScanBatch) (i : Nat) (js : List Job) : ScanBatch :=
  { b.modTile i (fun t => { t with inBank := false }) with jobs := b.jobs ++ js }

theorem doClaim_of_batch {s : State} {batch i die : Nat} {b : ScanBatch} {t : ScanTile} (hb : s.sbatch? batch = some b)
    (ht : b.tiles[i]? = some t) :
    doClaim batch i die s =
      if s.live && b.view.isSome && bit b.cfg 2 && (s.quadDies b.quad).contains die && t.inBank && t.passes == 0 && !t.done &&
          b.bankTail t == some i && !(s.scan.batches.any fun c => c.jobs.any fun j => j.tiles.any fun k => match c.tiles[k]? with
            | some y => y.stk == t.stk | none => false) then
        count (some t.pv) 1 2 1 (modSBatch batch (·.claimed i (markJobs (s.claimJobs b batch i die t) s).1)
          (markJobs (s.claimJobs b batch i die t) s).2)
      else s := by
  unfold doClaim
  rw [hb]
  dsimp only
  rw [ht]
  rfl

/-! ## Steals -/

theorem maxNat_le_iff {xs : List Nat} {n : Nat} : maxNat xs ≤ n ↔ ∀ x ∈ xs, x ≤ n := by
  unfold maxNat
  have hgen (m : Nat) : xs.foldl max m ≤ n ↔ m ≤ n ∧ ∀ x ∈ xs, x ≤ n := by
    induction xs generalizing m with
    | nil => simp
    | cons x xs ih => simp [ih, and_assoc]
  simp [hgen]

theorem maxNat_lt_iff {xs : List Nat} {n : Nat} (hn : 0 < n) : maxNat xs < n ↔ ∀ x ∈ xs, x < n := by
  have h : maxNat xs ≤ n - 1 ↔ ∀ x ∈ xs, x ≤ n - 1 := maxNat_le_iff
  rw [show maxNat xs < n ↔ maxNat xs ≤ n - 1 by omega, h]
  exact forall₂_congr fun x _ => by omega

/-- The most tiles that a job of an engine has left (R105). -/
def State.tilesLeft (s : State) (x : Nat × Nat) : Nat := maxNat ((s.jobsOf x.1 x.2).map fun j => j.tiles.length)

theorem tilesLeft_of_one {s : State} {x : Nat × Nat} {j : Job} (h : s.jobsOf x.1 x.2 = [j]) : s.tilesLeft x = j.tiles.length := by
  simp [State.tilesLeft, h, maxNat]

theorem tilesLeft_le_iff {s : State} {x : Nat × Nat} {n : Nat} : s.tilesLeft x ≤ n ↔ ∀ k ∈ s.jobsOf x.1 x.2, k.tiles.length ≤ n := by
  simp [State.tilesLeft, maxNat_le_iff]

theorem tilesLeft_lt_iff {s : State} {x : Nat × Nat} {n : Nat} (hn : 0 < n) :
    s.tilesLeft x < n ↔ ∀ k ∈ s.jobsOf x.1 x.2, k.tiles.length < n := by
  simp [State.tilesLeft, maxNat_lt_iff hn]

/-- The engines of the thief's own die, and those of the other dies of its quadrant. -/
def State.engsOn (s : State) (die : Nat) : List (Nat × Nat) := s.engines.filter fun x => x.1 == die
def State.engsNear (s : State) (die : Nat) : List (Nat × Nat) := s.engines.filter fun x => x.1 != die && x.1 / 6 == die / 6

/-- The thief may take from the victim (R105). -/
def State.stealable (s : State) (die vdie ve : Nat) (cfg : W32) : Bool :=
  if vdie = die then bit cfg 0 && stealOk s.tilesLeft (s.engsOn die) (fld cfg 15 8) (vdie, ve)
  else bit cfg 0 && bit cfg 1 && !((s.engsOn die).any fun x => decide (fld cfg 15 8 ≤ s.tilesLeft x)) && vdie / 6 == die / 6 &&
    stealOk s.tilesLeft (s.engsNear die) (fld cfg 15 8) (vdie, ve)

/-- A job's engine keeps the first half of its tiles, and the thief gets the rest (R105). -/
def Job.kept (j : Job) : List Nat := j.tiles.take (j.tiles.length - j.tiles.length / 2)
def Job.stolen (j : Job) (die e : Nat) (m : Bool) : Job :=
  { j with die := die, eng := e, tiles := j.tiles.drop (j.tiles.length - j.tiles.length / 2), ran := [], mark := m, saved := none }

/-- The batch with one of its jobs divided. -/
def ScanBatch.robbed (b : ScanBatch) (j : Job) (die e : Nat) (m : Bool) : ScanBatch :=
  { b with jobs := mapIf (· == j) (fun k => { k with tiles := j.kept }) b.jobs ++ [j.stolen die e m] }

theorem doSteal_of_one {s : State} {die e vdie ve : Nat} {j : Job} {b : ScanBatch} (hj : s.jobsOf vdie ve = [j])
    (hb : s.sbatch? j.batch = some b) :
    doSteal die e vdie ve s =
      if s.live && s.engines.contains (die, e) && (s.jobsOf die e).isEmpty && s.stealable die vdie ve b.cfg && s.slotOpen die false e then
        count (some j.pv) 1 3 1 (modScan (fun x => { x with steals := x.steals + 1 })
          (modSBatch j.batch (·.robbed j die e (drawMark s).1) (drawMark s).2))
      else s := by
  unfold doSteal
  rw [hj]
  dsimp only [leastBy]
  rw [hb]
  rfl

theorem doSteal_of_idle {s : State} {die e vdie ve : Nat} (h : s.jobsOf vdie ve = []) : doSteal die e vdie ve s = s := by
  unfold doSteal
  rw [h]
  rfl

/-- What a steal leaves: the thief's and the victim's jobs of the batch, and one steal more. -/
theorem steal_parts {s : State} {j : Job} {b : ScanBatch} (die e : Nat) (hb : s.sbatch? j.batch = some b) :
    let u := count (some j.pv) 1 3 1 (modScan (fun x => { x with steals := x.steals + 1 })
      (modSBatch j.batch (·.robbed j die e (drawMark s).1) (drawMark s).2))
    u.scan.steals = s.scan.steals + 1 ∧ u.sbatch? j.batch = some (b.robbed j die e (drawMark s).1) := by
  intro u
  have hscan : (drawMark s).2.scan = s.scan := (drawMark_keeps s).scan
  refine ⟨?_, ?_⟩
  · exact congrArg (fun x => x.steals + 1) hscan
  · have hd : (drawMark s).2.sbatch? j.batch = some b := (sbatch?_congr (congrArg Scan.batches hscan) _).trans hb
    exact sbatch?_modSBatch (fun _ => rfl) hd

/-- No tile of a stack is left to a job of the die path. -/
theorem stackFree {s : State} {stk : Nat}
    (h : ∀ c ∈ s.scan.batches, ∀ j ∈ c.jobs, ∀ k ∈ j.tiles, ∀ y, c.tiles[k]? = some y → y.stk ≠ stk) :
    (s.scan.batches.any fun c => c.jobs.any fun j => j.tiles.any fun k => match c.tiles[k]? with
      | some y => y.stk == stk | none => false) = false := by
  refine List.any_eq_false.2 fun c hc => Bool.not_eq_true _ ▸ List.any_eq_false.2 fun j hj =>
    Bool.not_eq_true _ ▸ List.any_eq_false.2 fun k hk => ?_
  split
  · next y hy => simpa using h c hc j hj k hk y hy
  · simp

/-- On its own die a thief takes from an engine with STEAL_MIN tiles that has the most there. -/
theorem stealable_own {s : State} {die ve : Nat} {j : Job} {cfg : W32} (hj : s.jobsOf die ve = [j]) (hen : bit cfg 0 = true)
    (hleast : fld cfg 15 8 ≤ j.tiles.length)
    (hmost : ∀ x ∈ s.engines, x.1 = die → ∀ k ∈ s.jobsOf x.1 x.2, k.tiles.length ≤ j.tiles.length) :
    s.stealable die die ve cfg = true := by
  have hrem : s.tilesLeft (die, ve) = j.tiles.length := tilesLeft_of_one hj
  have hok : stealOk s.tilesLeft (s.engsOn die) (fld cfg 15 8) (die, ve) = true := by
    simp only [stealOk, State.engsOn, hrem, Bool.and_eq_true, decide_eq_true_eq, List.all_eq_true, List.mem_filter, beq_iff_eq]
    exact ⟨hleast, fun x ⟨hx, hd⟩ => tilesLeft_le_iff.2 (hmost x hx hd)⟩
  simp [State.stealable, hen, hok]

/-- From another die of the quadrant it takes only where its own has no engine with STEAL_MIN tiles. -/
theorem stealable_near {s : State} {die vdie ve : Nat} {j : Job} {cfg : W32} (hj : s.jobsOf vdie ve = [j]) (hdie : vdie ≠ die)
    (hquad : vdie / 6 = die / 6) (hen : bit cfg 0 = true) (hcross : bit cfg 1 = true) (hpos : 0 < fld cfg 15 8)
    (hleast : fld cfg 15 8 ≤ j.tiles.length)
    (hown : ∀ x ∈ s.engines, x.1 = die → ∀ k ∈ s.jobsOf x.1 x.2, k.tiles.length < fld cfg 15 8)
    (hnear : ∀ x ∈ s.engines, x.1 ≠ die → x.1 / 6 = die / 6 → ∀ k ∈ s.jobsOf x.1 x.2, k.tiles.length ≤ j.tiles.length) :
    s.stealable die vdie ve cfg = true := by
  have hrem : s.tilesLeft (vdie, ve) = j.tiles.length := tilesLeft_of_one hj
  have hok : stealOk s.tilesLeft (s.engsNear die) (fld cfg 15 8) (vdie, ve) = true := by
    simp only [stealOk, State.engsNear, hrem, Bool.and_eq_true, decide_eq_true_eq, List.all_eq_true, List.mem_filter, beq_iff_eq, bne_iff_ne]
    exact ⟨hleast, fun x ⟨hx, hd, hq⟩ => tilesLeft_le_iff.2 (hnear x hx hd hq)⟩
  have hfound : ((s.engsOn die).any fun x => decide (fld cfg 15 8 ≤ s.tilesLeft x)) = false := by
    simp only [State.engsOn, List.any_eq_false, List.mem_filter, beq_iff_eq, decide_eq_true_eq, Nat.not_le]
    exact fun x ⟨hx, hd⟩ => (tilesLeft_lt_iff hpos).2 (hown x hx hd)
  simp [State.stealable, hdie, hquad, hen, hcross, hok, hfound]

/-- A hit that passes is counted in the histogram of its query, and meets the selection unit of its lane (R101, R103, R112). -/
theorem hitCompaction_of_pass {s : State} {i : Nat} {h : Hit} {q : Query} {t : ScanTile} {x : Slot} {r : Rec} (hlive : s.live = true)
    (hi : s.scan.hits[i]? = some h) (hat : s.hitAt h q t x r) (hpass : s.passes h q t x r) :
    ∃ v n, exec (.hitCompaction i) s = .next (selectHit h q ⟨h.sim, r, h.lean, h.slot⟩ v) ∧
      v.scan.lanes = s.scan.lanes ∧ v.scan.tree = s.scan.tree ∧
      Selects h.qid { q with hist := modifyAt q.hist h.sim fun n => satTo 65535 (n + 1) } (s.tookHit i)
        (selectHit h q ⟨h.sim, r, h.lean, h.slot⟩ v) ∧
      (selectHit h q ⟨h.sim, r, h.lean, h.slot⟩ v).query? h.qid =
        some { q with hist := modifyAt q.hist h.sim fun n => satTo 65535 (n + 1), tieDrops := n } := by
  have hq : s.query? h.qid = some q := hat.1
  have hid : q.id = h.qid := id_of_query? hq
  have hv : (modQuery q.id (fun q => { q with hist := modifyAt q.hist h.sim fun n => satTo 65535 (n + 1) }) (s.tookHit i)).query? h.qid =
      some { q with hist := modifyAt q.hist h.sim fun n => satTo 65535 (n + 1) } := by
    have := query?_modQuery (s := s.tookHit i) (g := fun q => { q with hist := modifyAt q.hist h.sim fun n => satTo 65535 (n + 1) })
      (fun _ => rfl) hq
    rw [← hid] at this ⊢
    exact this
  have hsel := selectHit_selects (q := { q with hist := modifyAt q.hist h.sim fun n => satTo 65535 (n + 1) }) ⟨h.sim, r, h.lean, h.slot⟩
    (s := modQuery q.id (fun q => { q with hist := modifyAt q.hist h.sim fun n => satTo 65535 (n + 1) }) (s.tookHit i)) hid
  obtain ⟨n, hn⟩ := hsel.query hv
  exact ⟨_, n, congrArg Host.Outcome.next ((doCompact_of_hit hlive hi hat).2 hpass), rfl, rfl,
    ⟨hsel.hits, hsel.works, hsel.corpora, fun _ => ⟨n, hn⟩⟩, hn⟩

/-- Settles O19: a hit by the tests and by the room of its lane; drains, claims and steals by their conditions. -/
theorem compactionAndDrains : Obligations.CompactionAndDrains := by
  unfold Obligations.CompactionAndDrains
  refine ⟨fun s i h hlive hi q t x r hat => ⟨fun hfail => congrArg Host.Outcome.next ((doCompact_of_hit hlive hi hat).1 hfail), fun hpass => ?_⟩,
    fun s hlive => ⟨fun batch qid die b q hb hq => ?_, fun batch i die b t hb ht => ?_, fun die e ve j rest b hj hrest hb => ?_,
      fun die e vdie ve j b hj hb hdie hquad heng hidle hopen hen hcross hpos hleast hown hnear => ?_,
      fun die e vdie ve hj => congrArg Host.Outcome.next (doSteal_of_idle hj)⟩⟩
  · obtain ⟨v, n, hexec, hlanes, htree, hsel, hn⟩ := hitCompaction_of_pass hlive hi hat hpass
    have hid : q.id = h.qid := id_of_query? hat.1
    have hlane : v.laneOf h = s.laneOf h := laneOf_congr h hlanes
    refine ⟨_, _, hexec, hsel.hits, hn, rfl, rfl, hsel.works, hsel.corpora, fun hroom => ?_, fun m hfull hm => ⟨fun hlt => ?_, fun hle => ?_⟩⟩
    · rw [selectHit_of_room (by rw [hlane]; exact hroom), hlane]
      refine ⟨laneOf_setLane v h _, ?_⟩
      rw [Scan.setLane_parts]
      exact htree
    · rw [← hlane] at hfull hm ⊢
      rw [selectHit_of_better hfull hm hlt]
      exact (laneOf_congr h (passOn_selects (q := q) m hid).2).trans (laneOf_setLane v h _)
    · rw [← hlane] at hfull hm
      rw [selectHit_of_worse hfull hm hle]
      exact (passOn_selects (q := q) _ hid).2.trans hlanes
  · obtain ⟨hdrain, hstay⟩ := doDrain_of_batch (die := die) hlive hb hq
    refine ⟨fun hview hnot => ⟨_, congrArg Host.Outcome.next (hdrain hview hnot), ?_, fun hnone => ?_, fun l hl hthr hnew => ?_⟩,
      fun h => congrArg Host.Outcome.next (hstay h)⟩
    · rw [(settleBatches_parts _).1, addTree_scan]
      rfl
    · have hents : s.laneEnts batch qid die q.thr = [] := by
        rw [State.laneEnts, List.filter_eq_nil_iff.2 fun l hl => mt Lane.isOf_iff.1 (hnone l hl)]
        rfl
      rw [(settleBatches_parts _).2.1, hents]
      rfl
    · have hents : s.laneEnts batch qid die q.thr = l.ents.filter fun e => decide (q.thr ≤ e.sim) := by
        rw [State.laneEnts, show s.scan.lanes.filter (Lane.isOf batch qid die) = [l] from hl]
        simp
      rw [(settleBatches_parts _).2.1, hents]
      refine addTree_of_new (s := s.emptied batch qid die) (fun hnil => ?_) hnew
      obtain ⟨e, he, hthr⟩ := hthr
      exact List.filter_eq_nil_iff.1 hnil e he (decide_eq_true hthr)
  · have hclaim := doClaim_of_batch (die := die) hb ht
    refine ⟨fun hview hcfg hdie hbank hpasses hdone htail hfree => ?_, fun h => congrArg Host.Outcome.next (hclaim.trans (if_neg ?_))⟩
    · obtain ⟨hmarks, hkeeps⟩ := markJobs_parts (s.claimJobs b batch i die t) s
      have hgo := hclaim.trans (if_pos (by
        rw [hlive, Option.isSome_iff_ne_none.2 hview, hcfg, hbank, hpasses, hdone, htail, stackFree hfree]
        simpa using hdie))
      have hbatch : (markJobs (s.claimJobs b batch i die t) s).2.sbatch? batch = some b :=
        (sbatch?_congr (congrArg Scan.batches hkeeps.scan) _).trans hb
      have hhits : (markJobs (s.claimJobs b batch i die t) s).2.scan.hits = s.scan.hits := congrArg Scan.hits hkeeps.scan
      refine ⟨_, b.claimed i (markJobs (s.claimJobs b batch i die t) s).1, congrArg Host.Outcome.next hgo,
        sbatch?_modSBatch (fun _ => rfl) hbatch, ?_, ⟨_, rfl, fun j hj => ?_⟩, hhits⟩
      · simp [ScanBatch.claimed, ScanBatch.modTile, modifyAt_eq_modify, ht]
      · obtain ⟨k, hk, m, rfl⟩ := hmarks j hj
        have hjob := mem_claimJobs hk
        exact hjob
    · rcases h with h | h | h | h | h | h <;> simp [h]
      omega
  · subst hrest
    have hsteal := doSteal_of_one (die := die) (e := e) hj hb
    obtain ⟨hcount, hbatch⟩ := steal_parts die e hb
    refine ⟨fun heng hidle hopen hen hleast hmost => ⟨_, _, congrArg Host.Outcome.next (hsteal.trans (if_pos ?_)), hcount, hbatch⟩,
      fun h => congrArg Host.Outcome.next (hsteal.trans (if_neg ?_))⟩
    · simp [hlive, heng, hidle, hopen, stealable_own hj hen hleast hmost]
    · have hrem : s.tilesLeft (die, ve) = j.tiles.length := tilesLeft_of_one hj
      rcases h with h | h | h
      · simp [State.stealable, h]
      · simp [h]
      · simp [State.stealable, stealOk, hrem, Nat.not_le.2 h]
  · obtain ⟨hcount, hbatch⟩ := steal_parts die e hb
    refine ⟨_, _, congrArg Host.Outcome.next ((doSteal_of_one (die := die) (e := e) hj hb).trans (if_pos ?_)), hcount, hbatch⟩
    simp [hlive, heng, hidle, hopen, stealable_near hj hdie hquad hen hcross hpos hleast hown hnear]

end Sys2Proof.Machine

/-! ## Candidate records and re-rank blocks (R119 to R122, R142, R383) -/

namespace Sys2Proof.Machine
-- The whole text is compiled by one process of limited memory: one proof at a time keeps it small.
set_option Elab.async false

/-! ## What a read leaves of the scan state -/

/-- Of the scan state only the stacks' counters have changed. -/
def SameScan (s t : State) : Prop := t.scan = { s.scan with st := t.scan.st }

theorem SameScan.refl (s : State) : SameScan s s := rfl

theorem SameScan.trans {s t u : State} (h : SameScan s t) (h' : SameScan t u) : SameScan s u := by
  unfold SameScan at h h' ⊢
  rw [h', h]

theorem SameScan.of_eq {s t : State} (h : t.scan = s.scan) : SameScan s t := by
  unfold SameScan
  rw [h]

theorem SameScan.queries {s t : State} (h : SameScan s t) : t.scan.queries = s.scan.queries := by rw [h]

theorem SameScan.query? {s t : State} (h : SameScan s t) (i : Nat) : t.query? i = s.query? i := query?_congr h.queries i

theorem SameScan.foldl2 {α β : Type} {f : β × State → α → β × State} (k : ∀ x a, SameScan x.2 (f x a).2) (xs : List α) (x : β × State) :
    SameScan x.2 (xs.foldl f x).2 := by
  induction xs generalizing x with
  | nil => exact .refl _
  | cons a xs ih => exact (k x a).trans (ih (f x a))

theorem countCe_sameScan (st : Nat) (s : State) : SameScan s (countCe st s) := by
  rw [countCe, count_parts]
  rfl

theorem countUe_sameScan (st : Nat) (s : State) : SameScan s (countUe st s) := by
  rw [countUe, count_parts]
  rfl

theorem readWord_sameScan (p no access : Nat) (x : Option Status × State) (e : WordErr) : SameScan x.2 (readWord p no access x e).2 := by
  unfold readWord
  split
  next st s =>
  extract_lets a drop g s'
  have hs' : s'.scan = s.scan := by
    unfold s'
    split
    · exact (t2Read_keeps ..).scan
    · rfl
  split
  · exact SameScan.trans (.of_eq rfl) (countCe_sameScan ..)
  · split
    · exact SameScan.trans (.of_eq hs') (SameScan.trans (.of_eq rfl) (countCe_sameScan e.stack (drop [] s')))
    · exact SameScan.trans (.of_eq (memError_keeps ..).scan) (countUe_sameScan ..)

theorem readWords_sameScan (p a n access : Nat) (sel : Nat → Bool) (s : State) : SameScan s (readWords p a n access sel s).2 := by
  refine SameScan.foldl2 (fun x no => ?_) _ (none, s)
  dsimp only
  split
  · exact SameScan.foldl2 (readWord_sameScan p no access) _ x
  · exact .refl _

theorem readFor_sameScan (p a n access : Nat) (s : State) : SameScan s (readFor p a n access s).2 := by
  unfold readFor
  extract_lets r low s1
  have h1 : SameScan s s1 := by
    unfold s1
    split
    · exact .of_eq (t2Read_keeps ..).scan
    · exact .refl _
  have h2 := readWords_sameScan p a n access (fun _ => true) s1
  split
  · next heq =>
    rw [heq] at h2
    exact h1.trans h2
  · next heq =>
    rw [heq] at h2
    refine h1.trans (h2.trans ?_)
    split
    · exact .of_eq (memError_keeps ..).scan
    · split
      · exact .refl _
      · exact .of_eq (touch_keeps ..).scan

/-- Where every word of the range reads as written, a read that does not fail gives the current copies. -/
theorem readFor_of_clean {p a n access : Nat} {s : State} (herrs : ∀ g ∈ (s.range p).pages, g.errs = [])
    (h : (readFor p a n access s).1.1 = none) : (readFor p a n access s).1.2 = (s.range p).read a n := by
  unfold readFor at h ⊢
  extract_lets at h ⊢
  rename_i s1
  have h1 : s1.range p = s.range p := by
    have hr : s1.ranges = s.ranges := by
      unfold s1
      split
      · exact (t2Read_keeps ..).ranges
      · rfl
    rw [State.range, hr, State.range]
  have hclean : readWords p a n access (fun _ => true) s1 = (none, s1) := by
    refine readWords_of_clean _ _ fun no _ => ?_
    rw [h1, Range.page]
    cases hf : (s.range p).pages.find? (·.no == no) with
    | none => rfl
    | some g => exact herrs g (List.mem_of_find?_eq_some hf)
  rw [hclean] at h ⊢
  dsimp only at h ⊢
  split at h
  · cases h
  · split at h
    · cases h
    · next h2 h3 => rw [if_neg h2, if_neg h3, h1]

/-! ## Arrivals -/

/-- A candidate without a record to come. -/
def Cand.lose (c : Cand) : Cand := { c with st := .lost }

theorem query?_modCand {s : State} {qid i : Nat} {q : Query} (g : Cand → Cand) (h : s.query? qid = some q) :
    (modCand qid i g s).query? qid = some { q with cands := modifyAt q.cands i g } :=
  query?_modQuery (g := fun q => { q with cands := modifyAt q.cands i g }) (fun _ => rfl) h

theorem query?_loseCand {s : State} {qid i : Nat} {st : Status} {q : Query} (h : s.query? qid = some q) :
    (loseCand qid i st s).query? qid =
      some { q with cands := modifyAt q.cands i Cand.lose, nLost := q.nLost + 1, bad := q.bad ++ [st] } :=
  query?_modQuery (g := fun q => { q with nLost := q.nLost + 1, bad := q.bad ++ [st] }) (fun _ => rfl) (query?_modCand Cand.lose h)

/-- A candidate of a query waits for its record, which lies at an offset (R70, R119). -/
def State.awaits (s : State) (qid i : Nat) (q : Query) (c : Cand) (a n : Nat) : Prop :=
  s.query? qid = some q ∧ s.live = true ∧ q.stage = .fetching ∧ q.cands[i]? = some c ∧ c.st = .waiting ∧ s.recordOf q c = some (a, n)

/-- The arrival of a record that is awaited, by its tier and by what a read of it gives (R119, R217). -/
theorem doArrival_of_awaited {s : State} {qid i : Nat} {q : Query} {c : Cand} {a n : Nat} (ok : Bool) (h : s.awaits qid i q c a n) :
    doArrival qid i ok s =
      if s.tierOf q.pv a = 3 && !c.asked then fetchCand qid s i
      else if s.tierOf q.pv a = 3 && s.flash.asked q.pv (.cand qid i) then s
      else if s.tierOf q.pv a = 2 && !ok then loseCand qid i .memUncorrectable (memError q.pv 2 0 (a / 64 * 64) s)
      else match readFor q.pv a n 0 s with
        | ((some st, _), s) => loseCand qid i st s
        | ((none, bs), s') => modCand qid i (fun c => { c with st := .got (s.tierOf q.pv a) bs, record := bs })
            (noteMiss q.pv a n (count (some q.pv) 2 (if s.tierOf q.pv a = 2 then 3 else if s.tierOf q.pv a = 3 then 4 else 2) 1 s')) := by
  obtain ⟨hq, hlive, hstage, hc, hst, hrec⟩ := h
  unfold doArrival
  rw [hq]
  dsimp only
  rw [hc]
  dsimp only
  rw [if_pos (by simp [hlive, hstage, hst]), hrec] <;> rfl

theorem doArrival_of_none {s : State} {qid i : Nat} {q : Query} (ok : Bool) (hq : s.query? qid = some q)
    (h : q.stage ≠ .fetching ∨ q.cands[i]? = none ∨ ∃ c, q.cands[i]? = some c ∧ c.st ≠ .waiting) : doArrival qid i ok s = s := by
  unfold doArrival
  rw [hq]
  dsimp only
  split
  · rfl
  · next c hc =>
    refine if_neg ?_
    rcases h with h | h | ⟨c', hc', h⟩
    · simp [h]
    · rw [hc] at h
      cases h
    · rw [hc] at hc'
      cases hc'
      simp [h]

/-- A record that has gone to T3 is asked for by partial-page reads (R119). -/
theorem fetchCand_of_awaited {s : State} {qid i : Nat} {q : Query} {c : Cand} {a n : Nat} (h : s.awaits qid i q c a n)
    (htier : s.tierOf q.pv a = 3) :
    fetchCand qid s i = modCand qid i (fun c => { c with asked := true }) (askKib 2 q.pv a n (.cand qid i) s) := by
  obtain ⟨hq, -, -, hc, hst, hrec⟩ := h
  unfold fetchCand
  rw [hq]
  dsimp only
  rw [hc]
  dsimp only
  rw [hst, hrec]
  exact if_pos htier

/-- A record that can be read now: it lies above T3, or its partial-page reads have ended, and the host has delivered what lies in T2. -/
def State.comes (s : State) (qid i : Nat) (q : Query) (c : Cand) (a : Nat) (ok : Bool) : Prop :=
  (s.tierOf q.pv a ≠ 3 ∨ (c.asked = true ∧ s.flash.asked q.pv (.cand qid i) = false)) ∧ (ok = true ∨ s.tierOf q.pv a ≠ 2)

theorem doArrival_of_comes {s : State} {qid i : Nat} {q : Query} {c : Cand} {a n : Nat} {ok : Bool} (h : s.awaits qid i q c a n)
    (hcomes : s.comes qid i q c a ok) :
    (accessErr s q.pv a n = none → doArrival qid i ok s =
      modCand qid i (fun c => { c with st := .got (s.tierOf q.pv a) (readFor q.pv a n 0 s).1.2, record := (readFor q.pv a n 0 s).1.2 })
        (noteMiss q.pv a n (count (some q.pv) 2 (if s.tierOf q.pv a = 2 then 3 else if s.tierOf q.pv a = 3 then 4 else 2) 1
          (readFor q.pv a n 0 s).2))) ∧
    (∀ st, accessErr s q.pv a n = some st → doArrival qid i ok s = loseCand qid i st (readFor q.pv a n 0 s).2) := by
  obtain ⟨hread, hhost⟩ := hcomes
  have hgo := doArrival_of_awaited ok h
  rw [if_neg (by rcases hread with h | ⟨h, -⟩ <;> simp [h]), if_neg (by rcases hread with h | ⟨-, h⟩ <;> simp [h]),
    if_neg (by rcases hhost with h | h <;> simp [h])] at hgo
  refine ⟨fun herr => ?_, fun st herr => ?_⟩ <;> unfold accessErr at herr <;> rw [hgo]
  · generalize readFor q.pv a n 0 s = r at herr
    obtain ⟨⟨e, bs⟩, u⟩ := r
    cases herr
    rfl
  · generalize readFor q.pv a n 0 s = r at herr
    obtain ⟨⟨e, bs⟩, u⟩ := r
    cases herr
    rfl

/-! ## The end of a fetch wait -/

/-- Changing entries of a list at several places by one change that a second time changes nothing. -/
theorem getElem?_foldl_modifyAt {α : Type} {g : α → α} (hg : ∀ x, g (g x) = g x) (is : List Nat) (xs : List α) (k : Nat) :
    (is.foldl (fun xs i => modifyAt xs i g) xs)[k]? = xs[k]?.map fun x => if k ∈ is then g x else x := by
  induction is generalizing xs with
  | nil => simp
  | cons i is ih =>
    rw [List.foldl_cons, ih, modifyAt_eq_modify, List.getElem?_modify]
    by_cases hik : i = k
    · subst hik
      cases xs[i]? <;> simp [hg]
    · cases xs[k]? <;> simp [hik, Ne.symm hik]

theorem query?_foldl_loseCand {qid : Nat} {st : Status} (is : List Nat) {s : State} {q : Query} (h : s.query? qid = some q) :
    (is.foldl (fun s i => loseCand qid i st s) s).query? qid =
      some { q with cands := is.foldl (fun cs i => modifyAt cs i Cand.lose) q.cands, nLost := q.nLost + is.length
                    bad := q.bad ++ List.replicate is.length st } := by
  induction is generalizing s q with
  | nil => simpa using h
  | cons i is ih =>
    rw [List.foldl_cons, ih (query?_loseCand h)]
    simp [Nat.add_assoc, Nat.add_comm 1, List.replicate_succ]

theorem mem_candsWhere {f : CandSt → Bool} {q : Query} {i : Nat} : i ∈ candsWhere f q ↔ ∃ c, q.cands[i]? = some c ∧ f c.st = true := by
  simp [candsWhere, List.mem_zipIdx_iff_getElem?]

theorem length_candsWhere (f : CandSt → Bool) (q : Query) : (candsWhere f q).length = (q.cands.filter fun c => f c.st).length := by
  have h := congrArg List.length (List.filter_map (f := Prod.fst) (p := fun c : Cand => f c.st) (l := q.cands.zipIdx))
  rw [List.zipIdx_map_fst] at h
  simpa [candsWhere, Function.comp_def] using h.symm

theorem isWaiting_iff {c : CandSt} : c.isWaiting = true ↔ c = .waiting := by cases c <;> simp [CandSt.isWaiting]

/-- Every candidate that waits is lost. -/
theorem lose_waiting (q : Query) :
    (candsWhere CandSt.isWaiting q).foldl (fun cs i => modifyAt cs i Cand.lose) q.cands =
      q.cands.map fun c => if c.st.isWaiting then c.lose else c := by
  refine List.ext_getElem? fun k => ?_
  rw [getElem?_foldl_modifyAt (g := Cand.lose) fun _ => rfl, List.getElem?_map]
  cases hc : q.cands[k]? with
  | none => rfl
  | some c => simp [mem_candsWhere, hc]

theorem doFetchExpiry_of_query {s : State} {qid : Nat} {q : Query} (hq : s.query? qid = some q) (hlive : s.live = true) :
    doFetchExpiry qid s = if q.stage == .fetching && decide (q.formedAt + q.fetchWait < s.hfn) && !(candsWhere CandSt.isWaiting q).isEmpty then
      modScan (fun x => { x with fetchLate := true }) ((candsWhere CandSt.isWaiting q).foldl (fun s i => loseCand qid i .timeout s) s)
    else s := by
  unfold doFetchExpiry
  rw [hq]
  dsimp only
  rw [hlive, Bool.true_and]

theorem foldl_loseCand_works (qid : Nat) (st : Status) (is : List Nat) (s : State) :
    (is.foldl (fun s i => loseCand qid i st s) s).works = s.works := foldl_same State.works (fun s i => (loseCand_keeps qid i st s).works) is s

/-! ## Exact scores -/

/-- What a change of an entry that leaves a part of it does to that part of any entry: nothing. -/
theorem getD_modifyAt_congr {α β : Type} (φ : α → β) {g : α → α} (hg : ∀ x, φ (g x) = φ x) (xs : List α) (i j : Nat) (d : α) :
    φ ((modifyAt xs i g).getD j d) = φ (xs.getD j d) := by
  rw [modifyAt_eq_modify, List.getD_eq_getElem?_getD, List.getD_eq_getElem?_getD, List.getElem?_modify]
  cases xs[j]? with
  | none => rfl
  | some x => by_cases h : i = j <;> simp [h, hg]

/-- The candidate with its exact score, if its record has come and its bundle is known (R121, R142). -/
def Cand.scoreBy (bundle : Rec → Option Bundle) (run : Nat) (q : Query) (c : Cand) : Cand :=
  match c.st, bundle c.sel.ent with
  | .got tier bs, some b =>
    { c with st := .scored tier ((exactOf run q b bs).getD F32.posInf) false, exact := (exactOf run q b bs).getD F32.posInf }
  | _, _ => c

theorem Cand.scoreBy_of_got {bundle : Rec → Option Bundle} {run : Nat} {q : Query} {c : Cand} {tier : Nat} {bs : List Byte} {b : Bundle}
    (hst : c.st = .got tier bs) (hb : bundle c.sel.ent = some b) :
    c.scoreBy bundle run q =
      { c with st := .scored tier ((exactOf run q b bs).getD F32.posInf) false, exact := (exactOf run q b bs).getD F32.posInf } := by
  simp [Cand.scoreBy, hst, hb]

theorem Cand.scoreBy_of_not {bundle : Rec → Option Bundle} {run : Nat} {q : Query} {c : Cand}
    (h : ∀ tier bs b, c.st = .got tier bs → bundle c.sel.ent ≠ some b) : c.scoreBy bundle run q = c := by
  unfold Cand.scoreBy
  split
  · next tier bs b hst hb => exact absurd hb (h tier bs b hst)
  · rfl

theorem Cand.scoreBy_scoreBy (bundle : Rec → Option Bundle) (run : Nat) (q : Query) (c : Cand) :
    (c.scoreBy bundle run q).scoreBy bundle run q = c.scoreBy bundle run q := by
  by_cases h : ∃ tier bs b, c.st = .got tier bs ∧ bundle c.sel.ent = some b
  · obtain ⟨tier, bs, b, hst, hb⟩ := h
    rw [Cand.scoreBy_of_got hst hb]
    exact Cand.scoreBy_of_not fun _ _ _ hst => nomatch hst
  · have hfix : c.scoreBy bundle run q = c := Cand.scoreBy_of_not fun tier bs b hst hb => h ⟨tier, bs, b, hst, hb⟩
    rw [hfix, hfix]

/-- The bundles that a query's records were coded under. -/
def State.bundles (s : State) (q : Query) : Rec → Option Bundle := (s.corpus q.pv).recBundle q

theorem bundles_badRecord (s : State) (p : Nat) (q : Query) :
    (modCorpus p (fun c => { c with badRecord := true }) s).bundles q = s.bundles q :=
  getD_modifyAt_congr (fun c : Corpus => c.recBundle q) (g := fun c => { c with badRecord := true }) (fun _ => rfl) s.corpora p q.pv Corpus.reset

/-- Scoring a candidate that has no record, or a second time, changes nothing. -/
theorem modifyAt_of_fix {α : Type} {g : α → α} {xs : List α} {i : Nat} (h : ∀ x, xs[i]? = some x → g x = x) : modifyAt xs i g = xs := by
  refine List.ext_getElem? fun k => ?_
  rw [modifyAt_eq_modify, List.getElem?_modify]
  by_cases hik : i = k
  · subst hik
    cases hx : xs[i]? with
    | none => rfl
    | some x => simp [h x hx]
  · simp [hik]

/-- A record that is bad is noted in its pavilion (R142). -/
def noteBad (bad : Bool) (p : Nat) (s : State) : State := if bad then modCorpus p (fun c => { c with badRecord := true }) s else s

theorem noteBad_parts (bad : Bool) (p : Nat) (q : Query) (s : State) :
    (noteBad bad p s).scan = s.scan ∧ (noteBad bad p s).bundles q = s.bundles q := by
  cases bad
  · exact ⟨rfl, rfl⟩
  · exact ⟨rfl, bundles_badRecord ..⟩

theorem scoreOne_of_got {s : State} {run qid i : Nat} {q : Query} {c : Cand} {tier : Nat} {bs : List Byte} {b : Bundle}
    (hq : s.query? qid = some q) (hc : q.cands[i]? = some c) (hst : c.st = .got tier bs) (hb : s.bundles q c.sel.ent = some b) :
    scoreOne run qid s i = modCand qid i (fun c =>
        { c with st := .scored tier ((exactOf run q b bs).getD F32.posInf) false, exact := (exactOf run q b bs).getD F32.posInf })
      (noteBad (exactOf run q b bs).isNone q.pv s) := by
  unfold scoreOne
  rw [hq]
  dsimp only
  rw [hc]
  dsimp only
  rw [hst, show (s.corpus q.pv).recBundle q c.sel.ent = some b from hb]
  rfl

theorem scoreOne_of_not {s : State} {run qid i : Nat} {q : Query} (hq : s.query? qid = some q)
    (h : ∀ c tier bs b, q.cands[i]? = some c → c.st = .got tier bs → s.bundles q c.sel.ent ≠ some b) : scoreOne run qid s i = s := by
  unfold scoreOne
  rw [hq]
  dsimp only
  split
  · next c hc =>
    split
    · next tier bs b hst hb => exact absurd hb (h c tier bs b hc hst)
    · rfl
  · rfl

/-- A candidate that is scored changes nothing else of its query (R121). -/
theorem query?_scoreOne {s : State} {run qid i : Nat} {q : Query} (h : s.query? qid = some q) :
    (scoreOne run qid s i).query? qid = some { q with cands := modifyAt q.cands i (Cand.scoreBy (s.bundles q) run q) } ∧
      (scoreOne run qid s i).bundles q = s.bundles q ∧ (scoreOne run qid s i).scan.taUse = s.scan.taUse := by
  by_cases hgot : ∃ c tier bs b, q.cands[i]? = some c ∧ c.st = .got tier bs ∧ s.bundles q c.sel.ent = some b
  · obtain ⟨c, tier, bs, b, hc, hst, hb⟩ := hgot
    obtain ⟨hscan, hbundles⟩ := noteBad_parts (exactOf run q b bs).isNone q.pv q s
    rw [scoreOne_of_got h hc hst hb]
    have hu : (noteBad (exactOf run q b bs).isNone q.pv s).scan.taUse = s.scan.taUse := congrArg Scan.taUse hscan
    refine ⟨(query?_modCand _ ((query?_congr (congrArg Scan.queries hscan) qid).trans h)).trans ?_, hbundles, hu⟩
    have hcands : modifyAt q.cands i (fun c =>
        { c with st := .scored tier ((exactOf run q b bs).getD F32.posInf) false, exact := (exactOf run q b bs).getD F32.posInf }) =
        modifyAt q.cands i (Cand.scoreBy (s.bundles q) run q) := by
      refine List.ext_getElem? fun k => ?_
      rw [modifyAt_eq_modify, modifyAt_eq_modify, List.getElem?_modify, List.getElem?_modify]
      by_cases hik : i = k
      · subst hik
        simp [hc, Cand.scoreBy_of_got hst hb]
      · simp [hik]
    rw [hcands]
  · rw [scoreOne_of_not h fun c tier bs b hc hst hb => hgot ⟨c, tier, bs, b, hc, hst, hb⟩, modifyAt_of_fix fun c hc =>
      Cand.scoreBy_of_not fun tier bs b hst hb => hgot ⟨c, tier, bs, b, hc, hst, hb⟩]
    exact ⟨h, rfl, rfl⟩

/-- A query's exact score depends on no candidate. -/
theorem scoreBy_cands (bundle : Rec → Option Bundle) (run : Nat) (q : Query) (cs : List Cand) :
    Cand.scoreBy bundle run { q with cands := cs } = Cand.scoreBy bundle run q := rfl

theorem query?_foldl_scoreOne {run qid : Nat} (is : List Nat) {s : State} {q : Query} (h : s.query? qid = some q) :
    (is.foldl (scoreOne run qid) s).query? qid =
        some { q with cands := is.foldl (fun cs i => modifyAt cs i (Cand.scoreBy (s.bundles q) run q)) q.cands } ∧
      (is.foldl (scoreOne run qid) s).scan.taUse = s.scan.taUse := by
  induction is generalizing s q with
  | nil => exact ⟨h, rfl⟩
  | cons i is ih =>
    obtain ⟨hq, hb, hu⟩ := query?_scoreOne (run := run) (i := i) h
    obtain ⟨hq', hu'⟩ := ih hq
    refine ⟨hq'.trans ?_, hu'.trans hu⟩
    have hb' : (scoreOne run qid s i).bundles { q with cands := modifyAt q.cands i (Cand.scoreBy (s.bundles q) run q) } = s.bundles q := hb
    rw [hb']
    rfl

end Sys2Proof.Machine

/-! ## Blocks on the tensor arrays (R121, R122, R162, R383) -/

namespace Sys2Proof.Machine
-- The whole text is compiled by one process of limited memory: one proof at a time keeps it small.
set_option Elab.async false

theorem Keeps.free {ps : List Area} {s t : State} (k : Keeps ps s t) (h : ps.contains .free = false := by rfl) : t.free = s.free :=
  k.same .free h

/-! ## An array is booked -/

/-- The array that a block runs on is charged, and the job is marked for shadowing if it is drawn (R383, R429). -/
def bookTa (u : TaUse) (pv : Nat) (bor : Bool) (bytes : Nat) (s : State) : State :=
  let (m, s) := drawMark (useTa u pv bor s)
  if m then addShadow u.die false (s.physOf u.die true u.ta) [u.qid] 0 u.idxs none bytes s else s

theorem query?_addShadow {s : State} {die : Nat} {scan : Bool} {p : PUnit} {qid batch : Nat} {tiles : List Nat} {head : Option Ckpt} {bytes : Nat}
    {q : Query} (h : s.query? qid = some q) :
    (addShadow die scan p [qid] batch tiles head bytes s).query? qid = some { q with shadowed := true } ∧
      (addShadow die scan p [qid] batch tiles head bytes s).scan.taUse = s.scan.taUse :=
  ⟨query?_modQuery (g := fun q => { q with shadowed := true }) (fun _ => rfl) h, rfl⟩

theorem bookTa_parts {u : TaUse} (pv : Nat) (bor : Bool) (bytes : Nat) {s : State} {q : Query} (h : s.query? u.qid = some q) :
    (∃ b, (bookTa u pv bor bytes s).query? u.qid = some { q with shadowed := b }) ∧
      (bookTa u pv bor bytes s).scan.taUse = s.scan.taUse ++ [u] ∧ (bookTa u pv bor bytes s).works = s.works ∧
      (bookTa u pv bor bytes s).out = s.out := by
  have hd : (drawMark (useTa u pv bor s)).2.scan = (useTa u pv bor s).scan := (drawMark_keeps _).scan
  have hq : (drawMark (useTa u pv bor s)).2.query? u.qid = some q := (query?_congr (congrArg Scan.queries hd) _).trans h
  have hu : (drawMark (useTa u pv bor s)).2.scan.taUse = s.scan.taUse ++ [u] := congrArg Scan.taUse hd
  have hk : Keeps [.free, .scan, .qos] s (drawMark (useTa u pv bor s)).2 := ((useTa_keeps ..).mono rfl).after (drawMark_keeps _) rfl
  unfold bookTa
  generalize drawMark (useTa u pv bor s) = r at hq hu hk
  obtain ⟨m, t⟩ := r
  cases m with
  | false => exact ⟨⟨q.shadowed, hq⟩, hu, hk.works, hk.out⟩
  | true =>
    have ka := addShadow_keeps u.die false (t.physOf u.die true u.ta) [u.qid] 0 u.idxs none bytes t
    obtain ⟨hsq, hsu⟩ := query?_addShadow (die := u.die) (scan := false) (p := t.physOf u.die true u.ta) (batch := 0) (tiles := u.idxs)
      (head := none) (bytes := bytes) hq
    exact ⟨⟨true, hsq⟩, hsu.trans hu, ka.works.trans hk.works, ka.out.trans hk.out⟩

/-! ## The re-rank block by its case -/

/-- The state of a candidate by number; one that is not there has none. -/
def Query.candSt (q : Query) (i : Nat) : CandSt := ((q.cands[i]?).map (·.st)).getD .lost

/-- A block on an array whose slot the query is granted (R121, R122). -/
theorem doRerank_of_grant {s : State} {qid die ta : Nat} {idxs : List Nat} {q : Query} {bor : Bool} (hq : s.query? qid = some q)
    (hlive : s.live = true) (hgrant : s.taGrant die ta q = some bor) (hstage : q.stage = .fetching) (hne : idxs ≠ []) :
    doRerank qid idxs die ta s =
      if idxs.length ≤ 64 ∧ (idxs.all fun i => (q.candSt i).isGot) = true then
        bookTa ⟨die, ta, qid, idxs, q.code.scales.length⟩ q.pv bor (q.shadowBytes idxs)
          (idxs.foldl (scoreOne s.free qid) { s with free := s.free + 1 })
      else match s.scorerOf q with
        | none => s
        | some p =>
          if q.allExact && decide (idxs.length ≤ p.blockRows) && idxs.all fun i => (q.candSt i).isExact && (scorerSet q).contains i then
            bookTa ⟨die, ta, qid, idxs, 0⟩ q.pv bor (q.shadowBytes idxs) (scoreBlock qid idxs p s)
          else s := by
  unfold doRerank
  rw [hq]
  dsimp only
  rw [hgrant]
  dsimp only
  rw [if_neg (by simp [hlive, hstage, hne])]
  rfl

/-- A block that the rules exclude: of the wrong stage, empty, too large, or without a grant (R121, R383). -/
theorem doRerank_of_excluded {s : State} {qid die ta : Nat} {idxs : List Nat} {q : Query} (hq : s.query? qid = some q) (hlive : s.live = true)
    (h : q.stage ≠ .fetching ∨ idxs = [] ∨ 64 < idxs.length ∨ s.taGrant die ta q = none) : doRerank qid idxs die ta s = s := by
  by_cases hgrant : s.taGrant die ta q = none
  · unfold doRerank
    rw [hq]
    dsimp only
    rw [hgrant]
  · obtain ⟨bor, hbor⟩ := Option.ne_none_iff_exists'.1 hgrant
    by_cases hstop : q.stage ≠ .fetching ∨ idxs = []
    · unfold doRerank
      rw [hq]
      dsimp only
      rw [hbor]
      refine if_pos ?_
      rcases hstop with h | h <;> simp [h]
    · obtain ⟨hstage, hne⟩ := not_or.1 hstop
      have hlong : 64 < idxs.length := by
        rcases h with h | h | h | h
        · exact absurd h hstage
        · exact absurd h hne
        · exact h
        · exact absurd h hgrant
      rw [doRerank_of_grant hq hlive hbor (not_not.1 hstage) hne, if_neg (fun hc => absurd hc.1 (Nat.not_le.2 hlong))]
      split
      · rfl
      · next p _ =>
        have hrows : ¬ idxs.length ≤ p.blockRows := by
          have : p.blockRows ≤ 64 := Nat.min_le_left ..
          omega
        exact if_neg (by simp [hrows])

/-! ## Scores of the scorer -/

/-- A candidate with the scorer's score (R122). -/
def Cand.scorerBy (v : F32) (c : Cand) : Cand := { c with st := match c.st with | .scored t _ _ => .scored t v true | z => z }

/-- What the scorer has done to a query's candidates: each is scored as far as it was, and those of the block by the scorer. -/
def ScoredBy (is : List Nat) (xs ys : List Cand) : Prop :=
  ∀ (k : Nat) (c : Cand) (t : Nat) (x : F32) (b : Bool), xs[k]? = some c → c.st = .scored t x b →
    ∃ (c' : Cand) (v : F32), ys[k]? = some c' ∧ c'.st = .scored t v (b || decide (k ∈ is))

theorem foldl_scorerBy (l : List ((Nat × Cand) × F32)) (bad : Cand → Bool) {s : State} {qid : Nat} {q : Query} (h : s.query? qid = some q) :
    ∃ cs, (l.foldl (fun s x => modCand qid x.1.1 (Cand.scorerBy (if bad x.1.2 then F32.posInf else scorerScore x.2)) s) s).query? qid =
        some { q with cands := cs } ∧ ScoredBy (l.map (·.1.1)) q.cands cs := by
  induction l generalizing s q with
  | nil => exact ⟨q.cands, h, fun k c t x b hc hst => ⟨c, x, hc, by simpa using hst⟩⟩
  | cons y l ih =>
    obtain ⟨cs, hcs, hscored⟩ := ih (query?_modCand (i := y.1.1) (Cand.scorerBy (if bad y.1.2 then F32.posInf else scorerScore y.2)) h)
    refine ⟨cs, hcs, fun k c t x b hc hst => ?_⟩
    have hstep : ∃ c' v, (modifyAt q.cands y.1.1 (Cand.scorerBy (if bad y.1.2 then F32.posInf else scorerScore y.2)))[k]? = some c' ∧
        c'.st = .scored t v (b || decide (k = y.1.1)) := by
      rw [modifyAt_eq_modify, List.getElem?_modify]
      by_cases hk : y.1.1 = k
      · subst hk
        exact ⟨c.scorerBy (if bad y.1.2 then F32.posInf else scorerScore y.2), if bad y.1.2 then F32.posInf else scorerScore y.2,
          by simp [hc], by simp [Cand.scorerBy, hst]⟩
      · exact ⟨c, x, by simp [hc, hk], by simp [hst, Ne.symm hk]⟩
    obtain ⟨c', v, hc', hst'⟩ := hstep
    obtain ⟨c'', v', hc'', hst''⟩ := hscored k c' t v _ hc' hst'
    refine ⟨c'', v', hc'', hst''.trans ?_⟩
    simp only [Bool.or_assoc, List.map_cons, ← Bool.decide_or, List.mem_cons]

/-- The candidates of a block, by number: all of them where all are there. -/
theorem candsAt_fst {q : Query} {is : List Nat} (hall : ∀ i ∈ is, ∃ c, q.cands[i]? = some c) :
    (is.filterMap fun i => (q.cands[i]?).map fun c => (i, c)).map Prod.fst = is := by
  induction is with
  | nil => rfl
  | cons i is ih =>
    obtain ⟨c, hc⟩ := hall i List.mem_cons_self
    simp only [List.filterMap_cons, hc, Option.map_some, List.map_cons]
    exact congrArg _ (ih fun j hj => hall j (List.mem_cons_of_mem _ hj))

/-- The scorer's block: what it changes of the query, by the candidates that are there. -/
theorem query?_scoreBlock {s : State} {qid : Nat} {idxs : List Nat} (p : Program) {q : Query} (h : s.query? qid = some q)
    (hall : ∀ i ∈ idxs, ∃ c, q.cands[i]? = some c) :
    ∃ cs, (scoreBlock qid idxs p s).query? qid = some { q with cands := cs } ∧ ScoredBy idxs q.cands cs := by
  unfold scoreBlock
  rw [h]
  dsimp -zeta only
  extract_lets cp cs g dim row bad meta_ feats r ys s1 nan s2 s3
  have h1 : s1.scan = s.scan := (count_keeps ..).scan
  have h2 : s2.scan = s.scan := by
    unfold s2
    split
    · exact h1
    · exact ((count_keeps ..).scan).trans h1
  have h3 : s3.scan = s.scan := ((noteGather_keeps ..).scan).trans h2
  have hq : s3.query? qid = some q := (query?_congr (congrArg Scan.queries h3) qid).trans h
  have hmap : (cs.zip ys).map (·.1.1) = idxs := by
    have hlen : cs.length ≤ ys.length := by simp [ys]
    calc (cs.zip ys).map (·.1.1) = ((cs.zip ys).map Prod.fst).map Prod.fst := List.map_map.symm
      _ = cs.map Prod.fst := by rw [List.map_fst_zip hlen]
      _ = idxs := candsAt_fst hall
  obtain ⟨out, hout, hscored⟩ := foldl_scorerBy (cs.zip ys) bad hq
  rw [hmap] at hscored
  exact ⟨out, hout, hscored⟩

/-! ## Steals between arrays -/

/-- An exact score is made again from the record that the candidate kept (R133). -/
def Cand.again (c : Cand) : Cand := match c.st with | .scored t _ false => { c with st := .got t c.record } | _ => c

/-- The thief may take from the victim's block, on the terms of R105. -/
def State.taStealable (s : State) (die vdie : Nat) (v : TaUse) : Bool :=
  let least := fld s.scan.scanEff 15 8
  let best (us : List TaUse) : Bool := decide (least ≤ v.left) && us.all fun u => decide (u.left ≤ v.left)
  bit s.scan.scanEff 0 && (if vdie = die then best (s.scan.taUse.filter (·.die == die))
    else bit s.scan.scanEff 1 && !((s.scan.taUse.filter (·.die == die)).any fun u => decide (least ≤ u.left)) && vdie / 6 == die / 6 &&
      best (s.scan.taUse.filter fun u => u.die != die && u.die / 6 == die / 6))

/-- The state once the thief has its half. -/
def State.taStolen (s : State) (v : TaUse) (die ta : Nat) (q : Query) (bor : Bool) : State :=
  useTa ⟨die, ta, q.id, v.idxs, v.left / 2⟩ q.pv bor
    (modScan (fun x => { x with taUse := mapIf (· == v) (fun u => { u with left := u.left - v.left / 2 }) x.taUse }) s)

theorem doTensorSteal_of_victim {s : State} {qid die ta vdie vta : Nat} {v : TaUse} {q : Query} {p : Nat} {bor : Bool}
    (hv : s.scan.taUse.find? (fun u => u.die == vdie && u.ta == vta && u.qid == qid) = some v) (hq : s.query? qid = some q)
    (hlive : s.live = true) (hpick : s.qos.pick .ta die [(q.pv, 0)] = some (p, bor)) :
    doTensorSteal qid die ta vdie vta s = if q.stage == .fetching && s.taIdle die ta && s.taStealable die vdie v then
        v.idxs.foldl (fun s' i => scoreOne s.free qid (modCand qid i Cand.again s') i)
          { s.taStolen v die ta q bor with free := s.free + 1 }
      else s := by
  unfold doTensorSteal
  rw [hv, hq]
  dsimp only
  rw [hpick]
  dsimp only
  rw [hlive, Bool.true_and, State.taStolen, id_of_query? hq]
  rfl

theorem doTensorSteal_of_no_victim {s : State} {qid die ta vdie vta : Nat}
    (h : s.scan.taUse.find? (fun u => u.die == vdie && u.ta == vta && u.qid == qid) = none) : doTensorSteal qid die ta vdie vta s = s := by
  unfold doTensorSteal
  rw [h]

/-- Where the terms do not hold nothing is taken. -/
theorem doTensorSteal_of_excluded {s : State} {qid die ta vdie vta : Nat} {q : Query} (hq : s.query? qid = some q) (hlive : s.live = true)
    (h : q.stage ≠ .fetching ∨ s.taIdle die ta = false ∨ bit s.scan.scanEff 0 = false ∨
      (∀ u ∈ s.scan.taUse, ¬ (u.die = vdie ∧ u.ta = vta ∧ u.qid = qid)) ∨ die / 6 ≠ vdie / 6) : doTensorSteal qid die ta vdie vta s = s := by
  cases hv : s.scan.taUse.find? (fun u => u.die == vdie && u.ta == vta && u.qid == qid) with
  | none => exact doTensorSteal_of_no_victim hv
  | some v =>
    cases hpick : s.qos.pick .ta die [(q.pv, 0)] with
    | none =>
      unfold doTensorSteal
      rw [hv, hq]
      dsimp only
      rw [hpick]
    | some r =>
      obtain ⟨p, bor⟩ := r
      rw [doTensorSteal_of_victim hv hq hlive hpick]
      refine if_neg ?_
      rcases h with h | h | h | h | h
      · simp [h]
      · simp [h]
      · simp [State.taStealable, h]
      · have hv' := List.find?_some hv
        simp only [Bool.and_eq_true, beq_iff_eq, and_assoc] at hv'
        exact absurd hv' (h v (List.mem_of_find?_eq_some hv))
      · have hne : vdie ≠ die := fun e => h (by rw [e])
        simp [State.taStealable, hne, Ne.symm h]

theorem taStealable_of_terms {s : State} {die vdie : Nat} {v : TaUse} (hen : bit s.scan.scanEff 0 = true)
    (hleast : fld s.scan.scanEff 15 8 ≤ v.left)
    (h : (vdie = die ∧ (∀ u ∈ s.scan.taUse, u.die = die → u.left ≤ v.left)) ∨
      (vdie ≠ die ∧ vdie / 6 = die / 6 ∧ bit s.scan.scanEff 1 = true ∧
        (∀ u ∈ s.scan.taUse, u.die = die → u.left < fld s.scan.scanEff 15 8) ∧
        (∀ u ∈ s.scan.taUse, u.die ≠ die → u.die / 6 = die / 6 → u.left ≤ v.left))) : s.taStealable die vdie v = true := by
  rcases h with ⟨rfl, hmost⟩ | ⟨hne, hquad, hcross, hown, hnear⟩
  · simp only [State.taStealable, hen, if_true, hleast, decide_true, Bool.true_and, List.all_eq_true, List.mem_filter, beq_iff_eq,
      decide_eq_true_eq]
    exact fun u ⟨hu, hd⟩ => hmost u hu hd
  · have hfound : ((s.scan.taUse.filter (·.die == die)).any fun u => decide (fld s.scan.scanEff 15 8 ≤ u.left)) = false := by
      simp only [List.any_eq_false, List.mem_filter, beq_iff_eq, decide_eq_true_eq, Nat.not_le]
      exact fun u ⟨hu, hd⟩ => hown u hu hd
    simp only [State.taStealable, hen, if_neg hne, hcross, hfound, hquad, hleast, beq_self_eq_true, decide_true, Bool.not_false, Bool.true_and,
      List.all_eq_true, List.mem_filter, Bool.and_eq_true, bne_iff_ne, beq_iff_eq, decide_eq_true_eq]
    exact fun u ⟨hu, hd, hq⟩ => hnear u hu hd hq

/-- Scores that are made again leave the draws, the arrays, the work and the output. -/
theorem foldl_rescore_parts (run qid : Nat) (is : List Nat) (s : State) :
    (is.foldl (fun s i => scoreOne run qid (modCand qid i Cand.again s) i) s).free = s.free ∧
      (is.foldl (fun s i => scoreOne run qid (modCand qid i Cand.again s) i) s).scan.taUse = s.scan.taUse ∧
      (is.foldl (fun s i => scoreOne run qid (modCand qid i Cand.again s) i) s).works = s.works ∧
      (is.foldl (fun s i => scoreOne run qid (modCand qid i Cand.again s) i) s).out = s.out := by
  have hu (t : State) (i : Nat) : (scoreOne run qid t i).scan.taUse = t.scan.taUse := by
    cases hq : t.query? qid with
    | none =>
      unfold scoreOne
      rw [hq]
    | some q => exact (query?_scoreOne hq).2.2
  have hk (t : State) (i : Nat) : Keeps [.corpora, .scan] t (scoreOne run qid (modCand qid i Cand.again t) i) :=
    ((modCand_keeps qid i Cand.again t).mono rfl).after (scoreOne_keeps ..) rfl
  exact ⟨foldl_same State.free (fun t i => (hk t i).free) is s,
    foldl_same (fun t => t.scan.taUse) (fun t i => hu (modCand qid i Cand.again t) i) is s,
    foldl_same State.works (fun t i => (hk t i).works) is s, foldl_same State.out (fun t i => (hk t i).out) is s⟩

/-- Settles O20: records by what a read gives, waits by the candidates that wait, blocks by their candidates' scores, steals by R105. -/
theorem candidatesAndBlocks : Obligations.CandidatesAndBlocks := by
  unfold Obligations.CandidatesAndBlocks
  refine ⟨fun s qid q hq hlive => ⟨fun i c a n ok hstage hc hst hrec => ?_, fun i ok h => congrArg Host.Outcome.next (doArrival_of_none ok hq h),
      fun hstage hlate hwait => ?_, fun h => ?_⟩,
    fun s qid q idxs die ta hq hlive => ⟨fun bor hstage hne hgrant => ⟨fun hlen hgot => ?_, fun p hp hexact hrows hset => ?_⟩,
      fun h => congrArg Host.Outcome.next (doRerank_of_excluded hq hlive h),
      fun vdie vta v p bor hv hstage hidle hen hleast hterms hpick => ?_,
      fun vdie vta h => congrArg Host.Outcome.next (doTensorSteal_of_excluded hq hlive h)⟩⟩
  · have haw : s.awaits qid i q c a n := ⟨hq, hlive, hstage, hc, hst, hrec⟩
    refine ⟨fun hread hhost => ⟨fun herr => ?_, fun st herr => ?_⟩, fun htier hasked => ?_, fun htier hasked hbusy => ?_, fun htier hok => ?_⟩
    · have hscan := (readFor_sameScan q.pv a n 0 s).query? qid
      refine ⟨_, _, _, congrArg Host.Outcome.next ((doArrival_of_comes haw ⟨hread, hhost⟩).1 herr), query?_modCand _ ?_, rfl,
        fun hclean => readFor_of_clean hclean herr, rfl⟩
      rw [query?_congr (congrArg Scan.queries ((noteMiss_keeps ..).scan)), query?_congr (congrArg Scan.queries ((count_keeps ..).scan)), hscan]
      exact hq
    · have hscan := (readFor_sameScan q.pv a n 0 s).query? qid
      exact ⟨_, _, congrArg Host.Outcome.next ((doArrival_of_comes haw ⟨hread, hhost⟩).2 st herr), query?_loseCand (hscan.trans hq), rfl, rfl, rfl⟩
    · refine congrArg Host.Outcome.next ((doArrival_of_awaited ok haw).trans ((if_pos ?_).trans (fetchCand_of_awaited haw htier)))
      simp [htier, hasked]
    · refine congrArg Host.Outcome.next ((doArrival_of_awaited ok haw).trans ((if_neg ?_).trans (if_pos ?_)))
      · simp [hasked]
      · simp [htier, hbusy]
    · refine congrArg Host.Outcome.next ((doArrival_of_awaited ok haw).trans ((if_neg ?_).trans ((if_neg ?_).trans (if_pos ?_))))
      · simp [htier]
      · simp [htier]
      · simp [htier, hok]
  · have hne : (candsWhere CandSt.isWaiting q).isEmpty = false := by
      obtain ⟨c, hc, hst⟩ := hwait
      obtain ⟨i, hi⟩ := List.mem_iff_getElem?.1 hc
      have hmem : i ∈ candsWhere CandSt.isWaiting q := mem_candsWhere.2 ⟨c, hi, isWaiting_iff.2 hst⟩
      cases hw : candsWhere CandSt.isWaiting q with
      | nil => simp [hw] at hmem
      | cons => rfl
    refine ⟨_, _, congrArg Host.Outcome.next ((doFetchExpiry_of_query hq hlive).trans (if_pos (by simp [hstage, hlate, hne]))),
      query?_foldl_loseCand (candsWhere CandSt.isWaiting q) hq, rfl, ?_, ?_, lose_waiting q, foldl_loseCand_works ..⟩
    · rw [length_candsWhere]
    · refine List.mem_append_right _ (List.mem_replicate.2 ⟨?_, rfl⟩)
      cases hw : candsWhere CandSt.isWaiting q with
      | nil => simp [hw] at hne
      | cons => simp
  · refine congrArg Host.Outcome.next ((doFetchExpiry_of_query hq hlive).trans (if_neg ?_))
    rcases h with h | h
    · simp [Nat.not_lt.2 h]
    · have hnone : candsWhere CandSt.isWaiting q = [] := by
        refine List.eq_nil_iff_forall_not_mem.2 fun i hi => ?_
        obtain ⟨c, hc, hw⟩ := mem_candsWhere.1 hi
        exact h c (List.mem_of_getElem? hc) (isWaiting_iff.1 hw)
      simp [hnone]
  · have hall : (idxs.all fun i => (q.candSt i).isGot) = true := by
      refine List.all_eq_true.2 fun i hi => ?_
      obtain ⟨c, tier, bs, b, hc, hst, -⟩ := hgot i hi
      simp [Query.candSt, hc, hst, CandSt.isGot]
    obtain ⟨hscore, huse⟩ := query?_foldl_scoreOne (run := s.free) (s := { s with free := s.free + 1 }) idxs hq
    obtain ⟨⟨sh, hbook⟩, hta, hworks, hout⟩ := bookTa_parts (u := ⟨die, ta, qid, idxs, q.code.scales.length⟩) q.pv bor (q.shadowBytes idxs) hscore
    refine ⟨_, _, congrArg Host.Outcome.next ((doRerank_of_grant hq hlive hgrant hstage hne).trans (if_pos ⟨hlen, hall⟩)), hbook, hstage,
      fun i c tier bs b hc hst hb => ?_, ⟨_, hta.trans (by rw [huse])⟩, hworks.trans ?_, hout.trans ?_⟩
    · refine (getElem?_foldl_modifyAt (Cand.scoreBy_scoreBy _ _ _) idxs q.cands i).trans ?_
      have hb' : ({ s with free := s.free + 1 } : State).bundles q c.sel.ent = some b := hb
      rw [hc, Option.map_some, Cand.scoreBy_of_got hst hb']
    · exact foldl_same State.works (fun t i => (scoreOne_keeps s.free qid t i).works) idxs _
    · exact foldl_same State.out (fun t i => (scoreOne_keeps s.free qid t i).out) idxs _
  · have hnot : ¬ (idxs.length ≤ 64 ∧ (idxs.all fun i => (q.candSt i).isGot) = true) := by
      rintro ⟨-, hall⟩
      obtain ⟨i, hi⟩ := List.exists_mem_of_ne_nil _ hne
      obtain ⟨-, c, hc, hst⟩ := hset i hi
      have hgot := List.all_eq_true.1 hall i hi
      rw [Query.candSt, hc] at hgot
      cases hs : c.st <;> simp_all [CandSt.isExact, CandSt.isGot]
    have hgo := (doRerank_of_grant hq hlive hgrant hstage hne).trans (if_neg hnot)
    rw [hp] at hgo
    obtain ⟨cs, hcs, hscored⟩ := query?_scoreBlock p hq fun i hi => (hset i hi).2.imp fun c h => h.1
    obtain ⟨⟨sh, hbook⟩, -, hworks, hout⟩ := bookTa_parts (u := ⟨die, ta, qid, idxs, 0⟩) q.pv bor (q.shadowBytes idxs) hcs
    refine ⟨_, _, congrArg Host.Outcome.next (hgo.trans (if_pos ?_)), hbook, fun i hi => ?_, hworks.trans (scoreBlock_keeps ..).works,
      hout.trans (scoreBlock_keeps ..).out⟩
    · rw [hexact, decide_eq_true hrows, Bool.and_self, Bool.true_and]
      refine List.all_eq_true.2 fun i hi => ?_
      obtain ⟨hmem, c, hc, hst⟩ := hset i hi
      simp [Query.candSt, hc, hst, hmem]
    · obtain ⟨-, c, hc, hst⟩ := hset i hi
      obtain ⟨tier, x, hst⟩ : ∃ tier x, c.st = .scored tier x false := by
        unfold CandSt.isExact at hst
        split at hst
        · next tier x hs => exact ⟨tier, x, hs⟩
        · cases hst
      obtain ⟨c', v, hc', hst'⟩ := hscored i c tier x false hc hst
      exact ⟨c', tier, v, hc', by simpa [hi] using hst'⟩
  · have hgo := (doTensorSteal_of_victim (ta := ta) hv hq hlive hpick).trans (if_pos (by
      rw [hidle, taStealable_of_terms hen hleast hterms, hstage]
      rfl))
    obtain ⟨hfree, huse, hworks, hout⟩ := foldl_rescore_parts s.free qid v.idxs { s.taStolen v die ta q bor with free := s.free + 1 }
    refine ⟨_, congrArg Host.Outcome.next hgo, hfree, huse.trans ?_, hworks, hout⟩
    have hmap : mapIf (· == v) (fun u => { u with left := u.left - v.left / 2 }) s.scan.taUse =
        mapIf (· == v) (fun u => { u with left := v.left - v.left / 2 }) s.scan.taUse := by
      refine List.map_congr_left fun u _ => ?_
      by_cases h : u = v <;> simp [h]
    rw [← hmap, ← id_of_query? hq]
    rfl

end Sys2Proof.Machine

/-! ## The node's top k, its rows and the final merge (R116 to R132, R307, R337) -/

namespace Sys2Proof.Machine
-- The whole text is compiled by one process of limited memory: one proof at a time keeps it small.
set_option Elab.async false

/-! ## Fields of a structure -/

theorem leNat_leBytes (n v : Nat) : leNat (leBytes n v) = v % 256 ^ n := by
  induction n generalizing v with
  | zero => simp [leNat, leBytes, Nat.mod_one]
  | succ n ih => rw [leBytes, leNat, ih, BitVec.toNat_ofNat, pow_succ' 256 n, Nat.mod_mul (x := v) (a := 256)]

theorem length_leBytes (n v : Nat) : (leBytes n v).length = n := by
  induction n generalizing v with
  | zero => rfl
  | succ n ih => simp [leBytes, ih]

/-- A field that a structure is built with reads back. -/
theorem field_of_parts {bs a t : List Byte} {n v : Nat} (h : bs = a ++ (leBytes n v ++ t)) : field bs a.length n = v % 256 ^ n := by
  have hs : slice bs a.length n = leBytes n v := by
    rw [slice, h, List.drop_left, List.take_left' (length_leBytes n v)]
  rw [field, hs, leNat_leBytes]

/-! ## What only adds to the output -/

/-- Output once sent is not taken back. -/
def OutGrows (s t : State) : Prop := ∃ os, t.out = s.out ++ os

namespace OutGrows

theorem refl (s : State) : OutGrows s s := ⟨[], by simp⟩

theorem trans {s t u : State} (h : OutGrows s t) (h' : OutGrows t u) : OutGrows s u := by
  obtain ⟨os, hos⟩ := h
  obtain ⟨os', hos'⟩ := h'
  exact ⟨os ++ os', by rw [hos', hos, List.append_assoc]⟩

theorem of_eq {s t : State} (h : t.out = s.out) : OutGrows s t := ⟨[], by simp [h]⟩

theorem of_quiet {s t : State} (h : Quiet s t) : OutGrows s t := h.out.imp fun _ h => h.1

theorem of_sends {s t : State} (h : Sends s t) : OutGrows s t := h.out.imp fun _ h => h.1

theorem ite {c : Prop} [Decidable c] {s t u : State} (ht : OutGrows s t) (hu : OutGrows s u) : OutGrows s (if c then t else u) := by
  split
  · exact ht
  · exact hu

theorem foldl {α : Type} {f : State → α → State} (h : ∀ s a, OutGrows s (f s a)) (l : List α) (s : State) : OutGrows s (l.foldl f s) := by
  induction l generalizing s with
  | nil => exact refl s
  | cons a l ih => exact (h s a).trans (ih (f s a))

theorem hostWrite (f : Fn) (a : Nat) (bs : List Byte) (s : State) : OutGrows s (Machine.hostWrite f a bs s) := of_quiet (hostWrite_quiet ..)

theorem modRing (f : Fn) (r : Nat) (g : Ring → Ring) (s : State) : OutGrows s (Machine.modRing f r g s) := of_eq rfl

theorem ringIrq (f : Fn) (r : Nat) (s : State) : OutGrows s (Machine.ringIrq f r s) := by
  unfold Machine.ringIrq
  extract_lets s1 x
  have h1 : OutGrows s s1 := modRing ..
  clear_value s1
  exact h1.trans (ite (ite ((modRing ..).trans (of_quiet (fire_quiet ..))) (modRing ..)) (modRing ..))

theorem putCq (f : Fn) (r : Nat) (e : List Byte) (s : State) : OutGrows s (Machine.putCq f r e s) :=
  (hostWrite ..).trans ((modRing ..).trans (ringIrq ..))

theorem settleHalt (f : Fn) (r : Nat) (s : State) : OutGrows s (Machine.settleHalt f r s) :=
  ite ((modRing ..).trans (putCq ..)) (refl s)

theorem complete (w : Work) (st : Status) (flags : Nat) (spec : List Byte) (s : State) : OutGrows s (Machine.complete w st flags spec s) := by
  unfold Machine.complete
  extract_lets s1 s2 x
  have h2 : OutGrows s s2 := of_eq rfl
  clear_value s2
  exact h2.trans (ite (modRing ..) ((putCq ..).trans (settleHalt ..)))

theorem settleSearch (wid : Nat) (s : State) : OutGrows s (Machine.settleSearch wid s) := by
  unfold Machine.settleSearch
  split
  · exact refl s
  · next w _ =>
    extract_lets qs n good spec fl s1 s2
    refine ite ?_ (refl s)
    have h1 : OutGrows s s1 := by
      refine foldl (fun t q => ?_) qs s
      unfold writeInvalid
      split
      · exact (of_eq (count_keeps ..).out).trans (hostWrite ..)
      · exact refl t
    clear_value s1
    have h2 : OutGrows s1 s2 := of_eq rfl
    exact h1.trans (h2.trans (complete ..))

end OutGrows

/-! ## The node's part -/

theorem mem_insertBy {α : Type} {lt : α → α → Bool} {x a : α} {xs : List α} : a ∈ insertBy lt x xs ↔ a = x ∨ a ∈ xs := by
  induction xs with
  | nil => simp [insertBy]
  | cons y ys ih =>
    unfold insertBy
    split
    · simp
    · simp only [List.mem_cons, ih]
      tauto

theorem mem_sortBy {α : Type} {lt : α → α → Bool} {a : α} {xs : List α} : a ∈ sortBy lt xs ↔ a ∈ xs := by
  have hgen (acc : List α) : a ∈ xs.foldl (fun acc x => insertBy lt x acc) acc ↔ a ∈ acc ∨ a ∈ xs := by
    induction xs generalizing acc with
    | nil => simp
    | cons x xs ih =>
      rw [List.foldl_cons, ih, mem_insertBy, List.mem_cons]
      tauto
  exact (hgen []).trans (by simp)

/-- Without rows wanted every entry of a part is complete. -/
theorem row_of_mem_cutTop {metric k : Nat} {cs : List Cand} {e : Ent} (h : e ∈ (cutTop metric k (cs.filterMap (entOf false))).1) :
    e.row.isSome = true := by
  have hmem : e ∈ cs.filterMap (entOf false) := mem_sortBy.1 (List.mem_of_mem_take h)
  obtain ⟨c, -, hc⟩ := List.mem_filterMap.1 hmem
  unfold entOf at hc
  split at hc
  · rw [← Option.some.inj hc]
    rfl
  · cases hc

/-- A row that is there is not read again. -/
theorem gatherRow_of_there {s : State} {qid i : Nat} {q : Query} (t2ok ask : Bool) (hq : s.query? qid = some q)
    (h : ∀ e, q.top[i]? = some e → e.row.isSome = true) : gatherRow qid t2ok ask s i = s := by
  unfold gatherRow
  rw [hq]
  dsimp only
  split
  · rfl
  · next e he => exact if_pos (h e he)

theorem foldl_gatherRow_of_there {s : State} {qid : Nat} {q : Query} (t2ok ask : Bool) (hq : s.query? qid = some q)
    (h : ∀ e ∈ q.top, e.row.isSome = true) (is : List Nat) : is.foldl (gatherRow qid t2ok ask) s = s := by
  induction is with
  | nil => rfl
  | cons i is ih => rw [List.foldl_cons, gatherRow_of_there t2ok ask hq fun e he => h e (List.mem_of_getElem? he), ih]

/-- The part of a query of this node, once it is complete (R131). -/
def Query.atHome (q : Query) (node : Nat) : Query := { q with parts := q.parts ++ [q.part node], stage := .localDone, nLost := 0, tieOut := 0 }

theorem settleGather_of_there {s : State} {qid : Nat} {q : Query} (hq : s.query? qid = some q) (horigin : q.origin = none)
    (hstage : q.stage = .gathering) (h : ∀ e ∈ q.top, e.row.isSome = true) :
    settleGather qid s = modQuery qid (fun q => q.atHome s.node) s := by
  unfold settleGather
  rw [hq]
  dsimp only
  rw [if_pos]
  · unfold finishLocal
    rw [hq]
    dsimp only
    rw [horigin]
    rfl
  · rw [hstage, List.all_eq_true.2 h]
    rfl

/-- The best k of the candidates (R124). -/
def Query.bestK (q : Query) (pay : Bool) : List Ent × Nat × Nat := cutTop q.q.metric q.q.k (q.cands.filterMap (entOf pay))

/-- The query once its top k is formed. -/
def Query.formed (q : Query) (pay : Bool) (now : Frame) : Query :=
  { q with top := (q.bestK pay).1, kth := (q.bestK pay).2.1, tieOut := (q.bestK pay).2.2, stage := .gathering, gatherAt := now }

theorem allExact_iff {q : Query} : q.allExact = true ↔ ∀ c ∈ q.cands, c.st.isWaiting = false ∧ c.st.isGot = false := by
  simp [Query.allExact]

/-- A node's top k that wants no rows is complete at once (R124, R127). -/
theorem doTopk_of_exact {s : State} {qid : Nat} {q : Query} (ok : Bool) (hq : s.query? qid = some q) (hlive : s.live = true)
    (horigin : q.origin = none) (hstage : q.stage = .fetching) (hexact : q.allExact = true) (hscorer : s.scorerOf q = none)
    (hpay : q.q.payWant = false) :
    doTopk qid ok s = modQuery qid (fun q => q.atHome s.node) (modQuery qid (fun q' => { q' with
      top := (q.bestK false).1, kth := (q.bestK false).2.1, tieOut := (q.bestK false).2.2, stage := .gathering, gatherAt := s.hfn }) s) := by
  have hformed : (modQuery qid (fun q' => { q' with
      top := (q.bestK false).1, kth := (q.bestK false).2.1, tieOut := (q.bestK false).2.2, stage := .gathering, gatherAt := s.hfn }) s).query? qid =
      some (q.formed false s.hfn) := query?_modQuery (g := fun q' => { q' with
        top := (q.bestK false).1, kth := (q.bestK false).2.1, tieOut := (q.bestK false).2.2, stage := .gathering, gatherAt := s.hfn })
        (fun _ => rfl) hq
  have hrows : ∀ e ∈ (q.formed false s.hfn).top, e.row.isSome = true := fun e he => row_of_mem_cutTop he
  unfold doTopk
  rw [hq]
  dsimp only
  rw [hscorer, if_pos (by rw [hlive, hstage, hexact]; rfl), hpay, Bool.false_and]
  refine Eq.trans ?_ (settleGather_of_there hformed horigin rfl hrows)
  exact congrArg (settleGather qid) (foldl_gatherRow_of_there ok true hformed hrows _)

theorem doTopk_of_excluded {s : State} {qid : Nat} {q : Query} (ok : Bool) (hq : s.query? qid = some q)
    (h : q.stage ≠ .fetching ∨ ∃ c ∈ q.cands, c.st.isWaiting = true ∨ c.st.isGot = true) : doTopk qid ok s = s := by
  unfold doTopk
  rw [hq]
  refine if_neg ?_
  rcases h with h | ⟨c, hc, h⟩
  · simp [h]
  · have hexact : q.allExact = false := by
      rw [Bool.eq_false_iff]
      intro hall
      obtain ⟨h1, h2⟩ := allExact_iff.1 hall c hc
      rw [h1, h2] at h
      simp at h
    simp [hexact]

/-! ## The end of a gather -/

/-- An entry whose row cannot be delivered (R127). -/
def Ent.loseRow (e : Ent) : Ent := { e with payErr := true, row := some [] }

theorem query?_loseRow {s : State} {qid i : Nat} {st : Status} {q : Query} (h : s.query? qid = some q) :
    (loseRow qid i st s).query? qid = some { q with top := modifyAt q.top i Ent.loseRow, bad := q.bad ++ [st] } :=
  query?_modQuery (g := fun q => { q with bad := q.bad ++ [st] }) (fun _ => rfl)
    (query?_modQuery (g := fun q => { q with top := modifyAt q.top i Ent.loseRow }) (fun _ => rfl) h)

theorem query?_foldl_loseRow {qid : Nat} {st : Status} (is : List Nat) {s : State} {q : Query} (h : s.query? qid = some q) :
    (is.foldl (fun s i => loseRow qid i st s) s).query? qid =
      some { q with top := is.foldl (fun es i => modifyAt es i Ent.loseRow) q.top, bad := q.bad ++ List.replicate is.length st } := by
  induction is generalizing s q with
  | nil => simpa using h
  | cons i is ih =>
    rw [List.foldl_cons, ih (query?_loseRow h)]
    simp [List.replicate_succ]

/-- Numbers of the entries whose rows have not come. -/
def Query.rowless (q : Query) : List Nat := (q.top.zipIdx.filter fun x => x.1.row.isNone).map (·.2)

theorem mem_rowless {q : Query} {i : Nat} : i ∈ q.rowless ↔ ∃ e, q.top[i]? = some e ∧ e.row.isNone = true := by
  simp [Query.rowless, List.mem_zipIdx_iff_getElem?]

/-- Every row that has not come is given up. -/
theorem lose_rowless (q : Query) :
    q.rowless.foldl (fun es i => modifyAt es i Ent.loseRow) q.top = q.top.map fun e => if e.row.isNone then e.loseRow else e := by
  refine List.ext_getElem? fun k => ?_
  rw [getElem?_foldl_modifyAt (g := Ent.loseRow) fun _ => rfl, List.getElem?_map]
  cases he : q.top[k]? with
  | none => rfl
  | some e => simp [mem_rowless, he]

theorem doPayloadExpiry_of_query {s : State} {qid : Nat} {q : Query} (hq : s.query? qid = some q) (hlive : s.live = true) :
    doPayloadExpiry qid s = if q.stage == .gathering && decide (q.gatherAt + q.fetchWait < s.hfn) && !q.rowless.isEmpty then
        settleGather qid (modScan (fun x => { x with fetchLate := true }) (q.rowless.foldl (fun s i => loseRow qid i .timeout s) s))
      else s := by
  unfold doPayloadExpiry
  rw [hq]
  dsimp only
  rw [hlive, Bool.true_and]
  rfl

/-! ## The final merge -/

/-- A status of a list of which every one is OK. -/
theorem firstStatus_of_ok {xs : List Status} (h : ∀ x ∈ xs, x = .ok) : firstStatus xs = .ok := by
  unfold firstStatus
  cases hf : statusOrder.find? xs.contains with
  | none => rfl
  | some st => exact h st (by simpa using List.find?_some hf)

theorem length_statusRecord (st : Status) (flags nRes nWr nLost tieOut epoch snap ckptBack visBack : Nat) :
    (statusRecord st flags nRes nWr nLost tieOut epoch snap ckptBack visBack).length = 32 := by
  simp [statusRecord, length_leBytes, zeros]

theorem code_lt (st : Status) : st.code < 256 := by cases st <;> decide

theorem statusRecord_code (st : Status) (flags nRes nWr nLost tieOut epoch snap ckptBack visBack : Nat) :
    field (statusRecord st flags nRes nWr nLost tieOut epoch snap ckptBack visBack) 0 1 = st.code := by
  have h := field_of_parts (bs := statusRecord st flags nRes nWr nLost tieOut epoch snap ckptBack visBack) (a := []) (n := 1) (v := st.code)
    (by simp only [statusRecord, List.append_assoc, List.nil_append]; rfl)
  exact h.trans (Nat.mod_eq_of_lt (code_lt st))

theorem statusRecord_nRes (st : Status) (flags nRes nWr nLost tieOut epoch snap ckptBack visBack : Nat) :
    field (statusRecord st flags nRes nWr nLost tieOut epoch snap ckptBack visBack) 4 2 = nRes % 65536 := by
  have h := field_of_parts (bs := statusRecord st flags nRes nWr nLost tieOut epoch snap ckptBack visBack)
    (a := leBytes 1 st.code ++ (zeros 1 ++ leBytes 2 flags)) (n := 2) (v := nRes)
    (by simp only [statusRecord, List.append_assoc]; rfl)
  exact h

theorem hostWrite_of_up {s : State} {f : Fn} (a : Nat) (bs : List Byte) (h : s.fnUp f = true) :
    hostWrite f a bs s = emit (.write f a bs .snooped) s := if_pos h

/-- A query that finishes with something in its buffer writes the buffer, then its status record (R128 to R132). -/
theorem finishQuery_out {w : Work} {q : Query} {top : List Ent} {tieOut m : Nat} {cut : Bool} {bs : List Byte} {s : State}
    (hup : s.fnUp w.fn = true) (hres : resultBytes q (fld (s.corpus q.pv).corpusCfg 13 8 * 64) top tieOut = (bs, m, cut)) (hne : bs ≠ []) :
    ∃ r rest, r.length = 32 ∧ field r 0 1 = (firstStatus (q.bad ++ q.parts.map (·.st) ++ (if cut then [.trunc] else []) ++
        (if decide (top.length < q.q.k) then [.short] else []))).code ∧ field r 4 2 = top.length % 65536 ∧
      (finishQuery w q top tieOut s).out = s.out ++ [.write w.fn q.q.bufAddr bs .snooped,
        .write w.fn (field w.desc 24 8 + 32 * q.idx) r .snooped] ++ rest := by
  unfold finishQuery
  extract_lets rs
  rw [show resultBytes q rs top tieOut = (bs, m, cut) from hres]
  dsimp -zeta only
  extract_lets
  rename_i short cks viss kth tie fl lost ck st vb s1 s2 s3 s4
  have h1 : s1 = emit (.write w.fn q.q.bufAddr bs .snooped) s := (if_neg hne).trans (hostWrite_of_up _ _ hup)
  have hup1 : s1.fnUp w.fn = true := h1 ▸ hup
  have h2 : s2.out = s1.out ++ [.write w.fn (field w.desc 24 8 + 32 * q.idx) (statusRecord st fl top.length m lost tieOut q.epoch q.snapshot ck vb)
      .snooped] := congrArg State.out (hostWrite_of_up _ _ hup1)
  have h3 : s3.out = s2.out := (count_keeps ..).out
  have h5 : OutGrows s4 (settleSearch q.work (freeElems q.pv s4)) :=
    (OutGrows.of_eq (freeElems_keeps ..).out).trans (OutGrows.settleSearch ..)
  obtain ⟨rest, hrest⟩ := h5
  refine ⟨statusRecord st fl top.length m lost tieOut q.epoch q.snapshot ck vb, rest, length_statusRecord .., statusRecord_code .., statusRecord_nRes .., ?_⟩
  rw [hrest, show s4.out = s3.out from rfl, h3, h2, h1]
  simp [emit]

/-! ## Another round -/

theorem mem_dedupKeep {α : Type} [BEq α] {a : α} {xs : List α} : a ∈ dedupKeep xs → a ∈ xs := by
  have hgen (acc : List α) : a ∈ xs.foldl (fun acc x => if acc.contains x then acc else acc ++ [x]) acc → a ∈ acc ∨ a ∈ xs := by
    induction xs generalizing acc with
    | nil => exact .inl
    | cons x xs ih =>
      intro h
      rcases ih _ h with h | h
      · dsimp only at h
        split at h
        · exact .inl h
        · rcases List.mem_append.1 h with h | h
          · exact .inl h
          · exact .inr (by simp [List.mem_singleton.1 h])
      · exact .inr (List.mem_cons_of_mem _ h)
  exact fun h => (hgen [] h).resolve_left List.not_mem_nil

/-- Plots that all go to one node make no message to another. -/
theorem byServer_of_one {rs : List (Nat × Route)} {n : Nat} (h : ∀ x ∈ rs, x.2 = .to n) : (byServer rs).filter (fun x => x.1 != n) = [] := by
  refine List.filter_eq_nil_iff.2 fun x hx => ?_
  obtain ⟨m, hm, rfl⟩ := List.mem_map.1 hx
  obtain ⟨y, hy, hroute⟩ := List.mem_filterMap.1 (mem_dedupKeep hm)
  rw [h y hy] at hroute
  simp [Option.some.inj hroute]

/-- A query that waits for scan batches of this node alone. -/
def Query.routedHere (rs : List (Nat × Route)) (plots : List Nat) (quads : Nat → List Nat) (q : Query) : Query :=
  { q.noteGone rs with plots := plots, toJoin := quads q.pv, stage := .routed }

/-- A round whose plots are all this node's waits for its scan batches here (R118, R371). -/
theorem routeRound_of_own {s : State} {qid : Nat} {q : Query} {plots : List Nat} (hq : s.query? qid = some q) (hsweep : q.q.sweep = false)
    (hne : plots ≠ []) (hown : ∀ k ∈ plots, routePlot s.comp.map qid q.pv k = .to s.node) :
    ∃ rs quads, (routeRound qid plots s).query? qid = some (q.routedHere rs plots quads) ∧ (routeRound qid plots s).works = s.works ∧
      (routeRound qid plots s).out = s.out ∧ (routeRound qid plots s).scan.taUse = s.scan.taUse ∧ ∀ x ∈ rs, x.2 = .to s.node := by
  have hid : q.id = qid := id_of_query? hq
  have hroutes : ∀ x ∈ plots.map (fun k => (k, routePlot s.comp.map q.id q.pv k)), x.2 = .to s.node := by
    rw [hid]
    intro x hx
    obtain ⟨k, hk, rfl⟩ := List.mem_map.1 hx
    exact hown k hk
  have hmine : ((plots.map (fun k => (k, routePlot s.comp.map q.id q.pv k))).filter fun x => x.2 == .to s.node).map (·.1) = plots := by
    rw [List.filter_eq_self.2 fun x hx => by simp [hroutes x hx], List.map_map]
    exact List.map_id'' (fun _ => rfl) _
  have hempty : plots.isEmpty = false := by simpa using hne
  have hfix : (fixQuads q.pv plots s).query? qid = some q := (query?_congr (congrArg Scan.queries (fixQuads_keeps ..).scan) qid).trans hq
  have hta := congrArg Scan.taUse (fixQuads_keeps q.pv plots s).scan
  have hset := query?_modQuery (g := Query.routedHere (plots.map fun k => (k, routePlot s.comp.map q.id q.pv k)) plots
    (fun pv => (fixQuads q.pv plots s).quadsFor pv plots)) (fun _ => rfl) hfix
  unfold routeRound
  rw [hq]
  dsimp only
  simp only [hsweep, Bool.false_eq_true, if_false, byServer_of_one hroutes, hmine, List.map_nil, hempty]
  refine ⟨plots.map fun k => (k, routePlot s.comp.map q.id q.pv k), fun pv => (fixQuads q.pv plots s).quadsFor pv plots, ?_, (fixQuads_keeps ..).works,
    (fixQuads_keeps ..).out, hta, hid ▸ hroutes⟩
  exact hset

/-! ## Assembly -/

theorem resultBytes_cut (q : Query) (rs : Nat) (top : List Ent) (tieOut : Nat) :
    (resultBytes q rs top tieOut).2.2 = !decide (extent q.q.payWant rs q.q.k top.length ≤ q.q.bufLen) := by
  unfold resultBytes
  dsimp only
  split <;> rfl

/-- The state in which a final merge finds its parts, with its duplicates counted. -/
def State.deduped (q : Query) (s : State) : State :=
  if (mergeParts q).2.1 = 0 then s else count (some q.pv) 2 1 (mergeParts q).2.1 s

theorem deduped_parts (q : Query) (s : State) : s.deduped q = { s with stats := (s.deduped q).stats, pvStats := (s.deduped q).pvStats } := by
  unfold State.deduped
  split
  · rfl
  · exact count_parts ..

theorem deduped_keeps (q : Query) (s : State) : Keeps [.stats, .pvStats] s (s.deduped q) := .ite (.refl _ _) (count_keeps ..)

/-- A query that notes whether its merge found duplicates. -/
def Query.deduping (q : Query) : Query := { q with deduped := q.deduped || decide (0 < (mergeParts q).2.1) }

/-- A query that goes round again (R118). -/
def Query.widened (d : Bool) (more : List Nat) (now : Frame) (q : Query) : Query :=
  { q with deduped := d, order := q.order.drop more.length, widenLeft := q.widenLeft - more.length, rounds := q.rounds + 1, cands := [],
           top := [], l2 := [], tieOut := 0, nLost := 0, arrived := now }

theorem doFinal_of_query {s : State} {qid : Nat} {q : Query} (hq : s.query? qid = some q) (hlive : s.live = true) (horigin : q.origin = none) :
    doFinal qid s = if q.stage == .localDone && q.awaitNodes.isEmpty then
        if (mergeParts q).1.length < q.q.k && q.widenEn && !q.q.sweep && !(nextRound q).isEmpty then
          routeRound qid (nextRound q)
            (count (some q.pv) 2 8 1 (modQuery qid (Query.widened q.deduping.deduped (nextRound q) (s.deduped q).hfn) (s.deduped q)))
        else match (s.deduped q).work q.work with
          | some w => finishQuery w q.deduping (mergeParts q).1 (mergeParts q).2.2 (s.deduped q)
          | none => dropQuery qid (s.deduped q)
      else s := by
  unfold doFinal
  rw [hq]
  dsimp only
  rw [hlive, horigin] <;> rfl

/-- A query with k entries and nothing lost writes its buffer and an OK record. -/
theorem doFinal_of_full {s : State} {qid : Nat} {q : Query} {w : Work} (hq : s.query? qid = some q) (hlive : s.live = true)
    (horigin : q.origin = none) (hstage : q.stage = .localDone) (hawait : q.awaitNodes = []) (hw : s.work q.work = some w)
    (hup : s.fnUp w.fn = true) (hk : (mergeParts q).1.length = q.q.k) (hbad : q.bad = []) (hparts : ∀ x ∈ q.parts, x.st = .ok)
    (hroom : extent q.q.payWant (fld (s.corpus q.pv).corpusCfg 13 8 * 64) q.q.k q.q.k ≤ q.q.bufLen)
    (hne : (resultBytes q (fld (s.corpus q.pv).corpusCfg 13 8 * 64) (mergeParts q).1 (mergeParts q).2.2).1 ≠ []) :
    ∃ r rest, r.length = 32 ∧ field r 0 1 = Status.ok.code ∧ field r 4 2 = q.q.k % 65536 ∧
      (doFinal qid s).out = s.out ++ [.write w.fn q.q.bufAddr
        (resultBytes q (fld (s.corpus q.pv).corpusCfg 13 8 * 64) (mergeParts q).1 (mergeParts q).2.2).1 .snooped,
        .write w.fn (field w.desc 24 8 + 32 * q.idx) r .snooped] ++ rest := by
  have hdo : doFinal qid s = finishQuery w q.deduping (mergeParts q).1 (mergeParts q).2.2 (s.deduped q) := by
    have hw' : (s.deduped q).work q.work = some w := by rw [deduped_parts]; exact hw
    rw [doFinal_of_query hq hlive horigin, hstage, hawait, hk, hw', decide_eq_false (Nat.lt_irrefl _)]
    rfl
  have hcut := resultBytes_cut q (fld (s.corpus q.pv).corpusCfg 13 8 * 64) (mergeParts q).1 (mergeParts q).2.2
  rw [hk, decide_eq_true hroom, Bool.not_true] at hcut
  have hup' : (s.deduped q).fnUp w.fn = true := by rw [deduped_parts]; exact hup
  have hcorpus : (s.deduped q).corpus q.pv = s.corpus q.pv := by rw [deduped_parts]; rfl
  have hout : (s.deduped q).out = s.out := by rw [deduped_parts]
  obtain ⟨r, rest, hlen, hcode, hn, ho⟩ := finishQuery_out (q := q.deduping) (top := (mergeParts q).1) (tieOut := (mergeParts q).2.2)
    (m := (resultBytes q (fld (s.corpus q.pv).corpusCfg 13 8 * 64) (mergeParts q).1 (mergeParts q).2.2).2.1) (cut := false) hup'
    (by rw [show q.deduping.pv = q.pv from rfl, hcorpus, ← hcut]; rfl) hne
  have hok : firstStatus (q.deduping.bad ++ q.deduping.parts.map (·.st) ++ (if false then [.trunc] else []) ++
      (if decide ((mergeParts q).1.length < q.deduping.q.k) then [.short] else [])) = .ok := by
    refine firstStatus_of_ok fun x hx => ?_
    rw [show q.deduping.bad = [] from hbad, hk, show q.deduping.q.k = q.q.k from rfl, decide_eq_false (Nat.lt_irrefl _)] at hx
    obtain ⟨p, hp, rfl⟩ : ∃ p ∈ q.parts, p.st = x := by simpa [Query.deduping] using hx
    exact hparts p hp
  rw [hok] at hcode
  rw [hk] at hn
  exact ⟨r, rest, hlen, hcode, hn, by rw [hdo, ho, hout]; rfl⟩

/-- A query with fewer entries than k and plots left goes round again (R118). -/
theorem doFinal_of_short {s : State} {qid : Nat} {q : Query} (hq : s.query? qid = some q) (hlive : s.live = true)
    (horigin : q.origin = none) (hstage : q.stage = .localDone) (hawait : q.awaitNodes = []) (hk : (mergeParts q).1.length < q.q.k)
    (hwiden : q.widenEn = true) (hsweep : q.q.sweep = false) (hmore : nextRound q ≠ [])
    (hown : ∀ k ∈ nextRound q, routePlot s.comp.map qid q.pv k = .to s.node) :
    ∃ rs quads, (doFinal qid s).query? qid =
        some ((q.widened q.deduping.deduped (nextRound q) (s.deduped q).hfn).routedHere rs (nextRound q) quads) ∧
      (doFinal qid s).works = s.works ∧ (doFinal qid s).out = s.out := by
  have hempty : (nextRound q).isEmpty = false := by simpa using hmore
  rw [doFinal_of_query hq hlive horigin, hstage, hawait, hsweep, hempty, hwiden, decide_eq_true hk]
  have hq' : (s.deduped q).query? qid = some q := by rw [deduped_parts]; exact hq
  have hset := query?_modQuery (g := Query.widened q.deduping.deduped (nextRound q) (s.deduped q).hfn) (fun _ => rfl) hq'
  have hround := routeRound_of_own (plots := nextRound q)
    (s := count (some q.pv) 2 8 1 (modQuery qid (Query.widened q.deduping.deduped (nextRound q) (s.deduped q).hfn) (s.deduped q)))
    ((query?_congr (congrArg Scan.queries (count_keeps ..).scan) qid).trans hset) hsweep hmore
    (by rw [count_parts, deduped_parts]; exact hown)
  obtain ⟨rs, quads, hquery, hworks, hout, -⟩ := hround
  refine ⟨rs, quads, hquery, hworks.trans ?_, hout.trans ?_⟩
  · exact (count_keeps ..).works.trans ((modQuery_keeps ..).works.trans (deduped_keeps q s).works)
  · exact (count_keeps ..).out.trans ((modQuery_keeps ..).out.trans (deduped_keeps q s).out)

theorem doFinal_of_excluded {s : State} {qid : Nat} {q : Query} (hq : s.query? qid = some q) (hlive : s.live = true)
    (horigin : q.origin = none) (h : q.stage ≠ .localDone ∨ q.awaitNodes ≠ []) : doFinal qid s = s := by
  rw [doFinal_of_query hq hlive horigin]
  refine if_neg ?_
  rcases h with h | h <;> simp [h]

/-- A PARTIAL that is late is given up (R307, R337). -/
theorem doPartialExpiry_of_query {s : State} {qid : Nat} {q : Query} (hq : s.query? qid = some q) (hlive : s.live = true)
    (horigin : q.origin = none) :
    doPartialExpiry qid s = if !q.stage.over && q.awaitNodes.any fun r => decide (r.sentAt + 2 * q.fetchWait < s.hfn) then
        modQuery qid (fun x => { x with awaitNodes := x.awaitNodes.filter fun r => !decide (r.sentAt + 2 * q.fetchWait < s.hfn),
                                        bad := x.bad ++ [.timeout] }) s
      else s := by
  unfold doPartialExpiry
  rw [hq]
  dsimp only
  rw [hlive, horigin] <;> rfl

/-- The rows that have not come are marked, and the part is complete without them (R127). -/
theorem doPayloadExpiry_of_late {s : State} {qid : Nat} {q : Query} (hq : s.query? qid = some q) (hlive : s.live = true)
    (horigin : q.origin = none) (hstage : q.stage = .gathering) (hlate : q.gatherAt + q.fetchWait < s.hfn) (hrow : ∃ e ∈ q.top, e.row = none) :
    ∃ q' x, (doPayloadExpiry qid s).query? qid = some q' ∧ (doPayloadExpiry qid s).scan.fetchLate = true ∧ q'.stage = .localDone ∧
      q'.parts = q.parts ++ [x] ∧ x.ents = q.top.map (fun e => if e.row.isNone then { e with payErr := true, row := some [] } else e) ∧
      (doPayloadExpiry qid s).works = s.works ∧ (doPayloadExpiry qid s).out = s.out := by
  obtain ⟨e, he, hnone⟩ := hrow
  obtain ⟨i, hi⟩ := List.getElem?_of_mem he
  have hmem : i ∈ q.rowless := mem_rowless.2 ⟨e, hi, by rw [hnone]; rfl⟩
  have hempty : q.rowless.isEmpty = false := by simpa using List.ne_nil_of_mem hmem
  have hlost := query?_foldl_loseRow (st := .timeout) q.rowless hq
  rw [lose_rowless] at hlost
  have hkeeps : Keeps [.scan] s (q.rowless.foldl (fun s i => loseRow qid i .timeout s) s) :=
    Keeps.foldl (.refl _ _) fun t i => loseRow_keeps qid i .timeout t
  have hdo := doPayloadExpiry_of_query hq hlive
  rw [if_pos (by rw [hstage, decide_eq_true hlate, hempty]; rfl)] at hdo
  generalize (q.rowless.foldl (fun s i => loseRow qid i .timeout s) s) = t at hdo hlost hkeeps
  have hsettle := settleGather_of_there (s := modScan (fun x => { x with fetchLate := true }) t) (qid := qid) hlost horigin hstage
    (by
      intro a ha
      obtain ⟨b, -, rfl⟩ := List.mem_map.1 ha
      cases hb : b.row with
      | none => rfl
      | some r => simp [hb])
  have hfin := query?_modQuery (s := modScan (fun x => { x with fetchLate := true }) t)
    (g := fun q => q.atHome (modScan (fun x => { x with fetchLate := true }) t).node) (fun _ => rfl) hlost
  rw [hdo, hsettle]
  exact ⟨_, _, hfin, rfl, rfl, rfl, rfl, hkeeps.works, hkeeps.out⟩

/-- Settles O21: a top k of exact candidates is formed and complete at once; the expiries and the merge by the query they find. -/
theorem topKAndMerge : Obligations.TopKAndMerge := by
  unfold Obligations.TopKAndMerge
  refine ⟨fun s qid q hq hlive horigin => ⟨?_, ?_, ?_, ?_⟩, fun s qid q hq hlive horigin => ⟨?_, ?_, ?_, ?_, ?_⟩⟩
  · intro hstage hexact hscorer hpay ok
    have hdo := doTopk_of_exact ok hq hlive horigin hstage (allExact_iff.2 hexact) hscorer hpay
    have hformed := query?_modQuery (s := s) (g := fun q' => { q' with
        top := (q.bestK false).1, kth := (q.bestK false).2.1, tieOut := (q.bestK false).2.2, stage := .gathering, gatherAt := s.hfn })
      (fun _ => rfl) hq
    have hhome := query?_modQuery (g := fun q => q.atHome s.node) (fun _ => rfl) hformed
    exact ⟨_, _, _, congrArg Host.Outcome.next hdo, hhome, rfl, rfl, rfl, rfl, rfl, rfl, rfl, rfl⟩
  · exact fun h ok => congrArg Host.Outcome.next (doTopk_of_excluded ok hq h)
  · intro hstage hlate hrow
    obtain ⟨q', x, h⟩ := doPayloadExpiry_of_late hq hlive horigin hstage hlate hrow
    exact ⟨_, q', x, rfl, h⟩
  · intro h
    refine congrArg Host.Outcome.next ((doPayloadExpiry_of_query hq hlive).trans (if_neg ?_))
    rcases h with h | h | h
    · simp [h]
    · simp [Nat.not_lt.2 h]
    · have hnil : q.rowless = [] := List.eq_nil_iff_forall_not_mem.2 fun i hi => by
        obtain ⟨e, he, hnone⟩ := mem_rowless.1 hi
        exact h e (List.mem_of_getElem? he) (Option.isNone_iff_eq_none.1 hnone)
      simp [hnil]
  · intro w hstage hawait hw hup hk _ hbad hparts hroom hne
    obtain ⟨r, rest, h⟩ := doFinal_of_full hq hlive horigin hstage hawait hw hup hk hbad hparts hroom hne
    exact ⟨_, r, rest, rfl, h⟩
  · intro hstage hawait hk hwiden hsweep hmore hown
    obtain ⟨rs, quads, hquery, hworks, hout⟩ := doFinal_of_short hq hlive horigin hstage hawait hk hwiden hsweep hmore hown
    exact ⟨_, _, rfl, hquery, rfl, rfl, rfl, rfl, rfl, rfl, rfl, hworks, hout⟩
  · exact fun h => congrArg Host.Outcome.next (doFinal_of_excluded hq hlive horigin h)
  · rintro hover ⟨r, hr, hlate⟩
    have hdo := (doPartialExpiry_of_query hq hlive horigin).trans (if_pos (by
      rw [hover, Bool.not_false, Bool.true_and]
      exact List.any_eq_true.2 ⟨r, hr, decide_eq_true hlate⟩))
    refine ⟨_, _, congrArg Host.Outcome.next hdo, query?_modQuery (g := fun x => { x with
      awaitNodes := x.awaitNodes.filter fun r => !decide (r.sentAt + 2 * q.fetchWait < s.hfn), bad := x.bad ++ [.timeout] }) (fun _ => rfl) hq,
      rfl, rfl⟩
  · intro h
    refine congrArg Host.Outcome.next ((doPartialExpiry_of_query hq hlive horigin).trans (if_neg ?_))
    rw [show (q.awaitNodes.any fun r => decide (r.sentAt + 2 * q.fetchWait < s.hfn)) = false from
      List.any_eq_false.2 fun r hr => by simpa using h r hr, Bool.and_false]
    exact Bool.false_ne_true

end Sys2Proof.Machine

/-! ## Search descriptors and their admission (R31, R44, R186, R277, R297, R304 to R308) -/

namespace Sys2Proof.Machine
-- The whole text is compiled by one process of limited memory: one proof at a time keeps it small.
set_option Elab.async false

/-! ## Work items -/

/-- A work item that completes leaves the list; no other does. -/
theorem complete_works (w : Work) (st : Status) (flags : Nat) (spec : List Byte) (s : State) :
    (complete w st flags spec s).works = s.works.filter fun x => x.id != w.id := by
  unfold complete
  extract_lets s1 s2 x
  have h2 : s2.works = s1.works := (modRing_keeps ..).works
  clear_value s2
  split
  · exact (modRing_keeps ..).works.trans h2
  · exact (settleHalt_keeps ..).works.trans ((putCq_keeps ..).works.trans h2)

theorem work_complete (w : Work) (st : Status) (flags : Nat) (spec : List Byte) (s : State) : (complete w st flags spec s).work w.id = none := by
  unfold State.work
  rw [complete_works]
  simp

theorem id_of_work {s : State} {wid : Nat} {w : Work} (h : s.work wid = some w) : w.id = wid := by
  simpa using List.find?_some h

theorem work_modWork {s : State} {wid : Nat} {w : Work} {g : Work → Work} (hg : ∀ x, (g x).id = x.id) (h : s.work wid = some w) :
    (modWork wid g s).work wid = some (g w) := by
  have hfind := find?_mapIf (·.id == wid) (·.id == wid) g (fun x => by rw [hg]) s.works
  refine hfind.trans ?_
  rw [show s.works.find? (·.id == wid) = some w from h]
  simp [id_of_work h]

theorem work_congr {s t : State} (h : t.works = s.works) (wid : Nat) : t.work wid = s.work wid := congrArg (List.find? _) h

/-! ## Queries of a work item -/

theorem mem_queriesOf {s : State} {wid : Nat} {q : Query} :
    q ∈ s.queriesOf wid ↔ q ∈ s.scan.queries ∧ q.work = wid ∧ q.origin = none := by
  simp [State.queriesOf, mem_sortBy]

/-- A descriptor with a query that has still to finish stays (R307). -/
theorem settleSearch_of_open {s : State} {wid : Nat} {q : Query} (hq : q ∈ s.scan.queries) (hwork : q.work = wid) (horigin : q.origin = none)
    (hopen : q.stage.over = false) : settleSearch wid s = s := by
  unfold settleSearch
  split
  · rfl
  · refine if_neg fun hall => ?_
    have := List.all_eq_true.1 hall q (mem_queriesOf.2 ⟨hq, hwork, horigin⟩)
    rw [hopen] at this
    cases this

theorem writeInvalid_works (w : Work) (s : State) (q : Query) : (writeInvalid w s q).works = s.works := by
  unfold writeInvalid
  split
  · exact (hostWrite_keeps ..).works.trans (count_keeps ..).works
  · rfl

theorem writeInvalid_scan (w : Work) (s : State) (q : Query) : (writeInvalid w s q).scan = s.scan := by
  unfold writeInvalid
  split
  · exact (hostWrite_keeps ..).scan.trans (count_keeps ..).scan
  · rfl

/-- A descriptor whose queries have all finished completes, and its queries go (R307, R308). -/
theorem settleSearch_of_over {s : State} {wid : Nat} {w : Work} (hw : s.work wid = some w)
    (hall : ∀ q ∈ s.scan.queries, q.work = wid → q.origin = none → q.stage.over = true) :
    (settleSearch wid s).work wid = none ∧
      (settleSearch wid s).scan.queries = s.scan.queries.filter fun q => !(q.work == wid && q.origin.isNone) := by
  have hover : ((s.queriesOf wid).all fun q => q.stage.over) = true :=
    List.all_eq_true.2 fun q hq => by
      obtain ⟨hmem, hwork, horigin⟩ := mem_queriesOf.1 hq
      exact hall q hmem hwork horigin
  have hscan : ((s.queriesOf wid).foldl (writeInvalid w) s).scan = s.scan :=
    foldl_same State.scan (fun t q => writeInvalid_scan w t q) _ _
  unfold settleSearch
  rw [hw]
  dsimp only
  rw [if_pos hover]
  refine ⟨?_, ?_⟩
  · have h := work_complete w
    rw [id_of_work hw] at h
    exact h ..
  · refine (congrArg Scan.queries (complete_keeps ..).scan).trans ?_
    exact congrArg (fun x => x.queries.filter fun q => !(q.work == wid && q.origin.isNone)) hscan

/-! ## Records that become queries -/

/-- The stage of a query whose record has been checked. -/
def QStage.ofCheck (r : Option Status) : QStage := match r with | some st => .invalid st | none => .valid

/-- What a record of a search descriptor becomes. -/
structure FromRecord (w : Work) (b : Bundle) (check : Option Status) (x : List Byte × Nat) (q : Query) : Prop where
  work : q.work = w.id
  origin : q.origin = none
  pv : q.pv = pvOf w.fn
  idx : q.idx = x.2
  epoch : q.epoch = b.epoch
  record : q.q = readQRec x.1
  stage : q.stage = QStage.ofCheck check

theorem noteGather_cfg (p n k : Nat) (s : State) : ((noteGather p n s).corpus k).corpusCfg = (s.corpus k).corpusCfg := by
  unfold noteGather
  split
  · rfl
  · rw [count_parts]
    exact getD_modifyAt_congr (fun c : Corpus => c.corpusCfg) (g := fun c => { c with gatherRange := true }) (fun _ => rfl) s.corpora p k Corpus.reset

theorem takeRecord_cfg (w : Work) (b : Bundle) (s : State) (x : List Byte × Nat) (k : Nat) :
    ((takeRecord w b s x).corpus k).corpusCfg = (s.corpus k).corpusCfg := noteGather_cfg ..

theorem recordCheck_congr {s t : State} (w : Work) (b : Bundle) (bs : List Byte)
    (h : (t.corpus (pvOf w.fn)).corpusCfg = (s.corpus (pvOf w.fn)).corpusCfg) : t.recordCheck w b bs = s.recordCheck w b bs := by
  unfold State.recordCheck qctx
  rw [h]

theorem takeRecord_query (w : Work) (b : Bundle) (s : State) (x : List Byte × Nat) :
    ∃ q, (takeRecord w b s x).scan.queries = s.scan.queries ++ [q] ∧ FromRecord w b (s.recordCheck w b x.1) x q := by
  have hscan (p n : Nat) : (noteGather p n (fresh s).2).scan = s.scan := (noteGather_keeps ..).scan
  unfold takeRecord State.recordCheck
  dsimp only
  generalize hin : (if qLenOk (qctx b (s.corpus (pvOf w.fn))) (dQStride w.desc) (readQRec x.1) then queryVec b (readQRec x.1) else ([], 0)) = input
  have hvec : (if qLenOk (qctx b (s.corpus (pvOf w.fn))) (dQStride w.desc) (readQRec x.1) then (queryVec b (readQRec x.1)).1 else []) =
      input.1 := by
    rw [← hin]
    split <;> rfl
  rw [hvec]
  refine ⟨_, congrArg (fun z : Scan => z.queries ++ [_]) (hscan _ _), ?_⟩
  constructor <;> rfl

/-- The records of a descriptor become its queries, in order. -/
theorem foldl_takeRecord (w : Work) (b : Bundle) (xs : List (List Byte × Nat)) (s : State) :
    ∃ qs, (xs.foldl (takeRecord w b) s).scan.queries = s.scan.queries ++ qs ∧
      qs.map (·.idx) = xs.map (·.2) ∧ ∀ q ∈ qs, ∃ x ∈ xs, FromRecord w b (s.recordCheck w b x.1) x q := by
  induction xs generalizing s with
  | nil => exact ⟨[], by simp, rfl, by simp⟩
  | cons x xs ih =>
    obtain ⟨q, hq, hrec⟩ := takeRecord_query w b s x
    obtain ⟨qs, hqs, hidx, hall⟩ := ih (takeRecord w b s x)
    refine ⟨q :: qs, by rw [List.foldl_cons, hqs, hq, List.append_assoc]; rfl, by rw [List.map_cons, List.map_cons, hidx, hrec.idx], ?_⟩
    intro z hz
    rcases List.mem_cons.1 hz with rfl | hz
    · exact ⟨x, List.mem_cons_self, hrec⟩
    · obtain ⟨y, hy, h⟩ := hall z hz
      rw [recordCheck_congr w b y.1 (takeRecord_cfg ..)] at h
      exact ⟨y, List.mem_cons_of_mem _ hy, h⟩

/-- The records of a descriptor, each with its number. -/
def recordsOf (w : Work) (rs : List (List Byte)) : List (List Byte × Nat) := (List.range (dCount w.desc)).map fun i => (rs.getD i [], i)

theorem mem_recordsOf {w : Work} {rs : List (List Byte)} {x : List Byte × Nat} :
    x ∈ recordsOf w rs ↔ x.2 < dCount w.desc ∧ x.1 = rs.getD x.2 [] := by
  unfold recordsOf
  rw [List.mem_map]
  constructor
  · rintro ⟨i, hi, rfl⟩
    exact ⟨List.mem_range.1 hi, rfl⟩
  · rintro ⟨hlt, hrec⟩
    exact ⟨x.2, List.mem_range.2 hlt, by rw [← hrec]⟩

/-- A search descriptor whose records are to be taken: fetched, of a VF, of this opcode. -/
def State.fetchedSearch (s : State) (op : Nat) (w : Work) : Prop := s.live = true ∧ w.stage = .fetched ∧ dOp w.desc = op ∧ w.fn.val ≠ 0

/-- A work item waits. -/
def State.waits_ (s : State) (wid : Nat) : State := modWork wid (fun w => { w with stage := .waiting }) s

theorem doSearch_of_fetched {s : State} {op wid : Nat} {w : Work} (recs : Option (List (List Byte))) (hw : s.work wid = some w)
    (h : s.fetchedSearch op w) :
    doSearch op wid recs s = match recs with
      | none => failWork w .badAddress (s.readsRecords w)
      | some rs => if !s.composed (pvOf w.fn) then failWork w .quota (s.readsRecords w)
          else match searchEpoch s (pvOf w.fn) (dEpoch w.desc) with
            | .inl st => failWork w st (s.readsRecords w)
            | .inr b => settleSearch wid ((recordsOf w rs).foldl (takeRecord w b) ((s.readsRecords w).waits_ wid)) := by
  obtain ⟨hlive, hstage, hop, hfn⟩ := h
  have hfn' : (w.fn.val != 0) = true := bne_iff_ne.2 hfn
  unfold doSearch
  rw [hw]
  dsimp only
  rw [hlive, hstage, hop, hfn', if_pos (by simp), hostRead_eq] <;> rfl

theorem doSearch_of_other {s : State} {op wid : Nat} {w : Work} (recs : Option (List (List Byte))) (hw : s.work wid = some w)
    (h : s.live = false ∨ w.stage ≠ .fetched ∨ dOp w.desc ≠ op) : doSearch op wid recs s = s := by
  unfold doSearch
  rw [hw]
  refine if_neg ?_
  rcases h with h | h | h <;> simp [h]

/-- What the records of a descriptor become, all together (R305). -/
theorem takeRecords (s : State) (wid : Nat) (w : Work) (b : Bundle) (rs : List (List Byte)) (hid : w.id = wid) :
    ∃ t qs, (recordsOf w rs).foldl (takeRecord w b) ((s.readsRecords w).waits_ wid) = t ∧ t.scan.queries = s.scan.queries ++ qs ∧
      qs.map (·.idx) = List.range (dCount w.desc) ∧
      (∀ q ∈ qs, q.origin = none ∧ q.work = wid ∧ q.pv = pvOf w.fn ∧ q.epoch = b.epoch ∧ q.q = readQRec (rs.getD q.idx []) ∧
        q.stage = QStage.ofCheck (s.recordCheck w b (rs.getD q.idx []))) ∧
      t.works = mapIf (fun y => y.id == wid) (fun y => { y with stage := .waiting }) s.works ∧ t.out = (s.readsRecords w).out := by
  have hkeeps : Keeps [.nextId, .stats, .pvStats, .corpora, .scan] ((s.readsRecords w).waits_ wid)
      ((recordsOf w rs).foldl (takeRecord w b) ((s.readsRecords w).waits_ wid)) := .foldl (.refl _ _) fun t x => takeRecord_keeps ..
  obtain ⟨qs, hqs, hidx, hall⟩ := foldl_takeRecord w b (recordsOf w rs) ((s.readsRecords w).waits_ wid)
  refine ⟨_, qs, rfl, hqs, ?_, fun q hq => ?_, hkeeps.works, hkeeps.out⟩
  · rw [hidx, recordsOf, List.map_map]
    exact List.map_id'' (fun _ => rfl) _
  · obtain ⟨x, hx, h⟩ := hall q hq
    obtain ⟨-, hrec⟩ := mem_recordsOf.1 hx
    rw [← h.idx] at hrec
    rw [← hrec]
    exact ⟨h.origin, h.work.trans hid, h.pv, h.epoch, h.record, h.stage⟩

theorem over_ofCheck (r : Option Status) : (QStage.ofCheck r).over = true ↔ r ≠ none := by
  cases r <;> simp [QStage.ofCheck, QStage.over]

/-! ## Admission -/

theorem mapIf_of_fix {α : Type} {p : α → Bool} {g : α → α} {xs : List α} (h : ∀ x ∈ xs, p x = true → g x = x) : mapIf p g xs = xs := by
  unfold mapIf
  refine (List.map_congr_left fun x hx => ?_).trans (List.map_id _)
  split
  · next hp => exact h x hx hp
  · rfl

theorem mem_mapIf {α : Type} {p : α → Bool} {g : α → α} {xs : List α} {y : α} :
    y ∈ mapIf p g xs ↔ ∃ x ∈ xs, (if p x then g x else x) = y := List.mem_map

/-- A query is one of the descriptor's own. -/
def Query.ownOf (wid : Nat) (q : Query) : Bool := q.work == wid && q.origin.isNone

theorem ownOf_iff {wid : Nat} {q : Query} : q.ownOf wid = true ↔ q.work = wid ∧ q.origin = none := by simp [Query.ownOf]

/-- Admission of queries is open for a descriptor, as the model computes it. -/
def State.openFor (s : State) (w : Work) : Bool := s.admits && !s.pvInReset (pvOf w.fn) && !s.suspended &&
  (match (s.corpus (pvOf w.fn)).rstate with | .confirmed => true | .provisional => w.prov | .loading => false)

theorem openFor_of_opens {s : State} {w : Work} (h : s.opensQueries w) : s.openFor w = true := by
  obtain ⟨hadm, hreset, hsusp, hstate⟩ := h
  unfold State.openFor
  rw [hadm, hreset, hsusp]
  rcases hstate with h | ⟨h, hp⟩
  · rw [h]
    rfl
  · rw [h, hp]
    rfl

theorem openFor_of_closed {s : State} {w : Work} (h : s.admits = false ∨ s.pvInReset (pvOf w.fn) = true ∨ s.suspended = true ∨
    (s.corpus (pvOf w.fn)).rstate = .loading ∨ ((s.corpus (pvOf w.fn)).rstate = .provisional ∧ w.prov = false)) : s.openFor w = false := by
  unfold State.openFor
  rcases h with h | h | h | h | ⟨h, hp⟩
  · simp [h]
  · simp [h]
  · simp [h]
  · simp [h]
  · simp [h, hp]

/-- The queries of a descriptor checked again under the epoch that is in force now (R186). -/
def State.recheckAll (wid : Nat) (w : Work) (b : Bundle) (s : State) : State :=
  modScan (fun x => { x with queries := mapIf (Query.ownOf wid) (recheck b (dQStride w.desc) (s.corpus (pvOf w.fn))) x.queries })
    (noteGather (pvOf w.fn) (sumNat ((s.scan.queries.filter fun q => q.ownOf wid && q.stage == .valid && q.epoch != b.epoch &&
      qLenOk (qctx b (s.corpus (pvOf w.fn))) (dQStride w.desc) q.q).map fun q => (queryVec b q.q).2)) s)

/-- The valid queries of a descriptor take their snapshot and epoch (R31, R306). -/
def State.admitAll (wid : Nat) (w : Work) (c : Corpus) (b : Bundle) (s : State) : State :=
  count (some (pvOf w.fn)) 0 1 (s.scan.queries.filter fun q => q.ownOf wid && q.stage == .valid).length
    (modWork wid (fun w => { w with stage := .running })
      (modScan (fun x => { x with queries := mapIf (Query.ownOf wid) (Query.admitted_ (fresh s).2 c b s.nextId) x.queries }) (fresh s).2))

theorem doQueryAdmission_of_work {s : State} {wid : Nat} {w : Work} (hw : s.work wid = some w) :
    doQueryAdmission wid s = if s.openFor w && w.stage == .waiting && isSearch (dOp w.desc) then
        match searchEpoch s (pvOf w.fn) (dEpoch w.desc) with
        | .inl st => failWork w st { s with scan := { s.scan with
            queries := s.scan.queries.filter fun q => !(q.work == wid && q.origin.isNone) } }
        | .inr b => if (s.corpus (pvOf w.fn)).inForce s.hfn != some b then s
          else settleSearch wid (State.admitAll wid w (s.corpus (pvOf w.fn)) b (s.recheckAll wid w b))
      else s := by
  unfold doQueryAdmission
  rw [hw] <;> rfl

/-- Queries that were validated under the epoch in force are not checked again. -/
theorem recheckAll_of_same {s : State} {wid : Nat} {b : Bundle} (w : Work) (h : ∀ q ∈ s.scan.queries, q.work = wid → q.origin = none →
    q.stage = .valid ∧ q.epoch = b.epoch) : s.recheckAll wid w b = s := by
  have hown {q : Query} (hq : q ∈ s.scan.queries) (h' : q.ownOf wid = true) : q.epoch = b.epoch :=
    (h q hq (ownOf_iff.1 h').1 (ownOf_iff.1 h').2).2
  have hagain : (s.scan.queries.filter fun q => q.ownOf wid && q.stage == .valid && q.epoch != b.epoch &&
      qLenOk (qctx b (s.corpus (pvOf w.fn))) (dQStride w.desc) q.q) = [] := by
    refine List.filter_eq_nil_iff.2 fun q hq hp => ?_
    simp only [Bool.and_eq_true, bne_iff_ne] at hp
    obtain ⟨⟨⟨hmine, -⟩, hne⟩, -⟩ := hp
    exact hne (hown hq hmine)
  unfold State.recheckAll
  rw [hagain, show noteGather (pvOf w.fn) (sumNat (([] : List Query).map fun q => (queryVec b q.q).2)) s = s from rfl]
  unfold modScan
  dsimp only
  rw [mapIf_of_fix fun q hq hmine => by simp [recheck, hown hq hmine]]

/-- Every query of the descriptor that is valid is admitted, and the descriptor runs (R31, R306). -/
theorem admitAll_of_valid {s : State} {wid : Nat} {w : Work} {c : Corpus} {b : Bundle}
    (hvalid : ∀ q ∈ s.scan.queries, q.work = wid → q.origin = none → q.stage = .valid ∧ q.epoch = b.epoch)
    (hsome : ∃ q ∈ s.scan.queries, q.work = wid ∧ q.origin = none) :
    ∃ t, settleSearch wid (State.admitAll wid w c b s) = t ∧
      t.scan.queries = mapIf (fun q => q.work == wid && q.origin.isNone) (Query.admitted_ (fresh s).2 c b s.nextId) s.scan.queries ∧
      (∀ q ∈ t.scan.queries, q.work = wid → q.origin = none → q.stage = .admitted ∧ q.snapshot = s.hfn ∧ q.epoch = b.epoch ∧
        q.admSeq = s.nextId) ∧
      t.works = mapIf (fun x => x.id == wid) (fun x => { x with stage := .running }) s.works ∧ t.out = s.out := by
  have hqs : (State.admitAll wid w c b s).scan.queries =
      mapIf (Query.ownOf wid) (Query.admitted_ (fresh s).2 c b s.nextId) s.scan.queries := congrArg Scan.queries (count_keeps ..).scan
  have hadmitted : ∀ q ∈ mapIf (Query.ownOf wid) (Query.admitted_ (fresh s).2 c b s.nextId) s.scan.queries, q.work = wid → q.origin = none →
      q.stage = .admitted ∧ q.snapshot = s.hfn ∧ q.epoch = b.epoch ∧ q.admSeq = s.nextId := by
    intro y hy hwork horigin
    obtain ⟨x, hx, rfl⟩ := mem_mapIf.1 hy
    have hmine : x.ownOf wid = true := by
      by_contra hno
      rw [if_neg hno] at hwork horigin
      exact hno (ownOf_iff.2 ⟨hwork, horigin⟩)
    obtain ⟨hstage, -⟩ := hvalid x hx (ownOf_iff.1 hmine).1 (ownOf_iff.1 hmine).2
    rw [if_pos hmine, Query.admitted_, if_pos hstage]
    exact ⟨rfl, rfl, rfl, rfl⟩
  obtain ⟨q, hq, hwork, horigin⟩ := hsome
  have hmem : Query.admitted_ (fresh s).2 c b s.nextId q ∈ (State.admitAll wid w c b s).scan.queries := by
    rw [hqs]
    exact mem_mapIf.2 ⟨q, hq, if_pos (ownOf_iff.2 ⟨hwork, horigin⟩)⟩
  have hadm : Query.admitted_ (fresh s).2 c b s.nextId q =
      { q with stage := .admitted, snapshot := s.hfn, admSeq := s.nextId, epoch := b.epoch, provisional := c.rstate == .provisional,
               fCkpt := c.fCkpt, fetchWait := fld s.scan.rerankEff 9 0, widenEn := bit s.scan.rerankEff 16,
               hist := List.replicate (b.width + 1) 0 } := if_pos (hvalid q hq hwork horigin).1
  rw [hadm] at hmem
  have hopen := settleSearch_of_open hmem hwork horigin rfl
  refine ⟨_, rfl, ?_, ?_, ?_, ?_⟩
  · rw [hopen]
    exact hqs
  · rw [hopen, hqs]
    exact hadmitted
  · rw [hopen]
    exact (count_keeps ..).works
  · rw [hopen]
    exact (count_keeps ..).out

/-! ## Assembly -/

/-- Records of which one is valid become queries that wait for admission (R305). -/
theorem doSearch_of_valid {s : State} {op wid : Nat} {w : Work} {b : Bundle} {rs : List (List Byte)} (hw : s.work wid = some w)
    (h : s.fetchedSearch op w) (hcomp : s.composed (pvOf w.fn) = true) (hepoch : searchEpoch s (pvOf w.fn) (dEpoch w.desc) = .inr b)
    (hvalid : ∃ i, i < dCount w.desc ∧ s.recordCheck w b (rs.getD i []) = none) :
    ∃ t qs, doSearch op wid (some rs) s = t ∧ t.scan.queries = s.scan.queries ++ qs ∧ qs.map (·.idx) = List.range (dCount w.desc) ∧
      (∀ q ∈ qs, q.work = wid ∧ q.pv = pvOf w.fn ∧ q.epoch = b.epoch ∧ q.q = readQRec (rs.getD q.idx []) ∧
        q.stage = QStage.ofCheck (s.recordCheck w b (rs.getD q.idx []))) ∧
      t.works = mapIf (fun y => y.id == wid) (fun y => { y with stage := .waiting }) s.works ∧ t.out = (s.readsRecords w).out := by
  obtain ⟨t, qs, ht, hqs, hidx, hall, hworks, hout⟩ := takeRecords s wid w b rs (id_of_work hw)
  obtain ⟨i, hi, hnone⟩ := hvalid
  obtain ⟨q, hq, rfl⟩ : ∃ q ∈ qs, q.idx = i := List.mem_map.1 (hidx ▸ List.mem_range.2 hi)
  obtain ⟨horigin, hwork, -, -, -, hstage⟩ := hall q hq
  rw [hnone] at hstage
  have hopen := settleSearch_of_open (s := t) (hqs ▸ List.mem_append_right _ hq) hwork horigin (by rw [hstage]; rfl)
  refine ⟨t, qs, ?_, hqs, hidx, fun y hy => (hall y hy).2, hworks, hout⟩
  rw [doSearch_of_fetched _ hw h]
  dsimp only
  rw [hcomp, hepoch]
  exact (congrArg (settleSearch wid) ht).trans hopen

/-- Records of which none is valid complete the descriptor at once (R305, R307). -/
theorem doSearch_of_invalid {s : State} {op wid : Nat} {w : Work} {b : Bundle} {rs : List (List Byte)} (hw : s.work wid = some w)
    (h : s.fetchedSearch op w) (hcomp : s.composed (pvOf w.fn) = true) (hepoch : searchEpoch s (pvOf w.fn) (dEpoch w.desc) = .inr b)
    (hbad : ∀ i, i < dCount w.desc → s.recordCheck w b (rs.getD i []) ≠ none) (hother : ∀ q ∈ s.scan.queries, q.work ≠ wid) :
    (doSearch op wid (some rs) s).work wid = none ∧ (doSearch op wid (some rs) s).scan.queries = s.scan.queries := by
  obtain ⟨t, qs, ht, hqs, hidx, hall, hworks, -⟩ := takeRecords s wid w b rs (id_of_work hw)
  have hdo : doSearch op wid (some rs) s = settleSearch wid t := by
    rw [doSearch_of_fetched _ hw h]
    dsimp only
    rw [hcomp, hepoch]
    exact congrArg (settleSearch wid) ht
  have hwt : t.work wid = some { w with stage := .waiting } := (work_congr hworks wid).trans (work_modWork (g := fun w => { w with stage := .waiting })
    (fun _ => rfl) hw)
  have hover : ∀ q ∈ t.scan.queries, q.work = wid → q.origin = none → q.stage.over = true := by
    intro q hq hwork _
    rcases List.mem_append.1 (hqs ▸ hq) with hq | hq
    · exact absurd hwork (hother q hq)
    · obtain ⟨-, -, -, -, -, hstage⟩ := hall q hq
      rw [hstage, over_ofCheck]
      refine hbad _ (List.mem_range.1 ?_)
      rw [← hidx]
      exact List.mem_map_of_mem hq
  obtain ⟨hgone, hleft⟩ := settleSearch_of_over hwt hover
  rw [hdo]
  refine ⟨hgone, hleft.trans ?_⟩
  rw [hqs, List.filter_append, List.filter_eq_self.2 fun q hq => by simp [hother q hq], List.filter_eq_nil_iff.2 fun q hq => ?_, List.append_nil]
  obtain ⟨horigin, hwork, -⟩ := hall q hq
  simp [horigin, hwork]

/-- Settles O22: a descriptor's records are read and become its queries together, and its valid queries are admitted together. -/
theorem searchAdmission : Obligations.SearchAdmission := by
  unfold Obligations.SearchAdmission
  refine ⟨fun s wid w hw x hx => ?_, fun s wid w hw => ⟨fun hopen hstage hop => ?_, fun h => ?_⟩⟩
  · have hexec (recs : Option (List (List Byte))) : exec (x.2 recs) s = .next (doSearch x.1 wid recs s) := by
      rcases List.mem_cons.1 hx with rfl | hx
      · rfl
      · rw [List.mem_singleton.1 hx]
        rfl
    refine ⟨fun hlive hstage hop hfn => ?_, fun r h => (hexec r).trans (congrArg Host.Outcome.next (doSearch_of_other r hw h))⟩
    have h : s.fetchedSearch x.1 w := ⟨hlive, hstage, hop, hfn⟩
    refine ⟨(hexec none).trans (congrArg Host.Outcome.next (doSearch_of_fetched none hw h)), fun rs hcomp => ?_, fun rs st hcomp hepoch => ?_,
      fun rs b hcomp hepoch => ⟨fun hvalid => ?_, fun hbad hother => ?_⟩⟩
    · refine (hexec _).trans (congrArg Host.Outcome.next ((doSearch_of_fetched (some rs) hw h).trans ?_))
      exact if_pos (by rw [hcomp]; rfl)
    · refine (hexec _).trans (congrArg Host.Outcome.next ((doSearch_of_fetched (some rs) hw h).trans ?_))
      dsimp only
      rw [hcomp, hepoch]
      rfl
    · obtain ⟨t, qs, ht, hqs, hidx, hall, hworks, hout⟩ := doSearch_of_valid hw h hcomp hepoch hvalid
      exact ⟨t, qs, (hexec _).trans (congrArg Host.Outcome.next ht), hqs, hidx, hall, hworks, hout⟩
    · exact ⟨_, hexec _, doSearch_of_invalid hw h hcomp hepoch hbad hother⟩
  · have hdo := (doQueryAdmission_of_work hw).trans (if_pos (by rw [openFor_of_opens hopen, hstage, hop]; rfl))
    refine ⟨fun st hepoch => congrArg Host.Outcome.next (hdo.trans ?_), fun b hepoch => ⟨fun hne => congrArg Host.Outcome.next (hdo.trans ?_),
      fun heq hvalid hsome => ?_⟩⟩
    · rw [hepoch]
    · rw [hepoch]
      exact if_pos (bne_iff_ne.2 hne)
    · obtain ⟨t, ht, h⟩ := admitAll_of_valid (w := w) (c := s.corpus (pvOf w.fn)) hvalid hsome
      refine ⟨t, congrArg Host.Outcome.next (hdo.trans ?_), h⟩
      rw [hepoch]
      dsimp only
      rw [if_neg (by simp [heq]), recheckAll_of_same w hvalid, ht]
  · refine congrArg Host.Outcome.next ((doQueryAdmission_of_work hw).trans (if_neg ?_))
    rcases (by tauto : (s.admits = false ∨ s.pvInReset (pvOf w.fn) = true ∨ s.suspended = true ∨ (s.corpus (pvOf w.fn)).rstate = .loading ∨
      ((s.corpus (pvOf w.fn)).rstate = .provisional ∧ w.prov = false)) ∨ w.stage ≠ .waiting) with h | h
    · simp [openFor_of_closed h]
    · simp [h]

end Sys2Proof.Machine

/-! ## Encoding, routing and held queries (R17, R138, R154, R156, R176, R371) -/

namespace Sys2Proof.Machine
-- The whole text is compiled by one process of limited memory: one proof at a time keeps it small.
set_option Elab.async false

/-- Plots that are all served here leave a query's statuses as they were. -/
theorem noteGone_bad {rs : List (Nat × Route)} {node : Nat} (q : Query) (h : ∀ x ∈ rs, x.2 = .to node) : (q.noteGone rs).bad = q.bad := by
  have hlost : (rs.any fun x => x.2 == .lost) = false := List.any_eq_false.2 fun x hx => by simp [h x hx]
  unfold Query.noteGone
  dsimp only
  rw [hlost, List.filterMap_eq_nil_iff.2 fun x hx => by rw [h x hx]]
  simp

/-- A query that has been rotated and coded, with its plots in order (R138, R147, R154). -/
def Query.coded (b : Bundle) (q0 q : Query) : Query :=
  { q with code := b.codeQuery (b.rotate q0.vector), sketch := b.sketch (b.codeQuery (b.rotate q0.vector)),
           order := (b.order (b.codeQuery (b.rotate q0.vector))).drop q.q.probes }

theorem doEncode_of_grant {s : State} {qid die ta : Nat} {bor : Bool} {q : Query} {b : Bundle} (hq : s.query? qid = some q)
    (hlive : s.live = true) (hstage : q.stage = .admitted) (hgrant : s.taGrant die ta q = some bor)
    (hb : (s.corpus q.pv).bundle? q.epoch = some b) (hsweep : q.q.sweep = false) :
    doEncode qid die ta s = routeRound qid ((b.order (b.codeQuery (b.rotate q.vector))).take q.q.probes)
      (modQuery qid (Query.coded b q) (useTa ⟨die, ta, qid, [], 0⟩ q.pv bor s)) := by
  unfold doEncode
  rw [hq]
  dsimp only
  rw [if_pos (by rw [hlive, hstage]; rfl), hb]
  dsimp only
  rw [hgrant]
  dsimp only
  rw [hsweep]
  rfl

theorem doEncode_of_excluded {s : State} {qid die ta : Nat} {q : Query} (hq : s.query? qid = some q)
    (h : q.stage ≠ .admitted ∨ s.live = false ∨ (s.corpus q.pv).bundle? q.epoch = none ∨ s.taGrant die ta q = none) :
    doEncode qid die ta s = s := by
  unfold doEncode
  rw [hq]
  dsimp only
  split
  · next hgo =>
    obtain ⟨hlive, hstage⟩ := Bool.and_eq_true_iff.1 hgo
    split
    · rfl
    · next b hb =>
      rcases h with h | h | h | h
      · exact absurd (eq_of_beq hstage) h
      · rw [h] at hlive
        cases hlive
      · rw [hb] at h
        cases h
      · rw [h]
  · rfl

/-! ## Held queries -/

/-- A held query is answered LAGGING (R176). -/
def lagOut (s : State) (q : Query) : State :=
  finishLocal q.id (modQuery q.id (fun x => { x with toJoin := [], bad := x.bad ++ [.lagging], vis := (s.visF q.pv :: q.vis.toList).min? }) s)

/-- A query whose part here ends with LAGGING. -/
def Query.lagged (q : Query) : Prop := q.stage = .localDone ∧ q.toJoin = [] ∧ .lagging ∈ q.bad

theorem lagOut_of_own {s : State} {q x : Query} (hx : s.query? q.id = some x) (horigin : x.origin = none) :
    (∃ y, (lagOut s q).query? q.id = some y ∧ y.origin = none ∧ y.lagged) ∧ Keeps [.scan] s (lagOut s q) := by
  have hmod := query?_modQuery (g := fun x => { x with
    toJoin := [], bad := x.bad ++ [.lagging], vis := (s.visF q.pv :: q.vis.toList).min? }) (fun _ => rfl) hx
  have hdo : lagOut s q = modQuery q.id (fun y => y.atHome s.node) (modQuery q.id (fun x => { x with
      toJoin := [], bad := x.bad ++ [.lagging], vis := (s.visF q.pv :: q.vis.toList).min? }) s) := by
    unfold lagOut finishLocal
    rw [hmod]
    dsimp only
    rw [horigin]
    rfl
  rw [hdo]
  refine ⟨⟨_, query?_modQuery (g := fun y => y.atHome s.node) (fun _ => rfl) hmod, horigin, rfl, rfl, ?_⟩, ?_⟩
  · exact List.mem_append_right _ (List.mem_singleton.2 rfl)
  · exact (modQuery_keeps ..).then_ (modQuery_keeps ..)

/-- Held queries that are one query leave it answered, and nothing else changes. -/
theorem foldl_lagOut {q : Query} {qs : List Query} {s : State} (hqs : ∀ x ∈ qs, x = q) :
    ∀ {x : Query}, s.query? q.id = some x → x.origin = none →
      (∃ y, (qs.foldl lagOut s).query? q.id = some y ∧ (qs ≠ [] ∨ x.lagged → y.lagged)) ∧ Keeps [.scan] s (qs.foldl lagOut s) := by
  induction qs generalizing s with
  | nil => exact fun {x} hx _ => ⟨⟨x, hx, fun h => h.resolve_left (· rfl)⟩, .refl _ _⟩
  | cons a qs ih =>
    intro x hx horigin
    obtain rfl := hqs a List.mem_cons_self
    obtain ⟨⟨y, hy, horigin', hlag⟩, hkeeps⟩ := lagOut_of_own hx horigin
    obtain ⟨⟨z, hz, hlag'⟩, hkeeps'⟩ := ih (fun x hx => hqs x (List.mem_cons_of_mem _ hx)) hy horigin'
    exact ⟨⟨z, hz, fun _ => hlag' (.inr hlag)⟩, hkeeps.then_ hkeeps'⟩

/-- The queries that are answered LAGGING now. -/
def State.lagging (s : State) : List Query := s.scan.queries.filter fun q =>
  q.stage == .routed && !q.toJoin.isEmpty && !q.seen s && decide (q.arrived + 10 ≤ s.hfn)

theorem mem_lagging {s : State} {q : Query} : q ∈ s.lagging ↔ q ∈ s.scan.queries ∧ s.heldLate q := by
  simp [State.lagging, State.heldLate, and_assoc]

theorem doHeldLagging_of_nil {s : State} (h : s.lagging = []) : doHeldLagging s = s := by
  unfold doHeldLagging
  extract_lets late
  rw [show late = [] from h]
  split <;> rfl

/-- The state once the held queries are answered, before the event of the frame is posted. -/
def State.lagAll (s : State) : State :=
  { s.lagging.foldl lagOut s with upd := { (s.lagging.foldl lagOut s).upd with laggingSeen := true } }

theorem doHeldLagging_of_late {s : State} (hlive : s.live = true) (h : s.lagging ≠ []) :
    ∃ p data, doHeldLagging s = postEvent 0 evLag p data s.lagAll := by
  unfold doHeldLagging
  dsimp only
  rw [hlive, if_pos rfl]
  split
  · next hnil => exact absurd hnil h
  · next q0 _ _ => exact ⟨q0.pv, leBytes 1 1 ++ zeros 3 ++ leBytes 8 (s.lagAll.visF q0.pv), rfl⟩

theorem doHeldLagging_of_none {s : State} (h : ∀ q ∈ s.scan.queries, ¬ s.heldLate q) : doHeldLagging s = s := by
  have hnil : s.lagging = [] := List.eq_nil_iff_forall_not_mem.2 fun q hq => h q (mem_lagging.1 hq).1 (mem_lagging.1 hq).2
  exact doHeldLagging_of_nil hnil

theorem doHeldLagging_of_one {s : State} {q : Query} (hlive : s.live = true) (hq : s.query? q.id = some q) (hlate : s.heldLate q)
    (horigin : q.origin = none) (hone : ∀ x ∈ s.scan.queries, s.heldLate x → x = q) :
    ∃ q', (doHeldLagging s).upd = { s.upd with laggingSeen := true } ∧ (doHeldLagging s).query? q.id = some q' ∧ q'.lagged ∧
      (doHeldLagging s).works = s.works := by
  have hmem : q ∈ s.lagging := mem_lagging.2 ⟨List.mem_of_find?_eq_some hq, hlate⟩
  have hall : ∀ x ∈ s.lagging, x = q := fun x hx => hone x (mem_lagging.1 hx).1 (mem_lagging.1 hx).2
  obtain ⟨⟨y, hy, hlag⟩, hkeeps⟩ := foldl_lagOut hall hq horigin
  obtain ⟨p, data, hdo⟩ := doHeldLagging_of_late hlive (List.ne_nil_of_mem hmem)
  have hpost := postEvent_keeps 0 evLag p data s.lagAll
  rw [hdo]
  refine ⟨y, hpost.upd.trans ?_, (query?_congr (congrArg Scan.queries hpost.scan) _).trans hy, hlag (.inl (List.ne_nil_of_mem hmem)),
    hpost.works.trans hkeeps.works⟩
  exact congrArg (fun u : Upd => { u with laggingSeen := true }) hkeeps.upd

/-- Settles O23: on a granted array a query is coded and routed to its scan batches, and a query held too long is answered. -/
theorem encodingAndRouting : Obligations.EncodingAndRouting := by
  unfold Obligations.EncodingAndRouting
  refine fun s => ⟨fun qid die ta bor q b hq hlive hstage hgrant hb hsweep hown hne => ?_,
    fun qid die ta q hq h => congrArg Host.Outcome.next (doEncode_of_excluded hq h), fun q hlive hq hlate horigin hone => ?_,
    fun h => congrArg Host.Outcome.next (doHeldLagging_of_none h)⟩
  · have huse : (useTa ⟨die, ta, qid, [], 0⟩ q.pv bor s).query? qid = some q := hq
    have hcoded := query?_modQuery (g := Query.coded b q) (fun _ => rfl) huse
    obtain ⟨rs, quads, hquery, hworks, hout, hta, hrs⟩ := routeRound_of_own hcoded hsweep hne hown
    refine ⟨_, _, congrArg Host.Outcome.next (doEncode_of_grant hq hlive hstage hgrant hb hsweep), hquery, rfl, rfl, rfl, rfl, rfl, rfl, ?_, rfl,
      hout, hworks, hta⟩
    exact noteGone_bad (Query.coded b q q) hrs
  · obtain ⟨q', hupd, hq', ⟨hst, hjoin, hbad⟩, hworks⟩ := doHeldLagging_of_one hlive hq hlate horigin hone
    exact ⟨_, q', rfl, hupd, hq', hst, hjoin, hbad, hworks⟩

end Sys2Proof.Machine

/-! ## Moves of plots (R189, R363, R367 to R369) -/

namespace Sys2Proof.Machine
-- The whole text is compiled by one process of limited memory: one proof at a time keeps it small.
set_option Elab.async false

/-! ## The old owner -/

/-- The move of a plot at its old owner, in a stage. -/
def State.moveOut (s : State) (p plot : Nat) (st : MoveStage) : Option MoveOut :=
  s.comp.out.find? fun m => m.tok.pv == p && m.tok.plot == plot && m.stage == st

theorem doTransfer_of_due {s : State} {p plot : Nat} {m : MoveOut} (hm : s.moveOut p plot .begun = some m) (hlive : s.live = true)
    (hflush : s.flushing = false) (hslot : s.clk.slot = none) (hact : m.act + 1 ≤ s.hfn) (hsettled : m.act - 1 ≤ (s.corpus p).settledF) :
    doTransfer p plot s = modFab (fun f => { f with
        reqs := f.reqs ++ [⟨s.fab.nextMsg, m.recv, .move m.tok.epoch p plot, []⟩]
        coal := f.coal ++ [⟨m.recv, 3, jWrite, p, s.fab.nextMsg, .map (.versions m.tok (s.plotVers p plot (m.act - 1)))⟩] })
      (modOut (·.tok == m.tok) (fun x => { x with
          stage := .transferring, vers := (s.plotVers p plot (m.act - 1)).length
          bytes := (s.corpus p).transferBytes (s.plotVers p plot (m.act - 1)) }) (newMsgId s).2) := by
  unfold doTransfer
  rw [show s.comp.out.find? (fun m => m.tok.pv == p && m.tok.plot == plot && m.stage == .begun) = some m from hm]
  exact if_pos (by simp [hlive, hflush, hslot, hact, hsettled])

theorem doTransfer_of_early {s : State} {p plot : Nat} {m : MoveOut} (hm : s.moveOut p plot .begun = some m)
    (h : s.clk.slot ≠ none ∨ s.hfn < m.act + 1 ∨ (s.corpus p).settledF < m.act - 1) : doTransfer p plot s = s := by
  unfold doTransfer
  rw [show s.comp.out.find? (fun m => m.tok.pv == p && m.tok.plot == plot && m.stage == .begun) = some m from hm]
  refine if_neg ?_
  rcases h with h | h | h
  · simp [h]
  · simp [Nat.not_le.2 h]
  · simp [Nat.not_le.2 h]

theorem doResend_of_move {s : State} {p plot : Nat} {m : MoveOut} (hm : s.moveOut p plot .handoff = some m) :
    doResend p plot s = if s.live && decide (m.lastSent + 50 ≤ s.hfn) then sendHandoff m s else s := by
  unfold doResend
  rw [show s.comp.out.find? (fun m => m.tok.pv == p && m.tok.plot == plot && m.stage == .handoff) = some m from hm]

theorem sendHandoff_eq (m : MoveOut) (s : State) : sendHandoff m s = { sendMap m.recv (.handoff m.tok (m.act - 1) m.vers m.bytes) s with
    comp := { s.comp with
      out := mapIf (·.tok == m.tok)
        (fun m => { m with stage := if m.stage = .transferring then .handoff else m.stage, lastSent := s.hfn }) s.comp.out } } := by
  unfold sendHandoff modOut
  rw [(sendMap_keeps ..).comp]

theorem doMoveFree_of_move {s : State} {p plot : Nat} {m : MoveOut} (hm : s.moveOut p plot .ended = some m) :
    doMoveFree p plot s = if s.live && decide (m.a2.getD s.hfn + 2 < s.hfn) && !m.pulled && !s.plotBusy p plot then
        if s.takes p plot then { s with comp := { s.comp with out := s.comp.out.filter (·.tok != m.tok) } }
        else dropPlot p plot { s with comp := { s.comp with out := s.comp.out.filter (·.tok != m.tok) } }
      else s := by
  unfold doMoveFree
  rw [show s.comp.out.find? (fun m => m.tok.pv == p && m.tok.plot == plot && m.stage == .ended) = some m from hm] <;> rfl

/-- A move that its receiver answers. -/
def State.moveTo (s : State) (tok : Token) (src : Nat) : Option MoveOut := s.comp.out.find? fun m => m.tok == tok && m.recv == src

theorem tok_of_moveTo {s : State} {tok : Token} {src : Nat} {m : MoveOut} (h : s.moveTo tok src = some m) : m.tok = tok := by
  have h := List.find?_some h
  simp only [Bool.and_eq_true, beq_iff_eq] at h
  exact h.1

theorem doHandoffAck_of_move {s : State} {tok : Token} {src : Nat} {m : MoveOut} (r : Nat) (hears : s.hears src = true)
    (hm : s.moveTo tok src = some m) :
    doHandoffAck src tok r s =
      if m.stage == .ended then
        if r = 0 then modOut (·.tok == tok) (fun m => { m with pulled := false }) s
        else sendHandoff m (sendMap src (.versions tok (s.plotVers tok.pv tok.plot s.hfn)) s)
      else if m.stage == .handoff then
        if r = 0 then
          if s.comp.keeper.role = 2 then takeMoveDone tok (modOut (·.tok == tok) (fun m => { m with stage := .done }) s)
          else toLeader (.moveDone tok) (modOut (·.tok == tok) (fun m => { m with stage := .done }) s)
        else repeatMove m s
      else s := by
  unfold doHandoffAck
  rw [hears, if_pos rfl, show s.comp.out.find? (fun m => m.tok == tok && m.recv == src) = some m from hm] <;> rfl

theorem doStatePull_of_taken {s : State} {src off : Nat} {tok : Token} (hears : s.hears src = true) (hpv : tok.pv < 12)
    (h : s.takes tok.pv tok.plot = true ∨ ∃ m ∈ s.comp.out, m.tok = tok) :
    doStatePull src tok off s = sendMap src (.handoff tok s.hfn (s.plotVers tok.pv tok.plot s.hfn).length
        ((s.corpus tok.pv).transferBytes (s.plotVers tok.pv tok.plot s.hfn)))
      (sendMap src (.versions tok ((s.plotVers tok.pv tok.plot s.hfn).drop off))
        (modOut (·.tok == tok) (fun m => { m with pulled := true }) s)) := by
  refine if_pos ?_
  rw [hears, decide_eq_true hpv]
  rcases h with h | ⟨m, hm, rfl⟩
  · rw [h]
    rfl
  · rw [List.any_eq_true.2 ⟨m, hm, by simp⟩, Bool.or_true]
    rfl

theorem doStatePull_of_foreign {s : State} {src off : Nat} {tok : Token} (htakes : s.takes tok.pv tok.plot = false)
    (h : ∀ m ∈ s.comp.out, m.tok ≠ tok) : doStatePull src tok off s = s := by
  have hany : (s.comp.out.any fun m => m.tok == tok) = false := List.any_eq_false.2 fun m hm => by simpa using h m hm
  refine if_neg ?_
  rw [htakes, hany, Bool.or_false, Bool.and_false]
  exact Bool.false_ne_true

/-! ## The receiver -/

/-- A move that its old owner hands off. -/
def State.moveFrom (s : State) (tok : Token) (src : Nat) : Option MoveIn := s.comp.inn.find? fun m => m.tok == tok && m.owner == src

/-- What the receiver keeps of a transfer. -/
def MoveIn.keep (r : Nat) (vs : List PlotVer) (m : MoveIn) : MoveIn := if r = 0 then { m with got := vs, held := true } else { m with got := vs }

theorem doHandoff_of_move {s : State} {tok : Token} {src el : Nat} {vs : List PlotVer} {ok : Bool} {m : MoveIn}
    (hears : s.hears src = true) (hpv : tok.pv < 12) (hm : s.moveFrom tok src = some m) :
    doHandoff src tok el vs ok s = if m.held then sendMap src (.handoffAck tok 0) s
      else sendMap src (.handoffAck tok (takeState tok el vs ok s).1) { (takeState tok el vs ok s).2 with
        comp := { (takeState tok el vs ok s).2.comp with
          inn := mapIf (·.tok == tok) (MoveIn.keep (takeState tok el vs ok s).1 vs) (takeState tok el vs ok s).2.comp.inn } } := by
  unfold doHandoff
  dsimp only
  rw [hears, decide_eq_true hpv, Bool.and_self, if_pos rfl, show s.comp.inn.find? (fun m => m.tok == tok && m.owner == src) = some m from hm] <;> rfl

theorem doHandoff_of_none {s : State} {tok : Token} {src el : Nat} {vs : List PlotVer} {ok : Bool} (hinn : s.comp.inn = [])
    (hpulls : s.comp.pulls = []) :
    doHandoff src tok el vs ok s = if s.hears src && decide (tok.pv < 12) && s.takes tok.pv tok.plot then sendMap src (.handoffAck tok 0) s
      else s := by
  unfold doHandoff
  dsimp only
  rw [hinn, hpulls]
  cases s.hears src && decide (tok.pv < 12) <;> rfl

/-- Settles O24: each message of a move, at both of its ends and at the keepers, by the move that it finds. -/
theorem moves : Obligations.Moves := by
  unfold Obligations.Moves
  refine ⟨fun s p plot src => ⟨fun m hm => ⟨?_, ?_⟩, fun tok m hears hm => ⟨?_, ?_, ?_, ?_⟩, fun m hm => ⟨?_, ?_⟩, fun tok off hears hpv =>
    ⟨?_, ?_⟩, fun m hm => ⟨?_, ?_⟩, ?_⟩, fun s src tok => ⟨fun m snap el vs ok hears hpv hm => ⟨?_, fun hheld => ⟨?_, ?_, ?_, ?_⟩⟩,
    fun snap el vs ok hinn hpulls => ⟨?_, ?_⟩, fun hkeeps hrole => ⟨?_, ?_, fun x hx hrecv hepoch => ⟨?_, ?_⟩⟩, ?_, ?_, ?_⟩⟩
  · intro hlive hflush hslot hact hsettled
    exact ⟨_, congrArg Host.Outcome.next (doTransfer_of_due hm hlive hflush hslot hact hsettled), rfl, rfl, rfl, rfl⟩
  · exact fun h => congrArg Host.Outcome.next (doTransfer_of_early hm h)
  · intro hstage hrole l hl
    refine congrArg Host.Outcome.next ((doHandoffAck_of_move 0 hears hm).trans ?_)
    rw [hstage, if_neg (by decide), if_pos (by decide), if_pos rfl, if_neg hrole]
    unfold toLeader modOut
    dsimp only
    rw [hl]
  · intro r hstage hr
    have hdo := doHandoffAck_of_move r hears hm
    rw [hstage, if_neg (by decide), if_pos (by decide), if_neg hr, repeatMove, tok_of_moveTo hm] at hdo
    exact ⟨fun h => congrArg Host.Outcome.next (hdo.trans (if_pos h)), fun h => congrArg Host.Outcome.next (hdo.trans (if_neg (Nat.not_lt.2 h)))⟩
  · intro hstage
    refine congrArg Host.Outcome.next ((doHandoffAck_of_move 0 hears hm).trans ?_)
    rw [hstage]
    rfl
  · intro r hstage
    refine congrArg Host.Outcome.next ((doHandoffAck_of_move r hears hm).trans ?_)
    rcases hstage with h | h | h
    · rw [h]
      rfl
    · rw [h]
      rfl
    · rw [h]
      rfl
  · intro hlive hdue
    refine congrArg Host.Outcome.next ((doResend_of_move hm).trans ?_)
    rw [hlive, decide_eq_true hdue]
    exact sendHandoff_eq m s
  · intro hearly
    refine congrArg Host.Outcome.next ((doResend_of_move hm).trans (if_neg ?_))
    simp [Nat.not_le.2 hearly]
  · exact fun h => congrArg Host.Outcome.next (doStatePull_of_taken hears hpv h)
  · exact fun h h' => congrArg Host.Outcome.next (doStatePull_of_foreign h h')
  · intro a ha hlive hdue hpulled hbusy
    have hdo := (doMoveFree_of_move hm).trans (if_pos (by rw [hlive, ha, Option.getD_some, decide_eq_true hdue, hpulled, hbusy]; rfl))
    exact ⟨fun h => congrArg Host.Outcome.next (hdo.trans (if_pos h)),
      fun h => congrArg Host.Outcome.next (hdo.trans (if_neg (by rw [h]; exact Bool.false_ne_true)))⟩
  · intro h
    refine congrArg Host.Outcome.next ((doMoveFree_of_move hm).trans (if_neg ?_))
    rcases h with ⟨a, ha, h⟩ | h | h
    · simp [ha, Nat.not_lt.2 h]
    · simp [h]
    · simp [h]
  · intro hnil
    refine ⟨congrArg Host.Outcome.next ?_, congrArg Host.Outcome.next ?_, congrArg Host.Outcome.next ?_⟩
    · unfold doTransfer
      rw [hnil]
      rfl
    · unfold doResend
      rw [hnil]
      rfl
    · unfold doMoveFree
      rw [hnil]
      rfl
  · exact fun hheld => congrArg Host.Outcome.next ((doHandoff_of_move hears hpv hm).trans (if_pos hheld))
  · intro hshort
    have htake : takeState tok el vs ok s = (2, s) := if_pos hshort
    refine congrArg Host.Outcome.next ((doHandoff_of_move hears hpv hm).trans ?_)
    rw [hheld, htake]
    rfl
  · intro hle hbad
    have htake : takeState tok el vs ok s = (1, s) := (if_neg (Nat.not_lt.2 hle)).trans (if_pos (by
      rcases hbad with h | h
      · simp [h]
      · simp [h]))
    refine congrArg Host.Outcome.next ((doHandoff_of_move hears hpv hm).trans ?_)
    rw [hheld, htake]
    rfl
  · rintro u rfl rfl hplace
    have htake : takeState tok vs.length vs true s = (0, u) := by
      unfold takeState
      rw [hplace]
      simp
    refine congrArg Host.Outcome.next ((doHandoff_of_move hears hpv hm).trans ?_)
    rw [hheld, htake]
    rfl
  · rintro rfl rfl hplace
    have htake : takeState tok vs.length vs true s = (2, s) := by
      unfold takeState
      rw [hplace]
      simp
    refine congrArg Host.Outcome.next ((doHandoff_of_move hears hpv hm).trans ?_)
    rw [hheld, htake]
    rfl
  · intro htakes
    refine congrArg Host.Outcome.next ((doHandoff_of_none hinn hpulls).trans (if_neg ?_))
    simp [htakes]
  · intro hears hpv htakes
    exact congrArg Host.Outcome.next ((doHandoff_of_none hinn hpulls).trans (if_pos (by simp [hears, hpv, htakes])))
  · exact fun hmoving => congrArg Host.Outcome.next ((if_pos hkeeps).trans (if_pos ⟨hrole, hmoving⟩))
  · exact fun hmoving => congrArg Host.Outcome.next ((if_pos hkeeps).trans (if_neg fun h => by simp [hmoving] at h))
  · rintro ⟨m, hmem, hnode, hst⟩
    refine congrArg Host.Outcome.next ((if_pos hkeeps).trans ?_)
    unfold takeClaim
    rw [hx]
    refine if_pos ?_
    have hgone : (s.comp.map.members.any fun m => m.node == x.owner && m.st == 1) = true :=
      List.any_eq_true.2 ⟨m, hmem, by simp [hnode, hst]⟩
    simp only [hrole, hrecv, hepoch, hgone]
    simp
  · intro hnone
    refine congrArg Host.Outcome.next ((if_pos hkeeps).trans ?_)
    unfold takeClaim
    rw [hx]
    refine if_neg ?_
    have hgone (n : Nat) : (s.comp.map.members.any fun m => m.node == n && m.st == 1) = false :=
      List.any_eq_false.2 fun m hm => by simp [hnone m hm]
    simp [hgone]
  · intro hrole
    refine ⟨congrArg Host.Outcome.next ?_, congrArg Host.Outcome.next ?_⟩
    · unfold doMoveDone takeMoveDone
      split
      · exact if_neg fun h => hrole h.1
      · rfl
    · unfold doHoldClaim takeClaim
      split
      · split
        · exact if_neg (by simp [hrole])
        · rfl
      · rfl
  · intro p ep sent hears hstg
    exact congrArg Host.Outcome.next (if_pos (by rw [hears, hstg]; simp))
  · intro p ep sent vs h
    refine congrArg Host.Outcome.next (if_neg ?_)
    rcases h with h | h
    · simp [h]
    · simp [h]

end Sys2Proof.Machine

/-! ## Map entries, suspension, return and joining (R359, R372 to R376) -/

namespace Sys2Proof.Machine
-- The whole text is compiled by one process of limited memory: one proof at a time keeps it small.
set_option Elab.async false

/-! ## Activation of map entries -/

/-- An entry that only the map records: this node has nothing to do when it takes effect. -/
def mapOnly (node : Nat) (e : MapEntry) : Prop := (∃ w, e = .policy w) ∨ (∃ n r, e = .role n r) ∨ (∃ n ips, e = .memberAdd n ips ∧ n ≠ node)

theorem afterEntry_of_mapOnly {old : CMap} {ep : Nat} {e : MapEntry} {act : Frame} {s : State} (h : mapOnly s.node e) :
    afterEntry old ep e act s = s := by
  rcases h with ⟨w, rfl⟩ | ⟨n, r, rfl⟩ | ⟨n, ips, rfl, hne⟩
  · rfl
  · rfl
  · exact if_neg hne

theorem apply_epoch (m : CMap) (e : MapEntry) (act : Frame) (node : Nat) (h : mapOnly node e) : (m.apply e act).epoch = m.epoch + 1 := by
  rcases h with ⟨w, rfl⟩ | ⟨n, r, rfl⟩ | ⟨n, ips, rfl, -⟩ <;> rfl

theorem apply_drains {m : CMap} {e : MapEntry} {act : Frame} {node : Nat} (h : mapOnly node e) (hm : ∀ x ∈ m.members, x.st ≠ 2) :
    ∀ x ∈ (m.apply e act).members, x.st ≠ 2 := by
  intro x hx
  rcases h with ⟨w, rfl⟩ | ⟨n, r, rfl⟩ | ⟨n, ips, rfl, -⟩
  · exact hm x hx
  · obtain ⟨y, hy, rfl⟩ := mem_mapIf.1 hx
    have hst := hm y hy
    split
    · exact hst
    · exact hst
  · rcases List.mem_append.1 hx with hx | hx
    · exact hm x hx
    · rw [List.mem_singleton.1 hx]
      exact Nat.zero_ne_add_one 1

/-- One committed entry whose frame has come, in effect. -/
def State.withEntry (e : MapEntry) (act : Frame) (s : State) : State :=
  { s with comp := { s.comp with map := s.comp.map.apply e act, pend := [], applied := s.comp.applied ++ [(e, act)] } }

theorem applyEntries_of_one {s : State} {e : MapEntry} {act : Frame} (hpend : s.comp.pend = [(s.comp.map.epoch + 1, e, act)])
    (hact : act ≤ s.hfn) (he : mapOnly s.node e) : applyEntries s.comp.pend.length s = s.withEntry e act := by
  have hfind : s.comp.pend.find? (fun x => x.1 == s.comp.map.epoch + 1 && decide (x.2.2 ≤ s.hfn)) = some (s.comp.map.epoch + 1, e, act) := by
    rw [hpend]
    simp [hact]
  have hrest : s.comp.pend.filter (fun y => decide (s.comp.map.epoch + 1 < y.1)) = [] := by
    rw [hpend]
    simp
  rw [show s.comp.pend.length = 0 + 1 by rw [hpend]; rfl]
  unfold applyEntries
  rw [hfind]
  dsimp only
  rw [hrest]
  exact afterEntry_of_mapOnly (s := s.withEntry e act) he

theorem drainStep_of_none {s : State} (h : ∀ m ∈ s.comp.map.members, m.st ≠ 2) : drainStep s = s := by
  unfold drainStep
  rw [List.filter_eq_nil_iff.2 fun m hm => by simp [h m hm]]
  rfl

theorem pumpMapHeld_of_none {s : State} (h : s.fab.held = []) : pumpMapHeld s = s := by
  unfold pumpMapHeld
  rw [h]
  rfl

theorem doActivate_of_one {s : State} {e : MapEntry} {act : Frame} (hlive : s.live = true) (hslot : s.clk.slot = none)
    (hpend : s.comp.pend = [(s.comp.map.epoch + 1, e, act)]) (hact : act ≤ s.hfn) (he : mapOnly s.node e)
    (hdrain : ∀ m ∈ s.comp.map.members, m.st ≠ 2) (hheld : s.fab.held = []) :
    ∃ data, doActivate s = reloadShares (nodeEvent evMapEpoch data (s.withEntry e act)) := by
  have hcond : (s.live && s.clk.slot.isNone && s.comp.pend.any fun x => x.1 == s.comp.map.epoch + 1 && decide (x.2.2 ≤ s.hfn)) = true := by
    rw [hlive, hslot, hpend]
    simp [hact]
  have hevent (data : List Byte) : pumpMapHeld (drainStep (nodeEvent evMapEpoch data (s.withEntry e act))) =
      nodeEvent evMapEpoch data (s.withEntry e act) := by
    have hk := nodeEvent_keeps evMapEpoch data (s.withEntry e act)
    rw [drainStep_of_none, pumpMapHeld_of_none]
    · exact (congrArg Fabric.held hk.fab).trans hheld
    · rw [hk.comp]
      exact apply_drains he hdrain
  unfold doActivate
  rw [if_pos hcond, applyEntries_of_one hpend hact he]
  exact ⟨_, congrArg reloadShares (hevent _)⟩

theorem doActivate_of_early {s : State}
    (h : s.clk.slot ≠ none ∨ ∀ x ∈ s.comp.pend, x.1 = s.comp.map.epoch + 1 → s.hfn < x.2.2) : doActivate s = s := by
  refine if_neg ?_
  rcases h with h | h
  · simp [h]
  · have hany : (s.comp.pend.any fun x => x.1 == s.comp.map.epoch + 1 && decide (x.2.2 ≤ s.hfn)) = false :=
      List.any_eq_false.2 fun x hx => by
        simp only [Bool.and_eq_true, beq_iff_eq, decide_eq_true_eq, not_and, Nat.not_le]
        exact h x hx
    simp [hany]

/-! ## Suspension and return -/

theorem doCatchUp_of_caught {s : State} {p : Nat} (hlive : s.live = true) (hstate : (s.corpus p).rstate = .provisional)
    (hsusp : s.suspended = false) (hsettled : s.hfn ≤ (s.corpus p).settledF + 1) (hpulls : ∀ x ∈ s.comp.pulls, x.1 ≠ p)
    (hdark : ∀ x ∈ s.comp.map.plots, ¬ (x.pv = p ∧ x.owner = s.node ∧ x.st = .dark)) :
    doCatchUp p [] [] s = { s with corpora := modifyAt s.corpora p fun c => { c with rstate := .confirmed } } := by
  have hnone : (s.comp.pulls.any fun x => x.1 == p) = false := List.any_eq_false.2 fun x hx => by simpa using hpulls x hx
  have hplots : (s.comp.map.plots.filter fun x => x.pv == p && x.owner == s.node && x.st == .dark) = [] :=
    List.filter_eq_nil_iff.2 fun x hx => by simpa [and_assoc] using hdark x hx
  unfold doCatchUp
  dsimp only
  rw [if_pos (by simp [hlive, hstate, hsusp, hsettled, hnone])]
  refine Eq.trans ?_ (congrArg (fun ps : List CPlot => ps.foldl (fun t x => propose (.plots p x.plot 1 t.node x.reps) none none t)
    { s with corpora := modifyAt s.corpora p fun c => { c with rstate := .confirmed } }) hplots)
  rfl

theorem doCatchUp_of_excluded {s : State} {p : Nat} (vs : List (Nat × PlotVer)) (adm : List (Nat × Frame × Nat))
    (h : (s.corpus p).rstate ≠ .provisional ∨ s.suspended = true ∨ (s.corpus p).settledF + 1 < s.hfn) : doCatchUp p vs adm s = s := by
  refine if_neg ?_
  rcases h with h | h | h
  · simp [h]
  · simp [h]
  · simp [Nat.not_le.2 h]

theorem doRejoinLimit_of_suspended {s : State} {n : Nat} {m : CMember}
    (hm : s.comp.map.members.find? (fun m => m.node == n && m.st == 1) = some m) :
    doRejoinLimit n s = if s.live && decide (m.susAt + fld s.comp.mapEff 31 24 * 50000 < s.hfn) then keeperLog (.memberRemove n) s else s := by
  unfold doRejoinLimit
  rw [hm]

theorem doRejoinLimit_of_none {s : State} {n : Nat} (h : ∀ m ∈ s.comp.map.members, ¬ (m.node = n ∧ m.st = 1)) : doRejoinLimit n s = s := by
  unfold doRejoinLimit
  rw [List.find?_eq_none.2 fun m hm => by simpa using h m hm]

/-- Settles O25: each entry, report and check by the condition that it waits for. -/
theorem mapChanges : Obligations.MapChanges := by
  unfold Obligations.MapChanges
  refine fun s => ⟨?_, fun h => congrArg Host.Outcome.next (doActivate_of_early h), fun n => ⟨?_, ?_⟩, ?_, ?_, fun p vs adm => ⟨?_, ?_⟩,
    fun n m hm => ⟨?_, ?_⟩, fun n h => congrArg Host.Outcome.next (doRejoinLimit_of_none h), ?_, ?_⟩
  · intro e act hlive hslot hpend hact he hdrain hheld
    obtain ⟨data, hdo⟩ := doActivate_of_one hlive hslot hpend hact he hdrain hheld
    have hk : Keeps [.out, .fns, .qos] (s.withEntry e act) (reloadShares (nodeEvent evMapEpoch data (s.withEntry e act))) :=
      ((nodeEvent_keeps ..).mono rfl).after (reloadShares_keeps _) rfl
    refine ⟨_, congrArg Host.Outcome.next hdo, ?_, ?_, ?_, ?_, hk.corpora, hk.works⟩
    · rw [hk.comp]
      rfl
    · rw [hk.comp]
      exact apply_epoch _ _ _ s.node he
    · rw [hk.comp]
      rfl
    · rw [hk.comp]
      rfl
  · rintro hlive hsusp ⟨x, hx, hsilent⟩ hprops
    refine congrArg Host.Outcome.next (if_pos ?_)
    have hany : ((s.corpora.flatMap fun c => c.peers.filter (·.node == n)).any fun x => decide (fld s.comp.mapEff 23 16 * 1000 ≤ x.silent)) = true :=
      List.any_eq_true.2 ⟨x, hx, decide_eq_true hsilent⟩
    simp only [hlive, hsusp, hprops, hany]
    rfl
  · intro h
    refine congrArg Host.Outcome.next (if_neg ?_)
    rcases h with h | h
    · have hany : ((s.corpora.flatMap fun c => c.peers.filter (·.node == n)).any fun x =>
          decide (fld s.comp.mapEff 23 16 * 1000 ≤ x.silent)) = false :=
        List.any_eq_false.2 fun x hx => by simpa using h x hx
      rw [hany]
      simp
    · simp [h]
  · intro hlive hsusp halign hprops
    exact congrArg Host.Outcome.next (if_pos (by simp [hlive, hsusp, halign, hprops]))
  · intro h
    refine congrArg Host.Outcome.next (if_neg ?_)
    rcases h with h | h
    · simp [h]
    · simp [h]
  · intro hlive hstate hsusp hsettled hpulls hdark
    exact congrArg Host.Outcome.next (doCatchUp_of_caught hlive hstate hsusp hsettled hpulls hdark)
  · exact fun h => congrArg Host.Outcome.next (doCatchUp_of_excluded vs adm h)
  · intro hlive hlate
    exact congrArg Host.Outcome.next ((doRejoinLimit_of_suspended hm).trans (if_pos (by rw [hlive, decide_eq_true hlate]; rfl)))
  · intro hearly
    exact congrArg Host.Outcome.next ((doRejoinLimit_of_suspended hm).trans (if_neg (by simp [Nat.not_lt.2 hearly])))
  · rintro hlive hjoined ⟨m, hm, hnode⟩
    have hany : (s.comp.map.members.any fun x => x.node == s.node) = true := List.any_eq_true.2 ⟨m, hm, by simp [hnode]⟩
    have hcheck : (s.live && !s.comp.joined && s.comp.map.members.any fun x => x.node == s.node) = true := by rw [hlive, hjoined, hany]; rfl
    refine ⟨fun halign => congrArg Host.Outcome.next ((if_pos hcheck).trans (if_pos (by rw [halign]; rfl))), fun o d h =>
      congrArg Host.Outcome.next ((if_pos hcheck).trans (if_neg ?_))⟩
    rcases h with h | h | h
    · simp [h]
    · simp [h]
    · simp [h]
  · intro o d h
    refine congrArg Host.Outcome.next (if_neg ?_)
    rcases h with h | h
    · simp [h]
    · have hany : (s.comp.map.members.any fun x => x.node == s.node) = false := List.any_eq_false.2 fun m hm => by simpa using h m hm
      simp [hany]

end Sys2Proof.Machine

/-! ## MAP_PROPOSE (R357, R368, R376, R377, R418, R420, R421) -/

namespace Sys2Proof.Machine
-- The whole text is compiled by one process of limited memory: one proof at a time keeps it small.
set_option Elab.async false

theorem readBlock_of_some (c : Nat) (b : List Byte) (s : State) : readBlock c (some b) s = s.blockRead c b.length := hostRead_eq ..

theorem readBlock_of_none (c : Nat) (s : State) : readBlock c none s = s.blockRead c 64 := hostRead_eq ..

/-- A block that the Grounds can read is given to its command. -/
theorem groundsBlock_of_good {s : State} {c cmd least : Nat} {b : List Byte} (f : Nat → List Byte → State → State) (hlive : s.live = true)
    (hwaits : s.waits c cmd = true) (hword : s.wordBad c = false) (hlen : blockLen least (some b) ≠ none) :
    groundsBlock c cmd least (some b) f s = f (s.blkAddr c) b (s.blockRead c b.length) := by
  obtain ⟨n, hn⟩ := Option.ne_none_iff_exists'.1 hlen
  unfold groundsBlock
  rw [hlive, hwaits, hword, hn, readBlock_of_some]
  rfl

theorem groundsBlock_of_none {s : State} {c cmd least : Nat} (f : Nat → List Byte → State → State) (hlive : s.live = true)
    (hwaits : s.waits c cmd = true) (hword : s.wordBad c = false) :
    groundsBlock c cmd least none f s = chanAck c rcBadBlock (s.blockRead c 64) := by
  unfold groundsBlock
  rw [hlive, hwaits, hword, readBlock_of_none]
  rfl

/-- A well-formed block of a kind is given to that kind's rule, with the command taken. -/
theorem mapPropose_of_takes {s : State} {kind len : Nat} {b : List Byte} (resv : List Byte → Bool) (f : List Byte → State → State)
    (h : s.mapTakes b kind len) : mapPropose kind len resv (some b) f s = if resv b = true then f b (s.mapTaken b)
      else chanAck 1 rcBadBlock (s.blockRead 1 b.length) := by
  obtain ⟨hlive, hwaits, hword, hlen, hkind, hblen, hzero⟩ := h
  unfold mapPropose
  dsimp only [Option.getD_some]
  rw [if_pos (Or.inr (Or.inl hkind)), groundsBlock_of_good _ hlive hwaits hword hlen, if_neg (by simp [hkind]), hblen, hzero]
  cases resv b
  · exact if_pos (.inr (.inr rfl))
  · exact if_neg (by simp)

theorem mapPropose_of_none {s : State} (kind len : Nat) (resv : List Byte → Bool) (f : List Byte → State → State) (hlive : s.live = true)
    (hwaits : s.waits 1 0x20 = true) (hword : s.wordBad 1 = false) :
    mapPropose kind len resv none f s = chanAck 1 rcBadBlock (s.blockRead 1 64) := by
  unfold mapPropose
  dsimp only
  rw [if_pos (Or.inl rfl), groundsBlock_of_none _ hlive hwaits hword]

theorem mapPropose_of_other {s : State} {kind len : Nat} {b : List Byte} (resv : List Byte → Bool) (f : List Byte → State → State)
    (hne : field b 16 1 ≠ kind) (h0 : 1 ≤ field b 16 1) (h7 : field b 16 1 ≤ 7) : mapPropose kind len resv (some b) f s = s := by
  refine if_neg ?_
  rw [Option.getD_some]
  rintro (h | h | h | h)
  · cases h
  · exact hne h
  · omega
  · omega

/-- A block of SLICES is well formed: its unused bytes are 0 and its link mask has 20 bits. -/
theorem slices_resv {b : List Byte} (hresv : zeroAt b 66 62 = true) (hlink : field b 62 4 < 0x100000) :
    (zeroAt b 66 62 && field b 62 4 / 2 ^ 20 == 0) = true := by
  have hdiv : field b 62 4 / 2 ^ 20 = 0 := Nat.div_eq_of_lt hlink
  rw [hresv, hdiv]
  rfl

theorem doSlices_of_kept {s : State} {b : List Byte} (h : s.mapTakes b 1 128) (hresv : zeroAt b 66 62 = true) (hlink : field b 62 4 < 0x100000)
    (hpv : field b 17 1 < 12) (hkept : field b 18 2 ≠ s.node ∨ s.comp.map.slice? (field b 18 2) (field b 17 1) = none) :
    doSlices (some b) s = hostPropose (.slices (field b 18 2) (field b 17 1) (field b 24 18) (field b 42 12) (field b 54 8) (field b 62 4))
      (s.mapTaken b) := by
  refine (mapPropose_of_takes _ _ h).trans ((if_pos (slices_resv hresv hlink)).trans ((if_neg (Nat.not_le.2 hpv)).trans ?_))
  refine if_neg ?_
  rintro ⟨hnode, hloses, -⟩
  rcases hkept with h | h
  · exact h hnode
  · rw [show (s.mapTaken b).comp.map.slice? (field b 18 2) (field b 17 1) = none from h] at hloses
    cases hloses

/-- Settles O26: each kind of block is proposed or refused as its fields say. -/
theorem mapProposals : Obligations.MapProposals := by
  unfold Obligations.MapProposals
  refine fun s => ⟨fun b h hresv hlink => ⟨fun hpv => ?_, fun hpv hkept => ?_⟩, fun b h hresv => ⟨fun hpv => ?_, fun hpv => ?_⟩,
    fun b h hresv => ⟨fun hbad => ?_, fun hpv hplot hrep => ?_⟩, fun b h hresv => ?_, fun b h hresv => ?_,
    fun b h hresv => ⟨fun hbad => ?_, fun hok => ?_⟩, fun b h hresv hresv' => ⟨fun h3 h5 => ?_, fun h3 => ?_⟩, fun b h hresv => ?_,
    fun b h hresv => ?_, fun k h1 h7 b hk h5 => ?_, fun hlive hwaits hword c hc => ?_⟩
  · exact congrArg Host.Outcome.next ((mapPropose_of_takes _ _ h).trans ((if_pos (slices_resv hresv hlink)).trans (if_pos hpv)))
  · exact congrArg Host.Outcome.next (doSlices_of_kept h hresv hlink hpv hkept)
  · exact congrArg Host.Outcome.next ((mapPropose_of_takes _ _ h).trans ((if_pos hresv).trans (if_pos hpv)))
  · exact congrArg Host.Outcome.next ((mapPropose_of_takes _ _ h).trans ((if_pos hresv).trans (if_neg (Nat.not_le.2 hpv))))
  · refine congrArg Host.Outcome.next ((mapPropose_of_takes _ _ h).trans ((if_pos hresv).trans (if_pos ?_)))
    rcases hbad with h | h | h
    · simp [h]
    · have h' : 2 ^ 20 ≤ field b 24 4 := h
      simp only [decide_eq_true h', Bool.true_or, Bool.or_true]
    · simp [h]
  · refine congrArg Host.Outcome.next ((mapPropose_of_takes _ _ h).trans ((if_pos hresv).trans (if_neg ?_)))
    simp only [Bool.or_eq_true, decide_eq_true_eq]
    omega
  · exact congrArg Host.Outcome.next ((mapPropose_of_takes _ _ h).trans (if_pos hresv))
  · exact congrArg Host.Outcome.next ((mapPropose_of_takes _ _ h).trans (if_pos hresv))
  · exact congrArg Host.Outcome.next ((mapPropose_of_takes _ _ h).trans ((if_pos hresv).trans (if_pos hbad)))
  · exact congrArg Host.Outcome.next ((mapPropose_of_takes _ _ h).trans ((if_pos hresv).trans (if_neg (Nat.not_lt.2 hok))))
  · exact congrArg Host.Outcome.next ((mapPropose_of_takes _ _ h).trans ((if_pos (by rw [hresv, hresv']; rfl)).trans (if_pos ⟨h3, h5⟩)))
  · refine congrArg Host.Outcome.next ((mapPropose_of_takes _ _ h).trans ((if_pos (by rw [hresv, hresv']; rfl)).trans
      ((if_neg fun h => h.1 h3).trans ?_)))
    rw [h3]
    rfl
  · exact congrArg Host.Outcome.next ((mapPropose_of_takes _ _ h).trans (if_neg (by rw [hresv]; exact Bool.false_ne_true)))
  · refine congrArg Host.Outcome.next ((mapPropose_of_takes _ _ h).trans (if_neg ?_))
    rcases hresv with h | h
    · simp [h]
    · simp [h]
  · subst hk
    exact congrArg Host.Outcome.next (mapPropose_of_other _ _ h5 h1 h7)
  · simp only [List.mem_cons, List.not_mem_nil, or_false] at hc
    rcases hc with rfl | rfl | rfl | rfl | rfl | rfl | rfl
    all_goals exact congrArg Host.Outcome.next (mapPropose_of_none _ _ _ _ hlive hwaits hword)

end Sys2Proof.Machine

/-! ## Merge passes and recovery (R75, R180 to R185, R194, R222, R316) -/

namespace Sys2Proof.Machine
-- The whole text is compiled by one process of limited memory: one proof at a time keeps it small.
set_option Elab.async false

/-! ## Corpora and work items -/

/-- A pavilion that exists reads back what was written to its corpus. -/
theorem corpus_modCorpus (p : Nat) (g : Corpus → Corpus) {s : State} (h : p < s.corpora.length) : (modCorpus p g s).corpus p = g (s.corpus p) :=
  getD_modifyAt_self _ _ _ _ h

theorem corpora_length_modCorpus (p : Nat) (g : Corpus → Corpus) (s : State) : (modCorpus p g s).corpora.length = s.corpora.length :=
  modifyAt_length ..

/-- A work item whose turn has come is given to its opcode's rule. -/
theorem admitWork_of_admits {s : State} {op wid : Nat} {w : Work} (f : Work → State → State) (h : s.admitsWork op wid w) :
    admitWork op wid f s = f w s := by
  obtain ⟨hw, hadm, hstage, hop, hfn, hcomp⟩ := h
  unfold admitWork
  rw [hw]
  dsimp only
  rw [if_pos (by simp [hadm, hstage, hop, hfn]), if_pos hcomp]

/-! ## The start of a pass -/

/-- A pass of a pavilion may start (R180). -/
def State.startsPass (s : State) (p : Nat) : Prop := s.live = true ∧ s.clk.slot = none ∧ (s.corpus p).merge = none ∧
  (s.corpus p).resketch = none ∧ (s.corpus p).rstate = .confirmed

/-- The pass that a work item starts over the parts of a mask. -/
def State.newPass (s : State) (p wid mask : Nat) (plots : List (Nat × Nat)) (c : Corpus) : MergePass :=
  let m := (s.corpus p).settledF
  let h := s.retireAt p m
  ⟨some wid, mask, s.hfn, m, h,
    (s.corpus p).stores.flatMap fun x => (quadsIn mask).map fun q => (x.epoch, q, ((x.parts[q]?).map LeanPart.prefixN).getD 0), c.retires mask h, plots⟩

/-- The first pass of the queue has started. -/
def State.passStarted (s : State) (p wid mask : Nat) (plots : List (Nat × Nat)) (rest : List (Nat × Nat)) : State :=
  modCorpus p (fun c => { c with merge := some (s.newPass p wid mask plots c), retireH := max c.retireH (s.newPass p wid mask plots c).retire })
    (modCorpus p (fun c => { c with mergeQ := rest }) s)

theorem doMergeStart_of_queued {s : State} {p wid m mask : Nat} {plots rest : List (Nat × Nat)} (tags : List (Nat × Nat × List Byte))
    (h : s.startsPass p) (hq : (s.corpus p).mergeQ = (wid, m) :: rest) :
    doMergeStart p mask plots tags s = tags.foldl (fun s x => if tagNames p x.1 x.2.1 x.2.2 then s else tagError p x.1 x.2.1 s)
      (s.passStarted p wid m plots rest) := by
  obtain ⟨hlive, hslot, hmerge, hresk, hstate⟩ := h
  unfold doMergeStart
  dsimp only
  rw [if_pos (by simp [hlive, hslot, hmerge, hresk, hstate]), hq]
  dsimp only
  refine congrArg (fun t => List.foldl _ t tags) ?_
  rfl

theorem doMergeStart_of_excluded {s : State} {p mask : Nat} (plots : List (Nat × Nat)) (tags : List (Nat × Nat × List Byte))
    (h : s.clk.slot ≠ none ∨ (s.corpus p).merge ≠ none ∨ (s.corpus p).resketch ≠ none ∨ (s.corpus p).rstate ≠ .confirmed) :
    doMergeStart p mask plots tags s = s := by
  refine if_neg ?_
  rcases h with h | h | h | h <;> simp [h]

/-! ## Publication and reuse -/

/-- A pass may publish (R182, R355). -/
def State.mayPublish (s : State) (p : Nat) (x : MergePass) : Prop := s.live = true ∧ s.clk.slot = none ∧ x.b0 < s.hfn ∧
  s.tilesFit p (s.corpus p) (Corpus.publish p s x (s.corpus p)) = true

/-- The corpus once a pass has published and its index checkpoint has begun. -/
def Corpus.published (p : Nat) (s : State) (x : MergePass) (c : Corpus) : Corpus :=
  { Corpus.publish p s x c with
    ckptNew := some ((Corpus.publish p s x c).copyAt x.horizon, x.work, sumNat (x.taken.map (·.2.2))) }

theorem modCorpus_modCorpus (p : Nat) (f g : Corpus → Corpus) (s : State) : modCorpus p g (modCorpus p f s) = modCorpus p (fun c => g (f c)) s := by
  unfold modCorpus
  dsimp only
  rw [modifyAt_eq_modify, modifyAt_eq_modify, modifyAt_eq_modify, List.modify_modify_eq]
  rfl

/-- Freeing element numbers changes nothing of a corpus but its element numbers. -/
theorem freeElems_corpus (p : Nat) {s : State} (h : p < s.corpora.length) :
    ∃ es, (freeElems p s).corpus p = { s.corpus p with elems := es } := ⟨_, corpus_modCorpus p _ h⟩

/-- The tiles of running scan batches once a pass has retired versions of their slots. -/
def State.withTiles (p : Nat) (retired : List (Nat × Frame × Nat)) (s : State) : State :=
  let tile (t : ScanTile) : ScanTile := if t.pv = p then { t with slots := t.slots.map (retireSlot retired) } else t
  { s with scan := { s.scan with batches := s.scan.batches.map fun b => { b with tiles := b.tiles.map tile } } }

theorem doMergePublish_of_due {s : State} {p : Nat} {x : MergePass} (hx : (s.corpus p).merge = some x) (h : s.mayPublish p x) (hp : p < s.corpora.length) :
    ∃ es, (doMergePublish p s).corpus p = { Corpus.published p s x (s.corpus p) with elems := es } ∧ (doMergePublish p s).out = s.out := by
  obtain ⟨hlive, hslot, hb0, hfit⟩ := h
  have hcond : (s.live && s.clk.slot.isNone && decide (x.b0 < s.hfn) && s.tilesFit p (s.corpus p) (Corpus.publish p s x (s.corpus p))) = true := by
    simp [hlive, hslot, hb0, hfit]
  have htwo : (modCorpus p (fun c => { c with ckptNew := some (c.copyAt x.horizon, x.work, sumNat (x.taken.map (·.2.2))) })
      (modCorpus p (Corpus.publish p s x) s)).corpus p = Corpus.published p s x (s.corpus p) := by
    rw [modCorpus_modCorpus, corpus_modCorpus p _ hp]
    rfl
  unfold doMergePublish
  rw [hx]
  dsimp only
  rw [if_pos hcond]
  generalize hs2 : modCorpus p (fun c => { c with ckptNew := some (c.copyAt x.horizon, x.work, sumNat (x.taken.map (·.2.2))) })
    (modCorpus p (Corpus.publish p s x) s) = t at htwo
  have hlen : p < t.corpora.length := by
    rw [← hs2, corpora_length_modCorpus, corpora_length_modCorpus]
    exact hp
  have hout : t.out = s.out := by rw [← hs2]; rfl
  obtain ⟨es, hes⟩ := freeElems_corpus p (s := t.withTiles p x.retired) hlen
  exact ⟨es, hes.trans (congrArg (fun c : Corpus => { c with elems := es }) htwo), (freeElems_keeps ..).out.trans hout⟩

theorem doMergePublish_of_early {s : State} {p : Nat} {x : MergePass} (hx : (s.corpus p).merge = some x)
    (h : s.clk.slot ≠ none ∨ s.hfn ≤ x.b0) : doMergePublish p s = s := by
  unfold doMergePublish
  rw [hx]
  refine if_neg ?_
  rcases h with h | h
  · simp [h]
  · simp [Nat.not_lt.2 h]

/-- No scan batch of a view up to a boundary runs. -/
def State.viewsPast (s : State) (b1 : Frame) : Bool := !(s.scan.batches.any fun b => match b.view with | some v => decide (v ≤ b1) | none => false)

theorem viewsPast_iff {s : State} {b1 : Frame} : s.viewsPast b1 = true ↔ ∀ b ∈ s.scan.batches, ∀ v, b.view = some v → b1 < v := by
  unfold State.viewsPast
  rw [Bool.not_eq_true', List.any_eq_false]
  refine forall₂_congr fun b hb => ?_
  cases b.view with
  | none => simp
  | some v => simp

/-- What a reuse gives back. -/
def Corpus.reused (r : ReuseWait) (rest : List ReuseWait) (c : Corpus) : Corpus :=
  let c := r.parts.foldl (fun c t => c.modStore t.1 fun x => x.modPart t.2.1 fun l => { l with freed := l.freed - t.2.2 }) c
  { c with reuse := rest, stores := c.stores.map fun x => { x with freeTiles := x.freeTiles ++ (r.tiles.filter (·.1 == x.epoch)).map (·.2) } }

theorem doLeantoReuse_of_first {s : State} {p : Nat} {r : ReuseWait} {rest : List ReuseWait} (h : (s.corpus p).reuse = r :: rest) :
    doLeantoReuse p s = if s.live && s.viewsPast r.b1 then modCorpus p (Corpus.reused r rest) s else s := by
  unfold doLeantoReuse
  rw [h] <;> rfl

/-! ## The index copy -/

/-- The corpus once an index checkpoint has committed (R185). -/
def Corpus.committedCopy (i : IndexCopy) (c : Corpus) : Corpus :=
  { c with
    index := some { i with
      stores := (c.stores.filter fun x => ((c.cur.toList ++ c.stg.toList ++ c.ret.toList).map (·.epoch)).contains x.epoch).map fun x =>
        ((i.stores ++ (c.index.map (·.stores)).getD []).find? (·.epoch == x.epoch)).getD x.bare
      cur := c.cur, stg := c.stg, ret := c.ret, retC := c.retC, d0 := c.d0, resketchDone := c.resketchDone }
    ckptNew := none
    ckpt := max c.ckpt i.frame
    journal := c.journal.filter fun j => decide (max c.ckpt i.frame < j.ent.ent.ver) }

theorem doIndexCommit_of_new {s : State} {p n : Nat} {i : IndexCopy} {wid : Option Nat} (h : (s.corpus p).ckptNew = some (i, wid, n))
    (hlive : s.live = true) (hflush : s.flushing = false) :
    doIndexCommit p s = match (generalizing := false) wid with
      | some w => completeId w .ok 0 (spec3 0 n i.frame) (modCorpus p (Corpus.committedCopy i) s)
      | none => modCorpus p (Corpus.committedCopy i) s := by
  have hgo : (s.live && !s.flushing) = true := by rw [hlive, hflush]; rfl
  unfold doIndexCommit
  split
  · next hnone => rw [hnone] at h; cases h
  · next i' wid' n' hsome =>
    rw [hsome] at h
    cases h
    rw [if_pos hgo]
    cases wid <;> rfl

/-- The copy of an epoch that the checkpoint holds is the one that it commits. -/
theorem committedCopy_store {c : Corpus} {i : IndexCopy} {x y : Store} {b : Bundle} (hx : x ∈ i.stores)
    (hb : c.cur = some b ∨ c.stg = some b ∨ c.ret = some b) (hbx : b.epoch = x.epoch) (hy : y ∈ c.stores) (hyx : y.epoch = x.epoch) :
    ∃ z ∈ (c.stores.filter fun x => ((c.cur.toList ++ c.stg.toList ++ c.ret.toList).map (·.epoch)).contains x.epoch).map fun x =>
        ((i.stores ++ (c.index.map (·.stores)).getD []).find? (·.epoch == x.epoch)).getD x.bare,
      i.stores.find? (·.epoch == x.epoch) = some z := by
  obtain ⟨z, hz⟩ : ∃ z, i.stores.find? (·.epoch == x.epoch) = some z := by
    refine Option.isSome_iff_exists.1 ?_
    rw [List.find?_isSome]
    exact ⟨x, hx, by simp⟩
  refine ⟨z, List.mem_map.2 ⟨y, List.mem_filter.2 ⟨hy, ?_⟩, ?_⟩, hz⟩
  · rw [List.contains_iff_mem]
    refine List.mem_map.2 ⟨b, ?_, hbx.trans hyx.symm⟩
    simp only [List.mem_append, Option.mem_toList]
    tauto
  · rw [List.find?_append, hyx, hz]
    rfl

/-! ## Recovery -/

/-- What a replay leaves as the index copy has it. -/
def Corpus.loaded (c : Corpus) : Option Bundle × W32 × W32 × RState × Frame := (c.cur, c.corpusCfg, c.vecBase, c.rstate, c.fCkpt)

theorem addDel_loaded (c : Corpus) (d : DelEnt) : (c.addDel d).loaded = c.loaded := by
  unfold Corpus.addDel
  dsimp only
  split <;> rfl

theorem lateDel_loaded (c : Corpus) (r : Rec) (node : Nat) : (c.lateDel r node).loaded = c.loaded := by
  unfold Corpus.lateDel
  dsimp only
  split
  · exact addDel_loaded ..
  · rfl

theorem foldl_loaded {α : Type} {f : Corpus → α → Corpus} (h : ∀ c a, (f c a).loaded = c.loaded) (l : List α) (c : Corpus) :
    (l.foldl f c).loaded = c.loaded := by
  induction l generalizing c with
  | nil => rfl
  | cons a l ih => exact (ih (f c a)).trans (h c a)

theorem note_loaded (c : Corpus) (eid f node : Nat) : (c.note eid f node).loaded = c.loaded := by
  refine foldl_loaded (fun c v => ?_) (c.versions eid) c
  split
  · exact addDel_loaded ..
  · split
    · split
      · split
        · exact addDel_loaded ..
        · rfl
      · rfl
    · rfl

theorem replay1_loaded (rd : Nat → Nat → List Byte) (c : Corpus) (j : Journal) : (Corpus.replay1 rd c j).loaded = c.loaded := by
  unfold Corpus.replay1
  extract_lets k e c0 c1 c2 c3
  have h1 : c1.loaded = c.loaded := by
    unfold c1
    split <;> rfl
  have h2 : c2.loaded = c1.loaded := rfl
  have h3 : c3.loaded = c2.loaded := by
    unfold c3
    split
    · rfl
    · exact lateDel_loaded ..
  exact (note_loaded ..).trans (h3.trans (h2.trans h1))

theorem load_loaded (f : Frame) (rd : Nat → Nat → List Byte) (c : Corpus) :
    (Corpus.load f rd c).rstate = .provisional ∧ (Corpus.load f rd c).fCkpt = c.ckpt ∧
      ∀ i, c.index = some i → (Corpus.load f rd c).cur = i.cur ∧ (Corpus.load f rd c).corpusCfg = i.corpusCfg ∧
        (Corpus.load f rd c).vecBase = i.vecBase := by
  unfold Corpus.load
  extract_lets c1 c2 c3
  have h3 : c3.loaded = c2.loaded := foldl_loaded (fun c j => replay1_loaded rd c j) _ _
  have hstate : c3.rstate = c2.rstate := congrArg (fun x => x.2.2.2.1) h3
  have hckpt : c3.fCkpt = c2.fCkpt := congrArg (fun x => x.2.2.2.2) h3
  have hcur : c3.cur = c2.cur := congrArg (fun x => x.1) h3
  have hcfg : c3.corpusCfg = c2.corpusCfg := congrArg (fun x => x.2.1) h3
  have hbase : c3.vecBase = c2.vecBase := congrArg (fun x => x.2.2.1) h3
  refine ⟨hstate, hckpt.trans ?_, fun i hi => ⟨hcur.trans ?_, hcfg.trans ?_, hbase.trans ?_⟩⟩
  · show c1.ckpt = c.ckpt
    unfold c1
    split <;> rfl
  · show c1.cur = i.cur
    unfold c1
    rw [hi]
  · show c1.corpusCfg = i.corpusCfg
    unfold c1
    rw [hi]
  · show c1.vecBase = i.vecBase
    unfold c1
    rw [hi]

theorem doIndexLoad_of_ready {s : State} {p : Nat} (hlive : s.live = true) (hstate : (s.corpus p).rstate = .loading)
    (hreplayed : s.flash.replayed = true) (hkey : (s.corpus p).index = none ∨ s.keyOk p = true) :
    doIndexLoad p s = loadWeights p (modCorpus p (Corpus.load s.hfn (s.range p).read) s) := by
  refine if_pos ?_
  rcases hkey with h | h
  · simp [hlive, hstate, hreplayed, h]
  · simp [hlive, hstate, hreplayed, h]

/-- Settles O27: each step of a pass, of its reuse and of recovery, by the state that it finds. -/
theorem mergesAndRecovery : Obligations.MergesAndRecovery := by
  unfold Obligations.MergesAndRecovery
  refine fun s p hp => ⟨fun wid w h hpv => ?_, fun wid m rest mask plots hlive hslot hmerge hresk hstate hq => ?_,
    fun mask plots tags h => congrArg Host.Outcome.next (doMergeStart_of_excluded plots tags h), fun x hx => ⟨?_, fun h =>
    congrArg Host.Outcome.next (doMergePublish_of_early hx h)⟩, fun r rest hr => ⟨?_, ?_⟩, fun i wid n hi hlive hflush => ⟨?_, ?_⟩, ?_, ?_, ?_, ?_⟩
  · refine congrArg Host.Outcome.next ((admitWork_of_admits _ h).trans ?_)
    unfold doMergePass
    rw [hpv]
    rfl
  · have h : s.startsPass p.val := ⟨hlive, hslot, hmerge, hresk, hstate⟩
    have hstart := doMergeStart_of_queued (mask := mask) (plots := plots) [] h hq
    have hcorpus : (s.passStarted p.val wid m plots rest).corpus p.val = { s.corpus p.val with
        mergeQ := rest, merge := some (s.newPass p.val wid m plots { s.corpus p.val with mergeQ := rest })
        retireH := max (s.corpus p.val).retireH (s.newPass p.val wid m plots { s.corpus p.val with mergeQ := rest }).retire } := by
      unfold State.passStarted
      rw [modCorpus_modCorpus, corpus_modCorpus _ _ hp]
    refine ⟨_, s.newPass p.val wid m plots { s.corpus p.val with mergeQ := rest }, congrArg Host.Outcome.next hstart,
      congrArg Corpus.merge hcorpus, rfl, rfl, rfl, rfl, rfl, congrArg Corpus.mergeQ hcorpus,
      (congrArg Corpus.stores hcorpus :), rfl, fun a b bs => ?_⟩
    exact congrArg Host.Outcome.next (doMergeStart_of_queued (mask := mask) (plots := plots) [(a, b, bs)] h hq)
  · intro hlive hslot hb0 hfit
    obtain ⟨es, hcorpus, hout⟩ := doMergePublish_of_due hx ⟨hlive, hslot, hb0, hfit⟩ hp
    refine ⟨_, (Corpus.publish p.val s x (s.corpus p.val)).copyAt x.horizon,
      ((s.corpus p.val).stores.map (Store.publish p.val s x)).flatMap (fun y => y.2.map fun n => (y.1.epoch, n)), rfl, ?_, ?_, ?_, rfl, ?_, ?_, hout⟩
    · exact congrArg Corpus.merge hcorpus
    · exact congrArg Corpus.reuse hcorpus
    · exact congrArg Corpus.ckptNew hcorpus
    · exact (congrArg (fun c : Corpus => c.stores.map Store.bare) hcorpus).symm
    · exact (congrArg Corpus.ckpt hcorpus :)
  · intro hlive hviews
    have hdo := (doLeantoReuse_of_first hr).trans (if_pos (by rw [hlive, viewsPast_iff.2 hviews]; rfl))
    have hcorpus : (modCorpus p.val (Corpus.reused r rest) s).corpus p.val = Corpus.reused r rest (s.corpus p.val) := corpus_modCorpus _ _ hp
    refine ⟨_, congrArg Host.Outcome.next hdo, congrArg Corpus.reuse hcorpus, rfl, fun hparts => (congrArg Corpus.stores hcorpus).trans ?_⟩
    unfold Corpus.reused
    rw [hparts]
    rfl
  · rintro ⟨b, hb, v, hv, hle⟩
    refine congrArg Host.Outcome.next ((doLeantoReuse_of_first hr).trans (if_neg ?_))
    rw [Bool.and_eq_true]
    exact fun h => Nat.not_lt.2 hle (viewsPast_iff.1 h.2 b hb v hv)
  · rintro rfl
    have hcorpus : (modCorpus p.val (Corpus.committedCopy i) s).corpus p.val = Corpus.committedCopy i (s.corpus p.val) := corpus_modCorpus _ _ hp
    refine ⟨_, _, congrArg Host.Outcome.next (doIndexCommit_of_new hi hlive hflush), congrArg Corpus.ckptNew hcorpus, congrArg Corpus.ckpt hcorpus,
      congrArg Corpus.index hcorpus, rfl, rfl, ?_, ?_, rfl⟩
    · rintro x hx ⟨b, hb, hbx⟩ ⟨y, hy, hyx⟩
      exact committedCopy_store hx hb hbx hy hyx
    · intro j hj
      rw [congrArg Corpus.journal hcorpus] at hj
      exact of_decide_eq_true (List.mem_filter.1 hj).2
  · rintro x w rfl hw
    have hcorpus : (modCorpus p.val (Corpus.committedCopy i) s).corpus p.val = Corpus.committedCopy i (s.corpus p.val) := corpus_modCorpus _ _ hp
    refine ⟨modCorpus p.val (Corpus.committedCopy i) s, congrArg Host.Outcome.next ((doIndexCommit_of_new hi hlive hflush).trans ?_),
      congrArg Corpus.ckpt hcorpus, rfl⟩
    unfold completeId
    dsimp only
    rw [show (modCorpus p.val (Corpus.committedCopy i) s).work x = some w from hw]
  · intro hlive hstate hreplayed hkey
    have hcorpus : (loadWeights p.val (modCorpus p.val (Corpus.load s.hfn (s.range p.val).read) s)).corpus p.val =
        Corpus.load s.hfn (s.range p.val).read (s.corpus p.val) := corpus_modCorpus _ _ hp
    obtain ⟨hprov, hckpt, hindex⟩ := load_loaded s.hfn (s.range p.val).read (s.corpus p.val)
    refine ⟨_, congrArg Host.Outcome.next (doIndexLoad_of_ready hlive hstate hreplayed hkey), rfl, ?_, ?_, ?_⟩
    · rw [hcorpus]
      exact hprov
    · rw [hcorpus]
      exact hckpt
    · rw [hcorpus]
      exact hindex
  · intro h
    refine congrArg Host.Outcome.next (if_neg ?_)
    rcases h with h | h
    · simp [h]
    · simp [h]
  · intro hlive hstate hsettled hsusp hpulls
    have hnone : (s.comp.pulls.any fun x => x.1 == p.val) = false := List.any_eq_false.2 fun x hx => by simpa using hpulls x hx
    exact congrArg Host.Outcome.next (if_pos (by simp [hlive, hstate, hsettled, hsusp, hnone]))
  · exact fun h => congrArg Host.Outcome.next (if_neg (by simp [Nat.not_le.2 h]))

end Sys2Proof.Machine

/-! ## Model loads (R74, R78, R79, R193, R313) -/

namespace Sys2Proof.Machine
-- The whole text is compiled by one process of limited memory: one proof at a time keeps it small.
set_option Elab.async false

/-! ## Corpora by position -/

theorem corpus_of_getElem? {s : State} {p : Nat} {c : Corpus} (h : s.corpora[p]? = some c) : s.corpus p = c := by
  unfold State.corpus
  rw [List.getD_eq_getElem?_getD, h, Option.getD_some]

theorem getElem?_modCorpus {s : State} {p : Nat} {c : Corpus} (g : Corpus → Corpus) (h : s.corpora[p]? = some c) :
    (modCorpus p g s).corpora[p]? = some (g c) := by
  unfold modCorpus
  dsimp only
  rw [modifyAt_eq_modify, List.getElem?_modify_eq, h]
  rfl

/-- What is written to a corpus is what the value there says. -/
theorem modCorpus_of_getElem? {s : State} {p : Nat} {c : Corpus} {f g : Corpus → Corpus} (h : s.corpora[p]? = some c) (hfg : f c = g c) :
    modCorpus p f s = modCorpus p g s := by
  unfold modCorpus
  rw [modifyAt_congr _ _ f g Corpus.reset (by rw [show s.corpora.getD p Corpus.reset = c from corpus_of_getElem? h]; exact hfg)]

theorem getElem?_freeElems {s : State} {p : Nat} {c : Corpus} (h : s.corpora[p]? = some c) :
    ∃ es, (freeElems p s).corpora[p]? = some { c with elems := es } := ⟨_, getElem?_modCorpus _ h⟩

/-- Recording a corpus with its index copy changes the index copy alone. -/
theorem record_parts (c : Corpus) : c.record = { c with index := c.record.index } := by
  unfold Corpus.record
  split <;> rfl

/-! ## The image -/

/-- What a load makes of an image whose bytes it has read. -/
def takeImage (w : Work) (image : List Byte) (s : State) : State :=
  if (s.corpus (pvOf w.fn)).vecStride ≠ 0 ∧
      (readBundle (padTo (field w.desc 16 8) image)).ok sha3_512 (fld (s.corpus (pvOf w.fn)).corpusCfg 6 0) = true then
    modCorpus (pvOf w.fn) (fun c => { c with loads := c.loads ++ [(w.id, readBundle (padTo (field w.desc 16 8) image))] })
      (modWork w.id (fun w => { w with stage := .running }) s)
  else failWork w .badField s

theorem doModelLoad_of_host {w : Work} (hdr rest : Option (List Byte)) (s : State) (h : field w.desc 24 1 = 0) :
    doModelLoad hdr rest w s = match hdr with
      | none => failWork w .badAddress (s.readsHost w.fn (field w.desc 8 8) 256)
      | some hd =>
        if (readBundle (padTo 256 hd)).extent ≠ field w.desc 16 8 then failWork w .badLength (s.readsHost w.fn (field w.desc 8 8) 256)
        else match rest with
          | none => failWork w .badAddress ((s.readsHost w.fn (field w.desc 8 8) 256).readsHost w.fn (field w.desc 8 8 + 256)
              (field w.desc 16 8 - 256))
          | some bs => takeImage w (padTo 256 hd ++ bs) ((s.readsHost w.fn (field w.desc 8 8) 256).readsHost w.fn (field w.desc 8 8 + 256)
              (field w.desc 16 8 - 256)) := by
  unfold doModelLoad
  dsimp only
  rw [if_pos h, hostRead_eq, hostRead_eq] <;> rfl

/-! ## Completion -/

/-- A load may not make its bundle resident: its epoch is, or an epoch retires, or the staged one has a cutover asked for or pending. -/
def State.loadBars (s : State) (p : Nat) (c : Corpus) (b : Bundle) : Bool :=
  (([c.cur, c.stg, c.ret].filterMap id).map (·.epoch)).contains b.epoch || c.ret.isSome ||
    (c.stg.isSome && (c.cutover.isSome || s.cutAsked p || s.cutDue p ((c.stg.map (·.epoch)).getD 0)))

/-- The state once a load is taken off its pavilion's list. -/
def State.unload (s : State) (p wid : Nat) : State := modCorpus p (fun c => { c with loads := c.loads.filter (·.1 != wid) }) s

theorem doLoadComplete_of_load {s : State} {wid : Nat} {w : Work} {b : Bundle} (hw : s.work wid = some w)
    (hload : (s.corpus (pvOf w.fn)).loads.find? (·.1 == wid) = some (wid, b)) (hlive : s.live = true) (hflush : s.flushing = false) :
    doLoadComplete wid s =
      if (s.unload (pvOf w.fn) wid).loadBars (pvOf w.fn) (s.corpus (pvOf w.fn)) b then failWork w .badField (s.unload (pvOf w.fn) wid)
      else complete w .ok 0 (spec3 0 b.epoch (leNat (b.digest.take 8))) (match (s.corpus (pvOf w.fn)).cur with
        | none => loadWeights (pvOf w.fn) (modCorpus (pvOf w.fn) (fun c => Corpus.record
            { c with cur := some b, stores := c.stores ++ [Store.new b c.partSize] }) (s.unload (pvOf w.fn) wid))
        | some _ => freeElems (pvOf w.fn) (modCorpus (pvOf w.fn) (Corpus.stage s.hfn b)
            (endResketch (pvOf w.fn) .epochStale (s.unload (pvOf w.fn) wid)))) := by
  unfold doLoadComplete
  rw [hw]
  dsimp only
  rw [hload]
  dsimp only
  rw [hlive, hflush] <;> rfl

theorem doLoadComplete_of_none {s : State} {wid : Nat} {w : Work} (hw : s.work wid = some w)
    (h : ∀ x ∈ (s.corpus (pvOf w.fn)).loads, x.1 ≠ wid) : doLoadComplete wid s = s := by
  unfold doLoadComplete
  rw [hw]
  dsimp only
  rw [List.find?_eq_none.2 fun x hx => by simpa using h x hx]

theorem doLoadComplete_of_closed {s : State} {wid : Nat} {w : Work} (hw : s.work wid = some w) (h : s.live = false ∨ s.flushing = true) :
    doLoadComplete wid s = s := by
  unfold doLoadComplete
  rw [hw]
  dsimp only
  split
  · rfl
  · refine if_neg ?_
    rcases h with h | h
    · simp [h]
    · simp [h]

/-- A bundle becomes the staged one. -/
theorem stage_parts (f : Frame) (b : Bundle) (c : Corpus) : Corpus.stage f b c = { c with
    stores := (c.stores.filter fun x => some x.epoch != c.stg.map (·.epoch)) ++ [Store.new b c.partSize]
    journal := c.journal.filter fun j => some j.epoch != c.stg.map (·.epoch)
    stg := some b, d0 := some (f + 1), resketchDone := false, rsPeers := [], index := (Corpus.stage f b c).index } := record_parts _

theorem endResketch_of_none {s : State} {p : Nat} (st : Status) (h : (s.corpus p).resketch = none) : endResketch p st s = s := by
  unfold endResketch
  rw [h]

theorem loadBars_of_bad {s : State} {p : Nat} {c : Corpus} {b : Bundle} (h : c.ret ≠ none ∨ (c.stg ≠ none ∧ (c.cutover ≠ none ∨
    s.cutAsked p = true)) ∨ ∃ x, (c.cur = some x ∨ c.stg = some x) ∧ x.epoch = b.epoch) : s.loadBars p c b = true := by
  unfold State.loadBars
  rcases h with h | ⟨h, h' | h'⟩ | ⟨x, h, hx⟩
  · simp [Option.isSome_iff_ne_none.2 h]
  · simp [Option.isSome_iff_ne_none.2 h, Option.isSome_iff_ne_none.2 h']
  · simp [Option.isSome_iff_ne_none.2 h, h']
  · have hmem : b.epoch ∈ ([c.cur, c.stg, c.ret].filterMap id).map (·.epoch) := by
      refine List.mem_map.2 ⟨x, List.mem_filterMap.2 ⟨some x, ?_, rfl⟩, hx⟩
      rcases h with h | h <;> simp [h]
    rw [List.contains_iff_mem.2 hmem]
    rfl

/-- The first bundle of a pavilion becomes its current one (R78). -/
theorem doLoadComplete_of_first {s : State} {wid : Nat} {w : Work} {c : Corpus} {b : Bundle} (hw : s.work wid = some w)
    (hc : s.corpora[pvOf w.fn]? = some c) (hload : c.loads = [(wid, b)]) (hlive : s.live = true) (hflush : s.flushing = false)
    (hcur : c.cur = none) (hstg : c.stg = none) (hret : c.ret = none) :
    ∃ t n, doLoadComplete wid s = complete w .ok 0 (spec3 0 b.epoch (leNat (b.digest.take 8))) t ∧
      t = { s with corpora := t.corpora, scan := { s.scan with resident := t.scan.resident } } ∧
      t.corpora[pvOf w.fn]? = some n ∧ n.cur = some b ∧ n.stg = none ∧ n.loads = [] ∧ n.stores = c.stores ++ [Store.new b c.partSize] := by
  have hcorpus := corpus_of_getElem? hc
  have hfind : (s.corpus (pvOf w.fn)).loads.find? (·.1 == wid) = some (wid, b) := by rw [hcorpus, hload]; simp
  have hbars : (s.unload (pvOf w.fn) wid).loadBars (pvOf w.fn) (s.corpus (pvOf w.fn)) b = false := by
    unfold State.loadBars
    rw [hcorpus, hcur, hstg, hret]
    rfl
  have hn := getElem?_modCorpus (fun c => Corpus.record { c with cur := some b, stores := c.stores ++ [Store.new b c.partSize] })
    (getElem?_modCorpus (fun c => { c with loads := c.loads.filter (·.1 != wid) }) hc)
  rw [record_parts] at hn
  have hdo := doLoadComplete_of_load hw hfind hlive hflush
  rw [hbars, if_neg Bool.false_ne_true, hcorpus, hcur] at hdo
  refine ⟨_, _, hdo, rfl, hn, rfl, hstg, ?_, rfl⟩
  rw [hload]
  simp

/-- A later bundle becomes the staged one, in place of another (R78, R79). -/
theorem doLoadComplete_of_next {s : State} {wid : Nat} {w : Work} {c : Corpus} {b x : Bundle} (hw : s.work wid = some w)
    (hc : s.corpora[pvOf w.fn]? = some c) (hload : c.loads = [(wid, b)]) (hlive : s.live = true) (hflush : s.flushing = false)
    (hcur : c.cur = some x) (hx : x.epoch ≠ b.epoch) (hstg : ∀ y, c.stg = some y → y.epoch ≠ b.epoch) (hret : c.ret = none)
    (hcut : c.cutover = none) (hprops : s.comp.props = []) (hpend : s.comp.pend = []) (hresk : c.resketch = none) :
    ∃ t n, doLoadComplete wid s = complete w .ok 0 (spec3 0 b.epoch (leNat (b.digest.take 8))) t ∧ t = { s with corpora := t.corpora } ∧
      t.corpora[pvOf w.fn]? = some n ∧ n.cur = some x ∧ n.stg = some b ∧ n.d0 = some (s.hfn + 1) ∧ n.resketchDone = false ∧ n.loads = [] ∧
      n.stores = (c.stores.filter fun z => some z.epoch != c.stg.map (·.epoch)) ++ [Store.new b c.partSize] := by
  have hcorpus := corpus_of_getElem? hc
  have hfind : (s.corpus (pvOf w.fn)).loads.find? (·.1 == wid) = some (wid, b) := by rw [hcorpus, hload]; simp
  have hun := getElem?_modCorpus (fun c => { c with loads := c.loads.filter (·.1 != wid) }) hc
  have hunc : (s.unload (pvOf w.fn) wid).corpus (pvOf w.fn) = { c with loads := c.loads.filter (·.1 != wid) } := corpus_of_getElem? hun
  have hbars : (s.unload (pvOf w.fn) wid).loadBars (pvOf w.fn) (s.corpus (pvOf w.fn)) b = false := by
    have hasked : (s.unload (pvOf w.fn) wid).cutAsked (pvOf w.fn) = false := by
      unfold State.cutAsked
      rw [show (s.unload (pvOf w.fn) wid).comp.props = [] from hprops]
      rfl
    have hdue (ep : Nat) : (s.unload (pvOf w.fn) wid).cutDue (pvOf w.fn) ep = false := by
      unfold State.cutDue
      rw [show (s.unload (pvOf w.fn) wid).comp.pend = [] from hpend, hunc]
      simp [hcut]
    have hres : b.epoch ∉ ([c.cur, c.stg, c.ret].filterMap id).map (·.epoch) := by
      rw [hcur, hret]
      cases hs : c.stg with
      | none => simpa using fun h => hx h.symm
      | some y => simpa using ⟨fun h => hx h.symm, fun h => hstg y hs h.symm⟩
    have hres' : (([c.cur, c.stg, c.ret].filterMap id).map (·.epoch)).contains b.epoch = false := by
      rw [Bool.eq_false_iff]
      exact fun h => hres (List.contains_iff_mem.1 h)
    unfold State.loadBars
    rw [hcorpus, hasked, hdue, hcut, hres', hret]
    simp
  have hdo := doLoadComplete_of_load hw hfind hlive hflush
  rw [hbars, if_neg Bool.false_ne_true, endResketch_of_none _ (by rw [hunc]; exact hresk)] at hdo
  rw [hcorpus, hcur] at hdo
  have hn := getElem?_modCorpus (Corpus.stage s.hfn b) hun
  rw [stage_parts] at hn
  obtain ⟨es, hfree⟩ := getElem?_freeElems hn
  refine ⟨_, _, hdo, rfl, hfree, hcur, rfl, rfl, rfl, ?_, rfl⟩
  show c.loads.filter (fun y => y.1 != wid) = []
  rw [hload]
  simp

/-- Settles O28: an image is read and checked, and a sound one becomes current or staged at its completion. -/
theorem modelLoads : Obligations.ModelLoads := by
  unfold Obligations.ModelLoads
  refine fun s wid w hw => ⟨fun h hsrc => ?_, fun c b hc hload hlive hflush => ⟨fun hbad => ?_, fun hcur hstg hret => ?_, ?_⟩,
    fun h => congrArg Host.Outcome.next (doLoadComplete_of_none hw h), fun h => congrArg Host.Outcome.next (doLoadComplete_of_closed hw h)⟩
  · have hdo (hdr rest : Option (List Byte)) : exec (.modelLoad wid hdr rest) s = .next (doModelLoad hdr rest w s) :=
      congrArg Host.Outcome.next (admitWork_of_admits _ h)
    refine ⟨fun img => (hdo ..).trans (congrArg Host.Outcome.next (doModelLoad_of_host none img s hsrc)), fun hd img hext => ?_, fun hd hext => ⟨?_,
      fun i => ⟨fun hbad => ?_, fun hstride hok => ?_⟩⟩⟩
    · exact (hdo ..).trans (congrArg Host.Outcome.next ((doModelLoad_of_host (some hd) img s hsrc).trans (if_pos hext)))
    · exact (hdo ..).trans (congrArg Host.Outcome.next ((doModelLoad_of_host (some hd) none s hsrc).trans (if_neg (not_not.2 hext))))
    · refine (hdo ..).trans (congrArg Host.Outcome.next ((doModelLoad_of_host (some hd) (some i) s hsrc).trans ((if_neg (not_not.2 hext)).trans
        (if_neg ?_))))
      rintro ⟨hstride, hok⟩
      rcases hbad with h | h
      · exact hstride h
      · exact Bool.false_ne_true (h.symm.trans hok)
    · exact (hdo ..).trans (congrArg Host.Outcome.next ((doModelLoad_of_host (some hd) (some i) s hsrc).trans ((if_neg (not_not.2 hext)).trans
        (if_pos ⟨hstride, hok⟩))))
  · have hcorpus := corpus_of_getElem? hc
    have hfind : (s.corpus (pvOf w.fn)).loads.find? (·.1 == wid) = some (wid, b) := by rw [hcorpus, hload]; simp
    refine congrArg Host.Outcome.next ((doLoadComplete_of_load hw hfind hlive hflush).trans ((if_pos ?_).trans ?_))
    · rw [hcorpus]
      exact loadBars_of_bad hbad
    · refine congrArg (failWork w .badField) (modCorpus_of_getElem? hc ?_)
      rw [hload]
      simp
  · obtain ⟨t, n, hdo, h⟩ := doLoadComplete_of_first hw hc hload hlive hflush hcur hstg hret
    exact ⟨t, n, congrArg Host.Outcome.next hdo, h⟩
  · intro x hcur hx hstg hret hcut hprops hpend hresk
    obtain ⟨t, n, hdo, ht, hn, h1, h2, h3, h4, h5, hstores⟩ :=
      doLoadComplete_of_next hw hc hload hlive hflush hcur hx hstg hret hcut hprops hpend hresk
    refine ⟨t, n, congrArg Host.Outcome.next hdo, ht, hn, h1, h2, h3, h4, h5, fun hnone => hstores.trans ?_, fun y hy => hstores.trans ?_⟩
    · rw [hnone]
      simp
    · rw [hy]
      refine congrArg (· ++ [Store.new b c.partSize]) (List.filter_congr fun z _ => ?_)
      rw [Bool.eq_iff_iff]
      simp

end Sys2Proof.Machine

/-! ## Cutovers, epochs and RESKETCH (R188 to R193, R317) -/

namespace Sys2Proof.Machine
-- The whole text is compiled by one process of limited memory: one proof at a time keeps it small.
set_option Elab.async false

/-! ## Cutovers -/

theorem doCutover_eq (dg : Option (List Byte)) (w : Work) (s : State) :
    doCutover dg w s = match dg with
      | none => failWork w .badAddress (s.readsHost w.fn (field w.desc 24 8) 64)
      | some dg =>
        if (match (s.corpus (pvOf w.fn)).stg with | some b => b.epoch == field w.desc 8 4 && b.digest == padTo 64 dg | none => false) &&
            (s.corpus (pvOf w.fn)).cutover.isNone && !s.cutAsked (pvOf w.fn) && decide (s.hfn + 500 ≤ field w.desc 16 8) &&
            decide (field w.desc 16 8 ≤ s.hfn + 180000000) then
          propose (.cutover (pvOf w.fn) (field w.desc 8 4) (field w.desc 16 8) (padTo 64 dg)) (some w.id) none
            (modWork w.id (fun w => { w with stage := .running }) (s.readsHost w.fn (field w.desc 24 8) 64))
        else failWork w .badField (s.readsHost w.fn (field w.desc 24 8) 64) := by
  unfold doCutover
  rw [hostRead_eq] <;> rfl

theorem doCutover_of_bad {s : State} {w : Work} {dg : List Byte}
    (h : (∀ b, (s.corpus (pvOf w.fn)).stg = some b → b.epoch ≠ field w.desc 8 4 ∨ b.digest ≠ padTo 64 dg) ∨
      (s.corpus (pvOf w.fn)).cutover ≠ none ∨ s.cutAsked (pvOf w.fn) = true ∨ field w.desc 16 8 < s.hfn + 500 ∨
      s.hfn + 180000000 < field w.desc 16 8) :
    doCutover (some dg) w s = failWork w .badField (s.readsHost w.fn (field w.desc 24 8) 64) := by
  refine (doCutover_eq (some dg) w s).trans (if_neg ?_)
  rcases h with h | h | h | h | h
  · cases hs : (s.corpus (pvOf w.fn)).stg with
    | none => simp
    | some b => rcases h b hs with h | h <;> simp [h]
  · simp [h]
  · simp [h]
  · simp [Nat.not_le.2 h]
  · simp [Nat.not_le.2 h]

theorem doCutover_of_good {s : State} {w : Work} {dg : List Byte} {b : Bundle} (hstg : (s.corpus (pvOf w.fn)).stg = some b)
    (hepoch : b.epoch = field w.desc 8 4) (hdg : b.digest = padTo 64 dg) (hcut : (s.corpus (pvOf w.fn)).cutover = none)
    (hprops : s.comp.props = []) (hmin : s.hfn + 500 ≤ field w.desc 16 8) (hmax : field w.desc 16 8 ≤ s.hfn + 180000000) :
    doCutover (some dg) w s = propose (.cutover (pvOf w.fn) b.epoch (field w.desc 16 8) b.digest) (some w.id) none
      (modWork w.id (fun w => { w with stage := .running }) (s.readsHost w.fn (field w.desc 24 8) 64)) := by
  have hasked : s.cutAsked (pvOf w.fn) = false := by
    unfold State.cutAsked
    rw [hprops]
    rfl
  refine (doCutover_eq (some dg) w s).trans ((if_pos ?_).trans ?_)
  · simp [hstg, hepoch, hdg, hcut, hasked, hmin, hmax]
  · rw [hepoch, hdg]

/-! ## Switches and releases -/

/-- What the end of a clipping window leaves of a corpus. -/
def Corpus.epochs (c : Corpus) : Option Bundle × Option Bundle × Option Frame × List Store := (c.cur, c.stg, c.d0, c.stores)

theorem markDrift_epochs (c : Corpus) : c.markDrift.epochs = c.epochs := by
  unfold Corpus.markDrift
  split
  · split <;> rfl
  · rfl

theorem endWindow_epochs (f : Frame) (c : Corpus) : (c.endWindow f).epochs = c.epochs := by
  unfold Corpus.endWindow
  split
  · rfl
  · exact markDrift_epochs c

/-- A corpus at the boundary that switches its epochs (R192). -/
def Corpus.switched (cf f : Frame) (c : Corpus) : Corpus :=
  { c with ret := c.cur, cur := c.stg, stg := none, retC := cf, cutover := none, curD0 := c.d0.getD 0, d0 := none, resketchDone := false,
           rsPeers := [], win := [], clipFrom := nextWindow f }

theorem doSwitchEpoch_of_due {s : State} {p : Nat} {cf : Frame} (hcut : (s.corpus p).cutover = some cf) (hlive : s.live = true)
    (hslot : s.clk.slot = none) (hdue : cf ≤ s.hfn) :
    doSwitchEpoch p s = loadWeights p (modCorpus p (fun c => (c.switched cf s.hfn).record) (if s.hfn % 256 = 0 then windowEnd p s else s)) := by
  unfold doSwitchEpoch
  dsimp only
  rw [hcut]
  exact if_pos (by simp [hlive, hslot, hdue])

theorem doSwitchEpoch_of_early {s : State} {p : Nat}
    (h : (s.corpus p).cutover = none ∨ s.clk.slot ≠ none ∨ ∃ cf, (s.corpus p).cutover = some cf ∧ s.hfn < cf) : doSwitchEpoch p s = s := by
  unfold doSwitchEpoch
  dsimp only
  split
  · next cf hcf =>
    refine if_neg ?_
    rcases h with h | h | ⟨x, hx, h⟩
    · rw [h] at hcf
      cases hcf
    · simp [h]
    · rw [hcf] at hx
      cases hx
      simp [Nat.not_le.2 h]
  · rfl

/-- The corpus that a switch finds, with the end of a window that falls on its boundary. -/
theorem windowed_getElem? {s : State} {p : Nat} {c : Corpus} (hc : s.corpora[p]? = some c) :
    ∃ d, (if s.hfn % 256 = 0 then windowEnd p s else s).corpora[p]? = some d ∧ d.epochs = c.epochs := by
  split
  · refine ⟨c.endWindow s.hfn, ?_, endWindow_epochs ..⟩
    rw [windowEnd_corpora, modifyAt_eq_modify, List.getElem?_modify_eq, hc]
    rfl
  · exact ⟨c, hc, rfl⟩

theorem doSwitchEpoch_corpus {s : State} {p : Nat} {c : Corpus} {cf : Frame} (hc : s.corpora[p]? = some c) (hcut : c.cutover = some cf)
    (hlive : s.live = true) (hslot : s.clk.slot = none) (hdue : cf ≤ s.hfn) :
    ∃ n, (doSwitchEpoch p s).corpora[p]? = some n ∧ n.cur = c.stg ∧ n.ret = c.cur ∧ n.stg = none ∧ n.retC = cf ∧ n.cutover = none ∧
      n.d0 = none ∧ n.win = [] ∧ n.clipFrom = nextWindow s.hfn ∧ n.stores = c.stores := by
  obtain ⟨d, hd, hepochs⟩ := windowed_getElem? hc
  have hcur : d.cur = c.cur := congrArg (fun x => x.1) hepochs
  have hstg : d.stg = c.stg := congrArg (fun x => x.2.1) hepochs
  have hstores : d.stores = c.stores := congrArg (fun x => x.2.2.2) hepochs
  rw [doSwitchEpoch_of_due ((congrArg Corpus.cutover (corpus_of_getElem? hc)).trans hcut) hlive hslot hdue]
  have hn := getElem?_modCorpus (fun c => (c.switched cf s.hfn).record) hd
  rw [record_parts] at hn
  exact ⟨_, (congrArg (fun cs : List Corpus => cs[p]?) (loadWeights_keeps ..).corpora).trans hn, hstg, hcur, rfl, rfl, rfl, rfl, rfl, rfl,
    hstores⟩

theorem dropRet_parts {c : Corpus} {b : Bundle} (h : c.ret = some b) : c.dropRet = { c with
    ret := none, stores := c.stores.filter (fun x => x.epoch != b.epoch), journal := c.journal.filter fun j => j.epoch != b.epoch
    index := c.dropRet.index } := by
  unfold Corpus.dropRet
  rw [h]
  exact record_parts _

theorem doRetireFree_of_ret {s : State} {p : Nat} {c : Corpus} {b : Bundle} (hc : s.corpora[p]? = some c) (hret : c.ret = some b) :
    doRetireFree p s = if s.live && decide (c.retC + 50000 * fld s.upd.cfgEff 31 24 ≤ s.hfn) && !s.epochBusy p b.epoch then
      freeElems p (modCorpus p Corpus.dropRet s) else s := by
  unfold doRetireFree
  dsimp only
  rw [corpus_of_getElem? hc, hret]

theorem doRetireFree_corpus {s : State} {p : Nat} {c : Corpus} {b : Bundle} (hc : s.corpora[p]? = some c) (hret : c.ret = some b)
    (hlive : s.live = true) (hgrace : c.retC + 50000 * fld s.upd.cfgEff 31 24 ≤ s.hfn)
    (hfree : ∀ q ∈ s.scan.queries, q.pv ≠ p ∨ q.epoch ≠ b.epoch) :
    ∃ t n, doRetireFree p s = t ∧ t = { s with corpora := t.corpora } ∧ t.corpora[p]? = some n ∧ n.ret = none ∧
      n.stores = c.stores.filter (fun x => x.epoch != b.epoch) ∧ n.cur = c.cur ∧ n.stg = c.stg := by
  have hbusy : s.epochBusy p b.epoch = false := List.any_eq_false.2 fun q hq => by
    rcases hfree q hq with h | h <;> simp [h]
  have hn := getElem?_modCorpus Corpus.dropRet hc
  rw [dropRet_parts hret] at hn
  obtain ⟨es, hes⟩ := getElem?_freeElems hn
  exact ⟨_, _, (doRetireFree_of_ret hc hret).trans (if_pos (by rw [hlive, decide_eq_true hgrace, hbusy]; rfl)), rfl, hes, rfl, rfl, rfl, rfl⟩

/-! ## RESKETCH -/

theorem tilesIn_congr {c d : Corpus} (h : d.stores = c.stores) (q : Nat) : d.tilesIn q = c.tilesIn q := by
  unfold Corpus.tilesIn
  rw [h]

/-- Tiles that do not change fit. -/
theorem tilesFit_of_same {s : State} {p : Nat} {c d : Corpus} (h : d.stores = c.stores) (hnum : ∀ x ∈ c.stores, x.nextTile ≤ lastTile + 1) :
    s.tilesFit p c d = true := by
  unfold State.tilesFit
  rw [Bool.and_eq_true]
  refine ⟨List.all_eq_true.2 fun x hx => decide_eq_true (hnum x (h ▸ hx)), List.all_eq_true.2 fun q _ => ?_⟩
  rw [tilesIn_congr h, decide_eq_true (Nat.le_refl _), Bool.or_true]

/-- A RESKETCH of a work item runs. -/
def Corpus.mine (c : Corpus) (w : Work) : Bool := c.resketch.any fun r => r.work == w.id && !r.built

/-- A RESKETCH that has nothing to take, at its start and once it is built. -/
def emptyResketch (w : Work) (ep : Nat) (built : Bool) : Resketch := ⟨w.id, ep, 0, 0, 0, [], built⟩

theorem doResketch_of_bad {s : State} {w : Work}
    (h : (s.corpus (pvOf w.fn)).stg = none ∨ ∃ cur stg d0, (s.corpus (pvOf w.fn)).cur = some cur ∧ (s.corpus (pvOf w.fn)).stg = some stg ∧
      (s.corpus (pvOf w.fn)).d0 = some d0 ∧ (stg.epoch ≠ field w.desc 8 4 ∨
        ∃ r, (s.corpus (pvOf w.fn)).resketch = some r ∧ (r.work ≠ w.id ∨ r.built = true))) : doResketch w s = failWork w .badField s := by
  unfold doResketch
  dsimp only
  rcases h with h | ⟨cur, stg, d0, hcur, hstg, hd0, h⟩
  · rw [h]
    cases (s.corpus (pvOf w.fn)).cur <;> rfl
  · rw [hcur, hstg, hd0]
    refine if_pos ?_
    rcases h with h | ⟨r, hr, h⟩
    · exact .inl h
    · refine .inr ?_
      rw [hr]
      rcases h with h | h <;> simp [h]

theorem doResketch_of_wait {s : State} {w : Work} {cur stg : Bundle} {d0 : Frame} (hcur : (s.corpus (pvOf w.fn)).cur = some cur)
    (hstg : (s.corpus (pvOf w.fn)).stg = some stg) (hd0 : (s.corpus (pvOf w.fn)).d0 = some d0) (hepoch : stg.epoch = field w.desc 8 4)
    (hresk : (s.corpus (pvOf w.fn)).resketch = none)
    (h : (s.corpus (pvOf w.fn)).settledF + 1 < d0 ∨ (s.corpus (pvOf w.fn)).merge ≠ none) : doResketch w s = s := by
  unfold doResketch
  dsimp only
  rw [hcur, hstg, hd0]
  dsimp only
  rw [if_neg (by simp [hepoch, hresk]), if_pos (h.imp_right Option.isSome_iff_ne_none.2)]

/-- A RESKETCH with nothing to take has begun. -/
def State.beginsEmpty (s : State) (w : Work) (ep : Nat) : State :=
  modCorpus (pvOf w.fn) (fun c => { c with resketch := some (emptyResketch w ep false) }) s

theorem beginsEmpty_corpus {s : State} {w : Work} (ep : Nat) (hp : pvOf w.fn < s.corpora.length) :
    (s.beginsEmpty w ep).corpus (pvOf w.fn) = { s.corpus (pvOf w.fn) with resketch := some (emptyResketch w ep false) } :=
  corpus_modCorpus _ _ hp

/-- Nothing to take, and plots that stay: the RESKETCH is built at once (R188). -/
theorem doResketch_of_nothing {s : State} {w : Work} {cur stg : Bundle} {d0 : Frame} (hcur : (s.corpus (pvOf w.fn)).cur = some cur)
    (hstg : (s.corpus (pvOf w.fn)).stg = some stg) (hd0 : (s.corpus (pvOf w.fn)).d0 = some d0) (hepoch : stg.epoch = field w.desc 8 4)
    (hresk : (s.corpus (pvOf w.fn)).resketch = none) (hvis : d0 ≤ (s.corpus (pvOf w.fn)).settledF + 1)
    (hmerge : (s.corpus (pvOf w.fn)).merge = none) (hlist : (s.corpus (pvOf w.fn)).reskList d0 = []) (hplots : stg.plots = cur.plots)
    (hp : pvOf w.fn < s.corpora.length) (hnum : ∀ x ∈ (s.corpus (pvOf w.fn)).stores, x.nextTile ≤ lastTile + 1) :
    doResketch w s = modWork w.id (fun w => { w with stage := .running }) (modCorpus (pvOf w.fn) (fun c =>
      { c with resketch := c.resketch.map fun r => { r with built := true } }) (s.beginsEmpty w stg.epoch)) := by
  have hbegun := beginsEmpty_corpus (s := s) (w := w) stg.epoch hp
  have hfit : (s.beginsEmpty w stg.epoch).tilesFit (pvOf w.fn) (s.corpus (pvOf w.fn)) ((s.beginsEmpty w stg.epoch).corpus (pvOf w.fn)) = true :=
    tilesFit_of_same (by rw [hbegun]) hnum
  have htaken : (((s.beginsEmpty w stg.epoch).corpus (pvOf w.fn)).resketch.map (·.taken)).getD 0 = 0 := by
    rw [hbegun]
    rfl
  unfold doResketch
  dsimp only
  rw [hcur, hstg, hd0]
  dsimp only
  rw [if_neg (by simp [hepoch, hresk]), if_neg (by simp [hmerge, hvis]), hlist, hresk, if_neg (not_not.2 hplots)]
  simp only [Option.any_none, Bool.false_eq_true, if_false, List.drop_nil, resketchAll]
  refine (if_neg ?_).trans ((if_neg ?_).trans (if_neg (not_not.2 hplots)))
  · exact fun h => Bool.false_ne_true ((congrArg (!·) hfit).symm.trans h)
  · exact fun h => Nat.not_lt_zero _ (htaken ▸ h)

/-- A corpus whose RESKETCH is complete (R188). -/
def Corpus.resketched (r : Resketch) (c : Corpus) : Corpus :=
  let c := { c with resketchDone := true }
  let bare := (c.store? r.epoch).map Store.bare
  let fill (i : IndexCopy) : IndexCopy := { i with stores := i.stores.map fun x => if x.epoch = r.epoch then bare.getD x else x }
  { c with index := c.record.index.map fill, ckptNew := c.ckptNew.map fun k => (fill k.1, k.2) }

theorem doResketchDone_of_resketch {s : State} {p : Nat} {r : Resketch} (hr : (s.corpus p).resketch = some r) :
    doResketchDone p s = if s.live && r.built && r.peers.isEmpty && !s.flash.asked p .keep then
      endResketch p .ok (modCorpus p (Corpus.resketched r) s) else s := by
  unfold doResketchDone
  rw [hr] <;> rfl

/-- A RESKETCH ends, with a completion where its work item is still there. -/
theorem endResketch_of_some {s : State} {p : Nat} {r : Resketch} (st : Status) (hr : (s.corpus p).resketch = some r) :
    endResketch p st s = match s.work r.work with
      | some w => complete w st 0 (spec3 0 r.skipped r.taken) (modCorpus p (fun c => { c with resketch := none }) s)
      | none => modCorpus p (fun c => { c with resketch := none }) s := by
  unfold endResketch completeId
  rw [hr] <;> rfl

theorem doResketchDone_of_complete {s : State} {p : Nat} {c : Corpus} {r : Resketch} (hc : s.corpora[p]? = some c) (hr : c.resketch = some r)
    (hlive : s.live = true) (hbuilt : r.built = true) (hpeers : r.peers = []) (hasked : s.flash.asked p .keep = false) :
    ∃ t n, (doResketchDone p s = match s.work r.work with
        | some w => complete w .ok 0 (spec3 0 r.skipped r.taken) t
        | none => t) ∧
      t = { s with corpora := t.corpora } ∧ t.corpora[p]? = some n ∧ n.resketchDone = true ∧ n.resketch = none ∧ n.stores = c.stores := by
  have hdone := getElem?_modCorpus (Corpus.resketched r) hc
  have hresk : ((modCorpus p (Corpus.resketched r) s).corpus p).resketch = some r := by
    rw [corpus_of_getElem? hdone]
    exact hr
  have hdo := (doResketchDone_of_resketch ((congrArg Corpus.resketch (corpus_of_getElem? hc)).trans hr)).trans
    (if_pos (by rw [hlive, hbuilt, hpeers, hasked]; rfl))
  exact ⟨_, _, hdo.trans (endResketch_of_some .ok hresk), rfl, getElem?_modCorpus (fun c => { c with resketch := none }) hdone, rfl, rfl, rfl⟩

/-- Settles O29: cutovers, switches, releases and RESKETCH, each by the state of the pavilion's epochs. -/
theorem epochsAndResketches : Obligations.EpochsAndResketches := by
  unfold Obligations.EpochsAndResketches
  refine ⟨fun s => ⟨fun wid w h => ?_, fun p c hc => ⟨fun cf hcut hlive hslot hdue => ?_, fun h => ?_, fun b hret => ⟨?_, ?_, ?_⟩, fun hret => ?_⟩⟩,
    fun s => ⟨fun wid w cur stg d0 h hcur hstg hd0 => ⟨fun hbad => ?_, fun hepoch hresk => ⟨fun hwait => ?_, ?_⟩⟩, fun wid w h hstg => ?_,
    fun p c r hc hr => ⟨?_, ?_, ?_⟩, fun p hr => ?_⟩⟩
  · have hexec (dg : Option (List Byte)) : exec (.epochCutover wid dg) s = .next (doCutover dg w s) :=
      congrArg Host.Outcome.next (admitWork_of_admits _ h)
    refine ⟨(hexec none).trans (congrArg Host.Outcome.next (doCutover_eq ..)), fun dg hbad => (hexec _).trans (congrArg Host.Outcome.next
      (doCutover_of_bad hbad)), fun dg b hstg hepoch hdg hcut hprops hmin hmax => (hexec _).trans (congrArg Host.Outcome.next
      (doCutover_of_good hstg hepoch hdg hcut hprops hmin hmax))⟩
  · obtain ⟨n, hn, hcur, hret, hstg, hretC, hcut', hd0, hwin, hfrom, hstores⟩ := doSwitchEpoch_corpus hc hcut hlive hslot hdue
    refine ⟨_, n, rfl, hn, hcur, hret, hstg, hretC, hcut', hd0, hwin, hfrom, hstores, fun hodd => ?_⟩
    have hdo := doSwitchEpoch_of_due ((congrArg Corpus.cutover (corpus_of_getElem? hc)).trans hcut) hlive hslot hdue
    rw [if_neg hodd] at hdo
    rw [hdo]
    rfl
  · rw [← corpus_of_getElem? hc] at h
    exact congrArg Host.Outcome.next (doSwitchEpoch_of_early h)
  · intro hlive hgrace hfree
    obtain ⟨t, n, hdo, hrest⟩ := doRetireFree_corpus hc hret hlive hgrace hfree
    exact ⟨t, n, congrArg Host.Outcome.next hdo, hrest⟩
  · exact fun hearly => congrArg Host.Outcome.next ((doRetireFree_of_ret hc hret).trans (if_neg (by simp [Nat.not_le.2 hearly])))
  · exact fun hbusy => congrArg Host.Outcome.next ((doRetireFree_of_ret hc hret).trans (if_neg (by simp [hbusy])))
  · refine congrArg Host.Outcome.next ?_
    unfold doRetireFree
    dsimp only
    rw [corpus_of_getElem? hc, hret]
  · exact congrArg Host.Outcome.next ((admitWork_of_admits _ h).trans (doResketch_of_bad (.inr ⟨cur, stg, d0, hcur, hstg, hd0, hbad⟩)))
  · exact congrArg Host.Outcome.next ((admitWork_of_admits _ h).trans (doResketch_of_wait hcur hstg hd0 hepoch hresk hwait))
  · intro hvis hmerge hlist hplots hp hnum
    have hdo := doResketch_of_nothing hcur hstg hd0 hepoch hresk hvis hmerge hlist hplots hp hnum
    have hcorpus := corpus_modCorpus (pvOf w.fn) (fun c => { c with resketch := c.resketch.map fun r => { r with built := true } })
      (s := s.beginsEmpty w stg.epoch) (by rw [State.beginsEmpty, corpora_length_modCorpus]; exact hp)
    rw [beginsEmpty_corpus _ hp] at hcorpus
    exact ⟨_, emptyResketch w stg.epoch true, congrArg Host.Outcome.next ((admitWork_of_admits _ h).trans hdo),
      congrArg Corpus.resketch hcorpus, rfl, rfl, rfl, rfl, rfl, rfl⟩
  · exact congrArg Host.Outcome.next ((admitWork_of_admits _ h).trans (doResketch_of_bad (.inl hstg)))
  · intro hlive hbuilt hpeers hasked hw
    obtain ⟨t, n, hdo, ht, hn, hdone, -, hstores⟩ := doResketchDone_of_complete hc hr hlive hbuilt hpeers hasked
    rw [hw] at hdo
    exact ⟨t, n, congrArg Host.Outcome.next hdo, ht, hn, hdone, hstores⟩
  · intro w hlive hbuilt hpeers hasked hw
    obtain ⟨t, n, hdo, ht⟩ := doResketchDone_of_complete hc hr hlive hbuilt hpeers hasked
    rw [hw] at hdo
    exact ⟨t, n, congrArg Host.Outcome.next hdo, ht⟩
  · intro h
    refine congrArg Host.Outcome.next ((doResketchDone_of_resketch ((congrArg Corpus.resketch (corpus_of_getElem? hc)).trans hr)).trans
      (if_neg ?_))
    rcases h with h | h | h
    · simp [h]
    · simp [h]
    · simp [h]
  · refine congrArg Host.Outcome.next ?_
    unfold doResketchDone
    rw [hr]

end Sys2Proof.Machine

/-! ## Corpus registers and the clipping window (R73, R74, R150 to R153) -/

namespace Sys2Proof.Machine
-- The whole text is compiled by one process of limited memory: one proof at a time keeps it small.
set_option Elab.async false

/-! ## Registers -/

/-- Where a corpus's geometry is valid (R73, R74). -/
def Corpus.geometryOk (n : Corpus) : Prop := fld n.corpusCfg 6 0 ≤ 80 ∧ fld n.corpusCfg 13 8 ≤ 32 ∧ 16 ≤ fld n.corpusCfg 20 16 ∧
  fld n.corpusCfg 20 16 ≤ 24 ∧ n.vecOff < hostAreaEnd ∧ n.payOff < hostAreaEnd ∧ (n.payStride = 0 ∨ n.vecOff ≠ n.payOff)

/-- A corpus with one of its registers written. -/
def Corpus.setReg (c : Corpus) (reg : Nat) (v : W32) : Corpus :=
  if reg = 0 then { c with corpusCfg := v &&& 0x001F_3F7F#32 } else if reg = 1 then { c with vecBase := v &&& 0x3FFF_FFFF#32 }
  else { c with payBase := v &&& 0x3FFF_FFFF#32 }

theorem writeCorpus_of_up {f : Fn} {reg : Nat} {v : W32} {s : State} {c : Corpus} (hf : f.val ≠ 0) (hup : s.fnUp f = true) (hreg : reg < 3)
    (hc : s.corpora[pvOf f]? = some c) :
    ((c.empty = true ∧ (c.setReg reg v).geometryOk) → writeCorpus f reg v s = modCorpus (pvOf f) (fun _ => c.setReg reg v) s) ∧
    (¬ (c.empty = true ∧ (c.setReg reg v).geometryOk) → writeCorpus f reg v s = modCorpus (pvOf f) (fun c => { c with cfgReject := true }) s) := by
  have hgo : (f.val != 0 && s.fnUp f && decide (reg < 3)) = true := by simp [hf, hup, hreg]
  unfold writeCorpus
  dsimp only
  rw [if_pos hgo, corpus_of_getElem? hc]
  generalize hok : (c.empty && decide (fld (c.setReg reg v).corpusCfg 6 0 ≤ 80) && decide (fld (c.setReg reg v).corpusCfg 13 8 ≤ 32) &&
    inRange 16 (fld (c.setReg reg v).corpusCfg 20 16) 24 && decide ((c.setReg reg v).vecOff < hostAreaEnd) &&
    decide ((c.setReg reg v).payOff < hostAreaEnd) &&
    ((c.setReg reg v).payStride == 0 || (c.setReg reg v).vecOff != (c.setReg reg v).payOff)) = ok
  have hiff : ok = true ↔ c.empty = true ∧ (c.setReg reg v).geometryOk := by
    rw [← hok]
    simp [Corpus.geometryOk, inRange, and_assoc]
  have hwrite : (modCorpus (pvOf f) (fun c' => if ok = true then c.setReg reg v else { c' with cfgReject := true }) s) =
      if ok = true then modCorpus (pvOf f) (fun _ => c.setReg reg v) s else modCorpus (pvOf f) (fun c => { c with cfgReject := true }) s := by
    split
    · rfl
    · rfl
  subst hok
  exact ⟨fun h => hwrite.trans (if_pos (hiff.2 h)), fun h => hwrite.trans (if_neg fun h' => h (hiff.1 h'))⟩

theorem writeCorpus_of_down {f : Fn} (reg : Nat) (v : W32) {s : State} (h : s.fnUp f = false ∨ f.val = 0) : writeCorpus f reg v s = s := by
  refine if_neg ?_
  rcases h with h | h
  · simp [h]
  · simp [h]

theorem writeClip_of_down {f : Fn} (v : W32) {s : State} (h : s.fnUp f = false ∨ f.val = 0) : writeClip f v s = s := by
  refine if_neg ?_
  rcases h with h | h
  · simp [h]
  · simp [h]

/-! ## The end of a window -/

/-- A window that ends without an event: it is not complete, or no group is over the limit. -/
def Corpus.quietEnd (f : Frame) (c : Corpus) : Prop := f ≤ c.clipFrom ∨ overGroups c = []

theorem endWindow_of_none {f : Frame} {c : Corpus} (hfrom : c.clipFrom < f) (hover : overGroups c = []) :
    c.endWindow f = { c with pub := c.win, win := [], clipEff := c.clip, clipFrom := f } := by
  rw [Corpus.endWindow_of_lt hfrom, Corpus.markDrift_of_not_over fun x hx => by rw [hover] at hx; cases hx]

theorem windowEnd_of_quiet {p : Nat} {s : State} (h : (s.corpus p).quietEnd s.hfn) :
    windowEnd p s = { s with corpora := (windowEnd p s).corpora } := by
  unfold windowEnd
  dsimp only
  split
  · rfl
  · next hlt =>
    rw [h.resolve_left hlt]
    split
    · next hw => cases hw
    · rfl

/-- Windows that end without an event change corpora alone. -/
theorem foldl_windowEnd_of_quiet {s : State} (n : Nat) (h : ∀ p < n, (s.corpus p).quietEnd s.hfn) :
    (List.range n).foldl (fun s p => windowEnd p s) s = { s with corpora := ((List.range n).foldl (fun s p => windowEnd p s) s).corpora } := by
  induction n with
  | zero => rfl
  | succ n ih =>
    have hfold := ih fun p hp => h p (Nat.lt_succ_of_lt hp)
    have hcorpus : ((List.range n).foldl (fun s p => windowEnd p s) s).corpus n = s.corpus n := by
      unfold State.corpus
      rw [List.getD_eq_getElem?_getD, foldl_windowEnd_corpus, if_neg (Nat.lt_irrefl n), ← List.getD_eq_getElem?_getD]
    rw [List.range_succ, List.foldl_append, List.foldl_cons, List.foldl_nil]
    generalize (List.range n).foldl (fun s p => windowEnd p s) s = t at hfold hcorpus
    have hquiet : (t.corpus n).quietEnd t.hfn := by
      rw [hcorpus, hfold]
      exact h n (Nat.lt_succ_self n)
    rw [windowEnd_of_quiet hquiet]
    exact congrArg (fun u : State => { u with corpora := (windowEnd n t).corpora }) hfold

/-- At a boundary that ends a window, corpora that end it without an event have each its end, and nothing else changes. -/
theorem doWindow_of_quiet {s : State} (g : Corpus → Corpus) (hlive : s.live = true) (hslot : s.clk.slot = none) (hhfn : s.hfn % 256 = 0)
    (hlen : s.corpora.length = 12) (hquiet : ∀ c ∈ s.corpora, c.quietEnd s.hfn) (hg : ∀ c ∈ s.corpora, c.endWindow s.hfn = g c) :
    doWindow s = { s with corpora := s.corpora.map g } := by
  have hdo : doWindow s = (List.range 12).foldl (fun s p => windowEnd p s) s := if_pos (by simp [hlive, hslot, hhfn])
  have hcorpora : ((List.range 12).foldl (fun s p => windowEnd p s) s).corpora = s.corpora.map g := by
    refine List.ext_getElem? fun p => ?_
    rw [foldl_windowEnd_corpus, List.getElem?_map]
    split
    · exact Option.map_congr fun c hc => hg c (List.mem_of_getElem? hc)
    · next hp => rw [List.getElem?_eq_none (by omega)]; rfl
  rw [hdo, foldl_windowEnd_of_quiet 12 fun p hp => ?_, hcorpora]
  unfold State.corpus
  rw [List.getD_eq_getElem?_getD, List.getElem?_eq_getElem (by omega), Option.getD_some]
  exact hquiet _ (List.getElem_mem _)

/-- Settles O30: register writes by what they find, and the end of a window on every corpus. -/
theorem corpusRegisters : Obligations.CorpusRegisters := by
  unfold Obligations.CorpusRegisters
  refine fun s => ⟨fun f v c hf hup hc => ⟨fun reg n hn => ?_, fun hl hm => ?_, fun hz => ?_⟩, fun f reg v h =>
    ⟨congrArg Host.Outcome.next (writeCorpus_of_down reg v h), congrArg Host.Outcome.next (writeClip_of_down v h)⟩,
    fun hlive hslot hhfn hlen hfrom => ?_, fun hlive hslot hhfn hlen hwin => ?_, fun h => ?_⟩
  · obtain ⟨hreg, rfl⟩ : reg < 3 ∧ n = c.setReg reg v := by
      simp only [List.mem_cons, List.not_mem_nil, or_false, Prod.mk.injEq] at hn
      rcases hn with ⟨rfl, rfl⟩ | ⟨rfl, rfl⟩ | ⟨rfl, rfl⟩
      · exact ⟨by decide, rfl⟩
      · exact ⟨by decide, rfl⟩
      · exact ⟨by decide, rfl⟩
    obtain ⟨hgood, hbad⟩ := writeCorpus_of_up (v := v) hf hup hreg hc
    refine ⟨fun hempty h1 h2 h3 h4 h5 h6 h7 => congrArg Host.Outcome.next (hgood ⟨hempty, h1, h2, h3, h4, h5, h6, h7⟩),
      fun h => congrArg Host.Outcome.next (hbad ?_)⟩
    rintro ⟨hempty, h1, h2, h3, h4, h5, h6, h7⟩
    rcases h with h | h | h | h | h | h | h | ⟨h, h'⟩
    · rw [h] at hempty
      cases hempty
    · omega
    · omega
    · omega
    · omega
    · omega
    · omega
    · exact h7.elim h fun h7 => h7 h'
  · refine (exec_clipLimitWrite v hf hup).trans ?_
    simp only [modCorpus, if_neg (not_or.2 ⟨hl, hm⟩)]
  · refine (exec_clipLimitWrite v hf hup).trans ?_
    simp only [modCorpus, if_pos hz]
  · exact congrArg Host.Outcome.next (doWindow_of_quiet _ hlive hslot hhfn hlen (fun c hc => .inl (hfrom c hc)) fun c hc => if_pos (hfrom c hc))
  · exact congrArg Host.Outcome.next (doWindow_of_quiet _ hlive hslot hhfn hlen (fun c hc => .inr (hwin c hc).2)
      fun c hc => endWindow_of_none (hwin c hc).1 (hwin c hc).2)
  · refine congrArg Host.Outcome.next (if_neg ?_)
    rcases h with h | h
    · simp [h]
    · simp [h]

end Sys2Proof.Machine

/-! ## Update batches at acceptance (R169 to R171, R178, R297, R312) -/

namespace Sys2Proof.Machine
-- The whole text is compiled by one process of limited memory: one proof at a time keeps it small.
set_option Elab.async false

/-! ## Batches -/

theorem id_of_batch? {s : State} {id : Nat} {b : Batch} (h : s.batch? id = some b) : b.id = id := by simpa using List.find?_some h

theorem batch?_congr {s t : State} (h : t.upd.batches = s.upd.batches) (id : Nat) : t.batch? id = s.batch? id := congrArg (List.find? _) h

theorem batch?_modBatch {s : State} {id : Nat} {b : Batch} {g : Batch → Batch} (hg : ∀ x, (g x).id = x.id) (h : s.batch? id = some b) :
    (modBatch id g s).batch? id = some (g b) := by
  have hfind := find?_mapIf (·.id == id) (·.id == id) g (fun x => by rw [hg]) s.upd.batches
  refine hfind.trans ?_
  rw [show s.upd.batches.find? (·.id == id) = some b from h]
  simp [id_of_batch? h]

theorem ingestPeers_congr {s t : State} (h : t.comp.map = s.comp.map) (hn : t.node = s.node) (p : Nat) : t.ingestPeers p = s.ingestPeers p := by
  unfold State.ingestPeers
  rw [h, hn]

/-- With no peer to tell, the pre-notices of a batch leave it as it is but for its record of them. -/
theorem sendNotices_of_alone {s : State} {id : Nat} {b : Batch} (hb : s.batch? id = some b) (hpeers : s.ingestPeers b.pv = []) :
    sendNotices id s = modBatch id (fun b => { b with
      sent := b.sent.filter (fun _ => true) ++ [], await_ := b.await_.filter (fun _ => true) ++ []
      owners := if b.del then b.owners else dedupKeep (b.owners ++ []) }) s := by
  unfold sendNotices
  rw [hb]
  dsimp only
  rw [show s.notices b = [] by rw [State.notices, hpeers]; rfl]
  rfl

/-! ## Preparation -/

/-- A batch once its own reservations are made (R169). -/
def Batch.reserved (es : List Elem) (seen : List Nat) (b : Batch) : Batch :=
  { b with elems := es, stage := .prep, seen := seen, sent := [], await_ := [], owners := [], hits := [], shorts := [] }

theorem reserveElems_corpora {p : Nat} {del : Bool} {es es' : List Elem} {s x : State} (h : reserveElems p del es s = some (es', x)) :
    Keeps [.corpora] s x := by
  have hk := reserveElems_keeps p del es s
  rw [h] at hk
  exact hk.all _ _ rfl

/-- A batch whose elements find room here, with no other node to tell, is prepared at once (R169, R171). -/
theorem prepBatch_of_room {s x : State} {id : Nat} {b : Batch} {es : List Elem} (hb : s.batch? id = some b)
    (hgone : plotGone s.comp.map b.pv b.elems = false) (hroom : reserveElems b.pv b.del b.elems s = some (es, x))
    (hpeers : s.ingestPeers b.pv = []) :
    ∃ t b', prepBatch id s = t ∧ t.batch? id = some b' ∧ b'.stage = .prep ∧ b'.elems = es ∧ b'.await_ = [] ∧ b'.seq = b.seq ∧
      t.corpora = x.corpora ∧ Keeps [.corpora, .upd] s t := by
  have hk := reserveElems_corpora hroom
  have hx : x.batch? id = some b := (batch?_congr (congrArg Upd.batches hk.upd) id).trans hb
  have hdo : prepBatch id s = sendNotices id (modBatch id (Batch.reserved es
      (if b.del then (es.filter fun e => (x.corpus b.pv).has e.eid).map (·.eid) else [])) x) := by
    unfold prepBatch
    rw [hb]
    dsimp only
    rw [hgone, if_neg Bool.false_ne_true, hroom] <;> rfl
  generalize (if b.del then (es.filter fun e => (x.corpus b.pv).has e.eid).map (·.eid) else []) = seen at hdo
  have hres := batch?_modBatch (g := Batch.reserved es seen) (fun _ => rfl) hx
  have hpeers' : (modBatch id (Batch.reserved es seen) x).ingestPeers (Batch.reserved es seen b).pv = [] :=
    (ingestPeers_congr (congrArg Comp.map hk.comp) (congrArg (fun f : Fabric => fld f.nodeId 15 0) hk.fab) b.pv).trans hpeers
  rw [sendNotices_of_alone hres hpeers'] at hdo
  refine ⟨_, _, hdo, batch?_modBatch (fun _ => rfl) hres, rfl, rfl, rfl, rfl, rfl, ?_⟩
  exact ((hk.mono rfl).after (modBatch_keeps ..) rfl).after (modBatch_keeps ..) rfl

/-! ## Acceptance -/

/-- Whether an earlier batch holds a SEQ does not depend on the stages of the work items. -/
theorem seqBusy_congr {s t : State} {wid : Nat} {st : WorkStage} (w : Work)
    (h : t.works = mapIf (fun x => x.id == wid) (fun x => { x with stage := st }) s.works) : seqBusy t w = seqBusy s w := by
  unfold seqBusy mapIf at *
  rw [h, List.any_map]
  congr 1
  funext x
  simp only [Function.comp]
  split <;> rfl

theorem enterBatch_eq (w : Work) (del : Bool) (es : List Elem) (s : State) :
    enterBatch w del es s = if seqBusy (s.holds (s.freshBatch w del es)) w then s.holds (s.freshBatch w del es)
      else seqGate (s.freshBatch w del es).id (s.holds (s.freshBatch w del es)) := rfl

theorem enterBatch_of_busy {s : State} {w : Work} (del : Bool) (es : List Elem) (h : seqBusy s w = true) :
    enterBatch w del es s = s.holds (s.freshBatch w del es) := by
  rw [enterBatch_eq, seqBusy_congr (s := s) (t := s.holds (s.freshBatch w del es)) w rfl, h]
  rfl

/-- The batch that has just been taken is found. -/
theorem batch?_holds {s : State} {b : Batch} (h : ∀ x ∈ s.upd.batches, x.id ≠ b.id) : (s.holds b).batch? b.id = some b := by
  unfold State.batch? State.holds
  dsimp only
  rw [List.find?_append, List.find?_eq_none.2 fun x hx => by simpa using h x hx]
  simp

/-- A batch that waits for no earlier one and whose SEQ is the ring's highest is prepared (R178). -/
theorem seqGate_of_new {s : State} {id : Nat} {b : Batch} (hb : s.batch? id = some b)
    (hseq : ((s.corpus b.pv).seqTop.lookup b.ring).getD 0 < b.seq) : seqGate id s = firstPrep b s := by
  unfold seqGate
  rw [hb]
  exact if_pos hseq

/-- A new batch with room here and no other node to tell is prepared at once. -/
theorem enterBatch_of_new {s : State} {w : Work} {del : Bool} {es es' : List Elem} {b : Batch} {x : State} (hb : b = s.freshBatch w del es)
    (hprep : s.preparesNow w b) (hgone : plotGone s.comp.map b.pv b.elems = false)
    (hroom : reserveElems b.pv b.del b.elems (if b.del then s.holds b else tallyElems b.pv (b.elems.map (·.raw)) (s.holds b)) = some (es', x)) :
    ∃ t b', enterBatch w del es s = t ∧ t.batch? b.id = some b' ∧ b'.stage = .prep ∧ b'.elems = es' ∧ b'.await_ = [] ∧ b'.seq = b.seq ∧
      t.corpora = x.corpora ∧ t.works = mapIf (fun x => x.id == w.id) (fun x => { x with stage := .waiting }) s.works := by
  obtain ⟨-, hbusy, hseq, hnew, hpeers⟩ := hprep
  subst hb
  have hfound := batch?_holds hnew
  have htally : Keeps [.corpora] (s.holds (s.freshBatch w del es)) (if (s.freshBatch w del es).del then s.holds (s.freshBatch w del es)
      else tallyElems (s.freshBatch w del es).pv ((s.freshBatch w del es).elems.map (·.raw)) (s.holds (s.freshBatch w del es))) :=
    .ite (.refl _ _) (tallyElems_keeps ..)
  have hdo : enterBatch w del es s = prepBatch (s.freshBatch w del es).id (if (s.freshBatch w del es).del then s.holds (s.freshBatch w del es)
      else tallyElems (s.freshBatch w del es).pv ((s.freshBatch w del es).elems.map (·.raw)) (s.holds (s.freshBatch w del es))) := by
    rw [enterBatch_eq, seqBusy_congr (s := s) (t := s.holds (s.freshBatch w del es)) w rfl, hbusy, if_neg Bool.false_ne_true]
    exact seqGate_of_new hfound hseq
  generalize (if (s.freshBatch w del es).del then s.holds (s.freshBatch w del es)
    else tallyElems (s.freshBatch w del es).pv ((s.freshBatch w del es).elems.map (·.raw)) (s.holds (s.freshBatch w del es))) = u
    at hdo htally hroom
  have hfoundU : u.batch? (s.freshBatch w del es).id = some (s.freshBatch w del es) :=
    (batch?_congr (congrArg Upd.batches htally.upd) _).trans hfound
  have hmap : u.comp.map = s.comp.map := congrArg Comp.map htally.comp
  have hnode : u.node = s.node := congrArg (fun f : Fabric => fld f.nodeId 15 0) htally.fab
  obtain ⟨t, b', ht, hb', h1, h2, h3, h4, h5, hk⟩ := prepBatch_of_room hfoundU (by rw [hmap]; exact hgone) hroom
    ((ingestPeers_congr hmap hnode _).trans hpeers)
  exact ⟨t, b', hdo.trans ht, hb', h1, h2, h3, h4, h5, hk.works.trans htally.works⟩

/-- A work item of a batch that has been fetched. -/
def State.fetchedBatch (s : State) (op wid : Nat) (w : Work) : Prop := s.work wid = some w ∧ s.live = true ∧ s.flushing = false ∧
  w.stage = .fetched ∧ dOp w.desc = op ∧ w.fn.val ≠ 0

theorem fetchedBatch_go {s : State} {op wid : Nat} {w : Work} (h : s.fetchedBatch op wid w) :
    (s.live && !s.flushing && w.stage == .fetched && dOp w.desc == op && w.fn.val != 0) = true := by
  obtain ⟨-, hlive, hflush, hstage, hop, hfn⟩ := h
  simp [hlive, hflush, hstage, hop, hfn]

/-- The records of an upsert batch, each padded to its stride. -/
def recordsUp (w : Work) (rs : List (List Byte)) : List (List Byte) :=
  (List.range (dCount w.desc)).map fun i => padTo (dEStride w.desc * 64) (rs.getD i [])

/-- The state once the records of an upsert batch are read. -/
def State.readsUpsert (s : State) (w : Work) : State := s.readsHost w.fn (field w.desc 24 8) (field w.desc 16 2 * dEStride w.desc * 64)

theorem doUpsert_of_fetched {s : State} {wid : Nat} {w : Work} (recs : Option (List (List Byte))) (h : s.fetchedBatch opUpsert wid w) :
    doUpsert wid recs s = match recs with
      | none => failWork w .badAddress (s.readsUpsert w)
      | some rs => match recsCheck (s.corpus (pvOf w.fn)) s.hfn (dEStride w.desc) (recordsUp w rs), (s.corpus (pvOf w.fn)).cur with
        | some st, _ => failWork w st (s.readsUpsert w)
        | none, none => failWork w .badField (s.readsUpsert w)
        | none, some cur => if s.composed (pvOf w.fn) then
            enterBatch w false ((recordsUp w rs).filterMap (codeRec cur ((s.corpus (pvOf w.fn)).stgAt s.hfn))) (s.readsUpsert w)
          else failWork w .quota (s.readsUpsert w) := by
  unfold doUpsert
  rw [h.1]
  dsimp only
  rw [if_pos (fetchedBatch_go h), hostRead_eq] <;> rfl

/-- The EIDs of a delete batch. -/
def eidsDel (w : Work) (es : List Nat) : List Nat := (List.range (dCount w.desc)).map fun i => es.getD i 0 % 2 ^ 64

/-- The state once the EIDs of a delete batch are read. -/
def State.readsDelete (s : State) (w : Work) : State := s.readsHost w.fn (field w.desc 24 8) (field w.desc 16 2 * 8)

theorem doDelete_of_fetched {s : State} {wid : Nat} {w : Work} (eids : Option (List Nat)) (h : s.fetchedBatch opDelete wid w) :
    doDelete wid eids s = match eids with
      | none => failWork w .badAddress (s.readsDelete w)
      | some es =>
        if eidsBad (eidsDel w es) || (s.corpus (pvOf w.fn)).vecStride == 0 then failWork w .badField (s.readsDelete w)
        else if s.composed (pvOf w.fn) then enterBatch w true ((eidsDel w es).map fun e => ⟨e, 0, [], [], [], [], false, false⟩) (s.readsDelete w)
        else failWork w .quota (s.readsDelete w) := by
  unfold doDelete
  rw [h.1]
  dsimp only
  rw [if_pos (fetchedBatch_go h), hostRead_eq] <;> rfl

/-! ## The end of the wait for an earlier batch -/

theorem doSeqRelease_of_batch {s : State} {id : Nat} {b : Batch} {w : Work} (hb : s.batch? id = some b) (hw : s.work b.work = some w) :
    doSeqRelease id s = if s.live && b.stage == .seqWait && !seqBusy s w then seqGate id s else s := by
  unfold doSeqRelease
  rw [hb]
  dsimp only
  rw [hw]

theorem ofCode_ok : Status.ofCode Status.ok.code = .ok := by decide

/-- A repeated SEQ whose outcome misses nothing completes the batch with that outcome (R178). -/
theorem seqGate_of_outcome {s : State} {id : Nat} {b : Batch} {w : Work} {r : SeqRec} (hb : s.batch? id = some b) (hw : s.work b.work = some w)
    (hseq : b.seq ≤ ((s.corpus b.pv).seqTop.lookup b.ring).getD 0)
    (hr : (s.corpus b.pv).seqs.find? (fun r => r.ring == b.ring && r.seq == b.seq) = some r) (hok : r.st = Status.ok.code)
    (hall : ∀ e ∈ b.elems, ¬ e.eid ∈ r.missing) :
    seqGate id s = complete w .ok 0 (spec3 r.nCommit r.nNover r.ver)
      { s with upd := { s.upd with batches := s.upd.batches.filter (·.id != id) } } := by
  have hleft : (b.elems.filter fun e => r.missing.contains e.eid) = [] := List.filter_eq_nil_iff.2 fun e he => by simpa using hall e he
  unfold seqGate
  rw [hb]
  dsimp only
  rw [if_neg (Nat.not_lt.2 hseq), hr]
  dsimp only
  rw [hleft, hok, ofCode_ok]
  show completeId b.work .ok 0 (spec3 r.nCommit r.nNover r.ver) { s with upd := { s.upd with batches := s.upd.batches.filter (·.id != id) } } = _
  unfold completeId
  rw [show ({ s with upd := { s.upd with batches := s.upd.batches.filter (·.id != id) } } : State).work b.work = some w from hw]

/-- A repeated SEQ of which no outcome is left is refused (R178). -/
theorem seqGate_of_lost {s : State} {id : Nat} {b : Batch} (hb : s.batch? id = some b)
    (hseq : b.seq ≤ ((s.corpus b.pv).seqTop.lookup b.ring).getD 0)
    (hr : (s.corpus b.pv).seqs.find? (fun r => r.ring == b.ring && r.seq == b.seq) = none) :
    seqGate id s = endBatch { b with stage := .seqWait } .badField s := by
  unfold seqGate
  rw [hb]
  dsimp only
  rw [if_neg (Nat.not_lt.2 hseq), hr]

/-! ## Assembly -/

theorem upsert_accepts {s : State} {wid : Nat} {w : Work} {rs : List (List Byte)} {cur : Bundle} (h : s.fetchedBatch opUpsert wid w)
    (hcheck : recsCheck (s.corpus (pvOf w.fn)) s.hfn (dEStride w.desc) (recordsUp w rs) = none) (hcur : (s.corpus (pvOf w.fn)).cur = some cur) :
    doUpsert wid (some rs) s = if s.composed (pvOf w.fn) then
        enterBatch w false ((recordsUp w rs).filterMap (codeRec cur ((s.corpus (pvOf w.fn)).stgAt s.hfn))) (s.readsUpsert w)
      else failWork w .quota (s.readsUpsert w) := by
  rw [doUpsert_of_fetched _ h]
  dsimp only
  rw [hcheck, hcur]

theorem delete_accepts {s : State} {wid : Nat} {w : Work} {es : List Nat} (h : s.fetchedBatch opDelete wid w)
    (heids : eidsBad (eidsDel w es) = false) (hstride : (s.corpus (pvOf w.fn)).vecStride ≠ 0) :
    doDelete wid (some es) s = if s.composed (pvOf w.fn) then
        enterBatch w true ((eidsDel w es).map fun e => ⟨e, 0, [], [], [], [], false, false⟩) (s.readsDelete w)
      else failWork w .quota (s.readsDelete w) := by
  rw [doDelete_of_fetched _ h]
  dsimp only
  rw [heids, if_neg (by simp [hstride])]

/-- Settles O31: a batch that passes its checks enters, and is prepared, waits or repeats the outcome of its SEQ. -/
theorem updateAcceptance : Obligations.UpdateAcceptance := by
  unfold Obligations.UpdateAcceptance
  refine ⟨fun s wid w hw hlive hflush hstage hfn => ⟨fun hop => ?_, fun hop => ?_⟩, fun s id b w hb hw => ⟨fun hlive hstage hbusy => ⟨?_,
    fun hseq => ⟨?_, ?_⟩⟩, fun h => ?_⟩⟩
  · have h : s.fetchedBatch opUpsert wid w := ⟨hw, hlive, hflush, hstage, hop, hfn⟩
    refine ⟨congrArg Host.Outcome.next (doUpsert_of_fetched none h), fun rs st hcheck => ?_, fun rs cur hcheck hcur => ⟨fun hcomp => ?_,
      fun hcomp hbusy => ?_, fun b hb hprep hgone es x hroom => ?_⟩⟩
    · refine congrArg Host.Outcome.next ((doUpsert_of_fetched (some rs) h).trans ?_)
      dsimp only
      rw [show recsCheck _ _ _ (recordsUp w rs) = some st from hcheck] <;> rfl
    · refine congrArg Host.Outcome.next ((upsert_accepts h hcheck hcur).trans (if_neg ?_))
      rw [hcomp]
      exact Bool.false_ne_true
    · have hdo := ((upsert_accepts h hcheck hcur).trans (if_pos hcomp)).trans (enterBatch_of_busy (s := s.readsUpsert w) _ _ hbusy)
      refine ⟨_, _, congrArg Host.Outcome.next hdo, rfl, id_of_work hw, rfl, rfl, rfl, rfl, rfl, rfl, ?_, rfl⟩
      rw [← id_of_work hw]
      rfl
    · obtain ⟨t, b', ht, h'⟩ := enterBatch_of_new (s := s.readsUpsert w) (del := false) hb hprep hgone (by subst hb; exact hroom)
      exact ⟨t, b', congrArg Host.Outcome.next (((upsert_accepts h hcheck hcur).trans (if_pos (by subst hb; exact hprep.1))).trans ht), h'⟩
  · have h : s.fetchedBatch opDelete wid w := ⟨hw, hlive, hflush, hstage, hop, hfn⟩
    refine ⟨congrArg Host.Outcome.next (doDelete_of_fetched none h), fun es hbad => ?_, fun es heids hstride => ⟨fun hcomp => ?_,
      fun hcomp hbusy => ?_, fun b hb hprep es' x hroom => ?_⟩⟩
    · refine congrArg Host.Outcome.next ((doDelete_of_fetched (some es) h).trans (if_pos ?_))
      rcases hbad with h' | h'
      · rw [show eidsBad (eidsDel w es) = true from h']
        rfl
      · rw [h']
        simp
    · refine congrArg Host.Outcome.next ((delete_accepts h heids hstride).trans (if_neg ?_))
      rw [hcomp]
      exact Bool.false_ne_true
    · have hdo := ((delete_accepts h heids hstride).trans (if_pos hcomp)).trans (enterBatch_of_busy (s := s.readsDelete w) _ _ hbusy)
      refine ⟨_, _, congrArg Host.Outcome.next hdo, rfl, id_of_work hw, rfl, rfl, ?_, ?_, rfl⟩
      · exact List.map_map.trans (List.map_id'' (fun _ => rfl) _)
      · rw [← id_of_work hw]
        rfl
    · have hgone : plotGone s.comp.map b.pv b.elems = false := by
        subst hb
        refine List.any_eq_false.2 fun e he => ?_
        obtain ⟨n, -, rfl⟩ := List.mem_map.1 he
        simp
      obtain ⟨t, b', ht, h'⟩ := enterBatch_of_new (s := s.readsDelete w) (del := true) hb hprep hgone (by subst hb; exact hroom)
      exact ⟨t, b', congrArg Host.Outcome.next (((delete_accepts h heids hstride).trans (if_pos (by subst hb; exact hprep.1))).trans ht), h'⟩
  · intro es u hseq hdel hgone hroom hpeers
    have hdo : doSeqRelease id s = prepBatch id s := by
      rw [doSeqRelease_of_batch hb hw, if_pos (by rw [hlive, hstage, hbusy]; rfl), seqGate_of_new hb hseq, firstPrep, hdel, id_of_batch? hb]
      rfl
    obtain ⟨t, b', ht, hb', h1, h2, h3, h4, h5, hk⟩ := prepBatch_of_room hb hgone hroom hpeers
    exact ⟨t, b', congrArg Host.Outcome.next (hdo.trans ht), hb', h1, h2, h3, h4, h5, hk.out⟩
  · intro r hr hok hall
    refine congrArg Host.Outcome.next ((doSeqRelease_of_batch hb hw).trans ((if_pos (by rw [hlive, hstage, hbusy]; rfl)).trans ?_))
    exact seqGate_of_outcome hb hw hseq hr hok hall
  · intro hr
    refine congrArg Host.Outcome.next ((doSeqRelease_of_batch hb hw).trans ((if_pos (by rw [hlive, hstage, hbusy]; rfl)).trans ?_))
    exact seqGate_of_lost hb hseq hr
  · refine congrArg Host.Outcome.next ((doSeqRelease_of_batch hb hw).trans (if_neg ?_))
    rcases h with h | h | h
    · simp [h]
    · simp [h]
    · simp [h]

end Sys2Proof.Machine

/-! ## Admission and the waits of update batches (R32, R44, R45, R170 to R172, R177, R199) -/

namespace Sys2Proof.Machine
-- The whole text is compiled by one process of limited memory: one proof at a time keeps it small.
set_option Elab.async false

/-! ## What the writing of a batch's elements leaves -/

/-- The writes of an admission: the update gate, the clock and the admission log stay, and what is sent is writes into the pavilion's
T2 window. -/
structure WritesOwn (p : Nat) (s t : State) : Prop where
  upd : t.upd = s.upd
  clk : t.clk = s.clk
  log : t.comp.admLog = s.comp.admLog
  out : ∀ o ∈ t.out, o ∈ s.out ∨ ∃ a bs, o = .write (fnOf p) a bs .window

namespace WritesOwn

theorem refl (p : Nat) (s : State) : WritesOwn p s s := ⟨rfl, rfl, rfl, fun _ h => .inl h⟩

theorem trans {p : Nat} {s t u : State} (h : WritesOwn p s t) (h' : WritesOwn p t u) : WritesOwn p s u where
  upd := h'.upd.trans h.upd
  clk := h'.clk.trans h.clk
  log := h'.log.trans h.log
  out o ho := (h'.out o ho).elim (h.out o) .inr

/-- An operation that changes neither the update gate, the clock, the composition nor the output. -/
theorem of_keeps {p : Nat} {ps : List Area} {s t : State} (h : Keeps ps s t) (hps : [Area.upd, .clk, .comp, .out].all (fun a => !ps.contains a) = true) :
    WritesOwn p s t := by
  simp only [List.all_cons, List.all_nil, Bool.and_true, Bool.and_eq_true, Bool.not_eq_true'] at hps
  obtain ⟨hupd, hclk, hcomp, hout⟩ := hps
  exact ⟨h.same .upd hupd, h.same .clk hclk, congrArg Comp.admLog (h.same .comp hcomp), fun o ho => .inl (h.same .out hout ▸ ho)⟩

theorem ite {p : Nat} {c : Prop} [Decidable c] {s t u : State} (ht : WritesOwn p s t) (hu : WritesOwn p s u) : WritesOwn p s (if c then t else u) := by
  split
  · exact ht
  · exact hu

theorem foldl {α : Type} {p : Nat} {f : State → α → State} (h : ∀ s a, WritesOwn p s (f s a)) (l : List α) (s : State) :
    WritesOwn p s (l.foldl f s) := by
  induction l generalizing s with
  | nil => exact refl p s
  | cons a l ih => exact (h s a).trans (ih (f s a))

theorem modCorpus (p q : Nat) (g : Corpus → Corpus) (s : State) : WritesOwn p s (Machine.modCorpus q g s) := ⟨rfl, rfl, rfl, fun _ h => .inl h⟩

theorem writeThrough (p a : Nat) (bs : List Byte) (quad : Option Nat) (s : State) : WritesOwn p s (Machine.writeThrough p a bs quad s) := by
  unfold Machine.writeThrough
  extract_lets us nos base one any r0 s1 s2
  have h1 : WritesOwn p s s1 := ⟨rfl, rfl, rfl, fun _ h => .inl h⟩
  have h2 : WritesOwn p s1 s2 := by
    refine ite ⟨rfl, rfl, rfl, fun o ho => ?_⟩ (refl p s1)
    exact (List.mem_append.1 ho).imp_right fun h => ⟨_, _, List.mem_singleton.1 h⟩
  clear_value s1 s2
  exact h1.trans (h2.trans (foldl (fun t u => of_keeps (putUnit_keeps ..) rfl) us s2))

theorem writeElem (p : Nat) (e : Elem) (s : State) : WritesOwn p s (Machine.writeElem p e s) := by
  unfold Machine.writeElem
  exact foldl (fun t x => (writeThrough ..).trans (ite (refl ..) (writeThrough ..))) _ s

theorem fixQuad (p q plot : Nat) (s : State) : WritesOwn p s (Machine.fixQuad q plot s) := by
  unfold Machine.fixQuad
  exact ite (refl p s) ⟨rfl, rfl, rfl, fun _ h => .inl h⟩

theorem appendElem (p : Nat) (del : Bool) (ver node ring seq batch : Nat) (e : Elem) (s : State) :
    WritesOwn p s (Machine.appendElem p del ver node ring seq batch e s) := by
  unfold Machine.appendElem
  extract_lets eps put s1
  have hput (t : State) (ep q sketch plot : Nat) (r : Rec) : WritesOwn p t (put t ep q sketch plot r) :=
    (fixQuad ..).trans (of_keeps (appendEnt_keeps ..) rfl)
  have h1 : WritesOwn p s s1 := by
    refine ite (foldl (fun t x => ite (hput ..) (modCorpus ..)) _ s) (foldl (fun t v => ?_) _ s)
    split
    · exact ite (hput ..) (modCorpus ..)
    · exact refl p t
  clear_value put s1
  exact h1.trans (modCorpus ..)

end WritesOwn

/-! ## Admission -/

/-- A batch may be admitted into the frame in progress (R32, R44, R45, R170). -/
def State.mayAdmit (s : State) (b : Batch) : Bool :=
  s.admits && (match s.clk.slot with | some k => decide (k < s.clk.updCutoff) | none => false) && b.stage == .prep && b.await_.isEmpty &&
    (s.corpus b.pv).rstate == .confirmed && !s.pvInReset b.pv && !s.suspended && s.flash.regionOk &&
    !(s.upd.batches.any fun x => x.pv == b.pv && x.stage == .admitted && x.ver == s.hfn && x.elems.any fun e => b.elems.any (·.eid == e.eid))

theorem doUpdateAdmission_of_barred {s : State} {id : Nat} {b : Batch} (hb : s.batch? id = some b) (h : s.mayAdmit b = false) :
    doUpdateAdmission id s = s := by
  unfold doUpdateAdmission
  rw [hb]
  exact if_neg fun h' => Bool.false_ne_true (h.symm.trans h')

theorem doUpdateAdmission_of_ready {s : State} {id : Nat} {b : Batch} (hb : s.batch? id = some b) (h : s.mayAdmit b = true)
    (hgone : plotGone s.comp.map b.pv b.elems = false) (hsent : ∀ x ∈ s.notices b, x ∈ b.sent)
    (hcovers : b.covers (s.corpus b.pv) s.hfn = true) (hroom : ∀ e ∈ b.elems, poolRoom s b.pv e.vers (e.payload != []) = .ok) :
    doUpdateAdmission id s = admitBatch b s := by
  have hnew : ((s.notices b).any fun x => !b.sent.contains x) = false := List.any_eq_false.2 fun x hx => by simpa using hsent x hx
  have hok : firstStatus (b.elems.map fun e => poolRoom s b.pv e.vers (e.payload != [])) = .ok := firstStatus_of_ok fun st hst => by
    obtain ⟨e, he, rfl⟩ := List.mem_map.1 hst
    exact hroom e he
  unfold doUpdateAdmission
  rw [hb]
  dsimp only
  refine (if_pos h).trans ?_
  rw [hgone, if_neg Bool.false_ne_true, hnew, if_neg Bool.false_ne_true, hcovers, if_neg (by simp), hok]

/-- The elements of a batch as they are appended at its admission. -/
def appendAll (b : Batch) (s : State) : State :=
  b.elems.foldl (fun t e => if (t.corpus b.pv).holdsAlready t.node b.ring b.seq e.eid then dropElem b.pv e t
    else appendElem b.pv b.del s.hfn t.node b.ring b.seq b.id e (writeElem b.pv e t)) s

theorem appendAll_writes (b : Batch) (s : State) : WritesOwn b.pv s (appendAll b s) :=
  .foldl (fun _ _ => .ite (.of_keeps (dropElem_keeps ..) rfl) ((WritesOwn.writeElem ..).trans (.appendElem ..))) b.elems s

/-- The entries of the admission log for a batch (R33, R194). -/
def Batch.logEnts (b : Batch) (f : Frame) : List AdmEnt :=
  b.elems.flatMap fun e => if b.del then [⟨b.pv, e.eid, 0, f⟩] else (e.vers.take 1).map fun v => ⟨b.pv, e.eid, v.plot, f⟩

theorem length_logEnts (b : Batch) (f : Frame) :
    (b.logEnts f).length = if b.del then b.elems.length else (b.elems.filter (!·.vers.isEmpty)).length := by
  unfold Batch.logEnts
  cases b.del with
  | true => simp [List.length_flatMap]
  | false =>
    simp only [Bool.false_eq_true, if_false]
    induction b.elems with
    | nil => rfl
    | cons e es ih =>
      rw [List.flatMap_cons, List.length_append, ih, List.filter_cons]
      cases e.vers with
      | nil => simp
      | cons v vs => simp [Nat.add_comm]

/-- The admission of a batch: its version is fixed, the frame's mark names it, and the log has its elements (R32, R172). -/
theorem admitBatch_parts (b : Batch) (s : State) :
    (admitBatch b s).upd.marks = s.upd.marks ++ [(b.pv, b.id)] ∧
      (admitBatch b s).upd.batches = mapIf (·.id == b.id) (fun x => { x with stage := .admitted, ver := s.hfn }) s.upd.batches ∧
      (admitBatch b s).comp.admLog = s.comp.admLog ++ b.logEnts s.hfn ∧ (admitBatch b s).clk = s.clk ∧
      ∀ o ∈ (admitBatch b s).out, o ∈ s.out ∨ ∃ a bs, o = .write (fnOf b.pv) a bs .window := by
  have hw := appendAll_writes b s
  have hparts : ∃ u : State, admitBatch b s = count (some b.pv) 0 6 b.elems.length u ∧ u.clk = (appendAll b s).clk ∧ u.out = (appendAll b s).out ∧
      u.upd = { (appendAll b s).upd with
        marks := (appendAll b s).upd.marks ++ [(b.pv, b.id)]
        batches := mapIf (·.id == b.id) (fun x => { x with stage := .admitted, ver := s.hfn }) (appendAll b s).upd.batches } ∧
      u.comp.admLog = (appendAll b s).comp.admLog ++ b.logEnts s.hfn := ⟨_, rfl, rfl, rfl, rfl, rfl⟩
  obtain ⟨u, hu, hclk, hout, hupd, hlog⟩ := hparts
  have hcount := count_keeps (some b.pv) 0 6 b.elems.length u
  rw [hu]
  refine ⟨?_, ?_, ?_, ?_, ?_⟩
  · rw [hcount.upd, hupd, hw.upd]
  · rw [hcount.upd, hupd, hw.upd]
  · rw [hcount.comp, hlog, hw.log]
  · rw [hcount.clk, hclk, hw.clk]
  · rw [hcount.out, hout]
    exact hw.out

theorem mayAdmit_of_open {s : State} {b : Batch} {k : Nat} (hadm : s.admits = true) (hslot : s.clk.slot = some k) (hcut : k < s.clk.updCutoff)
    (hstage : b.stage = .prep) (hawait : b.await_ = []) (hstate : (s.corpus b.pv).rstate = .confirmed) (hreset : s.pvInReset b.pv = false)
    (hsusp : s.suspended = false) (hregion : s.flash.regionOk = true)
    (hfirst : ∀ x ∈ s.upd.batches, x.stage = .admitted → x.ver ≠ s.hfn) : s.mayAdmit b = true := by
  have hsame : (s.upd.batches.any fun x => x.pv == b.pv && x.stage == .admitted && x.ver == s.hfn &&
      x.elems.any fun e => b.elems.any (·.eid == e.eid)) = false := List.any_eq_false.2 fun x hx => by
    intro h
    simp only [Bool.and_eq_true, beq_iff_eq] at h
    exact hfirst x hx h.1.1.2 h.1.2
  unfold State.mayAdmit
  rw [hadm, hslot, hstage, hawait, hstate, hreset, hsusp, hregion, hsame]
  simp [hcut]

theorem mayAdmit_of_barred {s : State} {b : Batch} (h : b.stage ≠ .prep ∨ b.await_ ≠ [] ∨ (s.corpus b.pv).rstate ≠ .confirmed ∨
    s.flash.regionOk = false ∨ s.admits = false) : s.mayAdmit b = false := by
  unfold State.mayAdmit
  rcases h with h | h | h | h | h <;> simp [h]

theorem mayAdmit_of_late {s : State} {b : Batch} {k : Nat} (hslot : s.clk.slot = some k) (hcut : s.clk.updCutoff ≤ k) : s.mayAdmit b = false := by
  unfold State.mayAdmit
  rw [hslot]
  simp [Nat.not_lt.2 hcut]

/-! ## Waits that run out -/

theorem doPrepExpiry_of_batch {s : State} {id : Nat} {b : Batch} (hb : s.batch? id = some b) :
    doPrepExpiry id s = if s.live && b.stage == .prep && !b.await_.isEmpty && decide (b.accepted + fld s.upd.cfgEff 9 0 < s.hfn) then
      endBatch b .timeout { s with upd := { s.upd with prepTimeout := true } } else s := by
  unfold doPrepExpiry
  rw [hb] <;> rfl

theorem doAckTimeout_of_batch {s : State} {id : Nat} {b : Batch} (hb : s.batch? id = some b) :
    doAckTimeout id s = if s.live && b.stage == .admitted && decide (b.ver + 1000 ≤ s.hfn) && !b.owners.isEmpty then endBatch b .timeout s
      else s := by
  unfold doAckTimeout
  rw [hb]

theorem doStagedDiscard_of_early {s : State} {id : Nat}
    (h : ∀ x ∈ s.upd.staged, x.id = id → s.hfn ≤ x.arrived + 2 * fld s.upd.cfgEff 9 0) : doStagedDiscard id s = s := by
  unfold doStagedDiscard
  rw [List.filter_eq_nil_iff.2 fun x hx hp => ?_]
  · rfl
  · simp only [Bool.and_eq_true, beq_iff_eq, decide_eq_true_eq] at hp
    exact Nat.not_lt.2 (h x hx hp.1.1) hp.2

theorem doStagedDiscard_of_late {s : State} {id : Nat} {x : Staged} (hlive : s.live = true) (hx : s.upd.staged = [x]) (hid : x.id = id)
    (hlate : x.arrived + 2 * fld s.upd.cfgEff 9 0 < s.hfn) : (doStagedDiscard id s).upd = { s.upd with staged := [] } := by
  have hdrop : (dropStaged x s).upd = { s.upd with staged := s.upd.staged.filter (· != x) } := by
    have hfold : (x.elems.foldl (fun s e => dropElem x.pv e s) s).upd = s.upd := foldl_same State.upd (fun t e => (dropElem_keeps ..).upd) _ _
    unfold dropStaged
    refine (freeElems_keeps ..).upd.trans ?_
    exact congrArg (fun u : Upd => { u with staged := u.staged.filter (· != x) }) hfold
  unfold doStagedDiscard
  rw [hx, List.filter_singleton, hid, hlive, decide_eq_true hlate]
  refine Eq.trans ?_ (hdrop.trans ?_)
  · simp
  · rw [hx]
    simp

/-! ## Late lean-to writes -/

/-- An entry of a batch's element that the frame in progress appended and that is not acknowledged (R45). -/
def LeanEnt.isLate (id eid : Nat) (f : Frame) (e : LeanEnt) : Bool := e.batch == id && e.ent.eid == eid && e.appended == f && !e.committed && !e.gone

/-- A pavilion has such an entry. -/
def State.hasLate (s : State) (p id eid : Nat) : Bool := (s.corpus p).stores.any fun x => x.parts.any fun l => l.live.any fun e =>
  e.batch == id && e.ent.eid == eid && e.appended == s.hfn && !e.committed

/-- The state once the entries of an element of the frame in progress are taken out. -/
def State.withdrawn (s : State) (p id eid : Nat) : State :=
  modBatch id (fun b => { b with elems := mapIf (·.eid == eid) (fun e => { e with withdrawn := true }) b.elems })
    (withdraw p id eid { s with clk := { s.clk with lateCommit := true } })

theorem doWithdraw_of_late {s : State} {p id eid : Nat} (hlive : s.live = true) (hslot : s.clk.slot = some 15) (h : s.hasLate p id eid = true) :
    doWithdraw p id eid s = count (some p) 0 7 1 (s.withdrawn p id eid) := if_pos (by
  unfold State.hasLate at h
  rw [hlive, hslot, h]
  rfl)

theorem hasLate_of_mem {s : State} {p id eid : Nat} (h : ∃ x ∈ (s.corpus p).stores, ∃ l ∈ x.parts, ∃ e ∈ l.ents,
    e.batch = id ∧ e.ent.eid = eid ∧ e.appended = s.hfn ∧ e.committed = false ∧ e.gone = false) : s.hasLate p id eid = true := by
  obtain ⟨x, hx, l, hl, e, he, hid, heid, happ, hcom, hgone⟩ := h
  refine List.any_eq_true.2 ⟨x, hx, List.any_eq_true.2 ⟨l, hl, List.any_eq_true.2 ⟨e, List.mem_filter.2 ⟨he, ?_⟩, ?_⟩⟩⟩
  · simp [hgone]
  · simp [hid, heid, happ, hcom]

/-- A pavilion that has an entry exists. -/
theorem lt_of_store_mem {s : State} {p : Nat} {x : Store} (h : x ∈ (s.corpus p).stores) : p < s.corpora.length := by
  by_contra hp
  have hreset : s.corpus p = Corpus.reset := by
    unfold State.corpus
    rw [List.getD_eq_default _ _ (Nat.not_lt.1 hp)]
  rw [hreset] at h
  cases h

theorem withdrawn_stores {s : State} {p id eid : Nat} (hp : p < s.corpora.length) :
    ((s.withdrawn p id eid).corpus p).stores = (s.corpus p).stores.map fun x => { x with
      parts := x.parts.map fun l => { l with ents := mapIf (LeanEnt.isLate id eid s.hfn) (fun e => { e with gone := true }) l.ents } } :=
  congrArg Corpus.stores (corpus_modCorpus p _ (s := { s with clk := { s.clk with lateCommit := true } }) hp)

theorem withdrawn_gone {s : State} {p id eid : Nat} (hp : p < s.corpora.length) :
    ∀ x ∈ ((s.withdrawn p id eid).corpus p).stores, ∀ l ∈ x.parts, ∀ e ∈ l.ents,
      e.batch = id → e.ent.eid = eid → e.appended = s.hfn → e.committed = false → e.gone = true := by
  rw [withdrawn_stores hp]
  intro x hx l hl e he hid heid happ hcom
  obtain ⟨y, -, rfl⟩ := List.mem_map.1 hx
  obtain ⟨m, -, rfl⟩ := List.mem_map.1 hl
  obtain ⟨e0, -, rfl⟩ := mem_mapIf.1 he
  by_cases hl : e0.isLate id eid s.hfn = true
  · rw [if_pos hl]
  · rw [if_neg hl] at hid heid happ hcom ⊢
    by_contra hgone
    exact hl (by simp [LeanEnt.isLate, hid, heid, happ, hcom, hgone])

theorem withdrawn_elems {s : State} {p id eid : Nat} :
    ∀ b ∈ (s.withdrawn p id eid).upd.batches, b.id = id → ∀ e ∈ b.elems, e.eid = eid → e.withdrawn = true := by
  intro b hb hid e he heid
  obtain ⟨b0, -, rfl⟩ := mem_mapIf.1 (show b ∈ mapIf (·.id == id) _ s.upd.batches from hb)
  by_cases hb0 : (b0.id == id) = true
  · rw [if_pos hb0] at he
    obtain ⟨e0, -, rfl⟩ := mem_mapIf.1 he
    by_cases he0 : (e0.eid == eid) = true
    · rw [if_pos he0]
    · rw [if_neg he0] at heid
      exact absurd (by simpa using heid) he0
  · rw [if_neg hb0] at hid
    exact absurd (by simpa using hid) hb0

/-- Settles O32: a batch that may be admitted is, and each wait that has run out ends. -/
theorem updateAdmission : Obligations.UpdateAdmission := by
  unfold Obligations.UpdateAdmission
  refine fun s => ⟨?_, fun id b hb h => congrArg Host.Outcome.next (doUpdateAdmission_of_barred hb (mayAdmit_of_barred h)),
    fun id b k hb hslot hcut => congrArg Host.Outcome.next (doUpdateAdmission_of_barred hb (mayAdmit_of_late hslot hcut)),
    fun id b hb hlive hstage hawait => ⟨fun h => ?_, fun h => ?_⟩, fun id b hb hlive hstage howners => ⟨fun h => ?_, fun h => ?_⟩,
    fun id h => congrArg Host.Outcome.next (doStagedDiscard_of_early h),
    fun id x hlive hx hid hlate => ⟨_, rfl, doStagedDiscard_of_late hlive hx hid hlate⟩, fun p id eid hlive hslot hlate => ?_, fun p id eid h => ?_,
    fun v hup => ⟨fun h => ?_, fun h => ?_, fun h => ?_, fun h => ?_⟩⟩
  · intro id b k hb hadm hslot hcut hstage hawait hstate hreset hsusp hregion hfirst hgone hsent hcovers hroom
    have hmay := mayAdmit_of_open hadm hslot hcut hstage hawait hstate hreset hsusp hregion hfirst
    obtain ⟨hmarks, hbatches, hlog, hclk, hout⟩ := admitBatch_parts b s
    refine ⟨_, congrArg Host.Outcome.next (doUpdateAdmission_of_ready hb hmay hgone hsent hcovers hroom), hmarks, fun x hx hid => ?_, ?_, hclk, hout⟩
    · rw [hbatches] at hx
      obtain ⟨y, -, rfl⟩ := mem_mapIf.1 hx
      split
      · exact ⟨rfl, rfl⟩
      · next hnot =>
        rw [if_neg hnot] at hid
        exact absurd (by simpa using hid) hnot
    · rw [hlog, List.length_append, length_logEnts]
  · exact congrArg Host.Outcome.next ((doPrepExpiry_of_batch hb).trans (if_pos (by simp [hlive, hstage, hawait, h])))
  · exact congrArg Host.Outcome.next ((doPrepExpiry_of_batch hb).trans (if_neg (by simp [Nat.not_lt.2 h])))
  · exact congrArg Host.Outcome.next ((doAckTimeout_of_batch hb).trans (if_pos (by simp [hlive, hstage, howners, h])))
  · exact congrArg Host.Outcome.next ((doAckTimeout_of_batch hb).trans (if_neg (by simp [Nat.not_le.2 h])))
  · have hp : p.val < s.corpora.length := by
      obtain ⟨x, hx, -⟩ := hlate
      exact lt_of_store_mem hx
    have hcount := count_keeps (some p.val) 0 7 1 (s.withdrawn p.val id eid)
    refine ⟨_, congrArg Host.Outcome.next (doWithdraw_of_late hlive hslot (hasLate_of_mem hlate)), hcount.clk, ?_, ?_⟩
    · rw [show (count (some p.val) 0 7 1 (s.withdrawn p.val id eid)).corpus p.val = (s.withdrawn p.val id eid).corpus p.val from
        congrArg (fun cs : List Corpus => cs.getD p.val Corpus.reset) hcount.corpora]
      exact withdrawn_gone hp
    · rw [hcount.upd]
      exact withdrawn_elems
  · exact congrArg Host.Outcome.next (if_neg (by simp [h]))
  · obtain ⟨h1, h2, h3, h4, h5⟩ := h
    exact congrArg Host.Outcome.next ((if_pos hup).trans (if_pos (by simp [inRange, h1, h2, h3, h4, h5])))
  · refine congrArg Host.Outcome.next ((if_pos hup).trans (if_neg ?_))
    simp only [inRange, Bool.and_eq_true, decide_eq_true_eq]
    omega
  · exact congrArg Host.Outcome.next ((if_pos hup).trans (if_pos (by simp [h.1, h.2])))
  · refine congrArg Host.Outcome.next ((if_pos hup).trans (if_neg ?_))
    simp only [Bool.and_eq_true, decide_eq_true_eq]
    omega

end Sys2Proof.Machine

/-! # The tier opcodes -/

namespace Sys2Proof.Machine
-- The whole text is compiled by one process of limited memory: one proof at a time keeps it small.
set_option Elab.async false

/-! ## Work items of the tiers -/

/-- A work item whose turn has not come waits. -/
theorem admitWork_of_closed {s : State} (op wid : Nat) (f : Work → State → State) (h : s.admits = false) : admitWork op wid f s = s := by
  unfold admitWork
  split
  · exact if_neg (by simp [h])
  · rfl

/-- A pavilion without resources on the node is answered QUOTA (R297). -/
theorem admitWork_of_uncomposed {s : State} {op wid : Nat} {w : Work} (f : Work → State → State) (hw : s.work wid = some w)
    (hadm : s.admits = true) (hstage : w.stage = .fetched) (hop : dOp w.desc = op) (hfn : w.fn.val ≠ 0) (hcomp : s.composed (pvOf w.fn) = false) :
    admitWork op wid f s = failWork w .quota s := by
  unfold admitWork
  rw [hw]
  dsimp only
  rw [if_pos (by simp [hadm, hstage, hop, hfn]), if_neg (by simp [hcomp])]

/-- A work item whose run begins. -/
def Work.started (w : Work) : Work := { w with stage := .running, aux := tFirst w.desc }

/-- No page is being copied for a work item. -/
def State.noCopyOf (s : State) (p wid : Nat) : Prop := ∀ g ∈ (s.range p).pages, ∀ c, g.copy = some c → c.work ≠ some wid

theorem work_startWork {s : State} {wid : Nat} {w : Work} (hw : s.work wid = some w) : (startWork w s).work wid = some w.started := by
  have hid := id_of_work hw
  subst hid
  exact work_modWork (g := fun w => { w with stage := .running, aux := tFirst w.desc }) (fun _ => rfl) hw

theorem any_copy_of_noCopyOf {s : State} {p wid : Nat} (h : s.noCopyOf p wid) :
    ((s.range p).pages.any fun g => g.copy.any fun c => c.work == some wid) = false := by
  simp only [List.any_eq_false, Option.any_eq_true, not_exists, not_and, beq_iff_eq]
  exact fun g hg c hc => h g hg c hc

/-- A work item with no page left is completed. -/
theorem tierGo_of_none {s : State} {wid : Nat} {w : Work} (fuel : Nat) (hw : s.work wid = some w) (hdue : w.due = none)
    (hcopy : s.noCopyOf (pvOf w.fn) wid) (hnext : nextPage s w = none) :
    tierGo (fuel + 1) wid s = if dOp w.desc == opPin then endTier { w with done := tPages w.desc } .ok (setPins (pvOf w.fn) w.desc true s)
      else endTier w .ok s := by
  unfold tierGo
  rw [hw]
  dsimp only
  rw [any_copy_of_noCopyOf hcopy, if_neg Bool.false_ne_true, hdue, if_neg (by simp), hnext]

/-- A work item whose page is being copied waits. -/
theorem tierGo_of_copy {s : State} {wid : Nat} {w : Work} (fuel : Nat) (hw : s.work wid = some w) {g : Page} {c : Copy}
    (hg : g ∈ (s.range (pvOf w.fn)).pages) (hc : g.copy = some c) (hwork : c.work = some wid) : tierGo fuel wid s = s := by
  cases fuel with
  | zero => rfl
  | succ fuel =>
    unfold tierGo
    rw [hw]
    exact if_pos (List.any_eq_true.2 ⟨g, hg, by simp [hc, hwork]⟩)

/-- A work item begins the next page and goes on. -/
theorem tierGo_of_begun {s t : State} {wid no : Nat} {w : Work} (fuel : Nat) (hw : s.work wid = some w) (hdue : w.due = none)
    (hcopy : s.noCopyOf (pvOf w.fn) wid) (hnext : nextPage s w = some no) (hbegin : beginPage w no s = (.ready, t)) :
    tierGo (fuel + 1) wid s = tierGo fuel wid (modWork wid (fun w => { w with aux := no + 1 }) t) := by
  rw [tierGo, hw]
  dsimp only
  rw [any_copy_of_noCopyOf hcopy, if_neg Bool.false_ne_true, hdue, if_neg (by simp), hnext]
  dsimp only
  rw [hbegin]

theorem tierNext_of_work {s : State} {wid : Nat} {w : Work} (hw : s.work wid = some w) : tierNext wid s = tierGo (tPages w.desc + 1) wid s := by
  unfold tierNext
  rw [hw]
  rfl

theorem endTier_of_undue {w : Work} (st : Status) (s : State) (h : w.due = none) : endTier w st s = complete w st 0 (spec3 0 w.done 0) s := by
  unfold endTier
  rw [h]

/-! ## Pages of a range -/

/-- A page with a copy in progress is one of the range's. -/
theorem page_mem_of_copy {r : Range} {no : Nat} {c : Copy} (h : (r.page no).copy = some c) : r.page no ∈ r.pages := by
  unfold Range.page at h ⊢
  cases hfind : r.pages.find? (·.no == no) with
  | none =>
    rw [hfind] at h
    cases h
  | some g => exact List.mem_of_find?_eq_some hfind

/-- A page with a copy in progress. -/
def Page.copying (c : Copy) (g : Page) : Page := { g with copy := some c }

/-- A promotion begins where a frame is free (R208). -/
theorem beginUp_of_free {s : State} {p no : Nat} (policy : Bool) (work : Option Nat) (hcopy : ((s.range p).page no).copy = none)
    (hst : ((s.range p).page no).st = .t2) (hfree : 0 < (s.range p).free) (hp : p < s.ranges.length) :
    beginUp p no policy work s = (.ready, t2Read p (no * pageSize) pageSize
      (modRange p (fun r => r.modPage no (Page.copying ⟨1, policy, 0, 0, work, 0, false⟩)) s)) := by
  have hframe : freeFrame p s = (.ready, s) := if_pos hfree
  unfold beginUp
  rw [hcopy, if_neg (by simp), hframe]
  dsimp only
  have hpage : (((modPage p no (Page.copying ⟨1, policy, 0, 0, work, 0, false⟩) s).range p).page no).st = .t2 := by
    unfold modPage
    rw [range_modRange p _ s hp, page_modPage _ _ _ (Page.copying _) (fun _ => rfl), if_pos rfl]
    exact hst
  refine congrArg (Prod.mk Got.ready) (if_neg fun h => ?_)
  exact absurd (hpage.symm.trans h) (by decide)

/-- A page that a migration takes next is one of the range's. -/
theorem lt_of_nextPage {s : State} {w : Work} {no : Nat} (hop : dOp w.desc = opMigrate) (h : nextPage s w = some no) :
    pvOf w.fn < s.ranges.length := by
  by_contra hp
  unfold nextPage State.range at h
  rw [List.getD_eq_default _ _ (Nat.not_lt.1 hp), if_neg (by rw [hop]; decide)] at h
  cases h

/-! ## Pins and flushes -/

/-- A pin of pages that are all in T1 has no page left. -/
theorem nextPage_of_inT1 {s : State} {w : Work} (hop : dOp w.desc = opPin)
    (h : ∀ i, i < tPages w.desc → ((s.range (pvOf w.fn)).page (tFirst w.desc + i)).st.inT1 = true) : nextPage s w = none := by
  unfold nextPage
  rw [if_pos hop]
  simpa using h

/-- A promotion of pages that are in T1 or hold nothing has no page left. -/
theorem nextPage_of_done {s : State} {w : Work} (hop : dOp w.desc = opMigrate) (harg : tArg w.desc = 1)
    (h : ∀ g ∈ (s.range (pvOf w.fn)).pages, inTier w.desc g.no = true → g.st = .unwritten ∨ g.st.tier = 1) : nextPage s w = none := by
  unfold nextPage
  rw [if_neg (by rw [hop]; decide), List.filter_eq_nil_iff.2]
  · rfl
  · intro g hg hkeep
    simp only [Bool.and_eq_true, bne_iff_ne, ne_eq, harg] at hkeep
    obtain ⟨⟨⟨hin, -⟩, hwritten⟩, htier⟩ := hkeep
    exact (h g hg hin).elim hwritten htier

/-- A page that holds nothing to write is flushed at once. -/
theorem flushPage_of_empty {s : State} {p no : Nat} (durable : Bool) (wid : Nat)
    (h : ((s.range p).page no).st = .t3 ∨ ((s.range p).page no).st = .unwritten) : flushPage p durable wid no s = (true, s) := by
  unfold flushPage
  rcases h with h | h <;> simp [h]

/-- The flush of a page if those before had room. -/
def flushStep (p : Nat) (durable : Bool) (wid : Nat) (x : Bool × State) (no : Nat) : Bool × State :=
  if x.1 then
    match flushPage p durable wid no x.2 with
    | (true, s) => (true, modWork wid (fun w => { w with aux := no + 1 }) s)
    | (false, s) => (false, s)
  else x

/-- Pages that hold nothing to write are flushed without a change of memory or flash. -/
theorem foldl_flushStep_of_empty {p : Nat} (durable : Bool) (wid : Nat) {nos : List Nat} {s : State}
    (h : ∀ no ∈ nos, ((s.range p).page no).st = .t3 ∨ ((s.range p).page no).st = .unwritten) :
    ∃ t, nos.foldl (flushStep p durable wid) (true, s) = (true, t) ∧ t.ranges = s.ranges ∧ t.flash = s.flash ∧
      ∀ w, s.work wid = some w → ∃ w', t.work wid = some w' := by
  induction nos generalizing s with
  | nil => exact ⟨s, rfl, rfl, rfl, fun w hw => ⟨w, hw⟩⟩
  | cons no nos ih =>
    obtain ⟨t, ht, hranges, hflash, hwork⟩ := ih (s := modWork wid (fun w => { w with aux := no + 1 }) s) fun x hx => h x (.tail _ hx)
    have hstep : flushStep p durable wid (true, s) no = (true, modWork wid (fun w => { w with aux := no + 1 }) s) := by
      unfold flushStep
      rw [if_pos rfl, flushPage_of_empty durable wid (h no (.head _))]
    refine ⟨t, ?_, hranges, hflash, fun w hw => hwork _ (work_modWork (g := fun w => { w with aux := no + 1 }) (fun _ => rfl) hw)⟩
    rw [List.foldl_cons, hstep]
    exact ht

/-- The pages of a flush that are still to do, in ascending order. -/
def State.flushNos (s : State) (w : Work) : List Nat :=
  sortBy (fun a b => decide (a < b)) (((s.range (pvOf w.fn)).pages.filter fun g => inTier w.desc g.no && decide (w.aux ≤ g.no)).map (·.no))

/-- What a flush does after its pages. -/
def flushEnd (wid : Nat) (x : Bool × State) : State :=
  if x.1 && !x.2.flash.pool.any (·.work == some wid) then
    match x.2.work wid with
    | some w => complete w ((w.due.map Status.ofCode).getD .ok) 0 (spec3 0 w.done 0) x.2
    | none => x.2
  else x.2

theorem flushGo_of_work {s : State} {wid : Nat} {w : Work} (hw : s.work wid = some w) :
    flushGo wid s = flushEnd wid ((s.flushNos w).foldl (flushStep (pvOf w.fn) (tArg w.desc = 1) wid) (true, s)) := by
  unfold flushGo
  rw [hw] <;> rfl

/-- A flush whose pages have all had room completes once nothing of it is left in the pool. -/
theorem flushGo_of_all {s t : State} {wid : Nat} {w w' : Work} (hw : s.work wid = some w)
    (hall : (s.flushNos w).foldl (flushStep (pvOf w.fn) (tArg w.desc = 1) wid) (true, s) = (true, t)) (hw' : t.work wid = some w') :
    flushGo wid s = if t.flash.pool.any (·.work == some wid) then t
      else complete w' ((w'.due.map Status.ofCode).getD .ok) 0 (spec3 0 w'.done 0) t := by
  rw [flushGo_of_work hw, hall]
  unfold flushEnd
  dsimp only
  rw [hw']
  cases t.flash.pool.any (·.work == some wid) <;> rfl

/-- A page of the range by its number, where every page of that number has a property. -/
theorem page_of_forall {r : Range} {P : Page → Prop} {no : Nat} (hmem : ∃ g ∈ r.pages, g.no = no) (h : ∀ g ∈ r.pages, g.no = no → P g) :
    P (r.page no) := by
  obtain ⟨g, hg, hno⟩ := hmem
  unfold Range.page
  cases hfind : r.pages.find? (·.no == no) with
  | none => exact absurd (List.find?_eq_none.1 hfind g hg) (by simp [hno])
  | some x => exact h x (List.mem_of_find?_eq_some hfind) (by simpa using List.find?_some hfind)

/-- A flush of pages that hold nothing to write completes (R211). -/
theorem doFlush_of_empty {s : State} {wid : Nat} {w : Work} (hw : s.work wid = some w)
    (h : ∀ g ∈ (s.range (pvOf w.fn)).pages, inTier w.desc g.no = true → g.st = .t3 ∨ g.st = .unwritten) :
    (doFlush w s).ranges = s.ranges ∧ (doFlush w s).flash = s.flash ∧
      ((∀ u ∈ s.flash.pool, u.work ≠ some wid) → (doFlush w s).work wid = none) := by
  have hid := id_of_work hw
  subst hid
  have hstart := work_startWork hw
  have hempty : ∀ no ∈ (startWork w s).flushNos w.started,
      (((startWork w s).range (pvOf w.fn)).page no).st = .t3 ∨ (((startWork w s).range (pvOf w.fn)).page no).st = .unwritten := by
    intro no hno
    obtain ⟨g, hg, rfl⟩ := List.mem_map.1 (mem_sortBy.1 hno)
    obtain ⟨hg, hin⟩ := List.mem_filter.1 hg
    refine page_of_forall (P := fun g => g.st = .t3 ∨ g.st = .unwritten) ⟨g, hg, rfl⟩ fun x hx hno => h x hx ?_
    rw [hno]
    exact (Bool.and_eq_true _ _ ▸ hin).1
  obtain ⟨t, ht, hranges, hflash, hwork⟩ := foldl_flushStep_of_empty (tArg w.desc = 1) w.id hempty
  obtain ⟨w', hw'⟩ := hwork _ hstart
  have hgo := flushGo_of_all hstart ht hw'
  have hdo : doFlush w s = flushGo w.id (startWork w s) := by
    unfold doFlush
    refine if_pos ?_
    rw [List.flatMap_eq_nil_iff.2]
    · rfl
    · intro g hg
      obtain ⟨hg, hin⟩ := List.mem_filter.1 hg
      rcases h g hg hin with h | h <;> rw [h] <;> rfl
  rw [hdo, hgo]
  split
  · next hpool =>
    refine ⟨hranges, hflash, fun hfree => ?_⟩
    obtain ⟨u, hu, hwid⟩ := List.any_eq_true.1 hpool
    rw [hflash] at hu
    exact absurd (by simpa using hwid) (hfree u hu)
  · refine ⟨(complete_keeps ..).ranges.trans hranges, (complete_keeps ..).flash.trans hflash, fun _ => ?_⟩
    rw [← id_of_work hw']
    exact work_complete ..

/-! ## The opcodes -/

/-- A promotion whose next page is in T2 reads it, and waits for it (R208, R210). -/
theorem tierNext_of_t2 {s : State} {wid no : Nat} {w : Work} (hw : s.work wid = some w) (hdue : w.due = none) (hop : dOp w.desc = opMigrate)
    (harg : tArg w.desc = 1) (hfree : 0 < (s.range (pvOf w.fn)).free) (hcopy : s.noCopyOf (pvOf w.fn) wid)
    (hnext : nextPage s w = some no) (hnone : ((s.range (pvOf w.fn)).page no).copy = none) (hst : ((s.range (pvOf w.fn)).page no).st = .t2) :
    tierNext wid s = modWork wid (fun w => { w with aux := no + 1 }) (t2Read (pvOf w.fn) (no * pageSize) pageSize
      (modRange (pvOf w.fn) (fun r => r.modPage no (Page.copying ⟨1, false, 0, 0, some wid, 0, false⟩)) s)) := by
  have hid := id_of_work hw
  subst hid
  have hp := lt_of_nextPage hop hnext
  have hbegin : beginPage w no s = beginUp (pvOf w.fn) no false (some w.id) s := by
    unfold beginPage
    simp only [hnone, Option.isSome_none, Bool.false_eq_true, if_false, hst, reduceCtorEq]
    exact if_neg (by simp [wantTier, hop, harg, opMigrate, opPin])
  rw [beginUp_of_free false (some w.id) hnone hst hfree hp] at hbegin
  rw [tierNext_of_work hw, tierGo_of_begun _ hw hdue hcopy hnext hbegin]
  generalize hm : modRange (pvOf w.fn) (fun r => r.modPage no (Page.copying ⟨1, false, 0, 0, some w.id, 0, false⟩)) s = m
  have hrange : (t2Read (pvOf w.fn) (no * pageSize) pageSize m).range (pvOf w.fn) = m.range (pvOf w.fn) :=
    congrArg (fun rs : List Range => rs.getD (pvOf w.fn) Range.reset) (t2Read_keeps ..).ranges
  have hworks : (t2Read (pvOf w.fn) (no * pageSize) pageSize m).work w.id = some w := by
    rw [work_congr (t2Read_keeps ..).works, ← hm]
    exact hw
  have hcopying : ((m.range (pvOf w.fn)).page no).copy = some ⟨1, false, 0, 0, some w.id, 0, false⟩ := by
    rw [← hm, range_modRange _ _ _ hp, page_modPage _ _ _ (Page.copying _) (fun _ => rfl), if_pos rfl]
    rfl
  refine tierGo_of_copy _ (work_modWork (g := fun w => { w with aux := no + 1 }) (fun _ => rfl) hworks) ?_ hcopying rfl
  exact hrange.symm ▸ page_mem_of_copy hcopying

/-- Settles O33: each tier opcode refuses, begins or completes as its pages are. -/
theorem tierOpcodes : Obligations.TierOpcodes := by
  unfold Obligations.TierOpcodes
  intro s wid w hw hdue hcopy
  have hid := id_of_work hw
  subst hid
  have hstart := work_startWork hw
  have hdue' : w.started.due = none := hdue
  refine ⟨fun h => ⟨fun hheld harg => ?_, fun harg hsize => ?_, fun harg hdone => ?_, fun no harg _ hfree hnext hnone hst => ?_⟩,
    fun h harg => ⟨fun hlow => ?_, fun hroom hin => ?_⟩, fun h harg => ?_, fun h hempty => ?_, fun h => ⟨?_, ?_, ?_, ?_⟩,
    fun hadm hstage hop hfn hcomp => congrArg Host.Outcome.next (admitWork_of_uncomposed _ hw hadm hstage hop hfn hcomp)⟩
  · refine congrArg Host.Outcome.next ((admitWork_of_admits _ h).trans (if_pos ?_))
    obtain ⟨g, hg, hin, hheld⟩ := hheld
    rw [Bool.and_eq_true, List.any_eq_true]
    exact ⟨⟨g, hg, by simp [hin, hheld]⟩, by simpa using harg⟩
  · refine congrArg Host.Outcome.next ((admitWork_of_admits _ h).trans ?_)
    unfold doMigrate
    dsimp only
    rw [if_pos (show tArg w.desc = 2 ∧ _ from ⟨harg, hsize⟩), ite_self]
  · have hmig : doMigrate w s = tierNext w.id (startWork w s) := by
      unfold doMigrate
      simp only [harg, bne_self_eq_false, Bool.and_false, Bool.false_eq_true, if_false]
      exact if_neg (by simp)
    have hop : dOp w.started.desc = opMigrate := h.2.2.2.1
    refine congrArg Host.Outcome.next ((admitWork_of_admits _ h).trans (hmig.trans ?_))
    rw [tierNext_of_work hstart, tierGo_of_none _ hstart hdue' hcopy (nextPage_of_done hop harg hdone), if_neg (by rw [hop]; decide)]
    exact endTier_of_undue _ _ hdue'
  · have hmig : doMigrate w s = tierNext w.id (startWork w s) := by
      unfold doMigrate
      simp only [harg, bne_self_eq_false, Bool.and_false, Bool.false_eq_true, if_false]
      exact if_neg (by simp)
    refine congrArg Host.Outcome.next ((admitWork_of_admits _ h).trans (hmig.trans ?_))
    exact tierNext_of_t2 (w := w.started) hstart hdue' h.2.2.2.1 harg hfree hcopy hnext hnone hst
  · exact congrArg Host.Outcome.next ((admitWork_of_admits _ h).trans ((if_pos harg).trans (if_neg (Nat.not_le.2 hlow))))
  · have hop : dOp w.started.desc = opPin := h.2.2.2.1
    refine congrArg Host.Outcome.next ((admitWork_of_admits _ h).trans ((if_pos harg).trans ((if_pos hroom).trans ?_)))
    rw [tierNext_of_work hstart, tierGo_of_none _ hstart hdue' hcopy (nextPage_of_inT1 hop hin), if_pos (by rw [hop]; decide)]
    exact endTier_of_undue (w := { w.started with done := tPages w.desc }) _ _ hdue
  · exact congrArg Host.Outcome.next ((admitWork_of_admits _ h).trans ((if_pos harg).trans (endTier_of_undue (w := { w with done := tPages w.desc }) _ _ hdue)))
  · exact ⟨_, congrArg Host.Outcome.next (admitWork_of_admits _ h), doFlush_of_empty hw hempty⟩
  all_goals exact congrArg Host.Outcome.next (admitWork_of_closed _ _ _ h)

end Sys2Proof.Machine

/-! # The placement policy -/

namespace Sys2Proof.Machine
-- The whole text is compiled by one process of limited memory: one proof at a time keeps it small.
set_option Elab.async false

/-! ## Promotions and demotions by policy -/

theorem no_of_page (r : Range) (no : Nat) : (r.page no).no = no := by
  unfold Range.page
  cases hfind : r.pages.find? (·.no == no) with
  | none => rfl
  | some g => simpa using List.find?_some hfind

/-- A pavilion that is not on the node has pages that nothing has written. -/
theorem lt_of_page_st {s : State} {p no : Nat} (h : ((s.range p).page no).st ≠ .unwritten) : p < s.ranges.length := by
  by_contra hp
  unfold State.range at h
  rw [List.getD_eq_default _ _ (Nat.not_lt.1 hp)] at h
  exact h rfl

theorem doAutoPromote_of_read {s : State} {p no : Nat} (hlive : s.live = true) (hbit : bit s.tier.cfgEff 0 = true)
    (hmiss : fld s.tier.cfgEff 15 8 ≤ ((s.range p).page no).misses) : doAutoPromote p no s = promote p no s :=
  if_pos (by simp [hlive, hbit, hmiss])

theorem doAutoPromote_of_rare {s : State} {p no : Nat}
    (h : bit s.tier.cfgEff 0 = false ∨ ((s.range p).page no).misses < fld s.tier.cfgEff 15 8) : doAutoPromote p no s = s := by
  refine if_neg ?_
  rcases h with h | h
  · simp [h]
  · simp [Nat.not_le.2 h]

theorem promote_of_t2 {s : State} {p no : Nat} (h : ((s.range p).page no).st = .t2) : promote p no s = (beginUp p no true none s).2 := by
  unfold promote
  rw [h]

/-- The least recently accessed page is demoted when few frames are free (R212). -/
theorem doPolicyDemote_of_oldest {s : State} {p no : Nat} {g : Page} {gs : List Page} (hlive : s.live = true)
    (hlow : (s.range p).free * 64 < (s.range p).share) (hvictims : (s.range p).victims = g :: gs) (hno : g.no = no)
    (hacc : ((s.range p).page no).lastAcc = g.lastAcc) : doPolicyDemote p no s = (demoteFirst p [(s.range p).page no] s).2 := by
  unfold doPolicyDemote
  dsimp only
  rw [hvictims]
  exact if_pos (by simp [hlive, hlow, hno, hacc])

theorem doPolicyDemote_of_room {s : State} {p no : Nat} (h : (s.range p).share ≤ (s.range p).free * 64) : doPolicyDemote p no s = s :=
  if_neg (by simp [Nat.not_lt.2 h])

theorem policyTier_of_t2 {s : State} {p : Nat} {g : Page} (hbit : bit s.tier.cfgEff 1 = true) (hst : g.st = .t1OverT2) : policyTier s p g = 2 :=
  if_pos (by simp [hbit, hst, PState.inT2])

/-- A page with a clean copy in T2 is demoted at once. -/
theorem demoteFirst_of_clean {s : State} {p : Nat} {g : Page} (gs : List Page) (hbit : bit s.tier.cfgEff 1 = true) (hst : g.st = .t1OverT2)
    (hdirty : g.dirty = 0) : demoteFirst p (g :: gs) s = (.ready, migrated (switchPage p g.no 2 s)) := by
  unfold demoteFirst
  dsimp only
  rw [policyTier_of_t2 hbit hst]
  exact if_pos (by simp [Page.clean, hst, hdirty, PState.refTier])

/-- A page whose copy to the window has begun, at a place if it has none (R208, R209). -/
def Page.downCopy (place skip : Nat) (g : Page) : Page :=
  { g with copy := some ⟨2, true, 0, 0, none, skip, false⟩, place := if !g.st.inT2 then place else g.place }

theorem beginDown_of_t2 {s : State} {p no : Nat} (hst : ((s.range p).page no).st = .t1OverT2) (hcopy : ((s.range p).page no).copy = none) :
    ∃ mask sub, beginDown p no 2 true none s = (.ready, t2Write p no mask (readSubs p no sub
      (modPage p no (Page.downCopy (s.range p).freePlace (badSubs s p ((s.range p).page no))) s))) := by
  refine ⟨subsDown ((s.range p).page no) &&& (0xFFFF ^^^ badSubs s p ((s.range p).page no)), subsDown ((s.range p).page no), ?_⟩
  unfold beginDown
  dsimp only
  rw [hcopy, if_neg (by simp), if_pos rfl, if_pos (by simp [hst, PState.inT2]), if_neg (by rw [hst]; decide)]
  rfl

theorem demoteFirst_of_dirty {s : State} {p no : Nat} (hbit : bit s.tier.cfgEff 1 = true) (hst : ((s.range p).page no).st = .t1OverT2)
    (hdirty : ((s.range p).page no).dirty ≠ 0) (hcopy : ((s.range p).page no).copy = none) :
    ∃ mask sub, (demoteFirst p [(s.range p).page no] s).2 = t2Write p no mask (readSubs p no sub
      (modPage p no (Page.downCopy (s.range p).freePlace (badSubs s p ((s.range p).page no))) s)) := by
  obtain ⟨mask, sub, hbegin⟩ := beginDown_of_t2 hst hcopy
  refine ⟨mask, sub, ?_⟩
  unfold demoteFirst
  dsimp only
  rw [policyTier_of_t2 hbit hst, if_neg (by simp [Page.clean, hdirty]), no_of_page, hbegin]

/-- Pages keep their state and their copy. -/
structure KeepsCopies (p : Nat) (s t : State) : Prop where
  length : t.ranges.length = s.ranges.length
  page : ∀ no, ((t.range p).page no).copy = ((s.range p).page no).copy ∧ ((t.range p).page no).st = ((s.range p).page no).st

namespace KeepsCopies

theorem refl (p : Nat) (s : State) : KeepsCopies p s s := ⟨rfl, fun _ => ⟨rfl, rfl⟩⟩

theorem trans {p : Nat} {s t u : State} (h : KeepsCopies p s t) (h' : KeepsCopies p t u) : KeepsCopies p s u :=
  ⟨h'.length.trans h.length, fun no => ⟨(h'.page no).1.trans (h.page no).1, (h'.page no).2.trans (h.page no).2⟩⟩

theorem of_ranges {p : Nat} {s t : State} (h : t.ranges = s.ranges) : KeepsCopies p s t := by
  have hr : t.range p = s.range p := congrArg (fun rs : List Range => rs.getD p Range.reset) h
  exact ⟨congrArg _ h, fun no => by rw [hr]; exact ⟨rfl, rfl⟩⟩

theorem modRange {p : Nat} {s : State} {g : Range → Range}
    (h : ∀ r no, ((g r).page no).copy = (r.page no).copy ∧ ((g r).page no).st = (r.page no).st) : KeepsCopies p s (modRange p g s) := by
  refine ⟨modifyAt_length .., fun no => ?_⟩
  by_cases hp : p < s.ranges.length
  · rw [range_modRange p g s hp]
    exact h _ no
  · unfold State.range Machine.modRange
    rw [List.getD_eq_default _ _ (Nat.not_lt.1 hp), List.getD_eq_default _ _ (by rw [modifyAt_length]; exact Nat.not_lt.1 hp)]
    exact ⟨rfl, rfl⟩

end KeepsCopies

/-- A fold of reads over what it has found. -/
theorem foldl_keepsCopies {α β : Type} {p : Nat} {f : β × State → α → β × State} (h : ∀ x a, KeepsCopies p x.2 (f x a).2) (l : List α)
    (x : β × State) : KeepsCopies p x.2 (l.foldl f x).2 := by
  induction l generalizing x with
  | nil => exact .refl p _
  | cons a l ih => exact (h x a).trans (ih _)

/-- A word that is read is corrected in its page, or reported. -/
theorem readWord_keepsCopies (p no access : Nat) (x : Option Status × State) (e : WordErr) : KeepsCopies p x.2 (readWord p no access x e).2 := by
  have hdrop (m : List (Nat × Byte)) (s : State) : KeepsCopies p s (modRange p (fun r =>
      { r.modPage no (fun g => { g with errs := g.errs.filter (·.word != e.word) }) with t1 := patch r.t1 (no * pageSize + e.word * 64) m }) s) := by
    refine .modRange fun r k => ?_
    have hpage := page_modPage r no k (fun g => { g with errs := g.errs.filter (·.word != e.word) }) (fun _ => rfl)
    refine ⟨(congrArg Page.copy hpage).trans ?_, (congrArg Page.st hpage).trans ?_⟩ <;> split <;> simp_all
  obtain ⟨st, s⟩ := x
  unfold readWord
  dsimp only
  split
  · exact (hdrop _ s).trans (.of_ranges (countCe_keeps ..).ranges)
  · split
    · have hread : KeepsCopies p s (if ((s.range p).page no).st = .t1OverT2 then t2Read p (no * pageSize + e.word / 64 * subSize) subSize s else s) := by
        split
        · exact .of_ranges (t2Read_keeps ..).ranges
        · exact .refl p s
      exact hread.trans ((hdrop _ _).trans (.of_ranges (countCe_keeps ..).ranges))
    · exact .of_ranges ((countUe_keeps ..).ranges.trans (memError_keeps ..).ranges)

theorem readWords_keepsCopies (p a n access : Nat) (sel : Nat → Bool) (s : State) : KeepsCopies p s (readWords p a n access sel s).2 := by
  refine foldl_keepsCopies (fun x no => ?_) _ (none, s)
  dsimp only
  split
  · exact foldl_keepsCopies (readWord_keepsCopies p no access) _ x
  · exact .refl p _

theorem readSubs_keepsCopies (p no sub : Nat) (s : State) : KeepsCopies p s (readSubs p no sub s) := by
  unfold readSubs
  dsimp only
  split
  · split
    · exact .of_ranges ((memError_keeps ..).ranges.trans (t2Read_keeps ..).ranges)
    · exact .of_ranges (t2Read_keeps ..).ranges
  · exact readWords_keepsCopies ..

theorem t2Write_keepsCopies (p no mask : Nat) (s : State) : KeepsCopies p s (t2Write p no mask s) := by
  unfold t2Write
  refine KeepsCopies.trans (.of_ranges ?_) (.modRange fun r k => ⟨rfl, rfl⟩)
  refine foldl_same State.ranges (fun t i => ?_) _ _
  dsimp only
  split <;> rfl

/-- The demotion of a page with dirty sub-blocks begins its copy. -/
theorem demoteFirst_copies {s : State} {p no : Nat} (hbit : bit s.tier.cfgEff 1 = true) (hst : ((s.range p).page no).st = .t1OverT2)
    (hdirty : ((s.range p).page no).dirty ≠ 0) (hcopy : ((s.range p).page no).copy = none) :
    let t := (demoteFirst p [(s.range p).page no] s).2
    ((t.range p).page no).copy = some ⟨2, true, 0, 0, none, badSubs s p ((s.range p).page no), false⟩ ∧ ((t.range p).page no).st = .t1OverT2 := by
  obtain ⟨mask, sub, hdemote⟩ := demoteFirst_of_dirty hbit hst hdirty hcopy
  have hp : p < s.ranges.length := lt_of_page_st (no := no) (by rw [hst]; decide)
  intro t
  have hkeep (m : State) := ((readSubs_keepsCopies p no sub m).trans (t2Write_keepsCopies p no mask _)).page no
  have hset : ((modPage p no (Page.downCopy (s.range p).freePlace (badSubs s p ((s.range p).page no))) s).range p).page no =
      Page.downCopy (s.range p).freePlace (badSubs s p ((s.range p).page no)) ((s.range p).page no) := by
    unfold modPage
    rw [range_modRange _ _ _ hp, page_modPage _ _ _ (Page.downCopy _ _) (fun _ => rfl), if_pos rfl]
  obtain ⟨hkcopy, hkst⟩ := hkeep (modPage p no (Page.downCopy (s.range p).freePlace (badSubs s p ((s.range p).page no))) s)
  rw [← hdemote, hset] at hkcopy hkst
  exact ⟨hkcopy, hkst.trans hst⟩

/-! ## Switches -/

/-- No unit of a page's copy waits in the pool, and no read of it runs. -/
def State.copySettled (s : State) (p no : Nat) : Prop :=
  (∀ u ∈ s.flash.pool, u.lua.pv ≠ p ∨ u.page ≠ some no) ∧ s.flash.asked p (.page no) = false

/-- Where no request is held, none goes on. -/
theorem pumpAll_of_none {s : State} (h : s.fab.held = []) : pumpAll s = s := by
  have hreqs (n : Nat) : pumpReqs n s = s := by
    cases n with
    | zero => rfl
    | succ n =>
      unfold pumpReqs
      rw [h] <;> rfl
  unfold pumpAll
  rw [hreqs]
  unfold promoteHeld
  rw [h] <;> rfl

/-- A switch that finds no held request is all that its command does. -/
theorem doDemoteSwitch_of_none {s : State} (p no : Nat) (h : s.fab.held = []) : doDemoteSwitch p no s = doSwitch p no s :=
  pumpAll_of_none ((congrArg Fabric.held (doSwitch_keeps p no s).fab).trans h)

/-- What a switch does once its copy is settled. -/
def State.switchSettled (s : State) (p no : Nat) (c : Copy) : State :=
  let g := (s.range p).page no
  if g.held && g.st.inT1 then dropCopy p no none s
  else if c.skipped ≠ 0 then
    dropCopy p no (some .memUncorrectable) (if g.st.refTier = c.tier then modPage p no (fun g => { g with dirty := g.dirty &&& c.skipped }) s else s)
  else if g.st = .t3 && s.flash.badPage p no then dropCopy p no (some .flashUnrecoverable) s
  else if c.redirty ≠ 0 ∧ c.tries < 3 then copyAgain p no c s
  else if c.redirty ≠ 0 ∧ c.policy then dropCopy p no none s
  else pumpBar2 (fnOf p) (copyDone c (migrated (switchPage p no c.tier s)))

theorem doSwitch_of_none {s : State} {p no : Nat} (h : ((s.range p).page no).copy = none) : doSwitch p no s = s := by
  unfold doSwitch
  dsimp only
  rw [h]

theorem doSwitch_of_waits {s : State} {p no : Nat} {c : Copy} (hc : ((s.range p).page no).copy = some c)
    (h : ∃ u ∈ s.flash.pool, u.lua.pv = p ∧ u.page = some no) : doSwitch p no s = s := by
  obtain ⟨u, hu, hpv, hpage⟩ := h
  have hany : (s.flash.pool.any fun u => u.lua.pv == p && u.page == some no) = true := List.any_eq_true.2 ⟨u, hu, by simp [hpv, hpage]⟩
  unfold doSwitch
  dsimp only
  rw [hc]
  exact if_neg (by simp [hany])

theorem doSwitch_of_settled {s : State} {p no : Nat} {c : Copy} (hlive : s.live = true) (hc : ((s.range p).page no).copy = some c)
    (htier : 2 ≤ c.tier) (h : s.copySettled p no) : doSwitch p no s = s.switchSettled p no c := by
  obtain ⟨hpool, hasked⟩ := h
  have hany : (s.flash.pool.any fun u => u.lua.pv == p && u.page == some no) = false := by
    simp only [List.any_eq_false, Bool.and_eq_true, beq_iff_eq]
    exact fun u hu ⟨hpv, hpage⟩ => (hpool u hu).elim (· hpv) (· hpage)
  unfold doSwitch
  dsimp only
  rw [hc]
  exact if_pos (by simp [hlive, htier, hany, hasked])

theorem dropCopy_of_own {s : State} {p no : Nat} {c : Copy} (due : Option Status) (hc : ((s.range p).page no).copy = some c)
    (hwork : c.work = none) : dropCopy p no due s = modPage p no (fun g => { g with copy := none }) s := by
  unfold dropCopy
  rw [hc]
  dsimp only
  rw [hwork]

theorem copyDone_of_own {c : Copy} (s : State) (h : c.work = none) : copyDone c s = s := by
  unfold copyDone
  rw [h]

theorem copyDone_of_work {c : Copy} {k : Nat} (s : State) (h : c.work = some k) :
    copyDone c s = tierNext k (modWork k (fun x => { x with done := x.done + 1 }) s) := by
  unfold copyDone
  rw [h]

/-- A page that is not held, and could be read, goes on with its copy. -/
theorem switchSettled_of_free {s : State} {p no : Nat} {c : Copy} (hheld : ((s.range p).page no).held = false) (hskip : c.skipped = 0)
    (hst : ((s.range p).page no).st ≠ .t3) : s.switchSettled p no c =
      if c.redirty ≠ 0 ∧ c.tries < 3 then copyAgain p no c s
      else if c.redirty ≠ 0 ∧ c.policy then dropCopy p no none s
      else pumpBar2 (fnOf p) (copyDone c (migrated (switchPage p no c.tier s))) := by
  unfold State.switchSettled
  dsimp only
  rw [hheld, Bool.false_and, if_neg Bool.false_ne_true, if_neg (not_not.2 hskip), if_neg (by simp [hst])]

/-! ## Scrub and the refresh regions -/

theorem doScrub_of_row {s : State} {x : ScrubIn} (hlive : s.live = true) (hstack : x.stack < 16) (hrow : x.inRange = none) :
    doScrub x s = if x.syms.isEmpty then s
      else if (rsDecode x.syms).isSome then countCe x.stack s
      else countUe x.stack (rowError 3 x.stack x.row s) := by
  unfold doScrub
  rw [if_pos (by simp [hlive, hstack]), hrow]

/-- A step of GH begins once no frame stands in its rows (R224). -/
theorem doQuiesce_of_room {s : State} {st sl : Nat} (hlive : s.live = true) (hslot : s.clk.slot = none)
    (hquiet : (s.scan.st.getD st Stack.reset).quiesced = []) (hgh : (s.scan.st.getD st Stack.reset).gh.getD sl 0 < 85)
    (hroom : ∀ q, q < 12 → (s.range q).inT1 ≤ (modStack st (fun k => { k with quiesced := k.quiesced ++ [(sl, true, s.hfn)] }) s).shareOf q) :
    doQuiesce st sl true s = setShares (modStack st (fun k => { k with quiesced := k.quiesced ++ [(sl, true, s.hfn)] }) s) := by
  have htight : ((List.range 12).filter fun p =>
      decide ((modStack st (fun k => { k with quiesced := k.quiesced ++ [(sl, true, s.hfn)] }) s).shareOf p < (s.range p).inT1)) = [] := by
    simpa using fun q hq => hroom q hq
  unfold doQuiesce
  dsimp only
  rw [if_pos (by simp only [hlive, hslot, hquiet, hgh]; rfl), if_pos rfl, htight]
  rfl

theorem doQuiesce_of_full {s : State} {st sl : Nat} (hgh : (s.scan.st.getD st Stack.reset).gh.getD sl 0 = 85) : doQuiesce st sl true s = s :=
  if_neg (by
    simp only [hgh]
    simp)

theorem doQuiesce_of_empty {s : State} {st sl : Nat} (hgh : (s.scan.st.getD st Stack.reset).gh.getD sl 0 = 0) : doQuiesce st sl false s = s :=
  if_neg (by
    simp only [hgh]
    simp)

theorem doGhApply_of_step {s : State} {st sl : Nat} {f : Frame} (hlive : s.live = true) (hslot : s.clk.slot = none)
    (h : (s.scan.st.getD st Stack.reset).quiesced = [(sl, true, f)]) (hf : f < s.hfn) :
    doGhApply st sl s = setShares (modStack st (fun k =>
      { k with quiesced := k.quiesced.filter (·.1 != sl), gh := modifyAt k.gh sl (· + 1) }) s) := by
  unfold doGhApply
  rw [h, List.find?_cons_of_pos (by simp)]
  exact if_pos (by simp [hlive, hslot, hf])

theorem doGhApply_of_none {s : State} {st sl : Nat} (h : (s.scan.st.getD st Stack.reset).quiesced = []) : doGhApply st sl s = s := by
  unfold doGhApply
  rw [h] <;> rfl

/-- Settles O34: each rule of placement acts on its terms, and no other page or stack moves. -/
theorem placementPolicy : Obligations.PlacementPolicy := by
  unfold Obligations.PlacementPolicy
  refine fun s p no hlive hheld => ⟨fun hbit hmiss hst hcopy hfree => ?_, fun h => congrArg Host.Outcome.next (doAutoPromote_of_rare h),
    fun g gs hlow hvictims hno hacc hbit hst => ⟨fun hdirty => ?_, fun hdirty hcopy => ?_⟩,
    fun h => congrArg Host.Outcome.next (doPolicyDemote_of_room h), fun h => congrArg Host.Outcome.next ((doDemoteSwitch_of_none _ _ hheld).trans (doSwitch_of_none h)),
    fun c hc htier => ⟨fun h => congrArg Host.Outcome.next ((doDemoteSwitch_of_none _ _ hheld).trans (doSwitch_of_waits hc h)), fun hpool hasked => ?_⟩,
    fun x hstack hrow => ?_, fun st sl hslot => ⟨fun hquiet hgh hroom => ?_, fun h => congrArg Host.Outcome.next (doQuiesce_of_full h),
      fun h => congrArg Host.Outcome.next (doQuiesce_of_empty h), fun f h hf => congrArg Host.Outcome.next (doGhApply_of_step hlive hslot h hf),
      fun h => congrArg Host.Outcome.next (doGhApply_of_none h)⟩⟩
  · have hp : p.val < s.ranges.length := lt_of_page_st (no := no) (by rw [hst]; decide)
    refine congrArg Host.Outcome.next ((doAutoPromote_of_read hlive hbit hmiss).trans ((promote_of_t2 hst).trans ?_))
    rw [beginUp_of_free true none hcopy hst hfree hp]
    rfl
  · refine congrArg Host.Outcome.next ((doPolicyDemote_of_oldest hlive hlow hvictims hno hacc).trans ?_)
    rw [demoteFirst_of_clean [] hbit hst hdirty, no_of_page]
  · exact ⟨_, congrArg Host.Outcome.next (doPolicyDemote_of_oldest hlive hlow hvictims hno hacc), demoteFirst_copies hbit hst hdirty hcopy⟩
  · have hdo := (doDemoteSwitch_of_none p.val no hheld).trans (doSwitch_of_settled hlive hc htier ⟨hpool, hasked⟩)
    refine ⟨fun hheld hin hwork => ?_, fun hheld hskip hst => ?_⟩
    · exact congrArg Host.Outcome.next (hdo.trans ((if_pos (by simp [hheld, hin])).trans (dropCopy_of_own none hc hwork)))
    · have hfree := hdo.trans (switchSettled_of_free hheld hskip hst)
      refine ⟨fun hclean hwork => ?_, fun hdirty htries hwin => ?_, fun hdirty htries hpolicy hwork => ?_, fun k htries hpolicy hwork => ?_⟩
      · refine congrArg Host.Outcome.next (hfree.trans ((if_neg (by simp [hclean])).trans ((if_neg (by simp [hclean])).trans ?_)))
        rw [copyDone_of_own _ hwork]
      · exact congrArg Host.Outcome.next (hfree.trans ((if_pos ⟨hdirty, htries⟩).trans (if_pos hwin)))
      · exact congrArg Host.Outcome.next (hfree.trans ((if_neg (by omega)).trans ((if_pos ⟨hdirty, hpolicy⟩).trans (dropCopy_of_own none hc hwork))))
      · refine congrArg Host.Outcome.next (hfree.trans ((if_neg (by omega)).trans ((if_neg (by simp [hpolicy])).trans ?_)))
        rw [copyDone_of_work _ hwork]
  · have hdo := doScrub_of_row hlive hstack hrow
    refine ⟨fun h => ?_, fun h hsome => ?_, fun h hnone => ?_⟩
    · exact congrArg Host.Outcome.next (hdo.trans (if_pos (by simp [h])))
    · exact congrArg Host.Outcome.next (hdo.trans ((if_neg (by simpa using h)).trans (if_pos hsome)))
    · exact congrArg Host.Outcome.next (hdo.trans ((if_neg (by simpa using h)).trans (if_neg (by simp [hnone]))))
  · exact congrArg Host.Outcome.next (doQuiesce_of_room hlive hslot hquiet hgh hroom)

end Sys2Proof.Machine

/-! # Flash: what an operation of the array leaves unchanged -/

namespace Sys2Proof.Machine
-- The whole text is compiled by one process of limited memory: one proof at a time keeps it small.
set_option Elab.async false

/-! ## Warnings and operations asked for -/

/-- The flash state without its warnings, wear band, read-only mark and operations. -/
def Flash.store (f : Flash) : Flash := { f with posted := [], wearBand := 0, readOnly := false, ops := [] }

/-- Flash is as it was but for warnings and operations that are asked for. -/
structure SameStore (s t : State) : Prop where
  store : t.flash.store = s.flash.store
  ops : ∀ o ∈ s.flash.ops, o ∈ t.flash.ops

namespace SameStore

theorem refl (s : State) : SameStore s s := ⟨rfl, fun _ h => h⟩

theorem trans {s t u : State} (h : SameStore s t) (h' : SameStore t u) : SameStore s u :=
  ⟨h'.store.trans h.store, fun o ho => h'.ops o (h.ops o ho)⟩

theorem of_flash {s t : State} (h : t.flash = s.flash) : SameStore s t := ⟨by rw [h], fun _ ho => h ▸ ho⟩

theorem ite {c : Prop} [Decidable c] {s t u : State} (h : SameStore s t) (h' : SameStore s u) : SameStore s (if c then t else u) := by
  split <;> assumption

theorem foldl {α : Type} {f : State → α → State} (h : ∀ s a, SameStore s (f s a)) (l : List α) (s : State) : SameStore s (l.foldl f s) := by
  induction l generalizing s with
  | nil => exact .refl s
  | cons a l ih => exact (h s a).trans (ih _)

section
variable {s t : State} (h : SameStore s t)
include h

theorem map : t.flash.map = s.flash.map := (congrArg Flash.map h.store :)
theorem blocks : t.flash.blocks = s.flash.blocks := (congrArg Flash.blocks h.store :)
theorem dies : t.flash.dies = s.flash.dies := (congrArg Flash.dies h.store :)
theorem pool : t.flash.pool = s.flash.pool := (congrArg Flash.pool h.store :)
theorem groups : t.flash.groups = s.flash.groups := (congrArg Flash.groups h.store :)
theorem free : t.flash.free = s.flash.free := (congrArg Flash.free h.store :)
theorem sinceCkpt : t.flash.sinceCkpt = s.flash.sinceCkpt := (congrArg Flash.sinceCkpt h.store :)

end

end SameStore

theorem warn_sameStore (cause : Nat) (tail : List Byte) (s : State) : SameStore s (warn cause tail s) := by
  unfold warn
  split
  · have hflash := (nodeEvent_keeps evFlashWarn (leBytes 1 cause ++ tail)
      (modFlash (fun f => { f with posted := (f.posted.filter fun x => x.1 != cause) ++ [(cause, s.hfn)] }) s)).flash
    exact ⟨by rw [hflash]; rfl, fun o ho => by rw [hflash]; exact ho⟩
  · exact .refl s

theorem checkHealth_sameStore (s : State) : SameStore s (checkHealth s) := by
  unfold checkHealth
  extract_lets f s1 b s2 s3 ro s4
  have h1 : SameStore s s1 := .ite (warn_sameStore ..) (.refl s)
  have h2 : SameStore s1 s2 := .ite (warn_sameStore ..) (.refl s1)
  have h4 : SameStore s3 s4 := .ite (warn_sameStore ..) (.refl s3)
  have h3 : SameStore s2 s3 := ⟨rfl, fun _ h => h⟩
  exact h1.trans (h2.trans (h3.trans (h4.trans ⟨rfl, fun _ h => h⟩)))

theorem addOp_sameStore (cls : Nat) (pv : Option Nat) (what : FFor) (u : Lua) (die pun first n : Nat) (s : State) :
    SameStore s (addOp cls pv what u die pun first n s) := ⟨rfl, fun _ ho => List.mem_append_left _ ho⟩

theorem askProgram_sameStore (g : WGroup) (i pos : Nat) (x : Stripe) (s : State) : SameStore s (askProgram g i pos x s) := addOp_sameStore ..

theorem askRead_sameStore (cls : Nat) (what : FFor) (u : Lua) (first n : Nat) (s : State) : SameStore s (askRead cls what u first n s) := by
  unfold askRead
  split
  · exact addOp_sameStore ..
  · exact .refl s

theorem askPage_sameStore (p no : Nat) (s : State) : SameStore s (askPage p no s) := .foldl (fun _ _ => askRead_sameStore ..) _ s

theorem count_sameStore (pv : Option Nat) (a b n : Nat) (s : State) : SameStore s (count pv a b n s) := .of_flash (count_keeps ..).flash

/-! ## The map, the blocks and the groups -/

/-- The map, the blocks and the write groups are as they were. -/
structure KeepsMap (s t : State) : Prop where
  map : t.flash.map = s.flash.map
  blocks : t.flash.blocks = s.flash.blocks
  groups : t.flash.groups = s.flash.groups

namespace KeepsMap

theorem refl (s : State) : KeepsMap s s := ⟨rfl, rfl, rfl⟩

theorem trans {s t u : State} (h : KeepsMap s t) (h' : KeepsMap t u) : KeepsMap s u :=
  ⟨h'.map.trans h.map, h'.blocks.trans h.blocks, h'.groups.trans h.groups⟩

theorem of_flash {s t : State} (h : t.flash = s.flash) : KeepsMap s t := ⟨by rw [h], by rw [h], by rw [h]⟩

theorem of_keeps {ps : List Area} {s t : State} (h : Keeps ps s t) (hps : ps.contains .flash = false) : KeepsMap s t := .of_flash (h.flash hps)

theorem of_store {s t : State} (h : SameStore s t) : KeepsMap s t := ⟨h.map, h.blocks, h.groups⟩

theorem ite {c : Prop} [Decidable c] {s t u : State} (h : KeepsMap s t) (h' : KeepsMap s u) : KeepsMap s (if c then t else u) := by
  split <;> assumption

theorem foldl {α : Type} {f : State → α → State} (h : ∀ s a, KeepsMap s (f s a)) (l : List α) (s : State) : KeepsMap s (l.foldl f s) := by
  induction l generalizing s with
  | nil => exact .refl s
  | cons a l ih => exact (h s a).trans (ih _)

/-- What a call found is what its second part keeps. -/
theorem of_eq {α : Type} {s t : State} {e : α × State} {a : α} (h : e = (a, t)) (k : KeepsMap s e.2) : KeepsMap s t := by rwa [h] at k

end KeepsMap

theorem modRange_keepsMap (p : Nat) (g : Range → Range) (s : State) : KeepsMap s (modRange p g s) := ⟨rfl, rfl, rfl⟩
theorem modPage_keepsMap (p no : Nat) (g : Page → Page) (s : State) : KeepsMap s (modPage p no g s) := ⟨rfl, rfl, rfl⟩
theorem modWork_keepsMap (wid : Nat) (g : Work → Work) (s : State) : KeepsMap s (modWork wid g s) := ⟨rfl, rfl, rfl⟩
theorem setPins_keepsMap (p : Nat) (d : List Byte) (on : Bool) (s : State) : KeepsMap s (setPins p d on s) := ⟨rfl, rfl, rfl⟩

theorem putUnit_keepsMap (u : Lua) (cells : Mem) (cls : PoolCls) (quad work page src : Option Nat) (s : State) :
    KeepsMap s (putUnit u cells cls quad work page src s) := by
  unfold putUnit
  extract_lets same
  split
  · exact ⟨rfl, rfl, rfl⟩
  · exact ⟨rfl, rfl, rfl⟩

theorem unitToT3_keepsMap (p unit : Nat) (src : Mem) (cls : PoolCls) (work page : Option Nat) (s : State) :
    KeepsMap s (unitToT3 p unit src cls work page s) :=
  (modRange_keepsMap ..).trans (putUnit_keepsMap ..)

theorem copyDown_keepsMap (p no : Nat) (us : List Nat) (work page : Option Nat) (s : State) : KeepsMap s (copyDown p no us work page s) :=
  (KeepsMap.of_keeps (readSubs_keeps p no _ s) rfl).trans (.foldl (fun _ _ => unitToT3_keepsMap ..) _ _)

theorem beginDown_keepsMap (p no tier : Nat) (policy : Bool) (work : Option Nat) (s : State) :
    KeepsMap s (beginDown p no tier policy work s).2 := by
  unfold beginDown
  extract_lets r g skip set us
  have hset (t : State) : KeepsMap t (set t) := ⟨rfl, rfl, rfl⟩
  split
  · exact .refl s
  · split
    · split
      · split
        · exact (hset s).trans (.of_store (askPage_sameStore ..))
        · exact (hset s).trans ((KeepsMap.of_keeps (readSubs_keeps ..) rfl).trans (.of_keeps (t2Write_keeps ..) rfl))
      · exact .refl s
    · split
      · exact .of_keeps (noteQuota_keeps ..) rfl
      · split
        · exact .refl s
        · exact (hset s).trans (copyDown_keepsMap ..)

theorem switchPage_keepsMap (p no tier : Nat) (s : State) : KeepsMap s (switchPage p no tier s) := .of_keeps (switchPage_keeps ..) rfl

theorem demoteFirst_keepsMap (p : Nat) (gs : List Page) (s : State) : KeepsMap s (demoteFirst p gs s).2 := by
  induction gs generalizing s with
  | nil => exact .refl s
  | cons g gs ih =>
    unfold demoteFirst
    dsimp only
    split
    · exact (switchPage_keepsMap ..).trans ⟨rfl, rfl, rfl⟩
    · have hbegin := beginDown_keepsMap p g.no (policyTier s p g) true none s
      split
      · next heq => exact (KeepsMap.of_eq heq hbegin).trans (ih _)
      · next heq => exact .of_eq heq hbegin

theorem freeFrame_keepsMap (p : Nat) (s : State) : KeepsMap s (freeFrame p s).2 := by
  unfold freeFrame
  dsimp only
  split
  · exact .refl s
  · split
    · exact .refl s
    · exact demoteFirst_keepsMap ..

theorem beginUp_keepsMap (p no : Nat) (policy : Bool) (work : Option Nat) (s : State) : KeepsMap s (beginUp p no policy work s).2 := by
  unfold beginUp
  split
  · exact .refl s
  · have hframe := freeFrame_keepsMap p s
    split
    · next heq =>
      refine (KeepsMap.of_eq heq hframe).trans ?_
      dsimp only
      split
      · exact (modPage_keepsMap ..).trans (.of_store (askPage_sameStore ..))
      · exact (modPage_keepsMap ..).trans (.of_keeps (t2Read_keeps ..) rfl)
    · exact hframe

theorem intoT1_keepsMap (p no : Nat) (s : State) : KeepsMap s (intoT1 p no s).2 := by
  unfold intoT1
  dsimp only
  split
  · exact .refl s
  · split
    · have hframe := freeFrame_keepsMap p s
      split
      · next heq => exact (KeepsMap.of_eq heq hframe).trans ⟨rfl, rfl, rfl⟩
      · exact hframe
    · split
      · exact .refl s
      · have hup := beginUp_keepsMap p no true none s
        split
        · next heq => exact .of_eq heq hup
        · exact hup

theorem beginPage_keepsMap (w : Work) (no : Nat) (s : State) : KeepsMap s (beginPage w no s).2 := by
  unfold beginPage
  dsimp only
  split
  · exact .refl s
  · split
    · split
      · exact (switchPage_keepsMap ..).trans ⟨rfl, rfl, rfl⟩
      · exact beginDown_keepsMap ..
    · split
      · exact intoT1_keepsMap ..
      · exact beginUp_keepsMap ..

theorem endTier_keepsMap (w : Work) (st : Status) (s : State) : KeepsMap s (endTier w st s) := .of_keeps (complete_keeps ..) rfl

theorem tierGo_keepsMap (fuel wid : Nat) (s : State) : KeepsMap s (tierGo fuel wid s) := by
  induction fuel generalizing s with
  | zero => exact .refl s
  | succ fuel ih =>
    unfold tierGo
    split
    · exact .refl s
    · next w _ =>
      dsimp only
      split
      · exact .refl s
      · split
        · exact endTier_keepsMap ..
        · split
          · next no _ =>
            have hbegin := beginPage_keepsMap w no s
            split
            · next heq => exact (KeepsMap.of_eq heq hbegin).trans ((modWork_keepsMap ..).trans (ih _))
            · next heq => exact .of_eq heq hbegin
            · next heq => exact (KeepsMap.of_eq heq hbegin).trans (endTier_keepsMap ..)
          · split
            · exact (setPins_keepsMap ..).trans (endTier_keepsMap ..)
            · exact endTier_keepsMap ..

theorem flushPage_keepsMap (p : Nat) (durable : Bool) (wid no : Nat) (s : State) : KeepsMap s (flushPage p durable wid no s).2 := by
  unfold flushPage
  extract_lets g skip note clean down
  have hnote (t : State) : KeepsMap t (note t) := ⟨rfl, rfl, rfl⟩
  have hclean (t : State) : KeepsMap t (clean t) := ⟨rfl, rfl, rfl⟩
  have hdown (us : List Nat) {after : State → State} (hafter : ∀ t, KeepsMap t (after t)) : KeepsMap s (down us after).2 := by
    unfold down
    split
    · exact (copyDown_keepsMap ..).trans ((hafter _).trans (hnote _))
    · exact .refl s
  have hid (t : State) : KeepsMap t (id t) := .refl t
  split
  · split
    · exact .refl s
    · exact hdown _ hclean
  · split
    · exact hdown _ hid
    · split
      · exact .refl s
      · exact (KeepsMap.of_keeps (readSubs_keeps ..) rfl).trans ((KeepsMap.of_keeps (t2Write_keeps ..) rfl).trans ((hclean _).trans (hnote _)))
  · split
    · exact hdown _ hid
    · exact .refl s
  · split
    · exact hdown _ hid
    · exact .refl s
  · exact .refl s

theorem flushStep_keepsMap (p : Nat) (durable : Bool) (wid : Nat) (x : Bool × State) (no : Nat) :
    KeepsMap x.2 (flushStep p durable wid x no).2 := by
  unfold flushStep
  split
  · have hpage := flushPage_keepsMap p durable wid no x.2
    split
    · next heq => exact (KeepsMap.of_eq heq hpage).trans ⟨rfl, rfl, rfl⟩
    · next heq => exact .of_eq heq hpage
  · exact .refl _

theorem foldl_flushStep_keepsMap (p : Nat) (durable : Bool) (wid : Nat) (nos : List Nat) (x : Bool × State) :
    KeepsMap x.2 (nos.foldl (flushStep p durable wid) x).2 := by
  induction nos generalizing x with
  | nil => exact .refl _
  | cons no nos ih => exact (flushStep_keepsMap p durable wid x no).trans (ih _)

theorem flushEnd_keepsMap (wid : Nat) (x : Bool × State) : KeepsMap x.2 (flushEnd wid x) := by
  unfold flushEnd
  split
  · split
    · exact .of_keeps (complete_keeps ..) rfl
    · exact .refl _
  · exact .refl _

theorem flushGo_keepsMap (wid : Nat) (s : State) : KeepsMap s (flushGo wid s) := by
  cases hw : s.work wid with
  | none =>
    unfold flushGo
    rw [hw]
    exact .refl s
  | some w =>
    rw [flushGo_of_work hw]
    exact (foldl_flushStep_keepsMap (pvOf w.fn) (tArg w.desc = 1) wid (s.flushNos w) (true, s)).trans (flushEnd_keepsMap ..)

theorem tierNext_keepsMap (wid : Nat) (s : State) : KeepsMap s (tierNext wid s) := tierGo_keepsMap ..

theorem tierAll_keepsMap (s : State) : KeepsMap s (tierAll s) :=
  .foldl (fun _ _ => .ite (flushGo_keepsMap ..) (.ite (tierNext_keepsMap ..) (.refl _))) _ _

/-- Without running work no tier work goes on. -/
theorem tierAll_of_idle {s : State} (h : ∀ w ∈ s.works, w.stage ≠ .running) : tierAll s = s := by
  have hnone : (s.works.filter fun w => w.fn.val != 0 && w.stage == .running) = [] :=
    List.filter_eq_nil_iff.2 fun w hw => by simp [h w hw]
  unfold tierAll
  rw [hnone]
  rfl

theorem requeueCopy_keepsMap (p no : Nat) (s : State) : KeepsMap s (requeueCopy p no s) := by
  unfold requeueCopy
  extract_lets work f s1
  have h : KeepsMap s (modPage p no (fun g => { g with copy := none }) s1) := ⟨rfl, rfl, rfl⟩
  clear_value work
  split
  · exact h.trans ⟨rfl, rfl, rfl⟩
  · exact h

theorem gcRoom_keepsMap {sd : Nat} {s t : State} (h : gcRoom sd s = some t) : KeepsMap s t := by
  unfold gcRoom at h
  split at h
  · cases h
    exact .refl s
  · split at h
    · cases h
    · split at h
      · dsimp only at h
        split at h
        · cases h
          exact requeueCopy_keepsMap ..
        · cases h
      · cases h

end Sys2Proof.Machine

/-! # Flash programs, write groups and reclaims -/

namespace Sys2Proof.Machine
-- The whole text is compiled by one process of limited memory: one proof at a time keeps it small.
set_option Elab.async false

theorem live_of_flashUp {s : State} (h : s.flashUp = true) : s.live = true := by
  unfold State.flashUp at h
  simp only [Bool.and_eq_true] at h
  exact h.1.1

/-! ## Replay -/

theorem doReplay_of_first {s : State} (a : ArrayIn) (hlive : s.live = true) (h : s.flash.replayed = false) :
    doReplay a s = checkHealth (modFlash (Flash.replay a s.hfn) ((List.range a.dies.length).foldl initDie s)) :=
  if_pos (by simp [hlive, h])

theorem doReplay_of_replayed {s : State} (a : ArrayIn) (h : s.flash.replayed = true) : doReplay a s = s := if_neg (by simp [h])

/-- The store after the first replay is that of the replay. -/
theorem doReplay_store {s : State} (a : ArrayIn) (hlive : s.live = true) (h : s.flash.replayed = false) :
    (doReplay a s).flash.store = (s.flash.replay a s.hfn).store := by
  rw [doReplay_of_first a hlive h, (checkHealth_sameStore _).store]
  have hinit : ((List.range a.dies.length).foldl initDie s).flash = s.flash := foldl_same State.flash (fun t d => (initDie_keeps ..).flash) _ _
  exact congrArg (fun f : Flash => (f.replay a s.hfn).store) hinit

/-! ## Programs -/

/-- The state once the program of a page of a group has succeeded. -/
def State.programmed (s : State) (q i pos : Nat) (g : WGroup) (x : Stripe) : State :=
  let blk := if pos = 15 then x.xorBlock else ((x.pages[pos]?).map (·.block)).getD 0
  let die := s.flash.blockDie blk
  let t := ((s.flash.dies.find? (·.id == die)).map (·.temp)).getD 0
  let s := nandCmd die "READ STATUS ENHANCED" (blk * s.flash.pagesPerBlock + x.page) s
  let s := modFlash (fun f => ((((f.endOps (·.what == .prog q i pos)).modStripe q i (Stripe.program pos)).modBlock blk fun b =>
    { b with hfn1 := s.hfn, t1 := t }).modDie die fun d => { d with fails := 0 })) s
  count none 3 5 1 (modFlash (fun f => { f with sinceCkpt := f.sinceCkpt + (if g.gkind = 2 then 0 else 1) }) s)

theorem doProgram_of_runs {s : State} {q i pos : Nat} {g : WGroup} {x : Stripe} (hg : s.flash.groups.find? (·.gseq == q) = some g)
    (hx : g.stripes[i]? = some x) (hup : s.flashUp = true) (hrun : s.flash.runs (.prog q i pos) = true) (hnew : x.program pos ≠ x) :
    doProgram q i pos s = if (x.program pos).xorIssued && !x.xorIssued then askProgram g i 15 x (s.programmed q i pos g x)
      else s.programmed q i pos g x := by
  unfold doProgram
  rw [hg]
  dsimp only
  rw [hx]
  exact if_pos (by simp [hup, hrun, hnew])

theorem doProgram_of_idle {s : State} {q i pos : Nat} (h : s.flash.runs (.prog q i pos) = false) : doProgram q i pos s = s := by
  unfold doProgram
  split
  · rfl
  · split
    · rfl
    · exact if_neg (by simp [h])

/-- Flash once the program of a page of a group has succeeded. -/
def Flash.programmed (f : Flash) (hfn : Frame) (q i pos : Nat) (g : WGroup) (x : Stripe) : Flash :=
  let blk := if pos = 15 then x.xorBlock else ((x.pages[pos]?).map (·.block)).getD 0
  let die := f.blockDie blk
  let t := ((f.dies.find? (·.id == die)).map (·.temp)).getD 0
  let f := (((f.endOps (·.what == .prog q i pos)).modStripe q i (Stripe.program pos)).modBlock blk fun b =>
    { b with hfn1 := hfn, t1 := t }).modDie die fun d => { d with fails := 0 }
  { f with sinceCkpt := f.sinceCkpt + (if g.gkind = 2 then 0 else 1) }

theorem programmed_flash (s : State) (q i pos : Nat) (g : WGroup) (x : Stripe) :
    (s.programmed q i pos g x).flash = s.flash.programmed s.hfn q i pos g x := by
  unfold State.programmed
  extract_lets blk die t s1 s2
  exact (count_keeps none 3 5 1 (modFlash (fun f => { f with sinceCkpt := f.sinceCkpt + (if g.gkind = 2 then 0 else 1) }) s2)).flash.trans rfl

theorem programmed_parts (f : Flash) (hfn : Frame) (q i pos : Nat) (g : WGroup) (x : Stripe) :
    (f.programmed hfn q i pos g x).map = f.map ∧ (f.programmed hfn q i pos g x).pool = f.pool ∧
      (f.programmed hfn q i pos g x).groups =
        mapIf (·.gseq == q) (fun y => { y with stripes := modifyAt y.stripes i (Stripe.program pos) }) f.groups ∧
      (f.programmed hfn q i pos g x).sinceCkpt = f.sinceCkpt + (if g.gkind = 2 then 0 else 1) := by
  unfold Flash.programmed Flash.modDie Flash.modBlock Flash.modStripe Flash.endOps
  exact ⟨rfl, rfl, rfl, rfl⟩

theorem askProgram_mem (g : WGroup) (i pos : Nat) (x : Stripe) (s : State) : ∃ o ∈ (askProgram g i pos x s).flash.ops, o.what = .prog g.gseq i pos :=
  ⟨_, List.mem_append_right _ (.head _), rfl⟩

/-! ## Commits -/

theorem commitUnit_flash (x : PoolUnit) (pun blk : Nat) (s : State) :
    (commitUnit x pun blk s).flash.pool = s.flash.pool ∧ (commitUnit x pun blk s).flash.entry x.lua = some (.at_ pun) ∧
      (commitUnit x pun blk s).works = s.works := by
  have hentry (f : Flash) : (f.setEntry x.lua (.at_ pun)).entry x.lua = some (.at_ pun) := by
    unfold Flash.entry Flash.setEntry
    rw [List.find?_append, List.find?_eq_none.2]
    · simp
    · intro e he
      simpa using (List.mem_filter.1 he).2
  unfold commitUnit
  dsimp only
  split
  · exact ⟨rfl, hentry _, rfl⟩
  · exact ⟨rfl, hentry _, rfl⟩

/-- A committed page's unit leaves the pool. -/
theorem commitPage_pool (gk : Nat) (s : State) (p : FPage) :
    (commitPage gk s p).flash.pool = s.flash.pool.filter (fun u => p.unit != some u.id) := by
  unfold commitPage
  split
  · next hnone =>
    refine (List.filter_eq_self.2 fun u hu => ?_).symm
    rw [bne_iff_ne]
    intro hunit
    rw [hunit] at hnone
    exact List.find?_eq_none.1 hnone u hu (beq_self_eq_true _)
  · next x hsome =>
    obtain ⟨id, hid, hfind⟩ := Option.bind_eq_some_iff.1 hsome
    have hxid : x.id = id := by simpa using List.find?_some hfind
    extract_lets s1 s2
    have h1 : s1.flash.pool = s.flash.pool := by
      unfold s1
      split
      · rfl
      · exact (commitUnit_flash ..).1
    have h2 : s2.flash.pool = s1.flash.pool := by
      unfold s2
      split
      · rw [(count_keeps ..).flash]
      · rfl
    refine (congrArg (List.filter _) (h2.trans h1)).trans (List.filter_congr fun u _ => ?_)
    rw [hid, hxid, Bool.eq_iff_iff, bne_iff_ne, bne_iff_ne, ne_eq, ne_eq, Option.some.injEq, eq_comm]

/-- The pool after the pages of a group are committed. -/
theorem commitPages_pool (gk : Nat) (ps : List FPage) (s : State) {u : PoolUnit} (hu : u ∈ (ps.foldl (commitPage gk) s).flash.pool) {p : FPage}
    (hp : p ∈ ps) : p.unit ≠ some u.id := by
  rw [foldl_filter (fun t : State => t.flash.pool) (fun p u => p.unit != some u.id) (commitPage_pool gk)] at hu
  simpa using List.all_eq_true.1 (List.mem_filter.1 hu).2 p hp

/-- A unit of a group that garbage collection did not copy is mapped to its page. -/
theorem commitPage_entry {s : State} {p : FPage} {x : PoolUnit} {id gk : Nat} (hunit : p.unit = some id)
    (hx : s.flash.pool.find? (·.id == id) = some x) (hgk : gk ≠ 1) : (commitPage gk s p).flash.entry x.lua = some (.at_ p.pun) := by
  unfold commitPage
  rw [hunit, Option.bind_some, hx]
  dsimp only
  rw [if_neg hgk, if_neg (fun h => hgk h.1)]
  exact (commitUnit_flash x p.pun p.block s).2.1

/-- The state once the pages of a group are in the map. -/
def State.groupCommitted (s : State) (q : Nat) (g : WGroup) : State :=
  modFlash (fun f => (({ f with groups := f.groups.filter (·.gseq != q) } : Flash).markErasable ((g.stripes.flatMap (·.pages)).foldl (commitPage g.gkind) s).hfn))
    ((g.stripes.flatMap (·.pages)).foldl (commitPage g.gkind) s)

theorem doCommit_of_full {s : State} {q : Nat} {g : WGroup} (hg : s.flash.groups.find? (·.gseq == q) = some g) (hup : s.flashUp = true)
    (hfull : g.full = true) : doCommit q s = tierAll (s.groupCommitted q g) := by
  unfold doCommit
  rw [hg]
  exact if_pos (by simp [hup, hfull])

theorem doCommit_of_open {s : State} {q : Nat} {g : WGroup} (hg : s.flash.groups.find? (·.gseq == q) = some g) (hfull : g.full = false) :
    doCommit q s = s := by
  unfold doCommit
  rw [hg]
  exact if_neg (by simp [hfull])

/-! ## Dies and failures -/

/-- A die that is retired, or one that has failed once more, leaves the store as it was but for the dies and the mark `due` of blocks. -/
structure KeepsBlocks (s t : State) : Prop where
  map : t.flash.map = s.flash.map
  pool : t.flash.pool = s.flash.pool
  groups : t.flash.groups = s.flash.groups
  free : t.flash.free = s.flash.free
  block : ∀ b ∈ t.flash.blocks, ∃ due, ∃ c ∈ s.flash.blocks, b = { c with due := due }
  kept : ∀ c ∈ s.flash.blocks, ∃ due, { c with due := due } ∈ t.flash.blocks

namespace KeepsBlocks

theorem of_store {s t : State} (h : SameStore s t) : KeepsBlocks s t where
  map := h.map
  pool := h.pool
  groups := h.groups
  free := h.free
  block b hb := ⟨b.due, b, h.blocks ▸ hb, rfl⟩
  kept c hc := ⟨c.due, h.blocks.symm ▸ hc⟩

theorem trans {s t u : State} (h : KeepsBlocks s t) (h' : KeepsBlocks t u) : KeepsBlocks s u where
  map := h'.map.trans h.map
  pool := h'.pool.trans h.pool
  groups := h'.groups.trans h.groups
  free := h'.free.trans h.free
  block b hb := by
    obtain ⟨due, c, hc, rfl⟩ := h'.block b hb
    obtain ⟨due', d, hd, rfl⟩ := h.block c hc
    exact ⟨due, d, hd, rfl⟩
  kept c hc := by
    obtain ⟨due, hd⟩ := h.kept c hc
    obtain ⟨due', hd'⟩ := h'.kept _ hd
    exact ⟨due', hd'⟩

end KeepsBlocks

/-- Flash once a die is retired (R246). -/
def Flash.retire (die : Nat) (f : Flash) : Flash :=
  let f := f.modDie die fun d => { d with retired := true }
  { f with blocks := mapIf (·.die == die) (fun b => { b with due := true }) f.blocks
           ops := mapIf (fun o => o.die == die && o.isRead) (fun o => { o with st := .running }) f.ops }

theorem doRetire_of_die {s : State} {die : Nat} {d : Nand} (hd : s.flash.dies.find? (·.id == die) = some d) (hup : s.flashUp = true)
    (hretired : d.retired = false) :
    doRetire die s = checkHealth (count none 3 10 1 (warn 6 (zeros 7 ++ leBytes 2 die) (modFlash (Flash.retire die) s))) := by
  unfold doRetire
  rw [hd]
  exact if_pos (by simp [hup, hretired])

theorem doRetire_sameStore {s : State} {die : Nat} {d : Nand} (hd : s.flash.dies.find? (·.id == die) = some d) (hup : s.flashUp = true)
    (hretired : d.retired = false) : SameStore (modFlash (Flash.retire die) s) (doRetire die s) := by
  rw [doRetire_of_die hd hup hretired]
  exact (warn_sameStore ..).trans ((count_sameStore ..).trans (checkHealth_sameStore _))

theorem modFlash_retire_keepsBlocks (die : Nat) (s : State) : KeepsBlocks s (modFlash (Flash.retire die) s) where
  map := rfl
  pool := rfl
  groups := rfl
  free := rfl
  block b hb := by
    obtain ⟨c, hc, rfl⟩ := mem_mapIf.1 (show b ∈ mapIf (·.die == die) (fun b => { b with due := true }) s.flash.blocks from hb)
    by_cases h : (c.die == die) = true
    · exact ⟨true, c, hc, if_pos h⟩
    · exact ⟨c.due, c, hc, if_neg h⟩
  kept c hc := by
    have hmem : (if (c.die == die) = true then { c with due := true } else c) ∈ (modFlash (Flash.retire die) s).flash.blocks :=
      mem_mapIf.2 ⟨c, hc, rfl⟩
    by_cases h : (c.die == die) = true
    · rw [if_pos h] at hmem
      exact ⟨true, hmem⟩
    · rw [if_neg h] at hmem
      exact ⟨c.due, hmem⟩

theorem doRetire_keepsBlocks (die : Nat) (s : State) : KeepsBlocks s (doRetire die s) := by
  cases hd : s.flash.dies.find? (·.id == die) with
  | none =>
    unfold doRetire
    rw [hd]
    exact .of_store (.refl s)
  | some d =>
    by_cases h : (s.flashUp && !d.retired) = true
    · simp only [Bool.and_eq_true, Bool.not_eq_true'] at h
      exact (modFlash_retire_keepsBlocks die s).trans (.of_store (doRetire_sameStore hd h.1 h.2))
    · unfold doRetire
      rw [hd]
      dsimp only
      rw [if_neg h]
      exact .of_store (.refl s)

theorem failDie_keepsBlocks (die : Nat) (s : State) : KeepsBlocks s (failDie die s) := by
  have hfail : KeepsBlocks s (modFlash (fun f => f.modDie die fun d => { d with fails := d.fails + 1 }) s) :=
    ⟨rfl, rfl, rfl, rfl, fun b hb => ⟨b.due, b, hb, rfl⟩, fun c hc => ⟨c.due, hc⟩⟩
  unfold failDie
  dsimp only
  split
  · exact hfail.trans (doRetire_keepsBlocks ..)
  · exact hfail

/-! ## Failed programs -/

/-- A stripe of a group touches a block. -/
def Stripe.touches (blk : Nat) (x : Stripe) : Bool := x.xorBlock == blk || x.pages.any (·.block == blk)

/-- A stripe whose pages of a block go to another one (R259, R260). -/
def Stripe.redo (ppb blk new : Nat) (x : Stripe) : Stripe :=
  if x.touches blk then
    { x with pages := mapIf (·.block == blk) (fun p => { p with block := new, pun := new * ppb + x.page, done := false }) x.pages,
             xorBlock := if x.xorBlock = blk then new else x.xorBlock
             xorIssued := x.xorIssued && !(x.pages.any (·.block == blk))
             xorDone := false }
  else x

/-- The operation programs a page of a group in a block. -/
def WGroup.programs (g : WGroup) (q blk : Nat) (o : FOp) : Bool := match o.what with
  | .prog q' i pos => q' == q && (match g.stripes[i]? with
      | some x => if pos = 15 then x.xorBlock == blk else ((x.pages[pos]?).map (·.block)) == some blk
      | none => false)
  | _ => false

/-- Flash once a fresh block has taken the place of one whose page failed. -/
def Flash.failOver (hfn : Frame) (g : WGroup) (q blk new ppb next : Nat) (f : Flash) : Flash :=
  let f := (f.endOps (g.programs q blk)).openBlock g.slc (g.gkind == 2) hfn new
  let f := (f.modBlock new fun b => { b with next := next, st := if f.blockPages b.slc ≤ next then .closed else b.st }).modBlock blk
    fun b => { b with st := .retired, due := !b.valid.isEmpty }
  { f with groups := mapIf (·.gseq == q) (fun x => { x with stripes := x.stripes.map (Stripe.redo ppb blk new) }) f.groups }

/-- The programs of a group that are made again. -/
def askAgain (q new : Nat) (xors : List (Stripe × Nat)) (s : State) : State :=
  let s := askRedo q (Stripe.touches new) s
  match s.flash.groups.find? (·.gseq == q) with
  | some g => xors.foldl (fun s x => match g.stripes[x.2]? with | some y => askProgram g x.2 15 y s | none => s) s
  | none => s

/-- A page program of a group fails, and a block may take the place of its own. -/
def State.failsOver (s : State) (gc : Bool) (q blk new die : Nat) (g : WGroup) : Prop :=
  s.flash.groups.find? (·.gseq == q) = some g ∧ s.flashUp = true ∧ (g.gkind == 1) = gc ∧ g.stripes.any (Stripe.touches blk) = true ∧
    (g.gkind = 2 ∨ 0 < s.flash.free) ∧ s.flash.blockDie new = die ∧ s.flash.canOpen g.sd new = true ∧
    (s.flash.dies.find? (·.id == die)).map (·.channel) = (s.flash.dies.find? (·.id == s.flash.blockDie blk)).map (·.channel)

theorem doProgramFail_of_takes {s : State} {gc : Bool} {q blk new die : Nat} {g : WGroup} (h : s.failsOver gc q blk new die g) :
    doProgramFail gc q blk new die s = checkHealth (failDie (s.flash.blockDie blk) (count none 3 8 1
      (askAgain q new (g.stripes.zipIdx.filter fun x => x.1.xorBlock == blk && x.1.xorIssued)
        (modFlash (Flash.failOver s.hfn g q blk new s.flash.pagesPerBlock (((s.flash.blocks.find? (·.id == blk)).map (·.next)).getD 0)) s)))) := by
  obtain ⟨hg, hup, hkind, htouch, hfree, hdie, hopen, hchan⟩ := h
  unfold doProgramFail
  rw [hg]
  refine (if_pos ?_).trans ?_
  · simp only [Bool.and_eq_true, Bool.or_eq_true, beq_iff_eq, decide_eq_true_eq]
    exact ⟨⟨⟨⟨⟨⟨hup, hkind⟩, htouch⟩, hfree⟩, hdie⟩, hopen⟩, hchan⟩
  · rfl

theorem doProgramFail_of_other {s : State} {gc : Bool} {q : Nat} {g : WGroup} (blk new die : Nat)
    (hg : s.flash.groups.find? (·.gseq == q) = some g) (h : (g.gkind == 1) ≠ gc) : doProgramFail gc q blk new die s = s := by
  unfold doProgramFail
  rw [hg]
  exact if_neg (by simp [h])

theorem failOver_free (hfn : Frame) (g : WGroup) (q blk new ppb next : Nat) (f : Flash) :
    (f.failOver hfn g q blk new ppb next).free = f.free - (if g.gkind = 2 then 0 else 1) := by
  have hfree : (f.failOver hfn g q blk new ppb next).free = if (g.gkind == 2) = true then f.free else f.free - 1 := rfl
  rw [hfree]
  by_cases h : g.gkind = 2 <;> simp [h]

theorem failOver_map (hfn : Frame) (g : WGroup) (q blk new ppb next : Nat) (f : Flash) :
    (f.failOver hfn g q blk new ppb next).map = f.map ∧ (f.failOver hfn g q blk new ppb next).pool = f.pool := by
  unfold Flash.failOver Flash.modBlock Flash.openBlock Flash.endOps
  exact ⟨rfl, rfl⟩

/-- A stripe that is made again has no page in the old block. -/
theorem redo_leaves {ppb blk new : Nat} (hne : new ≠ blk) (x : Stripe) :
    (x.redo ppb blk new).xorBlock ≠ blk ∧ ∀ p ∈ (x.redo ppb blk new).pages, p.block ≠ blk := by
  unfold Stripe.redo
  by_cases h : x.touches blk = true
  · rw [if_pos h]
    constructor
    · dsimp only
      split <;> assumption
    · intro p hp
      obtain ⟨p0, -, rfl⟩ := mem_mapIf.1 (show p ∈ mapIf (·.block == blk) _ x.pages from hp)
      by_cases hp0 : (p0.block == blk) = true
      · rw [if_pos hp0]
        exact hne
      · rw [if_neg hp0]
        simpa using hp0
  · rw [if_neg h]
    unfold Stripe.touches at h
    simpa using h

theorem failOver_groups {hfn : Frame} {g : WGroup} {q blk new ppb next : Nat} {f : Flash} (hne : new ≠ blk) :
    ∀ h ∈ (f.failOver hfn g q blk new ppb next).groups, h.gseq = q → ∀ x ∈ h.stripes, x.xorBlock ≠ blk ∧ ∀ p ∈ x.pages, p.block ≠ blk := by
  intro h hh hq x hx
  obtain ⟨h0, -, rfl⟩ := mem_mapIf.1
    (show h ∈ mapIf (·.gseq == q) (fun x => { x with stripes := x.stripes.map (Stripe.redo ppb blk new) }) f.groups from hh)
  by_cases h0q : (h0.gseq == q) = true
  · rw [if_pos h0q] at hx
    obtain ⟨y, -, rfl⟩ := List.mem_map.1 hx
    exact redo_leaves hne y
  · rw [if_neg h0q] at hq
    exact absurd (by simpa using hq) h0q

theorem failOver_blocks {hfn : Frame} {g : WGroup} {q blk new ppb next : Nat} {f : Flash} (hne : new ≠ blk) :
    (∀ b ∈ (f.failOver hfn g q blk new ppb next).blocks, b.id = blk → b.st = .retired) ∧
      ∃ b ∈ (f.failOver hfn g q blk new ppb next).blocks, b.id = new ∧ b.die = f.blockDie new := by
  unfold Flash.failOver Flash.modBlock
  dsimp only
  constructor
  · intro b hb hid
    obtain ⟨c, -, rfl⟩ := mem_mapIf.1 hb
    by_cases hc : (c.id == blk) = true
    · rw [if_pos hc]
    · rw [if_neg hc] at hid
      exact absurd (by simpa using hid) hc
  · refine ⟨_, mem_mapIf.2 ⟨_, mem_mapIf.2 ⟨_, List.mem_append_right _ (.head _), rfl⟩, rfl⟩, ?_⟩
    rw [if_pos (beq_self_eq_true new), if_neg (by simpa using hne)]
    exact ⟨rfl, rfl⟩

theorem askRedo_sameStore (q : Nat) (hit : Stripe → Bool) (s : State) : SameStore s (askRedo q hit s) := by
  unfold askRedo
  split
  · exact .refl s
  · refine .foldl (fun t x => ?_) _ s
    refine .ite (.foldl (fun u y => ?_) _ t) (.refl t)
    exact .ite (.refl u) (askProgram_sameStore ..)

theorem askAgain_sameStore (q new : Nat) (xors : List (Stripe × Nat)) (s : State) : SameStore s (askAgain q new xors s) := by
  unfold askAgain
  dsimp only
  split
  · refine (askRedo_sameStore ..).trans (.foldl (fun t x => ?_) _ _)
    split
    · exact askProgram_sameStore ..
    · exact .refl t
  · exact askRedo_sameStore ..

/-- A failed program leaves the store as the fresh block makes it. -/
theorem doProgramFail_keepsBlocks {s : State} {gc : Bool} {q blk new die : Nat} {g : WGroup} (h : s.failsOver gc q blk new die g) :
    KeepsBlocks (modFlash (Flash.failOver s.hfn g q blk new s.flash.pagesPerBlock (((s.flash.blocks.find? (·.id == blk)).map (·.next)).getD 0)) s)
      (doProgramFail gc q blk new die s) := by
  rw [doProgramFail_of_takes h]
  exact (KeepsBlocks.of_store ((askAgain_sameStore ..).trans (count_sameStore ..))).trans
    ((failDie_keepsBlocks ..).trans (.of_store (checkHealth_sameStore _)))

/-! ## Garbage collection and erases -/

/-- One unit of a source is read into the pool. -/
def gcUnit (sd : Nat) (s : State) (u : Lua) : State :=
  match s.flash.entry u with
  | some (.at_ pun) =>
    if s.flash.pool.any (fun x => x.lua == u && x.src.isSome) then s
    else match gcRoom (sdOf s (some (2 * sd)) u.unit) s with
      | some s => askRead 4 .gc u 0 16 (putUnit u [] .gc (some (2 * sd)) none none (some pun) s)
      | none => s
  | _ => s

theorem doGc_of_closed {s : State} {blk : Nat} {b : FBlock} (hb : s.flash.blocks.find? (·.id == blk) = some b) (hup : s.flashUp = true)
    (hst : b.st = .closed) (herasing : b.erasing = false) :
    doGc blk s = b.valid.foldl (gcUnit (((s.flash.dies.find? (·.id == b.die)).map (·.sd)).getD 0)) s := by
  unfold doGc
  rw [hb]
  refine (if_pos ?_).trans ?_
  · simp [hup, hst, herasing, live_of_flashUp hup]
  · rfl

theorem gcUnit_keepsMap (sd : Nat) (s : State) (u : Lua) : KeepsMap s (gcUnit sd s u) := by
  unfold gcUnit
  split
  · split
    · exact .refl s
    · split
      · next heq => exact (gcRoom_keepsMap heq).trans ((putUnit_keepsMap ..).trans (.of_store (askRead_sameStore ..)))
      · exact .refl s
  · exact .refl s

/-- A unit of a source that the pool has room for is copied with the page it comes from, and that page is read. -/
theorem gcUnit_of_room {s : State} {sd n : Nat} {u : Lua} (hentry : s.flash.entry u = some (.at_ n)) (hpool : ∀ x ∈ s.flash.pool, x.lua ≠ u)
    (hfits : s.flash.poolFits (sdOf s (some (2 * sd)) u.unit) (some .gc) 16 = true) :
    ∃ x ∈ (gcUnit sd s u).flash.pool, x.lua = u ∧ x.src = some n ∧ ∃ o ∈ (gcUnit sd s u).flash.ops, o.what = .gc ∧ o.lua = u ∧ o.pun = n := by
  have hroom : gcRoom (sdOf s (some (2 * sd)) u.unit) s = some s := if_pos hfits
  have hnone : (s.flash.pool.any fun x => x.lua == u && x.src.isSome) = false := by
    simp only [List.any_eq_false, Bool.and_eq_true, beq_iff_eq]
    exact fun x hx h => hpool x hx h.1
  have hput : ∃ y, (putUnit u [] .gc (some (2 * sd)) none none (some n) s).flash = { s.flash with pool := s.flash.pool ++ [y] } ∧
      y.lua = u ∧ y.src = some n := by
    have hsame : ∀ x ∈ s.flash.pool, (x.lua == u) = false := fun x hx => by simpa using hpool x hx
    unfold putUnit
    dsimp only
    rw [if_neg]
    · exact ⟨_, rfl, rfl, rfl⟩
    · simp only [List.any_eq_true, not_exists, not_and]
      intro x hx
      simp [hsame x hx]
  obtain ⟨y, hflash, hlua, hsrc⟩ := hput
  have hgc : gcUnit sd s u = askRead 4 .gc u 0 16 (putUnit u [] .gc (some (2 * sd)) none none (some n) s) := by
    unfold gcUnit
    rw [hentry]
    dsimp only
    rw [hnone, if_neg Bool.false_ne_true, hroom]
  have hread : (putUnit u [] .gc (some (2 * sd)) none none (some n) s).flash.readAt u = some n := by
    rw [hflash]
    unfold Flash.readAt
    rw [if_neg]
    · rw [show Flash.entry { s.flash with pool := s.flash.pool ++ [y] } u = some (.at_ n) from hentry]
    · simp only [List.any_append, List.any_cons, List.any_nil, Bool.or_false, Bool.or_eq_true, List.any_eq_true, Bool.and_eq_true, beq_iff_eq,
        hsrc, Option.isNone_some, Bool.false_eq_true, and_false, or_false, not_exists, not_and]
      exact fun x hx h => absurd h (hpool x hx)
  have hop : gcUnit sd s u = addOp 4 none .gc u ((putUnit u [] .gc (some (2 * sd)) none none (some n) s).flash.dieOf n) n 0 16
      (putUnit u [] .gc (some (2 * sd)) none none (some n) s) := by
    rw [hgc]
    unfold askRead
    rw [hread]
    rfl
  refine ⟨y, ?_, hlua, hsrc, ?_⟩
  · rw [hgc, (askRead_sameStore ..).pool, hflash]
    exact List.mem_append_right _ (.head _)
  · rw [hop]
    exact ⟨_, List.mem_append_right _ (.head _), rfl, rfl, rfl⟩

theorem doSourceErase_of_covered {s : State} {blk : Nat} {b : FBlock} {h : Frame} {r : Root} (hb : s.flash.blocks.find? (·.id == blk) = some b)
    (hh : b.erasable = some h) (hr : s.flash.root = some r) (hup : s.flashUp = true) (hst : b.st = .closed) (hvalid : b.valid = [])
    (herasing : b.erasing = false) (hlt : h < r.b) : doSourceErase blk s = addOp 4 none (.erase blk) padLua b.die (blk * s.flash.pagesPerBlock) 0 0
      (modFlash (fun f => f.modBlock blk fun b => { b with erasing := true }) s) := by
  unfold doSourceErase
  rw [hb]
  dsimp only
  rw [hh, hr]
  exact if_pos (by simp [hup, hst, hvalid, herasing, hlt])

theorem doSourceErase_of_held {s : State} {blk : Nat} {b : FBlock} {h : Frame} {r : Root} (hb : s.flash.blocks.find? (·.id == blk) = some b)
    (hh : b.erasable = some h) (hr : s.flash.root = some r) (hheld : r.b ≤ h ∨ b.valid ≠ []) : doSourceErase blk s = s := by
  unfold doSourceErase
  rw [hb]
  dsimp only
  rw [hh, hr]
  refine if_neg ?_
  rcases hheld with hle | hvalid
  · simp [Nat.not_lt.2 hle]
  · simp [hvalid]

/-- Flash once an erase has succeeded. -/
def Flash.erased (blk die : Nat) (f : Flash) : Flash :=
  let f := f.endOps (·.what == .erase blk)
  let f : Flash := { f with sums := f.sums.filter fun x => f.blockAt x.pun != blk }
  let f := f.modBlock blk fun b => { b with st := .erased, pe := b.pe + 1, erasing := false, erasable := none, due := false, next := 0 }
  let f := f.modDie die fun d => { d with fails := 0 }
  { f with free := f.free + 1 }

theorem erased_parts (blk die : Nat) (f : Flash) : (f.erased blk die).free = f.free + 1 ∧ (f.erased blk die).map = f.map ∧
    (f.erased blk die).blocks = mapIf (·.id == blk) (fun b =>
      { b with st := .erased, pe := b.pe + 1, erasing := false, erasable := none, due := false, next := 0 }) f.blocks := by
  unfold Flash.erased Flash.modDie Flash.modBlock Flash.endOps
  exact ⟨rfl, rfl, rfl⟩

/-- Flash once an erase has failed. -/
def Flash.eraseFailed (blk : Nat) (f : Flash) : Flash := (f.endOps (·.what == .erase blk)).modBlock blk fun b => { b with st := .retired, erasing := false }

theorem doEraseDone_of_runs {s : State} {blk : Nat} {b : FBlock} (hb : s.flash.blocks.find? (·.id == blk) = some b) (hup : s.flashUp = true)
    (herasing : b.erasing = true) (hrun : s.flash.runs (.erase blk) = true) :
    doEraseDone blk s = checkHealth (count none 3 6 1 (modFlash (Flash.erased blk b.die) s)) := by
  unfold doEraseDone
  rw [hb]
  exact if_pos (by simp [hup, herasing, hrun])

theorem doEraseFail_of_runs {s : State} {blk : Nat} {b : FBlock} (hb : s.flash.blocks.find? (·.id == blk) = some b) (hup : s.flashUp = true)
    (herasing : b.erasing = true) (hrun : s.flash.runs (.erase blk) = true) :
    doEraseFail blk s = failDie b.die (count none 3 9 1 (modFlash (Flash.eraseFailed blk) s)) := by
  unfold doEraseFail
  rw [hb]
  exact if_pos (by simp [hup, herasing, hrun])

theorem erase_of_idle {s : State} {blk : Nat} {b : FBlock} (hb : s.flash.blocks.find? (·.id == blk) = some b)
    (h : b.erasing = false ∨ s.flash.runs (.erase blk) = false) : doEraseDone blk s = s ∧ doEraseFail blk s = s := by
  have hcond : ¬ (s.flashUp && b.erasing && s.flash.runs (.erase blk)) = true := by
    rcases h with h | h <;> simp [h]
  unfold doEraseDone doEraseFail
  rw [hb]
  exact ⟨if_neg hcond, if_neg hcond⟩

theorem eraseFailed_blocks {blk : Nat} {f : Flash} : ∀ b ∈ (f.eraseFailed blk).blocks, b.id = blk → b.st = .retired ∧ b.erasing = false := by
  intro b hb hid
  obtain ⟨c, -, rfl⟩ := mem_mapIf.1 (show b ∈ mapIf (·.id == blk) (fun b => { b with st := .retired, erasing := false }) f.blocks from hb)
  by_cases hc : (c.id == blk) = true
  · rw [if_pos hc]
    exact ⟨rfl, rfl⟩
  · rw [if_neg hc] at hid
    exact absurd (by simpa using hid) hc

end Sys2Proof.Machine

/-! # Flash programs and reclaims: the obligation -/

namespace Sys2Proof.Machine
-- The whole text is compiled by one process of limited memory: one proof at a time keeps it small.
set_option Elab.async false

theorem due_of_root {s : State} {r : Root} (hckpt : s.flash.ckpt = none) (hroot : s.flash.root = some r) :
    s.flash.due s.hfn = (decide (r.b + 4096 ≤ s.hfn) || decide (65536 ≤ s.flash.sinceCkpt)) := by
  unfold Flash.due
  rw [hckpt, hroot]

theorem doRoot_of_ckpt {s : State} {r : Root} (hckpt : s.flash.ckpt = some r) : doRoot s =
    if s.flashUp && !s.flash.groups.any (·.gkind == 2) then modFlash (fun f => { f with root := some r, ckpt := none }) s else s := by
  unfold doRoot
  rw [hckpt]

theorem doRoot_of_open {s : State} (h : ∃ g ∈ s.flash.groups, g.gkind = 2) : doRoot s = s := by
  have hany : s.flash.groups.any (·.gkind == 2) = true := by simpa using h
  unfold doRoot
  split
  · exact if_neg (by simp [hany])
  · rfl

/-- Settles O36: programs, commits, failures, reclaims and checkpoints leave the map but where they say so. -/
theorem flashProgramsAndReclaims : Obligations.FlashProgramsAndReclaims := by
  unfold Obligations.FlashProgramsAndReclaims
  refine ⟨fun s => ⟨fun a hlive hfirst => ?_, fun a h => congrArg Host.Outcome.next (doReplay_of_replayed a h), fun q i pos g x hup hg hx hnew hrun => ?_,
    fun q i pos h => congrArg Host.Outcome.next (doProgram_of_idle h), fun q g hup hg hfull => ?_, fun p x id gk => commitPage_entry,
    fun q g hg h => congrArg Host.Outcome.next (doCommit_of_open hg h), fun q blk new die g gc hup hg hkind htouch hfree hne hdie hopen hchan => ?_,
    fun q blk new die g hg => ⟨fun h => congrArg Host.Outcome.next (doProgramFail_of_other blk new die hg (by simpa using h)),
      fun h => congrArg Host.Outcome.next (doProgramFail_of_other blk new die hg (by simpa using h))⟩⟩,
    fun s => ⟨fun blk b hup hb hst herasing => ?_, fun blk b h r hb hh hr => ⟨fun hup hst hvalid herasing hlt => ?_,
      fun hheld => congrArg Host.Outcome.next (doSourceErase_of_held hb hh hr hheld)⟩, fun blk b hb hup herasing hrun => ⟨?_, ?_⟩,
      fun blk b hb h => ⟨congrArg Host.Outcome.next (erase_of_idle hb h).1, congrArg Host.Outcome.next (erase_of_idle hb h).2⟩,
      fun die d hup hd hretired => ?_, fun r hup hslot hckpt hroot => ⟨fun h => ?_, fun h1 h2 => ?_⟩, fun h => ?_, fun r hup hckpt hnone => ?_,
      fun h => congrArg Host.Outcome.next (doRoot_of_open h)⟩⟩
  · have hstore := doReplay_store a hlive hfirst
    generalize ht : doReplay a s = t at hstore
    exact ⟨t, congrArg Host.Outcome.next ht, (congrArg Flash.replayed hstore :), (congrArg Flash.opLock hstore :), (congrArg Flash.map hstore :),
      (congrArg Flash.blocks hstore :), (congrArg Flash.rated hstore :), (congrArg Flash.total hstore :), (congrArg Flash.regionOk hstore :),
      (congrArg Flash.ckpt hstore :)⟩
  · obtain ⟨hmap, hpool, hgroups, hsince⟩ := programmed_parts s.flash s.hfn q i pos g x
    rw [← programmed_flash] at hmap hpool hgroups hsince
    have hdo := doProgram_of_runs hg hx hup hrun hnew
    by_cases hxor : ((x.program pos).xorIssued && !x.xorIssued) = true
    · rw [if_pos hxor] at hdo
      have hsame := askProgram_sameStore g i 15 x (s.programmed q i pos g x)
      refine ⟨_, congrArg Host.Outcome.next hdo, hsame.map.trans hmap, hsame.pool.trans hpool, fun _ _ _ => ?_, hsame.groups.trans hgroups,
        hsame.sinceCkpt.trans hsince⟩
      have hq : g.gseq = q := by simpa using List.find?_some hg
      exact hq ▸ askProgram_mem g i 15 x _
    · rw [if_neg hxor] at hdo
      exact ⟨_, congrArg Host.Outcome.next hdo, hmap, hpool, fun _ h1 h2 => absurd (by simp [h1, h2]) hxor, hgroups, hsince⟩
  · have hkeep := tierAll_keepsMap (s.groupCommitted q g)
    refine ⟨_, congrArg Host.Outcome.next (doCommit_of_full hg hup hfull), fun h hh => ?_, fun hidle x hx p hp u hu => ?_, hkeep.map⟩
    · rw [hkeep.groups] at hh
      simpa using (List.mem_filter.1 hh).2
    · have hworks : (s.groupCommitted q g).works = s.works := foldl_same State.works (fun t p => (commitPage_keeps ..).works) _ _
      rw [tierAll_of_idle (hworks ▸ hidle)] at hu
      exact commitPages_pool g.gkind _ s hu (List.mem_flatMap.2 ⟨x, hx, hp⟩)
  · have htakes : s.failsOver gc q blk new die g :=
      ⟨hg, hup, hkind, by simpa [Stripe.touches] using htouch, hfree, hdie, hopen, hchan⟩
    have hkeep := doProgramFail_keepsBlocks htakes
    obtain ⟨hretired, b, hb, hbid, hbdie⟩ := failOver_blocks (hfn := s.hfn) (g := g) (q := q) (ppb := s.flash.pagesPerBlock)
      (next := ((s.flash.blocks.find? (·.id == blk)).map (·.next)).getD 0) (f := s.flash) hne
    refine ⟨doProgramFail gc q blk new die s, fun h => by subst h; rfl, fun h => by subst h; rfl, hkeep.free.trans (failOver_free ..),
      hkeep.map.trans (failOver_map ..).1, hkeep.pool.trans (failOver_map ..).2, fun h hh => ?_, fun c hc hid => ?_, ?_⟩
    · rw [hkeep.groups] at hh
      exact failOver_groups hne h hh
    · obtain ⟨due, d, hd, rfl⟩ := hkeep.block c hc
      exact hretired d hd hid
    · obtain ⟨due, hmem⟩ := hkeep.kept b hb
      exact ⟨_, hmem, hbid, hbdie.trans hdie⟩
  · have hdo := doGc_of_closed hb hup hst herasing
    have hkeep : KeepsMap s (b.valid.foldl (gcUnit (((s.flash.dies.find? (·.id == b.die)).map (·.sd)).getD 0)) s) :=
      .foldl (gcUnit_keepsMap _) _ _
    refine ⟨_, congrArg Host.Outcome.next hdo, hkeep.map, hkeep.blocks, fun u n hvalid hentry hpool hfits => ?_⟩
    rw [hvalid]
    exact gcUnit_of_room hentry hpool hfits
  · exact ⟨_, _, congrArg Host.Outcome.next (doSourceErase_of_covered hb hh hr hup hst hvalid herasing hlt), rfl, rfl, rfl, rfl, rfl, rfl, rfl⟩
  · obtain ⟨hfree, hmap, hblocks⟩ := erased_parts blk b.die s.flash
    have hsame : SameStore (modFlash (Flash.erased blk b.die) s) _ := (count_sameStore none 3 6 1 _).trans (checkHealth_sameStore _)
    exact ⟨_, congrArg Host.Outcome.next (doEraseDone_of_runs hb hup herasing hrun), hsame.free.trans hfree, hsame.map.trans hmap,
      hsame.blocks.trans hblocks⟩
  · have hkeep : KeepsBlocks (modFlash (Flash.eraseFailed blk) s) _ :=
      (KeepsBlocks.of_store (count_sameStore none 3 9 1 _)).trans (failDie_keepsBlocks b.die _)
    refine ⟨_, congrArg Host.Outcome.next (doEraseFail_of_runs hb hup herasing hrun), hkeep.free.trans rfl, hkeep.map.trans rfl, fun c hc hid => ?_⟩
    obtain ⟨due, d, hd, rfl⟩ := hkeep.block c hc
    exact eraseFailed_blocks d hd hid
  · have hsame := doRetire_sameStore hd hup hretired
    exact ⟨_, rfl, hsame.map.trans rfl, hsame.dies.trans rfl, hsame.blocks.trans rfl⟩
  · refine congrArg Host.Outcome.next (if_pos ?_)
    rw [due_of_root hckpt hroot]
    rcases h with h | h <;> simp [hup, hslot, hckpt, h]
  · refine congrArg Host.Outcome.next (if_neg ?_)
    rw [due_of_root hckpt hroot]
    simp [Nat.not_le.2 h1, Nat.not_le.2 h2]
  · refine congrArg Host.Outcome.next (if_neg ?_)
    simp [Option.isSome_iff_ne_none.1 h]
  · exact congrArg Host.Outcome.next ((doRoot_of_ckpt hckpt).trans (if_pos (by simpa [hup] using hnone)))

end Sys2Proof.Machine

/-! # Flash reads, ageing, polls and registers -/

namespace Sys2Proof.Machine
-- The whole text is compiled by one process of limited memory: one proof at a time keeps it small.
set_option Elab.async false

/-! ## Ageing, polls and windows -/

theorem closed_markErasable {hfn : Frame} {f : Flash} {blk : Nat} (h : ∀ b ∈ f.blocks, b.id = blk → b.st = .closed) :
    ∀ b ∈ (f.markErasable hfn).blocks, b.id = blk → b.st = .closed := by
  intro b hb hid
  obtain ⟨c, hc, rfl⟩ := mem_mapIf.1 (show b ∈ mapIf _ (fun b => { b with erasable := some hfn }) f.blocks from hb)
  split at hid <;> split <;> exact h c hc hid

theorem closed_modBlock {f : Flash} {blk : Nat} {g : FBlock → FBlock} (hst : ∀ b, (g b).st = .closed) :
    ∀ b ∈ (f.modBlock blk g).blocks, b.id = blk → b.st = .closed := by
  intro b hb hblk
  obtain ⟨c, -, rfl⟩ := mem_mapIf.1 (show b ∈ mapIf (·.id == blk) g f.blocks from hb)
  by_cases hc : (c.id == blk) = true
  · rw [if_pos hc]
    exact hst c
  · rw [if_neg hc] at hblk
    exact absurd (by simpa using hblk) hc

theorem doAgeClose_of_old {s : State} {blk : Nat} (hup : s.flashUp = true)
    (h : ∃ b ∈ s.flash.blocks, b.id = blk ∧ b.st = .opened ∧ b.opened + 180000000 ≤ s.hfn) : doAgeClose blk s =
      modFlash (fun f => (f.modBlock blk fun b => { b with st := .closed, next := f.blockPages b.slc }).markErasable s.hfn) s := by
  obtain ⟨b, hb, hid, hst, hold⟩ := h
  refine if_pos ?_
  rw [hup, Bool.true_and, List.any_eq_true]
  exact ⟨b, hb, by simp [hid, hst, hold]⟩

theorem doAgeClose_of_young {s : State} {blk : Nat} (h : ∀ b ∈ s.flash.blocks, b.id = blk → b.st ≠ .opened ∨ s.hfn < b.opened + 180000000) :
    doAgeClose blk s = s := by
  refine if_neg ?_
  rw [Bool.and_eq_true, List.any_eq_true]
  rintro ⟨-, b, hb, hold⟩
  simp only [Bool.and_eq_true, beq_iff_eq, decide_eq_true_eq] at hold
  obtain ⟨⟨hid, hst⟩, hopened⟩ := hold
  exact (h b hb hid).elim (· hst) (Nat.not_lt.2 hopened)

/-- Flash once the temperatures of its dies are read (R247). -/
def Flash.polled (temps : List Int) (due : List Nat) (f : Flash) : Flash := { f with
  pollFrames := 0
  dies := f.dies.zipIdx.map fun (d, i) => { d with temp := temps.getD i d.temp }
  blocks := mapIf (fun b => due.contains b.id) (fun b => { b with due := true }) f.blocks }

theorem doTempPoll_store {s : State} (temps : List Int) (due : List Nat) (hup : s.flashUp = true) (h : 50000 ≤ s.flash.pollFrames) :
    (doTempPoll temps due s).flash.store = (s.flash.polled temps due).store := by
  unfold doTempPoll
  rw [if_pos (by simp [hup, h])]
  extract_lets s1 s2
  have h1 : s1.flash = s.flash := foldl_same State.flash (fun t d => by
    split
    · rfl
    · exact (nandCmd_keeps ..).flash) _ _
  have h2 : s2.flash = s.flash.polled temps due := congrArg (Flash.polled temps due) h1
  rw [← h2]
  exact (SameStore.ite (warn_sameStore ..) (.refl s2)).store

/-! ## Reads -/

theorem warn_ops (cause : Nat) (tail : List Byte) (s : State) : (warn cause tail s).flash.ops = s.flash.ops := by
  unfold warn
  split
  · rw [(nodeEvent_keeps ..).flash]
    rfl
  · rfl

/-- The state once a read is counted, before what its codewords ended at is looked at. -/
def State.readCounted (s : State) (o : FOp) (steps : List Nat) : State :=
  [1, 2, 3, 4].foldl (fun s k => let n := (steps.filter (· == k)).length; if n = 0 then s else count none 3 (k - 1) n s)
    (modFlash (fun f => { f.endOps (·.id == o.id) with
      winReads := f.winReads + o.n, winRetried := f.winRetried + (steps.filter (2 ≤ ·)).length,
      ageUnknown := f.ageUnknown || (match f.blocks.find? (·.id == f.blockAt o.pun) with | some b => decide (s.hfn < b.hfn0) | none => false) }) s)

theorem readCounted_flash (s : State) (o : FOp) (steps : List Nat) : (s.readCounted o steps).flash = { s.flash.endOps (·.id == o.id) with
    winReads := s.flash.winReads + o.n, winRetried := s.flash.winRetried + (steps.filter (2 ≤ ·)).length,
    ageUnknown := s.flash.ageUnknown ||
      (match s.flash.blocks.find? (·.id == s.flash.blockAt o.pun) with | some b => decide (s.hfn < b.hfn0) | none => false) } :=
  (foldl_same State.flash (fun t k => by
    dsimp only
    split
    · rfl
    · exact (count_keeps ..).flash) _ _).trans rfl

theorem readDone_of_lost {s : State} {o : FOp} {steps : List Nat} (h : 5 ∈ steps) (hentry : s.flash.entry o.lua = some (.at_ o.pun)) :
    readDone o steps s = dropCopyOf o (unreadable o.lua (s.readCounted o steps)) := by
  have hentry' : (s.readCounted o steps).flash.entry o.lua = some (.at_ o.pun) := by
    rw [readCounted_flash]
    exact hentry
  refine (if_pos (by simpa using h)).trans (congrArg (dropCopyOf o) (if_pos hentry'))

theorem readDone_of_corrected {s : State} {o : FOp} {steps : List Nat} (h : ∀ k ∈ steps, k ≤ 2) : readDone o steps s = s.readCounted o steps := by
  have h5 : steps.contains 5 = false := by
    simpa using fun h' => absurd (h 5 h') (by decide)
  have h4 : steps.contains 4 = false := by
    simpa using fun h' => absurd (h 4 h') (by decide)
  have h3 : steps.any (3 ≤ ·) = false := by
    simpa using fun k hk => Nat.lt_succ_of_le (h k hk)
  refine (if_neg (by rw [h5]; exact Bool.false_ne_true)).trans ?_
  dsimp only
  rw [h3, h4, Bool.false_and, Bool.false_and, if_neg Bool.false_ne_true, if_neg Bool.false_ne_true]
  rfl

/-- A unit that can no longer be read is marked so, and counted (R249). -/
theorem unreadable_flash {s : State} {u : Lua} (h : s.flash.entry u ≠ some .unreadable) :
    (unreadable u s).flash.entry u = some .unreadable ∧ (unreadable u s).flash.unrecov = satTo 0xFFFF (s.flash.unrecov + 1) ∧
      (unreadable u s).flash.ops = s.flash.ops := by
  have hmarked : unreadable u s = count none 3 4 1 (warn 5 (leBytes 6 u.bits)
      (modFlash (fun f => { f.setEntry u .unreadable with unrecov := satTo 0xFFFF (f.unrecov + 1) }) s)) := if_neg (by simpa using h)
  have hstore := (warn_sameStore 5 (leBytes 6 u.bits)
    (modFlash (fun f => { f.setEntry u .unreadable with unrecov := satTo 0xFFFF (f.unrecov + 1) }) s)).store
  rw [hmarked, (count_keeps ..).flash]
  refine ⟨?_, (congrArg Flash.unrecov hstore :), (warn_ops ..).trans rfl⟩
  refine (congrArg (fun f : Flash => f.entry u) hstore : _).trans ?_
  unfold Flash.entry
  refine (congrArg (Option.map _) (List.find?_append ..)).trans ?_
  rw [List.find?_eq_none.2]
  · simp
  · intro e he
    simpa using (List.mem_filter.1 he).2

theorem dropCopyOf_flash (o : FOp) (s : State) : (dropCopyOf o s).flash.map = s.flash.map ∧ (dropCopyOf o s).flash.unrecov = s.flash.unrecov ∧
    (dropCopyOf o s).flash.ops = s.flash.ops := by
  unfold dropCopyOf
  split
  · exact ⟨rfl, rfl, rfl⟩
  · exact ⟨rfl, rfl, rfl⟩

theorem doFlashRead_of_gc {s : State} {r : FReadIn} {o : FOp} (hup : s.flashUp = true) (ho : s.flash.ops.find? (·.id == r.op) = some o)
    (hwhat : o.what = .gc) (hst : o.st = .running) (hsteps : s.flash.stepsOk o r.steps = true) : doFlashRead r s = readDone o r.steps s := by
  unfold doFlashRead
  rw [ho]
  refine (if_pos (by simp [hup, FOp.isRead, hwhat, hst, hsteps])).trans ?_
  unfold readEnds
  rw [hwhat]

theorem doFlashRead_of_none {s : State} {r : FReadIn} (h : ∀ o ∈ s.flash.ops, o.id ≠ r.op) : doFlashRead r s = s := by
  unfold doFlashRead
  rw [List.find?_eq_none.2 fun o ho => by simpa using h o ho]

/-! ## Registers -/

theorem writeFlash_cfg {s : State} (v : W32) (hup : s.bar0Up0 = true) : writeFlash 0 v s =
    if fld v 4 0 = 0 || !inRange 7 (if s.flash.opLock then fld s.flash.cfg 15 8 else fld v 15 8) 50 || fld v 23 16 = 0 then
      modFlash (fun f => { f with cfgReject := true }) s
    else modFlash (fun f => { f with cfg := (v &&& 0x00FF_007F#32) ||| put (if s.flash.opLock then fld s.flash.cfg 15 8 else fld v 15 8) 8 8 }) s :=
  if_pos hup

theorem writeFlash_cfg_of_good {s : State} {v : W32} {op : Nat} (hup : s.bar0Up0 = true)
    (hop : (if s.flash.opLock then fld s.flash.cfg 15 8 else fld v 15 8) = op) (h1 : 1 ≤ fld v 4 0) (hlo : 7 ≤ op) (hhi : op ≤ 50)
    (h2 : 1 ≤ fld v 23 16) : writeFlash 0 v s = modFlash (fun f => { f with cfg := (v &&& 0x00FF_007F#32) ||| put op 8 8 }) s := by
  rw [writeFlash_cfg v hup, hop]
  exact if_neg (by simp [inRange, hlo, hhi, Nat.ne_of_gt h1, Nat.ne_of_gt h2])

theorem writeFlash_warn {s : State} (v : W32) (hup : s.bar0Up0 = true) : writeFlash 2 v s =
    if fld v 7 0 = 0 || fld v 23 8 = 0 || fld v 31 24 = 0 then modFlash (fun f => { f with cfgReject := true }) s
    else modFlash (fun f => { f with warn := v }) s := if_pos hup

/-- Settles O37: ages, polls, windows, reads and registers. -/
theorem flashReadsAndRegisters : Obligations.FlashReadsAndRegisters := by
  unfold Obligations.FlashReadsAndRegisters
  refine fun s => ⟨fun blk hup h => ⟨_, congrArg Host.Outcome.next (doAgeClose_of_old hup h), ?_, rfl⟩,
    fun blk h => congrArg Host.Outcome.next (doAgeClose_of_young h), fun temps due hup h => ?_,
    fun temps due h => congrArg Host.Outcome.next (if_neg (by simp [Nat.not_le.2 h])), fun hup h => ?_,
    fun h => congrArg Host.Outcome.next (if_neg (by simp [Nat.not_le.2 h])), fun r o hup ho hwhat hst hsteps hentry => ⟨fun h5 => ?_, fun h2 => ?_⟩,
    fun r h => congrArg Host.Outcome.next (doFlashRead_of_none h), fun v hup => ⟨fun hlock h1 hlo hhi h2 => ?_, fun hlock h1 hlo hhi h2 => ?_,
      fun h => ?_, ?_, fun h1 h2 h3 => ?_, fun h => ?_⟩⟩
  · exact closed_markErasable (closed_modBlock fun _ => rfl)
  · have hstore := doTempPoll_store temps due hup h
    generalize ht : doTempPoll temps due s = t at hstore
    exact ⟨t, congrArg Host.Outcome.next ht, (congrArg Flash.pollFrames hstore :), (congrArg Flash.map hstore :), (congrArg Flash.dies hstore :),
      (congrArg Flash.blocks hstore :)⟩
  · exact ⟨_, congrArg Host.Outcome.next (if_pos (by simp [hup, h])), rfl, rfl, rfl⟩
  · have hdo := (doFlashRead_of_gc hup ho hwhat hst hsteps).trans (readDone_of_lost h5 hentry)
    have hcounted : (s.readCounted o r.steps).flash.entry o.lua = some (.at_ o.pun) := by
      rw [readCounted_flash]
      exact hentry
    obtain ⟨hbad, hunrecov, hops⟩ := unreadable_flash (s := s.readCounted o r.steps) (u := o.lua) (by rw [hcounted]; simp)
    obtain ⟨dmap, dunrecov, dops⟩ := dropCopyOf_flash o (unreadable o.lua (s.readCounted o r.steps))
    refine ⟨_, congrArg Host.Outcome.next hdo, ?_, dunrecov.trans (hunrecov.trans ?_), dops.trans (hops.trans ?_)⟩
    · unfold Flash.entry at hbad ⊢
      rw [dmap]
      exact hbad
    · rw [readCounted_flash]
      rfl
    · rw [readCounted_flash]
      rfl
  · have hdo := (doFlashRead_of_gc hup ho hwhat hst hsteps).trans (readDone_of_corrected h2)
    have hflash := readCounted_flash s o r.steps
    refine ⟨_, congrArg Host.Outcome.next hdo, (congrArg Flash.map hflash :), (congrArg Flash.pool hflash :), (congrArg Flash.winReads hflash :),
      (congrArg Flash.ops hflash :), (congrArg Flash.winRetried hflash).trans ?_⟩
    refine congrArg (fun l : List Nat => s.flash.winRetried + l.length) (List.filter_congr fun k hk => ?_)
    have := h2 k hk
    exact decide_eq_decide.2 (by omega)
  · exact congrArg Host.Outcome.next (writeFlash_cfg_of_good hup (by rw [hlock]; rfl) h1 hlo hhi h2)
  · exact congrArg Host.Outcome.next (writeFlash_cfg_of_good hup (by rw [hlock]; rfl) h1 hlo hhi h2)
  · refine congrArg Host.Outcome.next ((writeFlash_cfg v hup).trans (if_pos ?_))
    rcases h with h | h <;> simp [h]
  · exact congrArg Host.Outcome.next (if_pos hup)
  · exact congrArg Host.Outcome.next ((writeFlash_warn v hup).trans (if_neg (by simp [h1, h2, h3])))
  · refine congrArg Host.Outcome.next ((writeFlash_warn v hup).trans (if_pos ?_))
    rcases h with h | h | h <;> simp [h]

end Sys2Proof.Machine

/-! # Statistics, copies and the requests of other nodes -/

namespace Sys2Proof.Machine
-- The whole text is compiled by one process of limited memory: one proof at a time keeps it small.
set_option Elab.async false

/-! ## FABRIC_COPY -/

theorem node_of_fab {s t : State} (h : t.fab = s.fab) : t.node = s.node := congrArg (fun f : Fabric => fld f.nodeId 15 0) h

/-- A small message waits for the boundary: only the fabric's queue changes. -/
theorem sendBytes_of_small {body : List Byte} (dst cls op pv msgId : Nat) (s : State) (h : body.length < 65536) :
    sendBytes dst cls op pv msgId body s = { s with fab := (sendBytes dst cls op pv msgId body s).fab } := by
  unfold sendBytes
  by_cases hup : s.jfpUp = true
  · rw [if_pos hup, if_pos (by simp [h])]
    dsimp only
    split <;> rfl
  · rw [if_neg hup]

/-- A request to another node is noted and sent (R330, R331). -/
theorem issueReq_of_other {s : State} {dst : Nat} (op pv : Nat) (why : ReqFor) (body : List Byte) (h : dst ≠ s.node) :
    issueReq dst op pv why body s = sendBytes dst 3 op pv s.fab.nextMsg body { s with fab := { s.fab with
      nextMsg := (s.fab.nextMsg + 1) % 2 ^ 32, reqs := s.fab.reqs ++ [⟨s.fab.nextMsg, dst, why, body⟩] } } := if_neg h

theorem issueReq_parts {s : State} {dst : Nat} (op pv : Nat) (why : ReqFor) (body : List Byte) (h : dst ≠ s.node) :
    (issueReq dst op pv why body s).works = s.works ∧ (issueReq dst op pv why body s).ranges = s.ranges ∧
      (issueReq dst op pv why body s).flash = s.flash ∧ (issueReq dst op pv why body s).corpora = s.corpora ∧
      (issueReq dst op pv why body s).fab.held = s.fab.held ∧
      (issueReq dst op pv why body s).fab.reqs = s.fab.reqs ++ [⟨s.fab.nextMsg, dst, why, body⟩] := by
  have hkeep := issueReq_keeps dst op pv why body s
  refine ⟨hkeep.works, hkeep.ranges, hkeep.flash, hkeep.corpora, ?_, ?_⟩
  · rw [issueReq_of_other op pv why body h]
    exact (Sends.sendBytes ..).held
  · rw [issueReq_of_other op pv why body h]
    exact (Sends.sendBytes ..).reqs

theorem issueReq_of_small {s : State} {dst : Nat} (op pv : Nat) (why : ReqFor) {body : List Byte} (h : dst ≠ s.node)
    (hsmall : body.length < 65536) : issueReq dst op pv why body s = { s with fab := (issueReq dst op pv why body s).fab } := by
  rw [issueReq_of_other op pv why body h]
  exact sendBytes_of_small _ _ _ _ _ _ hsmall

/-- A copy of at most 1 MiB is one piece. -/
theorem copyPieces_of_one {n : Nat} (h0 : 0 < n) (h1 : n ≤ 2 ^ 20) : copyPieces n = [(0, n)] := by
  have hcount : (n + copyPiece - 1) / copyPiece = 1 := by
    unfold copyPiece
    omega
  unfold copyPieces
  rw [hcount]
  simp only [List.range_one, List.map_cons, List.map_nil, Nat.zero_mul, Nat.sub_zero, List.cons.injEq, Prod.mk.injEq, true_and, and_true]
  exact Nat.min_eq_right h1

/-- A work item whose copy runs. -/
def State.copies (s : State) (wid : Nat) : State := modWork wid (fun w => { w with stage := .running }) s

theorem startFabCopy_of_unread {s : State} {w : Work} (hdir : cDir w.desc = 0) :
    startFabCopy none w s = failWork w .badAddress (s.readsHost w.fn (cSrc w.desc) (cLen w.desc)) := by
  unfold startFabCopy
  dsimp only
  rw [if_pos hdir, show when_ (decide (cDir w.desc = 0)) (hostRead w.fn (cSrc w.desc) (cLen w.desc)) s = hostRead w.fn (cSrc w.desc) (cLen w.desc) s from
    if_pos (decide_eq_true hdir), hostRead_eq]

theorem startFabCopy_of_host {s : State} {w : Work} {bs : List Byte} (hdir : cDir w.desc = 0) (h0 : 0 < cLen w.desc) (h1 : cLen w.desc ≤ 2 ^ 20)
    (hlen : bs.length = cLen w.desc) : startFabCopy (some bs) w s =
      issueReq (hallNode (cDst w.desc)) jWrite (pvOf w.fn) (.copy w.id 0 (cLen w.desc) true) (writeBody (cDst w.desc) bs)
        ((s.readsHost w.fn (cSrc w.desc) (cLen w.desc)).copies w.id) := by
  have hpad : padTo (cLen w.desc) bs = bs := by
    unfold padTo
    rw [← hlen]
    simp [zeros]
  have hslice : slice bs 0 (cLen w.desc) = bs := by
    unfold slice
    rw [← hlen]
    simp
  unfold startFabCopy
  dsimp only
  rw [if_pos hdir, copyPieces_of_one h0 h1, hpad, List.foldl_cons, List.foldl_nil, hslice, Nat.add_zero,
    show when_ (decide (cDir w.desc = 0)) (hostRead w.fn (cSrc w.desc) (cLen w.desc)) s = hostRead w.fn (cSrc w.desc) (cLen w.desc) s from
      if_pos (decide_eq_true hdir), hostRead_eq]
  rfl

theorem startFabCopy_of_hall {s : State} {w : Work} (data : Option (List Byte)) (hdir : cDir w.desc ≠ 0) (h0 : 0 < cLen w.desc)
    (h1 : cLen w.desc ≤ 2 ^ 20) : startFabCopy data w s =
      issueReq (hallNode (cSrc w.desc)) jRead (pvOf w.fn) (.copy w.id 0 (cLen w.desc) false) (readBody (cSrc w.desc) (cLen w.desc)) (s.copies w.id) := by
  unfold startFabCopy
  dsimp only
  rw [if_neg hdir, copyPieces_of_one h0 h1, List.foldl_cons, List.foldl_nil, Nat.add_zero,
    show when_ (decide (cDir w.desc = 0)) (hostRead w.fn (cSrc w.desc) (cLen w.desc)) s = s from if_neg (by simpa using hdir)]
  rfl

theorem doCopy_of_admits {s : State} {wid : Nat} {w : Work} (data : Option (List Byte)) (h : s.admitsWork opCopy wid w)
    (hheld : (startFabCopy data w s).fab.held = []) : doCopy wid data s = startFabCopy data w s :=
  (admitWork_of_admits _ h).trans (pumpAll_of_none hheld)

theorem admitWork_of_other {s : State} {op wid : Nat} {w : Work} (f : Work → State → State) (hw : s.work wid = some w)
    (h : w.stage ≠ .fetched ∨ dOp w.desc ≠ op) : admitWork op wid f s = s := by
  unfold admitWork
  rw [hw]
  refine if_neg ?_
  rcases h with h | h <;> simp [h]

theorem length_readBody (addr len : Nat) : (readBody addr len).length = 16 := by simp [readBody, zeros, length_leBytes]

theorem length_writeBody (addr : Nat) (bs : List Byte) : (writeBody addr bs).length = 16 + bs.length := by
  simp only [writeBody, zeros, List.length_append, length_leBytes, List.length_replicate]

/-! ## Requests of other nodes -/

/-- A request that is heard under a map epoch that this node has reaches its engine. -/
theorem arriveFrom_of_req {s : State} {op : Nat} {m : JMsg} (hop : isReq op = true) (hne : op ≠ jBundle ∧ op ≠ jMap ∧ op ≠ jAck)
    (hhears : s.hears m.src = true) (hepoch : m.epoch ≤ s.comp.map.epoch) : arriveFrom op m s = doRequest ⟨m, op⟩ s := by
  obtain ⟨hbundle, hmap, hack⟩ := hne
  have hwaits : Msg.waitsMap ⟨m, op⟩ s.comp.map.epoch = false := by
    unfold Msg.waitsMap
    rw [show decide (s.comp.map.epoch < m.epoch) = false from decide_eq_false (Nat.not_lt.2 hepoch)]
    rfl
  unfold arriveFrom arrive deliver handOver
  rw [if_pos hhears, if_neg hbundle, if_neg (by simp [hmap, hack]), hwaits, if_neg Bool.false_ne_true]
  exact if_pos hop

theorem answerReq_of_other {s : State} {m : Msg} (st : Status) (data : List Byte) (h : m.m.src ≠ s.node) : answerReq m st data s =
    sendMsg m.m.src (if m.op = jAtomic then 0 else 3) jResp m.m.pv (respBody m.m st data) s := if_neg h

theorem doRequest_of_answer {s u : State} {m : Msg} {st : Status} {data : List Byte} (h : tryReq m s = (some (st, data), u)) (hfab : u.fab = s.fab)
    (hsrc : m.m.src ≠ s.node) : doRequest m s = sendMsg m.m.src (if m.op = jAtomic then 0 else 3) jResp m.m.pv (respBody m.m st data) u := by
  unfold doRequest
  rw [h]
  exact answerReq_of_other st data (node_of_fab hfab ▸ hsrc)

theorem doRequest_of_wait {s u : State} {m : Msg} (h : tryReq m s = (none, u)) :
    doRequest m s = { u with fab := { u.fab with held := u.fab.held ++ [⟨m, u.hfn, true⟩] } } := by
  unfold doRequest
  rw [h]
  rfl

theorem tryReq_of_ready {s : State} {m : Msg} (href : reqRefusal s m = none) (hlow : reqLow s m = []) : tryReq m s = performReq m s := by
  unfold tryReq reqDead
  rw [href]
  dsimp only
  rw [hlow]
  rfl

theorem tryReq_of_refusal {s : State} {m : Msg} {r : Status × List Byte} (h : reqRefusal s m = some r) : tryReq m s = (some r, s) := by
  unfold tryReq
  rw [h]

theorem performReq_of_write {s : State} {m : Msg} (hop : m.op = jWrite) :
    performReq m s = writeAnswer [] (writeBack (reqPv m) (reqOff m) (slice m.m.body 16 (reqLen m)) s) := if_pos hop

theorem performReq_of_failed {s u : State} {m : Msg} {st : Status} {bs : List Byte} (hop : m.op ≠ jWrite)
    (h : readFor (reqPv m) (reqOff m) (reqLen m) 0 s = ((some st, bs), u)) : performReq m s = (some (st, []), u) := by
  unfold performReq
  dsimp only
  rw [if_neg hop, h]

theorem performReq_of_read {s u : State} {m : Msg} {bs : List Byte} (hop : m.op = jRead)
    (h : readFor (reqPv m) (reqOff m) (reqLen m) 0 s = ((none, bs), u)) : performReq m s = (some (.ok, bs), u) := by
  unfold performReq
  dsimp only
  rw [if_neg (by rw [hop]; decide), h]
  exact if_pos hop

theorem performReq_of_atomic {s u : State} {m : Msg} {bs : List Byte} (hop : m.op = jAtomic)
    (h : readFor (reqPv m) (reqOff m) (reqLen m) 0 s = ((none, bs), u)) : performReq m s = writeAnswer bs (writeBack (reqPv m) (reqOff m)
      (leBytes 8 (if field m.m.body 8 1 = 0 then (leNat bs + field m.m.body 16 8) % 2 ^ 64
        else if leNat bs = field m.m.body 24 8 then field m.m.body 16 8 else leNat bs)) u) := by
  unfold performReq
  dsimp only
  rw [if_neg (by rw [hop]; decide), h]
  exact if_neg (by rw [hop]; decide)

/-- The pages of a request that waits for no promotion are in T1 or hold nothing. -/
theorem high_of_reqLow {s : State} {m : Msg} (h : reqLow s m = []) : ∀ no ∈ blocksIn pageSize (reqOff m) (reqLen m),
    ((s.range (reqPv m)).page no).st.inT1 = true ∨ ((s.range (reqPv m)).page no).st = .unwritten := by
  intro no hno
  have := List.filter_eq_nil_iff.1 h no hno
  cases hst : ((s.range (reqPv m)).page no).st <;> simp_all [PState.inT1]

/-- A request that is served at once goes to its access. -/
theorem arriveFrom_of_serves {s : State} {op : Nat} {m : JMsg} (hop : isReq op = true) (hne : op ≠ jBundle ∧ op ≠ jMap ∧ op ≠ jAck)
    (h : s.servesReq op m) : arriveFrom op m s = doRequest ⟨m, op⟩ s ∧ tryReq ⟨m, op⟩ s = performReq ⟨m, op⟩ s ∧ m.src ≠ s.node := by
  obtain ⟨hhears, hepoch, hsrc, href, hlow⟩ := h
  exact ⟨arriveFrom_of_req hop hne hhears hepoch, tryReq_of_ready href hlow, hsrc⟩

theorem fab_of_readFor {s u : State} {p a n k : Nat} {x : Option Status × List Byte} (h : readFor p a n k s = (x, u)) : u.fab = s.fab := by
  have := (readFor_keeps p a n k s).fab
  rwa [h] at this

theorem fab_of_writeBack {s u : State} {p a : Nat} {bs : List Byte} {x : Got} (h : writeBack p a bs s = (x, u)) : u.fab = s.fab := by
  have := (writeBack_keeps p a bs s).fab
  rwa [h] at this

/-- A request of another node that a check refuses is answered without an access. -/
theorem arriveFrom_of_refusal {s : State} {op : Nat} {m : JMsg} {st : Status} {data : List Byte} (hop : isReq op = true)
    (hne : op ≠ jBundle ∧ op ≠ jMap ∧ op ≠ jAck) (hhears : s.hears m.src = true) (hepoch : m.epoch ≤ s.comp.map.epoch) (hsrc : m.src ≠ s.node)
    (h : reqRefusal s ⟨m, op⟩ = some (st, data)) :
    arriveFrom op m s = sendMsg m.src (if op = jAtomic then 0 else 3) jResp m.pv (respBody m st data) s :=
  (arriveFrom_of_req hop hne hhears hepoch).trans (doRequest_of_answer (tryReq_of_refusal h) rfl hsrc)

/-- Settles O38: statistics and copies begin, and requests are served, held or refused. -/
theorem statisticsCopiesAndHallRequests : Obligations.StatisticsCopiesAndHallRequests := by
  unfold Obligations.StatisticsCopiesAndHallRequests
  have hread : isReq jRead = true ∧ jRead ≠ jBundle ∧ jRead ≠ jMap ∧ jRead ≠ jAck := by decide
  have hwrite : isReq jWrite = true ∧ jWrite ≠ jBundle ∧ jWrite ≠ jMap ∧ jWrite ≠ jAck := by decide
  have hatomic : isReq jAtomic = true ∧ jAtomic ≠ jBundle ∧ jAtomic ≠ jMap ∧ jAtomic ≠ jAck := by decide
  refine ⟨fun s wid w hw => ⟨fun hadm hstage hop => ?_, fun h => ?_, fun h hheld => ⟨fun hdir => ?_, fun bs hdir h0 h1 hlen hnode => ?_,
      fun data hdir h0 h1 hnode => ?_⟩, fun data _ h => congrArg Host.Outcome.next (admitWork_of_other _ hw h)⟩,
    fun s m => ⟨fun h herrs => ?_, fun h st u hfail => ?_, fun h u => ⟨fun hw => ?_, fun st hw => ?_, fun hw => ?_⟩,
      fun h bs u v hr => ⟨fun haop hw => ?_, fun haop hw => ?_⟩, fun st data hhears hepoch hsrc => ⟨fun h => ?_, fun h => ?_, fun h haop => ?_, fun h haop => ?_⟩,
      fun h => congrArg Host.Outcome.next (if_neg (by simpa using h)), fun h => congrArg Host.Outcome.next (if_neg (by simpa using h))⟩⟩
  · refine congrArg Host.Outcome.next ?_
    unfold doStats
    rw [hw]
    exact if_pos (by simp [hadm, hstage, hop])
  · refine congrArg Host.Outcome.next ?_
    unfold doStats
    rw [hw]
    refine if_neg ?_
    rcases h with h | h | h <;> simp [h]
  · have hstart := startFabCopy_of_unread (s := s) hdir
    refine congrArg Host.Outcome.next ((doCopy_of_admits none h ?_).trans hstart)
    rw [hstart, (failWork_keeps ..).fab]
    exact hheld
  · have hstart := startFabCopy_of_host (s := s) hdir h0 h1 hlen
    have hnode' : hallNode (cDst w.desc) ≠ ((s.readsHost w.fn (cSrc w.desc) (cLen w.desc)).copies w.id).node := hnode
    obtain ⟨hworks, hranges, hflash, hcorpora, hh, hreqs⟩ := issueReq_parts jWrite (pvOf w.fn) (.copy w.id 0 (cLen w.desc) true) (writeBody (cDst w.desc) bs) hnode'
    refine ⟨_, congrArg Host.Outcome.next ((doCopy_of_admits (some bs) h ?_).trans hstart), hworks, hreqs, hranges, hflash, hcorpora, fun hsmall => ?_⟩
    · rw [hstart, hh]
      exact hheld
    · rw [hworks]
      exact issueReq_of_small jWrite _ _ hnode' (by rw [length_writeBody]; omega)
  · have hstart := startFabCopy_of_hall (s := s) data hdir h0 h1
    have hnode' : hallNode (cSrc w.desc) ≠ (s.copies w.id).node := hnode
    obtain ⟨hworks, -, -, -, hh, hreqs⟩ := issueReq_parts jRead (pvOf w.fn) (.copy w.id 0 (cLen w.desc) false) (readBody (cSrc w.desc) (cLen w.desc)) hnode'
    have hsmall := issueReq_of_small jRead (pvOf w.fn) (.copy w.id 0 (cLen w.desc) false) hnode' (body := readBody (cSrc w.desc) (cLen w.desc))
      (by rw [length_readBody]; decide)
    refine ⟨_, congrArg Host.Outcome.next ((doCopy_of_admits data h ?_).trans hstart), hworks, hreqs, (congrArg State.out hsmall :), ?_⟩
    · rw [hstart, hh]
      exact hheld
    · rw [hworks]
      exact hsmall
  · obtain ⟨harrive, htry, hsrc⟩ := arriveFrom_of_serves hread.1 hread.2 h
    have hfor := readFor_of_high 0 (high_of_reqLow h.2.2.2.2) herrs
    exact ⟨_, congrArg Host.Outcome.next (harrive.trans (doRequest_of_answer (htry.trans (performReq_of_read rfl hfor)) rfl hsrc)), rfl⟩
  · obtain ⟨harrive, htry, hsrc⟩ := arriveFrom_of_serves hread.1 hread.2 h
    exact congrArg Host.Outcome.next (harrive.trans (doRequest_of_answer (htry.trans (performReq_of_failed (by decide : jRead ≠ jWrite) hfail))
      (fab_of_readFor hfail) hsrc))
  · obtain ⟨harrive, htry, hsrc⟩ := arriveFrom_of_serves hwrite.1 hwrite.2 h
    refine congrArg Host.Outcome.next (harrive.trans (doRequest_of_answer (htry.trans ((performReq_of_write rfl).trans (congrArg (writeAnswer []) hw)))
      (fab_of_writeBack hw) hsrc))
  · obtain ⟨harrive, htry, hsrc⟩ := arriveFrom_of_serves hwrite.1 hwrite.2 h
    refine congrArg Host.Outcome.next (harrive.trans (doRequest_of_answer (htry.trans ((performReq_of_write rfl).trans (congrArg (writeAnswer []) hw)))
      (fab_of_writeBack hw) hsrc))
  · obtain ⟨harrive, htry, -⟩ := arriveFrom_of_serves hwrite.1 hwrite.2 h
    exact congrArg Host.Outcome.next (harrive.trans (doRequest_of_wait (htry.trans ((performReq_of_write rfl).trans (congrArg (writeAnswer []) hw)))))
  · obtain ⟨harrive, htry, hsrc⟩ := arriveFrom_of_serves hatomic.1 hatomic.2 h
    have hperform := performReq_of_atomic (m := ⟨m, jAtomic⟩) rfl hr
    rw [show (if field m.body 8 1 = 0 then _ else _ : Nat) = _ from if_pos haop] at hperform
    exact congrArg Host.Outcome.next ((if_pos (by simpa using haop)).trans (harrive.trans (doRequest_of_answer
      (htry.trans (hperform.trans (congrArg (writeAnswer bs) hw))) ((fab_of_writeBack hw).trans (fab_of_readFor hr)) hsrc)))
  · obtain ⟨harrive, htry, hsrc⟩ := arriveFrom_of_serves hatomic.1 hatomic.2 h
    have hperform := performReq_of_atomic (m := ⟨m, jAtomic⟩) rfl hr
    rw [show (if field m.body 8 1 = 0 then _ else _ : Nat) = _ from if_neg (by rw [haop]; decide)] at hperform
    exact congrArg Host.Outcome.next ((if_pos (by simpa using haop)).trans (harrive.trans (doRequest_of_answer
      (htry.trans (hperform.trans (congrArg (writeAnswer bs) hw))) ((fab_of_writeBack hw).trans (fab_of_readFor hr)) hsrc)))
  · exact congrArg Host.Outcome.next (arriveFrom_of_refusal hread.1 hread.2 hhears hepoch hsrc h)
  · exact congrArg Host.Outcome.next (arriveFrom_of_refusal hwrite.1 hwrite.2 hhears hepoch hsrc h)
  · exact congrArg Host.Outcome.next ((if_pos (by simpa using haop)).trans (arriveFrom_of_refusal hatomic.1 hatomic.2 hhears hepoch hsrc h))
  · exact congrArg Host.Outcome.next ((if_pos (by simpa using haop)).trans (arriveFrom_of_refusal hatomic.1 hatomic.2 hhears hepoch hsrc h))

end Sys2Proof.Machine

/-! # Holds, answers, bundles and promotions -/

namespace Sys2Proof.Machine
-- The whole text is compiled by one process of limited memory: one proof at a time keeps it small.
set_option Elab.async false

/-! ## Requests that wait -/

theorem pulling_congr {s t : State} (h : t.comp = s.comp) (q : Query) : q.pulling t = q.pulling s := by
  unfold Query.pulling
  rw [h]

theorem tryReq_of_low {s : State} {m : Msg} (href : reqRefusal s m = none) (hdead : reqDead s m = false) (hlow : reqLow s m ≠ []) :
    tryReq m s = (none, (reqLow s m).foldl (fun s no => promote (reqPv m) no s) s) := by
  unfold tryReq
  rw [href]
  dsimp only
  rw [hdead, if_neg Bool.false_ne_true]
  split
  · next h => exact absurd h hlow
  · rfl

/-- A request whose pages are not in T1 is held for them. -/
theorem doRequest_held {s : State} {m : Msg} (href : reqRefusal s m = none) (hdead : reqDead s m = false) (hlow : reqLow s m ≠ []) :
    (doRequest m s).fab = { s.fab with held := s.fab.held ++ [⟨m, s.hfn, true⟩] } := by
  have hkeep : Keeps _ s ((reqLow s m).foldl (fun s no => promote (reqPv m) no s) s) := Keeps.foldl (.refl _ _) fun t no => promote_keeps ..
  have hfab := hkeep.fab
  have hhfn : State.hfn ((reqLow s m).foldl (fun s no => promote (reqPv m) no s) s) = s.hfn := congrArg Clock.hfn hkeep.clk
  rw [doRequest_of_wait (tryReq_of_low href hdead hlow)]
  dsimp only
  rw [hfab, hhfn]

/-- A request routed under a newer map is held for the map, and the map is asked for. -/
theorem arriveFrom_of_newer {s : State} {op : Nat} {m : JMsg} (hop : isReq op = true) (hne : op ≠ jBundle ∧ op ≠ jMap ∧ op ≠ jAck)
    (hhears : s.hears m.src = true) (hepoch : s.comp.map.epoch < m.epoch) :
    arriveFrom op m s = fetchMap { s with fab := { s.fab with held := s.fab.held ++ [⟨⟨m, op⟩, s.hfn, false⟩] } } := by
  obtain ⟨hbundle, hmap, hack⟩ := hne
  have hwaits : Msg.waitsMap ⟨m, op⟩ s.comp.map.epoch = true := by
    unfold Msg.waitsMap
    simp [hepoch, hop]
  unfold arriveFrom arrive deliver
  rw [if_pos hhears, if_neg hbundle, if_neg (by simp [hmap, hack]), hwaits]
  rfl

theorem arriveFrom_of_deaf {s : State} {m : JMsg} (op : Nat) (h : s.hears m.src = false) : arriveFrom op m s = s :=
  if_neg (by rw [h]; exact Bool.false_ne_true)

theorem arriveSub_of_deaf {s : State} {m : JMsg} (op : Nat) (ok : List Byte → Bool) (h : s.hears m.src = false) : arriveSub op ok m s = s := by
  unfold arriveSub
  rw [arriveFrom_of_deaf op h, ite_self]

/-! ## Holds that end -/

theorem holdTimeout_of_req {s : State} {h : Held} (hheld : s.fab.held = [h]) (hreq : isReq h.msg.op = true) (hsrc : h.msg.m.src ≠ s.node) :
    holdTimeout h s = sendMsg h.msg.m.src (if h.msg.op = jAtomic then 0 else 3) jResp h.msg.m.pv (respBody h.msg.m .timeout [])
      { s with fab := { s.fab with held := [] } } := by
  have herase : modFab (fun f => { f with held := f.held.erase h }) s = { s with fab := { s.fab with held := [] } } := by
    dsimp only [modFab]
    rw [hheld, List.erase_cons_head]
  refine (if_pos hreq).trans ?_
  rw [herase]
  exact answerReq_of_other .timeout [] hsrc

/-- The requests held too long, and the queries whose plots' state is pulled too long (R363, R369). -/
def State.lateHeld (s : State) : List Held := s.fab.held.filter fun h => decide (h.arrived + (if h.forPage then 1000 else 100) ≤ s.hfn)
def State.latePulls (s : State) : List Query :=
  s.scan.queries.filter fun q => q.stage == .routed && !q.toJoin.isEmpty && q.pulling s && decide (q.arrived + 100 ≤ s.hfn)

theorem doHoldTimeout_of_live {s : State} (hlive : s.live = true) : doHoldTimeout s =
    let t := s.lateHeld.foldl (fun s h => holdTimeout h s) s
    t.latePulls.foldl (fun s q => pullTimeout q s) t := if_pos hlive

theorem latePulls_of_none {s : State} (h : ∀ q ∈ s.scan.queries, q.stage ≠ .routed ∨ q.pulling s = false ∨ s.hfn < q.arrived + 100) :
    s.latePulls = [] := by
  refine List.filter_eq_nil_iff.2 fun q hq => ?_
  rcases h q hq with h | h | h
  · simp [h]
  · simp [h]
  · simp [Nat.not_le.2 h]

theorem lateHeld_of_none {s : State} (h : ∀ h ∈ s.fab.held, s.hfn < h.arrived + if h.forPage then 1000 else 100) : s.lateHeld = [] :=
  List.filter_eq_nil_iff.2 fun x hx => by simpa using h x hx

theorem doHoldTimeout_of_none {s : State} (hheld : s.lateHeld = []) (hpulls : s.latePulls = []) : doHoldTimeout s = s := by
  by_cases hlive : s.live = true
  · rw [doHoldTimeout_of_live hlive, hheld]
    dsimp only [List.foldl_nil]
    rw [hpulls]
    rfl
  · exact if_neg hlive

/-! ## Answers -/

/-- A message that its engine takes is handed over. -/
theorem arriveFrom_of_takes {s : State} {op : Nat} {m : JMsg} (hne : op ≠ jBundle ∧ op ≠ jMap ∧ op ≠ jAck) (h : s.takesMsg op m) :
    arriveFrom op m s = handOver ⟨m, op⟩ s := by
  obtain ⟨hbundle, hmap, hack⟩ := hne
  obtain ⟨hhears, -, hwaits⟩ := h
  unfold arriveFrom arrive deliver
  rw [if_pos hhears, if_neg hbundle, if_neg (by simp [hmap, hack]), hwaits, if_neg Bool.false_ne_true]

/-- An answer is given to its request. -/
theorem arriveFrom_resp {s : State} {m : JMsg} (h : s.takesMsg jResp m) :
    arriveFrom jResp m s = takeResp m.src (field m.body 0 4) (Status.ofCode (field m.body 4 1)) (m.body.drop 16) s := by
  rw [arriveFrom_of_takes (by decide) h]
  unfold handOver
  dsimp only
  rw [h.2.1, if_neg (by decide), if_neg (by decide), if_neg (by decide), if_neg (by decide), if_pos rfl]

theorem takeResp_of_atomic {s : State} {src id : Nat} {r : Req} (st : Status) (data : List Byte) (hreqs : s.fab.reqs = [r]) (hid : r.msgId = id)
    (hdst : r.dst = src) (hwhy : r.why = .atomic) : takeResp src id st data s =
      { s with fab := { s.fab with reqs := [] }, out := s.out ++ [.internal "ATOMIC" (leNat data)] } := by
  unfold takeResp
  rw [hreqs, List.find?_cons_of_pos (by simp [hid, hdst])]
  dsimp only
  rw [hwhy]
  dsimp only [modFab, emit]
  rw [hreqs, List.filter_cons_of_neg (by simp [hid])]
  rfl

theorem takeResp_of_copy {s : State} {src id wid off len : Nat} {wr : Bool} {r : Req} {st : Status} (data : List Byte) (hreqs : s.fab.reqs = [r])
    (hid : r.msgId = id) (hdst : r.dst = src) (hwhy : r.why = .copy wid off len wr) (hok : st ≠ .ok) (hredir : st ≠ .redirect)
    (hheld : s.fab.held = []) : takeResp src id st data s = completeId wid st 0 (spec3 0 0 off) { s with fab := { s.fab with reqs := [] } } := by
  unfold takeResp
  rw [hreqs, List.find?_cons_of_pos (by simp [hid, hdst])]
  dsimp only
  rw [hwhy]
  dsimp only
  rw [if_neg hok, if_neg hredir]
  unfold endCopy modFab
  dsimp only
  rw [hreqs, List.filter_cons_of_neg (by simp [hid]), hheld]
  congr 2

theorem takeResp_of_none {s : State} {src id : Nat} (st : Status) (data : List Byte) (h : ∀ r ∈ s.fab.reqs, r.msgId ≠ id ∨ r.dst ≠ src) :
    takeResp src id st data s = s := by
  unfold takeResp
  rw [List.find?_eq_none.2 fun r hr => ?_]
  rcases h r hr with h | h <;> simp [h]

/-! ## Bundles -/

/-- A record of a bundle acts as its message (R343). -/
theorem arriveFrom_bundle {m x : JMsg} {op : Nat} (s : State) (h : bundleRecs m m.body.length m.body = [⟨x, op⟩]) (hsrc : x.src = m.src)
    (hne : op ≠ jBundle ∧ op ≠ jMap ∧ op ≠ jAck) : arriveFrom jBundle m s = arriveFrom op x s := by
  obtain ⟨hbundle, hmap, hack⟩ := hne
  have harrive : arrive op x s = deliver ⟨x, op⟩ s := (if_neg hbundle).trans (if_neg (by simp [hmap, hack]))
  have hrecord : arrive jBundle m s = deliver ⟨x, op⟩ s := by
    refine (if_pos rfl).trans ?_
    unfold doBundle
    rw [h]
    rfl
  unfold arriveFrom
  rw [harrive, hrecord, hsrc]

/-! ## Promotions -/

theorem doPromoteDone_of_none {s : State} (p no : Nat) (ok : Bool) (h : s.fab.held = []) : doPromoteDone p no ok s = doPromoted p no ok s :=
  pumpAll_of_none ((congrArg Fabric.held (doPromoted_keeps p no ok s).fab).trans h)

theorem doPromoted_of_none {s : State} {p no : Nat} (ok : Bool) (h : ((s.range p).page no).copy = none) : doPromoted p no ok s = s := by
  unfold doPromoted
  dsimp only
  rw [h]

theorem doPromoted_of_failed {s : State} {p no : Nat} {c : Copy} (hc : ((s.range p).page no).copy = some c) (hlive : s.live = true)
    (htier : c.tier = 1) (hasked : s.flash.asked p (.page no) = false) (hst : ((s.range p).page no).st = .t2) :
    doPromoted p no false s = dropCopy p no (some .memUncorrectable) (memError p 2 2 (no * pageSize) s) := by
  unfold doPromoted
  dsimp only
  rw [hc]
  exact (if_pos (by simp [hlive, htier, hasked])).trans (if_pos (by simp [hst]))

theorem doPromoted_of_read {s : State} {p no : Nat} {c : Copy} (hc : ((s.range p).page no).copy = some c) (hlive : s.live = true)
    (htier : c.tier = 1) (hasked : s.flash.asked p (.page no) = false) (hst : ((s.range p).page no).st = .t2) (hgood : no ∉ (s.range p).t2Bad)
    (hwork : c.work = none) : doPromoted p no true s =
      pumpBar2 (fnOf p) (migrated (modPage p no (fun g => { g with misses := 0, lastAcc := s.hfn }) (landPage p no s))) := by
  unfold doPromoted
  dsimp only
  rw [hc]
  refine (if_pos (by simp [hlive, htier, hasked])).trans ((if_neg (by simp [hgood])).trans ((if_neg (by simp [hst])).trans ?_))
  exact copyDone_of_own _ hwork

/-- Settles O39: requests wait, are answered or time out, bundles act as their records, and promotions complete. -/
theorem holdsAndAnswers : Obligations.HoldsAndAnswers := by
  unfold Obligations.HoldsAndAnswers
  have hread : isReq jRead = true ∧ jRead ≠ jBundle ∧ jRead ≠ jMap ∧ jRead ≠ jAck := by decide
  have hwrite : isReq jWrite = true ∧ jWrite ≠ jBundle ∧ jWrite ≠ jMap ∧ jWrite ≠ jAck := by decide
  refine fun s m => ⟨fun hhears hepoch href hlow hdead => ?_, fun hhears hepoch => congrArg Host.Outcome.next (arriveFrom_of_newer hwrite.1 hwrite.2 hhears hepoch),
    fun hlive hpull h hheld hreq hsrc hpage hlate => ?_, fun q hlive hheld hq hstage hjoin hpull hlate => ?_, fun hheld hpulls => ?_,
    fun h => ⟨fun r hreqs hid hdst hwhy => ?_, fun r wid off len wr hreqs hid hdst hwhy hok hredir hheld => ?_, fun hnone => ?_⟩,
    fun x hrecs hsrc => congrArg Host.Outcome.next (arriveFrom_bundle s hrecs hsrc hread.2),
    fun x hrecs hsrc => congrArg Host.Outcome.next (arriveFrom_bundle s hrecs hsrc (by decide)), fun hhears hrecs => ?_, fun h => ?_,
    fun p no ok hheld => ⟨fun hcopy => ?_, fun c hc hlive htier hasked => ⟨fun hok hst => ?_, fun hok hst hgood hwork => ?_⟩⟩⟩
  · refine ⟨_, rfl, ?_⟩
    rw [arriveFrom_of_req hread.1 hread.2 hhears hepoch]
    exact doRequest_held href hdead hlow
  · have hlateHeld : s.lateHeld = [h] := by
      unfold State.lateHeld
      rw [hheld, List.filter_cons_of_pos (by simpa [hpage] using hlate)]
      rfl
    refine congrArg Host.Outcome.next ((doHoldTimeout_of_live hlive).trans ?_)
    rw [hlateHeld]
    dsimp only [List.foldl_cons, List.foldl_nil]
    rw [holdTimeout_of_req hheld hreq hsrc]
    generalize ht : sendMsg h.msg.m.src (if h.msg.op = jAtomic then 0 else 3) jResp h.msg.m.pv (respBody h.msg.m .timeout [])
      { s with fab := { s.fab with held := [] } } = t
    have hkeep := sendMsg_keeps h.msg.m.src (if h.msg.op = jAtomic then 0 else 3) jResp h.msg.m.pv (respBody h.msg.m .timeout [])
      { s with fab := { s.fab with held := [] } }
    rw [ht] at hkeep
    rw [latePulls_of_none]
    · rfl
    · intro q hq
      rw [hkeep.scan] at hq
      exact .inr (.inl ((pulling_congr hkeep.comp q).trans (hpull q hq)))
  · have hlateHeld : s.lateHeld = [] := lateHeld_of_none (by rw [hheld]; exact fun _ h => nomatch h)
    have hlatePulls : s.latePulls = [q] := by
      unfold State.latePulls
      rw [hq, List.filter_cons_of_pos (by simp [hstage, hjoin, hpull, hlate])]
      rfl
    refine congrArg Host.Outcome.next ((doHoldTimeout_of_live hlive).trans ?_)
    rw [hlateHeld]
    dsimp only [List.foldl_nil]
    rw [hlatePulls]
    rfl
  · exact congrArg Host.Outcome.next (doHoldTimeout_of_none (lateHeld_of_none hheld) (latePulls_of_none hpulls))
  · exact congrArg Host.Outcome.next ((arriveFrom_resp h).trans (takeResp_of_atomic _ _ hreqs hid hdst hwhy))
  · exact congrArg Host.Outcome.next ((arriveFrom_resp h).trans (takeResp_of_copy _ hreqs hid hdst hwhy hok hredir hheld))
  · exact congrArg Host.Outcome.next ((arriveFrom_resp h).trans (takeResp_of_none _ _ hnone))
  · refine congrArg Host.Outcome.next ((if_pos hhears).trans ((if_pos rfl).trans ?_))
    unfold doBundle
    rw [hrecs]
    rfl
  · exact ⟨congrArg Host.Outcome.next (arriveFrom_of_deaf _ h), congrArg Host.Outcome.next (arriveFrom_of_deaf _ h),
      congrArg Host.Outcome.next (arriveSub_of_deaf _ _ h), congrArg Host.Outcome.next (arriveSub_of_deaf _ _ h),
      congrArg Host.Outcome.next (arriveFrom_of_deaf _ h), congrArg Host.Outcome.next (arriveFrom_of_deaf _ h),
      congrArg Host.Outcome.next (arriveFrom_of_deaf _ h), congrArg Host.Outcome.next (arriveFrom_of_deaf _ h),
      congrArg Host.Outcome.next (arriveSub_of_deaf _ _ h), congrArg Host.Outcome.next (arriveSub_of_deaf _ _ h),
      congrArg Host.Outcome.next (arriveSub_of_deaf _ _ h), congrArg Host.Outcome.next (arriveSub_of_deaf _ _ h),
      congrArg Host.Outcome.next (arriveSub_of_deaf _ _ h)⟩
  · exact congrArg Host.Outcome.next ((doPromoteDone_of_none _ _ _ hheld).trans (doPromoted_of_none _ hcopy))
  · subst hok
    exact congrArg Host.Outcome.next ((doPromoteDone_of_none _ _ _ hheld).trans (doPromoted_of_failed hc hlive htier hasked hst))
  · subst hok
    exact congrArg Host.Outcome.next ((doPromoteDone_of_none _ _ _ hheld).trans (doPromoted_of_read hc hlive htier hasked hst hgood hwork))

end Sys2Proof.Machine

/-! # Query messages -/

namespace Sys2Proof.Machine
-- The whole text is compiled by one process of limited memory: one proof at a time keeps it small.
set_option Elab.async false

/-! ## Records of a FANOUT -/

/-- The query that a record which is not served is answered with. -/
def State.bareQuery (s : State) (p : Nat) (bs : List Byte) : Query :=
  { Query.new 0 0 0 p (readQRec []) false (field bs 16 4) s.hfn .valid with fanRound := field bs 80 2, fanReroute := field bs 84 1 }

/-- What is left of a record's service once its pavilion is not in reset and its epoch is there. -/
def State.serveUnder (s : State) (src p r : Nat) (bs : List Byte) (b : Bundle) (x : QRec × Coded × Nat × List Nat) : State :=
  let c := s.corpus p
  let q := x.1
  let plots := x.2.2.2
  let provOk := (field bs 29 1).testBit 5
  if decide (field bs 8 8 ≤ c.retireH) then refuseFan src p (field bs 0 8) (s.bareQuery p bs) .timeout s
  else if !q.sweep && !plots.all (fun k => s.answersFor p k r) then refuseFan src p (field bs 0 8) (s.bareQuery p bs) .redirect s
  else
    let lost := plots.filter fun k => match s.comp.map.plot? p k with | some x => x.st == .lost | none => false
    let own := if q.sweep then s.ownPlots p else plots.filter fun k => !lost.contains k
    let (id, s) := fresh s
    let s := fixQuads p own s
    let y : Query := { Query.new id 0 0 p q provOk (field bs 16 4) s.hfn (if own.isEmpty then .localDone else .routed) with
      origin := some (src, field bs 0 8), snapshot := field bs 8 8, admSeq := id, code := x.2.1, sketch := x.2.2.1, plots := own, toJoin := s.quadsFor p own
      fetchWait := fld s.scan.rerankEff 9 0, hist := List.replicate (b.width + 1) 0
      fanRound := field bs 80 2, fanReroute := field bs 84 1
      bad := if lost.isEmpty then [] else [.stateLost]
      provisional := provOk && c.rstate == .provisional, fCkpt := c.fCkpt }
    let s := modScan (fun x => { x with queries := x.queries ++ [y] }) s
    if own.isEmpty then finishLocal id s else s

theorem serveRecord_of_closed {s : State} (src p r : Nat) (bs : List Byte) (h : s.alignOpen = false) : serveRecord src p r bs s = s :=
  if_pos (by simp [h])

theorem serveRecord_of_reset {s : State} (src : Nat) {p : Nat} (r : Nat) (bs : List Byte) (hopen : s.alignOpen = true) (h : s.pvInReset p = true) :
    serveRecord src p r bs s = refuseFan src p (field bs 0 8) (s.bareQuery p bs) .reset s :=
  (if_neg (by simp [hopen])).trans (if_pos h)

theorem serveRecord_of_stale {s : State} (src : Nat) {p : Nat} (r : Nat) {bs : List Byte} (hopen : s.alignOpen = true) (hreset : s.pvInReset p = false)
    (h : (s.corpus p).bundle? (field bs 16 4) = none) :
    serveRecord src p r bs s = refuseFan src p (field bs 0 8) (s.bareQuery p bs) .epochStale s := by
  unfold serveRecord
  dsimp only
  rw [if_neg (by simp [hopen]), if_neg (by simp [hreset]), h]
  rfl

theorem serveRecord_of_epoch {s : State} (src : Nat) {p : Nat} (r : Nat) {bs : List Byte} {b : Bundle} (hopen : s.alignOpen = true)
    (hreset : s.pvInReset p = false) (h : (s.corpus p).bundle? (field bs 16 4) = some b) :
    serveRecord src p r bs s = s.serveUnder src p r bs b (readFan b bs) := by
  unfold serveRecord
  dsimp only
  rw [if_neg (by simp [hopen]), if_neg (by simp [hreset]), h]
  rfl

theorem serveUnder_of_retired {s : State} (src : Nat) {p : Nat} (r : Nat) {bs : List Byte} (b : Bundle) (x : QRec × Coded × Nat × List Nat) (h : field bs 8 8 ≤ (s.corpus p).retireH) :
    s.serveUnder src p r bs b x = refuseFan src p (field bs 0 8) (s.bareQuery p bs) .timeout s := if_pos (decide_eq_true h)

theorem serveUnder_of_other {s : State} (src : Nat) {p r : Nat} {bs : List Byte} {b : Bundle} {x : QRec × Coded × Nat × List Nat} (hsnap : (s.corpus p).retireH < field bs 8 8)
    (hsweep : x.1.sweep = false) (h : ∃ k ∈ x.2.2.2, s.answersFor p k r = false) :
    s.serveUnder src p r bs b x = refuseFan src p (field bs 0 8) (s.bareQuery p bs) .redirect s := by
  have hall : x.2.2.2.all (fun k => s.answersFor p k r) = false := by simpa using h
  exact (if_neg (by simpa using hsnap)).trans (if_pos (by rw [hsweep, hall]; rfl))

/-- The query that a served record becomes. -/
def State.joined (s : State) (src p : Nat) (bs : List Byte) (b : Bundle) (x : QRec × Coded × Nat × List Nat) (t : State) : Query :=
  { Query.new s.nextId 0 0 p x.1 ((field bs 29 1).testBit 5) (field bs 16 4) t.hfn .routed with
    origin := some (src, field bs 0 8), snapshot := field bs 8 8, admSeq := s.nextId, code := x.2.1, sketch := x.2.2.1
    plots := x.2.2.2, toJoin := t.quadsFor p x.2.2.2, fetchWait := fld t.scan.rerankEff 9 0
    hist := List.replicate (b.width + 1) 0, fanRound := field bs 80 2, fanReroute := field bs 84 1, bad := []
    provisional := (field bs 29 1).testBit 5 && (s.corpus p).rstate == .provisional, fCkpt := (s.corpus p).fCkpt }

/-- A record whose plots this node answers for joins its queries (R336). -/
theorem serveUnder_of_own {s : State} (src : Nat) {p r : Nat} {bs : List Byte} {b : Bundle} {x : QRec × Coded × Nat × List Nat} (hsnap : (s.corpus p).retireH < field bs 8 8)
    (hsweep : x.1.sweep = false)
    (h : ∀ k ∈ x.2.2.2, s.answersFor p k r = true ∧ ∃ y, s.comp.map.plot? p k = some y ∧ y.st ≠ .lost) (hne : x.2.2.2 ≠ []) :
    ∃ t, Keeps [.comp] (fresh s).2 t ∧
      s.serveUnder src p r bs b x = modScan (fun y => { y with queries := y.queries ++ [s.joined src p bs b x t] }) t := by
  have hall : x.2.2.2.all (fun k => s.answersFor p k r) = true := List.all_eq_true.2 fun k hk => (h k hk).1
  have hlost : (x.2.2.2.filter fun k => match s.comp.map.plot? p k with | some y => y.st == .lost | none => false) = [] := by
    refine List.filter_eq_nil_iff.2 fun k hk => ?_
    obtain ⟨y, hy, hst⟩ := (h k hk).2
    rw [hy]
    simpa using hst
  refine ⟨fixQuads p x.2.2.2 (fresh s).2, fixQuads_keeps .., ?_⟩
  refine (if_neg (by simpa using hsnap)).trans ((if_neg (by rw [hall]; simp)).trans ?_)
  rw [hlost, hsweep]
  dsimp only
  rw [if_neg Bool.false_ne_true, List.filter_eq_self.2 (fun k _ => rfl : ∀ k ∈ x.2.2.2, (!([] : List Nat).contains k) = true)]
  have hempty : x.2.2.2.isEmpty = false := by simpa using hne
  rw [hempty]
  rfl

theorem arriveFrom_fanout {s : State} {m : JMsg} {r : List Byte} (h : s.takesMsg jFanout m) (hrecs : fanRecords m.body.length m.body = [r]) :
    arriveFrom jFanout m s = serveRecord m.src m.pv m.epoch r (count none 4 5 1 s) := by
  rw [arriveFrom_of_takes (by decide) h]
  unfold handOver doFanout
  dsimp only
  rw [h.2.1, if_neg (by decide), if_neg (by decide), if_pos rfl, hrecs]
  rfl

/-- A message whose body is out of range is dropped (R339). -/
theorem arriveFrom_of_bad {s : State} {op : Nat} {m : JMsg} (hne : op ≠ jBundle ∧ op ≠ jMap ∧ op ≠ jAck) (hop : isReq op = false)
    (hhears : s.hears m.src = true) (hepoch : m.epoch ≤ s.comp.map.epoch) (hbad : bodyOk ⟨m, op⟩ = false) :
    arriveFrom op m s = { s with fab := { s.fab with rxDrop := true } } := by
  obtain ⟨hbundle, hmap, hack⟩ := hne
  have hwaits : Msg.waitsMap ⟨m, op⟩ s.comp.map.epoch = false := by
    unfold Msg.waitsMap
    rw [show decide (s.comp.map.epoch < m.epoch) = false from decide_eq_false (Nat.not_lt.2 hepoch)]
    rfl
  unfold arriveFrom arrive deliver handOver
  rw [if_pos hhears, if_neg hbundle, if_neg (by simp [hmap, hack]), hwaits, if_neg Bool.false_ne_true]
  dsimp only
  rw [hop, hbad]
  rfl

/-! ## Partial lists -/

theorem arriveFrom_partial {s : State} {m : JMsg} (h : s.takesMsg jPartial m) : arriveFrom jPartial m s = takePartial m.src m.pv m.body s := by
  rw [arriveFrom_of_takes (by decide) h]
  unfold handOver
  dsimp only
  rw [h.2.1, if_neg (by decide), if_neg (by decide), if_neg (by decide), if_pos rfl]

/-- The first element that satisfies a test satisfies a narrower one first too. -/
theorem find?_and_of_find? {α : Type} {p q : α → Bool} {l : List α} {a : α} (h : l.find? p = some a) (hq : q a = true) (hsub : ∀ x, q x = true → p x = true) :
    l.find? q = some a := by
  obtain ⟨-, as, bs, rfl, has⟩ := List.find?_eq_some_iff_append.1 h
  refine List.find?_eq_some_iff_append.2 ⟨hq, as, bs, rfl, fun x hx => ?_⟩
  rw [Bool.not_eq_true']
  exact Bool.eq_false_iff.2 fun hqx => by simpa [hsub x hqx] using has x hx

/-- The query that a partial list is for: of this node, not over. -/
theorem takePartial_of_query {s : State} {src p : Nat} {body : List Byte} {q : Query} (hq : s.query? (field body 0 8) = some q) (hpv : q.pv = p)
    (horigin : q.origin = none) (hover : q.stage.over = false) : takePartial src p body s =
      match q.awaitNodes.find? fun r => r.node == src && r.round == field body 22 2 && r.reroute == field body 44 1 with
      | none => s
      | some r =>
        if Status.ofCode (field body 8 1) = .redirect then rerouteRec q r s
        else addPart q.id r (readPart src body) ((field body 9 1).testBit 3) s := by
  have hid : q.id = field body 0 8 := by simpa using List.find?_some hq
  have hfind : s.scan.queries.find? (fun q => q.id == field body 0 8 && q.pv == p && q.origin.isNone && !q.stage.over) = some q := by
    refine find?_and_of_find? hq (by simp [hid, hpv, horigin, hover]) fun x hx => ?_
    simp only [Bool.and_eq_true] at hx
    exact hx.1.1.1
  unfold takePartial
  rw [hfind] <;> rfl

theorem takePartial_of_none {s : State} {p : Nat} (src : Nat) {body : List Byte} (h : ∀ q ∈ s.scan.queries, q.id ≠ field body 0 8) :
    takePartial src p body s = s := by
  unfold takePartial
  rw [List.find?_eq_none.2 fun q hq => by simp [h q hq]]

/-- Settles O40: records join or are refused with their status, and partial lists take the place of what they answer. -/
theorem queryMessages : Obligations.QueryMessages := by
  unfold Obligations.QueryMessages
  refine fun s m => ⟨fun h hclosed r hrecs => ?_, fun h hopen r hrecs => ⟨fun hreset => ?_, fun hreset => ⟨fun hnone => ?_, fun b hb => ⟨fun hsnap => ?_,
      fun hsnap hsweep => ⟨fun hother => ?_, fun hown hne => ?_⟩⟩⟩⟩, fun hhears hbad hepoch => ?_,
    fun h q hq hpv horigin hover => ⟨fun r hr hst => ?_, fun hnone => ?_⟩, fun h hnone => ?_⟩
  · exact congrArg Host.Outcome.next ((arriveFrom_fanout h hrecs).trans (serveRecord_of_closed (s := count none 4 5 1 s) _ _ _ _ hclosed))
  · exact ⟨_, congrArg Host.Outcome.next ((arriveFrom_fanout h hrecs).trans (serveRecord_of_reset (s := count none 4 5 1 s) _ _ _ hopen hreset)), rfl, rfl⟩
  · exact ⟨_, congrArg Host.Outcome.next ((arriveFrom_fanout h hrecs).trans (serveRecord_of_stale (s := count none 4 5 1 s) _ _ hopen hreset hnone)), rfl, rfl⟩
  · exact ⟨_, congrArg Host.Outcome.next ((arriveFrom_fanout h hrecs).trans ((serveRecord_of_epoch (s := count none 4 5 1 s) _ _ hopen hreset hb).trans
      (serveUnder_of_retired (s := count none 4 5 1 s) _ _ b _ hsnap))), rfl⟩
  · exact ⟨_, congrArg Host.Outcome.next ((arriveFrom_fanout h hrecs).trans ((serveRecord_of_epoch (s := count none 4 5 1 s) _ _ hopen hreset hb).trans
      (serveUnder_of_other (s := count none 4 5 1 s) _ hsnap hsweep hother))), rfl⟩
  · obtain ⟨t, hkeep, hserve⟩ := serveUnder_of_own (s := count none 4 5 1 s) m.src hsnap hsweep hown hne
    refine ⟨_, _, congrArg Host.Outcome.next ((arriveFrom_fanout h hrecs).trans ((serveRecord_of_epoch (s := count none 4 5 1 s) _ _ hopen hreset hb).trans hserve)),
      congrArg (fun x : Scan => x.queries ++ _) hkeep.scan, rfl, rfl, rfl, rfl, rfl, rfl, rfl, rfl, rfl, congrArg Clock.hfn hkeep.clk, hkeep.out, hkeep.works⟩
  · exact congrArg Host.Outcome.next (arriveFrom_of_bad (by decide) (by decide) hhears hepoch hbad)
  · refine ⟨_, _, congrArg Host.Outcome.next ((arriveFrom_partial h).trans ?_), query?_modQuery (g := fun q => { q with
      parts := q.parts ++ [readPart m.src m.body], awaitNodes := q.awaitNodes.erase r, shadowed := q.shadowed || (field m.body 9 1).testBit 3 })
      (fun _ => rfl) ((id_of_query? hq).symm ▸ hq), rfl, rfl⟩
    rw [takePartial_of_query hq hpv horigin hover, hr]
    exact if_neg hst
  · refine congrArg Host.Outcome.next ((arriveFrom_partial h).trans ?_)
    rw [takePartial_of_query hq hpv horigin hover, List.find?_eq_none.2 fun r hr => by simp [hnone r hr]]
  · exact congrArg Host.Outcome.next ((arriveFrom_partial h).trans (takePartial_of_none _ hnone))

end Sys2Proof.Machine

/-! # Ingest messages -/

namespace Sys2Proof.Machine
-- The whole text is compiled by one process of limited memory: one proof at a time keeps it small.
set_option Elab.async false

/-! ## Pre-notices -/

/-- An ingest message is handed over by its kind. -/
theorem arriveFrom_ingest {s : State} {m : JMsg} (h : s.takesMsg jIngest m) : arriveFrom jIngest m s =
    match field m.body 0 1 with
    | 0 => doPreElem m.src m.pv m.body s
    | 1 => doPreEid m.src m.pv m.body s
    | 2 => doPreAck m.src m.body s
    | 3 => doFrameMark m.src m.pv m.body s
    | _ => doCommitAck m.src m.body s := by
  rw [arriveFrom_of_takes (by decide) h]
  unfold handOver
  dsimp only
  rw [h.2.1, if_neg (by decide), if_neg (by decide), if_neg (by decide), if_neg (by decide), if_neg (by decide)] <;> rfl

theorem exec_preElem {s : State} {m : JMsg} (h : s.takesMsg jIngest m) (hsub : field m.body 0 1 = 0) :
    exec (.preElem m) s = .next (doPreElem m.src m.pv m.body s) := by
  refine congrArg Host.Outcome.next ((if_pos (by simpa using hsub)).trans ((arriveFrom_ingest h).trans ?_))
  rw [hsub] <;> rfl

theorem exec_preEid {s : State} {m : JMsg} (h : s.takesMsg jIngest m) (hsub : field m.body 0 1 = 1) :
    exec (.preEid m) s = .next (doPreEid m.src m.pv m.body s) := by
  refine congrArg Host.Outcome.next ((if_pos (by simpa using hsub)).trans ((arriveFrom_ingest h).trans ?_))
  rw [hsub] <;> rfl

theorem exec_preAck {s : State} {m : JMsg} (h : s.takesMsg jIngest m) (hsub : field m.body 0 1 = 2) :
    exec (.preAck m) s = .next (doPreAck m.src m.body s) := by
  refine congrArg Host.Outcome.next ((if_pos (by simpa using hsub)).trans ((arriveFrom_ingest h).trans ?_))
  rw [hsub] <;> rfl

theorem exec_frameMark {s : State} {m : JMsg} (h : s.takesMsg jIngest m) (hsub : field m.body 0 1 = 3) :
    exec (.frameMark m) s = .next (doFrameMark m.src m.pv m.body s) := by
  refine congrArg Host.Outcome.next ((if_pos (by simpa using hsub)).trans ((arriveFrom_ingest h).trans ?_))
  rw [hsub] <;> rfl

theorem exec_commitAck {s : State} {m : JMsg} (h : s.takesMsg jIngest m) (hsub : field m.body 0 1 = 4) :
    exec (.commitAck m) s = .next (doCommitAck m.src m.body s) := by
  refine congrArg Host.Outcome.next ((if_pos (by simpa using hsub)).trans ((arriveFrom_ingest h).trans ?_))
  rw [hsub] <;> rfl

/-- Nothing is staged for a batch. -/
def State.nothingStaged (s : State) (id : Nat) : Prop := ∀ x ∈ s.upd.staged, x.id ≠ id

theorem staged_filter_of_nothing {s : State} {id : Nat} (h : s.nothingStaged id) (sel : Staged → Bool) :
    (s.upd.staged.filter fun x => x.id == id && sel x) = [] :=
  List.filter_eq_nil_iff.2 fun x hx => by simp [h x hx]

theorem doPreElem_of_new {s : State} {src p : Nat} {body : List Byte} (h : s.nothingStaged (field body 8 8)) : doPreElem src p body s =
    if !s.alignOpen then s else match (s.corpus p).cur with
    | none => sendPreAck src p (field body 8 8) .ok [] s
    | some cur =>
      match reserveElems p false ((parseElems cur ((s.corpus p).stgAt s.hfn) (field body 16 2) (body.drop 24)).filter (·.heldBy s.comp.map p s.node)) s with
      | none => sendPreAck src p (field body 8 8) .quota [] s
      | some (es', t) =>
        if es'.all fun e => poolRoom t p e.vers (e.payload != []) == .ok then
          sendPreAck src p (field body 8 8) .ok []
            ((es'.foldl (fun t e => writeElem p e t) t).stage src p (field body 8 8) false es' (readRec (body.drop 24)).ver)
        else sendPreAck src p (field body 8 8) .quota [] s := by
  unfold doPreElem
  dsimp only
  rw [staged_filter_of_nothing h] <;> rfl

/-- Elements of a pre-notice that fit are written and staged; others are answered QUOTA. -/
theorem doPreElem_of_epoch {s : State} {src p : Nat} {body : List Byte} {cur : Bundle} (h : s.nothingStaged (field body 8 8)) (hopen : s.alignOpen = true)
    (hcur : (s.corpus p).cur = some cur) : doPreElem src p body s =
      match reserveElems p false ((parseElems cur ((s.corpus p).stgAt s.hfn) (field body 16 2) (body.drop 24)).filter (·.heldBy s.comp.map p s.node)) s with
      | none => sendPreAck src p (field body 8 8) .quota [] s
      | some (es', t) =>
        if es'.all fun e => poolRoom t p e.vers (e.payload != []) == .ok then
          sendPreAck src p (field body 8 8) .ok []
            ((es'.foldl (fun t e => writeElem p e t) t).stage src p (field body 8 8) false es' (readRec (body.drop 24)).ver)
        else sendPreAck src p (field body 8 8) .quota [] s := by
  rw [doPreElem_of_new h, if_neg (by simp [hopen]), hcur]

theorem doPreEid_of_new {s : State} {src p : Nat} {body : List Byte} (h : s.nothingStaged (field body 8 8)) (hdel : field body 18 1 = 0) :
    doPreEid src p body s = if !s.alignOpen then s else sendPreAck src p (field body 8 8) .ok [] (s.stage src p (field body 8 8) false
      (((List.range (field body 16 2)).map fun i => field body (24 + 8 * i) 8).map fun e => ⟨e, 0, [], [], [], [], false, false⟩) 0) := by
  unfold doPreEid
  dsimp only
  rw [staged_filter_of_nothing h, hdel]
  rfl

theorem doPreEid_of_closed {s : State} (src p : Nat) {body : List Byte} (h : s.nothingStaged (field body 8 8)) (hclosed : s.alignOpen = false) :
    doPreEid src p body s = s := by
  unfold doPreEid
  dsimp only
  rw [staged_filter_of_nothing h]
  exact if_pos (by simp [hclosed])

/-! ## Acknowledgements of pre-notices -/

theorem doPreAck_of_batch {s : State} {src : Nat} {body : List Byte} {b : Batch} (hb : s.batch? (field body 8 8) = some b) : doPreAck src body s =
    if b.stage == .prep && b.await_.contains src then
      if field body 16 1 = Status.quota.code then endBatch b .quota s
      else
        let hit := (b.elems.zipIdx.filter fun x => b.del && maskHas (field body (24 + x.2 / 8) 1) (x.2 % 8)).map (·.1.eid)
        modBatch b.id (fun b =>
          { b with
            await_ := b.await_.erase src
            seen := dedupKeep (b.seen ++ hit)
            hits := dedupKeep (b.hits ++ hit.map fun e => (src, e))
            owners := if hit.isEmpty then b.owners else dedupKeep (b.owners ++ [src]) }) s
    else s := by
  unfold doPreAck
  rw [hb]

theorem doPreAck_of_none {s : State} (src : Nat) {body : List Byte} (hb : s.batch? (field body 8 8) = none) : doPreAck src body s = s := by
  unfold doPreAck
  rw [hb]

/-- A batch that one peer more has acknowledged. -/
def Batch.acked (src : Nat) (b : Batch) : Batch :=
  { b with await_ := b.await_.erase src, seen := dedupKeep (b.seen ++ []), hits := dedupKeep (b.hits ++ []) }

theorem doPreAck_of_ok {s : State} {src : Nat} {body : List Byte} {b : Batch} (hb : s.batch? (field body 8 8) = some b) (hstage : b.stage = .prep)
    (hawait : src ∈ b.await_) (hst : field body 16 1 ≠ Status.quota.code) (hdel : b.del = false) :
    doPreAck src body s = modBatch b.id (Batch.acked src) s := by
  have hhit : (b.elems.zipIdx.filter fun x => b.del && maskHas (field body (24 + x.2 / 8) 1) (x.2 % 8)) = [] :=
    List.filter_eq_nil_iff.2 fun x _ => by simp [hdel]
  rw [doPreAck_of_batch hb, if_pos (by simp [hstage, hawait]), if_neg hst, hhit]
  rfl

/-! ## Frame marks -/

/-- The next mark of a peer without a gap advances it. -/
theorem mark_of_next {f : Frame} {x : Peer} (hgot : x.got + 1 = f) (hlater : x.later = []) : x.mark f = { x with got := f, later := [], silent := 0 } := by
  subst hgot
  unfold Peer.mark
  rw [if_neg (Nat.not_succ_le_self _), hlater]
  unfold Peer.advance
  simp [dedupKeep, Peer.advance]

theorem doFrameMark_of_next {s : State} {src p : Nat} {body : List Byte} {c : Corpus} (hc : s.corpora[p]? = some c)
    (hpeers : ∀ x ∈ c.peers, x.node = src → x.got + 1 = field body 8 8 ∧ x.later = []) (hcount : field body 16 2 = 0) :
    doFrameMark src p body s = modCorpus p (fun c => { c with peers := mapIf (·.node == src) (Peer.mark (field body 8 8)) c.peers }) s := by
  unfold doFrameMark
  rw [hcount]
  refine if_neg ?_
  rw [corpus_of_getElem? hc, List.any_eq_true]
  rintro ⟨x, hx, hmark⟩
  simp only [Bool.and_eq_true, Bool.or_eq_true, beq_iff_eq, decide_eq_true_eq, List.contains_iff_mem] at hmark
  obtain ⟨hgot, hlater⟩ := hpeers x hx hmark.1
  rcases hmark.2 with hle | hmem
  · exact Nat.not_succ_le_self _ (hgot.symm ▸ hle)
  · rw [hlater] at hmem
    cases hmem

/-! ## Commit acknowledgements -/

theorem doCommitAck_of_batch {s : State} {src : Nat} {body : List Byte} {b : Batch} (hb : s.batch? (field body 8 8) = some b) :
    doCommitAck src body s = if b.stage == .admitted && b.owners.contains src then
      settleBatch (field body 8 8) (modBatch (field body 8 8) (fun x => { x with
        owners := x.owners.filter (· != src)
        shorts := if (b.elems.filter (b.partOn s.comp.map [src])).length - field body 16 2 = 0 then x.shorts
          else x.shorts ++ [(src, (b.elems.filter (b.partOn s.comp.map [src])).length - field body 16 2)] }) s)
    else s := by
  unfold doCommitAck
  dsimp only
  rw [hb]

/-- Settles O41: pre-notices are staged or refused, and acknowledgements and marks advance what they name. -/
theorem ingestMessages : Obligations.IngestMessages := by
  unfold Obligations.IngestMessages
  refine fun s m => ⟨fun h hclosed hnew => ⟨fun hsub => ?_, fun hsub => ?_⟩, fun h hopen hsub hnew => ⟨fun hcur => ?_, fun cur hcur => ?_⟩,
    fun h hopen hsub hnew hdel => ?_, fun h hsub => ⟨fun b hb hstage hawait => ⟨fun hst => ?_, fun hst hdel => ?_⟩, fun b hb hno => ?_, fun hb => ?_⟩,
    fun h hsub => ⟨fun hold => ?_, fun c hc hpeers hcount => ?_⟩, fun h hsub => ⟨fun b hb hstage howner hall => ?_, fun b hb hno => ?_⟩⟩
  · rw [exec_preElem h hsub, doPreElem_of_new hnew, if_pos (by simp [hclosed])]
  · rw [exec_preEid h hsub, doPreEid_of_closed _ _ hnew hclosed]
  · rw [exec_preElem h hsub, doPreElem_of_new hnew, if_neg (by simp [hopen]), hcur]
  · rw [exec_preElem h hsub, doPreElem_of_epoch hnew hopen hcur]
    intro es
    refine ⟨fun hnone => ?_, fun es' t hsome hroom => ?_, fun es' t hsome hroom => ?_⟩
    · rw [hnone]
    · rw [hsome]
      exact congrArg Host.Outcome.next (if_pos (List.all_eq_true.2 fun e he => by simp [hroom e he]))
    · rw [hsome]
      refine congrArg Host.Outcome.next (if_neg ?_)
      obtain ⟨e, he, hne⟩ := hroom
      rw [List.all_eq_true]
      exact fun hall => hne (by simpa using hall e he)
  · rw [exec_preEid h hsub, doPreEid_of_new hnew hdel, if_neg (by simp [hopen])]
    exact ⟨_, rfl, rfl, rfl, rfl, rfl, rfl, by simp⟩
  · rw [exec_preAck h hsub, doPreAck_of_batch hb, if_pos (by simp [hstage, hawait]), if_pos hst]
  · rw [exec_preAck h hsub, doPreAck_of_ok hb hstage hawait hst hdel]
    exact ⟨_, _, rfl, batch?_modBatch (g := Batch.acked m.src) (fun _ => rfl) ((id_of_batch? hb).symm ▸ hb), rfl, rfl, rfl, hstage, rfl⟩
  · rw [exec_preAck h hsub, doPreAck_of_batch hb, if_neg]
    rcases hno with h | h <;> simp [h]
  · rw [exec_preAck h hsub, doPreAck_of_none _ hb]
  · rw [exec_frameMark h hsub]
    refine congrArg Host.Outcome.next (if_pos ?_)
    obtain ⟨x, hx, hnode, hle⟩ := hold
    exact List.any_eq_true.2 ⟨x, hx, by simp [hnode, hle]⟩
  · rw [exec_frameMark h hsub, doFrameMark_of_next hc hpeers hcount]
    refine congrArg Host.Outcome.next (modCorpus_of_getElem? hc (congrArg (fun ps : List Peer => { c with peers := ps })
      (List.map_congr_left fun x hx => ?_)))
    by_cases hnode : (x.node == m.src) = true
    · obtain ⟨hgot, hlater⟩ := hpeers x hx (by simpa using hnode)
      rw [if_pos hnode, if_pos hnode, mark_of_next hgot hlater]
    · rw [if_neg hnode, if_neg hnode]
  · rw [exec_commitAck h hsub, doCommitAck_of_batch hb, if_pos (by simp [hstage, howner]), Nat.sub_eq_zero_of_le hall]
    rfl
  · rw [exec_commitAck h hsub, doCommitAck_of_batch hb, if_neg]
    rcases hno with h | h <;> simp [h]

end Sys2Proof.Machine

/-! # Windows, queue pairs and RDMA -/

namespace Sys2Proof.Machine
-- The whole text is compiled by one process of limited memory: one proof at a time keeps it small.
set_option Elab.async false

/-! ## Commands of the Grounds channels -/

theorem groundsBlock_of_takes {s : State} {p cmd least : Nat} {b : List Byte} (f : Nat → List Byte → State → State) (h : s.groundsTakes p cmd)
    (hlen : blockLen least (some b) ≠ none) :
    groundsBlock (2 + p) cmd least (some b) f s = f (s.blkAddr (2 + p)) b (s.blockRead (2 + p) b.length) :=
  groundsBlock_of_good f h.1 h.2.1 h.2.2 hlen

theorem groundsImm_of_takes {s : State} {p cmd : Nat} (f : Nat → State → State) (h : s.groundsTakes p cmd) :
    groundsImm (2 + p) cmd f s = f (wordArg (s.chan (2 + p)).word) s := by
  obtain ⟨hlive, hwaits, hword⟩ := h
  unfold groundsImm
  rw [hlive, hwaits, hword]
  rfl

theorem groundsBlock_of_dead {s : State} (c cmd least : Nat) (blk : Option (List Byte)) (f : Nat → List Byte → State → State) (h : s.live = false) :
    groundsBlock c cmd least blk f s = s := if_neg (by simp [h])

theorem groundsImm_of_dead {s : State} (c cmd : Nat) (f : Nat → State → State) (h : s.live = false) : groundsImm c cmd f s = s := if_neg (by simp [h])

/-- An acknowledged command leaves its channel free. -/
theorem full_chanAck (c rc : Nat) (s : State) : ((chanAck c rc s).chan c).full = false := by
  unfold chanAck
  dsimp only
  by_cases hfull : (s.chan c).full = true
  · have hc : c < s.chans.length := by
      by_contra hc
      unfold State.chan at hfull
      rw [List.getD_eq_default _ _ (Nat.not_lt.1 hc)] at hfull
      cases hfull
    have hmod : ((modChan c (fun x => { x with full := false, ackValid := true, ret := rc, taken := false }) s).chan c).full = false :=
      congrArg Chan.full (getD_modifyAt_self _ _ _ _ hc)
    rw [if_pos hfull]
    split
    · exact (congrArg (fun cs : List Chan => (cs.getD c Chan.reset).full) (fire_keeps ..).chans).trans hmod
    · exact hmod
  · rw [if_neg hfull]
    simpa using hfull

/-! ## Windows -/

theorem exportWindow_of_taken {s : State} {c p no first n : Nat} (ro : Bool) (addr : Nat)
    (h : s.window? p no ≠ none ∨ pinRoom (s.range p) first n = false) : exportWindow c p no first n ro addr s = chanAck c rcRefused s := by
  refine if_pos ?_
  rcases h with h | h
  · simp [Option.isSome_iff_ne_none.2 h]
  · simp [h]

/-- The window is exported under a key drawn for it, and the command answered. -/
def State.exported (s : State) (c p no first n : Nat) (ro : Bool) (addr : Nat) : State :=
  let key := (draw s).1 % 2 ^ 22 * 1024 + 64 * p + no
  chanAck c rcOk (blockOut c addr key (modFab (fun f => { f with windows := f.windows ++ [⟨p, no, first * pageSize, n, ro, key⟩] })
    (pinWindow p first n true (draw s).2)))

theorem exportWindow_of_ready {s u : State} {c p no first n : Nat} (ro : Bool) (addr : Nat) (hnew : s.window? p no = none)
    (hroom : pinRoom (s.range p) first n = true) (h : allIntoT1 p ((List.range n).map (first + ·)) s = (.ready, u)) :
    exportWindow c p no first n ro addr s = u.exported c p no first n ro addr := by
  unfold exportWindow
  rw [if_neg (by simp [hnew, hroom]), h]
  rfl

theorem exportWindow_of_wait {s u : State} {c p no first n : Nat} (ro : Bool) (addr : Nat) (hnew : s.window? p no = none)
    (hroom : pinRoom (s.range p) first n = true) (h : allIntoT1 p ((List.range n).map (first + ·)) s = (.wait, u)) :
    exportWindow c p no first n ro addr s = u := by
  unfold exportWindow
  rw [if_neg (by simp [hnew, hroom]), h]

theorem exported_windows (s : State) (c p no first n : Nat) (ro : Bool) (addr : Nat) : ∃ key, (s.exported c p no first n ro addr).fab.windows =
    s.fab.windows ++ [⟨p, no, first * pageSize, n, ro, key⟩] := by
  refine ⟨(draw s).1 % 2 ^ 22 * 1024 + 64 * p + no, ?_⟩
  unfold State.exported
  rw [(chanAck_keeps ..).fab, (blockOut_keeps ..).fab]
  exact congrArg (fun f : Fabric => f.windows ++ _) (pinWindow_keeps ..).fab

/-- The fields of a WIN_EXPORT block are in range. -/
def winArgsOk (b : List Byte) : Prop :=
  field b 16 1 < 64 ∧ field b 17 1 ≤ 1 ∧ field b 32 4 ≠ 0 ∧ field b 24 8 % pageSize = 0 ∧ field b 24 8 + field b 32 4 * pageSize ≤ hostAreaEnd

theorem doWinExport_of_takes {s : State} {p : Nat} {b : List Byte} (h : s.groundsTakes p 0x40) (hlen : blockLen 64 (some b) ≠ none) :
    doWinExport p (some b) s = if !(zeroAt b 18 6 && zeroAt b 36 28) then chanAck (2 + p) rcBadBlock (s.blockRead (2 + p) b.length)
      else if decide (64 ≤ field b 16 1) || decide (1 < field b 17 1) || field b 32 4 == 0 || field b 24 8 % pageSize != 0 ||
          decide (hostAreaEnd < field b 24 8 + field b 32 4 * pageSize) then chanAck (2 + p) rcBadArg (s.blockRead (2 + p) b.length)
      else exportWindow (2 + p) p (field b 16 1) (field b 24 8 / pageSize) (field b 32 4) (field b 17 1 == 1) (s.blkAddr (2 + p))
        (s.blockRead (2 + p) b.length) := groundsBlock_of_takes _ h hlen

theorem doWinExport_of_good {s : State} {p : Nat} {b : List Byte} (h : s.groundsTakes p 0x40) (hlen : blockLen 64 (some b) ≠ none)
    (h1 : zeroAt b 18 6 = true) (h2 : zeroAt b 36 28 = true) (hargs : winArgsOk b) : doWinExport p (some b) s =
      exportWindow (2 + p) p (field b 16 1) (field b 24 8 / pageSize) (field b 32 4) (field b 17 1 == 1) (s.blkAddr (2 + p))
        (s.blockRead (2 + p) b.length) := by
  obtain ⟨hno, hro, hn, hstart, hend⟩ := hargs
  rw [doWinExport_of_takes h hlen, if_neg (by simp [h1, h2]), if_neg]
  simp only [Bool.or_eq_true, decide_eq_true_eq, beq_iff_eq, bne_iff_ne]
  omega

/-! ## Queue pairs -/

/-- The Grounds have read a QP_CREATE block whose fields are in range: the first free slot gives the queue pair its number. -/
def State.qpCreated (s : State) (p addr : Nat) (b : List Byte) : State :=
  match (List.range 1024).find? fun i => !s.fab.qps.any fun q => q.qpn % 1024 == i with
  | none => chanAck (2 + p) rcNoSpace s
  | some i =>
    if 256 ≤ (s.fab.qps.filter (·.pv == p)).length then chanAck (2 + p) rcNoSpace s
    else
      chanAck (2 + p) rcOk (blockOut (2 + p) addr ((draw s).1 % 2 ^ 14 * 1024 + i) (modFab (fun f => { f with
        qps := f.qps ++ [⟨p, (draw s).1 % 2 ^ 14 * 1024 + i, slice b 16 16, field b 32 4, field b 36 4, field b 40 4, pathMtu (field b 44 1),
          field b 45 1, field b 48 8, false, 1, 1, 2, false, 3⟩] }) (draw s).2))

theorem doQpCreate_of_takes {s : State} {p : Nat} {b : List Byte} (h : s.groundsTakes p 0x42) (hlen : blockLen 64 (some b) ≠ none)
    (h1 : zeroAt b 46 2 = true) (h2 : zeroAt b 56 8 = true) : doQpCreate p (some b) s =
      if decide (2 ^ 24 ≤ field b 32 4) || decide (2 ^ 24 ≤ field b 36 4) || decide (2 ^ 24 ≤ field b 40 4) || pathMtu (field b 44 1) == 0 ||
        decide (20 ≤ field b 45 1) then chanAck (2 + p) rcBadArg (s.blockRead (2 + p) b.length)
      else (s.blockRead (2 + p) b.length).qpCreated p (s.blkAddr (2 + p)) b := by
  unfold doQpCreate
  dsimp only
  rw [groundsBlock_of_takes _ h hlen, if_neg (by simp [h1, h2])]
  refine congrArg (ite _ _) ?_
  generalize s.blockRead (2 + p) b.length = u
  unfold State.qpCreated
  generalize (List.range 1024).find? (fun i => !u.fab.qps.any fun q => q.qpn % 1024 == i) = slot
  cases slot <;> rfl

theorem doQpCreate_of_none {s : State} {p : Nat} (h : s.groundsTakes p 0x42) :
    doQpCreate p none s = chanAck (2 + p) rcBadBlock (s.blockRead (2 + p) 64) := by
  unfold doQpCreate
  exact groundsBlock_of_none _ h.1 h.2.1 h.2.2

theorem doQpCreate_of_dead {s : State} (p : Nat) (blk : Option (List Byte)) (h : s.live = false) : doQpCreate p blk s = s := by
  unfold doQpCreate
  exact groundsBlock_of_dead _ _ _ _ _ h

/-- The fields of a QP_CREATE block are in range. -/
def qpArgsBad (b : List Byte) : Bool :=
  decide (2 ^ 24 ≤ field b 32 4) || decide (2 ^ 24 ≤ field b 36 4) || decide (2 ^ 24 ≤ field b 40 4) || pathMtu (field b 44 1) == 0 ||
    decide (20 ≤ field b 45 1)

theorem qpArgsBad_iff (b : List Byte) : qpArgsBad b = true ↔ 0x1000000 ≤ field b 32 4 ∨ 0x1000000 ≤ field b 36 4 ∨ 0x1000000 ≤ field b 40 4 ∨
    pathMtu (field b 44 1) = 0 ∨ 20 ≤ field b 45 1 := by
  unfold qpArgsBad
  simp only [Bool.or_eq_true, decide_eq_true_eq, beq_iff_eq, or_assoc]
  exact Iff.rfl

theorem doQpCreate_of_full {s : State} {p : Nat} {b : List Byte} (h : s.groundsTakes p 0x42) (hlen : blockLen 64 (some b) ≠ none)
    (h1 : zeroAt b 46 2 = true) (h2 : zeroAt b 56 8 = true) (hargs : qpArgsBad b = false) (hfull : 256 ≤ (s.fab.qps.filter (·.pv == p)).length) :
    doQpCreate p (some b) s = chanAck (2 + p) rcNoSpace (s.blockRead (2 + p) b.length) := by
  refine (doQpCreate_of_takes h hlen h1 h2).trans ((if_neg (fun hbad => Bool.false_ne_true (hargs.symm.trans hbad))).trans ?_)
  unfold State.qpCreated
  split
  · rfl
  · exact if_pos hfull

/-- A free slot of the queue pairs' table gives a number that no queue pair has. -/
theorem qpn_free {qps : List Qp} {i v : Nat} (h : (List.range 1024).find? (fun i => !qps.any fun q => q.qpn % 1024 == i) = some i) :
    ∀ x ∈ qps, x.qpn ≠ v * 1024 + i := by
  intro x hx hqpn
  have hi : i < 1024 := List.mem_range.1 (List.mem_of_find?_eq_some h)
  have hnone := List.find?_some h
  simp only [Bool.not_eq_true', List.any_eq_false, beq_iff_eq] at hnone
  exact hnone x hx (by omega)

theorem qpSlot_of_free {qps : List Qp} (h : ∃ i, i < 1024 ∧ ∀ x ∈ qps, x.qpn % 1024 ≠ i) :
    ∃ i, (List.range 1024).find? (fun i => !qps.any fun q => q.qpn % 1024 == i) = some i := by
  obtain ⟨i, hi, hfree⟩ := h
  refine Option.isSome_iff_exists.1 (List.find?_isSome.2 ⟨i, List.mem_range.2 hi, ?_⟩)
  simpa using hfree

theorem doQpCreate_of_room {s : State} {p i : Nat} {b : List Byte} (h : s.groundsTakes p 0x42) (hlen : blockLen 64 (some b) ≠ none)
    (h1 : zeroAt b 46 2 = true) (h2 : zeroAt b 56 8 = true) (hargs : qpArgsBad b = false) (hroom : (s.fab.qps.filter (·.pv == p)).length < 256)
    (hslot : (List.range 1024).find? (fun i => !s.fab.qps.any fun q => q.qpn % 1024 == i) = some i) :
    (doQpCreate p (some b) s).fab.qps = s.fab.qps ++ [⟨p, (draw s).1 % 2 ^ 14 * 1024 + i, slice b 16 16, field b 32 4, field b 36 4, field b 40 4,
      pathMtu (field b 44 1), field b 45 1, field b 48 8, false, 1, 1, 2, false, 3⟩] := by
  have hdo := (doQpCreate_of_takes h hlen h1 h2).trans (if_neg (fun hbad => Bool.false_ne_true (hargs.symm.trans hbad)))
  have hslot' : (List.range 1024).find? (fun i => !(s.blockRead (2 + p) b.length).fab.qps.any fun q => q.qpn % 1024 == i) = some i := hslot
  have hroom' : ¬ 256 ≤ ((s.blockRead (2 + p) b.length).fab.qps.filter (·.pv == p)).length := Nat.not_le.2 hroom
  unfold State.qpCreated at hdo
  rw [hslot'] at hdo
  dsimp only at hdo
  rw [hdo, if_neg hroom', (chanAck_keeps ..).fab, (blockOut_keeps ..).fab]
  rfl

/-! ## Requests on a queue pair -/

theorem roceSend_of_carries {s : State} {q : Qp} (what : String) (body : List Byte) (h : (s.fab.ports.getD q.port Port.reset).carries = true) :
    roceSend q what body s = chargeLink q.port q.pv body.length { s with out := s.out ++ [.roce q.qpn what body] } := if_pos h

theorem roceCe_of_plain (q : Qp) (s : State) : roceCe q false s = s := if_neg (by simp)

/-- The queue pair has taken a request of `n` bytes in order. -/
def State.roceTaken (s : State) (q : Qp) (n : Nat) : State := modQp q.qpn (fun x => { x with recvPsn := (q.recvPsn + packetsOf q.mtu n) % 2 ^ 24 }) s

theorem roceOrder_of_next (q : Qp) (n : Nat) (again f : State → State) (s : State) : roceOrder q q.recvPsn n again f s = f (s.roceTaken q n) :=
  if_pos (by simp)

theorem roceOrder_of_gap {q : Qp} {psn : Nat} (n : Nat) (again f : State → State) (s : State) (h0 : 0 < (psn + 0x1000000 - q.recvPsn) % 0x1000000)
    (h1 : (psn + 0x1000000 - q.recvPsn) % 0x1000000 < 0x800000) : roceOrder q psn n again f s = roceSend q "NAK PSN" (leBytes 4 q.recvPsn) s :=
  (if_neg (Nat.ne_of_gt h0)).trans (if_neg (Nat.not_le.2 h1))

/-- What the rules of requests need of a queue pair that is ready. -/
theorem qpn_of_ready {s : State} {qpn : Nat} {q : Qp} (h : s.qpReady qpn q) : q.qpn = qpn := by
  obtain ⟨-, -, hq, -⟩ := h
  have hfound := List.find?_some hq
  simp only [Bool.and_eq_true, beq_iff_eq] at hfound
  exact hfound.1

theorem doRdmaRead_of_ready {s : State} {qpn : Nat} {q : Qp} (rkey va len psn : Nat) (h : s.qpReady qpn q) : doRdmaRead qpn rkey va len psn false s =
    roceOrder q psn len (roceRead q rkey va len) (roceRead q rkey va len) s := by
  obtain ⟨hlive, hflush, hq, -⟩ := h
  unfold doRdmaRead
  rw [hq]
  dsimp only
  rw [if_pos (by simp [hlive, hflush]), roceCe_of_plain]

theorem doRdmaWrite_of_ready {s : State} {qpn : Nat} {q : Qp} (rkey va : Nat) (data : List Byte) (psn : Nat) (h : s.qpReady qpn q) :
    doRdmaWrite qpn rkey va data psn false s = roceOrder q psn data.length (roceSend q "ACK" []) (roceWrite q rkey va data) s := by
  obtain ⟨hlive, hflush, hq, -⟩ := h
  unfold doRdmaWrite
  rw [hq]
  dsimp only
  rw [if_pos (by simp [hlive, hflush]), roceCe_of_plain]

theorem doRoceBad_of_ready {s : State} {qpn : Nat} {q : Qp} (access : Bool) (h : s.qpReady qpn q) :
    doRoceBad qpn access s = roceSend q (if access then "NAK REMOTE ACCESS" else "NAK INVALID REQUEST") [] s := by
  obtain ⟨hlive, hflush, hq, -⟩ := h
  unfold doRoceBad
  rw [hq]
  exact if_pos (by simp [hlive, hflush])

theorem roceRead_of_window {s : State} {q : Qp} {rkey va len : Nat} {w : Window} (hlen : len ≤ 0x40000000)
    (hw : rocWindow s q rkey va len false = some w) (hpages : ∀ no ∈ blocksIn pageSize va len, (((s.range q.pv).page no).st.inT1 = true ∨
      ((s.range q.pv).page no).st = .unwritten) ∧ ((s.range q.pv).page no).errs = []) :
    roceRead q rkey va len s = roceSend q "READ RESPONSE" ((s.range q.pv).read va len) (touch q.pv va len s) := by
  unfold roceRead
  rw [if_neg (show ¬ 2 ^ 30 < _ from Nat.not_lt.2 hlen), hw]
  dsimp only
  rw [readFor_of_high 0 (fun no hno => (hpages no hno).1) fun no hno => (hpages no hno).2]

theorem roceRead_of_none {s : State} {q : Qp} {rkey va len : Nat} (hlen : len ≤ 0x40000000) (hw : rocWindow s q rkey va len false = none) :
    roceRead q rkey va len s = roceSend q "NAK REMOTE ACCESS" [] s := by
  unfold roceRead
  rw [if_neg (show ¬ 2 ^ 30 < _ from Nat.not_lt.2 hlen), hw]

theorem roceWrite_of_window {s u : State} {q : Qp} {rkey va : Nat} {data : List Byte} {w : Window} (hlen : data.length ≤ 0x40000000)
    (hw : rocWindow s q rkey va data.length true = some w) (hwrite : writeBack q.pv va data s = (.ready, u)) :
    roceWrite q rkey va data s = roceSend q "ACK" [] u := by
  unfold roceWrite
  rw [if_neg (show ¬ 2 ^ 30 < _ from Nat.not_lt.2 hlen), hw]
  dsimp only
  rw [hwrite]

theorem roceWrite_of_none {s : State} {q : Qp} {rkey va : Nat} {data : List Byte} (hlen : data.length ≤ 0x40000000)
    (hw : rocWindow s q rkey va data.length true = none) : roceWrite q rkey va data s = roceSend q "NAK REMOTE ACCESS" [] s := by
  unfold roceWrite
  rw [if_neg (show ¬ 2 ^ 30 < _ from Nat.not_lt.2 hlen), hw]

theorem find?_modQp {s : State} {qpn : Nat} {q : Qp} {g : Qp → Qp} (hg : ∀ x, (g x).qpn = x.qpn) (h : s.fab.qps.find? (·.qpn == qpn) = some q) :
    (modQp qpn g s).fab.qps.find? (·.qpn == qpn) = some (g q) := by
  have hid : q.qpn = qpn := by simpa using List.find?_some h
  refine (find?_mapIf (·.qpn == qpn) (·.qpn == qpn) g (fun x => by rw [hg]) s.fab.qps).trans ?_
  rw [h]
  simp [hid]

/-- The rate of a queue pair that a CNP has just cut. -/
def Qp.cut (q : Qp) : Qp := { q with
  cnpSeen := true, rate := max (q.rate * (1 - q.alpha / 2)) (1 / 1024), alpha := q.alpha + (1 - q.alpha) / 16, sinceCut := 0 }

/-- A queue pair that is alone under its number is changed as it itself is. -/
theorem modQp_of_only {s : State} {qpn : Nat} {q : Qp} {f g : Qp → Qp} (honly : ∀ x ∈ s.fab.qps, x.qpn = qpn → x = q) (hfg : f q = g q) :
    modQp qpn f s = modQp qpn g s := by
  have hmap : mapIf (·.qpn == qpn) f s.fab.qps = mapIf (·.qpn == qpn) g s.fab.qps := by
    refine List.map_congr_left fun x hx => ?_
    by_cases hqpn : (x.qpn == qpn) = true
    · rw [if_pos hqpn, if_pos hqpn, honly x hx (by simpa using hqpn), hfg]
    · rw [if_neg hqpn, if_neg hqpn]
  exact congrArg (fun qps : List Qp => ({ s with fab := { s.fab with qps := qps } } : State)) hmap

theorem doCnp_of_only {s : State} {qpn : Nat} {q : Qp} {g : Qp → Qp} (hlive : s.live = true) (hflush : s.flushing = false)
    (honly : ∀ x ∈ s.fab.qps, x.qpn = qpn → x = q) (hg : (if q.sinceCut < 2 then { q with cnpSeen := true } else q.cut) = g q) :
    doCnp qpn s = modQp qpn g s := (if_pos (by simp [hlive, hflush])).trans (modQp_of_only honly hg)

/-- Settles O42: windows and queue pairs are made and taken away, and requests on them are served, refused or paced. -/
theorem windowsAndRdma : Obligations.WindowsAndRdma := by
  unfold Obligations.WindowsAndRdma
  refine ⟨fun s p => ⟨fun h => ⟨?_, fun b hlen => ⟨fun hresv => ?_, fun h1 h2 => ⟨fun hbad => ?_, fun hno hro hn hstart hend =>
      ⟨fun htaken => ?_, fun u hnew hroom hready => ?_, fun u hnew hroom hwait => ?_⟩⟩⟩⟩, fun h => ⟨fun hbig => ?_, fun hsmall => ⟨fun hnone => ?_, fun w hw => ?_⟩⟩,
    fun h => ⟨?_, fun b hlen h1 h2 => ⟨fun hbad => ?_, fun ha hb hc hmtu hport => ⟨fun hfull => ?_, fun hroom hslot => ?_⟩⟩⟩,
    fun h => ⟨fun hbig => ?_, fun hsmall => ⟨fun hq => ?_, fun hq => ?_⟩⟩, fun blk h => ⟨?_, ?_, ?_, ?_⟩⟩,
    fun s qpn q h => ⟨fun rkey va len honly hlen => ⟨fun w hw hpages => ?_, fun hw => ?_⟩, fun rkey va data w u hlen hw hwrite => ?_,
      fun rkey va data hlen hw => ?_, fun rkey va len psn h0 h1 => ?_, ?_, ?_, fun honly => ⟨fun hcut => ?_, fun hcut => ?_⟩⟩⟩
  · exact congrArg Host.Outcome.next (groundsBlock_of_none _ h.1 h.2.1 h.2.2)
  · refine congrArg Host.Outcome.next ((doWinExport_of_takes h hlen).trans (if_pos ?_))
    rcases hresv with h' | h' <;> simp [h']
  · refine congrArg Host.Outcome.next ((doWinExport_of_takes h hlen).trans ((if_neg (by simp [h1, h2])).trans (if_pos ?_)))
    simp only [Bool.or_eq_true, decide_eq_true_eq, beq_iff_eq, bne_iff_ne, or_assoc]
    exact hbad
  · exact congrArg Host.Outcome.next ((doWinExport_of_good h hlen h1 h2 ⟨hno, hro, hn, hstart, hend⟩).trans (exportWindow_of_taken _ _ htaken))
  · obtain ⟨key, hkey⟩ := exported_windows u (2 + p.val) p.val (field b 16 1) (field b 24 8 / pageSize) (field b 32 4) (field b 17 1 == 1) (s.blkAddr (2 + p.val))
    have hfab := (allIntoT1_keeps p.val ((List.range (field b 32 4)).map (field b 24 8 / pageSize + ·)) (s.blockRead (2 + p.val) b.length)).fab
    rw [hready] at hfab
    refine ⟨_, key, congrArg Host.Outcome.next ((doWinExport_of_good h hlen h1 h2 ⟨hno, hro, hn, hstart, hend⟩).trans
      (exportWindow_of_ready _ _ hnew hroom hready)), hkey.trans ?_, full_chanAck ..⟩
    rw [show u.fab.windows = s.fab.windows from congrArg Fabric.windows hfab]
  · exact congrArg Host.Outcome.next ((doWinExport_of_good h hlen h1 h2 ⟨hno, hro, hn, hstart, hend⟩).trans
      (exportWindow_of_wait _ _ hnew hroom hwait))
  · exact congrArg Host.Outcome.next ((groundsImm_of_takes _ h).trans (if_pos hbig))
  · refine congrArg Host.Outcome.next ((groundsImm_of_takes _ h).trans ((if_neg (Nat.not_lt.2 hsmall)).trans ?_))
    rw [hnone]
  · refine congrArg Host.Outcome.next ((groundsImm_of_takes _ h).trans ((if_neg (Nat.not_lt.2 hsmall)).trans ?_))
    rw [hw]
  · exact congrArg Host.Outcome.next (doQpCreate_of_none h)
  · exact congrArg Host.Outcome.next ((doQpCreate_of_takes h hlen h1 h2).trans (if_pos ((qpArgsBad_iff b).2 hbad)))
  · have hargs : qpArgsBad b = false := Bool.eq_false_iff.2 fun hbad => by
      have := (qpArgsBad_iff b).1 hbad
      omega
    exact congrArg Host.Outcome.next (doQpCreate_of_full h hlen h1 h2 hargs hfull)
  · have hargs : qpArgsBad b = false := Bool.eq_false_iff.2 fun hbad => by
      have := (qpArgsBad_iff b).1 hbad
      omega
    obtain ⟨i, hi⟩ := qpSlot_of_free hslot
    exact ⟨_, _, rfl, doQpCreate_of_room h hlen h1 h2 hargs hroom hi, rfl, rfl, rfl, rfl, rfl, rfl, rfl, rfl, qpn_free hi⟩
  · exact congrArg Host.Outcome.next ((groundsImm_of_takes _ h).trans (if_pos hbig))
  · exact congrArg Host.Outcome.next ((groundsImm_of_takes _ h).trans ((if_neg (Nat.not_le.2 hsmall)).trans (if_pos (by simpa using hq))))
  · exact congrArg Host.Outcome.next ((groundsImm_of_takes _ h).trans ((if_neg (Nat.not_le.2 hsmall)).trans (if_neg (by simpa using hq))))
  · exact congrArg Host.Outcome.next (groundsBlock_of_dead _ _ _ _ _ h)
  · exact congrArg Host.Outcome.next (groundsImm_of_dead _ _ _ h)
  · exact congrArg Host.Outcome.next (doQpCreate_of_dead _ _ h)
  · exact congrArg Host.Outcome.next (groundsImm_of_dead _ _ _ h)
  · have hfind : s.fab.qps.find? (·.qpn == qpn) = some q := by
      rw [← List.head?_filter, honly]
      rfl
    have hqpn := qpn_of_ready h
    have hread := (doRdmaRead_of_ready rkey va len q.recvPsn h).trans ((roceOrder_of_next ..).trans
      ((roceRead_of_window (s := s.roceTaken q len) hlen hw hpages).trans (roceSend_of_carries "READ RESPONSE" _ h.2.2.2)))
    subst hqpn
    exact ⟨_, _, congrArg Host.Outcome.next hread, rfl, find?_modQp (s := s) (g := fun x => { x with
      recvPsn := (q.recvPsn + packetsOf q.mtu len) % 2 ^ 24 }) (fun _ => rfl) hfind, rfl⟩
  · have hqpn := qpn_of_ready h
    subst hqpn
    exact ⟨_, congrArg Host.Outcome.next ((doRdmaRead_of_ready rkey va len q.recvPsn h).trans ((roceOrder_of_next ..).trans
      ((roceRead_of_none (s := s.roceTaken q len) hlen hw).trans (roceSend_of_carries "NAK REMOTE ACCESS" [] h.2.2.2)))), rfl, rfl⟩
  · have hqpn := qpn_of_ready h
    subst hqpn
    have hfab : u.fab = (s.roceTaken q data.length).fab := fab_of_writeBack hwrite
    refine congrArg Host.Outcome.next ((doRdmaWrite_of_ready rkey va data q.recvPsn h).trans ((roceOrder_of_next ..).trans
      ((roceWrite_of_window (s := s.roceTaken q data.length) hlen hw hwrite).trans (roceSend_of_carries "ACK" [] ?_))))
    rw [hfab]
    exact h.2.2.2
  · have hqpn := qpn_of_ready h
    subst hqpn
    exact congrArg Host.Outcome.next ((doRdmaWrite_of_ready rkey va data q.recvPsn h).trans ((roceOrder_of_next ..).trans
      ((roceWrite_of_none (s := s.roceTaken q data.length) hlen hw).trans (roceSend_of_carries "NAK REMOTE ACCESS" [] h.2.2.2))))
  · have hqpn := qpn_of_ready h
    subst hqpn
    refine congrArg Host.Outcome.next ((doRdmaRead_of_ready rkey va len psn h).trans ((roceOrder_of_gap _ _ _ _ h0 h1).trans
      ((roceSend_of_carries "NAK PSN" _ h.2.2.2).trans ?_)))
    rw [length_leBytes]
  · have hqpn := qpn_of_ready h
    subst hqpn
    exact congrArg Host.Outcome.next ((doRoceBad_of_ready true h).trans (roceSend_of_carries "NAK REMOTE ACCESS" [] h.2.2.2))
  · have hqpn := qpn_of_ready h
    subst hqpn
    exact congrArg Host.Outcome.next ((doRoceBad_of_ready false h).trans (roceSend_of_carries "NAK INVALID REQUEST" [] h.2.2.2))
  · exact congrArg Host.Outcome.next (doCnp_of_only h.1 h.2.1 honly (if_pos hcut))
  · exact congrArg Host.Outcome.next (doCnp_of_only (g := Qp.cut) h.1 h.2.1 honly (if_neg (Nat.not_lt.2 hcut)))

end Sys2Proof.Machine

/-! # Ports, pause, key agreement, address resolution and the PTP port (section 12) -/

namespace Sys2Proof.Machine
-- The whole text is compiled by one process of limited memory: one proof at a time keeps it small.
set_option Elab.async false

/-! ## A port settles (R326, R332) -/

theorem port_of_getElem? {s : State} {port : Nat} {p : Port} (h : s.fab.ports[port]? = some p) :
    s.fab.ports.getD port Port.reset = p := by
  rw [List.getD_eq_getElem?_getD, h]; rfl

theorem getElem?_modifyAt_of_some {α : Type} {xs : List α} {i : Nat} {x : α} (g : α → α) (h : xs[i]? = some x) :
    (modifyAt xs i g)[i]? = some (g x) := by
  rw [modifyAt_eq_modify, List.getElem?_modify_eq, h]; rfl

theorem getElem?_modifyAt_of_ne {α : Type} (xs : List α) (g : α → α) {i j : Nat} (h : j ≠ i) :
    (modifyAt xs i g)[j]? = xs[j]? := by
  rw [modifyAt_eq_modify, List.getElem?_modify]
  simp [Ne.symm h]

theorem port_modPort {s : State} {port : Nat} {p : Port} (g : Port → Port) (h : s.fab.ports[port]? = some p) :
    (modPort port g s).fab.ports[port]? = some (g p) := getElem?_modifyAt_of_some g h

theorem settlePort_of_settled {s : State} {port : Nat} {p : Port} (h : s.fab.ports[port]? = some p) (hst : p.state = p.st) :
    settlePort port s = s := by
  unfold settlePort; rw [port_of_getElem? h]; exact if_pos hst

/-- A port that settles takes the state that its lanes give, and no other port changes. -/
theorem ports_settlePort {s : State} {port : Nat} {p : Port} (h : s.fab.ports[port]? = some p) :
    (settlePort port s).fab.ports = modifyAt s.fab.ports port fun p => { p with st := p.state } := by
  by_cases hst : p.state = p.st
  · rw [settlePort_of_settled h hst]
    refine (modifyAt_of_fix fun x hx => ?_).symm
    obtain rfl := Option.some.inj (h.symm.trans hx)
    rw [hst]
  · unfold settlePort
    rw [port_of_getElem? h]
    refine (congrArg State.fab (if_neg hst) |> congrArg Fabric.ports).trans ?_
    refine (congrArg Fabric.ports (nodeEvent_keeps ..).fab).trans ?_
    exact modifyAt_congr _ _ _ _ Port.reset (by rw [port_of_getElem? h])

/-- The state after a change `g` of one port that then settles. -/
theorem settlePort_modPort {s : State} {port : Nat} {p : Port} (g : Port → Port) (h : s.fab.ports[port]? = some p) :
    ∃ q, (settlePort port (modPort port g s)).fab.ports[port]? = some q ∧ q = { g p with st := (g p).state } ∧
      (∀ i, i ≠ port → (settlePort port (modPort port g s)).fab.ports[i]? = s.fab.ports[i]?) ∧
      ((g p).st = p.st → q.st = p.st → settlePort port (modPort port g s) = modPort port g s) := by
  have hg := port_modPort g h
  refine ⟨_, ?_, rfl, fun i hi => ?_, fun hst hq => settlePort_of_settled hg (hq.trans hst.symm)⟩
  · rw [ports_settlePort hg]; exact getElem?_modifyAt_of_some _ hg
  · rw [ports_settlePort hg]
    exact (getElem?_modifyAt_of_ne _ _ hi).trans (getElem?_modifyAt_of_ne _ _ hi)

theorem works_settlePort (port : Nat) (s : State) : (settlePort port s).works = s.works := (settlePort_keeps port s).works

/-! ## Lanes and lasers -/

/-- The lanes of a port after those of a mask come up or go down. -/
def Port.withLanes (mask : Nat) (up : Bool) (p : Port) : Port :=
  { p with lanes := p.lanes.zipIdx.map fun x => if maskHas mask x.2 then up else x.1 }

theorem setLanes_eq (port mask : Nat) (up : Bool) (s : State) : setLanes port mask up s = modPort port (Port.withLanes mask up) s := rfl

theorem modPort_modPort (port : Nat) (f g : Port → Port) (s : State) :
    modPort port g (modPort port f s) = modPort port (fun p => g (f p)) s := by
  unfold modPort; exact congrArg (fun ps => { s with fab := { s.fab with ports := ps } }) (modifyAt_modifyAt _ _ _ _)

theorem out_modPort_of_eq {s t : State} {port : Nat} {g : Port → Port} (h : t = modPort port g s) :
    t.out = s.out ∧ t.fab.sflows = s.fab.sflows := by subst h; exact ⟨rfl, rfl⟩

/-- The laser inputs of the lanes that come up are in range, and the error ratio starts afresh. -/
def Port.lit (mask : Nat) (p : Port) : Port :=
  { p with berDeg := false
           laser := p.laser.zipIdx.map fun x => x.1 || maskHas mask (2 * x.2) || maskHas mask (2 * x.2 + 1) }

/-- A laser input is out of range. -/
def Port.dark (input : Nat) (p : Port) : Port := { p with laser := modifyAt p.laser input fun _ => false }

section
variable {s : State} {port mask input : Nat} {p : Port}

theorem doLinkUp_of_up (hl : s.live = true) (hp : port < 20) (hg : s.fab.ports[port]? = some p) (hf : s.flushing = false)
    (he : bit p.eff 0 = true) (hc : s.side.ethClk.getD (port / 5) false = true) :
    doLinkUp port mask s = settlePort port (modPort port (fun p => (p.lit mask).withLanes mask true) s) := by
  unfold doLinkUp
  dsimp only
  rw [port_of_getElem? hg, hl, hf, decide_eq_true hp, he, hc, setLanes_eq, modPort_modPort]
  rfl

theorem doLinkUp_of_disabled (hg : s.fab.ports[port]? = some p) (h : s.flushing = true ∨ bit p.eff 0 = false) :
    doLinkUp port mask s = s := by
  unfold doLinkUp
  rw [port_of_getElem? hg]
  refine if_neg ?_
  rcases h with h | h <;> simp [h]

theorem doLinkDown_of_live (hl : s.live = true) (hp : port < 20) :
    doLinkDown port mask s = settlePort port (modPort port (Port.withLanes mask false) s) :=
  if_pos (by rw [hl, decide_eq_true hp]; rfl)

theorem doLaserLow_of_live (hl : s.live = true) (hp : port < 20) (hf : s.flushing = false) (hi : input < 2) :
    doLaserLow port input s =
      settlePort port (modPort port (fun p => (p.dark input).withLanes (3 * 4 ^ input) false) s) := by
  unfold doLaserLow
  rw [setLanes_eq, modPort_modPort]
  exact if_pos (by rw [hl, hf, decide_eq_true hp, decide_eq_true hi]; rfl)

theorem doLaserLow_of_no_input (hi : 2 ≤ input) : doLaserLow port input s = s :=
  if_neg (by simp [Nat.not_lt.mpr hi])

theorem doBer_of_carries (hl : s.live = true) (hg : s.fab.ports[port]? = some p) (hc : p.carries = true) :
    doBer port s = settlePort port (modPort port (fun p => { p with berDeg := true }) s) :=
  if_pos (by rw [hl, port_of_getElem? hg, hc]; rfl)

theorem doBer_of_down (hg : s.fab.ports[port]? = some p) (hc : p.carries = false) : doBer port s = s :=
  if_neg (by rw [port_of_getElem? hg, hc]; simp)

/-! ## Pause (R347, R349) -/

theorem doPfc_of_pfc (prio : Nat) (on : Bool) (hl : s.live = true) (hg : s.fab.ports[port]? = some p) (hc : p.carries = true)
    (he : bit p.eff 2 = true) :
    doPfc port prio on s = modPort port
      (fun p => { p with pause := modifyAt p.pause prio fun x => (on, if on then x.2.1 else 0, x.2.2) }) s := by
  unfold doPfc; rw [port_of_getElem? hg]
  exact if_pos (by rw [hl, hc, he]; rfl)

theorem doPfc_of_none (prio : Nat) (on : Bool) (hg : s.fab.ports[port]? = some p) (h : p.carries = false ∨ bit p.eff 2 = false) :
    doPfc port prio on s = s := by
  unfold doPfc; rw [port_of_getElem? hg]
  refine if_neg ?_
  rcases h with h | h <;> simp [h]

theorem ports_dropQueued (port : Nat) (s : State) : (dropQueued port s).fab.ports = s.fab.ports := rfl

/-- A port whose pause of a priority is no longer honoured. -/
def Port.unpaused (prio : Nat) (p : Port) : Port :=
  { p with wdogDeg := true, pause := modifyAt p.pause prio fun x => (x.1, x.2.1, some 0) }

/-- The state in which the watchdog has discarded what the priority had queued. -/
def wdogDrop (port prio : Nat) (p : Port) (s : State) : State :=
  modFab (fun f => { f with pfcWdog := true }) (if fld p.eff 8 6 = prio then dropQueued port s else s)

theorem ports_wdogDrop (prio : Nat) (p : Port) (s : State) : (wdogDrop port prio p s).fab.ports = s.fab.ports := by
  unfold wdogDrop; split <;> rfl

theorem pfcWdog_wdogDrop (prio : Nat) (p : Port) (s : State) : (wdogDrop port prio p s).fab.pfcWdog = true := rfl

theorem doPfcWatch_of_due {prio n : Nat} (hl : s.live = true) (hg : s.fab.ports[port]? = some p)
    (hx : p.pause[prio]? = some (true, n, none)) (hn : 5000 ≤ n) :
    doPfcWatch port prio s = (if p.st = 1 then settlePort port (modPort port (Port.unpaused prio) (wdogDrop port prio p s))
      else nodeEvent evLink (leBytes 1 port ++ leBytes 1 2 ++ leBytes 1 p.lanesUp)
        (modPort port (Port.unpaused prio) (wdogDrop port prio p s))) := by
  unfold doPfcWatch
  dsimp only
  rw [port_of_getElem? hg, List.getD_eq_getElem?_getD, hx]
  exact if_pos (by simp [hl, hn])

theorem doPfcWatch_of_early {prio n : Nat} {on : Bool} (hg : s.fab.ports[port]? = some p)
    (hx : p.pause[prio]? = some (on, n, none)) (h : on = false ∨ n < 5000) : doPfcWatch port prio s = s := by
  unfold doPfcWatch
  dsimp only
  rw [port_of_getElem? hg, List.getD_eq_getElem?_getD, hx]
  refine if_neg ?_
  rcases h with rfl | h
  · simp
  · simp [h]

theorem pfcWdog_settlePort (port : Nat) (s : State) : (settlePort port s).fab.pfcWdog = s.fab.pfcWdog := by
  unfold settlePort
  dsimp only
  split
  · rfl
  · exact (congrArg Fabric.pfcWdog (nodeEvent_keeps ..).fab :)

theorem pause_unpaused {prio n : Nat} (hx : p.pause[prio]? = some (true, n, none)) :
    (p.unpaused prio).pause = modifyAt p.pause prio fun _ => (true, n, some 0) :=
  modifyAt_congr _ _ _ _ (false, 0, none) (by rw [List.getD_eq_getElem?_getD, hx]; rfl)

theorem doPfcWatch_outcome {prio n : Nat} (hl : s.live = true) (hg : s.fab.ports[port]? = some p)
    (hx : p.pause[prio]? = some (true, n, none)) (hn : 5000 ≤ n) :
    ∃ t q, exec (.pfcWatchdog port prio) s = .next t ∧ t.fab.pfcWdog = true ∧ t.fab.ports[port]? = some q ∧
      q.wdogDeg = true ∧ q.pause = modifyAt p.pause prio (fun _ => (true, n, some 0)) ∧ (p.st = 1 → q.st = q.state) := by
  have hd := doPfcWatch_of_due hl hg hx hn
  have hg' : (wdogDrop port prio p s).fab.ports[port]? = some p := by rw [ports_wdogDrop]; exact hg
  have hm := port_modPort (Port.unpaused prio) hg'
  by_cases hst : p.st = 1
  · rw [if_pos hst] at hd
    obtain ⟨q, hq, rfl, -, -⟩ := settlePort_modPort (Port.unpaused prio) hg'
    exact ⟨_, _, congrArg Host.Outcome.next hd, pfcWdog_settlePort .., hq, rfl, pause_unpaused hx, fun _ => rfl⟩
  · rw [if_neg hst] at hd
    refine ⟨_, _, congrArg Host.Outcome.next hd, ?_, ?_, rfl, pause_unpaused hx, fun h => absurd h hst⟩
    · exact congrArg Fabric.pfcWdog (nodeEvent_keeps ..).fab
    · exact (congrArg (fun f : Fabric => f.ports[port]?) (nodeEvent_keeps ..).fab).trans hm

/-! ## Key agreement and addresses (R327, R329) -/

theorem doMkpdu_of_cak {sub : Nat} (body : List Byte) (hl : s.live = true) (hg : s.fab.ports[port]? = some p) (hc : p.carries = true)
    (h : ∃ c ∈ s.lodge.caks, c.port = port ∧ c.sub = sub) :
    doMkpdu port sub body s = emit (.port port "MKPDU" (Config.macIcv (2 * port + sub) body)) s := by
  refine if_pos ?_
  have hany : s.lodge.caks.any (fun c => c.port == port && c.sub == sub) = true := by simpa using h
  rw [hl, port_of_getElem? hg, hc, hany]
  rfl

theorem doMkpdu_of_none {sub : Nat} (body : List Byte) (hg : s.fab.ports[port]? = some p)
    (h : p.carries = false ∨ ∀ c ∈ s.lodge.caks, ¬ (c.port = port ∧ c.sub = sub)) : doMkpdu port sub body s = s := by
  refine if_neg ?_
  rw [port_of_getElem? hg]
  rcases h with h | h
  · simp [h]
  · have hany : s.lodge.caks.any (fun c => c.port == port && c.sub == sub) = false := by simpa using h
    simp [hany]

theorem doArp_of_own {addr : List Byte} (hl : s.live = true) (hg : s.fab.ports[port]? = some p) (hc : p.carries = true)
    (h : s.ownAddr port = some addr) : doArp port addr s = emit (.port port "ARP" addr) s :=
  if_pos (by rw [hl, port_of_getElem? hg, hc, h]; simp)

theorem doArp_of_other {addr : List Byte} (h : s.ownAddr port ≠ some addr) : doArp port addr s = s :=
  if_neg (by simp [h])

/-! ## The PTP port (R328) -/

/-- A port that takes part in the choice of the PTP port. -/
def State.ptpPort (s : State) (i : Nat) : Bool :=
  let p := s.fab.ports.getD i Port.reset
  p.carries && bit p.eff 5

theorem ptpPort_of_some {i : Nat} {o : Port} (h : s.fab.ports[i]? = some o) (hc : o.carries = true) (he : bit o.eff 5 = true) :
    s.ptpPort i = true := by
  unfold State.ptpPort; rw [port_of_getElem? h]; simp [hc, he]

/-- The choice marks the port of the best announcement, and no other. -/
theorem selectPtp_of_best {x : Nat × Nat}
    (h : leastBy (fun a b : Nat × Nat => decide (a.2 < b.2)) (s.fab.announce.filter fun a => s.ptpPort a.1) = some x) :
    selectPtp s = { s with fab := { s.fab with
      ports := s.fab.ports.zipIdx.map fun y => { y.1 with ptpSel := decide (y.2 = x.1) } } } := by
  have hsel (y : Port × Nat) : (some x.1 == some y.2) = decide (y.2 = x.1) := by
    rw [Bool.eq_iff_iff, beq_iff_eq, decide_eq_true_iff, Option.some.injEq]; exact eq_comm
  unfold selectPtp
  dsimp only
  have h' : leastBy (fun a b : Nat × Nat => decide (a.2 < b.2)) (s.fab.announce.filter fun a =>
      (s.fab.ports.getD a.1 Port.reset).carries && bit (s.fab.ports.getD a.1 Port.reset).eff 5) = some x := h
  rw [h']
  exact congrArg (fun ps => { s with fab := { s.fab with ports := ps } }) (List.map_congr_left fun y _ =>
    congrArg (fun b => { y.1 with ptpSel := b }) (hsel y))

theorem doAnnounce_of_ptp (quality : Nat) (hl : s.live = true) (hg : s.fab.ports[port]? = some p) (hc : p.carries = true)
    (he : bit p.eff 5 = true) :
    doAnnounce port quality s = selectPtp { s with fab := { s.fab with
      announce := (s.fab.announce.filter (·.1 != port)) ++ [(port, quality)] } } := by
  unfold doAnnounce; rw [port_of_getElem? hg]
  exact if_pos (by rw [hl, hc, he]; rfl)

theorem doAnnounce_of_none (quality : Nat) (hg : s.fab.ports[port]? = some p) (h : p.carries = false ∨ bit p.eff 5 = false) :
    doAnnounce port quality s = s := by
  unfold doAnnounce; rw [port_of_getElem? hg]
  refine if_neg ?_
  rcases h with h | h <;> simp [h]

/-- The first announcement selects its port. -/
theorem doAnnounce_of_first (quality : Nat) (hl : s.live = true) (hg : s.fab.ports[port]? = some p) (hc : p.carries = true)
    (he : bit p.eff 5 = true) (ha : s.fab.announce = []) :
    doAnnounce port quality s = { s with fab := { s.fab with
      announce := [(port, quality)], ports := s.fab.ports.zipIdx.map fun x => { x.1 with ptpSel := decide (x.2 = port) } } } := by
  rw [doAnnounce_of_ptp quality hl hg hc he, ha]
  refine selectPtp_of_best (x := (port, quality)) ?_
  have hp := ptpPort_of_some (s := { s with fab := { s.fab with announce := [(port, quality)] } }) hg hc he
  exact congrArg (leastBy _) (List.filter_cons_of_pos (p := fun a : Nat × Nat => State.ptpPort _ a.1) (l := []) hp)

/-- Of two announcements the lower quality value selects its port; of equal ones the earlier. -/
theorem doAnnounce_of_second (quality : Nat) {other v : Nat} {o : Port} (hl : s.live = true) (hg : s.fab.ports[port]? = some p)
    (hc : p.carries = true) (he : bit p.eff 5 = true) (ha : s.fab.announce = [(other, v)]) (hne : other ≠ port)
    (ho : s.fab.ports[other]? = some o) (hoc : o.carries = true) (hoe : bit o.eff 5 = true) :
    doAnnounce port quality s = { s with fab := { s.fab with
      announce := [(other, v), (port, quality)]
      ports := s.fab.ports.zipIdx.map fun x => { x.1 with ptpSel := decide (x.2 = if quality < v then port else other) } } } := by
  have hf : [(other, v)].filter (·.1 != port) = [(other, v)] := List.filter_cons_of_pos (l := []) (by simpa using hne)
  rw [doAnnounce_of_ptp quality hl hg hc he, ha, hf]
  have hp := ptpPort_of_some (s := { s with fab := { s.fab with announce := [(other, v), (port, quality)] } }) hg hc he
  have hq := ptpPort_of_some (s := { s with fab := { s.fab with announce := [(other, v), (port, quality)] } }) ho hoc hoe
  have hx : (if quality < v then port else other) = (if quality < v then (port, quality) else (other, v)).1 := by split <;> rfl
  rw [hx]
  refine selectPtp_of_best ?_
  refine (congrArg (leastBy _) (List.filter_eq_self.mpr fun a h => ?_)).trans ?_
  · rcases List.mem_cons.mp h with rfl | h
    · exact hq
    · obtain rfl := List.mem_singleton.mp h
      exact hp
  · by_cases hv : quality < v <;> simp [leastBy, hv]

end

/-- Settles O43: a change of lanes, lasers or error ratio is a change of one port that then settles; a pause frame changes one entry of
its port's pauses, the watchdog marks the port; the choice of the PTP port is the least announcement. -/
theorem portsAndPause : Obligations.PortsAndPause := by
  unfold Obligations.PortsAndPause
  refine ⟨fun s port mask input p hl hp hg => ⟨fun hf he hc => ?_, fun h => ?_, ?_, fun hf hi => ?_, fun hi => ?_, fun hc => ?_, fun hc => ?_⟩,
    fun s port prio p hl hg => ⟨fun hc he => ⟨?_, ?_⟩, fun on h => ?_, fun n hx => ⟨fun hn => ?_, fun hn => ?_⟩, fun n hx => ?_,
      fun sub body => ⟨fun hc h => ?_, fun h => ?_⟩, fun addr => ⟨fun hc h => ?_, fun h => ?_⟩,
      fun quality hc he => ⟨fun ha => ?_, fun other v o ha hne ho hoc hoe => ?_⟩, fun quality h => ?_⟩⟩
  · obtain ⟨q, hq, rfl, hother, hsame⟩ := settlePort_modPort (fun p => (p.lit mask).withLanes mask true) hg
    exact ⟨_, _, congrArg Host.Outcome.next (doLinkUp_of_up hl hp hg hf he hc), hq, rfl, rfl, rfl, hother, works_settlePort ..,
      fun h => out_modPort_of_eq (hsame rfl h)⟩
  · exact congrArg Host.Outcome.next (doLinkUp_of_disabled hg h)
  · obtain ⟨q, hq, rfl, hother, hsame⟩ := settlePort_modPort (Port.withLanes mask false) hg
    exact ⟨_, _, congrArg Host.Outcome.next (doLinkDown_of_live hl hp), hq, rfl, rfl, hother,
      fun h => (out_modPort_of_eq (hsame rfl h)).1⟩
  · obtain ⟨q, hq, rfl, -, hsame⟩ := settlePort_modPort (fun p => (p.dark input).withLanes (3 * 4 ^ input) false) hg
    exact ⟨_, _, congrArg Host.Outcome.next (doLaserLow_of_live hl hp hf hi), hq, rfl, rfl, rfl,
      fun h => (out_modPort_of_eq (hsame rfl h)).1⟩
  · exact congrArg Host.Outcome.next (doLaserLow_of_no_input hi)
  · obtain ⟨q, hq, rfl, -, hsame⟩ := settlePort_modPort (fun p => { p with berDeg := true }) hg
    exact ⟨_, _, congrArg Host.Outcome.next (doBer_of_carries hl hg hc), hq, rfl, rfl, rfl,
      fun h => (out_modPort_of_eq (hsame rfl h)).1⟩
  · exact congrArg Host.Outcome.next (doBer_of_down hg hc)
  · exact congrArg Host.Outcome.next (doPfc_of_pfc prio true hl hg hc he)
  · exact congrArg Host.Outcome.next (doPfc_of_pfc prio false hl hg hc he)
  · exact congrArg Host.Outcome.next (doPfc_of_none prio on hg h)
  · exact doPfcWatch_outcome hl hg hx hn
  · exact congrArg Host.Outcome.next (doPfcWatch_of_early hg hx (.inr hn))
  · exact congrArg Host.Outcome.next (doPfcWatch_of_early hg hx (.inl rfl))
  · exact congrArg Host.Outcome.next (doMkpdu_of_cak body hl hg hc h)
  · exact congrArg Host.Outcome.next (doMkpdu_of_none body hg h)
  · exact congrArg Host.Outcome.next (doArp_of_own hl hg hc h)
  · exact congrArg Host.Outcome.next (doArp_of_other h)
  · exact congrArg Host.Outcome.next (doAnnounce_of_first quality hl hg hc he ha)
  · exact congrArg Host.Outcome.next (doAnnounce_of_second quality hl hg hc he ha hne ho hoc hoe)
  · exact congrArg Host.Outcome.next (doAnnounce_of_none quality hg h)

end Sys2Proof.Machine

/-! # Received packets, flows, acknowledgements, timeouts and the fabric registers (section 12) -/

namespace Sys2Proof.Machine
-- The whole text is compiled by one process of limited memory: one proof at a time keeps it small.
set_option Elab.async false

/-! ## Buffers and pauses -/

theorem findBuffer_of_fits {port cls n : Nat} {s : State} (k : Nat) (h : s.linkFits port cls n = true) :
    Machine.findBuffer (k + 1) port cls n s = (true, s) := by
  unfold Machine.findBuffer; exact if_pos h

theorem findBuffer_of_full {port cls n : Nat} {s : State} (k : Nat) (h : s.underCap port cls n = false) :
    Machine.findBuffer (k + 1) port cls n s = (false, s) := by
  have hf : ¬ s.linkFits port cls n = true := by unfold State.linkFits; simp [h]
  unfold Machine.findBuffer
  rw [if_neg hf, if_neg (by simp [h])]

theorem pausePort_of_no_pfc {port : Nat} {s : State} (h : bit (s.fab.ports.getD port Port.reset).eff 2 = false) :
    pausePort port s = s := if_neg (by rw [h]; exact Bool.false_ne_true)

/-! ## Packets at their port (R339, R341) -/

section
variable {s : State} {port : Nat} {x : RxPkt}

/-- The class that a received packet takes its buffer of: acknowledgements are of class 0. -/
def rxClass (d : List Byte) : Nat := if field d 1 1 = jAck then 0 else field d 9 1 % 8

/-- What a packet that has a buffer does. -/
def rxTaken (port : Nat) (x : RxPkt) (s : State) : State :=
  let d := x.data
  let fl := field d 2 2
  let s := if fl.testBit 2 then takeAck (field d 4 2) (field d 9 1 % 8) (field d 9 1 / 8) (field d 16 4) (fl.testBit 3) s else s
  if field d 1 1 = jAck then s else pausePort port (rxFlow port x s)

theorem rxTaken_of_ack (hop : field x.data 1 1 = jAck) (hfl : (field x.data 2 2).testBit 2 = true) :
    rxTaken port x s = takeAck (field x.data 4 2) (field x.data 9 1 % 8) (field x.data 9 1 / 8) (field x.data 16 4)
      ((field x.data 2 2).testBit 3) s := by
  unfold rxTaken; dsimp only; rw [if_pos hop, if_pos hfl]

theorem rxTaken_of_data (hop : field x.data 1 1 ≠ jAck) (hfl : (field x.data 2 2).testBit 2 = false) :
    rxTaken port x s = pausePort port (rxFlow port x s) := by
  unfold rxTaken; dsimp only; rw [if_neg hop, if_neg (by simp [hfl])]

/-- A packet comes to a live port; what becomes of it depends on the checks of R339. -/
theorem doRx_of_live (hl : s.live = true) (hf : s.flushing = false) (hc : (s.fab.ports.getD port Port.reset).carries = true) :
    doRx port x s =
      if !rxOuterOk s port x then rxDrop s
      else if x.udpPort = 4791 then s
      else if x.udpPort ≠ fld s.fab.jfpEff 15 0 || !rxInnerOk s x.data then rxDrop s
      else
        match Machine.findBuffer 8192 port (rxClass x.data) (field x.data 10 2) s with
        | (false, s) => pausePort port (if bit (s.fab.ports.getD port Port.reset).eff 2 then s else modFab (fun f => { f with poolDrop := true }) s)
        | (true, s) => rxTaken port x s :=
  if_pos (by rw [hl, hf, hc]; rfl)

theorem doRx_of_bad (hl : s.live = true) (hf : s.flushing = false) (hc : (s.fab.ports.getD port Port.reset).carries = true)
    (h : rxOuterOk s port x = false ∨ (x.udpPort ≠ 4791 ∧ (x.udpPort ≠ fld s.fab.jfpEff 15 0 ∨ rxInnerOk s x.data = false))) :
    doRx port x s = rxDrop s := by
  refine (doRx_of_live hl hf hc).trans ?_
  by_cases ho : rxOuterOk s port x = false
  · exact if_pos (by simp [ho])
  · obtain ⟨hudp, hin⟩ := h.resolve_left ho
    rw [if_neg (by simpa using ho), if_neg hudp]
    exact if_pos (by simpa using hin)

theorem doRx_of_roce (hl : s.live = true) (hf : s.flushing = false) (hc : (s.fab.ports.getD port Port.reset).carries = true)
    (ho : rxOuterOk s port x = true) (hudp : x.udpPort = 4791) : doRx port x s = s := by
  refine (doRx_of_live hl hf hc).trans ?_
  rw [if_neg (by simp [ho]), if_pos hudp]

theorem doRx_of_jfp (hl : s.live = true) (hf : s.flushing = false) (hc : (s.fab.ports.getD port Port.reset).carries = true)
    (ho : rxOuterOk s port x = true) (hudp : x.udpPort = fld s.fab.jfpEff 15 0) (hne : x.udpPort ≠ 4791)
    (hin : rxInnerOk s x.data = true) :
    doRx port x s =
      match Machine.findBuffer 8192 port (rxClass x.data) (field x.data 10 2) s with
      | (false, s) => pausePort port (if bit (s.fab.ports.getD port Port.reset).eff 2 then s else modFab (fun f => { f with poolDrop := true }) s)
      | (true, s) => rxTaken port x s := by
  refine (doRx_of_live hl hf hc).trans ?_
  rw [if_neg (by simp [ho]), if_neg hne, if_neg (by simp [hudp, hin])]

theorem doRx_of_no_buffer (hl : s.live = true) (hf : s.flushing = false) (hc : (s.fab.ports.getD port Port.reset).carries = true)
    (ho : rxOuterOk s port x = true) (hudp : x.udpPort = fld s.fab.jfpEff 15 0) (hne : x.udpPort ≠ 4791)
    (hin : rxInnerOk s x.data = true) (hpfc : bit (s.fab.ports.getD port Port.reset).eff 2 = false)
    (hcap : s.underCap port (rxClass x.data) (field x.data 10 2) = false) :
    doRx port x s = { s with fab := { s.fab with poolDrop := true } } := by
  refine (doRx_of_jfp hl hf hc ho hudp hne hin).trans ?_
  rw [findBuffer_of_full 8191 hcap]
  dsimp only
  rw [if_neg (by rw [hpfc]; exact Bool.false_ne_true)]
  exact pausePort_of_no_pfc hpfc

theorem doRx_of_buffer (hl : s.live = true) (hf : s.flushing = false) (hc : (s.fab.ports.getD port Port.reset).carries = true)
    (ho : rxOuterOk s port x = true) (hudp : x.udpPort = fld s.fab.jfpEff 15 0) (hne : x.udpPort ≠ 4791)
    (hin : rxInnerOk s x.data = true) (hfit : s.linkFits port (rxClass x.data) (field x.data 10 2) = true) :
    doRx port x s = rxTaken port x s := by
  refine (doRx_of_jfp hl hf hc ho hudp hne hin).trans ?_
  rw [findBuffer_of_fits 8191 hfit]

end

/-! ## Packets of a flow (R334, R340) -/

section
variable {s : State} {port : Nat} {x : RxPkt} {f : RFlow}

/-- The flow of the packet. -/
def RFlow.takes (f : RFlow) (d : List Byte) : Prop := f.src = field d 4 2 ∧ f.cls = field d 9 1 % 8 ∧ f.idx = field d 9 1 / 8

theorem RFlow.takes.is {d : List Byte} (h : f.takes d) : RFlow.is (field d 4 2) (field d 9 1 % 8) (field d 9 1 / 8) f = true := by
  obtain ⟨h1, h2, h3⟩ := h
  unfold RFlow.is; simp [h1, h2, h3]

theorem modRFlow_of_only {src cls idx : Nat} (g : RFlow → RFlow) (hr : s.fab.rflows = [f]) (h : RFlow.is src cls idx f = true) :
    modRFlow src cls idx g s = { s with fab := { s.fab with rflows := [g f] } } := by
  unfold modRFlow modFab
  refine congrArg (fun r => { s with fab := { s.fab with rflows := r } }) ?_
  rw [hr]; unfold mapIf; simp [h]

/-- The number of packets by which a packet is ahead of its flow. -/
def rxGap (d : List Byte) (f : RFlow) : Nat := (field d 12 4 + 2 ^ 32 - f.expect) % 2 ^ 32

theorem same_rflows (hr : s.fab.rflows = [f]) : { s with fab := { s.fab with rflows := [f] } } = s := by rw [← hr]

/-- A packet of the one flow that is known, without a CE mark: what becomes of it depends on its place in the flow. -/
theorem rxFlow_of_only (hce : x.ce = false) (hr : s.fab.rflows = [f]) (ht : f.takes x.data) :
    rxFlow port x s =
      if rxGap x.data f = 0 then
        let s := modRFlow (field x.data 4 2) (field x.data 9 1 % 8) (field x.data 9 1 / 8)
          (fun f => { f with expect := (f.expect + 1) % 2 ^ 32, nakSent := false, owed := f.owed + 1 }) s
        let s := rxPayload port x.data (count none 4 4 x.data.length s)
        if (field x.data 2 2).testBit 1 || decide (15 ≤ f.owed) then
          sendAck (field x.data 4 2) (field x.data 9 1 % 8) (field x.data 9 1 / 8) s else s
      else if 2 ^ 31 ≤ rxGap x.data f then sendAck (field x.data 4 2) (field x.data 9 1 % 8) (field x.data 9 1 / 8) s
      else if f.nakSent then s
      else sendAck (field x.data 4 2) (field x.data 9 1 % 8) (field x.data 9 1 / 8)
        (modRFlow (field x.data 4 2) (field x.data 9 1 % 8) (field x.data 9 1 / 8) (fun f => { f with nakSent := s.canAck (field x.data 9 1 / 8) }) s) := by
  have his := ht.is
  have hany : s.fab.rflows.any (RFlow.is (field x.data 4 2) (field x.data 9 1 % 8) (field x.data 9 1 / 8)) = true := by
    rw [hr]; simp [his]
  have hfind : s.fab.rflows.find? (RFlow.is (field x.data 4 2) (field x.data 9 1 % 8) (field x.data 9 1 / 8)) = some f := by
    rw [hr]; simp [his]
  have hmark : modRFlow (field x.data 4 2) (field x.data 9 1 % 8) (field x.data 9 1 / 8) (fun f => { f with ce := f.ce || x.ce }) s = s := by
    rw [modRFlow_of_only _ hr his, hce, Bool.or_false]
    exact same_rflows hr
  unfold rxFlow
  dsimp only
  rw [if_pos hany, hfind]
  dsimp only
  rw [hmark]
  rfl

theorem rxPayload_of_first {d : List Byte} (h0 : (field d 2 2).testBit 0 = true) (h1 : (field d 2 2).testBit 1 = false) :
    rxPayload port d s = modFab (fun t => { t with
      rmsgs := (t.rmsgs.filter fun r => !(r.src == field d 4 2 && r.cls == field d 9 1 % 8 && r.idx == field d 9 1 / 8)) ++
        [⟨field d 4 2, field d 9 1 % 8, field d 9 1 / 8, port, field d 20 4, field d 1 1, field d 8 1, field d 32 8, field d 28 4,
          slice d 48 (field d 10 2), [field d 10 2]⟩] }) s := by
  unfold rxPayload
  dsimp only
  rw [if_neg (by simp [h1]), if_pos h0]
  rfl

theorem rxGap_of_next {d : List Byte} (h : field d 12 4 = f.expect) : rxGap d f = 0 := by
  unfold rxGap; rw [h, Nat.add_sub_cancel_left]; rfl

/-- The next packet of the flow, the first of a message of several, is kept for its message. -/
theorem rxFlow_of_next (hce : x.ce = false) (hr : s.fab.rflows = [f]) (ht : f.takes x.data) (hn : field x.data 12 4 = f.expect)
    (h0 : (field x.data 2 2).testBit 0 = true) (h1 : (field x.data 2 2).testBit 1 = false) (ho : f.owed < 15) :
    ∃ r, (rxFlow port x s).fab.rflows = [{ f with expect := (f.expect + 1) % 2 ^ 32, nakSent := false, owed := f.owed + 1 }] ∧
      r ∈ (rxFlow port x s).fab.rmsgs ∧ r.got = slice x.data 48 (field x.data 10 2) ∧ r.src = f.src ∧ r.len = field x.data 28 4 ∧
      r.op = field x.data 1 1 ∧ (rxFlow port x s).out = s.out ∧ (rxFlow port x s).fab.ports = s.fab.ports := by
  have hsrc := ht.1
  rw [rxFlow_of_only hce hr ht, if_pos (rxGap_of_next hn), modRFlow_of_only _ hr ht.is]
  dsimp only
  rw [rxPayload_of_first h0 h1]
  rw [if_neg (by simp [h1, ho])]
  exact ⟨_, rfl, List.mem_append_right _ (List.mem_singleton_self _), rfl, hsrc.symm, rfl, rfl, rfl, rfl⟩

theorem rxFlow_of_old (hce : x.ce = false) (hr : s.fab.rflows = [f]) (ht : f.takes x.data) (hg : 2 ^ 31 ≤ rxGap x.data f) :
    rxFlow port x s = sendAck f.src f.cls f.idx s := by
  have hne : rxGap x.data f ≠ 0 := fun h0 => by simp [h0] at hg
  rw [rxFlow_of_only hce hr ht, if_neg hne, if_pos hg]
  obtain ⟨h1, h2, h3⟩ := ht
  rw [h1, h2, h3]

theorem rxFlow_of_gap_reported (hce : x.ce = false) (hr : s.fab.rflows = [f]) (ht : f.takes x.data) (h0 : 0 < rxGap x.data f)
    (hg : rxGap x.data f < 2 ^ 31) (hk : f.nakSent = true) : rxFlow port x s = s := by
  rw [rxFlow_of_only hce hr ht, if_neg (Nat.ne_of_gt h0), if_neg (Nat.not_le.mpr hg), if_pos hk]

/-- A gap that is not reported yet is reported when the port can send. -/
theorem rxFlow_of_gap (hce : x.ce = false) (hr : s.fab.rflows = [f]) (ht : f.takes x.data) (h0 : 0 < rxGap x.data f)
    (hg : rxGap x.data f < 2 ^ 31) (hk : f.nakSent = false) :
    rxFlow port x s = sendAck f.src f.cls f.idx { s with fab := { s.fab with rflows := [{ f with nakSent := s.canAck f.idx }] } } := by
  rw [rxFlow_of_only hce hr ht, if_neg (Nat.ne_of_gt h0), if_neg (Nat.not_le.mpr hg), if_neg (by simp [hk]), modRFlow_of_only _ hr ht.is]
  obtain ⟨h1, h2, h3⟩ := ht
  rw [h1, h2, h3]

theorem sendAck_of_stopped {src cls idx : Nat} (h : s.canAck idx = false) : sendAck src cls idx s = s := by
  unfold sendAck
  split
  · rfl
  · exact if_neg (by simp [h])

theorem ports_sendAck (src cls idx : Nat) (s : State) : (sendAck src cls idx s).fab.ports = s.fab.ports := by
  unfold sendAck
  split
  · rfl
  · split <;> rfl

end

/-! ## Acknowledgements and timeouts of sending flows (R334, R345) -/

section
variable {s : State} {dst cls idx ack : Nat} {f : SFlow}

/-- The packets that an acknowledgement takes off the flow. -/
def SFlow.ahead (f : SFlow) (ack : Nat) : Nat := (ack + 2 ^ 32 - f.acked) % 2 ^ 32

theorem takeAck_of_flow (hf : s.fab.sflows.find? (SFlow.is dst cls idx) = some f) :
    takeAck dst cls idx ack false s =
      if f.ahead ack = 0 then
        if f.lastAck = some ack ∧ !f.unacked.isEmpty then retransmit dst cls idx s
        else modFlow (SFlow.is dst cls idx) (fun f => { f with lastAck := some ack }) s
      else if f.ahead ack ≤ f.unacked.length then
        modFlow (SFlow.is dst cls idx)
          (fun g => { g with acked := ack, unacked := g.unacked.drop (f.ahead ack), lastAck := some ack, idle := 0, timeouts := 0 }) s
      else s := by
  unfold takeAck; rw [hf]; rfl

theorem takeAck_of_advance (hf : s.fab.sflows.find? (SFlow.is dst cls idx) = some f) (h0 : 0 < f.ahead ack)
    (h : f.ahead ack ≤ f.unacked.length) :
    takeAck dst cls idx ack false s = modFlow (SFlow.is dst cls idx)
      (fun g => { g with acked := ack, unacked := g.unacked.drop (f.ahead ack), lastAck := some ack, idle := 0, timeouts := 0 }) s := by
  rw [takeAck_of_flow hf, if_neg (Nat.ne_of_gt h0), if_pos h]

theorem takeAck_of_repeated (hf : s.fab.sflows.find? (SFlow.is dst cls idx) = some f) (h0 : f.ahead ack = 0)
    (hl : f.lastAck = some ack) (hu : f.unacked ≠ []) : takeAck dst cls idx ack false s = retransmit dst cls idx s := by
  rw [takeAck_of_flow hf, if_pos h0, if_pos ⟨hl, by simpa using hu⟩]

theorem takeAck_of_beyond (hf : s.fab.sflows.find? (SFlow.is dst cls idx) = some f) (h : f.unacked.length < f.ahead ack) :
    takeAck dst cls idx ack false s = s := by
  rw [takeAck_of_flow hf, if_neg (Nat.ne_of_gt (Nat.zero_lt_of_lt h)), if_neg (Nat.not_le.mpr h)]

/-- The flow has waited its timeout. -/
def State.rtoDue (s : State) (f : SFlow) : Prop := f.unacked ≠ [] ∧ fld s.fab.jfpEff 27 20 ≤ f.idle

theorem doRto_of_due (hl : s.live = true) (hf : s.fab.sflows.find? (SFlow.is dst cls idx) = some f) (hd : s.rtoDue f) :
    doRto dst cls idx s =
      if fld s.fab.jfpEff 31 28 ≤ f.timeouts + 1 then closeFlow f s
      else retransmit dst cls idx (modFlow (SFlow.is dst cls idx) (fun f => { f with idle := 0, timeouts := f.timeouts + 1 }) s) := by
  obtain ⟨hu, hi⟩ := hd
  unfold doRto; rw [hf]
  exact if_pos (by simp [hl, hu, hi])

theorem doRto_of_early (hf : s.fab.sflows.find? (SFlow.is dst cls idx) = some f)
    (h : f.unacked = [] ∨ f.idle < fld s.fab.jfpEff 27 20) : doRto dst cls idx s = s := by
  unfold doRto; rw [hf]
  refine if_neg ?_
  rcases h with h | h
  · simp [h]
  · simp [h]

/-- The messages of classes 0 and 4 have no work that ends with their flow. -/
theorem failMsgs_of_no_work {ids : List Nat} {bundled : Bool} (h : cls = 0 ∨ cls = 4) : failMsgs dst cls ids bundled s = s := by
  have h3 : (cls == 3) = false := by rcases h with rfl | rfl <;> rfl
  unfold failMsgs
  dsimp only
  rw [if_neg (by rcases h with rfl | rfl <;> decide), if_neg (by rcases h with rfl | rfl <;> decide), h3]
  simp

theorem closeFlow_of_no_work (h : f.cls = 0 ∨ f.cls = 4) (hup : s.upPorts ≠ []) :
    closeFlow f s = { s with fab := { s.fab with
      flowClosed := true
      sflows := mapIf (SFlow.is f.dst f.cls f.idx) (fun g => { g with
        next := g.acked, unacked := [], idle := 0, timeouts := 0, lastAck := none, port := portFrom s ((f.port + 1) % 20) })
        s.fab.sflows } } := by
  unfold closeFlow
  dsimp only
  rw [failMsgs_of_no_work h]
  exact if_neg fun he => hup (List.isEmpty_iff.mp he)

theorem sflow_of_find? (hf : s.fab.sflows.find? (SFlow.is dst cls idx) = some f) : f.dst = dst ∧ f.cls = cls ∧ f.idx = idx := by
  have h := List.find?_some hf
  unfold SFlow.is at h
  simpa [and_assoc] using h

end

/-! ## Fabric registers (R352, R353) -/

section
variable {s : State} {v : W32}

theorem exec_nodeIdWrite (hup : s.bar0Up0 = true) :
    exec (.fabricRegWrite 0x800 v) s =
      .next (if s.fab.nodeLock then s else modFab (fun f => { f with nodeId := v &&& 0xFFFF#32 }) s) :=
  congrArg Host.Outcome.next (if_pos hup)

/-- A JFP_CFG word in its ranges. -/
def jfpCfgOk (v : W32) : Bool :=
  inRange 1024 (fld v 15 0) 65535 && fld v 15 0 != 4791 && decide (2 ≤ fld v 27 20) && decide (1 ≤ fld v 31 28)

theorem exec_jfpCfgWrite (hup : s.bar0Up0 = true) :
    exec (.fabricRegWrite 0x804 v) s =
      .next (if jfpCfgOk v then modFab (fun f => { f with jfpCfg := v &&& 0xFFF7_FFFF#32 }) s
        else modFab (fun f => { f with cfgReject := true }) s) :=
  congrArg Host.Outcome.next (if_pos hup)

theorem exec_ptpCfgWrite (hup : s.bar0Up0 = true) :
    exec (.fabricRegWrite 0x80C v) s =
      .next (if fld v 7 0 ≤ 127 ∧ fld v 9 8 ≠ 3 then modFab (fun f => { f with ptpCfg := v &&& 0x3FF#32 }) s
        else modFab (fun f => { f with cfgReject := true }) s) :=
  congrArg Host.Outcome.next (if_pos hup)

theorem exec_portCfgWrite {i : Nat} (hup : s.bar0Up0 = true) (hi : i < 20) :
    exec (.fabricRegWrite (0x840 + 4 * i) v) s =
      .next (if portCfgBad s i v then modFab (fun f => { f with cfgReject := true }) s
        else modPort i (fun p => { p with cfg := portWord v }) s) := by
  refine congrArg Host.Outcome.next ?_
  have hidx : (0x840 + 4 * i - 0x840) / 4 = i := by omega
  unfold writeFab
  dsimp only
  rw [if_pos hup, if_neg (by omega), if_neg (by omega), if_neg (by omega), if_neg (by omega), if_pos (by omega), hidx]

end

/-- Settles O44: a packet with a buffer goes to its flow, where its distance from the expected number says what becomes of it; an
acknowledgement and a timeout are read off the flow that they name. -/
theorem packetsAndFlows : Obligations.PacketsAndFlows := by
  unfold Obligations.PacketsAndFlows
  refine ⟨fun s port x hl hf hc => ⟨fun h => ?_, fun ho hudp => ?_, fun ho hudp hne hin hpfc => ⟨fun hop hcap => ?_, fun hfit hop hfl => ?_,
      fun f hfit hop hfl hce hr hsrc hcls hidx => ?_⟩⟩,
    fun s dst cls idx => ⟨fun f ack hh hfind => ⟨fun h0 h => ?_, fun h0 hla hu => ?_, fun h => ?_⟩, fun ack ce hh => ?_,
      fun f hl hfind => ⟨fun hu hi ht => ?_, fun hcl hup hu hi ht => ?_, fun h => ?_⟩,
      fun v hup => ⟨fun hk => ?_, fun hk => ?_, fun h1 h2 h3 h4 h5 => ?_, fun h => ?_, fun h1 h2 => ?_, fun h => ?_,
        fun i hi => ⟨fun h => ?_, fun h => ?_⟩⟩⟩⟩
  · exact congrArg Host.Outcome.next (doRx_of_bad hl hf hc h)
  · exact congrArg Host.Outcome.next (doRx_of_roce hl hf hc ho hudp)
  · have hcls : rxClass x.data = field x.data 9 1 % 8 := if_neg hop
    exact congrArg Host.Outcome.next (doRx_of_no_buffer hl hf hc ho hudp hne hin hpfc (by rw [hcls]; exact hcap))
  · have hcls : rxClass x.data = 0 := if_pos hop
    exact congrArg Host.Outcome.next ((doRx_of_buffer hl hf hc ho hudp hne hin (by rw [hcls]; exact hfit)).trans (rxTaken_of_ack hop hfl))
  · have hkind : rxClass x.data = field x.data 9 1 % 8 := if_neg hop
    have hrx := (doRx_of_buffer hl hf hc ho hudp hne hin (by rw [hkind]; exact hfit)).trans (rxTaken_of_data (port := port) hop hfl)
    have ht : f.takes x.data := ⟨hsrc, hcls, hidx⟩
    have hquiet {t : State} (htp : t.fab.ports = s.fab.ports) : pausePort port t = t := pausePort_of_no_pfc (by rw [htp]; exact hpfc)
    refine ⟨fun hn h0 h1 hod => ?_, fun hg => ?_, fun h0 hg => ⟨fun hk => ?_, fun hk hca => ?_, fun hk hca => ?_⟩⟩
    · obtain ⟨r, hfl', hmem, hgot, hsr, hlen, hopr, hout, hports⟩ := rxFlow_of_next (port := port) hce hr ht hn h0 h1 hod
      rw [hquiet hports] at hrx
      exact ⟨_, r, congrArg Host.Outcome.next hrx, hfl', hmem, hgot, hsr, hlen, hopr, hout⟩
    · rw [rxFlow_of_old hce hr ht hg, hquiet (ports_sendAck ..)] at hrx
      exact congrArg Host.Outcome.next hrx
    · rw [rxFlow_of_gap_reported hce hr ht h0 hg hk, hquiet rfl] at hrx
      exact congrArg Host.Outcome.next hrx
    · have hsame : ({ f with nakSent := s.canAck f.idx } : RFlow) = f := by rw [hca, ← hk]
      rw [rxFlow_of_gap hce hr ht h0 hg hk, hsame, same_rflows hr, sendAck_of_stopped hca, hquiet rfl] at hrx
      exact congrArg Host.Outcome.next hrx
    · rw [rxFlow_of_gap hce hr ht h0 hg hk, hca] at hrx
      exact congrArg Host.Outcome.next (hrx.trans (hquiet (ports_sendAck ..)))
  · exact congrArg Host.Outcome.next ((if_pos hh).trans (takeAck_of_advance hfind h0 h))
  · exact congrArg Host.Outcome.next ((if_pos hh).trans (takeAck_of_repeated hfind h0 hla hu))
  · exact congrArg Host.Outcome.next ((if_pos hh).trans (takeAck_of_beyond hfind h))
  · exact congrArg Host.Outcome.next (if_neg (by simp [hh]))
  · exact congrArg Host.Outcome.next ((doRto_of_due hl hfind ⟨hu, hi⟩).trans (if_neg (Nat.not_le.mpr ht)))
  · obtain ⟨rfl, rfl, rfl⟩ := sflow_of_find? hfind
    exact congrArg Host.Outcome.next (((doRto_of_due hl hfind ⟨hu, hi⟩).trans (if_pos ht)).trans (closeFlow_of_no_work hcl hup))
  · exact congrArg Host.Outcome.next (doRto_of_early hfind h)
  · rw [exec_nodeIdWrite hup, hk]; rfl
  · rw [exec_nodeIdWrite hup, hk]; rfl
  · rw [exec_jfpCfgWrite hup, if_pos (by simp [jfpCfgOk, inRange, h1, h2, h3, h4, h5])]; rfl
  · rw [exec_jfpCfgWrite hup, if_neg (by rcases h with h | h | h | h <;> simp [jfpCfgOk, inRange, h])]; rfl
  · rw [exec_ptpCfgWrite hup, if_pos ⟨h1, h2⟩]; rfl
  · rw [exec_ptpCfgWrite hup, if_neg (by rcases h with h | h <;> simp [h])]; rfl
  · rw [exec_portCfgWrite hup hi, h]; rfl
  · rw [exec_portCfgWrite hup hi, h]; rfl

end Sys2Proof.Machine

/-! # The map keepers' log and elections (section 13) -/

namespace Sys2Proof.Machine
-- The whole text is compiled by one process of limited memory: one proof at a time keeps it small.
set_option Elab.async false

/-! ## Terms and messages -/

section
variable {s : State} {src term : Nat}

theorem seeTerm_of_le (h : term ≤ s.comp.keeper.term) : seeTerm term s = s := if_neg (Nat.not_lt.mpr h)

theorem seeTerm_of_newer (h : s.comp.keeper.term < term) :
    seeTerm term s = modKeeper (fun k => { k with term := term, voted := none, role := 1, leader := none, votes := [] }) s := if_pos h

theorem keeper_sendMap (n : Nat) (m : MapMsg) (s : State) : (sendMap n m s).comp = s.comp := (sendMap_keeps ..).comp

/-! ## Entries from the leading keeper -/

theorem doAppend_of_takes {prevIdx prevTerm : Nat} {ents : List LogEnt} (hh : s.hears src = true) (hk : src ∈ s.comp.map.keepers) :
    doAppend src term prevIdx prevTerm ents s =
      if term < (seeTerm term s).comp.keeper.term then seeTerm term s
      else if (follow src (seeTerm term s)).comp.keeper.holds prevIdx prevTerm then
        sendMap src (.appendAck term (modKeeper (fun k => k.extend ents) (follow src (seeTerm term s))).comp.keeper.lastIdx)
          (modKeeper (fun k => k.extend ents) (follow src (seeTerm term s)))
      else sendMap src (.appendAck term (min (follow src (seeTerm term s)).comp.keeper.lastIdx (prevIdx - 1))) (follow src (seeTerm term s)) :=
  if_pos (by rw [hh]; simpa using hk)

theorem extend_single {k : Keeper} {e : LogEnt} (h : ∀ x ∈ k.log, ¬ (x.e.idx = e.idx ∧ x.e.term = e.term)) :
    k.extend [e] = { k with log := k.log.filter (fun x => decide (x.e.idx < e.idx)) ++ [⟨e, [], false, false⟩] } := by
  have hany : k.log.any (fun x => x.e.idx == e.idx && x.e.term == e.term) = false := by simpa using h
  exact if_neg (by rw [hany]; exact Bool.false_ne_true)

/-- An entry that a keeper takes over is its log's last one. -/
theorem lastIdx_append (k : Keeper) (log : List KEnt) (x : KEnt) : Keeper.lastIdx { k with log := log ++ [x] } = x.e.idx := by
  unfold Keeper.lastIdx; simp

/-- A keeper takes over one entry of the leading keeper. -/
def Keeper.take (k : Keeper) (e : LogEnt) : Keeper :=
  if k.log.any fun x => x.e.idx == e.idx && x.e.term == e.term then k
  else { k with log := k.log.filter (fun x => decide (x.e.idx < e.idx)) ++ [⟨e, [], false, false⟩] }

theorem extend_cons (k : Keeper) (e : LogEnt) (es : List LogEnt) : k.extend (e :: es) = (k.take e).extend es := rfl

theorem take_same (k : Keeper) (e : LogEnt) :
    (k.take e).term = k.term ∧ (k.take e).role = k.role ∧ (k.take e).voted = k.voted ∧ (k.take e).leader = k.leader := by
  unfold Keeper.take
  split <;> exact ⟨rfl, rfl, rfl, rfl⟩

/-- Taking over entries changes the log alone. -/
theorem extend_same (ents : List LogEnt) (k : Keeper) :
    (k.extend ents).term = k.term ∧ (k.extend ents).role = k.role ∧ (k.extend ents).voted = k.voted ∧ (k.extend ents).leader = k.leader := by
  induction ents generalizing k with
  | nil => exact ⟨rfl, rfl, rfl, rfl⟩
  | cons e es ih =>
    obtain ⟨h1, h2, h3, h4⟩ := ih (k.take e)
    obtain ⟨g1, g2, g3, g4⟩ := take_same k e
    exact ⟨h1.trans g1, h2.trans g2, h3.trans g3, h4.trans g4⟩

/-- Entries of a newer term: the keeper adopts it and follows. -/
theorem doAppend_of_newer {prevIdx prevTerm : Nat} {ents : List LogEnt} (hh : s.hears src = true) (hk : src ∈ s.comp.map.keepers)
    (ht : s.comp.keeper.term < term) :
    (doAppend src term prevIdx prevTerm ents s).comp.keeper.term = term ∧ (doAppend src term prevIdx prevTerm ents s).comp.keeper.role = 1 ∧
      (doAppend src term prevIdx prevTerm ents s).comp.keeper.voted = none ∧
      (doAppend src term prevIdx prevTerm ents s).comp.keeper.leader = some src ∧
      (doAppend src term prevIdx prevTerm ents s).comp.map = s.comp.map := by
  rw [doAppend_of_takes hh hk, seeTerm_of_newer ht, if_neg (show ¬ term < (modKeeper _ s).comp.keeper.term from Nat.lt_irrefl _)]
  split
  · rw [keeper_sendMap]
    obtain ⟨h1, h2, h3, h4⟩ := extend_same ents (follow src
      (modKeeper (fun k => { k with term := term, voted := none, role := 1, leader := none, votes := [] }) s)).comp.keeper
    exact ⟨h1, h2, h3, h4, rfl⟩
  · rw [keeper_sendMap]; exact ⟨rfl, rfl, rfl, rfl, rfl⟩

theorem keeps_parts (h : s.keeps src = true) : s.hears src = true ∧ s.isKeeper = true := by
  unfold State.keeps at h; simpa using h

theorem mapIf_of_all {α : Type} {p : α → Bool} {xs : List α} (g : α → α) (h : ∀ x ∈ xs, p x = true) : mapIf p g xs = xs.map g :=
  List.map_congr_left fun x hx => if_pos (h x hx)

/-! ## Acknowledgements and commitment -/

/-- The log with the acknowledgements of a keeper that holds all of it. -/
theorem doAppendAck_of_whole {idx : Nat} (hk : s.keeps src = true) (hr : s.comp.keeper.role = 2)
    (hall : ∀ x ∈ s.comp.keeper.log, x.e.idx ≤ idx) :
    doAppendAck src s.comp.keeper.term idx s = tryCommit { s with comp := { s.comp with
      keeper := { s.comp.keeper with log := s.comp.keeper.log.map fun x => { x with acks := dedupKeep (x.acks ++ [src]) } } } } := by
  have hrest : (s.comp.keeper.log.filter fun x => decide (idx < x.e.idx)) = [] :=
    List.filter_eq_nil_iff.mpr fun x hx => by simpa using hall x hx
  unfold doAppendAck
  rw [if_pos hk, seeTerm_of_le (Nat.le_refl _)]
  dsimp only
  rw [if_pos ⟨hr, rfl⟩, hrest]
  refine congrArg (fun l => tryCommit { s with comp := { s.comp with keeper := { s.comp.keeper with log := l } } })
    (mapIf_of_all _ fun x hx => decide_eq_true (hall x hx))

theorem doAppendAck_of_no_leader {idx : Nat} (hr : s.comp.keeper.role ≠ 2) (ht : term ≤ s.comp.keeper.term) :
    doAppendAck src term idx s = s := by
  unfold doAppendAck
  split
  · rw [seeTerm_of_le ht]; exact if_neg fun h => hr h.1
  · rfl

/-- The result of a proposal reaches the mailbox that asked for it. -/
def Prop_.tellChan (p : Prop_) (result epoch : Nat) (s : State) : State :=
  match p.chan with
  | some c =>
    chanAck c (if result = 0 then rcOk else if result = 1 then rcRefused else rcTimeout)
      (blockOut c (wordArg (s.chan c).word * 64) (if result = 0 then epoch else 0) s)
  | none => s

/-- The result of a proposal ends the work that asked for it. -/
def Prop_.tellWork (p : Prop_) (result epoch : Nat) (s : State) : State :=
  match p.work with
  | some w =>
    completeId w (if result = 0 then .ok else if result = 1 then .badField else .timeout) 0
      (spec3 0 (match p.ent with | .cutover _ e _ _ => e | _ => 0) (if result = 0 then epoch else 0)) s
  | none => s

/-- A policy that is not accepted sets `CFG_REJECT`. -/
def Prop_.noteResult (p : Prop_) (result : Nat) (s : State) : State :=
  match p.ent with
  | .policy _ => if result = 0 then s else { s with comp := { s.comp with cfgReject := true } }
  | _ => s

theorem propResult_of_prop {id result epoch : Nat} {p : Prop_} (h : s.comp.props.find? (·.id == id) = some p) :
    propResult id result epoch s = p.tellWork result epoch (p.tellChan result epoch (p.noteResult result
      { s with comp := { s.comp with props := s.comp.props.filter (·.id != id) } })) := by
  unfold propResult; rw [h]; rfl

theorem propResult_of_none {id result epoch : Nat} (h : s.comp.props.find? (·.id == id) = none) : propResult id result epoch s = s := by
  unfold propResult; rw [h]

theorem Prop_.tellChan_comp (p : Prop_) (result epoch : Nat) (s : State) : (p.tellChan result epoch s).comp = s.comp := by
  unfold Prop_.tellChan
  split
  · exact (chanAck_keeps ..).comp.trans (blockOut_keeps ..).comp
  · rfl

theorem Prop_.tellWork_comp (p : Prop_) (result epoch : Nat) (s : State) : (p.tellWork result epoch s).comp = s.comp := by
  unfold Prop_.tellWork
  split
  · exact (completeId_keeps ..).comp
  · rfl

theorem Prop_.noteResult_comp (p : Prop_) (result : Nat) (s : State) :
    (p.noteResult result s).comp.keeper = s.comp.keeper ∧ (p.noteResult result s).comp.pend = s.comp.pend := by
  unfold Prop_.noteResult
  split
  · split <;> exact ⟨rfl, rfl⟩
  · exact ⟨rfl, rfl⟩

/-- The outcome of a proposal leaves the keeper's part and what is queued. -/
theorem propResult_comp (id result epoch : Nat) (s : State) :
    (propResult id result epoch s).comp.keeper = s.comp.keeper ∧ (propResult id result epoch s).comp.pend = s.comp.pend := by
  cases h : s.comp.props.find? (·.id == id) with
  | none => rw [propResult_of_none h]; exact ⟨rfl, rfl⟩
  | some p => rw [propResult_of_prop h, Prop_.tellWork_comp, Prop_.tellChan_comp]; exact Prop_.noteResult_comp ..

/-- Telling a proposer leaves the keeper's part and what is queued. -/
theorem answerProp_comp (to_ id result epoch : Nat) (s : State) :
    (answerProp to_ id result epoch s).comp.keeper = s.comp.keeper ∧ (answerProp to_ id result epoch s).comp.pend = s.comp.pend := by
  unfold answerProp
  split
  · exact propResult_comp ..
  · rw [keeper_sendMap]; exact ⟨rfl, rfl⟩

theorem sendAll_comp (ns : List Nat) (m : MapMsg) (s : State) : (sendAll ns m s).comp = s.comp := (sendAll_keeps ..).comp

theorem nodeId_sendMap (n : Nat) (m : MapMsg) (s : State) : (sendMap n m s).fab.nodeId = s.fab.nodeId := by
  unfold sendMap; split <;> rfl

theorem node_sendAll (ns : List Nat) (m : MapMsg) (s : State) : (sendAll ns m s).node = s.node := by
  unfold sendAll
  induction ns generalizing s with
  | nil => rfl
  | cons n ns ih => exact (ih _).trans (congrArg (fld · 15 0) (nodeId_sendMap n m s))

/-- An entry of the next map epoch is queued where none is. -/
theorem queueEntries_next {e : MapEntry} {a : Frame} {first : Nat} (hp : s.comp.pend = []) (hf : s.comp.map.epoch < first) :
    queueEntries first [(e, a)] s = { s with comp := { s.comp with pend := [(first, e, a)] } } := by
  unfold queueEntries
  refine congrArg (fun q => { s with comp := { s.comp with pend := q } }) ?_
  rw [hp]
  simp [sortBy, insertBy, hf]

/-- Entries that the map has reached are not queued. -/
theorem queueEntries_known {e : MapEntry} {a : Frame} {first : Nat} (hp : s.comp.pend = []) (hf : first ≤ s.comp.map.epoch) :
    queueEntries first [(e, a)] s = s := by
  have hsame : { s with comp := { s.comp with pend := [] } } = s := by rw [← hp]
  refine Eq.trans ?_ hsame
  unfold queueEntries
  refine congrArg (fun q => { s with comp := { s.comp with pend := q } }) ?_
  rw [hp]
  simp [sortBy, Nat.not_lt.mpr hf]

/-- The keeper's part with an entry committed. -/
def Keeper.withCommitted (x : KEnt) (k : Keeper) : Keeper :=
  { k with log := mapIf (fun y => y.e.idx == x.e.idx) (fun y => { y with committed := true }) k.log, commit := max k.commit x.e.idx }

/-- A node that is added gets the whole log. -/
def sendAdded (e : MapEntry) (s : State) : State :=
  match e with
  | .memberAdd n _ => sendMap n (.entries 1 (s.comp.applied ++ s.comp.pend.map (·.2))) s
  | _ => s

theorem sendAdded_comp (e : MapEntry) (s : State) : (sendAdded e s).comp = s.comp := by
  unfold sendAdded
  split
  · exact keeper_sendMap ..
  · rfl

theorem commitOne_eq (x : KEnt) (s : State) :
    commitOne x s = answerProp x.e.src x.e.prop 0 s.nextEpoch (sendAdded x.e.ent (queueEntries s.nextEpoch [(x.e.ent, x.e.act)]
      (sendAll ((s.comp.map.members.map (·.node)).filter (· != s.node)) (.entries s.nextEpoch [(x.e.ent, x.e.act)])
        (modKeeper (Keeper.withCommitted x) s)))) := rfl

theorem nextEpoch_of_empty (hp : s.comp.pend = []) : s.nextEpoch = s.comp.map.epoch + 1 := by
  unfold State.nextEpoch; rw [hp]; rfl

/-- Committing the one entry of the log queues it under the next map epoch. -/
theorem commitOne_single {x : KEnt} (hl : s.comp.keeper.log = [x]) (hp : s.comp.pend = []) :
    (commitOne x s).comp.keeper.log = [{ x with committed := true }] ∧
      (commitOne x s).comp.pend = [(s.comp.map.epoch + 1, x.e.ent, x.e.act)] := by
  have hsent := sendAll_comp ((s.comp.map.members.map (·.node)).filter (· != s.node))
    (.entries s.nextEpoch [(x.e.ent, x.e.act)]) (modKeeper (Keeper.withCommitted x) s)
  have hqueue := queueEntries_next (e := x.e.ent) (a := x.e.act) (first := s.nextEpoch) ((congrArg Comp.pend hsent).trans hp)
    (by rw [hsent, nextEpoch_of_empty hp]; exact Nat.lt_succ_self _)
  rw [commitOne_eq, (answerProp_comp ..).1, (answerProp_comp ..).2, sendAdded_comp, hqueue, hsent, nextEpoch_of_empty hp]
  refine ⟨?_, rfl⟩
  show mapIf _ _ s.comp.keeper.log = _
  rw [hl]
  simp [mapIf]

/-- The one entry of the leading keeper's log is committed once a majority holds it in time. -/
theorem tryCommit_single {x : KEnt} (hr : s.comp.keeper.role = 2) (hl : s.comp.keeper.log = [x])
    (ht : x.e.term = s.comp.keeper.term) (hm : s.majority ≤ x.acks.length) (hc : x.committed = false) (ha : x.abandoned = false)
    (hact : s.hfn + 10 ≤ x.e.act) : tryCommit s = commitOne x s := by
  have hpoint : s.commitPoint = x.e.idx := by unfold State.commitPoint; dsimp only; rw [hl]; simp [ht, hm, maxNat]
  have hfilter : [x].filter (fun y => decide (y.e.idx ≤ x.e.idx) && !y.committed && !y.abandoned && decide (s.hfn + 10 ≤ y.e.act)) = [x] :=
    List.filter_cons_of_pos (l := []) (by simp [hc, ha, hact])
  unfold tryCommit
  rw [if_pos hr]
  dsimp only
  rw [hpoint, hl, hfilter]
  rfl

/-- Where no entry has a majority, none is committed. -/
theorem tryCommit_of_short {x : KEnt} (hl : s.comp.keeper.log = [x]) (hm : x.acks.length < s.majority) (hi : 0 < x.e.idx) :
    tryCommit s = s := by
  have hpoint : s.commitPoint = 0 := by unfold State.commitPoint; dsimp only; rw [hl]; simp [Nat.not_le.mpr hm, maxNat]
  unfold tryCommit
  split
  · dsimp only
    rw [hpoint, hl]
    simp [Nat.ne_of_gt hi]
  · rfl

/-! ## Heartbeats, ENTRIES and FETCH -/

theorem doHall_of_follower {commit : Nat} (hh : s.hears src = true) (h : s.isKeeper = false ∨ term < s.comp.keeper.term) :
    doHall src term commit s = { s with comp := { s.comp with hbAge := 0, noQuorum := false } } := by
  refine (if_pos hh).trans ?_
  dsimp only
  by_cases hk : s.isKeeper = true
  · have ht := h.resolve_left (by simp [hk])
    refine (if_pos hk).trans ?_
    rw [seeTerm_of_le (s := { s with comp := { s.comp with hbAge := 0, noQuorum := false } }) (Nat.le_of_lt ht)]
    exact if_pos ht
  · exact if_neg hk

theorem doHall_of_keeper {commit : Nat} (hh : s.hears src = true) (hk : s.isKeeper = true) :
    doHall src s.comp.keeper.term commit s = { s with comp := { s.comp with
      hbAge := 0, noQuorum := false
      keeper := { s.comp.keeper with
        role := 1, leader := some src, hbAge := 0, commit := max s.comp.keeper.commit (min commit s.comp.keeper.lastIdx) } } } := by
  refine (if_pos hh).trans ((if_pos hk).trans ?_)
  dsimp only
  rw [seeTerm_of_le (s := { s with comp := { s.comp with hbAge := 0, noQuorum := false } }) (Nat.le_refl _)]
  exact if_neg (Nat.lt_irrefl _)

theorem doEntries_of_hears {first : Nat} {es : List (MapEntry × Frame)} (hh : s.hears src = true) :
    doEntries src first es s = queueEntries first es (modKeeper (Keeper.learn es) s) := if_pos (by simp [hh])

/-! ## Votes -/

/-- What a keeper answers to a candidate, once it has adopted its term. -/
def State.grants (s : State) (src term lastIdx lastTerm : Nat) : Bool :=
  term == s.comp.keeper.term && (s.comp.keeper.voted.isNone || s.comp.keeper.voted == some src) && s.comp.keeper.upToDate lastIdx lastTerm

theorem doVoteReq_of_granted {li lt : Nat} (hk : s.keeps src = true) (hg : (seeTerm term s).grants src term li lt = true) :
    doVoteReq src term li lt s = sendMap src (.vote (seeTerm term s).comp.keeper.term true)
      (modKeeper (fun k => { k with voted := some src, hbAge := 0 }) (seeTerm term s)) := by
  unfold State.grants at hg
  refine (if_pos hk).trans ?_
  dsimp only
  rw [hg]
  rfl

theorem doVoteReq_of_denied {li lt : Nat} (hk : s.keeps src = true) (hg : (seeTerm term s).grants src term li lt = false) :
    doVoteReq src term li lt s = sendMap src (.vote (seeTerm term s).comp.keeper.term false) (seeTerm term s) := by
  unfold State.grants at hg
  refine (if_pos hk).trans ?_
  dsimp only
  rw [hg]
  rfl

theorem lead_of_short (h : s.comp.keeper.votes.length < s.majority) : lead s = s := if_neg fun hm => Nat.not_le.mpr h hm.2

theorem lead_of_majority (hr : s.comp.keeper.role = 3) (h : s.majority ≤ s.comp.keeper.votes.length) :
    lead s = sendAll s.otherKeepers (.append s.comp.keeper.term 0 0 (s.comp.keeper.log.map (·.e)))
      (modKeeper (fun k => { k with role := 2, leader := some s.node, hbAge := 0,
                                    log := k.log.map fun x => if x.committed then x else { x with acks := [s.node] } }) s) :=
  if_pos ⟨hr, h⟩

theorem doVote_of_granted (hk : s.keeps src = true) (hr : s.comp.keeper.role = 3) :
    doVote src s.comp.keeper.term true s = lead (modKeeper (fun k => { k with votes := dedupKeep (k.votes ++ [src]) }) s) := by
  refine (if_pos hk).trans ?_
  rw [seeTerm_of_le (Nat.le_refl _)]
  exact if_pos (by simp [hr])

theorem doVote_of_denied (hk : s.keeps src = true) : doVote src s.comp.keeper.term false s = s := by
  refine (if_pos hk).trans ?_
  rw [seeTerm_of_le (Nat.le_refl _)]
  exact if_neg Bool.false_ne_true

/-! ## Elections -/

/-- A keeper stands in the next term, with a limit drawn anew. -/
def State.standing (s : State) : State :=
  modKeeper (fun k => { k with term := k.term + 1, voted := some s.node, votes := [s.node], role := 3, leader := none,
                               hbAge := 0, limit := 25 + (draw s).1 % 26 }) (draw s).2

theorem doElection_of_due (hl : s.live = true) (hk : s.isKeeper = true) (hr : s.comp.keeper.role ≠ 2)
    (hd : s.comp.keeper.limit ≤ s.comp.keeper.hbAge) :
    doElection s = lead (sendAll s.standing.otherKeepers
      (.voteReq s.standing.comp.keeper.term s.standing.comp.keeper.lastIdx s.standing.comp.keeper.lastTerm) s.standing) :=
  if_pos (by simp [hl, hk, hr, hd])

theorem doElection_of_early (h : s.isKeeper = false ∨ s.comp.keeper.role = 2 ∨ s.comp.keeper.hbAge < s.comp.keeper.limit) :
    doElection s = s := by
  refine if_neg ?_
  rcases h with h | h | h <;> simp [h]

theorem majority_pos (s : State) : 0 < s.majority := Nat.succ_pos _

/-- A keeper that hears no HEARTBEAT stands, and leads at once where it is the only one. -/
theorem doElection_outcome (hl : s.live = true) (hk : s.isKeeper = true) (hr : s.comp.keeper.role ≠ 2)
    (hd : s.comp.keeper.limit ≤ s.comp.keeper.hbAge) :
    (doElection s).comp.keeper.term = s.comp.keeper.term + 1 ∧ (doElection s).comp.keeper.voted = some s.node ∧
      (doElection s).comp.keeper.votes = [s.node] ∧ (doElection s).comp.keeper.hbAge = 0 ∧
      25 ≤ (doElection s).comp.keeper.limit ∧ (doElection s).comp.keeper.limit ≤ 50 ∧
      (1 < s.majority → (doElection s).comp.keeper.role = 3 ∧ (doElection s).comp.keeper.leader = none ∧
        (doElection s).comp.keeper.log = s.comp.keeper.log) ∧
      (s.majority = 1 → (doElection s).comp.keeper.role = 2 ∧ (doElection s).comp.keeper.leader = some s.node) := by
  rw [doElection_of_due hl hk hr hd]
  generalize ht : sendAll s.standing.otherKeepers _ s.standing = t
  have hcomp : t.comp = s.standing.comp := by rw [← ht]; exact sendAll_comp ..
  have hmaj : t.majority = s.majority := by unfold State.majority; rw [hcomp]; rfl
  have hnode : t.node = s.node := by subst ht; exact node_sendAll ..
  have hlimit : 25 + (draw s).1 % 26 ≤ 50 := by omega
  rcases Nat.lt_or_ge 1 s.majority with hm | hm
  · have hvotes : t.comp.keeper.votes.length < t.majority := by rw [hcomp, hmaj]; exact hm
    rw [lead_of_short hvotes, hcomp]
    exact ⟨rfl, rfl, rfl, rfl, Nat.le_add_right _ _, hlimit, fun _ => ⟨rfl, rfl, rfl⟩, fun h => absurd h (Nat.ne_of_gt hm)⟩
  · have hvotes : t.majority ≤ t.comp.keeper.votes.length := by rw [hcomp, hmaj]; exact hm
    rw [lead_of_majority (by rw [hcomp]; rfl) hvotes, sendAll_comp]
    refine ⟨?_, ?_, ?_, rfl, ?_, ?_, fun h => absurd h (Nat.not_lt.mpr hm), fun _ => ⟨rfl, congrArg some hnode⟩⟩
    · exact congrArg (fun c : Comp => c.keeper.term) hcomp
    · exact congrArg (fun c : Comp => c.keeper.voted) hcomp
    · exact congrArg (fun c : Comp => c.keeper.votes) hcomp
    · exact (Nat.le_add_right 25 _).trans_eq (congrArg (fun c : Comp => c.keeper.limit) hcomp).symm
    · exact (congrArg (fun c : Comp => c.keeper.limit) hcomp).trans_le hlimit

/-! ## Abandoned entries and proposals -/

/-- The leading keeper's entries that were not committed in time. -/
def State.lateEntries (s : State) : List KEnt :=
  if s.comp.keeper.role = 2 then s.comp.keeper.log.filter fun x => !x.committed && !x.abandoned && decide (x.e.act ≤ s.hfn + 10) else []

/-- An entry is abandoned, and its proposer is told. -/
def abandonOne (s : State) (x : KEnt) : State :=
  answerProp x.e.src x.e.prop 2 0 (modKeeper (fun k => { k with
    log := mapIf (fun y => y.e.idx == x.e.idx && y.e.term == x.e.term) (fun y => { y with abandoned := true }) k.log }) s)

/-- The proposals of this node that got no result in time. -/
def State.lateProps (s : State) : List Prop_ := s.comp.props.filter fun p => decide (p.asked + fld s.comp.mapEff 15 8 ≤ s.hfn)

theorem doAbandon_of_live (hl : s.live = true) :
    doAbandon s = ((s.lateEntries.foldl abandonOne s).lateProps).foldl (fun s p => propResult p.id 2 0 s) (s.lateEntries.foldl abandonOne s) :=
  if_pos hl

theorem lateEntries_of_none (h : s.comp.keeper.role = 2 → ∀ x ∈ s.comp.keeper.log, x.committed = true ∨ x.abandoned = true ∨ s.hfn + 10 < x.e.act) :
    s.lateEntries = [] := by
  unfold State.lateEntries
  split
  next hr =>
    refine List.filter_eq_nil_iff.mpr fun x hx => ?_
    rcases h hr x hx with h | h | h <;> simp [h]
  · rfl

theorem lateEntries_single {x : KEnt} (hr : s.comp.keeper.role = 2) (hl : s.comp.keeper.log = [x]) (hc : x.committed = false)
    (ha : x.abandoned = false) (hact : x.e.act ≤ s.hfn + 10) : s.lateEntries = [x] := by
  unfold State.lateEntries
  rw [if_pos hr, hl]
  exact List.filter_cons_of_pos (l := []) (by simp [hc, ha, hact])

theorem made_le_asked (p : Prop_) : p.made ≤ p.asked := by
  unfold Prop_.asked
  split
  · exact Nat.le_max_left _ _
  · exact Nat.le_refl _

theorem lateProps_of_none (h : ∀ p ∈ s.comp.props, s.hfn < p.made + fld s.comp.mapEff 15 8) : s.lateProps = [] := by
  refine List.filter_eq_nil_iff.mpr fun p hp => ?_
  have := h p hp
  have := made_le_asked p
  simp only [decide_eq_true_eq]
  exact fun hle => Nat.lt_irrefl _ ((h p hp).trans_le ((Nat.add_le_add_right (made_le_asked p) _).trans hle))

theorem abandonOne_of_other {x : KEnt} (hl : s.comp.keeper.log = [x]) (hsrc : x.e.src ≠ s.node) :
    abandonOne s x = sendMap x.e.src (.proposeResult x.e.prop 2 0) { s with
      comp := { s.comp with keeper := { s.comp.keeper with log := [{ x with abandoned := true }] } } } := by
  refine (if_neg hsrc).trans ?_
  refine congrArg (fun l => sendMap x.e.src (.proposeResult x.e.prop 2 0)
    { s with comp := { s.comp with keeper := { s.comp.keeper with log := l } } }) ?_
  rw [hl]
  simp [mapIf]

/-- A proposal that nothing here waits for is forgotten with its result. -/
theorem propResult_of_forgotten {p : Prop_} {n r result epoch : Nat} (hp : s.comp.props = [p]) (he : p.ent = .role n r) (hw : p.work = none)
    (hc : p.chan = none) : propResult p.id result epoch s = { s with comp := { s.comp with props := [] } } := by
  have hfind : s.comp.props.find? (·.id == p.id) = some p := by rw [hp]; simp
  rw [propResult_of_prop hfind, hp]
  unfold Prop_.tellWork Prop_.tellChan Prop_.noteResult
  rw [hw, hc, he]
  simp

end

/-- Settles O45: each message is read against the keeper's term and log; commitment, elections and abandonment follow the one rule of
each. -/
theorem keeperLogAndElections : Obligations.KeeperLogAndElections := by
  unfold Obligations.KeeperLogAndElections
  refine ⟨fun s src => ⟨fun term pi pt ents hh hk => ⟨fun ht => ?_, fun ht hn => ?_, fun e ht hy he hx => ?_, fun ht => ?_⟩, fun term pi pt ents hk => ?_,
      fun idx hk hr => ⟨fun hall => ?_, fun x hl hc ha ht hi hp hact hm => ?_⟩, fun term idx hr ht => ?_,
      fun term commit hh => ⟨fun h => ?_, fun hk ht => ?_⟩, fun first e a hh hp => ⟨fun hf => ?_, fun hf => ?_⟩,
      fun first => ⟨fun hk => ?_, fun hk => ?_⟩⟩,
    fun s src => ⟨fun term li lt hk => ⟨fun ht hv hu => ?_, fun ht h => ?_, fun ht => ?_, fun ht hu => ?_⟩,
      fun hk hr => ⟨fun hm => ?_, fun hm => ?_, ?_⟩, fun hl hk hr hd => ?_, fun h => ?_, fun hl hd => ?_, fun hd => ?_,
      fun x hl hr hlog hc ha hact hsrc hp => ?_, fun p n r hl hr hp he hw hc hd => ?_, fun he hp => ?_⟩⟩
  · refine congrArg Host.Outcome.next ((doAppend_of_takes hh hk).trans ?_)
    rw [seeTerm_of_le (Nat.le_of_lt ht)]
    exact if_pos ht
  · refine congrArg Host.Outcome.next ((doAppend_of_takes hh hk).trans ?_)
    subst ht
    rw [seeTerm_of_le (Nat.le_refl _), if_neg (Nat.lt_irrefl _)]
    exact if_neg fun h => Bool.false_ne_true (hn.symm.trans h)
  · refine congrArg Host.Outcome.next ((doAppend_of_takes hh hk).trans ?_)
    subst ht he
    rw [seeTerm_of_le (Nat.le_refl _), if_neg (Nat.lt_irrefl _)]
    refine (if_pos hy).trans ?_
    have hext := extend_single (k := (follow src s).comp.keeper) hx
    have hmod : modKeeper (fun k => k.extend [e]) (follow src s) = { s with comp := { s.comp with
        keeper := { s.comp.keeper with role := 1, leader := some src, hbAge := 0
                                       log := s.comp.keeper.log.filter (fun x => decide (x.e.idx < e.idx)) ++ [⟨e, [], false, false⟩] } } } :=
      congrArg (fun k => { s with comp := { s.comp with keeper := k } }) hext
    rw [hmod]
    exact congrArg (fun i => sendMap src (.appendAck s.comp.keeper.term i) _) (lastIdx_append (follow src s).comp.keeper _ _)
  · exact ⟨_, rfl, doAppend_of_newer hh hk ht⟩
  · refine congrArg Host.Outcome.next (if_neg ?_)
    simp [hk]
  · exact congrArg Host.Outcome.next (doAppendAck_of_whole hk hr hall)
  · have hall : ∀ y ∈ s.comp.keeper.log, y.e.idx ≤ idx := by rw [hl]; simpa using hi
    have hack := doAppendAck_of_whole hk hr hall
    rw [hl] at hack
    have hcommit := tryCommit_single (s := { s with comp := { s.comp with
        keeper := { s.comp.keeper with log := [{ x with acks := dedupKeep (x.acks ++ [src]) }] } } }) hr rfl ht hm hc ha hact
    obtain ⟨h1, h2⟩ := commitOne_single (s := { s with comp := { s.comp with
        keeper := { s.comp.keeper with log := [{ x with acks := dedupKeep (x.acks ++ [src]) }] } } }) rfl hp
    exact ⟨_, _, congrArg Host.Outcome.next (hack.trans hcommit), h1, rfl, rfl, h2⟩
  · exact congrArg Host.Outcome.next (doAppendAck_of_no_leader hr ht)
  · exact congrArg Host.Outcome.next (doHall_of_follower hh h)
  · subst ht; exact congrArg Host.Outcome.next (doHall_of_keeper hh hk)
  · exact congrArg Host.Outcome.next ((doEntries_of_hears hh).trans (queueEntries_next (s := modKeeper (Keeper.learn [(e, a)]) s) hp hf))
  · exact congrArg Host.Outcome.next ((doEntries_of_hears hh).trans (queueEntries_known (s := modKeeper (Keeper.learn [(e, a)]) s) hp hf))
  · exact congrArg Host.Outcome.next (if_pos hk)
  · exact congrArg Host.Outcome.next (if_neg (by simp [hk]))
  · subst ht
    have hsame := seeTerm_of_le (s := s) (Nat.le_refl _)
    have hg : (seeTerm s.comp.keeper.term s).grants src s.comp.keeper.term li lt = true := by
      rw [hsame]; unfold State.grants; rcases hv with hv | hv <;> simp [hv, hu]
    have h := doVoteReq_of_granted hk hg
    rw [hsame] at h
    exact congrArg Host.Outcome.next h
  · subst ht
    have hsame := seeTerm_of_le (s := s) (Nat.le_refl _)
    have hg : (seeTerm s.comp.keeper.term s).grants src s.comp.keeper.term li lt = false := by
      rw [hsame]; unfold State.grants
      rcases h with ⟨n, hv, hne⟩ | hu
      · simp [hv, hne]
      · simp [hu]
    have h := doVoteReq_of_denied hk hg
    rw [hsame] at h
    exact congrArg Host.Outcome.next h
  · have hsame := seeTerm_of_le (s := s) (Nat.le_of_lt ht)
    have hg : (seeTerm term s).grants src term li lt = false := by
      rw [hsame]; unfold State.grants; simp [Nat.ne_of_lt ht]
    have h := doVoteReq_of_denied hk hg
    rw [hsame] at h
    exact congrArg Host.Outcome.next h
  · have hnew := seeTerm_of_newer ht
    have hg : (seeTerm term s).grants src term li lt = true := by
      rw [hnew]; unfold State.grants
      have hu' : Keeper.upToDate { s.comp.keeper with term := term, voted := none, role := 1, leader := none, votes := [] } li lt = true := hu
      simp [modKeeper, hu']
    have h := doVoteReq_of_granted hk hg
    rw [hnew] at h
    exact congrArg Host.Outcome.next h
  · exact congrArg Host.Outcome.next ((doVote_of_granted hk hr).trans (lead_of_short hm))
  · exact congrArg Host.Outcome.next ((doVote_of_granted hk hr).trans (lead_of_majority hr hm))
  · exact congrArg Host.Outcome.next (doVote_of_denied hk)
  · exact ⟨_, rfl, doElection_outcome hl hk hr hd⟩
  · exact congrArg Host.Outcome.next (doElection_of_early h)
  · exact congrArg Host.Outcome.next (if_pos (by simp [hl, hd]))
  · exact congrArg Host.Outcome.next (if_neg (by simp [Nat.not_le.mpr hd]))
  · have h := doAbandon_of_live hl
    rw [lateEntries_single hr hlog hc ha hact] at h
    have hone : [x].foldl abandonOne s = abandonOne s x := rfl
    rw [hone, abandonOne_of_other hlog hsrc] at h
    have hnone := lateProps_of_none (s := sendMap x.e.src (.proposeResult x.e.prop 2 0) { s with
      comp := { s.comp with keeper := { s.comp.keeper with log := [{ x with abandoned := true }] } } }) (by
        rw [keeper_sendMap]; dsimp only; rw [hp]; exact fun p h => absurd h List.not_mem_nil)
    rw [hnone] at h
    exact congrArg Host.Outcome.next h
  · have h := doAbandon_of_live hl
    rw [lateEntries_of_none fun h2 => absurd h2 hr] at h
    have hasked : p.asked = p.made := by unfold Prop_.asked; rw [he]
    have hlate : s.lateProps = [p] := by
      unfold State.lateProps; rw [hp]; exact List.filter_cons_of_pos (l := []) (by rw [hasked]; exact decide_eq_true hd)
    refine congrArg Host.Outcome.next (h.trans ?_)
    show s.lateProps.foldl _ s = _
    rw [hlate]
    exact propResult_of_forgotten hp he hw hc
  · by_cases hl : s.live = true
    · have h := doAbandon_of_live hl
      rw [lateEntries_of_none he] at h
      refine congrArg Host.Outcome.next (h.trans ?_)
      show s.lateProps.foldl _ s = _
      rw [lateProps_of_none hp]
      rfl
    · exact congrArg Host.Outcome.next (if_neg hl)

end Sys2Proof.Machine

/-! # Proposals, cutovers, roles and the map registers (sections 07 and 13) -/

namespace Sys2Proof.Machine
-- The whole text is compiled by one process of limited memory: one proof at a time keeps it small.
set_option Elab.async false

section
variable {s : State} {src : Nat}

/-! ## Proposals at the leading keeper (R360, R362) -/

theorem doPropose_of_leader {id : Nat} {e : MapEntry} (hk : s.keeps src = true) (hr : s.comp.keeper.role = 2) :
    doPropose src id e s = leaderTake src id e s := if_pos (by simp [hk, hr])

theorem doPropose_of_follower {id : Nat} {e : MapEntry} (hr : s.comp.keeper.role ≠ 2) : doPropose src id e s = s :=
  if_neg (by simp [hr])

theorem leaderTake_role (id n r : Nat) :
    leaderTake src id (.role n r) s = if s.refuses (.role n r) then answerProp src id 1 0 s else leaderLog src id (.role n r) s := rfl

/-- The first entry of a leading keeper that is not alone waits for acknowledgements. -/
theorem leaderLog_first (id : Nat) (e : MapEntry) (hl : s.comp.keeper.log = []) (hm : 1 < s.majority) :
    (leaderLog src id e s).comp = { s.comp with keeper := { s.comp.keeper with
      log := [⟨⟨1, s.comp.keeper.term, e, s.hfn + fld s.comp.mapEff 15 8, src, id⟩, [s.node], false, false⟩] } } := by
  have hidx : s.comp.keeper.lastIdx = 0 := by unfold Keeper.lastIdx; rw [hl]; rfl
  unfold leaderLog
  dsimp only
  rw [hidx]
  generalize ht : sendAll s.otherKeepers _ s = t
  have hcomp : t.comp = s.comp := by rw [← ht]; exact sendAll_comp ..
  have hnode : t.node = s.node := by rw [← ht]; exact node_sendAll ..
  rw [hnode]
  have hmod : modKeeper (fun k => { k with
        log := k.log ++ [⟨⟨1, s.comp.keeper.term, e, s.hfn + fld s.comp.mapEff 15 8, src, id⟩, [s.node], false, false⟩] }) t =
      { t with comp := { s.comp with keeper := { s.comp.keeper with
        log := [⟨⟨1, s.comp.keeper.term, e, s.hfn + fld s.comp.mapEff 15 8, src, id⟩, [s.node], false, false⟩] } } } := by
    unfold modKeeper; rw [hcomp]; dsimp only; rw [hl]; rfl
  rw [Nat.zero_add, hmod]
  rw [tryCommit_of_short (s := { t with comp := { s.comp with keeper := { s.comp.keeper with
        log := [⟨⟨1, s.comp.keeper.term, e, s.hfn + fld s.comp.mapEff 15 8, src, id⟩, [s.node], false, false⟩] } } }) rfl hm Nat.one_pos]

/-! ## Results (R362) -/

theorem propResult_of_cutover {p : Prop_} {q e w result epoch : Nat} {c : Frame} {d : List Byte} (hp : s.comp.props = [p])
    (he : p.ent = .cutover q e c d) (hw : p.work = some w) (hc : p.chan = none) :
    propResult p.id result epoch s = completeId w (if result = 0 then .ok else if result = 1 then .badField else .timeout) 0
      (spec3 0 e (if result = 0 then epoch else 0)) { s with comp := { s.comp with props := [] } } := by
  have hfind : s.comp.props.find? (·.id == p.id) = some p := by rw [hp]; simp
  rw [propResult_of_prop hfind, hp]
  unfold Prop_.tellWork Prop_.tellChan Prop_.noteResult
  rw [hw, hc, he]
  simp

theorem propResult_of_policy {p : Prop_} {v : W32} {result epoch : Nat} (hp : s.comp.props = [p])
    (he : p.ent = .policy v) (hw : p.work = none) (hc : p.chan = none) (hr : result ≠ 0) :
    propResult p.id result epoch s = { s with comp := { s.comp with props := [], cfgReject := true } } := by
  have hfind : s.comp.props.find? (·.id == p.id) = some p := by rw [hp]; simp
  rw [propResult_of_prop hfind, hp]
  unfold Prop_.tellWork Prop_.tellChan Prop_.noteResult
  rw [hw, hc, he]
  simp [hr]

theorem propResult_of_stranger {p : Prop_} {id result epoch : Nat} (hp : s.comp.props = [p]) (h : id ≠ p.id) :
    propResult id result epoch s = s := propResult_of_none (by rw [hp]; simp [Ne.symm h])

/-! ## Cutovers (R191) -/

section
variable {w : CutWait} {p : Nat}

theorem dropCut_only (hw : s.comp.keeper.cutWait = [w]) (hp : w.pv = p) :
    dropCut p s = { s with comp := { s.comp with keeper := { s.comp.keeper with cutWait := [] } } } :=
  congrArg (fun l => { s with comp := { s.comp with keeper := { s.comp.keeper with cutWait := l } } }) (by rw [hw]; simp [hp])

theorem doCutReady_of_wait (ready : Bool) (hw : s.comp.keeper.cutWait = [w]) (hp : w.pv = p) (hh : s.hears src = true) :
    doCutReady src p w.epoch ready s =
      if !ready then answerProp w.src w.prop 1 0 (dropCut p s)
      else if (w.await_.filter (· != src)).isEmpty && decide (s.hfn < w.c - 250) then
        leaderLog w.src w.prop (.cutover p w.epoch w.c w.digest) (dropCut p s)
      else modKeeper (fun k => { k with cutWait := mapIf (·.pv == p) (fun x => { x with await_ := w.await_.filter (· != src) }) k.cutWait }) s := by
  have hfind : s.comp.keeper.cutWait.find? (fun x => x.pv == p && x.epoch == w.epoch) = some w := by rw [hw]; simp [hp]
  unfold doCutReady
  rw [hfind]
  exact if_pos (by simp [hh])

theorem doCutReady_of_none (ep : Nat) (ready : Bool) (hw : s.comp.keeper.cutWait = []) : doCutReady src p ep ready s = s := by
  unfold doCutReady; rw [hw]; rfl

theorem doCutDeadline_of_wait (hw : s.comp.keeper.cutWait = [w]) (hp : w.pv = p) :
    doCutDeadline p s = if s.live && decide (w.c ≤ s.hfn + 250) then answerProp w.src w.prop 2 0 (dropCut p s) else s := by
  have hfind : s.comp.keeper.cutWait.find? (fun x => x.pv == p) = some w := by rw [hw]; simp [hp]
  unfold doCutDeadline
  rw [hfind]

theorem doCutDeadline_of_none (hw : s.comp.keeper.cutWait = []) : doCutDeadline p s = s := by
  unfold doCutDeadline; rw [hw]; rfl

theorem answerProp_of_other {to_ id result epoch : Nat} (h : to_ ≠ s.node) :
    answerProp to_ id result epoch s = sendMap to_ (.proposeResult id result epoch) s := if_neg h

end

/-! ## Roles (R378) -/

/-- The pools that can give a node to pool `to_`. -/
def State.givers (s : State) (short : List Bool) (to_ : Nat) : List Nat :=
  (List.range 3).filter fun r => r != to_ && !short.getD r false && decide (0 < s.comp.map.surplus r)

/-- Pool 1 alone has nodes to give to pool 0. -/
theorem givers_second (h1 : 0 < s.comp.map.surplus 1) (h2 : s.comp.map.surplus 2 = 0) : s.givers [true, false, false] 0 = [1] := by
  have hrange : List.range 3 = [0, 1, 2] := rfl
  unfold State.givers
  rw [hrange]
  simp [h1, h2]

theorem doRoleCheck_of_second {x : CMember} (hl : s.live = true) (hr : s.comp.keeper.role = 2) (hb : bit s.comp.map.policy 7 = true)
    (hn : s.hfn % 50000 = 0) (hs : s.clk.slot = none) (h1 : 0 < s.comp.map.surplus 1) (h2 : s.comp.map.surplus 2 = 0)
    (hx : (s.comp.map.pool 1).filter (fun x => decide (x.roleAt + fld s.comp.map.policy 30 24 * 50000 ≤ s.hfn)) = [x]) :
    doRoleCheck [true, false, false] s = keeperLog (.role x.node 0) s := by
  have hfrom : (List.range 3).filter (fun r => r != 0 && !([true, false, false].getD r false) && decide (0 < s.comp.map.surplus r)) = [1] :=
    givers_second h1 h2
  refine (if_pos (by simp [hl, hr, hb, hn, hs])).trans ?_
  rw [hfrom]
  simp only [List.all_cons, List.all_nil, Nat.le_refl, decide_true, Bool.and_self, List.filter_cons_of_pos, List.filter_nil]
  rw [hx]
  rfl

theorem doRoleCheck_of_idle {short : List Bool}
    (h : s.comp.keeper.role ≠ 2 ∨ bit s.comp.map.policy 7 = false ∨ s.hfn % 50000 ≠ 0 ∨ short = [false, false, false]) :
    doRoleCheck short s = s := by
  unfold doRoleCheck
  dsimp only
  split
  next hc =>
    obtain rfl : short = [false, false, false] := by
      rcases h with h | h | h | h
      · simp [h] at hc
      · simp [h] at hc
      · simp [h] at hc
      · exact h
    have hshort : (List.range 3).find? (fun r => [false, false, false].getD r false) = none := by decide
    rw [hshort]
  · rfl

/-! ## Registers (R379, R380) -/

variable {v : W32}

/-- A MAP_CFG word in its ranges; a keeper keeps its role bit. -/
def State.mapCfgOk (s : State) (v : W32) : Bool :=
  inRange 50 (fld v 15 8) 200 && decide (1 ≤ fld v 23 16) && decide (1 ≤ fld v 31 24) && !(s.isKeeper && !bit v 0)

theorem exec_mapCfgWrite (hup : s.bar0Up0 = true) :
    exec (.mapCfgWrite 0x900 v) s = .next (if s.mapCfgOk v then { s with comp := { s.comp with mapCfg := v &&& 0xFFFF_FF01#32 } }
      else { s with comp := { s.comp with cfgReject := true } }) :=
  congrArg Host.Outcome.next (if_pos hup)

theorem exec_moveCfgWrite (hup : s.bar0Up0 = true) :
    exec (.mapCfgWrite 0x914 v) s = .next (if decide (1 ≤ fld v 7 0) && inRange 1 (fld v 15 8) 64 then
        { s with comp := { s.comp with moveCfg := v &&& 0xFFFF#32 } }
      else { s with comp := { s.comp with cfgReject := true } }) :=
  congrArg Host.Outcome.next (if_pos hup)

/-- A ROLE_POLICY word whose minima fit and whose hold time is not 0. -/
def policyOk (w : W32) : Prop := fld w 6 0 + fld w 14 8 + fld w 22 16 ≤ 100 ∧ fld w 30 24 ≠ 0

theorem exec_rolePolicyWrite_of_ok (hup : s.bar0Up0 = true) (h : policyOk (v &&& 0x7F7F_7FFF#32)) :
    exec (.rolePolicyWrite v) s = .next (propose (.policy (v &&& 0x7F7F_7FFF#32)) none none s) := by
  obtain ⟨h1, h2⟩ := h
  refine congrArg Host.Outcome.next ((if_pos hup).trans (if_neg ?_))
  simp only [Bool.or_eq_true, decide_eq_true_eq, beq_iff_eq, h2, or_false]
  omega

theorem exec_rolePolicyWrite_of_bad (hup : s.bar0Up0 = true)
    (h : 100 < fld (v &&& 0x7F7F_7FFF#32) 6 0 + fld (v &&& 0x7F7F_7FFF#32) 14 8 + fld (v &&& 0x7F7F_7FFF#32) 22 16 ∨
      fld (v &&& 0x7F7F_7FFF#32) 30 24 = 0) :
    exec (.rolePolicyWrite v) s = .next { s with comp := { s.comp with cfgReject := true } } := by
  refine congrArg Host.Outcome.next ((if_pos hup).trans (if_pos ?_))
  rcases h with h | h <;> simp [h]

end

/-- Settles O46: each message meets one proposal, one waiting cutover or one pool, named by the hypotheses; the registers are their range
tests. -/
theorem proposalsAndRoles : Obligations.ProposalsAndRoles := by
  unfold Obligations.ProposalsAndRoles
  refine fun s src => ⟨fun id n r hk hr => ⟨fun hsrc href => ?_, fun href hl hm => ?_⟩, fun id e hr => ?_,
    fun p res ep hh hp => ⟨fun w q e c d he hw hc => ⟨?_, ?_⟩, fun v he hw hc hres => ?_, fun id hid => ?_⟩,
    fun p ep dg => ⟨fun hh => ?_, fun hh => ?_⟩,
    fun p w hw hp => ⟨fun hh hsrc => ⟨?_, fun hrest => ?_, fun hrest hd => ?_⟩, fun hl hsrc hd => ?_, fun hd => ?_⟩,
    fun p ep r hw => ⟨?_, ?_⟩, fun x hl hr hb hn hs h1 h2 hx => ?_, fun short h => ?_,
    fun v hup => ⟨fun h1 h2 h3 h4 hk => ?_, fun h => ?_, fun h1 h2 h3 => ?_, fun h => ?_, fun h1 h2 => ?_, fun h => ?_⟩⟩
  · refine congrArg Host.Outcome.next ((doPropose_of_leader hk hr).trans ?_)
    rw [leaderTake_role, if_pos href, answerProp_of_other hsrc]
  · refine ⟨_, congrArg Host.Outcome.next ((doPropose_of_leader hk hr).trans (leaderTake_role id n r)), ?_⟩
    rw [if_neg (by simp [href]), leaderLog_first id _ hl hm]
    exact ⟨rfl, rfl, rfl⟩
  · exact congrArg Host.Outcome.next (doPropose_of_follower hr)
  · exact congrArg Host.Outcome.next ((if_pos hh).trans (propResult_of_cutover hp he hw hc))
  · exact congrArg Host.Outcome.next ((if_pos hh).trans (propResult_of_cutover hp he hw hc))
  · exact congrArg Host.Outcome.next ((if_pos hh).trans (propResult_of_policy hp he hw hc hres))
  · exact congrArg Host.Outcome.next ((if_pos hh).trans (propResult_of_stranger hp hid))
  · exact congrArg Host.Outcome.next (if_pos hh)
  · exact congrArg Host.Outcome.next (if_neg (by simp [hh]))
  · refine congrArg Host.Outcome.next ((doCutReady_of_wait false hw hp hh).trans ?_)
    rw [dropCut_only hw hp]
    exact answerProp_of_other (s := { s with comp := { s.comp with keeper := { s.comp.keeper with cutWait := [] } } }) hsrc
  · refine congrArg Host.Outcome.next ((doCutReady_of_wait true hw hp hh).trans ?_)
    refine (if_neg (by simp)).trans ((if_neg (by simp [hrest])).trans ?_)
    refine congrArg (fun l => { s with comp := { s.comp with keeper := { s.comp.keeper with cutWait := l } } }) ?_
    rw [hw]
    simp [mapIf, hp]
  · refine congrArg Host.Outcome.next ((doCutReady_of_wait true hw hp hh).trans ?_)
    rw [dropCut_only hw hp]
    exact (if_neg (by simp)).trans (if_pos (by simp [hrest, hd]))
  · refine congrArg Host.Outcome.next ((doCutDeadline_of_wait hw hp).trans ?_)
    rw [dropCut_only hw hp]
    exact (if_pos (by simp [hl, hd])).trans
      (answerProp_of_other (s := { s with comp := { s.comp with keeper := { s.comp.keeper with cutWait := [] } } }) hsrc)
  · exact congrArg Host.Outcome.next ((doCutDeadline_of_wait hw hp).trans (if_neg (by simp [Nat.not_le.mpr hd])))
  · exact congrArg Host.Outcome.next (doCutReady_of_none ep r hw)
  · exact congrArg Host.Outcome.next (doCutDeadline_of_none hw)
  · exact congrArg Host.Outcome.next (doRoleCheck_of_second hl hr hb hn hs h1 h2 hx)
  · exact congrArg Host.Outcome.next (doRoleCheck_of_idle h)
  · rw [exec_mapCfgWrite hup, if_pos]
    rcases hk with hk | hk <;> simp [State.mapCfgOk, inRange, h1, h2, h3, h4, hk]
  · rw [exec_mapCfgWrite hup, if_neg]
    rcases h with h | h | h | h | ⟨h, h'⟩
    · simp [State.mapCfgOk, inRange, Nat.not_le.mpr h]
    · simp [State.mapCfgOk, inRange, Nat.not_le.mpr h]
    · simp [State.mapCfgOk, h]
    · simp [State.mapCfgOk, h]
    · simp [State.mapCfgOk, h, h']
  · rw [exec_moveCfgWrite hup, if_pos (by simp [inRange, h1, h2, h3])]
  · rw [exec_moveCfgWrite hup, if_neg]
    rcases h with h | h | h
    · simp [h]
    · simp [inRange, h]
    · simp [inRange, Nat.not_le.mpr h]
  · exact exec_rolePolicyWrite_of_ok hup ⟨h1, h2⟩
  · exact exec_rolePolicyWrite_of_bad hup h

end Sys2Proof.Machine

/-! # The Lodge's commands and services (section 15) -/

namespace Sys2Proof.Machine
-- The whole text is compiled by one process of limited memory: one proof at a time keeps it small.
set_option Elab.async false

/-! ## The guards of the PF0-to-Lodge channel (R418, R420) -/

section
variable {s : State} {cmd least n : Nat} {b : List Byte} {always : Bool} {f : Nat → List Byte → Nat → State → State}

theorem lodgeBlock_of_block (hup : s.lodgeUp = true) (hw : s.waits 0 cmd = true) (hb : s.wordBad 0 = false)
    (hk : s.keyless = false ∨ always = true) (hlen : blockLen least (some b) = some n) :
    lodgeBlock cmd least always (some b) f s = f (s.blkAddr 0) b n (s.blockRead 0 b.length) := by
  have hkey : (s.keyless && !always) = false := by rcases hk with hk | hk <;> simp [hk]
  unfold lodgeBlock
  rw [hup, hw, hb, hkey, hlen, readBlock_of_some]
  rfl

theorem lodgeBlock_of_takes (h : s.lodgeTakes cmd) (hlen : blockLen least (some b) = some n) :
    lodgeBlock cmd least always (some b) f s = f (s.blkAddr 0) b n (s.blockRead 0 b.length) := by
  obtain ⟨hup, hw, hb, hk⟩ := h
  exact lodgeBlock_of_block hup hw hb (.inl hk) hlen

theorem lodgeBlock_of_unread (h : s.lodgeTakes cmd) : lodgeBlock cmd least always none f s = chanAck 0 rcBadBlock (s.blockRead 0 64) := by
  obtain ⟨hup, hw, hb, hk⟩ := h
  unfold lodgeBlock
  rw [hup, hw, hb, hk, readBlock_of_none]
  rfl

theorem lodgeBlock_of_bad_word (blk : Option (List Byte)) (hup : s.lodgeUp = true) (hw : s.waits 0 cmd = true) (hb : s.wordBad 0 = true) :
    lodgeBlock cmd least always blk f s = chanAck 0 rcBadArg s := by
  unfold lodgeBlock
  rw [if_pos (by rw [hup, hw]; rfl), if_pos hb]

theorem lodgeBlock_of_keyless (blk : Option (List Byte)) (hup : s.lodgeUp = true) (hw : s.waits 0 cmd = true) (hb : s.wordBad 0 = false)
    (hk : s.keyless = true) : lodgeBlock cmd least false blk f s = chanAck 0 rcDenied s := by
  unfold lodgeBlock
  rw [if_pos (by rw [hup, hw]; rfl), if_neg (by simp [hb]), if_pos (by rw [hk]; rfl)]

variable {g : Nat → State → State}

theorem lodgeImm_of_takes (h : s.lodgeTakes cmd) : lodgeImm cmd g s = g (wordArg (s.chan 0).word) s := by
  obtain ⟨hup, hw, hb, hk⟩ := h
  unfold lodgeImm
  rw [hup, hw, hb, hk]
  rfl

theorem lodgeImm_of_bad_word (hup : s.lodgeUp = true) (hw : s.waits 0 cmd = true) (hb : s.wordBad 0 = true) :
    lodgeImm cmd g s = chanAck 0 rcBadArg s := by
  unfold lodgeImm
  rw [if_pos (by rw [hup, hw]; rfl), if_pos hb]

theorem lodgeImm_of_keyless (hup : s.lodgeUp = true) (hw : s.waits 0 cmd = true) (hb : s.wordBad 0 = false) (hk : s.keyless = true) :
    lodgeImm cmd g s = chanAck 0 rcDenied s := by
  unfold lodgeImm
  rw [if_pos (by rw [hup, hw]; rfl), if_neg (by simp [hb]), if_pos hk]

end

/-- A command in the way of the guards: BAD_ARG for a reserved bit, DENIED where no key exists. -/
def State.guarded (s t : State) : Prop :=
  (s.wordBad 0 = true → t = chanAck 0 rcBadArg s) ∧ (s.wordBad 0 = false → s.keyless = true → t = chanAck 0 rcDenied s)

theorem lodgeBlock_guarded {s : State} {cmd least : Nat} {f : Nat → List Byte → Nat → State → State} (blk : Option (List Byte))
    (hup : s.lodgeUp = true) (hw : s.waits 0 cmd = true) : s.guarded (lodgeBlock cmd least false blk f s) :=
  ⟨lodgeBlock_of_bad_word blk hup hw, lodgeBlock_of_keyless blk hup hw⟩

theorem lodgeImm_guarded {s : State} {cmd : Nat} {g : Nat → State → State} (hup : s.lodgeUp = true) (hw : s.waits 0 cmd = true) :
    s.guarded (lodgeImm cmd g s) := ⟨lodgeImm_of_bad_word hup hw, lodgeImm_of_keyless hup hw⟩

theorem next_of_guarded {s t : State} (h : s.guarded t) :
    (s.wordBad 0 = true → (Host.Outcome.next t : Host.Outcome State Fault Refusal) = .next (chanAck 0 rcBadArg s)) ∧
      (s.wordBad 0 = false → s.keyless = true → (Host.Outcome.next t : Host.Outcome State Fault Refusal) = .next (chanAck 0 rcDenied s)) :=
  ⟨fun hb => congrArg _ (h.1 hb), fun hb hk => congrArg _ (h.2 hb hk)⟩

/-! ## Reports -/

section
variable {s : State} {b : List Byte} {n : Nat}

theorem doAttest_of_takes (h : s.lodgeTakes 0x01) (hlen : blockLen 5248 (some b) = some n) (hz : zeroAt b 80 48 = true) :
    doAttest (some b) s = chanAck 0 rcOk (blockOut 0 (s.blkAddr 0) 0
      (hostWrite 0 (s.blkAddr 0 + 128) (report (slice b 16 64) s) (s.blockRead 0 b.length))) :=
  (lodgeBlock_of_takes h hlen).trans (if_pos hz)

theorem doIdentity_of_room (h : s.lodgeTakes 0x02) (hlen : blockLen 64 (some b) = some n) (hn : 2688 + s.lodge.fuses.idChain.length ≤ n) :
    doIdentity (some b) s = chanAck 0 rcOk (blockOut 0 (s.blkAddr 0) s.lodge.fuses.idChain.length
      (hostWrite 0 (s.blkAddr 0 + 2688) s.lodge.fuses.idChain
        (hostWrite 0 (s.blkAddr 0 + 64) (padTo 2592 s.lodge.fuses.idKey) (s.blockRead 0 b.length)))) :=
  (lodgeBlock_of_takes h hlen).trans (if_pos hn)

theorem doIdentity_of_short (h : s.lodgeTakes 0x02) (hlen : blockLen 64 (some b) = some n) (hn : n < 2688 + s.lodge.fuses.idChain.length) :
    doIdentity (some b) s = chanAck 0 rcBadBlock (s.blockRead 0 b.length) :=
  (lodgeBlock_of_takes h hlen).trans (if_neg (Nat.not_le.mpr hn))

theorem doLogRead_of_takes (h : s.lodgeTakes 0x03) (hlen : blockLen 64 (some b) = some n) :
    doLogRead (some b) s = chanAck 0 rcOk (blockOut 0 (s.blkAddr 0) s.lodge.logN
      (hostWrite 0 (s.blkAddr 0 + 64) ((s.lodge.log.drop (field b 16 4)).take ((n - 64) / 128)).flatten (s.blockRead 0 b.length))) :=
  lodgeBlock_of_takes h hlen

theorem doLcNonce_of_block (hup : s.lodgeUp = true) (hw : s.waits 0 0x06 = true) (hb : s.wordBad 0 = false)
    (hlen : blockLen 64 (some b) = some n) :
    doLcNonce (some b) s = chanAck 0 rcOk (blockOut 0 (s.blkAddr 0) 0
      (hostWrite 0 (s.blkAddr 0 + 16) (padTo 32 (Config.random s.lodge.nonceN)) { s.blockRead 0 b.length with
        lodge := { s.lodge with nonce := some (padTo 32 (Config.random s.lodge.nonceN)), nonceN := s.lodge.nonceN + 1 } })) :=
  lodgeBlock_of_block hup hw hb (.inr rfl) hlen

/-! ## Services for the Grounds (R389, R400, R422) -/

variable {p : Nat}

theorem doKeyInstall_of_new (hl : s.live = true) (hk : s.keyless = false) (hp : p < 12) (h : s.lodge.pvKeys.getD p none = none)
    (hs : (s.slices p).isSome = true) :
    doKeyInstall p s = modLodge (fun l => { l with pvKeys := modifyAt l.pvKeys p fun _ => some ⟨l.lc, true⟩ }) s := by
  unfold doKeyInstall
  rw [if_pos (by simp [hl, hk, hp]), h]
  exact if_pos hs

theorem doKeyInstall_of_key {k : PvKey} (hl : s.live = true) (hk : s.keyless = false) (hp : p < 12)
    (h : s.lodge.pvKeys.getD p none = some k) :
    doKeyInstall p s = if k.wrappedIn = s.lodge.lc then
        modLodge (fun l => { l with pvKeys := modifyAt l.pvKeys p fun _ => some ⟨k.wrappedIn, true⟩ }) s
      else emit (.internal "KEY DENIED" p) s := by
  unfold doKeyInstall
  rw [if_pos (by simp [hl, hk, hp]), h]

theorem doSakDerive_of_cak {port sub : Nat} (icv : Bool) (hl : s.live = true) (h : ∃ c ∈ s.lodge.caks, c.port = port ∧ c.sub = sub) :
    doSakDerive port sub icv s = if icv then emit (.internal "ICV" (2 * port + sub)) s
      else modLodge (fun l => { l with saks := dedupKeep (l.saks ++ [(port, sub)]) }) s := by
  have hany : s.lodge.caks.any (fun c => c.port == port && c.sub == sub) = true := by simpa using h
  exact (if_pos hl).trans (if_pos hany)

theorem doSakDerive_of_none {port sub : Nat} (icv : Bool) (hl : s.live = true) (h : ∀ c ∈ s.lodge.caks, ¬ (c.port = port ∧ c.sub = sub)) :
    doSakDerive port sub icv s = emit (.internal "SAK DENIED" (2 * port + sub)) s := by
  have hany : s.lodge.caks.any (fun c => c.port == port && c.sub == sub) = false := by simpa using h
  exact (if_pos hl).trans (if_neg (by rw [hany]; exact Bool.false_ne_true))

end

/-- Settles O47: the guards of the channel come first, the same for every command, then the command's own report; the services are read off
the keys that the Lodge holds. -/
theorem lodgeReportsAndServices : Obligations.LodgeReportsAndServices := by
  unfold Obligations.LodgeReportsAndServices
  refine ⟨fun s b n => ⟨fun h hlen hz => ?_, fun h hlen hn => ?_, fun h hlen hn => ?_, fun h hlen => ?_, fun hup hw hb hlen => ?_,
      fun x hx h => ?_, fun x hx hup hw => ?_⟩,
    fun s hl => ⟨fun p hk h hs => ?_, fun p k hk h hkey => ?_, fun p k hk h hkey => ?_, fun port sub h => ⟨?_, ?_⟩, fun port sub icv h => ?_, ?_⟩⟩
  · exact congrArg Host.Outcome.next (doAttest_of_takes h hlen hz)
  · exact congrArg Host.Outcome.next (doIdentity_of_room h hlen hn)
  · exact congrArg Host.Outcome.next (doIdentity_of_short h hlen hn)
  · exact congrArg Host.Outcome.next (doLogRead_of_takes h hlen)
  · exact congrArg Host.Outcome.next (doLcNonce_of_block hup hw hb hlen)
  · simp only [List.mem_cons, List.not_mem_nil, or_false] at hx
    rcases hx with rfl | rfl | rfl | rfl | rfl | rfl
    · exact congrArg Host.Outcome.next (lodgeBlock_of_unread h)
    · exact congrArg Host.Outcome.next (lodgeBlock_of_unread h)
    · exact congrArg Host.Outcome.next (lodgeBlock_of_unread h)
    · exact congrArg Host.Outcome.next ((if_neg Bool.false_ne_true).trans (lodgeBlock_of_unread h))
    · exact congrArg Host.Outcome.next (lodgeBlock_of_unread h)
    · exact congrArg Host.Outcome.next (lodgeBlock_of_unread h)
  · simp only [List.mem_cons, List.not_mem_nil, or_false] at hx
    rcases hx with rfl | rfl | rfl | rfl | rfl | rfl | rfl
    · exact next_of_guarded (lodgeBlock_guarded _ hup hw)
    · exact next_of_guarded (lodgeBlock_guarded _ hup hw)
    · exact next_of_guarded (lodgeBlock_guarded _ hup hw)
    · refine next_of_guarded ?_
      unfold doImageStage
      rw [if_neg Bool.false_ne_true]
      exact lodgeBlock_guarded (some b) hup hw
    · exact next_of_guarded (lodgeImm_guarded hup hw)
    · exact next_of_guarded (lodgeImm_guarded hup hw)
    · exact next_of_guarded (lodgeBlock_guarded _ hup hw)
  · exact congrArg Host.Outcome.next (doKeyInstall_of_new hl hk p.isLt h hs)
  · exact congrArg Host.Outcome.next ((doKeyInstall_of_key hl hk p.isLt h).trans (if_pos hkey))
  · exact congrArg Host.Outcome.next ((doKeyInstall_of_key hl hk p.isLt h).trans (if_neg hkey))
  · exact congrArg Host.Outcome.next (doSakDerive_of_cak false hl h)
  · exact congrArg Host.Outcome.next (doSakDerive_of_cak true hl h)
  · exact congrArg Host.Outcome.next (doSakDerive_of_none icv hl h)
  · exact congrArg Host.Outcome.next (if_pos hl)

end Sys2Proof.Machine

/-! # What the Lodge's commands change (sections 14 and 15) -/

namespace Sys2Proof.Machine
-- The whole text is compiled by one process of limited memory: one proof at a time keeps it small.
set_option Elab.async false

/-! ## Slots and boot records of the NOR (R402, R406) -/

theorem norRec_setNorSlot (q : Qspi) (k : Nat) (b : Bool) (i : Image) (j : Nat) : norRec (setNorSlot q k b i) j = norRec q j := by
  unfold setNorSlot norRec
  by_cases hk : k = 0 <;> cases b <;> simp [hk]

theorem norSlot_setNorSlot (q : Qspi) (k : Nat) (b : Bool) (i : Image) : norSlot (setNorSlot q k b i) k b = i := by
  unfold setNorSlot norSlot
  by_cases hk : k = 0 <;> cases b <;> simp [hk]

theorem norSlot_setNorRec (q : Qspi) (k : Nat) (r : BootRec) (j : Nat) (b : Bool) : norSlot (setNorRec q k r) j b = norSlot q j b := by
  unfold setNorRec norSlot
  by_cases hk : k = 0 <;> simp [hk]

theorem norRec_setNorRec (q : Qspi) (k : Nat) (r : BootRec) : norRec (setNorRec q k r) k = r := by
  unfold setNorRec norRec
  by_cases hk : k = 0 <;> simp [hk]

theorem imgSound_of_valid {f : Fuses} {k : Nat} {i : Image} (h : imgValid f k i = true) : imgSound f k i = true := by
  unfold imgValid at h; exact (Bool.and_eq_true _ _ ▸ h).1

section
variable {s : State} {b : List Byte} {n : Nat}

/-! ## Image stages (R407) -/

theorem doImageStage_start {blk : Option (List Byte)} {img : Option Image} :
    doImageStage blk img false s = lodgeBlock 0x04 64 false blk (fun _ b _ s =>
      if s.lodge.staging.isSome then chanAck 0 rcBusy s
      else if !(zeroAt b 17 7 && zeroAt b 40 24) then chanAck 0 rcBadBlock s
      else if 1 < field b 16 1 then chanAck 0 rcBadArg s
      else
        let s := hostRead 0 (field b 24 8) (field b 32 8) s
        match img with
        | none => chanAck 0 rcFault s
        | some i =>
          modChan 0 (fun x => { x with taken := true }) (modLodge (fun l => { l with staging := some (field b 16 1 == 1, i) }) s)) s := by
  unfold doImageStage; exact if_neg Bool.false_ne_true

/-- A sound stage is begun: its block and its image are read. -/
theorem doImageStage_of_sound {i : Image} (h : s.lodgeTakes 0x04) (hlen : blockLen 64 (some b) = some n) (hs : s.lodge.staging = none)
    (hz : (zeroAt b 17 7 && zeroAt b 40 24) = true) (hk : field b 16 1 ≤ 1) (hup : s.fnUp 0 = true) :
    doImageStage (some b) (some i) false s = modChan 0 (fun x => { x with taken := true })
      { s with lodge := { s.lodge with staging := some (field b 16 1 == 1, i) }
               out := s.out ++ [.read 0 (s.blkAddr 0) b.length .snooped, .read 0 (field b 24 8) (field b 32 8) .snooped] } := by
  have hread : s.blockRead 0 b.length = { s with out := s.out ++ [.read 0 (s.blkAddr 0) b.length .snooped] } := by
    unfold State.blockRead State.readsHost
    rw [show chanFn 0 = 0 from rfl, hup]
    rfl
  rw [doImageStage_start, lodgeBlock_of_takes h hlen, hread]
  dsimp only
  rw [hs, if_neg (by simp), if_neg (by simp [hz]), if_neg (Nat.not_lt.mpr hk)]
  rw [show hostRead 0 (field b 24 8) (field b 32 8) { s with out := s.out ++ [.read 0 (s.blkAddr 0) b.length .snooped] } =
      { s with out := s.out ++ [.read 0 (s.blkAddr 0) b.length .snooped] ++ [.read 0 (field b 24 8) (field b 32 8) .snooped] } from
    if_pos hup, List.append_assoc]
  rfl

theorem doImageStage_end {k : Bool} {i : Image} (blk : Option (List Byte)) (img : Option Image) (hup : s.lodgeUp = true)
    (hs : s.lodge.staging = some (k, i)) : doImageStage blk img true s = endStage k i s := by
  unfold doImageStage
  rw [if_pos rfl, hs]
  exact if_pos hup

/-- The state with the copy written and the stage over. -/
def State.staged (s : State) (k : Bool) (i : Image) : State :=
  modLodge (fun l => { l with staging := none, qspi := setNorSlot l.qspi (if k then 1 else 0) (!(norRec l.qspi (if k then 1 else 0)).pref) i }) s

theorem endStage_of_unsound {k : Bool} {i : Image} (h : imgSound s.lodge.fuses (if k then 1 else 0) i = false) :
    endStage k i s = stageAck rcVerifyFail (s.staged k i) := by
  have hv : imgValid s.lodge.fuses (if k then 1 else 0) i = false := by unfold imgValid; rw [h]; rfl
  unfold endStage
  dsimp only
  refine (if_neg ?_).trans ?_
  · exact fun e => Bool.false_ne_true (hv.symm.trans e)
  · exact congrArg (fun rc => stageAck rc (s.staged k i)) (if_neg fun e => Bool.false_ne_true (h.symm.trans e))

theorem endStage_of_valid {k : Bool} {i : Image} (h : imgValid s.lodge.fuses (if k then 1 else 0) i = true) :
    endStage k i s = stageAck rcOk (logImage 3 (if k then 1 else 0) (!(norRec s.lodge.qspi (if k then 1 else 0)).pref) i
      (modLodge (fun l => { l with qspi := setNorRec l.qspi (if k then 1 else 0) ⟨!(norRec s.lodge.qspi (if k then 1 else 0)).pref, 0⟩ })
        (s.staged k i))) := if_pos h

theorem stageAck_of_taken {rc : Nat} (hf : (s.chan 0).full = true) (ht : (s.chan 0).taken = true) (hrc : rc ≠ rcOk) :
    stageAck rc s = chanAck 0 rc s := by
  unfold stageAck; rw [if_pos (by rw [hf, ht]; rfl), if_neg hrc]

theorem stageAck_of_withdrawn {rc : Nat} (h : (s.chan 0).full = false ∨ (s.chan 0).taken = false) : stageAck rc s = s :=
  if_neg (by rcases h with h | h <;> simp [h])

theorem endStage_valid_outcome {k : Bool} {i : Image} (h : imgValid s.lodge.fuses (if k then 1 else 0) i = true) :
    (endStage k i s).lodge.staging = none ∧
      norRec (endStage k i s).lodge.qspi (if k then 1 else 0) = ⟨!(norRec s.lodge.qspi (if k then 1 else 0)).pref, 0⟩ ∧
      norSlot (endStage k i s).lodge.qspi (if k then 1 else 0) (!(norRec s.lodge.qspi (if k then 1 else 0)).pref) = i ∧
      (endStage k i s).lodge.logN = s.lodge.logN + 1 := by
  rw [endStage_of_valid h, (stageAck_keeps ..).lodge]
  refine ⟨rfl, ?_, ?_, rfl⟩
  · exact norRec_setNorRec ..
  · exact (norSlot_setNorRec ..).trans (norSlot_setNorSlot ..)

/-! ## Messages to the host (R424) -/

theorem lodge_rxPump (s : State) : ∃ m, (rxPump s).lodge = { s.lodge with lastMsg := m } := by
  unfold rxPump
  split
  · split
    · exact ⟨s.lodge.lastMsg, rfl⟩
    · dsimp only
      split
      · exact ⟨_, (fire_keeps ..).lodge⟩
      · exact ⟨_, rfl⟩
  · exact ⟨s.lodge.lastMsg, rfl⟩

/-- A message to the host changes the last message of the Lodge, and no more of it. -/
theorem lodge_lodgePost (cmd unit_ detail : Nat) (s : State) : ∃ m, (lodgePost cmd unit_ detail s).lodge = { s.lodge with lastMsg := m } := by
  have hemit (xs : List Byte) (t : State) : (xs.foldl (fun s b => emit (.uart b) s) t).lodge = t.lodge := by
    induction xs generalizing t with
    | nil => rfl
    | cons x xs ih => exact ih _
  obtain ⟨m, hm⟩ := lodge_rxPump _
  exact ⟨m, hm.trans (congrArg (fun l : Lodge => { l with lastMsg := m }) (hemit _ s))⟩

/-! ## Rollback counts (R404) -/

theorem doRollbackCommit_of_lodge {r : Running} (h : s.lodgeTakes 0x05) (ha : wordArg (s.chan 0).word = 0) (hr : s.lodge.lodgeImg = some r)
    (hn : s.lodge.fuses.lodgeCount < r.svn) :
    doRollbackCommit s = chanAck 0 rcOk (lodgePost 0x83 0 r.svn (addLog 5 [] (leBytes 1 s.lodge.fuses.lodgeCount ++ leBytes 1 r.svn)
      (modLodge (fun l => { l with fuses := { l.fuses with lodgeCount := r.svn } }) s))) := by
  refine (lodgeImm_of_takes h).trans ?_
  rw [ha, if_neg (by decide), if_pos rfl, hr]
  exact if_neg (Nat.not_le.mpr hn)

theorem doRollbackCommit_of_grounds {r : Running} (h : s.lodgeTakes 0x05) (ha : wordArg (s.chan 0).word = 1) (hr : s.lodge.groundsImg = some r)
    (hn : r.svn ≤ s.lodge.fuses.groundsCount) : doRollbackCommit s = chanAck 0 rcOk s := by
  refine (lodgeImm_of_takes h).trans ?_
  rw [ha, if_neg (by decide), if_neg (by decide), hr]
  exact if_pos hn

theorem rollbackCommit_outcome {r : Running} (h : s.lodgeTakes 0x05) (ha : wordArg (s.chan 0).word = 0) (hr : s.lodge.lodgeImg = some r)
    (hn : s.lodge.fuses.lodgeCount < r.svn) :
    (doRollbackCommit s).lodge.fuses = { s.lodge.fuses with lodgeCount := r.svn } ∧ (doRollbackCommit s).lodge.logN = s.lodge.logN + 1 ∧
      (doRollbackCommit s).lodge.lodgeSvn = s.lodge.lodgeSvn := by
  rw [doRollbackCommit_of_lodge h ha hr hn, (chanAck_keeps ..).lodge]
  obtain ⟨m, hm⟩ := lodge_lodgePost 0x83 0 r.svn (addLog 5 [] (leBytes 1 s.lodge.fuses.lodgeCount ++ leBytes 1 r.svn)
    (modLodge (fun l => { l with fuses := { l.fuses with lodgeCount := r.svn } }) s))
  rw [hm]
  exact ⟨rfl, rfl, rfl⟩

/-! ## Life cycle (R412) -/

theorem doLcAdvance_of_block (sigOk : Bool) (hup : s.lodgeUp = true) (hw : s.waits 0 0x07 = true) (hb : s.wordBad 0 = false)
    (hlen : blockLen 64 (some b) = some n) (hz : zeroAt b 17 15 = true) :
    doLcAdvance (some b) sigOk s =
      if lcPermitted s.lodge b n (field b 16 1) sigOk then
        chanAck 0 rcOk (blockOut 0 (s.blkAddr 0) 0 (lodgePost 0x82 (field b 16 1) s.lodge.fuses.lc
          (addLog 4 [] (leBytes 1 s.lodge.fuses.lc ++ leBytes 1 (field b 16 1)) (modLodge (fun l => { l with
            nonce := none, lcPending := true
            fuses := { l.fuses with lc := field b 16 1, uds := if field b 16 1 = 4 then false else l.fuses.uds || field b 16 1 == 1 }
            pvKeys := if field b 16 1 = 4 then l.pvKeys.map fun k => k.map fun x => { x with installed := false } else l.pvKeys
            caks := if field b 16 1 = 4 then [] else l.caks, saks := if field b 16 1 = 4 then [] else l.saks }) (s.blockRead 0 b.length)))))
      else chanAck 0 rcDenied (s.blockRead 0 b.length) := by
  refine (lodgeBlock_of_block hup hw hb (.inr rfl) hlen).trans ?_
  dsimp only
  rw [if_neg (by simp [hz])]
  rfl

theorem lcAdvance_outcome {sigOk : Bool} (hup : s.lodgeUp = true) (hw : s.waits 0 0x07 = true) (hb : s.wordBad 0 = false)
    (hlen : blockLen 64 (some b) = some n) (hz : zeroAt b 17 15 = true) (hp : lcPermitted s.lodge b n (field b 16 1) sigOk = true) :
    (doLcAdvance (some b) sigOk s).lodge.fuses.lc = field b 16 1 ∧ (doLcAdvance (some b) sigOk s).lodge.lcPending = true ∧
      (doLcAdvance (some b) sigOk s).lodge.nonce = none ∧ (doLcAdvance (some b) sigOk s).lodge.lc = s.lodge.lc ∧
      (doLcAdvance (some b) sigOk s).lodge.logN = s.lodge.logN + 1 := by
  rw [doLcAdvance_of_block sigOk hup hw hb hlen hz, if_pos hp, (chanAck_keeps ..).lodge, (blockOut_keeps ..).lodge]
  generalize hu : addLog 4 [] _ _ = u
  obtain ⟨m, hm⟩ := lodge_lodgePost 0x82 (field b 16 1) s.lodge.fuses.lc u
  rw [hm, ← hu]
  exact ⟨rfl, rfl, rfl, rfl, rfl⟩

/-! ## CAKs (R420) -/

theorem doCakSet_of_ok (h : s.lodgeTakes 0x09) (hlen : blockLen 128 (some b) = some n) (hz : zeroAt b 19 13 = true)
    (hp : field b 16 1 ≤ 19) (hs : field b 17 1 ≤ 1) (h1 : 1 ≤ field b 18 1) (h2 : field b 18 1 ≤ 32) :
    doCakSet (some b) s = chanAck 0 rcOk (blockOut 0 (s.blkAddr 0) 0 (hostWrite 0 (s.blkAddr 0 + 64) (zeros 32)
      { s.blockRead 0 b.length with lodge := { s.lodge with caks :=
        (s.lodge.caks.filter fun c => !(c.port == field b 16 1 && c.sub == field b 17 1)) ++
          [⟨field b 16 1, field b 17 1, slice b 32 (field b 18 1), slice b 64 32⟩] } })) := by
  refine (lodgeBlock_of_takes h hlen).trans ?_
  dsimp only
  rw [if_neg (by simp [hz]), if_pos (by simp [inRange, hp, hs, h1, h2])]
  rfl

theorem doCakSet_of_bad (h : s.lodgeTakes 0x09) (hlen : blockLen 128 (some b) = some n) (hz : zeroAt b 19 13 = true)
    (hbad : 19 < field b 16 1 ∨ 1 < field b 17 1 ∨ field b 18 1 = 0 ∨ 32 < field b 18 1) :
    doCakSet (some b) s = chanAck 0 rcBadArg (s.blockRead 0 b.length) := by
  refine (lodgeBlock_of_takes h hlen).trans ?_
  dsimp only
  rw [if_neg (by simp [hz]), if_neg]
  rcases hbad with h | h | h | h
  · simp [Nat.not_le.mpr h]
  · simp [Nat.not_le.mpr h]
  · simp [inRange, h]
  · simp [inRange, Nat.not_le.mpr h]

/-! ## Erasing a pavilion (R389) -/

variable {p : Nat}

theorem doPvErase_of_enabled (h : s.lodgeTakes 0x08) (ha : wordArg (s.chan 0).word = p) (hp : p < 12) (he : (s.fn (fnOf p)).enabled = true) :
    doPvErase s = chanAck 0 rcRefused s := by
  refine (lodgeImm_of_takes h).trans ?_
  rw [ha, if_neg (by omega)]
  exact if_pos he

theorem doPvErase_of_disabled (h : s.lodgeTakes 0x08) (ha : wordArg (s.chan 0).word = p) (hp : p < 12) (he : (s.fn (fnOf p)).enabled = false) :
    doPvErase s = chanAck 0 rcOk (unmapPv p (modLodge (fun l => { l with pvKeys := modifyAt l.pvKeys p fun _ => none }) s)) := by
  refine (lodgeImm_of_takes h).trans ?_
  rw [ha, if_neg (by omega), if_neg (by simp [he])]

theorem unmapPv_map (s : State) (p : Nat) : ∀ e ∈ (unmapPv p s).flash.map, ¬ (e.1.space ≤ 2 ∧ e.1.pv = p) := by
  intro e he
  have h := (List.mem_filter.mp he).2
  simpa only [Bool.not_eq_true', Bool.and_eq_false_iff, decide_eq_false_iff_not, beq_eq_false_iff_ne, ← not_and_or] using h

theorem unmapPv_pool (s : State) (p : Nat) : ∀ u ∈ (unmapPv p s).flash.pool, ¬ (u.lua.space ≤ 2 ∧ u.lua.pv = p) := by
  intro u hu
  have h := (List.mem_filter.mp hu).2
  simpa only [Bool.not_eq_true', Bool.and_eq_false_iff, decide_eq_false_iff_not, beq_eq_false_iff_ne, ← not_and_or] using h

theorem unmapPv_pages (hp : p < s.ranges.length) :
    ∀ g ∈ ((unmapPv p s).range p).pages, g.st ≠ .t3 ∧ g.st ≠ .t1OverT3 ∧ g.durable = false := by
  have hr : (unmapPv p s).range p = { s.range p with
      t3 := [], dur := []
      pages := ((s.range p).pages.filter fun g => g.st != .t3).map fun g =>
        { g with st := if g.st = .t1OverT3 then .t1Only else g.st, durable := false } } := getD_modifyAt_self _ _ _ _ hp
  intro g hg
  rw [hr] at hg
  obtain ⟨g', hg', rfl⟩ := List.mem_map.mp hg
  have h3 : g'.st ≠ .t3 := by simpa using (List.mem_filter.mp hg').2
  refine ⟨?_, ?_, rfl⟩
  · dsimp only
    split
    · simp
    · exact h3
  · dsimp only
    split
    · simp
    · assumption

end

/-- Settles O48: behind the guards of the channel each command is one change of what the Lodge holds. -/
theorem lodgeChanges : Obligations.LodgeChanges := by
  unfold Obligations.LodgeChanges
  refine fun s b n => ⟨fun i h hlen hs hz hk hup => ?_, fun k i img blk hup hs hbad => ?_, fun k i img blk hup hs hv => ?_,
    fun r h ha hr hn => ?_, fun r h ha hr hn => ?_, fun sigOk hup hw hb hlen hz => ⟨fun hp => ?_, fun hp => ?_⟩,
    fun h hlen hz => ⟨fun hp hsub h1 h2 => ?_, fun hbad => ?_⟩, fun p h ha => ⟨fun he => ?_, fun he hp => ?_⟩⟩
  · exact congrArg Host.Outcome.next (doImageStage_of_sound h hlen hs hz hk hup)
  · have hend := (doImageStage_end blk img hup hs).trans (endStage_of_unsound hbad)
    refine ⟨s.staged k i, rfl, rfl, rfl, norRec_setNorSlot .., fun hf ht => ?_, fun h => ?_⟩
    · exact congrArg Host.Outcome.next (hend.trans (stageAck_of_taken (s := s.staged k i) hf ht (by decide)))
    · exact congrArg Host.Outcome.next (hend.trans (stageAck_of_withdrawn (s := s.staged k i) h))
  · exact ⟨_, congrArg Host.Outcome.next (doImageStage_end blk img hup hs), endStage_valid_outcome hv⟩
  · exact ⟨_, rfl, rollbackCommit_outcome h ha hr hn⟩
  · exact congrArg Host.Outcome.next (doRollbackCommit_of_grounds h ha hr hn)
  · exact ⟨_, rfl, lcAdvance_outcome hup hw hb hlen hz hp⟩
  · exact congrArg Host.Outcome.next ((doLcAdvance_of_block sigOk hup hw hb hlen hz).trans (if_neg (by simp [hp])))
  · exact congrArg Host.Outcome.next (doCakSet_of_ok h hlen hz hp hsub h1 h2)
  · exact congrArg Host.Outcome.next (doCakSet_of_bad h hlen hz hbad)
  · exact congrArg Host.Outcome.next (doPvErase_of_enabled h ha p.isLt he)
  · refine ⟨_, congrArg Host.Outcome.next (doPvErase_of_disabled h ha p.isLt he), ?_, ?_, ?_, ?_⟩
    · rw [(chanAck_keeps ..).lodge]; exact (congrArg Lodge.pvKeys (unmapPv_keeps ..).lodge :)
    · rw [(chanAck_keeps ..).flash]; exact unmapPv_map _ _
    · rw [(chanAck_keeps ..).flash]; exact unmapPv_pool _ _
    · intro g hg
      refine unmapPv_pages (s := modLodge (fun l => { l with pvKeys := modifyAt l.pvKeys p.val fun _ => none }) s) hp g ?_
      unfold State.range at hg ⊢
      rw [(chanAck_keeps ..).ranges] at hg
      exact hg

end Sys2Proof.Machine

/-! # The mailbox channels (section 15) -/

namespace Sys2Proof.Machine
-- The whole text is compiled by one process of limited memory: one proof at a time keeps it small.
set_option Elab.async false

section
variable {s : State} {c : Nat} {v : W32}

theorem doMbxLo_of_free (hup : s.fnUp (chanFn c) = true) (hf : (s.chan c).full = false) :
    doMbxLo c v s = modChan c (fun x => { x with lo := v }) s :=
  (if_pos hup).trans (modChan_congr c _ _ s (if_neg (by simp [hf])))

theorem doMbxLo_of_full (hup : s.fnUp (chanFn c) = true) (hf : (s.chan c).full = true) :
    doMbxLo c v s = modChan c (fun x => { x with overrun := true }) s :=
  (if_pos hup).trans (modChan_congr c _ _ s (if_pos hf))

/-- The state with the word posted. -/
def State.posted (s : State) (c : Nat) (v : W32) : State :=
  modChan c (fun x =>
    { x with hi := v, full := true, ackValid := false, ret := 0, timer := 0, limit := fld x.ctl 15 0 * 100, taken := false }) s

theorem doMbxPost_of_full (hup : s.fnUp (chanFn c) = true) (hf : (s.chan c).full = true) :
    doMbxPost c v s = modChan c (fun x => { x with overrun := true }) s := (if_pos hup).trans (if_pos hf)

theorem doMbxPost_of_free (hup : s.fnUp (chanFn c) = true) (hf : (s.chan c).full = false) :
    doMbxPost c v s = if s.chanServed c && !(chanCmds c).contains (wordCmd ((s.posted c v).chan c).word) then chanAck c rcBadCmd (s.posted c v)
      else s.posted c v :=
  (if_pos hup).trans (if_neg (by simp [hf]))

theorem doMbxCtl_of_chan (hc : c ≠ 14) (hup : s.fnUp (chanFn c) = true) :
    doMbxCtl c v s = if fld v 15 0 = 0 || decide ((if c < 2 then 16 else 64) ≤ fld v 21 16) then modChan c (fun x => { x with cfgReject := true }) s
      else modChan c (fun x => { x with ctl := v &&& 0x007F_FFFF#32 }) s :=
  (if_neg hc).trans (if_pos hup)

theorem doMbxCtl_of_rx (hup : s.fnUp 0 = true) (hv : fld v 21 16 < 16) :
    doMbxCtl 14 v s = { s with rx := { s.rx with ctl := v &&& 0x007F_0000#32 } } :=
  (if_pos rfl).trans ((if_pos hup).trans (if_neg (Nat.not_le.mpr hv)))

theorem rxPump_of_none (h : s.rx.waiting = []) : rxPump s = s := by
  unfold rxPump; rw [h]

theorem doMbxAck_of_last (hup : s.fnUp 0 = true) (hf : s.rx.full = true) (hw : s.rx.waiting = []) :
    doMbxAck s = { s with rx := { s.rx with full := false } } :=
  (if_pos (show (s.fnUp 0 && s.rx.full) = true by rw [hup, hf]; rfl)).trans (rxPump_of_none hw)

theorem doMbxTimeout_of_due (hf : (s.chan c).full = true) (hl : (s.chan c).limit ≤ (s.chan c).timer) :
    doMbxTimeout c s = { s with
      chans := modifyAt s.chans c fun x => { x with full := false, timedOut := true, taken := false }
      comp := { s.comp with props := s.comp.props.map fun p => if p.chan = some c then { p with chan := none } else p } } :=
  if_pos (by simp [hf, hl])

theorem doLodgeTimeout_of_due (hf : s.rx.full = true) (ht : 250000 ≤ s.rx.timer) (hw : s.rx.waiting = []) :
    doLodgeTimeout s = { s with rx := { s.rx with full := false }, lodge := { s.lodge with mbxLost := true } } :=
  (if_pos (by simp [hf, ht])).trans (rxPump_of_none hw)

end

/-- Settles O49: what a write does depends on whether the channel is full; the timers withdraw a word, or give up a message. -/
theorem mailboxChannels : Obligations.MailboxChannels := by
  unfold Obligations.MailboxChannels
  refine fun s c v => ⟨fun hup => ⟨fun hf => ?_, fun hf => ⟨?_, ?_⟩, fun hf => ⟨fun h => ?_, fun hs hc => ?_⟩, fun hz hv => ?_, fun h => ?_⟩,
    fun hup hv => ?_, fun hup hf hw => ?_, fun hf hl => ?_, fun hf ht hw => ?_⟩
  · exact congrArg Host.Outcome.next (doMbxLo_of_free hup hf)
  · exact congrArg Host.Outcome.next (doMbxLo_of_full hup hf)
  · exact congrArg Host.Outcome.next (doMbxPost_of_full hup hf)
  · refine congrArg Host.Outcome.next ((doMbxPost_of_free hup hf).trans (if_neg ?_))
    rcases h with h | h
    · simp [h]
    · have hmem : wordCmd ((s.posted c.val v).chan c.val).word ∈ chanCmds c.val := h
      simp [hmem]
  · have hmem : wordCmd ((s.posted c.val v).chan c.val).word ∉ chanCmds c.val := hc
    exact congrArg Host.Outcome.next ((doMbxPost_of_free hup hf).trans (if_pos (by simp [hs, hmem])))
  · exact congrArg Host.Outcome.next ((doMbxCtl_of_chan (Nat.ne_of_lt c.isLt) hup).trans
      (if_neg (by simp only [Bool.or_eq_true, decide_eq_true_eq]; omega)))
  · exact congrArg Host.Outcome.next ((doMbxCtl_of_chan (Nat.ne_of_lt c.isLt) hup).trans
      (if_pos (by simpa only [Bool.or_eq_true, decide_eq_true_eq] using h)))
  · exact congrArg Host.Outcome.next (doMbxCtl_of_rx hup hv)
  · exact congrArg Host.Outcome.next (doMbxAck_of_last hup hf hw)
  · exact ⟨_, congrArg Host.Outcome.next (doMbxTimeout_of_due hf hl), rfl, rfl⟩
  · exact congrArg Host.Outcome.next (doLodgeTimeout_of_due hf ht hw)

end Sys2Proof.Machine

/-! # Shadow checks (section 16) -/

namespace Sys2Proof.Machine
-- The whole text is compiled by one process of limited memory: one proof at a time keeps it small.
set_option Elab.async false

section
variable {s : State} {x : Shadow} {id die phys e : Nat}

/-- A check that gets a unit's slot is one that may run there (R430, R439). -/
theorem checkOn_of_grant (h : s.checkGrant x die phys = some e) : s.checkOn die phys x = true := by
  unfold State.checkGrant at h
  split at h
  · split at h
    next hc =>
      obtain ⟨-, hhead⟩ := Bool.and_eq_true _ _ ▸ hc
      have hmem := List.mem_of_head? (beq_iff_eq.mp hhead)
      have hfor : x ∈ s.checksFor die phys := (List.mem_filter.mp hmem).1
      unfold State.checksFor at hfor
      rcases List.mem_append.mp hfor with h | h
      · exact (List.mem_filter.mp (List.mem_filter.mp h).1).2
      · exact (List.mem_filter.mp (List.mem_filter.mp h).1).2
    · simp at h
  · simp at h

theorem checkGrant_of_stale (h : s.shadowFresh x = false) : s.checkGrant x die phys = none := by
  cases hg : s.checkGrant x die phys with
  | none => rfl
  | some e =>
    have hon := checkOn_of_grant hg
    unfold State.checkOn at hon
    simp [h] at hon

theorem checkGrant_of_primary (h : die = x.prim.die) : s.checkGrant x die phys = none := by
  cases hg : s.checkGrant x die phys with
  | none => rfl
  | some e =>
    have hon := checkOn_of_grant hg
    unfold State.checkOn State.shadowUnit at hon
    simp [h] at hon

/-! ## Shadow executions (R430, R432) -/

variable {prim shad vals : JobVals} {bounds : List F32} {pos : Nat} {a b : Run}

theorem doShadow_of_grant (hx : s.integ.shadows.find? (·.id == id) = some x) (hr : x.runs = []) (hg : s.runsCheck x die phys e) :
    doShadow id die phys prim shad bounds pos s =
      let a : Run := ⟨x.prim, x.band, prim⟩
      let b : Run := ⟨⟨die, !x.scan, phys⟩, (useUnit x die e s).bandNow die, shad⟩
      if runsAgree x.scan bounds prim shad then dropShadow id (settleRuns x pos [(a, false), (b, false)] (useUnit x die e s))
      else if (useUnit x die e s).unresolved x a.u b.u then dropShadow id (settleRuns x pos [(a, true), (b, true)] (useUnit x die e s))
      else modInteg (fun y => { y with shadows := mapIf (·.id == id) (fun x => { x with runs := [a, b] }) y.shadows }) (useUnit x die e s) := by
  obtain ⟨hl, hgrant⟩ := hg
  unfold doShadow
  rw [hx]
  dsimp only
  rw [hgrant]
  exact if_pos (by rw [hl, hr]; rfl)

theorem doShadow_of_no_check (hx : s.integ.shadows.find? (·.id == id) = some x)
    (h : x.runs ≠ [] ∨ s.shadowFresh x = false ∨ die = x.prim.die) : doShadow id die phys prim shad bounds pos s = s := by
  unfold doShadow
  rw [hx]
  dsimp only
  cases hg : s.checkGrant x die phys with
  | none => rfl
  | some e =>
    rcases h with h | h | h
    · exact if_neg (by simp [h])
    · rw [checkGrant_of_stale h] at hg; simp at hg
    · rw [checkGrant_of_primary h] at hg; simp at hg

/-! ## Arbitrations (R432) -/

theorem doArbitrate_of_grant (hx : s.integ.shadows.find? (·.id == id) = some x) (hr : x.runs = [a, b]) (hg : s.runsCheck x die phys e)
    (hu : s.unresolved x a.u b.u = false) :
    doArbitrate id die phys vals bounds pos s =
      let c : Run := ⟨⟨die, !x.scan, phys⟩, (useUnit x die e s).bandNow die, vals⟩
      let da := !runsAgree x.scan bounds vals a.vals
      let db := !runsAgree x.scan bounds vals b.vals
      let t := if da && !db then modInteg (fun y => { y with primaryWrong := true }) (useUnit x die e s) else useUnit x die e s
      dropShadow id (settleRuns x pos [(a, da), (b, db), (c, da && db)] t) := by
  obtain ⟨hl, hgrant⟩ := hg
  unfold doArbitrate
  rw [hx]
  dsimp only
  rw [hr]
  dsimp only
  rw [if_neg (by simp [hu]), hgrant]
  exact if_pos hl

theorem doArbitrate_of_unresolved (hx : s.integ.shadows.find? (·.id == id) = some x) (hr : x.runs = [a, b]) (hl : s.live = true)
    (hf : s.shadowFresh x = true) (hu : s.unresolved x a.u b.u = true) :
    doArbitrate id die phys vals bounds pos s = dropShadow id (settleRuns x pos [(a, true), (b, true)] s) := by
  unfold doArbitrate
  rw [hx]
  dsimp only
  rw [hr]
  exact if_pos (by rw [hl, hf, hu]; rfl)

/-- No arbitration where the check has no runs to arbitrate, or may not run on the die. -/
theorem doArbitrate_of_no_check (hx : s.integ.shadows.find? (·.id == id) = some x)
    (h : x.runs = [] ∨ s.shadowFresh x = false ∨ (die = x.prim.die ∧ ∀ a b, x.runs = [a, b] → s.unresolved x a.u b.u = false)) :
    doArbitrate id die phys vals bounds pos s = s := by
  unfold doArbitrate
  rw [hx]
  dsimp only
  split
  next a b hr =>
    have hgrant : s.checkGrant x die phys = none := by
      rcases h with h | h | ⟨h, -⟩
      · rw [h] at hr; simp at hr
      · exact checkGrant_of_stale h
      · exact checkGrant_of_primary h
    have hopen : (s.shadowFresh x && s.unresolved x a.u b.u) = false := by
      rcases h with h | h | ⟨-, h⟩
      · rw [h] at hr; simp at hr
      · rw [h]; rfl
      · rw [h a b hr]; exact Bool.and_false _
    rw [if_neg (by rw [Bool.and_assoc, hopen]; simp), hgrant]
  · rfl

/-! ## The end of a wait, and halving (R434, R436) -/

theorem doShadowExpiry_of_late (hx : s.integ.shadows.find? (·.id == id) = some x) (hl : s.live = true) (hf : s.shadowFresh x = false) :
    doShadowExpiry id s = modInteg (fun y => { y with shadowDrop := true }) (dropShadow id s) := by
  unfold doShadowExpiry
  rw [hx]
  exact if_pos (by rw [hl, hf]; rfl)

theorem doShadowExpiry_of_fresh (hx : s.integ.shadows.find? (·.id == id) = some x) (hf : s.shadowFresh x = true) : doShadowExpiry id s = s := by
  unfold doShadowExpiry
  rw [hx]
  exact if_neg (by simp [hf])

end

/-- Settles O50: a check that is granted a unit runs, and its outcome is the agreement of its runs; a grant implies that the check may run
there, so that none is given to a stale check or on the primary's die. -/
theorem shadowChecks : Obligations.ShadowChecks := by
  unfold Obligations.ShadowChecks
  refine fun s id die phys e => ⟨fun x hx => ⟨fun prim shad bounds pos hr hg => ⟨fun hag => ?_, fun hag => ⟨fun hu => ?_, fun hu => ?_⟩⟩,
      fun prim shad bounds pos h => ?_, fun a b vals bounds pos hr hg hu => ⟨fun ha hb => ?_, fun ha hb => ?_, fun ha hb => ?_, fun ha hb => ?_⟩,
      fun a b vals bounds pos hr hl hf hu => ?_, fun vals bounds pos h => ?_, fun hl hf => ?_, fun hf => ?_⟩,
    fun hnone => ?_, fun hl hs hh => ?_, fun h => ?_⟩
  · exact congrArg Host.Outcome.next ((doShadow_of_grant hx hr hg).trans (if_pos hag))
  · exact congrArg Host.Outcome.next (((doShadow_of_grant hx hr hg).trans (if_neg (by simp [hag]))).trans (if_neg (by rw [hu]; exact Bool.false_ne_true)))
  · exact congrArg Host.Outcome.next (((doShadow_of_grant hx hr hg).trans (if_neg (by simp [hag]))).trans (if_pos hu))
  · exact congrArg Host.Outcome.next (doShadow_of_no_check hx h)
  · refine congrArg Host.Outcome.next ((doArbitrate_of_grant hx hr hg hu).trans ?_)
    rw [ha, hb]; rfl
  · refine congrArg Host.Outcome.next ((doArbitrate_of_grant hx hr hg hu).trans ?_)
    rw [ha, hb]; rfl
  · refine congrArg Host.Outcome.next ((doArbitrate_of_grant hx hr hg hu).trans ?_)
    rw [ha, hb]; rfl
  · refine congrArg Host.Outcome.next ((doArbitrate_of_grant hx hr hg hu).trans ?_)
    rw [ha, hb]; rfl
  · exact congrArg Host.Outcome.next (doArbitrate_of_unresolved hx hr hl hf hu)
  · exact congrArg Host.Outcome.next (doArbitrate_of_no_check hx h)
  · exact congrArg Host.Outcome.next (doShadowExpiry_of_late hx hl hf)
  · exact congrArg Host.Outcome.next (doShadowExpiry_of_fresh hx hf)
  · refine congrArg Host.Outcome.next ?_
    unfold doShadowExpiry
    rw [hnone]
    rfl
  · exact congrArg Host.Outcome.next (if_pos (by simp [hl, hs, hh]))
  · refine congrArg Host.Outcome.next (if_neg ?_)
    rcases h with h | h
    · simp [h]
    · simp [h]

end Sys2Proof.Machine

/-! # Scrub, tile repair and stragglers (section 16) -/

namespace Sys2Proof.Machine
-- The whole text is compiled by one process of limited memory: one proof at a time keeps it small.
set_option Elab.async false

/-! ## What a read answers depends on memory alone -/

/-- Two states hold the same pages and the same flash. -/
def MemEq (s t : State) : Prop := t.ranges = s.ranges ∧ t.flash = s.flash

theorem MemEq.of_keeps {l : List Area} {s t : State} (h : Keeps l s t) (hr : l.contains .ranges = false := by rfl)
    (hf : l.contains .flash = false := by rfl) : MemEq s t := ⟨h.ranges hr, h.flash hf⟩

theorem MemEq.trans {s t u : State} (h : MemEq s t) (h' : MemEq t u) : MemEq s u := ⟨h'.1.trans h.1, h'.2.trans h.2⟩

theorem MemEq.symm {s t : State} (h : MemEq s t) : MemEq t s := ⟨h.1.symm, h.2.symm⟩

/-- What happens on both sides to the rest of the state leaves them alike. -/
theorem MemEq.both {s t s' t' : State} (h : MemEq s t) (hs : MemEq s s') (ht : MemEq t t') : MemEq s' t' := (hs.symm.trans h).trans ht

theorem MemEq.range {s t : State} (h : MemEq s t) (p : Nat) : t.range p = s.range p := by unfold State.range; rw [h.1]

theorem MemEq.modRange {s t : State} (h : MemEq s t) (p : Nat) (g : Range → Range) : MemEq (modRange p g s) (modRange p g t) :=
  ⟨congrArg (fun r => modifyAt r p g) h.1, h.2⟩

theorem refGood_of_memEq {s t : State} (h : MemEq s t) (p : Nat) (g : Page) (sub : Nat) : refGood t p g sub = refGood s p g sub := by
  unfold refGood
  rw [h.range, h.2]

/-- The two sides of a read of words: the same status so far, over the same memory. -/
def SameRead (x y : Option Status × State) : Prop := y.1 = x.1 ∧ MemEq x.2 y.2

theorem readWord_same (p no access : Nat) (e : WordErr) {x y : Option Status × State} (h : SameRead x y) :
    SameRead (readWord p no access x e) (readWord p no access y e) := by
  obtain ⟨st, s⟩ := x
  obtain ⟨st', t⟩ := y
  obtain ⟨rfl, hm⟩ : st' = st ∧ MemEq s t := h
  unfold readWord
  dsimp only
  cases rsDecode e.syms with
  | some c => exact ⟨rfl, (hm.modRange p _).both (.of_keeps (countCe_keeps ..)) (.of_keeps (countCe_keeps ..))⟩
  | none =>
    dsimp only
    rw [hm.range, refGood_of_memEq hm]
    split
    · refine ⟨rfl, (MemEq.modRange ?_ p _).both (.of_keeps (countCe_keeps ..)) (.of_keeps (countCe_keeps ..))⟩
      split
      · exact hm.both (.of_keeps (t2Read_keeps ..)) (.of_keeps (t2Read_keeps ..))
      · exact hm
    · exact ⟨rfl, hm.both (.trans (.of_keeps (memError_keeps ..)) (.of_keeps (countUe_keeps ..)))
        (.trans (.of_keeps (memError_keeps ..)) (.of_keeps (countUe_keeps ..)))⟩

theorem foldl_sameRead {α : Type} {f g : Option Status × State → α → Option Status × State}
    (hf : ∀ x y a, SameRead x y → SameRead (f x a) (g y a)) (as : List α) {x y : Option Status × State} (h : SameRead x y) :
    SameRead (as.foldl f x) (as.foldl g y) := by
  induction as generalizing x y with
  | nil => exact h
  | cons a as ih => exact ih (hf x y a h)

theorem readWords_same (p a n access : Nat) (sel : Nat → Bool) {s t : State} (h : MemEq s t) :
    SameRead (readWords p a n access sel s) (readWords p a n access sel t) := by
  refine foldl_sameRead (fun x y no hxy => ?_) _ ⟨rfl, h⟩
  dsimp only
  rw [hxy.2.range]
  split
  · exact foldl_sameRead (fun x y e hxy => readWord_same p no access e hxy) _ hxy
  · exact hxy

/-- Two states with the same memory answer a read alike. -/
theorem readFor_same (p a n access : Nat) {s t : State} (h : MemEq s t) : (readFor p a n access t).1 = (readFor p a n access s).1 := by
  have hstart : MemEq (if (blocksIn pageSize a n).any (fun no => ((s.range p).page no).st == .t2) then t2Read p a n s else s)
      (if (blocksIn pageSize a n).any (fun no => ((s.range p).page no).st == .t2) then t2Read p a n t else t) := by
    split
    · exact h.both (.of_keeps (t2Read_keeps ..)) (.of_keeps (t2Read_keeps ..))
    · exact h
  have hread := readWords_same p a n access (fun _ => true) hstart
  unfold readFor
  dsimp only
  rw [h.range]
  generalize readWords p a n access (fun _ => true)
    (if (blocksIn pageSize a n).any (fun no => ((s.range p).page no).st == .t2) then t2Read p a n s else s) = x at hread ⊢
  generalize readWords p a n access (fun _ => true)
    (if (blocksIn pageSize a n).any (fun no => ((s.range p).page no).st == .t2) then t2Read p a n t else t) = y at hread ⊢
  obtain ⟨st, s'⟩ := x
  obtain ⟨st', t'⟩ := y
  obtain ⟨rfl, hm⟩ : st' = st ∧ MemEq s' t' := hread
  cases st' with
  | some st => rfl
  | none =>
    dsimp only
    rw [hm.range, hm.2]
    split
    · rfl
    · split <;> rfl

theorem recSketch_same {s t : State} (h : MemEq s t) (hc : t.corpora = s.corpora) (p : Nat) (b : Bundle) (r : Rec) :
    recSketch p b r t = recSketch p b r s := by
  have hcp : t.corpus p = s.corpus p := by unfold State.corpus; rw [hc]
  unfold recSketch
  dsimp only
  rw [hcp]
  generalize recordBytes _ _ _ _ = n
  have hread := readFor_same p ((s.corpus p).vecAddr r.elem) n 0 h
  generalize readFor p ((s.corpus p).vecAddr r.elem) n 0 t = y at hread ⊢
  generalize readFor p ((s.corpus p).vecAddr r.elem) n 0 s = x at hread ⊢
  obtain ⟨⟨st, bs⟩, s'⟩ := x
  obtain ⟨⟨st', bs'⟩, t'⟩ := y
  obtain ⟨rfl, rfl⟩ := Prod.mk.inj hread
  cases st' <;> rfl

theorem rebuild_same {s t : State} (h : MemEq s t) (hc : t.corpora = s.corpora) (p : Nat) (b : Bundle) (x : Store) (y : Tile) :
    rebuild p b x y t = rebuild p b x y s := by
  have hsk : (fun r => recSketch p b r t) = fun r => recSketch p b r s := funext fun r => recSketch_same h hc p b r
  unfold rebuild
  exact congrArg (fun f : Rec → Option Nat => ({ y with
    tag := (x.tagFor p y.num).getD y.tag
    slots := y.slots.map fun z => match z.ent with
      | some r => if z.deleted then z else { z with sketch := (f r).getD z.sketch }
      | none => { z with sketch := 0 } } : Tile)) hsk

/-- A change of the integrity state leaves what a tile is rebuilt to. -/
theorem rebuild_modInteg (g : Integ → Integ) (s : State) (p : Nat) (b : Bundle) (x : Store) (y : Tile) :
    rebuild p b x y (modInteg g s) = rebuild p b x y s := rebuild_same (s := s) (t := modInteg g s) ⟨rfl, rfl⟩ rfl ..

/-! ## Scrub (R444) -/

section
variable {s : State} {p ep num : Nat} {x : Store} {b : Bundle} {t : Tile}

/-- No record of the tile is bad. -/
def State.soundTile (s : State) (p : Nat) (b : Bundle) (t : Tile) : Prop :=
  ∀ y ∈ t.slots, ∀ r, y.ent = some r → y.deleted = false → recSketch p b r s ≠ none

/-- A record of the tile is bad. -/
def State.badTile (s : State) (p : Nat) (b : Bundle) (t : Tile) : Bool :=
  t.slots.any fun y => match y.ent with | some r => !y.deleted && (recSketch p b r s).isNone | none => false

theorem badTile_of_sound (h : s.soundTile p b t) (g : Integ → Integ) : (modInteg g s).badTile p b t = false := by
  refine List.any_eq_false.mpr fun y hy => ?_
  cases he : y.ent with
  | none => simp
  | some r =>
    cases hd : y.deleted with
    | true => simp
    | false =>
      have hsk := recSketch_same (s := s) (t := modInteg g s) ⟨rfl, rfl⟩ rfl p b r
      obtain ⟨k, hk⟩ := Option.ne_none_iff_exists'.mp (h y hy r he hd)
      simp [hsk, hk]

/-- The check of one array that disagrees is charged to it. -/
def chargeArray (u : Nat × Nat) (s : State) : State :=
  noteCheck ⟨u.1, true, u.2⟩ (s.bandNow u.1) true (count none 5 (1 + s.bandNow u.1) 1 s)

theorem bandNow_chargeArray (u : Nat × Nat) (d : Nat) (s : State) : (chargeArray u s).bandNow d = s.bandNow d :=
  congrArg (fun w : Power => bandOf (w.units.getD d ThermUnit.reset).temp) (noteCheck_keeps ..).pwr

/-- A tile with a bad record marks its pavilion. -/
def markBadTile (p : Nat) (b : Bundle) (t : Tile) (s : State) : State :=
  if s.badTile p b t then modCorpus p (fun c => { c with badRecord := true }) s else s

theorem markBadTile_of_sound (h : s.soundTile p b t) (g : Integ → Integ) : markBadTile p b t (modInteg g s) = modInteg g s :=
  if_neg (by rw [badTile_of_sound h]; exact Bool.false_ne_true)

/-- What the scrub makes of a tile by what its records rebuild. -/
def scrubOutcome (p ep : Nat) (b : Bundle) (x : Store) (t : Tile) (same : Bool) (u1 u2 : Nat × Nat) (s : State) : State :=
  if rebuild p b x t s = t then s
  else if same then putTile p ep (rebuild p b x t s) s
  else chargeArray u2 (chargeArray u1 s)

/-- The scrub of a tile without a bad record: the place of the scrub moves on, and what the tile rebuilds to decides the rest. -/
theorem doScrubTile_of_sound (same : Bool) (u1 u2 : Nat × Nat) (hx : (s.corpus p).store? ep = some x) (hb : (s.corpus p).bundle? ep = some b)
    (ht : x.tile? num = some t) (hl : s.live = true) (hs : s.soundTile p b t) :
    ∃ n, doScrubTile p ep num same u1 u2 s =
      if rebuild p b x t s = t then { s with integ := { s.integ with scrubProg := n } }
      else if same then putTile p ep (rebuild p b x t s) { s with integ := { s.integ with scrubProg := n } }
      else chargeArray u2 (chargeArray u1 { s with integ := { s.integ with scrubProg := n } }) := by
  unfold doScrubTile
  rw [hx, hb]
  dsimp only
  rw [ht]
  dsimp only
  rw [if_pos hl]
  generalize (if _ = s.allTiles.length then 0 else _) = n
  refine ⟨n, Eq.trans (b := scrubOutcome p ep b x t same u1 u2 (markBadTile p b t (modInteg (fun y => { y with scrubProg := n }) s))) rfl ?_⟩
  rw [markBadTile_of_sound hs]
  unfold scrubOutcome
  rw [rebuild_modInteg]
  rfl

/-! ## Repair (R445) -/

/-- The entry of the tile on the list of repairs. -/
def repairOf (p ep num : Nat) (r : Nat × Nat × Nat × Frame) : Bool := r.1 == p && r.2.1 == ep && r.2.2.1 == num

/-- The state with the tile's entry off the list of repairs. -/
def State.repaired (s : State) (p ep num : Nat) : State :=
  modInteg (fun x => { x with repairs := x.repairs.filter fun r => !repairOf p ep num r }) s

theorem doRepair_of_named (hl : s.live = true) (hn : ∃ r ∈ s.integ.repairs, r.1 = p ∧ r.2.1 = ep ∧ r.2.2.1 = num)
    (hx : (s.corpus p).store? ep = some x) (hb : (s.corpus p).bundle? ep = some b) (ht : x.tile? num = some t) :
    doRepair p ep num s = if (x.tagFor p num).isSome then putTile p ep (rebuild p b x t s) (s.repaired p ep num) else s.repaired p ep num := by
  have hany : s.integ.repairs.any (repairOf p ep num) = true := by
    obtain ⟨r, hr, h1, h2, h3⟩ := hn
    exact List.any_eq_true.mpr ⟨r, hr, by simp [repairOf, h1, h2, h3]⟩
  refine (if_pos (show (s.live && s.integ.repairs.any (repairOf p ep num)) = true by rw [hl, hany]; rfl)).trans ?_
  have hreb := rebuild_modInteg (fun x => { x with repairs := x.repairs.filter fun r => !repairOf p ep num r }) s p b x t
  rw [show ((modInteg _ s).corpus p).store? ep = some x from hx, show ((modInteg _ s).corpus p).bundle? ep = some b from hb]
  dsimp only
  rw [ht]
  exact congrArg (fun y => if (x.tagFor p num).isSome then putTile p ep y (s.repaired p ep num) else s.repaired p ep num) hreb

theorem doRepair_of_unnamed (h : ∀ r ∈ s.integ.repairs, ¬ (r.1 = p ∧ r.2.1 = ep ∧ r.2.2.1 = num)) : doRepair p ep num s = s := by
  have hany : s.integ.repairs.any (repairOf p ep num) = false := by
    refine List.any_eq_false.mpr fun r hr hm => h r hr ?_
    simpa [repairOf, and_assoc] using hm
  exact if_neg (show ¬ (s.live && s.integ.repairs.any (repairOf p ep num)) = true by rw [hany]; simp)

end

/-! ## Stragglers (R446) -/

section
variable {s : State}

/-- One unit's turn in the test of a window: it asks for a swap when it falls behind. -/
def stragglerTurn (full : List RateIn) (s : State) (r : RateIn) : State :=
  if decide (8 ≤ (full.filter fun y => y.die == r.die && y.ta == r.ta && y.unit != r.unit).length) &&
      decide (2 * ((r.work : Rat) / r.cycles) * fld s.integ.spareEff 15 8 <
        100 * median2 ((full.filter fun y => y.die == r.die && y.ta == r.ta && y.unit != r.unit).map fun y => (y.work : Rat) / y.cycles)) then
    askSwap r.die r.ta r.unit 0 s
  else s

theorem stragglerTurn_of_lag {full : List RateIn} {r : RateIn} (h : s.lagsIn full r) :
    stragglerTurn full s r = askSwap r.die r.ta r.unit 0 s := by
  obtain ⟨h1, h2⟩ := h
  exact if_pos (by rw [decide_eq_true h1, decide_eq_true h2]; rfl)

theorem stragglerTurn_of_none {full : List RateIn} {r : RateIn} (h : ¬ s.lagsIn full r) : stragglerTurn full s r = s :=
  if_neg fun hc => h (by
    obtain ⟨h1, h2⟩ := Bool.and_eq_true _ _ ▸ hc
    exact ⟨of_decide_eq_true h1, of_decide_eq_true h2⟩)

theorem foldl_stragglerTurn_of_none {full : List RateIn} (rs : List RateIn) (h : ∀ r ∈ rs, ¬ s.lagsIn full r) :
    rs.foldl (stragglerTurn full) s = s := by
  induction rs with
  | nil => rfl
  | cons r rs ih =>
    rw [List.foldl_cons, stragglerTurn_of_none (h r (.head _))]
    exact ih fun y hy => h y (.tail _ hy)

theorem doStraggler_of_window {rs : List RateIn} (hl : s.live = true) (hs : s.clk.slot = none) (hh : s.hfn % 1000 = 0)
    (hb : bit s.integ.spareEff 0 = true) :
    doStraggler rs s = (rs.filter fun r => decide (1000 ≤ r.slots) && decide (0 < r.cycles)).foldl
      (stragglerTurn (rs.filter fun r => decide (1000 ≤ r.slots) && decide (0 < r.cycles))) s :=
  if_pos (by simp [hl, hs, hh, hb])

/-- One unit of a full window falls behind: it alone asks for a swap. -/
theorem foldl_stragglerTurn_single {full pre post : List RateIn} {r : RateIn} (hr : s.lagsIn full r)
    (hne : ∀ y ∈ pre ++ post, ¬ s.lagsIn full y) :
    (pre ++ r :: post).foldl (stragglerTurn full) s = askSwap r.die r.ta r.unit 0 s := by
  rw [List.foldl_append, List.foldl_cons, foldl_stragglerTurn_of_none pre fun y hy => hne y (List.mem_append_left _ hy),
    stragglerTurn_of_lag hr]
  exact foldl_stragglerTurn_of_none (s := askSwap r.die r.ta r.unit 0 s) post fun y hy => hne y (List.mem_append_right _ hy)

end

/-- Settles O51: what a read answers depends on memory alone, so that a tile rebuilds to the same whatever the scrub notes; in a window each
unit's turn leaves the test of the others. -/
theorem scrubAndStragglers : Obligations.ScrubAndStragglers := by
  unfold Obligations.ScrubAndStragglers
  refine fun s p ep num => ⟨fun x b t hx hb ht hl hs => ⟨fun same u1 u2 hr => ?_, fun u1 u2 hr => ?_, fun u1 u2 hr => ?_⟩,
    fun same u1 u2 hx => ?_, fun x b t hl hn hx hb ht => ⟨fun htag => ?_, fun htag => ?_⟩, fun hn => ?_,
    fun hl hslot hh hb => ⟨fun pre r post hfull hr hne => ?_, fun rs hrs => ?_⟩, fun rs h => ?_⟩
  · obtain ⟨n, h⟩ := doScrubTile_of_sound same u1 u2 hx hb ht hl hs
    exact ⟨n, congrArg Host.Outcome.next (h.trans (if_pos hr))⟩
  · obtain ⟨n, h⟩ := doScrubTile_of_sound true u1 u2 hx hb ht hl hs
    exact ⟨n, congrArg Host.Outcome.next (h.trans (if_neg hr))⟩
  · obtain ⟨n, h⟩ := doScrubTile_of_sound false u1 u2 hx hb ht hl hs
    refine ⟨n, congrArg Host.Outcome.next ((h.trans (if_neg hr)).trans ?_)⟩
    refine (if_neg Bool.false_ne_true).trans ?_
    have hband := bandNow_chargeArray u1 u2.1 { s with integ := { s.integ with scrubProg := n } }
    rw [show chargeArray u2 (chargeArray u1 { s with integ := { s.integ with scrubProg := n } }) =
      noteCheck ⟨u2.1, true, u2.2⟩ ((chargeArray u1 { s with integ := { s.integ with scrubProg := n } }).bandNow u2.1) true
        (count none 5 (1 + (chargeArray u1 { s with integ := { s.integ with scrubProg := n } }).bandNow u2.1) 1
          (chargeArray u1 { s with integ := { s.integ with scrubProg := n } })) from rfl, hband]
    rfl
  · refine congrArg Host.Outcome.next ?_
    unfold doScrubTile
    rw [hx]
  · exact ⟨_, congrArg Host.Outcome.next ((doRepair_of_named hl hn hx hb ht).trans (if_pos (Option.isSome_iff_ne_none.mpr htag))), rfl⟩
  · exact congrArg Host.Outcome.next ((doRepair_of_named hl hn hx hb ht).trans (if_neg (by simp [htag])))
  · exact congrArg Host.Outcome.next (doRepair_of_unnamed hn)
  · refine congrArg Host.Outcome.next ((doStraggler_of_window hl hslot hh hb).trans ?_)
    have hall : (pre ++ r :: post).filter (fun r => decide (1000 ≤ r.slots) && decide (0 < r.cycles)) = pre ++ r :: post :=
      List.filter_eq_self.mpr fun y hy => by simp [hfull y hy]
    rw [hall]
    exact foldl_stragglerTurn_single hr hne
  · refine congrArg Host.Outcome.next ((doStraggler_of_window hl hslot hh hb).trans ?_)
    have hnone : rs.filter (fun r => decide (1000 ≤ r.slots) && decide (0 < r.cycles)) = [] :=
      List.filter_eq_nil_iff.mpr fun y hy => by simp [Nat.not_le.mpr (hrs y hy)]
    rw [hnone]
    rfl
  · refine congrArg Host.Outcome.next (if_neg ?_)
    rcases h with h | h | h
    · simp [h]
    · simp [h]
    · simp [h]

end Sys2Proof.Machine

/-! # BIST and the integrity registers (sections 15 and 16) -/

namespace Sys2Proof.Machine
-- The whole text is compiled by one process of limited memory: one proof at a time keeps it small.
set_option Elab.async false

section
variable {s : State} {v : W32}

/-! ## Requests (R411, R422, R450) -/

theorem doBistGo_of_go (hup : s.bar0Up0 = true) (hv : bit v 16 = true) :
    doBistGo v s = if s.bistOpen && s.integ.bist.isNone && s.bistCond v then startBist v s
      else modInteg (fun x => { x with bistReject := true }) s :=
  if_pos (by rw [hup, hv]; rfl)

theorem doBistGo_of_no_go (hv : bit v 16 = false) : doBistGo v s = s := if_neg (by simp [hv])

theorem doBistRequest_of_live (hl : s.live = true) :
    doBistRequest v s = if !s.bistOpen then emit (.internal "BIST" rcDenied) s
      else if s.integ.bist.isNone && s.bistCond v then emit (.internal "BIST" rcOk) (startBist v s)
      else emit (.internal "BIST" rcRefused) s := if_pos hl

theorem not_free_bist (h : s.integ.bist ≠ none ∨ s.bistCond v = false) : ¬ (s.integ.bist.isNone && s.bistCond v) = true := by
  rcases h with h | h
  · simp [h]
  · simp [h]

/-! ## The end of a run (R452) -/

variable {b : BistRun} {sig : W32} {fail : Bool} {cov : Nat}

theorem returnTarget_of_none (h : b.spare = none) : returnTarget b s = s := by unfold returnTarget; rw [h]

theorem returnTarget_of_spare {p n : Nat} (h : b.spare = some p) (hn : (s.die (bUnit b.ctl)).logicalOf (bTa b.ctl) p = some n) :
    returnTarget b s = modDie (bUnit b.ctl) (·.setMap (bTa b.ctl) n (some (bSub b.ctl))) s := by
  unfold returnTarget
  dsimp only
  rw [h]
  dsimp only
  rw [hn]

theorem doBistDone_of_due (hb : s.integ.bist = some b) (hl : s.live = true) (hg : b.begun = true) (h0 : b.left = 0) (hs : s.clk.slot = none) :
    doBistDone sig fail cov s = bistFlag b.ctl fail sig (modInteg (fun x => { x with
      bist := none, bistSig := sig, bistMs := satTo 0xFFFF (b.frames / 50), bistCov := bCov b.ctl cov
      bistFail := fail, bistAbort := false }) (returnTarget b s)) := by
  unfold doBistDone
  rw [hb]
  exact if_pos (by simp [hl, hg, h0, hs])

theorem doBistDone_of_early (hb : s.integ.bist = some b) (h : b.begun = false ∨ b.left ≠ 0 ∨ s.clk.slot ≠ none) :
    doBistDone sig fail cov s = s := by
  unfold doBistDone
  rw [hb]
  refine if_neg ?_
  rcases h with h | h | h
  · simp [h]
  · simp [h]
  · simp [h]

/-! ## Registers (R454, R455) -/

/-- A write of an integrity register that has a test: the value is taken, or `CFG_REJECT` is set. -/
def takeInteg (ok : Bool) (g : Integ → Integ) (s : State) : State :=
  if ok then modInteg g s else modInteg (fun x => { x with cfgReject := true }) s

theorem exec_keeperCfgWrite (hup : s.bar0Up0 = true) :
    exec (.integRegWrite 0xC00 v) s = .next (takeInteg (decide (1 ≤ fld v 15 8) && inRange 1 (fld v 23 16) 168)
      (fun x => { x with keeperCfg := v &&& 0x00FF_FF03#32 }) s) :=
  congrArg Host.Outcome.next (if_neg (by simp [hup]))

theorem exec_shadowRateWrite (hup : s.bar0Up0 = true) :
    exec (.integRegWrite 0xC04 v) s = .next (takeInteg (inRange 1 (fld v 4 0) 20 && decide (1 ≤ fld v 15 8))
      (fun x => { x with shadowRate := v &&& 0x0000_FF3F#32 }) s) :=
  congrArg Host.Outcome.next (if_neg (by simp [hup]))

theorem exec_suspectCfgWrite (hup : s.bar0Up0 = true) :
    exec (.integRegWrite 0xC08 v) s = .next (takeInteg (decide (1 ≤ fld v 15 0) && decide (1 ≤ fld v 23 16))
      (fun x => { x with suspectCfg := v &&& 0x00FF_FFFF#32 }) s) :=
  congrArg Host.Outcome.next (if_neg (by simp [hup]))

theorem exec_spareCfgWrite (hup : s.bar0Up0 = true) :
    exec (.integRegWrite 0xC0C v) s = .next (takeInteg (decide (110 ≤ fld v 15 8)) (fun x => { x with spareCfg := v &&& 0x0000_FF07#32 }) s) :=
  congrArg Host.Outcome.next (if_neg (by simp [hup]))

theorem exec_suspectSelWrite (hup : s.bar0Up0 = true) :
    exec (.integRegWrite 0xC20 v) s = .next (takeInteg (decide (fld v 4 0 < 24) && decide (fld v 10 5 < if bit v 11 then 5 else 52))
      (fun x => { x with suspectSel := v &&& 0x3FFF#32 }) s) :=
  congrArg Host.Outcome.next (if_neg (by simp [hup]))

theorem takeInteg_of_ok {ok : Bool} (g : Integ → Integ) (h : ok = true) : takeInteg ok g s = modInteg g s := if_pos h

theorem takeInteg_of_bad {ok : Bool} (g : Integ → Integ) (h : ok = false) :
    takeInteg ok g s = { s with integ := { s.integ with cfgReject := true } } := if_neg (by simp [h])

end

/-- Settles O52: a request is accepted when the run is open, none is under way and its condition is met; the registers are their range tests. -/
theorem bistAndIntegrityRegisters : Obligations.BistAndIntegrityRegisters := by
  unfold Obligations.BistAndIntegrityRegisters
  refine fun s v => ⟨fun hup hv => ⟨fun ho hn hc => ?_, fun h => ?_⟩, fun hv => ?_,
    fun hl => ⟨fun ho => ?_, fun ho hn hc => ?_, fun ho h => ?_⟩,
    fun b sig fail cov hb => ⟨fun hl hg h0 hs hp => ?_, fun p n hl hg h0 hs hp hn => ?_, fun h => ?_⟩, fun sig fail cov hb => ?_,
    fun hup => ⟨fun h1 h2 h3 => ?_, fun h => ?_, fun h1 h2 h3 => ?_, fun h => ?_, fun h1 h2 => ?_, fun h => ?_, fun h => ?_, fun h => ?_, ?_,
      fun h1 h2 => ?_, fun h => ?_, fun hv => ?_, ?_⟩, fun hup off => ?_⟩
  · exact congrArg Host.Outcome.next ((doBistGo_of_go hup hv).trans (if_pos (by rw [ho, hn, hc]; rfl)))
  · refine congrArg Host.Outcome.next ((doBistGo_of_go hup hv).trans (if_neg ?_))
    rcases h with h | h
    · simp [h]
    · rw [Bool.and_assoc]; exact fun hc => not_free_bist h (Bool.and_eq_true _ _ ▸ hc).2
  · exact congrArg Host.Outcome.next (doBistGo_of_no_go hv)
  · exact congrArg Host.Outcome.next ((doBistRequest_of_live hl).trans (if_pos (by simp [ho])))
  · exact congrArg Host.Outcome.next ((doBistRequest_of_live hl).trans ((if_neg (by simp [ho])).trans (if_pos (by rw [hn, hc]; rfl))))
  · exact congrArg Host.Outcome.next ((doBistRequest_of_live hl).trans ((if_neg (by simp [ho])).trans (if_neg (not_free_bist h))))
  · have h := doBistDone_of_due (sig := sig) (fail := fail) (cov := cov) hb hl hg h0 hs
    rw [returnTarget_of_none hp] at h
    exact congrArg Host.Outcome.next h
  · have h := doBistDone_of_due (sig := sig) (fail := fail) (cov := cov) hb hl hg h0 hs
    rw [returnTarget_of_spare hp hn] at h
    exact congrArg Host.Outcome.next h
  · exact congrArg Host.Outcome.next (doBistDone_of_early hb h)
  · refine congrArg Host.Outcome.next ?_
    unfold doBistDone
    rw [hb]
  · exact (exec_keeperCfgWrite hup).trans (congrArg _ (takeInteg_of_ok _ (by simp [inRange, h1, h2, h3])))
  · refine (exec_keeperCfgWrite hup).trans (congrArg _ (takeInteg_of_bad _ ?_))
    rcases h with h | h | h
    · simp [h]
    · simp [inRange, h]
    · simp [inRange, h]
  · exact (exec_shadowRateWrite hup).trans (congrArg _ (takeInteg_of_ok _ (by simp [inRange, h1, h2, h3])))
  · refine (exec_shadowRateWrite hup).trans (congrArg _ (takeInteg_of_bad _ ?_))
    rcases h with h | h | h
    · simp [inRange, h]
    · simp [inRange, h]
    · simp [h]
  · exact (exec_suspectCfgWrite hup).trans (congrArg _ (takeInteg_of_ok _ (by simp [h1, h2])))
  · exact (exec_spareCfgWrite hup).trans (congrArg _ (takeInteg_of_ok _ (by simp [h])))
  · exact (exec_spareCfgWrite hup).trans (congrArg _ (takeInteg_of_bad _ (by simp [h])))
  · refine (exec_suspectCfgWrite hup).trans (congrArg _ (takeInteg_of_bad _ ?_))
    rcases h with h | h <;> simp [h]
  · exact congrArg Host.Outcome.next (if_neg (by simp [hup]))
  · exact (exec_suspectSelWrite hup).trans (congrArg _ (takeInteg_of_ok _ (by simp only [h1, h2, decide_true, Bool.and_self])))
  · refine (exec_suspectSelWrite hup).trans (congrArg _ (takeInteg_of_bad _ ?_))
    simp only [Bool.and_eq_false_iff, decide_eq_false_iff_not, Nat.not_lt]
    exact h
  · exact congrArg Host.Outcome.next ((if_neg (by simp [hup])).trans (if_pos hv))
  · exact congrArg Host.Outcome.next (if_neg (by simp [hup]))
  · exact congrArg Host.Outcome.next (if_pos (by simp [hup]))

end Sys2Proof.Machine

/-! # Boot (sections 01 and 15) -/

namespace Sys2Proof.Machine
-- The whole text is compiled by one process of limited memory: one proof at a time keeps it small.
set_option Elab.async false

/-! ## The steps of a boot (R405) -/

section
variable {s : State} {b : BootIn} {k : Bool}

/-- The state with the straps latched. -/
def State.strapped (s : State) (b : BootIn) : State := { s with side := { s.side with strap := b.straps, strapBad := !strapsOk b.straps } }

/-- The state with the trial of a boot record counted. -/
def State.tried (s : State) (k : Nat) : State :=
  modLodge (fun l => { l with qspi := setNorRec l.qspi k (tryRec (norRec l.qspi k)) }) s

/-- The state with the Lodge's image measured. -/
def State.lodgeLoaded (s : State) (k : Bool) : State :=
  logImage 1 0 k (norSlot s.lodge.qspi 0 k) (modLodge (fun l => { l with
    lodgeImg := some ⟨k, imgSvn (norSlot s.lodge.qspi 0 k), imgDigest (norSlot s.lodge.qspi 0 k)⟩ }) s)

theorem boot_of_bad_straps (h : strapsOk b.straps = false) : boot b s = bootFail 1 0 (s.strapped b) := if_pos h

theorem boot_of_stall (h : strapsOk b.straps = true) (hs : b.stall = some 1) : boot b s = { s.strapped b with phase := .boot 1 } :=
  (if_neg (by simp [h])).trans (if_pos hs)

theorem boot_of_no_image (h : strapsOk b.straps = true) (hs : b.stall ≠ some 1)
    (hk : bootSlot s.lodge.fuses ((s.strapped b).tried 0).lodge.qspi 0 = none) : boot b s = bootFail 1 0 ((s.strapped b).tried 0) := by
  refine (if_neg (by simp [h])).trans ((if_neg hs).trans ?_)
  dsimp only
  split
  next hn => rfl
  next k' hk' => exact absurd (hk.symm.trans hk') (by simp)

theorem boot_of_image (h : strapsOk b.straps = true) (hs : b.stall ≠ some 1)
    (hk : bootSlot s.lodge.fuses ((s.strapped b).tried 0).lodge.qspi 0 = some k) :
    boot b s = bootTest b (((s.strapped b).tried 0).lodgeLoaded k) := by
  refine (if_neg (by simp [h])).trans ((if_neg hs).trans ?_)
  dsimp only
  split
  next hn => exact absurd (hk.symm.trans hn) (by simp)
  next k' hk' => obtain rfl := Option.some.inj (hk.symm.trans hk'); rfl

/-- The state after the self-test and the start of the memory. -/
def State.tested (s : State) (b : BootIn) : State :=
  let s := modLodge (fun l => { l with energies := b.energies })
    { s with dies := (List.range 24).map (bootDie b), lds := b.lds, scs := b.scs, sts := b.sts }
  { s with scan := { s.scan with st := s.scan.st.zipIdx.map fun (x, i) =>
    match b.govs[i]? with | some g => { x with pBase := g.1, pIf := g.2.1, pBf := g.2.2 } | none => x } }

/-- The quadrant has no search die in service. -/
def deadQuad (b : BootIn) (q : Nat) : Bool := (List.range 6).all fun i => !(((List.range 24).map (bootDie b)).getD (6 * q + i) Die.reset).inService

theorem die_of_boot {i : Nat} (h : i < 24) : ((List.range 24).map (bootDie b)).getD i Die.reset = bootDie b i := by
  rw [List.getD_eq_getElem?_getD, List.getElem?_map, List.getElem?_range h]; rfl

theorem deadQuad_iff {q : Nat} (hq : q < 4) : deadQuad b q = true ↔ ∀ i, i < 6 → (bootDie b (6 * q + i)).inService = false := by
  unfold deadQuad
  rw [List.all_eq_true]
  refine ⟨fun h i hi => ?_, fun h i hi => ?_⟩
  · have := h i (List.mem_range.mpr hi)
    rw [die_of_boot (by omega)] at this
    simpa using this
  · have hi := List.mem_range.mp hi
    rw [die_of_boot (by omega), h i hi]
    rfl

theorem bootTest_of_stall (hs : b.stall = some 2) : bootTest b s = { s with phase := .boot 2 } := if_pos hs

theorem bootTest_of_run (hs : b.stall ≠ some 2) :
    bootTest b s = match b.badRouters with
      | r :: _ => { nodeEvent evBist (leBytes 1 r ++ leBytes 1 2 ++ leBytes 1 1) (s.tested b) with phase := .failed 2 }
      | [] => match (List.range 4).find? (deadQuad b) with
        | some q => { nodeEvent evBist (leBytes 1 (6 * q + 5) ++ leBytes 1 0 ++ leBytes 1 1) (s.tested b) with phase := .failed 2 }
        | none => if s.keyless then { s.tested b with phase := .lodgeOnly } else bootGrounds b (s.tested b) := if_neg hs

theorem bootTest_of_bad_router (hs : b.stall ≠ some 2) (h : b.badRouters ≠ []) : (bootTest b s).phase = .failed 2 := by
  obtain ⟨r, rs, hr⟩ := List.exists_cons_of_ne_nil h
  rw [bootTest_of_run hs, hr]

theorem bootTest_of_dead_quadrant (hs : b.stall ≠ some 2) (h : b.badRouters = [])
    (hd : ∃ q, q < 4 ∧ ∀ i, i < 6 → (bootDie b (6 * q + i)).inService = false) : (bootTest b s).phase = .failed 2 := by
  obtain ⟨q, hq, hi⟩ := hd
  have hfind : ((List.range 4).find? (deadQuad b)).isSome = true :=
    List.find?_isSome.mpr ⟨q, List.mem_range.mpr hq, (deadQuad_iff hq).mpr hi⟩
  obtain ⟨q', hq'⟩ := Option.isSome_iff_exists.mp hfind
  rw [bootTest_of_run hs, h, hq']

theorem bootTest_of_sound (hs : b.stall ≠ some 2) (h : b.badRouters = [])
    (hd : ∀ q, q < 4 → ∃ i, i < 6 ∧ (bootDie b (6 * q + i)).inService = true) :
    bootTest b s = if s.keyless then { s.tested b with phase := .lodgeOnly } else bootGrounds b (s.tested b) := by
  have hfind : (List.range 4).find? (deadQuad b) = none := List.find?_eq_none.mpr fun q hq hdead => by
    obtain ⟨i, hi, hin⟩ := hd q (List.mem_range.mp hq)
    have := (deadQuad_iff (List.mem_range.mp hq)).mp hdead i hi
    rw [hin] at this
    simp at this
  rw [bootTest_of_run hs, h, hfind]

/-- The state with the Grounds' image measured. -/
def State.groundsLoaded (s : State) (k : Bool) : State :=
  logImage 2 1 k (norSlot s.lodge.qspi 1 k) (modLodge (fun l => { l with
    groundsImg := some ⟨k, imgSvn (norSlot s.lodge.qspi 1 k), imgDigest (norSlot s.lodge.qspi 1 k)⟩ }) s)

theorem bootGrounds_of_stall (hs : b.stall = some 3) : bootGrounds b s = { s with phase := .boot 3 } := if_pos hs

theorem bootGrounds_of_none (hs : b.stall ≠ some 3) (hk : bootSlot s.lodge.fuses (s.tried 1).lodge.qspi 1 = none) :
    bootGrounds b s = bootFail 3 0 (s.tried 1) := by
  refine (if_neg hs).trans ?_
  dsimp only
  split
  next hn => rfl
  next k' hk' => exact absurd (hk.symm.trans hk') (by simp)

theorem bootGrounds_of_image (hs : b.stall ≠ some 3) (hk : bootSlot s.lodge.fuses (s.tried 1).lodge.qspi 1 = some k) :
    bootGrounds b s = { (s.tried 1).groundsLoaded k with phase := .boot 4 } := by
  refine (if_neg hs).trans ?_
  dsimp only
  split
  next hn => exact absurd (hk.symm.trans hn) (by simp)
  next k' hk' => obtain rfl := Option.some.inj (hk.symm.trans hk'); rfl

/-! ## A boot that fails (R405, R424) -/

theorem phase_bootFail (step unit_ : Nat) (s : State) : (bootFail step unit_ s).phase = .failed step := (lodgePost_keeps ..).phase

theorem side_bootFail (step unit_ : Nat) (s : State) : (bootFail step unit_ s).side = s.side := (lodgePost_keeps ..).side

theorem dies_bootFail (step unit_ : Nat) (s : State) : (bootFail step unit_ s).dies = s.dies := (lodgePost_keeps ..).dies

theorem qspi_bootFail (step unit_ : Nat) (s : State) : (bootFail step unit_ s).lodge.qspi = s.lodge.qspi := by
  obtain ⟨m, hm⟩ := lodge_lodgePost 0x80 step unit_ { s with phase := .failed step }
  exact (congrArg Lodge.qspi hm :)

/-! ## The release of PERST_N -/

/-- The state in which a boot begins: the NOR as it has been written, the reference clock running. -/
def State.released (s : State) (b : BootIn) : State :=
  { modLodge (fun l => { l with qspi := b.prog.getD l.qspi }) s with side := { s.side with pcieClk := true } }

theorem doRelease_of_held (h : s.phase = .held .perst) : doRelease b s = boot b (s.released b) := by
  unfold doRelease; rw [h] <;> rfl

theorem doRelease_of_other (h : s.phase ≠ .held .perst) : doRelease b s = s := by
  unfold doRelease
  split
  next hp => exact absurd hp h
  · rfl

theorem lodgeSlot_released : bootSlot (s.released b).lodge.fuses (((s.released b).strapped b).tried 0).lodge.qspi 0 = lodgeSlot b s := rfl

/-- The state with the Lodge running and the self-test done, at the release of PERST_N. -/
def State.afterTest (s : State) (b : BootIn) (k : Bool) : State := ((((s.released b).strapped b).tried 0).lodgeLoaded k).tested b

theorem groundsSlot_released : bootSlot (s.afterTest b k).lodge.fuses ((s.afterTest b k).tried 1).lodge.qspi 1 = groundsSlot b s := rfl

theorem norSlot_bootNor (k : Bool) (kind : Nat) : norSlot (bootNor1 b s) kind k = norSlot (bootNor b s) kind k := norSlot_setNorRec ..

/-- With a valid image of the Lodge the boot goes on to the self-test. -/
theorem doRelease_of_image (hp : s.phase = .held .perst) (h : strapsOk b.straps = true) (hs : b.stall = none) (hk : lodgeSlot b s = some k) :
    doRelease b s = bootTest b ((((s.released b).strapped b).tried 0).lodgeLoaded k) :=
  (doRelease_of_held hp).trans (boot_of_image h (by simp [hs]) hk)

theorem lc_lodgeLoaded (t : State) : (t.lodgeLoaded k).lodge.lc = t.lodge.lc := rfl

theorem lc_tried (t : State) (n : Nat) : (t.tried n).lodge.lc = t.lodge.lc := rfl

/-- A boot changes nothing of the part's keys. -/
theorem keyless_lodgeLoaded : ((((s.released b).strapped b).tried 0).lodgeLoaded k).keyless = s.keyless := by
  unfold State.keyless
  rw [lc_lodgeLoaded, lc_tried]
  rfl

/-- With a sound package the boot goes on to the Grounds' image, unless the part has no keys. -/
theorem doRelease_of_sound (hp : s.phase = .held .perst) (h : strapsOk b.straps = true) (hs : b.stall = none) (hk : lodgeSlot b s = some k)
    (hr : b.badRouters = []) (hd : ∀ q, q < 4 → ∃ i, i < 6 ∧ (bootDie b (6 * q + i)).inService = true) :
    doRelease b s = if s.keyless then { s.afterTest b k with phase := .lodgeOnly } else bootGrounds b (s.afterTest b k) := by
  rw [doRelease_of_image hp h hs hk, bootTest_of_sound (by simp [hs]) hr hd, keyless_lodgeLoaded]
  unfold State.afterTest
  rfl

theorem doHeartbeat_of_first (h : s.phase = .boot 4) :
    doHeartbeat s = { s with
      phase := .running
      lodge := { s.lodge with
        hbAge := 0, hbAt := s.hfn
        qspi := { s.lodge.qspi with
          lodgeRec := { s.lodge.qspi.lodgeRec with tries := 0 }, groundsRec := { s.lodge.qspi.groundsRec with tries := 0 } } } } := by
  unfold doHeartbeat; dsimp only; rw [h] <;> rfl

theorem doHeartbeat_of_running (h : s.phase = .running) : doHeartbeat s = { s with lodge := { s.lodge with hbAge := 0, hbAt := s.hfn } } := by
  unfold doHeartbeat
  dsimp only
  split
  next hp => rw [h] at hp; simp at hp
  · rfl
  next hp => exact absurd h hp

theorem doHeartbeat_of_other (h4 : s.phase ≠ .boot 4) (hr : s.phase ≠ .running) : doHeartbeat s = s := by
  unfold doHeartbeat
  dsimp only
  split
  next hp => exact absurd hp h4
  next hp => exact absurd hp hr
  · rfl

theorem doBootTimeout_of_step {n : Nat} (unit_ : Nat) (h : s.phase = .boot n) :
    doBootTimeout unit_ s = bootFail n (if n = 2 ∨ n = 3 then unit_ % 256 else 0) s := by
  unfold doBootTimeout; rw [h]

theorem doBootTimeout_of_other (unit_ : Nat) (h : ∀ n, s.phase ≠ .boot n) : doBootTimeout unit_ s = s := by
  unfold doBootTimeout
  split
  next n hn => exact absurd hn (h n)
  · rfl

end

/-- Settles O54: the boot is followed step by step; what each step reads is what the release of PERST_N found in the NOR. -/
theorem bootSteps : Obligations.BootSteps := by
  unfold Obligations.BootSteps
  refine fun s b => ⟨fun hp => ⟨fun h => ?_, fun h hs => ?_, fun h hs => ⟨fun hk => ?_, fun k hk => ⟨fun hr => ?_, fun hr hd => ?_,
      fun hr hd => ⟨fun hkey => ?_, fun hkey hg => ?_, fun j hkey hg => ?_⟩⟩⟩⟩,
    fun hp => ?_, fun k unit_ hk => ?_, fun unit_ hk => ?_, fun h => ?_, fun h => ?_, fun h4 hr => ?_⟩
  · refine ⟨_, congrArg Host.Outcome.next ((doRelease_of_held hp).trans (boot_of_bad_straps h)), phase_bootFail .., ?_, ?_, dies_bootFail ..⟩
    · rw [side_bootFail]; exact congrArg (!·) h
    · rw [side_bootFail]; rfl
  · exact ⟨_, congrArg Host.Outcome.next ((doRelease_of_held hp).trans (boot_of_stall h hs)), rfl⟩
  · refine ⟨_, congrArg Host.Outcome.next ((doRelease_of_held hp).trans (boot_of_no_image h (by simp [hs]) hk)), phase_bootFail .., ?_, ?_, ?_⟩
    · rw [side_bootFail]; exact congrArg (!·) h
    · rw [side_bootFail]; rfl
    · rw [qspi_bootFail]; rfl
  · exact ⟨_, congrArg Host.Outcome.next (doRelease_of_image hp h hs hk), bootTest_of_bad_router (by simp [hs]) hr⟩
  · exact ⟨_, congrArg Host.Outcome.next (doRelease_of_image hp h hs hk), bootTest_of_dead_quadrant (by simp [hs]) hr hd⟩
  · exact ⟨_, congrArg Host.Outcome.next ((doRelease_of_sound hp h hs hk hr hd).trans (if_pos hkey)), rfl⟩
  · refine ⟨_, congrArg Host.Outcome.next (((doRelease_of_sound hp h hs hk hr hd).trans (if_neg (by simp [hkey]))).trans
      (bootGrounds_of_none (by simp [hs]) hg)), phase_bootFail .., ?_⟩
    rw [qspi_bootFail]; rfl
  · refine ⟨_, congrArg Host.Outcome.next (((doRelease_of_sound hp h hs hk hr hd).trans (if_neg (by simp [hkey]))).trans
      (bootGrounds_of_image (by simp [hs]) hg)), rfl, fun i hi => die_of_boot hi, rfl, rfl, rfl, rfl, rfl, rfl, ?_, ?_, rfl, rfl⟩
    · exact congrArg (fun i => some (⟨k, imgSvn i, imgDigest i⟩ : Running)) (norSlot_bootNor (s := s) (b := b) k 0)
    · exact congrArg (fun i => some (⟨j, imgSvn i, imgDigest i⟩ : Running))
        ((norSlot_setNorRec ..).trans (norSlot_bootNor (s := s) (b := b) j 1))
  · exact congrArg Host.Outcome.next (doRelease_of_other hp)
  · exact congrArg Host.Outcome.next (doBootTimeout_of_step unit_ hk)
  · exact congrArg Host.Outcome.next (doBootTimeout_of_other unit_ hk)
  · exact congrArg Host.Outcome.next (doHeartbeat_of_first h)
  · exact congrArg Host.Outcome.next (doHeartbeat_of_running h)
  · exact congrArg Host.Outcome.next (doHeartbeat_of_other h4 hr)

end Sys2Proof.Machine

/-! # Node resets and the loss of power (section 17) -/

namespace Sys2Proof.Machine
-- The whole text is compiled by one process of limited memory: one proof at a time keeps it small.
set_option Elab.async false

/-! ## What a boot leaves of the Lodge and of the functions -/

/-- The fuses, the mark of a firmware fault and the functions that are present stay as they are. -/
structure BootsFrom (s t : State) : Prop where
  fuses : t.lodge.fuses = s.lodge.fuses
  restart : t.lodge.groundsRestart = s.lodge.groundsRestart
  enabled : t.fns.map (·.enabled) = s.fns.map (·.enabled)

namespace BootsFrom

theorem refl (s : State) : BootsFrom s s := ⟨rfl, rfl, rfl⟩

theorem trans {s t u : State} (h : BootsFrom s t) (k : BootsFrom t u) : BootsFrom s u :=
  ⟨k.fuses.trans h.fuses, k.restart.trans h.restart, k.enabled.trans h.enabled⟩

theorem of_keeps {l : List Area} {s t : State} (h : Keeps l s t) (hl : l.contains .lodge = false := by rfl)
    (hf : l.contains .fns = false := by rfl) : BootsFrom s t :=
  ⟨congrArg Lodge.fuses (h.lodge hl), congrArg Lodge.groundsRestart (h.lodge hl), congrArg (List.map (·.enabled)) (h.fns hf)⟩

theorem of_quiet {s t : State} (hl : t.lodge = s.lodge) (h : Quiet s t) : BootsFrom s t := by
  refine ⟨congrArg Lodge.fuses hl, congrArg Lodge.groundsRestart hl, ?_⟩
  have hmap := congrArg (List.map (·.enabled)) h.fns
  rw [List.map_map, List.map_map] at hmap
  exact hmap

theorem nodeEvent (ev : Nat) (data : List Byte) (s : State) : BootsFrom s (nodeEvent ev data s) :=
  of_quiet (nodeEvent_keeps ..).lodge (postEventAt_quiet ..)

theorem rxPump (s : State) : BootsFrom s (rxPump s) := by
  unfold Machine.rxPump
  split
  next w ws _ =>
    split
    · exact refl s
    · have hpost : BootsFrom s { s with
          rx := { s.rx with word := w, full := true, timer := 0, waiting := ws }, lodge := { s.lodge with lastMsg := wordCmd w.toNat } } :=
        ⟨rfl, rfl, rfl⟩
      dsimp only
      split
      · exact hpost.trans (of_quiet (fire_keeps ..).lodge (fire_quiet ..))
      · exact hpost
  · exact refl s

theorem withWaiting (s : State) (ws : List W64) : BootsFrom s { s with rx := { s.rx with waiting := ws } } := ⟨rfl, rfl, rfl⟩

theorem withPhase {s t : State} (h : BootsFrom s t) (p : Phase) : BootsFrom s { t with phase := p } := ⟨h.fuses, h.restart, h.enabled⟩

theorem tried (s : State) (k : Nat) : BootsFrom s (s.tried k) := ⟨rfl, rfl, rfl⟩

theorem strapped (s : State) (b : BootIn) : BootsFrom s (s.strapped b) := ⟨rfl, rfl, rfl⟩

theorem tested (s : State) (b : BootIn) : BootsFrom s (s.tested b) := ⟨rfl, rfl, rfl⟩

theorem lodgeLoaded (s : State) (k : Bool) : BootsFrom s (s.lodgeLoaded k) := ⟨rfl, rfl, rfl⟩

theorem groundsLoaded (s : State) (k : Bool) : BootsFrom s (s.groundsLoaded k) := ⟨rfl, rfl, rfl⟩

theorem lodgePost (cmd unit_ detail : Nat) (s : State) : BootsFrom s (lodgePost cmd unit_ detail s) := by
  have hemit (xs : List Byte) (t : State) : BootsFrom t (xs.foldl (fun s b => emit (.uart b) s) t) := by
    induction xs generalizing t with
    | nil => exact refl t
    | cons x xs ih => exact trans (t := emit (.uart x) t) ⟨rfl, rfl, rfl⟩ (ih _)
  unfold Machine.lodgePost
  dsimp only
  refine trans (hemit _ s) (trans (withWaiting _ _) (rxPump _))

theorem bootFail (step unit_ : Nat) (s : State) : BootsFrom s (bootFail step unit_ s) :=
  trans ((refl s).withPhase (.failed step)) (lodgePost ..)

theorem bootGrounds (b : BootIn) (s : State) : BootsFrom s (bootGrounds b s) := by
  by_cases hs : b.stall = some 3
  · rw [bootGrounds_of_stall hs]; exact (refl s).withPhase _
  · cases hk : bootSlot s.lodge.fuses (s.tried 1).lodge.qspi 1 with
    | none => rw [bootGrounds_of_none hs hk]; exact (tried s 1).trans (bootFail ..)
    | some k => rw [bootGrounds_of_image hs hk]; exact ((tried s 1).trans (groundsLoaded ..)).withPhase _

theorem bootTest (b : BootIn) (s : State) : BootsFrom s (bootTest b s) := by
  by_cases hs : b.stall = some 2
  · rw [bootTest_of_stall hs]; exact (refl s).withPhase _
  · rw [bootTest_of_run hs]
    split
    · exact ((tested s b).trans (nodeEvent ..)).withPhase _
    · split
      · exact ((tested s b).trans (nodeEvent ..)).withPhase _
      · split
        · exact (tested s b).withPhase _
        · exact (tested s b).trans (bootGrounds ..)

theorem boot (b : BootIn) (s : State) : BootsFrom s (boot b s) := by
  by_cases h : strapsOk b.straps = true
  · by_cases hs : b.stall = some 1
    · rw [boot_of_stall h hs]; exact (strapped s b).withPhase _
    · cases hk : bootSlot s.lodge.fuses ((s.strapped b).tried 0).lodge.qspi 0 with
      | none => rw [boot_of_no_image h hs hk]; exact ((strapped s b).trans (tried ..)).trans (bootFail ..)
      | some k => rw [boot_of_image h hs hk]; exact (((strapped s b).trans (tried ..)).trans (lodgeLoaded ..)).trans (bootTest ..)
  · rw [boot_of_bad_straps (by simpa using h)]; exact (strapped s b).trans (bootFail ..)

end BootsFrom

/-! ## What a node reset makes of the state (R459, R460) -/

/-- The areas that `resetTo` speaks of are those of the other state. -/
structure ResetAlike (r t : State) : Prop where
  pwr : t.pwr = r.pwr
  works : t.works = r.works
  clk : t.clk = r.clk
  fab : t.fab = r.fab
  comp : t.comp = r.comp
  fuses : t.lodge.fuses = r.lodge.fuses
  flash : t.flash = r.flash
  ranges : t.ranges = r.ranges
  pending : t.pending = r.pending

theorem resetAlike_boot (b : BootIn) (s : State) : ResetAlike s (boot b s) :=
  have h := boot_keeps b s
  ⟨h.pwr, h.works, h.clk, h.fab, h.comp, (BootsFrom.boot b s).fuses, h.flash, h.ranges, h.pending⟩

theorem resetAlike_firmwareReset (b : BootIn) (s : State) : ResetAlike (nodeReset 3 true s) (firmwareReset b s) :=
  have h := resetAlike_boot b (nodeReset 3 true s)
  ⟨h.pwr, h.works, h.clk, h.fab, h.comp, h.fuses, h.flash, h.ranges, h.pending⟩

section
variable {s u t : State} {cause : Nat} {cfg : Bool}

theorem pages_survive (u : State) : ∀ r ∈ u.ranges.map Range.survive, ∀ g ∈ r.pages, g.st = .t3 ∧ g.durable = true := by
  intro r hr g hg
  obtain ⟨r', -, rfl⟩ := List.mem_map.mp hr
  obtain ⟨g', -, rfl⟩ := List.mem_map.mp hg
  exact ⟨rfl, rfl⟩

/-- A state that is alike the reset state of `u` is what a reset makes of `s`, when `u` keeps what outlasts it. -/
theorem resetTo_of_alike (h : ResetAlike (resetNode cause cfg u) t) (hp : u.pwr.pfailSeen = s.pwr.pfailSeen)
    (ht : u.pwr.tripped = s.pwr.tripped) (hf : u.lodge.fuses = s.lodge.fuses) (hq : u.pending = s.pending) :
    s.resetTo t cause u.flash.map := by
  refine ⟨?_, ?_, ?_, h.works, h.clk, h.fab, h.comp, h.fuses.trans hf, ?_, ?_, ?_, h.pending.trans hq⟩
  · rw [h.pwr]; rfl
  · rw [h.pwr]; exact hp
  · rw [h.pwr]; exact ht
  · rw [h.flash]; rfl
  · rw [h.flash]; rfl
  · rw [h.ranges]; exact pages_survive u

/-- A reset that writes out the update data of the pools first. -/
theorem resetTo_of_nodeReset (h : ResetAlike (nodeReset cause cfg u) t) (hp : u.pwr.pfailSeen = s.pwr.pfailSeen)
    (ht : u.pwr.tripped = s.pwr.tripped) (hf : u.lodge.fuses = s.lodge.fuses) (hq : u.pending = s.pending) :
    s.resetTo t cause (flushPools u).2.flash.map :=
  have hk := flushPools_keeps u
  resetTo_of_alike h ((congrArg Power.pfailSeen hk.pwr).trans hp) ((congrArg Power.tripped hk.pwr).trans ht)
    ((congrArg Lodge.fuses hk.lodge).trans hf) (hk.pending.trans hq)

theorem ResetAlike.refl (s : State) : ResetAlike s s := ⟨rfl, rfl, rfl, rfl, rfl, rfl, rfl, rfl, rfl⟩

theorem ResetAlike.withPhase {r t : State} (h : ResetAlike r t) (p : Phase) : ResetAlike r { t with phase := p } :=
  ⟨h.pwr, h.works, h.clk, h.fab, h.comp, h.fuses, h.flash, h.ranges, h.pending⟩

theorem enabled_fnsAfter (fs : List FnState) : (fnsAfter true fs).map (·.enabled) = fs.map (·.enabled) := by
  unfold fnsAfter
  rw [if_pos rfl, List.map_map]
  refine List.ext_getElem? fun i => ?_
  rw [List.getElem?_map, List.getElem?_map, List.getElem?_zipIdx]
  cases fs[i]? <;> rfl

/-! ## PERST_N, the host's reset, the heartbeat (R401, R459, R461, R475) -/

theorem phase_cases_of_up (h : s.phase.up = true) : s.phase ≠ .off ∧ ∀ k, s.phase ≠ .held k := by
  refine ⟨fun hp => ?_, fun k hp => ?_⟩ <;> rw [hp] at h <;> cases h

theorem doPerst_of_up {ns : Nat} (hns : 1000 ≤ ns) (hup : s.phase.up = true) :
    doPerst ns s = if s.pwr.flush.isSome then modPwr (fun p => { p with resetPending := some 1 }) s
      else { nodeReset 1 false s with phase := .held .perst } := by
  obtain ⟨hoff, hheld⟩ := phase_cases_of_up hup
  refine (if_neg (Nat.not_lt.mpr hns)).trans ?_
  split
  next hp => exact absurd hp hoff
  next hp => exact absurd hp (hheld _)
  next hp => exact absurd hp (hheld _)
  · rfl

theorem doPerst_of_down {ns : Nat} (h : s.phase = .off ∨ s.phase = .held .tripped) : doPerst ns s = s := by
  unfold doPerst
  split
  · rfl
  · rcases h with h | h <;> rw [h]

theorem doHostReset_of_flush {b : BootIn} {f : Frame} (hup : s.phase.up = true) (hr : s.pwr.rstAt = some f) (hf : f + 50 ≤ s.hfn)
    (hfl : s.pwr.flush.isSome = true) : doHostReset b s = modPwr (fun p => { p with resetPending := some 2, rstAt := none }) s := by
  unfold doHostReset
  rw [hr]
  exact (if_pos (by simp [hup, hf])).trans (if_pos hfl)

theorem doHostReset_of_no_flush {b : BootIn} {f : Frame} (hup : s.phase.up = true) (hr : s.pwr.rstAt = some f) (hf : f + 50 ≤ s.hfn)
    (hfl : s.pwr.flush = none) : doHostReset b s = boot b (nodeReset 2 false s) := by
  unfold doHostReset
  rw [hr]
  exact (if_pos (by simp [hup, hf])).trans (if_neg (by simp [hfl]))

theorem doHostReset_of_not_due {b : BootIn} (h : ∀ f, s.pwr.rstAt = some f → s.hfn < f + 50) : doHostReset b s = s := by
  unfold doHostReset
  split
  next f hf => exact if_neg (by simp [Nat.not_le.mpr (h f hf)])
  · rfl

/-- The state in which the Lodge has reported the loss of the heartbeat. -/
def State.reported (s : State) : State :=
  lodgePost 0x81 0 (s.lodge.hbAt % 2 ^ 48) { s with lodge := { s.lodge with groundsRestart := true } }

theorem doHeartbeatLost_of_due {b : BootIn} (hl : s.live = true) (ha : 50000 ≤ s.lodge.hbAge) (hr : s.pwr.resetPending = none) :
    doHeartbeatLost b s = firmwareDown b s.reported := if_pos (by simp [hl, ha, hr])

theorem doHeartbeatLost_of_early {b : BootIn} (ha : s.lodge.hbAge < 50000) : doHeartbeatLost b s = s :=
  if_neg (by simp [Nat.not_le.mpr ha])

theorem pwr_reported (s : State) : s.reported.pwr = s.pwr := (lodgePost_keeps ..).pwr

theorem bootsFrom_reported (s : State) : BootsFrom { s with lodge := { s.lodge with groundsRestart := true } } s.reported :=
  BootsFrom.lodgePost ..

theorem bootsFrom_firmwareReset (b : BootIn) (u : State) : BootsFrom u (firmwareReset b u) := by
  have hboot := BootsFrom.boot b (nodeReset 3 true u)
  have hflush : BootsFrom u (flushPools u).2 := .of_keeps (flushPools_keeps u)
  have hreset : BootsFrom (flushPools u).2 (nodeReset 3 true u) := ⟨rfl, rfl, enabled_fnsAfter _⟩
  have hlog : BootsFrom (boot b (nodeReset 3 true u)) (firmwareReset b u) := ⟨rfl, rfl, rfl⟩
  exact ((hflush.trans hreset).trans hboot).trans hlog

/-! ## Power (R457, R458) -/

theorem doPowerLoss_of_on (h : s.phase ≠ .off) : doPowerLoss s = { resetNode 0 false s with phase := .off } := by
  unfold doPowerLoss
  split
  next hp => exact absurd hp h
  · rfl

theorem doPowerLoss_of_off (h : s.phase = .off) : doPowerLoss s = s := by
  unfold doPowerLoss; rw [h]

theorem doPowerOn_of_down (b : Board) (h : s.phase = .off ∨ s.phase = .held .perst) :
    doPowerOn b s =
      let r := resetNode (if s.pwr.tripped then 4 else 0) false s
      { r with
        phase := .held .perst
        lodge := { Lodge.init b.fuses b.qspi with pvKeys := r.lodge.pvKeys, nonceN := r.lodge.nonceN }
        pwr := { r.pwr with pfailSeen := false, tripped := false, tripUnit := 0 }
        side := { r.side with strap := b.straps, strapBad := false } } := by
  unfold doPowerOn
  rcases h with h | h <;> rw [h]

end

/-- Settles O53: each reset is `resetNode` of the state with its pools written out, and the boot that may follow leaves the areas that
outlast it alone. -/
theorem nodeResets : Obligations.NodeResets := by
  unfold Obligations.NodeResets
  refine fun s => ⟨fun ns hns => ?_, fun ns hns hup hfl => ?_, fun ns hns hup hfl => ?_, fun ns h => ?_,
    fun b f hup hr hf => ⟨fun hfl => ?_, fun hfl => ?_⟩, fun b h => ?_, fun b hl ha hr => ⟨fun hfl => ?_, fun hfl => ?_⟩, fun b ha => ?_,
    fun h => ?_, fun h => ?_, fun b h => ?_⟩
  · exact congrArg Host.Outcome.next (if_pos hns)
  · exact congrArg Host.Outcome.next ((doPerst_of_up hns hup).trans (if_pos hfl))
  · refine ⟨_, congrArg Host.Outcome.next ((doPerst_of_up hns hup).trans (if_neg (by simp [hfl]))), rfl,
      resetTo_of_nodeReset ((ResetAlike.refl _).withPhase _) rfl rfl rfl rfl, rfl, ?_⟩
    exact (congrArg Lodge.qspi (flushPools_keeps s).lodge :)
  · exact congrArg Host.Outcome.next (doPerst_of_down h)
  · exact ⟨_, congrArg Host.Outcome.next (doHostReset_of_no_flush hup hr hf hfl),
      resetTo_of_nodeReset (resetAlike_boot b _) rfl rfl rfl rfl⟩
  · exact congrArg Host.Outcome.next (doHostReset_of_flush hup hr hf hfl)
  · exact congrArg Host.Outcome.next (doHostReset_of_not_due h)
  · have hnone : ¬ s.reported.pwr.flush.isSome = true := by rw [pwr_reported, hfl]; simp
    have hrep := bootsFrom_reported s
    have hfw := hrep.trans (bootsFrom_firmwareReset b s.reported)
    refine ⟨_, congrArg Host.Outcome.next ((doHeartbeatLost_of_due hl ha hr).trans (if_neg hnone)), ?_, hfw.enabled, hfw.restart⟩
    exact resetTo_of_nodeReset (u := s.reported) (resetAlike_firmwareReset b s.reported) (congrArg Power.pfailSeen (pwr_reported s))
      (congrArg Power.tripped (pwr_reported s)) hrep.fuses (lodgePost_keeps ..).pending
  · have hsome : s.reported.pwr.flush.isSome = true := by rw [pwr_reported]; exact hfl
    exact congrArg Host.Outcome.next ((doHeartbeatLost_of_due hl ha hr).trans (if_pos hsome))
  · exact congrArg Host.Outcome.next (doHeartbeatLost_of_early ha)
  · exact ⟨_, congrArg Host.Outcome.next (doPowerLoss_of_on h), rfl, resetTo_of_alike ((ResetAlike.refl _).withPhase _) rfl rfl rfl rfl⟩
  · exact congrArg Host.Outcome.next (doPowerLoss_of_off h)
  · exact ⟨_, congrArg Host.Outcome.next (doPowerOn_of_down b h), rfl, rfl, rfl, rfl, rfl, rfl, rfl, rfl, rfl⟩

end Sys2Proof.Machine

/-! # Power fail, the flush and the reference clocks (section 17) -/

namespace Sys2Proof.Machine
-- The whole text is compiled by one process of limited memory: one proof at a time keeps it small.
set_option Elab.async false

/-! ## An event does not depend on work and pages -/

/-- The state with other work items and pages. -/
def State.withWork (s : State) (ws : List Work) (rs : List Range) : State := { s with works := ws, ranges := rs }

section
variable (ws : List Work) (rs : List Range)

theorem hostWrite_withWork (f : Fn) (a : Nat) (d : List Byte) (s : State) :
    hostWrite f a d (s.withWork ws rs) = (hostWrite f a d s).withWork ws rs := by
  show (if s.fnUp f = true then _ else _) = State.withWork (if s.fnUp f = true then _ else _) ws rs
  split <;> rfl

theorem fire_withWork (f : Fn) (v : Nat) (s : State) : fire f v (s.withWork ws rs) = (fire f v s).withWork ws rs := by
  show (if s.fnUp f = true then (if bit ((s.fn f).msix.getD v Msix.reset).ctl 0 = true then _ else _) else _) =
    State.withWork (if s.fnUp f = true then (if bit ((s.fn f).msix.getD v Msix.reset).ctl 0 = true then _ else _) else _) ws rs
  split
  · split <;> rfl
  · rfl

/-- The count of an entry on the event ring, and what it may fire (R289). -/
def eqCount (f : Fn) (s : State) : State :=
  if bit (s.fn f).eq.ctl 6 then
    if ctlModCount (s.fn f).eq.ctl ≤ (s.fn f).eq.modN + 1 then
      fire f (ctlVector (s.fn f).eq.ctl) (modFn f (fun y => { y with eq := { y.eq with modN := 0, modT := none } }) s)
    else modFn f (fun y => { y with eq := { y.eq with modN := y.eq.modN + 1, modT := some (y.eq.modT.getD 0) } }) s
  else modFn f (fun y => { y with eq := { y.eq with modN := 0, modT := none } }) s

theorem eqIrq_eq (f : Fn) (s : State) : eqIrq f s = eqCount f (modFn f (fun y => { y with eq := { y.eq with irq := y.eq.ctl } }) s) := rfl

theorem eqCount_withWork (f : Fn) (s : State) : eqCount f (s.withWork ws rs) = (eqCount f s).withWork ws rs := by
  show (if bit (s.fn f).eq.ctl 6 = true then (if ctlModCount (s.fn f).eq.ctl ≤ (s.fn f).eq.modN + 1 then _ else _) else _) =
    State.withWork (if bit (s.fn f).eq.ctl 6 = true then (if ctlModCount (s.fn f).eq.ctl ≤ (s.fn f).eq.modN + 1 then _ else _) else _) ws rs
  split
  · split
    · exact fire_withWork ws rs f _ (modFn f (fun y => { y with eq := { y.eq with modN := 0, modT := none } }) s)
    · rfl
  · rfl

theorem eqIrq_withWork (f : Fn) (s : State) : eqIrq f (s.withWork ws rs) = (eqIrq f s).withWork ws rs :=
  eqCount_withWork ws rs f (modFn f (fun y => { y with eq := { y.eq with irq := y.eq.ctl } }) s)

theorem putEq_withWork (f : Fn) (e : List Byte) (s : State) : putEq f e (s.withWork ws rs) = (putEq f e s).withWork ws rs := by
  unfold putEq
  dsimp only
  rw [hostWrite_withWork]
  exact eqIrq_withWork ws rs f (modFn f _ (hostWrite f _ _ s))

theorem postEventAt_withWork (hfn : Frame) (f : Fn) (ev pv : Nat) (d : List Byte) (s : State) :
    postEventAt hfn f ev pv d (s.withWork ws rs) = (postEventAt hfn f ev pv d s).withWork ws rs := by
  show (if ((s.fn f).enabled && (s.fn f).eq.enabled) = true then (if (s.fn f).eq.n - 2 ≤ (s.fn f).eq.unreleased then _ else _) else _) =
    State.withWork (if ((s.fn f).enabled && (s.fn f).eq.enabled) = true then
      (if (s.fn f).eq.n - 2 ≤ (s.fn f).eq.unreleased then _ else _) else _) ws rs
  split
  · split
    · rfl
    · exact putEq_withWork ws rs ..
  · rfl

theorem nodeEvent_withWork (ev : Nat) (d : List Byte) (s : State) :
    nodeEvent ev d (s.withWork ws rs) = (nodeEvent ev d s).withWork ws rs := postEventAt_withWork ..

end

/-! ## The end of a flush (R261, R462) -/

section
variable {s : State}

theorem deadWork_eq (u : State) : ∃ ws rs, deadWork u = u.withWork ws rs := ⟨_, _, rfl⟩

/-- The event that ends a flush. -/
def flushEvent (s : State) : List Byte := leBytes 8 (flushPools s).1 ++ leBytes 4 ((s.hfn - s.pwr.flushStart) * 20)

/-- PFAIL_DONE is posted. -/
def State.flushPosted (s : State) : State := nodeEvent evPfailDone (flushEvent s) (deadWork (flushPools s).2)

theorem afterFlush_eq (s : State) :
    afterFlush s = modPwr (fun p => { p with flush := none, stopped := true, flushDone := false, resume := !p.pfailLow })
      (modFlash (fun f => { f with regionOk := decide (f.regionNeed ≤ f.regionErased) }) s.flushPosted) := by
  have hk := flushPools_keeps s
  have hhfn : (deadWork (flushPools s).2).hfn = s.hfn := congrArg Clock.hfn hk.clk
  have hstart : (deadWork (flushPools s).2).pwr.flushStart = s.pwr.flushStart := congrArg Power.flushStart hk.pwr
  unfold afterFlush State.flushPosted flushEvent
  dsimp only
  rw [hhfn, hstart]

theorem flushPosted_flash (s : State) : s.flushPosted.flash = (flushPools s).2.flash := (nodeEvent_keeps ..).flash

theorem flushPosted_pwr (s : State) : s.flushPosted.pwr = s.pwr := (nodeEvent_keeps ..).pwr.trans (flushPools_keeps s).pwr

/-- The work that never completes does not change what the event sends. -/
theorem flushPosted_out (s : State) : s.flushPosted.out = (nodeEvent evPfailDone (flushEvent s) (flushPools s).2).out := by
  obtain ⟨ws, rs, h⟩ := deadWork_eq (flushPools s).2
  unfold State.flushPosted
  rw [h, nodeEvent_withWork]
  rfl

theorem afterFlush_map (s : State) : (afterFlush s).flash.map = (flushPools s).2.flash.map := by
  rw [afterFlush_eq]; exact (congrArg Flash.map (flushPosted_flash s) :)

theorem afterFlush_pool (s : State) : (afterFlush s).flash.pool = [] := by
  rw [afterFlush_eq]; exact (congrArg Flash.pool (flushPosted_flash s) :)

theorem afterFlush_pending_reset (s : State) : (afterFlush s).pwr.resetPending = s.pwr.resetPending := by
  rw [afterFlush_eq]; exact (congrArg Power.resetPending (flushPosted_pwr s) :)

theorem endFlush_of_none {b : BootIn} (h : s.pwr.resetPending = none) : endFlush b .pfail s = s := by
  unfold endFlush; dsimp only; rw [h]

theorem endFlush_of_perst {b : BootIn} (h : s.pwr.resetPending = some 1) :
    endFlush b .pfail s = { resetNode 1 false s with phase := .held .perst } := by
  unfold endFlush; dsimp only; rw [h]; rfl

theorem doFlushDone_of_idle {b : BootIn} (h : s.pwr.flush = none) : doFlushDone b s = s := by
  unfold doFlushDone; rw [h]

/-! ## PFAIL_N and the reference clocks (R462, R483) -/

theorem doPfail_of_low {ns : Nat} {seen : Bool} (h : 500 ≤ ns ∨ (400 ≤ ns ∧ seen = true)) (hup : s.phase.up = true) (hf : s.pwr.flush = none)
    (hl : s.pwr.pfailLow = false) (hs : s.pwr.stopped = false) :
    doPfail ns seen s = { s with pwr := { s.pwr with pfailLow := true, flushStart := s.hfn, flushPend := some .pfail } } := by
  refine (if_pos (by simpa using h)).trans ?_
  unfold modPwr
  dsimp only
  rw [hup, hf, hl, hs]
  rfl

theorem doPfail_of_short {ns : Nat} {seen : Bool} (h : ns < 400 ∨ (ns < 500 ∧ seen = false)) : doPfail ns seen s = s := by
  refine if_neg ?_
  simp only [Bool.or_eq_true, decide_eq_true_eq, Bool.and_eq_true]
  rcases h with h | ⟨h, hs⟩
  · omega
  · simp [hs, h]

theorem doSysClk_of_running (hup : s.phase.up = true) (hf : s.pwr.flush = none) (hs : s.pwr.stopped = false) :
    doSysClk s = { s with pwr := { s.pwr with pfailSeen := true, flushPend := some .clock, flushStart := s.hfn } } := by
  refine (if_pos hup).trans ?_
  dsimp only
  refine (if_neg ?_).trans (if_neg ?_)
  · exact fun h => by rw [show (modPwr (fun p => { p with pfailSeen := true }) s).pwr.flush = none from hf] at h; simp at h
  · exact fun h => Bool.false_ne_true (hs.symm.trans h)

end

/-! ## The ports of a link die (R483) -/

/-- The lanes of a port are down, and the port settles. -/
def portDown (s : State) (i : Nat) : State := settlePort i (modPort i (fun p => { p with lanes := [false, false, false, false] }) s)

section
variable {s : State}

theorem portDown_ports {i : Nat} (h : i < s.fab.ports.length) :
    ∃ q, (portDown s i).fab.ports[i]? = some q ∧ q.lanes = [false, false, false, false] ∧
      (∀ j, j ≠ i → (portDown s i).fab.ports[j]? = s.fab.ports[j]?) ∧ (portDown s i).fab.ports.length = s.fab.ports.length := by
  have hg : s.fab.ports[i]? = some s.fab.ports[i] := List.getElem?_eq_getElem h
  obtain ⟨q, hq, rfl, hother, -⟩ := settlePort_modPort (fun p => { p with lanes := [false, false, false, false] }) hg
  refine ⟨_, hq, rfl, hother, ?_⟩
  unfold portDown
  rw [ports_settlePort (port_modPort _ hg), modifyAt_length]
  exact modifyAt_length ..

/-- A list of ports goes down: their lanes are down, and no other port changes. -/
theorem foldl_portDown (is : List Nat) (h : ∀ i ∈ is, i < s.fab.ports.length) (j : Nat) :
    (j ∉ is → (is.foldl portDown s).fab.ports[j]? = s.fab.ports[j]?) ∧
      ((j ∈ is ∨ ∃ q, s.fab.ports[j]? = some q ∧ q.lanes = [false, false, false, false]) →
        ∃ q, (is.foldl portDown s).fab.ports[j]? = some q ∧ q.lanes = [false, false, false, false]) := by
  induction is generalizing s with
  | nil => exact ⟨fun _ => rfl, fun h => h.resolve_left List.not_mem_nil⟩
  | cons i is ih =>
    obtain ⟨q, hq, hlanes, hother, hlen⟩ := portDown_ports (h i (.head _))
    obtain ⟨ih1, ih2⟩ := ih (s := portDown s i) fun k hk => by rw [hlen]; exact h k (.tail _ hk)
    refine ⟨fun hj => ?_, fun hj => ih2 ?_⟩
    · exact (ih1 fun hm => hj (.tail _ hm)).trans (hother j fun e => hj (e ▸ .head _))
    · by_cases hji : j = i
      · subst hji; exact .inr ⟨q, hq, hlanes⟩
      · rcases hj with hj | ⟨q', hq', hl'⟩
        · exact .inl ((List.mem_cons.mp hj).resolve_left hji)
        · exact .inr ⟨q', (hother j hji).trans hq', hl'⟩

theorem side_foldl_portDown (is : List Nat) (s : State) : (is.foldl portDown s).side = s.side := by
  induction is generalizing s with
  | nil => rfl
  | cons i is ih => exact (ih _).trans ((settlePort_keeps ..).side.trans (modPort_keeps ..).side)

/-- The ports of a link die. -/
def portsOfLink (ld : Nat) : List Nat := (List.range 5).map fun i => 5 * ld + i

theorem mem_portsOfLink {ld i : Nat} : i ∈ portsOfLink ld ↔ i / 5 = ld := by
  unfold portsOfLink
  rw [List.mem_map]
  refine ⟨?_, fun h => ⟨i % 5, List.mem_range.mpr (Nat.mod_lt _ (by decide)), ?_⟩⟩
  · rintro ⟨k, hk, rfl⟩
    have := List.mem_range.mp hk
    omega
  · subst h; exact Nat.div_add_mod i 5

theorem doEthLoss_of_up {ld : Nat} (hup : s.phase.up = true) :
    doEthLoss ld s = (portsOfLink ld).foldl portDown { s with side := { s.side with ethClk := modifyAt s.side.ethClk ld fun _ => false } } := by
  refine (if_pos hup).trans ?_
  unfold portsOfLink
  rw [List.foldl_map]
  rfl

theorem ethLoss_outcome {ld : Nat} (hld : ld < 4) (hup : s.phase.up = true) (hlen : s.fab.ports.length = 20) (i : Nat) :
    if i / 5 = ld then ((doEthLoss ld s).fab.ports.getD i Port.reset).lanes = [false, false, false, false]
      else (doEthLoss ld s).fab.ports.getD i Port.reset = s.fab.ports.getD i Port.reset := by
  have hin : ∀ k ∈ portsOfLink ld, k < s.fab.ports.length := fun k hk => by
    have := mem_portsOfLink.mp hk
    omega
  rw [doEthLoss_of_up hup]
  obtain ⟨h1, h2⟩ := foldl_portDown (s := { s with side := { s.side with ethClk := modifyAt s.side.ethClk ld fun _ => false } })
    (portsOfLink ld) hin i
  split
  next hi =>
    obtain ⟨q, hq, hl⟩ := h2 (.inl (mem_portsOfLink.mpr hi))
    rw [port_of_getElem? hq, hl]
  next hi =>
    rw [List.getD_eq_getElem?_getD, List.getD_eq_getElem?_getD, h1 fun hm => hi (mem_portsOfLink.mp hm)]

end

/-- Settles O55: the end of a flush is `afterFlush`, whose event does not depend on the work that it ends; the ports of a link die go down one
after another. -/
theorem powerFail : Obligations.PowerFail := by
  unfold Obligations.PowerFail
  refine fun s => ⟨fun ns seen h hup hf hl hs => ?_, fun ns seen h => ?_, fun b hf => ?_, fun b hf hr => ?_, fun b hf hr => ?_, fun b hf => ?_,
    fun b hf => ?_, fun ns hns hl => ?_, fun ns hns => ?_, fun hup hr => ?_, fun hup hf hs => ?_, fun ld hup hld hlen => ?_, fun ld => ?_⟩
  · exact congrArg Host.Outcome.next (doPfail_of_low h hup hf hl hs)
  · exact congrArg Host.Outcome.next (doPfail_of_short h)
  · exact congrArg Host.Outcome.next (doFlushDone_of_idle hf)
  · refine ⟨_, congrArg Host.Outcome.next ((doFlushDone_of_flush hf).trans (endFlush_of_none ((afterFlush_pending_reset s).trans hr))),
      afterFlush_map s, afterFlush_pool s, ?_⟩
    rw [afterFlush_eq]
    exact ⟨rfl, rfl, rfl, congrArg (fun p : Power => !p.pfailLow) (flushPosted_pwr s), flushPosted_out s⟩
  · exact ⟨_, congrArg Host.Outcome.next ((doFlushDone_of_flush hf).trans (endFlush_of_perst ((afterFlush_pending_reset s).trans hr))), rfl, rfl,
      afterFlush_map s⟩
  · exact ⟨_, congrArg Host.Outcome.next (doFlushDone_of_flush hf), rfl⟩
  · exact ⟨_, congrArg Host.Outcome.next (doFlushDone_of_flush hf), rfl, rfl⟩
  · exact congrArg Host.Outcome.next (if_pos ⟨hns, hl⟩)
  · exact congrArg Host.Outcome.next (if_neg fun h => Nat.not_le.mpr hns h.1)
  · exact congrArg Host.Outcome.next (if_pos (by rw [hup, hr]; rfl))
  · exact congrArg Host.Outcome.next (doSysClk_of_running hup hf hs)
  · refine ⟨_, rfl, ?_, fun i _ => ethLoss_outcome ld.isLt hup hlen i⟩
    exact congrArg Side.ethClk ((congrArg State.side (doEthLoss_of_up hup)).trans (side_foldl_portDown ..))
  · rfl

end Sys2Proof.Machine

/-! # Units, temperature and the power registers (sections 01, 02 and 17) -/

namespace Sys2Proof.Machine
-- The whole text is compiled by one process of limited memory: one proof at a time keeps it small.
set_option Elab.async false

section
variable {s : State} {u : Nat}

/-! ## Duty and steps (R28, R467, R470, R471) -/

theorem doThrottle_of_over {w : Nat} (hup : s.phase.up = true) (hu : u < 32) (hw : budgetW u < w) (ho : 1 ≤ (s.unit u).overN)
    (hc : (s.unit u).cutNow = false) : doThrottle u w s = modUnit u (fun x => { x with cut := min 16 (x.cut + 2), cutNow := true }) s :=
  if_pos (by simp [hup, hu, hw, ho, hc])

theorem doThrottle_of_within {w : Nat} (h : w ≤ budgetW u ∨ (s.unit u).overN = 0 ∨ (s.unit u).cutNow = true) : doThrottle u w s = s := by
  refine if_neg ?_
  rcases h with h | h | h
  · simp [Nat.not_lt.mpr h]
  · simp [h]
  · simp [h]

theorem setStep_of_same {n : Nat} (h : (s.unit u).step = n) : setStep u n s = s := if_pos h

theorem setStep_of_lower {n : Nat} (h : n < (s.unit u).step) :
    setStep u n s = nodeEvent evThermal (leBytes 1 u ++ leBytes 1 n ++ leBytes 1 (twos 8 (s.unit u).temp))
      (modUnit u (fun x => { x with step := n, cool := 0 }) s) := by
  unfold setStep
  dsimp only
  rw [if_neg (Nat.ne_of_gt h), if_neg (Nat.not_lt.mpr (Nat.le_of_lt h))]

theorem unit_modUnit {g : ThermUnit → ThermUnit} (h : u < s.pwr.units.length) : (modUnit u g s).unit u = g (s.unit u) :=
  getD_modifyAt_self _ _ _ _ h

/-- A unit whose step is set has that step, whatever it had. -/
theorem unit_setStep {n : Nat} (h : u < s.pwr.units.length) :
    ((setStep u n s).unit u).step = n ∧ ((setStep u n s).unit u).sensorFail = (s.unit u).sensorFail := by
  by_cases hn : (s.unit u).step = n
  · rw [setStep_of_same hn]; exact ⟨hn, rfl⟩
  · unfold setStep
    dsimp only
    rw [if_neg hn]
    generalize hv : (if (s.unit u).step < n then modPwr (fun p => { p with stepSeen := true })
      (modUnit u (fun x => { x with step := n, cool := 0 }) s) else modUnit u (fun x => { x with step := n, cool := 0 }) s) = v
    have hunits : v.pwr.units = (modUnit u (fun x => { x with step := n, cool := 0 }) s).pwr.units := by
      rw [← hv]; split <;> rfl
    have hpost : ((nodeEvent evThermal (leBytes 1 u ++ leBytes 1 n ++ leBytes 1 (twos 8 (s.unit u).temp)) v).unit u) =
        { s.unit u with step := n, cool := 0 } := by
      unfold State.unit
      rw [(nodeEvent_keeps ..).pwr, hunits]
      exact unit_modUnit h
    rw [hpost]
    exact ⟨rfl, rfl⟩

theorem coolNeed_eq (u : Nat) : coolNeed u = if u < 32 then 64 else 16 := by
  unfold coolNeed isStack
  by_cases h : u < 32
  · rw [if_pos h, if_neg (by simpa using h)]
  · rw [if_neg h, if_pos (by simpa using h)]

theorem lowStep_eq (u : Nat) : (if isStack u then 1 else 0) = if u < 32 then 0 else 1 := by
  unfold isStack
  by_cases h : u < 32
  · rw [if_pos h, if_neg (by simpa using h)]
  · rw [if_neg h, if_pos (by simpa using h)]

theorem doStepDown_of_cool (hup : s.phase.up = true) (hu : u < 48) (hs : s.clk.slot = none) (hf : (s.unit u).sensorFail = false)
    (hc : coolNeed u ≤ (s.unit u).cool) (hl : (if isStack u then 1 else 0) < (s.unit u).step) :
    doStepDown u s = nodeEvent evThermal (leBytes 1 u ++ leBytes 1 ((s.unit u).step - 1) ++ leBytes 1 (twos 8 (s.unit u).temp))
      (modUnit u (fun x => { x with step := (s.unit u).step - 1, cool := 0 }) s) := by
  have hpos : (s.unit u).step - 1 < (s.unit u).step := Nat.sub_lt (Nat.zero_lt_of_lt hl) Nat.one_pos
  refine (if_pos ?_).trans (setStep_of_lower hpos)
  rw [hup, decide_eq_true hu, hs, hf, decide_eq_true hc, decide_eq_true hl]
  rfl

theorem doStepDown_of_warm (h : (s.unit u).cool < coolNeed u) : doStepDown u s = s :=
  if_neg (by simp [Nat.not_le.mpr h])

/-- A stack leaves doubled refresh, and the step that goes with it. -/
theorem doRefreshExit_of_cool {st : Nat} (hup : s.phase.up = true) (hs : s.clk.slot = none) (hd : (s.scan.st.getD st Stack.reset).doubled = true)
    (hc : 16 ≤ (s.scan.st.getD st Stack.reset).cool) (h1 : (s.unit (32 + st)).step ≤ 1) :
    doRefreshExit st s = setStep (32 + st) 0 (modStack st (fun k => { k with doubled := false, cool := 0 }) s) :=
  if_pos (by rw [hup, hs, hd, decide_eq_true hc, decide_eq_true h1]; rfl)

/-! ## Trips (R464, R472) -/

/-- The state with the trip noted and the storage die's pool lost. -/
def State.tripNoted (s : State) (u : Nat) : State :=
  let s := modPwr (fun p => { p with tripUnit := if p.tripped then p.tripUnit else u, tripped := true }) s
  if u = 28 ∨ u = 29 then modFlash (fun f => { f with pool := f.pool.filter (·.sd != u - 28) }) s else s

theorem tripNoted_pwr (s : State) (u : Nat) :
    (s.tripNoted u).pwr = { s.pwr with tripUnit := if s.pwr.tripped then s.pwr.tripUnit else u, tripped := true } := by
  unfold State.tripNoted; dsimp only; split <;> rfl

theorem tripNoted_of_first (h : s.pwr.tripped = false) :
    s.tripNoted u = { s with
      pwr := { s.pwr with tripUnit := u, tripped := true }
      flash := if u = 28 ∨ u = 29 then { s.flash with pool := s.flash.pool.filter (·.sd != u - 28) } else s.flash } := by
  unfold State.tripNoted modPwr modFlash
  dsimp only
  rw [h]
  split <;> rfl

theorem doTrip_of_hot (hup : s.phase.up = true) (hu : u < 48) (ht : 2 ≤ (s.unit u).tripN) :
    doTrip u s = if (s.tripNoted u).pwr.flush.isSome then modPwr (fun p => { p with flush := some .trip }) (s.tripNoted u)
      else if (s.tripNoted u).pwr.stopped then
        modPwr (fun p => { p with thermTripN := false }) { resetNode (s.tripNoted u).pwr.cause false (s.tripNoted u) with phase := .held .tripped }
      else modPwr (fun p => { p with flushPend := some .trip, flushStart := s.hfn }) (s.tripNoted u) := by
  have hhfn : (s.tripNoted u).hfn = s.hfn := by unfold State.tripNoted; dsimp only; split <;> rfl
  refine (if_pos (by simp [hup, hu, ht])).trans ?_
  rw [← hhfn]
  rfl

theorem doTrip_of_cool (ht : (s.unit u).tripN < 2) : doTrip u s = s := if_neg (by simp [Nat.not_le.mpr ht])

/-! ## Sensors (R469) -/

theorem doStuck_of_sensor {k : Nat} (hup : s.phase.up = true) (hu : u < 48) (hk : k < sensorsOf u) :
    doStuck u k s =
      let t := modUnit u (fun x => { x with stuck := dedupKeep (x.stuck ++ [k]) }) s
      if (t.unit u).stuck.length = sensorsOf u then setStep u (topStep u) (modUnit u (fun x => { x with sensorFail := true }) t) else t :=
  if_pos (by simp [hup, hu, hk])

theorem stuck_modUnit {k : Nat} (hlen : u < s.pwr.units.length) :
    ((modUnit u (fun x => { x with stuck := dedupKeep (x.stuck ++ [k]) }) s).unit u).stuck = dedupKeep ((s.unit u).stuck ++ [k]) :=
  congrArg ThermUnit.stuck (unit_modUnit hlen)

theorem doStuck_of_some {k : Nat} (hup : s.phase.up = true) (hu : u < 48) (hk : k < sensorsOf u) (hlen : u < s.pwr.units.length)
    (hn : (dedupKeep ((s.unit u).stuck ++ [k])).length ≠ sensorsOf u) :
    doStuck u k s = modUnit u (fun x => { x with stuck := dedupKeep (x.stuck ++ [k]) }) s :=
  (doStuck_of_sensor hup hu hk).trans (if_neg (by rw [stuck_modUnit hlen]; exact hn))

/-- With its last sensor gone a unit takes its highest step. -/
theorem doStuck_of_last {k : Nat} (hup : s.phase.up = true) (hu : u < 48) (hk : k < sensorsOf u) (hlen : u < s.pwr.units.length)
    (hn : (dedupKeep ((s.unit u).stuck ++ [k])).length = sensorsOf u) :
    ((doStuck u k s).unit u).step = topStep u ∧ ((doStuck u k s).unit u).sensorFail = true := by
  rw [doStuck_of_sensor hup hu hk]
  dsimp only
  rw [if_pos (by rw [stuck_modUnit hlen]; exact hn)]
  have hlen1 : u < (modUnit u (fun x => { x with stuck := dedupKeep (x.stuck ++ [k]) }) s).pwr.units.length :=
    (modifyAt_length ..).symm ▸ hlen
  have hlen2 : u < (modUnit u (fun x => { x with sensorFail := true })
      (modUnit u (fun x => { x with stuck := dedupKeep (x.stuck ++ [k]) }) s)).pwr.units.length := (modifyAt_length ..).symm ▸ hlen1
  obtain ⟨h1, h2⟩ := unit_setStep (n := topStep u) hlen2
  exact ⟨h1, h2.trans (congrArg ThermUnit.sensorFail (unit_modUnit hlen1))⟩

end

/-- Settles O56: a unit's readings decide its duty, its step and the trip; the registers are their range tests. -/
theorem thermalAndPower : Obligations.ThermalAndPower := by
  unfold Obligations.ThermalAndPower
  refine fun s hup => ⟨fun u w hu hw ho hc => ?_, fun u w h => ?_, fun u hu ht => ⟨fun hf hs htr => ?_, fun hf htr => ?_, fun hf hs => ?_⟩,
    fun u ht => ?_, fun u hu hs hf hc hl => ?_, fun u hc => ?_, fun st hs hd hc => ⟨fun h0 => ?_, fun h1 => ?_⟩,
    fun u k hu hk hlen => ⟨fun hn => ?_, fun hn => ?_⟩,
    fun v hb => ⟨fun h => ?_, fun h => ?_, fun h => ?_, fun h => ?_, fun h => ?_, fun h => ?_⟩⟩
  · exact congrArg Host.Outcome.next (doThrottle_of_over hup hu hw ho hc)
  · exact congrArg Host.Outcome.next (doThrottle_of_within h)
  · refine congrArg Host.Outcome.next ((doTrip_of_hot hup hu ht).trans ?_)
    rw [tripNoted_of_first htr]
    exact (if_neg (by simp [hf])).trans (if_neg (by simp [hs]))
  · refine congrArg Host.Outcome.next ((doTrip_of_hot hup hu ht).trans ?_)
    rw [tripNoted_of_first htr]
    exact if_pos hf
  · have hpwr := tripNoted_pwr s u
    refine ⟨_, congrArg Host.Outcome.next ((doTrip_of_hot hup hu ht).trans ((if_neg ?_).trans (if_pos ?_))), rfl, rfl, ?_⟩
    · rw [hpwr]; simp [hf]
    · rw [hpwr]; exact hs
    · exact congrArg Power.tripped hpwr
  · exact congrArg Host.Outcome.next (doTrip_of_cool ht)
  · exact congrArg Host.Outcome.next (doStepDown_of_cool hup hu hs hf (by rw [coolNeed_eq]; exact hc) (by rw [lowStep_eq]; exact hl))
  · exact congrArg Host.Outcome.next (doStepDown_of_warm (by rw [coolNeed_eq]; exact hc))
  · exact congrArg Host.Outcome.next ((doRefreshExit_of_cool hup hs hd hc (by rw [h0]; exact Nat.zero_le 1)).trans
      (setStep_of_same (s := modStack st.val (fun k => { k with doubled := false, cool := 0 }) s) h0))
  · exact congrArg Host.Outcome.next ((doRefreshExit_of_cool hup hs hd hc (Nat.le_of_eq h1)).trans
      (setStep_of_lower (s := modStack st.val (fun k => { k with doubled := false, cool := 0 }) s) (n := 0) (h1 ▸ Nat.one_pos)))
  · exact congrArg Host.Outcome.next (doStuck_of_some hup hu hk hlen hn)
  · exact ⟨_, rfl, doStuck_of_last hup hu hk hlen hn⟩
  · simp only [exec_pwrCapWrite v hb, if_pos h, modPwr]
  · simp only [exec_pwrCapWrite v hb, if_neg (by omega : ¬(400 ≤ fld v 10 0 ∧ fld v 10 0 ≤ 1500 ∧ 1 ≤ fld v 19 12)), modPwr]
  · simp only [exec_thermCfgWrite v hb, if_pos h, modPwr]
  · simp only [exec_thermCfgWrite v hb,
      if_neg (by omega : ¬(85 ≤ fld v 7 0 ∧ fld v 7 0 ≤ 105 ∧ 86 ≤ fld v 15 8 ∧ fld v 15 8 ≤ 92)), modPwr]
  · obtain ⟨hrst, hkey, hnone⟩ := h
    exact congrArg Host.Outcome.next (writeReset_of_accepted hb hrst hkey hnone)
  · exact congrArg Host.Outcome.next (writeReset_of_ignored s h)

end Sys2Proof.Machine

/-! # O57: management traffic, consoles, the TAP, sideband registers and the promenade's links -/

namespace Sys2Proof.Machine
-- The whole text is compiled by one process of limited memory: one proof at a time keeps it small.
set_option Elab.async false

/-! ## SMBus, MCTP and PLDM -/

/-- A hardware read answers one byte whenever there is power. -/
theorem smbRead_of_power {s : State} (v : Nat) (h : s.phase ≠ .off) : smbRead v s = emit (.smbus (leBytes 1 v)) s := if_neg h

theorem smbRead_of_off {s : State} (v : Nat) (h : s.phase = .off) : smbRead v s = s := if_pos h

theorem mctp_of_up {s : State} (data : List Byte) (h : s.groundsUp = true) : mctp data s = emit (.smbus (0#8 :: data)) s := if_pos h

/-- What a PLDM reading answers: the value, or that there is no such reading. -/
def State.reading (s : State) (k : Nat) : List Byte :=
  match s.sensor k with
  | some v => 0#8 :: leBytes 4 (twos 32 v)
  | none => [1#8]

theorem doPldm_of_reading {s : State} {q : PldmReq} (hup : s.groundsUp = true) (ht : q.type_ = 2) (hq : q.setThreshold = none) :
    doPldm q s = emit (.smbus (s.reading q.sensor)) s := by
  unfold doPldm State.reading
  rw [if_pos hup, if_neg (by rw [ht]; decide), if_pos ht, hq]
  cases s.sensor q.sensor <;> rfl

theorem doPldm_of_threshold {s : State} {q : PldmReq} {v : Int} (hup : s.groundsUp = true) (ht : q.type_ = 2)
    (hq : q.setThreshold = some v) : doPldm q s = emit (.smbus [0#8])
      { s with side := { s.side with thresholds := (s.side.thresholds.filter (·.1 != q.sensor)) ++ [(q.sensor, v)] } } := by
  unfold doPldm
  rw [if_pos hup, if_neg (by rw [ht]; decide), if_pos ht, hq]

/-! ## The poll of the regulators -/

/-- The reading of a regulator is bad: it did not answer, or its status byte is not 0. -/
def badReading (r : RegRead) : Bool := match r.vals with | some (_, _, _, st) => st != 0 | none => true

/-- What a poll has of regulator `i`. -/
def State.polled (s : State) (regs : List RegRead) (i : Nat) : RegRead :=
  (regs.find? (·.addr == fld s.side.pmbCfg 6 0 + i)).getD ⟨fld s.side.pmbCfg 6 0 + i, none⟩

/-- The sideband after a poll that had these readings. -/
def Side.afterPoll (x : Side) (got : List RegRead) : Side :=
  { x with
    pmbExtra := false, pmbFault := x.pmbFault || got.any badReading
    regs := got.map fun r => if badReading r then { r with vals := none } else r }

theorem doPoll_of_due {s : State} (regs : List RegRead) (hlive : s.live = true) (hslot : s.clk.slot = none)
    (hdue : s.hfn % 50000 = 0 ∨ s.side.pmbExtra = true) :
    doPoll regs s = { s with side := s.side.afterPoll ((List.range (fld s.side.pmbCfg 11 8)).map (s.polled regs)) } :=
  if_pos (by simpa [hlive, hslot] using hdue)

theorem doPoll_of_early {s : State} (regs : List RegRead) (h : s.hfn % 50000 ≠ 0) (hx : s.side.pmbExtra = false) : doPoll regs s = s :=
  if_neg (by simp [h, hx])

/-- A poll of no regulator leaves no reading. -/
theorem afterPoll_nil (x : Side) : x.afterPoll [] = { x with pmbExtra := false, regs := [] } := by simp [Side.afterPoll]

theorem afterPoll_good {x : Side} {r : RegRead} (h : badReading r = false) :
    x.afterPoll [r] = { x with pmbExtra := false, regs := [r] } := by simp [Side.afterPoll, h]

theorem afterPoll_silent (x : Side) (a : Nat) :
    x.afterPoll [⟨a, none⟩] = { x with pmbExtra := false, pmbFault := true, regs := [⟨a, none⟩] } := by simp [Side.afterPoll, badReading]

section
variable {s : State} {regs : List RegRead} (hlive : s.live = true) (hslot : s.clk.slot = none)
  (hdue : s.hfn % 50000 = 0 ∨ s.side.pmbExtra = true)
include hlive hslot hdue

theorem doPoll_of_no_regulator (hn : fld s.side.pmbCfg 11 8 = 0) :
    doPoll regs s = { s with side := { s.side with pmbExtra := false, regs := [] } } := by
  rw [doPoll_of_due regs hlive hslot hdue, hn]
  exact congrArg (fun x => { s with side := x }) (afterPoll_nil s.side)

/-- With one regulator the poll takes what that one answered. -/
theorem doPoll_of_one_regulator (hn : fld s.side.pmbCfg 11 8 = 1) : doPoll regs s = { s with side := s.side.afterPoll [s.polled regs 0] } := by
  rw [doPoll_of_due regs hlive hslot hdue, hn]
  rfl

theorem doPoll_of_answer (hn : fld s.side.pmbCfg 11 8 = 1) {a b c : Nat} (hr : regs = [⟨fld s.side.pmbCfg 6 0, some (a, b, c, 0)⟩]) :
    doPoll regs s = { s with side := { s.side with pmbExtra := false, regs := regs } } := by
  have hpolled : s.polled regs 0 = ⟨fld s.side.pmbCfg 6 0, some (a, b, c, 0)⟩ := by simp [State.polled, hr]
  rw [doPoll_of_one_regulator hlive hslot hdue hn, hpolled, afterPoll_good rfl, hr]

theorem doPoll_of_silence (hn : fld s.side.pmbCfg 11 8 = 1) (hr : regs = []) :
    doPoll regs s = { s with side :=
      { s.side with pmbExtra := false, pmbFault := true, regs := [⟨fld s.side.pmbCfg 6 0, none⟩] } } := by
  rw [doPoll_of_one_regulator hlive hslot hdue hn, hr]
  exact congrArg (fun x => { s with side := x }) (afterPoll_silent s.side _)

end

/-! ## Consoles and the TAP -/

theorem lodgeUp_of_live {s : State} (h : s.live = true) : s.lodgeUp = true := by
  unfold State.lodgeUp
  rw [eq_of_beq h]

theorem groundsUp_of_live {s : State} (h : s.live = true) : s.groundsUp = true := Bool.or_eq_true_iff.2 (.inl h)

/-- The consoles and the TAP are open in TEST and RETURNED. -/
theorem jtagOpen_iff (lc : Nat) : jtagOpen lc = true ↔ lc = 1 ∨ lc = 3 := by simp [jtagOpen]

/-- A console's byte is lost when its stop bit is bad or the console is closed. -/
theorem doUart_of_lost {s : State} (port : Nat) (b : Byte) {stop : Bool} (h : stop = false ∨ jtagOpen s.lodge.lc = false) :
    doUart port b stop s = s := by
  refine if_neg fun hc => ?_
  obtain ⟨hc, hopen⟩ := Bool.and_eq_true_iff.1 hc
  obtain ⟨-, hstop⟩ := Bool.and_eq_true_iff.1 hc
  exact h.elim (fun h => Bool.false_ne_true (h.symm.trans hstop)) fun h => Bool.false_ne_true (h.symm.trans hopen)

theorem doUart_of_open {s : State} (port : Nat) (b : Byte) (hl : s.live = true) (ho : jtagOpen s.lodge.lc = true) :
    doUart port b true s = emit (.internal (if port = 0 then "UART0 RX" else "UART1 RX") b.toNat) s := by
  refine if_pos (Bool.and_eq_true_iff.2 ⟨?_, ho⟩)
  rw [lodgeUp_of_live hl, groundsUp_of_live hl, ite_self]
  rfl

theorem doJtag_of_open {s : State} (x : Nat) (hl : s.live = true) (ho : jtagOpen s.lodge.lc = true) :
    doJtag x s = emit (.jtag x) s := if_pos (Bool.and_eq_true_iff.2 ⟨by rw [eq_of_beq hl]; rfl, ho⟩)

theorem doJtag_of_closed {s : State} (x : Nat) (ho : jtagOpen s.lodge.lc = false) : doJtag x s = s := if_neg (by simp [ho])

/-! ## LSR_EN -/

theorem lsrEn_of_live {s : State} (p : Nat) (h : s.live = true) :
    s.lsrEn p = some (bit (s.fab.ports.getD p Port.reset).eff 0 && !s.flushing) := by
  unfold State.lsrEn
  rw [eq_of_beq h]

theorem lsrEn_of_held {s : State} (p : Nat) (h : s.phase = .held .clock ∨ s.phase = .held .tripped) : s.lsrEn p = some false := by
  unfold State.lsrEn
  rcases h with h | h <;> rw [h]

/-! ## The promenade's links -/

/-- A module retrains, and counts once. -/
def State.retrained (s : State) (c m : Nat) : State := count none 4 1 1 (modModule c m (fun x => { x with retraining := true }) s)

theorem doRetrain_of_noisy {s : State} {c m : Nat} (items : Nat) (qids works : List Nat) (hlive : s.live = true) (hslot : s.clk.slot = none)
    (hr : 16 < (s.module c m).retries) (hn : (s.module c m).retraining = false) :
    doRetrain c m items qids works s = if (s.retrained c m).connUp c then s.retrained c m
      else connDown c ((s.retrained c m).crossed items qids works) (s.retrained c m) :=
  if_pos (by simp [hlive, hslot, hr, hn])

theorem doRetrain_of_still {s : State} {c m : Nat} (items : Nat) (qids works : List Nat)
    (h : (s.module c m).retries ≤ 16 ∨ (s.module c m).retraining = true) : doRetrain c m items qids works s = s := by
  refine if_neg fun hc => ?_
  obtain ⟨hc, hidle⟩ := Bool.and_eq_true_iff.1 hc
  obtain ⟨-, hnoisy⟩ := Bool.and_eq_true_iff.1 hc
  rcases h with h | h
  · exact absurd (of_decide_eq_true hnoisy) (by omega)
  · rw [h] at hidle; cases hidle

/-- With another module that does not retrain the connection stays up. -/
theorem connUp_retrained {s : State} {c m k : Nat} (hk : k ≠ m) (hlen : k < (s.mods.getD c []).length)
    (hup : (s.module c k).retraining = false) : (s.retrained c m).connUp c = true := by
  have hmods : (s.retrained c m).mods.getD c [] = modifyAt (s.mods.getD c []) m fun x => { x with retraining := true } :=
    getD_modifyAt_self _ _ _ _ (Nat.lt_of_not_le fun hge => by simp [hge] at hlen)
  have hmod : (modifyAt (s.mods.getD c []) m fun x => { x with retraining := true })[k]? = some (s.module c k) := by
    rw [getElem?_modifyAt_of_ne _ _ hk, List.getElem?_eq_getElem hlen]
    exact congrArg some (List.getD_eq_getElem _ _ hlen).symm
  refine Bool.or_eq_true_iff.2 (.inr (List.any_eq_true.2 ⟨s.module c k, ?_, by rw [hup]; rfl⟩))
  rw [hmods]
  exact List.mem_of_getElem? hmod

/-- A search die's last module is down: its jobs go to the quadrant's next die, and each counts as reissued. -/
theorem connDown_of_search {u : State} {c d : Nat} {ds : List Nat} (n : Nat) (hc : c < 24) (hd : u.quadDies (c / 6) = d :: ds) :
    connDown c n u = count none 4 2 (u.scan.batches.flatMap fun b => b.jobs.filter (·.die == c)).length { u with scan := { u.scan with
      batches := u.scan.batches.map fun b => { b with
        jobs := mapIf (fun j => j.die == c) (fun j => { j with die := d, eng := (u.die d).engs.headD 0 }) b.jobs } } } := by
  unfold connDown leaveDie
  rw [if_pos hc, hd]
  rfl

/-- Settles O57: each answer by its guard; a poll by its count; a retraining module by whether its connection has another. -/
theorem sidebandAndPromenade : Obligations.SidebandAndPromenade := by
  unfold Obligations.SidebandAndPromenade
  refine ⟨fun s => ⟨fun h => ⟨?_, ?_, ?_⟩, fun h => ⟨?_, ?_, ?_⟩,
      fun h => ⟨fun e => ?_, ?_, ?_, ?_, ?_, fun q ht hq => ?_, fun q v ht hq => ?_⟩,
      fun regs hl hs hd hn => ?_, fun regs hl hs hd hn => ⟨fun a b c hr => ?_, fun hr => ?_⟩, fun regs h hx => ?_, fun h => ?_,
      fun b hl => ⟨fun ho => ⟨?_, ?_, fun port => ?_, fun x => ?_⟩, fun h1 h3 => ⟨fun port stop => ?_, fun x => ?_⟩⟩⟩,
    fun s => ⟨fun v hb => ⟨?_, ?_, fun h => ?_, fun h => ?_⟩, fun p => ⟨fun hl hf => ?_, fun hl hf => ?_, fun h => ?_⟩,
      fun c m n qids works hl hs hr hn => ⟨fun ⟨k, hk, hlen, hup⟩ => ?_, fun d ds hc hdown hd => ?_⟩,
      fun c m n qids works h => ?_, fun c m => ?_⟩⟩
  · exact congrArg Host.Outcome.next (smbRead_of_power _ h)
  · exact congrArg Host.Outcome.next (smbRead_of_power _ h)
  · exact congrArg Host.Outcome.next (smbRead_of_power _ h)
  · exact congrArg Host.Outcome.next (smbRead_of_off _ h)
  · exact congrArg Host.Outcome.next (smbRead_of_off _ h)
  · exact congrArg Host.Outcome.next (smbRead_of_off _ h)
  · exact congrArg Host.Outcome.next ((if_pos h).trans (mctp_of_up _ h))
  · exact congrArg Host.Outcome.next (mctp_of_up _ h)
  · exact congrArg Host.Outcome.next (mctp_of_up _ h)
  · exact congrArg Host.Outcome.next ((if_pos h).trans ((if_pos (by decide)).trans (mctp_of_up _ h)))
  · exact congrArg Host.Outcome.next ((if_pos h).trans (if_neg (by decide)))
  · exact congrArg Host.Outcome.next (doPldm_of_reading h ht hq)
  · exact congrArg Host.Outcome.next (doPldm_of_threshold h ht hq)
  · exact congrArg Host.Outcome.next (doPoll_of_no_regulator hl hs hd hn)
  · exact congrArg Host.Outcome.next (doPoll_of_answer hl hs hd hn hr)
  · exact congrArg Host.Outcome.next (doPoll_of_silence hl hs hd hn hr)
  · exact congrArg Host.Outcome.next (doPoll_of_early regs h hx)
  · exact congrArg Host.Outcome.next (if_pos h)
  · exact congrArg Host.Outcome.next (doUart_of_open 0 b hl ((jtagOpen_iff _).2 ho))
  · exact congrArg Host.Outcome.next (doUart_of_open 1 b hl ((jtagOpen_iff _).2 ho))
  · exact congrArg Host.Outcome.next (doUart_of_lost port b (.inl rfl))
  · exact congrArg Host.Outcome.next (doJtag_of_open x hl ((jtagOpen_iff _).2 ho))
  · exact congrArg Host.Outcome.next (doUart_of_lost port b (.inr (Bool.eq_false_iff.2 fun hc => ((jtagOpen_iff _).1 hc).elim h1 h3)))
  · exact congrArg Host.Outcome.next (doJtag_of_closed x (Bool.eq_false_iff.2 fun hc => ((jtagOpen_iff _).1 hc).elim h1 h3))
  · exact exec_gpioWrite false v hb
  · exact exec_gpioWrite true v hb
  · rw [exec_pmbCfgWrite v hb, if_pos h]
  · rw [exec_pmbCfgWrite v hb, if_neg (by omega)]
  · rw [lsrEn_of_live p hl, hf, Bool.not_false, Bool.and_true]
  · rw [lsrEn_of_live p hl, hf, Bool.not_true, Bool.and_false]
  · exact lsrEn_of_held p h
  · exact congrArg Host.Outcome.next ((doRetrain_of_noisy n qids works hl hs hr hn).trans (if_pos (connUp_retrained hk hlen hup)))
  · exact congrArg Host.Outcome.next ((doRetrain_of_noisy n qids works hl hs hr hn).trans
      ((if_neg (Bool.eq_false_iff.1 hdown)).trans (connDown_of_search _ hc hd)))
  · exact congrArg Host.Outcome.next (doRetrain_of_still n qids works h)
  · rfl

end Sys2Proof.Machine
